-- ==== Sys2Proof/Word.lean ====
section
/-! DEFINITION. The word types of the model and their plainest arithmetic. -/

namespace Sys2Proof

/-- One byte. -/
abbrev Byte := BitVec 8

/-- A register of the part (R5: every register is 32 bits wide). -/
abbrev W32 := BitVec 32

/-- sns in one nanosecond (R1: 1 sns = 2^-16 ns). -/
abbrev snsPerNs : Nat := 65536

/-- Nanoseconds in one second. -/
abbrev nsPerSec : Nat := 1000000000

/-- sns in one second. -/
abbrev snsPerSec : Nat := 65536000000000

/-- A time word (R1): `t` is SEC, NS and SNS as one count of sns since the PTP epoch, `v` and `l` are bits 1 and 0.
SEC, NS and SNS are read from it by division, so NS is below 10^9 in every value of the type. -/
structure TimeWord where
  t : Nat
  v : Bool
  l : Bool
  deriving DecidableEq, Repr, Inhabited

namespace TimeWord

/-- SEC, 48 bits. -/
def sec (w : TimeWord) : Nat := w.t / snsPerSec % 2 ^ 48

/-- NS, 0 to 999,999,999. -/
def ns (w : TimeWord) : Nat := w.t / snsPerNs % nsPerSec

/-- SNS, 0 to 65,535. -/
def sns (w : TimeWord) : Nat := w.t % snsPerNs

/-- The 96-bit layout of R1. -/
def toBits (w : TimeWord) : BitVec 96 :=
  BitVec.ofNat 96 (w.sec * 2 ^ 48 + w.ns * 2 ^ 18 + w.sns * 4 + (if w.v then 2 else 0) + (if w.l then 1 else 0))

end TimeWord

/-- Bits `hi` down to `lo` of a word, as a number. -/
def bitsOf (w : W32) (hi lo : Nat) : Nat := w.toNat / 2 ^ lo % 2 ^ (hi + 1 - lo)

/-- Bit `i` of a word. -/
def bitAt (w : W32) (i : Nat) : Bool := w.toNat / 2 ^ i % 2 == 1

/-- A number read as a signed quantity of `n` bits (two's complement, R4). -/
def signed (n v : Nat) : Int :=
  if v % 2 ^ n < 2 ^ (n - 1) then (v % 2 ^ n : Nat) else (v % 2 ^ n : Nat) - (2 ^ n : Nat)

/-- A signed quantity as an `n`-bit two's-complement number. -/
def unsigned (n : Nat) (v : Int) : Nat := (v % (2 ^ n : Nat)).toNat

/-- A quantity held to the range of a signed `n`-bit field. -/
def satS (n : Nat) (v : Int) : Int :=
  max (-(2 ^ (n - 1) : Nat) : Int) (min ((2 ^ (n - 1) : Nat) - 1 : Int) v)

/-- The symmetric saturation at ±(2^(n−1) − 1) (R113, R127, R586). -/
def satSym (n : Nat) (v : Int) : Int :=
  max (-((2 ^ (n - 1) : Nat) - 1 : Int)) (min ((2 ^ (n - 1) : Nat) - 1 : Int) v)

/-- A Boolean as one bit. -/
def b01 (b : Bool) : Nat := if b then 1 else 0

/-- Ceiling division. -/
def ceilDiv (a b : Nat) : Nat := (a + b - 1) / b

/-- `n` bytes of `v`, least significant first. -/
def leBytes (n v : Nat) : List Byte := (List.range n).map fun i => BitVec.ofNat 8 (v / 2 ^ (8 * i))

/-- `n` bytes of `v`, most significant first. -/
def beBytes (n v : Nat) : List Byte := (leBytes n v).reverse

/-- The number that bytes spell, least significant first. -/
def ofLe (bs : List Byte) : Nat := bs.foldr (fun b a => b.toNat + 256 * a) 0

/-- The number that bytes spell, most significant first. -/
def ofBe (bs : List Byte) : Nat := bs.foldl (fun a b => a * 256 + b.toNat) 0

/-- `n` bytes of a list from position `i`. -/
def slice (bs : List Byte) (i n : Nat) : List Byte := (bs.drop i).take n

/-- A list with its element at `i` changed by `f` (unchanged where `i` lies beyond it). -/
def updAt {α : Type} (xs : List α) (i : Nat) (f : α → α) : List α := xs.modify i f

/-- A list with its element at `i` put to `a`. -/
def putAt {α : Type} (xs : List α) (i : Nat) (a : α) : List α := xs.set i a

/-- `n` zero bytes. -/
def zeros (n : Nat) : List Byte := List.replicate n 0

/-- A list filled with zero bytes to length `n`, or cut there. -/
def padTo (n : Nat) (bs : List Byte) : List Byte := (bs ++ zeros (n - bs.length)).take n

end Sys2Proof
end

