-- ==== Sys2Proof/Syntax.lean ====
section
/-! DEFINITION. The commands of the block: one constructor for each row of spec/opcode_table.json, with the operands
that the row's event carries from outside (an access path, a value, a frame, a measurement). -/

namespace Sys2Proof

/-- The access paths to the registers (R102, R612): BAR0, and Otarn with the mailbox (R625). -/
inductive Path where
  | host | otarn
  deriving DecidableEq, Repr

/-- The blocks that have commit registers (R87). -/
inductive CmtBlk where
  | mac (n : Nat) | stk | wv | tac | ref | srv | out | gns | ptp | pke | sym | bst | fmu | pmc | mgt | hif
  deriving DecidableEq, Repr

/-- The sixteen outputs (chapter Clock, pulse and time-of-day outputs). -/
inductive OutId where
  | clk (n : Nat) | pps (m : Nat) | tod | gpps
  deriving DecidableEq, Repr

/-- The clock domains that the monitors count (R562). -/
inductive ClkDom where
  | time | weft | core | mgt | srdRx (n : Nat) | srdTx (n : Nat) | gnss | pcie | qspi | clkout (n : Nat)
  deriving DecidableEq, Repr

/-- The five rails (R25), in the order of R568. -/
inductive Rail where
  | core | time | srd | io | tac
  deriving DecidableEq, Repr

/-- What a reference measurement brings: a selected edge of a REFIN with its TAC code, or the phase z delivered by the
source itself (sns, reference time minus Warp time). -/
inductive RefIn where
  | edge (code : Nat)
  | phase (z : Int)
  deriving DecidableEq, Repr

/-- Why an activity monitor declares its reference inactive (R191). -/
inductive ActKind where
  | deadline | epoch | grandmaster | esmc | link
  deriving DecidableEq, Repr

/-- One Stake calibration at one speed (R414): its three sets of 1,024 measurements in sns, and the phase of the transmit word
clock against CLK_TIME. -/
structure StakeCal where
  roundTrip : List Nat
  transmit : List Nat
  replica : List Nat
  txPhase : Nat
  deriving DecidableEq, Repr

/-- A satellite's signal that placement may serve (R281, R293): its elevation, and the Doppler (mHz) and code phase (half chips) that
its ephemeris predicts; all three count only where the data they come from is at hand. -/
structure Visible where
  sig : Nat
  svid : Nat
  elev : Int
  fcn : Int
  dop : Int
  code : Nat
  deriving DecidableEq, Repr

/-- What one channel latches at an epoch (R295, R298). -/
structure ChanLatch where
  ch : Nat
  cn0 : Nat
  elev : Int
  txtime : Nat
  carrier : Int
  doppler : Int
  lockMs : Nat
  deriving DecidableEq, Repr

/-- One inter-system offset, sns (R306). -/
structure SysOffset where
  sys : Nat
  ofs : Int
  deriving DecidableEq, Repr

/-- A satellite of a system. -/
structure SatId where
  sys : Nat
  svid : Nat
  deriving DecidableEq, Repr

/-- What the broadcast data of its satellite gives for one channel's measurement, taken at the position about which the solution is
linear (R300, R301): the flight time from the satellite with its clock's correction and the delay by the broadcast ionospheric model,
in sns, the unit vector to the satellite in 10^-9, and the 1σ by elevation and C/N0, in sns. -/
structure ChanObs where
  ch : Nat
  path : Int
  iono : Int
  ux : Int
  uy : Int
  uz : Int
  sig : Nat
  deriving DecidableEq, Repr

/-- A new ephemeris (R334): its reference time and fit interval in seconds of TAI. -/
structure EphemData where
  sat : SatId
  toe : Int
  fitFrom : Int
  fitTo : Int
  deriving DecidableEq, Repr

/-- The pseudorange-against-carrier figure of one channel over the last second, in mm (R326). -/
structure PrdMeas where
  ch : Nat
  mm : Nat
  deriving DecidableEq, Repr

/-- A leap announcement as decoded from one satellite (R339). -/
structure LeapAnn where
  sat : SatId
  e : Nat
  ofs : Int
  deriving DecidableEq, Repr

/-- A system's time as broadcast (R337), taken at the epoch: the week count (of GLONASS the four-year interval), whether it came
on L5, the day number of GLONASS, and the time of week (of day) in ns. -/
structure WeekMeas where
  sys : Nat
  l5 : Bool
  week : Nat
  day : Nat
  tow : Nat
  deriving DecidableEq, Repr

/-- What Bodkin has at hand for one whole-second epoch (R296, R300, R323): what the broadcast data gives for each channel and the
position in cm at which it was taken, the excluded satellites and systems (svid 0) whose tests still fail, and the decoded
broadcast data: each system's offset from GPS time (R306), the weeks, the leap announcements, the current TAI − UTC, and
what is new of the systems' UTC realisations less their own times in sns (R302), of each system's ionospheric parameters, and of the
satellites' ephemerides (R334). -/
structure SolInput where
  obs : List ChanObs
  p0 : Int × Int × Int
  prd : List PrdMeas
  exclFail : List SatId
  bc : List SysOffset
  weeks : List WeekMeas
  leaps : List LeapAnn
  seed : List LeapAnn
  utcOfs : List SysOffset
  iono : List (Nat × List (BitVec 8))
  ephem : List EphemData
  deriving DecidableEq, Repr

/-- A frame as it arrives at a port (R356, R401): its bytes from the destination address to the FCS, what the PCS and the
FCS check found, the RS-FEC codewords corrected and not correctable since the frame before, and the word and bit that hold its timestamp
point. -/
structure RxFrame where
  bytes : List Byte
  fcsOk : Bool
  pcsErr : Bool
  cut : Bool
  fragments : Nat
  asmErr : Bool
  eccErr : Bool
  fecCorr : Nat
  fecUncorr : Nat
  word : Nat
  bit : Nat
  deriving DecidableEq, Repr

/-- A posted receive entry as read from host memory (R500), and whether the read failed (R507). -/
structure RxEntry where
  addr : Nat
  bufLen : Nat
  user : Nat
  fault : Bool
  deriving DecidableEq, Repr

/-- A posted transmit entry as read from host memory, with the bytes of its buffer (R504), and whether a read failed (R507);
`reserved` is what stands in the bytes that must be 0. -/
structure TxEntry where
  data : List Byte
  len : Nat
  port : Nat
  flags : Nat
  prio : Nat
  reserved : Nat
  fault : Bool
  deriving DecidableEq, Repr

/-- A command entry as read from host memory, with the command it points at (R508), and whether a read failed (R507). -/
structure CmdEntry where
  cmdLen : Nat
  resLen : Nat
  resAddr : Nat
  reserved : Nat
  bytes : List Byte
  fault : Bool
  deriving DecidableEq, Repr

/-- The fields that a write of configuration space sets (R490, R491, R499, R517). -/
structure PcieWrite where
  bme : Option Bool
  ptmEn : Option Bool
  mps : Option Nat
  mrrs : Option Nat
  aspmL1 : Option Bool
  msixEn : Option Bool
  fnMask : Option Bool
  bar0 : Option Nat
  bar2 : Option Nat
  deriving DecidableEq, Repr

/-- A message of the management set and the way it came (R608, R615). -/
inductive Carrier where
  | datagram (bytes : List Byte) (src : List Byte) (srcPort : Nat) (hopLimit : Nat)
  | mailbox (token : BitVec 16)
  deriving DecidableEq, Repr

/-- The commands: the part's steps, one for each row of the table. -/
inductive Instr where
  | registerWrite (p : Path) (off : Nat) (be : BitVec 4) (v : W32)
  | powerOnReset (rails : List Nat)
  | resetNAssert (lowNs : Nat)
  | resetNRelease (strap : Bool)
  | pllLock
  | glbReset (p : Path) (v : W32)
  | deviceReset
  | droopStretchStart (mv : Nat)
  | droopRecover (mv : Nat)
  | stretchEnd
  | droopRecord
  | droopHeavyEval
  | modeEvaluation
  | bootTimeout
  | calibrateTimeout
  | orderlyRestartReq
  | safeRestartReq
  | drainTimeout
  | drainReset
  | safeAutoRestart
  | maintainBound
  | fwSwapRevert
  | slotLoad (pufOk faultA faultB : Bool)
  | commit (b : CmtBlk) (token : BitVec 16)
  | check (b : CmtBlk) (token : BitVec 16)
  | revert (b : CmtBlk) (token : BitVec 16)
  | commitValidated (b : CmtBlk) (intact : Bool)
  | commitApply (b : CmtBlk) (intact : Bool)
  | timeLatchRead (p : Path)
  | weftLatchRead (p : Path)
  | weftLoad (lSync : Nat)
  | weftSteer
  | tbSet (token : BitVec 16)
  | tbStep (token : BitVec 16)
  | tbSlew (token : BitVec 16)
  | tbCancel (token : BitVec 16)
  | stepCheckDone (warpIntact weftIntact : Bool)
  | stepApply (warpStands weftStands : Bool)
  | slewMsTick
  | tacCalibration (hits : List (List Nat))
  | stakeCalibration (n : Nat) (main : StakeCal) (alt : Option StakeCal)
  | outputCalibration
  | tacBgCalDone (g : Nat) (hits : List Nat)
  | tacRotate (g : Nat)
  | tinEdge (n : Nat) (falling : Bool) (code : Nat)
  | captureBufferWrite (n : Nat)
  | measurementTruncate (n : Nat)
  | tinArm (mask : BitVec 8)
  | tinDisarm (mask : BitVec 8)
  | registerReaderEnable
  | tinRecRead (p : Path)
  | tinMark
  | tinRewind
  | tinClear
  | refMeasurement (id : Nat) (m : RefIn)
  | refActivityTimeout (id : Nat) (k : ActKind)
  | todinMessage (baud : Nat) (bytes : List Byte)
  | selectorEvaluation
  | ensembleUpdate
  | wtrCountdown
  | endWtr (token : BitVec 16) (id : Nat)
  | forget (token : BitVec 16) (id : Nat)
  | servoUpdate
  | fastlockHalve
  | spliceWindowEnd
  | holdoverModelFit
  | modelCopyWrite
  | holdoverPredict
  | forgetModel (token : BitVec 16)
  | ppsEdge (m : Nat)
  | ppsPulseEnd (m : Nat)
  | ppsInputLost (m : Nat)
  | outputUnmute (o : OutId)
  | clkoutRealign (n : Nat)
  | clkoutMonitorTrip (n : Nat) (counted : Nat)
  | todMessageSend
  | gppsPulse
  | feScriptRun (miso : List W32)
  | agcRead (miso : List W32)
  | agcMonitorReport (a b : List (BitVec 8 × BitVec 8))
  | channelPlacement (almanacs : List Nat) (sats : List Visible)
  | channelDetect (ch peak1 peak2 code : Nat) (bin : Int)
  | searchExhausted (ch : Nat)
  | pullinLock (ch : Nat)
  | pullinTimeout (ch : Nat)
  | syncFound (ch : Nat)
  | towDecoded (ch : Nat)
  | channelLost (ch : Nat)
  | lostRefound (ch : Nat)
  | lostTimeout (ch : Nat)
  | cycleSlip (ch : Nat)
  | epochStrobe (code : Nat) (latch : List ChanLatch)
  | gnssSolution (i : SolInput)
  | exclusionExpire (k : Nat)
  | integClearExpire
  | integGoodReturn
  | recordSetLock (p : Path)
  | gnsStatLatch (p : Path)
  | resurvey (token : BitVec 16)
  | rerunScript (token : BitVec 16)
  | coldStart (token : BitVec 16)
  | checkinSleep
  | checkinWake
  | checkinEarlyWake
  | frameReceive (n : Nat) (f : RxFrame)
  | pauseReceive (n : Nat) (quanta : Nat)
  | pfcReceive (n : Nat) (enable : BitVec 8) (quanta : List Nat)
  | pauseExpire (n : Nat) (prio : Option Nat)
  | xoffRepeat (n : Nat)
  | xonSend (n : Nat)
  | pauseWatchdog (n : Nat) (prio : Option Nat)
  | xoffWatchdog (n : Nat)
  | holdoffExpire (n : Nat) (prio : Option Nat) (rx : Bool)
  | esmcReceive (n : Nat) (ssm : Nat) (tlv : Option (Nat × List (BitVec 8)))
  | esmcInfoSend (n : Nat)
  | preemptVerifySend (n : Nat)
  | preemptRespondReceive (n : Nat)
  | classifierRuleWrite (k w : Nat) (v : W32)
  | parkEvaluation
  | parkApply
  | speedStepDown (n : Nat)
  | speedStepUp (n : Nat)
  | speedStepFail (n : Nat)
  | linkUp (n : Nat) (speed : Nat) (fec : Bool)
  | linkDown (n : Nat)
  | trackerConversion (n : Nat) (kind : Nat) (word : Nat) (code : Nat)
  | syncePhaseDeliver (n : Nat)
  | replicaUpdate (n : Nat)
  | laneTake (lane : Nat)
  | answerBuilt (lane : Nat)
  | frameCommit (n : Nat) (word bit : Nat) (itemOk readBackOk eccOk : Bool)
  | frameSent (n : Nat)
  | keyRotation
  | rotate (token : BitVec 16)
  | cookieMint
  | mintComplete
  | syncSend (n : Nat) (slot : Nat)
  | announceSend (n : Nat) (inst : Nat)
  | pdelayReqSend (n : Nat) (inst : Nat)
  | ptpMessageReceive (lane : Nat)
  | unicastNegotiation (lane : Nat)
  | delayReq (lane : Nat)
  | pdelayReqReceive (lane : Nat)
  | pdelayRespFollowUp (n : Nat)
  | peerDelayComplete (lane : Nat)
  | clientAnnounce (lane : Nat)
  | clientSync (lane : Nat)
  | clientDelayResp (lane : Nat)
  | clientGrantRenew (n : Nat)
  | grantExpire (n : Nat) (g : Nat)
  | clientGmTimeout (n : Nat)
  | cancelGrants (token : BitVec 16) (n : Nat)
  | restartClient (token : BitVec 16) (n : Nat)
  | hifReset (linkLost : Bool)
  | rxTailWrite (r : Nat) (v : W32)
  | txTailWrite (r : Nat) (v : W32)
  | cqTailWrite (q : Nat) (v : W32)
  | hostFrameDeliver (r : Nat) (entries : List RxEntry) (eccOk : Bool)
  | ringWaitExpire (r : Nat)
  | hostFrameTransmit (r : Nat) (entries : List TxEntry)
  | txComplete (r : Nat)
  | commandFetch (q : Nat) (e : CmdEntry)
  | abort (q : Nat) (index : Nat)
  | abortAll (q : Nat)
  | evsRecordDeliver
  | evsHostRdWrite (v : W32)
  | evsMark
  | evsRewind
  | evsClear
  | msixMessage (v : Nat)
  | ptmReq (token : BitVec 16)
  | ptmAuto
  | ptmResponse (master turn : Nat)
  | ptmTimeout
  | ptmResultLatch (p : Path)
  | modexp (core : Nat)
  | rsaPriv (core : Nat)
  | ecdh (core : Nat)
  | ecdhEph (core : Nat)
  | ecdsaSign (core : Nat)
  | ecdsaVerify (core : Nat)
  | eddsaSign (core : Nat)
  | eddsaVerify (core : Nat)
  | keygen (core : Nat)
  | delete (core : Nat)
  | pubkey (core : Nat)
  | pkeResultRelease (core : Nat) (redundantOk : Bool)
  | weftPeriodicCompare
  | clockMonitorTrip (d : ClkDom)
  | railFault (r : Rail) (mv : Nat)
  | tempFault
  | lockstepMismatch (sram : Bool)
  | heartbeatTimeout
  | faultPathFail (a : Bool)
  | faultReport (tag : BitVec 16)
  | stormWindowClose
  | memoryScrubDone (m : Nat) (ok : Bool)
  | rotatingPassStart
  | passScanStart (k : Nat)
  | passEnd (k : Nat) (signatureOk restoreOk : Bool)
  | test (token : BitVec 16) (k : Nat)
  | clearRetired (token : BitVec 16) (k : Nat)
  | sensorScan (temps : List Int) (rails : List Nat)
  | status (c : Carrier)
  | regRead (c : Carrier)
  | regWrite (c : Carrier)
  | logRead (c : Carrier)
  | slotErase (c : Carrier)
  | slotEraseDone (ok : Bool)
  | slotWrite (c : Carrier)
  | slotVerify (c : Carrier)
  | fwSwap (c : Carrier)
  | fwReady
  | restart (c : Carrier)
  | offlineTest (c : Carrier)
  | otarnUndefinedCode (c : Carrier)
  | otarnDropRecord
  | i2cPointerWrite (b : Byte)
  | i2cRead (count : Nat)
  | railMinRead (p : Path) (k : Nat)
  | mgtStatRead (p : Path)
  | counterLatchRead (p : Path) (off : Nat)
  | counterWrapClear (off : Nat)
  | bwWindowEnd (n : Nat)
  | bwStatLatch (p : Path) (n : Nat)
  | bwPeakRead (p : Path) (n : Nat)
  | userPageRead (off : Nat) (bytes : Nat)
  | jtagSamplePreload (preload : BitVec 115) (balls : BitVec 115)
  | jtagExtest (balls : BitVec 115)
  | jtagHighz
  | jtagClamp
  | jtagBypass (code : BitVec 4)
  | jtagTrst
  | leapEvent
  | offsetSlewEnd (o : OutId)
  | pathAHeartbeatLoss
  | clientDelayReqSend (n : Nat)
  | pcieLinkUp (speed width : Nat)
  | pcieConfigWrite (w : PcieWrite)
  | slotVerifyDone (flashOk : Bool)
  | scriptWaitExpire (miso : List W32)
  deriving DecidableEq, Repr

end Sys2Proof
end

