-- ==== Sys2Proof/Decode.lean ====
section
/-! DEFINITION. The commands that a word spells. No row of spec/opcode_table.json gives bits: the part takes events, not
encoded words, so no word spells a command. -/

namespace Sys2Proof

/-- The command that the table's bits spell: none, whatever the word. -/
def decodeTableWord (_nbits _w : Nat) : Option Instr := none

end Sys2Proof
end

