-- ==== Sys2Proof/Config.lean ====
section
/-! DEFINITION. What an implementation fixes and the spec leaves open, as constants without a body: nothing in Lean can
evaluate them, so a claim that mentions one holds whatever its value. -/

namespace Sys2Proof.Config

open Sys2Proof

/-- The 64-bit number fused at manufacture (R640); the spec gives no value. -/
opaque uid : BitVec 64

/-- The on-chip random source and every other fresh open value: the value of the `n`th draw. -/
opaque free : Nat → Nat

/-- The digits beyond the 128th binary place of the square root that Bodkin and the servo form where a rule names an rms or a
root; the spec gives no precision. -/
opaque sqrt : Rat → Rat

/-- The digits of π beyond the sixth in use where a rule names 2π; the spec gives no precision. -/
opaque pi : Rat

/-- How often CLK_WEFT runs against its nominal 125 MHz while OSC_AUX clocks it (R108), by elapsed nanoseconds: OSC_AUX is an
oscillator of its own, whose frequency nothing in the part gives. -/
opaque auxRatio : Nat → Rat

/-- Where in its cycle CLK_GNSS stands against CLK_TIME when the PLLs lock, in ns (R14: no phase relation is guaranteed). -/
opaque gnssPhase : Rat

/-- s_floor of R193, in sns; the spec gives no value. -/
opaque sFloor : Rat

/-- The rounding of an exact quantity to a register's integer where the spec states none. -/
opaque round : Rat → Int

/-- Whether a quantity that lies midway between two integers is rounded up: a rule that says "rounded" gives no tie rule. -/
opaque tieUp : Rat → Bool

/-- The 1σ time error of a solution in position hold, in ps, from that of its covariance and the standard deviation of the held
position in cm: R304 takes it from both and does not say how. -/
opaque heldGte : Nat → Nat → Nat

/-- The 1 − 10^-5 quantile of the chi-square distribution by degrees of freedom (R326); no table is given. -/
opaque chi2 : Nat → Rat

/-- The Subsystem Vendor and Subsystem IDs that the image in a slot sets (R489); the spec names no record for them. -/
opaque subsystemIds : Nat → BitVec 32

/-- The Edhalon firmware key held in boot ROM, a P-384 point (R67). -/
opaque fwKey : BitVec 768

/-- What the spec does not give of the firmware package: whether its bytes are well formed, its version, its signature and the
bytes that the signature covers (R67). -/
opaque fwParse : List Byte → Option (BitVec 32 × BitVec 768 × List Byte)

/-- Whether firmware of a version writes the handover version that a firmware package declares (R605). -/
opaque fwHandover : BitVec 32 → List Byte → Bool

/-- The keyed hash of the rate limiter (R449): its function is not given. -/
opaque rlHash : Nat → List Byte → Nat

/-- The design delay of the pad loopback by port and speed code, in sns (R414). -/
opaque loopDelay : Nat → Nat → Nat

/-- The firmware version that the boot ROM shows (R619). -/
opaque bootVersion : BitVec 32

/-- The TTL and hop limit of datagrams that Bodkin builds (R363, R607); the spec gives none. -/
opaque bodkinTtl : Nat

/-- The byte that PTP_GT_ENTRY1 shows for a kind of message that the client holds no grant of (R485); the spec gives none. -/
opaque noGrant : Byte

/-- The key that seals the key store of this die, derived from the PUF (R542). -/
opaque deviceKey : BitVec 512

end Sys2Proof.Config
end

