-- ==== Sys2Proof/Machine/State.lean ====
section
/-! DEFINITION. The state of the block as plain data: every register, counter, queue, buffer, mode and pin the spec gives
it, block by block, and the queue of waiting commands. Configuration registers (RW, RWS, set by image) are held in two
sparse maps of words keyed by register offset; every other piece of state has a field of its own. -/

namespace Sys2Proof.Machine

open Sys2Proof

/-- The machine stops with a fault: never raised. The spec gives every command an effect or says that it is discarded,
so no meaning ends in one. Safe: the type has one value that no meaning answers with. -/
inductive Fault where
  /-- Raised by nothing: kept so that the type is inhabited. Safe. -/
  | none
  deriving DecidableEq, Repr

/-- No meaning for the command. -/
inductive Refusal where
  /-- Raised by an arm of `exec` that has no meaning yet. Safe: nothing is claimed of that command. -/
  | notModelled (mnemonic : String)
  deriving DecidableEq, Repr

/-- A sparse map: keys strictly rising, and no entry equal to what an unlisted key reads as. -/
abbrev Assoc (α : Type) := List (Nat × α)

/-- Registers by offset. -/
abbrev RegMap := Assoc W32

/-- The operating modes, in the order of their codes (R32). -/
inductive Mode where
  | boot | calibrate | acquire | locked | holdover | freerun | maintain | safe
  deriving DecidableEq, Repr

/-- GLB, the reset inputs and BOOT's progress (R639 to R647, R654, R655). -/
structure GlbSt where
  porHeld : Bool
  resetLow : Bool
  pllLocked : Bool
  strap : Bool
  rstCause : Nat
  starts : Nat
  errUnassigned : Bool
  errPartial : Bool
  errBadReset : Bool
  scratch : W32
  resetAt : Option Nat
  bistDone : Bool
  loaderSlot : Nat
  bootStep : Nat
  deriving DecidableEq, Repr

/-- MAINTAIN in progress (R38): a swap or an offline test, its bound, and how its work ended. -/
structure Maint where
  swap : Bool
  began : Nat
  bound : Nat
  ended : Bool
  boundHit : Bool
  tested : List Nat
  deriving DecidableEq, Repr

/-- The operating mode and what its rows read (R32 to R57). -/
structure ModeSt where
  mode : Mode
  cause : Nat
  prev : Mode
  origin : Option Mode
  since : Nat
  reqRefused : Bool
  modeChg : Bool
  drain : Bool
  drainUntil : Nat
  drainArmed : Bool
  timeSet : Bool
  hostSet : Bool
  lockSince : Option Nat
  within1ns : Bool
  lockedOnce : Bool
  acqSeen : Nat
  calTac : Bool
  calOut : Bool
  calStk : List Bool
  maint : Option Maint
  lastLocked : Option Nat
  deriving DecidableEq, Repr

/-- A SET, STEP, SLEW or CANCEL: its master, operands and check value (R115, R119). -/
structure StepRec where
  bodkin : Bool
  op : Nat
  op0 : W32
  op1 : W32
  op2 : W32
  op3 : W32
  chk : W32
  ctl : W32
  token : Nat
  armedAt : Nat
  deriving DecidableEq, Repr

/-- A slew in progress (R125): amount and change so far in sns, rate in ps/s, the Warp count in ns at which its last whole
millisecond ended, and how it will end. -/
structure SlewRec where
  bodkin : Bool
  amount : Int
  rate : Nat
  change : Rat
  token : Nat
  msAt : Nat
  cancelled : Bool
  abandoned : Bool
  deriving DecidableEq, Repr

/-- A SET or STEP that Weft is to take on its first CLK_WEFT cycle after A (R118): the count to load, if it is a SET, the change
in ns that comparisons add until then, and `now` at A. -/
structure WeftChange where
  load : Option Nat
  by_ : Int
  at_ : Nat
  deriving DecidableEq, Repr

/-- Weft's holdover (R559): when it began, y_cmd then, and E0. -/
structure Freeze where
  start : Nat
  yCmd : Rat
  e0 : Rat
  deriving DecidableEq, Repr

/-- The time base (R98 to R139). Warp is one count of nanoseconds (SEC times 10^9 plus NS) with FRAC beside it; Weft is a
count in units of 2^-32 ns, its upper 64 bits being nanoseconds, and `weftDue` the change it has yet to take (R118). `stepSum`
sums every SET and STEP applied, in sns. `leapAdded` holds the E of each entry that GNSS brought into the leap table (R135). -/
structure TbSt where
  running : Bool
  warp : Nat
  frac : Nat
  stepSum : Int
  weftFix : Nat
  weftPhase : Nat
  weftDue : Option WeftChange
  weftLoaded : Bool
  lSync : Nat
  d : Int
  yInt : Rat
  phase : Rat
  freeze : Option Freeze
  allow : Rat
  checking : List StepRec
  armed : Option StepRec
  slew : Option SlewRec
  stToken : Nat
  stCode : Nat
  stReject : Bool
  stDone : Bool
  stState : Nat
  last : Int
  lastSat : Bool
  leap : List (Nat × Int)
  leapAdded : List Nat
  leapImage : Bool
  leapGnss : Bool
  mismatch : Bool
  l : Bool
  utcOfs : Int
  next : Option (Nat × Bool)
  changes : Nat
  gmBase : Nat
  stepFlag : Bool
  stepAt : Option Nat
  deriving DecidableEq, Repr

/-- The TACs (R143 to R152): a table for each, the TAC at each position, the spares and the dead times. -/
structure TacSt where
  tables : List (List W32)
  posTac : List Nat
  spare : List Nat
  nextPos : List Nat
  fresh : List Bool
  failed : Nat
  busyUntil : List Nat
  missed : List Nat
  rotAt : List Nat
  deriving DecidableEq, Repr

/-- An open measurement of an event input (R158): its first and last edge and, in frequency mode, the edge that opened the
gate, as sns of elapsed Warp time with every SET and STEP taken out; the edges counted and the records or periods completed. -/
structure Meas where
  first : Int
  last : Int
  gate : Int
  edges : Nat
  done : Nat
  falling : Bool
  deriving DecidableEq, Repr

/-- One event input (R153 to R162, R181). -/
structure TinIn where
  member : Nat
  fifo : List (Int × BitVec 128)
  armed : Bool
  rearm : Bool
  missed : Bool
  opened : Option Meas
  lastEdge : Option Nat
  gapFrom : Option Int
  seq : Nat
  burstDone : Nat
  skipped : Nat
  deriving DecidableEq, Repr

/-- A reader of the capture buffer (R172 to R176). -/
structure Reader where
  rd : Nat
  mark : Option Nat
  gone : Bool
  markLost : Bool
  code : Nat
  deriving DecidableEq, Repr

/-- The event inputs and the capture buffer (R153 to R185): `buf` holds the records from held_from to WR − 1. -/
structure TinSt where
  ins : List TinIn
  buf : List (BitVec 128)
  wr : Nat
  rdr : Reader
  lost : List Nat
  lostTotal : Nat
  ovfDue : Bool
  ovf : Bool
  recLatch : BitVec 128
  deriving DecidableEq, Repr

/-- The states of a reference (R197, R215). -/
inductive RState where
  | disq | wtr | qual | sel | drift
  deriving DecidableEq, Repr

/-- One reference: its monitors, its history and its estimates (R187 to R200, R213 to R216); `x` is formed each second, and `xEst`
is what REF_XESTn shows since the last evaluation. -/
structure RefSt where
  st : RState
  never : Bool
  twait : Bool
  wtrLeft : Nat
  endWtr : Bool
  fromDrift : Bool
  los : Bool
  freq : Bool
  pjump : Bool
  te : Bool
  proj : Bool
  qlf : Bool
  integ : Bool
  rxQl : Nat
  active : Bool
  monAt : Nat
  passSince : Option Nat
  lastAt : Option Nat
  pjBad : Bool
  lastT : Int
  z : Int
  zPrev : Option Int
  isNew : Bool
  recent : List (Nat × Int)
  freqHist : List (Nat × Int)
  secHist : List Int
  p : Rat
  pHist : List (Nat × Rat)
  pQual : Rat
  y : Rat
  x : Rat
  xEst : Rat
  dRate : Rat
  ttl : Option Rat
  score : Nat
  deriving DecidableEq, Repr

/-- TODIN (R189): the message waiting to label the next pulse, the last good label and pulses missed since. -/
structure TodIn where
  waiting : Option (Nat × Nat)
  lastLabel : Option (Nat × Int)
  bad : Nat
  deriving DecidableEq, Repr

/-- The selector (R201 to R217); `started` says that the monitors have started since reset (R200). -/
structure SelSt where
  started : Bool
  refs : List RefSt
  tod : TodIn
  sel : Option Nat
  prevId : Option Nat
  reason : Nat
  forceMiss : Bool
  ensWeak : Bool
  chosenOnce : Bool
  maintEnd : Bool
  ctlToken : Nat
  ctlCode : Nat
  deriving DecidableEq, Repr

/-- The fields of the holdover model, in the units of R232. -/
structure Model where
  f0 : Int
  d : Int
  k : Int
  t0c : Int
  uy : Nat
  ud : Nat
  uc : Nat
  learnS : Nat
  deriving DecidableEq, Repr

/-- What a copy of the model holds (R231, R232): `crcGood` says whether its CRC fits. -/
structure ModelCopy where
  m : Model
  learnt : Bool
  aux : Bool
  oscKhz : Nat
  updSec : Nat
  crcGood : Bool
  deriving DecidableEq, Repr

/-- A Splice window (R223): its start and length, the target's samples, and whether it was restarted. -/
structure Window where
  target : Nat
  start : Nat
  len : Nat
  samples : List (Nat × Int)
  offers : List Nat
  limited : Bool
  temp : Int
  deriving DecidableEq, Repr

/-- A prediction of Warp's error (R233, R234): entry instant H, E0, the temperature at H, the sum of temperature departures, the
frequency at H, and whether the servo has stood on the holdover frequency ever since H. -/
structure Hold where
  start : Nat
  e0 : Rat
  tempH : Int
  sumDT : Rat
  y0 : Rat
  follows : Bool
  deriving DecidableEq, Repr

/-- The servo's reported state (R242). -/
inductive SrvState where
  | idle | tracking | window | holdover | frozen | stopped
  deriving DecidableEq, Repr

/-- Servo, Splice and holdover (R218 to R245). Frequencies are fractions, phases are in sns. `winY` is the target's frequency
that its Splice window found (R222, R223), and `followed` says that it has followed a reference since reset (R293). -/
structure SrvSt where
  st : SrvState
  followed : Bool
  target : Option Nat
  stageBw : Rat
  stageSince : Option Nat
  bridge : Bool
  retLimit : Bool
  winClamp : Bool
  retTimes : List Nat
  yCmd : Rat
  yAnchor : Rat
  winY : Rat
  i : Rat
  p : Rat
  zf : Rat
  bo : Rat
  lastZ : Option (Nat × Int)
  refTime : Option TimeWord
  refLatch : Option TimeWord
  bridgeY : Rat
  selSince : Nat
  win : Option Window
  removal : Bool
  retry : Bool
  hold : Option Hold
  pred : Rat
  yHist : List (Nat × Rat)
  eHist : List (Nat × Rat)
  tHist : List (Nat × Int)
  model : Model
  learnt : Bool
  prior : Bool
  fitS : Nat
  fitAt : Nat
  modelHist : List (Nat × Rat × Int)
  ctlToken : Nat
  ctlCode : Nat
  deriving DecidableEq, Repr

/-- One CLKOUT (R246 to R251, R274): `phase` is the phase now in force, in ps; `start` and `next` are the rising edges that bound
the cycle in progress and `per` its whole period, in ns of elapsed CLK_TIME (0 while the divider rests). -/
structure ClkOut where
  unmuted : Bool
  muted : Bool
  aligned : Bool
  realign : Bool
  phase : Rat
  slewing : Bool
  monMuted : Bool
  start : Rat
  next : Rat
  per : Rat
  fmt : Nat
  mz : Bool
  deriving DecidableEq, Repr

/-- One PPSOUT (R252 to R257, R276): the pulse now high and the place of its edge within its CLK_TIME cycle in ps, the effective
offset now in force, the input phase it follows, and by how much the last cycle's slews have moved its schedule back, in sns. -/
structure PpsOut where
  unmuted : Bool
  muted : Bool
  high : Bool
  width : Nat
  startedAt : Nat
  fine : Int
  endedAt : Option Nat
  eff : Rat
  slewing : Bool
  inputLost : Bool
  inPhase : Option Rat
  inGoal : Rat
  inAt : Nat
  back : Rat
  deriving DecidableEq, Repr

/-- What a ball drives: a level, or nothing (R262, R273). -/
inductive Level where
  | low | high | hiZ
  deriving DecidableEq, Repr

/-- TODOUT and GPPS (R265 to R270): the message on the line with its start and rate, the second whose message has been sent or
omitted, whether a forward step has made one due, and the GNSS time less Warp time by which GPPS is scheduled. -/
structure OutSt where
  clks : List ClkOut
  pps : List PpsOut
  todUnmuted : Bool
  todMuted : Bool
  todSeq : Nat
  todBusyUntil : Nat
  todLast : List Byte
  todAt : Nat
  todRate : Nat
  todSec : Option Nat
  todDue : Bool
  gppsUnmuted : Bool
  gppsMuted : Bool
  gppsHighUntil : Nat
  gppsNext : Option (Nat × Int)
  gppsZ : Option Int
  qerr : Int
  deriving DecidableEq, Repr

/-- The states of a channel (R291). -/
inductive ChState where
  | idle | search | pullin | track | sync | tow | lost
  deriving DecidableEq, Repr

/-- One tracking channel (R291, R293, R298): `narrow`, `dopC`, `dopW` and `codeC` are its search window, a narrowed one or the whole
code, with the middle and half the width of its Doppler in mHz and the middle of its code in half chips; `ncoDop` and `ncoCode` are
what a detection loaded into its NCOs. -/
structure Chan where
  narrow : Bool
  dopC : Int
  dopW : Nat
  codeC : Nat
  ncoDop : Int
  ncoCode : Nat
  st : ChState
  sig : Nat
  svid : Nat
  fcn : Int
  since : Nat
  slip : Bool
  half : Bool
  used : Bool
  excl : Bool
  handover : Option Nat
  handed : Bool
  cn0 : Nat
  elev : Int
  txtime : Nat
  carrier : Int
  doppler : Int
  lockMs : Nat
  prdFails : List Bool
  deriving DecidableEq, Repr

/-- A record set as shown in the window (R297 to R299). -/
structure RecSet where
  time : TimeWord
  sampleOfs : Nat
  cnt : Nat
  agcA : Int
  agcB : Int
  flags : Nat
  chans : List Chan
  deriving DecidableEq, Repr

/-- The integrity states (R328). -/
inductive Integ where
  | good | caution | failed
  deriving DecidableEq, Repr

/-- An exclusion (R325, R350). -/
structure Excl where
  sat : Bool
  sys : Nat
  svid : Nat
  reason : Nat
  remain : Nat
  passS : Nat
  deriving DecidableEq, Repr

/-- A solution as the registers show it (R303, R318, R319). -/
structure Sol where
  valid : Bool
  dual : Bool
  nsat : Nat
  time : TimeWord
  z : Int
  clkSat : Bool
  gtePs : Nat
  posX : Int
  posY : Int
  posZ : Int
  posSig : Nat
  deriving DecidableEq, Repr

/-- The baseband, its integrity and its sleeps (R280 to R351); `clkNext` is the next edge of CLK_GNSS, in ns of elapsed CLK_TIME,
`spi` the transactions that the script or the AGC entries last shifted out, bits and data (R287), from the instant `spiAt` on, `scrAgc`
the AGC entries reached, `startDue` whether the next placement settles the start type (R294), `startKind` what began the start (0 the
data alone, 1 a wake, 2 RERUN_SCRIPT; R335), `seen` the satellites of the last placement, `redo` whether TIME_SET has asked for it again
(R336), `alm` the almanacs at hand in memory, `qAt` the instant up to which the pull is summed into `qFreq` (R327), and `setNew` the record set of the last whole-second epoch and whether its solution is withheld
(R307). -/
structure GnsSt where
  clkNext : Rat
  scrRun : Bool
  scrIdx : Nat
  scrWait : Option Nat
  scrAgc : List Nat
  scrToken : Option Nat
  spi : List (Nat × W32)
  spiAt : Nat
  feFail : Bool
  start : Nat
  startDue : Bool
  startKind : Nat
  seen : List Visible
  redo : Bool
  alm : List (Option Nat)
  gainA : Int
  gainB : Int
  rmsA : Nat
  rmsB : Nat
  fsA : Nat
  fsB : Nat
  chans : List Chan
  blocked : List (Nat × Nat × Nat)
  newest : Option RecSet
  setNew : Option (RecSet × Bool)
  scaleSeen : Nat
  setCnt : Nat
  sol : Sol
  solMode : Nat
  surveyAt : Nat
  surveyN : Nat
  surveySum : Int × Int × Int
  surveySq : Int
  posMismatch : Bool
  fixAvg : List (Int × Int × Int)
  withhold : Nat
  noSol : Nat
  isbSol : List (Option Int)
  isbBc : List (Option Int)
  isbHist : List (List Int)
  sysUsed : List Nat
  firstValid : Bool
  integ : Integ
  clearSince : Option Nat
  goodSince : Option Nat
  interfA : Bool
  interfB : Bool
  powerA : Bool
  powerB : Bool
  isbF : Bool
  prdF : Bool
  coastF : Bool
  raimF : Bool
  raimRun : Nat
  gainBaseA : Int
  gainBaseB : Int
  baseN : Nat
  lowA : Nat
  lowB : Nat
  fullA : Nat
  fullB : Nat
  cn0HistA : List Rat
  cn0HistB : List Rat
  gainHist : List (Nat × Int × Int)
  q : Rat
  qDue : Bool
  qAnch : Bool
  qPrevAt : Option Nat
  qPrevZ : Int
  qStep : Int
  qFreq : Rat
  qAt : Nat
  slope : Rat
  qHist : List (Nat × Rat)
  leapConflict : Bool
  excls : Assoc Excl
  exclTimes : List (Nat × Nat × Nat)
  asleep : Bool
  chkFail : Bool
  chkNosol : Bool
  winAt : Option Nat
  chkZ : Int
  chkSum : Int
  chkN : Nat
  wakeDue : Bool
  ctlToken : Nat
  ctlCode : Nat
  deriving DecidableEq, Repr

/-- A received frame as parsed (R362). -/
structure Pkt where
  dst : Nat
  src : Nat
  tags : List (Nat × Nat)
  etype : Nat
  l3 : Nat
  v6 : Bool
  ipOk : Bool
  srcIp : List Byte
  dstIp : List Byte
  finalDst : List Byte
  proto : Nat
  dscp : Nat
  hop : Nat
  frag : Bool
  deep : Bool
  udp : Option (Nat × Nat × Nat)
  l4 : List Byte
  payload : List Byte
  deriving DecidableEq, Repr

/-- What a frame carries as insertion (R418). -/
inductive Insertion where
  | none
  | ntp64 (ofs : Nat)
  | ptpTs (ofs cofs : Nat)
  | ptpRes (cofs : Nat) (tRef : TimeWord)
  deriving DecidableEq, Repr

/-- What is left for the seal unit (R419): the S2C key, AEAD ID, plaintext, nonce, where the associated data begins and where
the nonce stands. -/
structure Seal where
  aead : Nat
  key : List Byte
  plain : List Byte
  adFrom : Nat
  nonceAt : Nat
  deriving DecidableEq, Repr

/-- Who asked for a frame, and what is counted when it leaves. -/
inductive EgSrc where
  | plain (ctx : Nat) | nts (ctx : Nat) | kod (ctx : Nat) | ntsn (ctx : Nat)
  | delayResp (ctx : Nat) | pdelayResp (ctx : Nat) (twoStep : Bool)
  | sync | announce | pdelayReq (seq : Nat) | pdelayFup | delayReq (seq : Nat) | signaling
  | pause | esmc
  | host (id : Nat)
  | bodkin
  deriving DecidableEq, Repr

/-- A frame waiting at the egress scheduler, or committed (R409 to R413). `bytes` has no FCS; `cuts` counts its preemptions, `gone` the bytes
of its fragments sent before them, and `resume` is when the fragment on the line begins, in sns of elapsed CLK_TIME. One not `stored`
waits for space in the pool (R378). -/
structure EgFrame where
  src : EgSrc
  bytes : List Byte
  ins : Insertion
  csum : Nat
  l4 : Nat
  sealReq : Option Seal
  auth : Option Nat
  tag : Option W32
  tsReq : Bool
  prio : Nat
  express : Bool
  born : Nat
  out : TimeWord
  cuts : Nat
  gone : Nat
  resume : Int
  stored : Bool
  deriving DecidableEq, Repr

/-- A received stop on one priority, or on the port (R368, R371). -/
structure Stop where
  until_ : Nat
  since : Nat
  holdoff : Option Nat
  on : Bool
  deriving DecidableEq, Repr

/-- The receive tracker and the latencies of a Stake (R403 to R417, R424, R425): `altNow` tells whose latencies are in force, those of the
configured speed or of 10GBASE-R, `cyc` the place in the cycle of 16 conversions, and `prev` the fit that stood before a reset. -/
structure StkSt where
  calOk : Bool
  calAlt : Bool
  txphErr : Bool
  rxDly : Nat
  txDly : Nat
  rxCal : Nat
  txCal : Nat
  rxAlt : Nat
  txAlt : Nat
  txPh : Nat
  txPhAlt : Nat
  replica : Nat
  replicaAlt : Nat
  altNow : Bool
  cyc : Nat
  rep : Int × Nat
  txOff : Int × Nat
  delta : Int
  convs : List (Nat × Int)
  bad : Nat
  drop : Option (Nat × Option Nat)
  prev : List (Nat × Int)
  deriving DecidableEq, Repr

/-- One port (R352 to R397): `lineFree` and `expFree` are when its line is free after the frames committed, and after the express ones, in sns
of elapsed CLK_TIME (R409), and `rxWait` holds what MGT received without space in the pool (R378). -/
structure PortSt where
  link : Bool
  linkWait : Bool
  speed : Nat
  fec : Bool
  pre : Nat
  verifyTries : Nat
  verifyAt : Nat
  stops : List Stop
  pause : Stop
  xoff : Option Nat
  xoffHold : Option Nat
  xoffSent : Nat
  pauseStorm : Bool
  xoffStorm : Bool
  stepped : Bool
  stepFail : Bool
  stepping : Option Nat
  lowSince : Option Nat
  stepOff : Bool
  held : Bool
  rxQl : Nat
  rxQlAt : Option Nat
  enh : Bool
  txQl : Nat
  txQlLocked : Nat
  txQlSent : Nat
  esmcAt : Option Nat
  pool : Nat
  reserve : Nat
  eg : List EgFrame
  committed : List EgFrame
  lineFree : Int
  expFree : Int
  rxWait : List RxFrame
  lastTx : List Byte
  lastOut : TimeWord
  rxLog : List (Nat × Nat)
  txLog : List (Nat × Nat)
  stk : StkSt
  deriving DecidableEq, Repr

/-- The states of a request context (R433). -/
inductive CtxState where
  | queued | building | waiting | committed
  deriving DecidableEq, Repr

/-- A request context in use (R429, R433). -/
structure Ctx where
  id : Nat
  st : CtxState
  born : Nat
  ingress : TimeWord
  port : Nat
  pkt : Pkt
  cls : Nat
  kiss : Bool
  tag : W32
  lane : Option Nat
  checked : Bool
  deriving DecidableEq, Repr

/-- A Packer item of classes 0 to 4: the context and the check tag it carries (R431). -/
structure Item where
  ctx : Nat
  tag : W32
  deriving DecidableEq, Repr

/-- A Packer item of class 5: a frame for a host ring (R500, R503). -/
structure HostItem where
  bytes : List Byte
  time : TimeWord
  port : Nat
  cls : Nat
  rule : Nat
  tci : Nat
  ring : Nat
  mirror : Bool
  csumOk : Bool
  cells : Nat
  fromPool : Bool
  since : Option Nat
  deriving DecidableEq, Repr

/-- A slot of the key store (R539, R540). -/
structure KeySlot where
  typ : Nat
  curve : Nat
  policy : Nat
  secret : List Byte
  pub : List Byte
  keyId : Nat
  deriving DecidableEq, Repr

/-- The set and the master keys under which a lane works on its request, as they stood at its start (R87, R445): WV_CFG, WV_DISP and
the key store's slots 1 to 3. -/
structure LaneSet where
  cfg : W32
  disp : W32
  keys : Assoc KeySlot
  deriving DecidableEq, Repr

/-- One answer lane (R21, R433). -/
structure Lane where
  parked : Bool
  ctx : Option Nat
  tag : W32
  left : Nat
  set : Option LaneSet
  deriving DecidableEq, Repr

/-- A rate limiter bucket: tokens in units of 10^-9, and when they were last reckoned (R449). -/
structure Bucket where
  nano : Nat
  at_ : Nat
  kiss : Option Nat
  deriving DecidableEq, Repr

/-- A mint command on the mint engine, with the master keys as they stood when it started (R87, R445, R446, R448). -/
structure Mint where
  index : Nat
  bytes : List Byte
  resAddr : Nat
  running : Bool
  keys : Assoc KeySlot
  deriving DecidableEq, Repr

/-- The Weave, the Packer and SYM (R427 to R455), and lane parking (R380 to R382). -/
structure WvSt where
  ctxs : List Ctx
  queues : List (List Item)
  hostQ : List HostItem
  lanes : List Lane
  buckets : Assoc Bucket
  arr : List (Nat × Nat)
  step : Nat
  lanesOn : Nat
  parkWant : Option (Nat × Nat × Nat)
  rotDue : Bool
  rotToken : Option Nat
  symToken : Nat
  symCode : Nat
  mints : List Mint
  clsErr : Bool
  clsErrRule : Nat
  hashKey : Nat
  deriving DecidableEq, Repr

/-- A unicast grant (R464 to R469). -/
structure Grant where
  port : Nat
  inst : Nat
  cid : List Byte
  addr : List Byte
  kind : Nat
  logI : Int
  phase : Nat
  movePhase : Option (Int × Nat)
  until_ : Nat
  times : List Nat
  reply : Pkt
  deriving DecidableEq, Repr

/-- A foreign grandmaster heard by a client port (R474). -/
structure Foreign where
  cid : List Byte
  gmId : List Byte
  prio1 : Nat
  class_ : Nat
  acc : Nat
  var : Nat
  prio2 : Nat
  steps : Nat
  localPrio : Nat
  anns : List Nat
  src : Pkt
  deriving DecidableEq, Repr

/-- The delay exchange in progress on a port (R462, R463, R476). -/
structure Exchange where
  seq : Nat
  t1 : Option Int
  t2 : Option Int
  t4 : Option Int
  corr : Int
  deriving DecidableEq, Repr

/-- One PTP port (R456 to R487); `syncLog` is the logInterMessagePeriod at which its grandmaster has granted Sync (R221, R475).
`syncSlot` and `annSlot` are the slots of the grid last sent in, of Sync and of each instance's Announce, and `pdAt` the instant of the
last Pdelay_Req. -/
structure PtpPort where
  asCapable : Bool
  oneStepOk : Bool
  following : Option (List Byte)
  foreign : List Foreign
  delays : List Int
  mpd : Option Int
  ofs : Int
  syncAt : Nat
  annAt : Nat
  twoStep : Option (Nat × Int × Int)
  syncMs : Option Int
  exch : Option Exchange
  pdHist : List Bool
  pdFup : List (List Byte × Nat × TimeWord × Pkt)
  syncSeq : Nat
  annSeq : Nat
  reqSeq : Nat
  dreqTimes : List Nat
  renewAt : Nat
  granted : List (Nat × Nat)
  syncLog : Option Int
  syncSlot : Option Nat
  annSlot : List (Option Nat)
  pdAt : Option Nat
  deriving DecidableEq, Repr

/-- The PTP engine: its ports and the grant table (R464 to R485). -/
structure PtpSt where
  ports : List PtpPort
  grants : List Grant
  ctlToken : Nat
  ctlCode : Nat
  deriving DecidableEq, Repr

/-- A ring or queue of the host interface (R496 to R502): `next` is the next entry to be read, and `done` holds the command
entries completed out of order. -/
structure Ring where
  head : Nat
  tail : Nat
  next : Nat
  done : List Nat
  deriving DecidableEq, Repr

/-- One MSI-X vector (R514). -/
structure Vec where
  events : Nat
  first : Nat
  pend : Bool
  sent : Nat
  deriving DecidableEq, Repr

/-- The results of a PTM correlation (R516, R518). -/
structure PtmRes where
  token : Nat
  code : Nat
  seq : Nat
  t1 : Nat
  rtt : Nat
  master : Nat
  turn : Nat
  prop : Int
  deriving DecidableEq, Repr

/-- A correlation in progress: its token (none when automatic), when its request left, and of the first dialog t1, t4 and the Master
Time. -/
structure PtmRun where
  token : Option Nat
  began : Nat
  t1 : Nat
  firstDlg : Option (Nat × Nat × Nat)
  deriving DecidableEq, Repr

/-- A host transmit frame read from its ring (R504 to R506): the FLAGS of its entries, and its status once known. -/
structure TxFrame where
  ring : Nat
  id : Nat
  flags : List Nat
  status : Option Nat
  tout : List Byte
  deriving DecidableEq, Repr

/-- The endpoint's configuration registers that the host writes (R490, R491): Max_Payload_Size and Max_Read_Request_Size by their codes,
ASPM L1, MSI-X Enable and Function Mask, and the two base addresses. -/
structure PciSt where
  mps : Nat
  mrrs : Nat
  aspmL1 : Bool
  msixEn : Bool
  fnMask : Bool
  bar0 : Nat
  bar2 : Nat
  deriving DecidableEq, Repr

/-- A completion of a command entry that waits for Bus Master Enable (R499): queue, entry, QSTAT, CODE, and the result that goes with it. -/
structure CompWait where
  q : Nat
  i : Nat
  qstat : Nat
  code : Nat
  addr : Nat
  res : List Byte
  deriving DecidableEq, Repr

/-- The host interface (R489 to R521). -/
structure HifSt where
  link : Bool
  bme : Bool
  ptmEn : Bool
  speed : Nat
  width : Nat
  rx : List Ring
  tx : List Ring
  cq : List Ring
  evs : Reader
  evsWr : Nat
  evsHostRd : Nat
  cause : W32
  vecs : List Vec
  ptm : PtmRes
  ptmRun : Option PtmRun
  mem : List Host.Cell
  txq : List TxFrame
  nextTx : Nat
  pci : PciSt
  compq : List CompWait
  deriving DecidableEq, Repr

/-- A loaded curve (R536, R549). -/
structure Curve where
  loaded : Bool
  reason : Nat
  h : Nat
  pbits : Nat
  p : Nat
  a : Nat
  b : Nat
  gx : Nat
  gy : Nat
  n : Nat
  deriving DecidableEq, Repr

/-- An operation held by the engine (R522 to R535): its entry, its command, and, once it runs, its core, when it started,
when it releases, and with what. -/
structure PkeOp where
  bod : Bool
  index : Nat
  bytes : List Byte
  resAddr : Nat
  core : Option Nat
  start : Nat
  release : Nat
  code : Nat
  data : List Byte
  deriving DecidableEq, Repr

/-- The big-number engine (R522 to R538, R547 to R554). -/
structure PkeSt where
  ops : List PkeOp
  bodWait : List PkeOp
  work : List (Nat × Nat)
  zeroUntil : List Nat
  unsealed : Bool
  pufOk : Bool
  curves : Assoc Curve
  deriving DecidableEq, Repr

/-- The states of a test island (R589). -/
inductive IslState where
  | inService | underTest | retired | untested
  deriving DecidableEq, Repr

/-- One test island (R571 to R589). -/
structure Island where
  st : IslState
  last : Nat
  scanAt : Option Nat
  draining : Bool
  targeted : Bool
  ctl : Option Nat
  offline : Bool
  rootRec : List Byte
  deriving DecidableEq, Repr

/-- A fault report in the storm window (R568, R569). -/
structure Report where
  tag : Nat
  time : TimeWord
  safe : Nat
  deriving DecidableEq, Repr

/-- The fault manager and the self-test (R555 to R590). -/
structure FmuSt where
  gate : Bool
  pathA : Bool
  pathB : Bool
  pathFail : Bool
  halted : Bool
  lastRoot : Nat
  lastCause : Nat
  gateDiff : Option Int
  root : List Byte
  window : Option Nat
  reports : List Report
  portCal : Bool
  tacDeg : Bool
  islands : List Island
  rotIdx : Nat
  rotAt : Option Nat
  scrubs : List (Nat × List Byte)
  ctlToken : Nat
  ctlCode : Nat
  lastHeart : Nat
  coreMv : Nat
  stretch : Bool
  holdAt : Option Nat
  episodes : Nat
  minMv : Nat
  droopRecAt : Option Nat
  strCyc : Nat
  totCyc : Nat
  cycAt : Nat
  deriving DecidableEq, Repr

/-- A record of the FeRAM log (R599). -/
structure LogRec where
  typ : Nat
  fmu : Bool
  seq : Nat
  time : TimeWord
  body : List Byte
  deriving DecidableEq, Repr

/-- An ephemeris kept (R334): its satellite, reference time and fit interval in seconds of TAI, and the instant it came. -/
structure Ephem where
  sat : SatId
  toe : Int
  fitFrom : Int
  fitTo : Int
  at_ : Nat
  deriving DecidableEq, Repr

/-- The data the GNSS function keeps in FeRAM (R334): the almanac of a system by the instant it came, the ephemerides, the hold position
with its standard deviation in cm, each system's UTC realisation less its time in sns, its ionospheric parameters, the latest fix, and
the week anchor with the instant it was written. -/
structure Kept where
  almanac : Assoc Nat
  ephem : List Ephem
  holdPos : Option (Int × Int × Int)
  holdSig : Nat
  utcOfs : Assoc Int
  iono : Assoc (List Byte)
  fix : Option (Int × Int × Int)
  anchor : Nat
  anchorAt : Option Nat
  gainA : Int
  gainB : Int
  baseN : Nat
  script : Nat
  deriving DecidableEq, Repr

/-- FeRAM (R597): kept through every reset. `errs` holds the instants of errors, islands as 0 to 23 and memories as 32 to 39. -/
structure FeSt where
  restarts : List Nat
  retired : List Nat
  pend : List Nat
  errs : List (Nat × Nat)
  rotCount : Int
  copyA : Option (List Byte)
  copyB : Option (List Byte)
  nextB : Bool
  replay : List (List Byte × Nat)
  sealOk : Bool
  blank : Bool
  slots : Assoc KeySlot
  kept : Kept
  log : List LogRec
  nextSeq : Nat
  dropRecAt : Option Nat
  deriving DecidableEq, Repr

/-- Where the response to a message goes (R607, R611, R615): the mailbox, or a datagram's source with its TYPE, SEQ and REPLAY. -/
inductive ReplyTo where
  | mailbox
  | otarn (src : List Byte) (port typ seq replay : Nat)
  deriving DecidableEq, Repr

/-- The update path (R601 to R606, R621). -/
structure UpdSt where
  st : Nat
  slot : Nat
  code : Nat
  progress : Nat
  busy : Bool
  verified : Nat
  hdr : List Byte
  fw : W32
  via : Option ReplyTo
  deriving DecidableEq, Repr

/-- A neighbour whose address has been resolved on a port (R475, R607). -/
structure Neigh where
  port : Nat
  ip : List Byte
  mac : Nat
  deriving DecidableEq, Repr

/-- A frame that waits for its next hop to be resolved. -/
structure HeldFrame where
  port : Nat
  ip : List Byte
  frame : EgFrame
  deriving DecidableEq, Repr

/-- An Otarn datagram whose signature check is held by the engine under an index (R522, R609). -/
structure OtWait where
  index : Nat
  bytes : List Byte
  src : List Byte
  port : Nat
  deriving DecidableEq, Repr

/-- Management (R591 to R622). -/
structure MgtSt where
  tempNow : List Int
  tempMax : List Int
  railNow : List Nat
  railMin : List Nat
  tempHot : Bool
  droopHeavy : Bool
  recovery : Bool
  fwSlot : Nat
  fwVer : W32
  otarnKeys : List (List Byte)
  upd : UpdSt
  otSec : Nat
  otCount : Nat
  otDrops : Nat
  otSrc : List Byte
  otWait : List OtWait
  neigh : List Neigh
  held : List HeldFrame
  mbToken : Nat
  mbLen : Nat
  mbState : Nat
  mbox : List Byte
  i2cPtr : Nat
  i2cPage : List Byte
  i2cOut : List Byte
  refreshed : Option Nat
  deriving DecidableEq, Repr

/-- A port's bandwidth window (R628 to R634). -/
structure BwSt where
  on : Bool
  start : Nat
  rx : Nat
  tx : Nat
  cap : Nat
  capAt : Nat
  short : Bool
  valid : Bool
  rShort : Bool
  rRx : Nat
  rTx : Nat
  rRxUtil : Nat
  rTxUtil : Nat
  rLen : Nat
  peakRx : Nat
  peakTx : Nat
  wseq : Nat
  deriving DecidableEq, Repr

/-- The loader's results, and the attached flash and fuses (R58 to R97). -/
structure CfgSt where
  flashOk : Bool
  densityLog2 : Nat
  m144 : Option Nat
  m114 : Option Nat
  delayTenthsNs : Nat
  flash : List Host.Cell
  fuses : List (List Byte)
  codeA : Nat
  codeB : Nat
  fallback : Bool
  fused : Bool
  slot : Nat
  density : Nat
  modeBit : Bool
  addr4 : Bool
  div : Nat
  qspiTrip : Bool
  label : List Byte
  deriving DecidableEq, Repr

/-- A block's commit registers and pending copy (R82 to R92); `sup` is the token of the operation last superseded, whose status is
then STATE 5 with code 0x25 (R85, R90, R93). -/
structure CmtSt where
  sup : Option Nat
  token : Nat
  code : Nat
  reject : Bool
  done : Bool
  st : Nat
  arg : Nat
  cnt : Nat
  snap : RegMap
  isCheck : Bool
  deriving DecidableEq, Repr

/-- The read latches of one access path (R101, R113, R299, R318, R518, R625, R633). -/
structure Latches where
  time : TimeWord
  weft : BitVec 64
  ctr : BitVec 64
  gns : List W32
  recSet : Option RecSet
  ptm : List W32
  bw : List (List W32)
  lastRead : W32
  deriving DecidableEq, Repr

/-- The test access port (R666 to R668). -/
structure JtagSt where
  ir : BitVec 4
  bsr : BitVec 115
  capture : BitVec 115
  deriving DecidableEq, Repr

/-- The whole machine. `now` counts nanoseconds of elapsed time and never restarts; `pending` is the queue of commands;
`fresh` is the model's own counter from which free values are drawn. -/
structure State where
  now : Nat
  fresh : Nat
  stg : RegMap
  act : RegMap
  ctr : Assoc (BitVec 64)
  cmts : Assoc CmtSt
  glb : GlbSt
  md : ModeSt
  tb : TbSt
  tac : TacSt
  tin : TinSt
  ref : SelSt
  srv : SrvSt
  out : OutSt
  gns : GnsSt
  ports : List PortSt
  wv : WvSt
  ptp : PtpSt
  hif : HifSt
  pke : PkeSt
  fmu : FmuSt
  mgt : MgtSt
  pmc : List BwSt
  cfg : CfgSt
  fe : FeSt
  lat : List Latches
  userRead : BitVec 64
  jtag : JtagSt
  pending : List Instr
  deriving DecidableEq, Repr

/-! Reset values, block by block. -/

def TimeWord.zero : TimeWord := ⟨0, false, false⟩

def GlbSt.reset : GlbSt :=
  { porHeld := false, resetLow := false, pllLocked := false, strap := false,
    rstCause := 0, starts := 0, errUnassigned := false, errPartial := false, errBadReset := false, scratch := 0,
    resetAt := none, bistDone := false, loaderSlot := 0, bootStep := 1 }

def ModeSt.reset : ModeSt :=
  { mode := .boot, cause := 1, prev := .boot, origin := none, since := 0, reqRefused := false, modeChg := false,
    drain := false, drainUntil := 0, drainArmed := false, timeSet := false, hostSet := false, lockSince := none,
    within1ns := false, lockedOnce := false, acqSeen := 0, calTac := false, calOut := false,
    calStk := List.replicate 4 false, maint := none, lastLocked := none }

def TbSt.reset : TbSt :=
  { running := false, warp := 0, frac := 0, stepSum := 0, weftFix := 0, weftPhase := 0, weftDue := none, weftLoaded := false, lSync := 0, d := 0,
    yInt := 0, phase := 0, freeze := none, allow := 0, checking := [], armed := none, slew := none, stToken := 0,
    stCode := 0, stReject := false, stDone := false, stState := 0, last := 0, lastSat := false, leap := [], leapAdded := [],
    leapImage := false, leapGnss := false, mismatch := false, l := false, utcOfs := 0, next := none,
    changes := 0, gmBase := 0, stepFlag := false, stepAt := none }

/-- R143: the TACs at their positions, and the four spares. -/
def TacSt.reset : TacSt :=
  { tables := List.replicate 33 [], posTac := List.range 29, spare := [29, 30, 31, 32],
    nextPos := [0, 8, 16, 24], fresh := List.replicate 4 false, failed := 0, busyUntil := List.replicate 33 0,
    missed := List.replicate 29 0, rotAt := List.replicate 4 0 }

def TinIn.reset : TinIn :=
  { member := 0, fifo := [], armed := false, rearm := false, missed := false, opened := none, lastEdge := none,
    gapFrom := none, seq := 0, burstDone := 0, skipped := 0 }

def Reader.reset : Reader := { rd := 0, mark := none, gone := false, markLost := false, code := 0 }

def TinSt.reset : TinSt :=
  { ins := List.replicate 8 TinIn.reset, buf := [], wr := 0, rdr := Reader.reset, lost := List.replicate 8 0,
    lostTotal := 0, ovfDue := false, ovf := false, recLatch := 0 }

/-- R215: REF_STATn reads 0x1E00_0080, REF_TTLn reads 0xFFFF_FFFF after reset. -/
def RefSt.reset : RefSt :=
  { st := .disq, never := true, twait := false, wtrLeft := 0, endWtr := false, fromDrift := false, los := false,
    freq := false, pjump := false, te := false, proj := false, qlf := false, integ := false, rxQl := 15, active := false,
    monAt := 0, passSince := none, lastAt := none, pjBad := false, lastT := 0, z := 0, zPrev := none, isNew := false, recent := [],
    freqHist := [], secHist := [], p := 0, pHist := [], pQual := 0, y := 0, x := 0, xEst := 0, dRate := 0, ttl := none, score := 0 }

def SelSt.reset : SelSt :=
  { started := false, refs := List.replicate 17 RefSt.reset, tod := { waiting := none, lastLabel := none, bad := 0 }, sel := none,
    prevId := none, reason := 0, forceMiss := false, ensWeak := true, chosenOnce := false, maintEnd := false, ctlToken := 0, ctlCode := 0 }

/-- R230: the uncertainties in use until the model is learnt, in the units of R232. -/
def Model.unlearnt : Model :=
  { f0 := 0, d := 0, k := 0, t0c := 0, uy := 1000000, ud := 36000000, uc := 1000000, learnS := 0 }

def SrvSt.reset : SrvSt :=
  { st := .idle, followed := false, target := none, stageBw := 0, stageSince := none, bridge := false, retLimit := false,
    winClamp := false, retTimes := [], yCmd := 0, yAnchor := 0, winY := 0, i := 0, p := 0, zf := 0, bo := 0, lastZ := none,
    refTime := none, refLatch := none, bridgeY := 0, selSince := 0, win := none, removal := false, retry := false,
    hold := none, pred := 0, yHist := [], eHist := [], tHist := [], model := Model.unlearnt, learnt := false,
    prior := false, fitS := 0, fitAt := 0, modelHist := [], ctlToken := 0, ctlCode := 0 }

def ClkOut.reset : ClkOut :=
  { unmuted := false, muted := true, aligned := false, realign := false, phase := 0, slewing := false, monMuted := false, start := 0, next := 0,
    per := 0, fmt := 0, mz := false }

def PpsOut.reset : PpsOut :=
  { unmuted := false, muted := true, high := false, width := 100000000, startedAt := 0, fine := 0, endedAt := none, eff := 0,
    slewing := false, inputLost := false, inPhase := none, inGoal := 0, inAt := 0, back := 0 }

def OutSt.reset : OutSt :=
  { clks := List.replicate 10 ClkOut.reset, pps := List.replicate 4 PpsOut.reset, todUnmuted := false, todMuted := true,
    todSeq := 0, todBusyUntil := 0, todLast := [], todAt := 0, todRate := 115200, todSec := none, todDue := false, gppsUnmuted := false, gppsMuted := true,
    gppsHighUntil := 0, gppsNext := none, gppsZ := none, qerr := 0 }

def Chan.reset : Chan :=
  { narrow := false, dopC := 0, dopW := 0, codeC := 0, ncoDop := 0, ncoCode := 0, st := .idle, sig := 255, svid := 0, fcn := 0, since := 0, slip := false, half := false, used := false,
    excl := false, handover := none, handed := false, cn0 := 0, elev := -128, txtime := 0, carrier := 0, doppler := 0,
    lockMs := 0, prdFails := [] }

def Sol.reset : Sol :=
  { valid := false, dual := false, nsat := 0, time := TimeWord.zero, z := 0, clkSat := false, gtePs := 0, posX := 0,
    posY := 0, posZ := 0, posSig := 0 }

def GnsSt.reset : GnsSt :=
  { clkNext := 0, scrRun := false, scrIdx := 0, scrWait := none, scrAgc := [], scrToken := none, spi := [], spiAt := 0, feFail := false,
    start := 3, startDue := false, startKind := 0, seen := [], redo := false, alm := List.replicate 8 none, gainA := 0, gainB := 0, rmsA := 0, rmsB := 0, fsA := 0, fsB := 0,
    chans := List.replicate 192 Chan.reset, blocked := [], newest := none, setNew := none, scaleSeen := 0, setCnt := 0, sol := Sol.reset, solMode := 0,
    surveyAt := 0, surveyN := 0, surveySum := (0, 0, 0), surveySq := 0, posMismatch := false, fixAvg := [], withhold := 0, noSol := 0,
    isbSol := List.replicate 6 none, isbBc := List.replicate 6 none, isbHist := List.replicate 6 [],
    sysUsed := List.replicate 6 0, firstValid := false, integ := .good, clearSince := none, goodSince := none,
    interfA := false, interfB := false, powerA := false, powerB := false, isbF := false, prdF := false, coastF := false,
    raimF := false, raimRun := 0, gainBaseA := 0, gainBaseB := 0, baseN := 0, lowA := 0, lowB := 0, fullA := 0,
    fullB := 0, cn0HistA := [], cn0HistB := [], gainHist := [], q := 0, qDue := true, qAnch := false,
    qPrevAt := none, qPrevZ := 0, qStep := 0, qFreq := 0, qAt := 0, slope := 0, qHist := [], leapConflict := false,
    excls := [], exclTimes := [], asleep := false, chkFail := false, chkNosol := false, winAt := none, chkZ := 0,
    chkSum := 0, chkN := 0, wakeDue := false, ctlToken := 0, ctlCode := 0 }

def Stop.reset : Stop := { until_ := 0, since := 0, holdoff := none, on := false }

def StkSt.reset : StkSt :=
  { calOk := false, calAlt := false, txphErr := false, rxDly := 0, txDly := 0, rxCal := 0, txCal := 0, rxAlt := 0,
    txAlt := 0, txPh := 0, txPhAlt := 0, replica := 0, replicaAlt := 0, altNow := false, cyc := 0, rep := (0, 0), txOff := (0, 0), delta := 0, convs := [],
    bad := 0, drop := none, prev := [] }

/-- R395: MAC_STAT reads 0x6000_0000; R396: MAC_ESMC_STAT reads 0x0000_F800. -/
def PortSt.reset : PortSt :=
  { link := false, linkWait := false, speed := 3, fec := false, pre := 0, verifyTries := 0, verifyAt := 0,
    stops := List.replicate 8 Stop.reset, pause := Stop.reset, xoff := none, xoffHold := none, xoffSent := 0, pauseStorm := false,
    xoffStorm := false, stepped := false, stepFail := false, stepping := none, lowSince := none, stepOff := false,
    held := true, rxQl := 15, rxQlAt := none, enh := false, txQl := 8, txQlLocked := 8, txQlSent := 8, esmcAt := none, pool := 0,
    reserve := 0, eg := [], committed := [], lineFree := 0, expFree := 0, rxWait := [], lastTx := [], lastOut := TimeWord.zero, rxLog := [], txLog := [],
    stk := StkSt.reset }

def Lane.reset : Lane := { parked := false, ctx := none, tag := 0, left := 0, set := none }

/-- R382: WV_PARK_STAT reads 0x0000_0808 after reset. -/
def WvSt.reset : WvSt :=
  { ctxs := [], queues := List.replicate 5 [], hostQ := [], lanes := List.replicate 8 Lane.reset,
    buckets := [], arr := [], step := 0, lanesOn := 8, parkWant := none, rotDue := false,
    rotToken := none, symToken := 0, symCode := 0, mints := [], clsErr := false, clsErrRule := 0, hashKey := 0 }

def PtpPort.reset : PtpPort :=
  { asCapable := false, oneStepOk := false, following := none, foreign := [],
    delays := [], mpd := none, ofs := 0, syncAt := 0, annAt := 0, twoStep := none, syncMs := none, exch := none, pdHist := [],
    pdFup := [], syncSeq := 0, annSeq := 0, reqSeq := 0, dreqTimes := [], renewAt := 0, granted := [], syncLog := none,
    syncSlot := none, annSlot := List.replicate 4 none, pdAt := none }

def PtpSt.reset : PtpSt :=
  { ports := List.replicate 4 PtpPort.reset, grants := [], ctlToken := 0, ctlCode := 0 }

def Ring.reset : Ring := { head := 0, tail := 0, next := 0, done := [] }

def Vec.reset : Vec := { events := 0, first := 0, pend := false, sent := 0 }

def PtmRes.reset : PtmRes :=
  { token := 0, code := 0, seq := 0, t1 := 0, rtt := 0, master := 0, turn := 0, prop := 0 }

/-- PRESUMED: the spec gives no reset value of a configuration register; these are PCI Express's (log 125). -/
def PciSt.reset : PciSt :=
  { mps := 0, mrrs := 2, aspmL1 := false, msixEn := false, fnMask := false, bar0 := 0, bar2 := 0 }

def HifSt.reset : HifSt :=
  { link := false, bme := false, ptmEn := false, speed := 0, width := 0, rx := List.replicate 16 Ring.reset,
    tx := List.replicate 16 Ring.reset, cq := List.replicate 2 Ring.reset, evs := Reader.reset, evsWr := 0,
    evsHostRd := 0, cause := 0, vecs := List.replicate 36 Vec.reset, ptm := PtmRes.reset,
    ptmRun := none, mem := [], txq := [], nextTx := 0, pci := PciSt.reset, compq := [] }

def PkeSt.reset : PkeSt :=
  { ops := [], bodWait := [], work := [], zeroUntil := List.replicate 8 0, unsealed := false, pufOk := false, curves := [] }

def Island.reset : Island :=
  { st := .untested, last := 255, scanAt := none, draining := false, targeted := false, ctl := none, 
    offline := false, rootRec := [] }

/-- R584: PATH_A and PATH_B are 1 after reset. -/
def FmuSt.reset : FmuSt :=
  { gate := false, pathA := true, pathB := true, pathFail := false, halted := false, lastRoot := 0, lastCause := 0,
    gateDiff := none, root := List.replicate 32 0, window := none, reports := [],
    portCal := false, tacDeg := false, islands := List.replicate 24 Island.reset, rotIdx := 0, rotAt := none, scrubs := [],
    ctlToken := 0, ctlCode := 0, lastHeart := 0, coreMv := 900, stretch := false, holdAt := none,
    episodes := 0, minMv := 900, droopRecAt := none, strCyc := 0, totCyc := 0, cycAt := 0 }

def Kept.reset : Kept :=
  { almanac := [], ephem := [], holdPos := none, holdSig := 0, utcOfs := [], iono := [], fix := none, anchor := 0, anchorAt := none, gainA := 0, gainB := 0, baseN := 0, script := 0 }

/-- FeRAM of a blank part: nothing kept, no sealed store, an empty log. -/
def FeSt.reset : FeSt :=
  { restarts := [], retired := [], pend := [], errs := [], rotCount := 0, copyA := none, copyB := none, nextB := false, replay := [],
    sealOk := true, blank := true, slots := [], kept := Kept.reset, log := [], nextSeq := 1, dropRecAt := none }

def UpdSt.reset : UpdSt :=
  { st := 0, slot := 0, code := 0, progress := 0, busy := false, verified := 0, hdr := List.replicate 32 0xFF, fw := 0,
    via := none }

def MgtSt.reset : MgtSt :=
  { tempNow := List.replicate 5 0, tempMax := List.replicate 5 0, railNow := List.replicate 5 0,
    railMin := List.replicate 5 0, tempHot := false, droopHeavy := false, recovery := false, fwSlot := 0, fwVer := 0,
    otarnKeys := [], upd := UpdSt.reset, otSec := 0, otCount := 0, otDrops := 0, otSrc := List.replicate 16 0, otWait := [], neigh := [], held := [],
    mbToken := 0, mbLen := 0, mbState := 0, mbox := List.replicate 1536 0, i2cPtr := 0,
    i2cPage := List.replicate 64 0, i2cOut := [], refreshed := none }

def BwSt.reset : BwSt :=
  { on := false, start := 0, rx := 0, tx := 0, cap := 0, capAt := 0, short := false, valid := false, rShort := false,
    rRx := 0, rTx := 0, rRxUtil := 0, rTxUtil := 0, rLen := 0, peakRx := 0, peakTx := 0, wseq := 0 }

def CfgSt.reset : CfgSt :=
  { flashOk := true, densityLog2 := 24, m144 := some 100, m114 := some 100, delayTenthsNs := 50, flash := [], fuses := [],
    codeA := 255, codeB := 255, fallback := false, fused := false, slot := 0, density := 0, modeBit := false, addr4 := false, div := 0,
    qspiTrip := false, label := [] }

def CmtSt.reset : CmtSt :=
  { sup := none, token := 0, code := 0, reject := false, done := false, st := 0, arg := 0xFFFFFF, cnt := 0, snap := [],
    isCheck := false }

def Latches.reset : Latches :=
  { time := TimeWord.zero, weft := 0, ctr := 0, gns := List.replicate 13 0, recSet := none, ptm := List.replicate 8 0,
    bw := List.replicate 5 (List.replicate 6 0), lastRead := 0 }

def JtagSt.reset : JtagSt := { ir := 0xF, bsr := 0, capture := 0 }

/-- The machine right after reset: a blank part at the instant of the start-up table of R44 at which RESET_N has been
released with every rail good, before the PLLs have locked. -/
def State.reset : State :=
  { now := 0, fresh := 0, stg := [], act := [], ctr := [], cmts := [], glb := GlbSt.reset, md := ModeSt.reset,
    tb := TbSt.reset, tac := TacSt.reset, tin := TinSt.reset, ref := SelSt.reset, srv := SrvSt.reset, out := OutSt.reset,
    gns := GnsSt.reset, ports := List.replicate 5 PortSt.reset, wv := WvSt.reset, ptp := PtpSt.reset, hif := HifSt.reset,
    pke := PkeSt.reset, fmu := FmuSt.reset, mgt := MgtSt.reset, pmc := List.replicate 5 BwSt.reset, cfg := CfgSt.reset,
    fe := FeSt.reset, lat := List.replicate 2 Latches.reset, userRead := 0, jtag := JtagSt.reset, pending := [] }

end Sys2Proof.Machine
end

