-- ==== Sys2Proof/Machine/Operands.lean ====
section
/-! DEFINITION. The configuration registers as a table: for every writable or image-set register its offsets, its block, its
reset word and its fields with their access and range, from the register tables of the chapters. Bits that no field lists are
RSV (R6): they read 0 and are never stored. -/

namespace Sys2Proof.Machine

open Sys2Proof

/-- Who may write a field: software at once (RW), software through the staged copy (RWS), or the image alone (R6, R81). -/
inductive Acc where
  | rw | rws | img
  deriving DecidableEq, Repr

/-- A field: its bits, access and allowed intervals. `sgn`: read as two's complement. `pair`: the low register of a 64-bit
quantity (R5). `clamp`: a value outside the range takes the nearer end instead of being rejected (R42, R84, R238). -/
structure Fld where
  acc : Acc
  hi : Nat
  lo : Nat
  rng : List (Int × Int) := []
  sgn : Bool := false
  pair : Bool := false
  clamp : Bool := false
  deriving DecidableEq, Repr

/-- A family of registers: `n` of them from `base`, `stride` apart. -/
structure RegDef where
  base : Nat
  stride : Nat
  n : Nat
  blk : Option CmtBlk
  reset : Nat
  flds : List Fld
  deriving DecidableEq, Repr

/-- An RWS field with one range. -/
def rws (hi lo : Nat) (a b : Int) : Fld := { acc := .rws, hi := hi, lo := lo, rng := [(a, b)] }

/-- An RWS field whose every value is allowed. -/
def rwsAny (hi lo : Nat) : Fld := { acc := .rws, hi := hi, lo := lo }

/-- A signed RWS field with one range. -/
def rwsS (hi lo : Nat) (a b : Int) : Fld := { acc := .rws, hi := hi, lo := lo, rng := [(a, b)], sgn := true }

/-- The low register of a signed 64-bit RWS quantity. -/
def rwsPair (a b : Int) : Fld := { acc := .rws, hi := 31, lo := 0, rng := [(a, b)], sgn := true, pair := true }

/-- An RW field. -/
def rwAny (hi lo : Nat) : Fld := { acc := .rw, hi := hi, lo := lo }

/-- An RW field replaced by the nearer end of its range (R42). -/
def rwClamp (hi lo : Nat) (a b : Int) : Fld := { acc := .rw, hi := hi, lo := lo, rng := [(a, b)], clamp := true }

/-- An image-set field. -/
def img (hi lo : Nat) (a b : Int) : Fld := { acc := .img, hi := hi, lo := lo, rng := [(a, b)] }

/-- An image-set field whose every value is allowed. -/
def imgAny (hi lo : Nat) : Fld := { acc := .img, hi := hi, lo := lo }

/-- One register. -/
def one (off : Nat) (b : CmtBlk) (reset : Nat) (f : List Fld) : RegDef := ⟨off, 4, 1, some b, reset, f⟩

/-- A family of registers of one block. -/
def arr (off stride n : Nat) (b : CmtBlk) (reset : Nat) (f : List Fld) : RegDef := ⟨off, stride, n, some b, reset, f⟩

/-- A family of registers of a block without staged fields, or whose block is that of no commit. -/
def plain (off stride n : Nat) (reset : Nat) (f : List Fld) : RegDef := ⟨off, stride, n, none, reset, f⟩

/-- M(n), n = 4 for MGT (R389). -/
def mBase (n : Nat) : Nat := 0x10000 + 0x4000 * n

/-- S(n) (R423). -/
def sBase (n : Nat) : Nat := 0x30000 + 0x100 * n

/-- B(n) (R213). -/
def bBase (n : Nat) : Nat := 0x60100 + 0x40 * n

/-- C(n) (R273). -/
def cBase (n : Nat) : Nat := 0x80100 + 0x20 * n

/-- P(m) (R275). -/
def pBase (m : Nat) : Nat := 0x80300 + 0x40 * m

/-- G(n) (R479). -/
def gBase (n : Nat) : Nat := 0x98400 + 0x400 * n

/-- I(n, m) (R480). -/
def iBase (n m : Nat) : Nat := gBase n + 0x40 + 0x20 * m

/-- The registers of one port's MAC block (R389 to R394); the fields marked "NP only" are RSV on MGT (n = 4). -/
def regsMac (n : Nat) : List RegDef :=
  let m := mBase n
  let b := CmtBlk.mac n
  [ one m b 1522 [img 31 30 0 3, img 29 29 0 1, img 28 28 0 1, img 13 0 1518 9216],
    one (m + 0x4) b 0 (if n < 4 then [rwsAny 31 31, rwsAny 30 30, rwsAny 29 29, rwsAny 28 26]
      else [rwsAny 31 31, rwsAny 29 29, rwsAny 28 26]),
    one (m + 0x8) b 0 [rwsAny 31 0],
    one (m + 0xC) b 0 [rwsAny 15 0],
    one (m + 0x10) b 100 (if n < 4 then [rwsAny 31 31, rwsAny 30 30, rwsAny 23 16, rws 13 0 10 10000]
      else [rwsAny 31 31, rwsAny 30 30, rws 13 0 10 10000]),
    one (m + 0x14) b 1000 [rws 15 0 100 60000] ] ++
  (if n < 4 then
    [ one (m + 0x18) b 0x00FF000A [rwsAny 31 31, rwsAny 30 30, rwsAny 23 16, rwsAny 9 8, rws 7 0 1 128],
      one (m + 0x1C) b 512 [rws 10 0 64 1536],
      one (m + 0x20) b 6 [rwsAny 31 31, rwsAny 30 30, rws 3 0 0 8],
      one (m + 0x24) b 0x0A143200 [rwsAny 31 31, rws 29 24 1 60, rws 23 16 1 50, rws 15 8 10 90] ]
   else [])

/-- The classifier's rules (R398): words W0 to W4, all RW, no commit. -/
def regsCls : List RegDef :=
  [ plain 0x24000 0x20 256 0 [rwAny 31 31, rwAny 27 24, rwAny 21 20, rwAny 18 16, rwAny 15 12, rwAny 11 8, rwAny 7 0],
    plain 0x24004 0x20 256 0 [rwAny 30 28, rwAny 27 16, rwAny 11 0],
    plain 0x24008 0x20 256 0 [rwAny 31 16, rwAny 15 8, rwAny 5 0],
    plain 0x2400C 0x20 256 0 [rwAny 31 16, rwAny 15 0],
    plain 0x24010 0x20 256 0 [rwAny 13 8, rwAny 7 0] ]

/-- ±1 ms in sns (R423, R479). -/
def msSns : Int := 65536000000

/-- STK (R423). -/
def regsStk : List RegDef :=
  [ arr 0x30000 0x100 4 .stk 0 [rwsPair (-msSns) msSns],
    arr 0x30004 0x100 4 .stk 0 [rwsAny 31 0],
    arr 0x30008 0x100 4 .stk 0 [rwsPair (-msSns) msSns],
    arr 0x3000C 0x100 4 .stk 0 [rwsAny 31 0] ]

/-- WV and SYM (R382, R453, R454). -/
def regsWv : List RegDef :=
  [ one 0x40000 .wv 0xE04003E8 [rwsAny 31 31, rwsAny 30 30, rwsAny 29 29, rws 23 16 1 255, rws 15 0 10 60000],
    one 0x40004 .wv 0 [rws 31 0 0 1000000000],
    one 0x40008 .wv 0xA0402000 [rwsAny 31 31, rws 29 24 8 32, rws 23 16 32 128, rws 15 8 1 255],
    one 0x4000C .wv 64 [rws 19 0 1 1000000],
    one 0x40010 .wv 1000 [rws 15 0 100 60000],
    one 0x40800 .wv 0x80402710 [rwsAny 31 31, rws 25 16 8 1023, rws 15 0 100 60000],
    one 0xB0000 .sym 24 [rws 9 0 1 720] ]

/-- TAC and TIN (R150, R152, R177, R179, R180). -/
def regsTac : List RegDef :=
  [ one 0x50000 .tac 0x98000001 [rwsAny 31 31, rws 28 24 20 26, rws 7 0 1 60],
    one 0x50008 .tac 0 [rwAny 9 8, rwAny 5 0],
    one 0x50010 .tac 1000 [rwAny 31 31, rws 26 0 1 100000000],
    arr 0x50100 0x20 8 .tac 0 [rwsAny 31 16, rwsAny 10 8, rws 5 4 0 2, rws 2 0 0 4],
    arr 0x50104 0x20 8 .tac 1000000 [rws 23 0 1 10000000],
    arr 0x50108 0x20 8 .tac 0 [rwsPair (-65536000) 65536000],
    arr 0x5010C 0x20 8 .tac 0 [rwsAny 31 0] ]

/-- REF (R207, R208, R213, R214). -/
def regsRef : List RegDef :=
  [ one 0x60000 .ref 0x8012C002 [rwsAny 31 31, rwsAny 30 30, rws 28 24 0 16, rws 23 12 0 3600, rws 5 0 1 60],
    one 0x60004 .ref 0x03C25800 [rws 31 20 10 3600, rws 19 8 60 3600],
    arr 0x60100 0x40 8 .ref 0x42000000 [rwsAny 31 31, rwsAny 30 27, rws 26 23 1 14, rws 22 21 0 2, rwsAny 20 20, rwsAny 16 0],
    arr 0x60300 0x40 9 .ref 0x42000000 [rwsAny 31 31, rwsAny 30 27, rws 26 23 1 14],
    arr 0x60104 0x40 17 .ref 2000000 [rws 31 0 1000 100000000],
    arr 0x60108 0x40 17 .ref 1000 [rws 31 0 10 1000000],
    arr 0x6010C 0x40 17 .ref 100 [rws 31 0 5 10000] ]

/-- SRV, TB and the mode registers (R42, R114, R128, R130, R236 to R241). -/
def regsSrv : List RegDef :=
  [ one 0x70000 .srv 0xA0002710 [rwsAny 31 31, rwsAny 30 30, rwsAny 29 29, rws 23 0 100 10000000],
    one 0x70004 .srv 0x000A0002 [rws 31 16 1 10000, rws 9 0 1 600],
    one 0x70008 .srv 1000 [{ acc := .rws, hi := 13, lo := 0, rng := [(0, 10000)] }],
    one 0x7000C .srv 5000 [rws 19 0 100 1000000],
    one 0x70010 .srv 0 [rwsPair 0 65536000000000],
    one 0x70014 .srv 0 [rwsAny 31 0],
    one 0x70018 .srv 1100 [rws 31 0 50 1000000],
    one 0x7001C .srv 100000 [rws 31 0 100 1000000000],
    one 0x70020 .srv 24 [rws 6 0 1 72],
    one 0x70024 .srv 10000 [imgAny 31 31, img 16 0 10000 100000],
    one 0x78020 .srv 0x03E80064 [rws 29 16 100 10000, rws 9 0 10 1000],
    one 0x78024 .srv 0 [rwsAny 0 0],
    arr 0x78034 4 5 .srv 0 [rwAny 31 0],
    one 0x78108 .srv 0x0507800A [rwAny 31 31, rwAny 30 30, rwClamp 29 24 0 60, rwClamp 23 12 10 3600, rwClamp 7 0 1 255] ]

/-- OUT (R272 to R278). -/
def regsOut : List RegDef :=
  [ one 0x80000 .out 100000 [rwsAny 31 30, rws 29 0 100 1000000000],
    arr 0x80100 0x20 10 .out 0x100003E8 [rwsAny 31 31, rwsAny 30 29, rwsAny 28 28, rws 27 26 0 2, rwsAny 25 25, rwsAny 24 24,
      rwsAny 23 23, rws 11 0 10 4095],
    arr 0x80104 0x20 10 .out 1 [rws 23 0 1 16777215],
    arr 0x80108 0x20 10 .out 0 [rwsAny 23 0],
    arr 0x8010C 0x20 10 .out 1 [rws 23 0 1 16777215],
    arr 0x80110 0x20 10 .out 0 [rwsS 31 0 (-500000000) 500000000],
    arr 0x80300 0x40 4 .out 0x00800000 [rwsAny 31 31, rwsAny 30 30, rwsAny 29 29, rwsAny 28 25, rws 24 23 0 2, rwsAny 22 22,
      rwsAny 21 21, rwsAny 20 20],
    arr 0x80304 0x40 4 .out 1000000000 [rws 31 0 100 4000000000],
    arr 0x80308 0x40 4 .out 100000000 [rws 31 0 4 3999999996],
    arr 0x8030C 0x40 4 .out 0 [rwsPair (-262144000000000) 262144000000000],
    arr 0x80310 0x40 4 .out 0 [rwsAny 31 0],
    one 0x80500 .out 0x10900258 [rwsAny 31 31, rwsAny 30 30, rws 29 28 0 2, rwsAny 27 27, rwsAny 26 26, rwsAny 25 25,
      rwsAny 23 21, rwsAny 20 18, rws 9 0 510 980],
    one 0x80600 .out 100 [rwsAny 31 31, rwsAny 30 30, rwsAny 29 29, rws 8 0 1 500] ]

/-- GNS (R312 to R317, R342 to R346). -/
def regsGns : List RegDef :=
  [ one 0x90000 .gns 0x00320000 [imgAny 31 31, imgAny 30 30, imgAny 29 29, imgAny 28 28, imgAny 27 27, img 23 16 25 250],
    one 0x90004 .gns 1582500 [img 31 0 1570000 1595000],
    one 0x90008 .gns 1176450 [img 31 0 1164000 1191000],
    arr 0x90010 4 2 .gns 0 [imgAny 31 26, imgAny 25 21, imgAny 20 16, imgAny 15 0],
    arr 0x91000 4 128 .gns 0 [imgAny 31 0],
    one 0x90040 .gns 0x7FF [rwsAny 10 0],
    one 0x90044 .gns 0x12000A19 [rws 31 29 0 5, rwsAny 28 28, rws 27 26 0 2, rwsAny 25 25, rws 15 8 0 60, rws 7 0 15 45],
    one 0x90048 .gns 0x012C00C8 [rws 31 15 60 86400, rws 13 0 10 10000],
    one 0x9004C .gns 50 [rws 13 0 1 10000],
    arr 0x90050 4 3 .gns 0 [rwsAny 31 0],
    one 0x9005C .gns 100 [rws 31 0 5 10000],
    one 0x90060 .gns 0 [rwsAny 1 0],
    arr 0x90068 8 3 .gns 0 [rwsPair 0 65536000000],
    arr 0x9006C 8 3 .gns 0 [rwsAny 31 0],
    one 0x90080 .gns 0xF828001E [rwsAny 31 31, rwsAny 30 30, rwsAny 29 29, rwsAny 28 28, rwsAny 27 27, rws 23 16 10 200,
      rws 15 0 5 1000],
    one 0x90084 .gns 0x0A032064 [rws 31 24 1 100, rws 23 12 10 4000, rws 11 0 10 4000],
    one 0x90088 .gns 0x8258012C [rws 31 30 1 3, rws 27 16 60 3600, rws 11 0 10 3600],
    one 0x9008C .gns 2360 [rws 12 0 2048 8191],
    one 0x90090 .gns 0x00F00E10 [rwsAny 31 31, rws 28 17 90 3600, rws 16 0 600 86400],
    one 0x90094 .gns 100 [rws 19 0 10 1000000] ]

/-- PTP (R479 to R482). -/
def regsPtp : List RegDef :=
  [ arr 0x98000 4 2 .ptp 0 [rwsAny 31 0],
    arr 0x98040 8 16 .ptp 0 [rwsAny 31 0],
    arr 0x98044 8 16 .ptp 0 [rwsAny 31 31, rwsAny 6 0],
    one 0x980D0 .ptp 0 [rwAny 13 0],
    arr 0x98400 0x400 4 .ptp 0x030186A0 [rwsAny 31 31, rwsAny 30 30, rws 29 27 0 4, rws 26 24 2 7, rwsS 23 20 (-7) 5,
      rws 19 0 0 1000000],
    arr 0x98404 0x400 4 .ptp 0 [rwsAny 31 0],
    arr 0x98408 0x400 4 .ptp 0 [rwsAny 31 0],
    arr 0x9840C 0x400 4 .ptp 0 [rwsAny 31 0],
    arr 0x98410 0x400 4 .ptp 0 [rwsAny 31 0],
    arr 0x98414 0x400 4 .ptp 0 [rwsAny 31 0],
    arr 0x98418 0x400 4 .ptp 800 [rws 31 0 1 1000000],
    arr 0x9841C 0x400 4 .ptp 0 [rwsPair (-msSns) msSns],
    arr 0x98420 0x400 4 .ptp 0 [rwsAny 31 0],
    arr 0x98424 0x400 4 .ptp 0 [rwsAny 31 0],
    arr 0x98428 0x400 4 .ptp 0 [rwsAny 15 0] ] ++
  (List.range 4).flatMap fun m =>
    [ arr (iBase 0 m) 0x400 4 .ptp 0x00008080 [rwsAny 31 31, rwsAny 30 30, rwsAny 29 29, rws 28 27 0 2, rwsAny 26 26,
        rwsAny 25 25, rwsAny 24 24, rws 23 16 0 127, rwsAny 15 8, rwsAny 7 0],
      arr (iBase 0 m + 4) 0x400 4 .ptp 0x01002180 [rwsAny 31 28, rwsAny 27 24, rwsAny 23 20,
        { acc := .rws, hi := 15, lo := 8, rng := [(0x17, 0x31), (0xFE, 0xFE)] }, rws 7 0 1 255],
      arr (iBase 0 m + 8) 0x400 4 .ptp 0 [rwsAny 31 24, rwsAny 3 0],
      arr (iBase 0 m + 12) 0x400 4 .ptp 0x002E0000 [rwsAny 31 31, rwsAny 30 28, rwsAny 21 16, rwsAny 11 0],
      arr (gBase 0 + 0x100 + 0x20 * m) 0x400 4 .ptp 0 [rwsAny 31 31, rwsAny 30 30, rwsAny 7 0],
      arr (gBase 0 + 0x104 + 0x20 * m) 0x400 4 .ptp 0 [rwsAny 31 0],
      arr (gBase 0 + 0x108 + 0x20 * m) 0x400 4 .ptp 0 [rwsAny 31 0],
      arr (gBase 0 + 0x10C + 0x20 * m) 0x400 4 .ptp 0 [rwsAny 31 0],
      arr (gBase 0 + 0x110 + 0x20 * m) 0x400 4 .ptp 0 [rwsAny 31 0] ]

/-- PKE, KST, BST, FMU and PMC (R547, R550, R583, R588, R631, R632). -/
def regsSafety : List RegDef :=
  [ one 0xA0000 .pke 0x80000000 [rwsAny 31 31],
    plain 0xC0000 4 1 0 [rwAny 6 0],
    one 0xD0000 .bst 0x800003E8 [rwsAny 31 31, rws 15 0 100 60000],
    one 0xE0000 .fmu 1000 [rws 19 0 50 1000000],
    one 0xE0004 .fmu 3600000 [rws 31 0 0 4000000000],
    one 0xF0000 .pmc 0 [rwAny 31 31],
    arr 0xF0100 0x20 5 .pmc 1000 [rws 13 0 0 10000] ]

/-- MGT (R620, R621). -/
def regsMgt : List RegDef :=
  [ one 0x100010 .mgt 0x98000064 [rwsAny 31 31, rwsAny 30 30, rws 29 24 8 30, rws 9 0 1 1000],
    arr 0x100014 4 6 .mgt 0 [rwsAny 31 0],
    one 0x100030 .mgt 105 [rws 7 0 60 120],
    one 0x101008 .mgt 0 [rwAny 10 0],
    one 0x100104 .mgt 0 [rwAny 31 0] ]

/-- HIF (R498, R512, R514, R515, R518, R519), and the MSI-X table as PCI Express lays it out (R513). -/
def regsHif : List RegDef :=
  [ one 0x110000 .hif 50 [rws 15 0 1 10000],
    arr 0x110100 0x20 32 .hif 0 [rwsAny 31 0],
    arr 0x110104 0x20 32 .hif 0 [rwsAny 31 0],
    arr 0x110108 0x20 32 .hif 6 [rwsAny 31 31, rws 4 0 6 16],
    arr 0x110500 0x20 2 .hif 0 [rwsAny 31 0],
    arr 0x110504 0x20 2 .hif 0 [rwsAny 31 0],
    arr 0x110508 0x20 2 .hif 6 [rwsAny 31 31, rws 4 0 4 10],
    arr 0x110600 4 2 .hif 0 [rwsAny 31 0],
    one 0x110608 .hif 10 [rwsAny 31 31, rwsAny 30 30, rws 4 0 10 20],
    one 0x110704 .hif 0 [rwAny 11 0],
    arr 0x118000 16 36 .hif 0 [rwAny 31 2],
    arr 0x118004 16 36 .hif 0 [rwAny 31 0],
    arr 0x118008 16 36 .hif 0 [rwAny 31 0],
    arr 0x11800C 16 36 .hif 1 [rwAny 0 0],
    arr 0x110800 4 36 .hif 1 [rwAny 25 16, rwAny 7 0],
    one 0x110900 .hif 100 [rwsAny 31 31, rws 9 0 1 1000] ]

/-- The registers of a block, in the order of their offsets' families. -/
def regsOf : CmtBlk → List RegDef
  | .mac n => regsMac n
  | .stk => regsStk
  | .wv => regsWv.filter (fun r => r.base < 0xB0000)
  | .sym => regsWv.filter (fun r => 0xB0000 ≤ r.base)
  | .tac => regsTac
  | .ref => regsRef
  | .srv => regsSrv
  | .out => regsOut
  | .gns => regsGns
  | .ptp => regsPtp
  | .pke => regsSafety.filter (fun r => r.base = 0xA0000)
  | .bst => regsSafety.filter (fun r => r.base = 0xD0000)
  | .fmu => regsSafety.filter (fun r => 0xE0000 ≤ r.base ∧ r.base < 0xF0000)
  | .pmc => regsSafety.filter (fun r => 0xF0000 ≤ r.base)
  | .mgt => regsMgt
  | .hif => regsHif

/-- The registers that stand in the block of an offset (R637). -/
def regsAt (off : Nat) : List RegDef :=
  if off < 0x10000 then [] else
  if off < 0x24000 then regsMac ((off - 0x10000) / 0x4000) else
  if off < 0x30000 then regsCls else
  match off / 0x10000 with
  | 3 => regsStk
  | 4 => regsWv
  | 5 => regsTac
  | 6 => regsRef
  | 7 => regsSrv
  | 8 => regsOut
  | 9 => if off < 0x98000 then regsGns else regsPtp
  | 10 => regsSafety
  | 11 => regsWv
  | 12 => regsSafety
  | 13 => regsSafety
  | 14 => regsSafety
  | 15 => regsSafety
  | 16 => regsMgt
  | 17 => regsHif
  | _ => []

/-- Whether a family has a register at an offset. -/
def RegDef.has (r : RegDef) (off : Nat) : Bool :=
  decide (r.base ≤ off) && (off - r.base) % r.stride == 0 && decide ((off - r.base) / r.stride < r.n)

/-- The register at an offset, if it is writable or set by image. -/
def regDef (off : Nat) : Option RegDef := (regsAt off).find? (fun r => r.has off)

/-- The word a register resets to (R8). -/
def regReset (off : Nat) : W32 := match regDef off with
  | some r => BitVec.ofNat 32 r.reset
  | none => 0

/-- The bits of a field. -/
def Fld.mask (f : Fld) : W32 := BitVec.ofNat 32 ((2 ^ (f.hi + 1 - f.lo) - 1) * 2 ^ f.lo)

/-- The bits of a register's fields of some access. -/
def RegDef.mask (r : RegDef) (p : Acc → Bool) : W32 :=
  (r.flds.filter (fun f => p f.acc)).foldl (fun m f => m ||| f.mask) 0

/-- The value of a field in its register, with the upper register of a 64-bit pair. -/
def Fld.val (f : Fld) (w wHi : W32) : Int :=
  if f.pair then signed 64 (w.toNat + wHi.toNat * 2 ^ 32) else
  let n := f.hi + 1 - f.lo
  if f.sgn then signed n (bitsOf w f.hi f.lo) else (bitsOf w f.hi f.lo : Nat)

/-- Whether a field's value lies in its range. -/
def Fld.ok (f : Fld) (v : Int) : Bool := f.rng.isEmpty || f.rng.any (fun r => decide (r.1 ≤ v ∧ v ≤ r.2))

/-- A word with its clamped fields brought to the nearer end of their ranges (R42). -/
def RegDef.clamped (r : RegDef) (w : W32) : W32 :=
  r.flds.foldl (fun w f =>
    if f.clamp then
      match f.rng with
      | [(a, b)] =>
        let v := max a (min b (f.val w 0))
        (w &&& ~~~f.mask) ||| BitVec.ofNat 32 (unsigned (f.hi + 1 - f.lo) v * 2 ^ f.lo)
      | _ => w
    else w) w

/-- Where a block's commit registers stand (R87). -/
def cmtOff : CmtBlk → Nat
  | .mac n => 0x13F00 + 0x4000 * n
  | .stk => 0x33F00
  | .wv => 0x43F00
  | .tac => 0x53F00
  | .ref => 0x63F00
  | .srv => 0x73F00
  | .out => 0x83F00
  | .gns => 0x93F00
  | .ptp => 0x9BF00
  | .pke => 0xA3F00
  | .sym => 0xB3F00
  | .bst => 0xD3F00
  | .fmu => 0xE3F00
  | .pmc => 0xF3F00
  | .mgt => 0x103F00
  | .hif => 0x113F00

/-- The base from which CMT_ARG counts (R91). -/
def blkBase (b : CmtBlk) : Nat := cmtOff b - 0x3F00

/-- The blocks with commit registers. -/
def allBlks : List CmtBlk :=
  [.mac 0, .mac 1, .mac 2, .mac 3, .mac 4, .stk, .wv, .tac, .ref, .srv, .out, .gns, .ptp, .pke, .sym, .bst, .fmu, .pmc,
    .mgt, .hif]

end Sys2Proof.Machine
end

