-- ==== Sys2Proof/Machine/Ops.lean ====
section
/-! DEFINITION. The operations that every family shares: sparse maps, registers, counters, time words, interrupt causes, the
FeRAM log and fault reports. -/

namespace Sys2Proof.Machine

open Sys2Proof

/-! Sparse maps in canonical form. -/

/-- The entry at a key. -/
def Assoc.get {α : Type} (k : Nat) : Assoc α → Option α
  | [] => none
  | (k', v) :: m => if k = k' then some v else if k < k' then none else Assoc.get k m

/-- The map with an entry put at a key. -/
def Assoc.put {α : Type} (k : Nat) (v : α) : Assoc α → Assoc α
  | [] => [(k, v)]
  | (k', v') :: m => if k = k' then (k, v) :: m else if k < k' then (k, v) :: (k', v') :: m else (k', v') :: Assoc.put k v m

/-- The map without an entry at a key. -/
def Assoc.del {α : Type} (k : Nat) : Assoc α → Assoc α
  | [] => []
  | (k', v') :: m => if k = k' then m else if k < k' then (k', v') :: m else (k', v') :: Assoc.del k m

/-- Write through a default: the value that an unlisted key reads as is not listed. -/
def Assoc.putD {α : Type} [DecidableEq α] (d : α) (k : Nat) (v : α) (m : Assoc α) : Assoc α :=
  if v = d then Assoc.del k m else Assoc.put k v m

/-- Canonical form: keys strictly rising, and no entry equal to its key's default. -/
def Assoc.wf {α : Type} [DecidableEq α] (d : Nat → α) : Assoc α → Bool
  | [] => true
  | [(k, v)] => decide (v ≠ d k)
  | (k, v) :: (k', v') :: m => decide (v ≠ d k) && decide (k < k') && Assoc.wf d ((k', v') :: m)

/-! Registers. -/

/-- The word a map holds for a register, or its reset value. -/
def RegMap.rd (m : RegMap) (off : Nat) : W32 := (Assoc.get off m).getD (regReset off)

/-- A register of a map written. -/
def RegMap.wr (m : RegMap) (off : Nat) (v : W32) : RegMap := Assoc.putD (regReset off) off v m

/-- The active word of a configuration register: what the block uses. -/
def State.reg (s : State) (off : Nat) : W32 := RegMap.rd s.act off

/-- Bits of an active register. -/
def State.fld (s : State) (off hi lo : Nat) : Nat := bitsOf (s.reg off) hi lo

/-- One bit of an active register. -/
def State.bit (s : State) (off i : Nat) : Bool := bitAt (s.reg off) i

/-- A 64-bit active quantity, signed (R5). -/
def State.pair (s : State) (off : Nat) : Int := signed 64 ((s.reg off).toNat + (s.reg (off + 4)).toNat * 2 ^ 32)

/-! Counters (R9). -/

/-- A counter after `n` more counts: bits 47:0 wrap, and WRAP stays set once they have. -/
def ctrAdd (c : BitVec 64) (n : Nat) : BitVec 64 :=
  let v := c.toNat % 2 ^ 48 + n
  BitVec.ofNat 64 (v % 2 ^ 48 + (if c.toNat / 2 ^ 63 = 1 ∨ 2 ^ 48 ≤ v then 2 ^ 63 else 0))

/-- The 64 bits of a counter. -/
def State.ctrAt (s : State) (off : Nat) : BitVec 64 := (Assoc.get off s.ctr).getD 0

/-- A counter incremented by `n`. -/
def State.countN (s : State) (off n : Nat) : State :=
  { s with ctr := Assoc.putD 0 off (ctrAdd (s.ctrAt off) n) s.ctr }

/-- A counter incremented. -/
def State.count (s : State) (off : Nat) : State := s.countN off 1

/-- MAC counter `i` of port `n` (R397). -/
def macCtr (n i : Nat) : Nat := mBase n + 0x100 + 8 * i

/-- Stake counter `i` of port `n` (R425). -/
def stkCtr (n i : Nat) : Nat := sBase n + 0x40 + 8 * i

/-- Weave and Packer counter `i` (R455). -/
def wvCtr (i : Nat) : Nat := 0x40200 + 8 * i

/-- PTP counter `i` of port `n` (R486). -/
def ptpCtr (n i : Nat) : Nat := gBase n + 0x300 + 8 * i

/-- Host interface counter `i` (R521). -/
def hifCtr (i : Nat) : Nat := 0x110A00 + 8 * i

/-- Fault manager counter `i` (R587). -/
def fmuCtr (i : Nat) : Nat := 0xE0100 + 8 * i

/-- PKE counter `i` (R553). -/
def pkeCtr (i : Nat) : Nat := 0xA0100 + 8 * i

/-- GNSS counter `i` (R320). -/
def gnsCtr (i : Nat) : Nat := 0x90300 + 8 * i

/-! Time. -/

/-- V with TIME_SET taken as set. -/
def State.vMode (s : State) : Bool :=
  match s.md.mode with
  | .locked => true
  | .holdover => true
  | .maintain => s.md.origin == some .locked || s.md.origin == some .holdover
  | _ => false

/-- V of the mode table (R32), with R100: 0 until the first SET from a reference. -/
def State.vBit (s : State) : Bool :=
  s.md.timeSet && s.vMode

/-- SEC of Warp. -/
def State.secNow (s : State) : Nat := s.tb.warp / nsPerSec

/-- NS of Warp. -/
def State.nsNow (s : State) : Nat := s.tb.warp % nsPerSec

/-- Warp in sns, with FRAC. -/
def State.warpSns (s : State) : Nat := s.tb.warp * snsPerNs + s.tb.frac

/-- A time word of `t` sns with the V and L bits in force (R1, R99). -/
def State.word (s : State) (t : Nat) : TimeWord := ⟨t, s.vBit, s.tb.l⟩

/-- The time word of this instant, taken without a TAC (R99). -/
def State.nowWord (s : State) : TimeWord := s.word s.warpSns

/-- Weft in nanoseconds (R108). -/
def State.weftNs (s : State) : Nat := s.tb.weftFix / 2 ^ 32 % 2 ^ 64

/-- Weft as every comparison uses it: with the change that it has yet to take on its next cycle (R118). -/
def State.weftCmp (s : State) : Nat :=
  match s.tb.weftDue with
  | some c => unsigned 64 ((s.weftNs : Int) + c.by_)
  | none => s.weftNs

/-- Warp − Weft modulo 2^64, read as a signed number (R109). -/
def weftDiff (warpNs weftNs : Nat) : Int := signed 64 ((warpNs + 2 ^ 64 - weftNs % 2 ^ 64) % 2 ^ 64)

/-! The leap table (R134 to R137). -/

/-- The offset in force at a SEC: the first entry's before the second entry's E, and 0 with the table empty. -/
def leapOfs : List (Nat × Int) → Nat → Int
  | [], _ => 0
  | (_, o) :: rest, sec => ((rest.filter (fun e => e.1 ≤ sec)).getLast?.map (·.2)).getD o

/-- The next leap event after a SEC, and whether it deletes a second; the first entry is never an event. -/
def leapNext : List (Nat × Int) → Nat → Option (Nat × Bool)
  | (_, o) :: (e, o') :: rest, sec => if sec < e then some (e, decide (o' < o)) else leapNext ((e, o') :: rest) sec
  | _, _ => none

/-- L (R136): 1 from the start of the UTC day whose last minute holds the next event until that event's E. E − offset of
the entry is a multiple of 86,400, so the day begins 86,400 UTC seconds earlier, at the offset then in force. -/
def leapL (tbl : List (Nat × Int)) (sec : Nat) : Bool :=
  match leapNext tbl sec with
  | some (e, del) => decide (((e : Int) - (leapOfs tbl e) - 86400) + (leapOfs tbl e + (if del then 1 else -1)) ≤ (sec : Int))
  | none => false

/-- L, the offset in force and the next event read anew from the table at this SEC. -/
def State.refreshLeap (s : State) : State :=
  { s with tb := { s.tb with l := leapL s.tb.leap s.secNow, utcOfs := leapOfs s.tb.leap s.secNow,
                             next := leapNext s.tb.leap s.secNow } }

/-- The seconds from 1900 and the fraction of R137, from a time word's own SEC. -/
def ntpOf (tbl : List (Nat × Int)) (w : TimeWord) : Nat :=
  let o := leapOfs tbl w.sec
  let u : Int := (w.sec : Int) - o
  let u := match leapNext tbl w.sec with
    | some (e, false) => if w.sec + 1 = e then u - 1 else u
    | _ => u
  let n := u + 2208988800
  unsigned 32 n * 2 ^ 32 + (w.t % snsPerSec) * 2 ^ 32 / snsPerSec

/-! Interrupt causes and MSI-X events (R513 to R515). -/

/-- An event of a vector: the first since the last message starts ITR_TIME. -/
def State.vecEvent (s : State) (v : Nat) : State :=
  { s with hif := { s.hif with vecs := updAt s.hif.vecs v fun x =>
      { x with events := x.events + 1, first := if x.events = 0 then s.now else x.first } } }

/-- A cause bit set; enabled by its mask bit, it is an event of vector 35. -/
def State.cause (s : State) (b : Nat) : State :=
  let s1 := { s with hif := { s.hif with cause := s.hif.cause ||| BitVec.ofNat 32 (2 ^ b) } }
  if s.bit 0x110704 b then s1.vecEvent 35 else s1

/-! The FeRAM log (R599, R600). -/

/-- A log record written: SEQ is never reused, and when the log is full the lowest SEQ is overwritten. -/
def State.logAs (s : State) (fmu : Bool) (typ : Nat) (body : List Byte) : State :=
  let r : LogRec := { typ := typ, fmu := fmu, seq := s.fe.nextSeq, time := s.nowWord, body := padTo 40 body }
  let l := s.fe.log ++ [r]
  ({ s with fe := { s.fe with log := l.drop (l.length - 4096), nextSeq := s.fe.nextSeq + 1 } }).count 0x100218

/-- A record written by Bodkin: none while it is halted (R127, R567). -/
def State.log (s : State) (typ : Nat) (body : List Byte) : State := if s.fmu.halted then s else s.logAs false typ body

/-! Fault reports and the storm window (R568, R569). -/

/-- A fault report, which joins the open window or opens one; `safe` is its SAFE cause or 0. -/
def State.faultReport (s : State) (tag safe : Nat) : State :=
  let r : Report := { tag := tag, time := s.nowWord, safe := safe }
  let f := s.fmu
  let f := match f.window with
    | none => { f with window := some s.now, reports := [r] }
    | some _ => { f with reports := f.reports ++ [r] }
  ({ s with fmu := f }).count (fmuCtr 1)

/-- A free value drawn: the counter advances so that the next draw is another. -/
def State.draw (s : State) : Nat × State := (Config.free s.fresh, { s with fresh := s.fresh + 1 })

/-! Arithmetic that a rule names without a precision. -/

/-- A rational held to an interval. -/
def clampQ (lo hi x : Rat) : Rat := max lo (min hi x)

/-- π to six places, the rest as `Config.pi` says. -/
def piQ : Rat := clampQ (3141592 / 1000000) (3141593 / 1000000) Config.pi

/-- The bits of an integer square root from 2^(k−1) down, added to `r`. -/
def isqrtGo : Nat → Nat → Nat → Nat
  | 0, _, r => r
  | k + 1, n, r => isqrtGo k n (if (r + 2 ^ k) * (r + 2 ^ k) ≤ n then r + 2 ^ k else r)

/-- The integer square root. -/
def isqrt (n : Nat) : Nat := isqrtGo (n.log2 / 2 + 1) n 0

/-- The square root to 128 binary places, the rest as `Config.sqrt` says; 0 of a negative number. -/
def sqrtQ (x : Rat) : Rat :=
  let lo : Rat := (isqrt (x * 2 ^ 256).floor.toNat : Rat) / 2 ^ 128
  if x ≤ 0 then 0 else clampQ lo (lo + 1 / 2 ^ 128) (Config.sqrt x)

/-- The period of CLK_GNSS, 81.84 MHz, in ns of CLK_TIME: both descend from the clean-up PLL (R13). -/
def gnssPeriod : Rat := 12500 / 1023

/-- The nearest integer; a tie goes as `Config.tieUp` says. -/
def roundQ (x : Rat) : Int :=
  if x - x.floor = 1 / 2 then (if Config.tieUp x then x.floor + 1 else x.floor) else (x + 1 / 2).floor

/-! Ports, references and lists of like things. -/

/-- A port's state. -/
def State.port (s : State) (n : Nat) : PortSt := s.ports.getD n PortSt.reset

/-- A port's state changed. -/
def State.setPort (s : State) (n : Nat) (f : PortSt → PortSt) : State := { s with ports := updAt s.ports n f }

/-- A reference's state. -/
def State.refAt (s : State) (n : Nat) : RefSt := s.ref.refs.getD n RefSt.reset

/-- A reference's state changed. -/
def State.setRef (s : State) (n : Nat) (f : RefSt → RefSt) : State :=
  { s with ref := { s.ref with refs := updAt s.ref.refs n f } }

/-- A block's commit registers and pending copy. -/
def cmtKey (b : CmtBlk) : Nat := cmtOff b

def State.cmt (s : State) (b : CmtBlk) : CmtSt := (Assoc.get (cmtKey b) s.cmts).getD CmtSt.reset

def State.setCmt (s : State) (b : CmtBlk) (c : CmtSt) : State :=
  { s with cmts := Assoc.putD CmtSt.reset (cmtKey b) c s.cmts }

/-! Access paths. -/

/-- Which read latches an access path uses (R102). -/
def pathIx : Path → Nat
  | .host => 0
  | .otarn => 1

/-- The read latches of a path. -/
def State.latOf (s : State) (p : Path) : Latches := s.lat.getD (pathIx p) Latches.reset

/-- The read latches of a path changed. -/
def State.setLat (s : State) (p : Path) (f : Latches → Latches) : State := { s with lat := updAt s.lat (pathIx p) f }

/-- Whether the boot shadow hides every block other than GLB: in BOOT (R494). -/
def State.shadow (s : State) : Bool := s.md.mode == .boot && s.cfg.slot == 0

/-! CRC-32 (IEEE 802.3), as HCRC (R63), the step check value (R115) and the log (R599) use it. -/

/-- One bit of the reflected CRC. -/
def crcBit (c : Nat) : Nat := if c % 2 = 1 then (c / 2) ^^^ 0xEDB88320 else c / 2

/-- One byte of the reflected CRC. -/
def crcByte (c : Nat) (b : Byte) : Nat :=
  crcBit (crcBit (crcBit (crcBit (crcBit (crcBit (crcBit (crcBit (c ^^^ b.toNat))))))))

/-- CRC-32 of bytes. -/
def crc32 (bs : List Byte) : Nat := (bs.foldl crcByte 0xFFFFFFFF) ^^^ 0xFFFFFFFF

/-- A lane without a request. -/
def Lane.idle (l : Lane) : Lane := { l with ctx := none, left := 0, set := none }

end Sys2Proof.Machine
end

