-- ==== Sys2Proof/Machine/Bandwidth.lean ====
section
/-! DEFINITION. The bandwidth windows of the ports (R628 to R630), as every block that moves frames or Warp reckons them. -/

namespace Sys2Proof.Machine

open Sys2Proof

/-- Line octets of a microsecond at a speed code (R628). -/
def octetsPerUs (speed : Nat) : Nat := [125, 1250, 3125].getD speed 0

/-- A port's bandwidth window changed. -/
def State.setBw (s : State) (n : Nat) (f : BwSt → BwSt) : State := { s with pmc := updAt s.pmc n f }

/-- The capacity of a port's window reckoned up to now (R628). -/
def State.bwAccrue (s : State) (n : Nat) : State :=
  let p := s.port n
  s.setBw n fun b => { b with cap := b.cap + (if b.on && p.link then (s.now - b.capAt) / 1000 * octetsPerUs p.speed else 0), capAt := s.now }

/-- WIN of a port in ms (R632). -/
def bwOff (n : Nat) : Nat := 0xF0100 + 0x20 * n
def State.bwWin (s : State) (n : Nat) : Nat := s.fld (bwOff n) 13 0

/-! What has passed lately (R24, R380, R384): instants with an amount each. -/

/-- The entries of the last `span` ns, and one more. -/
def logLoad (now span : Nat) (l : List (Nat × Nat)) (x : Nat) : List (Nat × Nat) :=
  l.filter (fun e => decide (now < e.1 + span)) ++ [(now, x)]

/-- The amount of the last `span` ns. -/
def loadOf (now span : Nat) (l : List (Nat × Nat)) : Nat := ((l.filter (fun e => decide (now < e.1 + span))).map (·.2)).sum

/-- 100 ms, over which R24 measures demand and R384 a port's rate. -/
abbrev loadSpan : Nat := 100000000

/-- STEP_DN and STEP_UP of a port in bits per 100 ms (R394). -/
def State.stepDn (s : State) (n : Nat) : Nat := s.fld (mBase n + 0x24) 23 16 * 10000000
def State.stepUpAt (s : State) (n : Nat) : Nat := s.fld (mBase n + 0x24) 15 8 * 10000000

/-- Line octets received or sent on a port: counted into its window (R628), into the rates of its last 100 ms (R380, R384), and a
direction at or above STEP_DN begins the wait of R384 again. -/
def State.lineLoad (s : State) (n octets : Nat) (rx : Bool) : State :=
  let s1 := s.setBw n fun b =>
    if !b.on then b else if rx then { b with rx := b.rx + octets } else { b with tx := b.tx + octets }
  let p := s1.port n
  let l := logLoad s1.now loadSpan (if rx then p.rxLog else p.txLog) (8 * octets)
  let busy := decide (s1.stepDn n ≤ loadOf s1.now loadSpan l)
  s1.setPort n fun p =>
    { p with rxLog := if rx then l else p.rxLog, txLog := if rx then p.txLog else l, lowSince := if busy then some s1.now else p.lowSince }

/-- UTIL of R628. -/
def bwUtil (octets cap : Nat) : Nat := if cap = 0 then 0 else min 1000 (1000 * octets / cap)

/-- A window closed: its results replace those of the window before it, and the next one begins, unless WIN is 0 (R629, R630).
`short`: this window is shorter than WIN; `next`: so is the one that begins. -/
def State.bwClose (s : State) (n : Nat) (short next : Bool) : State :=
  let off := s.bwWin n == 0
  (s.bwAccrue n).setBw n fun b =>
    let rx := bwUtil b.rx b.cap
    let tx := bwUtil b.tx b.cap
    let b1 := { b with wseq := (b.wseq + 1) % 2 ^ 64, peakRx := max b.peakRx rx, peakTx := max b.peakTx tx, on := !off, start := s.now,
                       rx := 0, tx := 0, cap := 0, short := next }
    if off then { b1 with valid := false, rShort := false, rRx := 0, rTx := 0, rRxUtil := 0, rTxUtil := 0, rLen := 0 }
    else { b1 with valid := true, rShort := b.short || short, rRx := b.rx, rTx := b.tx, rRxUtil := rx, rTxUtil := tx,
                   rLen := (s.now - b.start) / 1000 % 2 ^ 24 }

/-- The windows in progress closed at the apply instant of a SET or STEP (R629). -/
def State.bwStep (s : State) : State :=
  (List.range 5).foldl (fun s n => if (s.pmc.getD n BwSt.reset).on then s.bwClose n true true else s) s

/-- A window begun (R629, R630). -/
def State.bwStart (s : State) (n : Nat) : State :=
  s.setBw n fun b => { b with on := true, start := s.now, rx := 0, tx := 0, cap := 0, capAt := s.now, short := true }

end Sys2Proof.Machine
end

