-- ==== Sys2Proof/Machine/Flags.lean ====
section
/-! DEFINITION. What is computed from the state and shown outside: the status balls and status bits (R41, R50, R51), degraded
capacity (R585), and the mute policy of the outputs (R52, R259 to R263). -/

namespace Sys2Proof.Machine

open Sys2Proof

/-- HOLD_BUDGET in sns. -/
def State.holdBudget (s : State) : Rat := ((s.reg 0x70018).toNat * snsPerNs : Nat)

/-- HOLD_LIMIT in sns. -/
def State.holdLimit (s : State) : Rat := ((s.reg 0x7001C).toNat * snsPerNs : Nat)

/-- The measured time error: the magnitude of the servo's filtered error, in sns (R37). -/
def State.measured (s : State) : Rat := |s.srv.zf|

/-- The predicted error E (R234), in sns. -/
def State.predicted (s : State) : Rat := s.srv.pred

/-- Whether a returned reference is being slewed into, so that the error is measured (R37, R41). -/
def State.slewedInto (s : State) : Bool := s.md.mode == .holdover && s.ref.sel.isSome && s.srv.st == .tracking

/-- The time error that the network indications follow, in sns (R37, R439). -/
def State.shownError (s : State) : Rat := if s.md.mode == .locked || s.slewedInto then s.measured else s.predicted

/-- IN_BUDGET (R41). -/
def State.inBudget (s : State) : Bool :=
  match s.md.mode with
  | .locked => true
  | .holdover => decide (s.shownError ≤ s.holdBudget)
  | .maintain =>
    (s.md.origin == some .locked || s.md.origin == some .holdover) && decide (s.predicted ≤ s.holdBudget)
  | _ => false

/-- Any island retired (R585). -/
def State.islandRetired (s : State) : Bool := s.fe.retired.any (fun k => decide (k < 24))

/-- Any CLKOUT muted by its monitor (R585). -/
def State.clkMuted (s : State) : Bool := s.out.clks.any (·.monMuted)

/-- Memory parts withdrawn from allocation (R580, R581, R585): kept in FeRAM as 32 and up. -/
def State.memRetired (s : State) : Bool := s.fe.retired.any (fun k => decide (32 ≤ k))

/-- FMU_DEGRADED.DEGRADED (R585). -/
def State.degraded (s : State) : Bool :=
  s.fmu.pathFail || s.clkMuted || s.memRetired || s.fmu.portCal || s.fmu.tacDeg || s.islandRetired

/-- A change after which FMU_DEGRADED may be set: the cause DEGRADED when it becomes so (R515). -/
def State.noteDegraded (old new : State) : State := if !old.degraded && new.degraded then new.cause 6 else new

/-- FAULT_N asserted: either path holds it low (R565). -/
def State.fault (s : State) : Bool := s.fmu.pathA || s.fmu.pathB

/-- A change after which FAULT_N may be asserted: the cause FAULT when it becomes so (R515). -/
def State.noteFault (old new : State) : State := if !old.fault && new.fault then new.cause 5 else new

/-- A PPSOUT's state. -/
def State.ppsAt (s : State) (m : Nat) : PpsOut := s.out.pps.getD m PpsOut.reset

/-- A CLKOUT's state. -/
def State.clkAt (s : State) (n : Nat) : ClkOut := s.out.clks.getD n ClkOut.reset

/-- A PPSOUT's state changed. -/
def State.setPps (s : State) (m : Nat) (f : PpsOut → PpsOut) : State :=
  { s with out := { s.out with pps := updAt s.out.pps m f } }

/-- A CLKOUT's state changed. -/
def State.setClk (s : State) (n : Nat) (f : ClkOut → ClkOut) : State :=
  { s with out := { s.out with clks := updAt s.out.clks n f } }

/-- Whether the PPSOUT that PV_SRC selects runs: enabled and unmuted (R263). -/
def State.pvRuns (s : State) : Bool :=
  let m := s.fld 0x80000 31 30
  s.bit (pBase m) 31 && !(s.ppsAt m).muted

/-- The mode whose row MAINTAIN shares (R50). -/
def State.shownMode (s : State) : Mode :=
  match s.md.mode with
  | .maintain => s.md.origin.getD .maintain
  | m => m

/-- LOCK ball (R50, R51). -/
def State.ballLock (s : State) : Bool := s.md.mode == .locked && !s.md.drain

/-- HOLD ball (R50, R51). -/
def State.ballHold (s : State) : Bool := (s.md.mode == .holdover || s.md.mode == .maintain) && !s.md.drain

/-- PPS_VALID ball (R50, R51, R263). -/
def State.ballPps (s : State) : Bool :=
  !s.md.drain &&
  match s.shownMode with
  | .locked => s.pvRuns
  | .holdover => s.inBudget && s.pvRuns
  | _ => false

/-- ALARM_N asserted (R50, R51). -/
def State.alarm (s : State) : Bool := s.shownMode != .locked || s.degraded || s.md.drain

/-- Whether an output is enabled. -/
def State.outEn (s : State) : OutId → Bool
  | .clk n => s.bit (cBase n) 31
  | .pps m => s.bit (pBase m) 31
  | .tod => s.bit 0x80500 31
  | .gpps => s.bit 0x80600 31

/-- The mute policy of an output: ACQ, HO_OB and FR (R259). GPPS has none and may run from ACQUIRE (R52). -/
def State.outPolicy (s : State) : OutId → Nat × Bool × Bool
  | .clk n => (s.fld (cBase n) 27 26, s.bit (cBase n) 25, s.bit (cBase n) 24)
  | .pps m => (s.fld (pBase m) 24 23, s.bit (pBase m) 22, s.bit (pBase m) 21)
  | .tod => (s.fld 0x80500 29 28, s.bit 0x80500 27, s.bit 0x80500 26)
  | .gpps => (0, false, false)

/-- The UNMUTED latch of an output. -/
def State.outLatch (s : State) : OutId → Bool
  | .clk n => (s.clkAt n).unmuted
  | .pps m => (s.ppsAt m).unmuted
  | .tod => s.out.todUnmuted
  | .gpps => s.out.gppsUnmuted

/-- Whether an output is muted now. -/
def State.outMuted (s : State) : OutId → Bool
  | .clk n => (s.clkAt n).muted
  | .pps m => (s.ppsAt m).muted
  | .tod => s.out.todMuted
  | .gpps => s.out.gppsMuted

/-- Whether an output's ACQ condition is met (R259). -/
def State.acqMet (s : State) (acq : Nat) : Bool :=
  match s.md.mode with
  | .boot => false
  | .calibrate => false
  | .safe => false
  | _ => if acq = 0 then true else if acq = 1 then s.md.within1ns else s.md.lockedOnce

/-- Whether the policy, the mode, the enable, a monitor or the end of a drain mutes an output (R52, R56, R259, R260, R561). -/
def State.wantMuted (s : State) (o : OutId) : Bool :=
  !s.outEn o || !s.outLatch o ||
  (match o with
   | .clk n => (s.clkAt n).monMuted || s.md.drainArmed
   | .gpps => !s.gns.sol.valid || s.md.mode == .maintain
   | _ => false) ||
  match s.md.mode with
  | .boot => true
  | .calibrate => true
  | .safe => true
  | .holdover => (s.outPolicy o).2.1 && !s.inBudget
  | .freerun => (s.outPolicy o).2.2
  | _ => false

/-- The outputs in order. -/
def allOuts : List OutId :=
  [.clk 0, .clk 1, .clk 2, .clk 3, .clk 4, .clk 5, .clk 6, .clk 7, .clk 8, .clk 9, .pps 0, .pps 1, .pps 2, .pps 3, .tod, .gpps]

/-- An output's UNMUTED latch set. -/
def State.setLatch (s : State) : OutId → State
  | .clk n => s.setClk n (fun c => { c with unmuted := true })
  | .pps m => s.setPps m (fun p => { p with unmuted := true })
  | .tod => { s with out := { s.out with todUnmuted := true } }
  | .gpps => { s with out := { s.out with gppsUnmuted := true } }

/-- An output's MUTED written. -/
def State.setMuted (s : State) (b : Bool) : OutId → State
  | .clk n => s.setClk n (fun c => { c with muted := b, aligned := c.aligned && !b })
  | .pps m => s.setPps m (fun p => { p with muted := b })
  | .tod => { s with out := { s.out with todMuted := b } }
  | .gpps => { s with out := { s.out with gppsMuted := b } }

/-- The latches set whose ACQ condition is met (R259): cleared only by reset. -/
def State.latchUnmute (s : State) : State :=
  allOuts.foldl (fun s o => if s.acqMet (s.outPolicy o).1 then s.setLatch o else s) s

/-- Whether an output is in mid-cycle, mid-pulse or mid-message, so that muting waits for its end (R53). -/
def State.midPulse (s : State) : OutId → Bool
  | .pps m => (s.ppsAt m).high
  | .tod => decide (s.now < s.out.todBusyUntil)
  | .gpps => decide (s.now < s.out.gppsHighUntil)
  | .clk n => !(s.clkAt n).muted && decide ((s.clkAt n).per ≠ 0)

/-- Every output that is to be muted is muted, but for one in mid-pulse (R53). -/
def State.applyMute (s : State) : State :=
  allOuts.foldl (fun s o => if s.wantMuted o && !s.midPulse o then s.setMuted true o else s) s

/-- The frequency of a CLKOUT by its registers, in Hz (R246). -/
def clkFreq (m : RegMap) (n : Nat) : Rat :=
  let c := cBase n
  let den := (m.rd (c + 12)).toNat
  let div := (m.rd c).toNat % 4096 * den + (m.rd (c + 8)).toNat
  ((10 ^ 10 * den : Nat) : Rat) / ((div * (m.rd (c + 4)).toNat : Nat) : Rat)

/-- The period of a CLKOUT by its registers, in ns (R246). -/
def clkPeriod (m : RegMap) (n : Nat) : Rat := 10 ^ 9 / clkFreq m n

/-- Latches and mutes after a change of mode or of what the policies read. -/
def State.outputsFollow (s : State) : State := s.latchUnmute.applyMute

/-- The rates of BAUD (R277). -/
def baudOf : Nat → Nat
  | 0 => 9600
  | 1 => 19200
  | 2 => 38400
  | 3 => 57600
  | 4 => 115200
  | 5 => 230400
  | 6 => 460800
  | _ => 921600

/-! The schedule of a PPSOUT that follows an input (R256). -/

/-- The nearest input phase plus a whole number of periods to an instant, in sns. -/
def nearestPhase (phase period t : Rat) : Rat :=
  if period = 0 then phase else phase + period * ((t - phase) / period + 1 / 2).floor

/-- An input edge at Warp instant `t` (sns) offered to the PPSOUTs that follow input `src` (R256). -/
def State.ppsInput (s : State) (src : Nat) (t : Rat) : State :=
  (List.range 4).foldl (fun s m =>
    let b := pBase m
    if s.bit b 31 && s.bit b 29 && s.fld b 28 25 == src then
      let period : Rat := ((s.reg (b + 4)).toNat * snsPerNs : Nat)
      match (s.ppsAt m).inPhase with
      | none => s.setPps m (fun p => { p with inPhase := some t, inGoal := t, inAt := s.now, inputLost := false })
      | some ph =>
        let e := t - nearestPhase ph period t
        if |e| ≤ period / 4 then
          s.setPps m (fun p => { p with inGoal := ph + e, inAt := s.now, inputLost := false })
        else s
    else s) s

end Sys2Proof.Machine
end

