-- ==== Sys2Proof/Machine/Tin.lean ====
section
/-! DEFINITION. Sub-clock measurement and event inputs (R140 to R186): the TACs, the inputs' modes, the capture buffer and
its register reader. -/

namespace Sys2Proof.Machine

open Sys2Proof

/-! TACs. -/

/-- The group of a TAC position (R143). -/
def tacGroup (pos : Nat) : Nat := if pos < 8 then 0 else if pos < 16 then 1 else if pos < 24 then 2 else 3

/-- The first position of a group and how many it has (R143). -/
def groupSpan (g : Nat) : Nat × Nat := if g < 3 then (8 * g, 8) else (24, 5)

/-- The physical TAC at a position; 63 when none is in service there. -/
def State.tacAt (s : State) (pos : Nat) : Nat := s.tac.posTac.getD pos 63

/-- Whether the TAC of a position can accept an event: 40 ns after its previous one (R142). -/
def State.tacReady (s : State) (pos : Nat) : Bool :=
  decide (s.tacAt pos < 33) && decide (s.tac.busyUntil.getD (s.tacAt pos) 0 ≤ s.now)

/-- F of a code from a TAC's own INL table (R141, R146). -/
def State.tacF (s : State) (phys code : Nat) : Int :=
  signed 18 (bitsOf ((s.tac.tables.getD phys []).getD code 0) 17 0)

/-- An edge that no TAC of its capture point can take, counted (R142). -/
def State.tacMiss (s : State) (pos : Nat) : State := { s with tac := { s.tac with missed := updAt s.tac.missed pos (· + 1) } }

/-- A conversion by the TAC of a position: it is busy for 40 ns. -/
def State.tacBusy (s : State) (pos : Nat) : State :=
  { s with tac := { s.tac with busyUntil := putAt s.tac.busyUntil (s.tacAt pos) (s.now + 40) } }

/-- N + FRAC + F[code] + DLY in sns (R141). -/
def State.captureAt (s : State) (pos code : Nat) (dly : Int) : Int := (s.warpSns : Int) + s.tacF (s.tacAt pos) code + dly

/-- An instant as the unsigned SEC, NS and SNS of a time word hold it: borrows run through SEC, which wraps (R141). -/
def wrapTime (t : Int) : Nat := (t % (2 ^ 48 * snsPerSec : Nat)).toNat

/-- Whether hit counts pass a calibration (R144). -/
def calPasses (hits : List Nat) : Bool :=
  let total := hits.foldl (· + ·) 0
  let run := hits.dropWhile (· == 0)
  let body := run.takeWhile (· != 0)
  let rest := run.drop body.length
  let n := body.length
  let widest := body.foldl max 0
  decide (hits.length ≤ 4096) && rest.all (· == 0) && decide (3700 ≤ n ∧ n ≤ 4080) && decide (widest * 1000 ≤ total) &&
    decide (widest * n ≤ 4 * total)

/-- The entry of R146. -/
def inlEntry (occ : Bool) (f : Int) : W32 := BitVec.ofNat 32 (b01 occ * 2 ^ 31 + unsigned 18 f)

/-- The entries of the occupied codes in order, from the hits counted before each (R145). -/
def inlRun (total : Nat) : List Nat → Nat → List Int
  | [], _ => []
  | h :: hs, c => roundQ (65536 * (1 - ((c : Rat) + (h : Rat) / 2) / total)) :: inlRun total hs (c + h)

/-- The table computed from hit counts (R145). -/
def inlTable (hits : List Nat) : List W32 :=
  let total := hits.foldl (· + ·) 0
  let k0 := (hits.takeWhile (· == 0)).length
  let body := (hits.drop k0).takeWhile (· != 0)
  let run := inlRun total body 0
  let k1 := k0 + body.length - 1
  let m : Rat := (65536 : Rat) / body.length
  let lo := (List.range k0).map fun k => inlEntry false (run.headD 0 + roundQ (((k0 - k : Nat) : Rat) * m))
  let hi := (List.range (4095 - k1)).map fun i => inlEntry false (run.getLastD 0 - roundQ (((i + 1 : Nat) : Rat) * m))
  lo ++ run.map (inlEntry true) ++ hi

/-- A TAC's table replaced whole. -/
def State.setTable (s : State) (phys : Nat) (t : List W32) : State :=
  { s with tac := { s.tac with tables := putAt s.tac.tables phys t } }

/-- TAC `phys` found failing in CALIBRATE (R149, R186): its group's spare replaces it, or, with none left, its position goes out of
service; a failing spare leaves the group without one. The failure is reported for island 4, whose logic the TAC sequencers are
(R571). -/
def State.tacFailCal (s : State) (phys : Nat) : State :=
  let s := s.faultReport 0x3004 0
  let t := { s.tac with failed := s.tac.failed + 1 }
  match t.posTac.findIdx? (· == phys) with
  | none => { s with tac := { t with spare := t.spare.map fun x => if x = phys then 63 else x } }
  | some pos =>
    let g := tacGroup pos
    let sp := t.spare.getD g 63
    { s with tac := { t with posTac := putAt t.posTac pos sp, spare := putAt t.spare g 63 } }

/-- Whether some event input runs on one TAC (R149). -/
def State.tinOnOne (s : State) : Bool :=
  (List.range 8).any fun n => s.tacAt (2 * n) == 63 || s.tacAt (2 * n + 1) == 63

/-- Code-density calibration of all 33 TACs (R144, R145, R149): the spares are settled before the positions. -/
def State.calibrateTacs (s : State) (hits : List (List Nat)) : State :=
  [29, 30, 31, 32, 0, 1, 2, 3, 4, 5, 6, 7, 8, 9, 10, 11, 12, 13, 14, 15, 16, 17, 18, 19, 20, 21, 22, 23, 24, 25, 26, 27,
    28].foldl (fun s phys =>
      let h := hits.getD phys []
      if calPasses h then s.setTable phys (inlTable h) else s.tacFailCal phys) s

/-- The modes from ACQUIRE onward in which the part serves (R147, R162). Background calibration and the rotating pass stop with SAFE
(R566 of the pass; of the calibration a DESIGN CHOICE, log 105). -/
def Mode.serving : Mode → Bool
  | .acquire => true
  | .locked => true
  | .holdover => true
  | .freerun => true
  | .maintain => true
  | _ => false

/-- The hits of a background calibration (R147, R150). -/
def State.calHits (s : State) : Nat := 2 ^ s.fld 0x50000 28 24

/-- TAC_BG_CAL_DONE: the calibration of a group's spare ends with its 2^CAL_LOG2th hit (R147, R149); a failure is reported for island
4, whose logic the TAC sequencers are (R571). -/
def State.tacBgCalDone (s : State) (g : Nat) (hits : List Nat) : State :=
  let sp := s.tac.spare.getD g 63
  if s.md.mode.serving && s.bit 0x50000 31 && decide (g < 4) && decide (sp < 33) && hits.sum == s.calHits then
    if calPasses hits then
      let s1 := s.setTable sp (inlTable hits)
      { s1 with tac := { s1.tac with fresh := putAt s1.tac.fresh g true } }
    else
      ({ s with tac := { s.tac with spare := putAt s.tac.spare g 63, failed := s.tac.failed + 1 } }).faultReport 0x3004 0
  else s

/-- TAC_ROTATE: ROT_PERIOD after the group's last swap the freshly calibrated spare takes over its next position, between two
conversions of the outgoing TAC; on an event input it joins as the member that is not next (R147, R148). -/
def State.tacRotate (s : State) (g : Nat) : State :=
  let sp := s.tac.spare.getD g 63
  let (p0, n) := groupSpan g
  let pos := s.tac.nextPos.getD g p0
  let old := s.tacAt pos
  if s.md.mode.serving && s.bit 0x50000 31 && decide (g < 4) && decide (sp < 33) && s.tac.fresh.getD g false &&
      s.tacReady pos && decide (s.tac.rotAt.getD g 0 + s.fld 0x50000 7 0 * nsPerSec ≤ s.now) then
    let t := { s.tac with rotAt := putAt s.tac.rotAt g s.now, posTac := putAt s.tac.posTac pos sp, spare := putAt s.tac.spare g old,
                          fresh := putAt s.tac.fresh g false,
                          nextPos := putAt s.tac.nextPos g (p0 + (pos - p0 + 1) % n) }
    let ins := if pos < 16 then updAt s.tin.ins (pos / 2) (fun i => { i with member := 1 - pos % 2 }) else s.tin.ins
    { s with tac := t, tin := { s.tin with ins := ins } }
  else s

def execTacBgCalDone (g : Nat) (hits : List Nat) (s : State) : Host.Outcome State Fault Refusal :=
  .next (s.tacBgCalDone g hits)

def execTacRotate (g : Nat) (s : State) : Host.Outcome State Fault Refusal := .next (s.tacRotate g)

/-! Capture buffer pointers (R172, R173). -/

/-- held_from. -/
def State.heldFrom (s : State) : Nat := (s.tin.wr + 2 ^ 32 - s.tin.buf.length) % 2 ^ 32

/-- Pointer difference modulo 2^32. -/
def ptrSub (a b : Nat) : Nat := (a + 2 ^ 32 - b % 2 ^ 32) % 2 ^ 32

/-- unread(RD) of a reader. -/
def State.unread (s : State) (r : Reader) : Nat := ptrSub s.tin.wr r.rd

/-- RD_EN in TIN_GLB. -/
def State.rdEn (s : State) : Bool := s.bit 0x50010 31

/-- The enable of the event-capture stream (R511). -/
def State.evsEn (s : State) : Bool := s.hif.link && s.bit 0x110608 31

/-- Whether some enabled reader has 16,384 records unread (R172). -/
def State.bufFull (s : State) : Bool :=
  (s.rdEn && s.unread s.tin.rdr == 16384) || (s.evsEn && s.unread s.hif.evs == 16384)

/-- Whether a reader's mark is set and valid (R172, R176). -/
def State.markValid (s : State) (r : Reader) : Bool :=
  match r.mark with
  | none => false
  | some m => !r.gone && decide (ptrSub s.tin.wr m ≤ 16384)

/-- A reader's mark lost by the write that has just made WR − MARK exceed 16,384 (R176). -/
def State.markAfterWrite (s : State) (r : Reader) : Reader :=
  match r.mark with
  | none => r
  | some m => if ptrSub s.tin.wr m = 16385 ∧ !r.gone then { r with gone := true, markLost := true } else r

/-- A record written at WR. -/
def State.bufPut (s : State) (r : BitVec 128) : State :=
  let b := s.tin.buf ++ [r]
  let s1 := { s with tin := { s.tin with buf := b.drop (b.length - 16384), wr := (s.tin.wr + 1) % 2 ^ 32 } }
  { s1 with tin := { s1.tin with rdr := s1.markAfterWrite s1.tin.rdr }, hif := { s1.hif with evs := s1.markAfterWrite s1.hif.evs } }

/-- The OVERFLOW record (R169). -/
def recOverflow (lost : List Nat) (total : Nat) : BitVec 128 :=
  BitVec.ofNat 128 (4 * 2 ^ 124 + min total (2 ^ 24 - 1) * 2 ^ 96 +
    ((List.range 8).foldl (fun a n => a + min (lost.getD n 0) 4095 * 2 ^ (12 * n)) 0))

/-- The OVERFLOW record written when a slot is free after a loss, before any other record (R175). -/
def State.flushOverflow (s : State) : State :=
  if s.tin.ovfDue && !s.bufFull then
    let s1 := s.bufPut (recOverflow s.tin.lost s.tin.lostTotal)
    { s1 with tin := { s1.tin with lost := List.replicate 8 0, lostTotal := 0, ovfDue := false } }
  else s

/-- A record lost: counted toward the next OVERFLOW record and, where it has an input, in TIN_LOSTn (R175); the cause EVS_OVF
while the stream is enabled and the buffer is what lost it (R515). -/
def State.loseRecord (s : State) (inp : Option Nat) (atBuffer : Bool) : State :=
  let lost := match inp with
    | some n => updAt s.tin.lost n (· + 1)
    | none => s.tin.lost
  let s1 := { s with tin := { s.tin with lost := lost, lostTotal := s.tin.lostTotal + 1, ovfDue := true, ovf := true } }
  let s2 := match inp with
    | some n => s1.count (0x50340 + 8 * n)
    | none => s1
  if atBuffer && s.evsEn then s2.cause 8 else s2

/-- A record that reaches the write port: written, or discarded while the buffer is full (R175). -/
def State.portWrite (s : State) (inp : Option Nat) (r : BitVec 128) : State :=
  let s := s.flushOverflow
  if s.bufFull then s.loseRecord inp true else s.bufPut r

/-! Event inputs. -/

/-- An input's state. -/
def State.tinAt (s : State) (n : Nat) : TinIn := s.tin.ins.getD n TinIn.reset

/-- An input's state changed. -/
def State.setTin (s : State) (n : Nat) (f : TinIn → TinIn) : State :=
  { s with tin := { s.tin with ins := updAt s.tin.ins n f } }

/-- TIN_CFGn. -/
def tinCfg (n : Nat) : Nat := 0x50100 + 0x20 * n

def State.tinMode (s : State) (n : Nat) : Nat := s.fld (tinCfg n) 2 0
def State.tinEdgeSel (s : State) (n : Nat) : Nat := s.fld (tinCfg n) 5 4
def State.tinStop (s : State) (n : Nat) : Nat := s.fld (tinCfg n) 10 8
def State.tinBurst (s : State) (n : Nat) : Nat := s.fld (tinCfg n) 31 16

/-- The minimum gate in sns (R180). -/
def State.tinGate (s : State) (n : Nat) : Int := (s.fld (tinCfg n + 4) 23 0 * 1000 * snsPerNs : Nat)

/-- DLY in sns (R180). -/
def State.tinDly (s : State) (n : Nat) : Int := s.pair (tinCfg n + 8)

/-- A record that enters an input's FIFO of 1,024 records, with the instant of its edge; a full FIFO discards it (R156). -/
def State.fifoPut (s : State) (n : Nat) (t : Int) (r : BitVec 128) : State :=
  if (s.tinAt n).fifo.length < 1024 then s.setTin n (fun i => { i with fifo := i.fifo ++ [(t, r)] })
  else s.loseRecord (some n) false

/-- EVENT (R165). -/
def recEvent (n : Nat) (falling last : Bool) (member seq : Nat) (w : TimeWord) : BitVec 128 :=
  BitVec.ofNat 128 (1 * 2 ^ 124 + n * 2 ^ 121 + b01 falling * 2 ^ 120 + b01 last * 2 ^ 119 + member * 2 ^ 118 +
    seq % 65536 * 2 ^ 96 + w.toBits.toNat)

/-- RESULT (R166). -/
def recResult (n kind : Nat) (last : Bool) (seq count : Nat) (iv : Int) : BitVec 128 :=
  BitVec.ofNat 128 (6 * 2 ^ 124 + n * 2 ^ 121 + kind * 2 ^ 119 + b01 last * 2 ^ 118 + seq % 65536 * 2 ^ 96 +
    count % 2 ^ 32 * 2 ^ 64 + unsigned 64 iv)

/-- TRUNCATED (R167). -/
def recTruncated (n kind seq count : Nat) (span : Int) : BitVec 128 :=
  BitVec.ofNat 128 (2 * 2 ^ 124 + n * 2 ^ 121 + kind * 2 ^ 119 + seq % 65536 * 2 ^ 96 + count % 2 ^ 32 * 2 ^ 64 + unsigned 64 span)

/-- GAP (R168). -/
def recGap (n : Nat) (len : Int) : BitVec 128 :=
  BitVec.ofNat 128 (3 * 2 ^ 124 + n * 2 ^ 121 + (if len < 2 ^ 64 then len.toNat else 2 ^ 120 + (2 ^ 64 - 1)))

/-- STEP (R170): CHANGE as TB_STEP_LAST holds it, saturated (R127). -/
def recStep (op sec : Nat) (change : Int) : BitVec 128 :=
  BitVec.ofNat 128 (5 * 2 ^ 124 + op * 2 ^ 122 + sec % 2 ^ 48 * 2 ^ 64 + unsigned 64 (satSym 64 change))

/-- The COUNT of a TRUNCATED record (R167): 0 if only the first edge arrived, whose record timestamp mode has written. -/
def Meas.count (m : Meas) (mode : Nat) : Nat :=
  if mode = 3 then m.edges else if mode = 4 then 0 else if mode = 1 ∧ m.done ≤ 1 then 0 else m.done

/-- An open measurement closed with a TRUNCATED record (R158); a GAP record follows at the next edge (R159). -/
def State.closeMeas (s : State) (n : Nat) : State :=
  match (s.tinAt n).opened with
  | none => s
  | some m =>
    let mode := s.tinMode n
    let s1 := s.fifoPut n m.last (recTruncated n (mode - 1) ((s.tinAt n).seq + 65535) (m.count mode) (m.last - m.first))
    s1.setTin n (fun i => { i with opened := none, gapFrom := some m.last })

/-- One EVENT record, with the next SEQ. -/
def State.putEvent (s : State) (n : Nat) (falling last : Bool) (member : Nat) (t mono : Int) : State :=
  let s1 := s.fifoPut n mono (recEvent n falling last member (s.tinAt n).seq (s.word (wrapTime t)))
  s1.setTin n (fun i => { i with seq := (i.seq + 1) % 65536 })

/-- The first edge of a measurement: the GAP record owed, then its EVENT (R159). -/
def State.firstEdge (s : State) (n : Nat) (falling last : Bool) (member : Nat) (t mono : Int) : State :=
  let s1 := match (s.tinAt n).gapFrom with
    | some g => (s.fifoPut n mono (recGap n (mono - g))).setTin n (fun i => { i with gapFrom := none })
    | none => s
  s1.putEvent n falling last member t mono

/-- One RESULT record with the next SEQ, counted toward the burst; the burst's last one disarms the input (R157). Where a commit has
lowered BURST to no more than the records already written, the next one is the last (DESIGN CHOICE, log 129). -/
def State.putResult (s : State) (n kind count : Nat) (iv mono : Int) : State :=
  let i := s.tinAt n
  let b := s.tinBurst n
  let last := b != 0 && decide (b ≤ i.burstDone + 1)
  let s1 := s.fifoPut n mono (recResult n kind last i.seq count iv)
  s1.setTin n (fun i => { i with seq := (i.seq + 1) % 65536, burstDone := i.burstDone + 1, skipped := 0,
                                 armed := i.armed && !last, opened := if last then none else i.opened })

/-- A converted selected edge of input `n` in its own mode: `t` is its time in sns of Warp, `mono` the same with every SET and
STEP taken out (R153, R154, R157). A further start edge while an interval is open starts none: it only becomes the measurement's last edge
(DESIGN CHOICE, log 129). -/
def State.ownEdge (s : State) (n : Nat) (falling : Bool) (member : Nat) (t mono : Int) : State :=
  let i := s.tinAt n
  let b := s.tinBurst n
  match s.tinMode n with
  | 1 =>
    let last := b != 0 && decide (b ≤ i.burstDone + 1)
    let s1 := if i.opened.isNone then s.firstEdge n falling last member t mono else s.putEvent n falling last member t mono
    let s2 := s1.setTin n (fun i =>
      { i with burstDone := i.burstDone + 1, armed := i.armed && !last,
               opened := if b = 0 ∨ last then none else
                 match i.opened with
                 | some m => some { m with last := mono, done := m.done + 1 }
                 | none => some ⟨mono, mono, mono, 0, 1, falling⟩ })
    s2.ppsInput (8 + n) (t : Rat)
  | 2 =>
    match i.opened with
    | none => (s.firstEdge n falling false member t mono).setTin n (fun i =>
        { i with opened := some ⟨mono, mono, mono, 0, 0, falling⟩, skipped := 0 })
    | some m =>
      let s1 := s.setTin n (fun i => { i with opened := some { m with last := mono, done := m.done + i.skipped + 1 } })
      s1.putResult n 1 (i.skipped + 1) (mono - m.last) mono
  | 3 =>
    match i.opened with
    | none => (s.firstEdge n falling false member t mono).setTin n (fun i =>
        { i with opened := some ⟨mono, mono, mono, 0, 0, falling⟩ })
    | some m =>
      let s1 := s.setTin n (fun i => { i with opened := some ⟨mono, mono, mono, 0, m.done + 1, falling⟩ })
      s1.putResult n 2 (m.edges + 1) (mono - m.gate) mono
  | 4 =>
    match i.opened with
    | none => (s.firstEdge n falling false member t mono).setTin n (fun i =>
        { i with opened := some ⟨mono, mono, mono, 0, 0, falling⟩ })
    | some m => s.setTin n (fun i => { i with opened := some { m with last := mono } })
  | _ => s

/-- Whether an edge of input `n` is selected by its own MODE, EDGE and arming (R153, R157). -/
def State.ownSelected (s : State) (n : Nat) (falling : Bool) : Bool :=
  s.tinMode n != 0 && (s.tinEdgeSel n == 2 || s.tinEdgeSel n == b01 falling) && (s.tinBurst n == 0 || (s.tinAt n).armed)

/-- Whether an edge of input `n` is the stop edge that input `m` awaits (R153, R179). -/
def State.stopSelected (s : State) (n m : Nat) (falling : Bool) : Bool :=
  s.tinMode m == 4 && s.tinStop m == n &&
  match (s.tinAt m).opened with
  | none => false
  | some x => falling == (if m = n ∧ s.tinEdgeSel m = 2 then !x.falling else x.falling)

/-- The interval of input `m` closed by a stop edge at `mono` (R153): one that arrives while the interval is open, and whose corrected
time is not before the start's (DESIGN CHOICE, log 129). -/
def State.stopEdge (s : State) (m : Nat) (mono : Int) : State :=
  match (s.tinAt m).opened with
  | none => s
  | some x =>
    if mono < x.first then s else
    (s.setTin m (fun i => { i with opened := none })).putResult m 3 1 (mono - x.first) mono

/-- The member of an input's pair that takes the next edge: the next in the ping-pong order, or the other when that one has no
TAC in service or is not ready (R142, R149). -/
def State.tinMember (s : State) (n : Nat) : Option Nat :=
  let m := (s.tinAt n).member
  if s.tacReady (2 * n + m) then some m else if s.tacReady (2 * n + (1 - m)) then some (1 - m) else none

/-- The modes in which the inputs capture (R162). -/
def State.tinCaptures (s : State) : Bool := s.md.mode.serving

/-- A selected edge in mid-gate of frequency mode: the edge counter counts it, and no TAC is taken (R153, R155). Where a gap or a
truncation makes it the last edge, SPAN (R167) and LENGTH stand on its coarse count with DLY, and an edge that a TAC missed in period
or timestamp mode is left out of both (DESIGN CHOICE, log 129). -/
def State.midGate (s : State) (n : Nat) (m : Meas) (mono : Int) : State :=
  s.setTin n (fun i => { i with opened := some { m with edges := m.edges + 1, last := mono }, lastEdge := some s.now })

/-- TIN_EDGE. An edge nobody selects is ignored. Without a ready TAC it is missed (R142, R156). -/
def State.tinEdge (s : State) (n : Nat) (falling : Bool) (code : Nat) : State :=
  if !s.tinCaptures || decide (8 ≤ n) then s else
  let own := s.ownSelected n falling
  let stops := (List.range 8).filter (fun m => s.stopSelected n m falling)
  if !own && stops.isEmpty then s else
  let coarse : Int := (s.warpSns : Int) + s.tinDly n - s.tb.stepSum
  let mid := match s.tinMode n, (s.tinAt n).opened with
    | 3, some m => if coarse + 65535 < m.gate + s.tinGate n then some m else none
    | _, _ => none
  match own && stops.isEmpty, mid with
  | true, some m => s.midGate n m coarse
  | _, _ =>
    match s.tinMember n with
    | none =>
      let s1 := (s.setTin n (fun i =>
        { i with missed := true, lastEdge := if own then some s.now else i.lastEdge,
                 skipped := if own && s.tinMode n == 2 && i.opened.isSome then i.skipped + 1 else i.skipped,
                 opened := match i.opened with
                   | some m => if own && s.tinMode n == 3 then some { m with edges := m.edges + 1, last := coarse } else some m
                   | none => none })).count (0x50300 + 8 * n)
      s1
    | some mem =>
      let t := s.captureAt (2 * n + mem) code (s.tinDly n)
      let mono := t - s.tb.stepSum
      let s1 := (s.tacBusy (2 * n + mem)).setTin n (fun i => { i with member := 1 - mem })
      let s2 := stops.foldl (fun s m => s.stopEdge m mono) s1
      let early := match (s.tinAt n).opened with
        | some m => s.tinMode n == 3 && decide (mono < m.gate + s.tinGate n)
        | none => false
      if !own then s2
      else
        let s3 := s2.setTin n (fun i => { i with lastEdge := some s.now })
        if stops.contains n then s3
        else if early then
          match (s.tinAt n).opened with
          | some m => s3.midGate n m mono
          | none => s3
        else s3.ownEdge n falling mem t mono

/-- Whether input `n` may be served by the write port: records of different inputs enter in the order of their edges, but for
two less than 4 ns apart (R171). The order is that of the times DLY has corrected, as the reader sees them (DESIGN CHOICE, log
104). -/
def State.portTurn (s : State) (n : Nat) : Bool :=
  match (s.tinAt n).fifo with
  | [] => false
  | (t, _) :: _ => s.tin.ins.all fun i => match i.fifo with
    | [] => true
    | (t', _) :: _ => decide (t < t' + 4 * snsPerNs)

/-- CAPTURE_BUFFER_WRITE: the head of an input's FIFO reaches the write port (R171, R175). -/
def State.captureWrite (s : State) (n : Nat) : State :=
  if !s.portTurn n then s else
  match (s.tinAt n).fifo with
  | [] => s
  | (_, r) :: rest => (s.setTin n (fun i => { i with fifo := rest })).portWrite (some n) r

/-- The input whose waiting record has the earliest edge. -/
def State.earliest (s : State) : Option Nat :=
  (List.range 8).foldl (fun best n =>
    match (s.tinAt n).fifo with
    | [] => best
    | (t, _) :: _ => match best with
      | none => some n
      | some b => match (s.tinAt b).fifo with
        | (tb, _) :: _ => if t < tb then some n else best
        | [] => some n) none

/-- Every waiting record written in the order of edges, up to a number of records. -/
def State.drainFifos : Nat → State → State
  | 0, s => s
  | k + 1, s => match s.earliest with
    | none => s
    | some n => match (s.tinAt n).fifo with
      | [] => s
      | (_, r) :: rest => drainFifos k ((s.setTin n (fun i => { i with fifo := rest })).portWrite (some n) r)

/-- The STEP record of R161: it stands between the last record captured before A and the first captured after. -/
def State.putStep (s : State) (op : Nat) (sec : Nat) (change : Int) : State :=
  let s1 := { s with tb := { s.tb with changes := s.tb.changes + 1 } }
  (State.drainFifos 8192 s1).portWrite none (recStep op sec change)

/-- Open measurements closed (R162, on entry to SAFE). -/
def State.closeAllMeas (s : State) : State := (List.range 8).foldl (fun s n => s.closeMeas n) s

/-- Whether a register write to a block other than GLB is discarded: in BOOT and CALIBRATE (R79). -/
def State.noWrites (s : State) : Bool := s.md.mode == .boot || s.md.mode == .calibrate

/-- MEASUREMENT_TRUNCATE: an open measurement silent for BURST_GAP is closed (R158). -/
def State.measTruncate (s : State) (n : Nat) : State :=
  let i := s.tinAt n
  match i.opened, i.lastEdge with
  | some _, some l => if l + s.fld 0x50010 26 0 * 1000 ≤ s.now then s.closeMeas n else s
  | _, _ => s

/-- One input armed (R157, R178): no effect with BURST = 0; REARM if already armed. -/
def State.armOne (s : State) (n : Nat) : State :=
  if s.tinBurst n = 0 then s
  else if (s.tinAt n).armed then s.setTin n (fun i => { i with rearm := true })
  else s.setTin n (fun i => { i with armed := true, seq := 0, burstDone := 0 })

/-- One input disarmed, its open measurement closed (R157). -/
def State.disarmOne (s : State) (n : Nat) : State := (s.closeMeas n).setTin n (fun i => { i with armed := false })

/-- The inputs that a mask names. -/
def maskBits (n : Nat) (mask : Nat) : List Nat := (List.range n).filter (fun i => mask / 2 ^ i % 2 == 1)

/-- TIN_ARM's ARM bits. -/
def State.tinArm (s : State) (mask : BitVec 8) : State :=
  if s.noWrites then s else (maskBits 8 mask.toNat).foldl (fun s n => s.armOne n) s

/-- TIN_ARM's DISARM bits. -/
def State.tinDisarm (s : State) (mask : BitVec 8) : State :=
  if s.noWrites then s else (maskBits 8 mask.toNat).foldl (fun s n => s.disarmOne n) s

/-- A reader enabled with its RD behind held_from starts at held_from (R173). -/
def State.readerStart (s : State) (r : Reader) : Reader :=
  if 16384 < s.unread r ∨ s.tin.buf.length < s.unread r then { r with rd := s.heldFrom } else r

/-- RD_EN set: the register reader holds back the writer from now on (R173). -/
def State.rdEnable (s : State) : State :=
  if s.noWrites then s else
  let r := if s.rdEn then s.tin.rdr else s.readerStart s.tin.rdr
  let w := s.reg 0x50010 ||| 0x80000000
  { s with tin := { s.tin with rdr := r }, act := s.act.wr 0x50010 w,
           stg := s.stg.wr 0x50010 (s.stg.rd 0x50010 ||| 0x80000000) }

/-- The record stored at a count (R172): index mod 16,384, so a count already overwritten shows the record over it. -/
def State.recAt (s : State) (c : Nat) : BitVec 128 := s.tin.buf.getD (ptrSub c s.heldFrom % 16384) 0

/-- TIN_REC_READ: the record at RD latched and RD advanced; zeros when nothing is unread (R174). -/
def State.tinRecRead (s : State) : State :=
  if s.unread s.tin.rdr = 0 then { s with tin := { s.tin with recLatch := 0 } } else
  let s1 := { s with tin := { s.tin with recLatch := s.recAt s.tin.rdr.rd,
                                          rdr := { s.tin.rdr with rd := (s.tin.rdr.rd + 1) % 2 ^ 32 } } }
  s1.flushOverflow

/-- MARK (R176). -/
def Reader.doMark (r : Reader) : Reader := { r with mark := some r.rd, gone := false, code := 0 }

/-- REWIND (R176): to a valid mark, or to held_from with code 0x20. -/
def State.rewound (s : State) (r : Reader) : Reader :=
  match r.mark with
  | some m => if s.markValid r then { r with rd := m, code := 0 } else { r with rd := s.heldFrom, code := 0x20 }
  | none => { r with rd := s.heldFrom, code := 0x20 }

/-- CLEAR (R183). -/
def Reader.doClear (r : Reader) : Reader := { r with mark := none, gone := false, markLost := false, code := 0 }

/-- The register reader changed. -/
def State.setRdr (s : State) (r : Reader) : State := { s with tin := { s.tin with rdr := r } }

def execTinEdge (n : Nat) (falling : Bool) (code : Nat) (s : State) : Host.Outcome State Fault Refusal :=
  .next (s.tinEdge n falling code)

def execCaptureBufferWrite (n : Nat) (s : State) : Host.Outcome State Fault Refusal := .next (s.captureWrite n)

def execMeasurementTruncate (n : Nat) (s : State) : Host.Outcome State Fault Refusal := .next (s.measTruncate n)

def execTinArm (mask : BitVec 8) (s : State) : Host.Outcome State Fault Refusal := .next (s.tinArm mask)

def execTinDisarm (mask : BitVec 8) (s : State) : Host.Outcome State Fault Refusal := .next (s.tinDisarm mask)

def execRegisterReaderEnable (s : State) : Host.Outcome State Fault Refusal := .next s.rdEnable


def execTinMark (s : State) : Host.Outcome State Fault Refusal :=
  .next (if s.noWrites then s else s.setRdr s.tin.rdr.doMark)

def execTinRewind (s : State) : Host.Outcome State Fault Refusal :=
  .next (if s.noWrites then s else s.setRdr (s.rewound s.tin.rdr))

def execTinClear (s : State) : Host.Outcome State Fault Refusal :=
  .next (if s.noWrites then s else s.setRdr s.tin.rdr.doClear)

end Sys2Proof.Machine
end

