-- ==== Sys2Proof/Machine/HifOps.lean ====
section
/-! DEFINITION. What the host interface does on behalf of other blocks: writes to host memory, completions of command entries,
aborts of held commands (R496, R497, R508 to R510, R534). -/

namespace Sys2Proof.Machine

open Sys2Proof

/-- Bytes written to host memory from an address. -/
def memPut : List Host.Cell → Nat → List Byte → List Host.Cell
  | m, _, [] => m
  | m, a, b :: bs => memPut (Assoc.put a b m) (a + 1) bs

/-- A DMA write: none takes place while Bus Master Enable is 0 (R499). -/
def State.dma (s : State) (addr : Nat) (bs : List Byte) : State :=
  if s.hif.bme then { s with hif := { s.hif with mem := memPut s.hif.mem addr bs } } else s

/-- R(n), T(n) and Q(q) (R498). -/
def rxBase (n : Nat) : Nat := 0x110100 + 0x20 * n
def txBase (n : Nat) : Nat := 0x110300 + 0x20 * n
def cqBase (q : Nat) : Nat := 0x110500 + 0x20 * q

/-- EN, 2^SIZE and BASE of a ring or queue, from its register block; without a host no ring is enabled (R495; log 126). -/
def State.ringEn (s : State) (b : Nat) : Bool := s.hif.link && s.bit (b + 8) 31
def State.ringSize (s : State) (b : Nat) : Nat := 2 ^ s.fld (b + 8) 4 0
def State.ringAddr (s : State) (b : Nat) : Nat := (s.reg b).toNat + (s.reg (b + 4)).toNat * 2 ^ 32

/-- Entries posted from one index up to TAIL − 1. -/
def ringCount (size a b : Nat) : Nat := (b + size - a % size) % size

def State.rxRing (s : State) (n : Nat) : Ring := s.hif.rx.getD n Ring.reset
def State.txRing (s : State) (n : Nat) : Ring := s.hif.tx.getD n Ring.reset
def State.cqRing (s : State) (q : Nat) : Ring := s.hif.cq.getD q Ring.reset
def State.setRx (s : State) (n : Nat) (r : Ring) : State := { s with hif := { s.hif with rx := putAt s.hif.rx n r } }
def State.setTx (s : State) (n : Nat) (r : Ring) : State := { s with hif := { s.hif with tx := putAt s.hif.tx n r } }
def State.setCq (s : State) (q : Nat) (r : Ring) : State := { s with hif := { s.hif with cq := putAt s.hif.cq q r } }

/-- HEAD moved over entries already complete, for a number of entries (R497). -/
def Ring.advance (size : Nat) : Nat → Ring → Ring
  | 0, r => r
  | k + 1, r =>
    if r.done.contains r.head then
      Ring.advance size k { r with done := r.done.filter (· != r.head), head := (r.head + 1) % size,
                                   next := if r.next = r.head then (r.head + 1) % size else r.next }
    else r

/-- An entry completed, in any order. -/
def Ring.complete (size i : Nat) (r : Ring) : Ring :=
  let r1 := { r with done := i :: r.done }
  r1.advance size (r1.done.length + 1)

/-- Whether an index lies in HEAD to TAIL − 1 and is not complete. -/
def Ring.open_ (size i : Nat) (r : Ring) : Bool :=
  decide (i < size) && decide (ringCount size r.head i < ringCount size r.head r.tail) && !r.done.contains i

/-- The next entry to fetch that has not been completed before its fetch. -/
def Ring.toFetch (size : Nat) (r : Ring) : Option Nat :=
  ((List.range (ringCount size r.next r.tail)).map fun k => (r.next + k) % size).find? fun i => !r.done.contains i

/-- A command entry completed: QSTAT, FLAGS with DONE, and CODE (R508), then its event. A status FAULT is counted and raises
DMA_ERR (R515, R521). -/
def State.cqWrite (s : State) (q i qstat code : Nat) : State :=
  let b := cqBase q
  let s1 := s.dma (s.ringAddr b + 32 * i + 24) [BitVec.ofNat 8 qstat, 0x80, BitVec.ofNat 8 code]
  let s2 := s1.setCq q ((s1.cqRing q).complete (s1.ringSize b) i)
  let s3 := (s2.count (hifCtr 7)).vecEvent (32 + q)
  if qstat = 0x32 then (s3.count (hifCtr 11)).cause 11 else s3

/-- Whether an entry's completion waits. -/
def State.cqWaits (s : State) (q i : Nat) : Bool := s.hif.compq.any fun c => c.q == q && c.i == i

/-- A result written and its command entry completed, or both left to wait while no DMA takes place (R499, R509). -/
def State.cqFinish (s : State) (c : CompWait) : State :=
  if s.hif.bme then (s.dma c.addr c.res).cqWrite c.q c.i c.qstat c.code
  else { s with hif := { s.hif with compq := s.hif.compq ++ [c] } }

/-- A command entry completed without a result. -/
def State.cqComplete (s : State) (q i qstat code : Nat) : State :=
  s.cqFinish { q := q, i := i, qstat := qstat, code := code, addr := 0, res := [] }

/-- The completions that waited, written once Bus Master Enable is set. -/
def State.cqFlush (s : State) : State :=
  if !s.hif.bme then s else
  s.hif.compq.foldl (fun s c => (s.dma c.addr c.res).cqWrite c.q c.i c.qstat c.code) { s with hif := { s.hif with compq := [] } }

/-- The status of a host transmit frame once it is known, and the transmit time word it asked for (R506). -/
def State.hostStatus (s : State) (id st : Nat) (tout : List Byte) : State :=
  { s with hif := { s.hif with txq := s.hif.txq.map fun x =>
      if x.id = id ∧ x.status.isNone then { x with status := some st, tout := tout } else x } }

/-- Every host frame of a list completed with a status. -/
def State.hostStatuses (s : State) (es : List EgFrame) (st : Nat) : State :=
  es.foldl (fun s e => match e.src with
    | .host id => s.hostStatus id st []
    | _ => s) s

/-- A core zeroised after its operation, in 2 µs (R524, R534). -/
def State.zeroCore (s : State) (c : Option Nat) : State :=
  match c with
  | some k => { s with pke := { s.pke with zeroUntil := putAt s.pke.zeroUntil k (s.now + 2000) } }
  | none => s

/-- Bodkin's operations that wait for its queue to have fewer than 4 moved into it, in their order (R522). -/
def State.bodFill (s : State) : State :=
  let room := 4 - (s.pke.ops.filter (·.bod)).length
  { s with pke := { s.pke with ops := s.pke.ops ++ s.pke.bodWait.take room, bodWait := s.pke.bodWait.drop room } }

/-- The command whose signature check is lost: discarded, and neither answered nor counted (R23; DESIGN CHOICE, log 131). -/
def State.otarnLose (s : State) (index : Nat) : State :=
  { s with mgt := { s.mgt with otWait := s.mgt.otWait.filter fun w => w.index != index } }

/-- A held PKE operation aborted: stopped, zeroised and counted; the entry of a host's is completed with ABORTED and the engine's
aborted code (R510, R534). -/
def State.pkeAbort (s : State) (o : PkeOp) : State :=
  let s1 := { s with pke := { s.pke with ops := s.pke.ops.filter (· != o) } }
  let s2 := (s1.zeroCore o.core).count (pkeCtr 3)
  if o.bod then (s2.otarnLose o.index).bodFill else s2.cqComplete 0 o.index 0x31 0x31

/-- The result of a mint command (R447). -/
def mintResult (b : List Byte) (code : Nat) (keyId : Nat) (cs : List (List Byte)) : List Byte :=
  let clen := (cs.head?.map List.length).getD 0
  [BitVec.ofNat 8 code, BitVec.ofNat 8 cs.length] ++ leBytes 2 clen ++ slice b 4 4 ++ leBytes 4 (if cs.isEmpty then 0 else keyId) ++
    zeros 4 ++ cs.flatten

/-- A mint command ended early, its keys zeroised with it (R448, R455): aborted, with no result; or by a fault, its result withheld. -/
def State.mintAbort (s : State) (m : Mint) (code : Nat) : State :=
  let s1 := ({ s with wv := { s.wv with mints := s.wv.mints.filter (· != m) } }).count 0xB0108
  if code = 0x31 then s1.cqComplete 1 m.index 0x31 0x31
  else s1.cqFinish { q := 1, i := m.index, qstat := 0, code := code, addr := m.resAddr, res := mintResult m.bytes code 0 [] }

/-- Every held operation and mint command aborted by a SAFE reaction; by a reset of the host interface, those of the host (R448, R493,
R535, R566). -/
def State.abortHeld (s : State) (all : Bool) : State :=
  let s0 := if all then { s with pke := { s.pke with bodWait := [] }, mgt := { s.mgt with otWait := [] } } else s
  let s1 := (s0.pke.ops.filter (fun o => all || !o.bod)).foldl (fun s o => s.pkeAbort o) s0
  s1.wv.mints.foldl (fun s m => s.mintAbort m 0x31) s1

/-- ABORT of one entry (R510): no effect on one that is complete or outside HEAD to TAIL − 1. -/
def State.cqAbort (s : State) (q i : Nat) : State :=
  let size := s.ringSize (cqBase q)
  if !(s.cqRing q).open_ size i || s.cqWaits q i then s else
  match q with
  | 0 => match s.pke.ops.find? (fun o => o.index == i && !o.bod) with
    | some o => s.pkeAbort o
    | none => s.cqComplete 0 i 0x31 0x31
  | _ => match s.wv.mints.find? (fun m => m.index == i) with
    | some m => s.mintAbort m 0x31
    | none => (s.count 0xB0108).cqComplete 1 i 0x31 0x31

/-- ABORT_ALL: every entry from HEAD to TAIL − 1 (R510). -/
def State.cqAbortAll (s : State) (q : Nat) : State :=
  let size := s.ringSize (cqBase q)
  let r := s.cqRing q
  ((List.range (ringCount size r.head r.tail)).map fun k => (r.head + k) % size).foldl (fun s i => s.cqAbort q i) s

/-- The first waiting frame of each ring has reached the head of its ring (R502). -/
def State.markHeads (s : State) : State :=
  let go := fun (acc : List HostItem × List Nat) (i : HostItem) =>
    if acc.2.contains i.ring then (acc.1 ++ [i], acc.2)
    else (acc.1 ++ [{ i with since := some (i.since.getD s.now) }], i.ring :: acc.2)
  { s with wv := { s.wv with hostQ := (s.wv.hostQ.foldl go ([], [])).1 } }

/-- The cells that a received frame held are freed (R378). -/
def State.freeCells (s : State) (port cells : Nat) (fromPool : Bool) : State :=
  if 4 ≤ port then s.setPort port (fun p => { p with pool := p.pool - cells }) else
  s.setPort port fun p => if fromPool then { p with pool := p.pool - cells } else { p with reserve := p.reserve - cells }

/-- The host interface reset (R493): rings, queues and stream disabled, their fields at their reset values, held commands
aborted, frames not yet committed discarded, the PTM dialog abandoned. A frame waiting at the head of its ring is the one being
delivered; the others bound for a ring are dropped as R364 lays down. A device reset keeps what the host configured and answers no
command (R645). -/
def State.hifResetBlock (s : State) (linkLost keepConfig : Bool) : State :=
  let s1 := if keepConfig then s else s.abortHeld false
  let s2 := s1.wv.hostQ.foldl (fun s i =>
    let s := s.freeCells i.port i.cells i.fromPool
    if i.since.isSome then s.count (hifCtr 2) else s.count (macCtr i.port 10)) s1
  let isHost := fun (e : EgFrame) => match e.src with
    | .host _ => true
    | _ => false
  let h := s2.hif
  let hif : HifSt := { HifSt.reset with
    link := h.link && !linkLost, speed := if linkLost then 0 else h.speed, width := if linkLost then 0 else h.width,
    bme := keepConfig && h.bme, ptmEn := keepConfig && h.ptmEn, mem := h.mem,
    vecs := if keepConfig then h.vecs.map (fun v => { Vec.reset with sent := v.sent }) else HifSt.reset.vecs,
    pci := if keepConfig then h.pci else PciSt.reset,
    nextTx := h.nextTx }
  let inHif := fun (e : Nat × W32) => decide (0x110000 ≤ e.1 ∧ e.1 < 0x120000)
  { s2 with hif := hif, wv := { s2.wv with hostQ := [] },
            ports := s2.ports.map (fun p => { p with eg := p.eg.filter (fun e => !isHost e) }),
            stg := s2.stg.filter (fun e => !inHif e), act := s2.act.filter (fun e => !inHif e),
            cmts := Assoc.del (cmtKey .hif) s2.cmts }

end Sys2Proof.Machine
end

