-- ==== Sys2Proof/Machine/TimeBase.lean ====
section
/-! DEFINITION. The time base (R98 to R139): reading Warp and Weft, steering Weft, and the dual-confirmed SET, STEP, SLEW and
CANCEL. -/

namespace Sys2Proof.Machine

open Sys2Proof

/-- TIME_LATCH_READ: one time word is latched for the path (R101). While the shadow stands the read returns the reset value and
reaches no block (R494). -/
def State.timeLatch (s : State) (p : Path) : State :=
  if s.shadow then s else s.setLat p (fun l => { l with time := s.nowWord })

/-- WEFT_LATCH_READ (R113). -/
def State.weftLatch (s : State) (p : Path) : State :=
  if s.shadow then s else s.setLat p (fun l => { l with weft := BitVec.ofNat 64 s.weftNs })

/-! The oscillator against its model (R229, R327). -/

/-- The temperature of TS0 in 1/16 °C (R229). -/
def State.oscTemp (s : State) : Int := s.mgt.tempNow.getD 0 0

/-- TC_EN (R236). -/
def State.tcEn (s : State) : Bool := s.bit 0x70000 29

/-- Seconds elapsed from an instant. -/
def State.secsSince (s : State) (t : Nat) : Rat := ((s.now - t : Nat) : Rat) / nsPerSec

/-! Weft. -/

/-- OSC_AUX fitted (R241). -/
def State.auxFitted (s : State) : Bool := s.bit 0x70024 31

/-- The change of one full millisecond of a slew, in sns (R125). -/
def SlewRec.perMs (x : SlewRec) : Rat := (x.rate : Rat) * 65536 / 1000000

/-- The change that the millisecond now running brings, in sns with its sign: a full one's, or in the last what remains (R125). -/
def SlewRec.thisMs (x : SlewRec) : Rat := (if x.amount < 0 then -1 else 1) * min x.perMs |(x.amount : Rat) - x.change|

/-- The rate of a running slew as a fraction, with its sign (R125): the feed-forward of Weft and the offset on top of y_cmd. -/
def State.slewFf (s : State) : Rat :=
  match s.tb.slew with
  | some x => x.thisMs / (65536 * 10 ^ 6)
  | none => 0

/-- The frequency that the model in use gives now (R229, R327). -/
def State.yModel (s : State) : Rat :=
  let m := s.srv.model
  let dT := (s.oscTemp : Rat) / 16 - (m.t0c : Rat) / 100
  (m.f0 : Rat) / 10 ^ 18 + (m.d : Rat) / 10 ^ 18 / 3600 * s.secsSince s.srv.fitAt + (if s.tcEn then (m.k : Rat) / 10 ^ 15 * dT else 0)

/-- SRV_FWORD, slew included, less the model, summed into q up to now: before every change of the frequency and at every epoch (R327). -/
def State.qAccrue (s : State) : State :=
  { s with gns := { s.gns with qFreq := s.gns.qFreq + (s.srv.yCmd + s.slewFf - s.yModel) * s.secsSince s.gns.qAt * (10 ^ 9 * 65536),
                               qAt := s.now } }

/-- Weft's rate in ns/s (R112), with the feed-forward of R559 while it is frozen. -/
def State.weftRate (s : State) : Rat :=
  s.tb.yInt + s.tb.phase + s.slewFf * 10 ^ 9 +
  match s.tb.freeze with
  | some f => (s.srv.yCmd - f.yCmd) * 10 ^ 9
  | none => 0

/-- A(t) of R559 in ns while Weft's holdover is in force. -/
def State.freezeAllow (s : State) (f : Freeze) : Rat :=
  let t := s.secsSince f.start
  (s.predicted - f.e0) / snsPerNs + ((s.reg 0xE0004).toNat : Rat) / 10 ^ 18 / 3600 * t ^ 2 / 2 * 10 ^ 9

/-- The allowance A in ns (R556, R559, R560). -/
def State.allowance (s : State) : Rat :=
  match s.tb.freeze with
  | some f => s.freezeAllow f
  | none => s.tb.allow

/-- The bound B of every comparison, in ns (R556). -/
def State.weftBound (s : State) : Rat := max ((s.fld 0xE0000 19 0 : Nat) : Rat) 16 + s.allowance

/-- Whether a difference Warp − Weft in ns passes the comparison of R556. -/
def State.weftPasses (s : State) (d : Int) : Bool := decide (((|d| : Int) : Rat) ≤ s.weftBound)

/-- Weft's holdover begun (R559): only with OSC_AUX fitted, and once until it ends. -/
def State.freezeWeft (s : State) (e0 : Rat) : State :=
  if s.auxFitted && s.tb.freeze.isNone then
    { s with tb := { s.tb with freeze := some { start := s.now, yCmd := s.srv.yCmd, e0 := e0 } } }
  else s

/-- Weft's holdover ended (R560): the feed-forward moves into y_int, and A keeps its value to fall from there. -/
def State.thawWeft (s : State) : State :=
  match s.tb.freeze with
  | none => s
  | some f =>
    let y := clampQ (-200000) 200000 (s.tb.yInt + (s.srv.yCmd - f.yCmd) * 10 ^ 9)
    { s with tb := { s.tb with allow := s.freezeAllow f, freeze := none, yInt := y } }

/-- WEFT_LOAD (R110, R111), at the first whole second of Warp from the entry to CALIBRATE on, in whatever mode it falls, since Warp
starts at PLL lock and CALIBRATE may end within the second (DEDUCED, log 124): Weft takes it, the steering frequency the nominal
ratio, and L_SYNC is kept. -/
def State.weftLoad (s : State) (lSync : Nat) : State :=
  if s.md.mode != .boot && !s.tb.weftLoaded && decide (s.nsNow = 0) then
    { s with tb := { s.tb with weftFix := s.secNow * nsPerSec * 2 ^ 32, weftPhase := 0, weftLoaded := true, lSync := lSync,
                               yInt := 0, phase := 0 } }
  else s

/-- WEFT_STEER, at a whole second of Warp: d is formed from the count that Weft captures when the strobe has crossed, L_SYNC
later, and the loop sets the rate of the next second (R111, R112); while Weft's holdover is in force y_int and the phase term are held (R559), and afterwards A falls (R560). -/
def State.weftSteer (s : State) : State :=
  if !s.tb.weftLoaded || decide (s.nsNow ≠ 0) then s else
  let captured := s.weftNs + s.tb.lSync
  let d : Int := -(weftDiff (s.secNow * nsPerSec + s.tb.lSync) captured)
  let s1 := { s with tb := { s.tb with d := d } }
  if s1.tb.freeze.isSome then s1 else
  let rmax : Rat := (s1.fld 0x78020 9 0 : Nat)
  let tau : Rat := if s1.vBit then (s1.fld 0x78020 29 16 : Nat) else 1
  let ph : Rat := if s1.vBit then clampQ (-rmax) rmax (-(d : Rat) / tau) else -(d : Rat)
  let yi := clampQ (-200000) 200000 (s1.tb.yInt - (d : Rat) / (4 * tau * tau))
  { s1 with tb := { s1.tb with yInt := yi, phase := ph, allow := max 0 (s1.tb.allow - rmax) } }

/-! Steps, sets and slews. -/

/-- The 20 bytes that the check value covers (R115). -/
def stepBytes (r : StepRec) : List Byte :=
  leBytes 4 r.op0.toNat ++ leBytes 4 r.op1.toNat ++ leBytes 4 r.op2.toNat ++ leBytes 4 r.op3.toNat ++ leBytes 4 r.ctl.toNat

/-- TB_STEP_STAT of the visible copy: state and code, with DONE or REJECT and the cause STEP (R131, R515). -/
def State.stepStat (s : State) (r : StepRec) (st code : Nat) : State :=
  if r.bodkin then s else
  let done := st == 3 || st == 7
  let rej := st == 4
  let s1 := { s with tb := { s.tb with stToken := r.token, stCode := code, stState := st, stDone := s.tb.stDone || done,
                                       stReject := s.tb.stReject || rej } }
  if done || rej then s1.cause 3 else s1

/-- An operation issued: its operands and check value go to both sides (R115, R116). -/
def State.stepIssue (s : State) (r : StepRec) : State :=
  let s1 := s.stepStat r 1 0
  { s1 with tb := { s1.tb with checking := s1.tb.checking ++ [r] } }

/-- An operation of the visible copy: the operand registers as they stand, and the word written to TB_STEP_CTL. -/
def State.visibleStep (s : State) (op : Nat) (token : BitVec 16) : State :=
  if s.noWrites then s else
  s.stepIssue { bodkin := false, op := op, op0 := s.reg 0x78034, op1 := s.reg 0x78038, op2 := s.reg 0x7803C,
                op3 := s.reg 0x78040, chk := s.reg 0x78044, ctl := BitVec.ofNat 32 (token.toNat * 2 ^ 16 + op),
                token := token.toNat, armedAt := 0 }

/-- An operation of Bodkin's private copy, with its check value (R119). -/
def State.bodkinStep (s : State) (op : Nat) (o0 o1 o2 o3 : Nat) : State :=
  let r : StepRec := { bodkin := true, op := op, op0 := BitVec.ofNat 32 o0, op1 := BitVec.ofNat 32 o1, op2 := BitVec.ofNat 32 o2,
                       op3 := BitVec.ofNat 32 o3, chk := 0, ctl := BitVec.ofNat 32 op, token := 0, armedAt := 0 }
  s.stepIssue { r with chk := BitVec.ofNat 32 (crc32 (stepBytes r)) }

/-- The signed amount of a STEP or SLEW in sns (R122). -/
def StepRec.amount (r : StepRec) : Int := signed 64 (r.op0.toNat + r.op1.toNat * 2 ^ 32)

/-- Whether an operand breaks the table of R122 (code 0x10). -/
def StepRec.badOperand (r : StepRec) : Bool :=
  match r.op with
  | 1 => decide (r.op1.toNat / 2 ^ 16 ≠ 0 ∨ r.op3.toNat / 2 ^ 16 ≠ 0 ∨ 999999999 < r.op2.toNat)
  | 2 => decide (r.op2.toNat ≠ 0 ∨ r.op3.toNat ≠ 0)
  | 3 => decide (r.op3.toNat ≠ 0)
  | _ => decide (r.op0.toNat ≠ 0 ∨ r.op1.toNat ≠ 0 ∨ r.op2.toNat ≠ 0 ∨ r.op3.toNat ≠ 0)

/-- Whether an amount is 0 or a slew's rate out of range (code 0x12, R124, R125). -/
def StepRec.badAmount (r : StepRec) : Bool :=
  match r.op with
  | 2 => r.amount == 0
  | 3 => r.amount == 0 || decide (r.op2.toNat < 100) || decide (1000000 < r.op2.toNat)
  | _ => false

/-- Whether the mode and the master permit a SET, STEP or SLEW (R120, R121). -/
def State.stepPermitted (s : State) (bodkin : Bool) : Bool :=
  if bodkin then
    s.md.mode == .acquire || s.md.mode == .locked || s.md.mode == .holdover || s.md.mode == .freerun
  else s.md.mode == .freerun && s.bit 0x78024 0

/-- Whether a copy has something to cancel: its own armed operation or running slew, and for Bodkin any (R120, R126). -/
def State.canCancel (s : State) (bodkin : Bool) : Bool :=
  (match s.tb.armed with
   | some a => bodkin || !a.bodkin
   | none => false) ||
  (match s.tb.slew with
   | some x => bodkin || !x.bodkin
   | none => false)

/-- The code that the check of R116 gives an operation, in the order of R674; 0 when it is armed or carried out. -/
def State.stepCode (s : State) (r : StepRec) (intact : Bool) : Nat :=
  if !intact || crc32 (stepBytes r) != r.chk.toNat then 0x11
  else if r.op < 1 ∨ 4 < r.op then 0x13
  else if r.op ≠ 4 ∧ !s.stepPermitted r.bodkin then 0x20
  else if r.op ≠ 4 ∧ (s.tb.armed.isSome ∨ s.tb.slew.isSome) then 0x22
  else if r.op = 1 ∧ r.bodkin ∧ s.md.timeSet then 0x23
  else if r.op = 2 ∧ r.bodkin ∧ s.md.timeSet ∧ s.pair 0x70010 = 0 then 0x21
  else if r.op = 4 ∧ !s.canCancel r.bodkin then 0x24
  else if r.badOperand then 0x10
  else if r.badAmount then 0x12
  else 0

/-- A CANCEL carried out (R126): an armed operation is withdrawn; a slew ends at the next whole millisecond of Warp. -/
def State.stepCancel (s : State) (r : StepRec) : State :=
  match s.tb.armed with
  | some a =>
    let s1 := { s with tb := { s.tb with armed := none } }
    if r.bodkin then s1.stepStat a 7 0 else s1.stepStat r 7 0
  | none =>
    let mark := fun (x : SlewRec) => { x with cancelled := true, token := if r.bodkin then x.token else r.token }
    let s1 := { s with tb := { s.tb with slew := s.tb.slew.map mark } }
    s1.stepStat r 5 0

/-- STEP_CHECK_DONE: the check of the oldest operation issued ends (R116, R674). An operation of Bodkin refused as busy is
issued again later (R228). -/
def State.stepCheck (s : State) (warpIntact weftIntact : Bool) : State :=
  match s.tb.checking with
  | [] => s
  | r :: rest =>
    let s1 := { s with tb := { s.tb with checking := rest } }
    let code := s1.stepCode r (warpIntact && weftIntact)
    if code ≠ 0 then
      let s2 := s1.stepStat r 4 code
      if r.bodkin && r.op != 4 then { s2 with srv := { s2.srv with retry := code == 0x22, removal := false } } else s2
    else if r.op = 4 then s1.stepCancel r
    else ({ s1 with tb := { s1.tb with armed := some { r with armedAt := s1.now } } }).stepStat r 2 0

/-- TB_STEP_LAST, its saturation, and the TIME_CHANGE record (R127, R132, R600). -/
def State.recordChange (s : State) (bodkin : Bool) (op : Nat) (change : Int) : State :=
  let v := satSym 64 change
  let s1 := { s with tb := { s.tb with last := v, lastSat := v != change, stepFlag := true } }
  s1.log 0x0003 ([BitVec.ofNat 8 op, if bodkin then 0 else 1, 0, 0] ++ leBytes 8 (unsigned 64 v))

/-- The time that a number of bytes takes on a serial line, in ns: ten bits to a byte (R265). -/
def lineTime (baud bytes : Nat) : Nat := ceilDiv (bytes * 10 * nsPerSec) baud

/-- The TODOUT messages whose sending instants a step by `change` has passed over (R266): whether that of the present second is still to be
sent, and how many are omitted. -/
def State.todPassed (s : State) (change : Int) : Bool × Nat :=
  let d : Int := (s.fld 0x80500 9 0 * 1000000 * snsPerNs : Nat)
  let before := fun (t : Int) => (t - d - 1) / snsPerSec
  let n := (before s.warpSns - before ((s.warpSns : Int) - change)).toNat
  let send := decide (0 < n ∧ d < ((s.nsNow * snsPerNs : Nat) : Int) ∧ s.nsNow + lineTime (baudOf (s.fld 0x80500 23 21)) 34 + 10000000 ≤ nsPerSec)
  (send, n - b01 send)

/-- What a SET or STEP changes beside the counters: z_f falls by the change, and so does every stored phase of a reference, so
that no loop and no monitor sees it (R222); the build-out becomes `bo`, 0 at Bodkin's own operation (R228); the receive trackers'
edges stand on the new scale; aligned clocks are to re-align (R251), and of the TODOUT messages whose instants a forward step passes the
last is due if it can still end in time, and the others are omitted (R266); L and the offset are read anew at the new SEC. -/
def State.afterStep (s : State) (change : Int) (bo : Rat) : State :=
  let v := s.srv
  let v := { v with zf := v.zf - change, bo := bo, lastZ := v.lastZ.map (fun x => (x.1, x.2 - change)),
                    win := v.win.map (fun w => { w with samples := w.samples.map (fun x => (x.1, x.2 - change)) }) }
  let sh := fun (l : List (Nat × Int)) => l.map (fun x => (x.1, x.2 - change))
  let refs := s.ref.refs.map fun r =>
    { r with z := r.z - change, zPrev := r.zPrev.map (· - change), recent := sh r.recent, freqHist := sh r.freqHist,
             secHist := r.secHist.map (· - change), lastT := r.lastT + change }
  let tod := { s.ref.tod with lastLabel := s.ref.tod.lastLabel.map (fun x => (x.1, x.2 + change)) }
  let clks := s.out.clks.mapIdx fun n c => { c with realign := c.realign || s.bit (cBase n) 28, aligned := false }
  let pps := s.out.pps.map fun p => { p with inPhase := p.inPhase.map (· + change), inGoal := p.inGoal + change }
  let ports := s.ports.map fun p => { p with stk := { p.stk with convs := p.stk.convs.map (fun x => (x.1, x.2 + change)) } }
  let runs := s.bit 0x80500 31 && !s.out.todMuted
  let (due, omitted) := s.todPassed change
  (({ s with srv := v, ref := { s.ref with refs := refs, tod := tod },
             out := { s.out with clks := clks, pps := pps, gppsZ := s.out.gppsZ.map (· - change), todDue := runs && due },
             ports := ports }).countN 0x80710 (if runs then omitted else 0)).refreshLeap

/-- The build-out after an operation: 0 after Bodkin's own and while TIME_SET is 0, and otherwise lower by the change of the visible
copy, so that the loop sees no phase error (R222, R228). -/
def State.boAfter (s : State) (r : StepRec) (change : Int) : Rat := if r.bodkin || !s.md.timeSet then 0 else s.srv.bo - change

/-- Warp after a change to `t` sns by `change`, with what Weft is to take on its next cycle: the SET's whole nanoseconds or the
change rounded to the nearest nanosecond (R118, R123, R124). A result outside Warp's range is stated nowhere and is a free
value. -/
def State.setWarp (s : State) (t : Int) (change : Int) (weftTo : Option Nat) : State :=
  let ok := decide (0 ≤ t ∧ t < ((2 ^ 48 * snsPerSec : Nat) : Int))
  let (x, s1) := if ok then (t.toNat, s) else (s.draw.1 % (2 ^ 48 * snsPerSec), s.draw.2)
  let by_ : Int := match weftTo with
    | some n => (n : Int) - s.tb.warp
    | none => roundQ ((change : Rat) / snsPerNs)
  { s1 with tb := { s1.tb with warp := x / snsPerNs, frac := x % snsPerNs, stepSum := s1.tb.stepSum + change,
                               weftDue := some { load := weftTo, by_ := by_, at_ := s1.now } } }

/-- A SET at A (R123). -/
def State.applySet (s : State) (r : StepRec) : State :=
  let ns : Nat := (r.op0.toNat + r.op1.toNat % 2 ^ 16 * 2 ^ 32) * nsPerSec + r.op2.toNat
  let t : Nat := ns * snsPerNs + r.op3.toNat % 2 ^ 16
  let change : Int := (t : Int) - (s.warpSns : Int)
  let sec := s.secNow
  let s1 := (s.bwStep.setWarp t change (some ns)).putStep 0 sec change
  let s2 := { s1 with md := { s1.md with timeSet := s1.md.timeSet || r.bodkin, hostSet := s1.md.hostSet || !r.bodkin },
                      tb := { s1.tb with armed := none, gmBase := s1.tb.gmBase + 1 },
                      gns := { s1.gns with redo := s1.gns.redo || (r.bodkin && !s.md.timeSet && !s1.gns.firstValid) } }
  (((s2.afterStep change (s.boAfter r change)).recordChange r.bodkin 0 change).stepStat r 3 0)

/-- A STEP at A (R124). -/
def State.applyStep (s : State) (r : StepRec) : State :=
  let change := r.amount
  let sec := s.secNow
  let s1 := (s.bwStep.setWarp ((s.warpSns : Int) + change) change none).putStep 1 sec change
  let s2 := { s1 with tb := { s1.tb with armed := none, stepAt := some s1.now, gmBase := s1.tb.gmBase + 1 } }
  (((s2.afterStep change (s.boAfter r change)).recordChange r.bodkin 1 change).stepStat r 3 0)

/-- A SLEW begun at A (R125). -/
def State.startSlew (s : State) (r : StepRec) : State :=
  let x : SlewRec := { bodkin := r.bodkin, amount := r.amount, rate := r.op2.toNat, change := 0, token := r.token, msAt := s.tb.warp,
                       cancelled := false, abandoned := false }
  let s := s.qAccrue
  let s1 := { s with tb := { s.tb with armed := none, slew := some x } }
  (s1.putStep 2 s1.secNow r.amount).stepStat r 5 0

/-- Whether a CANCEL written before now waits for the end of its check and will withdraw the armed operation (R126). -/
def State.cancelWaits (s : State) : Bool := s.tb.checking.any fun c => c.op == 4 && s.stepCode c true == 0

/-- STEP_APPLY: the apply instant A, when Warp on its old scale reads NS = 500,000,000, at least 1 ms after the check (R117). A CANCEL
written before A keeps the operation from being applied, also while its own check still runs (R126). -/
def State.stepApply (s : State) (warpStands weftStands : Bool) : State :=
  match s.tb.armed with
  | none => s
  | some r =>
    if s.now < r.armedAt + 1000000 ∨ s.nsNow ≠ 500000000 ∨ s.cancelWaits then s
    else if !(warpStands && weftStands) then
      let s1 := ({ s with tb := { s.tb with armed := none } }).stepStat r 4 0x31
      if r.bodkin then { s1 with srv := { s1.srv with removal := false } } else s1
    else match r.op with
      | 1 => s.applySet r
      | 2 => s.applyStep r
      | _ => s.startSlew r

/-- A slew ended with the change it has made (R126, R127, R161). -/
def State.endSlew (s : State) (x : SlewRec) (change : Int) : State :=
  let r : StepRec := { bodkin := x.bodkin, op := 3, op0 := 0, op1 := 0, op2 := 0, op3 := 0, chk := 0, ctl := 0, token := x.token, armedAt := 0 }
  let s1 := { s with tb := { s.tb with slew := none },
                     srv := { s.srv with removal := if x.bodkin then false else s.srv.removal } }
  let s2 := (s1.putStep 3 s1.secNow change).recordChange x.bodkin 3 change
  s2.stepStat r (if x.abandoned then 6 else if x.cancelled then 7 else 3) (if x.abandoned then 0x30 else 0)

/-- SLEW_MS_TICK: a whole millisecond of Warp of a slew has passed (R125, R126). The build-out falls by the change of a slew that
removes it (R228). A slew whose amount is complete ends as completed even when a CANCEL has come in that millisecond. -/
def State.slewTick (s : State) : State :=
  match s.tb.slew with
  | none => s
  | some x =>
    if s.tb.warp < x.msAt + 1000000 then s else
    let left : Rat := |(x.amount : Rat) - x.change|
    let x1 := { x with change := x.change + x.thisMs, msAt := x.msAt + 1000000 }
    let bo := if x.bodkin && s.srv.removal then s.srv.bo - x.thisMs else s.srv.bo
    let s := s.qAccrue
    let s1 := { s with tb := { s.tb with slew := some x1 }, srv := { s.srv with bo := bo } }
    if left ≤ x.perMs then s1.endSlew { x1 with cancelled := false } x.amount
    else if x.cancelled || x.abandoned then s1.endSlew x1 (roundQ x1.change)
    else s1

/-- LEAP_EVENT: an event's instant has come (R136, R137, R138): what L, the offset and the next event read follows the table. -/
def State.leapEvent (s : State) : State := s.refreshLeap

def execWeftLoad (lSync : Nat) (s : State) : Host.Outcome State Fault Refusal := .next (s.weftLoad lSync)
def execWeftSteer (s : State) : Host.Outcome State Fault Refusal := .next s.weftSteer
def execTbSet (token : BitVec 16) (s : State) : Host.Outcome State Fault Refusal := .next (s.visibleStep 1 token)
def execTbStep (token : BitVec 16) (s : State) : Host.Outcome State Fault Refusal := .next (s.visibleStep 2 token)
def execTbSlew (token : BitVec 16) (s : State) : Host.Outcome State Fault Refusal := .next (s.visibleStep 3 token)
def execTbCancel (token : BitVec 16) (s : State) : Host.Outcome State Fault Refusal := .next (s.visibleStep 4 token)
def execStepCheckDone (warpIntact weftIntact : Bool) (s : State) : Host.Outcome State Fault Refusal :=
  .next (s.stepCheck warpIntact weftIntact)
def execStepApply (warpStands weftStands : Bool) (s : State) : Host.Outcome State Fault Refusal :=
  .next (s.stepApply warpStands weftStands)
def execSlewMsTick (s : State) : Host.Outcome State Fault Refusal := .next s.slewTick
def execLeapEvent (s : State) : Host.Outcome State Fault Refusal := .next s.leapEvent

end Sys2Proof.Machine
end

