-- ==== Sys2Proof/Machine/Servo.lean ====
section
/-! DEFINITION. The servo, the Splice's bridge and the holdover model (R218 to R235): what the loop computes, and what the
other parts do to it. The choice of references stands in Refs. -/

namespace Sys2Proof.Machine

open Sys2Proof

/-! Least squares. -/

/-- The sum of a list of rationals. -/
def sumQ (l : List Rat) : Rat := l.foldl (· + ·) 0

/-- The mean of a list; 0 of the empty list. -/
def meanQ (l : List Rat) : Rat := if l.isEmpty then 0 else sumQ l / (l.length : Rat)

/-- The least-squares line a + b·t through points (t, v); b is 0 where the points hold one instant. -/
def fitLine (pts : List (Rat × Rat)) : Rat × Rat :=
  let mt := meanQ (pts.map (·.1))
  let mv := meanQ (pts.map (·.2))
  let stt := sumQ (pts.map (fun p => (p.1 - mt) ^ 2))
  let b := if stt = 0 then 0 else sumQ (pts.map (fun p => (p.1 - mt) * (p.2 - mv))) / stt
  (mv - b * mt, b)

/-- The determinant of three rows. -/
def det3 (a b c : Rat × Rat × Rat) : Rat :=
  a.1 * (b.2.1 * c.2.2 - b.2.2 * c.2.1) - a.2.1 * (b.1 * c.2.2 - b.2.2 * c.1) + a.2.2 * (b.1 * c.2.1 - b.2.1 * c.1)

/-- The least-squares weights of v on three regressors, by the normal equations, with the diagonal of the inverse; none where
they do not determine them. -/
def fit3 (rows : List ((Rat × Rat × Rat) × Rat)) : Option ((Rat × Rat × Rat) × (Rat × Rat × Rat)) :=
  let s := fun (f : (Rat × Rat × Rat) → Rat) => sumQ (rows.map (fun r => f r.1))
  let sv := fun (f : (Rat × Rat × Rat) → Rat) => sumQ (rows.map (fun r => f r.1 * r.2))
  let a := s (fun x => x.1 * x.1)
  let b := s (fun x => x.1 * x.2.1)
  let c := s (fun x => x.1 * x.2.2)
  let d := s (fun x => x.2.1 * x.2.1)
  let e := s (fun x => x.2.1 * x.2.2)
  let f := s (fun x => x.2.2 * x.2.2)
  let u := sv (fun x => x.1)
  let v := sv (fun x => x.2.1)
  let w := sv (fun x => x.2.2)
  let dt := det3 (a, b, c) (b, d, e) (c, e, f)
  if dt = 0 then none else
  some ((det3 (u, b, c) (v, d, e) (w, e, f) / dt, det3 (a, u, c) (b, v, e) (c, w, f) / dt, det3 (a, b, u) (b, d, v) (c, e, w) / dt),
    ((d * f - e * e) / dt, (a * f - c * c) / dt, (a * d - b * b) / dt))

/-! The oscillator and its model. -/

/-- Whether D and K of a model stand: learnt, or a reloaded prior (R233). -/
def State.modelStands (s : State) : Bool := s.srv.learnt || s.srv.prior

/-- D per second as a fraction (R232). -/
def State.driftQ (s : State) : Rat := if s.modelStands then (s.srv.model.d : Rat) / 10 ^ 18 / 3600 else 0

/-- K per kelvin as a fraction, 0 with TC_EN = 0 (R229). -/
def State.tempcoQ (s : State) : Rat := if s.modelStands && s.tcEn then (s.srv.model.k : Rat) / 10 ^ 15 else 0

/-- The uncertainties in force for the prediction: the unlearnt values until the model is learnt; with TC_EN = 0, u_c takes with it
the |K| that TC_EN = 1 would use (R229, R230, R231). -/
def State.modelU (s : State) : Model :=
  let m := if s.srv.learnt then s.srv.model else Model.unlearnt
  if s.tcEn then m else { m with k := 0, uc := (if s.modelStands then s.srv.model.k.natAbs else 0) + m.uc }

/-- Temperatures over the last minute, their mean in a span of instants; the present one where none falls there. -/
def State.meanTemp (s : State) (a b : Nat) : Rat :=
  let l := s.srv.tHist.filter (fun x => decide (a ≤ x.1 ∧ x.1 ≤ b))
  if l.isEmpty then (s.oscTemp : Rat) else meanQ (l.map (fun x => (x.2 : Rat)))

/-- The holdover frequency at entry instant now (R233). -/
def State.holdFreq (s : State) : Rat :=
  let a := s.now - 62 * nsPerSec
  let b := s.now - 2 * nsPerSec
  let l := s.srv.yHist.filter (fun x => decide (a ≤ x.1 ∧ x.1 ≤ b ∧ 2 * nsPerSec ≤ s.now))
  let m := if l.isEmpty then s.srv.yCmd else meanQ (l.map (·.2))
  m + s.driftQ * 32 + s.tempcoQ * ((s.oscTemp : Rat) - s.meanTemp a b) / 16

/-- The mean from `a` to `b` of a quantity that keeps each entry's value until the next entry. -/
def stepMean (l : List (Nat × Rat)) (a b : Nat) (none_ : Rat) : Rat :=
  let before := (l.filter (fun x => decide (x.1 ≤ a))).getLast?
  let first := ((before.map (·.2)).getD ((l.head?.map (·.2)).getD none_))
  let inside := l.filter (fun x => decide (a < x.1 ∧ x.1 ≤ b))
  let r := inside.foldl (fun (acc : Nat × Rat × Rat) x => (x.1, x.2, acc.2.2 + acc.2.1 * ((x.1 - acc.1 : Nat) : Rat))) (a, first, 0)
  if b ≤ a then first else (r.2.2 + r.2.1 * ((b - r.1 : Nat) : Rat)) / ((b - a : Nat) : Rat)

/-- The rms of the loop's error over the 60 s before now, in sns (R234). -/
def State.rmsE (s : State) : Rat :=
  let l := s.srv.eHist.filter (fun x => decide (s.now ≤ x.1 + 60 * nsPerSec))
  if l.isEmpty then 0 else sqrtQ (meanQ (l.map (fun x => x.2 ^ 2)))

/-- E0 (R234). -/
def State.e0Now (s : State) : Rat := |s.srv.zf| + s.rmsE

/-- A prediction begun at H = now, with Weft's own holdover (R233, R234, R559). -/
def State.newHold (s : State) (y0 : Rat) (follows : Bool) : State :=
  let e := s.e0Now
  let h : Hold := { start := s.now, e0 := e, tempH := s.oscTemp, sumDT := 0, y0 := y0, follows := follows }
  ({ s with srv := { s.srv with hold := some h, pred := e } }).freezeWeft e

/-- The holdover on whose frequency the servo stands. -/
def State.standingHold (s : State) : Bool := s.srv.hold.any (·.follows)

/-- Holdover begun at H = now, once until a reference is followed again (R233). -/
def State.beginHold (s : State) (y0 : Rat) : State := if s.standingHold then s.freezeWeft s.e0Now else s.newHold y0 true

/-- y_cmd held to its span (R218). -/
def clampY (y : Rat) : Rat := clampQ (-(1 / 10000)) (1 / 10000) y

/-- The y_cmd that the PLL's N, with its 48-bit fraction, carries for a demand; which way N rounds is open (R218). -/
def State.quantY (s : State) (y : Rat) : Rat :=
  let unit : Rat := 10 ^ 10 / ((s.fld 0x70024 16 0 * 1000 : Nat) : Rat) * 2 ^ 48
  let n : Rat := unit * (1 + y)
  let k : Int := if n.den = 1 then n.num else Config.round n
  (k : Rat) / unit - 1

/-- A y_cmd put in force. -/
def State.setY (s : State) (y : Rat) : State := { s.qAccrue with srv := { s.srv with yCmd := s.quantY (clampY y) } }

/-! Kinds of reference and the loop's constants. -/

/-- The kind of a reference (R187): 0 time, 1 phase, 2 frequency. -/
def State.refKind (s : State) (i : Nat) : Nat :=
  if i < 8 then
    match s.fld (bBase i) 22 21 with
    | 0 => 1
    | 1 => 0
    | _ => 2
  else if 13 ≤ i then 2 else 0

/-- BW in Hz (R236). -/
def State.bwHz (s : State) : Rat := (s.fld 0x70000 23 0 : Rat) / 1000000

/-- The ceiling of a reference's bandwidth in Hz (R221): for a PTP client one tenth of the Sync rate that its grandmaster has
granted, or, without a grant, of the rate its instance is set to. -/
def State.bwCeil (s : State) (i : Nat) : Rat :=
  if s.refKind i = 2 then 10
  else if i < 9 then 1 / 10
  else
    let l := ((s.ptp.ports.getD (i - 9) PtpPort.reset).syncLog).getD (signed 4 (s.fld (iBase (i - 9) 0 + 4) 31 28))
    min 10 ((if 0 ≤ l then 1 / ((2 ^ l.toNat : Nat) : Rat) else ((2 ^ (-l).toNat : Nat) : Rat)) / 10)

/-- BW_EFF (R221). -/
def State.bwEff (s : State) (i : Nat) : Rat := min (max s.srv.stageBw s.bwHz) (s.bwCeil i)

/-- One second in sns, as a rational. -/
def sSns : Rat := 65536000000000

/-- z of the target taken into the loop (R220): `tm` is the time since the measurement before it. -/
def State.loopStep (s : State) (i : Nat) (z : Int) (tm : Rat) : State :=
  let zeta : Rat := if s.bit 0x70000 30 then 5 else 707 / 1000
  let g : Rat := if s.bit 0x70000 30 then 1010 / 100 else 2058 / 1000
  let bw := s.bwEff i
  let wn := 2 * piQ * bw / g
  let e : Rat := (z : Rat) - s.srv.bo
  let i' := s.srv.i + wn * wn * (e / sSns) * tm
  let p := 2 * zeta * wn * (e / sSns)
  let a := min 1 (2 * piQ * bw * tm)
  let zf := s.srv.zf + a * ((z : Rat) - s.srv.zf)
  let eh := (s.srv.eHist ++ [(s.now, e)]).filter (fun x => decide (s.now ≤ x.1 + 60 * nsPerSec))
  let w := s.nowWord
  ({ s with srv := { s.srv with i := i', p := p, zf := zf, eHist := eh, lastZ := some ((s.refAt i).lastAt.getD s.now, z),
                                refLatch := some { w with t := (s.refAt i).lastT.toNat } } }).setY (s.srv.yAnchor + i' + p)

/-- Whether the lock and unmute conditions of R37 and R52 hold now: the filtered time error followed at each servo update. -/
def State.followError (s : State) : State :=
  if s.srv.st != .tracking then { s with md := { s.md with lockSince := none } } else
  let te := |s.srv.zf| / snsPerNs
  let inLock := decide (te ≤ ((s.fld 0x70004 31 16 : Nat) : Rat))
  let md := { s.md with lockSince := if inLock then some (s.md.lockSince.getD s.now) else none,
                        within1ns := s.md.within1ns || decide (te ≤ 1) }
  let ss := if s.srv.stageBw = 0 then none else if te ≤ 100 then some (s.srv.stageSince.getD s.now) else none
  ({ s with md := md, srv := { s.srv with stageSince := ss } }).latchUnmute

/-- Whether an operation of Bodkin is being checked, armed or slewing. -/
def State.bodkinBusy (s : State) : Bool :=
  s.tb.checking.any (·.bodkin) || s.tb.armed.any (·.bodkin) || s.tb.slew.any (·.bodkin)

/-- The initial SET from a reference (R47, R123): the reference time at the apply instant A. None is issued where it is open at
which half-second the check of R116, which may take 10 µs, leaves A; a later measurement brings it. -/
def State.issueSet (s : State) (z : Int) : State :=
  if 500000000 < s.nsNow + 1010000 ∧ s.nsNow + 1000000 ≤ 500000000 then s else
  let sec := if s.nsNow + 1010000 ≤ 500000000 then s.secNow else s.secNow + 1
  let t := ((sec * snsPerSec + snsPerSec / 2 + s.tb.frac : Nat) : Int) + z
  let t := (max 0 t).toNat
  s.bodkinStep 1 (t / snsPerSec % 2 ^ 32) (t / snsPerSec / 2 ^ 32 % 2 ^ 16) (t / snsPerNs % nsPerSec) (t % snsPerNs)

/-- The accumulated error removed (R228): by a STEP beyond STEP_LIMIT, else by a SLEW at SLEW_MAX. -/
def State.removeError (s : State) : State :=
  let b := roundQ s.srv.bo
  let lim := s.pair 0x70010
  if b = 0 then s
  else if lim ≠ 0 ∧ lim < |b| then
    s.bodkinStep 2 (unsigned 64 b % 2 ^ 32) (unsigned 64 b / 2 ^ 32) 0 0
  else
    ({ s with srv := { s.srv with removal := true } }).bodkinStep 3 (unsigned 64 b % 2 ^ 32) (unsigned 64 b / 2 ^ 32)
      (s.fld 0x7000C 19 0) 0

/-- The newest measurement of a reference taken from its phase detector. -/
def State.takeZ (s : State) (i : Nat) : Option Int × State :=
  if (s.refAt i).isNew then (some (s.refAt i).z, s.setRef i (fun r => { r with isNew := false })) else (none, s)

/-- The servo update of a window: the target's z is collected, and while time is unset the first labelled one brings the
initial SET (R47, R223); y_cmd stays on the bridge with its temperature compensation (R225). -/
def State.windowUpdate (s : State) (w : Window) : State :=
  let k : Rat := if s.srv.learnt then s.tempcoQ else 0
  let s0 := s.setY (s.srv.bridgeY + k * ((s.oscTemp - w.temp : Int) : Rat) / 16)
  match s0.takeZ w.target with
  | (none, s1) => s1
  | (some z, s1) =>
    let s2 := { s1 with srv := { s1.srv with win := some { w with samples := w.samples ++ [((s1.refAt w.target).lastAt.getD s1.now, z)] } } }
    if !s2.md.timeSet && s2.refKind w.target == 0 && !s2.bodkinBusy then s2.issueSet z else s2

/-- The servo update of a loop that follows target `i` (R220): Tm runs from the measurement before to this one. -/
def State.trackUpdate (s : State) (i : Nat) : State :=
  match s.takeZ i with
  | (some z, s1) =>
    let tm := match s1.srv.lastZ with
      | some (t, _) => ((((s1.refAt i).lastAt.getD s1.now) - t : Nat) : Rat) / nsPerSec
      | none => 1
    let s2 := s1.loopStep i z tm
    if !s2.md.timeSet && s2.refKind i == 0 && !s2.bodkinBusy then s2.issueSet z else s2
  | (none, s1) => { s1 with srv := { s1.srv with zf := s1.srv.zf - s1.srv.p * 65536000000 } }

/-- An operation refused as busy is issued again at the first update after the other has ended (R228). -/
def State.retryRemoval (s : State) : State :=
  if s.srv.retry && s.srv.st == .tracking && s.tb.armed.isNone && s.tb.slew.isNone && s.tb.checking.isEmpty then
    ({ s with srv := { s.srv with retry := false } }).removeError
  else s

/-- The modes in which the servo runs (R242). -/
def Mode.running : Mode → Bool
  | .acquire => true
  | .locked => true
  | .holdover => true
  | .freerun => true
  | _ => false

/-- Whether an island is out of service: under test, retired, or not yet passed since reset. -/
def State.islandOut (s : State) (k : Nat) : Bool :=
  match s.fmu.islands[k]? with
  | some i => i.st != .inService
  | none => false

/-- SERVO_UPDATE (R219, R220, R593). A pass of island 3 defers it while y_cmd holds (R575). -/
def State.servoUpdate (s : State) : State :=
  if s.fmu.halted then s else
  let s := { s with fmu := { s.fmu with lastHeart := s.now } }
  if !s.md.mode.running || s.islandOut 3 then s else
  let s1 := match s.srv.st, s.srv.target, s.srv.win with
    | .window, _, some w => s.windowUpdate w
    | .tracking, some i, _ => s.trackUpdate i
    | _, _, _ => s
  let s2 := s1.retryRemoval.followError
  let yh := (s2.srv.yHist ++ [(s2.now, s2.srv.yCmd)]).filter (fun x => decide (s2.now ≤ x.1 + 64 * nsPerSec))
  let keeps := s2.md.mode == .holdover || s2.md.mode == .maintain
  let rt := if !keeps && decide (s2.nsNow < 1000000) then s2.srv.refLatch else s2.srv.refTime
  { s2 with srv := { s2.srv with yHist := yh, refTime := rt } }

/-- FASTLOCK_HALVE: the filtered error has stayed within 100 ns for 4 / (2π × stage bandwidth) seconds (R222). -/
def State.fastlockHalve (s : State) : State :=
  match s.srv.stageSince with
  | none => s
  | some t =>
    if s.md.mode.running && decide (s.srv.stageBw ≠ 0) && decide (4 / (2 * piQ * s.srv.stageBw) ≤ s.secsSince t) then
      let b := s.srv.stageBw / 2
      { s with srv := { s.srv with stageBw := if b ≤ s.bwHz then 0 else b, stageSince := some s.now } }
    else s

/-- Fast-lock begun (R222): the loop starts at its ceiling. -/
def State.startFast (s : State) (i : Nat) : State :=
  if s.bit 0x70000 31 && s.md.mode == .acquire && decide (s.bwHz < s.bwCeil i) then
    { s with srv := { s.srv with stageBw := s.bwCeil i, stageSince := none } }
  else { s with srv := { s.srv with stageBw := 0, stageSince := none } }

/-- The slope of a reference's recent phases, as a fractional frequency. -/
def phaseSlope (l : List (Nat × Int)) (t0 : Nat) : Rat :=
  (fitLine (l.map (fun x => (((x.1 : Rat) - (t0 : Rat)) / nsPerSec, (x.2 : Rat))))).2 / sSns

/-- Entry to ACQUIRE with a reference in SEL (R222): the anchor is the frequency that the target's Splice window found, and the
proportional path stands until the next measurement (R220). -/
def State.acquireEntry (s : State) : State :=
  match s.srv.st, s.srv.target with
  | .tracking, some i =>
    let s := { s with srv := { s.srv with hold := none } }
    if s.bit 0x70000 31 then
      (({ s with srv := { s.srv with yAnchor := s.srv.winY, i := 0 } }).setY (s.srv.winY + s.srv.p)).startFast i
    else
      { s with srv := { s.srv with yAnchor := s.srv.yCmd - s.srv.p, i := 0, stageBw := 0, stageSince := none } }
  | _, _ => s

/-! The Splice's bridge (R223, R225). -/

/-- Bodkin's CANCEL of a running slew, from either copy, through its private copy (R119, R126). -/
def State.cancelSlew (s : State) : State := if s.tb.slew.isSome then s.bodkinStep 4 0 0 0 0 else s

/-- The bridge frequency at C (R225): `oldPasses` says whether the reference left at C still passes its monitors. -/
def State.bridgeFreq (s : State) (oldPasses : Bool) : Rat :=
  if oldPasses && decide (s.srv.selSince + 10 * nsPerSec ≤ s.now) then
    stepMean s.srv.yHist (s.now - 10 * nsPerSec) s.now s.srv.yCmd
  else if s.standingHold then s.srv.yCmd else s.holdFreq

/-- The 10 s of R226: re-targets still remembered. -/
def State.recentRe (s : State) : List Nat := s.srv.retTimes.filter (fun t => decide (s.now < t + 10 * nsPerSec))

/-- The Splice toward a new target (R223): `again` restarts it on the bridge set at C. -/
def State.beginSplice (s : State) (new : Option Nat) (elig : List Nat) (oldPasses again : Bool) : State :=
  let s1 := if again then s else
    let b := s.bridgeFreq oldPasses
    (s.cancelSlew.count 0x700A0).setY b |> fun x => { x with srv := { x.srv with bridgeY := b } }
  let temp := match again, s1.srv.win with
    | true, some w => w.temp
    | _, _ => s1.oscTemp
  let v := { s1.srv with target := new, i := 0, p := 0, bridge := true, retry := false, selSince := s1.now, stageBw := 0,
                         stageSince := none, lastZ := none }
  let s2 := { s1 with srv := v, md := { s1.md with lockSince := none } }
  match new with
  | some t =>
    let len := max 100 (s2.fld 0x70008 13 0) * 1000000
    let w : Window := { target := t, start := s2.now, len := len, samples := [], offers := elig, limited := false, temp := temp }
    ({ s2 with srv := { s2.srv with st := .window, win := some w } }).setRef t (fun r => { r with isNew := false }) |>.thawWeft
  | none =>
    let y := if s2.standingHold then s2.srv.yCmd else if again then s2.srv.bridgeY else s.holdFreq
    let s3 := ({ s2 with srv := { s2.srv with st := .holdover, win := none } }).setY y
    s3.beginHold y

/-- HOLDOVER_PREDICT: E once a second, and y_cmd following D and K (R233, R234, R235); the mute policies that read IN_BUDGET
follow (R259). -/
def State.holdPredict (s : State) : State :=
  match s.srv.hold with
  | none => s
  | some h =>
    if !(s.md.mode.running || s.md.mode == .maintain) then s else
    let t := s.secsSince h.start
    let dT : Rat := (s.oscTemp - h.tempH : Int)
    let h1 := { h with sumDT := h.sumDT + |dT| / 16 }
    let m := s.modelU
    let e := h.e0 + ((m.uy : Rat) / 10 ^ 15 * t + (m.ud : Rat) / 10 ^ 18 / 3600 * t ^ 2 / 2 + (m.uc : Rat) / 10 ^ 15 * h1.sumDT) * sSns
    let s1 := { s with srv := { s.srv with hold := some h1, pred := if s.md.mode == Mode.locked then 0 else e } }
    let s2 := if s1.srv.st == .holdover && (s1.md.mode != .freerun || s1.srv.learnt) then
        s1.setY (h.y0 + s1.driftQ * t + s1.tempcoQ * dT / 16)
      else s1
    s2.applyMute

/-! The model's fit (R229, R230). -/

/-- Samples usable for the fit: over HO_WIN hours. -/
def State.fitWindow (s : State) : List (Nat × Rat × Int) :=
  s.srv.modelHist.filter (fun x => decide (s.now ≤ x.1 + s.fld 0x70020 6 0 * 3600 * nsPerSec))

/-- Highest less lowest of a list. -/
def tempSpan (l : List Int) : Int := l.foldl max (l.headD 0) - l.foldl min (l.headD 0)

/-- A fitted model from samples (R229): F0, D and K by least squares, and the 3σ uncertainties, each floored at one unit. -/
def State.fitModel (s : State) (l : List (Nat × Rat × Int)) : Model :=
  let m := s.srv.model
  let t0 := s.now
  let tMean := meanQ (l.map (fun x => (x.2.2 : Rat) / 16))
  let tq := fun (x : Nat × Rat × Int) => ((x.1 : Rat) - (t0 : Rat)) / nsPerSec
  let dq := fun (x : Nat × Rat × Int) => (x.2.2 : Rat) / 16 - tMean
  let n : Rat := (l.length : Rat)
  let kFit : Bool := decide ((16 : Int) ≤ tempSpan (l.map (fun x => x.2.2)))
  let kOld : Rat := (m.k : Rat) / 10 ^ 15
  let dOld : Rat := (m.d : Rat) / 10 ^ 18 / 3600
  let onlyF0 := s.srv.prior && decide (s.srv.fitS < 3600)
  let units := fun (f d k : Rat) (uf ud uk : Rat) =>
    { m with f0 := Config.round (f * 10 ^ 18), d := Config.round (d * 3600 * 10 ^ 18), k := Config.round (k * 10 ^ 15),
             t0c := Config.round (tMean * 100), uy := max 1 (Config.round (uf * 10 ^ 15)).toNat,
             ud := max 1 (Config.round (ud * 3600 * 10 ^ 18)).toNat, uc := max 1 (Config.round (uk * 10 ^ 15)).toNat,
             learnS := s.srv.fitS }
  if onlyF0 then
    let f := meanQ (l.map (fun x => x.2.1 - dOld * tq x - kOld * dq x))
    let rss := sumQ (l.map (fun x => (x.2.1 - f - dOld * tq x - kOld * dq x) ^ 2))
    let u := if n ≤ 1 then 0 else 3 * sqrtQ (rss / (n - 1) / n)
    { units f dOld kOld u 0 0 with d := m.d, k := m.k, ud := m.ud, uc := m.uc }
  else if kFit then
    match fit3 (l.map (fun x => ((1, tq x, dq x), x.2.1))) with
    | none => m
    | some ((f, d, k), (vf, vd, vk)) =>
      let rss := sumQ (l.map (fun x => (x.2.1 - f - d * tq x - k * dq x) ^ 2))
      let v := if n ≤ 3 then 0 else rss / (n - 3)
      units f d k (3 * sqrtQ (v * vf)) (3 * sqrtQ (v * vd)) (3 * sqrtQ (v * vk))
  else
    let (f, d) := fitLine (l.map (fun x => (tq x, x.2.1 - kOld * dq x)))
    let rss := sumQ (l.map (fun x => (x.2.1 - f - d * tq x - kOld * dq x) ^ 2))
    let v := if n ≤ 2 then 0 else rss / (n - 2)
    let mt := meanQ (l.map tq)
    let stt := sumQ (l.map (fun x => (tq x - mt) ^ 2))
    let vd := if stt = 0 then 0 else v / stt
    { units f d kOld (3 * sqrtQ (v / (if n = 0 then 1 else n) + vd * mt ^ 2)) (3 * sqrtQ vd) 0 with k := m.k, uc := m.uc }

/-- HOLDOVER_MODEL_FIT: one sample a second in LOCKED, none inside a Splice window nor within 60 s after a STEP, and the fit
(R229, R230, R231). -/
def State.modelFit (s : State) : State :=
  let stepped := match s.tb.stepAt with
    | some t => decide (s.now < t + 60 * nsPerSec)
    | none => false
  if s.md.mode != .locked || s.srv.st != .tracking || stepped then s else
  let s1 := { s with srv := { s.srv with modelHist := s.srv.modelHist ++ [(s.now, s.srv.yCmd, s.oscTemp)] } }
  let l := s1.fitWindow
  let s2 := { s1 with srv := { s1.srv with modelHist := l, fitS := min l.length (s1.fld 0x70020 6 0 * 3600) } }
  let m := s2.fitModel l
  let learnt := decide (3600 ≤ s2.srv.fitS) || (s2.srv.prior && decide (600 ≤ s2.srv.fitS))
  { s2 with srv := { s2.srv with model := { m with learnS := s2.srv.fitS }, learnt := s2.srv.learnt || learnt,
                                 prior := s2.srv.prior && decide (s2.srv.fitS < 3600), fitAt := s2.now } }

/-- The 64 bytes of a copy of the model, its CRC included (R232); a quantity beyond its field takes the field's end. -/
def ModelCopy.bytes (c : ModelCopy) : List Byte :=
  let u := fun (v : Nat) => leBytes 4 (min v (2 ^ 32 - 1))
  let i := fun (n : Nat) (v : Int) => leBytes (n / 8) (unsigned n (satS n v))
  let b := leBytes 2 1 ++ leBytes 2 (b01 c.learnt + 2 * b01 c.aux) ++ leBytes 4 c.oscKhz ++ i 64 c.m.f0 ++ i 64 c.m.d ++ i 32 c.m.k ++
    i 32 c.m.t0c ++ u c.m.uy ++ u c.m.ud ++ u c.m.uc ++ u c.m.learnS ++ leBytes 6 c.updSec ++ zeros 6
  b ++ leBytes 4 (crc32 b)

/-- What 64 bytes of FeRAM say as a copy of the model (R232). -/
def ModelCopy.ofBytes (b : List Byte) : ModelCopy :=
  let u := fun (at_ n : Nat) => ofLe (slice b at_ n)
  let flags := u 2 2
  { m := { f0 := signed 64 (u 8 8), d := signed 64 (u 16 8), k := signed 32 (u 24 4), t0c := signed 32 (u 28 4), uy := u 32 4,
           ud := u 36 4, uc := u 40 4, learnS := u 44 4 },
    learnt := flags % 2 == 1, aux := flags / 2 % 2 == 1, oscKhz := u 4 4, updSec := u 48 6,
    crcGood := b.length == 64 && crc32 (slice b 0 60) == u 60 4 }

/-- A copy of the model written to FeRAM, A and B in turn (R231, R232). -/
def State.writeModel (s : State) : State :=
  let c : ModelCopy := { m := s.srv.model, learnt := s.srv.learnt, aux := s.auxFitted, oscKhz := s.fld 0x70024 16 0,
                         updSec := s.secNow % 2 ^ 48, crcGood := true }
  let fe := if s.fe.nextB then { s.fe with copyB := some c.bytes, nextB := false } else { s.fe with copyA := some c.bytes, nextB := true }
  { s with fe := fe }

/-- MODEL_COPY_WRITE: every 600 s in LOCKED (R231); the copy on each exit from LOCKED is made by that change of mode. -/
def State.modelCopyWrite (s : State) : State := if s.md.mode == .locked then s.writeModel else s

/-- The code of SRV_CTL and its token (R244). -/
def State.srvCtl (s : State) (token : BitVec 16) (code : Nat) : State :=
  { s with srv := { s.srv with ctlToken := token.toNat, ctlCode := code } }

/-- FORGET_MODEL (R231, R245): both copies and the model in use erased. -/
def State.forgetModel (s : State) (token : BitVec 16) : State :=
  if s.noWrites then s
  else if s.md.mode == .acquire || s.md.mode == .locked || s.md.mode == .freerun then
    let v := { s.srv with model := Model.unlearnt, learnt := false, prior := false, fitS := 0, modelHist := [] }
    ({ s with srv := v, fe := { s.fe with copyA := none, copyB := none, nextB := false },
              gns := { s.gns with qDue := true, qAnch := false } }).srvCtl token 0
  else s.srvCtl token 0x24

/-- MAINTAIN begins (R227, R234, R559): the window is abandoned, a slew cancelled, y_cmd frozen. A prediction begun in HOLDOVER
goes on; from any other mode one begins at this instant. What LOCK_HOLD has counted stands through MAINTAIN (DESIGN CHOICE, log
100). -/
def State.servoFreeze (s : State) : State :=
  let s1 := s.cancelSlew
  let s2 := { s1 with srv := { s1.srv with st := .frozen, win := none, retry := false } }
  if s2.md.origin == some .holdover && s2.srv.hold.isSome then s2.freezeWeft s2.e0Now else s2.newHold s2.srv.yCmd false

def execFastlockHalve (s : State) : Host.Outcome State Fault Refusal := .next s.fastlockHalve
def execModelCopyWrite (s : State) : Host.Outcome State Fault Refusal := .next s.modelCopyWrite
def execHoldoverPredict (s : State) : Host.Outcome State Fault Refusal := .next s.holdPredict

end Sys2Proof.Machine
end

