-- ==== Sys2Proof/Machine/Refs.lean ====
section
/-! DEFINITION. Reference inputs, their monitors, the ensemble and the selector (R187 to R217), and the end of a Splice window
(R223 to R226). -/

namespace Sys2Proof.Machine

open Sys2Proof

/-! What the monitors say. -/

/-- Whether a reference is watched: ENABLE = 1 in a mode in which the monitors run (R200). -/
def State.refOn (s : State) (i : Nat) : Bool := s.md.mode.serving && s.bit (bBase i) 31

/-- QL_EFF (R202, R329); 15 until the monitors have started (R200). -/
def State.qlEff (s : State) (i : Nat) : Nat :=
  if !s.ref.started then 15
  else if i < 8 then s.fld (bBase i) 26 23
  else if i = 8 then
    match s.gns.integ with
    | .good => if s.gns.sol.dual then 2 else 3
    | .caution => 5
    | .failed => 15
  else (s.refAt i).rxQl

/-- The limits of a reference (R214): FREQ_LIM as a fraction, TE_LIM and PJ_LIM in sns. -/
def State.freqLim (s : State) (i : Nat) : Rat := ((s.reg (bBase i + 4)).toNat : Rat) / 10 ^ 12
def State.teLim (s : State) (i : Nat) : Rat := ((s.reg (bBase i + 8)).toNat * snsPerNs : Nat)
def State.pjLim (s : State) (i : Nat) : Rat := ((s.reg (bBase i + 12)).toNat * snsPerNs : Nat)

/-- The frequency monitor's condition (R191). -/
def State.freqBad (s : State) (i : Nat) : Bool :=
  decide (s.freqLim i < |phaseSlope (s.refAt i).freqHist (s.refAt i).monAt|)

/-- Whether a SyncE reference's link and ESMC stand (R191). -/
def State.synceUp (s : State) (i : Nat) : Bool :=
  let p := s.port (i - 13)
  p.link && match p.rxQlAt with
    | some t => decide (s.now < t + 5 * nsPerSec)
    | none => false

/-- The activity and time-of-day monitors pass (R191). -/
def State.activityOk (s : State) (i : Nat) : Bool :=
  (s.refAt i).active && (decide (i < 13) || s.synceUp i) &&
  !(decide (i < 8) && s.fld (bBase i) 22 21 == 1 && decide (2 ≤ s.ref.tod.bad))

/-- Whether a reference is a member of the ensemble (in QUAL or SEL). -/
def State.member (s : State) (i : Nat) : Bool := (s.refAt i).st == .qual || (s.refAt i).st == .sel

/-- Whether a reference is weak (R194): no other member, and no learnt model. -/
def State.weakNow (s : State) (i : Nat) : Bool :=
  !s.srv.learnt && !((List.range 17).any fun j => j != i && s.member j)

/-- The time-error monitor's condition (R191). -/
def State.teBad (s : State) (i : Nat) : Bool :=
  (s.refAt i).st != .disq && s.refKind i != 2 && !s.weakNow i && decide (s.teLim i < |(s.refAt i).x|)

/-- The quality and integrity monitors pass (R191, R329); while FE_FAIL is 1 REF ID 8 cannot qualify (R288). -/
def State.qualityOk (s : State) (i : Nat) : Bool :=
  decide (i < 8) || (s.qlEff i != 15 && !(i == 8 && (s.gns.integ == .failed || s.gns.feFail)))

/-- Monitors pass: none but the projection monitor fails (R197). -/
def State.monitorsPass (s : State) (i : Nat) : Bool :=
  s.activityOk i && !(s.refAt i).pjBad && !s.freqBad i && !s.teBad i && s.qualityOk i

/-! The selector. -/

/-- SCORE as ranked and read (R194). -/
def State.scoreOf (s : State) (i : Nat) : Nat :=
  if (s.refAt i).st != .disq && s.weakNow i then 1000 else (s.refAt i).score

/-- PRIO (R213). -/
def State.prio (s : State) (i : Nat) : Nat := s.fld (bBase i) 30 27

/-- Eligible (R201). -/
def State.eligible (s : State) (i : Nat) : Bool :=
  decide (i < 17) && s.member i && s.prio i != 0 && decide (s.qlEff i < 15)

/-- The rank of R201 as one number: lower is better. -/
def State.rankKey (s : State) (i : Nat) : Nat := ((s.prio i * 16 + s.qlEff i) * 1024 + (1000 - s.scoreOf i)) * 32 + i

/-- The eligible references. -/
def State.eligList (s : State) : List Nat := (List.range 17).filter s.eligible

/-- The highest-ranked of some references. -/
def State.bestOf (s : State) (l : List Nat) : Option Nat :=
  l.foldl (fun b i => match b with
    | none => some i
    | some j => if s.rankKey i < s.rankKey j then some i else b) none

/-- Time is established (R190). -/
def State.established (s : State) : Bool := s.md.timeSet || s.md.hostSet

/-- A move of a reference out of QUAL or SEL: counted (R216), and the last instant at which ACQ_TIMEOUT finds it there (R35). -/
def State.leaves (s : State) (i : Nat) : State :=
  if s.member i then
    let s1 := s.count (bBase i + 0x38)
    { s1 with md := { s1.md with acqSeen := s1.now } }
  else s

/-- ENS_WEAK and FORCE_MISS as the states and settings now give them (R194, R204); they hold once the monitors have stopped
(R200). -/
def State.refreshSel (s : State) : State :=
  if !s.md.mode.serving then s else
  let judged := (List.range 17).filter fun i => s.refOn i && (s.refAt i).st != .disq
  { s with ref := { s.ref with ensWeak := judged.isEmpty || judged.any s.weakNow,
                               forceMiss := s.bit 0x60000 30 && !s.eligible (s.fld 0x60000 28 24) } }

/-- A reference sent to DISQ with its cause bit (R197); the selector has yet to choose. -/
def State.toDisq (s : State) (i : Nat) (mark : RefSt → RefSt) : State :=
  if (s.refAt i).st == .disq then s.setRef i (fun r => { r with passSince := none }) else
  ((s.leaves i).setRef i fun r =>
    { mark r with st := .disq, passSince := none, wtrLeft := 0, twait := false, endWtr := false, fromDrift := false }).refreshSel

/-- Whether the reference last chosen still stands in SEL. -/
def State.selStands (s : State) : Bool :=
  match s.ref.sel with
  | some c => (s.refAt c).st == .sel
  | none => false

/-- The reference followed changed in REF_SEL and among the states, with what R205, R209 and R212 lay down; a sleeping baseband
is due to wake (R331). -/
def State.markSel (s : State) (new : Option Nat) (reason : Nat) : State :=
  let old := s.ref.sel
  let s1 := match old with
    | some c => if s.selStands && new != some c then s.setRef c (fun r => { r with st := .qual }) else s
    | none => s
  let s2 := match new with
    | some i => s1.setRef i (fun r => { r with st := .sel })
    | none => s1
  let sel := { s2.ref with sel := new, reason := reason, maintEnd := false, chosenOnce := s2.ref.chosenOnce || new.isSome,
                           prevId := if new = old then s2.ref.prevId else old }
  let md := { s2.md with lastLocked := if s2.md.mode == .locked && new.isSome then new else s2.md.lastLocked }
  let s3 := { s2 with ref := sel, md := md, gns := { s2.gns with wakeDue := s2.gns.wakeDue || (s2.gns.asleep && new != old) } }
  if new = old then s3 else (s3.count 0x60018).cause 4

/-- A new reference, or none, followed by a Splice (R223). -/
def State.switchTo (s : State) (new : Option Nat) (reason : Nat) (again : Bool) : State :=
  let s4 := s.markSel new reason
  s4.beginSplice new s4.eligList s.selStands again

/-- A reference that has left SEL in MAINTAIN is not replaced (R200). -/
def State.dropInMaintain (s : State) (why : Nat) : State :=
  match s.ref.sel with
  | none => s
  | some c =>
    if (s.refAt c).st == .sel then s else
    let s1 := { s with ref := { s.ref with sel := none, prevId := some c, reason := why },
                       srv := { s.srv with target := none }, gns := { s.gns with wakeDue := s.gns.wakeDue || s.gns.asleep } }
    (s1.count 0x60018).cause 4

/-- The reference that the selector would choose (R201, R203, R204). -/
def State.wanted (s : State) : Option Nat :=
  let f := s.fld 0x60000 28 24
  if s.bit 0x60000 30 && s.eligible f then some f
  else
    let best := s.bestOf s.eligList
    if s.bit 0x60000 31 then best else
    match s.ref.sel with
    | some c => if (s.refAt c).st == .sel then some c else best
    | none => best

/-- The reason of a choice, in the order of R209. -/
def State.reasonFor (s : State) (want : Option Nat) (why : Nat) : Nat :=
  if s.ref.maintEnd then 7
  else if !s.ref.chosenOnce && want.isSome then 1
  else if s.bit 0x60000 30 && want == some (s.fld 0x60000 28 24) then 5
  else if why ≠ 0 then why else 2

/-- An offer made during a Splice window (R205, R226). -/
def State.offer (s : State) (w : Window) (want : Option Nat) (why : Nat) : State :=
  let left := !s.member w.target
  let outranks := match want with
    | some o => o != w.target && decide (s.rankKey o < s.rankKey w.target)
    | none => false
  if want = some w.target ∨ !(left || outranks) then s
  else if w.limited || decide (3 ≤ s.recentRe.length) then
    { s with srv := { s.srv with retLimit := true, win := some { w with limited := true } } }
  else
    let s1 := (s.count 0x700A8)
    ({ s1 with srv := { s1.srv with retTimes := s.recentRe ++ [s.now] } }).switchTo want (s.reasonFor want why) true

/-- The selector chooses; `why` is the cause that removed the reference in SEL, or 0 (R203 to R205). -/
def State.choose (s : State) (why : Nat) : State :=
  if s.md.mode == .maintain then s.dropInMaintain why
  else if !s.md.mode.running then s
  else
    let want := s.wanted
    match s.srv.st, s.srv.win with
    | .window, some w => s.offer w want why
    | _, _ =>
      let stands : Bool := match s.ref.sel with
        | some c => (s.refAt c).st == .sel
        | none => true
      if want == s.ref.sel && stands && !s.ref.maintEnd then s else s.switchTo want (s.reasonFor want why) false

/-- A monitor that acts at once has failed (R192, R197); a qualification period begins anew (R46). -/
def State.monitorFails (s : State) (i : Nat) (mark : RefSt → RefSt) : State :=
  if !s.refOn i then s else
  let was := s.ref.sel == some i && (s.refAt i).st == .sel
  let s1 := s.toDisq i mark
  if was then s1.choose 3 else s1

/-! Measurements. -/

/-- The prediction of the 8 measurements before one, by a least-squares line (R191). -/
def predict8 (recent : List (Nat × Int)) (t : Nat) : Rat :=
  (fitLine (recent.map (fun x => ((x.1 : Rat) - (t : Rat), (x.2 : Rat))))).1

/-- A measurement judged by the phase-jump monitor, and, accepted, passed on (R191, R192): `w` is its Warp time. -/
def State.judge (s : State) (i : Nat) (w z : Int) : State :=
  let r := s.refAt i
  let bad := decide (8 ≤ r.recent.length) && decide (s.pjLim i < |(z : Rat) - predict8 r.recent s.now|)
  let rec8 := (r.recent ++ [(s.now, z)]).drop (r.recent.length + 1 - 8)
  if bad then
    (s.setRef i (fun r => { r with pjBad := true, recent := rec8 })).monitorFails i (fun r => { r with pjump := true })
  else
    let keep := if s.refKind i = 2 then nsPerSec else 16 * nsPerSec
    s.setRef i fun r =>
      { r with pjBad := false, recent := rec8, active := true, lastAt := some s.now, lastT := w, z := z, isNew := true,
               freqHist := (r.freqHist ++ [(s.now, z)]).filter (fun x => decide (s.now ≤ x.1 + keep)) }

/-- An instant reduced into (−0.5 s, +0.5 s] (R193, R224). -/
def redSec (x : Int) : Int := x - (x + snsPerSec / 2 - 1) / snsPerSec * snsPerSec

/-- z of a phase input's edge, on the branch nearest the measurement before it. -/
def phaseZ (r : RefSt) (w : Int) : Int :=
  match r.lastAt with
  | none => redSec (-w)
  | some _ => r.z + redSec (-w - r.z)

/-- The time-of-day label of a pulse of the SIG = 1 input at Warp time `w` (R189): the message waiting is good when it arrived
10 ms before the pulse and continues the labels; otherwise the label is the last good one plus the seconds elapsed. -/
def State.todPulse (s : State) (w : Int) : Option Nat × State :=
  let t := s.ref.tod
  let secs := fun (w0 : Int) => (w - w0 + snsPerSec / 2) / snsPerSec
  let exp := t.lastLabel.map fun x => ((x.1 : Int) + secs x.2).toNat
  let good := match t.waiting with
    | some (l, at_) => if at_ + 10000000 ≤ s.now ∧ (exp = none ∨ exp = some l) then some l else none
    | none => none
  match good with
  | some l => (some l, { s with ref := { s.ref with tod := { waiting := none, lastLabel := some (l, w), bad := 0 } } })
  | none => (exp, { s with ref := { s.ref with tod := { t with waiting := none, bad := t.bad + 1 } } })

/-- A pulse edge more than 10 µs from its expected instant (R191, R192). -/
def pulseOff (r : RefSt) (w : Int) : Bool :=
  r.active && r.lastAt.isSome && decide (10000 * snsPerNs < (w - (r.lastT + snsPerSec)).natAbs)

/-- A selected edge of REFIN `n`, converted by its TAC (R188, R189, R256). Before any good message a pulse gives phase alone, to the
nearest second, and the first good label is judged against those phases (DESIGN CHOICE, log 130). -/
def State.refEdge (s : State) (n code : Nat) : State :=
  if !s.refOn n then s else
  if !s.tacReady (16 + n) then s.tacMiss (16 + n) else
  let w := s.captureAt (16 + n) code 0
  let s := s.tacBusy (16 + n)
  let r := s.refAt n
  match s.refKind n with
  | 2 =>
    let s := s.ppsInput n (w : Rat)
    let k : Int := if r.lastAt.isNone then 0 else (w - r.lastT + 32768000000) / 65536000000
    s.judge n w (if r.lastAt.isNone then 0 else r.z + k * 65536000000 - (w - r.lastT))
  | kind =>
    let s := s.ppsInput n (w : Rat)
    if pulseOff r w then
      (s.setRef n (fun r => { r with pjBad := true })).monitorFails n (fun r => { r with pjump := true })
    else if kind = 1 then s.judge n w (phaseZ r w)
    else
      let (label, s1) := s.todPulse w
      let s2 := if 2 ≤ s1.ref.tod.bad then s1.monitorFails n (fun r => { r with los := true }) else s1
      match label with
      | some l => s2.judge n w ((l : Int) * snsPerSec - w)
      | none => s2.judge n w (phaseZ r w)

/-- REF_MEASUREMENT: an edge of a REFIN, or the phase that another source delivers. -/
def State.refMeasure (s : State) (id : Nat) (m : RefIn) : State :=
  match m with
  | .edge code => if id < 8 then s.refEdge id code else s
  | .phase z => if 8 ≤ id ∧ id < 17 ∧ s.refOn id then s.judge id s.warpSns z else s

/-- Whether an activity monitor's deadline has come (R191). -/
def State.activityDue (s : State) (id : Nat) (k : ActKind) : Bool :=
  let r := s.refAt id
  let last := max r.monAt (r.lastAt.getD 0)
  match k with
  | .deadline =>
    if id < 8 ∧ s.refKind id ≠ 2 then decide (last + 1000010000 ≤ s.now)
    else (decide (id < 8) || decide (13 ≤ id ∧ id < 17)) && decide (last + 4000000 ≤ s.now)
  | .epoch => id == 8 && decide (2 ≤ s.gns.noSol)
  | .grandmaster => decide (9 ≤ id ∧ id < 13) && ((s.ptp.ports.getD (id - 9) PtpPort.reset).following).isNone
  | .esmc => decide (13 ≤ id ∧ id < 17) && (match (s.port (id - 13)).rxQlAt with
      | some t => decide (t + 5 * nsPerSec ≤ s.now)
      | none => true)
  | .link => decide (13 ≤ id ∧ id < 17) && !(s.port (id - 13)).link

/-- REF_ACTIVITY_TIMEOUT. -/
def State.refTimeout (s : State) (id : Nat) (k : ActKind) : State :=
  if s.refOn id && s.activityDue id k then
    (s.setRef id (fun r => { r with active := false })).monitorFails id (fun r => { r with los := true })
  else s

/-- A TIME message's label, found by passing over messages of other types by their LEN (R267 to R269). -/
def todLabel : Nat → List Byte → Option Nat
  | 0, _ => none
  | k + 1, bs =>
    if bs.getD 0 0 = 0xED ∧ bs.getD 1 0 = 0x54 ∧ 6 ≤ bs.length then
      let len := (bs.getD 3 0).toNat
      if bs.getD 2 0 = 1 then
        if len = 24 ∧ 34 ≤ bs.length ∧ crc32 (slice bs 0 30) = ofLe (slice bs 30 4) then some (ofLe (slice bs 6 6)) else none
      else todLabel k (bs.drop (len + 10))
    else none

/-- TODIN_MESSAGE: a TIME message waits to label the next pulse (R189); messages of other types, what is not well formed, and
bytes sent at another rate than TODIN_BAUD (R265), change nothing. -/
def State.todMessage (s : State) (baud : Nat) (bytes : List Byte) : State :=
  if !s.md.mode.serving || baud != baudOf (s.fld 0x80500 20 18) then s else
  match todLabel 8 bytes with
  | some l => { s with ref := { s.ref with tod := { s.ref.tod with waiting := some (l, s.now) } } }
  | none => s

/-! The ensemble (R193). -/

/-- w[j] from the rms second difference of z over the last 64 s. -/
def ensWeight (zs : List Int) : Rat :=
  let d := (List.zipWith (fun a b => a - b) zs (zs.drop 1))
  let d2 := (List.zipWith (fun a b => a - b) d (d.drop 1)).map (fun x => ((x : Int) : Rat) ^ 2)
  let m := max (meanQ d2) (Config.sFloor ^ 2)
  if m = 0 then 0 else 1 / m

/-- The weight of the oscillator's model. -/
def State.oscWeight (s : State) : Rat :=
  if !s.srv.learnt then 0 else
  let sg := (s.srv.model.uy : Rat) / 10 ^ 15 / 3 * sSns
  let m := max (sg ^ 2) (Config.sFloor ^ 2)
  if m = 0 then 0 else 1 / m

/-- y_osc: the frequency of true time against CLK_TIME that the model predicts for the frequency word in force, a running slew
included. -/
def State.oscFreq (s : State) : Rat :=
  (s.srv.model.f0 : Rat) / 10 ^ 18 + s.driftQ * s.secsSince s.srv.fitAt +
    s.tempcoQ * ((s.oscTemp : Rat) / 16 - (s.srv.model.t0c : Rat) / 100) - (s.srv.yCmd + s.slewFf)

/-- The snapshot of each reference's phase for this second (R193): its history holds one z for each second, and a second that brought
none empties it, so that y and the weight start anew (DESIGN CHOICE, log 130). -/
def RefSt.snap (now : Nat) (r : RefSt) : RefSt :=
  let fresh := match r.lastAt with
    | some t => decide (now ≤ t + nsPerSec)
    | none => false
  if fresh then { r with zPrev := r.secHist.head?, secHist := (r.z :: r.secHist).take 66 }
  else { r with zPrev := none, secHist := [] }

/-- y[j] in sns per second, where two seconds in a row brought a phase. -/
def RefSt.yNow (r : RefSt) : Option Rat := r.zPrev.map fun p => ((r.z - p : Int) : Rat)

/-- The residuals of one reference (R193). -/
def State.ensOne (s : State) (i : Nat) : State :=
  let r := s.refAt i
  if !s.refOn i || r.st == .disq then s else
  let others := (List.range 17).filter fun j => j != i && s.member j
  let pairs := others.filterMap fun j => ((s.refAt j).yNow).map fun y => (ensWeight (s.refAt j).secHist, y)
  let wo := s.oscWeight
  let tot := sumQ (pairs.map (·.1)) + wo
  if s.weakNow i ∨ tot = 0 then s else
  let yy := (sumQ (pairs.map (fun x => x.1 * x.2)) + wo * s.oscFreq * sSns) / tot
  let r1 := match r.yNow with
    | some y =>
      let p := r.p + (y - yy)
      { r with p := p, pHist := (r.pHist ++ [(s.now, p)]).filter (fun x => decide (s.now ≤ x.1 + s.fld 0x60004 19 8 * nsPerSec)) }
    | none => r
  let ds := (others.filter (fun j => s.refKind j != 2 && !(s.refAt j).secHist.isEmpty)).map fun j =>
    let d := r.z - (s.refAt j).z
    (ensWeight (s.refAt j).secHist, ((if s.refKind i = 1 ∨ s.refKind j = 1 then redSec d else d : Int) : Rat))
  let wd := sumQ (ds.map (·.1))
  let x := if s.refKind i = 2 then 0
    else if wd = 0 then r1.p - r1.pQual
    else sumQ (ds.map (fun x => x.1 * x.2)) / wd
  s.setRef i (fun _ => { r1 with x := x })

/-- ENSEMBLE_UPDATE. -/
def State.ensembleUpdate (s : State) : State :=
  if !s.md.mode.serving then s else
  let s1 := { s with ref := { s.ref with refs := s.ref.refs.map (RefSt.snap s.now) } }
  (List.range 17).foldl (fun s i => s.ensOne i) s1

/-! Projection (R195, R196). -/

/-- The first t > 0 at which a·t² + b·t + c = 0. -/
def firstRoot (a b c : Rat) : Option Rat :=
  if a = 0 then (if b = 0 then none else if 0 < -c / b then some (-c / b) else none)
  else
    let disc := b ^ 2 - 4 * a * c
    if disc < 0 then none else
    let q := sqrtQ disc
    let l := [(-b - q) / (2 * a), (-b + q) / (2 * a)].filter (fun t => decide (0 < t))
    match l with
    | [] => none
    | t :: rest => some (rest.foldl min t)

/-- The earlier of two instants that may never come. -/
def earlier (a b : Option Rat) : Option Rat :=
  match a, b with
  | some x, some y => some (min x y)
  | some x, none => some x
  | none, y => y

/-- y, D, ttl, SCORE and the x shown of one reference at an evaluation (R195, R216). -/
def State.project (s : State) (i : Nat) : State :=
  let r := s.refAt i
  if !s.refOn i || r.st == .disq || s.weakNow i then s else
  let pts := r.pHist.filter (fun x => decide (s.now ≤ x.1 + s.fld 0x60004 19 8 * nsPerSec))
  let rows := pts.map fun x =>
    let t : Rat := ((x.1 : Rat) - (s.now : Rat)) / nsPerSec
    ((1, t, t ^ 2 / 2), x.2)
  let est := if pts.length < 60 then none else (fit3 rows).map (fun f => (f.1.2.1, f.1.2.2))
  let (y, d) := est.getD (0, 0)
  let fl := s.freqLim i * sSns
  let te := s.teLim i
  let ttl := if est.isNone then none else
    let f := earlier (firstRoot 0 d (y - fl)) (firstRoot 0 d (y + fl))
    if s.refKind i = 2 then f
    else earlier f (earlier (firstRoot (d / 2) y (r.x - te)) (firstRoot (d / 2) y (r.x + te)))
  let e := if s.refKind i = 2 then 0 else |r.x| / te
  let sc := (max 0 (roundQ (1000 * (1 - max (|y| / fl) e)))).toNat
  s.setRef i (fun r => { r with y := y / sSns, dRate := d / sSns, ttl := ttl, score := sc, xEst := r.x })

/-- The return condition of R196. -/
def State.driftOk (s : State) (i : Nat) : Bool :=
  let r := s.refAt i
  decide (|r.y| ≤ s.freqLim i / 2) && (s.refKind i == 2 || decide (|r.x| ≤ s.teLim i / 2))

/-- WTR_LEFT at entry to WTR (R198). -/
def State.wtrLoad (s : State) (i : Nat) : Nat :=
  let lone := !((List.range 17).any fun j => j != i && s.bit (bBase j) 31 &&
    ((s.refAt j).st == .wtr || (s.refAt j).st == .qual || (s.refAt j).st == .sel))
  if s.md.mode == .freerun && lone then 10 else s.fld 0x60000 23 12

/-- Entry to WTR with a count: P is reset (R193, R197). -/
def State.intoWtr (s : State) (i n : Nat) (fromDrift twait : Bool) : State :=
  s.setRef i fun r => { r with st := .wtr, wtrLeft := n, endWtr := false, fromDrift := fromDrift, twait := twait, p := 0,
                               pHist := [], y := 0, dRate := 0, ttl := none }

/-- Entry to WTR with its wait loaded (R198). -/
def State.toWtr (s : State) (i : Nat) (fromDrift : Bool) : State := s.intoWtr i (s.wtrLoad i) fromDrift false

/-- Entry to QUAL (R193, R197). -/
def State.toQual (s : State) (i : Nat) : State :=
  s.setRef i fun r => { r with st := .qual, twait := false, never := false, wtrLeft := 0, endWtr := false, fromDrift := false,
                               pQual := r.p }

/-- The failures of one reference at an evaluation (R191, R196), every failing monitor with its cause bit: none chooses yet
(R199). -/
def State.evalFails (s : State) (i : Nat) : State :=
  let r := s.refAt i
  if !s.refOn i || r.st == .disq then s else
  let los := !s.activityOk i
  let freq := s.freqBad i
  let te := s.teBad i
  let integ := i == 8 && s.gns.integ == .failed
  let qlf := decide (8 ≤ i) && s.qlEff i == 15
  if los || freq || te || integ || qlf then
    s.toDisq i fun r => { r with los := r.los || los, freq := r.freq || freq, te := r.te || te, integ := r.integ || integ, qlf := r.qlf || qlf }
  else
    let guard : Rat := (s.fld 0x60004 31 20 : Nat)
    let low := match r.ttl with
      | some t => decide (t < guard)
      | none => false
    if s.member i && !s.weakNow i && low then
      (s.leaves i).setRef i (fun r => { r with st := .drift, proj := true, never := false })
    else s

/-- The movements of one reference that passes its monitors (R190, R196, R197). -/
def State.evalMoves (s : State) (i : Nat) : State :=
  if !s.refOn i then s else
  let pass := s.monitorsPass i
  let s := s.setRef i fun r => { r with passSince := if pass then some (r.passSince.getD s.now) else none }
  let r := s.refAt i
  if !pass then s else
  let timeOk := s.established || s.refKind i == 0
  match r.st with
  | .disq =>
    if r.never then
      let done := match r.passSince with
        | some t => decide (t + s.fld 0x60000 5 0 * nsPerSec ≤ s.now)
        | none => false
      if !done then s
      else if timeOk then s.toQual i
      else (s.intoWtr i 0 false true).setRef i (fun r => { r with never := false })
    else s.toWtr i false
  | .drift => if s.driftOk i then s.toWtr i true else s
  | .wtr =>
    if r.fromDrift && !s.driftOk i then
      s.setRef i (fun r => { r with st := .drift, wtrLeft := 0, endWtr := false, fromDrift := false })
    else if r.wtrLeft = 0 ∨ r.endWtr then
      if timeOk then s.toQual i else s.setRef i (fun r => { r with wtrLeft := 0, twait := true, endWtr := false })
    else s
  | _ => s

/-- SELECTOR_EVALUATION (R192): projection, failures, movements of those that have not failed, then the choice (R199). -/
def State.selectorEval (s : State) : State :=
  if !s.md.mode.serving then s else
  let all := List.range 17
  let s1 := all.foldl (fun s i => s.project i) s
  let s2 := all.foldl (fun s i => s.evalFails i) s1
  let s3 := all.foldl (fun s i => if (s2.refAt i).st == (s1.refAt i).st then s.evalMoves i else s) s2
  let why : Nat := match s.ref.sel with
    | some c =>
      if (s.refAt c).st == RState.sel then
        (if (s3.refAt c).st == RState.drift then 4 else if (s3.refAt c).st == RState.sel then 0 else 3)
      else 0
    | none => 0
  let still := fun (w : Window) => { w with offers := w.offers.filter s3.eligible }
  let s4 := ({ s3 with srv := { s3.srv with win := s3.srv.win.map still } }).refreshSel
  let s5 := s4.choose why
  if all.any s5.member then { s5 with md := { s5.md with acqSeen := s5.now } } else s5

/-- WTR_COUNTDOWN (R198). -/
def State.wtrCountdown (s : State) : State :=
  if !s.md.mode.serving then s else
  { s with ref := { s.ref with refs := s.ref.refs.map fun r => if r.st == .wtr then { r with wtrLeft := r.wtrLeft - 1 } else r } }

/-- REF_CTL_STAT (R211). -/
def State.refCtl (s : State) (token : BitVec 16) (code : Nat) : State :=
  { s with ref := { s.ref with ctlToken := token.toNat, ctlCode := code } }

/-- The code of an operation of REF_CTL that is refused before it looks at its reference (R217). -/
def State.refCtlCode (s : State) (id : Nat) : Nat :=
  if 16 < id then 0x10 else if !s.md.mode.running then 0x24 else 0

/-- END_WTR (R197, R217). -/
def State.endWtr (s : State) (token : BitVec 16) (id : Nat) : State :=
  if s.noWrites then s else
  let c := s.refCtlCode id
  if c ≠ 0 then s.refCtl token c
  else if (s.refAt id).st != .wtr then s.refCtl token 0x20
  else (s.setRef id (fun r => { r with endWtr := true })).refCtl token 0

/-- A reference's history cleared and sent to DISQ by a commit or FORGET (R197). -/
def State.wipeRef (s : State) (id : Nat) : State :=
  let s1 := s.leaves id
  s1.setRef id fun r =>
    { RefSt.reset with los := r.los, freq := r.freq, pjump := r.pjump, te := r.te, proj := r.proj, qlf := r.qlf, integ := r.integ,
                       rxQl := r.rxQl, active := true, monAt := s1.now }

/-- References cleared, with the labels of TODIN where `tod`; then the selector chooses anew, once, if one of them was in SEL
(R197, R199, R206). -/
def State.clearRefs (s : State) (ids : List Nat) (tod : Bool) : State :=
  let was := s.selStands && ids.any (fun id => s.ref.sel == some id)
  let s1 := ids.foldl (fun s id => s.wipeRef id) s
  let s2 := if tod then { s1 with ref := { s1.ref with tod := { waiting := none, lastLabel := none, bad := 0 } } } else s1
  let s3 := s2.refreshSel
  if was then s3.choose 6 else s3

/-- FORGET (R197, R217). -/
def State.forgetRef (s : State) (token : BitVec 16) (id : Nat) : State :=
  if s.noWrites then s else
  let c := s.refCtlCode id
  if c ≠ 0 then s.refCtl token c else (s.clearRefs [id] (decide (id < 8) && s.refKind id == 0)).refCtl token 0

/-- The monitors started at entry to ACQUIRE (R200). -/
def State.startMonitors (s : State) : State :=
  { s with ref := { s.ref with started := true, refs := s.ref.refs.map fun r => { r with active := true, monAt := s.now } },
           srv := { s.srv with st := .holdover } }

/-! The end of a Splice window (R223, R224, R226). -/

/-- Whether Warp is vouched for (R224). -/
def State.vouched (s : State) : Bool := s.md.mode == .locked || (s.md.mode == .holdover && s.inBudget)

/-- The loop restarted on the target with its build-out, and the accumulated error removed (R223, R228). In HOLDOVER the prediction
goes on (R234). -/
def State.follow (s : State) (w : Window) (b bo : Rat) : State :=
  let last : Option (Nat × Int) := w.samples.getLast?
  let z : Rat := match last with
    | some x => (x.2 : Rat)
    | none => 0
  let y := s.srv.bridgeY + b / sSns
  let hold := if s.md.mode == .holdover then s.srv.hold.map (fun h => { h with follows := false }) else none
  let v := { s.srv with st := .tracking, followed := true, win := none, bridge := false, yAnchor := y, winY := y, i := 0, p := 0, zf := z, bo := bo,
                        lastZ := last, hold := hold }
  let s1 := (({ s with srv := v }).setY y).startFast w.target
  if s1.refKind w.target == 2 then s1
  else if !s1.md.timeSet then
    let s2 := { s1 with srv := { s1.srv with bo := 0 } }
    if s2.refKind w.target == 0 && !s2.bodkinBusy then s2.issueSet (roundQ z) else if s2.refKind w.target == 0 then s2 else
      ({ s2 with srv := { s2.srv with bo := bo } }).removeError
  else s1.removeError

/-- A window that holds its measurements ends on its target (R223, R224). -/
def State.endWindowOn (s : State) (w : Window) : State :=
  let t0 : Rat := (w.start : Rat)
  let (a, b) := fitLine (w.samples.map (fun x => (((x.1 : Rat) - t0) / nsPerSec, (x.2 : Rat))))
  let bo := a + b * s.secsSince w.start
  let bo := if s.refKind w.target = 1 then bo - ((bo / sSns - 1 / 2).ceil : Rat) * sSns else bo
  if s.refKind w.target ≠ 2 ∧ s.vouched ∧ s.holdLimit < |bo| then
    let s1 := s.toDisq w.target (fun r => { r with te := true })
    let want := s1.wanted
    s1.switchTo want (s1.reasonFor want 3) true
  else s.follow w b bo

/-- SPLICE_WINDOW_END: the window has run and holds at least 2 measurements, or was extended until it did (R223). After the third
re-target it ends on the highest-ranked reference eligible throughout, or on holdover (R226). -/
def State.windowEnd (s : State) : State :=
  match s.srv.st, s.srv.win with
  | .window, some w =>
    if s.now < w.start + w.len ∨ !s.md.mode.running then s
    else if w.limited then
      match s.bestOf (w.offers.filter s.eligible) with
      | none => s.switchTo none s.ref.reason true
      | some i =>
        let w1 := if i = w.target then w else
          { w with target := i, samples := (s.refAt i).freqHist.filter (fun x => decide (w.start ≤ x.1)) }
        let s1 := s.markSel (some i) s.ref.reason
        let s2 := { s1 with srv := { s1.srv with target := some i, win := some w1,
                                                 selSince := if i = w.target then s1.srv.selSince else s1.now } }
        if w1.samples.length < 2 then s2 else s2.endWindowOn w1
    else if w.samples.length < 2 then s
    else s.endWindowOn w
  | _, _ => s

def execRefMeasurement (id : Nat) (m : RefIn) (s : State) : Host.Outcome State Fault Refusal := .next (s.refMeasure id m)
def execRefActivityTimeout (id : Nat) (k : ActKind) (s : State) : Host.Outcome State Fault Refusal := .next (s.refTimeout id k)
def execTodinMessage (baud : Nat) (bytes : List Byte) (s : State) : Host.Outcome State Fault Refusal :=
  .next (s.todMessage baud bytes)
def execEnsembleUpdate (s : State) : Host.Outcome State Fault Refusal := .next s.ensembleUpdate
def execWtrCountdown (s : State) : Host.Outcome State Fault Refusal := .next s.wtrCountdown
def execEndWtr (token : BitVec 16) (id : Nat) (s : State) : Host.Outcome State Fault Refusal := .next (s.endWtr token id)
def execForget (token : BitVec 16) (id : Nat) (s : State) : Host.Outcome State Fault Refusal := .next (s.forgetRef token id)
def execHoldoverModelFit (s : State) : Host.Outcome State Fault Refusal := .next s.modelFit.refreshSel
def execForgetModel (token : BitVec 16) (s : State) : Host.Outcome State Fault Refusal := .next (s.forgetModel token).refreshSel
def execSpliceWindowEnd (s : State) : Host.Outcome State Fault Refusal := .next s.windowEnd

end Sys2Proof.Machine
end

