-- ==== Sys2Proof/Machine/Reaction.lean ====
section
/-! DEFINITION. What a change of mode, the SAFE reaction and a reset do to the whole part (R35, R53, R200, R227, R557, R564 to
R567, R643, R645). -/

namespace Sys2Proof.Machine

open Sys2Proof

/-- The code of a mode on MODE[2:0] and in TB_MODE (R32). -/
def Mode.code : Mode → Nat
  | .boot => 0
  | .calibrate => 1
  | .acquire => 2
  | .locked => 3
  | .holdover => 4
  | .freerun => 5
  | .maintain => 6
  | .safe => 7

/-- Whether NPn may have a link: EN = 1, its calibration passed, its island in service, and CALIBRATE is past (R48, R49, R355, R415,
R581). -/
def State.portRuns (s : State) (n : Nat) : Bool :=
  (s.md.mode.serving || s.md.mode == .safe) && (s.port n).stk.calOk && s.bit (mBase n + 4) 31 && !s.islandOut (9 + n)

/-- Network ports may pass frames from ACQUIRE on (R49). -/
def State.enablePorts (s : State) : State :=
  { s with ports := s.ports.mapIdx fun n p => if n < 4 then { p with held := !s.portRuns n } else p }

/-- A CRC of the whole front-end script, by which a kept baseline is known to belong to it (R334). -/
def State.scriptCrc (s : State) : Nat := crc32 ((List.range 128).flatMap fun k => leBytes 4 (s.reg (0x91000 + 4 * k)).toNat)

/-- The baseband at entry to ACQUIRE from CALIBRATE: a cold start, a kept or given position taken into hold at once, and the kept
baselines of the same script (R309, R334, R335). -/
def State.startGnss (s : State) : State :=
  let k := s.fe.kept
  let mine := k.script == s.scriptCrc
  let pm := s.fld 0x90044 27 26
  { s with gns := { s.gns with start := 0, startDue := true, solMode := if pm = 1 ∨ (pm = 0 ∧ k.holdPos.isSome) then 3 else 0,
                               gainBaseA := if mine then k.gainA else 0, gainBaseB := if mine then k.gainB else 0,
                               baseN := if mine then k.baseN else 0 } }

/-- What entering ACQUIRE starts (R35, R190, R222, R335, R445): from CALIBRATE the ACQ_TIMEOUT window, the ports, the monitors and
the cold start of the baseband, and with slot 1 empty the first master key is due. -/
def State.enterAcquire (s : State) (old : Mode) : State :=
  if old == .calibrate then
    let s1 := { s with md := { s.md with acqSeen := s.now } }
    let s2 := s1.startMonitors.enablePorts.startGnss
    { s2 with wv := { s2.wv with rotDue := s2.wv.rotDue || (Assoc.get 1 s2.fe.slots).isNone } }
  else s.acquireEntry

/-- What entering LOCKED settles: the latch of the LOCKED-once policy, the reference of R54, and the end of the prediction. -/
def State.enterLocked (s : State) : State :=
  { s with md := { s.md with lockedOnce := true, lastLocked := s.ref.sel }, srv := { s.srv with hold := none, pred := 0 } }

/-- What leaving MAINTAIN settles (R200, R560): with a reference in SEL Weft steers again, and the selector is to choose. -/
def State.leaveMaintain (s : State) : State :=
  let s1 := if s.selStands then s.thawWeft else s
  { s1 with ref := { s1.ref with maintEnd := true }, md := { s1.md with maint := none } }

/-- The count of service since the last rotation, in ns: it runs in ACQUIRE, LOCKED, HOLDOVER and FREERUN (R445). -/
def State.rotNs (s : State) : Int := s.fe.rotCount + (if s.md.mode.running then ((s.now - s.md.since : Nat) : Int) else 0)

/-- A change of mode (R35, R40, R41, R231, R331, R515, R600). -/
def State.setMode (s : State) (m : Mode) (cause : Nat) : State :=
  let old := s.md.mode
  let s1 := if old == .locked && !s.fmu.halted then s.writeModel else s
  let s1 := { s1 with fe := { s1.fe with rotCount := s1.rotNs } }
  let s2 := if old == .maintain then s1.leaveMaintain else s1
  let md := { s2.md with mode := m, prev := old, cause := cause, since := s2.now, modeChg := true,
                         origin := if m == Mode.maintain then some old else none }
  let gns := { s2.gns with wakeDue := s2.gns.wakeDue || (s2.gns.asleep && old == Mode.locked) }
  let s3 := ({ s2 with md := md, gns := gns, glb := { s2.glb with bootStep := 0, loaderSlot := 0 } }).cause 0
  let s4 := s3.log 0x0002 [BitVec.ofNat 8 m.code, BitVec.ofNat 8 old.code, BitVec.ofNat 8 cause]
  let s5 := match m with
    | .acquire => s4.enterAcquire old
    | .locked => s4.enterLocked
    | .maintain => s4.servoFreeze
    | _ => s4
  s5.outputsFollow

/-! What the SAFE reaction ends (R566). -/

/-- Every context not yet committed freed, with its item, its lane and its waiting answer (R433); no PTP message is sent
(R478). -/
def State.freeContexts (s : State) : State :=
  let lost := s.wv.ctxs.filter (fun c => c.st != .committed)
  let keep := fun (e : EgFrame) => match e.src with
    | .host _ => true
    | .pause => true
    | .esmc => true
    | .bodkin => true
    | _ => false
  let s1 := s.countN (wvCtr 14) lost.length
  { s1 with wv := { s1.wv with ctxs := s1.wv.ctxs.filter (fun c => c.st == .committed), queues := List.replicate 5 [],
                               lanes := s1.wv.lanes.map Lane.idle },
            ports := s1.ports.map (fun p => { p with eg := p.eg.filter keep }) }

/-- Every pending set abandoned (R86), and with it a set still being checked (DESIGN CHOICE, log 101). -/
def State.abandonCommits (s : State) : State :=
  { s with cmts := s.cmts.map fun e =>
      if e.2.st = 1 ∨ e.2.st = 2 then (e.1, { e.2 with st := 6, code := 0x31, snap := [] }) else e }

/-- Step operations abandoned (R121): an armed one is never applied, and a slew ends at the next whole millisecond. One still being
checked meets SAFE at the end of its check (R674). -/
def State.abandonSteps (s : State) : State :=
  let s1 := match s.tb.armed with
    | some r => s.stepStat r 6 0x30
    | none => s
  let mark := fun (x : SlewRec) => { x with abandoned := true }
  { s1 with tb := { s1.tb with armed := none, slew := s1.tb.slew.map mark } }

/-- An update operation in progress ends with code 0x31 (R601, R604); the answer to a SLOT_VERIFY in progress is delivered when its
read ends. -/
def State.abortUpdate (s : State) : State :=
  let u := s.mgt.upd
  if u.busy then { s with mgt := { s.mgt with upd := { u with st := 6, code := 0x31, busy := false } } } else s

/-- The SAFE actions of all blocks (R566, R567). -/
def State.safeActions (s : State) (cause : Nat) : State :=
  let s1 := (s.freeContexts.abortHeld true).abandonCommits.abandonSteps.closeAllMeas.abortUpdate
  let s2 := { s1 with srv := { s1.srv with st := .stopped, win := none },
                      md := { s1.md with drain := false, drainArmed := false, maint := none } }
  let boot := s2.md.mode == .boot
  let s3 := (s2.setMode .safe cause).setPort 4 fun p => { p with held := false }
  if boot then { s3 with glb := { s3.glb with bootStep := 7 } } else s3

/-- The SAFE reaction (R557, R564 to R567): the cause latched, the gate closed, FAULT_N asserted, the SAFE actions. While the
part is in SAFE already a further cause is reported, and the cause latched first stands. The start-up causes 0x31 to 0x34 carry
no report and ROOT 0 (R586). -/
def State.safeReaction (s : State) (tag cause : Nat) (pathB : Bool) : State :=
  let s1 := if cause ≤ 0x34 then s else s.faultReport tag cause
  let s2 := { s1 with fmu := { s1.fmu with gate := true, pathA := true, pathB := s1.fmu.pathB || pathB } }
  let s3 := State.noteFault s1 s2
  if s3.md.mode == .safe then s3 else
  let s4 := { s3 with fmu := { s3.fmu with lastRoot := if cause ≤ 0x34 then 0 else tag, lastCause := cause } }
  s4.safeActions cause

/-- Bodkin halted, then the SAFE reaction of cause 0x39 (R567, R593). -/
def State.bodkinFault (s : State) (tag : Nat) : State :=
  ({ s with fmu := { s.fmu with halted := true } }).safeReaction tag 0x39 true

/-! Resets. -/

/-- The causes of GLB_RST_CAUSE (R643) in the coding of TB_MODE.CAUSE (R40). -/
def startCause (kind : Nat) : Nat := if kind ≤ 1 then 1 else kind

/-- A start of the part by cause `kind` (R643): 0 power-on, 1 RESET_N, 2 device reset, 3 orderly restart, 4 automatic restart
from SAFE, 5 restart requested in SAFE. FeRAM, the flash and the fuses stand through all of them; FMU_LAST_SAFE and
GLB_RST_CAUSE through all but power-on; GLB_SCRATCH and the PCIe link through the device resets 2 to 5 (R567, R597, R645).
I2C_STRAP reads 0 from power-on or RESET_N until RESET_N is released, and keeps its level through a device reset (DESIGN CHOICE,
log 102). A device reset out of LOCKED writes the model's copy (R231; log 103). -/
def State.bootReset (s : State) (kind : Nat) : State :=
  let s := if s.md.mode == .locked && decide (2 ≤ kind) && !s.fmu.halted then s.writeModel else s
  let r := State.reset
  let h : HifSt := if 2 ≤ kind then (s.hifResetBlock false true).hif else { r.hif with mem := s.hif.mem, nextTx := s.hif.nextTx }
  let c := s.cfg
  let glb : GlbSt := { r.glb with
    porHeld := s.glb.porHeld, resetLow := s.glb.resetLow, strap := decide (2 ≤ kind) && s.glb.strap, rstCause := kind,
    starts := if kind = 0 then 0 else min 255 (s.glb.starts + 1), scratch := if 2 ≤ kind then s.glb.scratch else 0 }
  let fmu : FmuSt := { r.fmu with
    lastRoot := if kind = 0 then 0 else s.fmu.lastRoot, lastCause := if kind = 0 then 0 else s.fmu.lastCause, coreMv := s.fmu.coreMv,
    minMv := s.fmu.coreMv, lastHeart := s.now, cycAt := s.now }
  let cfg : CfgSt := { r.cfg with
    flashOk := c.flashOk, densityLog2 := c.densityLog2, m144 := c.m144, m114 := c.m114, delayTenthsNs := c.delayTenthsNs,
    flash := c.flash, fuses := c.fuses }
  { r with now := s.now, fresh := s.fresh, pending := s.pending, fe := { s.fe with rotCount := s.rotNs }, jtag := s.jtag, hif := h, glb := glb, fmu := fmu,
           cfg := cfg, md := { r.md with cause := startCause kind, since := s.now } }

end Sys2Proof.Machine
end

