-- ==== Sys2Proof/Machine/Boot.lean ====
section
/-! DEFINITION. Resets (R643 to R647, R654, R655), droops of VDD_CORE (R26 to R31, R596), and the operating modes (R32 to R57). -/

namespace Sys2Proof.Machine

open Sys2Proof

/-! Resets. -/

/-- Whether a reset input holds the part. -/
def State.inReset (s : State) : Bool := s.glb.porHeld || s.glb.resetLow

/-- 85 % of each rail's nominal in mV, in the order of the rails (R25, R654). -/
def porLimits : List Nat := [765, 765, 1020, 1530, 1530]

/-- POWER_ON_RESET: with the five rails at these millivolts the internal reset holds the part while any lies below 85 % of its
nominal, and what only power-on clears is cleared (R643, R654). -/
def State.powerOn (s : State) (rails : List Nat) : State :=
  let low := (List.range 5).any fun k => decide (rails.getD k 0 < porLimits.getD k 0)
  if low then
    let s1 := ({ s with glb := { s.glb with porHeld := true } }).bootReset 0
    { s1 with fmu := { s1.fmu with coreMv := rails.getD 0 0, minMv := rails.getD 0 0 } }
  else
    { s with glb := { s.glb with porHeld := false }, md := { s.md with since := if s.glb.porHeld then s.now else s.md.since },
             fmu := { s.fmu with coreMv := rails.getD 0 0, minMv := if s.glb.porHeld then rails.getD 0 0 else s.fmu.minMv } }

/-- RESET_N_ASSERT: RESET_N low for this many nanoseconds; less than 100 is ignored (R35, R655). -/
def State.resetAssert (s : State) (lowNs : Nat) : State :=
  if lowNs < 100 then s else ({ s with glb := { s.glb with resetLow := true } }).bootReset 1

/-- RESET_N_RELEASE: start-up is timed from here, and the I2C_ADDR strap is read (R44, R642). -/
def State.resetRelease (s : State) (strap : Bool) : State :=
  if s.glb.resetLow then
    { s with glb := { s.glb with resetLow := false, strap := strap }, md := { s.md with since := s.now } }
  else s

/-- PLL_LOCK: Warp starts at zero (R100). -/
def State.pllLock (s : State) : State :=
  if s.inReset || s.md.mode != .boot || s.glb.pllLocked then s else
  { s with glb := { s.glb with pllLocked := true }, tb := { s.tb with running := true, warp := 0, frac := 0 },
           gns := { s.gns with clkNext := (s.now : Rat) + clampQ 0 gnssPeriod Config.gnssPhase } }

/-- GLB_RESET: a write of the register (R644, R645). -/
def State.glbReset (s : State) (v : W32) : State :=
  if s.inReset || s.glb.resetAt.isSome then s
  else if bitsOf v 15 8 ≠ 0xA5 ∨ 2 ≤ bitsOf v 1 0 then { s with glb := { s.glb with errBadReset := true } }
  else if bitsOf v 1 0 = 1 then { s with glb := { s.glb with resetAt := some (s.now + 1000000) } }
  else s

/-- DEVICE_RESET: 1 ms after the write (R645). -/
def State.deviceReset (s : State) : State :=
  match s.glb.resetAt with
  | some t => if t ≤ s.now then s.bootReset 2 else s
  | none => s

/-! Droops. -/

/-- CLK_CORE's step in MHz. -/
def State.coreMhz (s : State) : Nat := 800 / 2 ^ s.wv.step

/-- The half cycles of CLK_CORE since the last tally, times 1,000. -/
def State.coreWork (s : State) : Nat := (s.now - s.fmu.cycAt) * s.coreMhz * (if s.fmu.stretch then 1 else 2)

/-- The cycles since the last tally, stretched ones apart: in half cycles of CLK_CORE times 1,000. A stretched cycle lasts
twice as long, so a running PKE operation is released by half the stretch later (R524), and a lane's item takes longer (R434). -/
def State.tally (s : State) : State :=
  let dt := (s.now - s.fmu.cycAt) * s.coreMhz
  let work := s.coreWork
  let late := fun (o : PkeOp) =>
    if o.core.isSome && s.fmu.stretch then { o with release := o.release + (s.now - max o.start s.fmu.cycAt) / 2 } else o
  let pke := { s.pke with ops := s.pke.ops.map late }
  { s with pke := pke, wv := { s.wv with lanes := s.wv.lanes.map (fun l => { l with left := l.left - work }) },
           fmu := { s.fmu with strCyc := s.fmu.strCyc + (if s.fmu.stretch then dt else 0),
                               totCyc := s.fmu.totCyc + work, cycAt := s.now } }

/-- The minimum of a rail lowered (R596); 0 stands for none yet. -/
def State.railLow (s : State) (k mv : Nat) : State :=
  { s with mgt := { s.mgt with railMin := updAt s.mgt.railMin k (fun m => if m = 0 then mv else min m mv) } }

/-- A level of VDD_CORE seen by a detector. -/
def State.seeCore (s : State) (mv : Nat) : State :=
  { s with fmu := { s.fmu with coreMv := mv, minMv := min s.fmu.minMv mv } }

/-- DROOP_STRETCH_START (R26, R27). -/
def State.droopStart (s : State) (mv : Nat) : State :=
  if 860 ≤ mv ∨ s.inReset ∨ !s.glb.pllLocked then s else
  let s1 := (s.tally.seeCore mv).railLow 0 mv
  { s1 with fmu := { s1.fmu with stretch := true, holdAt := none } }

/-- DROOP_RECOVER (R27). -/
def State.droopRecover (s : State) (mv : Nat) : State :=
  if mv < 870 ∨ !s.fmu.stretch then s else
  let s1 := s.seeCore mv
  { s1 with fmu := { s1.fmu with holdAt := some (s1.fmu.holdAt.getD s1.now) } }

/-- A step-up of CLK_CORE that un-parking asked for (R28, R381). -/
def State.stepUp (s : State) : State :=
  match s.wv.parkWant with
  | some (_, st, _) => if st < s.wv.step then { s with wv := { s.wv with step := st } } else s
  | none => s

/-- STRETCH_END (R27, R28, R31). -/
def State.stretchEnd (s : State) : State :=
  match s.fmu.holdAt with
  | some t =>
    if s.fmu.stretch ∧ t + 1000 ≤ s.now then
      let s1 := s.tally
      let s2 := { s1 with fmu := { s1.fmu with stretch := false, holdAt := none, episodes := s1.fmu.episodes + 1 } }
      (s2.count (fmuCtr 0)).stepUp
    else s
  | none => s

/-- DROOP_RECORD (R31, R600). -/
def State.droopRecord (s : State) : State :=
  let due := match s.fmu.droopRecAt with
    | some t => decide (t + nsPerSec ≤ s.now)
    | none => true
  if s.fmu.episodes = 0 ∨ !due ∨ s.fmu.halted then s else
  let s1 := s.log 0x0004 (leBytes 4 s.fmu.episodes ++ leBytes 2 s.fmu.minMv)
  { s1 with fmu := { s1.fmu with episodes := 0, minMv := s1.fmu.coreMv, droopRecAt := some s1.now } }

/-- DROOP_HEAVY_EVAL: one second of Warp has passed (R596). -/
def State.droopHeavyEval (s : State) : State :=
  if s.nsNow ≠ 0 then s else
  let s1 := s.tally
  let heavy := decide (s1.fmu.totCyc < 100 * s1.fmu.strCyc)
  { s1 with fmu := { s1.fmu with strCyc := 0, totCyc := 0 }, mgt := { s1.mgt with droopHeavy := s1.mgt.droopHeavy || heavy } }

/-! Modes. -/

/-- The lock condition (R37). -/
def State.lockMet (s : State) : Bool :=
  match s.md.lockSince with
  | some t => decide (t + s.fld 0x70004 9 0 * nsPerSec ≤ s.now)
  | none => false

/-- ACQ_TIMEOUT has run without a reference in QUAL or SEL (R35, R42). -/
def State.acqTimedOut (s : State) : Bool := decide (s.md.acqSeen + s.fld 0x78108 23 12 * nsPerSec ≤ s.now)

/-- The row of the transition table that acts at an evaluation in a mode, the first that applies (R35, R36). -/
def State.modeRow (s : State) : Mode → Option (Mode × Nat)
  | .acquire =>
    if s.selStands && s.lockMet then some (.locked, 0x11)
    else if s.acqTimedOut then some (.freerun, 0x14) else none
  | .locked => if s.ref.sel.isNone then some (.holdover, 0x12) else none
  | .holdover =>
    if s.selStands && s.srv.st == .tracking && decide (s.holdLimit < s.measured) then some (.acquire, 0x16)
    else if s.selStands && s.lockMet then some (.locked, 0x11)
    else if !s.selStands && decide (s.holdLimit < s.predicted) then some (.freerun, 0x13) else none
  | .freerun => if s.selStands then some (.acquire, 0x15) else none
  | _ => none

/-- The mode to which MAINTAIN returns: what its origin's rows give now, or the origin. -/
def State.maintainExit (s : State) (cause : Nat) : State :=
  let o := s.md.origin.getD .acquire
  s.setMode ((s.modeRow o).map (·.1) |>.getD o) cause

/-- MODE_EVALUATION (R34 to R38). -/
def State.modeEval (s : State) : State :=
  if s.fmu.halted then s else
  let seen := (List.range 17).any s.member
  let s := { s with md := { s.md with acqSeen := if seen then s.now else s.md.acqSeen,
                                      lastLocked := if s.md.mode == Mode.locked && s.ref.sel.isSome then s.ref.sel else s.md.lastLocked } }
  match s.md.mode, s.md.maint with
  | .maintain, some m => if m.ended then s.maintainExit 0x22 else if m.boundHit then s.maintainExit 0x23 else s
  | .maintain, none => s
  | m, _ => match s.modeRow m with
    | some (m', c) => s.setMode m' c
    | none => s.outputsFollow

/-- The start-up step ends that R35 names: from BOOT with the image in force and every island tested, and from CALIBRATE with
every calibration ended. -/
def State.startupStep (s : State) : State :=
  if s.md.mode == .boot && s.glb.bistDone && s.cfg.slot != 0 then s.setMode .calibrate 0x10
  else if s.md.mode == .calibrate && s.md.calTac && s.md.calOut && s.md.calStk.all id then s.setMode .acquire 0x10
  else s

/-- BOOT_TIMEOUT (R35). -/
def State.bootTimeout (s : State) : State :=
  if s.md.mode == .boot && !s.inReset && decide (s.md.since + 3 * nsPerSec ≤ s.now) then s.safeReaction 0 0x34 false else s

/-- CALIBRATE_TIMEOUT (R35). -/
def State.calTimeout (s : State) : State :=
  if s.md.mode == .calibrate && decide (s.md.since + nsPerSec ≤ s.now) then s.safeReaction 0 0x34 false else s

/-- A request refused (R41, R43). -/
def State.refuseReq (s : State) : State := { s with md := { s.md with reqRefused := true } }

/-- The orderly restart requested (R43, R56, R57). -/
def State.beginDrain (s : State) : State :=
  if s.md.mode.running && !s.md.drain then
    { s with md := { s.md with drain := true, drainArmed := false, drainUntil := s.now + s.fld 0x78108 29 24 * nsPerSec } }
  else s.refuseReq

/-- ORDERLY_RESTART_REQ: TB_MODE_REQ written with 0x01. -/
def State.orderlyReq (s : State) : State := if s.noWrites then s else s.beginDrain

/-- SAFE_RESTART_REQ: TB_MODE_REQ written with 0x02 (R43). -/
def State.safeReq (s : State) : State :=
  if s.noWrites then s else if s.md.mode == .safe then s.bootReset 5 else s.refuseReq

/-- DRAIN_TIMEOUT (R56): the drain has ended, and every clock stops at the end of its cycle. -/
def State.drainTimeout (s : State) : State :=
  if s.md.drain && decide (s.md.drainUntil ≤ s.now) then ({ s with md := { s.md with drainArmed := true } }).applyMute else s

/-- DRAIN_RESET (R35, R53, R56): no PPSOUT or GPPS pulse high, no TODOUT message being sent, no CLKOUT in mid-cycle. -/
def State.drainReset (s : State) : State :=
  if s.md.drainArmed && s.md.mode.running && !(s.out.pps.any (·.high)) && decide (s.out.todBusyUntil ≤ s.now) &&
      decide (s.out.gppsHighUntil ≤ s.now) && s.out.clks.all (fun c => c.muted || decide (c.per = 0)) then
    s.bootReset 3
  else s

/-- Automatic restarts from SAFE in the last 24 h (R41). -/
def State.recentRestarts (s : State) : List Nat := s.fe.restarts.filter (fun t => decide (s.now < t + 86400 * nsPerSec))

/-- SAFE_AUTO_RESTART (R35): counted in FeRAM. -/
def State.autoRestart (s : State) : State :=
  if s.md.mode == .safe && s.bit 0x78108 31 && decide (s.md.since + s.fld 0x78108 7 0 * nsPerSec ≤ s.now) &&
      decide (s.recentRestarts.length < 3) then
    ({ s with fe := { s.fe with restarts := s.recentRestarts ++ [s.now] } }).bootReset 4
  else s

/-- MAINTAIN granted (R35, R38): to a firmware swap or an offline test. -/
def State.grantMaintain (s : State) (swap : Bool) : State :=
  let s1 := s.setMode .maintain (if swap then 0x20 else 0x21)
  { s1 with md := { s1.md with maint := some { swap := swap, began := s1.now, bound := (if swap then 2 else 60) * nsPerSec,
                                                 ended := false, boundHit := false, tested := [] } } }

/-- MAINTAIN_BOUND (R38): the bound of its work, or HOLD_BUDGET for an offline test. -/
def State.maintainBound (s : State) : State :=
  match s.md.mode, s.md.maint with
  | .maintain, some m =>
    if !m.ended && (decide (m.began + m.bound ≤ s.now) || (!m.swap && decide (s.holdBudget ≤ s.predicted))) then
      { s with md := { s.md with maint := some { m with boundHit := true } } }
    else s
  | _, _ => s

def execPowerOnReset (rails : List Nat) (s : State) : Host.Outcome State Fault Refusal := .next (s.powerOn rails)
def execResetNAssert (lowNs : Nat) (s : State) : Host.Outcome State Fault Refusal := .next (s.resetAssert lowNs)
def execResetNRelease (strap : Bool) (s : State) : Host.Outcome State Fault Refusal := .next (s.resetRelease strap)
def execPllLock (s : State) : Host.Outcome State Fault Refusal := .next s.pllLock
def execGlbReset (_p : Path) (v : W32) (s : State) : Host.Outcome State Fault Refusal := .next (s.glbReset v)
def execDeviceReset (s : State) : Host.Outcome State Fault Refusal := .next s.deviceReset
def execDroopStretchStart (mv : Nat) (s : State) : Host.Outcome State Fault Refusal := .next (s.droopStart mv)
def execDroopRecover (mv : Nat) (s : State) : Host.Outcome State Fault Refusal := .next (s.droopRecover mv)
def execStretchEnd (s : State) : Host.Outcome State Fault Refusal := .next s.stretchEnd
def execDroopRecord (s : State) : Host.Outcome State Fault Refusal := .next s.droopRecord
def execDroopHeavyEval (s : State) : Host.Outcome State Fault Refusal := .next s.droopHeavyEval
def execModeEvaluation (s : State) : Host.Outcome State Fault Refusal := .next s.modeEval
def execBootTimeout (s : State) : Host.Outcome State Fault Refusal := .next s.bootTimeout
def execCalibrateTimeout (s : State) : Host.Outcome State Fault Refusal := .next s.calTimeout
def execOrderlyRestartReq (s : State) : Host.Outcome State Fault Refusal := .next s.orderlyReq
def execSafeRestartReq (s : State) : Host.Outcome State Fault Refusal := .next s.safeReq
def execDrainTimeout (s : State) : Host.Outcome State Fault Refusal := .next s.drainTimeout
def execDrainReset (s : State) : Host.Outcome State Fault Refusal := .next s.drainReset
def execSafeAutoRestart (s : State) : Host.Outcome State Fault Refusal := .next s.autoRestart
def execMaintainBound (s : State) : Host.Outcome State Fault Refusal := .next s.maintainBound

end Sys2Proof.Machine
end

