-- ==== Sys2Proof/Machine/Crypto.lean ====
section
/-! DEFINITION. The algorithms that the spec takes from other standards by name: SHA-2 (FIPS 180-4), SHAKE256, HMAC,
AES-SIV (RFC 5297), and the arithmetic of modular exponentiation, short-Weierstrass curves, X25519 (RFC 7748), Edwards curves
(RFC 8032) and ECDSA (FIPS 186-5). PRESUMED: their constants and steps come from those standards (assumption 9). -/

namespace Sys2Proof.Machine.Crypto

open Sys2Proof

/-! Bytes and words. -/

/-- A list cut into pieces of `n`. -/
def chunks {α : Type} (n : Nat) : Nat → List α → List (List α)
  | 0, _ => []
  | k + 1, xs => if xs.isEmpty then [] else xs.take n :: chunks n k (xs.drop n)

/-- Bytes joined by exclusive or, to the length of the shorter. -/
def xorBytes (a b : List Byte) : List Byte := List.zipWith (· ^^^ ·) a b

/-! SHA-2. -/

def k256 : List (BitVec 32) := (
    [0x428A2F98, 0x71374491, 0xB5C0FBCF, 0xE9B5DBA5, 0x3956C25B, 0x59F111F1] ++
    [0x923F82A4, 0xAB1C5ED5, 0xD807AA98, 0x12835B01, 0x243185BE, 0x550C7DC3] ++
    [0x72BE5D74, 0x80DEB1FE, 0x9BDC06A7, 0xC19BF174, 0xE49B69C1, 0xEFBE4786] ++
    [0xFC19DC6, 0x240CA1CC, 0x2DE92C6F, 0x4A7484AA, 0x5CB0A9DC, 0x76F988DA] ++
    [0x983E5152, 0xA831C66D, 0xB00327C8, 0xBF597FC7, 0xC6E00BF3, 0xD5A79147] ++
    [0x6CA6351, 0x14292967, 0x27B70A85, 0x2E1B2138, 0x4D2C6DFC, 0x53380D13] ++
    [0x650A7354, 0x766A0ABB, 0x81C2C92E, 0x92722C85, 0xA2BFE8A1, 0xA81A664B] ++
    [0xC24B8B70, 0xC76C51A3, 0xD192E819, 0xD6990624, 0xF40E3585, 0x106AA070] ++
    [0x19A4C116, 0x1E376C08, 0x2748774C, 0x34B0BCB5, 0x391C0CB3, 0x4ED8AA4A] ++
    [0x5B9CCA4F, 0x682E6FF3, 0x748F82EE, 0x78A5636F, 0x84C87814, 0x8CC70208] ++
    [0x90BEFFFA, 0xA4506CEB, 0xBEF9A3F7, 0xC67178F2])

def k512 : List (BitVec 64) := (
    [0x428A2F98D728AE22, 0x7137449123EF65CD, 0xB5C0FBCFEC4D3B2F, 0xE9B5DBA58189DBBC] ++
    [0x3956C25BF348B538, 0x59F111F1B605D019, 0x923F82A4AF194F9B, 0xAB1C5ED5DA6D8118] ++
    [0xD807AA98A3030242, 0x12835B0145706FBE, 0x243185BE4EE4B28C, 0x550C7DC3D5FFB4E2] ++
    [0x72BE5D74F27B896F, 0x80DEB1FE3B1696B1, 0x9BDC06A725C71235, 0xC19BF174CF692694] ++
    [0xE49B69C19EF14AD2, 0xEFBE4786384F25E3, 0xFC19DC68B8CD5B5, 0x240CA1CC77AC9C65] ++
    [0x2DE92C6F592B0275, 0x4A7484AA6EA6E483, 0x5CB0A9DCBD41FBD4, 0x76F988DA831153B5] ++
    [0x983E5152EE66DFAB, 0xA831C66D2DB43210, 0xB00327C898FB213F, 0xBF597FC7BEEF0EE4] ++
    [0xC6E00BF33DA88FC2, 0xD5A79147930AA725, 0x6CA6351E003826F, 0x142929670A0E6E70] ++
    [0x27B70A8546D22FFC, 0x2E1B21385C26C926, 0x4D2C6DFC5AC42AED, 0x53380D139D95B3DF] ++
    [0x650A73548BAF63DE, 0x766A0ABB3C77B2A8, 0x81C2C92E47EDAEE6, 0x92722C851482353B] ++
    [0xA2BFE8A14CF10364, 0xA81A664BBC423001, 0xC24B8B70D0F89791, 0xC76C51A30654BE30] ++
    [0xD192E819D6EF5218, 0xD69906245565A910, 0xF40E35855771202A, 0x106AA07032BBD1B8] ++
    [0x19A4C116B8D2D0C8, 0x1E376C085141AB53, 0x2748774CDF8EEB99, 0x34B0BCB5E19B48A8] ++
    [0x391C0CB3C5C95A63, 0x4ED8AA4AE3418ACB, 0x5B9CCA4F7763E373, 0x682E6FF3D6B2B8A3] ++
    [0x748F82EE5DEFB2FC, 0x78A5636F43172F60, 0x84C87814A1F0AB72, 0x8CC702081A6439EC] ++
    [0x90BEFFFA23631E28, 0xA4506CEBDE82BDE9, 0xBEF9A3F7B2C67915, 0xC67178F2E372532B] ++
    [0xCA273ECEEA26619C, 0xD186B8C721C0C207, 0xEADA7DD6CDE0EB1E, 0xF57D4F7FEE6ED178] ++
    [0x6F067AA72176FBA, 0xA637DC5A2C898A6, 0x113F9804BEF90DAE, 0x1B710B35131C471B] ++
    [0x28DB77F523047D84, 0x32CAAB7B40C72493, 0x3C9EBE0A15C9BEBC, 0x431D67C49C100D4C] ++
    [0x4CC5D4BECB3E42B6, 0x597F299CFC657E2A, 0x5FCB6FAB3AD6FAEC, 0x6C44198C4A475817])

/-- The message padded to whole blocks of `blk` bytes with a length field of `lf` bytes. -/
def shaPad (blk lf : Nat) (m : List Byte) : List Byte :=
  let used := m.length + 1 + lf
  m ++ [0x80] ++ zeros ((blk - used % blk) % blk) ++ beBytes lf (8 * m.length)

/-- The message schedule of SHA-256, grown by `n` words (newest first). -/
def sched256 : Nat → List (BitVec 32) → List (BitVec 32)
  | 0, w => w
  | n + 1, w =>
    let x15 := w.getD 14 0
    let x2 := w.getD 1 0
    let s0 := x15.rotateRight 7 ^^^ x15.rotateRight 18 ^^^ (x15 >>> 3)
    let s1 := x2.rotateRight 17 ^^^ x2.rotateRight 19 ^^^ (x2 >>> 10)
    sched256 n ((w.getD 15 0 + s0 + w.getD 6 0 + s1) :: w)

/-- The message schedule of SHA-512, grown by `n` words (newest first). -/
def sched512 : Nat → List (BitVec 64) → List (BitVec 64)
  | 0, w => w
  | n + 1, w =>
    let x15 := w.getD 14 0
    let x2 := w.getD 1 0
    let s0 := x15.rotateRight 1 ^^^ x15.rotateRight 8 ^^^ (x15 >>> 7)
    let s1 := x2.rotateRight 19 ^^^ x2.rotateRight 61 ^^^ (x2 >>> 6)
    sched512 n ((w.getD 15 0 + s0 + w.getD 6 0 + s1) :: w)

/-- One round of SHA-256 on the eight working words. -/
def round256 (h : List (BitVec 32)) (kw : BitVec 32) : List (BitVec 32) :=
  match h with
  | [a, b, c, d, e, f, g, hh] =>
    let t1 := hh + (e.rotateRight 6 ^^^ e.rotateRight 11 ^^^ e.rotateRight 25) + ((e &&& f) ^^^ (~~~e &&& g)) + kw
    let t2 := (a.rotateRight 2 ^^^ a.rotateRight 13 ^^^ a.rotateRight 22) + ((a &&& b) ^^^ (a &&& c) ^^^ (b &&& c))
    [t1 + t2, a, b, c, d + t1, e, f, g]
  | _ => h

/-- One round of SHA-512 on the eight working words. -/
def round512 (h : List (BitVec 64)) (kw : BitVec 64) : List (BitVec 64) :=
  match h with
  | [a, b, c, d, e, f, g, hh] =>
    let t1 := hh + (e.rotateRight 14 ^^^ e.rotateRight 18 ^^^ e.rotateRight 41) + ((e &&& f) ^^^ (~~~e &&& g)) + kw
    let t2 := (a.rotateRight 28 ^^^ a.rotateRight 34 ^^^ a.rotateRight 39) + ((a &&& b) ^^^ (a &&& c) ^^^ (b &&& c))
    [t1 + t2, a, b, c, d + t1, e, f, g]
  | _ => h

/-- One block of SHA-256. -/
def block256 (h : List (BitVec 32)) (b : List Byte) : List (BitVec 32) :=
  let w := ((chunks 4 16 b).map fun x => BitVec.ofNat 32 (ofBe x)).reverse
  let ws := (sched256 48 w).reverse
  List.zipWith (· + ·) h ((List.zipWith (· + ·) k256 ws).foldl round256 h)

/-- One block of SHA-512. -/
def block512 (h : List (BitVec 64)) (b : List Byte) : List (BitVec 64) :=
  let w := ((chunks 8 16 b).map fun x => BitVec.ofNat 64 (ofBe x)).reverse
  let ws := (sched512 64 w).reverse
  List.zipWith (· + ·) h ((List.zipWith (· + ·) k512 ws).foldl round512 h)

def h256 : List (BitVec 32) := [0x6A09E667, 0xBB67AE85, 0x3C6EF372, 0xA54FF53A, 0x510E527F, 0x9B05688C, 0x1F83D9AB, 0x5BE0CD19]

def h512 : List (BitVec 64) := [0x6A09E667F3BCC908, 0xBB67AE8584CAA73B, 0x3C6EF372FE94F82B, 0xA54FF53A5F1D36F1] ++
    [0x510E527FADE682D1, 0x9B05688C2B3E6C1F, 0x1F83D9ABFB41BD6B, 0x5BE0CD19137E2179]

def h384 : List (BitVec 64) := [0xCBBB9D5DC1059ED8, 0x629A292A367CD507, 0x9159015A3070DD17, 0x152FECD8F70E5939] ++
    [0x67332667FFC00B31, 0x8EB44A8768581511, 0xDB0C2E0D64F98FA7, 0x47B5481DBEFA4FA4]

def sha256 (m : List Byte) : List Byte :=
  let p := shaPad 64 8 m
  ((chunks 64 p.length p).foldl block256 h256).flatMap fun w => beBytes 4 w.toNat

def sha512 (m : List Byte) : List Byte :=
  let p := shaPad 128 16 m
  ((chunks 128 p.length p).foldl block512 h512).flatMap fun w => beBytes 8 w.toNat

def sha384 (m : List Byte) : List Byte :=
  let p := shaPad 128 16 m
  (((chunks 128 p.length p).foldl block512 h384).flatMap fun w => beBytes 8 w.toNat).take 48

/-- HMAC-SHA-256. -/
def hmac256 (key m : List Byte) : List Byte :=
  let k := padTo 64 (if key.length ≤ 64 then key else sha256 key)
  sha256 (k.map (· ^^^ 0x5C) ++ sha256 (k.map (· ^^^ 0x36) ++ m))

/-! SHAKE256. -/

def keccakRC : List (BitVec 64) := [0x1, 0x8082, 0x800000000000808A, 0x8000000080008000] ++
    [0x808B, 0x80000001, 0x8000000080008081, 0x8000000000008009] ++
    [0x8A, 0x88, 0x80008009, 0x8000000A] ++
    [0x8000808B, 0x800000000000008B, 0x8000000000008089, 0x8000000000008003] ++
    [0x8000000000008002, 0x8000000000000080, 0x800A, 0x800000008000000A] ++
    [0x8000000080008081, 0x8000000000008080, 0x80000001, 0x8000000080008008]

/-- The rotations, by lane x + 5·y. -/
def keccakRot : List Nat := [0x0, 0x1, 0x3E, 0x1C, 0x1B, 0x24, 0x2C, 0x6, 0x37, 0x14, 0x3, 0xA, 0x2B, 0x19, 0x27, 0x29, 0x2D, 0xF, 0x15, 0x8, 0x12, 0x2, 0x3D, 0x38, 0xE]

/-- One round of Keccak-f[1600] on 25 lanes. -/
def keccakRound (a : List (BitVec 64)) (rc : BitVec 64) : List (BitVec 64) :=
  let g := fun i => a.getD i 0
  let c := (List.range 5).map fun x => g x ^^^ g (x + 5) ^^^ g (x + 10) ^^^ g (x + 15) ^^^ g (x + 20)
  let d := (List.range 5).map fun x => c.getD ((x + 4) % 5) 0 ^^^ (c.getD ((x + 1) % 5) 0).rotateLeft 1
  let t := (List.range 25).map fun i => (g i ^^^ d.getD (i % 5) 0).rotateLeft (keccakRot.getD i 0)
  -- lane (y, 2x + 3y) of the permuted state takes lane (x, y)
  let b := (List.range 25).map fun i =>
    let x' := i % 5
    let y' := i / 5
    t.getD ((x' + 3 * y') % 5 + 5 * x') 0
  let e := (List.range 25).map fun i =>
    let y := i / 5
    b.getD i 0 ^^^ (~~~(b.getD ((i % 5 + 1) % 5 + 5 * y) 0) &&& b.getD ((i % 5 + 2) % 5 + 5 * y) 0)
  match e with
  | [] => []
  | e0 :: es => (e0 ^^^ rc) :: es

def keccakF (a : List (BitVec 64)) : List (BitVec 64) := keccakRC.foldl keccakRound a

/-- The bytes of a Keccak state. -/
def keccakBytes (a : List (BitVec 64)) : List Byte := a.flatMap fun w => leBytes 8 w.toNat

/-- Squeezing `k` more blocks of 136 bytes. -/
def squeeze : Nat → List (BitVec 64) → List Byte
  | 0, _ => []
  | k + 1, a => (keccakBytes a).take 136 ++ squeeze k (keccakF a)

/-- SHAKE256 with `n` bytes of output. -/
def shake256 (n : Nat) (m : List Byte) : List Byte :=
  let padLen := 136 - m.length % 136
  let pad : List Byte := if padLen = 1 then [0x9F] else [0x1F] ++ zeros (padLen - 2) ++ [0x80]
  let p := m ++ pad
  let st := (chunks 136 p.length p).foldl (fun a b =>
    let lanes := ((chunks 8 17 b).map fun x => BitVec.ofNat 64 (ofLe x)) ++ List.replicate 8 0
    keccakF (List.zipWith (· ^^^ ·) a lanes)) (List.replicate 25 (0 : BitVec 64))
  (squeeze (n / 136 + 1) st).take n

/-! AES, CMAC and SIV (RFC 5297). -/

def sbox : List Byte := (
    [0x63, 0x7C, 0x77, 0x7B, 0xF2, 0x6B, 0x6F, 0xC5, 0x30, 0x1, 0x67, 0x2B, 0xFE, 0xD7, 0xAB, 0x76] ++
    [0xCA, 0x82, 0xC9, 0x7D, 0xFA, 0x59, 0x47, 0xF0, 0xAD, 0xD4, 0xA2, 0xAF, 0x9C, 0xA4, 0x72, 0xC0] ++
    [0xB7, 0xFD, 0x93, 0x26, 0x36, 0x3F, 0xF7, 0xCC, 0x34, 0xA5, 0xE5, 0xF1, 0x71, 0xD8, 0x31, 0x15] ++
    [0x4, 0xC7, 0x23, 0xC3, 0x18, 0x96, 0x5, 0x9A, 0x7, 0x12, 0x80, 0xE2, 0xEB, 0x27, 0xB2, 0x75] ++
    [0x9, 0x83, 0x2C, 0x1A, 0x1B, 0x6E, 0x5A, 0xA0, 0x52, 0x3B, 0xD6, 0xB3, 0x29, 0xE3, 0x2F, 0x84] ++
    [0x53, 0xD1, 0x0, 0xED, 0x20, 0xFC, 0xB1, 0x5B, 0x6A, 0xCB, 0xBE, 0x39, 0x4A, 0x4C, 0x58, 0xCF] ++
    [0xD0, 0xEF, 0xAA, 0xFB, 0x43, 0x4D, 0x33, 0x85, 0x45, 0xF9, 0x2, 0x7F, 0x50, 0x3C, 0x9F, 0xA8] ++
    [0x51, 0xA3, 0x40, 0x8F, 0x92, 0x9D, 0x38, 0xF5, 0xBC, 0xB6, 0xDA, 0x21, 0x10, 0xFF, 0xF3, 0xD2] ++
    [0xCD, 0xC, 0x13, 0xEC, 0x5F, 0x97, 0x44, 0x17, 0xC4, 0xA7, 0x7E, 0x3D, 0x64, 0x5D, 0x19, 0x73] ++
    [0x60, 0x81, 0x4F, 0xDC, 0x22, 0x2A, 0x90, 0x88, 0x46, 0xEE, 0xB8, 0x14, 0xDE, 0x5E, 0xB, 0xDB] ++
    [0xE0, 0x32, 0x3A, 0xA, 0x49, 0x6, 0x24, 0x5C, 0xC2, 0xD3, 0xAC, 0x62, 0x91, 0x95, 0xE4, 0x79] ++
    [0xE7, 0xC8, 0x37, 0x6D, 0x8D, 0xD5, 0x4E, 0xA9, 0x6C, 0x56, 0xF4, 0xEA, 0x65, 0x7A, 0xAE, 0x8] ++
    [0xBA, 0x78, 0x25, 0x2E, 0x1C, 0xA6, 0xB4, 0xC6, 0xE8, 0xDD, 0x74, 0x1F, 0x4B, 0xBD, 0x8B, 0x8A] ++
    [0x70, 0x3E, 0xB5, 0x66, 0x48, 0x3, 0xF6, 0xE, 0x61, 0x35, 0x57, 0xB9, 0x86, 0xC1, 0x1D, 0x9E] ++
    [0xE1, 0xF8, 0x98, 0x11, 0x69, 0xD9, 0x8E, 0x94, 0x9B, 0x1E, 0x87, 0xE9, 0xCE, 0x55, 0x28, 0xDF] ++
    [0x8C, 0xA1, 0x89, 0xD, 0xBF, 0xE6, 0x42, 0x68, 0x41, 0x99, 0x2D, 0xF, 0xB0, 0x54, 0xBB, 0x16])

def subByte (b : Byte) : Byte := sbox.getD b.toNat 0

def xtime (b : Byte) : Byte := (b <<< 1) ^^^ (if b.toNat < 128 then 0 else 0x1B)

/-- The key schedule: words of 4 bytes, newest first, until `n` words stand. -/
def aesExpand (nk n : Nat) : Nat → List (List Byte) → List (List Byte)
  | 0, ws => ws
  | fuel + 1, ws =>
    if n ≤ ws.length then ws else
    let i := ws.length
    let t := ws.headD []
    let rcon : Byte := (List.range (i / nk - 1)).foldl (fun r _ => xtime r) 1
    let t := if i % nk = 0 then xorBytes ((t.drop 1 ++ t.take 1).map subByte) (rcon :: zeros 3)
      else if 6 < nk ∧ i % nk = 4 then t.map subByte else t
    aesExpand nk n fuel (xorBytes (ws.getD (nk - 1) []) t :: ws)

/-- The round keys of a 16- or 32-byte key. -/
def aesKeys (key : List Byte) : List (List Byte) :=
  let nk := key.length / 4
  let n := 4 * (nk + 7)
  let ws := (aesExpand nk n n (chunks 4 nk key).reverse).reverse
  (chunks 4 (nk + 7) ws).map List.flatten

def mixColumn (c : List Byte) : List Byte :=
  let g := fun i => c.getD (i % 4) 0
  (List.range 4).map fun i => xtime (g i) ^^^ (xtime (g (i + 1)) ^^^ g (i + 1)) ^^^ g (i + 2) ^^^ g (i + 3)

def shiftRows (s : List Byte) : List Byte := (List.range 16).map fun i => s.getD ((i + 4 * (i % 4)) % 16) 0

/-- The rounds of AES under the round keys left; the last one mixes no columns. -/
def aesRounds : List (List Byte) → List Byte → List Byte
  | [], s => s
  | [k], s => xorBytes (shiftRows (s.map subByte)) k
  | k :: ks, s => aesRounds ks (xorBytes ((chunks 4 4 (shiftRows (s.map subByte))).flatMap mixColumn) k)

/-- AES of one block under the round keys of a key. -/
def aesEnc (keys : List (List Byte)) (blk : List Byte) : List Byte :=
  match keys with
  | [] => blk
  | k :: ks => aesRounds ks (xorBytes blk k)

/-- Doubling in GF(2^128). -/
def dbl (b : List Byte) : List Byte :=
  let v := ofBe b
  beBytes 16 (if v < 2 ^ 127 then 2 * v else (2 * v % 2 ^ 128) ^^^ 0x87)

/-- AES-CMAC. -/
def cmac (keys : List (List Byte)) (m : List Byte) : List Byte :=
  let k1 := dbl (aesEnc keys (zeros 16))
  let k2 := dbl k1
  let bs := if m.isEmpty then [[]] else chunks 16 m.length m
  let last := bs.getLastD []
  let last := if last.length = 16 then xorBytes last k1 else xorBytes (padTo 16 (last ++ [0x80])) k2
  aesEnc keys (xorBytes (bs.dropLast.foldl (fun x b => aesEnc keys (xorBytes x b)) (zeros 16)) last)

/-- S2V over the associated data and the plaintext. -/
def s2v (keys : List (List Byte)) (ads : List (List Byte)) (plain : List Byte) : List Byte :=
  let d := ads.foldl (fun d a => xorBytes (dbl d) (cmac keys a)) (cmac keys (zeros 16))
  if 16 ≤ plain.length then
    let h := plain.take (plain.length - 16)
    cmac keys (h ++ xorBytes (plain.drop (plain.length - 16)) d)
  else cmac keys (xorBytes (dbl d) (padTo 16 (plain ++ [0x80])))

/-- The key stream of counter mode, `n` blocks from a counter. -/
def ctrStream (keys : List (List Byte)) : Nat → Nat → List Byte
  | 0, _ => []
  | n + 1, c => aesEnc keys (beBytes 16 (c % 2 ^ 128)) ++ ctrStream keys n (c + 1)

/-- The counter that a synthetic IV starts: two of its bits are cleared. -/
def sivCtr (iv : List Byte) : Nat := ofBe iv &&& 0xFFFFFFFFFFFFFFFF7FFFFFFF7FFFFFFF

/-- AES-SIV: synthetic IV, then ciphertext. -/
def sivSeal (key : List Byte) (ads : List (List Byte)) (plain : List Byte) : List Byte :=
  let h := key.length / 2
  let iv := s2v (aesKeys (key.take h)) ads plain
  iv ++ xorBytes plain (ctrStream (aesKeys (key.drop h)) (plain.length / 16 + 1) (sivCtr iv))

/-- AES-SIV opened: none when the synthetic IV does not agree. -/
def sivOpen (key : List Byte) (ads : List (List Byte)) (sealed : List Byte) : Option (List Byte) :=
  let h := key.length / 2
  let iv := sealed.take 16
  let ct := sealed.drop 16
  let plain := xorBytes ct (ctrStream (aesKeys (key.drop h)) (ct.length / 16 + 1) (sivCtr iv))
  if sealed.length < 16 then none else if s2v (aesKeys (key.take h)) ads plain = iv then some plain else none

/-! Modular arithmetic. -/

/-- b^e mod m over `k` bits of e, from the lowest. -/
def powBits (m : Nat) : Nat → Nat → Nat → Nat
  | 0, _, _ => 1 % m
  | k + 1, b, e =>
    let r := powBits m k (b * b % m) (e / 2)
    if e % 2 = 1 then r * b % m else r

def powMod (b e m : Nat) : Nat := powBits m (e.log2 + 1) (b % m) e

/-- The inverse modulo a prime. -/
def invMod (a p : Nat) : Nat := powMod a (p - 2) p

def subMod (a b p : Nat) : Nat := (a + p - b % p) % p

/-! Short-Weierstrass curves: y² = x³ + ax + b; none is the point at infinity. -/

structure EcCurve where
  p : Nat
  a : Nat
  b : Nat
  gx : Nat
  gy : Nat
  n : Nat
  deriving DecidableEq, Repr

abbrev Pt := Option (Nat × Nat)

def onCurve (c : EcCurve) (x y : Nat) : Bool := y * y % c.p == (x * x * x + c.a * x + c.b) % c.p

def ecAdd (c : EcCurve) : Pt → Pt → Pt
  | none, q => q
  | q, none => q
  | some (x1, y1), some (x2, y2) =>
    if x1 = x2 then
      if (y1 + y2) % c.p = 0 then none else
      let l := (3 * x1 * x1 + c.a) * invMod (2 * y1) c.p % c.p
      let x3 := subMod (l * l) (2 * x1) c.p
      some (x3, subMod (l * (subMod x1 x3 c.p)) y1 c.p)
    else
      let l := subMod y2 y1 c.p * invMod (subMod x2 x1 c.p) c.p % c.p
      let x3 := subMod (l * l) (x1 + x2) c.p
      some (x3, subMod (l * (subMod x1 x3 c.p)) y1 c.p)

/-- k·P over `n` bits of k, from the lowest. -/
def ecMulBits (c : EcCurve) : Nat → Nat → Pt → Pt
  | 0, _, _ => none
  | n + 1, k, pt =>
    let r := ecMulBits c n (k / 2) (ecAdd c pt pt)
    if k % 2 = 1 then ecAdd c r pt else r

def ecMul (c : EcCurve) (k : Nat) (pt : Pt) : Pt := ecMulBits c (k.log2 + 1) k pt

def p256 : EcCurve :=
  { p := 0xFFFFFFFF00000001000000000000000000000000FFFFFFFFFFFFFFFFFFFFFFFF,
    a := 0xFFFFFFFF00000001000000000000000000000000FFFFFFFFFFFFFFFFFFFFFFFC,
    b := 0x5AC635D8AA3A93E7B3EBBD55769886BC651D06B0CC53B0F63BCE3C3E27D2604B,
    gx := 0x6B17D1F2E12C4247F8BCE6E563A440F277037D812DEB33A0F4A13945D898C296,
    gy := 0x4FE342E2FE1A7F9B8EE7EB4A7C0F9E162BCE33576B315ECECBB6406837BF51F5,
    n := 0xFFFFFFFF00000000FFFFFFFFFFFFFFFFBCE6FAADA7179E84F3B9CAC2FC632551 }

def p384 : EcCurve :=
  { p := 0xFFFFFFFFFFFFFFFFFFFFFFFFFFFFFFFFFFFFFFFFFFFFFFFFFFFFFFFFFFFFFFFEFFFFFFFF0000000000000000FFFFFFFF,
    a := 0xFFFFFFFFFFFFFFFFFFFFFFFFFFFFFFFFFFFFFFFFFFFFFFFFFFFFFFFFFFFFFFFEFFFFFFFF0000000000000000FFFFFFFC,
    b := 0xB3312FA7E23EE7E4988E056BE3F82D19181D9C6EFE8141120314088F5013875AC656398D8A2ED19D2A85C8EDD3EC2AEF,
    gx := 0xAA87CA22BE8B05378EB1C71EF320AD746E1D3B628BA79B9859F741E082542A385502F25DBF55296C3A545E3872760AB7,
    gy := 0x3617DE4A96262C6F5D9E98BF9292DC29F8F41DBD289A147CE9DA3113B5F0B8C00A60B1CE1D7E819D7A431D7C90EA0E5F,
    n := 0xFFFFFFFFFFFFFFFFFFFFFFFFFFFFFFFFFFFFFFFFFFFFFFFFC7634D81F4372DDF581A0DB248B0A77AECEC196ACCC52973 }

def p521 : EcCurve :=
  { p := 2 ^ 521 - 1,
    a := 2 ^ 521 - 4,
    b := 0x0051953EB9618E1C9A1F929A21A0B68540EEA2DA725B99B315F3B8B489918EF109E156193951EC7E937B1652C0BD3BB1BF073573DF883D2C34F1EF451FD46B503F00,
    gx := 0x00C6858E06B70404E9CD9E3ECB662395B4429C648139053FB521F828AF606B4D3DBAA14B5E77EFE75928FE1DC127A2FFA8DE3348B3C1856A429BF97E7E31C2E5BD66,
    gy := 0x011839296A789A3BC0045C8A5FB42C7D1BD998F54449579B446817AFBD17273E662C97EE72995EF42640C550B9013FAD0761353C7086A272C24088BE94769FD16650,
    n := 0x01FFFFFFFFFFFFFFFFFFFFFFFFFFFFFFFFFFFFFFFFFFFFFFFFFFFFFFFFFFFFFFFFFA51868783BF2F966B7FCC0148F709A5D03BB5C9B8899C47AEBB6FB71E91386409 }

/-- ECDSA's e: the leftmost bits of the hash, as many as n has (FIPS 186-5). -/
def ecdsaE (c : EcCurve) (hash : List Byte) : Nat :=
  let v := ofBe hash
  let hb := 8 * hash.length
  let nb := c.n.log2 + 1
  if nb < hb then v / 2 ^ (hb - nb) else v

/-- ECDSA verification of (r, s) under a point. -/
def ecdsaVerify (c : EcCurve) (q : Pt) (hash : List Byte) (r s : Nat) : Bool :=
  if r = 0 ∨ c.n ≤ r ∨ s = 0 ∨ c.n ≤ s then false else
  let w := invMod s c.n
  match ecAdd c (ecMul c (ecdsaE c hash * w % c.n) (some (c.gx, c.gy))) (ecMul c (r * w % c.n) q) with
  | none => false
  | some (x, _) => x % c.n == r

/-- ECDSA signature with a drawn k; none where r or s is 0 (R531). -/
def ecdsaSign (c : EcCurve) (d k : Nat) (hash : List Byte) : Option (Nat × Nat) :=
  match ecMul c k (some (c.gx, c.gy)) with
  | none => none
  | some (x, _) =>
    let r := x % c.n
    let s := invMod k c.n * (ecdsaE c hash + r * d) % c.n
    if r = 0 ∨ s = 0 then none else some (r, s)

/-! X25519 (RFC 7748). -/

def p25519 : Nat := 2 ^ 255 - 19

/-- The Montgomery ladder over bits `n − 1` to 0 of k: (x2, z2, x3, z3) and the pending swap. -/
def x25519Ladder (k u : Nat) : Nat → (Nat × Nat × Nat × Nat × Nat) → (Nat × Nat × Nat × Nat × Nat)
  | 0, st => st
  | n + 1, (x2, z2, x3, z3, sw) =>
    let p := p25519
    let kt := k / 2 ^ n % 2
    let (x2, z2, x3, z3) := if (sw + kt) % 2 = 1 then (x3, z3, x2, z2) else (x2, z2, x3, z3)
    let a := (x2 + z2) % p
    let aa := a * a % p
    let b := subMod x2 z2 p
    let bb := b * b % p
    let e := subMod aa bb p
    let da := subMod x3 z3 p * a % p
    let cb := (x3 + z3) % p * b % p
    let x3' := (da + cb) * (da + cb) % p
    let z3' := u * (subMod da cb p * subMod da cb p % p) % p
    x25519Ladder k u n (aa * bb % p, e * (aa + 121665 * e) % p, x3', z3', kt)

/-- A scalar clamped (RFC 7748). -/
def clamp25519 (k : Nat) : Nat := k % 2 ^ 254 / 8 * 8 + 2 ^ 254

/-- X25519 of a clamped scalar and a u-coordinate. -/
def x25519 (k u : Nat) : Nat :=
  let (x2, z2, x3, z3, sw) := x25519Ladder k (u % p25519) 255 (1, 0, u % p25519, 1, 0)
  let (x2, z2) := if sw = 1 then (x3, z3) else (x2, z2)
  x2 * invMod z2 p25519 % p25519

/-- Whether a u-coordinate is that of a point of the curve and not of its twist. -/
def onMontgomery (u : Nat) : Bool :=
  let p := p25519
  let v := (u * u % p * u + 486662 * (u * u % p) + u) % p
  v == 0 || powMod v ((p - 1) / 2) p == 1

/-! Edwards curves: a·x² + y² = 1 + d·x²·y². -/

structure EdCurve where
  p : Nat
  a : Nat
  d : Nat
  bx : Nat
  byy : Nat
  l : Nat
  nb : Nat
  cof : Nat
  deriving DecidableEq, Repr

def ed25519 : EdCurve :=
  { p := p25519, a := p25519 - 1, d := 0x52036CEE2B6FFE738CC740797779E89800700A4D4141D8AB75EB4DCA135978A3,
    bx := 0x216936D3CD6E53FEC0A4E231FDD6DC5C692CC7609525A7B2C9562D608F25D51A,
    byy := 0x6666666666666666666666666666666666666666666666666666666666666658,
    l := 2 ^ 252 + 27742317777372353535851937790883648493, nb := 32, cof := 8 }

def ed448 : EdCurve :=
  { p := 2 ^ 448 - 2 ^ 224 - 1, a := 1, d := 2 ^ 448 - 2 ^ 224 - 1 - 39081,
    bx := 224580040295924300187604334099896036246789641632564134246125461686950415467406032909029192869357953282578032075146446173674602635247710,
    byy := 298819210078481492676017930443930673437544040154080242095928241372331506189835876003536878655418784733982303233503462500531545062832660,
    l := 2 ^ 446 - 13818066809895115352007386748515426880336692474882178609894547503885, nb := 57, cof := 4 }

def edAdd (c : EdCurve) (q r : Nat × Nat) : Nat × Nat :=
  let (x1, y1) := q
  let (x2, y2) := r
  let k := c.d * (x1 * x2 % c.p) % c.p * (y1 * y2 % c.p) % c.p
  ((x1 * y2 + y1 * x2) % c.p * invMod ((1 + k) % c.p) c.p % c.p,
   subMod (y1 * y2) (c.a * (x1 * x2 % c.p)) c.p * invMod (subMod 1 k c.p) c.p % c.p)

def edMulBits (c : EdCurve) : Nat → Nat → Nat × Nat → Nat × Nat
  | 0, _, _ => (0, 1)
  | n + 1, k, q =>
    let r := edMulBits c n (k / 2) (edAdd c q q)
    if k % 2 = 1 then edAdd c r q else r

def edMul (c : EdCurve) (k : Nat) (q : Nat × Nat) : Nat × Nat := edMulBits c (k.log2 + 1) k q

/-- A point encoded (RFC 8032). -/
def edEncode (c : EdCurve) (q : Nat × Nat) : List Byte := leBytes c.nb (q.2 + q.1 % 2 * 2 ^ (8 * c.nb - 1))

/-- The square root of a fraction u/v modulo p, if it has one (RFC 8032, 5.1.3 and 5.2.3). -/
def edSqrt (c : EdCurve) (u v : Nat) : Option Nat :=
  if c.nb = 32 then
    let x := u * powMod v 3 c.p % c.p * powMod (u * powMod v 7 c.p) ((c.p - 5) / 8) c.p % c.p
    if v * x % c.p * x % c.p = u % c.p then some x
    else if v * x % c.p * x % c.p = subMod 0 u c.p then some (x * powMod 2 ((c.p - 1) / 4) c.p % c.p) else none
  else
    let x := powMod u 3 c.p * v % c.p * powMod (powMod u 5 c.p * powMod v 3 c.p) ((c.p - 3) / 4) c.p % c.p
    if v * x % c.p * x % c.p = u % c.p then some x else none

/-- The y-coordinate and sign that an encoding carries. -/
def edSplit (c : EdCurve) (bs : List Byte) : Nat × Nat := (ofLe bs % 2 ^ (8 * c.nb - 1), ofLe bs / 2 ^ (8 * c.nb - 1))

/-- A point decoded: none when y is not below p or no x exists. -/
def edDecode (c : EdCurve) (bs : List Byte) : Option (Nat × Nat) :=
  let (y, sgn) := edSplit c bs
  if c.p ≤ y then none else
  let y2 := y * y % c.p
  match edSqrt c (subMod 1 y2 c.p) (subMod c.a (c.d * y2) c.p) with
  | none => none
  | some x =>
    if x = 0 ∧ sgn = 1 then none else
    some (if x % 2 = sgn then x else c.p - x, y)

/-- The hash of EdDSA: SHA-512, or SHAKE256 with the prefix of Ed448. -/
def edHash (c : EdCurve) (m : List Byte) : Nat :=
  if c.nb = 32 then ofLe (sha512 m)
  else ofLe (shake256 114 ([0x53, 0x69, 0x67, 0x45, 0x64, 0x34, 0x34, 0x38, 0, 0] ++ m))

/-- The secret scalar and the prefix of a seed. -/
def edExpand (c : EdCurve) (seed : List Byte) : Nat × List Byte :=
  if c.nb = 32 then
    let h := sha512 seed
    (clamp25519 (ofLe (h.take 32)), h.drop 32)
  else
    let h := shake256 114 seed
    let k := ofLe (h.take 57)
    (k % 2 ^ 447 / 4 * 4 + 2 ^ 447, h.drop 57)

def edPublic (c : EdCurve) (seed : List Byte) : List Byte := edEncode c (edMul c (edExpand c seed).1 (c.bx, c.byy))

def edSign (c : EdCurve) (seed m : List Byte) : List Byte :=
  let (a, pre) := edExpand c seed
  let pub := edEncode c (edMul c a (c.bx, c.byy))
  let r := edHash c (pre ++ m) % c.l
  let rr := edEncode c (edMul c r (c.bx, c.byy))
  let k := edHash c (rr ++ pub ++ m) % c.l
  rr ++ leBytes c.nb ((r + k * a) % c.l)

/-- The cofactored equation of RFC 8032. -/
def edVerify (c : EdCurve) (pub m sig : List Byte) : Bool :=
  let sv := ofLe (sig.drop c.nb)
  match edDecode c pub, edDecode c (sig.take c.nb) with
  | some a, some r =>
    if c.l ≤ sv ∨ sig.length ≠ 2 * c.nb then false else
    let k := edHash c (sig.take c.nb ++ pub ++ m) % c.l
    edMul c c.cof (edMul c sv (c.bx, c.byy)) == edMul c c.cof (edAdd c r (edMul c k a))
  | _, _ => false

/-! Miller–Rabin. -/

/-- Whether a base shows that n is composite: n − 1 = 2^s·d, x = base^d, squared `s − 1` times. -/
def mrSquares (n : Nat) : Nat → Nat → Bool
  | 0, _ => false
  | k + 1, x => x == n - 1 || mrSquares n k (x * x % n)

/-- The power of two and the odd part of a number. -/
def oddPart : Nat → Nat → Nat × Nat
  | 0, n => (0, n)
  | f + 1, n => if n % 2 = 0 ∧ n ≠ 0 then let (s, d) := oddPart f (n / 2); (s + 1, d) else (0, n)

/-- One round of Miller–Rabin. -/
def mrRound (n base : Nat) : Bool :=
  let (s, d) := oddPart (n.log2 + 1) (n - 1)
  let x := powMod base d n
  x == 1 || mrSquares n s x

end Sys2Proof.Machine.Crypto
end

