-- ==== Sys2Proof/Machine/Fmu.lean ====
section
/-! DEFINITION. The fault manager and the self-test (R555 to R590): comparisons with Weft, monitors, fault storms, rapping
passes, and the classification and retirement of islands and memories. -/

namespace Sys2Proof.Machine

open Sys2Proof

/-! Links and the work in hand. -/

/-- The context that an egress frame answers. -/
def EgSrc.ctx? : EgSrc → Option Nat
  | .plain c => some c
  | .nts c => some c
  | .kod c => some c
  | .ntsn c => some c
  | .delayResp c => some c
  | .pdelayResp c _ => some c
  | _ => none

/-- Contexts freed before their commit, with their items, lanes and waiting answers, each counted in WV_DISCARDED (R433). -/
def State.discardCtxs (s : State) (p : Ctx → Bool) : State :=
  let lost := s.wv.ctxs.filter (fun c => c.st != .committed && p c)
  let gone := fun (k : Nat) => lost.any (fun c => c.id == k)
  let wv := { s.wv with ctxs := s.wv.ctxs.filter (fun c => c.st == .committed || !p c),
                        queues := s.wv.queues.map (fun q => q.filter (fun i => !gone i.ctx)),
                        lanes := s.wv.lanes.map (fun l => if (l.ctx.map gone).getD false then l.idle else l) }
  let ports := s.ports.map (fun q => { q with eg := q.eg.filter (fun e => !(e.src.ctx?.map gone).getD false) })
  ({ s with wv := wv, ports := ports }).countN (wvCtr 14) lost.length

/-- The frames that a port has committed, given up with their contexts; host frames end with a status. -/
def State.dropCommitted (s : State) (n st : Nat) : State :=
  let cs := (s.port n).committed.filterMap (fun e => e.src.ctx?)
  let s1 := { s with wv := { s.wv with ctxs := s.wv.ctxs.filter (fun c => !cs.contains c.id) } }
  (s1.hostStatuses (s.port n).committed st).setPort n (fun p => { p with committed := [] })

/-- The link of a port lost (R395, R397, R413, R433, R505, R515): the contexts of the port not yet committed are freed, and a
frame committed and not yet sent is lost with its context; host frames end as PORT_DOWN, and no frame goes on waiting. -/
def State.linkDrop (s : State) (n : Nat) : State :=
  if !(s.port n).link then s else
  let s1 := (s.bwAccrue n).discardCtxs (fun c => c.port == n)
  let s2 := s1.countN (macCtr n 21) ((s1.port n).committed.length)
  let s3 := (s2.dropCommitted n 0x20).hostStatuses (s1.port n).eg 0x20
  let s4 := s3.setPort n (fun p => { p with link := false, speed := 3, fec := false, pre := 0, eg := [], lineFree := 0, expFree := 0, rxWait := [] })
  (s4.count (macCtr n 22)).cause 7

/-- A port held down (R385, R575, R581). -/
def State.holdPort (s : State) (n : Nat) : State := (s.linkDrop n).setPort n (fun p => { p with held := true })

/-! Islands. -/

/-- METHOD (R571): 0 = B, 1 = I, 2 = S, 3 = P. -/
def islMethod (k : Nat) : Nat :=
  if k = 3 ∨ k = 5 ∨ k = 7 ∨ k = 8 then 2 else if k = 6 ∨ 14 ≤ k then 1 else if 9 ≤ k then (if k = 13 then 0 else 3) else 0

/-- ESSENTIAL (R571, R589). -/
def islEssential (k : Nat) : Bool := decide (k < 5) || k == 13

/-- The rotating islands in their order (R577). -/
def rotating : List Nat := [3, 5, 6, 7, 8, 14, 15, 16, 17, 18, 19, 20, 21, 22, 23]

/-- The islands of an offline test in their order (R579). -/
def offlineOrder : List Nat := [3, 5, 6, 7, 8, 9, 10, 11, 12, 14, 15, 16, 17, 18, 19, 20, 21, 22, 23]

def State.isl (s : State) (k : Nat) : Island := s.fmu.islands.getD k Island.reset

def State.setIsl (s : State) (k : Nat) (f : Island → Island) : State :=
  { s with fmu := { s.fmu with islands := updAt s.fmu.islands k f } }

/-- Under test: from the decision to test to the end of the pass (R576). -/
def Island.busy (i : Island) : Bool := i.draining || i.scanAt.isSome

/-- The islands under test, in number order (BST_STAT). -/
def State.underTest (s : State) : List Nat := (List.range 24).filter (fun k => (s.isl k).busy)

/-- Whether a lane is in service (R22, R48): its island is. -/
def State.laneIn (s : State) (k : Nat) : Bool := !s.islandOut (14 + k)

/-- Whether a PKE core is in service. -/
def State.coreIn (s : State) (c : Nat) : Bool := !s.islandOut (if c < 4 then 22 else 23)

/-- Work in hand discarded when an error is detected in its unit (R23): the contexts of a lane; the operations of a PKE island's
cores; the mint command in hand; the searches of the acquisition engine; what a channel has measured since its epoch; the frames
that a port has committed. An update whose check Bodkin loses so ends as interrupted, and a host frame that was committed completes
with STATUS 0x32 FAULT, which R507 does not name for this case (both DESIGN CHOICE, log 122). -/
def State.discardWork (s : State) (k : Nat) : State :=
  if 14 ≤ k ∧ k < 22 then s.discardCtxs (fun c => c.lane == some (k - 14))
  else if k = 22 ∨ k = 23 then
    let hand := s.pke.ops.filter (fun o => (o.core.map (fun c => decide (22 + c / 4 = k))).getD false)
    let s1 := hand.foldl (fun s o => s.pkeAbort o) s
    if hand.any (fun o => o.bod && o.bytes.headD 0 == 0x13) then s1.abortUpdate else s1
  else if k = 5 then (s.wv.mints.filter (·.running)).foldl (fun s m => s.mintAbort m 0x32) s
  else if k = 6 then
    { s with gns := { s.gns with chans := s.gns.chans.map fun c => if c.st = .search then Chan.reset else c } }
  else if k = 7 ∨ k = 8 then
    { s with gns := { s.gns with chans := s.gns.chans.mapIdx fun i c => if 7 + i / 96 = k then { c with used := false } else c } }
  else if 9 ≤ k ∧ k < 13 then s.dropCommitted (k - 9) 0x32
  else s

/-- A pass begun: no new work; a targeted pass discards the work in hand (R574). -/
def State.beginPass (s : State) (k : Nat) (targeted : Bool) : State :=
  let s1 := if targeted then s.discardWork k else s
  s1.setIsl k (fun i => { i with st := .underTest, draining := true, targeted := false })

/-- Targeted passes waiting started in island number order while fewer than two islands are under test (R576). -/
def State.startWaiting (s : State) : State :=
  (List.range 24).foldl (fun s k =>
    if (s.isl k).targeted && !(s.isl k).busy && decide (s.underTest.length < 2) then s.beginPass k true else s) s

/-- A targeted pass asked for (R576). -/
def State.target (s : State) (k : Nat) : State := (s.setIsl k (fun i => { i with targeted := true })).startWaiting

/-- The next island of an offline test, one at a time; the test's work ends after the last (R579). -/
def State.offlineNext (s : State) : State :=
  match s.md.mode, s.md.maint with
  | .maintain, some m =>
    if m.swap || m.ended || m.boundHit || s.fmu.islands.any (·.offline) then s else
    match offlineOrder.find? (fun k => !m.tested.contains k) with
    | some k =>
      if decide (s.underTest.length < 2) && !(s.isl k).busy then
        (s.beginPass k false).setIsl k (fun i => { i with offline := true })
      else s
    | none => { s with md := { s.md with maint := some { m with ended := true } } }
  | _, _ => s

/-! Reports and storms. -/

/-- An error reported against an island: work in hand discarded at once (R23, R569). -/
def State.islandError (s : State) (k : Nat) : State := (s.faultReport (0x3000 + k) 0).discardWork k

/-- An uncorrectable memory error reported (R379, R561, R587). -/
def State.memoryError (s : State) (m : Nat) : State := (s.faultReport (0x2000 + m) 0).count (fmuCtr 5)

/-- The rail that feeds the PLL of a clock (R13, R25). -/
def clockRail (c : Nat) : Nat := if c = 0 ∨ c = 8 then 1 else if (3 ≤ c ∧ c ≤ 7) ∨ c = 10 then 2 else 0

/-- The rail and the clock of a memory's domain. -/
def memRail (m : Nat) : Nat := if m = 3 then 1 else 0
def memClock (m : Nat) : Nat := if m = 2 ∨ m = 6 then 9 else if m = 3 then 0 else if m = 4 then 8 else 2

/-- The rails, clocks and memories of an island's logic (R13, R25, R571). -/
def islParts (k : Nat) : List Nat × List Nat × List Nat :=
  if k = 0 then ([0], [1], []) else
  if k = 1 then ([0, 2], [2, 7, 9, 11], [2, 6]) else
  if k = 2 then ([1], [0], []) else
  if k = 3 then ([1], [0], [6, 7]) else
  if k = 4 then ([1, 4], [0], [3]) else
  if k = 5 then ([0], [2, 10], [0, 7]) else
  if k = 6 then ([0], [8], [4]) else
  if k = 7 ∨ k = 8 then ([0], [8], [4, 7]) else
  if k < 13 then ([1, 2], [0, k - 6], [0]) else
  if k = 13 then ([0], [2], [0, 1]) else
  if k < 22 then ([0], [2], [1]) else ([0], [2], [5])

/-- What a clock depends on. -/
def depsClock (c : Nat) : List Nat := [clockRail c]

/-- What a memory depends on. -/
def depsMem (m : Nat) : List Nat := [memRail m, 0x1000 + memClock m] ++ depsClock (memClock m)

/-- The tags on which a tag depends (R568). -/
def depsOf (tag : Nat) : List Nat :=
  let i := tag % 256
  match tag / 4096 with
  | 1 => depsClock i
  | 2 => depsMem i
  | 3 =>
    let (r, c, m) := islParts i
    r ++ c.flatMap (fun x => (0x1000 + x) :: depsClock x) ++ m.flatMap (fun x => (0x2000 + x) :: depsMem x)
  | _ => []

/-- The bit of DOMAINS that stands for a tag (R570). -/
def domainBit (tag : Nat) : Nat :=
  let i := tag % 256
  match tag / 4096 with
  | 0 => i
  | 1 => 5 + i
  | 2 => 17 + i
  | 3 => 25 + i
  | _ => 63

/-- DOMAINS of a group: its bits 63:49 are 0. -/
def domainsOf (g : List Report) : Nat :=
  ((List.range 49).filter (fun b => g.any (fun r => domainBit r.tag == b))).foldl (fun a b => a + 2 ^ b) 0

/-- The 32 bytes of a root-cause record (R570), less ACTION and CAUSE. -/
def rootBytes (root : Nat) (g : List Report) (action cause : Nat) : List Byte :=
  let t := match g with
    | r :: _ => r.time
    | [] => TimeWord.zero
  let first := match g with
    | r :: _ => r.tag
    | [] => root
  leBytes 2 root ++ leBytes 2 first ++ leBytes 2 (min 65535 g.length) ++ [BitVec.ofNat 8 action, BitVec.ofNat 8 cause] ++
    leBytes 12 t.toBits.toNat ++ leBytes 8 (domainsOf g) ++ zeros 4

/-- A root-cause record written: to the log, to FMU_ROOT0 to FMU_ROOT7 and to FMU_STORMS (R570, R586, R587). The fault manager
writes the record of a SAFE cause itself (R564, R567). -/
def State.writeRoot (s : State) (rec_ : List Byte) : State :=
  let safe := decide (rec_.getD 6 0 = 3)
  let s1 := s.logAs (safe || s.fmu.halted) 0x0005 rec_
  ({ s1 with fmu := { s1.fmu with root := rec_ } }).count (fmuCtr 2)

/-- A waiting record with its ACTION filled in. -/
def withAction (rec_ : List Byte) (a : Nat) : List Byte := rec_.set 6 (BitVec.ofNat 8 a)

/-- An error instant kept in FeRAM (R580): islands as 0 to 23, memories as 32 to 39. -/
def State.addErr (s : State) (u : Nat) : State := { s with fe := { s.fe with errs := s.fe.errs ++ [(u, s.now)] } }

/-- Errors of a unit in the last 24 h (R580). -/
def State.errsOf (s : State) (u : Nat) : Nat :=
  (s.fe.errs.filter (fun e => e.1 == u && decide (s.now < e.2 + 86400 * nsPerSec))).length

/-- The test that a root asks for (R569, R578), with the record that waits for its result: rails and clocks have none, and an
island that cannot be tested now waits for the next BOOT. -/
def State.testRoot (s : State) (root : Nat) (rec_ : List Byte) (written : Bool) : State :=
  let i := root % 256
  match root / 4096 with
  | 2 =>
    let s1 := s.addErr (32 + i)
    { s1 with fmu := { s1.fmu with scrubs := s1.fmu.scrubs ++ [(i, if written then [] else rec_)] } }
  | 3 =>
    let s1 := s.addErr i
    if islMethod i = 0 ∨ s.md.mode == .boot ∨ (s.isl i).st == .retired then
      let s2 := if islMethod i = 0 then { s1 with fe := { s1.fe with pend := s1.fe.pend ++ [i] } } else s1
      if written then s2 else s2.writeRoot (withAction rec_ 0)
    else (s1.setIsl i (fun x => { x with rootRec := x.rootRec ++ (if written then [] else rec_) })).target i
  | _ => if written then s else s.writeRoot (withAction rec_ 1)

/-- One root taken from the reports, its group recorded and its test asked for; then the rest (R569). -/
def stormRoots : Nat → List Report → State → State
  | 0, _, s => s
  | n + 1, rs, s =>
    let k := rs.foldl (fun m r => min m (r.tag / 4096)) 16
    match rs.find? (fun r => r.tag / 4096 == k) with
    | none => s
    | some root =>
      let inG := fun (r : Report) => r.tag == root.tag || (depsOf r.tag).contains root.tag
      let g := rs.filter inG
      let cause : Nat := ((g.find? (fun r => r.safe != 0)).map (·.safe)).getD 0
      let first := cause != 0 && g.any (fun r => r.tag == s.fmu.lastRoot && r.safe == s.fmu.lastCause)
      let s1 := if first then { s with fmu := { s.fmu with lastRoot := root.tag } } else s
      let rec_ := rootBytes root.tag g (if cause = 0 then 1 else 3) cause
      let s2 := if cause = 0 then s1 else s1.writeRoot rec_
      stormRoots n (rs.filter (fun r => !inG r)) (s2.testRoot root.tag rec_ (cause != 0))

/-- STORM_WINDOW_CLOSE: 10 µs after the window opened (R569). -/
def State.closeStorm (s : State) : State :=
  match s.fmu.window with
  | some t =>
    if s.now < t + 10000 then s else
    let rs := s.fmu.reports
    stormRoots rs.length rs { s with fmu := { s.fmu with window := none, reports := [] } }
  | none => s

/-! Retirement and classification. -/

/-- A unit entered in FeRAM as retired (R582). -/
def State.addRetired (s : State) (u : Nat) : State :=
  if s.fe.retired.contains u then s else { s with fe := { s.fe with retired := s.fe.retired ++ [u] } }

/-- Whether an island is essential now: one of R571, or the last PKE island in service (R572, R581). -/
def State.vital (s : State) (k : Nat) : Bool :=
  islEssential k || (k == 22 && (s.isl 23).st == .retired) || (k == 23 && (s.isl 22).st == .retired)

/-- An island retired (R581, R582). In service an essential one, or the last PKE island, leads to SAFE. -/
def State.retire (s : State) (k : Nat) : State :=
  let vital := s.vital k
  let s1 := (s.addRetired k).setIsl k (fun i => { i with st := .retired })
  let s2 := State.noteDegraded s s1
  let s3 := if 9 ≤ k ∧ k < 13 then s2.holdPort (k - 9) else s2
  if vital && s3.md.mode != .boot then s3.safeReaction (0x3000 + k) 0x3A false else s3

/-- The class of an error whose test has ended: lasting or transient (R580, R587). -/
def State.classify (s : State) (u : Nat) (ok : Bool) : Bool × State :=
  if ok && decide (s.errsOf u < 3) then (false, s.count (fmuCtr 6)) else (true, s.count (fmuCtr 7))

/-- The waiting records of an island written with their action. -/
def State.writeRoots (s : State) (k action : Nat) : State :=
  let rs := List.ofFn (n := (s.isl k).rootRec.length / 32) (fun j => slice (s.isl k).rootRec (32 * j) 32)
  (rs.foldl (fun s r => s.writeRoot (withAction r action)) s).setIsl k (fun i => { i with rootRec := [] })

/-- MEMORY_SCRUB_DONE (R569, R580): a memory found lasting has its faulty part retired. -/
def State.scrubDone (s : State) (m : Nat) (ok : Bool) : State :=
  match s.fmu.scrubs.find? (fun e => e.1 == m) with
  | none => s
  | some e =>
    let s1 := { s with fmu := { s.fmu with scrubs := s.fmu.scrubs.erase e } }
    let (lasting, s2) := s1.classify (32 + m) ok
    let s3 := if e.2.isEmpty then s2 else s2.writeRoot (withAction e.2 (if lasting then 2 else 1))
    if lasting then State.noteDegraded s3 (s3.addRetired (32 + m)) else s3

/-! Rapping passes. -/

/-- Whether an island's work in hand has finished (R22, R574). -/
def State.drained (s : State) (k : Nat) : Bool :=
  if 14 ≤ k ∧ k < 22 then ((s.wv.lanes.getD (k - 14) Lane.reset).ctx).isNone
  else if k = 22 ∨ k = 23 then !s.pke.ops.any (fun o => (o.core.map (fun c => decide (22 + c / 4 = k))).getD false)
  else true

/-- Whether the start-up pass of an island may begin: islands 0 and 1 first, then pairs in island number order (R577). -/
def State.bootTurn (s : State) (k : Nat) : Bool :=
  s.glb.pllLocked && (s.isl k).st == .untested &&
    (List.range (k / 2 * 2)).all fun j => (s.isl j).st != .untested && (s.isl j).st != .underTest

/-- The demand of the last 100 ms on the lanes, in cycles of CLK_CORE, or on the PKE cores, in ns of a core (R24). -/
def State.demandOn (s : State) (k : Nat) : Nat :=
  if k < 22 then loadOf s.now loadSpan s.wv.arr else loadOf s.now loadSpan s.pke.work

/-- What the lanes or PKE cores in service can do in 100 ms without the island (R24): every lane at 800 MHz, since un-parking brings
them all back, or at half of it during a stretch. -/
def State.capacityLeft (s : State) (k : Nat) : Nat :=
  if k < 22 then ((List.range 8).filter (fun l => s.laneIn l && 14 + l != k)).length * (if s.fmu.stretch then 40000000 else 80000000)
  else ((List.range 8).filter (fun c => s.coreIn c && 22 + c / 4 != k)).length * loadSpan

/-- Whether R24 passes over an island: a lane or PKE island whose loss would leave less than the demand and 10 % of it. -/
def State.passesOver (s : State) (k : Nat) : Bool :=
  decide (14 ≤ k) && !(decide (s.demandOn k < s.capacityLeft k) && decide (11 * s.demandOn k ≤ 10 * s.capacityLeft k))

/-- ROT_INT has run since the last turn of the rotating pass (R577). -/
def State.rotateDue (s : State) : Bool :=
  match s.fmu.rotAt with
  | some t => decide (t + s.fld 0xD0000 15 0 * 1000000 ≤ s.now)
  | none => true

/-- ROTATING_PASS_START (R577): every ROT_INT the next rotating island in service is taken, unless R24 passes over it or a targeted
pass waits (R576). -/
def State.rotatePass (s : State) : State :=
  if !s.bit 0xD0000 31 || !s.md.mode.serving || decide (2 ≤ s.underTest.length) || s.fmu.islands.any (·.targeted) || !s.rotateDue then s else
  let order := rotating.drop s.fmu.rotIdx ++ rotating.take s.fmu.rotIdx
  match order.find? (fun k => (s.isl k).st == .inService) with
  | none => s
  | some k =>
    let s1 := { s with fmu := { s.fmu with rotIdx := (rotating.idxOf k + 1) % 15, rotAt := some s.now } }
    if s1.passesOver k then s1.count 0xD0210 else s1.beginPass k false

/-- PASS_SCAN_START (R573, R574): the island is isolated or its state saved. In BOOT there is no work to drain. A port island
holds its port down (R575). -/
def State.scanStart (s : State) (k : Nat) : State :=
  if s.md.mode == .boot then
    if s.bootTurn k && !s.inReset then s.setIsl k (fun i => { i with st := .underTest, scanAt := some s.now }) else s
  else if (s.isl k).draining && (s.isl k).scanAt.isNone && s.drained k then
    let s1 := s.setIsl k (fun i => { i with draining := false, scanAt := some s.now })
    if islMethod k = 3 then s1.holdPort (k - 9) else s1
  else s

/-- The end of a start-up pass (R44, R48, R50, R572, R577, R580, R582). -/
def State.bootPassEnd (s : State) (k : Nat) (ok : Bool) : State :=
  let was := s.fe.pend.contains k
  let s1 := { s with fe := { s.fe with pend := s.fe.pend.filter (· != k) } }
  let s2 := if ok then s1 else s1.addErr k
  let (lasting, s3) := if was || !ok then s2.classify k ok else (false, s2)
  let s4 := if lasting then s3.addRetired k else s3
  let s5 := s4.setIsl k (fun i => { i with st := if s4.fe.retired.contains k then .retired else .inService })
  let s6 := State.noteDegraded s s5
  let pairLost := decide (22 ≤ k) && (s6.isl 22).last == 0x30 && (s6.isl 23).last == 0x30
  if !ok && islEssential k || pairLost then s6.safeReaction 0 0x33 false
  else if lasting && islEssential k then s6.safeReaction (0x3000 + k) 0x3A false
  else
    let s7 := if (s6.isl 0).last = 0 ∧ (s6.isl 1).last = 0 ∧ k < 2 then
        { s6 with fmu := { s6.fmu with pathA := false, pathB := false } } else s6
    if s7.fmu.islands.all (fun i => i.last ≠ 255) then ({ s7 with glb := { s7.glb with bistDone := true } }).startupStep else s7

/-- BST_CTL_STAT of the operation that waited for a pass (R589, R590). -/
def State.bstAnswer (s : State) (k : Nat) (ok : Bool) : State :=
  match (s.isl k).ctl with
  | some t =>
    let s1 := s.setIsl k (fun i => { i with ctl := none })
    { s1 with fmu := { s1.fmu with ctlToken := t, ctlCode := if ok then 0 else 0x30 } }
  | none => s

/-- The end of a pass in service (R574, R580, R582, R566): an island whose pass succeeded returns to service, but not in SAFE
and not while it is retired. -/
def State.servicePassEnd (s : State) (k : Nat) (ok : Bool) : State :=
  let root := !(s.isl k).rootRec.isEmpty
  let off := (s.isl k).offline
  let s1 := s.setIsl k (fun i => { i with offline := false })
  let s2 := s1.bstAnswer k ok
  let s3 := if ok || root then s2 else s2.addErr k
  let (lasting, s4) := if ok && !root then (false, s3) else s3.classify k ok
  let s5 := s4.writeRoots k (if lasting then 2 else 1)
  let s6 := if lasting then s5.retire k
    else if s5.md.mode == .safe then s5
    else
      let back := s5.setIsl k (fun i => { i with st := if s5.fe.retired.contains k then .retired else .inService })
      if islMethod k = 3 && !s5.fe.retired.contains k then
        back.setPort (k - 9) (fun p => { p with held := !back.portRuns (k - 9) })
      else back
  let s7 := match s6.md.maint with
    | some m => if off then { s6 with md := { s6.md with maint := some { m with tested := m.tested ++ [k] } } } else s6
    | none => s6
  s7.startWaiting.offlineNext

/-- PASS_END (R573, R574): the signature, and for METHOD S in service the CRC of the restore, decide. -/
def State.passEnd (s : State) (k : Nat) (signatureOk restoreOk : Bool) : State :=
  match (s.isl k).scanAt with
  | none => s
  | some t =>
    if s.now < t + 2000000 then s else
    let boot := s.md.mode == .boot
    let ok := signatureOk && (boot || islMethod k ≠ 2 || restoreOk)
    let s1 := (s.setIsl k (fun i => { i with scanAt := none, last := if ok then 0 else 0x30 })).count (if ok then 0xD0200 else 0xD0208)
    if boot then s1.bootPassEnd k ok else s1.servicePassEnd k ok

/-! BST_CTL (R589, R590). -/

/-- A result of BST_CTL at once. -/
def State.bstCtl (s : State) (token code : Nat) : State := { s with fmu := { s.fmu with ctlToken := token, ctlCode := code } }

/-- What refuses a BST_CTL operation, in the order of the codes: 0 when nothing does. -/
def State.bstRefused (s : State) (k : Nat) (isTest : Bool) : Nat :=
  if 24 ≤ k then 0x10
  else if isTest ∧ islMethod k = 0 then 0x20
  else if s.md.mode == .boot || s.md.mode == .calibrate || s.md.mode == .safe then 0x24
  else if (s.isl k).targeted || (s.isl k).busy then 0x25
  else 0

/-- TEST: a targeted pass by METHOD. -/
def State.bstTest (s : State) (token k : Nat) : State :=
  if s.noWrites then s else
  let c := s.bstRefused k true
  if c ≠ 0 then s.bstCtl token c else (s.setIsl k (fun i => { i with ctl := some token })).target k

/-- CLEAR_RETIRED (R582): the retirement and the error history removed, and a pass; an island of METHOD B has its pass in the
next BOOT. -/
def State.bstClear (s : State) (token k : Nat) : State :=
  if s.noWrites then s else
  let c := s.bstRefused k false
  if c ≠ 0 then s.bstCtl token c else
  let s1 := { s with fe := { s.fe with retired := s.fe.retired.filter (· != k), errs := s.fe.errs.filter (fun e => e.1 != k) } }
  if islMethod k = 0 then s1.bstCtl token 0 else (s1.setIsl k (fun i => { i with ctl := some token })).target k

/-! Monitors. -/

/-- A failed comparison of Warp with Weft (R555 to R557, R586, R587): the first keeps its difference, and the gate closes. The
spec gives the report no tag: it is one of the two islands that hold the counters, and which is a free value. -/
def State.gateTrip (s : State) (d : Int) : State :=
  let s1 := s.count (fmuCtr 3)
  let s2 := { s1 with fmu := { s1.fmu with gateDiff := some (s1.fmu.gateDiff.getD (satSym 32 d)) } }
  let (x, s3) := s2.draw
  s3.safeReaction (if x % 2 = 0 then 0x3000 else 0x3002) 0x35 true

/-- The comparison of an instant `t` of Warp, in ns, with Weft extrapolated to it (R109, R412). -/
def State.weftDiffAt (s : State) (t : Nat) : Int := weftDiff t (unsigned 64 ((s.weftCmp : Int) + ((t : Int) - s.tb.warp)))

/-- WEFT_PERIODIC_COMPARE: the time word of a whole millisecond against the count captured at it, less L_SYNC (R111, R556). It
runs once Weft is loaded. -/
def State.periodicCompare (s : State) : State :=
  if !s.tb.weftLoaded || s.fmu.gate || decide (s.tb.warp % 1000000 ≠ 0) then s else
  let d := weftDiff s.tb.warp s.weftCmp
  if s.weftPasses d then s else s.gateTrip d

/-- RAIL_FAULT: a rail outside its fault window (R563). -/
def railFaulty (k mv : Nat) : Bool :=
  match k with
  | 0 => decide (mv < 800 ∨ 990 < mv)
  | 1 => decide (mv < 810 ∨ 990 < mv)
  | 2 => decide (mv < 1080 ∨ 1320 < mv)
  | _ => decide (mv < 1620 ∨ 1980 < mv)

/-- The order of the rails. -/
def railIx : Rail → Nat
  | .core => 0
  | .time => 1
  | .srd => 2
  | .io => 3
  | .tac => 4

def State.railFault (s : State) (r : Rail) (mv : Nat) : State :=
  if s.inReset || !railFaulty (railIx r) mv then s else
  let s1 := match r with
    | .core => s.seeCore mv
    | _ => s
  s1.safeReaction (railIx r) 0x37 true

/-- TEMP_FAULT: the highest sensor above 125 °C for 10 ms (R561, R595). No domain of R568 names a temperature: the tag of its
report is a free value. -/
def State.tempFault (s : State) : State :=
  if s.inReset then s else
  let (x, s1) := s.draw
  s1.safeReaction (x % 65536) 0x38 false

/-- LOCKSTEP_MISMATCH: Bodkin's comparator, or an uncorrectable error in its SRAM (R561, R567). -/
def State.lockstep (s : State) (sram : Bool) : State :=
  if s.inReset then s else
  if sram then (s.count (fmuCtr 5)).bodkinFault 0x2002 else s.bodkinFault 0x3001

/-- HEARTBEAT_TIMEOUT: no servo update for 10 ms in a mode in which the servo runs (R593). -/
def State.heartbeat (s : State) : State :=
  if s.md.mode.running && !s.fmu.halted && decide (max s.fmu.lastHeart s.md.since + 10000000 ≤ s.now) then s.bodkinFault 0x3001
  else s

/-- FAULT_PATH_FAIL: a path that drives low sees the ball high; the other path asserts FAULT_N (R561, R565, R585). -/
def State.pathFails (s : State) (a : Bool) : State :=
  if a then
    if s.fmu.pathA then
      let s1 := { s with fmu := { s.fmu with pathFail := true, pathB := true } }
      State.noteFault s (State.noteDegraded s s1)
    else s
  else if s.fmu.pathB then
    let s1 := { s with fmu := { s.fmu with pathFail := true, pathA := true } }
    State.noteFault s (State.noteDegraded s s1)
  else s

/-- PATH_A_HEARTBEAT_LOSS (R565). -/
def State.pathALost (s : State) : State := State.noteFault s { s with fmu := { s.fmu with pathB := true } }

/-- The tags of the clocks whose trips are SAFE causes (R562). -/
def clockSafe (c : Nat) : Bool := c == 0 || c == 1 || c == 2 || c == 9

/-- Whether a tag names a domain of R568. -/
def tagOk (tag : Nat) : Bool :=
  let i := tag % 4096
  match tag / 4096 with
  | 0 => decide (i < 5)
  | 1 => decide (i < 12)
  | 2 => decide (i < 8)
  | 3 => decide (i < 24)
  | _ => false

/-- FAULT_REPORT: a report with a tag; what the domain asks for at once (R23, R561, R569). A tag outside R568 is none. -/
def State.reportTag (s : State) (tag : Nat) : State :=
  if s.inReset || !tagOk tag then s else
  match tag / 4096 with
  | 0 => s.safeReaction tag 0x37 true
  | 1 => if clockSafe (tag % 256) then s.safeReaction tag 0x36 true else s.faultReport tag 0
  | 2 => if tag % 256 = 2 then s.lockstep true else s.memoryError (tag % 256)
  | _ => s.islandError (tag % 256)

/-- The index of a clock's tag (R568): receive and transmit of a port share one. -/
def domIx : ClkDom → Nat
  | .time => 0
  | .weft => 1
  | .core => 2
  | .srdRx n => 3 + n
  | .srdTx n => 3 + n
  | .gnss => 8
  | .mgt => 9
  | .pcie => 10
  | .qspi => 11
  | .clkout _ => 0

/-- A CLKOUT muted by a monitor until the next reset (R561). -/
def State.muteClk (s : State) (n : Nat) : State :=
  State.noteDegraded s ((s.setClk n (fun c => { c with monMuted := true })).outputsFollow)

/-- CLOCK_MONITOR_TRIP: the reaction of the domain (R562). -/
def State.clockTrip (s : State) (d : ClkDom) : State :=
  if s.inReset || !s.glb.pllLocked then s else
  match d with
  | .srdRx n => s.linkDrop n
  | .srdTx n =>
    let s1 := (s.faultReport (0x1003 + n) 0).holdPort n
    if n < 4 && s1.md.mode != .boot then s1.target (9 + n) else s1
  | .gnss => s.faultReport 0x1008 0
  | .pcie => (s.faultReport 0x100A 0).hifResetBlock false false
  | .qspi =>
    let s1 := s.faultReport 0x100B 0
    if s1.md.mode == .boot && s1.cfg.slot = 0 then { s1 with cfg := { s1.cfg with qspiTrip := true } } else s1
  | .clkout n => s.muteClk n
  | _ => s.safeReaction (0x1000 + domIx d) 0x36 true

def execWeftPeriodicCompare (s : State) : Host.Outcome State Fault Refusal := .next s.periodicCompare
def execClockMonitorTrip (d : ClkDom) (s : State) : Host.Outcome State Fault Refusal := .next (s.clockTrip d)
def execRailFault (r : Rail) (mv : Nat) (s : State) : Host.Outcome State Fault Refusal := .next (s.railFault r mv)
def execTempFault (s : State) : Host.Outcome State Fault Refusal := .next s.tempFault
def execLockstepMismatch (sram : Bool) (s : State) : Host.Outcome State Fault Refusal := .next (s.lockstep sram)
def execHeartbeatTimeout (s : State) : Host.Outcome State Fault Refusal := .next s.heartbeat
def execFaultPathFail (a : Bool) (s : State) : Host.Outcome State Fault Refusal := .next (s.pathFails a)
def execPathAHeartbeatLoss (s : State) : Host.Outcome State Fault Refusal := .next s.pathALost
def execFaultReport (tag : BitVec 16) (s : State) : Host.Outcome State Fault Refusal := .next (s.reportTag tag.toNat)
def execStormWindowClose (s : State) : Host.Outcome State Fault Refusal := .next s.closeStorm
def execMemoryScrubDone (m : Nat) (ok : Bool) (s : State) : Host.Outcome State Fault Refusal := .next (s.scrubDone m ok)
def execRotatingPassStart (s : State) : Host.Outcome State Fault Refusal := .next s.rotatePass
def execPassScanStart (k : Nat) (s : State) : Host.Outcome State Fault Refusal := .next (s.scanStart k)
def execPassEnd (k : Nat) (signatureOk restoreOk : Bool) (s : State) : Host.Outcome State Fault Refusal :=
  .next (s.passEnd k signatureOk restoreOk)
def execTest (token : BitVec 16) (k : Nat) (s : State) : Host.Outcome State Fault Refusal := .next (s.bstTest token.toNat k)
def execClearRetired (token : BitVec 16) (k : Nat) (s : State) : Host.Outcome State Fault Refusal :=
  .next (s.bstClear token.toNat k)

end Sys2Proof.Machine
end

