-- ==== Sys2Proof/Machine/Outputs.lean ====
section
/-! DEFINITION. The outputs (R246 to R279): edges and their comparison with Weft, unmuting, TODOUT messages and GPPS. -/

namespace Sys2Proof.Machine

open Sys2Proof

/-! What the indications are now (R54, R268). -/

/-- clockClass in force (R54). -/
def State.clockClass (s : State) : Nat :=
  if s.md.drain then 248 else
  match s.md.mode with
  | .locked => 6
  | .holdover => if s.inBudget then 7 else 140
  | .maintain =>
    match s.md.origin with
    | some .locked => 7
    | some .holdover => if s.inBudget then 7 else 140
    | _ => 248
  | _ => 248

/-- A quantity in sns as ns, rounded up, held below the code of "not known". -/
def nsUp (x : Rat) : Nat := min 0xFFFFFFFF (x / 65536).ceil.toNat

/-- TE_EST (R268). -/
def State.teEst (s : State) : Nat :=
  match s.md.mode with
  | .locked => nsUp s.measured
  | .holdover => nsUp s.predicted
  | .maintain => nsUp s.predicted
  | _ => 0xFFFFFFFF

/-- SEL_ID: 31 = none. -/
def State.selId (s : State) : Nat := s.ref.sel.getD 31

/-! CLKOUT. -/

/-- CLKOUT_MONITOR_TRIP: cycles counted over a second of Weft, against the programmed count ±2 (R561). -/
def State.clkMonitor (s : State) (n counted : Nat) : State :=
  if !s.bit (cBase n) 31 || (s.clkAt n).muted then s else
  if |(counted : Rat) - clkFreq s.act n| ≤ 2 then s else s.muteClk n

/-- The instant of this whole second of Warp in ns of elapsed CLK_TIME, FRAC counted (R99). -/
def State.secondAt (s : State) : Rat := (s.now : Rat) - (s.tb.frac : Rat) / snsPerNs

/-- The first of an aligned output's edges at or after an instant: the whole second, moved by the phase in force (R248). -/
def State.alignedEdge (s : State) (c : ClkOut) (per from_ : Rat) : Rat :=
  let g := s.secondAt + c.phase / 1000
  if per = 0 then g else g + per * ((from_ - g) / per).ceil

/-- CLKOUT_REALIGN: at the first whole second at or after A on the new scale one low phase is lengthened (R251). -/
def State.clkRealign (s : State) (n : Nat) : State :=
  let c := s.clkAt n
  if !c.realign || decide (s.nsNow ≠ 0) then s
  else s.setClk n (fun c => { c with realign := false, aligned := !c.muted, next := s.alignedEdge c c.per c.next })

/-- A cycle of a CLKOUT begun at an instant, on the settings in force (R250): the format and the mute form change with it. -/
def State.clkBegin (s : State) (n : Nat) (c : ClkOut) (at_ per : Rat) : ClkOut :=
  { c with start := at_, next := at_ + per, per := per, fmt := s.fld (cBase n) 30 29, mz := s.bit (cBase n) 23 }

/-- One CLKOUT over one cycle of CLK_TIME (R246, R248, R250, R53): at the end of its cycle the next one begins on the settings in
force, or its mute form is taken; of cycles shorter than a nanosecond the latest begun stands. A divider at rest starts with the output's
enable, an aligned one at a whole second. -/
def State.clkTick (s : State) (n : Nat) (c : ClkOut) : ClkOut :=
  let en := s.bit (cBase n) 31
  let per := clkPeriod s.act n
  if c.per = 0 then
    if !en || (s.bit (cBase n) 28 && decide (s.nsNow ≠ 0)) then c
    else s.clkBegin n c (if s.bit (cBase n) 28 then s.alignedEdge c per s.now else s.now) per
  else if (s.now : Rat) < c.next then c
  else
    let mute := c.muted || s.wantMuted (.clk n)
    let late := if per = 0 then 0 else per * (((s.now : Rat) - c.next) / per).floor
    { s.clkBegin n c (c.next + late) per with per := if en then per else 0, muted := mute, aligned := c.aligned && !mute }

/-- A CLKOUT on settings newly in force at a whole second (R250): one at rest starts, a cycle that begins at this second is one of the
new settings, and a cycle in progress is completed before the first aligned edge. -/
def State.clkApply (s : State) (n : Nat) (c : ClkOut) : ClkOut :=
  let al := s.bit (cBase n) 28 && s.bit (cBase n) 31
  let per := clkPeriod s.act n
  let c1 := { c with aligned := al && !c.muted, realign := false }
  if c.per = 0 then s.clkTick n c1
  else if (s.now : Rat) - 1 < c.start then
    if s.bit (cBase n) 31 then s.clkBegin n c1 c.start per else { c1 with per := 0, muted := true }
  else if al then { c1 with next := s.alignedEdge c1 per c.next }
  else c1

/-! Unmuting. -/

/-- Whether GPPS may start a pulse in this cycle of CLK_TIME: its QERR, where the latest edge of CLK_GNSS has just left and is the
one nearest a whole second of the GNSS time solution (R270). -/
def State.gppsDue (s : State) : Option Int :=
  let edge := s.gns.clkNext - gnssPeriod
  match s.out.gppsZ with
  | none => none
  | some z =>
    let w : Int := (s.warpSns : Int) + z
    let n : Int := (w + snsPerSec / 2) / snsPerSec
    let q : Int := roundQ (((n * snsPerSec - w : Int) : Rat) + ((s.now : Rat) - edge) * snsPerNs)
    if decide ((s.now : Rat) - 1 < edge ∧ edge ≤ (s.now : Rat)) && decide (|q| ≤ 400392) then some q else none

/-- Whether this instant is one at which an output unmutes (R261): a CLKOUT with a rising edge, a PPSOUT or TODOUT at a whole second
of Warp, GPPS with its next pulse. -/
def State.unmuteInstant (s : State) : OutId → Bool
  | .clk n => decide ((s.clkAt n).per ≠ 0) && decide ((s.now : Rat) - 1 < (s.clkAt n).start)
  | .pps _ => decide (s.nsNow = 0)
  | .tod => decide (s.nsNow = 0)
  | .gpps => s.gppsDue.isSome

/-- OUTPUT_UNMUTE: the instant at which an output that may run unmutes (R261). -/
def State.unmute (s : State) (o : OutId) : State :=
  if s.wantMuted o || !s.outMuted o || !s.unmuteInstant o then s else
  let s1 := s.setMuted false o
  match o with
  | .clk n => s1.setClk n (fun c => { c with aligned := s1.bit (cBase n) 28 && !c.realign })
  | _ => s1

/-! Pulses. -/

/-- Whether an edge due now passes the comparison with Weft (R264, R556): no edge passes the closed gate (R557). -/
def State.edgePasses (s : State) : Bool := !s.fmu.gate && s.weftPasses (weftDiff s.tb.warp s.weftCmp)

/-- An edge suppressed whole and counted; a failed comparison closes the gate (R264, R557). -/
def State.suppressEdge (s : State) : State :=
  let s1 := s.count 0x80700
  if s1.fmu.gate then s1 else s1.gateTrip (weftDiff s1.tb.warp s1.weftCmp)

/-- The schedule of a PPSOUT in sns of Warp: the phase from which its periods count (R252, R256); none while it awaits its input. -/
def State.ppsPhase (s : State) (m : Nat) : Option Rat :=
  if s.bit (pBase m) 29 then (s.ppsAt m).inPhase.map (· + (s.ppsAt m).eff) else some (s.ppsAt m).eff

/-- The instant of the schedule that falls in this cycle of CLK_TIME, as sns after the cycle's edge (R252, R256, R257): a SET or
STEP moves Warp, so edges due before A stand on the old scale and later ones on the new. One that a slew has moved back over the cycle's
edge falls due at that edge (R255). -/
def State.ppsDue (s : State) (m : Nat) : Option Rat :=
  let per : Rat := ((s.reg (pBase m + 4)).toNat * snsPerNs : Nat)
  match s.ppsPhase m with
  | none => none
  | some ph =>
    let w : Rat := (s.warpSns : Rat)
    let d := ph + per * ((w - (s.ppsAt m).back - ph) / per).ceil - w
    if per ≠ 0 ∧ d < snsPerNs then some (max 0 d) else none

/-- PPS_EDGE: an active edge of a PPSOUT falls due (R252 to R257), placed to the nearest picosecond. One that falls due while the
pulse is active or within 4 ns of its end is skipped (R253); one that follows an input needs a schedule (R256). -/
def State.ppsEdge (s : State) (m : Nat) : State :=
  let p := s.ppsAt m
  let close := match p.endedAt with
    | some t => decide (s.now < t + 4)
    | none => false
  match s.ppsDue m with
  | none => s
  | some d =>
    if !s.bit (pBase m) 31 || p.muted || p.high || close then s
    else if !s.edgePasses then s.suppressEdge
    else s.setPps m (fun p => { p with high := true, width := (s.reg (pBase m + 8)).toNat, startedAt := s.now,
                                       fine := roundQ (d * 1000 / snsPerNs) })

/-- PPS_PULSE_END (R53, R253): WIDTH ns after the active edge. -/
def State.ppsEnd (s : State) (m : Nat) : State :=
  let p := s.ppsAt m
  if p.high && decide (p.startedAt + p.width ≤ s.now) then
    (s.setPps m (fun p => { p with high := false, endedAt := some s.now })).applyMute
  else s

/-- PPS_INPUT_LOST: no accepted edge for 2 × PERIOD (R256). -/
def State.ppsLost (s : State) (m : Nat) : State :=
  let b := pBase m
  if s.bit b 31 && s.bit b 29 && decide ((s.ppsAt m).inAt + 2 * (s.reg (b + 4)).toNat ≤ s.now) then
    s.setPps m (fun p => { p with inputLost := true, inGoal := p.inPhase.getD p.inGoal })
  else s

/-- OFFSET_SLEW_END: the slew of OFFSET or PHASE reaches its new value (R249, R255). -/
def State.ofsSlewEnd (s : State) : OutId → State
  | .pps m =>
    if (s.ppsAt m).slewing && (s.ppsAt m).eff == (s.pair (pBase m + 12) : Rat) then
      s.setPps m (fun p => { p with slewing := false })
    else s
  | .clk n =>
    if (s.clkAt n).slewing && (s.clkAt n).phase == (signed 32 (s.reg (cBase n + 16)).toNat : Rat) then
      s.setClk n (fun c => { c with slewing := false })
    else s
  | .tod => s
  | .gpps => s

/-! TODOUT. -/

/-- The header of a TODOUT message (R267). -/
def todHeader (typ len seq : Nat) : List Byte := [0xED, 0x54, BitVec.ofNat 8 typ, BitVec.ofNat 8 len] ++ leBytes 2 seq

/-- Bytes with their CRC-32 behind them. -/
def withCrc (bs : List Byte) : List Byte := bs ++ leBytes 4 (crc32 bs)

/-- The TIME message that labels the next whole second (R268). -/
def State.todTime (s : State) : List Byte :=
  let sec := s.secNow + 1
  let del := match s.tb.next with
    | some (_, d) => d
    | none => false
  let flags := b01 s.vBit + 2 * b01 s.tb.l + 4 * b01 del + 8 * b01 s.tb.stepFlag + 16 * b01 s.tb.slew.isSome + 32 * b01 s.inBudget
  let e := match s.tb.next with
    | some (e, _) => e
    | none => 0
  withCrc (todHeader 1 24 s.out.todSeq ++ leBytes 6 sec ++ leBytes 2 (unsigned 16 (leapOfs s.tb.leap sec)) ++
    [BitVec.ofNat 8 flags, BitVec.ofNat 8 s.md.mode.code, BitVec.ofNat 8 s.clockClass, BitVec.ofNat 8 s.selId] ++
    leBytes 4 s.teEst ++ leBytes 6 e ++ zeros 2)

/-- The GNSS message (R269): what the whole second latched of the next GPPS pulse, and the solution. -/
def State.todGnss (s : State) : List Byte :=
  let (sec, q) := s.out.gppsNext.getD (s.secNow + 1, s.out.qerr)
  let g := s.gns
  let flags := b01 g.sol.valid + 2 * b01 g.sol.dual + 4 * b01 (g.solMode == 3) + 8 * b01 (g.integ == .good)
  withCrc (todHeader 2 16 ((s.out.todSeq + 1) % 65536) ++ leBytes 6 sec ++ leBytes 4 (unsigned 32 q) ++
    [BitVec.ofNat 8 flags, BitVec.ofNat 8 g.sol.nsat] ++ leBytes 4 (Config.round ((g.sol.gtePs : Rat) / 1000)).toNat)

/-- TOD_MESSAGE_SEND: once in each second of Warp, TOD_DELAY after the whole second, or straight after a step that passed that
instant; a message that can no longer end 10 ms before its second is omitted (R266). -/
def State.todSend (s : State) : State :=
  let due := decide (s.nsNow = s.fld 0x80500 9 0 * 1000000) || s.out.todDue
  if !s.bit 0x80500 31 || s.out.todMuted || decide (s.now < s.out.todBusyUntil) || !due || s.out.todSec == some s.secNow then s
  else
    let baud := baudOf (s.fld 0x80500 23 21)
    let t1 := lineTime baud 34
    let t2 := lineTime baud 60
    let s0 := { s with out := { s.out with todSec := some s.secNow, todDue := false } }
    if nsPerSec < s.nsNow + t1 + 10000000 then s0.count 0x80710
    else
      let both := s.bit 0x80500 30 && s.gns.sol.valid && decide (s.nsNow + t2 + 10000000 ≤ nsPerSec)
      let msg := if both then s.todTime ++ s.todGnss else s.todTime
      let s1 := { s0 with out := { s0.out with todLast := msg, todSeq := (s.out.todSeq + (if both then 2 else 1)) % 65536,
                                               todAt := s.now, todRate := baud, todBusyUntil := s.now + (if both then t2 else t1) },
                          tb := { s.tb with stepFlag := false } }
      s1.countN 0x80708 (if both then 2 else 1)

/-! GPPS. -/

/-- GPPS_PULSE: the rising edge of a GNSS second (R270), compared with Weft first (R264). -/
def State.gppsPulse (s : State) : State :=
  if !s.bit 0x80600 31 || s.out.gppsMuted || decide (s.now < s.out.gppsHighUntil) || s.gppsDue.isNone then s
  else if !s.edgePasses then s.suppressEdge
  else { s with out := { s.out with gppsHighUntil := s.now + s.fld 0x80600 8 0 * 1000000 } }

/-- The edge of CLK_GNSS nearest whole second `n` of a GNSS time that stands at `w` now, and its QERR (R270): the edge in ns of elapsed
CLK_TIME. -/
def State.gppsEdge (s : State) (w n : Int) : Rat × Int :=
  let solved : Rat := (s.now : Rat) + ((n * snsPerSec - w : Int) : Rat) / snsPerNs
  let k : Int := ((solved - s.gns.clkNext) / gnssPeriod + 1 / 2).floor
  let edge := s.gns.clkNext + k * gnssPeriod
  (edge, roundQ ((solved - edge) * snsPerNs))

/-- The second that the next GPPS pulse marks and its QERR, by the schedule in force: the first pulse whose edge leaves after this second's
message is sent (R269, R270). -/
def State.gppsAhead (s : State) (z : Int) : Nat × Int :=
  let w : Int := (s.warpSns : Int) + z
  let wait := s.fld 0x80500 9 0 * 1000000
  let n : Int := (w + (wait * snsPerNs : Nat)) / snsPerSec
  let n := (([n, n + 1].find? fun n => decide ((s.now + wait : Nat) < (s.gppsEdge w n).1))).getD (n + 2)
  (n.toNat, (s.gppsEdge w n).2)

/-- GSEC and QERR latched at a whole second of Warp (R269, R270). -/
def State.latchGpps (s : State) : State :=
  match s.out.gppsZ with
  | some z => { s with out := { s.out with gppsNext := some (s.gppsAhead z), qerr := (s.gppsAhead z).2 } }
  | none => { s with out := { s.out with gppsNext := none } }

/-! What the balls drive (R262, R265, R273, R275, R277, R278). -/

/-- A level that is active or not, by its polarity. -/
def levelOf (active low : Bool) : Level := if active != low then .high else .low

/-- CLKOUTn_P and CLKOUTn_M: half of each cycle high (R246); muted, _P low and _M high of a differential pair, both low of an LVCMOS
pair in phase, or nothing with MZ = 1; FMT 3 drives no _M. FMT and MZ are those of the cycle in progress (R250). -/
def State.clkBalls (s : State) (n : Nat) : Level × Level :=
  let c := s.clkAt n
  let fmt := if c.per = 0 then s.fld (cBase n) 30 29 else c.fmt
  let mz := if c.per = 0 then s.bit (cBase n) 23 else c.mz
  let p := !c.muted && decide (c.per ≠ 0) && decide (c.start ≤ (s.now : Rat) ∧ (s.now : Rat) < c.start + c.per / 2)
  if c.muted && mz then (.hiZ, .hiZ)
  else (levelOf p false, if fmt = 3 then .hiZ else if fmt = 2 then levelOf p false else levelOf p true)

/-- PPSOUTm: POL gives the active level. -/
def State.ppsBall (s : State) (m : Nat) : Level :=
  let p := s.ppsAt m
  if p.muted && s.bit (pBase m) 20 then .hiZ else levelOf (p.high && !p.muted) (s.bit (pBase m) 30)

/-- The level of a line that sends bytes: idle high, a start bit, eight data bits with the least significant first, a stop bit. -/
def lineLevel (bytes : List Byte) (bit : Nat) : Bool :=
  match bytes[bit / 10]? with
  | none => true
  | some b => if bit % 10 = 0 then false else if bit % 10 = 9 then true else b.toNat / 2 ^ (bit % 10 - 1) % 2 == 1

/-- TODOUT. -/
def State.todBall (s : State) : Level :=
  if s.out.todMuted && s.bit 0x80500 25 then .hiZ
  else levelOf (!decide (s.now < s.out.todBusyUntil) || lineLevel s.out.todLast ((s.now - s.out.todAt) * s.out.todRate / nsPerSec)) false

/-- GPPS. -/
def State.gppsBall (s : State) : Level :=
  if s.out.gppsMuted && s.bit 0x80600 29 then .hiZ
  else levelOf (!s.out.gppsMuted && decide (s.now < s.out.gppsHighUntil)) (s.bit 0x80600 30)

def execPpsEdge (m : Nat) (s : State) : Host.Outcome State Fault Refusal := .next (s.ppsEdge m)
def execPpsPulseEnd (m : Nat) (s : State) : Host.Outcome State Fault Refusal := .next (s.ppsEnd m)
def execPpsInputLost (m : Nat) (s : State) : Host.Outcome State Fault Refusal := .next (s.ppsLost m)
def execOutputUnmute (o : OutId) (s : State) : Host.Outcome State Fault Refusal := .next (s.unmute o)
def execOffsetSlewEnd (o : OutId) (s : State) : Host.Outcome State Fault Refusal := .next (s.ofsSlewEnd o)
def execClkoutRealign (n : Nat) (s : State) : Host.Outcome State Fault Refusal := .next (s.clkRealign n)
def execClkoutMonitorTrip (n : Nat) (counted : Nat) (s : State) : Host.Outcome State Fault Refusal := .next (s.clkMonitor n counted)
def execTodMessageSend (s : State) : Host.Outcome State Fault Refusal := .next s.todSend
def execGppsPulse (s : State) : Host.Outcome State Fault Refusal := .next s.gppsPulse

end Sys2Proof.Machine
end

