-- ==== Sys2Proof/Machine/GnssBaseband.lean ====
section
/-! DEFINITION. The satellite baseband (R280 to R299, R310 to R322): the front-end script, gains and monitors, channels and
their placement, the epoch strobe, and what the window and the status latches show. -/

namespace Sys2Proof.Machine

open Sys2Proof

/-! Signals (R280). -/

def sigSys (g : Nat) : Nat := [0, 0, 1, 1, 2, 2, 2, 3, 4, 4, 5].getD g 6
def sigBandA (g : Nat) : Bool := g == 0 || g == 2 || g == 4 || g == 5 || g == 7 || g == 8
def sigReserved (g : Nat) : Nat := [12, 10, 12, 12, 14, 10, 10, 10, 4, 4, 6].getD g 0
def sigMax (g : Nat) : Nat := [16, 14, 16, 16, 20, 16, 16, 14, 7, 7, 8].getD g 0

/-- The chips of a signal's primary code, and its period in ms (R280). -/
def sigChips (g : Nat) : Nat := [1023, 10230, 4092, 10230, 2046, 10230, 10230, 511, 1023, 10230, 1023].getD g 0
def sigPeriod (g : Nat) : Nat := if g = 2 then 4 else if g = 5 then 10 else 1

/-- The carrier of a signal in units of 100 Hz; GLONASS by its frequency channel. -/
def sigCarrier (g : Nat) (fcn : Int) : Int :=
  if g = 4 then 15610980 else if g = 7 then 16020000 + 5625 * fcn else if sigBandA g then 15754200 else 11764500

/-- Whether a carrier lies more than 30 MHz from its band's centre (R282). -/
def State.outOfBand (s : State) (g : Nat) (fcn : Int) : Bool :=
  let fc : Int := ((s.reg (if sigBandA g then 0x90004 else 0x90008)).toNat * 10 : Nat)
  decide (300000 < |sigCarrier g fcn - fc|)

def State.sigEn (s : State) (g : Nat) : Bool := decide (g < 11) && s.bit 0x90040 g
def State.bandEn (s : State) (a : Bool) : Bool := s.bit 0x90000 (if a then 31 else 30)

/-- SIG_OOB: a signal, of GLONASS any frequency channel, lies outside its band (R282). -/
def State.sigOob (s : State) : Bool :=
  (List.range 11).any fun g =>
    if g = 7 then (List.range 14).any (fun k => s.outOfBand 7 ((k : Int) - 7)) else s.outOfBand g 0

def State.chan (s : State) (c : Nat) : Chan := s.gns.chans.getD c Chan.reset
def State.setChan (s : State) (c : Nat) (f : Chan → Chan) : State :=
  { s with gns := { s.gns with chans := updAt s.gns.chans c f } }

/-- The carrier of a channel is locked: TRACK, SYNC or TOW. -/
def ChState.locked : ChState → Bool
  | .track => true
  | .sync => true
  | .tow => true
  | _ => false

/-- STATE codes (R291). -/
def ChState.code : ChState → Nat
  | .idle => 0
  | .search => 1
  | .pullin => 2
  | .track => 3
  | .sync => 4
  | .tow => 5
  | .lost => 6

/-- The baseband is on: some signal is enabled (R317). -/
def State.gnsOn (s : State) : Bool := (List.range 11).any s.sigEn

/-- The baseband tracks: in ACQUIRE to FREERUN and in hardware in MAINTAIN, on and awake (R311, R317, R330). -/
def State.gnsLive (s : State) : Bool := s.md.mode.serving && !s.gns.asleep && s.gnsOn

/-- The modes in which Bodkin forms solutions (R311). -/
def State.gnsForms (s : State) : Bool := s.md.mode.running && !s.gns.asleep && !s.fmu.halted && s.gnsOn

/-- GIF_CLK (R283, R284, R311, R330): CLK_GNSS from the release of the boot shadow on, high for half of each cycle; held low while
asleep. -/
def State.gifClkBall (s : State) : Level :=
  let edge := if (s.now : Rat) < s.gns.clkNext then s.gns.clkNext - gnssPeriod else s.gns.clkNext
  levelOf (s.tb.running && !s.shadow && !s.gns.asleep && decide (edge ≤ (s.now : Rat) ∧ (s.now : Rat) < edge + gnssPeriod / 2)) false

/-- Every channel released (R291). -/
def State.releaseAll (s : State) : State := { s with gns := { s.gns with chans := List.replicate 192 Chan.reset } }

/-! The front-end script (R287, R288). -/

/-- The registers of one script entry. -/
def State.scrWord (s : State) (m k : Nat) : W32 := s.reg (0x91000 + 8 * m + 4 * k)

/-- GAIN of a band formed from the bits that entry `i` captured, where it is the entry that GNS_AGC_CFGb names (R288, R313): the code
times SCALE; one beyond its 16 bits is a free value. -/
def State.setGain (s : State) (a : Bool) (i : Nat) (w : W32) : State :=
  let cfg := s.reg (if a then 0x90010 else 0x90014)
  if bitsOf cfg 31 26 ≠ i then s else
  let g : Int := (bitsOf w (bitsOf cfg 25 21) (bitsOf cfg 20 16) : Nat) * signed 16 (bitsOf cfg 15 0)
  let (g, s) := if satS 16 g = g then (g, s) else (signed 16 s.draw.1, s.draw.2)
  if a then { s with gns := { s.gns with gainA := g } } else { s with gns := { s.gns with gainB := g } }

/-- A transaction shifted out on GIF_SPI_MOSI: so many bits of DATA (R287). -/
def State.spiSend (s : State) (i : Nat) : State :=
  { s with gns := { s.gns with spi := s.gns.spi ++ [(bitsOf (s.scrWord i 0) 28 24 + 1,
    BitVec.ofNat 32 (bitsOf (s.scrWord i 1) (bitsOf (s.scrWord i 0) 28 24) 0))] } }

/-- An AGC entry reached: shifted out, and repeated every 100 ms from then on (R288). -/
def State.agcEntry (s : State) (i : Nat) : State :=
  let s1 := s.spiSend i
  { s1 with gns := { s1.gns with scrAgc := s1.gns.scrAgc ++ [i] } }

/-- The end of the script with its code (R288, R321, R322): that of a failed CHECK stands in GNS_CTL_STAT whatever started the
script. -/
def State.scriptDone (s : State) (fail : Bool) : State :=
  let g := { s.gns with scrRun := false, scrWait := none, feFail := s.gns.feFail || fail, ctlCode := if fail then 0x30 else s.gns.ctlCode }
  let g := match g.scrToken with
    | some t => { g with scrToken := none, ctlToken := t, ctlCode := if fail then 0x30 else 0 }
    | none => g
  { s with gns := g }

/-- The script run on from entry `i` with the words that the transactions capture, for at most `n` entries. -/
def scriptRun : Nat → Nat → List W32 → State → State
  | 0, _, _, s => s.scriptDone false
  | n + 1, i, miso, s =>
    if 64 ≤ i then s.scriptDone false else
    let w := s.scrWord i 0
    let got := bitsOf (miso.headD 0) (bitsOf w 28 24) 0
    match bitsOf w 31 29 with
    | 1 => scriptRun n (i + 1) miso.tail (s.spiSend i)
    | 2 =>
      let m := bitsOf w 7 0
      if got % 256 &&& m = bitsOf w 23 16 then scriptRun n (i + 1) miso.tail (s.spiSend i) else (s.spiSend i).scriptDone true
    | 3 => { s with gns := { s.gns with scrIdx := i + 1, scrWait := some (s.now + (s.scrWord i 1).toNat * 1000) } }
    | 4 => scriptRun n (i + 1) miso.tail ((s.agcEntry i).setGain true i (BitVec.ofNat 32 got))
    | 5 => scriptRun n (i + 1) miso.tail ((s.agcEntry i).setGain false i (BitVec.ofNat 32 got))
    | _ => s.scriptDone false

/-- FE_SCRIPT_RUN: at entry to CALIBRATE, on a wake, or asked for by RERUN_SCRIPT (R288, R311, R332). -/
def State.feScript (s : State) (miso : List W32) : State :=
  let due := s.gns.scrRun && s.gns.scrWait.isNone
  if !due && (s.md.mode != .calibrate || s.gns.scrRun) then s else
  scriptRun 64 0 miso { s with gns := { s.gns with scrRun := true, scrIdx := 0, spi := [], spiAt := s.now, feFail := false, scrAgc := [] } }

/-- SCRIPT_WAIT_EXPIRE: the script resumes at the entry after its WAIT. -/
def State.scriptResume (s : State) (miso : List W32) : State :=
  match s.gns.scrWait with
  | some t =>
    if s.gns.scrRun && decide (t ≤ s.now) then
      scriptRun 64 s.gns.scrIdx miso { s with gns := { s.gns with scrWait := none, spi := [], spiAt := s.now } }
    else s
  | none => s

/-- The captured bits of an AGC entry. -/
def State.agcBits (s : State) (i : Nat) (w : W32) : W32 := BitVec.ofNat 32 (bitsOf w (bitsOf (s.scrWord i 0) 28 24) 0)

/-- AGC_READ: every AGC entry that the script has reached, in its order, every 100 ms, with the words that they capture (R288). -/
def State.agcRead (s : State) (miso : List W32) : State :=
  if s.gns.asleep || s.md.mode == .boot then s else
  let s := { s with gns := { s.gns with spi := [], spiAt := s.now } }
  (s.gns.scrAgc.zipIdx).foldl (fun s x =>
    (s.spiSend x.1).setGain (bitsOf (s.scrWord x.1 0) 31 29 == 4) x.1 (s.agcBits x.1 (miso.getD x.2 0))) s

/-- GIF_SPI_CS_N, GIF_SPI_SCLK and GIF_SPI_MOSI so many ns into a row of transactions (R286, R287, R312): mode 0, each bit on MOSI for a
cycle of SCLK of 4 × SPI_DIV ns with the rising edge in its middle, the first MSB; CS_N low 50 ns before and after, and high 1 µs between
them. -/
def spiPins (div : Nat) : List (Nat × W32) → Nat → Level × Level × Level
  | [], _ => (.high, .low, .low)
  | (bits, data) :: l, t =>
    let cyc := 4 * div
    let run := bits * cyc
    if t < 50 then (.low, .low, levelOf (data.getLsbD (bits - 1)) false)
    else if t < 50 + run then
      let k := (t - 50) / cyc
      (.low, levelOf (decide (2 * div ≤ (t - 50) % cyc)) false, levelOf (data.getLsbD (bits - 1 - k)) false)
    else if t < 100 + run then (.low, .low, levelOf (data.getLsbD 0) false)
    else if t < 1100 + run then (.high, .low, .low)
    else spiPins div l (t - (1100 + run))

/-- The SPI balls as they stand. -/
def State.spiBalls (s : State) : Level × Level × Level := spiPins (s.fld 0x90000 23 16) s.gns.spi (s.now - s.gns.spiAt)

/-- A 4-bit sample as FMT codes it: two's complement, or sign and magnitude (R285, R312). -/
def State.gifCode (s : State) (x : Nat) : Int :=
  if s.bit 0x90000 29 then (if 8 ≤ x then -((x % 8 : Nat) : Int) else x) else signed 4 x

/-- A complex sample as captured, I in bits 7:4 and Q in bits 3:0 of the balls; with IQ_INV Q is negated (R285). -/
def State.gifSample (s : State) (x : BitVec 8) : Int × Int :=
  let q := s.gifCode (x.toNat % 16)
  (s.gifCode (x.toNat / 16), if s.bit 0x90000 27 then -q else q)

/-- The rms magnitude of a millisecond's samples in 1/16 LSB, and the fraction of them at full scale in 1/256 (R289). -/
def State.sampleMonitor (s : State) (l : List (BitVec 8)) : Nat × Nat :=
  let xs := l.map s.gifSample
  let sq := (xs.map fun x => x.1 ^ 2 + x.2 ^ 2).foldl (· + ·) (0 : Int)
  let full := l.filter fun x => [x.toNat / 16, x.toNat % 16].any fun c => s.gifCode c == 7 || s.gifCode c == -8
  if l.isEmpty then (0, 0)
  else (min 255 (roundQ (16 * sqrtQ ((sq : Rat) / l.length))).toNat, min 255 (roundQ ((256 * full.length : Nat) / (l.length : Rat))).toNat)

/-- The balls as CAPT_EDGE captures them, of what they carry at each rising and falling edge of GIF_CLK (R285, R312). -/
def State.gifCapture (s : State) (l : List (BitVec 8 × BitVec 8)) : List (BitVec 8) :=
  l.map fun x => if s.bit 0x90000 28 then x.2 else x.1

/-- AGC_MONITOR_REPORT (R285, R289): of the bands captured, what the sample monitor formed of its last millisecond. -/
def State.agcReport (s : State) (a b : List (BitVec 8 × BitVec 8)) : State :=
  if s.gns.asleep || s.md.mode == .boot then s else
  let a := s.gifCapture a
  let b := s.gifCapture b
  let (ra, fa) := s.sampleMonitor a
  let (rb, fb) := s.sampleMonitor b
  let g := s.gns
  let g := if s.bandEn true then { g with rmsA := ra, fsA := fa } else g
  let g := if s.bandEn false then { g with rmsB := rb, fsB := fb } else g
  { s with gns := g }

/-! Placement (R281). -/

/-- The almanac of a system at hand, in memory or kept, no older than 30 days (R334). -/
def State.almOk (s : State) (sys : Nat) : Bool :=
  match (s.gns.alm.getD sys none).or (Assoc.get sys s.fe.kept.almanac) with
  | some t => decide (s.now < t + 30 * 86400 * nsPerSec)
  | none => false

/-- Whether an ephemeris is usable (R334): within its fit interval and no more than 4 h after its reference time by Warp, and before
time is set, when Warp cannot tell, for 4 h after it came. -/
def State.ephUsable (s : State) (e : Ephem) : Bool :=
  if s.md.timeSet || s.gns.firstValid then
    decide (e.fitFrom ≤ (s.secNow : Int) ∧ (s.secNow : Int) ≤ e.fitTo ∧ (s.secNow : Int) ≤ e.toe + 14400)
  else decide (s.now < e.at_ + 4 * 3600 * nsPerSec)

/-- A satellite's ephemeris at hand and usable (R300, R334). -/
def State.ephOk (s : State) (sys svid : Nat) : Bool := s.fe.kept.ephem.any fun e => e.sat == ⟨sys, svid⟩ && s.ephUsable e

/-- |p − q|² of two positions in cm. -/
def dist2 (p q : Int × Int × Int) : Int := (p.1 - q.1) ^ 2 + (p.2.1 - q.2.1) ^ 2 + (p.2.2 - q.2.2) ^ 2

/-- The position at hand: held, kept, or given by GNS_HOLD_X/Y/Z (R294, R334). -/
def State.posAtHand (s : State) : Option (Int × Int × Int) :=
  if s.fld 0x90044 27 26 = 1 then some ((s.reg 0x90050).toInt, (s.reg 0x90054).toInt, (s.reg 0x90058).toInt)
  else s.fe.kept.holdPos.or s.fe.kept.fix

/-- A position known to within 100 km (R294): one at hand, and no farther than that from the latest fix since reset, if there is one. -/
def State.posKnown (s : State) : Bool :=
  s.posAtHand.any fun p => !s.gns.firstValid || decide (dist2 p (s.gns.sol.posX, s.gns.sol.posY, s.gns.sol.posZ) ≤ 10000000 ^ 2)

/-- Warp known to within some nanoseconds of GNSS time: time is established, and the error that the network is shown is no larger
(R293, R294). -/
def State.warpWithin (s : State) (ns : Nat) : Bool :=
  (s.md.timeSet || s.gns.firstValid) && decide (s.shownError ≤ ((ns * snsPerNs : Nat) : Rat))

/-- Whether a channel's island is retired. -/
def State.chanRetired (s : State) (c : Nat) : Bool := (s.isl (if c < 96 then 7 else 8)).st == .retired

/-- The channels that placement may use: those of the islands not retired (R581). -/
def State.chanPool (s : State) : List Nat := (List.range 192).filter (fun c => !s.chanRetired c)

/-- Whether a satellite's signal may be placed: one whose system's almanac is at hand only while it is visible, and none of a satellite
that a search has lately exhausted (R291). -/
def State.placeable (s : State) (v : Visible) : Bool :=
  s.sigEn v.sig && s.bandEn (sigBandA v.sig) && !s.outOfBand v.sig v.fcn &&
  (!s.almOk (sigSys v.sig) || decide ((s.fld 0x90044 15 8 : Int) - 5 ≤ v.elev)) &&
  !s.gns.blocked.any (fun b => b.1 == sigSys v.sig && b.2.1 == v.svid && decide (s.now < b.2.2))

/-- The start type for the satellites in view: by the data at hand (R294, R336); on a wake, and on RERUN_SCRIPT where the ephemerides are
usable, by them alone (R335). -/
def State.startType (s : State) (sats : List Visible) : Nat :=
  let usable := (sats.filter s.placeable).all fun v => s.ephOk (sigSys v.sig) v.svid
  if usable && s.gns.startKind != 0 then 2
  else if s.gns.startKind = 1 then 1
  else if !(s.warpWithin (2 * nsPerSec) && s.posKnown && (List.range 6).any s.almOk) then 0
  else if usable && s.warpWithin 10000 then 2 else 1

/-- A list in the order of a key, by insertion. -/
def insertBy {α : Type} (k : α → Int) (a : α) : List α → List α
  | [] => [a]
  | b :: l => if k a < k b then a :: b :: l else b :: insertBy k a l
def sortBy {α : Type} (k : α → Int) (l : List α) : List α := l.foldl (fun acc a => insertBy k a acc) []

/-- The signals to be held: reserved counts first, then the pool, highest elevation first and band A before band B; where a system has
no almanac in ascending satellite number, after those that an almanac predicts. -/
def State.wantedSigs (s : State) (sats : List Visible) : List Visible :=
  let ok := (sats.filter s.placeable).eraseDups
  let key := fun (v : Visible) => if s.almOk (sigSys v.sig) then -2 * v.elev + (if sigBandA v.sig then 0 else 1) else (1000 + v.svid : Int)
  let ord := sortBy key ok
  let full := s.chanPool.length
  let half := decide (full < 192)
  let res := fun (g : Nat) => if half then (sigReserved g + 1) / 2 else sigReserved g
  let first := (List.range 11).flatMap fun g => (ord.filter (fun v => v.sig == g)).take (res g)
  let room := full - (if half then 4 else 8)
  let add := fun (acc : List Visible) (v : Visible) =>
    if acc.contains v || decide (room ≤ acc.length) || decide (sigMax v.sig ≤ (acc.filter (fun x => x.sig == v.sig)).length) then acc
    else acc ++ [v]
  ord.foldl add (first.take room)

/-- Half the Doppler window of a whole-code search in mHz (R293): the satellite's bound, and what the oscillator may be off. -/
def State.searchSpan (s : State) (v : Visible) : Nat :=
  let c := (sigCarrier v.sig v.fcn).toNat
  (if sigBandA v.sig then 4500000 else 3400000) + (if s.srv.followed then c / 1000 else c / 5)

/-- A channel set to search for a signal (R291, R293): over the whole code, or narrowed to ±10 µs of code and ±200 Hz about what
ephemeris, position and Warp predict, or about the code phase and Doppler kept on the channel that hands over (R22). -/
def State.searchChan (s : State) (v : Visible) (old : Option Nat) : Chan :=
  let c := { Chan.reset with st := .search, sig := v.sig, svid := v.svid, fcn := if v.sig = 7 then v.fcn else 0, since := s.now, elev := v.elev,
                             handover := old }
  match old with
  | some o => { c with narrow := true, dopC := (s.chan o).doppler, dopW := 200000, codeC := (s.chan o).ncoCode }
  | none =>
    if s.ephOk (sigSys v.sig) v.svid && s.posKnown && s.warpWithin 10000 then
      { c with narrow := true, dopC := v.dop, dopW := 200000, codeC := v.code }
    else { c with dopW := s.searchSpan v }

/-- One signal placed on the first free channel of the pool: a search, on a handover of a channel whose island is retired a narrowed
one (R22, R291). -/
def State.placeOne (s : State) (v : Visible) : State :=
  let onIt := fun (c : Chan) => c.st != .idle && c.sig == v.sig && c.svid == v.svid
  if s.chanPool.any (fun c => onIt (s.chan c)) then s else
  match s.chanPool.find? (fun c => (s.chan c).st == .idle) with
  | none => s
  | some c =>
    let old := (List.range 192).find? (fun o => s.chanRetired o && (s.chan o).st.locked && onIt (s.chan o))
    s.setChan c fun _ => s.searchChan v old

/-- Complete new almanacs taken, and kept in FeRAM each at most once an hour (R334). -/
def State.keepAlmanacs (s : State) (systems : List Nat) : State :=
  let put := fun (m : Assoc Nat) (k : Nat) => match Assoc.get k m with
    | some t => if s.now < t + 3600 * nsPerSec then m else Assoc.put k s.now m
    | none => Assoc.put k s.now m
  { s with fe := { s.fe with kept := { s.fe.kept with almanac := systems.foldl put s.fe.kept.almanac } },
           gns := { s.gns with alm := systems.foldl (fun m k => putAt m k (some s.now)) s.gns.alm } }

/-- START settled at the first placement of a start (R294, R335). -/
def State.settleStart (s : State) (sats : List Visible) : State :=
  let g := s.gns
  if g.startDue then { s with gns := { g with start := s.startType sats, startDue := false, startKind := 0 } } else s

/-- CHANNEL_PLACEMENT (R281, R288, R294, R336), with the systems whose almanac has come anew. The engine of island 6 makes every new
acquisition (R581). -/
def State.placement (s : State) (almanacs : List Nat) (sats : List Visible) : State :=
  if !s.gnsForms || s.gns.feFail || s.gns.scrRun then s else
  let s := ({ s with gns := { s.gns with seen := sats } }).keepAlmanacs almanacs |>.settleStart sats
  let want := s.wantedSigs sats
  let drop := fun (i : Nat) (c : Chan) =>
    c.st != .idle && (!want.any (fun v => v.sig == c.sig && v.svid == c.svid) || (s.chanRetired i && !c.st.locked))
  let s1 := { s with gns := { s.gns with chans := s.gns.chans.mapIdx (fun i c => if drop i c then Chan.reset else c) } }
  if s1.islandOut 6 then s1 else want.foldl (fun s v => s.placeOne v) s1

/-- The placement done again when TIME_SET has become 1 from another reference before the first valid solution (R336): the searches begin
anew, and START is settled again, with the data kept and the satellites of the last placement. -/
def State.redoPlacement (s : State) : State :=
  if !s.gns.redo then s else
  let g := { s.gns with redo := false, startDue := true, chans := s.gns.chans.map fun c => if c.st == .search then Chan.reset else c }
  if s.gns.startDue then { s with gns := { s.gns with redo := false } } else ({ s with gns := g }).placement [] s.gns.seen

/-! Channels (R291). -/

/-- A channel moved to a state. -/
def Chan.go (now : Nat) (st : ChState) (c : Chan) : Chan := { c with st := st, since := now }

/-- Whether a correlation peak lies in a channel's search window: its Doppler bin from the middle of the window, and its code in half
chips (R293). -/
def Chan.inWindow (c : Chan) (code : Nat) (bin : Int) : Bool :=
  let n := 2 * sigChips c.sig
  let d := ((code : Int) - c.codeC) % (n : Int)
  decide (code < n) && decide (bin.natAbs * (500000 / sigPeriod c.sig) ≤ c.dopW) &&
    (!c.narrow || decide (min d (n - d) * (sigPeriod c.sig * 1000 : Nat) ≤ 10 * (n : Int)))

/-- The detection threshold in 0.01 dB-Hz (R293). -/
def Chan.threshold (c : Chan) : Nat := if c.narrow then 2700 else 3200

/-- CHANNEL_DETECT: of 2 consecutive dwells each has its peak, as a C/N0, above the threshold; the NCOs are loaded (R291, R293). -/
def State.chanDetect (s : State) (ch peak1 peak2 code : Nat) (bin : Int) : State :=
  let c := s.chan ch
  if s.gnsLive && c.st == .search && !s.islandOut 6 && decide (c.threshold < peak1 ∧ c.threshold < peak2) && c.inWindow code bin then
    s.setChan ch fun c => { c.go s.now .pullin with ncoCode := code, ncoDop := c.dopC + bin * ((500000 / sigPeriod c.sig : Nat) : Int) }
  else s

/-- SEARCH_EXHAUSTED: the satellite counts as not visible for 60 s. -/
def State.chanExhausted (s : State) (ch : Nat) : State :=
  let c := s.chan ch
  if s.gnsLive && c.st == .search then
    let b := s.gns.blocked.filter (fun x => decide (s.now < x.2.2))
    ({ s with gns := { s.gns with blocked := b ++ [(sigSys c.sig, c.svid, s.now + 60 * nsPerSec)] } }).setChan ch (fun _ => Chan.reset)
  else s

def State.chanPullin (s : State) (ch : Nat) : State :=
  let c := s.chan ch
  if s.gnsLive && c.st == .pullin && decide (c.since + 100000000 ≤ s.now) then s.setChan ch (Chan.go s.now .track) else s

def State.chanPullinTimeout (s : State) (ch : Nat) : State :=
  let c := s.chan ch
  if s.gnsLive && c.st == .pullin && decide (c.since + 500000000 ≤ s.now) then s.setChan ch (Chan.go s.now .search) else s

def State.chanSync (s : State) (ch : Nat) : State :=
  if s.gnsLive && (s.chan ch).st == .track then s.setChan ch (fun c => { c.go s.now .sync with half := true }) else s

/-- TOW_DECODED; the handover of the channel, if it is the new one of a pair, is complete. -/
def State.chanTow (s : State) (ch : Nat) : State :=
  let c := s.chan ch
  if s.gnsLive && c.st == .sync then
    let s1 := s.setChan ch (fun c => { c.go s.now .tow with handover := none })
    match c.handover with
    | some o => (s1.setChan o (fun c => { c with handed := true })).count (gnsCtr 3)
    | none => s1
  else s

def State.chanLost (s : State) (ch : Nat) : State :=
  if s.gnsLive && (s.chan ch).st.locked then
    s.setChan ch (fun c => { c.go s.now .lost with lockMs := 0, half := false })
  else s

def State.chanRefound (s : State) (ch : Nat) : State :=
  let c := s.chan ch
  if s.gnsLive && c.st == .lost && decide (s.now ≤ c.since + 10 * nsPerSec) then
    s.setChan ch (fun c => { c.go s.now .track with slip := true })
  else s

def State.chanLostTimeout (s : State) (ch : Nat) : State :=
  let c := s.chan ch
  if s.gnsLive && c.st == .lost && decide (c.since + 10 * nsPerSec ≤ s.now) then s.setChan ch (fun _ => Chan.reset) else s

def State.chanSlip (s : State) (ch : Nat) : State :=
  if s.gnsLive && (s.chan ch).st.locked then
    (s.setChan ch (fun c => { c with slip := true, lockMs := 0 })).count (gnsCtr 2)
  else s

/-! The epoch strobe (R295 to R298). -/

/-- Nanoseconds between record sets by MEAS_RATE (R296, R317). -/
def State.measStep (s : State) : Nat := [1000000000, 500000000, 200000000, 100000000].getD (s.fld 0x90060 1 0) 1000000000

/-- Whether a channel's island is out of service, so that its channels are not USED (R575). -/
def State.chanOut (s : State) (c : Nat) : Bool := s.islandOut (if c < 96 then 7 else 8)

/-- A channel's latch taken (R292, R298): before TOW a transmit time is known modulo the primary code period alone. -/
def Chan.latch (c : Chan) (l : ChanLatch) : Chan :=
  if c.st == .idle then c else
  { c with cn0 := l.cn0, elev := l.elev, carrier := l.carrier, doppler := l.doppler,
           txtime := if c.st == .tow then l.txtime else l.txtime % (sigPeriod c.sig * 2 ^ 32),
           lockMs := if c.st.locked then l.lockMs else 0 }

/-- EPOCH_STROBE: at the first edge of CLK_GNSS after a whole millisecond of Warp every channel latches; at an epoch of MEAS_RATE a
record set is written, and at the whole second it goes to Bodkin, withheld where a commit or a script says so (R295, R296, R307,
R321). -/
def State.epoch (s : State) (code : Nat) (latch : List ChanLatch) : State :=
  let strobe := s.tb.warp / 1000000 * 1000000
  if !s.gnsLive || decide (12 < s.tb.warp - strobe) then s
  else if !s.tacReady 28 then s.tacMiss 28
  else
    let t := s.captureAt 28 code 0
    let ofs := (t - (strobe * snsPerNs : Nat)).toNat
    let s1 := s.tacBusy 28
    let s2 := latch.foldl (fun s l => s.setChan l.ch (fun c => c.latch l)) s1
    if strobe % nsPerSec % s.measStep ≠ 0 then s2 else
    let g := s2.gns
    let whole := decide (strobe % nsPerSec = 0)
    let flags := b01 (g.scaleSeen ≠ s2.tb.changes) + 2 * b01 (s2.bandEn true) + 4 * b01 (s2.bandEn false)
    let chans := g.chans.mapIdx (fun i c => { c with used := c.used && !s2.chanOut i })
    let set : RecSet := { time := s2.word (wrapTime t), sampleOfs := ofs, cnt := (g.setCnt + 1) % 2 ^ 32, agcA := g.gainA,
                          agcB := g.gainB, flags := flags, chans := chans }
    let after := chans.map (fun c => if c.handed then Chan.reset else { c with slip := false })
    { s2 with gns := { g with newest := some set, setNew := if whole then some (set, decide (0 < g.withhold)) else g.setNew,
                              withhold := if whole then g.withhold - 1 else g.withhold, scaleSeen := s2.tb.changes,
                              setCnt := (g.setCnt + 1) % 2 ^ 32, chans := after } }

/-! The window and the status latch (R299, R318). -/

/-- RECORD_SET_LOCK. -/
def State.recLock (s : State) (p : Path) : State := if s.shadow then s else s.setLat p (fun l => { l with recSet := s.gns.newest })

/-- Channels in a state for which a test holds. -/
def State.chansIn (s : State) (f : Chan → Bool) : Nat := (s.gns.chans.filter f).length

/-- GNS_STAT as it stands (R318). -/
def State.gnsStat (s : State) : W32 :=
  let g := s.gns
  BitVec.ofNat 32 (g.solMode * 2 ^ 29 + b01 g.sol.valid * 2 ^ 28 + b01 g.sol.dual * 2 ^ 27 + b01 g.posMismatch * 2 ^ 26 +
    g.start % 4 * 2 ^ 24 + min 255 g.sol.nsat * 2 ^ 16 + s.chansIn (fun c => c.st == .tow) * 2 ^ 8 + b01 g.feFail * 2 ^ 7 +
    b01 s.sigOob * 2 ^ 6 + b01 g.sol.clkSat * 2 ^ 5)

/-- GNS_STAT and the registers at 0x0009_0104 to 0x0009_0133 (R318, R319). -/
def State.gnsWords (s : State) : List W32 :=
  let x := s.gns.sol
  let w := fun (v : Int) => BitVec.ofInt 32 v
  let surveying := s.gns.solMode = 2
  [s.gnsStat, w x.time.sec, BitVec.ofNat 32 (x.time.sec / 2 ^ 32), BitVec.ofNat 32 x.time.ns,
   BitVec.ofNat 32 (x.time.sns * 4 + b01 x.valid * 2 + b01 x.time.l), w x.z, w (x.z / 2 ^ 32), w x.gtePs, w x.posX, w x.posY, w x.posZ,
   w x.posSig, w (if surveying then ((s.now - s.gns.surveyAt) / nsPerSec : Nat) else 0)]

/-- GNS_STAT_LATCH. -/
def State.gnsLatch (s : State) (p : Path) : State := if s.shadow then s else s.setLat p (fun l => { l with gns := s.gnsWords })

/-! GNS_CTL (R310, R321, R322). -/

def State.gnsCtl (s : State) (token code : Nat) : State := { s with gns := { s.gns with ctlToken := token, ctlCode := code } }

/-- Survey-in started afresh, with no position held. -/
def State.surveyStart (s : State) : State :=
  { s with gns := { s.gns with solMode := if s.gns.solMode = 0 then 0 else 2, surveyAt := s.now, surveyN := 0, surveySum := (0, 0, 0),
                               surveySq := 0, fixAvg := [] },
           fe := { s.fe with kept := { s.fe.kept with holdPos := none } } }

/-- RESURVEY. -/
def State.resurvey (s : State) (token : Nat) : State :=
  if s.noWrites then s
  else if s.fld 0x90044 27 26 ≠ 0 then s.gnsCtl token 0x20
  else if !s.md.mode.running then s.gnsCtl token 0x24
  else s.surveyStart.gnsCtl token 0

/-- The integrity state as after reset, with its exclusions cleared and the baselines kept (R328). -/
def State.integReset (s : State) : State :=
  let anew := s.gns.integ == .failed
  { s with gns := { s.gns with integ := .good, excls := [], exclTimes := [], clearSince := none, goodSince := none, raimRun := 0,
                               qDue := s.gns.qDue || anew, qAnch := s.gns.qAnch && !anew,
                               interfA := false, interfB := false, powerA := false, powerB := false, isbF := false, prdF := false,
                               coastF := false, raimF := false } }

/-- RERUN_SCRIPT: its code is given when the script ends. -/
def State.rerunScript (s : State) (token : Nat) : State :=
  if s.noWrites then s
  else if !s.md.mode.running then s.gnsCtl token 0x24
  else if s.gns.scrRun then s.gnsCtl token 0x25
  else
    let s1 := s.releaseAll.integReset
    { s1 with gns := { s1.gns with scrRun := true, scrIdx := 0, scrWait := none, scrToken := some token, withhold := 2,
                                   startDue := true, startKind := 2 } }

/-- COLD_START. -/
def State.coldStart (s : State) (token : Nat) : State :=
  if s.noWrites then s
  else if !s.md.mode.running then s.gnsCtl token 0x24
  else
    let s1 := s.releaseAll.integReset
    let k := { s1.fe.kept with almanac := [], ephem := [], holdPos := none, fix := none }
    ({ s1 with fe := { s1.fe with kept := k },
               gns := { s1.gns with start := 0, startDue := false, startKind := 0, alm := List.replicate 8 none, solMode := 0, surveyN := 0, surveySum := (0, 0, 0), surveySq := 0,
                                    fixAvg := [], firstValid := false } }).gnsCtl token 0

def execFeScriptRun (miso : List W32) (s : State) : Host.Outcome State Fault Refusal := .next (s.feScript miso)
def execScriptWaitExpire (miso : List W32) (s : State) : Host.Outcome State Fault Refusal := .next (s.scriptResume miso)
def execAgcRead (miso : List W32) (s : State) : Host.Outcome State Fault Refusal := .next (s.agcRead miso)
def execAgcMonitorReport (a b : List (BitVec 8 × BitVec 8)) (s : State) : Host.Outcome State Fault Refusal := .next (s.agcReport a b)
def execChannelPlacement (almanacs : List Nat) (sats : List Visible) (s : State) : Host.Outcome State Fault Refusal :=
  .next (s.placement almanacs sats)
def execChannelDetect (ch peak1 peak2 code : Nat) (bin : Int) (s : State) : Host.Outcome State Fault Refusal :=
  .next (s.chanDetect ch peak1 peak2 code bin)
def execSearchExhausted (ch : Nat) (s : State) : Host.Outcome State Fault Refusal := .next (s.chanExhausted ch)
def execPullinLock (ch : Nat) (s : State) : Host.Outcome State Fault Refusal := .next (s.chanPullin ch)
def execPullinTimeout (ch : Nat) (s : State) : Host.Outcome State Fault Refusal := .next (s.chanPullinTimeout ch)
def execSyncFound (ch : Nat) (s : State) : Host.Outcome State Fault Refusal := .next (s.chanSync ch)
def execTowDecoded (ch : Nat) (s : State) : Host.Outcome State Fault Refusal := .next (s.chanTow ch)
def execChannelLost (ch : Nat) (s : State) : Host.Outcome State Fault Refusal := .next (s.chanLost ch)
def execLostRefound (ch : Nat) (s : State) : Host.Outcome State Fault Refusal := .next (s.chanRefound ch)
def execLostTimeout (ch : Nat) (s : State) : Host.Outcome State Fault Refusal := .next (s.chanLostTimeout ch)
def execCycleSlip (ch : Nat) (s : State) : Host.Outcome State Fault Refusal := .next (s.chanSlip ch)
def execEpochStrobe (code : Nat) (latch : List ChanLatch) (s : State) : Host.Outcome State Fault Refusal := .next (s.epoch code latch)
def execResurvey (token : BitVec 16) (s : State) : Host.Outcome State Fault Refusal := .next (s.resurvey token.toNat)
def execRerunScript (token : BitVec 16) (s : State) : Host.Outcome State Fault Refusal := .next (s.rerunScript token.toNat)
def execColdStart (token : BitVec 16) (s : State) : Host.Outcome State Fault Refusal := .next (s.coldStart token.toNat)

end Sys2Proof.Machine
end

