-- ==== Sys2Proof/Machine/GnssIntegrity.lean ====
section
/-! DEFINITION. The solution and its integrity (R300 to R310, R323 to R341): exclusions, the checks, clock coasting, the
integrity state, delivery, survey-in, leap seconds and weeks, and the check-in sleep. -/

namespace Sys2Proof.Machine

open Sys2Proof

/-! Status words. -/

/-- A band's power test runs (R326): enabled, the band captured, SCALE not 0, a learnt baseline. -/
def State.powerRuns (s : State) (a : Bool) : Bool :=
  s.bit 0x90080 31 && s.bandEn a && s.fld (if a then 0x90010 else 0x90014) 15 0 != 0 && decide (3600 ≤ s.gns.baseN)

def Integ.code : Integ → Nat
  | .good => 0
  | .caution => 1
  | .failed => 2

/-- Clock coasting runs (R327): enabled, awake, the model learnt and q anchored. -/
def State.coastRuns (s : State) : Bool := s.bit 0x90080 28 && !s.gns.asleep && s.srv.learnt && s.gns.qAnch

/-- GNS_INT_STAT (R347). -/
def State.intStat (s : State) : W32 :=
  let g := s.gns
  BitVec.ofNat 32 (g.integ.code * 2 ^ 30 + b01 (!(s.powerRuns true || s.powerRuns false)) * 2 ^ 23 + b01 (!s.coastRuns) * 2 ^ 22 +
    b01 g.leapConflict * 2 ^ 21 + g.excls.length * 2 ^ 8 + b01 g.interfA * 2 ^ 7 + b01 g.interfB * 2 ^ 6 + b01 g.powerA * 2 ^ 5 +
    b01 g.powerB * 2 ^ 4 + b01 g.isbF * 2 ^ 3 + b01 g.prdF * 2 ^ 2 + b01 g.coastF * 2 + b01 g.raimF)

/-- Whether an exclusion covers a satellite (R324). -/
def Excl.covers (e : Excl) (sys svid : Nat) : Bool := e.sys == sys && (!e.sat || e.svid == svid)

/-- Whether a satellite is excluded, itself or with its system. -/
def State.excluded (s : State) (sys svid : Nat) : Bool := s.gns.excls.any (fun e => e.2.covers sys svid)

/-- Channels that an exclusion covers (R350). -/
def State.exclNch (s : State) (e : Excl) : Nat := s.chansIn (fun c => c.st != .idle && e.covers (sigSys c.sig) c.svid)

/-- The two words of an exclusion entry (R350). -/
def State.exclWords (s : State) (e : Excl) : Nat × Nat :=
  ((if e.sat then 1 else 2) * 2 ^ 30 + e.sys * 2 ^ 27 + e.svid % 256 * 2 ^ 19 + e.reason % 32 * 2 ^ 8 + min 255 (s.exclNch e), e.remain)

/-! Exclusions (R324, R325). -/

/-- The lowest empty entry of the table. -/
def State.exclFree (s : State) : Option Nat := (List.range 32).find? (fun k => (Assoc.get k s.gns.excls).isNone)

/-- An exclusion for a reason (bit 0 PRD, 1 RAIM, 2 ISB, 3 WEEK, 4 the third within 3,600 s), and whether the table was full. -/
def State.exclude (s : State) (sat : Bool) (sys svid bit : Nat) : State × Bool :=
  let g := s.gns
  match g.excls.find? (fun e => e.2.sat == sat && e.2.sys == sys && (!sat || e.2.svid == svid)) with
  | some (k, e) =>
    let long := decide (16 ≤ e.reason)
    let e1 := { e with reason := e.reason ||| 2 ^ bit, remain := if sat then (if long then 86400 else 300) else 0, passS := 0 }
    ({ s with gns := { g with excls := Assoc.put k e1 g.excls } }, false)
  | none =>
    match s.exclFree with
    | none => (s, true)
    | some k =>
      let times := g.exclTimes.filter (fun x => decide (s.now < x.2.2 + 3600 * nsPerSec)) ++ [(sys, svid, s.now)]
      let long := sat && decide (3 ≤ (times.filter (fun x => x.1 == sys && x.2.1 == svid)).length)
      let e : Excl := { sat := sat, sys := sys, svid := if sat then svid else 0, reason := 2 ^ bit + (if long then 16 else 0),
                        remain := if sat then (if long then 86400 else 300) else 0, passS := 0 }
      let s1 := ({ s with gns := { g with excls := Assoc.put k e g.excls, exclTimes := if sat then times else g.exclTimes } }).count (gnsCtr 4)
      let w := s1.exclWords e
      (s1.log 0x0009 (leBytes 4 w.1 ++ leBytes 4 w.2), false)

/-- Several exclusions for one reason, satellites or (svid 0) systems. -/
def State.excludeAll (s : State) (sat : Bool) (bit : Nat) (l : List SatId) : State × Bool :=
  l.foldl (fun a x => let r := a.1.exclude sat x.sys x.svid bit; (r.1, a.2 || r.2)) (s, false)

/-- A change of every exclusion in force. -/
def State.exclMap (s : State) (f : Excl → Excl) : State :=
  { s with gns := { s.gns with excls := s.gns.excls.map (fun e => (e.1, f e.2)) } }

/-- A second of the exclusions (R325): REMAIN counts down. -/
def State.exclTick (s : State) : State := s.exclMap fun e => { e with remain := e.remain - 1 }

/-- The tests of an epoch (R325): the seconds for which those of an exclusion have passed are counted. -/
def State.exclTests (s : State) (fails : Excl → Bool) : State := s.exclMap fun e => { e with passS := if fails e then 0 else e.passS + 1 }

/-- EXCLUSION_EXPIRE (R325). -/
def State.exclExpire (s : State) (k : Nat) : State :=
  match Assoc.get k s.gns.excls with
  | some e =>
    if s.gnsForms && e.remain == 0 && decide (60 ≤ e.passS) then
      { s with gns := { s.gns with excls := Assoc.del k s.gns.excls } }
    else s
  | none => s

/-! Weeks (R337, R338). -/

/-- The seconds from 1970 of a system's week 0 (of GLONASS, the start of its first four-year interval), by its own time. -/
def weekZero (sys : Nat) : Nat := [315964800, 935280000, 1136073600, 820454400, 315964800, 935280000].getD sys 0

/-- The range of a broadcast week count (R337). -/
def weekMod (m : WeekMeas) : Nat :=
  match m.sys with
  | 1 => 4096
  | 2 => 8192
  | 5 => 1024
  | _ => if m.l5 then 8192 else 1024

/-- TAI − UTC at a second of UTC, counted from 1970; of an empty table 0. -/
def leapAtUtc (tbl : List (Nat × Int)) (utc : Int) : Int :=
  match (tbl.filter fun x => decide ((x.1 : Int) - x.2 ≤ utc)).getLast? with
  | some x => x.2
  | none => (tbl.head?.map (·.2)).getD 0

/-- The floor in GPS weeks (R337). -/
def State.weekFloor (s : State) : Nat := max (s.fld 0x9008C 12 0) s.fe.kept.anchor

/-- What is added to a system's own time `t`, in seconds, to express it as TAI (R302). -/
def State.sysToTai (s : State) (sys : Nat) (t : Int) : Int :=
  if sys = 3 then -10800 + leapAtUtc s.tb.leap (t - 10800) else if sys = 2 then 33 else 19

/-- A system's time resolved to the earliest full week (of GLONASS the earliest day, by an interval number of five bits) at or after the
floor, as TAI in ns (R302, R337). -/
def State.resolveWeek (s : State) (m : WeekMeas) : Int :=
  if m.sys = 3 then
    let days : Nat := (m.week - 1) * 1461 + m.day - 1
    let fl := (weekZero 0 + s.weekFloor * 604800 - weekZero 3) / 86400
    let k := 32 * 1461
    let t := weekZero 3 + (if days < fl then days + ceilDiv (fl - days) k * k else days) * 86400
    ((t + s.sysToTai 3 (t + m.tow / nsPerSec)) * nsPerSec : Int) + m.tow
  else
    let k := weekMod m
    let fl := s.weekFloor - (weekZero m.sys - weekZero 0) / 604800
    let full := fl + (m.week % k + k - fl % k) % k
    ((weekZero m.sys + full * 604800 : Nat) + s.sysToTai m.sys 0) * nsPerSec + m.tow

/-- The rank of a week count by its length: BeiDou, GPS L5, Galileo, the others (R338). -/
def weekRank (m : WeekMeas) : Nat := if m.sys = 2 then 0 else if m.sys = 0 ∧ m.l5 then 1 else if m.sys = 1 then 2 else 3

/-- The systems to be excluded for their week at epoch `e` of Warp, in ns (R338); GLONASS is not judged without a leap table. -/
def State.weekBad (s : State) (e : Nat) (ms : List WeekMeas) : List SatId :=
  let ms := ms.filter fun m => m.sys != 3 || !s.tb.leap.isEmpty
  let bad := fun (t : Int) (strict : Bool) => (ms.filter (fun m =>
      let d := |s.resolveWeek m - t|
      if strict then decide ((nsPerSec : Int) < d) else decide ((nsPerSec : Int) ≤ d))).map (fun m => (⟨m.sys, 0⟩ : SatId))
  if s.established then (bad e true).eraseDups
  else match sortBy (fun m => (weekRank m : Int)) ms with
    | [] => []
    | m :: _ => ((bad (s.resolveWeek m) false).filter (fun x => x.sys != m.sys)).eraseDups

/-! Pseudorange against carrier (R326). -/

/-- One channel's figure taken into its last five epochs; the satellite when three of them failed. -/
def State.prdOne (s : State) (m : PrdMeas) : State × Option SatId :=
  let c := s.chan m.ch
  if (c.st == .sync || c.st == .tow) && decide (2000 ≤ c.lockMs) then
    let bad := decide (s.fld 0x90084 31 24 * 1000 < m.mm)
    let h := (c.prdFails ++ [bad]).drop (c.prdFails.length + 1 - 5)
    (s.setChan m.ch (fun c => { c with prdFails := h }),
      if 3 ≤ (h.filter id).length then some ⟨sigSys c.sig, c.svid⟩ else none)
  else (s, none)

/-- The test of every channel: the satellites that fail it. -/
def State.prdAll (s : State) (ms : List PrdMeas) : State × List SatId :=
  if !s.bit 0x90080 29 then ({ s with gns := { s.gns with prdF := false } }, []) else
  let r := ms.foldl (fun a m => let x := a.1.prdOne m; (x.1, a.2 ++ x.2.toList)) (s, [])
  ({ r.1 with gns := { r.1.gns with prdF := !r.2.isEmpty } }, r.2)

/-! Power against C/N0 (R326). -/

/-- The mean C/N0 of a band's channels in TRACK or later, 0.01 dB-Hz; 0 of none. -/
def State.meanCn0 (s : State) (a : Bool) : Rat :=
  meanQ ((s.gns.chans.filter (fun c => c.st.locked && sigBandA c.sig == a)).map (fun c => (c.cn0 : Rat)))

/-- One band's second: seconds low, seconds at full scale, the history of its mean C/N0, and the findings interference and
counterfeit power. -/
def State.powerBand (s : State) (a : Bool) (low full : Nat) (hist : List Rat) : Nat × Nat × List Rat × Bool × Bool :=
  let g := s.gns
  let gain := if a then g.gainA else g.gainB
  let base := if a then g.gainBaseA else g.gainBaseB
  let fs := if a then g.fsA else g.fsB
  let m := s.meanCn0 a
  let runs := s.powerRuns a
  let low := if runs && decide (gain < base - ((s.fld 0x90080 23 16 * 10 : Nat) : Int)) then low + 1 else 0
  let full := if runs && decide (16 < fs) then full + 1 else 0
  let drop := !hist.isEmpty && decide (m ≤ meanQ hist - 300)
  (low, full, (m :: hist).take 60, decide (3 ≤ full) || (decide (3 ≤ low) && drop), decide (3 ≤ low) && !drop)

/-- The power test of both bands. -/
def State.powerTest (s : State) : State :=
  let (la, fa, ha, ia, pa) := s.powerBand true s.gns.lowA s.gns.fullA s.gns.cn0HistA
  let (lb, fb, hb, ib, pb) := s.powerBand false s.gns.lowB s.gns.fullB s.gns.cn0HistB
  { s with gns := { s.gns with lowA := la, fullA := fa, cn0HistA := ha, interfA := ia, powerA := pa,
                               lowB := lb, fullB := fb, cn0HistB := hb, interfB := ib, powerB := pb } }

/-- The median of a list; of an even count the mean of the two in the middle. -/
def medianI (l : List Int) : Int :=
  let o := sortBy id l
  let n := o.length
  if n % 2 = 1 then o.getD (n / 2) 0 else Config.round (((o.getD (n / 2 - 1) 0 + o.getD (n / 2) 0 : Int) : Rat) / 2)

/-- An epoch with state GOOD taken into the baselines, which are kept every 3,600 s (R326, R334). -/
def State.baseline (s : State) : State :=
  if s.gns.integ != .good then s else
  let g := s.gns
  let h := (g.gainHist ++ [(s.now, g.gainA, g.gainB)]).filter (fun x => decide (s.now < x.1 + 86400 * nsPerSec))
  let own := decide (3600 ≤ h.length)
  let g1 := { g with gainHist := h, baseN := max g.baseN h.length,
                     gainBaseA := if own then medianI (h.map (·.2.1)) else g.gainBaseA,
                     gainBaseB := if own then medianI (h.map (·.2.2)) else g.gainBaseB }
  let k := s.fe.kept
  let k1 := if own && s.secNow % 3600 == 0 then
      { k with gainA := g1.gainBaseA, gainB := g1.gainBaseB, baseN := g1.baseN, script := s.scriptCrc } else k
  { s with gns := g1, fe := { s.fe with kept := k1 } }

/-! The solution with residual exclusion (R301, R326, R341). -/

/-- Within 60 s of a leap event, when no GLONASS measurement is used (R341). -/
def State.leapNear (s : State) (sec : Nat) : Bool :=
  (s.tb.leap.drop 1).any (fun e => decide (e.1 ≤ sec + 60 ∧ sec ≤ e.1 + 60))

/-- A channel's satellite. -/
def Chan.sat (c : Chan) : SatId := ⟨sigSys c.sig, c.svid⟩

/-- Whether a channel of a record set gives a usable measurement, but for its system's number of them (R300, R341): one that is handing
over gives none, since its successor does (R291), and none comes from an island out of service (R575). -/
def State.chanUsable (s : State) (sec : Nat) (gone : List SatId) (obs : List ChanObs) (i : Nat) (c : Chan) : Bool :=
  c.st == .tow && !c.handed && obs.any (fun o => o.ch == i) && !s.chanOut i && decide (s.fld 0x90044 7 0 * 100 ≤ c.cn0) && decide ((s.fld 0x90044 15 8 : Int) ≤ c.elev) &&
    s.ephOk c.sat.sys c.svid && !s.excluded c.sat.sys c.svid && !gone.contains c.sat && !(c.sat.sys == 3 && s.leapNear sec)

/-- A formation of the solution: the channels it uses, its satellites, its measurements and unknowns, and whether it is
dual-frequency. -/
structure Form where
  chs : List (Nat × Chan)
  sats : List SatId
  meas : Nat
  unknowns : Nat
  dual : Bool
  deriving DecidableEq, Repr

/-- The systems of some satellites. -/
def sysOf (l : List SatId) : List Nat := (List.range 6).filter fun k => l.any (fun x => x.sys == k)

/-- The unknowns of a solution over some satellites (R301). -/
def State.unknowns (s : State) (l : List SatId) : Nat :=
  1 + ((sysOf l).filter (· != s.fld 0x90044 31 29)).length + (if s.gns.solMode = 3 then 0 else 3)

/-- Whether a signal is the first, or either, of a pair of R300. -/
def pairFirst (g : Nat) : Bool := g == 0 || g == 2 || g == 5 || g == 8
def inPair (g : Nat) : Bool := pairFirst g || (decide (1 ≤ g) && pairFirst (g - 1))

/-- The formation over the usable measurements of a record set (R300, R301). -/
def State.form (s : State) (sec : Nat) (gone : List SatId) (obs : List ChanObs) (chans : List Chan) : Form :=
  let all := (chans.mapIdx fun i c => (i, c)).filter fun x => s.chanUsable sec gone obs x.1 x.2
  let satsOf := fun (l : List (Nat × Chan)) => (l.map (·.2.sat)).eraseDups
  let l := all.filter fun x => x.2.sat.sys == s.fld 0x90044 31 29 || decide (2 ≤ ((satsOf all).filter (fun y => y.sys == x.2.sat.sys)).length)
  let both := (satsOf l).filter fun y => l.any fun a => l.any fun b =>
    a.2.sat == y && b.2.sat == y && pairFirst a.2.sig && b.2.sig == a.2.sig + 1
  let dual := s.bit 0x90044 25 && decide (s.unknowns both < both.length)
  if dual then { chs := l.filter fun x => both.contains x.2.sat && inPair x.2.sig, sats := both, meas := both.length, unknowns := s.unknowns both, dual := true }
  else { chs := l, sats := satsOf l, meas := l.length, unknowns := s.unknowns (satsOf l), dual := false }

/-- The position held: kept from survey-in, or GNS_HOLD_X/Y/Z. -/
def State.holdPos (s : State) : Option (Int × Int × Int) :=
  match s.fld 0x90044 27 26 with
  | 0 => s.fe.kept.holdPos
  | 1 => some ((s.reg 0x90050).toInt, (s.reg 0x90054).toInt, (s.reg 0x90058).toInt)
  | _ => none

/-- One measurement of a solution: its satellite, the system time that it gives less Warp's at the antenna, in sns of TAI, the direction
in sns for each cm of position, and its variance in sns². -/
structure Pseudo where
  sat : SatId
  y : Rat
  ux : Rat
  uy : Rat
  uz : Rat
  var : Rat
  deriving DecidableEq, Repr

/-- A channel's transmit time as TAI in sns (R302, R337): the time of week (of day) latched, in the week of its system. -/
def State.txTai (s : State) (weeks : List WeekMeas) (c : Chan) : Rat :=
  match weeks.find? fun w => w.sys == sigSys c.sig with
  | none => 0
  | some w =>
    let tx : Rat := (c.txtime : Rat) * 10 ^ 6 / 2 ^ 32
    let cycle : Rat := ((if w.sys = 3 then 86400 else 604800 : Nat) * nsPerSec : Nat)
    let n : Int := (((w.tow : Rat) - tx) / cycle + 1 / 2).floor
    ((s.resolveWeek w : Rat) - w.tow + tx + n * cycle) * snsPerNs

/-- The measurement of one channel of a record set latched at `tm` (R300, R301, R303): t_a of its band, the broadcast ionospheric
correction where its system's parameters are known and the solution is of single frequency, and a quarter of the weight for GLONASS. -/
def State.meas (s : State) (i : SolInput) (tm : Nat) (single : Bool) (x : Nat × Chan) : Pseudo :=
  let c := x.2
  let o := (i.obs.find? fun o => o.ch == x.1).getD ⟨x.1, 0, 0, 0, 0, 0, 1⟩
  let ta : Int := (tm : Int) - s.pair 0x90068 - s.pair (if sigBandA c.sig then 0x90070 else 0x90078)
  let iono : Int := if single && (Assoc.get c.sat.sys s.fe.kept.iono).isSome then o.iono else 0
  let u := fun (v : Int) => (v : Rat) / 10 ^ 9 * (655360000000 / 299792458)
  { sat := c.sat, y := s.txTai i.weeks c + (o.path + iono - ta : Int), ux := u o.ux, uy := u o.uy, uz := u o.uz,
    var := ((max 1 o.sig) ^ 2 * (if c.sat.sys = 3 then 4 else 1) : Nat) }

/-- The ionosphere-free combination of a pair's measurements on two carriers (R300). -/
def ionoFree (fa fb : Rat) (a b : Pseudo) : Pseudo :=
  let d := fa ^ 2 - fb ^ 2
  { a with y := (fa ^ 2 * a.y - fb ^ 2 * b.y) / d, var := (fa ^ 4 * a.var + fb ^ 4 * b.var) / d ^ 2 }

/-- The measurements of a formation. -/
def State.measOf (s : State) (i : SolInput) (tm : Nat) (f : Form) : List Pseudo :=
  if f.dual then
    f.sats.filterMap fun y =>
      match f.chs.find? (fun x => x.2.sat == y && pairFirst x.2.sig) with
      | none => none
      | some a => match f.chs.find? (fun x => x.2.sat == y && x.2.sig == a.2.sig + 1) with
        | none => none
        | some b => some (ionoFree (sigCarrier a.2.sig a.2.fcn) (sigCarrier b.2.sig b.2.fcn) (s.meas i tm false a) (s.meas i tm false b))
  else f.chs.map (s.meas i tm true)

/-- A system of linear equations brought to its solution, row after row: each row holds what is left of its coefficients and then its right
sides; none where a pivot is 0, which of normal equations means that they are singular. -/
def solveRows : Nat → List (List Rat) → List (List Rat) → Option (List (List Rat))
  | 0, done, _ => some done
  | n + 1, done, (p :: r) :: rest =>
    if p = 0 then none else
    let q := r.map (· / p)
    let f := fun (x : List Rat) => List.zipWith (fun a b => a - x.headD 0 * b) x.tail q
    solveRows n (done.map f ++ [q]) (rest.map f)
  | _ + 1, _, _ => none

def dotQ (a b : List Rat) : Rat := (List.zipWith (· * ·) a b).foldl (· + ·) 0

/-- Weighted least squares (R301): the unknowns, their variances, and the residuals over their 1σ, squared, of measurements given by their
coefficients, value and variance. -/
def leastSquares (ms : List (List Rat × Rat × Rat)) : Option (List Rat × List Rat × List Rat) :=
  let n := ((ms.head?.map (·.1)).getD []).length
  let ix := List.range n
  let at_ := fun (l : List Rat) (k : Nat) => l.getD k 0
  let rows := ix.map fun a =>
    ix.map (fun b => (ms.map fun m => at_ m.1 a * at_ m.1 b / m.2.2).foldl (· + ·) 0) ++
    (ms.map fun m => at_ m.1 a * m.2.1 / m.2.2).foldl (· + ·) 0 :: ix.map fun b => if b = a then 1 else 0
  match solveRows n [] rows with
  | none => none
  | some r =>
    let x := r.map fun row => row.headD 0
    some (x, r.mapIdx fun k row => row.getD (k + 1) 0, ms.map fun m => (m.2.1 - dotQ m.1 x) ^ 2 / m.2.2)

/-- The square root of a quantity to the nearest integer. -/
def rootNear (x : Rat) : Nat :=
  let r := isqrt (4 * x).floor.toNat
  if ((r : Rat) ^ 2 = 4 * x) ∧ r % 2 = 1 then (roundQ ((r : Rat) / 2)).toNat else (r + 1) / 2

/-- The coefficients of a measurement (R301): the receiver clock, the offset of each other system, and the position unless it is held. -/
def Pseudo.coefs (m : Pseudo) (others : List Nat) (held : Bool) : List Rat :=
  1 :: others.map (fun k => if m.sat.sys = k then 1 else 0) ++ (if held then [] else [m.ux, m.uy, m.uz])

/-- A solution: the sum of its squared residuals over their variances and the satellite of the largest (R326), z by the nominal offset of
SYS_REF in sns (R303), the 1σ of the clock in ps by the covariance (R304), the offsets of the other systems (R306), and the position with
its standard deviation in cm, where one with the position among the unknowns can be formed. -/
structure Fit where
  stat : Rat
  worst : SatId
  z : Int
  gtePs : Nat
  isb : List SysOffset
  pos : Option ((Int × Int × Int) × Nat)
  deriving DecidableEq, Repr

/-- The position found beside `p0` by a solution with the position among its unknowns. -/
def fixOf (p0 : Int × Int × Int) (n : Nat) (r : List Rat × List Rat × List Rat) : (Int × Int × Int) × Nat :=
  let d := fun (k : Nat) => roundQ (r.1.getD (n + k) 0)
  ((p0.1 + d 0, p0.2.1 + d 1, p0.2.2 + d 2), rootNear (r.2.1.getD n 0 + r.2.1.getD (n + 1) 0 + r.2.1.getD (n + 2) 0))

/-- The solution of a formation (R301, R303, R304, R306), linear about `p0`; none where its equations are singular. -/
def State.fit (s : State) (i : SolInput) (tm : Nat) (f : Form) : Option Fit :=
  let ms := s.measOf i tm f
  let others := (sysOf f.sats).filter (· != s.fld 0x90044 31 29)
  let free := leastSquares (ms.map fun m => (m.coefs others false, m.y, m.var))
  let held := if s.gns.solMode = 3 then s.holdPos else none
  let main : Option (List Rat × List Rat × List Rat) := match held with
    | some h => leastSquares (ms.map fun (m : Pseudo) =>
        (m.coefs others true, m.y - (m.ux * (h.1 - i.p0.1 : Int) + m.uy * (h.2.1 - i.p0.2.1 : Int) + m.uz * (h.2.2 - i.p0.2.2 : Int)), m.var))
    | none => free
  match main with
  | none => none
  | some r =>
    let top := r.2.2.foldl max 0
    some { stat := r.2.2.foldl (· + ·) 0,
           worst := (((ms.zip r.2.2).find? fun x => x.2 == top).map (·.1.sat)).getD ⟨0, 0⟩,
           z := roundQ (r.1.headD 0), gtePs := rootNear (r.2.1.headD 0 * (1000 / 65536) ^ 2),
           isb := others.mapIdx fun k y => ⟨y, roundQ (r.1.getD (k + 1) 0)⟩,
           pos := free.map (fixOf i.p0 (others.length + 1)) }

/-- The 1 − 10^-5 quantile of the chi-square distribution in units of 10^-4, for 1 to 192 degrees of freedom (R326). -/
def chi2Table : List Nat :=
  [195114, 230259, 259017, 284733, 308562, 331071, 352585, 373316, 393407, 412962, 432060, 450761, 469116, 487161, 504930, 522450] ++
  [539743, 556829, 573725, 590446, 607003, 623410, 639675, 655808, 671818, 687710, 703492, 719170, 734749, 750234, 765631, 780942] ++
  [796172, 811325, 826404, 841412, 856353, 871227, 886039, 900791, 915484, 930122, 944705, 959236, 973717, 988148, 1002533, 1016871] ++
  [1031166, 1045417, 1059626, 1073795, 1087925, 1102016, 1116070, 1130088, 1144070, 1158018, 1171933, 1185814, 1199665, 1213484, 1227272, 1241031] ++
  [1254761, 1268463, 1282137, 1295784, 1309405, 1323000, 1336569, 1350114, 1363634, 1377131, 1390604, 1404055, 1417483, 1430889, 1444273, 1457637] ++
  [1470979, 1484302, 1497604, 1510886, 1524149, 1537394, 1550619, 1563827, 1577016, 1590187, 1603342, 1616479, 1629599, 1642702, 1655790, 1668861] ++
  [1681916, 1694956, 1707980, 1720989, 1733984, 1746964, 1759929, 1772880, 1785817, 1798740, 1811649, 1824545, 1837428, 1850298, 1863154, 1875998] ++
  [1888830, 1901649, 1914455, 1927250, 1940033, 1952804, 1965563, 1978311, 1991047, 2003772, 2016487, 2029190, 2041882, 2054564, 2067235, 2079896] ++
  [2092546, 2105187, 2117817, 2130437, 2143048, 2155648, 2168239, 2180821, 2193393, 2205956, 2218509, 2231054, 2243589, 2256116, 2268633, 2281142] ++
  [2293643, 2306134, 2318618, 2331093, 2343559, 2356018, 2368468, 2380910, 2393344, 2405771, 2418189, 2430600, 2443003, 2455399, 2467787, 2480167] ++
  [2492540, 2504906, 2517265, 2529616, 2541960, 2554297, 2566628, 2578951, 2591267, 2603577, 2615880, 2628176, 2640465, 2652748, 2665025, 2677295] ++
  [2689558, 2701816, 2714067, 2726311, 2738550, 2750782, 2763008, 2775228, 2787443, 2799651, 2811853, 2824050, 2836240, 2848425, 2860605, 2872778]

/-- Whether a sum of squared residuals stays within the quantile for its degrees of freedom; what the table's last digit leaves open is a
free value. -/
def chi2Passes (n : Nat) (x : Rat) : Bool :=
  match chi2Table[n - 1]? with
  | some q => decide (x ≤ ((2 * q - 1 : Nat) : Rat) / 20000) || (decide (x ≤ ((2 * q + 1 : Nat) : Rat) / 20000) && decide (x ≤ Config.chi2 n))
  | none => decide (x ≤ Config.chi2 n)

/-- The formation that stands, the satellites excluded by their residuals, and whether some residual test failed (R301, R326). -/
def State.raim (s : State) (i : SolInput) (set : RecSet) : Nat → List SatId → Option (Fit × Form) × List SatId × Bool
  | n, gone =>
    let tm := set.time.t
    let f := s.form (tm / snsPerSec) gone i.obs set.chans
    if f.meas ≤ f.unknowns then (none, gone, !gone.isEmpty)
    else match s.fit i tm f with
      | none => (none, gone, !gone.isEmpty)
      | some t =>
        if !s.bit 0x90080 27 || chi2Passes (f.meas - f.unknowns) t.stat then (some (t, f), gone, !gone.isEmpty)
        else match n with
          | 0 => (none, gone, true)
          | k + 1 => s.raim i set k (gone ++ [t.worst])

/-! Cross-system offsets (R306, R326). -/

/-- The broadcast offsets by SYS_REF, formed through GPS (R306). -/
def State.isbBcs (s : State) (bc : List SysOffset) : List (Option Int) :=
  let ref := s.fld 0x90044 31 29
  let fromGps := fun (k : Nat) => if k = 0 then some (0 : Int) else (bc.find? (fun x => x.sys == k)).map (·.ofs)
  (List.range 6).map fun k => if k = ref then some 0 else match fromGps k, fromGps ref with
    | some a, some b => some (a - b)
    | _, _ => none

/-- ISB_SOL, ISB_BC and the 10 s history of their differences after a formation (R306): a broadcast offset is formed through GPS, and
SYS_REF's own offsets are 0. -/
def State.isbTake (s : State) (t : Fit) (f : Form) (bc : List SysOffset) : State :=
  let ref := s.fld 0x90044 31 29
  let used := sysOf f.sats
  let sol := (List.range 6).map fun k =>
    if k = ref then some 0 else if used.contains k then (t.isb.find? (fun x => x.sys == k)).map (·.ofs) else none
  let bcs := s.isbBcs bc
  let hist := (List.range 6).map fun k =>
    match sol.getD k none, bcs.getD k none with
    | some a, some b => if k = ref ∧ !used.contains k then [] else ((s.gns.isbHist.getD k []) ++ [a - b]).drop ((s.gns.isbHist.getD k []).length + 1 - 10)
    | _, _ => []
  { s with gns := { s.gns with isbSol := sol, isbBc := bcs, isbHist := hist } }

/-- An epoch without a formation: no system is used (R306). -/
def State.isbNone (s : State) (bc : List SysOffset) : State :=
  { s with gns := { s.gns with isbSol := (List.range 6).map (fun k => if k = s.fld 0x90044 31 29 then some 0 else none), isbBc := s.isbBcs bc,
                               isbHist := List.replicate 6 [] } }

/-- The tolerance of a system, in sns. -/
def State.isbTol (s : State) (k : Nat) : Rat := ((s.fld 0x90080 15 0 * snsPerNs * (if k = 3 then 4 else 1) : Nat) : Rat)

/-- Every sub-list. -/
def subLists : List Nat → List (List Nat)
  | [] => [[]]
  | a :: l => (subLists l).flatMap fun x => [x, a :: x]

/-- The cross-system test: fails, gives FAILED, and the systems to be excluded. -/
def State.isbTest (s : State) : Bool × Bool × List SatId :=
  let ref := s.fld 0x90044 31 29
  let d := fun (k : Nat) => if k = ref then 0 else meanQ ((s.gns.isbHist.getD k []).map (fun x => (x : Rat)))
  let ks := (List.range 6).filter fun k => k == ref || !(s.gns.isbHist.getD k []).isEmpty
  if !s.bit 0x90080 30 || ks.all (fun k => decide (|d k| ≤ s.isbTol k)) then (false, false, []) else
  let agree := fun (g : List Nat) => g.all fun a => g.all fun b => decide (|d a - d b| ≤ max (s.isbTol a) (s.isbTol b))
  let groups := (subLists ks).filter agree
  let top := groups.foldl (fun m g => max m g.length) 0
  match groups.filter (fun g => g.length == top) with
  | [g] => if 2 ≤ top then (true, !g.contains ref, (ks.filter (fun k => !g.contains k)).map (fun k => ⟨k, 0⟩)) else (true, true, [])
  | _ => (true, true, [])

/-! Clock coasting (R327). -/

/-- q anchored to 0 at a solution of phase z. -/
def State.qAnchor (s : State) (z : Int) : State :=
  { s with gns := { s.gns with q := 0, qDue := false, qAnch := true, qPrevAt := some s.now, qPrevZ := z, qStep := s.tb.stepSum,
                               qFreq := 0, qAt := s.now, qHist := [(s.now, 0)], slope := 0 } }

/-- COAST_RATE + u_y, a fraction. -/
def State.coastRate (s : State) : Rat := (s.fld 0x90084 11 0 : Rat) / 10 ^ 12 + (s.modelU.uy : Rat) / 10 ^ 15

/-- q moved to an epoch with a solution, and its two tests. -/
def State.coast (s : State) (z : Int) : State :=
  match s.gns.qPrevAt with
  | some t =>
    if !s.gns.qAnch then { s with gns := { s.gns with coastF := false } } else
    let dq : Rat := ((z - s.gns.qPrevZ : Int) : Rat) + s.gns.qFreq + ((s.tb.stepSum - s.gns.qStep : Int) : Rat)
    let q := s.gns.q + dq
    let win := s.fld 0x90088 27 16
    let h := (s.gns.qHist ++ [(s.now, q)]).filter (fun x => decide (s.now ≤ x.1 + win * nsPerSec))
    let slope := (fitLine (h.map (fun x => (((x.1 : Rat) - (s.now : Rat)) / nsPerSec, x.2)))).2 / sSns
    let g := s.secsSince t
    let step := decide (((s.fld 0x90084 23 12 * snsPerNs : Nat) : Rat) + s.coastRate * (g - 1) * sSns < |dq|)
    let rate := decide (60 ≤ h.length) && decide (s.coastRate < |slope|)
    { s with gns := { s.gns with q := q, qPrevAt := some s.now, qPrevZ := z, qStep := s.tb.stepSum, qFreq := 0, qHist := h, slope := slope,
                                 coastF := s.coastRuns && (step || rate) } }
  | none => { s with gns := { s.gns with coastF := false } }

/-! Leap announcements (R134, R135, R339, R340). -/

/-- The rules of R134 for a table. -/
def leapOk : List (Nat × Int) → Bool
  | [] => true
  | [(e, o)] => decide (((e : Int) - o) % 86400 = 0)
  | (e, o) :: (e', o') :: l =>
    decide (((e : Int) - o) % 86400 = 0) && decide (e < e') && decide (o' = o + 1 ∨ o' = o - 1) && leapOk ((e', o') :: l)

/-- An announcement put into a table at a SEC (R135): of the entries not yet reached, as few as possible, next to each other, give way so
that it stands with the others by the rules of R134. -/
def leapMerge (tbl : List (Nat × Int)) (sec e : Nat) (o : Int) : Option (List (Nat × Int)) :=
  match tbl with
  | [] => none
  | f :: rest =>
    let past := f :: rest.filter (fun x => decide (x.1 ≤ sec))
    let ahead := rest.filter (fun x => decide (sec < x.1))
    let put := fun (l : List (Nat × Int)) => past ++ l.filter (fun x => decide (x.1 < e)) ++ [(e, o)] ++ l.filter (fun x => decide (e < x.1))
    let n := ahead.length
    if tbl.contains (e, o) ∨ e ≤ sec ∨ sec + 366 * 86400 < e then none else
    ((List.range (n + 1)).flatMap fun k => (List.range (n + 1 - k)).map fun i => put (ahead.take i ++ ahead.drop (i + k))).find? leapOk

/-- The announcements decoded identically from two satellites of a system; GLONASS is not heard. -/
def heardLeaps (l : List LeapAnn) : List (Nat × Nat × Int) :=
  let l := l.filter (fun a => a.sat.sys != 3)
  ((l.filter (fun a => l.any (fun b => b.sat.sys == a.sat.sys && b.sat.svid != a.sat.svid && b.e == a.e && b.ofs == a.ofs))).map
    (fun a => (a.sat.sys, a.e, a.ofs))).eraseDups

/-- The announcements of one valid solution at its second taken into the table, none while systems conflict; MISMATCH tells that an entry
of the image gave way (R138). -/
def State.takeLeaps (s : State) (sec : Nat) (l : List LeapAnn) : State :=
  let hs := heardLeaps l
  let clash := fun (a : Nat × Nat × Int) => l.any fun b => b.sat.sys != 3 && b.sat.sys != a.1 && decide (b.e ≤ a.2.1) && b.ofs != a.2.2
  let s1 := { s with gns := { s.gns with leapConflict := hs.any clash } }
  let s2 := (if hs.any clash then [] else hs).foldl (fun s a =>
    match leapMerge s.tb.leap sec a.2.1 a.2.2 with
    | some t =>
      let gone := s.tb.leap.any fun x => !t.contains x && !s.tb.leapAdded.contains x.1
      { s with tb := { s.tb with leap := t, leapAdded := s.tb.leapAdded ++ [a.2.1], leapGnss := true, mismatch := s.tb.mismatch || gone } }
    | none => s) s1
  s2.refreshLeap

/-- An empty table seeded from SYS_REF's current offset at the solution's own second, accepted as an announcement is (R340). -/
def State.seedLeap (s : State) (sec : Nat) (l : List LeapAnn) : State :=
  let ok := fun (a : Nat × Nat × Int) => a.1 == s.fld 0x90044 31 29 && decide (a.2.1 ≤ sec + 366 * 86400) && leapOk [(a.2.1, a.2.2)] &&
    !l.any (fun b => b.sat.sys != 3 && b.sat.sys != a.1 && decide (b.e ≤ a.2.1) && b.ofs != a.2.2)
  match (heardLeaps l).find? ok with
  | some a =>
    if s.tb.leap.isEmpty then
      ({ s with tb := { s.tb with leap := [(a.2.1, a.2.2)], leapAdded := [a.2.1], leapGnss := true } }).refreshLeap
    else s
  | none => s

/-! Survey-in and position hold (R308, R309). -/

/-- The mean of positions, rounded to a centimetre. -/
def meanPos (n : Nat) (sum : Int × Int × Int) : Int × Int × Int :=
  let f := fun (x : Int) => roundQ ((x : Rat) / (n : Rat))
  (f sum.1, f sum.2.1, f sum.2.2)

def addPos (p q : Int × Int × Int) : Int × Int × Int := (p.1 + q.1, p.2.1 + q.2.1, p.2.2 + q.2.2)

/-- The variance of the mean of survey-in in cm² (R308). -/
def State.surveyVar (s : State) : Rat :=
  let n := s.gns.surveyN
  if n ≤ 1 then 0 else ((s.gns.surveySq : Rat) - (dist2 s.gns.surveySum (0, 0, 0) : Rat) / n) / ((n - 1) * n)

/-- The end of survey-in: the mean becomes the hold position, and is kept. -/
def State.surveyEnd (s : State) : State :=
  { s with gns := { s.gns with solMode := 3, fixAvg := [] },
           fe := { s.fe with kept := { s.fe.kept with holdPos := some (meanPos s.gns.surveyN s.gns.surveySum),
                                                      holdSig := (roundQ (sqrtQ s.surveyVar)).toNat } } }

/-- The end of survey-in at 10 × SURVEY_MIN, whatever the epoch brought (R308). -/
def State.surveyLimit (s : State) : State :=
  if s.gns.solMode = 2 ∧ 0 < s.gns.surveyN ∧ s.gns.surveyAt + 10 * s.fld 0x90048 31 15 * nsPerSec ≤ s.now then s.surveyEnd else s

/-- A fix added to the running mean, and the end of survey-in. -/
def State.surveyStep (s : State) (p : Int × Int × Int) : State :=
  let n := s.gns.surveyN + 1
  let sum := addPos s.gns.surveySum p
  let sq := s.gns.surveySq + dist2 p (0, 0, 0)
  let s1 := { s with gns := { s.gns with surveyN := n, surveySum := sum, surveySq := sq } }
  let var := s1.surveyVar
  let smin := s.fld 0x90048 31 15
  let acc : Rat := (s.fld 0x90048 13 0 : Rat)
  if smin ≤ n ∧ var ≤ acc ^ 2 then s1.surveyEnd else s1.surveyLimit

/-- A fix beside a held position, averaged over 60 s. -/
def State.holdCheck (s : State) (f : Form) (h p : Int × Int × Int) : State :=
  let beyond := f.unknowns + (if s.gns.solMode = 3 then 3 else 0) + 5
  let l := if beyond ≤ f.sats.length then s.gns.fixAvg ++ [p] else []
  if l.length < 60 then { s with gns := { s.gns with fixAvg := l } } else
  let m := meanPos 60 (l.foldl addPos (0, 0, 0))
  let tol : Int := (s.fld 0x9004C 13 0 * 100 : Nat)
  let far := decide (tol ^ 2 < dist2 m h)
  let s1 := { s with gns := { s.gns with fixAvg := [] } }
  if s.fld 0x90044 27 26 = 1 then { s1 with gns := { s1.gns with posMismatch := far, solMode := if far then 1 else 3 } }
  else if far then s1.surveyStart else s1

/-- The position part of a valid solution. -/
def State.positionStep (s : State) (t : Fit) (f : Form) : State :=
  match s.fld 0x90044 27 26, s.holdPos, t.pos.map (·.1) with
  | 2, _, _ => { s with gns := { s.gns with solMode := 1 } }
  | 0, none, some p =>
    let s1 := if s.gns.solMode = 2 then s else { s with gns := { s.gns with solMode := 2, surveyAt := s.now, surveyN := 0,
                                                                            surveySum := (0, 0, 0), surveySq := 0 } }
    s1.surveyStep p
  | 1, some h, some p => s.holdCheck f h p
  | _, some h, some p => ({ s with gns := { s.gns with solMode := 3 } }).holdCheck f h p
  | _, _, none => { s with gns := { s.gns with fixAvg := [] } }
  | _, none, _ => s

/-! The epoch. -/

/-- EXCL and USED of the channels, and of the record set from which the solution was formed. -/
def State.markChans (s : State) (used : List Nat) (set : RecSet) : State :=
  let f := fun (i : Nat) (c : Chan) =>
    if c.st == .idle then c else
    { c with excl := s.excluded (sigSys c.sig) c.svid, used := c.st == .tow && !s.chanOut i && used.contains i }
  let newest := s.gns.newest.map (fun r => if r.cnt = set.cnt then { r with chans := r.chans.mapIdx f } else r)
  { s with gns := { s.gns with chans := s.gns.chans.mapIdx f, newest := newest } }

/-- GTE in ps (R304): from the covariance, with the uncertainty of a held position, and no less than 1 ns. -/
def State.gteOf (s : State) (t : Fit) : Nat := max 1000 (if s.gns.solMode = 3 then Config.heldGte t.gtePs s.fe.kept.holdSig else t.gtePs)

/-- The registers of a formation (R303, R319): GNS_SOL holds E + z, and z saturates in GNS_CLKERR. -/
def State.solRegs (s : State) (t : Fit) (f : Form) (e z : Int) (valid : Bool) : State :=
  let held := if s.gns.solMode = 3 then s.holdPos else none
  let x := s.gns.sol
  let fix := t.pos.getD ((x.posX, x.posY, x.posZ), x.posSig)
  let p := held.getD fix.1
  let x : Sol := { valid := valid, dual := f.dual, nsat := f.sats.length, time := s.word (wrapTime (e + z)), z := satS 64 z,
                   clkSat := satS 64 z != z, gtePs := s.gteOf t, posX := p.1, posY := p.2.1, posZ := p.2.2,
                   posSig := if held.isSome then s.fe.kept.holdSig else fix.2 }
  { s with gns := { s.gns with sol := x, sysUsed := (List.range 6).map (fun k => (f.sats.filter (fun y => y.sys == k)).length) },
           out := { s.out with gppsZ := if valid then some z else none } }

/-- An epoch without a valid solution (R305): a mean of fixes begins anew (R309). -/
def State.noSolution (s : State) : State :=
  ({ s with gns := { s.gns with sol := { s.gns.sol with valid := false }, noSol := s.gns.noSol + 1, fixAvg := [] },
            out := { s.out with gppsZ := none } }).count (gnsCtr 1)

/-- The integrity state after the checks (R328). -/
def State.integStep (s : State) (fail raimNone : Bool) : State :=
  let g := s.gns
  let quiet := g.excls.isEmpty && !(g.interfA || g.interfB || g.powerA || g.powerB || g.isbF || g.prdF || g.coastF || g.raimF)
  let g1 := { g with clearSince := if fail then none else some (g.clearSince.getD s.now),
                     goodSince := if quiet then some (g.goodSince.getD s.now) else none }
  let s1 := { s with gns := g1 }
  if fail then
    let s2 := { s1 with gns := { s1.gns with integ := .failed } }
    if g.integ == .failed then s2 else (s2.count (gnsCtr 5)).log 0x0008 (leBytes 4 s2.intStat.toNat)
  else if g.integ == .good && (!g.excls.isEmpty || g.interfA || g.interfB || raimNone) then
    { s1 with gns := { s1.gns with integ := .caution } }
  else s1

/-- What a valid solution keeps (R309, R334) and brings (R305, R336). -/
def State.keepSol (s : State) (t : Fit) : State :=
  let k := s.fe.kept
  let day := s.gns.integ == .good && k.anchorAt.all fun a => decide (a + 86400 * nsPerSec ≤ s.now)
  let k1 := { k with fix := if k.fix.isNone || s.secNow % 600 == 0 then (t.pos.map (·.1)).or k.fix else k.fix,
                     anchor := if day then max k.anchor ((s.secNow - 315964819) / 604800) else k.anchor,
                     anchorAt := if day then some s.now else k.anchorAt }
  let g := s.gns
  { s with fe := { s.fe with kept := k1 }, gns := { g with firstValid := true, noSol := 0 } }

/-- The check-in window: z of the last 60 s of it summed (R332). -/
def State.chkTake (s : State) (z : Int) : State :=
  match s.gns.winAt with
  | some t =>
    let ends := t + s.fld 0x90090 28 17 * nsPerSec
    if ends ≤ s.now + 60 * nsPerSec ∧ s.now ≤ ends then
      { s with gns := { s.gns with chkSum := s.gns.chkSum + z, chkN := s.gns.chkN + 1 } }
    else s
  | none => s

/-- The conditions that end a cycle of check-in sleep when they cease (R331): CHK_EN, LOCKED, and another reference in SEL. -/
def State.chkCycle (s : State) : Bool :=
  s.bit 0x90090 31 && s.md.mode == .locked && (match s.ref.sel with
    | some k => k != 8
    | none => false)

/-- The conditions of R330 for a sleep. -/
def State.chkWants (s : State) : Bool :=
  s.chkCycle && s.gns.integ != .failed && (s.gns.solMode == 3 || s.fld 0x90044 27 26 != 0)

/-- An awake window opened when the conditions of a sleep come to hold, and dropped with its cycle (R331). -/
def State.chkWindow (s : State) : State :=
  if s.gns.asleep then s
  else if !s.chkCycle then { s with gns := { s.gns with winAt := none } }
  else if s.gns.winAt.isNone && s.chkWants then { s with gns := { s.gns with winAt := some s.now, chkSum := 0, chkN := 0 } }
  else s

/-- New broadcast data kept: ephemerides, each in the place of its satellite's last, and ionosphere and UTC parameters (R334). -/
def State.keepData (s : State) (i : SolInput) : State :=
  let k := s.fe.kept
  let old := k.ephem.filter fun e => !i.ephem.any (fun x => x.sat == e.sat)
  { s with fe := { s.fe with kept := { k with
      ephem := old ++ i.ephem.map fun x => { sat := x.sat, toe := x.toe, fitFrom := x.fitFrom, fitTo := x.fitTo, at_ := s.now },
      utcOfs := i.utcOfs.foldl (fun m x => Assoc.put x.sys x.ofs m) k.utcOfs,
      iono := i.iono.foldl (fun m x => Assoc.put x.1 x.2 m) k.iono } } }

/-- What REF_SCALE = 1 adds to TAI `g`, in sns, by SYS_REF's nominal offset (R302): its UTC realisation and TAI − UTC in place of it. -/
def State.utcShift (s : State) (g : Int) : Int :=
  let ref := s.fld 0x90044 31 29
  if !s.bit 0x90044 28 then 0 else
  let leap := leapOfs s.tb.leap (g / snsPerSec).toNat
  (Assoc.get ref s.fe.kept.utcOfs).getD 0 + (leap - (if ref = 3 then -10800 + leap else s.sysToTai ref 0)) * snsPerSec

/-- z of a formation at t_a of its epoch (R302, R303). -/
def State.zOf (s : State) (t : Fit) (ta : Int) : Int := t.z + s.utcShift (ta + t.z)

/-- Whether week and UTC parameters that a formation needs are known (R302, R305). -/
def State.timeKnown (s : State) (f : Form) (i : SolInput) : Bool :=
  let needs := s.bit 0x90044 28 || (sysOf f.sats).contains 3
  (sysOf f.sats).all (fun k => i.weeks.any (fun w => w.sys == k)) && !(needs && s.tb.leap.isEmpty) &&
    (!s.bit 0x90044 28 || (Assoc.get (s.fld 0x90044 31 29) s.fe.kept.utcOfs).isSome)

/-- A formed solution after its checks: delivered when valid (R305, R323). -/
def State.deliver (s : State) (t : Fit) (f : Form) (i : SolInput) (usable : Bool) (e z : Int) : State :=
  let valid := usable && decide (s.gteOf t ≤ (s.reg 0x9005C).toNat * 1000) && s.gns.integ != .failed && s.timeKnown f i
  let s1 := s.solRegs t f e z valid
  let sec := ((e + z) / snsPerSec).toNat
  if !valid then s1.noSolution.seedLeap sec i.seed else
  let s2 := if s1.gns.qDue && s1.gns.integ != .failed then s1.qAnchor z else s1
  let s3 := ((((s2.keepSol t).positionStep t f).takeLeaps sec i.leaps).seedLeap sec i.seed).chkTake z
  (s3.count (gnsCtr 0)).refMeasure 8 (.phase z)

/-- The monitors of REF ID 8 that act when the integrity state fails (R191, R329). -/
def State.integMonitor (s : State) : State :=
  if s.gns.integ == .failed then s.monitorFails 8 fun r => { r with integ := true, qlf := true } else s

/-- The solution of one whole-second epoch from its record set, in the order of R323; `held`: withheld (R307). -/
def State.solve (s : State) (i : SolInput) (set : RecSet) (held : Bool) : State :=
  let tm := set.time.t
  let e : Nat := tm / snsPerSec * snsPerSec
  let sec := e / snsPerSec
  let s := s.keepData i
  let weeks := s.weekBad (sec * nsPerSec) i.weeks
  let (s1, f1) := s.excludeAll false 3 weeks
  let (s2, prd) := s1.prdAll i.prd
  let (s3, f2) := s2.excludeAll true 0 prd
  let s4 := s3.powerTest
  let (sol, gone, rf) := s4.raim i set (s4.fld 0x90088 31 30) []
  let (s5, f3) := s4.excludeAll true 1 gone
  let raimNone := rf && sol.isNone
  let s6 := { s5 with gns := { s5.gns with raimF := rf, raimRun := if raimNone then s5.gns.raimRun + 1 else 0 } }
  let ta : Int := (tm : Int) - s6.pair 0x90068
  let s7 := match sol with
    | some (t, f) => s6.isbTake t f i.bc
    | none => s6.isbNone i.bc
  let (isbF, isbFail, out) := if sol.isSome then s7.isbTest else (false, false, [])
  let (s8, f4) := s7.excludeAll false 2 out
  let s9 := { s8 with gns := { s8.gns with isbF := isbF } }
  let s10 := match sol with
    | some (t, _) => s9.coast (s9.zOf t ta)
    | none => s9
  let fail := f1 || f2 || f3 || f4 || s10.gns.powerA || s10.gns.powerB || decide (3 ≤ s10.gns.raimRun) || isbFail || s10.gns.coastF
  let s11 := (s10.integStep fail raimNone).integMonitor
  let bad := fun (x : Excl) => weeks.any (fun w => !x.sat && w.sys == x.sys) || prd.any (fun w => x.sat && w == ⟨x.sys, x.svid⟩) ||
    i.exclFail.any (fun w => w.sys == x.sys && w.svid == x.svid)
  let s12 := (s11.exclTests bad).markChans (match sol with
    | some (_, f) => f.chs.map (·.1)
    | none => []) set
  let s13 := match sol with
    | some (t, f) => s12.deliver t f i (set.flags % 2 == 0 && !held) (e : Int) (s12.zOf t ta)
    | none => s12.noSolution
  s13.baseline

/-- GNSS_SOLUTION (R296, R305, R311, R323, R333): q takes the pull on the frequency and the exclusions a second at every epoch (R325,
R327), those of an epoch without its tests as failed; asleep, epochs withheld go by as well (R307). -/
def State.gnssSolution (s : State) (i : SolInput) : State :=
  let s := s.qAccrue
  let s := if s.md.mode.serving then s.exclTick else s
  let idle := s.exclTests (fun _ => true)
  if s.md.mode == .maintain then
    { idle with gns := { idle.gns with noSol := s.gns.noSol + 1, sol := { s.gns.sol with valid := false }, setNew := none, fixAvg := [] } }
  else if !s.md.mode.running || s.fmu.halted then s
  else if s.gns.asleep then
    (({ idle with gns := { idle.gns with withhold := s.gns.withhold - 1 } }).noSolution.count (gnsCtr 7)).applyMute
  else
    let s1 := match s.gns.setNew with
      | some (set, held) => ({ s with gns := { s.gns with setNew := none } }).solve i set held
      | none => idle.noSolution
    s1.surveyLimit.chkWindow.applyMute

/-- INTEG_CLEAR_EXPIRE (R328). -/
def State.integClear (s : State) : State :=
  match s.gns.clearSince with
  | some t =>
    if s.gnsForms && s.gns.integ == .failed && decide (t + s.fld 0x90088 11 0 * nsPerSec ≤ s.now) then
      { s with gns := { s.gns with integ := .caution, qDue := true, qAnch := false } }
    else s
  | none => s

/-- INTEG_GOOD_RETURN (R328). -/
def State.integGood (s : State) : State :=
  match s.gns.goodSince with
  | some t =>
    if s.gnsForms && s.gns.integ == .caution && s.gns.excls.isEmpty && decide (t + 60 * nsPerSec ≤ s.now) then
      { s with gns := { s.gns with integ := .good } }
    else s
  | none => s

/-! Check-in sleep (R330 to R333). -/

/-- CHECKIN_SLEEP (R330, R332): the window judged, and the baseband put to sleep with its data kept, where the conditions of a sleep hold;
where they do not, the cycle begins anew with the next window. -/
def State.chkSleep (s : State) : State :=
  match s.gns.winAt with
  | some t =>
    if s.gns.asleep || !s.chkCycle || decide (s.now < t + s.fld 0x90090 28 17 * nsPerSec) then s else
    let g := s.gns
    let mean : Rat := if g.chkN = 0 then 0 else (g.chkSum : Rat) / g.chkN / snsPerNs
    let fail := g.chkN != 0 && decide (((s.fld 0x90094 19 0 : Nat) : Rat) < |mean|)
    let k := s.fe.kept
    let k1 := { k with fix := if g.sol.valid then some (g.sol.posX, g.sol.posY, g.sol.posZ) else k.fix,
                       almanac := g.alm.zipIdx.foldl (fun m x => match x.1 with | some t => Assoc.put x.2 t m | none => m) k.almanac }
    let s1 := { s with gns := { g with chkZ := if g.chkN = 0 then g.chkZ else roundQ mean, chkFail := g.chkFail || fail,
                                       chkNosol := g.chkNosol || decide (g.chkN < 30) } }
    if !s.chkWants then { s1 with gns := { s1.gns with winAt := none } } else
    ({ s1 with gns := { s1.gns with asleep := true, wakeDue := false, scrRun := false, scrWait := none },
               fe := { s.fe with kept := k1 } }).releaseAll
  | none => s

/-- The baseband woken: the front-end script runs, and q is anchored anew. -/
def State.wake (s : State) (win : Option Nat) : State :=
  { s with gns := { s.gns with asleep := false, wakeDue := false, winAt := win, chkSum := 0, chkN := 0, scrRun := true, scrIdx := 0,
                               scrWait := none, scrAgc := [], qDue := true, qAnch := false, startDue := true, startKind := 1 } }

/-- CHECKIN_WAKE: CHK_PERIOD after the start of the window before, at a whole second of Warp. -/
def State.chkWake (s : State) : State :=
  match s.gns.winAt with
  | some t =>
    if s.gns.asleep && decide (t + s.fld 0x90090 16 0 * nsPerSec ≤ s.now) && decide (s.nsNow = 0) then (s.wake (some s.now)).count (gnsCtr 6) else s
  | none => s

/-- CHECKIN_EARLY_WAKE: at the next whole second of Warp (R331). -/
def State.chkEarly (s : State) : State := if s.gns.asleep && s.gns.wakeDue && decide (s.nsNow = 0) then s.wake none else s

def execGnssSolution (i : SolInput) (s : State) : Host.Outcome State Fault Refusal := .next (s.gnssSolution i)
def execExclusionExpire (k : Nat) (s : State) : Host.Outcome State Fault Refusal := .next (s.exclExpire k)
def execIntegClearExpire (s : State) : Host.Outcome State Fault Refusal := .next s.integClear
def execIntegGoodReturn (s : State) : Host.Outcome State Fault Refusal := .next s.integGood
def execCheckinSleep (s : State) : Host.Outcome State Fault Refusal := .next s.chkSleep
def execCheckinWake (s : State) : Host.Outcome State Fault Refusal := .next s.chkWake
def execCheckinEarlyWake (s : State) : Host.Outcome State Fault Refusal := .next s.chkEarly

end Sys2Proof.Machine
end

