-- ==== Sys2Proof/Machine/Frames.lean ====
section
/-! DEFINITION. Frames as bytes: what the classifier parses (R356, R362, R366), the checksums of R366, R367 and R420, the
check tag's CRC (R431), and how a response is framed (R438, R460). -/

namespace Sys2Proof.Machine

open Sys2Proof

/-! Checksums. -/

/-- The one's-complement sum of 16-bit words in network order; an odd byte at the end counts as a high byte. -/
def sum16 : List Byte → Nat
  | [] => 0
  | [a] => a.toNat * 256
  | a :: b :: l => a.toNat * 256 + b.toNat + sum16 l

/-- A sum folded to 16 bits with its carries put back. -/
def fold16 (n : Nat) : Nat := if n = 0 then 0 else (n - 1) % 65535 + 1

/-- The Internet checksum of bytes. -/
def inetSum (bs : List Byte) : Nat := 65535 - fold16 (sum16 bs)

/-- The pseudo-header of a transport checksum over IPv4 or IPv6. -/
def pseudo (v6 : Bool) (src dst : List Byte) (proto len : Nat) : List Byte :=
  if v6 then src ++ dst ++ beBytes 4 len ++ [0, 0, 0, BitVec.ofNat 8 proto] else src ++ dst ++ [0, BitVec.ofNat 8 proto] ++ beBytes 2 len

/-- A checksum as UDP writes it: 0x0000 as 0xFFFF. -/
def udpWritten (c : Nat) : Nat := if c = 0 then 0xFFFF else c

/-- A checksum field corrected by the one's-complement difference of the bytes it covers (R420). -/
def sumAdjust (field before after : Nat) : Nat := 65535 - fold16 (65535 - field + (65535 - fold16 before) + fold16 after)

/-- Bytes put over a list at a position. -/
def splice (bs : List Byte) (i : Nat) (new : List Byte) : List Byte := bs.take i ++ new ++ bs.drop (i + new.length)

/-- CRC-32C, one bit and one byte of it (R431). -/
def crc32cBit (c : Nat) : Nat := if c % 2 = 1 then (c / 2) ^^^ 0x82F63B78 else c / 2
def crc32cByte (c : Nat) (b : Byte) : Nat :=
  crc32cBit (crc32cBit (crc32cBit (crc32cBit (crc32cBit (crc32cBit (crc32cBit (crc32cBit (c ^^^ b.toNat))))))))

/-- CRC-32C of bytes. -/
def crc32c (bs : List Byte) : Nat := (bs.foldl crc32cByte 0xFFFFFFFF) ^^^ 0xFFFFFFFF

/-! Parsing. -/

/-- The number in two bytes of a frame. -/
def be2 (bs : List Byte) (i : Nat) : Nat := ofBe (slice bs i 2)

/-- The VLAN tags of a frame: 0x8100 or 0x88A8, and 0x8100 directly inside it. -/
def frameTags (bs : List Byte) : List (Nat × Nat) :=
  let t := be2 bs 12
  if t = 0x8100 ∨ t = 0x88A8 then
    if be2 bs 16 = 0x8100 then [(t, be2 bs 14), (0x8100, be2 bs 18)] else [(t, be2 bs 14)]
  else []

/-- The IPv6 headers passed over: at most two of hop-by-hop, routing and destination options, ending within 256 bytes (R362).
Answers the next header, its offset, the final destination, and whether it went too deep; `k` headers may still be passed. -/
def skipV6 (ip : List Byte) : Nat → Nat → Nat → List Byte → Nat × Nat × List Byte × Bool
  | k, nh, o, dst =>
    if nh = 0 ∨ nh = 43 ∨ nh = 60 then
      match k with
      | 0 => (nh, o, dst, true)
      | k + 1 =>
        let n := (((ip.getD (o + 1) 0).toNat) + 1) * 8
        if 256 < o + n ∨ ip.length < o + n then (nh, o, dst, true) else
        let left := (ip.getD (o + 3) 0).toNat
        let dst' := if nh = 43 ∧ left ≠ 0 then slice ip (o + n - 16) 16 else dst
        skipV6 ip k (ip.getD o 0).toNat (o + n) dst'
    else (nh, o, dst, false)

/-- What an IPv4 datagram gives the rules; the fields before it are filled in. -/
def parseV4 (p : Pkt) (ip : List Byte) : Pkt :=
  let ihl := (ip.getD 0 0).toNat % 16 * 4
  let tot := be2 ip 2
  if ip.length < 20 ∨ (ip.getD 0 0).toNat / 16 ≠ 4 ∨ ihl < 20 ∨ tot < ihl ∨ ip.length < tot then p else
  let frag := decide (be2 ip 6 % 0x4000 ≠ 0)
  let proto := (ip.getD 9 0).toNat
  let l4 := slice ip ihl (tot - ihl)
  let udp := if !frag && proto == 17 && decide (8 ≤ l4.length) then some (be2 l4 0, be2 l4 2, be2 l4 4) else none
  { p with ipOk := true, srcIp := slice ip 12 4, dstIp := slice ip 16 4, finalDst := slice ip 16 4, proto := proto,
           dscp := (ip.getD 1 0).toNat / 4, hop := (ip.getD 8 0).toNat, frag := frag, udp := udp, l4 := l4,
           payload := match udp with
             | some (_, _, n) => (l4.take n).drop 8
             | none => [] }

/-- What an IPv6 datagram gives the rules. -/
def parseV6 (p : Pkt) (ip : List Byte) : Pkt :=
  let len := be2 ip 4
  if ip.length < 40 ∨ ip.length < 40 + len then p else
  let ip := ip.take (40 + len)
  let first := (ip.getD 6 0).toNat
  let (nh, o, dst, deep) := skipV6 ip 2 first 40 (slice ip 24 16)
  let frag := nh == 44
  let shallow := frag || deep
  let l4 := ip.drop o
  let udp := if !shallow && nh == 17 && decide (8 ≤ l4.length) then some (be2 l4 0, be2 l4 2, be2 l4 4) else none
  { p with v6 := true, ipOk := true, srcIp := slice ip 8 16, dstIp := slice ip 24 16, finalDst := dst, proto := if shallow then first else nh,
           dscp := ((ip.getD 0 0).toNat % 16 * 16 + (ip.getD 1 0).toNat / 16) / 4, hop := (ip.getD 7 0).toNat, frag := frag, deep := deep,
           udp := udp, l4 := l4,
           payload := match udp with
             | some (_, _, n) => (l4.take n).drop 8
             | none => [] }

/-- A frame without its FCS as the classifier parses it (R362). -/
def parseFrame (bs : List Byte) : Pkt :=
  let tags := frameTags bs
  let o := 12 + 4 * tags.length
  let et := be2 bs o
  let p : Pkt := { dst := ofBe (slice bs 0 6), src := ofBe (slice bs 6 6), tags := tags, etype := et, l3 := o + 2, v6 := false,
                   ipOk := false, srcIp := [], dstIp := [], finalDst := [], proto := 0, dscp := 0, hop := 0, frag := false,
                   deep := false, udp := none, l4 := [], payload := [] }
  if et = 0x0800 then parseV4 p (bs.drop (o + 2))
  else if et = 0x86DD then parseV6 p (bs.drop (o + 2))
  else { p with payload := bs.drop (o + 2) }

/-- Whether a parsed frame passes the checks of R366. -/
def sumsOk (bs : List Byte) (p : Pkt) : Bool :=
  if !p.ipOk then true else
  let ip := bs.drop p.l3
  let hdr := p.v6 || fold16 (sum16 (ip.take ((ip.getD 0 0).toNat % 16 * 4))) == 65535
  let l4 := match p.udp with
    | some (_, _, n) =>
      if be2 p.l4 6 = 0 then !p.v6
      else decide (8 ≤ n ∧ n ≤ p.l4.length) && fold16 (sum16 (pseudo p.v6 p.srcIp p.finalDst 17 n ++ p.l4.take n)) == 65535
    | none => true
  hdr && l4

/-- The PTP header's messageType and domainNumber, and the message itself, of a frame that carries PTP. -/
def Pkt.ptp? (p : Pkt) : Option (List Byte) :=
  if p.etype = 0x88F7 then some p.payload
  else match p.udp with
    | some (_, d, _) => if d = 319 ∨ d = 320 then some p.payload else none
    | none => none

/-- The priority of a frame: the PCP of its outermost tag, or the priority of untagged frames. -/
def Pkt.prio (p : Pkt) (untag : Nat) : Nat :=
  match p.tags with
  | (_, tci) :: _ => tci / 8192 % 8
  | [] => untag

/-! Building. -/

/-- An Ethernet header. -/
def ethHdr (dst src : Nat) (tags : List (Nat × Nat)) (etype : Nat) : List Byte :=
  beBytes 6 dst ++ beBytes 6 src ++ tags.flatMap (fun t => beBytes 2 t.1 ++ beBytes 2 t.2) ++ beBytes 2 etype

/-- An IPv4 header of five words, with its checksum (R438). -/
def ip4Hdr (dscp ttl proto len : Nat) (src dst : List Byte) : List Byte :=
  let h := [0x45, BitVec.ofNat 8 (dscp * 4)] ++ beBytes 2 (20 + len) ++ [0, 0, 0x40, 0, BitVec.ofNat 8 ttl, BitVec.ofNat 8 proto, 0, 0] ++ src ++ dst
  splice h 10 (beBytes 2 (inetSum h))

/-- An IPv6 header (R438). -/
def ip6Hdr (dscp hop nh len : Nat) (src dst : List Byte) : List Byte :=
  beBytes 4 (6 * 2 ^ 28 + dscp * 2 ^ 22) ++ beBytes 2 len ++ [BitVec.ofNat 8 nh, BitVec.ofNat 8 hop] ++ src ++ dst

/-- An IP header of either version. -/
def ipHdr (v6 : Bool) (dscp ttl proto len : Nat) (src dst : List Byte) : List Byte :=
  if v6 then ip6Hdr dscp ttl proto len src dst else ip4Hdr dscp ttl proto len src dst

/-- A UDP datagram with its checksum. -/
def udpBytes (v6 : Bool) (src dst : List Byte) (sport dport : Nat) (payload : List Byte) : List Byte :=
  let n := 8 + payload.length
  let h := beBytes 2 sport ++ beBytes 2 dport ++ beBytes 2 n ++ [0, 0] ++ payload
  splice h 6 (beBytes 2 (udpWritten (inetSum (pseudo v6 src dst 17 n ++ h))))

/-- ICMP bytes with their checksum written. -/
def icmpSum (v6 : Bool) (src dst b : List Byte) : List Byte :=
  let z := splice b 2 [0, 0]
  splice z 2 (beBytes 2 (inetSum ((if v6 then pseudo true src dst 58 z.length else []) ++ z)))

/-- A frame filled to 60 bytes before its FCS. -/
def padFrame (bs : List Byte) : List Byte := if bs.length < 60 then padTo 60 bs else bs

/-- Where the UDP header of an answer to a packet stands. -/
def Pkt.udpAt (p : Pkt) : Nat := 14 + 4 * p.tags.length + (if p.v6 then 40 else 20)

/-- A UDP response to a packet: addresses and ports exchanged, on the request's tags (R438). -/
def Pkt.respondUdp (p : Pkt) (mac ttl : Nat) (payload : List Byte) : List Byte :=
  let (sp, dp) := match p.udp with
    | some (a, b, _) => (a, b)
    | none => (0, 0)
  let u := udpBytes p.v6 p.dstIp p.srcIp dp sp payload
  padFrame (ethHdr p.src mac p.tags p.etype ++ ipHdr p.v6 p.dscp ttl 17 u.length p.dstIp p.srcIp ++ u)

/-- A response on Ethernet itself. -/
def Pkt.respondEth (p : Pkt) (mac : Nat) (payload : List Byte) : List Byte := padFrame (ethHdr p.src mac p.tags p.etype ++ payload)

/-- A MAC address as its two registers hold it (R391). -/
def State.macReg (s : State) (off : Nat) : Nat := s.fld (off + 4) 15 0 * 2 ^ 32 + (s.reg off).toNat

/-- MAC_ADDR of a port; on MGT, when it is 0, 02-ED-44 and three bytes of the unique fuses (R611). -/
def State.macAddr (s : State) (n : Nat) : Nat :=
  let a := s.macReg (mBase n + 8)
  if n = 4 ∧ a = 0 then 0x02ED44000000 + Config.uid.toNat % 2 ^ 24 else a

end Sys2Proof.Machine
end

