-- ==== Sys2Proof/Machine/Stake.lean ====
section
/-! DEFINITION. The Stakes (R399 to R426): calibration at start-up with that of the TACs and the outputs (R44, R144), the receive
tracker, ingress times, and the tracking of the SerDes delays. -/

namespace Sys2Proof.Machine

open Sys2Proof

/-! Calibration. -/

/-- TAC_CALIBRATION: all 33 TACs in CALIBRATE, each after its 2^22 hits (R144, R149, R585). -/
def State.tacCal (s : State) (hits : List (List Nat)) : State :=
  if s.md.mode != .calibrate || s.md.calTac || !((List.range 33).all fun k => (hits.getD k []).sum == 4194304) then s else
  let s1 := s.calibrateTacs hits
  let s2 := { s1 with md := { s1.md with calTac := true }, fmu := { s1.fmu with tacDeg := s1.fmu.tacDeg || s1.tinOnOne } }
  (State.noteDegraded s s2).startupStep

/-- OUTPUT_CALIBRATION (R44). -/
def State.outCal (s : State) : State :=
  if s.md.mode != .calibrate || s.md.calOut then s else ({ s with md := { s.md with calOut := true } }).startupStep

/-- The configured speed of a port (R389). -/
def State.cfgSpeed (s : State) (n : Nat) : Nat := s.fld (mBase n) 31 30

/-- The mean of a set of measurements in sns, and whether its spread is no more than 2 ps rms (R414). -/
def setMean (l : List Nat) : Nat := (roundQ ((l.sum : Rat) / l.length)).toNat
def spreadOk (l : List Nat) : Bool :=
  decide ((((l.map fun x => x ^ 2).sum : Nat) : Rat) / l.length - ((l.sum : Nat) / l.length : Rat) ^ 2 ≤ (131072 / 1000 : Rat) ^ 2)

/-- D_RX and D_TX of the sets of one speed, and whether they pass (R414): each within 2 to 20 ns, every spread kept. -/
def calDelays (n speed : Nat) (c : StakeCal) : Int × Nat × Bool :=
  let tx := setMean c.transmit
  let rx : Int := (setMean c.roundTrip : Int) - tx - Config.loopDelay n speed
  (rx, tx, [c.roundTrip, c.transmit, c.replica].all spreadOk && decide (131072 ≤ rx ∧ rx ≤ 1310720) && decide (131072 ≤ tx ∧ tx ≤ 1310720))

/-- STAKE_CALIBRATION (R414, R415). -/
def State.stakeCal (s : State) (n : Nat) (main : StakeCal) (alt : Option StakeCal) : State :=
  if s.md.mode != .calibrate || s.md.calStk.getD n true then s else
  let sp := s.cfgSpeed n
  let (rx, tx, ok) := calDelays n sp main
  let a := if sp = 2 then alt.map (calDelays n 1) else none
  let (arx, atx, aok) := a.getD (0, 0, false)
  let s1 := s.setPort n fun p => { p with stk := { p.stk with
    calOk := ok, calAlt := aok, rxCal := rx.toNat, txCal := tx, rxAlt := arx.toNat, txAlt := atx, rxDly := rx.toNat, txDly := tx,
    txPh := main.txPhase, txPhAlt := (alt.map (·.txPhase)).getD 0, replica := setMean main.replica,
    replicaAlt := (alt.map (fun c => setMean c.replica)).getD 0, altNow := false, rep := (0, 0), txOff := (0, 0), delta := 0 } }
  let s2 := { s1 with md := { s1.md with calStk := putAt s1.md.calStk n true }, fmu := { s1.fmu with portCal := s1.fmu.portCal || !ok } }
  (State.noteDegraded s s2).startupStep

/-! The receive tracker (R404 to R407). -/

/-- UI in sns by speed code (R402). -/
def uiSns (speed : Nat) : Rat := if speed = 2 then 8388608 / 3300 else if speed = 1 then 20971520 / 3300 else 524288 / 10

/-- The period of the transmit word clock in ns by speed code, an exact ratio to CLK_TIME. -/
def txPeriod (speed : Nat) : Rat := if speed = 2 then 2048 / 825 else if speed = 1 then 1024 / 165 else 8

/-- The speed at which a port's transmit word clock runs: that of its link, or without one that at which it is to come up. -/
def State.lineSpeed (s : State) (n : Nat) : Nat :=
  let p := s.port n
  if p.link || p.linkWait then p.speed else if p.stepped then 1 else s.cfgSpeed n

/-- t_tx(k) in sns of Warp (R409): the transmit word clock stands against CLK_TIME at the phase that CALIBRATE measured. -/
def State.txEdge (s : State) (n word : Nat) : Int :=
  let p := s.port n
  let sp := s.lineSpeed n
  let ph := if sp = s.cfgSpeed n then p.stk.txPh else p.stk.txPhAlt
  s.warpSns + ph + roundQ ((word : Rat) * txPeriod sp * 65536) - (s.now : Int) * 65536

/-- The departure in sns that makes a conversion one that differs (R406): 80, 240 and 1,000 ps. -/
def trkLimit (speed : Nat) : Rat := if speed = 2 then 524288 / 100 else if speed = 1 then 1572864 / 100 else 65536

/-- t_rx(k) by the tracker's fit, in sns (R404); up to the last conversion that agreed before a reset, by the fit before it (R406). -/
def StkSt.edgeAt (k : StkSt) (word : Nat) : Rat :=
  let l := if k.drop.any (fun d => decide (word ≤ d.1)) then k.prev else k.convs
  (fitLine (l.map (fun x => ((x.1 : Rat) - (word : Rat), (x.2 : Rat))))).1

/-- What the next conversion of the cycle of 16 measures (R404): fourteen receive edges, then a transmit edge and the replica path. -/
def StkSt.due (k : StkSt) : Nat := if k.cyc % 16 < 14 then 0 else k.cyc % 16 - 13

/-- TRK_LOCK (R405, R424). -/
def StkSt.locked (k : StkSt) : Bool := decide (16 ≤ k.convs.length)

/-- A link that has come up reports itself (R374, R395, R405, R515): preemption verification restarts. -/
def State.linkReport (s : State) (n : Nat) : State :=
  let cfg := s.reg (mBase n + 0x18)
  let pre : Nat := if n < 4 ∧ bitAt cfg 31 then (if bitAt cfg 30 then 2 else 1) else 0
  ((s.bwAccrue n).setPort n fun p => { p with link := true, linkWait := false, pre := pre, verifyTries := 0, stepping := none,
                                                lowSince := some s.now }).cause 7

/-- A receive edge joins the fit of the tracker (R404 to R406): three that differ in a row reset it; sixteen lock it. -/
def State.trackEdge (s : State) (n word : Nat) (t : Int) : State :=
  let p := s.port n
  let k := p.stk
  let off := k.locked && decide (trkLimit p.speed < |k.edgeAt word - t|)
  let bad := if off then k.bad + 1 else 0
  if 3 ≤ bad then
    let last := (k.convs.dropLast.dropLast.getLast?.map (·.1)).getD 0
    (s.setPort n fun p => { p with stk := { p.stk with convs := [], bad := 0, drop := some (last, none), prev := k.convs.dropLast.dropLast } }).count
      (stkCtr n 2)
  else
    let c := k.convs ++ [(word, t)]
    let c := c.drop (c.length - 64)
    let drop := match k.drop with
      | some (a, none) => if c.length = 16 then some (a, some word) else k.drop
      | d => d
    let s1 := s.setPort n fun p => { p with stk := { p.stk with convs := c, bad := bad, drop := drop } }
    if p.linkWait && decide (16 ≤ c.length) then s1.linkReport n else s1

/-- A conversion of the transmit word clock against its predicted edge `word`: the mean of 64 that departs from the calibrated phase
by more than 10 ps is out of bounds, and is reported for the port's island, whose targeted pass R561 names (R416). -/
def State.txConv (s : State) (n : Nat) (x : Int) : State :=
  let a := (s.port n).stk.txOff
  let sum := a.1 + x
  if a.2 + 1 < 64 then s.setPort n fun p => { p with stk := { p.stk with txOff := (sum, a.2 + 1) } } else
  let bad := decide (65536 * 64 < 100 * |sum|)
  let s1 := s.setPort n fun p => { p with stk := { p.stk with txOff := (0, 0), txphErr := p.stk.txphErr || bad } }
  if bad then s1.islandError (9 + n) else s1

/-- TRACKER_CONVERSION: the Stake's TAC converts what its cycle has next, a recovered word-clock edge (kind 0; none without a link), a
transmit word-clock edge (kind 1), or an edge that transmit word `word` launched into the replica path (kind 2); the time is Warp with the
TAC's fraction (R17, R18, R141, R142, R404). -/
def State.trackerConv (s : State) (n kind word code : Nat) : State :=
  let p := s.port n
  if decide (4 ≤ n) || kind != p.stk.due || !s.tb.running then s else
  if !s.tacReady (24 + n) then s.tacMiss (24 + n) else
  let t := s.captureAt (24 + n) code 0
  let s := (s.tacBusy (24 + n)).setPort n fun p => { p with stk := { p.stk with cyc := (p.stk.cyc + 1) % 16 } }
  match kind with
  | 0 => if p.link || p.linkWait then s.trackEdge n word t else s
  | 1 => s.txConv n (t - s.txEdge n word)
  | _ => s.setPort n fun p => { p with stk := { p.stk with rep := (p.stk.rep.1 + (t - s.txEdge n word), p.stk.rep.2 + 1) } }

/-- SYNCE_PHASE_DELIVER: the phase of the recovered word clock as the measurement of REF ID 13 + n, where SyncE makes it one
(R385, R386, R407): the last edge's instant, reference less Warp, counted in nominal word periods from the first edge fitted. -/
def State.syncePhase (s : State) (n : Nat) : State :=
  let p := s.port n
  if !p.link || !p.stk.locked || !s.bit (mBase n + 0x20) 31 || s.bit (mBase n + 4) 30 then s else
  let period : Rat := uiSns p.speed * (if p.speed = 0 then 10 else 64)
  match p.stk.convs.getLast? with
  | some (k, _) =>
    let rel := p.stk.edgeAt k - (s.warpSns : Rat)
    let nominal := (k : Rat) * period - (s.warpSns : Rat)
    s.refMeasure (13 + n) (.phase (Config.round (nominal - rel)))
  | none => s

/-- Whether a word lies where the tracker gave no time (R406). -/
def StkSt.dropped (k : StkSt) (word : Nat) : Bool :=
  match k.drop with
  | some (a, none) => decide (a < word)
  | some (a, some b) => decide (a < word ∧ word ≤ b)
  | none => false

/-- T_in of a frame (R403). -/
def State.ingressAt (s : State) (n word bit : Nat) : Int :=
  let p := s.port n
  Config.round (p.stk.edgeAt word) - p.stk.rxDly + roundQ ((bit : Rat) * uiSns p.speed) - s.pair (sBase n)

/-- REPLICA_UPDATE: at a whole second of Warp D_RX and D_TX move toward their calibrated values plus Δ, the mean of the second's
replica conversions less its value at CALIBRATE. A Δ above 250 ps is out of bounds, and is reported for the port's island (R416,
R561). -/
def State.replicaUpdate (s : State) (n : Nat) : State :=
  let p := s.port n
  let k := p.stk
  if !s.md.mode.serving || decide (s.nsNow ≠ 0) || decide (k.rep.2 = 0) then s else
  let alt := k.altNow
  let d : Int := Config.round ((k.rep.1 : Rat) / k.rep.2) - (if alt then k.replicaAlt else k.replica : Nat)
  let rx : Int := (if alt then k.rxAlt else k.rxCal) + d
  let tx : Int := (if alt then k.txAlt else k.txCal) + d
  let toward := fun (x : Nat) (goal : Int) => ((x : Int) + max (-64) (min 64 (goal - x))).toNat
  let bad := decide (16384 < |d|)
  let s1 := s.setPort n fun p => { p with stk := { p.stk with
    delta := d, rep := (0, 0), rxDly := toward k.rxDly rx, txDly := toward k.txDly tx, txphErr := p.stk.txphErr || bad } }
  if bad then s1.islandError (9 + n) else s1

/-- A tracker that starts again at link up; at another speed than before with the calibrated latencies of that speed, adjusted by Δ (R405,
R417). -/
def StkSt.atSpeed (k : StkSt) (alt : Bool) : StkSt :=
  let k := { k with convs := [], bad := 0, drop := none, prev := [] }
  if alt = k.altNow then k else
  { k with altNow := alt, rep := (0, 0), txOff := (0, 0), rxDly := (((if alt then k.rxAlt else k.rxCal) : Nat) + k.delta : Int).toNat,
           txDly := (((if alt then k.txAlt else k.txCal) : Nat) + k.delta : Int).toNat }

/-- Whether RS-FEC is in use once a port is up (R354). -/
def State.fecUse (s : State) (n speed : Nat) (fec : Bool) : Bool :=
  speed == 2 && s.bit (mBase n) 29 && (fec || !s.bit (mBase n) 28)

/-- LINK_UP: a link trained at a speed that the port advertises waits for its tracker; MGT has none (R354, R384, R405). NP0 to NP3 are
held down until ACQUIRE (R49), and on MGT an SGMII partner that signals 10 or 100 Mbit/s (a code other than 0) is held down (R352). -/
def State.linkUp (s : State) (n speed : Nat) (fec : Bool) : State :=
  let p := s.port n
  if p.held || p.link then s else
  if n = 4 then
    if s.cfgSpeed 4 = 3 ∧ speed ≠ 0 then s else
    ((s.bwAccrue 4).setPort 4 fun p => { p with link := true, speed := 0 }).cause 7
  else
    let want := if p.stepped then 1 else s.cfgSpeed n
    if speed ≠ want then s else
    s.setPort n fun p => { p with linkWait := true, speed := speed, fec := s.fecUse n speed fec,
                                  stk := p.stk.atSpeed (speed != s.cfgSpeed n) }

/-- LINK_DOWN (R395, R413, R433). -/
def State.linkLost (s : State) (n : Nat) : State :=
  let s1 := (s.linkDrop n).setPort n fun p => { p with linkWait := false, stk := { p.stk with convs := [], bad := 0, drop := none, prev := [] } }
  if n < 4 then s1.monitorFails (13 + n) (fun r => { r with los := true }) else s1

def execTacCalibration (hits : List (List Nat)) (s : State) : Host.Outcome State Fault Refusal := .next (s.tacCal hits)
def execStakeCalibration (n : Nat) (main : StakeCal) (alt : Option StakeCal) (s : State) : Host.Outcome State Fault Refusal :=
  .next (s.stakeCal n main alt)
def execOutputCalibration (s : State) : Host.Outcome State Fault Refusal := .next s.outCal
def execLinkUp (n speed : Nat) (fec : Bool) (s : State) : Host.Outcome State Fault Refusal := .next (s.linkUp n speed fec)
def execLinkDown (n : Nat) (s : State) : Host.Outcome State Fault Refusal := .next (s.linkLost n)
def execTrackerConversion (n kind word code : Nat) (s : State) : Host.Outcome State Fault Refusal :=
  .next (s.trackerConv n kind word code)
def execSyncePhaseDeliver (n : Nat) (s : State) : Host.Outcome State Fault Refusal := .next (s.syncePhase n)
def execReplicaUpdate (n : Nat) (s : State) : Host.Outcome State Fault Refusal := .next (s.replicaUpdate n)

end Sys2Proof.Machine
end

