-- ==== Sys2Proof/Machine/Egress.lean ====
section
/-! DEFINITION. The egress scheduler (R369, R373, R375, R409 to R413, R418 to R420, R432, R433): which frame is committed next,
its departure, the comparison with Weft, what the Stake writes into it, and what its last byte ends. -/

namespace Sys2Proof.Machine

open Sys2Proof Sys2Proof.Machine.Crypto

/-! Contexts. -/

/-- The check tag of a context (R431). -/
def Ctx.checkTag (c : Ctx) : W32 :=
  let (sp, dp) := match c.pkt.udp with
    | some (a, b, _) => (a, b)
    | none => (0, 0)
  BitVec.ofNat 32 (crc32c (leBytes 2 c.id ++ [BitVec.ofNat 8 c.cls, BitVec.ofNat 8 c.port] ++ leBytes 12 c.ingress.toBits.toNat ++
    c.pkt.srcIp ++ c.pkt.dstIp ++ leBytes 2 sp ++ leBytes 2 dp ++ c.pkt.payload.take 48))

/-- A context by its number. -/
def State.ctxAt (s : State) (id : Nat) : Option Ctx := s.wv.ctxs.find? (fun c => c.id == id)

/-- A context freed. -/
def State.freeCtx (s : State) (id : Nat) : State := { s with wv := { s.wv with ctxs := s.wv.ctxs.filter (fun c => c.id != id) } }

/-- A context changed. -/
def State.setCtx (s : State) (id : Nat) (f : Ctx → Ctx) : State :=
  { s with wv := { s.wv with ctxs := s.wv.ctxs.map (fun c => if c.id = id then f c else c) } }

/-- Whether a context is older than MAXAGE (R433). -/
def State.stale (s : State) (c : Ctx) : Bool := decide (c.born + s.fld 0x40000 15 0 * 1000 < s.now)

/-! The packet buffer (R377, R378). -/

/-- Cells of a frame of some bytes (R377). -/
def cellsOf (len : Nat) : Nat := ceilDiv len 64

/-- Cells that a port's frames for transmit hold. -/
def PortSt.txCells (p : PortSt) : Nat := (((p.eg.filter (·.stored)) ++ p.committed).map fun e => cellsOf e.bytes.length).sum

/-- Free cells of the shared pool: its 24,576 less what the ports hold for receipt and transmit (R377, R378). -/
def State.poolFree (s : State) : Nat := 24576 - (s.ports.map fun p => p.pool + p.txCells).sum

/-- The frames of a queue stored while they fit into some free cells, in their order; the cells left, 0 once one must wait. -/
def storeIn : List EgFrame → Nat → List EgFrame × Nat
  | [], free => ([], free)
  | e :: l, free =>
    let c := cellsOf e.bytes.length
    if e.stored then let r := storeIn l free; (e :: r.1, r.2)
    else if c ≤ free then let r := storeIn l (free - c); ({ e with stored := true } :: r.1, r.2)
    else (e :: l, 0)

/-- Frames that wait for space in the pool stored as far as it now goes (R378). -/
def State.storeWaiting (s : State) : State :=
  (List.range 5).foldl (fun s n => s.setPort n fun p => { p with eg := (storeIn p.eg s.poolFree).1 }) s

/-! Which frame is next. -/

/-- Whether a stop is in force. -/
def Stop.live (x : Stop) (now : Nat) : Bool := x.on && decide (now < x.until_)

/-- Whether frames of a priority are stopped on a port (R368). -/
def State.stopped (s : State) (n prio : Nat) : Bool :=
  (s.port n).pause.live s.now || ((s.port n).stops.getD prio Stop.reset).live s.now

/-- The rank of a frame: MAC control, then what the part builds itself, then host frames (R505). -/
def EgSrc.rank : EgSrc → Nat
  | .pause => 0
  | .host _ => 2
  | _ => 1

/-- Whether a frame may start: stored (R378), and not stopped, which MAC control frames never are (R369). -/
def State.mayStart (s : State) (n : Nat) (e : EgFrame) : Bool := e.stored && (e.src.rank == 0 || !s.stopped n e.prio)

/-- The frame that is committed next. -/
def State.nextFrame (s : State) (n : Nat) : Option EgFrame :=
  let ok := (s.port n).eg.filter (s.mayStart n)
  (ok.find? (fun e => e.src.rank == 0)).or ((ok.find? (fun e => e.src.rank == 1)).or ok.head?)

/-! Departure. -/

/-- The apply instant A of an armed operation, in ns of the old scale: the first half-second at least 1 ms after its check (R117). -/
def State.armedAt (s : State) (r : StepRec) : Nat :=
  let from_ : Nat := s.tb.warp + (r.armedAt + 1000000 - s.now)
  from_ + (1500000000 - from_ % nsPerSec) % nsPerSec

/-- The change that an armed SET or STEP makes to an instant of Warp at or after its apply instant A (R413). -/
def State.armedChange (s : State) (t : Int) : Int :=
  match s.tb.armed with
  | none => 0
  | some r =>
    let a := s.armedAt r
    if t < ((a * snsPerNs : Nat) : Int) then 0
    else if r.op = 2 then r.amount
    else if r.op = 1 then
      (((r.op0.toNat + r.op1.toNat % 2 ^ 16 * 2 ^ 32) * nsPerSec + r.op2.toNat) * snsPerNs + r.op3.toNat % 2 ^ 16 : Nat) - ((a * snsPerNs + s.tb.frac : Nat) : Int)
    else 0

/-- D of a frame whose timestamp point leaves as bit `bit` of transmit word `word` (R409). MGT has no Stake, and its frames leave
at once. -/
def State.departure (s : State) (n word bit : Nat) : Int :=
  if n < 4 then s.txEdge n word + (s.port n).stk.txDly + roundQ ((bit : Rat) * uiSns (s.lineSpeed n)) else s.warpSns

/-- Whether a departure is that of a frame committed now: C = D − 256 ns, to the nanosecond (R410). -/
def State.atCommit (s : State) (n : Nat) (d : Int) : Bool :=
  decide (4 ≤ n) || decide (256 * (snsPerNs : Int) ≤ d - s.warpSns ∧ d - s.warpSns < 257 * (snsPerNs : Int))

/-- V at a departure: a SET from a reference that applies at or before it sets TIME_SET (R100, R413). -/
def State.vAt (s : State) (d : Int) : Bool :=
  s.vBit || (s.vMode && s.tb.armed.any fun r => r.op == 1 && r.bodkin && decide (((s.armedAt r * snsPerNs : Nat) : Int) ≤ d))

/-- T_out of a departure, with V and L as they are at D (R409, R413). -/
def State.egressWord (s : State) (n : Nat) (d : Int) : TimeWord :=
  let at_ := d + s.armedChange d
  ⟨wrapTime (at_ + (if n < 4 then s.pair (sBase n + 8) else 0)), s.vAt d, leapL s.tb.leap (wrapTime at_ / snsPerSec)⟩

/-! What the Stake writes. -/

/-- The 8-byte field at an offset read as a signed number. -/
def be8s (bs : List Byte) (i : Nat) : Int := signed 64 (ofBe (slice bs i 8))

/-- A correctionField with a sum written: one that overflows is the largest value (R418). -/
def putCorrection (bs : List Byte) (cofs : Nat) (add : Int) : List Byte :=
  let v := be8s bs cofs + add
  let v := if v < -(2 ^ 63) ∨ 2 ^ 63 ≤ v then 2 ^ 63 - 1 else v
  splice bs cofs (beBytes 8 (unsigned 64 v))

/-- A frame with its insertion made (R418). -/
def insertTime (tbl : List (Nat × Int)) (w : TimeWord) (bs : List Byte) : Insertion → List Byte
  | .none => bs
  | .ntp64 o => splice bs o (beBytes 8 (ntpOf tbl w))
  | .ptpTs o c => putCorrection (splice bs o (beBytes 6 w.sec ++ beBytes 4 w.ns)) c w.sns
  | .ptpRes c r => putCorrection bs c ((w.t : Int) - r.t)

/-- A frame with its NTS response sealed: the synthetic IV heads the ciphertext (R419, R442; DEDUCED, log 135). -/
def sealFrame (bs : List Byte) : Option Seal → List Byte
  | none => bs
  | some q => splice bs (q.nonceAt + 16) (sivSeal q.key [slice bs q.adFrom (q.nonceAt - 8 - q.adFrom), slice bs q.nonceAt 16] q.plain)

/-- The secret of a key store slot that can sign PTP messages (R472, R540). -/
def State.macKey (s : State) (slot : Nat) : Option (List Byte) :=
  match Assoc.get slot s.fe.slots with
  | some k => if k.typ = 6 ∧ k.policy / 8 % 2 = 1 then some k.secret else none
  | none => none

/-- The ICV of a PTP message up to the ICV itself: correctionField taken as 0 (R470). -/
def ptpIcv (key msg : List Byte) : List Byte := (hmac256 key (splice msg 8 (zeros 8))).take 16

/-- Where the PTP message of a frame begins: after the Ethernet header by method 0, else after UDP. -/
def EgFrame.ptpAt (e : EgFrame) : Nat := if e.csum = 0 then e.l4 else e.l4 + 8

/-- A frame with its ICV written under the key of a slot (R470). -/
def State.signFrame (s : State) (e : EgFrame) (bs : List Byte) : List Byte :=
  match e.auth.bind s.macKey with
  | none => bs
  | some key =>
    let o := e.ptpAt
    let n := be2 bs (o + 2) - 16
    splice bs (o + n) (ptpIcv key (slice bs o n))

/-- The checksum corrected for what was written (R420). -/
def fixSum (e : EgFrame) (old new : List Byte) : List Byte :=
  let b := sum16 (old.drop e.l4)
  let a := sum16 (new.drop e.l4)
  match e.csum with
  | 1 =>
    let f := be2 new (e.l4 + 6)
    if f = 0 then new else splice new (e.l4 + 6) (beBytes 2 (udpWritten (sumAdjust f b a)))
  | 2 =>
    let o := e.l4 + be2 new (e.l4 + 4) - 2
    splice new o (beBytes 2 (sumAdjust (be2 new o) b a))
  | _ => new

/-- A frame as it leaves: insertion, seal, ICV, checksum (R411). -/
def State.finish (s : State) (e : EgFrame) (w : TimeWord) : List Byte :=
  let b1 := insertTime s.tb.leap w e.bytes e.ins
  let b2 := s.signFrame e (sealFrame b1 e.sealReq)
  if b2 = e.bytes then b2 else fixSum e e.bytes b2

/-! Commit. -/

/-- Whether a frame's departure is compared with Weft (R412): it carries an insertion or asks for its transmit time word. -/
def EgFrame.timed (e : EgFrame) : Bool := e.ins != .none || e.tsReq

/-- A frame given up by the scheduler: its context freed, a host frame completed with a status. -/
def State.dropFrame (s : State) (e : EgFrame) (st : Nat) : State :=
  let s1 := match e.src.ctx? with
    | some c => s.freeCtx c
    | none => s
  match e.src with
  | .host id => s1.hostStatus id st []
  | _ => s1

/-- A byte of line time in sns, by speed code (R628). -/
def byteSns (speed : Nat) : Rat := 65536000 / (octetsPerUs speed : Rat)

/-- An instant of Warp as sns of elapsed CLK_TIME. -/
def State.elapsed (s : State) (d : Int) : Int := d - s.warpSns + (s.now : Int) * snsPerNs

/-- The bytes of a committed frame's fragment on the line that have left by `t`. -/
def PortSt.sentBy (p : PortSt) (t : Int) (e : EgFrame) : Rat := ((t - e.resume : Int) : Rat) / byteSns p.speed

/-- Whether an express frame that departs at `t`, in sns of elapsed CLK_TIME, cuts a committed preemptable one (R373 to R375): the fragment on
the line and the remainder both keep their least length. -/
def PortSt.cuts (p : PortSt) (addFrag : Nat) (t : Int) (e : EgFrame) : Bool :=
  let k := p.sentBy t e
  p.pre == 2 && !e.express && decide (64 * (1 + addFrag : Nat) ≤ k ∧ e.gone + k + 64 ≤ (e.bytes.length + 4 : Nat))

/-- Whether a cut frame still waits at `t` behind the express frames that have left before. -/
def PortSt.waits (p : PortSt) (t : Int) (e : EgFrame) : Bool := decide (0 < e.cuts ∧ t ≤ e.resume ∧ p.expFree ≤ t)

/-- The line time of a frame in sns with the preamble and the least gap that follow it, which deficit idle counting may take to 9 bytes
above 1G (R409). -/
def PortSt.lineTime (p : PortSt) (len : Nat) : Int := (((len + 4 + 8 + (if p.speed = 0 then 12 else 9) : Nat) : Rat) * byteSns p.speed).floor

/-- Whether a frame may depart at `t`: after the frames committed before it, or between the fragments of a preemptable one (R375, R409). -/
def State.lineOpen (s : State) (n : Nat) (e : EgFrame) (t : Int) : Bool :=
  let p := s.port n
  decide (4 ≤ n) || decide (p.lineFree ≤ t) ||
    (e.express && p.committed.any fun x => p.cuts (s.fld (mBase n + 0x18) 9 8) t x || p.waits t x)

/-- A frame committed (R410): an express one that cuts a preemptable one leaves before it is whole, and the fragment sent is counted. -/
def State.commitFrame (s : State) (n : Nat) (e : EgFrame) (t : Int) : State :=
  let p := s.port n
  let cut := fun (x : EgFrame) => e.express && p.cuts (s.fld (mBase n + 0x18) 9 8) t x
  let end_ := t + p.lineTime e.bytes.length
  let e := { e with resume := t }
  let behind := fun (x : EgFrame) => cut x || (e.express && p.waits t x)
  let later := fun (x : EgFrame) =>
    if cut x then { x with cuts := x.cuts + 1, gone := x.gone + (p.sentBy t x).floor.toNat, resume := end_ } else { x with resume := end_ }
  let s1 := s.setPort n fun p =>
    { p with committed := p.committed.filter (fun x => !behind x) ++ [e] ++ (p.committed.filter behind).map later,
             lineFree := if p.lineFree ≤ t then end_ else p.lineFree + p.lineTime (e.bytes.length + 24),
             expFree := if e.express then end_ else p.expFree }
  let s2 := if p.committed.any cut then s1.count (macCtr n 15) else s1
  let s3 := if e.ins = .none then s2 else s2.count (stkCtr n 4)
  let s4 := if e.sealReq.isSome then s3.count (stkCtr n 5) else s3
  match e.src.ctx? with
  | some c => s4.setCtx c (fun x => { x with st := .committed })
  | none => s4

/-- The checks of a frame's context at its commit (R432, R433): none when it may go on, else what becomes of the state. -/
def State.ctxRefused (s : State) (e : EgFrame) (itemOk : Bool) : Option State :=
  match e.src.ctx? with
  | none => none
  | some id =>
    match s.ctxAt id with
    | none => some s
    | some c =>
      if s.stale c then some ((s.freeCtx id).count (wvCtr 5))
      else if itemOk && e.tag == some c.checkTag then none
      else
        let s1 := (s.freeCtx id).count (wvCtr 6)
        some (match c.lane with
          | some k => s1.islandError (14 + k)
          | none => s1)

/-- Whether NTP_ONLY forbids a port a frame: a PTP message or an ESMC frame is never sent there (R383, R390). One of the host's is
completed with STATUS 0x20 (DESIGN CHOICE, log 122). -/
def State.neverSent (s : State) (n : Nat) (e : EgFrame) : Bool :=
  let p := parseFrame e.bytes
  n < 4 && s.bit (mBase n + 4) 30 && (p.ptp?.isSome || (p.etype == 0x8809 && p.payload.getD 0 0 == 0x0A))

/-- FRAME_COMMIT: the next frame of a port reaches its C, and bit `bit` of transmit word `word`, at or after the line position that the frames
before it leave free, is to carry its timestamp point. `itemOk`: the item's copy that the answer carries is as it was written (R431).
`readBackOk`: the written field reads back as T_out (R561). `eccOk`: no uncorrectable error falls in the stored frame, which it drops
(R379). -/
def State.frameCommit (s : State) (n word bit : Nat) (itemOk readBackOk eccOk : Bool) : State :=
  let d := s.departure n word bit
  if !(s.port n).link || !s.atCommit n d then s else
  let s := s.storeWaiting
  match s.nextFrame n with
  | none => s
  | some e =>
    if !s.lineOpen n e (s.elapsed d) then s else
    let s1 := s.setPort n fun p => { p with eg := p.eg.erase e }
    if !eccOk then (s1.dropFrame e 0x32).memoryError 0 else
    if s1.neverSent n e then s1.dropFrame e 0x20 else
    match s1.ctxRefused e itemOk with
    | some s2 => s2
    | none =>
      let diff := s1.weftDiffAt (d / 65536).toNat
      if e.timed && s1.fmu.gate then (s1.dropFrame e 0x30).count (stkCtr n 0)
      else if e.timed && !s1.weftPasses diff then ((s1.dropFrame e 0x30).count (stkCtr n 0)).gateTrip diff
      else
        let w := s1.egressWord n d
        if e.ins != .none && !readBackOk then (s1.dropFrame e 0x32).islandError (9 + n)
        else s1.commitFrame n { e with bytes := s1.finish e w, out := w } (s1.elapsed d)

/-! The last byte. -/

/-- A PTP port's state. -/
def State.ptpPort (s : State) (n : Nat) : PtpPort := s.ptp.ports.getD n PtpPort.reset

/-- A PTP port's state changed. -/
def State.setPtp (s : State) (n : Nat) (f : PtpPort → PtpPort) : State :=
  { s with ptp := { s.ptp with ports := updAt s.ptp.ports n f } }

/-- T_out of a request of the engine reported to it (R462, R476): the instant the request of that sequence number left. -/
def State.reportLeft (s : State) (n seq : Nat) (w : TimeWord) : State :=
  s.setPtp n fun p => { p with exch := p.exch.map fun x => if x.seq = seq then { x with t1 := some (w.t : Int) } else x }

/-- What is counted and reported when a frame has been sent, by who asked for it (R397, R433, R455, R462, R486). -/
def State.sentBy (s : State) (n : Nat) (e : EgFrame) : State :=
  match e.src with
  | .plain _ => s.count (wvCtr 0)
  | .nts _ => s.count (wvCtr 1)
  | .kod _ => s.count (wvCtr 2)
  | .ntsn _ => s.count (wvCtr 3)
  | .delayResp _ => s.count (ptpCtr n 2)
  | .pdelayResp c two =>
    let s1 := s.count (ptpCtr n 3)
    match two, s.ctxAt c with
    | true, some x => s1.setPtp n fun p =>
        { p with pdFup := p.pdFup ++ [(slice x.pkt.payload 20 10, be2 x.pkt.payload 30, e.out, x.pkt)] }
    | _, _ => s1
  | .sync => s.count (ptpCtr n 0)
  | .announce => s.count (ptpCtr n 1)
  | .pdelayReq seq => s.reportLeft n seq e.out
  | .pdelayFup => s
  | .delayReq seq => s.reportLeft n seq e.out
  | .signaling => s
  | .pause => s.count (macCtr n 13)
  | .esmc => s.count (macCtr n 19)
  | .host id => s.hostStatus id 0 (if e.tsReq then leBytes 12 e.out.toBits.toNat else [])
  | .bodkin => s

/-- FRAME_SENT: the last byte of the frame that leaves first has left. On the line each further mPacket of a preempted frame adds 24
octets (R375, R628). -/
def State.frameSent (s : State) (n : Nat) : State :=
  match (s.port n).committed with
  | [] => s
  | e :: rest =>
    let s1 := s.setPort n fun p => { p with committed := rest, lastTx := e.bytes, lastOut := e.out }
    let len := e.bytes.length + 4
    let s2 := ((s1.count (macCtr n 2)).countN (macCtr n 3) len).lineLoad n (len + 20 + 24 * e.cuts) false
    let s3 := s2.sentBy n e
    (match e.src.ctx? with
    | some c => s3.freeCtx c
    | none => s3).storeWaiting

/-! Queueing. -/

/-- A frame handed to the egress scheduler of a port: one built while the link is down is discarded and counted (R385), and one without
space in the pool waits for it (R378). -/
def State.queueFrame (s : State) (n : Nat) (e : EgFrame) : State :=
  let room := decide (cellsOf e.bytes.length ≤ s.poolFree)
  if (s.port n).link then s.setPort n fun p => { p with eg := p.eg ++ [{ e with stored := room && p.eg.all (·.stored) }] }
  else (s.dropFrame e 0x20).count (macCtr n 21)

/-- A frame with nothing asked of the Stake, as the part builds it itself: express but for Bodkin's (R373). -/
def State.plainFrame (s : State) (src : EgSrc) (bytes : List Byte) (prio : Nat) : EgFrame :=
  { src := src, bytes := bytes, ins := .none, csum := 0, l4 := 0, sealReq := none, auth := none, tag := none, tsReq := false,
    prio := prio, express := src != .bodkin, born := s.now, out := TimeWord.zero, cuts := 0, gone := 0, resume := 0, stored := true }

/-- UNTAG_PRIO of a port (R390). -/
def State.untagPrio (s : State) (n : Nat) : Nat := s.fld (mBase n + 4) 28 26

def execFrameCommit (n word bit : Nat) (itemOk readBackOk eccOk : Bool) (s : State) : Host.Outcome State Fault Refusal :=
  .next (s.frameCommit n word bit itemOk readBackOk eccOk)

end Sys2Proof.Machine
end

