-- ==== Sys2Proof/Machine/Weave.lean ====
section
/-! DEFINITION. The Weave (R427 to R455): lanes, plain NTP and NTS answers, kisses, the cookie master keys and the mint engine. -/

namespace Sys2Proof.Machine

open Sys2Proof Sys2Proof.Machine.Crypto

/-! Mode indications (R54, R55, R437, R439, R440). -/

/-- Whether the fields that follow the error hold no estimate (R439, R440, R452, R461). -/
def State.openFields (s : State) : Bool :=
  s.md.drain || !(s.md.mode == .locked || s.md.mode == .holdover || s.md.mode == .maintain)

/-- The reference followed, or, in HOLDOVER and MAINTAIN, last followed (R437). -/
def State.followedRef (s : State) : Option Nat :=
  if s.md.mode == .holdover || s.md.mode == .maintain then s.ref.sel.or s.ref.prevId else s.ref.sel

/-- The REF ID whose indications an answer carries: followed, or in HOLDOVER and MAINTAIN last followed in LOCKED. -/
def State.shownRef (s : State) : Option Nat :=
  match s.shownMode with
  | .holdover => s.md.lastLocked
  | .locked => if s.md.mode == .maintain || s.ref.sel.isNone then s.md.lastLocked else s.ref.sel
  | _ => s.ref.sel

/-- Whether answers carry the unsynchronised indications. -/
def State.unsync (s : State) : Bool :=
  s.md.drain || match s.shownMode with
    | .locked => false
    | .holdover => false
    | _ => true

/-- ASCII characters as bytes. -/
def ascii (l : List Nat) : List Byte := l.map (BitVec.ofNat 8)

/-- Stratum and reference ID of a REF ID. -/
def refIndic (id : Option Nat) : Nat × List Byte :=
  match id with
  | none => (1, zeros 4)
  | some k =>
    if k < 8 then (1, ascii [0x50, 0x50, 0x53, 0])
    else if k = 8 then (1, ascii [0x47, 0x4E, 0x53, 0x53])
    else if k < 13 then (2, ascii [0x50, 0x54, 0x50, 0])
    else (2, ascii [0x53, 0x59, 0x4E, 0x43])

/-- LI, stratum and reference ID of an answer built now. -/
def State.ntpIndic (s : State) : Nat × Nat × List Byte :=
  if s.unsync then (3, 16, ascii [0x49, 0x4E, 0x49, 0x54]) else
  let (st, id) := refIndic s.shownRef
  let li : Nat := if s.tb.l then (match s.tb.next with
    | some (_, true) => 2
    | _ => 1) else 0
  (li, if s.shownMode == .holdover && !s.inBudget then 2 else st, id)

/-- Root delay in NTP short format: twice d of the client port followed (R437, R476, R477). -/
def State.rootDelay (s : State) : Nat :=
  match s.followedRef with
  | some k => if 9 ≤ k ∧ k < 13 then ceilDiv (2 * medianI (s.ptpPort (k - 9)).delays).toNat nsPerSec else 0
  | none => 0

/-- TE_EST in ns (R439), or the measured error while a reference is slewed into (R37). -/
def State.ntpTe (s : State) : Rat := s.shownError / snsPerNs

/-- Root dispersion (R439). -/
def State.rootDisp (s : State) : Nat :=
  if s.openFields then 0x100000
  else min 0xFFFFFFFF ((((s.reg 0x40004).toNat : Rat) + s.ntpTe) * 65536 / 10 ^ 9).ceil.toNat

/-- The reference timestamp (R440). -/
def State.refStamp (s : State) : Nat :=
  if s.openFields then 0 else match s.srv.refTime with
    | some w => ntpOf s.tb.leap w
    | none => 0

/-- The precision field by the port's speed (R437). -/
def precisionOf (speed : Nat) : Byte := if speed = 2 then 0xDD else if speed = 1 then 0xDE else 0xE0

/-- The poll field clamped (R437, R451). -/
def clampPoll (x : Int) : Byte := BitVec.ofNat 8 (max 4 (min 17 x)).toNat

/-! Extension fields (R436, R441). -/

/-- An extension field: its type, where it starts in the payload, and its length. -/
structure ExtField where
  typ : Nat
  at_ : Nat
  len : Nat
  deriving DecidableEq, Repr

/-- The extension fields that parse from an offset, and the bytes left where parsing ends; at most `k` fields. -/
def walkExt (p : List Byte) : Nat → Nat → List ExtField × Nat
  | 0, o => ([], p.length - o)
  | k + 1, o =>
    let len := be2 p (o + 2)
    if p.length < o + 4 ∨ len < 16 ∨ len % 4 ≠ 0 ∨ p.length < o + len then ([], p.length - o) else
    let (fs, r) := walkExt p k (o + len)
    ({ typ := be2 p o, at_ := o, len := len } :: fs, r)

/-- The extension fields of a request's payload. -/
def extFields (p : List Byte) : List ExtField × Nat := walkExt p p.length 48

/-- Whether a type is one of NTS. -/
def ntsType (t : Nat) : Bool := t == 0x0104 || t == 0x0204 || t == 0x0304 || t == 0x0404

/-- Whether a payload is an NTS request (R436). -/
def isNts (p : List Byte) : Bool :=
  let (fs, r) := extFields p
  decide (48 ≤ p.length) && r == 0 && fs.any (fun f => ntsType f.typ)

/-- VN and mode of a payload. -/
def vnOf (p : List Byte) : Nat := (p.getD 0 0).toNat / 8 % 8
def modeOf (p : List Byte) : Nat := (p.getD 0 0).toNat % 8

/-- The counter of the first rule of R436 that drops a request which is not an NTS request. A MAC may itself begin like a field. -/
def State.plainDrop (s : State) (p : List Byte) : Option Nat :=
  let (fs, r) := extFields p
  if p.length < 48 then some 7
  else if vnOf p ≠ 3 ∧ vnOf p ≠ 4 then some 8
  else if modeOf p ≠ 3 then some 9
  else if !s.bit 0x40000 31 || (vnOf p == 3 && !s.bit 0x40000 29) then some 10
  else if r ≠ 0 ∧ (r :: fs.map fun f => p.length - f.at_).any (fun l => l == 20 || l == 24) then some 10
  else if r ≠ 0 then some 7
  else if vnOf p = 3 ∧ fs ≠ [] then some 7
  else none

/-- The header rules of step 4 of R441. -/
def State.ntsHeaderDrop (s : State) (p : List Byte) : Option Nat :=
  if vnOf p ≠ 3 ∧ vnOf p ≠ 4 then some 8
  else if modeOf p ≠ 3 then some 9
  else if vnOf p = 3 then some (if s.bit 0x40000 29 then 7 else 10)
  else none

/-- A length filled to a multiple of 4. -/
def pad4 (n : Nat) : Nat := (n + 3) / 4 * 4

/-- The parts of an NTS request that step 1 of R441 admits: Unique Identifier, Cookie, Authenticator, and the placeholders. -/
def ntsParts (p : List Byte) : Option (ExtField × ExtField × ExtField × Nat) :=
  let fs := (extFields p).1
  let ofT := fun (t : Nat) => fs.filter (fun f => f.typ == t)
  match ofT 0x0104, ofT 0x0204, ofT 0x0404 with
  | [u], [c], [a] =>
    let ph := ofT 0x0304
    let nl := be2 p (a.at_ + 4)
    let cl := be2 p (a.at_ + 6)
    if 36 ≤ u.len ∧ u.len ≤ 260 ∧ ph.all (fun f => f.len == c.len) ∧ fs.getLast? = some a ∧ 16 ≤ nl ∧ nl ≤ 64 ∧ 16 ≤ cl ∧
        8 + pad4 nl + pad4 cl ≤ a.len then some (u, c, a, ph.length) else none
  | _, _, _ => none

/-! Lane time (R434). -/

/-- Blocks of 16 bytes. -/
def blocks (n : Nat) : Nat := ceilDiv n 16

/-- Cookie plaintext blocks by the length of a cookie, and whether request and response are AES-256; none for a cookie of another
length. -/
def cookieBlocks (len : Nat) : Option (Nat × Bool) := if len = 104 then some (5, false) else if len = 168 then some (9, true) else none

/-- The cycles of an NTS request: max(64, 9 + 2 × N128 + 3 × N256). -/
def ntsCycles (p : List Byte) : Nat :=
  match ntsParts p with
  | none => 64
  | some (_, k, a, ph) =>
    match cookieBlocks (k.len - 4) with
    | none => 64
    | some (c, wide) =>
      let pq := be2 p (a.at_ + 6) - 16
      let m := min (1 + ph) 8
      let verify := blocks a.at_ + 1 + max 1 (blocks pq) + blocks pq
      let respond := 4 + (blocks (m * k.len) - 1)
      let master := 2 + 2 * c + m * (3 + 2 * c)
      max 64 (9 + 2 * master + (if wide then 3 else 2) * (verify + respond))

/-- The cycles for which a lane is occupied by an item: a kiss for an NTS request as long as the request. -/
def laneCycles (c : Ctx) : Nat := if 2 ≤ c.cls ∧ isNts c.pkt.payload then ntsCycles c.pkt.payload else 64

/-- Whether a lane has spent the cycles of its item. -/
def State.laneDone (s : State) (lane : Nat) : Bool := decide ((s.wv.lanes.getD lane Lane.reset).left ≤ s.coreWork)

/-! Cookies (R443, R444). -/

/-- What a cookie holds: AEAD ID, C2S and S2C keys. -/
structure CookieKeys where
  aead : Nat
  c2s : List Byte
  s2c : List Byte
  deriving DecidableEq, Repr

/-- The key length of an AEAD ID. -/
def aeadK (aead : Nat) : Nat := if aead = 15 then 32 else 64

/-- The master keys: slots 1 to 3 of the key store. -/
def State.masterKeys (s : State) : Assoc KeySlot := s.fe.slots.filter fun e => decide (1 ≤ e.1 ∧ e.1 ≤ 3)

/-- The master key in force with a KEYID. -/
def State.masterKey (s : State) (id : Nat) : Option KeySlot :=
  ([1, 2, 3].filterMap (fun k => Assoc.get k s.fe.slots)).find? (fun k => k.keyId == id)

/-- A cookie opened (R441, R444). -/
def State.openCookie (s : State) (c : List Byte) : Option CookieKeys :=
  if c.length ≠ 104 ∧ c.length ≠ 168 then none else
  match s.masterKey (ofBe (c.take 4)) with
  | none => none
  | some k =>
    match sivOpen k.secret [c.take 4, slice c 4 16] (c.drop 20) with
    | none => none
    | some p =>
      let aead := be2 p 0
      if (aead = 15 ∨ aead = 17) ∧ be2 p 2 = 0 ∧ p.length = 4 + 2 * aeadK aead then
        some { aead := aead, c2s := slice p 4 (aeadK aead), s2c := p.drop (4 + aeadK aead) }
      else none

/-- Sixteen bytes drawn from the random source. -/
def State.drawNonce (s : State) : List Byte × State := (beBytes 16 (s.draw.1 % 2 ^ 128), s.draw.2)

/-- A cookie sealed under a master key (R444). -/
def State.sealCookie (s : State) (k : KeySlot) (q : CookieKeys) : List Byte × State :=
  let (nonce, s1) := s.drawNonce
  let id := beBytes 4 k.keyId
  (id ++ nonce ++ sivSeal k.secret [id, nonce] (beBytes 2 q.aead ++ [0, 0] ++ q.c2s ++ q.s2c), s1)

/-- A number of cookies, each freshly sealed. -/
def State.sealCookies (s : State) (k : KeySlot) (q : CookieKeys) : Nat → List (List Byte) × State
  | 0 => ([], s)
  | n + 1 =>
    let (c, s1) := s.sealCookie k q
    let (cs, s2) := s1.sealCookies k q n
    (c :: cs, s2)

/-- Step 2 and 3 of R441: the cookie and the authenticator. -/
def State.ntsKeys (s : State) (p : List Byte) (c a : ExtField) : Option CookieKeys :=
  match s.openCookie (slice p (c.at_ + 4) (c.len - 4)) with
  | none => none
  | some q =>
    let nl := be2 p (a.at_ + 4)
    let nonce := slice p (a.at_ + 8) nl
    let ct := slice p (a.at_ + 8 + pad4 nl) (be2 p (a.at_ + 6))
    if (sivOpen q.c2s [p.take a.at_, nonce] ct).isSome then some q else none

/-! Responses. -/

/-- The 48 bytes of an NTP header, but for the transmit timestamp, which is 0 until its insertion (R437). -/
def ntpHeader (li vn stratum : Nat) (poll prec : Byte) (rdelay rdisp : Nat) (refid : List Byte) (refTs : Nat) (org : List Byte)
    (rx : Nat) : List Byte :=
  [BitVec.ofNat 8 (li * 64 + vn * 8 + 4), BitVec.ofNat 8 stratum, poll, prec] ++ beBytes 4 rdelay ++ beBytes 4 rdisp ++ refid ++
    beBytes 8 refTs ++ org ++ beBytes 8 rx ++ zeros 8

/-- The origin timestamp of an answer: the request's transmit timestamp. -/
def originOf (p : List Byte) : List Byte := slice p 40 8

/-- The header of a full answer (R437, R452). -/
def State.answerHeader (s : State) (c : Ctx) : List Byte :=
  let p := c.pkt.payload
  let (li, st, id) := s.ntpIndic
  let rx := if s.md.mode == .safe then 0 else ntpOf s.tb.leap c.ingress
  ntpHeader li (vnOf p) st (clampPoll (signed 8 (p.getD 2 0).toNat)) (precisionOf (s.port c.port).speed) s.rootDelay s.rootDisp id
    s.refStamp (originOf p) rx

/-- The header of a kiss (R451). -/
def State.kissHeader (s : State) (c : Ctx) (rate : Bool) : List Byte :=
  let p := c.pkt.payload
  let poll := signed 8 (p.getD 2 0).toNat + (if rate then 1 else 0)
  ntpHeader 3 (vnOf p) 0 (clampPoll poll) (precisionOf (s.port c.port).speed) 0 0
    (if rate then ascii [0x52, 0x41, 0x54, 0x45] else ascii [0x4E, 0x54, 0x53, 0x4E]) 0 (originOf p) 0

/-- An answer's frame with what it leaves to the Stake (R418 to R420, R438). -/
def State.answerFrame (s : State) (c : Ctx) (src : EgSrc) (payload : List Byte) (timed : Bool) (sealReq : Option Seal) : EgFrame :=
  let o := c.pkt.udpAt
  { src := src, bytes := c.pkt.respondUdp (s.macAddr c.port) (s.fld 0x40000 23 16) payload,
    ins := if timed && s.md.mode != .safe then .ntp64 (o + 48) else .none, csum := 1, l4 := o, sealReq := sealReq, auth := none,
    tag := some c.tag, tsReq := false, prio := c.pkt.prio (s.untagPrio c.port), express := true, born := c.born,
    out := TimeWord.zero, cuts := 0, gone := 0, resume := 0, stored := true }

/-- An NTS answer: header, Unique Identifier, and an authenticator whose seal is left to the Stake (R442). -/
def State.ntsFrame (s : State) (c : Ctx) (src : EgSrc) (hdr uid plain : List Byte) (q : CookieKeys) (timed : Bool) : EgFrame × State :=
  let (nonce, s1) := s.drawNonce
  let ct := 16 + plain.length
  let auth := beBytes 2 0x0404 ++ beBytes 2 (8 + 16 + ct) ++ beBytes 2 16 ++ beBytes 2 ct ++ nonce ++ zeros ct
  let o := c.pkt.udpAt + 8
  let sl : Seal := { aead := q.aead, key := q.s2c, plain := plain, adFrom := o, nonceAt := o + 48 + uid.length + 8 }
  (s1.answerFrame c src (hdr ++ uid ++ auth) timed (some sl), s1)

/-- The lanes that are to run: the first of those in service (R380). -/
def State.lanesUp (s : State) : List Nat := ((List.range 8).filter s.laneIn).take s.wv.lanesOn

/-- A lane done with its item: one that is no longer to run parks now (R22, R381). -/
def State.laneEnd (s : State) (lane : Nat) : State :=
  let park := s.laneIn lane && !s.lanesUp.contains lane
  { s with wv := { s.wv with lanes := updAt s.wv.lanes lane (fun l => { l.idle with parked := l.parked || park }) } }

/-- The set and the master keys now in force. -/
def State.laneSet (s : State) : LaneSet := { cfg := s.reg 0x40000, disp := s.reg 0x40004, keys := s.masterKeys }

/-- The machine as a lane sees it at work on a request: under the set and the master keys with which it began (R87, R445). -/
def State.underSet (s : State) (lane : Nat) : State :=
  match (s.wv.lanes.getD lane Lane.reset).set with
  | some x => { s with act := (s.act.wr 0x40000 x.cfg).wr 0x40004 x.disp,
                       fe := { s.fe with slots := x.keys.foldl (fun m e => Assoc.put e.1 e.2 m) (s.fe.slots.filter fun e => decide (e.1 < 1 ∨ 3 < e.1)) } }
  | none => s

/-- The set in force and the key store put back after a lane's work. -/
def State.backFrom (s o : State) : State := { s with act := o.act, fe := { s.fe with slots := o.fe.slots } }

/-- An answer handed to the scheduler: the lane is free, and the context waits. -/
def State.answer (s : State) (lane : Nat) (c : Ctx) (e : EgFrame) : State :=
  let s1 := s.laneEnd lane
  let s2 := s1.setCtx c.id fun x => { x with st := .waiting }
  s2.queueFrame c.port { e with tag := some ((s.wv.lanes.getD lane Lane.reset).tag) }

/-- A lane's item ended without an answer: the context is freed. -/
def State.laneDrop (s : State) (lane : Nat) (c : Ctx) : State :=
  (s.laneEnd lane).freeCtx c.id

/-- A verified NTS request answered (R442, R451). -/
def State.ntsAnswer (s : State) (lane : Nat) (c : Ctx) (u : ExtField) (ph : Nat) (q : CookieKeys) : State :=
  let p := c.pkt.payload
  let uid := slice p u.at_ u.len
  if c.kiss then
    let (e, s1) := s.ntsFrame c (.kod c.id) (s.kissHeader c true) uid [] q false
    s1.answer lane c e
  else
    match Assoc.get 1 s.fe.slots with
    | none =>
      let (e, s1) := s.ntsFrame c (.nts c.id) (s.answerHeader c) uid [] q true
      s1.answer lane c e
    | some k =>
      let (cs, s1) := s.sealCookies k q (min (1 + ph) 8)
      let plain := cs.flatMap fun b => beBytes 2 0x0204 ++ beBytes 2 (b.length + 4) ++ b
      let (e, s2) := s1.ntsFrame c (.nts c.id) (s.answerHeader c) uid plain q true
      s2.answer lane c e

/-- A class 2 or 3 item finished by its lane (R436, R441, R451). -/
def State.buildNtp (s : State) (lane : Nat) (c : Ctx) : State :=
  let p := c.pkt.payload
  let drop := fun (i : Nat) => (s.laneDrop lane c).count (wvCtr i)
  if isNts p then
    if !s.bit 0x40000 30 then drop 10 else
    match ntsParts p with
    | none => drop 7
    | some (u, k, a, ph) =>
      match s.ntsKeys p k a with
      | none => s.answer lane c (s.answerFrame c (.ntsn c.id) (s.kissHeader c false ++ slice p u.at_ u.len) false none)
      | some q =>
        match s.ntsHeaderDrop p with
        | some i => drop i
        | none => s.ntsAnswer lane c u ph q
  else
    match s.plainDrop p with
    | some i => drop i
    | none =>
      if c.kiss then s.answer lane c (s.answerFrame c (.kod c.id) (s.kissHeader c true) false none)
      else s.answer lane c (s.answerFrame c (.plain c.id) (s.answerHeader c) true none)

/-- ANSWER_BUILT: a lane has spent the cycles of an item of classes 2 and 3 (R434); PTP items end in the rows of their messages. -/
def State.answerBuilt (s : State) (lane : Nat) : State :=
  match (s.wv.lanes.getD lane Lane.reset).ctx.bind s.ctxAt with
  | some c => if (c.cls = 2 ∨ c.cls = 3) ∧ s.laneDone lane then ((s.underSet lane).buildNtp lane c).backFrom s else s
  | none => s

/-! Lanes. -/

/-- The highest class, 0 to 3, that is not empty (R430). -/
def State.headClass (s : State) : Option Nat := (List.range 4).find? fun c => !(s.wv.queues.getD c []).isEmpty

/-- Whether a lane may take an item: free, not parked, in service (R21), and not one that parks as soon as it is free (R22). -/
def State.laneFree (s : State) (k : Nat) : Bool :=
  let l := s.wv.lanes.getD k Lane.reset
  l.ctx.isNone && !l.parked && s.laneIn k && s.lanesUp.contains k

/-- LANE_TAKE (R430, R433). -/
def State.laneTake (s : State) (lane : Nat) : State :=
  if !s.laneFree lane then s else
  match s.headClass with
  | none => s
  | some k =>
    match s.wv.queues.getD k [] with
    | [] => s
    | i :: rest =>
      let s1 := { s with wv := { s.wv with queues := putAt s.wv.queues k rest } }
      match s1.ctxAt i.ctx with
      | none => s1
      | some c =>
        if s1.stale c then (s1.freeCtx c.id).count (wvCtr 5) else
        let s2 := s1.setCtx c.id fun x => { x with st := .building, lane := some lane }
        let left := 2000 * laneCycles c + s.coreWork
        { s2 with wv := { s2.wv with lanes := updAt s2.wv.lanes lane (fun l => { l with ctx := some c.id, tag := i.tag, left := left, set := some s2.laneSet }) } }

/-! Master keys (R445). -/

/-- SYM_CTL_STAT. -/
def State.symCtl (s : State) (token code : Nat) : State := { s with wv := { s.wv with symToken := token, symCode := code } }

/-- The rotation: keys move down, a new current key is drawn, the count restarts, and a waiting ROTATE is answered (R445, R600). -/
def State.rotateKeys (s : State) : State :=
  let id : Nat := match Assoc.get 1 s.fe.slots with
    | some k => if k.keyId = 0xFFFFFFFF then 1 else k.keyId + 1
    | none => 1
  let new : KeySlot := { typ := 7, curve := 0xFF, policy := 16, secret := beBytes 32 (s.draw.1 % 2 ^ 256), pub := [], keyId := id }
  let s1 := s.draw.2
  let move := fun (m : Assoc KeySlot) (a b : Nat) => match Assoc.get a m with
    | some k => Assoc.put b k m
    | none => Assoc.del b m
  let sl := Assoc.put 1 new (move (move s1.fe.slots 2 3) 1 2)
  let s2 := { s1 with fe := { s1.fe with slots := sl, rotCount := -(((if s1.md.mode.running then s1.now - s1.md.since else 0) : Nat) : Int) },
                      wv := { s1.wv with rotDue := false } }
  let s3 := ((s2.count 0xB0110).count 0xC0100).log 0x000D (leBytes 4 id)
  match s3.wv.rotToken with
  | some t => ({ s3 with wv := { s3.wv with rotToken := none } }).symCtl t 0
  | none => s3

/-- Whether a rotation is due: by the count of service, by an operation, or with slot 1 empty at entry to ACQUIRE (R445). -/
def State.rotationDue (s : State) : Bool :=
  s.wv.rotDue || s.wv.rotToken.isSome || decide (((s.fld 0xB0000 9 0 * 3600 * nsPerSec : Nat) : Int) ≤ s.rotNs)

/-- KEY_ROTATION: in MAINTAIN it waits until MAINTAIN ends. -/
def State.keyRotation (s : State) : State := if s.md.mode.running && s.rotationDue then s.rotateKeys else s

/-- ROTATE (R445). -/
def State.rotateOp (s : State) (token : Nat) : State :=
  if s.noWrites then s
  else if s.md.mode == .safe then s.symCtl token 0x24
  else
    let s1 := { s with wv := { s.wv with rotToken := some token } }
    if s.md.mode.running then s1.rotateKeys else s1

/-! The mint engine (R446 to R448). -/

/-- COOKIE_MINT: the oldest waiting command starts. -/
def State.mintStart (s : State) : State :=
  if s.wv.mints.any (·.running) then s else
  match s.wv.mints with
  | m :: rest => { s with wv := { s.wv with mints := { m with running := true, keys := s.masterKeys } :: rest } }
  | [] => s

/-- The code a mint command ends with under its master keys (R446, R448, R455), the malformed ones first. -/
def State.mintCode (s : State) (keys : Assoc KeySlot) (b : List Byte) : Nat :=
  let aead := (b.getD 1 0).toNat
  let n := (b.getD 2 0).toNat
  if (b.getD 0 0).toNat ≠ 1 then 0x13
  else if aead ≠ 15 ∧ aead ≠ 17 then 0x10
  else if n = 0 ∨ 8 < n then 0x11
  else if b.length ≠ 8 + 2 * aeadK aead then 0x12
  else if !s.md.mode.serving then 0x24
  else if (Assoc.get 1 keys).isNone then 0x20
  else 0

/-- The length of the result that a mint command asks for. -/
def mintResLen (b : List Byte) : Nat :=
  let aead := (b.getD 1 0).toNat
  let n := (b.getD 2 0).toNat
  if (aead = 15 ∨ aead = 17) ∧ 1 ≤ n ∧ n ≤ 8 then 16 + n * (40 + 2 * aeadK aead) else 16

/-- MINT_COMPLETE: result, then completion; the keys are zeroised with the command (R448). -/
def State.mintComplete (s : State) : State :=
  if !s.hif.bme then s else
  match s.wv.mints.find? (·.running) with
  | none => s
  | some m =>
    let code := s.mintCode m.keys m.bytes
    let s1 := { s with wv := { s.wv with mints := s.wv.mints.filter (· != m) } }
    let aead := (m.bytes.getD 1 0).toNat
    let q : CookieKeys := { aead := aead, c2s := slice m.bytes 8 (aeadK aead), s2c := slice m.bytes (8 + aeadK aead) (aeadK aead) }
    match code, Assoc.get 1 m.keys with
    | 0, some k =>
      let n := (m.bytes.getD 2 0).toNat
      let (cs, s2) := s1.sealCookies k q n
      (s2.countN 0xB0100 n).cqFinish { q := 1, i := m.index, qstat := 0, code := 0, addr := m.resAddr, res := mintResult m.bytes 0 k.keyId cs }
    | _, _ => (s1.count 0xB0108).cqFinish { q := 1, i := m.index, qstat := 0, code := code, addr := m.resAddr, res := mintResult m.bytes code 0 [] }

def execLaneTake (lane : Nat) (s : State) : Host.Outcome State Fault Refusal := .next (s.laneTake lane)
def execAnswerBuilt (lane : Nat) (s : State) : Host.Outcome State Fault Refusal := .next (s.answerBuilt lane)
def execKeyRotation (s : State) : Host.Outcome State Fault Refusal := .next s.keyRotation
def execRotate (token : BitVec 16) (s : State) : Host.Outcome State Fault Refusal := .next (s.rotateOp token.toNat)
def execCookieMint (s : State) : Host.Outcome State Fault Refusal := .next s.mintStart
def execMintComplete (s : State) : Host.Outcome State Fault Refusal := .next s.mintComplete

end Sys2Proof.Machine
end

