-- ==== Sys2Proof/Machine/Ptp.lean ====
section
/-! DEFINITION. The PTP engine (R456 to R488): its messages, authentication, unicast grants and their placement, the peer-delay
exchange, and the client role as a reference. -/

namespace Sys2Proof.Machine

open Sys2Proof Sys2Proof.Machine.Crypto

/-! Next hops (R475, R607). Address resolution and neighbour discovery are those of RFC 826 and RFC 4861 (PRESUMED, log 127). -/

/-- The MAC address known for a neighbour of a port. -/
def State.neighMac (s : State) (n : Nat) (ip : List Byte) : Option Nat :=
  (s.mgt.neigh.find? fun e => e.port == n && e.ip == ip).map (·.mac)

/-- The ARP request or neighbour solicitation that asks for an address. -/
def askFrame (mac : Nat) (tags : List (Nat × Nat)) (src ip : List Byte) : List Byte :=
  if ip.length = 16 then
    let low := ofBe (ip.drop 13)
    let dst := [0xFF, 0x02] ++ zeros 9 ++ [0x01, 0xFF] ++ ip.drop 13
    let b := icmpSum true src dst ([135, 0, 0, 0, 0, 0, 0, 0] ++ ip ++ [1, 1] ++ beBytes 6 mac)
    padFrame (ethHdr (0x3333FF000000 + low) mac tags 0x86DD ++ ip6Hdr 0 255 58 b.length src dst ++ b)
  else padFrame (ethHdr 0xFFFFFFFFFFFF mac tags 0x0806 ++ [0, 1, 8, 0, 6, 4, 0, 1] ++ beBytes 6 mac ++ src ++ zeros 6 ++ ip)

/-- A frame sent to a next hop: at once where its address is known; else the address is asked for, and the last such frame waits. -/
def State.sendVia (s : State) (n : Nat) (tags : List (Nat × Nat)) (src ip : List Byte) (f : EgFrame) : State :=
  match s.neighMac n ip with
  | some m => s.queueFrame n { f with bytes := splice f.bytes 0 (beBytes 6 m) }
  | none =>
    let others := s.mgt.held.filter fun (h : HeldFrame) => !(h.port == n && h.ip == ip)
    let h : HeldFrame := { port := n, ip := ip, frame := f }
    let s1 : State := { s with mgt := { s.mgt with held := others ++ [h] } }
    s1.queueFrame n (s1.plainFrame .bodkin (askFrame (s.macAddr n) tags src ip) f.prio)

/-- A neighbour's address learnt: what waited for it is sent. -/
def State.learn (s : State) (n : Nat) (ip : List Byte) (mac : Nat) : State :=
  let mine := fun (h : HeldFrame) => h.port == n && h.ip == ip
  let s1 := { s with mgt := { s.mgt with
    neigh := s.mgt.neigh.filter (fun (e : Neigh) => !(e.port == n && e.ip == ip)) ++ [{ port := n, ip := ip, mac := mac }],
    held := s.mgt.held.filter (fun h => !mine h) } }
  (s.mgt.held.filter mine).foldl (fun s h => s.queueFrame n { h.frame with bytes := splice h.frame.bytes 0 (beBytes 6 mac) }) s1

/-! Identity and configuration. -/

/-- The clock identity (R459). -/
def State.clockId (s : State) : List Byte :=
  let id := beBytes 4 (s.reg 0x98004).toNat ++ beBytes 4 (s.reg 0x98000).toNat
  if id = zeros 8 then
    let m := beBytes 6 (s.macAddr 0)
    m.take 3 ++ [0xFF, 0xFE] ++ m.drop 3
  else id

/-- The port identity of NPn (R459). -/
def State.portId (s : State) (n : Nat) : List Byte := s.clockId ++ beBytes 2 (n + 1)

/-- PTP runs on a port: enabled, and the port not confined to NTP (R383, R479). -/
def State.ptpOn (s : State) (n : Nat) : Bool := s.bit (gBase n) 31 && !s.bit (mBase n + 4) 30

/-- ROLE = 1: a client port. -/
def State.ptpClient (s : State) (n : Nat) : Bool := s.bit (gBase n) 30

/-- PROFILE (R456). -/
def State.ptpProfile (s : State) (n : Nat) : Nat := s.fld (gBase n) 29 27

/-- Whether a profile measures delay by peer delay. -/
def peerDelay (profile : Nat) : Bool := profile == 1 || profile == 4

/-- EN of an instance on a port that runs PTP. -/
def State.instOn (s : State) (n m : Nat) : Bool := s.ptpOn n && s.bit (iBase n m) 31

/-- TRANSPORT, DOMAIN and the log intervals of an instance. -/
def State.instTransport (s : State) (n m : Nat) : Nat := s.fld (iBase n m) 28 27
def State.instDomain (s : State) (n m : Nat) : Nat := s.fld (iBase n m) 23 16
def State.logSync (s : State) (n m : Nat) : Int := signed 4 (s.fld (iBase n m + 4) 31 28)
def State.logAnn (s : State) (n m : Nat) : Int := signed 4 (s.fld (iBase n m + 4) 27 24)
def State.logDreq (s : State) (n m : Nat) : Int := signed 4 (s.fld (iBase n m + 4) 23 20)

/-- The transport of a received message. -/
def Pkt.transport (p : Pkt) : Nat := if p.etype = 0x88F7 then 0 else if p.v6 then 2 else 1

/-- The enabled instance of a port that serves a domain over a transport. -/
def State.instFor (s : State) (n domain transport : Nat) : Option Nat :=
  (List.range 4).find? fun m => s.instOn n m && s.instDomain n m == domain && s.instTransport n m == transport

/-- The time of an interval of log2 `l`, in ns. -/
def logNs (l : Int) : Nat := if 0 ≤ l then nsPerSec * 2 ^ l.toNat else nsPerSec / 2 ^ (-l).toNat

/-- Messages per second at an interval of log2 `l`. -/
def logRate (l : Int) : Rat := if 0 ≤ l then 1 / ((2 ^ l.toNat : Nat) : Rat) else ((2 ^ (-l).toNat : Nat) : Rat)

/-- Modes in which the engine sends and answers (R478). -/
def State.ptpRuns (s : State) (n : Nat) : Bool := s.md.mode.serving && s.ptpOn n

/-! Messages. -/

/-- messageType, domainNumber, correctionField, sourcePortIdentity and sequenceId of a message. -/
def ptpType (m : List Byte) : Nat := (m.getD 0 0).toNat % 16
def ptpDomain (m : List Byte) : Nat := (m.getD 4 0).toNat
def ptpCorr (m : List Byte) : Int := be8s m 8
def ptpSrc (m : List Byte) : List Byte := slice m 20 10
def ptpSeq (m : List Byte) : Nat := be2 m 30

/-- The timestamp at offset 34 of a message, in sns. -/
def ptpStamp (m : List Byte) : Int := ((ofBe (slice m 34 6) * nsPerSec + ofBe (slice m 40 4)) * snsPerNs : Nat)

/-- The timestamp field of a time word: SEC and NS (R462). -/
def stampOf (w : TimeWord) : List Byte := beBytes 6 w.sec ++ beBytes 4 w.ns

/-- controlField by messageType. -/
def ptpControl (typ : Nat) : Nat := if typ = 0 then 0 else if typ = 1 then 1 else if typ = 8 then 2 else if typ = 9 then 3 else 5

/-- A message: header and body. `flags` is the flagField. -/
def State.ptpMsg (s : State) (n m typ flags : Nat) (corr : Int) (seq : Nat) (logI : Int) (body : List Byte) : List Byte :=
  let sdo : Nat := if s.ptpProfile n = 4 then 0x10 else 0
  [BitVec.ofNat 8 (sdo + typ), 0x12] ++ beBytes 2 (34 + body.length) ++ [BitVec.ofNat 8 (s.instDomain n m), 0] ++ beBytes 2 flags ++
    beBytes 8 (unsigned 64 corr) ++ zeros 4 ++ s.portId n ++ beBytes 2 (seq % 65536) ++
    [BitVec.ofNat 8 (ptpControl typ), BitVec.ofNat 8 (unsigned 8 logI)] ++ body

/-- twoStepFlag and unicastFlag. -/
def flTwoStep : Nat := 0x200
def flUnicast : Nat := 0x400

/-- A TLV. -/
def tlv (typ : Nat) (v : List Byte) : List Byte := beBytes 2 typ ++ beBytes 2 v.length ++ v

/-- A TLV met in a message: its type, where it starts, and its lengthField. -/
structure TlvAt where
  typ : Nat
  at_ : Nat
  len : Nat
  deriving DecidableEq, Repr

/-- The smallest lengthField of a TLV type (R473). -/
def tlvMin (typ : Nat) : Nat :=
  if typ = 4 then 6 else if typ = 5 then 8 else if typ = 6 ∨ typ = 7 then 2 else if typ = 3 then 6 else if typ = 0x8000 then 22 else 0

/-- The TLVs of a message from an offset, when they walk exactly to its end (R473); at most `k`. -/
def walkTlv (m : List Byte) : Nat → Nat → Option (List TlvAt)
  | 0, o => if o = m.length then some [] else none
  | k + 1, o =>
    if o = m.length then some [] else
    let typ := be2 m o
    let len := be2 m (o + 2)
    if m.length < o + 4 + len ∨ len % 2 = 1 ∨ len < tlvMin typ then none
    else (walkTlv m k (o + 4 + len)).map fun l => { typ := typ, at_ := o, len := len } :: l

/-- The fixed length of a messageType (R473); 0 for one that is not supported. -/
def ptpFixed (typ : Nat) : Nat :=
  if typ = 0 ∨ typ = 1 ∨ typ = 8 ∨ typ = 12 then 44
  else if typ = 2 ∨ typ = 3 ∨ typ = 10 ∨ typ = 9 then 54
  else if typ = 11 then 64 else 0

/-- A message cut at its messageLength. -/
def ptpWhole (m : List Byte) : List Byte := m.take (be2 m 2)

/-- The TLVs of a whole message. -/
def ptpTlvs (m : List Byte) : Option (List TlvAt) := walkTlv m m.length (ptpFixed (ptpType m))

/-! Authentication (R470 to R472). -/

/-- The key store slot of the instance's transmit key. -/
def State.instSlot (s : State) (n m : Nat) : Nat := s.fld (0x98044 + 8 * s.fld (iBase n m + 8) 3 0) 6 0

/-- The AUTHENTICATION TLV of an instance, its ICV still 0. -/
def State.authTlv (s : State) (n m : Nat) : List Byte :=
  tlv 0x8000 ([BitVec.ofNat 8 (s.fld (iBase n m + 8) 31 24), 0] ++ beBytes 4 (s.reg (0x98040 + 8 * s.fld (iBase n m + 8) 3 0)).toNat ++ zeros 16)

/-- A message as an instance sends it, with its TLV and the slot that signs it; none when its key cannot sign (R472). -/
def State.authWrap (s : State) (n m : Nat) (msg : List Byte) : Option (List Byte × Option Nat) :=
  if !s.bit (iBase n m) 25 then some (msg, none)
  else
    let slot := s.instSlot n m
    if (s.macKey slot).isNone then none else
    let w := msg ++ s.authTlv n m
    some (splice w 2 (beBytes 2 w.length), some slot)

/-- AUTH_NOKEY: some instance of a port is to sign and its transmit key cannot (R472, R484). -/
def State.authNoKey (s : State) (n : Nat) : Bool :=
  (List.range 4).any fun m => s.instOn n m && s.bit (iBase n m) 25 && (s.macKey (s.instSlot n m)).isNone

/-- A message withheld (R472). -/
def State.withhold (s : State) (n : Nat) : State := s.count (ptpCtr n 16)

/-- The counter that a received message is dropped under by its authentication (R471). -/
def State.authDrop (s : State) (n : Nat) (p : Pkt) (msg0 : List Byte) : Option Nat :=
  let msg := ptpWhole msg0
  match s.instFor n (ptpDomain msg) p.transport with
  | none => none
  | some m =>
    if !s.bit (iBase n m) 25 then none else
    match ((ptpTlvs msg).getD []).getLast? with
    | some t =>
      if t.typ = 0x8000 then
        let id := ofBe (slice msg (t.at_ + 6) 4)
        let keys := ((List.range 16).filter fun k => s.bit (0x98044 + 8 * k) 31 && (s.reg (0x98040 + 8 * k)).toNat == id).filterMap
          fun k => s.macKey (s.fld (0x98044 + 8 * k) 6 0)
        let icv := slice msg (t.at_ + 10) 16
        if (msg.getD (t.at_ + 4) 0).toNat = s.fld (iBase n m + 8) 31 24 ∧ msg.getD (t.at_ + 5) 0 = 0 ∧
            keys.any (fun k => ptpIcv k (msg.take (t.at_ + 10)) == icv) then none else some 14
      else if s.bit (iBase n m) 24 then some 15 else none
    | none => if s.bit (iBase n m) 24 then some 15 else none

/-! Frames. -/

/-- Where a message is sent: MAC and IP address, and whether Bodkin is to resolve the first (R475). -/
structure PtpDst where
  mac : Nat
  ip : List Byte
  ask : Bool := false
  deriving DecidableEq, Repr

/-- The group that a multicast message is sent to (R460). -/
def State.groupDst (s : State) (n m : Nat) (peer : Bool) : PtpDst :=
  match s.instTransport n m with
  | 0 =>
    if s.bit (iBase n m) 26 || (peer && s.ptpProfile n == 1) then { mac := 0x0180C200000E, ip := [] } else { mac := 0x011B19000000, ip := [] }
  | 1 => if peer then { mac := 0x01005E00006B, ip := [224, 0, 0, 107] } else { mac := 0x01005E000181, ip := [224, 0, 1, 129] }
  | _ =>
    if peer then { mac := 0x33330000006B, ip := [0xFF, 0x02] ++ zeros 13 ++ [0x6B] }
    else { mac := 0x333300000181, ip := [0xFF, 0x0E] ++ zeros 12 ++ [0x01, 0x81] }

/-- PTP_SRC_IP of a port over a transport. -/
def State.ptpSrcIp (s : State) (n : Nat) (v6 : Bool) : List Byte :=
  if v6 then (List.range 4).flatMap fun k => beBytes 4 (s.reg (gBase n + 8 + 4 * k)).toNat else beBytes 4 (s.reg (gBase n + 4)).toNat

/-- The tag that an instance puts on what it originates. -/
def State.ptpTags (s : State) (n m : Nat) : List (Nat × Nat) :=
  let vl := iBase n m + 12
  if s.bit vl 31 then [(0x8100, s.fld vl 30 28 * 8192 + s.fld vl 11 0)] else []

/-- A message that the engine originates, framed by its instance (R460): the bytes, the checksum method and where it stands. -/
def State.ptpFrame (s : State) (n m : Nat) (peer : Bool) (msg : List Byte) (d : PtpDst) : List Byte × Nat × Nat :=
  let vl := iBase n m + 12
  let tags := s.ptpTags n m
  let o := 14 + 4 * tags.length
  match s.instTransport n m with
  | 0 => (padFrame (ethHdr d.mac (s.macAddr n) tags 0x88F7 ++ msg), 0, o)
  | t =>
    let v6 := t == 2
    let port : Nat := if ptpType msg < 4 then 319 else 320
    let src := s.ptpSrcIp n v6
    let u := udpBytes v6 src d.ip port port (msg ++ (if v6 then [0, 0] else []))
    let ttl := if peer then 1 else s.fld 0x40000 23 16
    (padFrame (ethHdr d.mac (s.macAddr n) tags (if v6 then 0x86DD else 0x0800) ++ ipHdr v6 (s.fld vl 21 16) ttl 17 u.length src d.ip ++ u),
      t, o + (if v6 then 40 else 20))

/-- The priority of a frame the engine originates: its PCP, or that of untagged frames. -/
def State.ptpPrio (s : State) (n m : Nat) : Nat := if s.bit (iBase n m + 12) 31 then s.fld (iBase n m + 12) 30 28 else s.untagPrio n

/-- A message sent by the engine; `ins` gives the insertion from where the message stands in the frame. -/
def State.ptpSend (s : State) (n m : Nat) (src : EgSrc) (peer : Bool) (ins : Nat → Insertion) (tsReq : Bool) (msg : List Byte) (d : PtpDst) :
    State :=
  match s.authWrap n m msg with
  | none => s.withhold n
  | some (w, slot) =>
    if !(s.port n).link then s else
    let (bs, cs, l4) := s.ptpFrame n m peer w d
    let o := if cs = 0 then l4 else l4 + 8
    let f := { s.plainFrame src bs (s.ptpPrio n m) with ins := ins o, csum := cs, l4 := l4, auth := slot, tsReq := tsReq }
    if d.ask then s.sendVia n (s.ptpTags n m) (s.ptpSrcIp n (d.ip.length == 16)) d.ip f else s.queueFrame n f

/-- Whether an address is a group address. -/
def groupMac (mac : Nat) : Bool := decide (mac / 2 ^ 40 % 2 = 1)

/-- The frame of a response to a message (R438, R460). -/
def State.ptpReply (s : State) (n : Nat) (p : Pkt) (msg : List Byte) : List Byte × Nat × Nat :=
  if p.etype = 0x88F7 then (p.respondEth (s.macAddr n) msg, 0, 14 + 4 * p.tags.length)
  else
    let p1 := if groupMac p.dst then { p with dstIp := s.ptpSrcIp n p.v6 } else p
    (p1.respondUdp (s.macAddr n) (s.fld 0x40000 23 16) (msg ++ (if p.v6 then [0, 0] else [])), if p.v6 then 2 else 1, p.udpAt)

/-- A response of a lane, or the item ended when its key cannot sign. -/
def State.ptpAnswer (s : State) (lane : Nat) (c : Ctx) (m : Nat) (src : EgSrc) (ins : Nat → Insertion) (tsReq : Bool) (msg : List Byte) :
    State :=
  match s.authWrap c.port m msg with
  | none => (s.laneDrop lane c).withhold c.port
  | some (w, slot) =>
    let (bs, cs, l4) := (s.underSet lane).ptpReply c.port c.pkt w
    let o := if cs = 0 then l4 else l4 + 8
    s.answer lane c { s.plainFrame src bs (c.pkt.prio (s.untagPrio c.port)) with
      ins := ins o, csum := cs, l4 := l4, auth := slot, tsReq := tsReq, born := c.born }

/-- A response of the engine that needs no context. -/
def State.ptpReplySend (s : State) (n m : Nat) (src : EgSrc) (p : Pkt) (msg : List Byte) : State :=
  match s.authWrap n m msg with
  | none => s.withhold n
  | some (w, slot) =>
    if !(s.port n).link then s else
    let (bs, cs, l4) := s.ptpReply n p w
    s.queueFrame n { s.plainFrame src bs (p.prio (s.untagPrio n)) with csum := cs, l4 := l4, auth := slot }

/-! Grants (R464 to R468). -/

/-- Whether two grants are of one client: one port identity at one address on one port. -/
def Grant.client (g : Grant) : Nat × List Byte × List Byte := (g.port, g.cid, g.addr)

/-- The clients that hold grants. -/
def State.clients (s : State) : List (Nat × List Byte × List Byte) := (s.ptp.grants.map Grant.client).eraseDups

/-- The rate of a grant in the committed rate (R466). -/
def Grant.rate (g : Grant) : Rat := logRate g.logI * (if g.kind = 2 then 2 else 1)

/-- The committed message rate (R466). -/
def State.committedRate (s : State) : Rat :=
  let uc : Rat := (s.ptp.grants.map Grant.rate).sum
  let inst := fun (n m : Nat) => logRate (s.logSync n m) + logRate (s.logAnn n m) +
    (if peerDelay (s.ptpProfile n) then logRate (signed 4 (s.fld (gBase n) 23 20)) else 0)
  let port := fun (n : Nat) =>
    let mc := (List.range 4).filter fun m => s.instOn n m && s.bit (iBase n m) 30
    if mc.isEmpty then (0 : Rat) else (mc.map (inst n)).sum + ((2 * s.fld (gBase n) 19 0 : Nat) : Rat)
  uc + ((List.range 4).map port).sum

/-- The stride of an interval on the grid of 2,048 slots (R467). -/
def strideOf (l : Int) : Nat := 2 ^ (l + 7).toNat

/-- Whether a grant of an interval and phase takes a slot. -/
def inSlot (l : Int) (phase slot : Nat) : Bool := slot % strideOf l == phase

/-- The load of a slot of a port by the grants of a kind, and by its multicast instances, which take phase 0. -/
def State.slotLoad (s : State) (gs : List Grant) (n kind slot : Nat) : Nat :=
  (gs.filter fun g => g.port == n && g.kind == kind && inSlot g.logI g.phase slot).length +
  ((List.range 4).filter fun m => s.instOn n m && s.bit (iBase n m) 30 &&
    inSlot (if kind = 0 then s.logSync n m else s.logAnn n m) 0 slot).length

/-- The highest and the total load of the slots of a phase. -/
def phaseLoad (load : List Nat) (stride p : Nat) : Nat × Nat :=
  (List.range ((load.length + stride - 1 - p) / stride)).foldl (fun a k =>
    let x := load.getD (p + k * stride) 0
    (max a.1 x, a.2 + x)) (0, 0)

/-- The phase a new grant takes, unless it would raise a slot above SLOT_MAX (R467). -/
def State.place (s : State) (gs : List Grant) (n kind : Nat) (l : Int) : Option Nat :=
  let load := (List.range 2048).map (s.slotLoad gs n kind)
  let st := strideOf l
  let best := (List.range st).foldl (fun (b : Option (Nat × Nat × Nat)) p =>
    let (hi, tot) := phaseLoad load st p
    match b with
    | none => some (hi, tot, p)
    | some (h, t, _) => if hi < h ∨ (hi = h ∧ tot < t) then some (hi, tot, p) else b) none
  let limit : Nat := if (s.port n).speed = 0 then 2048 else 16384
  match best with
  | some (hi, _, p) => if hi < limit then some p else none
  | none => none

/-- The kind of a unicast message type: 0 Sync, 1 Announce, 2 Delay_Resp. -/
def grantKind (typ : Nat) : Option Nat := if typ = 0 then some 0 else if typ = 11 then some 1 else if typ = 9 then some 2 else none

/-- The intervals that a profile allows a kind (R456). -/
def logRange (profile kind : Nat) : Int × Int :=
  if profile = 2 then (if kind = 1 then (-3, -3) else (-4, -4))
  else if profile = 3 then (if kind = 1 then (-3, 0) else (-7, 0))
  else if kind = 0 then (-7, 1) else if kind = 1 then (-3, 3) else (-7, 5)

/-- One REQUEST_UNICAST_TRANSMISSION answered (R464, R465, R468): the duration granted, 0 for a denial. -/
def State.grantOne (s : State) (n m : Nat) (p : Pkt) (cid : List Byte) (typ : Nat) (l : Int) (dur : Nat) : Nat × State :=
  let addr := if p.etype = 0x88F7 then beBytes 6 p.src else p.srcIp
  let profile := s.ptpProfile n
  let lo : Nat := if profile = 3 then 60 else 10
  let d := max lo (min 1000 dur)
  let deny := (0, s.count (ptpCtr n 6))
  match grantKind typ with
  | none => deny
  | some kind =>
    let (a, b) := logRange profile kind
    if l < a ∨ b < l then deny else
    let me := (n, cid, addr)
    let isOld := fun (g : Grant) => g.client == me && g.kind == kind && g.inst == m
    let others := s.ptp.grants.filter fun g => !isOld g
    if !s.clients.contains me && decide (16384 ≤ s.clients.length) then deny else
    let new : Grant := { port := n, inst := m, cid := cid, addr := addr, kind := kind, logI := l, phase := 0, movePhase := none,
                         until_ := s.now + d * nsPerSec, times := [], reply := p }
    let trial := { s with ptp := { s.ptp with grants := others ++ [new] } }
    if (8000000 : Rat) < trial.committedRate then deny else
    let old := s.ptp.grants.find? isOld
    let put := fun (g : Grant) => (d, ({ s with ptp := { s.ptp with grants := others ++ [g] } }).count (ptpCtr n 5))
    match old with
    | some o =>
      if o.logI = l then put { o with until_ := new.until_, reply := p, movePhase := none }
      else if kind = 2 then put { new with times := o.times }
      else match s.place others n kind l with
        | some ph => put { o with until_ := new.until_, reply := p, movePhase := some (l, ph) }
        | none => deny
    | none =>
      if kind = 2 then put new
      else match s.place others n kind l with
        | some ph => put { new with phase := ph }
        | none => deny

/-- One CANCEL_UNICAST_TRANSMISSION to an instance (R468). -/
def State.cancelOne (s : State) (n m : Nat) (p : Pkt) (cid : List Byte) (typ : Nat) : State :=
  let addr := if p.etype = 0x88F7 then beBytes 6 p.src else p.srcIp
  let hit := fun (g : Grant) => g.client == (n, cid, addr) && g.inst == m && some g.kind == grantKind typ
  if s.ptp.grants.any hit then
    ({ s with ptp := { s.ptp with grants := s.ptp.grants.filter (fun g => !hit g) } }).count (ptpCtr n 7)
  else s

/-- messageType by kind. -/
def kindType (kind : Nat) : Nat := if kind = 0 then 0 else if kind = 1 then 11 else 9

/-- A Signaling message to a port identity. -/
def State.signaling (s : State) (n m : Nat) (target tlvs : List Byte) (seq : Nat) : List Byte :=
  s.ptpMsg n m 12 flUnicast 0 seq 0x7F (target ++ tlvs)

/-- Where the client of a grant is reached. -/
def Grant.dst (g : Grant) : PtpDst := { mac := g.reply.src, ip := g.reply.srcIp }

/-- CANCEL to the client of a grant (R468, R487). -/
def State.sendCancel (s : State) (g : Grant) : State :=
  let msg := s.signaling g.port g.inst g.cid (tlv 6 [BitVec.ofNat 8 (kindType g.kind * 16), 0]) (s.ptpPort g.port).reqSeq
  (s.ptpSend g.port g.inst .signaling false (fun _ => .none) false msg g.dst).setPtp g.port fun p => { p with reqSeq := p.reqSeq + 1 }

/-- Grants cancelled: a CANCEL for each, and each removed and counted (R468, R486). -/
def State.cancelGrants (s : State) (p : Grant → Bool) : State :=
  let gs := s.ptp.grants.filter p
  let s1 := gs.foldl (fun s g => (s.sendCancel g).count (ptpCtr g.port 7)) s
  { s1 with ptp := { s1.ptp with grants := s1.ptp.grants.filter (fun g => !p g) } }

/-- GRANT_EXPIRE (R468): the grant at an index of the table. -/
def State.grantExpire (s : State) (n g : Nat) : State :=
  match s.ptp.grants[g]? with
  | some x =>
    if x.port = n ∧ x.until_ ≤ s.now then { s with ptp := { s.ptp with grants := s.ptp.grants.eraseIdx g } } else s
  | none => s

/-! What a grandmaster port sends. -/

/-- clockAccuracy (R461). -/
def State.clockAccuracy (s : State) (n m : Nat) : Nat :=
  if s.openFields then 0xFE
  else if s.md.mode == .locked then s.fld (iBase n m + 4) 15 8
  else
    let e := s.shownError / snsPerNs
    if e ≤ 25 then 0x20 else if e ≤ 100 then 0x21 else if e ≤ 250 then 0x22 else if e ≤ 1000 then 0x23 else if e ≤ 2500 then 0x24
    else if e ≤ 10000 then 0x25 else if e ≤ 25000 then 0x26 else if e ≤ 100000 then 0x27 else 0xFE

/-- timeSource (R461). -/
def State.timeSource (s : State) : Nat :=
  match s.ref.sel.or s.ref.prevId with
  | none => 0xA0
  | some k => if k < 8 then (if s.qlEff k ≤ 2 then 0x10 else 0x90) else if k = 8 then 0x20 else if k < 13 then 0x40 else 0x90

/-- flagField of Announce (R461). -/
def State.annFlags (s : State) : Nat :=
  let del := match s.tb.next with
    | some (_, x) => x
    | none => false
  let trace := s.md.mode == .locked || ((s.md.mode == .holdover || s.md.mode == .maintain) && s.inBudget)
  b01 (s.tb.l && !del) + 2 * b01 (s.tb.l && del) + 4 * b01 (s.tb.leapImage || s.tb.leapGnss) + 8 + 48 * b01 trace

/-- An Announce message (R461). -/
def State.announceMsg (s : State) (n m seq : Nat) (uni : Bool) (logI : Int) : List Byte :=
  s.ptpMsg n m 11 (s.annFlags + (if uni then flUnicast else 0)) 0 seq logI
    (zeros 10 ++ beBytes 2 (unsigned 16 s.tb.utcOfs) ++ [0, BitVec.ofNat 8 (s.fld (iBase n m) 15 8), BitVec.ofNat 8 s.clockClass,
      BitVec.ofNat 8 (s.clockAccuracy n m)] ++ beBytes 2 (if s.md.mode == .locked then 0x4E5D else 0xFFFF) ++
      [BitVec.ofNat 8 (s.fld (iBase n m) 7 0)] ++ s.clockId ++ [0, 0, BitVec.ofNat 8 s.timeSource])

/-- gmTimeBaseIndicator (R462): a count of SETs, STEPs and changes of SEL_ID. -/
def State.gmIndicator (s : State) : Nat := (s.tb.gmBase + (s.ctrAt 0x60018).toNat) % 65536

/-- A Sync message (R462). -/
def State.syncMsg (s : State) (n m seq : Nat) (uni : Bool) (logI : Int) : List Byte :=
  let fup := if s.ptpProfile n = 4 then
      tlv 3 ([0x00, 0x80, 0xC2, 0, 0, 1] ++ zeros 4 ++ beBytes 2 s.gmIndicator ++ beBytes 12 (unsigned 96 s.tb.last) ++ zeros 4)
    else []
  s.ptpMsg n m 0 ((if uni then flUnicast else 0) + (if s.ptpProfile n = 4 then 8 else 0)) 0 seq logI (zeros 10 ++ fup)

/-- Whether a port may send Sync (R457, R463) and Announce (R463). -/
def State.maySync (s : State) (n : Nat) : Bool :=
  s.ptpProfile n != 4 || ((s.ptpPort n).oneStepOk && (s.ptpPort n).asCapable)
def State.mayAnnounce (s : State) (n : Nat) : Bool := s.ptpProfile n != 4 || (s.ptpPort n).asCapable

/-- PTP_TS where a Sync stands (R418, R462). -/
def syncIns (o : Nat) : Insertion := .ptpTs (o + 34) (o + 8)

/-- A multicast Sync or Announce of an instance. -/
def State.sendGroup (s : State) (n m kind : Nat) : State :=
  let p := s.ptpPort n
  if kind = 0 then
    (s.ptpSend n m .sync false syncIns false (s.syncMsg n m p.syncSeq false (s.logSync n m)) (s.groupDst n m false)).setPtp n
      fun p => { p with syncSeq := p.syncSeq + 1 }
  else
    (s.ptpSend n m .announce false (fun _ => .none) false (s.announceMsg n m p.annSeq false (s.logAnn n m)) (s.groupDst n m false)).setPtp n
      fun p => { p with annSeq := p.annSeq + 1 }

/-- A unicast Sync or Announce to the client of a grant. -/
def State.sendUni (s : State) (g : Grant) : State :=
  let p := s.ptpPort g.port
  if g.kind = 0 then
    (s.ptpSend g.port g.inst .sync false syncIns false (s.syncMsg g.port g.inst p.syncSeq true g.logI) g.dst).setPtp g.port
      fun p => { p with syncSeq := p.syncSeq + 1 }
  else
    (s.ptpSend g.port g.inst .announce false (fun _ => .none) false (s.announceMsg g.port g.inst p.annSeq true g.logI) g.dst).setPtp g.port
      fun p => { p with annSeq := p.annSeq + 1 }

/-- A grant moved to the phase found for its renewal, at its next message (R468). -/
def Grant.moved (g : Grant) : Grant :=
  match g.movePhase with
  | some (l, ph) => { g with logI := l, phase := ph, movePhase := none }
  | none => g

/-- Every message of a kind due in a slot of a port, to multicast and to the clients chosen. -/
def State.sendSlot (s : State) (n kind slot : Nat) (inst : Nat → Bool) : State :=
  let s1 := (List.range 4).foldl (fun s m =>
    if inst m && s.instOn n m && s.bit (iBase n m) 30 && inSlot (if kind = 0 then s.logSync n m else s.logAnn n m) 0 slot
    then s.sendGroup n m kind else s) s
  let due := fun (g : Grant) => g.port == n && g.kind == kind && inst g.inst && inSlot g.logI g.phase slot
  let s2 := (s1.ptp.grants.filter due).foldl (fun s g => s.sendUni g) s1
  { s2 with ptp := { s2.ptp with grants := s2.ptp.grants.map fun g => if due g then g.moved else g } }

/-- The slot of the grid in which Warp stands (R467). -/
def State.slotNow (s : State) : Nat := s.tb.warp % (16 * nsPerSec) / 7812500

/-- The slots since Warp's epoch. -/
def State.slotCount (s : State) : Nat := s.tb.warp / 7812500

/-- SYNC_SEND: a slot of the grid begins on a grandmaster port; its Syncs are sent once. -/
def State.syncSend (s : State) (n slot : Nat) : State :=
  if s.ptpRuns n && !s.ptpClient n && slot == s.slotNow && s.maySync n && (s.ptpPort n).syncSlot != some s.slotCount then
    (s.sendSlot n 0 slot (fun _ => true)).setPtp n fun p => { p with syncSlot := some s.slotCount }
  else s

/-- ANNOUNCE_SEND: an instance's Announce messages due in the present slot, sent once. -/
def State.announceSend (s : State) (n inst : Nat) : State :=
  if s.ptpRuns n && !s.ptpClient n && s.mayAnnounce n && (s.ptpPort n).annSlot.getD inst none != some s.slotCount then
    (s.sendSlot n 1 s.slotNow (fun m => m == inst)).setPtp n fun p => { p with annSlot := putAt p.annSlot inst (some s.slotCount) }
  else s

/-! Received messages (R473). -/

/-- The message that a lane holds, with its context, once it has spent its 64 cycles (R434); checked or not. -/
def State.lanePtp (s : State) (lane : Nat) : Option (Ctx × List Byte) :=
  if !s.laneDone lane then none else
  match (s.wv.lanes.getD lane Lane.reset).ctx.bind s.ctxAt with
  | some c => if c.cls ≤ 1 then c.pkt.ptp?.map fun m => (c, m) else none
  | none => none

/-- Whether a port's role receives a messageType (R473). -/
def roleTakes (client : Bool) (typ : Nat) : Bool :=
  if client then typ != 1 else typ == 1 || typ == 12 || typ == 2 || typ == 3 || typ == 10 || typ == 0 || typ == 11

/-- The counter of the first rule of R473 that a message breaks. -/
def State.ptpDrop (s : State) (n : Nat) (p : Pkt) (m0 : List Byte) : Option Nat :=
  let len := be2 m0 2
  let m := ptpWhole m0
  let typ := ptpType m0
  if len < 34 ∨ m0.length < len ∨ len < ptpFixed typ then some 8
  else if (m0.getD 1 0).toNat % 16 ≠ 2 ∨ 1 < (m0.getD 1 0).toNat / 16 then some 9
  else if ptpFixed typ = 0 then some 10
  else if slice m 20 8 = s.clockId then some 11
  else if (s.instFor n (ptpDomain m) p.transport).isNone then some 12
  else if (ptpTlvs m).isNone then some 8
  else if !roleTakes (s.ptpClient n) typ then some 10
  else none

/-- PTP_MESSAGE_RECEIVE: a lane checks the message it holds. Announce and Sync on a grandmaster port are counted and end there; a
message of which the port takes no further notice ends as well; any other waits for the row of its type. -/
def State.ptpReceive (s : State) (lane : Nat) : State :=
  match s.lanePtp lane with
  | none =>
    match (s.wv.lanes.getD lane Lane.reset).ctx.bind s.ctxAt with
    | some c => if c.cls ≤ 1 ∧ s.laneDone lane then (s.laneDrop lane c).count (ptpCtr c.port 8) else s
    | none => s
  | some (c, m) =>
    if c.checked then s else
    match s.ptpDrop c.port c.pkt m with
    | some i => (s.laneDrop lane c).count (ptpCtr c.port i)
    | none =>
      if !s.ptpClient c.port && (ptpType m == 0 || ptpType m == 11) then (s.laneDrop lane c).count (ptpCtr c.port 17)
      else s.setCtx c.id fun x => { x with checked := true }

/-- A checked message of one of some types, with its instance. -/
def State.taken (s : State) (lane : Nat) (types : List Nat) : Option (Ctx × List Byte × Nat) :=
  match s.lanePtp lane with
  | some (c, m0) =>
    let m := ptpWhole m0
    if c.checked && types.contains (ptpType m) then
      (s.instFor c.port (ptpDomain m) c.pkt.transport).map fun i => (c, m, i)
    else none
  | none => none

/-! Delay requests (R462, R469). -/

/-- The Delay_Req of a unicast client, by its grant, or of a multicast client: whether it is accepted, and its grant's interval. -/
def State.dreqGrant (s : State) (c : Ctx) (m : List Byte) (i : Nat) : Option Grant :=
  let addr := if c.pkt.etype = 0x88F7 then beBytes 6 c.pkt.src else c.pkt.srcIp
  s.ptp.grants.find? fun g => g.client == (c.port, ptpSrc m, addr) && g.kind == 2 && g.inst == i

/-- Instants of the last second. -/
def State.lastSec (s : State) (ts : List Nat) : List Nat := ts.filter fun t => decide (s.now < t + nsPerSec)

/-- A Delay_Resp (R462). -/
def State.delayResp (s : State) (c : Ctx) (m : List Byte) (i : Nat) (uni : Bool) (logI : Int) : List Byte :=
  s.ptpMsg c.port i 9 (if uni then flUnicast else 0) (ptpCorr m - c.ingress.sns) (ptpSeq m) logI (stampOf c.ingress ++ ptpSrc m)

/-- DELAY_REQ (R469). -/
def State.delayReq (s : State) (lane : Nat) : State :=
  match s.taken lane [1] with
  | none => s
  | some (c, m, i) =>
    let n := c.port
    let refuse := (s.laneDrop lane c).count (ptpCtr n 13)
    let answer := fun (s : State) (uni : Bool) (l : Int) =>
      (s.count (ptpCtr n 4)).ptpAnswer lane c i (.delayResp c.id) (fun _ => .none) false (s.delayResp c m i uni l)
    if peerDelay (s.ptpProfile n) then s.laneDrop lane c
    else if !groupMac c.pkt.dst && s.bit (iBase n i) 29 then
      match s.dreqGrant c m i with
      | none => refuse
      | some g =>
        let ts := s.lastSec g.times
        if (2 * logRate g.logI).ceil.toNat ≤ ts.length then refuse else
        let mark := fun (x : Grant) => if x = g then { x with times := s.now :: ts } else x
        answer { s with ptp := { s.ptp with grants := s.ptp.grants.map mark } } true g.logI
    else if s.bit (iBase n i) 30 then
      let ts := s.lastSec (s.ptpPort n).dreqTimes
      if s.fld (gBase n) 19 0 ≤ ts.length then refuse else
      answer (s.setPtp n fun p => { p with dreqTimes := s.now :: ts }) false (s.logDreq n i)
    else refuse

/-! Peer delay (R462, R463). -/

/-- PDELAY_REQ_RECEIVE. -/
def State.pdelayReqIn (s : State) (lane : Nat) : State :=
  match s.taken lane [2] with
  | none => s
  | some (c, m, i) =>
    let n := c.port
    match s.ptpProfile n with
    | 1 =>
      s.ptpAnswer lane c i (.pdelayResp c.id false) (fun o => .ptpRes (o + 8) c.ingress) false
        (s.ptpMsg n i 3 0 (ptpCorr m) (ptpSeq m) 0x7F (zeros 10 ++ ptpSrc m))
    | 4 =>
      s.ptpAnswer lane c i (.pdelayResp c.id true) (fun _ => .none) true
        (s.ptpMsg n i 3 (flTwoStep + 8) c.ingress.sns (ptpSeq m) 0x7F (stampOf c.ingress ++ ptpSrc m))
    | _ => s.laneDrop lane c

/-- PDELAY_RESP_FOLLOW_UP: on the report of a Pdelay_Resp's T_out. -/
def State.pdelayFollow (s : State) (n : Nat) : State :=
  match (s.ptpPort n).pdFup with
  | [] => s
  | (pid, seq, w, p) :: rest =>
    let s1 := s.setPtp n fun q => { q with pdFup := rest }
    match p.ptp?.bind fun m => s1.instFor n (ptpDomain m) p.transport with
    | some i =>
      if s1.ptpRuns n then
        s1.ptpSend n i .pdelayFup true (fun _ => .none) false (s1.ptpMsg n i 10 8 w.sns seq 0x7F (stampOf w ++ pid)) (s1.groupDst n i true)
      else s1
    | none => s1

/-- asCapable of a profile 4 port (R463). -/
def State.judgeAs (s : State) (n : Nat) : State :=
  s.setPtp n fun p =>
    let near := match p.mpd with
      | some d => decide (d ≤ ((s.reg (gBase n + 0x18)).toNat * snsPerNs : Nat))
      | none => false
    { p with asCapable := s.ptpProfile n == 4 && near && decide (3 ≤ (p.pdHist.filter id).length) }

/-- A request that begins an exchange: its sequence number. -/
def State.beginExchange (s : State) (n : Nat) : State :=
  s.setPtp n fun p => { p with reqSeq := p.reqSeq + 1,
                               exch := some { seq := (p.reqSeq + 1) % 65536, t1 := none, t2 := none, t4 := none, corr := 0 } }

/-- The Pdelay_Req interval of a port has run since its last (R479). -/
def State.pdelayDue (s : State) (n : Nat) : Bool :=
  match (s.ptpPort n).pdAt with
  | some t => decide (t + logNs (signed 4 (s.fld (gBase n) 23 20)) ≤ s.now)
  | none => true

/-- PDELAY_REQ_SEND: a peer-delay port asks its neighbour, every LOG_PDREQ; the answers to the last 5 requests are kept. -/
def State.pdelaySend (s : State) (n m : Nat) : State :=
  if s.ptpRuns n && s.instOn n m && s.bit (iBase n m) 30 && peerDelay (s.ptpProfile n) && s.pdelayDue n then
    let s1 := (s.beginExchange n).setPtp n fun p => { p with pdAt := some s.now, pdHist := (p.pdHist ++ [false]).drop (p.pdHist.length + 1 - 5) }
    let s2 := s1.judgeAs n
    let seq := ((s.ptpPort n).reqSeq + 1) % 65536
    s2.ptpSend n m (.pdelayReq seq) true (fun _ => .none) true
      (s2.ptpMsg n m 2 (if s2.ptpProfile n = 4 then 8 else 0) 0 seq (signed 4 (s2.fld (gBase n) 23 20)) (zeros 20)) (s2.groupDst n m true)
  else s

/-- A neighbour delay found: the last 16 are kept (R463, R476). -/
def State.neighbour (s : State) (n : Nat) (d : Int) : State :=
  (s.setPtp n fun p =>
    { p with mpd := some d, delays := (p.delays ++ [d]).drop (p.delays.length + 1 - 16), exch := none,
             pdHist := if p.pdHist.isEmpty then [true] else p.pdHist.dropLast ++ [true] }).judgeAs n

/-- PEER_DELAY_COMPLETE: a Pdelay_Resp of the exchange in hand, alone or with its follow-up (R463). In profile 4 the corrections
are what is below a nanosecond of the times they go with; otherwise they are taken off the interval. -/
def State.peerComplete (s : State) (lane : Nat) : State :=
  match s.taken lane [3, 10] with
  | none => s
  | some (c, m, _) =>
    let n := c.port
    let s0 := s.laneDrop lane c
    let p := s0.ptpPort n
    match p.exch with
    | none => s0
    | some x =>
      if ptpSeq m ≠ x.seq ∨ slice m 44 10 ≠ s0.portId n ∨ !peerDelay (s0.ptpProfile n) then s0 else
      match x.t1 with
      | none => s0
      | some t1 =>
        let as := s0.ptpProfile n == 4
        if ptpType m = 3 then
          let t4 : Int := c.ingress.t
          if (m.getD 6 0).toNat / 2 % 2 = 0 then s0.neighbour n (Config.round (((t4 - t1 - ptpCorr m : Int) : Rat) / 2))
          else s0.setPtp n fun q => { q with exch := some { x with
            t2 := some (if as then ptpStamp m + ptpCorr m else ptpStamp m), t4 := some t4, corr := if as then 0 else ptpCorr m } }
        else
          match x.t2, x.t4 with
          | some t2, some t4 =>
            let t3 := if as then ptpStamp m + ptpCorr m else ptpStamp m
            let corr := if as then 0 else x.corr + ptpCorr m
            s0.neighbour n (Config.round (((t4 - t1 - (t3 - t2) - corr : Int) : Rat) / 2))
          | _, _ => s0

/-! The client role (R474 to R477). -/

/-- The grandmaster a client port follows. -/
def State.followed (s : State) (n : Nat) : Option Foreign :=
  let p := s.ptpPort n
  p.following.bind fun id => p.foreign.find? fun f => f.cid == id

/-- A foreign grandmaster is qualified: 2 Announce messages within 4 announce intervals (R474). -/
def State.qualified (s : State) (n : Nat) (f : Foreign) : Bool :=
  decide (2 ≤ (f.anns.filter fun t => decide (s.now < t + 4 * logNs (s.logAnn n 0))).length) && decide (f.steps < 255)

/-- Lexicographic comparison of bytes. -/
def bytesLt : List Byte → List Byte → Bool
  | [], [] => false
  | [], _ => true
  | _, [] => false
  | a :: x, b :: y => if a = b then bytesLt x y else decide (a.toNat < b.toNat)

/-- The keys by which one dataset is compared with another, in order: lower is better (R474). The alternate algorithm of profiles 2 and
3 leaves priority1 out and puts localPriority after priority2. -/
def Foreign.keys (f : Foreign) (alt : Bool) : List Nat :=
  if alt then [f.class_, f.acc, f.var, f.prio2, f.localPrio] else [f.prio1, f.class_, f.acc, f.var, f.prio2]

/-- Whether the first list of numbers comes before the second. -/
def natsLt : List Nat → List Nat → Bool
  | a :: x, b :: y => if a = b then natsLt x y else decide (a < b)
  | _, _ => false

/-- Whether one foreign grandmaster is nearer than another, of equal steps the one of lower sender identity. -/
def Foreign.nearer (f g : Foreign) : Bool := decide (f.steps < g.steps) || (f.steps == g.steps && bytesLt f.cid g.cid)

/-- Whether one foreign grandmaster is better than another. The default comparison looks at the grandmasters' identities first, and of
one grandmaster takes the nearer path. The alternate one looks at them last, and of clocks of class 127 or better takes the nearer in
their place (PRESUMED of ITU-T G.8275.1 and G.8275.2, log 128). -/
def Foreign.better (alt : Bool) (f g : Foreign) : Bool :=
  let same := f.keys alt == g.keys alt
  let first := natsLt (f.keys alt) (g.keys alt)
  if alt then (if same then (if f.class_ ≤ 127 ∨ f.gmId = g.gmId then f.nearer g else bytesLt f.gmId g.gmId) else first)
  else if f.gmId = g.gmId then f.nearer g
  else first || (same && bytesLt f.gmId g.gmId)

/-- The best qualified grandmaster of a client port; one with the own clock identity is never followed (R477). -/
def State.bestForeign (s : State) (n : Nat) : Option Foreign :=
  let alt := s.ptpProfile n == 2 || s.ptpProfile n == 3
  ((s.ptpPort n).foreign.filter fun f => s.qualified n f && f.gmId != s.clockId).foldl (fun b f => match b with
    | none => some f
    | some g => if f.better alt g then some f else some g) none

/-- QL_EFF of a clockClass (R202). -/
def classQl (c : Nat) : Nat :=
  if c = 6 then 2 else if c = 7 then 4 else if c = 135 then 6 else if c = 140 then 7 else if c = 150 then 8 else if c = 160 then 9
  else if c = 248 ∨ c = 255 then 15 else 12

/-- The received quality of a reference; rank 15 fails its quality monitor at the change (R191, R202). -/
def State.rxQuality (s : State) (i q : Nat) : State :=
  if s.md.mode == .safe then s else
  let s1 := s.setRef i fun r => { r with rxQl := q }
  if q = 15 then s1.monitorFails i fun r => { r with qlf := true } else s1

/-- The received quality of a client's reference follows the grandmaster followed (R202, R477); without one the activity monitor
has failed already. -/
def State.clientQl (s : State) (n : Nat) : State :=
  match s.followed n with
  | some f => s.rxQuality (9 + n) (classQl f.class_)
  | none => s.setRef (9 + n) fun r => { r with rxQl := 15 }

/-- The best qualified grandmaster followed, where none is (R477); its unicast requests are due at once. -/
def State.followBest (s : State) (n : Nat) : State :=
  if (s.ptpPort n).following.isSome then s.clientQl n else
  match s.bestForeign n with
  | some f =>
    (s.setPtp n fun p => { p with following := some f.cid, syncAt := s.now, annAt := s.now, renewAt := 0, delays := if peerDelay (s.ptpProfile n) then p.delays else [],
                                  mpd := if peerDelay (s.ptpProfile n) then p.mpd else none }).clientQl n
  | none => s.clientQl n

/-- Loss of the grandmaster reported: the PTP activity monitor fails (R191, R477). -/
def State.gmLoss (s : State) (n : Nat) : State :=
  let s1 := s.setPtp n fun p => { p with following := none, twoStep := none, syncMs := none,
                                         exch := if peerDelay (s.ptpProfile n) then p.exch else none }
  let s2 := (s1.count (ptpCtr n 18)).setRef (9 + n) fun r => { r with active := false }
  (s2.monitorFails (9 + n) fun r => { r with los := true }).followBest n

/-- The address of an entry PTP_CLI_GMnk (R482). -/
def State.gmEntry (s : State) (n k : Nat) : List Byte :=
  let w := gBase n + 0x100 + 0x20 * k
  (List.range (if s.bit w 30 then 4 else 1)).flatMap fun j => beBytes 4 (s.reg (w + 4 + 4 * j)).toNat

/-- localPriority: that of the grandmaster's entry under unicast, else of the instance (R474). -/
def State.gmLocalPrio (s : State) (n : Nat) (p : Pkt) : Nat :=
  if s.bit (iBase n 0) 29 then
    match (List.range 4).find? fun k => s.bit (gBase n + 0x100 + 0x20 * k) 31 && s.gmEntry n k == p.srcIp with
    | some k => s.fld (gBase n + 0x100 + 0x20 * k) 7 0
    | none => s.fld (iBase n 0 + 4) 7 0
  else s.fld (iBase n 0 + 4) 7 0

/-- What an Announce says of its grandmaster. -/
def State.foreignOf (s : State) (n : Nat) (m : List Byte) (p : Pkt) (anns : List Nat) : Foreign :=
  { cid := ptpSrc m, gmId := slice m 53 8, prio1 := (m.getD 47 0).toNat, class_ := (m.getD 48 0).toNat, acc := (m.getD 49 0).toNat,
    var := be2 m 50, prio2 := (m.getD 52 0).toNat, steps := be2 m 61, localPrio := s.gmLocalPrio n p, anns := anns, src := p }

/-- CLIENT_ANNOUNCE (R474, R477): the Announce recorded, and the grandmaster followed chosen anew. -/
def State.clientAnnounce (s : State) (lane : Nat) : State :=
  match s.taken lane [11] with
  | none => s
  | some (c, m, _) =>
    let n := c.port
    let s0 := s.laneDrop lane c
    if !s0.ptpClient n then s0 else
    let id := ptpSrc m
    let p := s0.ptpPort n
    let old := p.foreign.find? fun f => f.cid == id
    if old.isNone && decide (8 ≤ p.foreign.length) then s0 else
    let f := s0.foreignOf n m c.pkt (s0.now :: ((old.map (·.anns)).getD []).take 7)
    let own := p.following == some id
    let s1 := s0.setPtp n fun q => { q with foreign := q.foreign.filter (fun g => g.cid != id) ++ [f], annAt := if own then s0.now else q.annAt }
    if own && f.gmId == s1.clockId then
      (s1.setPtp n fun q => { q with foreign := q.foreign.filter (fun g => g.cid != id) }).gmLoss n
    else
      match p.following, s1.bestForeign n with
      | some a, some b => if a = b.cid then s1.clientQl n else s1.gmLoss n
      | _, _ => s1.followBest n

/-- z of a Sync delivered to the selector, once there is a delay estimate (R476). -/
def State.clientZ (s : State) (n : Nat) (t1 cs t2 : Int) : State :=
  let s1 := s.setPtp n fun p => { p with syncAt := s.now, syncMs := some (t2 - t1 - cs), twoStep := none }
  let p := s1.ptpPort n
  if p.delays.isEmpty then s1 else
  let z := t1 + cs + medianI p.delays + s1.pair (gBase n + 0x1C) - t2
  (s1.setPtp n fun p => { p with ofs := z }).refMeasure (9 + n) (.phase z)

/-- CLIENT_SYNC: Sync, or the Follow_Up of a two-step Sync, from the grandmaster followed (R457, R476). -/
def State.clientSync (s : State) (lane : Nat) : State :=
  match s.taken lane [0, 8] with
  | none => s
  | some (c, m, _) =>
    let n := c.port
    let s0 := s.laneDrop lane c
    if !s0.ptpClient n || (s0.ptpPort n).following != some (ptpSrc m) then s0 else
    if ptpType m = 0 then
      let t2 : Int := c.ingress.t
      if (m.getD 6 0).toNat / 2 % 2 = 0 then s0.clientZ n (ptpStamp m) (ptpCorr m) t2
      else s0.setPtp n fun p => { p with syncAt := s0.now, twoStep := some (ptpSeq m, t2, ptpCorr m) }
    else
      match (s0.ptpPort n).twoStep with
      | some (seq, t2, c0) => if seq = ptpSeq m then s0.clientZ n (ptpStamp m) (c0 + ptpCorr m) t2 else s0
      | none => s0

/-- CLIENT_DELAY_RESP: a path delay sample completed (R476). -/
def State.clientDelayResp (s : State) (lane : Nat) : State :=
  match s.taken lane [9] with
  | none => s
  | some (c, m, _) =>
    let n := c.port
    let s0 := s.laneDrop lane c
    let p := s0.ptpPort n
    match p.exch, p.syncMs with
    | some x, some ms =>
      match x.t1 with
      | some t3 =>
        if s0.ptpClient n && !peerDelay (s0.ptpProfile n) && p.following == some (ptpSrc m) && ptpSeq m == x.seq &&
            slice m 44 10 == s0.portId n then
          let d := Config.round (((ms + (ptpStamp m - t3 - ptpCorr m) : Int) : Rat) / 2)
          let ds := (p.delays ++ [d]).drop (p.delays.length + 1 - 16)
          s0.setPtp n fun q => { q with delays := ds, mpd := some (medianI ds), exch := none }
        else s0
      | none => s0
    | _, _ => s0

/-- Where a grandmaster is reached: by PTP_CLI_NHn, or by the address that Bodkin resolves (R475). -/
def State.nextHop (s : State) (n : Nat) (ip : List Byte) : PtpDst :=
  let a := s.macReg (gBase n + 0x24)
  { mac := a, ip := ip, ask := a == 0 }

/-- CLIENT_DELAY_REQ_SEND: a Delay_Req to the grandmaster followed (R475, R476), under unicast while Delay_Resp is granted. -/
def State.clientDreq (s : State) (n : Nat) : State :=
  match s.followed n with
  | none => s
  | some f =>
    let uc := s.bit (iBase n 0) 29
    let ok := s.ptpRuns n && s.ptpClient n && s.instOn n 0 && !peerDelay (s.ptpProfile n) && (s.ptpPort n).syncMs.isSome &&
      (!uc || (s.ptpPort n).granted.any fun g => g.1 == 2 && decide (s.now < g.2))
    if !ok then s else
    let s1 := s.beginExchange n
    let seq := ((s.ptpPort n).reqSeq + 1) % 65536
    let d := if uc then s1.nextHop n f.src.srcIp else s1.groupDst n 0 false
    s1.ptpSend n 0 (.delayReq seq) false (fun _ => .none) true
      (s1.ptpMsg n 0 1 (if uc then flUnicast else 0) 0 seq (if uc then 0x7F else s1.logDreq n 0) (zeros 10)) d

/-- A REQUEST_UNICAST_TRANSMISSION of 300 s (R475). -/
def reqTlv (typ : Nat) (l : Int) : List Byte := tlv 4 ([BitVec.ofNat 8 (typ * 16), BitVec.ofNat 8 (unsigned 8 l)] ++ beBytes 4 300)

/-- CLIENT_GRANT_RENEW: the client's requests, again at 150 s (R475). -/
def State.clientRenew (s : State) (n : Nat) : State :=
  let p := s.ptpPort n
  if !(s.ptpRuns n && s.ptpClient n && s.instOn n 0 && s.bit (iBase n 0) 29 && decide (p.renewAt ≤ s.now)) then s else
  let s1 := s.setPtp n fun p => { p with renewAt := s.now + 150 * nsPerSec }
  let gm := (s.followed n).map (·.src.srcIp)
  (List.range 4).foldl (fun s k =>
    if !s.bit (gBase n + 0x100 + 0x20 * k) 31 then s else
    let ip := s.gmEntry n k
    let tl := reqTlv 11 (s.logAnn n 0) ++ (if gm = some ip then reqTlv 0 (s.logSync n 0) ++ reqTlv 9 (s.logDreq n 0) else [])
    let seq := (s.ptpPort n).reqSeq + 1
    let s2 := s.setPtp n fun p => { p with reqSeq := p.reqSeq + 1 }
    s2.ptpSend n 0 .signaling false (fun _ => .none) false (s2.signaling n 0 (List.replicate 10 0xFF) tl seq) (s2.nextHop n ip)) s1

/-- CLIENT_GM_TIMEOUT: no Announce for ANN_TO announce intervals, or no Sync for 3 Sync intervals, those granted or else those of the
instance (R477); a grandmaster whose Announce has stopped is forgotten. -/
def State.gmTimeout (s : State) (n : Nat) : State :=
  let p := s.ptpPort n
  match p.following with
  | none => s
  | some id =>
    if !s.md.mode.serving then s else
    let ann := decide (p.annAt + s.fld (gBase n) 26 24 * logNs (s.logAnn n 0) ≤ s.now)
    let sync := decide (p.syncAt + 3 * logNs (p.syncLog.getD (s.logSync n 0)) ≤ s.now)
    if ann then (s.setPtp n fun q => { q with foreign := q.foreign.filter fun f => f.cid != id }).gmLoss n
    else if sync then s.gmLoss n else s

/-! Signaling (R457, R464, R468, R475, R477). -/

/-- One TLV of a Signaling message on a grandmaster port: what is answered, and the state after it. -/
def State.gmTlv (s : State) (n i : Nat) (p : Pkt) (m : List Byte) (t : TlvAt) : List Byte × State :=
  let cid := ptpSrc m
  let typ := (m.getD (t.at_ + 4) 0).toNat / 16
  match t.typ with
  | 4 =>
    let l := signed 8 (m.getD (t.at_ + 5) 0).toNat
    let (d, s1) := s.grantOne n i p cid typ l (ofBe (slice m (t.at_ + 6) 4))
    (tlv 5 ([m.getD (t.at_ + 4) 0, m.getD (t.at_ + 5) 0] ++ beBytes 4 d ++ [0, 1]), s1)
  | 6 => (tlv 7 [m.getD (t.at_ + 4) 0, 0], s.cancelOne n i p cid typ)
  | 3 =>
    if slice m (t.at_ + 4) 6 = [0x00, 0x80, 0xC2, 0, 0, 2] ∧ 12 ≤ t.len then
      ([], s.setPtp n fun q => { q with oneStepOk := decide ((m.getD (t.at_ + 13) 0).toNat / 4 % 2 = 1) })
    else ([], s)
  | _ => ([], s)

/-- One TLV on a client port: a grant, a denial or a cancel of its grandmaster. -/
def State.cliTlv (s : State) (n : Nat) (m : List Byte) (t : TlvAt) : List Byte × State :=
  let typ := (m.getD (t.at_ + 4) 0).toNat / 16
  let kind := (grantKind typ).getD 3
  let mine := (s.ptpPort n).following == some (ptpSrc m)
  let lose := fun (s : State) => if mine && (kind == 0 || kind == 2) then s.gmLoss n else s
  let without := fun (p : PtpPort) => { p with granted := p.granted.filter (fun g => g.1 != kind), syncLog := if kind = 0 then none else p.syncLog }
  let l := signed 8 (m.getD (t.at_ + 5) 0).toNat
  match t.typ with
  | 5 =>
    let d := ofBe (slice m (t.at_ + 6) 4)
    if d = 0 then ([], lose (s.setPtp n fun p => if mine then without p else p))
    else ([], s.setPtp n fun p => if mine then { without p with granted := (without p).granted ++ [(kind, s.now + d * nsPerSec)],
                                                                  syncLog := if kind = 0 then some l else p.syncLog } else p)
  | 6 =>
    let held := mine && (s.ptpPort n).granted.any fun g => g.1 == kind && decide (s.now < g.2)
    let s1 := if held then s.count (ptpCtr n 7) else s
    (tlv 7 [m.getD (t.at_ + 4) 0, 0], lose (s1.setPtp n fun p => if mine then without p else p))
  | _ => ([], s)

/-- UNICAST_NEGOTIATION: a Signaling message handled and, where it asks for something, answered by one message (R464). -/
def State.negotiate (s : State) (lane : Nat) : State :=
  match s.taken lane [12] with
  | none => s
  | some (c, m, i) =>
    let n := c.port
    let s0 := s.laneDrop lane c
    let tl := (ptpTlvs m).getD []
    let target := slice m 34 10
    let cli := s0.ptpClient n
    if target.take 8 ≠ s0.clockId ∧ target.take 8 ≠ List.replicate 8 0xFF then s0
    else if !cli && tl.any (fun t => t.typ == 4) && !s0.bit (iBase n i) 29 then s0.count (ptpCtr n 12)
    else
      let (out, s1) := tl.foldl (fun (acc : List Byte × State) t =>
        let (o, s2) := if cli then acc.2.cliTlv n m t else acc.2.gmTlv n i c.pkt m t
        (acc.1 ++ o, s2)) ([], s0)
      if out.isEmpty then s1 else s1.ptpReplySend n i .signaling c.pkt (s1.signaling n i (ptpSrc m) out (ptpSeq m))

/-! PTP_CTL (R487, R488). -/

/-- PTP_CTL_STAT. -/
def State.ptpCtl (s : State) (token code : Nat) : State := { s with ptp := { s.ptp with ctlToken := token, ctlCode := code } }

/-- CANCEL_GRANTS. -/
def State.ptpCancelAll (s : State) (token n : Nat) : State :=
  if s.noWrites then s
  else if s.ptpClient n then s.ptpCtl token 0x20
  else if !s.md.mode.serving then s.ptpCtl token 0x24
  else (s.cancelGrants fun g => g.port == n).ptpCtl token 0

/-- RESTART_CLIENT. -/
def State.ptpRestart (s : State) (token n : Nat) : State :=
  if s.noWrites then s
  else if !s.ptpClient n then s.ptpCtl token 0x20
  else if !s.md.mode.serving then s.ptpCtl token 0x24
  else ((s.setPtp n fun p => { p with foreign := [], delays := [], mpd := none }).gmLoss n).ptpCtl token 0

def execSyncSend (n slot : Nat) (s : State) : Host.Outcome State Fault Refusal := .next (s.syncSend n slot)
def execAnnounceSend (n inst : Nat) (s : State) : Host.Outcome State Fault Refusal := .next (s.announceSend n inst)
def execPdelayReqSend (n inst : Nat) (s : State) : Host.Outcome State Fault Refusal := .next (s.pdelaySend n inst)
def execPtpMessageReceive (lane : Nat) (s : State) : Host.Outcome State Fault Refusal := .next (s.ptpReceive lane)
def execUnicastNegotiation (lane : Nat) (s : State) : Host.Outcome State Fault Refusal := .next (s.negotiate lane)
def execDelayReq (lane : Nat) (s : State) : Host.Outcome State Fault Refusal := .next (s.delayReq lane)
def execPdelayReqReceive (lane : Nat) (s : State) : Host.Outcome State Fault Refusal := .next (s.pdelayReqIn lane)
def execPdelayRespFollowUp (n : Nat) (s : State) : Host.Outcome State Fault Refusal := .next (s.pdelayFollow n)
def execPeerDelayComplete (lane : Nat) (s : State) : Host.Outcome State Fault Refusal := .next (s.peerComplete lane)
def execClientAnnounce (lane : Nat) (s : State) : Host.Outcome State Fault Refusal := .next (s.clientAnnounce lane)
def execClientSync (lane : Nat) (s : State) : Host.Outcome State Fault Refusal := .next (s.clientSync lane)
def execClientDelayResp (lane : Nat) (s : State) : Host.Outcome State Fault Refusal := .next (s.clientDelayResp lane)
def execClientGrantRenew (n : Nat) (s : State) : Host.Outcome State Fault Refusal := .next (s.clientRenew n)
def execGrantExpire (n g : Nat) (s : State) : Host.Outcome State Fault Refusal := .next (s.grantExpire n g)
def execClientGmTimeout (n : Nat) (s : State) : Host.Outcome State Fault Refusal := .next (s.gmTimeout n)
def execCancelGrants (token : BitVec 16) (n : Nat) (s : State) : Host.Outcome State Fault Refusal := .next (s.ptpCancelAll token.toNat n)
def execRestartClient (token : BitVec 16) (n : Nat) (s : State) : Host.Outcome State Fault Refusal := .next (s.ptpRestart token.toNat n)
def execClientDelayReqSend (n : Nat) (s : State) : Host.Outcome State Fault Refusal := .next (s.clientDreq n)

end Sys2Proof.Machine
end

