-- ==== Sys2Proof/Machine/Flow.lean ====
section
/-! DEFINITION. The ports beside reception (R352 to R397): flow control and its watchdogs, ESMC, preemption's verification, the
classifier's rules, lane parking and speed steps. -/

namespace Sys2Proof.Machine

open Sys2Proof

/-! Flow control (R368 to R372). -/

/-- A number of pause quanta in ns at a port's speed. -/
def quantaNs (speed q : Nat) : Nat := if speed = 2 then q * 2048 / 100 else if speed = 1 then q * 512 / 10 else q * 512

/-- PFC_EN, PAUSE_RX, PAUSE_TX, PAUSE_WD in ns and HOLDOFF in ns of a port (R392). -/
def State.pfcEn (s : State) (n : Nat) : Nat := s.fld (mBase n + 0x10) 23 16
def State.pauseRx (s : State) (n : Nat) : Bool := s.bit (mBase n + 0x10) 31
def State.pauseTx (s : State) (n : Nat) : Bool := s.bit (mBase n + 0x10) 30
def State.pauseWd (s : State) (n : Nat) : Nat := s.fld (mBase n + 0x10) 13 0 * 1000000
def State.holdoff (s : State) (n : Nat) : Nat := s.fld (mBase n + 0x14) 15 0 * 1000000

/-- A stop after a pause of some quanta: 0 ends it, and one in hold-off is not obeyed (R368, R371). -/
def Stop.take (x : Stop) (now speed q : Nat) : Stop :=
  if x.holdoff.isSome then x
  else if q = 0 then { x with on := false }
  else { x with on := true, until_ := now + quantaNs speed q, since := if x.live now then x.since else now }

/-- PAUSE_RECEIVE. -/
def State.pauseIn (s : State) (n q : Nat) : State :=
  let s1 := s.count (macCtr n 12)
  if s1.pauseRx n then s1.setPort n fun p => { p with pause := p.pause.take s1.now p.speed q } else s1

/-- What a 64-byte control frame that comes as a row of its own adds to the line and to the frames received (R397, R628). -/
def State.controlFrame (s : State) (n : Nat) : State :=
  if (s.port n).link then ((s.lineLoad n 84 true).count (macCtr n 0)).countN (macCtr n 1) 64 else s

/-- PFC_RECEIVE: the priorities set both in the frame's vector and in PFC_EN. -/
def State.pfcIn (s : State) (n : Nat) (enable : Nat) (quanta : List Nat) : State :=
  let s1 := s.count (macCtr n 12)
  let both := fun (k : Nat) => enable / 2 ^ k % 2 == 1 && s1.pfcEn n / 2 ^ k % 2 == 1
  s1.setPort n fun p => { p with stops := p.stops.mapIdx fun k x => if both k then x.take s1.now p.speed (quanta.getD k 0) else x }

/-- One stop of a port changed: of a priority, or the PAUSE stop. -/
def State.setStop (s : State) (n : Nat) (prio : Option Nat) (f : Stop → Stop) : State :=
  s.setPort n fun p => match prio with
    | some k => { p with stops := updAt p.stops k f }
    | none => { p with pause := f p.pause }

/-- A stop of a port. -/
def State.stopAt (s : State) (n : Nat) (prio : Option Nat) : Stop :=
  match prio with
  | some k => (s.port n).stops.getD k Stop.reset
  | none => (s.port n).pause

/-- PAUSE_EXPIRE: the time of a stop has run. -/
def State.pauseEnd (s : State) (n : Nat) (prio : Option Nat) : State :=
  let x := s.stopAt n prio
  if x.on && decide (x.until_ ≤ s.now) then s.setStop n prio fun x => { x with on := false } else s

/-- A PAUSE_WD record (R600). -/
def State.logPause (s : State) (n side prio : Nat) : State :=
  s.log 0x0007 [BitVec.ofNat 8 n, BitVec.ofNat 8 side, BitVec.ofNat 8 prio]

/-- PAUSE_WATCHDOG: a stop in force without a break for PAUSE_WD (R371). -/
def State.pauseWatch (s : State) (n : Nat) (prio : Option Nat) : State :=
  let x := s.stopAt n prio
  if x.live s.now && decide (x.since + s.pauseWd n ≤ s.now) then
    let s1 := s.setStop n prio fun x => { x with on := false, holdoff := some s.now }
    ((s1.setPort n fun p => { p with pauseStorm := true }).count (macCtr n 14)).logPause n 0 (prio.getD 0xFF)
  else s

/-- A MAC control frame: PAUSE, or PFC for the priorities given, with one time (R370). -/
def State.xFrame (s : State) (n pfc time : Nat) : EgFrame :=
  let body := if pfc = 0 then beBytes 2 1 ++ beBytes 2 time
    else beBytes 2 0x0101 ++ beBytes 2 pfc ++ (List.range 8).flatMap fun k => beBytes 2 (if pfc / 2 ^ k % 2 = 1 then time else 0)
  s.plainFrame .pause (padFrame (ethHdr 0x0180C2000001 (s.macAddr n) [] 0x8808 ++ body)) 0

/-- Whether a port sends PAUSE or PFC (R370). -/
def State.sendsX (s : State) (n : Nat) : Bool := s.pauseTx n || s.pfcEn n != 0

/-- XOFF or XON queued. -/
def State.sendX (s : State) (n time : Nat) : State := s.queueFrame n (s.xFrame n (if s.pauseTx n then 0 else s.pfcEn n) time)

/-- XOFF on the first use of the reserve (R370), but not in hold-off (R371). -/
def State.xoffFirst (s : State) (n : Nat) : State :=
  let p := s.port n
  if s.sendsX n && p.xoff.isNone && p.xoffHold.isNone then
    (s.sendX n 0xFFFF).setPort n fun p => { p with xoff := some s.now, xoffSent := s.now }
  else s

/-- XOFF_REPEAT: every 0x8000 quanta while the condition holds (R370). -/
def State.xoffAgain (s : State) (n : Nat) : State :=
  let p := s.port n
  if p.xoff.isSome && decide (p.xoffSent + quantaNs p.speed 0x8000 ≤ s.now) then
    (s.sendX n 0xFFFF).setPort n fun p => { p with xoffSent := s.now }
  else s

/-- Whether the pool can admit a frame of some cells for a port (R378): SHARE_MAX bounds what NPn holds of it. -/
def State.poolAdmits (s : State) (n cells : Nat) : Bool :=
  decide (cells ≤ s.poolFree) && (decide (4 ≤ n) || decide ((s.port n).pool < s.fld (mBase n + 0x1C) 10 0 * 16))

/-- MAXFRM (R389). -/
def State.maxFrm (s : State) (n : Nat) : Nat := s.fld (mBase n) 13 0

/-- XON_SEND: the reserve is unused again and the pool can admit a MAXFRM frame (R370). -/
def State.xonSend (s : State) (n : Nat) : State :=
  let p := s.port n
  if p.xoff.isSome && p.reserve == 0 && s.poolAdmits n (cellsOf (s.maxFrm n - 4)) then
    (s.sendX n 0).setPort n fun p => { p with xoff := none }
  else s

/-- XOFF_WATCHDOG (R371): the record names the lowest priority stopped, or PAUSE. -/
def State.xoffWatch (s : State) (n : Nat) : State :=
  match (s.port n).xoff with
  | some t =>
    if t + s.pauseWd n ≤ s.now then
      let prio := if s.pauseTx n then 0xFF else ((List.range 8).find? fun k => s.pfcEn n / 2 ^ k % 2 == 1).getD 0xFF
      let s1 := (s.sendX n 0).setPort n fun p => { p with xoff := none, xoffHold := some s.now, xoffStorm := true }
      (s1.count (macCtr n 14)).logPause n 1 prio
    else s
  | none => s

/-- HOLDOFF_EXPIRE: of a receive stop, or of the port's XOFF (R371). -/
def State.holdoffEnd (s : State) (n : Nat) (prio : Option Nat) (rx : Bool) : State :=
  let ran := fun (t : Option Nat) => match t with
    | some t => decide (t + s.holdoff n ≤ s.now)
    | none => false
  if rx then (if ran (s.stopAt n prio).holdoff then s.setStop n prio fun x => { x with holdoff := none } else s)
  else if ran (s.port n).xoffHold then s.setPort n fun p => { p with xoffHold := none } else s

/-! SyncE and ESMC (R386, R387). -/

/-- SYNCE_EN in use on a port. -/
def State.synceOn (s : State) (n : Nat) : Bool := s.bit (mBase n + 0x20) 31 && !s.bit (mBase n + 4) 30

/-- The quality code of MAC_SYNCE_CFG that an SSM code gives, and that an enhanced one gives. -/
def ssmCode (ssm : Nat) : Nat := if ssm = 2 then 3 else if ssm = 4 then 4 else if ssm = 8 then 5 else if ssm = 0xB then 7 else 8
def essmCode (ssm e : Nat) : Nat :=
  if e = 0x20 then 1 else if e = 0x21 then 0 else if e = 0x22 then 6 else if e = 0x23 then 2 else ssmCode ssm

/-- The SSM and enhanced SSM codes of a quality code. -/
def codeSsm (q : Nat) : Nat × Nat :=
  match q with
  | 0 => (2, 0x21)
  | 1 => (2, 0x20)
  | 2 => (2, 0x23)
  | 3 => (2, 0xFF)
  | 4 => (4, 0xFF)
  | 5 => (8, 0xFF)
  | 6 => (0xB, 0x22)
  | 7 => (0xB, 0xFF)
  | _ => (0xF, 0xFF)

/-- QL_EFF of a quality code (R202). -/
def codeQl (q : Nat) : Nat := if q < 8 then q + 1 else 15

/-- ESMC_RECEIVE (R386): the level, from a PDU's SSM and its extended QL TLV's enhanced SSM and originator clock identity, becomes the
received quality of REF ID 13 + n; a PDU that the TE-448 itself originated reads DNU. -/
def State.esmcIn (s : State) (n ssm : Nat) (tlv : Option (Nat × List Byte)) : State :=
  if !s.synceOn n || !(s.port n).link then s else
  let q := match tlv with
    | some (e, id) => if id == s.clockId then 8 else essmCode ssm e
    | none => ssmCode ssm
  let s1 := (s.count (macCtr n 18)).setPort n fun p => { p with rxQl := q, rxQlAt := some s.now, enh := tlv.isSome }
  s1.rxQuality (13 + n) (codeQl q)

/-- The level that a port sends (R387). -/
def State.txLevel (s : State) (n : Nat) : Nat :=
  let hold := max (s.fld (mBase n + 0x20) 3 0) (s.port n).txQlLocked
  if s.ref.sel = some (13 + n) then 8
  else if s.md.drain then 8
  else match s.md.mode with
    | .locked =>
      match s.ref.sel with
      | some i =>
        let q := s.qlEff i
        if q = 15 then 8 else min 6 (q - 1)
      | none => 8
    | .holdover => if s.inBudget then hold else 6
    | .freerun => 6
    | .maintain =>
      match s.md.origin with
      | some .locked => hold
      | some .holdover => if s.inBudget then hold else 6
      | some .freerun => 6
      | _ => 8
    | _ => 8

/-- An ESMC PDU with the extended QL TLV. -/
def State.esmcFrame (s : State) (n q : Nat) (event : Bool) : EgFrame :=
  let (ssm, e) := codeSsm q
  let body := [0x0A, 0x00, 0x19, 0xA7, 0x00, 0x01, BitVec.ofNat 8 (0x10 + 8 * b01 event), 0, 0, 0, 0x01, 0x00, 0x04, BitVec.ofNat 8 ssm,
    0x02, 0x00, 0x14, BitVec.ofNat 8 e] ++ s.clockId ++ [0, 1, 0] ++ zeros 5
  s.plainFrame .esmc (padFrame (ethHdr 0x0180C2000002 (s.macAddr n) [] 0x8809 ++ body)) (s.untagPrio n)

/-- ESMC_INFO_SEND: the event PDU of a change of level, or the information PDU of a second (R387). -/
def State.esmcSend (s : State) (n : Nat) : State :=
  if !(s.synceOn n && s.bit (mBase n + 0x20) 30 && (s.port n).link) then s else
  let q := s.txLevel n
  let ev := q != (s.port n).txQlSent
  let due := match (s.port n).esmcAt with
    | some t => decide (t + nsPerSec ≤ s.now)
    | none => true
  if !ev && !due then s else
  let s1 := s.setPort n fun p =>
    { p with txQl := q, txQlSent := q, txQlLocked := if s.md.mode == .locked then q else p.txQlLocked,
             esmcAt := if ev then p.esmcAt else some s.now }
  s1.queueFrame n (s1.esmcFrame n q ev)

/-! Preemption (R374). -/

/-- PREEMPT_VERIFY_SEND: a verify frame every VERIFY_TIME, up to 3; the fourth occasion finds that none was answered. -/
def State.verifySend (s : State) (n : Nat) : State :=
  let p := s.port n
  let due := p.verifyTries == 0 || decide (p.verifyAt + s.fld (mBase n + 0x18) 7 0 * 1000000 ≤ s.now)
  if p.link && p.pre == 1 && due then
    if p.verifyTries < 3 then s.setPort n fun p => { p with verifyTries := p.verifyTries + 1, verifyAt := s.now }
    else s.setPort n fun p => { p with pre := 3 }
  else s

/-- PREEMPT_RESPOND_RECEIVE. -/
def State.respondIn (s : State) (n : Nat) : State :=
  let p := s.port n
  if p.link && p.pre == 1 && decide (0 < p.verifyTries) then s.setPort n fun p => { p with pre := 2 } else s

/-- Verification started again (R374). -/
def State.restartVerify (s : State) (n : Nat) : State :=
  let cfg := mBase n + 0x18
  s.setPort n fun p => { p with verifyTries := 0, pre := if p.link && s.bit cfg 31 then (if s.bit cfg 30 then 2 else 1) else 0 }

/-! The classifier's rules (R365, R398). -/

/-- A register whose fields are RW written whole: both copies hold it. -/
def State.putRw (s : State) (off : Nat) (v : W32) : State :=
  match regDef off with
  | some r =>
    let m := r.mask (· == .rw)
    let w := r.clamped ((v &&& m) ||| (s.reg off &&& ~~~m))
    let w2 := r.clamped ((v &&& m) ||| (s.stg.rd off &&& ~~~m))
    { s with act := s.act.wr off w, stg := s.stg.wr off w2 }
  | none => s

/-- The offset of a word of a rule. -/
def clsOff (k w : Nat) : Nat := 0x24000 + 0x20 * k + 4 * w

/-- CLASSIFIER_RULE_WRITE: a word of an enabled rule other than its W0 is not written. -/
def State.ruleWrite (s : State) (k w : Nat) (v : W32) : State :=
  if s.noWrites then s
  else if w ≠ 0 ∧ s.bit (clsOff k 0) 31 then { s with wv := { s.wv with clsErr := true, clsErrRule := k } }
  else s.putRw (clsOff k w) v

/-! Parking (R28, R380 to R382). -/

/-- Lanes in service. -/
def State.lanesIn (s : State) : Nat := ((List.range 8).filter s.laneIn).length

/-- The step and lanes that R380 chooses for the arrivals and line bits of the last 100 µs: every in-service lane at 800 MHz. -/
def parkChoice (lanes arrivals bits : Nat) : Nat × Nat :=
  let at_ := fun (st : Nat) =>
    let f := 800 / 2 ^ st
    if bits * 800 ≤ 5000000 * f then
      ((List.range lanes).map (· + 1)).find? fun k => decide (128 * arrivals ≤ k * f * 100)
    else none
  match at_ 2, at_ 1 with
  | some k, _ => (k, 2)
  | none, some k => (k, 1)
  | none, none => (lanes, 0)

/-- CLK_CORE and every in-service lane in full for a PKE operation queued (R380): at once, or at the end of a stretch with PARK_APPLY. -/
def State.coreFull (s : State) : State :=
  let s1 := { s with wv := { s.wv with parkWant := some (s.lanesIn, 0, s.now) } }
  if s.wv.step = 0 ∨ s.fmu.stretch then s1 else
  let s2 := s1.tally
  { s2 with wv := { s2.wv with step := 0 } }

/-- Items in the Packer. -/
def State.packerItems (s : State) : Nat := (s.wv.queues.map List.length).sum + s.wv.hostQ.length

/-- The choice of R380 and R381 now: full while a PKE operation is held, while parking is off, or with too many items. -/
def State.parkNow (s : State) (arrivals bits : Nat) : Nat × Nat :=
  if !s.bit 0x40800 31 || !s.pke.ops.isEmpty || decide (s.fld 0x40800 25 16 < s.packerItems) then (s.lanesIn, 0)
  else parkChoice s.lanesIn arrivals bits

/-- The arrivals of the last 100 µs into the Packer, and the line bits of NP0 to NP3 in the busier direction (R380). -/
def State.parkArrivals (s : State) : Nat := (s.wv.arr.filter (fun e => decide (s.now < e.1 + 100000))).length
def State.parkBits (s : State) : Nat :=
  let sum := fun (f : PortSt → List (Nat × Nat)) => ((s.ports.take 4).map fun p => loadOf s.now 100000 (f p)).sum
  max (sum (·.rxLog)) (sum (·.txLog))

/-- PARK_EVALUATION: the choice, with the instant from which it has stood. -/
def State.parkEval (s : State) : State :=
  if !s.md.mode.serving && s.md.mode != .safe then s else
  let (k, st) := s.parkNow s.parkArrivals s.parkBits
  let since : Nat := match s.wv.parkWant with
    | some (k', st', t) => if k' = k ∧ st' = st then t else s.now
    | none => s.now
  { s with wv := { s.wv with parkWant := some (k, st, since) } }

/-- The lanes parked and unparked for a number of active lanes: a lane with an item takes no further one and parks when it has
finished (R22, R381). -/
def State.setLanes (s : State) (k : Nat) : State :=
  let s1 := { s with wv := { s.wv with lanesOn := k } }
  let go := fun (i : Nat) (l : Lane) =>
    if s1.lanesUp.contains i then { l with parked := false } else if s1.laneIn i && l.ctx.isNone then { l with parked := true } else l
  { s1 with wv := { s1.wv with lanes := s1.wv.lanes.mapIdx go } }

/-- PARK_APPLY: what goes up does so at once, a step-up waiting for the end of a stretch; what goes down after PARK_HOLD (R381), and not
while a PKE operation is held (R380). -/
def State.parkApply (s : State) : State :=
  match if s.pke.ops.isEmpty then s.wv.parkWant else some (s.lanesIn, 0, s.now) with
  | none => s
  | some (k, st, t) =>
    let held := decide (t + s.fld 0x40800 15 0 * 1000 ≤ s.now)
    let lanes := if s.wv.lanesOn ≤ k ∨ held then k else s.wv.lanesOn
    let step := if st ≤ s.wv.step then (if s.fmu.stretch then s.wv.step else st) else if held then st else s.wv.step
    let s1 := if step = s.wv.step then s else s.tally
    ({ s1 with wv := { s1.wv with step := step } }).setLanes lanes

/-! Speed steps (R383 to R385). -/

/-- Whether a port steps: SPD_STEP committed and not stopped by a failure. -/
def State.steps (s : State) (n : Nat) : Bool := s.bit (mBase n + 0x24) 31 && !(s.port n).stepOff

/-- A step begun: the link goes down to be negotiated again. -/
def State.beginStep (s : State) (n : Nat) (down : Bool) : State :=
  ((s.linkDrop n).setPort n fun p => { p with stepped := down, stepping := some s.now }).count (macCtr n 20)

/-- SPEED_STEP_DOWN: both directions have stayed below STEP_DN for STEP_HOLD, each as its rate over 100 ms; refused while 10G is not
calibrated (R415). -/
def State.stepDown (s : State) (n : Nat) : State :=
  let p := s.port n
  let idle := match p.lowSince with
    | some t => decide (t + s.fld (mBase n + 0x24) 29 24 * 60 * nsPerSec ≤ s.now)
    | none => false
  let low := fun (l : List (Nat × Nat)) => decide (loadOf s.now loadSpan l < s.stepDn n)
  if !(s.steps n && p.link && p.speed == 2 && !p.stepped && idle && low p.rxLog && low p.txLog) then s
  else if !p.stk.calAlt then s.setPort n fun p => { p with stepFail := true }
  else s.beginStep n true

/-- SPEED_STEP_UP: at 10G a direction's rate over 100 ms exceeds STEP_UP. -/
def State.stepUpPort (s : State) (n : Nat) : State :=
  let p := s.port n
  let high := fun (l : List (Nat × Nat)) => decide (s.stepUpAt n < loadOf s.now loadSpan l)
  if s.steps n && p.link && p.stepped && (high p.rxLog || high p.txLog) then s.beginStep n false else s

/-- SPEED_STEP_FAIL: 3 s without link. -/
def State.stepFailed (s : State) (n : Nat) : State :=
  match (s.port n).stepping with
  | some t =>
    if decide (t + 3 * nsPerSec ≤ s.now) && !(s.port n).link then
      s.setPort n fun p => { p with stepped := false, stepFail := true, stepOff := true, stepping := none, linkWait := false }
    else s
  | none => s

def execPauseReceive (n quanta : Nat) (s : State) : Host.Outcome State Fault Refusal := .next ((s.controlFrame n).pauseIn n quanta)
def execPfcReceive (n : Nat) (enable : BitVec 8) (quanta : List Nat) (s : State) : Host.Outcome State Fault Refusal :=
  .next ((s.controlFrame n).pfcIn n enable.toNat quanta)
def execPauseExpire (n : Nat) (prio : Option Nat) (s : State) : Host.Outcome State Fault Refusal := .next (s.pauseEnd n prio)
def execXoffRepeat (n : Nat) (s : State) : Host.Outcome State Fault Refusal := .next (s.xoffAgain n)
def execXonSend (n : Nat) (s : State) : Host.Outcome State Fault Refusal := .next (s.xonSend n)
def execPauseWatchdog (n : Nat) (prio : Option Nat) (s : State) : Host.Outcome State Fault Refusal := .next (s.pauseWatch n prio)
def execXoffWatchdog (n : Nat) (s : State) : Host.Outcome State Fault Refusal := .next (s.xoffWatch n)
def execHoldoffExpire (n : Nat) (prio : Option Nat) (rx : Bool) (s : State) : Host.Outcome State Fault Refusal :=
  .next (s.holdoffEnd n prio rx)
def execEsmcReceive (n ssm : Nat) (tlv : Option (Nat × List (BitVec 8))) (s : State) : Host.Outcome State Fault Refusal :=
  .next ((s.controlFrame n).esmcIn n ssm tlv)
def execEsmcInfoSend (n : Nat) (s : State) : Host.Outcome State Fault Refusal := .next (s.esmcSend n)
def execPreemptVerifySend (n : Nat) (s : State) : Host.Outcome State Fault Refusal := .next (s.verifySend n)
def execPreemptRespondReceive (n : Nat) (s : State) : Host.Outcome State Fault Refusal := .next (s.respondIn n)
def execClassifierRuleWrite (k w : Nat) (v : W32) (s : State) : Host.Outcome State Fault Refusal := .next (s.ruleWrite k w v)
def execParkEvaluation (s : State) : Host.Outcome State Fault Refusal := .next s.parkEval
def execParkApply (s : State) : Host.Outcome State Fault Refusal := .next s.parkApply
def execSpeedStepDown (n : Nat) (s : State) : Host.Outcome State Fault Refusal := .next (s.stepDown n)
def execSpeedStepUp (n : Nat) (s : State) : Host.Outcome State Fault Refusal := .next (s.stepUpPort n)
def execSpeedStepFail (n : Nat) (s : State) : Host.Outcome State Fault Refusal := .next (s.stepFailed n)

end Sys2Proof.Machine
end

