-- ==== Sys2Proof/Machine/Rx.lean ====
section
/-! DEFINITION. Reception (R356 to R366, R376 to R379, R403, R406, R408, R427 to R431, R449, R450): from a frame's last byte to its
request context, its host ring or its end; and what Bodkin answers itself (R363). -/

namespace Sys2Proof.Machine

open Sys2Proof

/-! Addresses. -/

/-- A group address's first bit. -/
def macGroup (a : Nat) : Bool := a / 2 ^ 40 % 2 == 1

/-- The group addresses that every port accepts (R360). -/
def groupOk (a : Nat) : Bool :=
  [0x011B19000000, 0x0180C200000E, 0x01005E000181, 0x01005E00006B, 0x333300000181, 0x33330000006B, 0x0180C2000001, 0x0180C2000002,
    0x333300000001].contains a || a / 2 ^ 24 == 0x3333FF

/-- Whether a port accepts a destination address (R360). -/
def State.accepts (s : State) (n dst : Nat) : Bool :=
  dst == s.macAddr n || dst == 0xFFFFFFFFFFFF || groupOk dst || (macGroup dst && s.bit (mBase n + 4) 29)

/-- Multicast and unspecified IP addresses of either version. -/
def ipMulti (a : List Byte) : Bool := if a.length = 4 then (a.getD 0 0).toNat / 16 == 14 else a.getD 0 0 == 0xFF
def ipNone (a : List Byte) : Bool := a.all (· == 0)
def ipBroad (a : List Byte) : Bool := a == [255, 255, 255, 255]
def ipLoop (a : List Byte) : Bool := if a.length = 4 then a.getD 0 0 == 127 else a == zeros 15 ++ [1]

/-- The address rules and the source-port rule of R427. -/
def addrOk (p : Pkt) : Bool :=
  p.ipOk && !ipMulti p.dstIp && !ipBroad p.dstIp && !ipNone p.dstIp &&
  !ipMulti p.srcIp && !ipBroad p.srcIp && !ipNone p.srcIp && !ipLoop p.srcIp &&
  match p.udp with
  | some (sp, _, _) => sp != 0
  | none => false

/-! The classifier (R362 to R364). -/

/-- The domainNumber of a frame that carries PTP. -/
def Pkt.domain? (p : Pkt) : Option Nat := p.ptp?.bind fun m => (m[4]?).map (·.toNat)

/-- Whether rule `k` matches a frame on port `n`. -/
def State.ruleHits (s : State) (n k : Nat) (p : Pkt) : Bool :=
  let w := fun (i : Nat) => s.reg (clsOff k i)
  let care := fun (i : Nat) => bitAt (w 0) i
  let masked := fun (mask a b : Nat) => a &&& mask == b &&& mask
  let tci := p.tags.head?.map (·.2)
  let vid := match tci with
    | some t => masked (bitsOf (w 1) 27 16) (t % 4096) (bitsOf (w 1) 11 0)
    | none => false
  let pcp := match tci with
    | some t => t / 8192 == bitsOf (w 1) 30 28
    | none => false
  let udp := match p.udp with
    | some (_, d, _) => masked (bitsOf (w 3) 31 16) d (bitsOf (w 3) 15 0)
    | none => false
  bitAt (w 0) 31 && bitAt (w 0) (24 + n) && (!care 0 || vid) && (!care 1 || pcp) && (!care 2 || p.etype == bitsOf (w 2) 31 16) &&
  (!care 3 || (p.ipOk && p.proto == bitsOf (w 2) 15 8)) &&
  (!care 4 || (p.ipOk && masked (bitsOf (w 4) 13 8) p.dscp (bitsOf (w 2) 5 0))) && (!care 5 || udp) &&
  (!care 6 || p.domain? == some (bitsOf (w 4) 7 0)) && (!care 7 || p.tags.isEmpty)

/-- The class that the built-in defaults give (R363). -/
def defaultClass (p : Pkt) : Nat :=
  let udpTo := fun (d : Nat) => (p.udp.map (·.2.1)) == some d
  if p.etype = 0x88F7 then (if (p.payload.getD 0 0).toNat % 16 < 4 then 0 else 1)
  else if udpTo 319 then 0
  else if udpTo 320 then 1
  else if udpTo 123 then (if 48 < p.payload.length then 2 else 3)
  else if p.etype = 0x0806 ∨ (p.ipOk ∧ p.proto = (if p.v6 then 58 else 1)) then 4
  else 5

/-- Where a frame goes: dropped by its rule, or to a class and a ring of class 5, with a copy to a ring. -/
structure Steer where
  rule : Option Nat
  drop : Bool
  cls : Nat
  ring : Nat
  mirror : Option Nat
  deriving DecidableEq, Repr

/-- The steering of a frame on NPn (R363, R364). -/
def State.steer (s : State) (n : Nat) (p : Pkt) : Steer :=
  match (List.range 256).find? fun k => s.ruleHits n k p with
  | none => { rule := none, drop := false, cls := defaultClass p, ring := 0, mirror := none }
  | some k =>
    let w := s.reg (clsOff k 0)
    let c := min 5 (bitsOf w 18 16)
    match bitsOf w 21 20 with
    | 0 => { rule := some k, drop := true, cls := 5, ring := 0, mirror := none }
    | 1 => { rule := some k, drop := false, cls := c, ring := 0, mirror := none }
    | 2 => { rule := some k, drop := false, cls := 5, ring := bitsOf w 15 12, mirror := none }
    | _ => { rule := some k, drop := false, cls := c, ring := 0, mirror := some (bitsOf w 11 8) }

/-! The rate limiter (R449, R450). -/

/-- The bucket of a source: the keyed hash of its address masked to the prefix. -/
def State.bucketOf (s : State) (p : Pkt) : Nat :=
  let len := if p.v6 then 128 else 32
  let keep := if p.v6 then s.fld 0x40008 23 16 else s.fld 0x40008 29 24
  let a := ofBe p.srcIp / 2 ^ (len - keep) * 2 ^ (len - keep)
  Config.rlHash s.wv.hashKey (beBytes (len / 8) a) % 262144

/-- The outcome for a class 2 or 3 frame: admitted as a request (some false), for a RATE kiss (some true), or dropped. -/
def State.rateLimit (s : State) (p : Pkt) : Option Bool × State :=
  if !s.bit 0x40008 31 then (some false, s) else
  let k := s.bucketOf p
  let full := s.fld 0x40008 15 8 * nsPerSec
  let b := (Assoc.get k s.wv.buckets).getD { nano := full, at_ := s.now, kiss := none }
  let have_ := min full (b.nano + (s.now - b.at_) * s.fld 0x4000C 19 0)
  let put := fun (x : Bucket) => { s with wv := { s.wv with buckets := Assoc.put k x s.wv.buckets } }
  if nsPerSec ≤ have_ then (some false, put { b with nano := have_ - nsPerSec, at_ := s.now })
  else
    let kissed := match b.kiss with
      | some t => decide (s.now < t + s.fld 0x40010 15 0 * 1000000)
      | none => false
    if kissed then (none, put { b with nano := have_, at_ := s.now })
    else (some true, put { nano := have_, at_ := s.now, kiss := some s.now })

/-! What Bodkin answers (R363, R607). -/

/-- The link-local address formed from a MAC address. -/
def linkLocal (mac : Nat) : List Byte :=
  let m := beBytes 6 mac
  [0xFE, 0x80] ++ zeros 6 ++ [m.getD 0 0 ^^^ 2] ++ slice m 1 2 ++ [0xFF, 0xFE] ++ m.drop 3

/-- Whether an IP address is one of a port's: PTP_SRC_IP of NPn; of MGT those of R607. -/
def State.ownIp (s : State) (n : Nat) (ip : List Byte) : Bool :=
  let v6 := ip.length == 16
  if n < 4 then !ipNone ip && ip == s.ptpSrcIp n v6
  else if v6 then ip == linkLocal (s.macAddr 4) || (!ipNone ip && ip == (List.range 4).flatMap fun k => beBytes 4 (s.reg (0x10001C + 4 * k)).toNat)
  else s.bit 0x100010 30 && !ipNone ip && ip == beBytes 4 (s.reg 0x100014).toNat

/-- The reply to an ARP request for an address of the port. -/
def State.arpReply (s : State) (n : Nat) (p : Pkt) : Option (List Byte) :=
  let b := p.payload
  if b.length < 28 ∨ slice b 0 8 ≠ [0, 1, 8, 0, 6, 4, 0, 1] ∨ !s.ownIp n (slice b 24 4) then none else
  some (p.respondEth (s.macAddr n) ([0, 1, 8, 0, 6, 4, 0, 2] ++ beBytes 6 (s.macAddr n) ++ slice b 24 4 ++ slice b 8 10))

/-- Whether the checksum of an ICMP message holds. -/
def icmpOk (p : Pkt) : Bool :=
  decide (8 ≤ p.l4.length) && fold16 (sum16 ((if p.v6 then pseudo true p.srcIp p.finalDst 58 p.l4.length else []) ++ p.l4)) == 65535

/-- The reply to an echo request to an address of the port. -/
def State.echoReply (s : State) (n : Nat) (p : Pkt) : Option (List Byte) :=
  let req : Byte := if p.v6 then 128 else 8
  let rep : Byte := if p.v6 then 129 else 0
  if p.frag || p.deep || !icmpOk p || p.l4.getD 0 0 != req || p.l4.getD 1 0 != 0 || !s.ownIp n p.dstIp then none else
  let b := icmpSum p.v6 p.dstIp p.srcIp (rep :: p.l4.drop 1)
  let ip := ipHdr p.v6 p.dscp Config.bodkinTtl (if p.v6 then 58 else 1) b.length p.dstIp p.srcIp
  some (padFrame (ethHdr p.src (s.macAddr n) p.tags p.etype ++ ip ++ b))

/-- The advertisement that answers a neighbour solicitation for an address of the port. -/
def State.neighbourReply (s : State) (n : Nat) (p : Pkt) : Option (List Byte) :=
  let target := slice p.l4 8 16
  if !p.v6 || p.frag || p.deep || !icmpOk p || decide (p.l4.length < 24) || p.hop != 255 || p.l4.getD 0 0 != 135 ||
      p.l4.getD 1 0 != 0 || !s.ownIp n target then none else
  let anon := ipNone p.srcIp
  let dst := if anon then [0xFF, 0x02] ++ zeros 13 ++ [1] else p.srcIp
  let b := icmpSum true target dst
    ([136, 0, 0, 0, if anon then 0x20 else 0x60, 0, 0, 0] ++ target ++ [2, 1] ++ beBytes 6 (s.macAddr n))
  some (padFrame (ethHdr (if anon then 0x333300000001 else p.src) (s.macAddr n) p.tags p.etype ++
    ip6Hdr 0 255 58 b.length target dst ++ b))

/-- What Bodkin answers to a class 4 frame; an Otarn datagram is a command of its own. -/
def State.bodkinAnswer (s : State) (n : Nat) (p : Pkt) : Option (List Byte) :=
  if p.etype = 0x0806 then s.arpReply n p
  else if p.ipOk then (s.echoReply n p).or (s.neighbourReply n p)
  else none

/-- Whether Bodkin runs: not halted, and not restarting in a firmware swap (R567, R605). -/
def State.bodkinRuns (s : State) : Bool :=
  !s.fmu.halted && !(match s.md.maint with
    | some m => m.swap && !m.ended
    | none => false)

/-- What a class 4 frame says of its sender's address: an ARP packet that asks for or answers to an address of the port, or a neighbour
advertisement with its target's link-layer address (R475, R607). -/
def State.told (s : State) (n : Nat) (p : Pkt) : Option (List Byte × Nat) :=
  let b := p.payload
  if p.etype = 0x0806 then
    if b.length < 28 ∨ slice b 0 7 ≠ [0, 1, 8, 0, 6, 4, 0] ∨ !s.ownIp n (slice b 24 4) then none
    else some (slice b 14 4, ofBe (slice b 8 6))
  else if !p.ipOk || !p.v6 || p.frag || p.deep || !icmpOk p || p.hop != 255 || p.l4.getD 0 0 != 136 || p.l4.getD 1 0 != 0 ||
      slice p.l4 24 2 != [2, 1] || decide (p.l4.length < 32) then none
  else some (slice p.l4 8 16, ofBe (slice p.l4 26 6))

/-- One item of class 4 served: its context ends. -/
def State.serveItem (s : State) (i : Item) : State :=
  match s.ctxAt i.ctx with
  | none => s
  | some c =>
    let s0 := s.freeCtx c.id
    let s1 := match s0.told c.port c.pkt with
      | some (ip, mac) => s0.learn c.port ip mac
      | none => s0
    match s1.bodkinAnswer c.port c.pkt with
    | some bs => s1.queueFrame c.port (s1.plainFrame .bodkin bs (c.pkt.prio (s1.untagPrio c.port)))
    | none => s1

/-- Class 4 served by Bodkin while it runs. -/
def State.serveMgt (s : State) : State :=
  if !s.bodkinRuns then s else
  let q := s.wv.queues.getD 4 []
  q.foldl State.serveItem { s with wv := { s.wv with queues := putAt s.wv.queues 4 [] } }

/-! Admission (R429 to R431). -/

/-- The lowest request context that is free. -/
def State.freeCtxId (s : State) : Option Nat :=
  if 4096 ≤ s.wv.ctxs.length then none
  else (List.range (s.wv.ctxs.length + 1)).find? fun k => (s.ctxAt k).isNone

/-- An arrival into the Packer, with the lane cycles that an item of classes 0 to 3 will take (R24, R380). -/
def State.demandLane (s : State) (cls cycles : Nat) : State :=
  { s with wv := { s.wv with arr := logLoad s.now loadSpan s.wv.arr (if cls < 4 then cycles else 0) } }

/-- A frame of classes 0 to 4 admitted to a context and its class's queue. -/
def State.admitReq (s : State) (n cls : Nat) (p : Pkt) (w : TimeWord) (kiss : Bool) : State :=
  match s.freeCtxId with
  | none => s.count (wvCtr 4)
  | some id =>
    let c : Ctx := { id := id, st := .queued, born := s.now, ingress := w, port := n, pkt := p, cls := cls, kiss := kiss, tag := 0,
                     lane := none, checked := false }
    let c := { c with tag := c.checkTag }
    let s := s.demandLane cls (laneCycles c)
    { s with wv := { s.wv with ctxs := s.wv.ctxs ++ [c], queues := updAt s.wv.queues cls (· ++ [{ ctx := id, tag := c.tag }]) } }

/-- A frame of classes 0 and 1: dropped in SAFE (R355), checked by the authentication unit (R471), then admitted. -/
def State.admitPtp (s : State) (n cls : Nat) (p : Pkt) (w : TimeWord) : State :=
  if s.md.mode == .safe then s else
  match p.ptp?.bind (s.authDrop n p) with
  | some i => s.count (ptpCtr n i)
  | none => s.admitReq n cls p w false

/-- A frame of classes 2 and 3 (R54, R427, R428, R450, R452). -/
def State.admitNtp (s : State) (n cls : Nat) (p : Pkt) (w : TimeWord) : State :=
  if s.md.mode == .safe && !s.bit 0x78108 30 then s.count (wvCtr 13)
  else if !addrOk p then s.count (wvCtr 11)
  else if 1536 < p.payload.length then s.count (wvCtr 7)
  else match s.rateLimit p with
    | (some kiss, s1) => s1.admitReq n cls p w kiss
    | (none, s1) => s1.count (wvCtr 12)

/-- A frame of class 4 (R429). -/
def State.admitMgt (s : State) (n : Nat) (p : Pkt) (w : TimeWord) : State :=
  if 256 ≤ (s.wv.queues.getD 4 []).length then s.count (wvCtr 15) else (s.admitReq n 4 p w false).serveMgt

/-- Cells taken for a frame that stays in the buffer (R378). -/
def State.takeCells (s : State) (n cells : Nat) (fromPool : Bool) : State :=
  s.setPort n fun p => if fromPool then { p with pool := p.pool + cells } else { p with reserve := p.reserve + cells }

/-- A frame, or its mirror copy, bound for a host ring (R364, R429). -/
def State.admitHost (s : State) (i : HostItem) : State :=
  if !s.ringEn (rxBase i.ring) then s.count (macCtr i.port 10)
  else if 4096 ≤ s.wv.hostQ.length then s.count (wvCtr 16)
  else
    let s := s.demandLane 5 0
    (({ s with wv := { s.wv with hostQ := s.wv.hostQ ++ [i] } }).takeCells i.port i.cells i.fromPool).markHeads

/-- A frame taken to where its steering sends it; its copy first, while the frame stands in the buffer. -/
def State.steerTo (s : State) (n : Nat) (bs : List Byte) (p : Pkt) (w : TimeWord) (fromPool : Bool) (t : Steer) : State :=
  let s1 := match t.rule with
    | some k => s.count (0x26000 + 8 * k)
    | none => s
  if t.drop then s1.count (macCtr n 11) else
  let item := fun (ring : Nat) (mirror : Bool) (cells : Nat) =>
    ({ bytes := bs, time := w, port := n, cls := t.cls, rule := t.rule.getD 0xFFFF, tci := (p.tags.head?.map (·.2)).getD 0, ring := ring,
       mirror := mirror, csumOk := p.ipOk && (!p.v6 || p.udp.isSome), cells := cells, fromPool := fromPool, since := none } : HostItem)
  let s2 := match t.mirror with
    | some r => s1.admitHost (item r true (if t.cls = 5 then 0 else cellsOf bs.length))
    | none => s1
  if t.cls < 2 then s2.admitPtp n t.cls p w
  else if t.cls < 4 then s2.admitNtp n t.cls p w
  else if t.cls = 4 then s2.admitMgt n p w
  else s2.admitHost (item t.ring false (cellsOf bs.length))

/-! MAC control and ESMC (R361, R368, R386). -/

/-- A MAC control frame acted on. -/
def State.macControl (s : State) (n : Nat) (b : List Byte) : State :=
  match be2 b 0 with
  | 0x0001 => s.pauseIn n (be2 b 2)
  | 0x0101 => s.pfcIn n (be2 b 2) ((List.range 8).map fun k => be2 b (4 + 2 * k))
  | _ => s.count (macCtr n 7)

/-- An ESMC PDU read: its SSM, its enhanced SSM and the originator's clock identity. -/
def readEsmc (b : List Byte) : Option (Nat × Option (Nat × List Byte)) :=
  if slice b 0 6 ≠ [0x0A, 0, 0x19, 0xA7, 0, 1] ∨ slice b 10 3 ≠ [1, 0, 4] then none else
  some ((b.getD 13 0).toNat % 16,
    if slice b 14 3 = [2, 0, 0x14] then some ((b.getD 17 0).toNat, slice b 18 8) else none)

/-- An ESMC frame received. -/
def State.esmcFrameIn (s : State) (n : Nat) (b : List Byte) : State :=
  match readEsmc b with
  | some (ssm, e) => s.esmcIn n ssm e
  | none => s

/-! FRAME_RECEIVE. -/

/-- A frame that has passed the length, FCS and address checks (R361 to R366, R379, R397). -/
def State.frameGood (s : State) (n : Nat) (f : RxFrame) (w : TimeWord) (fromPool : Bool) : State :=
  let len := f.bytes.length
  let s1 := (s.count (macCtr n 0)).countN (macCtr n 1) len
  if f.eccErr then s1.memoryError 0 else
  let bs := f.bytes.take (len - 4)
  let p := parseFrame bs
  if p.etype = 0x8808 then s1.macControl n p.payload
  else if p.etype = 0x8809 ∧ p.payload.getD 0 0 = 0x0A then (if n < 4 then s1.esmcFrameIn n p.payload else s1.count (macCtr n 7))
  else if 4 ≤ n ∧ (p.udp.map (·.2.1)) ≠ some 39413 ∧ defaultClass p ≠ 4 then s1.count (macCtr n 7)
  else if !sumsOk bs p then s1.count (macCtr n 8)
  else if n < 4 then
    if s1.bit (mBase n + 4) 30 && p.ptp?.isSome then s1 else s1.steerTo n bs p w fromPool (s1.steer n p)
  else s1.admitMgt n p w

/-- The checks of the MAC, in the order in which a dropped frame is counted (R356 to R358, R360, R378). -/
def State.frameMac (s : State) (n : Nat) (f : RxFrame) (w : TimeWord) : State :=
  let len := f.bytes.length
  let limit := s.maxFrm n + 4 * (frameTags f.bytes).length
  let cells := cellsOf (min len limit - 4)
  let fromPool := decide (4 ≤ n) || s.poolAdmits n cells
  if !fromPool && decide (2048 < (s.port n).reserve + cells) then s.count (macCtr n 9) else
  let s1 := if fromPool then s else s.xoffFirst n
  if limit < len then s1.count (macCtr n 5)
  else if len < 64 then s1.count (macCtr n 4)
  else if !f.fcsOk || f.pcsErr || f.cut then s1.count (macCtr n 6)
  else if !s1.accepts n (ofBe (slice f.bytes 0 6)) then s1.count (macCtr n 7)
  else s1.frameGood n f w fromPool

/-- A frame received on MGT: it waits for space in the pool where there is none, behind those that wait already (R378). -/
def State.mgtFrame (s : State) (f : RxFrame) : State :=
  if !(s.port 4).rxWait.isEmpty || decide (s.poolFree < cellsOf (f.bytes.length - 4)) then s.setPort 4 fun p => { p with rxWait := p.rxWait ++ [f] }
  else s.frameMac 4 f TimeWord.zero

/-- The frames of MGT that wait for space taken up as far as it goes. -/
def State.mgtWaiting (s : State) : State :=
  (s.port 4).rxWait.foldl State.mgtFrame (s.setPort 4 fun p => { p with rxWait := [] })

/-- Whether the tracker gives no time for a word (R406): one after the last conversion that agreed, up to the return of sixteen. -/
def StkSt.noTime (k : StkSt) (word : Nat) : Bool := k.dropped word || (!k.locked && !k.drop.any fun d => decide (word ≤ d.1))

/-- The Stake's part (R403, R406, R408, R557): a time word for the frame, or its end. MGT has no Stake. -/
def State.frameStake (s : State) (n : Nat) (f : RxFrame) : State :=
  if 4 ≤ n then s.mgtFrame f else
  let k := (s.port n).stk
  if k.noTime f.word then s.count (stkCtr n 3) else
  let t := wrapTime (s.ingressAt n f.word f.bit)
  let d := s.weftDiffAt (t / snsPerNs)
  if !s.fmu.gate && !s.weftPasses d then (s.count (stkCtr n 1)).gateTrip d
  else s.frameMac n f ⟨t, s.vBit && !s.fmu.gate, s.tb.l⟩

/-- FRAME_RECEIVE: a frame at a port whose link is up, reassembled first (R376); every one is counted on the line (R628). -/
def State.frameIn (s : State) (n : Nat) (f : RxFrame) : State :=
  if !(s.port n).link then s else
  let s0 := s.lineLoad n (f.bytes.length + 20) true
  let fec := (s.port n).fec
  let s1 := ((s0.countN (macCtr n 16) f.fragments).countN (macCtr n 23) (if fec then f.fecCorr else 0)).countN (macCtr n 24)
    (if fec then f.fecUncorr else 0)
  if f.asmErr then s1.count (macCtr n 17) else s1.frameStake n f

/-- FRAME_SENT, and what MGT has received and can now be stored. -/
def State.sentFrame (s : State) (n : Nat) : State := (s.frameSent n).mgtWaiting

def execFrameSent (n : Nat) (s : State) : Host.Outcome State Fault Refusal := .next (s.sentFrame n)
def execFrameReceive (n : Nat) (f : RxFrame) (s : State) : Host.Outcome State Fault Refusal := .next (s.frameIn n f)

end Sys2Proof.Machine
end

