-- ==== Sys2Proof/Machine/Pke.lean ====
section
/-! DEFINITION. The big-number engine and the key store (R522 to R554): what refuses an operation, what it computes, how long it
takes, and what its release does. -/

namespace Sys2Proof.Machine

open Sys2Proof Sys2Proof.Machine.Crypto

/-! Curves and encodings (R525, R527). -/

/-- The short-Weierstrass curve that a curve number names, if it is built in or loaded. -/
def State.ecCurve (s : State) (id : Nat) : Option EcCurve :=
  match id with
  | 0 => some p256
  | 1 => some p384
  | 2 => some p521
  | _ =>
    if id < 8 ∨ 15 < id then none else
    match Assoc.get (id - 8) s.pke.curves with
    | some c => if c.loaded then some { p := c.p, a := c.a, b := c.b, gx := c.gx, gy := c.gy, n := c.n } else none
    | none => none

/-- The Edwards curve that a curve number or a key type names. -/
def edOf (id : Nat) : EdCurve := if id = 4 then ed25519 else ed448

/-- Bytes of a number modulo m. -/
def modLen (m : Nat) : Nat := (m.log2 + 8) / 8

/-- A point as R527 encodes it. -/
def encodePt (c : EcCurve) (x y : Nat) : List Byte := [0x04] ++ beBytes (modLen c.p) x ++ beBytes (modLen c.p) y

/-- A point as R530 checks it: the code of the first check that fails, or 0. -/
def pointCode (c : EcCurve) (b : List Byte) : Nat :=
  let l := modLen c.p
  let x := ofBe (slice b 1 l)
  let y := ofBe (b.drop (1 + l))
  if b = [0] then 0x13
  else if b.length ≠ 1 + 2 * l ∨ b.getD 0 0 ≠ 4 then 0x11
  else if c.p ≤ x ∨ c.p ≤ y then 0x11
  else if onCurve c x y then 0 else 0x12

/-- The coordinates of a point that has passed. -/
def pointOf (c : EcCurve) (b : List Byte) : Pt := some (ofBe (slice b 1 (modLen c.p)), ofBe (b.drop (1 + modLen c.p)))

/-- An Edwards public key as R530 checks it. -/
def edCode (c : EdCurve) (b : List Byte) : Nat :=
  if c.p ≤ (edSplit c b).1 then 0x11 else
  match edDecode c b with
  | none => 0x12
  | some q => if q = (0, 1) then 0x13 else 0

/-! RSA keys in CRT form (R543): e (4), then p, q, d_p, d_q and q^−1 mod p. -/

/-- Half the modulus length of an RSA secret, and its parts. -/
def rsaHalf (k : List Byte) : Nat := (k.length - 4) / 5
def rsaPart (k : List Byte) (i : Nat) : Nat := ofBe (slice k (4 + i * rsaHalf k) (rsaHalf k))
def rsaE (k : List Byte) : Nat := ofBe (k.take 4)

/-- The modulus. -/
def rsaN (k : List Byte) : Nat := rsaPart k 0 * rsaPart k 1

/-- x^d mod n by the two primes. -/
def rsaPower (k : List Byte) (x : Nat) : Nat :=
  let (p, q) := (rsaPart k 0, rsaPart k 1)
  let m1 := powMod x (rsaPart k 2) p
  let m2 := powMod x (rsaPart k 3) q
  m2 + subMod m1 m2 p * rsaPart k 4 % p * q

/-! Keys (R539 to R541, R545). -/

/-- The policy bits permitted for a type (R540), IMPORTED apart. -/
def policyMask (typ : Nat) : Nat :=
  match typ with
  | 1 => 3
  | 2 => 2
  | 3 => 1
  | 4 => 1
  | 5 => 5
  | 6 => 8
  | 7 => 16
  | _ => 0

/-- Whether a curve number suits a type (R545). -/
def curveSuits (typ curve : Nat) : Bool :=
  match typ with
  | 1 => decide (curve < 3) || decide (8 ≤ curve ∧ curve < 16)
  | 2 => curve == 3
  | 3 => curve == 4
  | 4 => curve == 5
  | _ => curve == 0xFF

/-- The public key of a secret, in the encoding of R527. -/
def State.publicOf (s : State) (typ curve : Nat) (secret : List Byte) : List Byte :=
  match typ with
  | 1 => match s.ecCurve curve with
    | some c => match ecMul c (ofBe secret) (some (c.gx, c.gy)) with
      | some (x, y) => encodePt c x y
      | none => [0]
    | none => []
  | 2 => leBytes 32 (x25519 (clamp25519 (ofLe secret)) 9)
  | 3 => edPublic ed25519 secret
  | 4 => edPublic ed448 secret
  | 5 => beBytes (2 * rsaHalf secret) (rsaN secret) ++ secret.take 4
  | _ => []

/-- A scalar of a curve drawn as R545 lays down, from a random number. -/
def scalarOf (n x : Nat) : Nat := x % 2 ^ (n.log2 + 65) % (n - 1) + 1

/-- A secret of a type drawn. -/
def State.drawSecret (s : State) (typ curve : Nat) : List Byte × State :=
  let (x, s1) := s.draw
  let b : List Byte := match typ with
    | 1 => match s.ecCurve curve with
      | some c => beBytes (modLen c.n) (scalarOf c.n x)
      | none => []
    | 2 => leBytes 32 (clamp25519 (x % 2 ^ 256))
    | 4 => beBytes 57 (x % 2 ^ 456)
    | _ => beBytes 32 (x % 2 ^ 256)
  (b, s1)

/-- A key generated. -/
def State.genKey (s : State) (typ curve policy : Nat) : KeySlot × State :=
  let (b, s1) := s.drawSecret typ curve
  ({ typ := typ, curve := curve, policy := policy, secret := b, pub := s.publicOf typ curve b, keyId := 0 }, s1)

/-- A slot of the key store filled: the store is sealed again (R542, R546). -/
def State.fillSlot (s : State) (k : Nat) (v : KeySlot) : State :=
  { s with fe := { s.fe with slots := Assoc.put k v s.fe.slots, blank := false } }

/-- A slot of the key store. -/
def State.slotAt (s : State) (k : Nat) : Option KeySlot := if k < 128 then Assoc.get k s.fe.slots else none

/-! Commands (R525, R526). -/

/-- A command as its header spells it. -/
structure PkeCmd where
  op : Nat
  curve : Nat
  slot : Nat
  tag : List Byte
  l : List Nat
  a : List (List Byte)
  deriving DecidableEq, Repr

/-- The operands that stand one after another, each filled to a multiple of 4. -/
def operandsOf : List Nat → List Byte → List (List Byte)
  | [], _ => []
  | n :: ns, b => b.take n :: operandsOf ns (b.drop (pad4 n))

/-- A command read. -/
def pkeCmd (b : List Byte) : PkeCmd :=
  let l := [ofLe (slice b 8 2), ofLe (slice b 10 2), ofLe (slice b 12 2), ofLe (slice b 14 2)]
  { op := (b.getD 0 0).toNat, curve := (b.getD 1 0).toNat, slot := (b.getD 2 0).toNat, tag := slice b 4 4, l := l,
    a := operandsOf l (b.drop 16) }

def PkeCmd.len (c : PkeCmd) (i : Nat) : Nat := c.l.getD i 0
def PkeCmd.arg (c : PkeCmd) (i : Nat) : List Byte := c.a.getD i []

/-- The operations of R526. -/
def pkeOps : List Nat := [0x01, 0x02, 0x10, 0x11, 0x12, 0x13, 0x14, 0x15, 0x20, 0x21, 0x22]

/-- Whether a command is malformed (R525). -/
def pkeMalformed (b : List Byte) : Bool :=
  let c := pkeCmd b
  decide (b.length < 16) || !pkeOps.contains c.op || b.getD 3 0 != 0 || b.length != 16 + (c.l.map pad4).sum

/-- KEYGEN's TYPE and POLICY. -/
def PkeCmd.genType (c : PkeCmd) : Nat := ((c.arg 0).getD 0 0).toNat
def PkeCmd.genPolicy (c : PkeCmd) : Nat := ofLe (slice (c.arg 0) 2 2)

/-- The public key's length by type and curve. -/
def State.pubLen (s : State) (typ curve : Nat) : Nat :=
  match typ with
  | 1 => ((s.ecCurve curve).map (fun c => 1 + 2 * modLen c.p)).getD 0
  | 2 => 32
  | 3 => 32
  | 4 => 57
  | _ => 0

/-- The length of the result data of a command (R526). -/
def State.resultLen (s : State) (c : PkeCmd) : Nat :=
  let k := s.slotAt c.slot
  let kt := (k.map (·.typ)).getD 0
  let kc := k.bind (fun k => s.ecCurve k.curve)
  match c.op with
  | 0x01 => c.len 2
  | 0x02 => if kt = 5 then (k.map (fun k => 2 * rsaHalf k.secret)).getD 0 else 0
  | 0x10 => if kt = 2 then 32 else (kc.map (fun c => modLen c.p)).getD 0
  | 0x11 => if c.curve = 3 then 64 else ((s.ecCurve c.curve).map (fun c => 1 + 3 * modLen c.p)).getD 0
  | 0x12 => (kc.map (fun c => 2 * modLen c.n)).getD 0
  | 0x13 => 4
  | 0x14 => if kt = 3 then 64 else if kt = 4 then 114 else 0
  | 0x15 => 4
  | 0x20 => s.pubLen c.genType c.curve
  | 0x22 => (k.map (fun k => k.pub.length)).getD 0
  | _ => 0

/-! Header checks (R529). -/

/-- LENGTH: whether the operand lengths are those of the operation. -/
def State.lengthsOk (s : State) (c : PkeCmd) : Bool :=
  let k := s.slotAt c.slot
  let kt := (k.map (·.typ)).getD 0
  let rest := fun (i : Nat) => (c.l.drop i).all (· == 0)
  let within := fun (i a b : Nat) => decide (a ≤ c.len i ∧ c.len i ≤ b)
  match c.op with
  | 0x01 => within 2 1 512 && within 1 1 64 && c.len 0 == c.len 2 && rest 3
  | 0x02 => within 0 1 512 && rest 1 && (kt != 5 || c.len 0 == s.resultLen c)
  | 0x10 => decide (1 ≤ c.len 0) && rest 1 && (kt != 2 || c.len 0 == 32)
  | 0x11 => decide (1 ≤ c.len 0) && rest 1 && (c.curve != 3 || c.len 0 == 32)
  | 0x12 => within 0 1 64 && rest 1
  | 0x13 => decide (1 ≤ c.len 0) && within 1 1 64 && decide (1 ≤ c.len 2) && rest 3 &&
      (match s.ecCurve c.curve with
       | some e => c.len 2 == 2 * modLen e.n
       | none => true)
  | 0x14 => within 0 1 4000 && rest 1
  | 0x15 => decide (1 ≤ c.len 0) && within 1 1 4000 && decide (1 ≤ c.len 2) && rest 3 &&
      (!(c.curve == 4 || c.curve == 5) || (c.len 0 == (edOf c.curve).nb && c.len 2 == 2 * (edOf c.curve).nb))
  | 0x20 => c.len 0 == 4 && rest 1
  | _ => rest 0

/-- CURVE_REJECTED: whether the curve, and that of the named key, is one that the operation can use. -/
def State.curveOk (s : State) (c : PkeCmd) : Bool :=
  let ec := (s.ecCurve c.curve).isSome
  let keyCurve := match s.slotAt c.slot with
    | some k => k.typ != 1 || (s.ecCurve k.curve).isSome
    | none => true
  match c.op with
  | 0x10 => c.curve == 0xFF && keyCurve
  | 0x11 => c.curve == 3 || ec
  | 0x12 => c.curve == 0xFF && keyCurve
  | 0x13 => ec
  | 0x15 => c.curve == 4 || c.curve == 5
  | 0x20 => c.curve == 0xFF || c.curve == 3 || c.curve == 4 || c.curve == 5 || ec
  | _ => c.curve == 0xFF

/-- Whether an operation works on the key of a slot. -/
def pkeUsesKey (op : Nat) : Bool := [0x02, 0x10, 0x12, 0x14, 0x21, 0x22].contains op

/-- Whether a running KEYGEN is to fill a slot. -/
def State.slotTaken (s : State) (k : Nat) : Bool :=
  s.pke.ops.any fun o => o.core.isSome && (pkeCmd o.bytes).op == 0x20 && (pkeCmd o.bytes).slot == k && o.code == 0

/-- KEY_POLICY: whether slot, type and policy allow the operation (R541, R545). -/
def State.policyOk (s : State) (c : PkeCmd) : Bool :=
  let k := s.slotAt c.slot
  let typ := (k.map (·.typ)).getD 0
  let has := fun (b : Nat) => (k.map (·.policy)).getD 0 / 2 ^ b % 2 == 1
  let own := decide (5 ≤ c.slot ∧ c.slot < 128)
  match c.op with
  | 0x02 => own && typ == 5 && (has 0 || has 2)
  | 0x10 => own && (typ == 1 || typ == 2) && has 1
  | 0x12 => own && typ == 1 && has 0
  | 0x14 => own && (typ == 3 || typ == 4) && has 0
  | 0x20 =>
    let t := c.genType
    decide (64 ≤ c.slot ∧ c.slot < 128) && k.isNone && !s.slotTaken c.slot && [1, 2, 3, 4, 6].contains t && curveSuits t c.curve &&
      c.genPolicy &&& policyMask t == c.genPolicy
  | 0x21 => own
  | 0x22 => decide (c.slot < 128) && decide (1 ≤ typ ∧ typ ≤ 5)
  | _ => c.slot == 0xFF

/-- The first header check that fails, or 0. -/
def State.headerCode (s : State) (c : PkeCmd) : Nat :=
  if !s.lengthsOk c then 0x15
  else if !s.curveOk c then 0x23
  else if pkeUsesKey c.op && decide (c.slot < 128) && (s.slotAt c.slot).isNone then 0x21
  else if !s.policyOk c then 0x22
  else 0

/-! Validation (R530). -/

/-- The first check of the public inputs that fails, or 0. -/
def State.inputCode (s : State) (c : PkeCmd) : Nat :=
  let k := s.slotAt c.slot
  let secret := (k.map (·.secret)).getD []
  let inside := fun (x n : Nat) => decide (1 ≤ x ∧ x < n)
  match c.op with
  | 0x01 =>
    let n := ofBe (c.arg 2)
    if n % 2 = 0 ∨ n ≤ 1 then 0x11 else if inside (ofBe (c.arg 0)) n then 0 else 0x11
  | 0x02 => if inside (ofBe (c.arg 0)) (rsaN secret) then 0 else 0x11
  | 0x10 =>
    match k.bind (fun k => if k.typ = 1 then s.ecCurve k.curve else none) with
    | some e => pointCode e (c.arg 0)
    | none =>
      let u := ofLe (c.arg 0) % 2 ^ 255
      if p25519 ≤ u then 0x11 else if onMontgomery u then 0 else 0x12
  | 0x11 =>
    match s.ecCurve c.curve with
    | some e => pointCode e (c.arg 0)
    | none =>
      let u := ofLe (c.arg 0) % 2 ^ 255
      if p25519 ≤ u then 0x11 else if onMontgomery u then 0 else 0x12
  | 0x13 =>
    match s.ecCurve c.curve with
    | some e =>
      let p := pointCode e (c.arg 0)
      let l := modLen e.n
      if p ≠ 0 then p
      else if inside (ofBe ((c.arg 2).take l)) e.n && inside (ofBe ((c.arg 2).drop l)) e.n then 0 else 0x11
    | none => 0
  | 0x15 =>
    let e := edOf c.curve
    let p := edCode e (c.arg 0)
    if p ≠ 0 then p else if e.l ≤ ofLe ((c.arg 2).drop e.nb) then 0x11 else 0
  | _ => 0

/-! Times (R523), in ns with CLK_CORE at 800 MHz. -/

/-- V and T of elliptic-curve work: T of ECDH, ECDH_EPH, signature and verification. -/
structure EcTimes where
  v : Nat
  ecdh : Nat
  eph : Nat
  sign : Nat
  verify : Nat
  deriving DecidableEq, Repr

/-- The row of a curve number. -/
def State.ecTimes (s : State) (id : Nat) : EcTimes :=
  match id with
  | 0 => ⟨1200, 100000, 200000, 110000, 130000⟩
  | 1 => ⟨2200, 290000, 580000, 310000, 380000⟩
  | 2 => ⟨3600, 620000, 1240000, 650000, 800000⟩
  | 3 => ⟨1200, 70000, 140000, 0, 0⟩
  | 4 => ⟨1200, 70000, 0, 80000, 160000⟩
  | 5 => ⟨2600, 240000, 0, 260000, 520000⟩
  | _ =>
    let b := ((Assoc.get (id - 8) s.pke.curves).map (·.pbits)).getD 0
    if b ≤ 256 then ⟨1300, 110000, 220000, 120000, 145000⟩
    else if b ≤ 384 then ⟨2400, 310000, 620000, 330000, 405000⟩
    else if b ≤ 521 then ⟨3800, 650000, 1300000, 680000, 845000⟩
    else ⟨4400, 800000, 1600000, 840000, 1040000⟩

/-- The class of a modulus: up to 128, 256, 384 or 512 bytes. -/
def modClass (len : Nat) : Nat := if len ≤ 128 then 0 else if len ≤ 256 then 1 else if len ≤ 384 then 2 else 3

/-- The time that a long EdDSA message adds. -/
def edExtra (curve len sign : Nat) : Nat :=
  if curve = 4 then ceilDiv (len - 64) 128 * (if sign = 1 then 200 else 100)
  else ceilDiv (len - 64) 136 * (if sign = 1 then 300 else 150)

/-- V and T of a command. -/
def State.pkeTimes (s : State) (c : PkeCmd) : Nat × Nat :=
  let k := s.slotAt c.slot
  let kc := (k.map (·.curve)).getD 0xFF
  let vm := fun (len : Nat) => [300, 500, 700, 900].getD (modClass len) 0
  match c.op with
  | 0x01 =>
    let m := modClass (c.len 2)
    (vm (c.len 2), if c.len 1 ≤ 4 then [12000, 40000, 85000, 150000].getD m 0 else [330000, 1300000, 2900000, 5200000].getD m 0)
  | 0x02 => (vm (c.len 0), [250000, 1330000, 4000000, 8000000].getD (modClass (c.len 0)) 0)
  | 0x10 => ((s.ecTimes kc).v, (s.ecTimes kc).ecdh)
  | 0x11 => ((s.ecTimes c.curve).v, (s.ecTimes c.curve).eph)
  | 0x12 => ((s.ecTimes kc).v, (s.ecTimes kc).sign)
  | 0x13 => ((s.ecTimes c.curve).v, (s.ecTimes c.curve).verify)
  | 0x14 => ((s.ecTimes kc).v, (s.ecTimes kc).sign + edExtra kc (c.len 0) 1)
  | 0x15 => ((s.ecTimes c.curve).v, (s.ecTimes c.curve).verify + edExtra c.curve (c.len 1) 0)
  | 0x20 => if c.genType = 6 then (0, 2000) else ((s.ecTimes c.curve).v, (s.ecTimes c.curve).ecdh)
  | _ => (0, 2000)

/-! Results (R526, R531). -/

/-- The code and data of an agreement: none is a zero or infinite result. -/
def agreed (x : Option Nat) (enc : Nat → List Byte) : Nat × List Byte :=
  match x with
  | some v => if v = 0 then (0x14, []) else (0, enc v)
  | none => (0x14, [])

/-- The shared x-coordinate on a curve. -/
def sharedX (c : EcCurve) (d : Nat) (peer : List Byte) : Option Nat := (ecMul c d (pointOf c peer)).map (·.1)

/-- What an operation computes: its code at T, its data, and the state after its draws. -/
def State.pkeCompute (s : State) (c : PkeCmd) : Nat × List Byte × State :=
  let k := s.slotAt c.slot
  let secret := (k.map (·.secret)).getD []
  let u := ofLe (c.arg 0) % 2 ^ 255
  match c.op with
  | 0x01 => (0, beBytes (c.len 2) (powMod (ofBe (c.arg 0)) (ofBe (c.arg 1)) (ofBe (c.arg 2))), s)
  | 0x02 => (0, beBytes (c.len 0) (rsaPower secret (ofBe (c.arg 0))), s)
  | 0x10 =>
    match k.bind (fun k => if k.typ = 1 then s.ecCurve k.curve else none) with
    | some e => let r := agreed (sharedX e (ofBe secret) (c.arg 0)) (beBytes (modLen e.p)); (r.1, r.2, s)
    | none => let r := agreed (some (x25519 (clamp25519 (ofLe secret)) u)) (leBytes 32); (r.1, r.2, s)
  | 0x11 =>
    match s.ecCurve c.curve with
    | some e =>
      let d := scalarOf e.n s.draw.1
      let pub := s.publicOf 1 c.curve (beBytes (modLen e.n) d)
      let r := agreed (sharedX e d (c.arg 0)) (fun v => pub ++ beBytes (modLen e.p) v)
      (r.1, r.2, s.draw.2)
    | none =>
      let d := clamp25519 (s.draw.1 % 2 ^ 256)
      let r := agreed (some (x25519 d u)) (fun v => leBytes 32 (x25519 d 9) ++ leBytes 32 v)
      (r.1, r.2, s.draw.2)
  | 0x12 =>
    match k.bind (fun k => s.ecCurve k.curve) with
    | some e =>
      match ecdsaSign e (ofBe secret) (scalarOf e.n s.draw.1) (c.arg 0) with
      | some (r, v) => (0, beBytes (modLen e.n) r ++ beBytes (modLen e.n) v, s.draw.2)
      | none => (0x14, [], s.draw.2)
    | none => (0, [], s)
  | 0x13 =>
    match s.ecCurve c.curve with
    | some e =>
      let l := modLen e.n
      let ok := ecdsaVerify e (pointOf e (c.arg 0)) (c.arg 1) (ofBe ((c.arg 2).take l)) (ofBe ((c.arg 2).drop l))
      (0, [BitVec.ofNat 8 (b01 ok), 0, 0, 0], s)
    | none => (0, [], s)
  | 0x14 => (0, edSign (edOf ((k.map (·.curve)).getD 4)) secret (c.arg 0), s)
  | 0x15 => (0, [BitVec.ofNat 8 (b01 (edVerify (edOf c.curve) (c.arg 0) (c.arg 1) (c.arg 2))), 0, 0, 0], s)
  | 0x20 => let (b, s1) := s.drawSecret c.genType c.curve; (0, b, s1)
  | 0x22 => (0, (k.map (·.pub)).getD [], s)
  | _ => (0, [], s)

/-! Starting and releasing (R522, R524, R532, R546). -/

/-- Whether a core may take an operation: in service, idle, its working memory zeroised. -/
def State.coreFree (s : State) (core : Nat) : Bool :=
  decide (core < 8) && s.coreIn core && decide (s.pke.zeroUntil.getD core 0 ≤ s.now) && !s.pke.ops.any (fun o => o.core == some core)

/-- An operation's outcome fixed at its start: its code, its data, and after how long it is released. DELETE empties its slot now;
KEYGEN's secret waits in `data` for its release. -/
def State.pkeOutcome (s : State) (c : PkeCmd) : Nat × List Byte × Nat × State :=
  let h := s.headerCode c
  let v := s.inputCode c
  let (tv, tt) := s.pkeTimes c
  if h ≠ 0 then (h, [], 100, s)
  else if v ≠ 0 then (v, [], tv, s)
  else
    let (code, data, s1) := s.pkeCompute c
    let s2 := if c.op = 0x21 then ({ s1 with fe := { s1.fe with slots := Assoc.del c.slot s1.fe.slots } }).count 0xC0108 else s1
    (code, if code = 0x14 then zeros (s.resultLen c) else data, tt, s2)

/-- The command of an image's or a firmware's signature check: one verification on P-384, of the slot that it verifies. -/
def imageCheck : List Byte := [0x13, 1, 0xFF, 0] ++ zeros 4 ++ leBytes 2 97 ++ leBytes 2 48 ++ leBytes 2 96 ++ zeros 246

/-- The command of an Otarn command's signature check (R609): one verification on Ed25519. -/
def otarnCheck (key msg sig : List Byte) : List Byte :=
  [0x15, 4, 0xFF, 0] ++ zeros 4 ++ leBytes 2 key.length ++ leBytes 2 msg.length ++ leBytes 2 sig.length ++ zeros 2 ++
    [key, msg, sig].flatMap fun b => padTo (pad4 b.length) b

/-- The index that Bodkin's next check takes: above those of the checks it has. -/
def State.bodkinNext (s : State) : Nat := ((s.pke.ops.filter (·.bod)) ++ s.pke.bodWait).foldl (fun a o => max a (o.index + 1)) 0

/-- A signature check put into Bodkin's own queue, or to wait while that holds 4 (R21, R522); CLK_CORE comes up for it (R380). -/
def State.bodkinPut (s : State) (bytes : List Byte) : State :=
  let o : PkeOp := { bod := true, index := s.bodkinNext, bytes := bytes, resAddr := 0, core := none, start := 0, release := 0, code := 0, data := [] }
  ({ s with pke := { s.pke with bodWait := s.pke.bodWait ++ [o] } }).bodFill.coreFull

/-- Signature checks of an image queued, so many. -/
def State.bodkinQueue (s : State) (k : Nat) : State := (List.range k).foldl (fun s _ => s.bodkinPut imageCheck) s

/-- Whether some check of an image is still to be done. -/
def State.bodkinHeld (s : State) : Bool := (s.pke.ops ++ s.pke.bodWait).any fun o => o.bod && o.bytes.headD 0 == 0x13

/-- The operation that starts next: Bodkin's oldest waiting one, then the host's (R21, R522). -/
def State.pkeNext (s : State) : Option PkeOp :=
  (s.pke.ops.find? (fun o => o.core.isNone && o.bod)).or (s.pke.ops.find? (fun o => o.core.isNone))

/-- The next operation starts on a core, if it is of this kind: operations start in queue order. -/
def State.pkeStart (s : State) (op core : Nat) : State :=
  if !s.coreFree core then s else
  match s.pkeNext with
  | none => s
  | some o =>
    let c := pkeCmd o.bytes
    if c.op ≠ op then s else
    let (code, data, t, s1) := if o.bod && c.op == 0x13 then (0, [], (s.ecTimes 1).verify, s) else s.pkeOutcome c
    let o2 : PkeOp := { o with core := some core, start := s.now, release := s.now + t, code := code, data := data }
    { s1 with pke := { s1.pke with ops := s1.pke.ops.map (fun x => if x = o then o2 else x),
                                   work := logLoad s.now loadSpan s1.pke.work t } }

/-- Whether an operation's result has a redundant check or needs randomness (R532). -/
def pkeChecked (op : Nat) : Bool := [0x02, 0x10, 0x11, 0x12, 0x14, 0x20, 0x22].contains op

/-- What is counted at the end of an operation (R553). -/
def State.pkeCount (s : State) (code : Nat) : State :=
  if code = 0 then s.count (pkeCtr 0)
  else if code = 0x14 then s.count (pkeCtr 2)
  else if code = 0x32 then s.count (pkeCtr 4)
  else s.count (pkeCtr 1)

/-- The result of an operation (R528). -/
def pkeResult (code : Nat) (tag data : List Byte) : List Byte :=
  let d := if code = 0 ∨ code = 0x14 then data else []
  [BitVec.ofNat 8 code, 0] ++ leBytes 2 d.length ++ tag ++ d

/-- PKE_RESULT_RELEASE: exactly T, V or 0.1 µs after the start, stretched cycles apart (R524). -/
def State.pkeRelease (s : State) (core : Nat) (redundantOk : Bool) : State :=
  let s1 := s.tally
  match s1.pke.ops.find? (fun o => o.core == some core) with
  | none => s
  | some o =>
    if s1.now < o.release ∨ (!s.hif.bme ∧ !o.bod) then s else
    if o.bod then
      ((({ s1 with pke := { s1.pke with ops := s1.pke.ops.filter (· != o) } }).zeroCore (some core)).pkeCount o.code).bodFill
    else
    let c := pkeCmd o.bytes
    let bad := !redundantOk && pkeChecked c.op && (o.code == 0 || o.code == 0x14)
    let code := if bad then 0x32 else o.code
    let s2 := ({ s1 with pke := { s1.pke with ops := s1.pke.ops.filter (· != o) } }).zeroCore (some core)
    let gen := c.op == 0x20 && code == 0
    let pub := if gen then s2.publicOf c.genType c.curve o.data else o.data
    let s3 := if gen then
        (s2.fillSlot c.slot { typ := c.genType, curve := c.curve, policy := c.genPolicy, secret := o.data, pub := pub, keyId := 0 }).count 0xC0100
      else s2
    let s4 := (s3.pkeCount code).cqFinish { q := 0, i := o.index, qstat := 0, code := code, addr := o.resAddr, res := pkeResult code c.tag pub }
    if bad then s4.islandError (22 + core / 4) else s4

def execModexp (core : Nat) (s : State) : Host.Outcome State Fault Refusal := .next (s.pkeStart 0x01 core)
def execRsaPriv (core : Nat) (s : State) : Host.Outcome State Fault Refusal := .next (s.pkeStart 0x02 core)
def execEcdh (core : Nat) (s : State) : Host.Outcome State Fault Refusal := .next (s.pkeStart 0x10 core)
def execEcdhEph (core : Nat) (s : State) : Host.Outcome State Fault Refusal := .next (s.pkeStart 0x11 core)
def execEcdsaSign (core : Nat) (s : State) : Host.Outcome State Fault Refusal := .next (s.pkeStart 0x12 core)
def execEcdsaVerify (core : Nat) (s : State) : Host.Outcome State Fault Refusal := .next (s.pkeStart 0x13 core)
def execEddsaSign (core : Nat) (s : State) : Host.Outcome State Fault Refusal := .next (s.pkeStart 0x14 core)
def execEddsaVerify (core : Nat) (s : State) : Host.Outcome State Fault Refusal := .next (s.pkeStart 0x15 core)
def execKeygen (core : Nat) (s : State) : Host.Outcome State Fault Refusal := .next (s.pkeStart 0x20 core)
def execDelete (core : Nat) (s : State) : Host.Outcome State Fault Refusal := .next (s.pkeStart 0x21 core)
def execPubkey (core : Nat) (s : State) : Host.Outcome State Fault Refusal := .next (s.pkeStart 0x22 core)

end Sys2Proof.Machine
end

