-- ==== Sys2Proof/Machine/Hif.lean ====
section
/-! DEFINITION. The host interface (R489 to R521): its reset and link, rings and command queues, the event-capture stream,
interrupts and Precision Time Measurement. -/

namespace Sys2Proof.Machine

open Sys2Proof

/-! Link and reset (R489, R493, R494, R520). -/

/-- HIF_RESET: `linkLost` when the data link went down with it. -/
def State.hifReset (s : State) (linkLost : Bool) : State := s.hifResetBlock linkLost false

/-- PCIE_LINK_UP: the codes of speed and width that R520 shows. -/
def State.pcieUp (s : State) (speed width : Nat) : State :=
  if 1 ≤ speed ∧ speed ≤ 4 ∧ (width = 1 ∨ width = 2 ∨ width = 4) then
    { s with hif := { s.hif with link := true, speed := speed, width := width } }
  else s

/-- What configuration space reports of the endpoint (R489): the Subsystem Vendor and Subsystem IDs are 0 until an image sets them
(R494). -/
structure PcieId where
  device : BitVec 16
  revision : BitVec 8
  classCode : BitVec 24
  subsystem : W32
  deriving DecidableEq, Repr

def State.pcieId (s : State) : PcieId :=
  { device := 0x0448, revision := 0xB0, classCode := 0x111000, subsystem := if s.cfg.slot = 0 then 0 else Config.subsystemIds s.cfg.slot }

/-- The configuration registers after a write: a size that the endpoint does not support leaves its field, and a base address keeps the
zeros of its BAR's size (R490, R491). -/
def PciSt.written (p : PciSt) (w : PcieWrite) : PciSt :=
  let pick := fun (new : Option Nat) (top old : Nat) => match new with
    | some v => if v ≤ top then v else old
    | none => old
  let base := fun (new : Option Nat) (size old : Nat) => match new with
    | some v => v % 2 ^ 64 / size * size
    | none => old
  { mps := pick w.mps 2 p.mps, mrrs := pick w.mrrs 5 p.mrrs, aspmL1 := w.aspmL1.getD p.aspmL1, msixEn := w.msixEn.getD p.msixEn,
    fnMask := w.fnMask.getD p.fnMask, bar0 := base w.bar0 0x1000000 p.bar0, bar2 := base w.bar2 4096 p.bar2 }

/-- Whether a vector is masked: by Function Mask, or in the MSI-X table. -/
def State.vecMasked (s : State) (v : Nat) : Bool := s.hif.pci.fnMask || s.bit (0x11800C + 16 * v) 0

/-- A vector unmasked with a message pending sends it, where MSI-X is enabled. -/
def State.vecUnmask (s : State) (v : Nat) : State :=
  let f := fun (x : Vec) => if x.pend && s.hif.pci.msixEn && !s.vecMasked v then { x with pend := false, sent := x.sent + 1 } else x
  { s with hif := { s.hif with vecs := updAt s.hif.vecs v f } }

/-- PCIE_CONFIG_WRITE: answered with Retry while BOOT lasts with its shadow (R494); completions that waited for Bus Master Enable are
written (R499), and messages that Function Mask held are sent. -/
def State.pcieConfig (s : State) (w : PcieWrite) : State :=
  if !s.hif.link || s.shadow then s else
  let s1 := { s with hif := { s.hif with bme := w.bme.getD s.hif.bme, ptmEn := w.ptmEn.getD s.hif.ptmEn, pci := s.hif.pci.written w } }
  (List.range 36).foldl (fun s v => s.vecUnmask v) s1.cqFlush

/-- Whether the host interface can move data: Bus Master Enable is set and its island is in service (R499, R575). -/
def State.hifRuns (s : State) : Bool := s.hif.bme && !s.islandOut 5

/-- A status FAULT written: counted, raised and reported; the spec gives the report no tag (R507, R515, R521). -/
def State.dmaFault (s : State) : State :=
  let (x, s1) := ((s.count (hifCtr 11)).cause 11).draw
  s1.faultReport (x % 65536) 0

/-! Doorbells (R496). -/

/-- A TAIL write: an index outside the ring would leave more entries posted than it holds. -/
def State.tailWrite (s : State) (b : Nat) (v : W32) (put : Nat → State) : State :=
  if s.noWrites then s
  else if bitsOf v 15 0 < s.ringSize b then put (bitsOf v 15 0)
  else s.cause 10

def State.rxTail (s : State) (r : Nat) (v : W32) : State :=
  s.tailWrite (rxBase r) v fun t => s.setRx r { s.rxRing r with tail := t }

def State.txTail (s : State) (r : Nat) (v : W32) : State :=
  s.tailWrite (txBase r) v fun t => s.setTx r { s.txRing r with tail := t }

def State.cqTail (s : State) (q : Nat) (v : W32) : State :=
  s.tailWrite (cqBase q) v fun t => s.setCq q { s.cqRing q with tail := t }

/-! Receive (R500 to R503). -/

/-- The status of a posted entry that takes no data. -/
def rxBad (e : RxEntry) : Option Nat :=
  if e.fault then some 0x32
  else if e.bufLen = 0 then some 0x10
  else if e.bufLen < 256 ∨ 16384 < e.bufLen then some 0x12
  else none

/-- The entries that hold a frame of some bytes, those that take no data passed over; none when too few are posted. -/
def reserveRx : List RxEntry → Nat → Option (List RxEntry)
  | [], _ => none
  | e :: es, need =>
    match rxBad e with
    | some _ => (reserveRx es need).map (e :: ·)
    | none => if need ≤ e.bufLen then some [e] else (reserveRx es (need - e.bufLen)).map (e :: ·)

/-- The entry at HEAD of a receive ring completed: its bytes from an offset written back, HEAD advanced, its event. -/
def State.rxDone (s : State) (r ofs : Nat) (bs : List Byte) : State :=
  let b := rxBase r
  let h := (s.rxRing r).head
  let s1 := s.dma (s.ringAddr b + 32 * h + ofs) bs
  let n := (h + 1) % s.ringSize b
  (s1.setRx r { s1.rxRing r with head := n, next := n }).vecEvent r

/-- An entry that takes no data completed (R501). -/
def State.rxSkip (s : State) (r : Nat) (e : RxEntry) (st : Nat) : State :=
  let s1 := s.rxDone r 12 ([0, 0])
  let b := s.ringAddr (rxBase r) + 32 * (s.rxRing r).head
  let s2 := s1.dma (b + 16) (leBytes 8 e.user ++ [BitVec.ofNat 8 st, 0x80])
  if st = 0x32 then s2.dmaFault else s2.count (hifCtr 3)

/-- An entry of a frame completed, its buffer written first (R500, R503). -/
def State.rxFilled (s : State) (r : Nat) (e : RxEntry) (i : HostItem) (data : List Byte) (sop eop : Bool) : State :=
  let flags := b01 sop + 2 * b01 eop + 4 * b01 i.mirror + 8 * b01 i.csumOk + 128
  (s.dma e.addr data).rxDone r 0 (leBytes 12 i.time.toBits.toNat ++ leBytes 2 data.length ++ leBytes 2 i.bytes.length ++ leBytes 8 e.user ++
    [0, BitVec.ofNat 8 flags, BitVec.ofNat 8 i.port, BitVec.ofNat 8 i.cls] ++ leBytes 2 i.rule ++ leBytes 2 i.tci)

/-- The entries reserved for a frame completed in order. -/
def State.rxFill (r : Nat) (i : HostItem) : List RxEntry → List Byte → Bool → State → State
  | [], _, _, s => s
  | e :: es, left, sop, s =>
    match rxBad e with
    | some st => State.rxFill r i es left sop (s.rxSkip r e st)
    | none =>
      let eop := decide (left.length ≤ e.bufLen)
      State.rxFill r i es (left.drop e.bufLen) false (s.rxFilled r e i (left.take e.bufLen) sop eop)

/-- The frame at the head of a ring taken off. -/
def State.popHost (s : State) (i : HostItem) : State :=
  (({ s with wv := { s.wv with hostQ := s.wv.hostQ.erase i } }).freeCells i.port i.cells i.fromPool).markHeads

/-- The first frame waiting for a ring. -/
def State.hostHead (s : State) (r : Nat) : Option HostItem := s.wv.hostQ.find? (fun i => i.ring == r)

/-- HOST_FRAME_DELIVER: `entries` are the posted entries from HEAD on. With too few posted the frame waits, and the entries that take
no data and stand at HEAD are completed (R501, R502). -/
def State.hostDeliver (s : State) (r : Nat) (entries : List RxEntry) (eccOk : Bool) : State :=
  let b := rxBase r
  if !s.hifRuns || !s.ringEn b then s else
  let q := s.rxRing r
  let es := entries.take (ringCount (s.ringSize b) q.head q.tail)
  let skipBad := (es.takeWhile (fun e => (rxBad e).isSome)).foldl (fun s e => s.rxSkip r e ((rxBad e).getD 0)) s
  match s.hostHead r with
  | none => skipBad
  | some i =>
    if !eccOk then (s.popHost i).memoryError 0 else
    match reserveRx es i.bytes.length with
    | some used => (State.rxFill r i used i.bytes true (s.popHost i)).count (hifCtr 0)
    | none => skipBad

/-- RING_WAIT_EXPIRE (R502): not while the host interface is under test (R575). -/
def State.ringWait (s : State) (r : Nat) : State :=
  match s.hostHead r with
  | some i =>
    match i.since with
    | some t => if !s.islandOut 5 && decide (t + s.fld 0x110000 15 0 * 1000 ≤ s.now) then (s.popHost i).count (hifCtr 2) else s
    | none => s
  | none => s

/-! Transmit (R504 to R506). -/

def txSop (e : TxEntry) : Bool := e.flags % 2 == 1
def txEop (e : TxEntry) : Bool := e.flags / 2 % 2 == 1

/-- The entries of the first frame: up to EOP, or up to the next SOP where EOP is missing. -/
def frameEntries : List TxEntry → List TxEntry
  | [] => []
  | e :: es =>
    if txEop e then [e] else
    match es with
    | [] => [e]
    | f :: _ => if txSop f then [e] else e :: frameEntries es

/-- Whether a frame's entries break the layout or its order (R505). -/
def badDesc (es : List TxEntry) : Bool :=
  match es with
  | [] => true
  | e :: _ =>
    !txSop e || !(es.getLast?.map txEop).getD false || decide (32 < es.length) || decide (4 < e.port) || es.any (fun x => x.port != e.port) ||
    (e.flags / 16 % 2 == 1 && e.port == 4) || es.any (fun x => x.reserved != 0 || decide (32 ≤ x.flags))

/-- Whether a frame's length lies outside R359, or an entry's is 0. -/
def State.badLen (s : State) (es : List TxEntry) (bs : List Byte) : Bool :=
  let port := (es.head?.map (·.port)).getD 0
  es.any (fun e => e.len == 0) || decide (bs.length < 60) || decide (s.maxFrm port + 4 * (frameTags bs).length < bs.length + 4)

/-- Where the transport header of a parsed frame stands. -/
def l4At (bs : List Byte) (p : Pkt) : Nat :=
  let total := if p.v6 then 40 + be2 bs (p.l3 + 4) else be2 bs (p.l3 + 2)
  p.l3 + total - p.l4.length

/-- CSUM_IP4: the header checksum of an IPv4 frame. -/
def csumIp4 (bs : List Byte) (p : Pkt) : Option (List Byte) :=
  if !p.ipOk || p.v6 then none else
  let n := (bs.getD p.l3 0).toNat % 16 * 4
  let z := splice bs (p.l3 + 10) [0, 0]
  some (splice z (p.l3 + 10) (beBytes 2 (inetSum (slice z p.l3 n))))

/-- CSUM_L4: the UDP or TCP checksum. -/
def csumL4 (bs : List Byte) (p : Pkt) : Option (List Byte) :=
  if !p.ipOk || p.frag || p.deep then none else
  let o := l4At bs p
  match p.udp with
  | some (_, _, n) =>
    if n < 8 ∨ p.l4.length < n then none else
    let z := splice bs (o + 6) [0, 0]
    some (splice z (o + 6) (beBytes 2 (udpWritten (inetSum (pseudo p.v6 p.srcIp p.finalDst 17 n ++ slice z o n)))))
  | none =>
    if p.proto ≠ 6 ∨ p.l4.length < 20 then none else
    let n := p.l4.length
    let z := splice bs (o + 16) [0, 0]
    some (splice z (o + 16) (beBytes 2 (inetSum (pseudo p.v6 p.srcIp p.finalDst 6 n ++ slice z o n))))

/-- A frame with the checksums that its FLAGS ask for, and whether one could not be parsed. -/
def hostSums (flags : Nat) (bs : List Byte) : List Byte × Bool :=
  let p := parseFrame bs
  let (b1, m1) := if flags / 4 % 2 = 1 then (match csumIp4 bs p with
    | some b => (b, false)
    | none => (bs, true)) else (bs, false)
  let (b2, m2) := if flags / 8 % 2 = 1 then (match csumL4 b1 p with
    | some b => (b, false)
    | none => (b1, true)) else (b1, false)
  (b2, m1 || m2)

/-- Whether a host frame is express (R373). -/
def State.hostExpress (s : State) (n prio : Nat) (bs : List Byte) : Bool :=
  let p := parseFrame bs
  let ntp := match p.udp with
    | some (a, b, _) => a == 123 || b == 123
    | none => false
  p.ptp?.isSome || ntp || !s.bit (mBase n + 0x18) (16 + prio)

/-- A frame's entries read: `next` moves past them, and the frame joins those whose status is awaited. -/
def State.txRead (s : State) (r : Nat) (es : List TxEntry) (st : Option Nat) : State :=
  let q := s.txRing r
  let s1 := s.setTx r { q with next := (q.next + es.length) % s.ringSize (txBase r) }
  { s1 with hif := { s1.hif with nextTx := s1.hif.nextTx + 1,
                                 txq := s1.hif.txq ++ [{ ring := r, id := s1.hif.nextTx, flags := es.map (·.flags), status := st, tout := [] }] } }

/-- HOST_FRAME_TRANSMIT: `entries` are the posted entries from the next to be read on. A frame without EOP yet, or without room in
the pool, waits. -/
def State.hostTransmit (s : State) (r : Nat) (entries : List TxEntry) : State :=
  let b := txBase r
  let q := s.txRing r
  let av := entries.take (ringCount (s.ringSize b) q.next q.tail)
  let es := frameEntries av
  if !s.hifRuns || !s.ringEn b || es.isEmpty then s
  else if !(es.getLast?.map txEop).getD false && decide (es.length = av.length) && decide (es.length ≤ 32) then s else
  let bs := es.flatMap (·.data)
  let e0 := es.head?.getD { data := [], len := 0, port := 0, flags := 0, prio := 0, reserved := 0, fault := false }
  if es.any (·.fault) then s.txRead r es (some 0x32)
  else if badDesc es then s.txRead r es (some 0x13)
  else if s.badLen es bs then s.txRead r es (some 0x11)
  else if !(s.port e0.port).link || !s.bit (mBase e0.port + 4) 31 then s.txRead r es (some 0x20)
  else if s.poolFree < cellsOf bs.length then s
  else
    let (out, miss) := hostSums e0.flags bs
    let s1 := if miss then s.count (hifCtr 6) else s
    let prio := e0.prio % 8
    let f : EgFrame := { s1.plainFrame (.host s1.hif.nextTx) out prio with
      tsReq := e0.flags / 16 % 2 == 1, express := s1.hostExpress e0.port prio out }
    (s1.txRead r es none).queueFrame e0.port f

/-- The entry at HEAD of a transmit ring completed: FLAGS with DONE, STATUS, and in the EOP entry T_out over bytes 0 to 11. -/
def State.txDone (s : State) (r flags st : Nat) (tout : List Byte) : State :=
  let b := txBase r
  let h := (s.txRing r).head
  let a := s.ringAddr b + 32 * h
  let eop := flags / 2 % 2 == 1
  let t := if tout.isEmpty then zeros 12 else tout
  let s1 := if eop then s.dma a (t.take 11 ++ [t.getD 11 0 ||| 0x80]) else s.dma (a + 11) [BitVec.ofNat 8 flags ||| 0x80]
  let s2 := s1.dma (a + 24) [BitVec.ofNat 8 st]
  let s3 := s2.setTx r { s2.txRing r with head := (h + 1) % s.ringSize b }
  s3.vecEvent (16 + r)

/-- What is counted when a host frame's status is written (R521). -/
def State.txCount (s : State) (st : Nat) : State :=
  if st = 0 then s.count (hifCtr 1)
  else if st = 0x11 then s.count (hifCtr 4)
  else if st = 0x32 then (s.count (hifCtr 5)).dmaFault
  else s.count (hifCtr 5)

/-- TX_COMPLETE: the oldest frame of a ring, once its status is known. -/
def State.txComplete (s : State) (r : Nat) : State :=
  if !s.hifRuns then s else
  match s.hif.txq.find? (fun x => x.ring == r) with
  | none => s
  | some x =>
    match x.status with
    | none => s
    | some st =>
      let s1 := { s with hif := { s.hif with txq := s.hif.txq.erase x } }
      let s2 := x.flags.foldl (fun s f => s.txDone r f st x.tout) s1
      s2.txCount st

/-! Command queues (R508 to R510). -/

/-- Operand memory in use, in bytes (R522). -/
def State.opMem (s : State) : Nat := (s.pke.ops.map fun o => o.bytes.length - 16 + 8 + s.resultLen (pkeCmd o.bytes)).sum

/-- Whether a queue has room for a command (R509, R522, R535, R547). -/
def State.cqRoom (s : State) (q : Nat) (b : List Byte) : Bool :=
  if q = 0 then
    s.bit 0xA0000 31 && s.md.mode != .safe && decide ((s.pke.ops.filter (fun o => !o.bod)).length < 60) &&
      decide (s.opMem + b.length - 16 + 8 + s.resultLen (pkeCmd b) ≤ 65536)
  else decide (s.wv.mints.length < 16)

/-- The status that refuses a command at its fetch, or 0. -/
def State.cqCheck (s : State) (q : Nat) (e : CmdEntry) : Nat :=
  let need := if q = 0 then 8 + s.resultLen (pkeCmd e.bytes) else mintResLen e.bytes
  if e.fault then 0x32
  else if e.reserved ≠ 0 ∨ e.cmdLen < 8 ∨ 4096 < e.cmdLen ∨ (q = 0 ∧ pkeMalformed e.bytes) then 0x13
  else if e.resLen < need then 0x14
  else 0

/-- COMMAND_FETCH: the next entry of a queue, with the command it points at. -/
def State.cmdFetch (s : State) (q : Nat) (e : CmdEntry) : State :=
  let b := cqBase q
  let size := s.ringSize b
  if !s.hifRuns || !s.ringEn b || !s.cqRoom q e.bytes then s else
  match (s.cqRing q).toFetch size with
  | none => s
  | some i =>
    let s1 := s.setCq q { s.cqRing q with next := (i + 1) % size }
    let st := s1.cqCheck q e
    if st = 0x32 then
      let (x, s2) := (s1.cqComplete q i st 0).draw
      s2.faultReport (x % 65536) 0
    else if st ≠ 0 then s1.cqComplete q i st 0
    else if q = 0 then
      let o : PkeOp := { bod := false, index := i, bytes := e.bytes, resAddr := e.resAddr, core := none, start := 0, release := 0, code := 0, data := [] }
      ({ s1 with pke := { s1.pke with ops := s1.pke.ops ++ [o] } }).coreFull
    else { s1 with wv := { s1.wv with mints := s1.wv.mints ++ [{ index := i, bytes := e.bytes, resAddr := e.resAddr, running := false, keys := [] }] } }

/-! The event-capture stream (R511, R512). -/

/-- Slots of the host ring in use. -/
def State.evsUsed (s : State) : Nat := ptrSub s.hif.evsWr s.hif.evsHostRd

/-- HELD: the host ring is full. -/
def State.evsHeld (s : State) : Bool := s.evsEn && decide (2 ^ s.fld 0x110608 4 0 ≤ s.evsUsed)

/-- EVS_RECORD_DELIVER. -/
def State.evsDeliver (s : State) : State :=
  if !s.evsEn || !s.hifRuns || s.unread s.hif.evs == 0 || s.evsHeld then s else
  let slot := s.hif.evsWr % 2 ^ s.fld 0x110608 4 0
  let a := (s.reg 0x110600).toNat + (s.reg 0x110604).toNat * 2 ^ 32 + 16 * slot
  let s1 := s.dma a (leBytes 16 (s.recAt s.hif.evs.rd).toNat)
  let s2 := { s1 with hif := { s1.hif with evs := { s1.hif.evs with rd := (s1.hif.evs.rd + 1) % 2 ^ 32 }, evsWr := (s1.hif.evsWr + 1) % 2 ^ 32 } }
  ((s2.count (hifCtr 8)).vecEvent 34).flushOverflow

/-- The stream's reader changed by an operation: nothing in BOOT and CALIBRATE (R79). -/
def State.evsOp (s : State) (r : Reader) : State := if s.noWrites then s else { s with hif := { s.hif with evs := r } }

/-- EVS_HOST_RD_WRITE. -/
def State.evsRdWrite (s : State) (v : W32) : State := if s.noWrites then s else { s with hif := { s.hif with evsHostRd := v.toNat } }

/-! Interrupts (R513, R514). -/

/-- A message of a vector due: by count, or by time after the first event. -/
def State.vecDue (s : State) (v : Nat) : Bool :=
  let x := s.hif.vecs.getD v Vec.reset
  let r := 0x110800 + 4 * v
  decide (0 < x.events) &&
    (decide (max 1 (s.fld r 7 0) ≤ x.events) || decide (x.first + s.fld r 25 16 * 1000 ≤ s.now))

/-- MSIX_MESSAGE: sent, or held as pending while the vector is masked; none goes while MSI-X is not enabled (R490). -/
def State.msix (s : State) (v : Nat) : State :=
  if !s.hifRuns || !s.hif.pci.msixEn || !s.vecDue v then s else
  let f := fun (x : Vec) => if s.vecMasked v then { x with events := 0, pend := true } else { x with events := 0, sent := x.sent + 1 }
  { s with hif := { s.hif with vecs := updAt s.hif.vecs v f } }

/-! Precision Time Measurement (R516 to R518). -/

/-- A correlation ended without result. -/
def State.ptmFail (s : State) (token : Option Nat) (code : Nat) : State :=
  let r := { s.hif.ptm with token := token.getD s.hif.ptm.token, code := code }
  (({ s with hif := { s.hif with ptm := r, ptmRun := none } }).count (hifCtr 10)).cause 9

/-- A correlation begun, its first PTM Request sent: t1 is Warp in whole nanoseconds (R18, R516). It fails at once without PTM Enable, or without a link. -/
def State.ptmBegin (s : State) (token : Option Nat) : State :=
  if !s.hif.ptmEn then s.ptmFail token 0x21
  else if !s.hif.link then s.ptmFail token 0x22
  else { s with hif := { s.hif with ptmRun := some { token := token, began := s.now, t1 := s.tb.warp, firstDlg := none } } }

/-- PTM_REQ: supersedes an automatic correlation. -/
def State.ptmReq (s : State) (token : Nat) : State := if s.noWrites then s else s.ptmBegin (some token)

/-- PTM_AUTO: with AUTO set, where PERIOD of Warp has run and no correlation is running. -/
def State.ptmAuto (s : State) : State :=
  if s.bit 0x110900 31 && s.hif.ptmRun.isNone && !s.inReset && decide (s.tb.warp % (s.fld 0x110900 9 0 * 1000000) = 0) then
    s.ptmBegin none
  else s

/-- PTM_RESPONSE: a ResponseD received, t4 being Warp in whole nanoseconds: the Master Time that it carries, and the turnaround,
which the second dialog's carries for the first. -/
def State.ptmResponse (s : State) (master turn : Nat) : State :=
  match s.hif.ptmRun with
  | none => s
  | some r =>
    match r.firstDlg with
    | none => { s with hif := { s.hif with ptmRun := some { r with began := s.now, t1 := s.tb.warp, firstDlg := some (r.t1, s.tb.warp, master) } } }
    | some (a, b, m) =>
      let rtt := b - a
      let res : PtmRes := { token := r.token.getD s.hif.ptm.token, code := 0, seq := (s.hif.ptm.seq + 1) % 2 ^ 32, t1 := a, rtt := rtt, master := m,
                            turn := turn, prop := Config.round (((rtt : Rat) - turn) / 2) }
      (({ s with hif := { s.hif with ptm := res, ptmRun := none } }).count (hifCtr 9)).cause 9

/-- PTM_TIMEOUT: no ResponseD within 10 ms. -/
def State.ptmTimeout (s : State) : State :=
  match s.hif.ptmRun with
  | some r => if r.began + 10000000 ≤ s.now then s.ptmFail r.token 0x33 else s
  | none => s

/-- The result registers, from HIF_PTM_T1_L to HIF_PTM_PROP. -/
def PtmRes.words (r : PtmRes) : List W32 :=
  let sec := r.t1 / nsPerSec
  [sec % 2 ^ 32, sec / 2 ^ 32 % 2 ^ 16, r.t1 % nsPerSec, r.rtt, r.master % 2 ^ 32, r.master / 2 ^ 32, r.turn, unsigned 32 r.prop].map (BitVec.ofNat 32)

/-- PTM_RESULT_LATCH: a read of HIF_PTM_SEQ. -/
def State.ptmLatch (s : State) (p : Path) : State := if s.shadow then s else s.setLat p fun l => { l with ptm := s.hif.ptm.words }

def execHifReset (linkLost : Bool) (s : State) : Host.Outcome State Fault Refusal := .next (s.hifReset linkLost)
def execRxTailWrite (r : Nat) (v : W32) (s : State) : Host.Outcome State Fault Refusal := .next (s.rxTail r v)
def execTxTailWrite (r : Nat) (v : W32) (s : State) : Host.Outcome State Fault Refusal := .next (s.txTail r v)
def execCqTailWrite (q : Nat) (v : W32) (s : State) : Host.Outcome State Fault Refusal := .next (s.cqTail q v)
def execHostFrameDeliver (r : Nat) (entries : List RxEntry) (eccOk : Bool) (s : State) : Host.Outcome State Fault Refusal := .next (s.hostDeliver r entries eccOk)
def execRingWaitExpire (r : Nat) (s : State) : Host.Outcome State Fault Refusal := .next (s.ringWait r)
def execHostFrameTransmit (r : Nat) (entries : List TxEntry) (s : State) : Host.Outcome State Fault Refusal :=
  .next (s.hostTransmit r entries)
def execTxComplete (r : Nat) (s : State) : Host.Outcome State Fault Refusal := .next (s.txComplete r)
def execCommandFetch (q : Nat) (e : CmdEntry) (s : State) : Host.Outcome State Fault Refusal := .next (s.cmdFetch q e)
def execAbort (q index : Nat) (s : State) : Host.Outcome State Fault Refusal := .next (if s.noWrites then s else s.cqAbort q index)
def execAbortAll (q : Nat) (s : State) : Host.Outcome State Fault Refusal := .next (if s.noWrites then s else s.cqAbortAll q)
def execEvsRecordDeliver (s : State) : Host.Outcome State Fault Refusal := .next s.evsDeliver
def execEvsHostRdWrite (v : W32) (s : State) : Host.Outcome State Fault Refusal := .next (s.evsRdWrite v)
def execEvsMark (s : State) : Host.Outcome State Fault Refusal := .next (s.evsOp s.hif.evs.doMark)
def execEvsRewind (s : State) : Host.Outcome State Fault Refusal := .next (s.evsOp (s.rewound s.hif.evs))
def execEvsClear (s : State) : Host.Outcome State Fault Refusal := .next (s.evsOp s.hif.evs.doClear)
def execMsixMessage (v : Nat) (s : State) : Host.Outcome State Fault Refusal := .next (s.msix v)
def execPtmReq (token : BitVec 16) (s : State) : Host.Outcome State Fault Refusal := .next (s.ptmReq token.toNat)
def execPtmAuto (s : State) : Host.Outcome State Fault Refusal := .next s.ptmAuto
def execPtmResponse (master turn : Nat) (s : State) : Host.Outcome State Fault Refusal := .next (s.ptmResponse master turn)
def execPtmTimeout (s : State) : Host.Outcome State Fault Refusal := .next s.ptmTimeout
def execPcieLinkUp (speed width : Nat) (s : State) : Host.Outcome State Fault Refusal := .next (s.pcieUp speed width)
def execPcieConfigWrite (w : PcieWrite) (s : State) : Host.Outcome State Fault Refusal := .next (s.pcieConfig w)

end Sys2Proof.Machine
end

