-- ==== Sys2Proof/Machine/Pmc.lean ====
section
/-! DEFINITION. Counters as they are cleared and shown, the bandwidth windows and the user page (R623 to R636), and the test access
port (R666 to R668). -/

namespace Sys2Proof.Machine

open Sys2Proof

/-! Counters (R625, R627). -/

/-- Whether an offset is one of `n` counters from a base. -/
def inCtrs (base n off : Nat) : Bool := decide (base ≤ off) && (off - base) % 8 == 0 && decide ((off - base) / 8 < n)

/-- Whether the lower register of a counter stands at an offset (R627). -/
def isCounter (off : Nat) : Bool :=
  if off < 0x24000 then inCtrs (mBase ((off - 0x10000) / 0x4000) + 0x100) 25 off && decide (0x10000 ≤ off)
  else match off / 0x10000 with
    | 2 => inCtrs 0x26000 256 off
    | 3 => (List.range 4).any fun n => inCtrs (sBase n + 0x40) 6 off
    | 4 => inCtrs 0x40200 17 off
    | 5 => inCtrs 0x50300 16 off
    | 6 => off == 0x60018 || (List.range 17).any fun n => off == bBase n + 0x38
    | 7 => inCtrs 0x700A0 2 off
    | 8 => inCtrs 0x80700 3 off
    | 9 => inCtrs 0x90300 8 off || (List.range 4).any fun n => inCtrs (gBase n + 0x300) 19 off
    | 10 => inCtrs 0xA0100 5 off
    | 11 => inCtrs 0xB0100 3 off
    | 12 => inCtrs 0xC0100 2 off
    | 13 => inCtrs 0xD0200 3 off
    | 14 => inCtrs 0xE0100 8 off
    | 16 => inCtrs 0x100200 4 off
    | 17 => inCtrs 0x110A00 12 off
    | _ => false

/-- The 64 bits of a counter latched for a path: a read of its lower register. -/
def State.ctrLatch (s : State) (p : Path) (off : Nat) : State :=
  if s.shadow || !isCounter off then s else s.setLat p fun l => { l with ctr := s.ctrAt off }

/-- COUNTER_WRAP_CLEAR: a 1 written to bit 31 of the upper register of the counter at `off`. -/
def State.wrapClear (s : State) (off : Nat) : State :=
  if s.noWrites || !isCounter off then s
  else { s with ctr := Assoc.putD 0 off (BitVec.ofNat 64 ((s.ctrAt off).toNat % 2 ^ 63)) s.ctr }

/-! Windowed bandwidth (R628 to R634). -/

def State.bwAt (s : State) (n : Nat) : BwSt := s.pmc.getD n BwSt.reset

/-- PMC_BW_STATn (R633). -/
def BwSt.stat (b : BwSt) : W32 := BitVec.ofNat 32 (b01 b.valid * 2 ^ 31 + b01 b.rShort * 2 ^ 30 + b.rRxUtil * 2 ^ 16 + b.rTxUtil)

/-- PMC_BW_STATn to PMC_BW_LENn. -/
def BwSt.words (b : BwSt) : List W32 :=
  b.stat :: ([b.rRx % 2 ^ 32, b.rRx / 2 ^ 32, b.rTx % 2 ^ 32, b.rTx / 2 ^ 32, b.rLen].map (BitVec.ofNat 32))

/-- PMC_BW_PEAKn (R634). -/
def BwSt.peak (b : BwSt) : W32 := BitVec.ofNat 32 (b.peakRx * 2 ^ 16 + b.peakTx)

/-- The latch of a read of PMC_BW_STATn. -/
def State.bwLatch (s : State) (p : Path) (n : Nat) : State :=
  if s.shadow then s else s.setLat p fun l => { l with bw := putAt l.bw n (s.bwAt n).words }

/-- What a read of PMC_BW_PEAKn reloads. -/
def State.bwPeakClear (s : State) (n : Nat) : State := if s.shadow then s else s.setBw n fun b => { b with peakRx := 0, peakTx := 0 }

/-! The user page (R635, R636). -/

/-- The eight bytes at an offset of the page. -/
def State.pageWord (s : State) (off : Nat) : Nat :=
  let k := off / 8 % 4
  let n := off / 0x20 % 8
  if off < 0xA0 then (s.ctrAt (macCtr n k)).toNat
  else if 0x100 ≤ off ∧ off < 0x188 then (s.ctrAt (wvCtr ((off - 0x100) / 8))).toNat
  else if 0x200 ≤ off ∧ off < 0x280 then (s.ctrAt (ptpCtr n ([0, 1, 2, 4].getD k 0))).toNat
  else if 0x300 ≤ off ∧ off < 0x3A0 then
    let b := s.bwAt n
    [b.wseq, b.rRx, b.rTx, b.stat.toNat + b.rLen * 2 ^ 32].getD k 0
  else 0

/-- USER_PAGE_READ: naturally aligned, 4 or 8 bytes. -/
def State.userPage (s : State) (off bytes : Nat) : State :=
  if !((bytes == 4 || bytes == 8) && off % bytes == 0 && decide (off < 4096)) then s else
  let v : Nat := if s.bit 0xF0000 31 then s.pageWord (off / 8 * 8) else 0
  let r : Nat := if bytes = 8 then v else if off % 8 = 0 then v % 2 ^ 32 else v / 2 ^ 32 % 2 ^ 32
  { s with userRead := BitVec.ofNat 64 r }

/-! The test access port. -/

/-- SAMPLE/PRELOAD: the cells capture the balls, and the update register takes what was shifted in. -/
def State.jtagSample (s : State) (preload balls : BitVec 115) : State :=
  { s with jtag := { ir := 1, bsr := preload, capture := balls } }

/-- EXTEST: the balls are captured and driven from the update register, while RESET_N is low; else it acts as BYPASS (R667). -/
def State.jtagExtest (s : State) (balls : BitVec 115) : State :=
  { s with jtag := { s.jtag with ir := 2, capture := if s.glb.resetLow then balls else s.jtag.capture } }

/-- An instruction that captures nothing selected. -/
def State.jtagIr (s : State) (ir : BitVec 4) : State := { s with jtag := { s.jtag with ir := ir } }

/-- BYPASS, and every code that acts as it (R666). -/
def State.jtagBypass (s : State) (code : BitVec 4) : State := if 1 ≤ code.toNat ∧ code.toNat ≤ 4 then s else s.jtagIr code

/-- What drives the balls: 0 the part itself, 1 the update register (EXTEST, CLAMP), 2 nothing (HIGHZ); only while RESET_N is low
(R667). -/
def State.jtagDrive (s : State) : Nat :=
  if !s.glb.resetLow then 0 else if s.jtag.ir = 2 ∨ s.jtag.ir = 4 then 1 else if s.jtag.ir = 3 then 2 else 0

def execCounterWrapClear (off : Nat) (s : State) : Host.Outcome State Fault Refusal := .next (s.wrapClear off)
def execUserPageRead (off bytes : Nat) (s : State) : Host.Outcome State Fault Refusal := .next (s.userPage off bytes)
def execJtagSamplePreload (preload balls : BitVec 115) (s : State) : Host.Outcome State Fault Refusal :=
  .next (s.jtagSample preload balls)
def execJtagExtest (balls : BitVec 115) (s : State) : Host.Outcome State Fault Refusal := .next (s.jtagExtest balls)
def execJtagHighz (s : State) : Host.Outcome State Fault Refusal := .next (s.jtagIr 3)
def execJtagClamp (s : State) : Host.Outcome State Fault Refusal := .next (s.jtagIr 4)
def execJtagBypass (code : BitVec 4) (s : State) : Host.Outcome State Fault Refusal := .next (s.jtagBypass code)
def execJtagTrst (s : State) : Host.Outcome State Fault Refusal := .next (s.jtagIr 0xF)

end Sys2Proof.Machine
end

