-- ==== Sys2Proof/Machine/Commit.lean ====
section
/-! DEFINITION. Staged sets: snapshot, validation, safe point (R82 to R92), and what each block's chapter lays down at the safe
point. -/

namespace Sys2Proof.Machine

open Sys2Proof

/-! The sets of a block. -/

/-- The registers that a block's commit registers serve (R87). -/
def blkSize : CmtBlk → Nat
  | .mac _ => 0x4000
  | .gns => 0x8000
  | .ptp => 0x8000
  | _ => 0x10000

/-- Whether an offset stands in a block. -/
def inBlk (b : CmtBlk) (off : Nat) : Bool := decide (blkBase b ≤ off) && decide (off < blkBase b + blkSize b)

/-- The word that a staged word becomes in the active copy: SPLICE_WIN below 100 is applied as 100 (R84, R238). -/
def applied (off : Nat) (w : W32) : W32 := if off = 0x70008 ∧ bitsOf w 13 0 < 100 then (w &&& 0xFFFFC000#32) ||| 100#32 else w

/-- The active map with the RWS fields of a block taken from a snapshot of its staged copy. -/
def State.merged (s : State) (b : CmtBlk) (snap : RegMap) : RegMap :=
  (((s.act ++ snap).map (·.1)).filter (inBlk b)).foldl (fun m off =>
    match regDef off with
    | some r =>
      let k := r.mask (· == .rws)
      m.wr off ((m.rd off &&& ~~~k) ||| (applied off (snap.rd off) &&& k))
    | none => m) s.act

/-! Validation (R84). -/

/-- The offsets of a family of registers. -/
def RegDef.offs (r : RegDef) : List Nat := (List.range r.n).map fun i => r.base + r.stride * i

/-- Whether a register holds a field outside its range: of RWS, and at load of every access (R76). -/
def RegDef.bad (r : RegDef) (load : Bool) (m : RegMap) (off : Nat) : Bool :=
  r.flds.any fun f => (load || f.acc == .rws) && !f.clamp && !f.ok (f.val (m.rd off) (m.rd (off + 4)))

/-- FREQ_KHZ of the REFINs whose SIG makes it count (R213). -/
def freqFaults (m : RegMap) : List Nat :=
  ((List.range 8).map bBase).filter fun b =>
    let w := m.rd b
    bitsOf w 22 21 == 2 && (bitsOf w 16 0 == 0 || decide (100000 < bitsOf w 16 0))

/-- The delays of the front-end script's WAIT entries outside 1 to 1,000,000 µs (R287). -/
def waitFaults (m : RegMap) : List Nat :=
  ((List.range 64).map fun k => 0x91000 + 8 * k).filter fun o =>
    bitsOf (m.rd o) 31 29 == 3 && !decide (1 ≤ (m.rd (o + 4)).toNat ∧ (m.rd (o + 4)).toNat ≤ 1000000)

/-- The offsets of a block's registers that hold a field outside its range. -/
def rangeFaults (b : CmtBlk) (load : Bool) (m : RegMap) : List Nat :=
  ((regsOf b).flatMap fun r => r.offs.filter (r.bad load m)) ++ (match b with
    | .ref => freqFaults m
    | .gns => if load then waitFaults m else []
    | _ => [])

/-- A field and a bit of a register of a map. -/
def RegMap.fl (m : RegMap) (off hi lo : Nat) : Nat := bitsOf (m.rd off) hi lo
def RegMap.bt (m : RegMap) (off i : Nat) : Bool := bitAt (m.rd off) i

/-- The register reported for a broken rule. -/
def broken (c : Bool) (off : Nat) : List Nat := if c then [off] else []

/-- R353 at load, and R394. -/
def macBroken (n : Nat) (load : Bool) (m : RegMap) : List Nat :=
  let b := mBase n
  let speed := m.fl b 31 30
  let combo := if n < 4 then speed == 3 || (m.bt b 29 && speed != 2) else speed == 1 || speed == 2 || m.bt b 29 || (speed == 3 && !m.bt b 28)
  broken (load && combo) b ++
  (if n < 4 then
    broken (m.fl (b + 0x10) 23 16 != 0 && (m.bt (b + 0x10) 31 || m.bt (b + 0x10) 30)) (b + 0x10) ++
    broken (m.bt (b + 4) 30 && m.bt (b + 0x20) 31) (b + 0x20) ++
    broken (m.bt (b + 0x24) 31 && !(m.bt (b + 4) 30 && speed == 2 && m.bt b 28)) (b + 0x24) ++
    broken (decide (m.fl (b + 0x24) 15 8 ≤ m.fl (b + 0x24) 23 16)) (b + 0x24)
  else [])

/-- The rotation period that the calibration hits need (R150), and frequency mode with both edges (R177). -/
def tacBroken (m : RegMap) : List Nat :=
  let need := fun (l : Nat) => if l = 26 then 4 else if l = 25 then 2 else 1
  broken (decide (m.fl 0x50000 7 0 < need (m.fl 0x50000 28 24))) 0x50000 ++
  (List.range 8).flatMap fun n => broken (m.fl (tinCfg n) 2 0 == 3 && m.fl (tinCfg n) 5 4 == 2) (tinCfg n)

/-- R206. -/
def refBroken (m : RegMap) : List Nat :=
  let tod := ((List.range 8).map bBase).filter fun b => m.fl b 22 21 == 1
  broken (decide (1 < tod.length)) (tod.headD 0) ++
  broken (m.bt 0x60000 30 && !m.bt (bBase (m.fl 0x60000 28 24)) 31) 0x60000

/-- R240. -/
def srvBroken (m : RegMap) : List Nat :=
  let budget := (m.rd 0x70018).toNat
  broken (decide (budget ≤ m.fl 0x70004 31 16)) 0x70004 ++ broken (decide ((m.rd 0x7001C).toNat ≤ budget)) 0x70018

/-- The highest frequency of an output format in Hz (R247). -/
def formatMax (f : Nat) : Nat := if f = 0 then 1000000000 else if f = 1 then 400000000 else 250000000

/-- Whether a CLKOUT has a whole number of cycles per second (R248). -/
def wholeCycles (m : RegMap) (n : Nat) : Bool := (clkFreq m n).den == 1

/-- R271. -/
def outBroken (m : RegMap) : List Nat :=
  let clks := List.range 10
  let ppss := List.range 4
  let baud := baudOf (m.fl 0x80500 23 21)
  let bytes := if m.bt 0x80500 30 then 60 else 34
  (clks.flatMap fun n => broken (decide (clkFreq m n < 1 ∨ 1000000000 < clkFreq m n)) (cBase n)) ++
  (clks.flatMap fun n => broken (decide ((m.rd (cBase n + 12)).toNat ≤ (m.rd (cBase n + 8)).toNat)) (cBase n + 8)) ++
  (clks.flatMap fun n => broken (decide ((formatMax (m.fl (cBase n) 30 29) : Rat) < clkFreq m n)) (cBase n)) ++
  (clks.flatMap fun n => broken (m.bt (cBase n) 28 && !wholeCycles m n) (cBase n)) ++
  (ppss.flatMap fun k =>
    let p := (m.rd (pBase k + 4)).toNat
    broken (decide (p < (m.rd (pBase k + 8)).toNat + 4 + ceilDiv p 1000)) (pBase k + 8)) ++
  (ppss.flatMap fun k =>
    let ofs := signed 64 ((m.rd (pBase k + 12)).toNat + (m.rd (pBase k + 16)).toNat * 2 ^ 32)
    broken (decide ((((m.rd (pBase k + 4)).toNat * snsPerNs : Nat) : Int) ≤ |ofs|)) (pBase k + 12)) ++
  broken (decide (1000 * baud < (m.fl 0x80500 9 0 + 10) * baud + bytes * 10000)) 0x80500

/-- The signals of a system. -/
def sysSigs (sys : Nat) : List Nat := (List.range 11).filter fun g => sigSys g == sys

/-- The consistency rules of the GNS block: SYS_REF without an enabled signal (R315), the hold position (R309) and the check-in
window (R346). -/
def gnsBroken (m : RegMap) : List Nat :=
  let en := fun g => m.bt 0x90040 g
  let x := fun k => (signed 32 (m.rd (0x90050 + 4 * k)).toNat)
  let r2 := (x 0) ^ 2 + (x 1) ^ 2 + (x 2) ^ 2
  broken ((List.range 11).any en && !(sysSigs (m.fl 0x90044 31 29)).any en) 0x90044 ++
  broken (m.fl 0x90044 27 26 == 1 && decide (r2 < 600000000 ^ 2 ∨ 650000000 ^ 2 < r2)) 0x90050 ++
  broken (decide (m.fl 0x90090 16 0 < m.fl 0x90090 28 17 + 60)) 0x90090

/-- What a profile refuses of an instance (R456, R483): PTP_INST_CFG, and the intervals. -/
def instBroken (m : RegMap) (n k : Nat) : List Nat :=
  let prof := m.fl (gBase n) 29 27
  let i := iBase n k
  let tr := m.fl i 28 27
  let dom := m.fl i 23 16
  let p1 := m.fl i 15 8
  let lg := fun (j : Nat) => signed 4 (m.fl (i + 4) (31 - 4 * j) (28 - 4 * j))
  let off := fun (j : Nat) => decide (lg j < (logRange prof j).1 ∨ (logRange prof j).2 < lg j)
  if !m.bt i 31 then [] else
  broken (prof == 2 && (tr != 0 || m.bt i 29 || p1 != 128 || decide (dom < 24 ∨ 43 < dom))) i ++
  broken (prof == 3 && (tr == 0 || m.bt i 30 || p1 != 128 || decide (dom < 44 ∨ 63 < dom))) i ++
  broken ((prof == 4 && (tr != 0 || !m.bt i 26 || m.bt i 29)) || (prof == 1 && m.bt i 29)) i ++
  broken (off 0 || off 1 || (!peerDelay prof && off 2)) (i + 4)

/-- R483, and the unused words of an IPv4 grandmaster (R482). -/
def State.ptpBroken (s : State) (m : RegMap) : List Nat :=
  let ports := List.range 4
  let pairs := ports.flatMap fun n => ports.map fun k => (n, k)
  let i0 := fun n => iBase n 0
  let gm := fun (e : Nat × Nat) => gBase e.1 + 0x100 + 0x20 * e.2
  (pairs.flatMap fun e => instBroken m e.1 e.2) ++
  (ports.flatMap fun n => broken (m.bt (gBase n) 30 && ([1, 2, 3].any (fun k => m.bt (iBase n k) 31) || m.bt (i0 n) 30 == m.bt (i0 n) 29))
    (gBase n)) ++
  (pairs.flatMap fun e =>
    let i := iBase e.1 e.2
    let same := fun k => decide (k < e.2) && m.bt (iBase e.1 k) 31 && m.fl (iBase e.1 k) 28 27 == m.fl i 28 27 &&
      m.fl (iBase e.1 k) 23 16 == m.fl i 23 16
    broken (m.bt i 31 && ports.any same) i) ++
  (pairs.flatMap fun e =>
    let i := iBase e.1 e.2
    broken (m.bt i 25 && !m.bt (0x98044 + 8 * m.fl (i + 8) 3 0) 31) (i + 8)) ++
  broken (decide (8000000 < ({ s with act := m }).committedRate))
    (gBase ((ports.find? fun n => m.bt (gBase n) 31 && ports.any fun k => m.bt (iBase n k) 31 && m.bt (iBase n k) 30).getD 0)) ++
  (pairs.flatMap fun e => broken (!m.bt (gm e) 30 && [2, 3, 4].any fun w => m.rd (gm e + 4 * w) != 0) (gm e))

/-- The rings and queues by their register blocks. -/
def ringBlocks : List Nat := (List.range 16).map rxBase ++ (List.range 16).map txBase ++ (List.range 2).map cqBase

/-- R499. -/
def State.hifBroken (s : State) (m : RegMap) : List Nat :=
  (ringBlocks.flatMap fun b => broken (m.bt (b + 8) 31 && (m.rd b).toNat % 64 != 0) b) ++
  (ringBlocks.flatMap fun b =>
    let moved := m.rd b != s.reg b || m.rd (b + 4) != s.reg (b + 4) || m.fl (b + 8) 4 0 != s.fld (b + 8) 4 0
    broken (s.bit (b + 8) 31 && m.bt (b + 8) 31 && moved) (b + 8)) ++
  broken (m.bt 0x110608 31 && (m.rd 0x110600).toNat % 4096 != 0) 0x110600

/-- The registers that the broken consistency rules of a block report, in the order of its chapter. -/
def State.conflicts (s : State) (b : CmtBlk) (load : Bool) (m : RegMap) : List Nat :=
  match b with
  | .mac n => macBroken n load m
  | .tac => tacBroken m
  | .ref => refBroken m
  | .srv => srvBroken m
  | .out => outBroken m
  | .gns => gnsBroken m
  | .ptp => s.ptpBroken m
  | .mgt => broken (m.bt 0x100010 30 && m.rd 0x100014 == 0) 0x100010
  | .hif => s.hifBroken m
  | _ => []

/-- Validation of a set: code 0 when valid, and the offset reported from the block's base (R84, R91). -/
def State.validate (s : State) (b : CmtBlk) (load : Bool) (m : RegMap) : Nat × Nat :=
  match rangeFaults b load m with
  | f :: fs => (0x15, fs.foldl min f - blkBase b)
  | [] => match s.conflicts b load m with
    | c :: _ => (0x16, c - blkBase b)
    | [] => (0, 0xFFFFFF)

/-! Operations (R82 to R86). -/

/-- An operation refused in SAFE with code 0x24 (R86). -/
def State.cmtRefuse (s : State) (b : CmtBlk) (token : Nat) (rej : Bool) : State :=
  let c := s.cmt b
  let s1 := s.setCmt b { c with token := token, code := 0x24, st := 4, reject := c.reject || rej }
  if rej then s1.cause 2 else s1

/-- The operation that the next one supersedes: one still checking or pending (R85). -/
def CmtSt.supersede (c : CmtSt) : CmtSt := if c.st = 1 ∨ c.st = 2 then { c with sup := some c.token } else c

/-- The status word of an operation that another has superseded (R90, R93). -/
def CmtSt.supWord (c : CmtSt) : Option W32 := c.sup.map fun t => BitVec.ofNat 32 (t % 65536 * 65536 + 0x2500 + 5)

/-- COMMIT and CHECK: the staged copy snapshotted; an earlier set still checking or pending is never applied (R82, R83, R85). -/
def State.cmtStart (s : State) (b : CmtBlk) (token : Nat) (check : Bool) : State :=
  if s.noWrites then s
  else if s.md.mode == .safe then s.cmtRefuse b token true
  else
    s.setCmt b { (s.cmt b).supersede with token := token, code := 0, st := 1, snap := s.stg.filter (fun e => inBlk b e.1), isCheck := check }

/-- REVERT: the active copy into the staged copy (R85). -/
def State.cmtRevert (s : State) (b : CmtBlk) (token : Nat) : State :=
  if s.noWrites then s
  else if s.md.mode == .safe then s.cmtRefuse b token false
  else
    let stg := ((s.stg.map (·.1)).filter (inBlk b) ++ (s.act.map (·.1)).filter (inBlk b)).foldl (fun m off => m.wr off (s.act.rd off)) s.stg
    ({ s with stg := stg }).setCmt b { (s.cmt b).supersede with token := token, code := 0, st := 3, snap := [], isCheck := false }

/-! What a set does at its safe point, beside its words. `o` is the state before. -/

/-- XON for what a commit removes while XOFF is in force (R372). -/
def State.xonRemoved (s o : State) (n : Nat) : State :=
  if (s.port n).xoff.isNone then s else
  let s1 := if o.pauseTx n && !s.pauseTx n then s.queueFrame n (s.xFrame n 0 0) else s
  let gone := o.pfcEn n &&& (255 - s.pfcEn n)
  let s2 := if gone ≠ 0 then s1.queueFrame n (s1.xFrame n gone 0) else s1
  if s2.sendsX n then s2 else s2.setPort n fun p => { p with xoff := none }

/-- MAC: the link of a network port held by EN (R355, R390), XON (R372), verification (R374) and steps (R384). MGT is up in every
mode, whatever its EN (R355). -/
def State.applyMac (s o : State) (n : Nat) : State :=
  let b := mBase n
  let s1 := s.xonRemoved o n
  let s2 :=
    if 4 ≤ n then s1
    else if o.bit (b + 4) 31 && !s.bit (b + 4) 31 then s1.holdPort n
    else if !o.bit (b + 4) 31 && s.bit (b + 4) 31 then s1.setPort n fun p => { p with held := !s.portRuns n }
    else s1
  let s3 := if (o.reg (b + 0x18)) &&& 0xC00000FF#32 != (s.reg (b + 0x18)) &&& 0xC00000FF#32 then s2.restartVerify n else s2
  if s.bit (b + 0x24) 31 then s3.setPort n fun p => { p with stepOff := false } else s3

/-- TIN: the measurements of inputs whose MODE, EDGE, STOP_SRC, BURST or GATE change are closed first (R160). -/
def State.closeChanged (s : State) (m : RegMap) : State :=
  (List.range 8).foldl (fun s n =>
    if m.rd (tinCfg n) != s.reg (tinCfg n) || m.rd (tinCfg n + 4) != s.reg (tinCfg n + 4) then s.closeMeas n else s) s

/-- REF: what sends a reference to DISQ with its history cleared, and what starts its monitors (R197, R206). -/
def State.applyRef (s o : State) : State :=
  let gone := (List.range 17).filter fun i =>
    (o.bit (bBase i) 31 && !s.bit (bBase i) 31) || (o.reg (bBase i)) &&& 0x0071FFFF#32 != (s.reg (bBase i)) &&& 0x0071FFFF#32
  let tod := gone.any fun i => decide (i < 8) && (o.refKind i == 0 || s.refKind i == 0)
  let s1 := s.clearRefs gone tod
  (List.range 17).foldl (fun t i =>
    if !o.bit (bBase i) 31 && s.bit (bBase i) 31 then t.setRef i fun r => { r with active := true, monAt := t.now } else t) s1

/-- OUT (R249, R250, R254 to R256): slews begin, and the other settings take effect at this whole second; a CLKOUT first completes
the cycle in progress. -/
def State.applyOut (s o : State) : State :=
  let clk := fun (t : State) (n : Nat) =>
    let c := cBase n
    let goal : Rat := (signed 32 (s.reg (c + 16)).toNat : Rat)
    let new := [0, 4, 8, 12].any fun k => o.reg (c + k) != s.reg (c + k)
    t.setClk n fun x =>
      let x1 := { x with slewing := x.phase != goal }
      if new then s.clkApply n x1 else x1
  let pps := fun (t : State) (m : Nat) =>
    let p := pBase m
    let goal : Rat := (s.pair (p + 12) : Rat)
    let new := [0, 4, 8].any fun k => o.reg (p + k) != s.reg (p + k)
    t.setPps m fun x =>
      if new then { x with eff := goal, slewing := false, inPhase := none, inAt := s.now }
      else if o.pair (p + 12) != s.pair (p + 12) then { x with slewing := x.eff != goal, inPhase := none, inAt := s.now }
      else x
  ((List.range 4).foldl pps ((List.range 10).foldl clk s)).outputsFollow

/-- The channels of signals that a commit disables are released (R307). -/
def State.releaseDisabled (s : State) : State :=
  { s with gns := { s.gns with chans := s.gns.chans.map fun c => if c.sig < 11 && !s.sigEn c.sig then Chan.reset else c } }

/-- GNS: solutions withheld and q anchored anew (R307, R327), channels released, the position mode (R308, R309), and the early wake
(R331). -/
def State.applyGns (s o : State) : State :=
  let scale := (o.reg 0x90044) &&& 0xF2000000#32 != (s.reg 0x90044) &&& 0xF2000000#32 ||
    (List.range 6).any fun k => o.reg (0x90068 + 4 * k) != s.reg (0x90068 + 4 * k)
  let s1 := if scale then { s with gns := { s.gns with withhold := 2, qDue := true, qAnch := false } } else s
  let s2 := s1.releaseDisabled
  let pm := s.fld 0x90044 27 26
  let mode := if pm = 1 then 3 else if pm = 2 then (if s2.gns.firstValid then 1 else 0) else if s2.fe.kept.holdPos.isSome then 3 else 0
  let s3 := if pm ≠ o.fld 0x90044 27 26 then { s2 with gns := { s2.gns with solMode := mode, posMismatch := false, fixAvg := [] } } else s2
  if s3.gns.asleep && o.bit 0x90090 31 && !s3.bit 0x90090 31 then { s3 with gns := { s3.gns with wakeDue := true } } else s3

/-- Whether an instance may no longer serve its grants (R468). -/
def State.grantsEnd (s o : State) (n m : Nat) : Bool :=
  let i := iBase n m
  o.bit i 31 && o.bit (gBase n) 31 && (!s.bit i 31 || !s.bit (gBase n) 31 || !s.bit i 29 || (o.reg i) &&& 0x18FF0000#32 != (s.reg i) &&& 0x18FF0000#32)

/-- PTP: grants of instances disabled or changed are cancelled (R468), the CANCEL leaving under the settings it was served by; a port
that is no longer of profile 4 is no longer asCapable (R463). -/
def State.applyPtp (s : State) (m : RegMap) : State :=
  let new := { s with act := m }
  let s1 := { s.cancelGrants (fun g => new.grantsEnd s g.port g.inst) with act := m }
  (List.range 4).foldl (fun s n =>
    if s.ptpOn n && s.ptpProfile n == 4 then s else s.setPtp n fun p => { p with asCapable := false, pdHist := [] }) s1

/-- PMC: a window begins for each counter that was off (R630). -/
def State.applyPmc (s o : State) : State :=
  (List.range 5).foldl (fun t n => if !(o.bwAt n).on && s.bwWin n != 0 then t.bwStart n else t) s

/-- An entry of a ring or queue left posted when it is disabled: completed with ABORTED (R499). What the posted FLAGS of a transmit
entry hold beside DONE is a free value. -/
def State.abortRx (s : State) (r : Nat) : State := s.rxDone r 24 [0x31, 0x80]

def State.abortTx (s : State) (r : Nat) : State :=
  let b := txBase r
  let q := s.txRing r
  let a := s.ringAddr b + 32 * q.head
  let s1 := ((s.draw.2).dma (a + 24) [0x31]).dma (a + 11) [BitVec.ofNat 8 (s.draw.1 % 128 + 128)]
  let n := (q.head + 1) % s.ringSize b
  (s1.setTx r { q with head := n, next := n }).vecEvent (16 + r)

/-- A function applied a number of times. -/
def times (n : Nat) (f : State → State) (s : State) : State := n.repeat f s

/-- The entries posted on a ring at HEAD and TAIL. -/
def State.posted (s : State) (b : Nat) (q : Ring) : Nat := ringCount (s.ringSize b) q.head q.tail

/-- The rings and queues that a set disables: their posted entries are completed under their old settings. -/
def State.abortPosted (s : State) (m : RegMap) : State :=
  let off := fun b => s.ringEn b && !m.bt (b + 8) 31
  let s1 := (List.range 16).foldl (fun s r => if off (rxBase r) then times (s.posted (rxBase r) (s.rxRing r)) (fun s => s.abortRx r) s else s) s
  let s2 := (List.range 16).foldl (fun s r => if off (txBase r) then times (s.posted (txBase r) (s.txRing r)) (fun s => s.abortTx r) s else s) s1
  (List.range 2).foldl (fun s q => if off (cqBase q) then s.cqAbortAll q else s) s2

/-- A ring's indices within its size (R496). -/
def Ring.within (size : Nat) (r : Ring) : Ring := { r with head := r.head % size, tail := r.tail % size, next := r.next % size }

/-- Whether a ring or queue, named by its register block, holds no entry in process (R87). -/
def State.ringIdle (s : State) (b : Nat) : Bool :=
  (List.range 16).all (fun r => b != txBase r || !s.hif.txq.any (fun x => x.ring == r)) &&
    (b != cqBase 0 || !s.pke.ops.any (!·.bod)) && (b != cqBase 1 || s.wv.mints.isEmpty)

/-- The rings and queues whose part of a set must wait: one changed while it holds an entry in process, or disabled while its entries
cannot be completed (R87, R499). -/
def State.hifWaits (s : State) (m : RegMap) : List Nat :=
  ringBlocks.filter fun b =>
    [0, 4, 8].any (fun k => m.rd (b + k) != s.reg (b + k)) &&
      (!s.ringIdle b || (s.ringEn b && !m.bt (b + 8) 31 && !s.hif.bme))

/-- A set without the parts that must wait. -/
def State.hifNow (s : State) (m : RegMap) : RegMap :=
  (s.hifWaits m).foldl (fun m b => [0, 4, 8].foldl (fun m k => m.wr (b + k) (s.reg (b + k))) m) m

/-- HIF (R499, R511): disabled rings emptied, the indices within the sizes, and where the stream starts. -/
def State.applyHif (s : State) (m : RegMap) : State :=
  let s1 := s.abortPosted m
  let s2 := { s1 with act := m }
  let h := s2.hif
  let ev := if !s.evsEn && s2.evsEn then { h.evs with rd := if s2.bit 0x110608 30 then s2.tin.wr else s2.heldFrom } else h.evs
  let fit := fun (base : Nat → Nat) (l : List Ring) => l.mapIdx fun i r => r.within (s2.ringSize (base i))
  { s2 with hif := { h with rx := fit rxBase h.rx, tx := fit txBase h.tx, cq := fit cqBase h.cq, evs := ev } }

/-- The set put in force: its words, and what the block's chapter lays down with them. -/
def State.putSet (s : State) (b : CmtBlk) (m : RegMap) : State :=
  let s1 := { s with act := m }
  match b with
  | .mac n => s1.applyMac s n
  | .tac => { s.closeChanged m with act := m }
  | .ref => s1.applyRef s
  | .out => s1.applyOut s
  | .gns => s1.applyGns s
  | .ptp => s.applyPtp m
  | .pmc => s1.applyPmc s
  | .hif => s.applyHif m
  | _ => s1

/-- Whether this may be the safe point of a block (R86, R87): the bandwidth counters each take the set at the end of their window, and
one that starts does so at a whole millisecond of Warp (R629, R630). -/
def State.safePoint (s : State) (b : CmtBlk) (m : RegMap) : Bool :=
  match b with
  | .srv => s.md.mode != .maintain
  | .out => decide (s.nsNow = 0)
  | .gns => decide (s.tb.warp % 1000000 = 0)
  | .bst => s.underTest.isEmpty
  | .pmc => (List.range 5).all fun n =>
    m.fl (bwOff n) 13 0 == s.bwWin n || (!(s.bwAt n).on && decide (s.tb.warp % 1000000 = 0))
  | _ => true

/-- A set ended with a code: rejected. -/
def State.cmtReject (s : State) (b : CmtBlk) (code arg : Nat) : State :=
  (s.setCmt b { s.cmt b with st := 4, code := code, arg := arg, reject := true, snap := [] }).cause 2

/-- COMMIT_APPLY: at the safe point the pending copy becomes the active copy (R82); an internal fault or an uncorrectable ECC error
while it is applied leaves the active copy in force (R93), and the operation reads as a rejected one with no field at fault (DESIGN
CHOICE, log 123). Of HIF each ring takes its part when it is idle, and the set is applied with the last of them (R87). -/
def State.cmtApply (s : State) (b : CmtBlk) (intact : Bool) : State :=
  let c := s.cmt b
  if c.st ≠ 2 then s else
  let m := s.merged b c.snap
  if !s.safePoint b m then s
  else if !intact then s.cmtReject b 0x32 0xFFFFFF
  else if b == .hif && !(s.hifWaits m).isEmpty then s.applyHif (s.hifNow m)
  else
    let low := b == .srv && decide (bitsOf (c.snap.rd 0x70008) 13 0 < 100)
    let s1 := s.putSet b m
    let s2 := if low then { s1 with srv := { s1.srv with winClamp := true } } else s1
    (s2.setCmt b { c with st := 3, code := 0, done := true, cnt := (c.cnt + 1) % 65536, snap := [] }).cause 1

/-- Whether a valid set of a block is applied at once after validation (R87). -/
def State.atOnce (s : State) : CmtBlk → Bool
  | .fmu => true
  | .mgt => true
  | .mac n => !(s.port n).link
  | _ => false

/-- COMMIT_VALIDATED: the end of validation (R84). -/
def State.cmtValidated (s : State) (b : CmtBlk) (intact : Bool) : State :=
  let c := s.cmt b
  if c.st ≠ 1 then s else
  let v := s.validate b false (s.merged b c.snap)
  if v.1 ≠ 0 then s.cmtReject b v.1 v.2
  else if c.isCheck then s.setCmt b { c with st := 3, arg := v.2, snap := [] }
  else
    let s1 := s.setCmt b { c with st := 2, arg := v.2 }
    if s1.atOnce b then s1.cmtApply b intact else s1

/-- BW_WINDOW_END: at a Warp instant whose whole milliseconds are a multiple of WIN the window closes (R629); the counter then takes a
pending WIN, and the first window under it is SHORT (R87, R630). -/
def State.bwEnd (s : State) (n : Nat) : State :=
  if !(s.bwAt n).on || s.tb.warp % (s.bwWin n * 1000000) != 0 then s else
  let c := s.cmt .pmc
  let due := if c.st = 2 then (s.merged .pmc c.snap).rd (bwOff n) else s.reg (bwOff n)
  let s1 := { s with act := s.act.wr (bwOff n) due }
  s1.bwClose n false (s1.bwWin n != s.bwWin n)

/-- SELECTOR_EVALUATION, which is REF's safe point: a pending set is in force from it on (R87). -/
def execSelectorEvaluation (s : State) : Host.Outcome State Fault Refusal := .next (s.cmtApply .ref true).selectorEval

/-- SERVO_UPDATE, which is SRV's safe point: a pending set is in force from it on, in MAINTAIN excepted (R86, R87). -/
def execServoUpdate (s : State) : Host.Outcome State Fault Refusal :=
  .next (if s.fmu.halted then s else (s.cmtApply .srv true).servoUpdate)

def execCommit (b : CmtBlk) (token : BitVec 16) (s : State) : Host.Outcome State Fault Refusal := .next (s.cmtStart b token.toNat false)
def execCheck (b : CmtBlk) (token : BitVec 16) (s : State) : Host.Outcome State Fault Refusal := .next (s.cmtStart b token.toNat true)
def execRevert (b : CmtBlk) (token : BitVec 16) (s : State) : Host.Outcome State Fault Refusal := .next (s.cmtRevert b token.toNat)
def execCommitValidated (b : CmtBlk) (intact : Bool) (s : State) : Host.Outcome State Fault Refusal := .next (s.cmtValidated b intact)
def execCommitApply (b : CmtBlk) (intact : Bool) (s : State) : Host.Outcome State Fault Refusal := .next (s.cmtApply b intact)
def execBwWindowEnd (n : Nat) (s : State) : Host.Outcome State Fault Refusal := .next (s.bwEnd n)

end Sys2Proof.Machine
end

