-- ==== Sys2Proof/Machine/Loader.lean ====
section
/-! DEFINITION. The configuration loader (R58 to R80, R673): the flash, the image, its checks, and the release of the boot shadow. -/

namespace Sys2Proof.Machine

open Sys2Proof Sys2Proof.Machine.Crypto

/-! The flash. -/

/-- `n` bytes from an address, given the cells from that address on; an unlisted byte is erased and reads 0xFF. -/
def flashFrom : Nat → Nat → List Host.Cell → List Byte
  | 0, _, _ => []
  | n + 1, a, [] => 0xFF :: flashFrom n (a + 1) []
  | n + 1, a, (k, b) :: m => if k = a then b :: flashFrom n (a + 1) m else 0xFF :: flashFrom n (a + 1) ((k, b) :: m)

/-- `n` bytes of the flash from an address. -/
def State.flashRead (s : State) (a n : Nat) : List Byte := flashFrom n a (s.cfg.flash.dropWhile (fun c => decide (c.1 < a)))

/-- The slot size (R60). -/
def State.slotSize (s : State) : Nat := min (2 ^ 23) (2 ^ s.cfg.densityLog2 / 2)

/-- Where slot 1 (A) or 2 (B) starts. -/
def State.slotBase (s : State) (k : Nat) : Nat := if k = 2 then s.slotSize else 0

/-- CLK_QSPI in MHz at which a listed fast read runs: CLK_MGT by 5 to 10 (R96). -/
def qspiMhz (m : Option Nat) : Nat := min 100 (m.getD 0)

/-- Whether the read taken is the 1-4-4 one: the faster of those listed, and of two at one clock the one with the shorter address
(DESIGN CHOICE, log 106). -/
def State.takes144 (s : State) : Bool := s.cfg.m144.isSome && decide (qspiMhz s.cfg.m114 ≤ qspiMhz s.cfg.m144)

/-- The highest clock in MHz that the flash allows for the read taken (R58). -/
def State.readMhz (s : State) : Nat := (if s.takes144 then s.cfg.m144 else s.cfg.m114).getD 0

/-- Whether the flash meets R59. -/
def State.flashFits (s : State) : Bool :=
  s.cfg.flashOk && decide (21 ≤ s.cfg.densityLog2 ∧ s.cfg.densityLog2 ≤ 26) && decide (50 ≤ s.readMhz)

/-! The header (R61, R63). -/

/-- SEQ, LENGTH and COUNT of a header. -/
def hdrSeq (h : List Byte) : Nat := ofLe (slice h 8 4)
def hdrLen (h : List Byte) : Nat := ofLe (slice h 12 4)
def hdrCount (h : List Byte) : Nat := ofLe (slice h 16 4)

/-- The code of the header check. -/
def imgHeaderCode (size : Nat) (h : List Byte) : Nat :=
  let fixed := h.take 8 == [0x44, 0x43, 0x52, 0x31, 1, 0, 0, 0] && slice h 20 8 == [0x48, 0x04] ++ zeros 6
  if !fixed || crc32 (h.take 28) != ofLe (slice h 28 4) || hdrSeq h == 0 || hdrSeq h == 0xFFFFFFFF then 0x10
  else if size < hdrLen h + 96 then 0x11 else 0

/-- The header of a slot as it stands in the flash. -/
def State.slotHeader (s : State) (k : Nat) : List Byte := s.flashRead (s.slotBase k) 32

/-- SEQ of a slot's header as it now stands in the flash; 0 with no valid header, as of a flash that cannot be read (R59, R97). -/
def State.slotSeq (s : State) (k : Nat) : Nat :=
  let h := s.slotHeader k
  if s.flashFits && imgHeaderCode s.slotSize h == 0 then hdrSeq h else 0

/-! Signatures and the owner (R67, R70 to R73). -/

/-- ECDSA P-384 under a key of 96 bytes and a signature of 96 bytes. -/
def verify384 (key sig hash : List Byte) : Bool :=
  let x := ofBe (key.take 48)
  let y := ofBe (key.drop 48)
  decide (x < p384.p) && decide (y < p384.p) && onCurve p384 x y &&
    ecdsaVerify p384 (some (x, y)) hash (ofBe (sig.take 48)) (ofBe (sig.drop 48))

/-- What the read of an image has gathered: the settings in the boot shadow, the keys, the firmware and the other records, and the
fuse bank to program. -/
structure Img where
  regs : RegMap
  owner : List Byte
  rotate : Option (List Byte)
  fw : List Byte
  leap : List (Nat × Int)
  imports : List (List Byte)
  curves : List (List Byte)
  otarn : List (List Byte)
  label : List Byte
  fuse : Option (List Byte)
  deriving DecidableEq, Repr

def Img.empty : Img :=
  { regs := [], owner := [], rotate := none, fw := [], leap := [], imports := [], curves := [], otarn := [], label := [], fuse := none }

/-- The owner check (R72, R73): a code, or the image with the bank to program. -/
def ownerCheck (fuses : List (List Byte)) (seq : Nat) (g : Img) : Except Nat Img :=
  let h := sha384 g.owner
  match fuses.getLast? with
  | none => .ok { g with fuse := some h }
  | some active =>
    if h = active then .ok g else
    match g.rotate with
    | none => .error 0x21
    | some r =>
      if sha384 (r.take 96) ≠ active ∨ !verify384 (r.take 96) (r.drop 96) (sha384 (g.owner ++ leBytes 4 seq)) then .error 0x21
      else if 8 ≤ fuses.length then .error 0x22
      else .ok { g with fuse := some h }

/-- The firmware package check (R67). -/
def fwCheck (g : Img) : Except Nat Img :=
  if 393216 < g.fw.length ∨ (Config.fwParse g.fw).isNone then .error 0x14 else .ok g

/-! Records (R64 to R69). -/

/-- Registers with an RW field that stand beside the table of `regDef`: TAIL of the rings and queues, HIF_EVS_RD and the mailbox
window. -/
def extraMask (off : Nat) : W32 :=
  if ringBlocks.any (fun b => off == b + 12) then 0xFFFF
  else if off = 0x11060C then 0xFFFFFFFF
  else if 0x101800 ≤ off ∧ off < 0x101E00 ∧ off % 4 = 0 then 0xFFFFFFFF
  else 0

/-- The bits of a register that a record may write (R68). -/
def imageMask (off : Nat) : W32 :=
  match regDef off with
  | some r => r.mask (fun _ => true)
  | none => extraMask off

/-- One entry of a REG_WRITE or REG_FIELD record (R65, R68, R69). A mask may cover bits that no record may write as long as the value's
bits there are 0 (DESIGN CHOICE, log 123). -/
def regEntry (g : Img) (off : Nat) (mask v : W32) : Except Nat Img :=
  let k := imageMask off
  if k = 0 ∨ v &&& mask &&& ~~~k ≠ 0 then .error 0x13
  else .ok { g with regs := g.regs.wr off (((g.regs.rd off &&& ~~~mask) ||| (v &&& mask)) &&& k) }

/-- The entries of a record of register settings, of `w` bytes each. -/
def regEntries (w : Nat) : Nat → List Byte → Img → Except Nat Img
  | 0, _, g => .ok g
  | n + 1, p, g =>
    let at4 := fun (i : Nat) => ofLe (slice p i 4)
    let mask : Nat := if w = 12 then at4 4 else 0xFFFFFFFF
    match regEntry g (at4 0) (BitVec.ofNat 32 mask) (BitVec.ofNat 32 (at4 (w - 4))) with
    | .error c => .error c
    | .ok g1 => regEntries w n (p.drop w) g1

/-- PBITS and the numbers of a CURVE payload (R536): p, a, b, Gx, Gy and n. -/
def curvePbits (p : List Byte) : Nat := ofLe (slice p 2 2)
def curveNum (p : List Byte) (i : Nat) : Nat :=
  let l := ceilDiv (curvePbits p) 8
  ofBe (slice p (8 + i * l) (if i = 5 then l + 1 else l))
def curveSlot (p : List Byte) : Nat := (p.getD 1 0).toNat

/-- Whether a CURVE payload keeps R536. -/
def curveForm (g : Img) (p : List Byte) : Bool :=
  p.take 1 == [1] && decide (curveSlot p < 8) && decide (192 ≤ curvePbits p ∧ curvePbits p ≤ 571) && slice p 5 3 == zeros 3 &&
    p.length == 9 + 6 * ceilDiv (curvePbits p) 8 && !g.curves.any (fun q => curveSlot q == curveSlot p)

/-- The payload of a record taken (R65). -/
def takeRecord (fuses : List (List Byte)) (seq typ : Nat) (p : List Byte) (g : Img) : Except Nat Img :=
  match typ with
  | 0x0002 => .ok { g with owner := p }
  | 0x0003 => ownerCheck fuses seq { g with rotate := some p }
  | 0x0010 => .ok { g with fw := g.fw ++ p }
  | 0x0020 => regEntries 8 (p.length / 8) p g
  | 0x0021 => regEntries 12 (p.length / 12) p g
  | 0x0030 =>
    let l := g.leap ++ (List.range (p.length / 8)).map fun i => (ofLe (slice p (8 * i) 6), signed 16 (ofLe (slice p (8 * i + 6) 2)))
    if leapOk l then .ok { g with leap := l } else .error 0x12
  | 0x0040 => .ok { g with imports := g.imports ++ [p] }
  | 0x0041 => if curveForm g p then .ok { g with curves := g.curves ++ [p] } else .error 0x12
  | 0x0050 =>
    let l := g.otarn ++ (List.range (p.length / 32)).map fun i => slice p (32 * i) 32
    if 8 < l.length then .error 0x12 else .ok { g with otarn := l }
  | 0x0060 => .ok { g with label := p }
  | _ => .ok g

/-- Whether a record may have a payload of some length (R65, R66). -/
def lenOk (typ len : Nat) : Bool :=
  let within := fun (a b m : Nat) => decide (a ≤ len ∧ len ≤ b) && len % m == 0
  match typ with
  | 0x0000 => true
  | 0x0001 => len == 0
  | 0x0002 => len == 96
  | 0x0003 => len == 192
  | 0x0010 => within 4 65532 4
  | 0x0020 => within 8 65528 8
  | 0x0021 => within 12 65532 12
  | 0x0030 => within 8 2048 8
  | 0x0040 => within 1 4096 1
  | 0x0041 => within 1 4096 1
  | 0x0050 => within 32 256 32
  | 0x0060 => within 1 64 1
  | t => decide (0x8000 ≤ t) && decide (0 < len)

/-- Whether a record of a type may stand here: OWNER_KEY first and once, KEY_ROTATE second, the FW_CHUNKs together (R66). -/
def placeOk (ix prev typ : Nat) (g : Img) : Bool :=
  (ix == 0) == (typ == 2) && (typ != 3 || ix == 1) && (typ != 0x10 || g.fw.isEmpty || prev == 0x10)

/-- Whether a FW_CHUNK record still stands from an offset on, by the records' lengths (R673: the last one ends the package). -/
def chunkLater (len : Nat) : Nat → Nat → List Byte → Bool
  | 0, _, _ => false
  | k + 1, off, bs =>
    let typ := ofLe (bs.take 2)
    let full := 4 + 4 * ceilDiv (ofLe (slice bs 2 2)) 4
    decide (off + 4 ≤ len) && (typ == 0x10 || (typ != 1 && chunkLater len k (off + full) (bs.drop full)))

/-- The records from an offset on: the first failure in byte order (R673). A check on a group of records falls due at the first
record that is not of the group; that of the package waits while a further FW_CHUNK stands, whose place is then what fails. -/
def records (fuses : List (List Byte)) (seq count len : Nat) : Nat → Nat → Nat → Nat → List Byte → Img → Except Nat Img
  | 0, _, _, _, _, _ => .error 0x12
  | k + 1, ix, off, prev, bs, g =>
    let typ : Option Nat := if off + 4 ≤ len then some (ofLe (bs.take 2)) else none
    let due : Except Nat Img :=
      if prev = 2 ∧ typ ≠ some 3 then ownerCheck fuses seq g else if prev = 0x10 ∧ typ ≠ some 0x10 ∧ !chunkLater len k off bs then fwCheck g else .ok g
    match due, typ with
    | .error c, _ => .error c
    | .ok _, none => .error 0x12
    | .ok g1, some t =>
      let n := ofLe (slice bs 2 2)
      let full := 4 + 4 * ceilDiv n 4
      if count ≤ ix ∨ !placeOk ix prev t g1 ∨ !lenOk t n ∨ len < off + full then .error 0x12
      else if t = 1 then (if off + 4 = len ∧ ix + 1 = count ∧ !g1.fw.isEmpty then .ok g1 else .error 0x12)
      else match takeRecord fuses seq t (slice bs 4 n) g1 with
        | .error c => .error c
        | .ok g2 =>
          if (slice bs (4 + n) (full - 4 - n)).any (· != 0) then .error 0x12
          else records fuses seq count len k (ix + 1) (off + full) t (bs.drop full) g2

/-- Step 2 of R76 on a slot's bytes from 0 to LENGTH + 95. -/
def parseImage (fuses : List (List Byte)) (bs : List Byte) : Except Nat Img :=
  records fuses (hdrSeq bs) (hdrCount bs) (hdrLen bs) (bs.length / 4 + 1) 0 32 1 (bs.drop 32) Img.empty

/-- The version and the code of the firmware signature (R67). -/
def fwSigned (fw : List Byte) : Option W32 :=
  match Config.fwParse fw with
  | some (ver, sig, bytes) =>
    if verify384 (beBytes 96 Config.fwKey.toNat) (beBytes 96 sig.toNat) (sha384 bytes) then some ver else none
  | none => none

/-- Step 3 of R76: the code of the signatures. -/
def signaturesCode (bs : List Byte) (g : Img) : Nat :=
  if (fwSigned g.fw).isNone then 0x23
  else if verify384 g.owner (slice bs (hdrLen bs) 96) (sha384 (bs.take (hdrLen bs))) then 0 else 0x20

/-! Step 4: curves and the key store (R536 to R546). -/

/-- 40 rounds of Miller–Rabin with random bases. -/
def State.primeLike (s : State) (n : Nat) : Bool × State :=
  let base := fun (i : Nat) => 2 + Config.free (s.fresh + i) % (n - 3)
  (decide (3 < n) && (List.range 40).all (fun i => mrRound n (base i)), { s with fresh := s.fresh + 40 })

/-- A curve checked (R537): the number of the first failed check, 0 when all pass. -/
def curveReason (pbits h : Nat) (c : EcCurve) (pPrime nPrime : Bool) : Nat :=
  if c.p = 0 ∨ c.p.log2 + 1 ≠ pbits ∨ !pPrime then 1
  else if c.p ≤ c.a ∨ c.p ≤ c.b ∨ c.p ≤ c.gx ∨ c.p ≤ c.gy then 2
  else if (4 * c.a ^ 3 + 27 * c.b ^ 2) % c.p = 0 then 3
  else if !onCurve c c.gx c.gy then 4
  else if !nPrime then 5
  else if (ecMul c c.n (some (c.gx, c.gy))).isSome then 6
  else if h < 1 ∨ 8 < h then 7
  else if c.p = c.n then 8
  else if (List.range 100).any (fun k => powMod c.p (k + 1) c.n == 1) then 9
  else 0

/-- A CURVE record loaded or rejected. -/
def State.loadCurve (s : State) (q : List Byte) : State :=
  let c : EcCurve := { p := curveNum q 0, a := curveNum q 1, b := curveNum q 2, gx := curveNum q 3, gy := curveNum q 4, n := curveNum q 5 }
  let h := (q.getD 4 0).toNat
  let (pOk, s1) := s.primeLike c.p
  let (nOk, s2) := s1.primeLike c.n
  let r := curveReason (curvePbits q) h c pOk nOk
  let v : Curve := { loaded := r == 0, reason := r, h := h, pbits := curvePbits q, p := c.p, a := c.a, b := c.b, gx := c.gx, gy := c.gy, n := c.n }
  { s2 with pke := { s2.pke with curves := Assoc.put (curveSlot q) v s2.pke.curves } }

/-- A key generated into a slot in BOOT (R539, R542), and counted (R553). -/
def State.bootKey (s : State) (k typ curve policy : Nat) : State :=
  let (v, s1) := s.genKey typ curve policy
  (s1.fillSlot k v).count 0xC0100

/-- The key store unsealed, or on a blank device begun (R542); slots 5 to 63 are emptied (R539). -/
def State.unseal (s : State) (pufOk : Bool) : Option State :=
  let s1 := { s with pke := { s.pke with pufOk := pufOk } }
  if !pufOk ∨ (!s.fe.blank ∧ !s.fe.sealOk) then none
  else
    let s2 := if s.fe.blank then (s1.bootKey 0 3 4 1).bootKey 4 2 3 2 else s1
    some { s2 with pke := { s2.pke with unsealed := true },
                   fe := { s2.fe with slots := s2.fe.slots.filter (fun e => decide (e.1 < 5 ∨ 64 ≤ e.1)) } }

/-- Fields of a KEY_IMPORT payload (R543). -/
def impSlot (p : List Byte) : Nat := (p.getD 1 0).toNat
def impType (p : List Byte) : Nat := (p.getD 2 0).toNat
def impCurve (p : List Byte) : Nat := (p.getD 3 0).toNat
def impPolicy (p : List Byte) : Nat := ofLe (slice p 4 2)

/-- Whether a payload keeps R543, and its policy R540 and R544. -/
def State.impForm (s : State) (p : List Byte) : Bool :=
  p.take 1 == [1] && decide (5 ≤ impSlot p ∧ impSlot p ≤ 63) && decide (1 ≤ impType p ∧ impType p ≤ 6) &&
    curveSuits (impType p) (impCurve p) && decide (72 ≤ p.length) && ofLe (slice p 6 2) == p.length - 72 &&
    impPolicy p &&& (0xFFFF ^^^ policyMask (impType p)) == 0 && (impType p != 1 || (s.ecCurve (impCurve p)).isSome)

/-- The key plaintext of a blob, where it opens (R543). -/
def State.openBlob (s : State) (p : List Byte) : Option (List Byte) :=
  match Assoc.get 4 s.fe.slots with
  | none => none
  | some k =>
    let eph := slice p 8 32
    let z := x25519 (clamp25519 (ofLe k.secret)) (ofLe eph % 2 ^ 255)
    if z = 0 then none
    else sivOpen (sha256 (leBytes 32 z ++ eph ++ k.pub)) [p.take 8, slice p 40 16] (p.drop 56)

/-- Whether an RSA key passes the tests of R544. -/
def rsaKeyOk (k : List Byte) : Bool :=
  let p := rsaPart k 0
  let q := rsaPart k 1
  let e := rsaE k
  p % 2 == 1 && q % 2 == 1 && decide (1 < p) && decide (1 < q) && p.log2 == q.log2 && e % 2 == 1 && decide (3 ≤ e) &&
    e * rsaPart k 2 % (p - 1) == 1 && e * rsaPart k 3 % (q - 1) == 1 && q * rsaPart k 4 % p == 1

/-- Whether a key plaintext is one of its type (R543, R544). -/
def State.keyOk (s : State) (typ curve : Nat) (k : List Byte) : Bool :=
  match typ with
  | 1 => match s.ecCurve curve with
    | some c => k.length == modLen c.n && decide (1 ≤ ofBe k ∧ ofBe k < c.n)
    | none => false
  | 2 => k.length == 32
  | 3 => k.length == 32
  | 4 => k.length == 57
  | 5 => (k.length - 4) % 5 == 0 && decide (64 ≤ rsaHalf k ∧ rsaHalf k ≤ 256) && rsaKeyOk k
  | _ => decide (16 ≤ k.length ∧ k.length ≤ 64)

/-- The blobs opened in image order: none when one fails (R544). -/
def State.importAll (s : State) : List (List Byte) → Option State
  | [] => some s
  | p :: ps =>
    if !s.impForm p ∨ (Assoc.get (impSlot p) s.fe.slots).isSome then none else
    match s.openBlob p with
    | none => none
    | some k =>
      if !s.keyOk (impType p) (impCurve p) k then none else
      let v : KeySlot := { typ := impType p, curve := impCurve p, policy := impPolicy p + 32, secret := k,
                           pub := s.publicOf (impType p) (impCurve p) k, keyId := 0 }
      (s.fillSlot (impSlot p) v).importAll ps

/-! Steps 5 and 6. -/

/-- The active copy that the boot shadow gives: every field that the image sets, clamped where its table says so. -/
def activeOf (regs : RegMap) : RegMap :=
  regs.foldl (fun m e => match regDef e.1 with
    | some r => m.wr e.1 (applied e.1 (r.clamped e.2))
    | none => m) []

/-- Step 5: the code of the first block whose set is invalid. -/
def State.checkAll (s : State) (act : RegMap) : Nat :=
  ((allBlks.map fun b => (s.validate b true act).1).find? (· != 0)).getD 0

/-- TAIL, HIF_EVS_RD and the mailbox window as the image leaves them. -/
def State.putExtras (s : State) (regs : RegMap) : State :=
  let tail := fun (base : Nat → Nat) (l : List Ring) =>
    l.mapIdx fun i r => { r with tail := (regs.rd (base i + 12)).toNat % 2 ^ s.fld (base i + 8) 4 0 }
  let box := fun (m : List Byte) (e : Nat × W32) =>
    if 0x101800 ≤ e.1 ∧ e.1 < 0x101E00 then
      (leBytes 4 e.2.toNat).zipIdx.foldl (fun m b => putAt m (e.1 - 0x101800 + b.2) b.1) m
    else m
  { s with hif := { s.hif with rx := tail rxBase s.hif.rx, tx := tail txBase s.hif.tx, cq := tail cqBase s.hif.cq,
                               evsHostRd := (regs.rd 0x11060C).toNat },
           mgt := { s.mgt with mbox := regs.foldl box s.mgt.mbox } }

/-- The copy of the holdover model reloaded as a prior (R231). -/
def State.reloadModel (s : State) : State :=
  let good := fun (c : ModelCopy) => c.crcGood
  let pick : Option ModelCopy := match (s.fe.copyA.map ModelCopy.ofBytes).filter good, (s.fe.copyB.map ModelCopy.ofBytes).filter good with
    | some a, some b => if a.updSec < b.updSec then some b else some a
    | some a, none => some a
    | none, b => b
  match pick with
  | some c =>
    if c.learnt && c.oscKhz == s.fld 0x70024 16 0 && c.aux == s.auxFitted then
      { s with srv := { s.srv with model := { c.m with f0 := 0, learnS := 0 }, prior := true } }
    else s
  | none => s

/-- CFG_STATUS (R94). -/
def State.cfgStatus (s : State) : W32 :=
  let c := s.cfg
  BitVec.ofNat 32 (c.codeB * 2 ^ 16 + c.codeA * 2 ^ 8 + b01 c.fallback * 8 + b01 c.fused * 4 + c.slot)

/-- The START record (R600). -/
def State.logStart (s : State) : State :=
  s.log 0x0001 (leBytes 4 s.cfgStatus.toNat ++ leBytes 4 s.mgt.fwVer.toNat ++ [BitVec.ofNat 8 s.md.cause])

/-- Step 6: the boot shadow released to every block, the firmware started, the fuse bank programmed (R74, R76). -/
def State.release (s : State) (k : Nat) (fallback : Bool) (g : Img) (act : RegMap) : State :=
  let clk := fun (n : Nat) (c : ClkOut) => { c with phase := (signed 32 (act.rd (cBase n + 16)).toNat : Rat) }
  let pps := fun (m : Nat) (p : PpsOut) =>
    { p with eff := (signed 64 ((act.rd (pBase m + 12)).toNat + (act.rd (pBase m + 16)).toNat * 2 ^ 32) : Rat) }
  let s1 : State := { s with
    act := act, stg := g.regs.filter (fun e => (regDef e.1).isSome),
    out := { s.out with clks := s.out.clks.mapIdx clk, pps := s.out.pps.mapIdx pps },
    tb := { s.tb with leap := g.leap, leapImage := !g.leap.isEmpty },
    mgt := { s.mgt with fwSlot := k, fwVer := (fwSigned g.fw).getD 0, otarnKeys := g.otarn, recovery := false },
    srv := { s.srv with winClamp := decide (bitsOf (g.regs.rd 0x70008) 13 0 < 100) },
    cfg := { s.cfg with slot := k, fallback := fallback, label := g.label, fused := g.fuse.isSome,
                        fuses := s.cfg.fuses ++ g.fuse.toList },
    wv := { s.wv with hashKey := s.draw.1 }, fresh := s.fresh + 1 }
  let s2 := (s1.putExtras g.regs).reloadModel.refreshLeap
  let s3 := s2.setPort 4 fun p => { p with held := false }
  (List.range 5).foldl (fun s n => if s.bwWin n = 0 then s else s.bwStart n) s3

/-! SLOT_LOAD. -/

/-- One attempt on a slot (R76): the state, the code, and whether a failure is one of firmware or unsealing (R78). A failure leaves
nothing of the slot behind (R77); the key store that step 4 unsealed stays unsealed (DESIGN CHOICE, log 123). -/
def State.trySlot (s : State) (k : Nat) (fallback pufOk fault : Bool) : State × Nat × Bool :=
  let h := s.slotHeader k
  if s.cfg.qspiTrip then ({ s with cfg := { s.cfg with qspiTrip := false } }, 0x32, false)
  else if imgHeaderCode s.slotSize h ≠ 0 then (s, imgHeaderCode s.slotSize h, false) else
  let bs := s.flashRead (s.slotBase k) (hdrLen h + 96)
  match parseImage s.cfg.fuses bs with
  | .error c => (s, c, c == 0x14)
  | .ok g =>
    let c := signaturesCode bs g
    if c ≠ 0 then (s, c, c == 0x23) else
    match s.unseal pufOk with
    | none => ({ s with pke := { s.pke with pufOk := pufOk } }, 0x32, true)
    | some s1 =>
      match (g.curves.foldl State.loadCurve s1).importAll g.imports with
      | none => (s1, 0x12, true)
      | some s2 =>
        let act := activeOf g.regs
        let v := s2.checkAll act
        if v ≠ 0 then (s1, v, false) else if fault then (s1, 0x32, false) else (s2.release k fallback g act, 0, false)

/-- The code of an attempt recorded for its slot. -/
def State.putCode (s : State) (k code : Nat) : State :=
  { s with cfg := if k = 1 then { s.cfg with codeA := code } else { s.cfg with codeB := code } }

/-- Both slots have failed, or the flash (R78). -/
def State.loadFailed (s : State) (cause : Nat) : State :=
  let s1 := { s with mgt := { s.mgt with recovery := true, fwSlot := 0, fwVer := Config.bootVersion } }
  s1.logStart.safeReaction 0 cause false

/-- What the parameter table gives, with the 4-byte address above 16 MiB, and both headers (R58 to R61, R96). -/
def State.readHeaders (s : State) : State :=
  let put := fun (k old : Nat) => let c := imgHeaderCode s.slotSize (s.slotHeader k); if c = 0 then old else c
  { s with cfg := { s.cfg with density := s.cfg.densityLog2, modeBit := s.takes144, addr4 := decide (24 < s.cfg.densityLog2),
                               div := max 5 (ceilDiv 500 s.readMhz), codeA := put 1 s.cfg.codeA, codeB := put 2 s.cfg.codeB } }

/-- The loader run on the slots in their order (R61, R76, R77); `fault` says of each slot whether its load meets a fault or an
uncorrectable ECC error (R93). -/
def State.loadSlots (s : State) (pufOk : Bool) (fault : Nat → Bool) : State :=
  let a := if s.slotSeq 2 ≤ s.slotSeq 1 then 1 else 2
  let r1 := s.trySlot a false pufOk (fault a)
  let s1 := r1.1.putCode a r1.2.1
  if r1.2.1 = 0 then s1.logStart else
  let r2 := s1.trySlot (3 - a) true pufOk (fault (3 - a))
  let s2 := r2.1.putCode (3 - a) r2.2.1
  if r2.2.1 = 0 then s2.logStart else s2.loadFailed (if r2.2.2 then 0x32 else 0x31)

/-- SLOT_LOAD: Bodkin starts once its island and the fault manager's have passed (R44); BOOT then ends with the self-test (R35).
CFG_FLASH of a flash that fails R59 stays unread, also where its parameter table could be read (DESIGN CHOICE, log 123). -/
def State.bootLoad (s : State) (pufOk faultA faultB : Bool) : State :=
  let up := (s.isl 0).st == .inService && (s.isl 1).st == .inService
  if s.inReset || s.md.mode != .boot || !s.glb.pllLocked || s.cfg.slot != 0 || !up then s
  else if !s.flashFits then (({ s with cfg := { s.cfg with codeA := 0x30, codeB := 0x30 } }).loadFailed 0x31)
  else
    let s1 := s.readHeaders.loadSlots pufOk (fun k => if k = 1 then faultA else faultB)
    if s1.md.mode == .boot then ({ s1 with glb := { s1.glb with bootStep := 6, loaderSlot := s1.cfg.slot } }).startupStep else s1

def execSlotLoad (pufOk faultA faultB : Bool) (s : State) : Host.Outcome State Fault Refusal := .next (s.bootLoad pufOk faultA faultB)

end Sys2Proof.Machine
end

