-- ==== Sys2Proof/Machine/Regs.lean ====
section
/-! DEFINITION. Every register as it is read and as it is written (R5 to R9, R637 to R648): the words of the read-only and W1C
registers, block by block, the reads that latch or clear, and the dispatch of a write to the operation its register stands for. -/

namespace Sys2Proof.Machine

open Sys2Proof

/-! Packing. -/

/-- A word packed from values and the places of their lowest bits. -/
def pk (l : List (Nat × Nat)) : W32 := BitVec.ofNat 32 (l.map fun x => x.1 * 2 ^ x.2).sum

/-- The lower or upper word of a signed 64-bit quantity (R5). -/
def half (v : Int) (hi : Bool) : W32 := BitVec.ofNat 32 (if hi then unsigned 64 v / 2 ^ 32 else unsigned 64 v)

/-- A quantity as a register's integer: itself where it is whole. -/
def whole (x : Rat) : Int := if x.den = 1 then x.num else Config.round x

/-- A signed 32-bit word, at the end of its range where the quantity lies beyond (R216). -/
def word32 (x : Rat) : W32 := BitVec.ofNat 32 (unsigned 32 (satS 32 (whole x)))

/-- An unsigned word of some bits, at the end of its range where the quantity lies beyond. -/
def wordU (n : Nat) (x : Rat) : W32 := BitVec.ofNat 32 (min (2 ^ n - 1) (whole x).toNat)

/-- Bits 31:24, 23:16, 15:8 and 7:0 from four bytes of a list, the first lowest. -/
def wordAt (bs : List Byte) (i : Nat) : W32 := BitVec.ofNat 32 (ofLe (slice bs i 4))

/-- The word as four bytes in network order. -/
def wordBe (bs : List Byte) (i : Nat) : W32 := BitVec.ofNat 32 (ofBe (padTo 4 (slice bs i 4)))

/-! Configuration registers and commit registers. -/

/-- A configuration register: RW and image-set bits as they act, RWS bits as staged (R6). -/
def State.cfgWord (s : State) (off : Nat) : W32 :=
  match regDef off with
  | some r => (s.reg off &&& r.mask (· != .rws)) ||| (s.stg.rd off &&& r.mask (· == .rws))
  | none => 0

/-- The block whose commit registers stand at an offset. -/
def cmtAt (off : Nat) : Option CmtBlk := allBlks.find? fun b => decide (cmtOff b ≤ off ∧ off < cmtOff b + 16)

/-- <P>_CMT to <P>_CMT_CNT (R89 to R92). -/
def CmtSt.words (c : CmtSt) : List W32 :=
  [0, pk [(c.token, 16), (c.code, 8), (b01 c.reject, 4), (b01 c.done, 3), (c.st, 0)], pk [(c.arg, 0)], pk [(c.cnt, 0)]]

/-! GLB (R639 to R647). -/

def State.readGlb (s : State) (off : Nat) : W32 :=
  let g := s.glb
  if off = 0x00 then 0x0448ED01
  else if off = 0x08 then BitVec.ofNat 32 Config.uid.toNat
  else if off = 0x0C then BitVec.ofNat 32 (Config.uid.toNat / 2 ^ 32)
  else if off = 0x10 then 0x034A8884
  else if off = 0x20 then pk [(b01 g.bistDone, 12), (g.loaderSlot, 10), (b01 g.strap, 8), (g.bootStep, 4), (s.md.mode.code, 0)]
  else if off = 0x24 then pk [(g.starts, 8), (g.rstCause, 0)]
  else if off = 0x34 then pk [(b01 g.errUnassigned, 2), (b01 g.errPartial, 1), (b01 g.errBadReset, 0)]
  else if off = 0x40 then g.scratch
  else 0

/-! Ports and Stakes (R395, R396, R398, R424, R425). -/

/-- A received stop in force on a port or on one of its priorities. -/
def State.rxPaused (s : State) (n : Nat) : Bool := (s.port n).pause.live s.now || (s.port n).stops.any (fun x => x.live s.now)

def State.readMac (s : State) (off : Nat) : W32 :=
  if off = 0x26800 then pk [(s.wv.clsErrRule, 8), (b01 s.wv.clsErr, 0)] else
  let n := (off - 0x10000) / 0x4000
  if 5 ≤ n then 0 else
  let p := s.port n
  let kib := fun (cells : Nat) => ceilDiv (cells * 64) 1024
  match off - mBase n with
  | 0x40 => pk [(b01 p.link, 31), (if p.link then p.speed else 3, 29), (b01 (p.link && p.fec), 28), (p.pre, 26), (b01 (s.rxPaused n), 25), (b01 p.xoff.isSome, 24),
                (b01 p.stepped, 23), (b01 p.stepFail, 22), (b01 p.pauseStorm, 21), (b01 p.xoffStorm, 20)]
  | 0x44 => pk [(b01 (match p.rxQlAt with | some t => decide (s.now < t + 5 * nsPerSec) | none => false), 31), (b01 p.enh, 30),
                (p.rxQl, 12), (p.txQl, 8)]
  | 0x48 => pk [(kib (p.pool + p.txCells), 16), (kib p.reserve, 0)]
  | _ => 0

def State.readStk (s : State) (off : Nat) : W32 :=
  let n := (off - 0x30000) / 0x100
  if 4 ≤ n then 0 else
  let k := (s.port n).stk
  match off - sBase n with
  | 0x20 => pk [(b01 k.calOk, 31), (b01 k.calAlt, 30), (b01 k.locked, 29), (b01 k.txphErr, 28)]
  | 0x24 => pk [(k.rxDly, 0)]
  | 0x28 => pk [(k.txDly, 0)]
  | 0x2C => pk [(k.rxCal, 0)]
  | 0x30 => pk [(k.txCal, 0)]
  | _ => 0

/-! The Weave and SYM (R382, R453, R454). -/

/-- The current master key, as an unsealed store holds it. -/
def State.masterNow (s : State) : Option KeySlot := if s.pke.unsealed then Assoc.get 1 s.fe.slots else none

/-- The KEYID of a master key's slot, 0 for an empty one. -/
def State.keyIdOf (s : State) (k : Nat) : Nat := if s.pke.unsealed then ((Assoc.get k s.fe.slots).map (·.keyId)).getD 0 else 0

/-- SYM_ROT_LEFT: seconds of service until the next rotation, a part of one counting as one; 0 while no master key is held. -/
def State.rotLeft (s : State) : Nat :=
  if s.masterNow.isNone then 0 else ceilDiv (((s.fld 0xB0000 9 0 * 3600 * nsPerSec : Nat) : Int) - s.rotNs).toNat nsPerSec

def State.readWv (s : State) (off : Nat) : W32 :=
  let fit := ((List.range 8).filter fun k => (s.isl (14 + k)).st != .retired && (s.isl (14 + k)).st != .underTest).length
  if off = 0x40040 then pk [(b01 s.masterNow.isSome, 31), (s.wv.ctxs.length, 0)]
  else if 0x40100 ≤ off ∧ off < 0x40114 then pk [((s.wv.queues.getD ((off - 0x40100) / 4) []).length, 0)]
  else if off = 0x40114 then pk [(s.wv.hostQ.length, 0)]
  else if off = 0x40804 then pk [(s.wv.step, 16), (s.lanesUp.length, 8), (fit, 0)]
  else if off = 0xB0010 then pk [(s.keyIdOf 1, 0)]
  else if off = 0xB0014 then pk [(s.keyIdOf 2, 0)]
  else if off = 0xB0018 then pk [(s.keyIdOf 3, 0)]
  else if off = 0xB001C then pk [(s.rotLeft, 0)]
  else if off = 0xB0024 then pk [(s.wv.symToken, 16), (s.wv.symCode, 8)]
  else 0

/-! TAC and TIN (R151, R152, R181 to R185). -/

/-- The status word of a reader of the capture buffer but for its lowest bit: CODE, OVF, MARK_SET and the lost mark. -/
def State.readerStat (s : State) (r : Reader) (ovf : Bool) : List (Nat × Nat) :=
  [(r.code, 8), (b01 ovf, 3), (b01 (s.markValid r), 2), (b01 r.markLost, 1)]

def State.readTin (s : State) (off : Nat) : W32 :=
  let rec4 := fun (i : Nat) => BitVec.ofNat 32 (s.tin.recLatch.toNat / 2 ^ (32 * i))
  if off = 0x50004 then
    pk [(s.tac.failed, 24), (s.tac.spare.getD 3 63, 18), (s.tac.spare.getD 2 63, 12), (s.tac.spare.getD 1 63, 6), (s.tac.spare.getD 0 63, 0)]
  else if 0x50110 ≤ off ∧ off < 0x50200 ∧ (off - 0x50110) % 0x20 = 0 then
    let i := s.tinAt ((off - 0x50110) / 0x20)
    pk [(b01 i.missed, 3), (b01 i.opened.isSome, 2), (b01 i.armed, 1), (b01 i.rearm, 0)]
  else if off = 0x50200 then pk [(s.tin.wr, 0)]
  else if off = 0x50204 then pk [(s.tin.rdr.rd, 0)]
  else if off = 0x50208 then pk [(s.tin.rdr.mark.getD 0, 0)]
  else if off = 0x50210 then pk ((b01 (s.unread s.tin.rdr == 0), 0) :: s.readerStat s.tin.rdr s.tin.ovf)
  else if 0x50220 ≤ off ∧ off < 0x50230 then rec4 ((off - 0x50220) / 4)
  else if 0x51000 ≤ off ∧ off < 0x52000 then
    (s.tac.tables.getD (s.fld 0x50008 5 0) []).getD (1024 * s.fld 0x50008 9 8 + (off - 0x51000) / 4) 0
  else 0

/-! References and the selector (R209 to R216). -/

/-- STATE of REF_STATn (R215). -/
def RState.code : RState → Nat
  | .disq => 0
  | .wtr => 1
  | .qual => 2
  | .sel => 3
  | .drift => 4

def State.readRef (s : State) (off : Nat) : W32 :=
  if off = 0x60008 then
    pk [(s.ref.reason, 24), (s.ref.prevId.getD 31, 16), (b01 s.ref.forceMiss, 13), (b01 s.ref.ensWeak, 12), (s.selId, 0)]
  else if off = 0x60010 then pk [(s.ref.ctlToken, 16), (s.ref.ctlCode, 8)]
  else
    let n := (off - 0x60100) / 0x40
    if off < 0x60100 ∨ 17 ≤ n then 0 else
    let r := s.refAt n
    match off - bBase n with
    | 0x20 => pk [(r.st.code, 29), (s.qlEff n, 25), (s.scoreOf n, 15), (b01 r.twait, 8), (b01 r.never, 7), (b01 r.integ, 6), (b01 r.qlf, 5),
                  (b01 r.proj, 4), (b01 r.te, 3), (b01 r.pjump, 2), (b01 r.freq, 1), (b01 r.los, 0)]
    | 0x24 => pk [(r.wtrLeft % 4096, 0)]
    | 0x28 => word32 (r.y * 10 ^ 12)
    | 0x2C => word32 (if s.refKind n = 2 then 0 else r.xEst / snsPerNs)
    | 0x30 => word32 (r.dRate * 3600 * 10 ^ 15)
    | 0x34 => match r.ttl with
      | some t => wordU 32 t
      | none => 0xFFFFFFFF
    | _ => 0

/-! Servo (R242 to R244). -/

/-- STATE of SRV_STAT (R242). -/
def SrvState.code : SrvState → Nat
  | .idle => 0
  | .tracking => 1
  | .window => 2
  | .holdover => 3
  | .frozen => 4
  | .stopped => 5

/-- STAGE: halvings still to come until the stage is at BW (R222, R242). -/
def State.stagesLeft (s : State) : Nat :=
  ((List.range 16).find? fun k => decide (s.srv.stageBw / 2 ^ k ≤ s.bwHz)).getD 15

def State.readSrv (s : State) (off : Nat) : W32 :=
  let v := s.srv
  let w64 := fun (base : Nat) (x : Int) => half x (off != base)
  if off = 0x70040 then
    pk [(v.st.code, 29), (v.target.getD 31, 24), (min 3 s.recentRe.length, 22), (s.stagesLeft, 18), (b01 v.learnt, 3), (b01 v.bridge, 2),
        (b01 v.retLimit, 1), (b01 v.winClamp, 0)]
  else if off = 0x70044 ∨ off = 0x70048 then w64 0x70044 (whole (-v.zf))
  else if off = 0x7004C ∨ off = 0x70050 then w64 0x7004C (whole v.bo)
  else if off = 0x70054 ∨ off = 0x70058 then w64 0x70054 (if s.md.mode == .locked then 0 else whole v.pred)
  else if off = 0x7005C ∨ off = 0x70060 then w64 0x7005C (whole ((v.yCmd + s.slewFf) * 10 ^ 18))
  else if off = 0x70070 ∨ off = 0x70074 then w64 0x70070 v.model.f0
  else if off = 0x70078 ∨ off = 0x7007C then w64 0x70078 v.model.d
  else if off = 0x70080 then BitVec.ofNat 32 (unsigned 32 v.model.k)
  else if off = 0x70084 then pk [(min 0xFFFFFFFF v.model.learnS, 0)]
  else if off = 0x70094 then pk [(v.ctlToken, 16), (v.ctlCode, 8)]
  else 0

/-! Time base and modes (R40, R41, R101, R113, R131, R132, R138, R139). -/

/-- TB_MODE (R40). -/
def State.tbMode (s : State) : W32 :=
  pk [(s.md.cause, 16), ((s.md.origin.map Mode.code).getD 0, 8), (s.md.prev.code, 4), (s.md.mode.code, 0)]

/-- TB_STATUS (R41). -/
def State.tbStatus (s : State) : W32 :=
  pk [(min 3 s.recentRestarts.length, 24), (b01 s.md.reqRefused, 17), (b01 s.md.modeChg, 16), (b01 s.md.drain, 9), (b01 s.tb.slew.isSome, 8),
      (b01 s.md.timeSet, 7), (b01 s.inBudget, 6), (b01 s.vBit, 5), (b01 s.ballPps, 4), (b01 s.fault, 3), (b01 s.alarm, 2),
      (b01 s.ballHold, 1), (b01 s.ballLock, 0)]

/-- The four registers of a latched time word (R1, R101); SNS in bits 17:2 with V and L below it. -/
def timeWords (w : TimeWord) : List W32 :=
  [pk [(w.sec, 0)], pk [(w.sec / 2 ^ 32, 0)], pk [(w.ns, 0)], pk [(w.sns, 2), (b01 w.v, 1), (b01 w.l, 0)]]

def State.readTb (s : State) (p : Path) (off : Nat) : W32 :=
  let t := s.tb
  if off < 0x78010 then (timeWords (s.latOf p).time).getD ((off - 0x78000) / 4) 0
  else if off = 0x78010 then BitVec.ofNat 32 (s.latOf p).weft.toNat
  else if off = 0x78014 then BitVec.ofNat 32 ((s.latOf p).weft.toNat / 2 ^ 32)
  else if off = 0x78018 then BitVec.ofNat 32 (unsigned 32 (satSym 32 t.d))
  else if off = 0x7801C then word32 (t.yInt * 1024)
  else if off = 0x78048 then
    pk [(t.stToken, 16), (t.stCode, 8), (b01 t.lastSat, 7), (b01 t.stReject, 4), (b01 t.stDone, 3), (t.stState, 0)]
  else if off = 0x7804C then half t.last false
  else if off = 0x78050 then half t.last true
  else if off = 0x78060 then
    pk [(b01 t.leapGnss * 2 + b01 t.leapImage, 30), (b01 t.mismatch, 16), (unsigned 16 t.utcOfs, 0)]
  else if off = 0x78064 then pk [((t.next.map (·.1)).getD 0, 0)]
  else if off = 0x78068 then
    match t.next with
    | some (e, del) => pk [(1, 31), (b01 del, 16), (e / 2 ^ 32 % 2 ^ 16, 0)]
    | none => 0
  else if off = 0x78100 then s.tbMode
  else if off = 0x78104 then s.tbStatus
  else 0

/-! Outputs (R274, R276, R279). -/

def State.readOut (s : State) (off : Nat) : W32 :=
  if 0x80100 ≤ off ∧ off < 0x80240 ∧ (off - 0x80100) % 0x20 = 0x14 then
    let n := (off - 0x80100) / 0x20
    let c := s.clkAt n
    let goal : Rat := (signed 32 (s.reg (cBase n + 16)).toNat : Rat)
    pk [(b01 (c.slewing && c.phase != goal), 2), (b01 c.aligned, 1), (b01 c.muted, 0)]
  else if 0x80300 ≤ off ∧ off < 0x80400 then
    let m := (off - 0x80300) / 0x40
    let p := s.ppsAt m
    let goal : Rat := (s.pair (pBase m + 12) : Rat)
    match off - pBase m with
    | 0x14 => pk [(b01 p.inputLost, 3), (b01 (p.slewing && p.eff != goal), 2), (b01 p.unmuted, 1), (b01 p.muted, 0)]
    | 0x18 => half (whole p.eff) false
    | 0x1C => half (whole p.eff) true
    | _ => 0
  else if off = 0x80604 then BitVec.ofNat 32 (unsigned 32 (satS 32 s.out.qerr))
  else 0

/-! GNSS (R297 to R299, R318 to R321, R347 to R350). -/

/-- Eight words of a record set's header (R297). -/
def RecSet.header (r : RecSet) : List Byte :=
  leBytes 12 r.time.toBits.toNat ++ leBytes 4 r.sampleOfs ++ leBytes 4 r.cnt ++ leBytes 2 (unsigned 16 r.agcA) ++
    leBytes 2 (unsigned 16 r.agcB) ++ [BitVec.ofNat 8 r.flags, 192] ++ zeros 6

/-- The 32 bytes of a channel's record (R298). -/
def chanRecord (i : Nat) (c : Chan) : List Byte :=
  let st := c.st.code + 8 * b01 c.used + 16 * b01 c.slip + 32 * b01 c.half + 64 * b01 c.excl + 128 * b01 c.handed
  [BitVec.ofNat 8 i, BitVec.ofNat 8 c.sig, BitVec.ofNat 8 c.svid, BitVec.ofNat 8 st] ++ leBytes 2 c.cn0 ++
    [BitVec.ofNat 8 (unsigned 8 c.elev), BitVec.ofNat 8 (unsigned 8 c.fcn)] ++ leBytes 8 c.txtime ++
    leBytes 8 (unsigned 64 c.carrier) ++ leBytes 4 (unsigned 32 c.doppler) ++ leBytes 4 (min 0xFFFFFFFF c.lockMs)

/-- A word of the record set window. -/
def RecSet.word (r : RecSet) (i : Nat) : W32 :=
  if i < 8 then wordAt r.header (4 * i)
  else wordAt (chanRecord ((i - 8) / 8) (r.chans.getD ((i - 8) / 8) Chan.reset)) (4 * ((i - 8) % 8))

/-- NEXT of GNS_CHECKIN_STAT: seconds to the next wake. -/
def State.wakeIn (s : State) : Nat :=
  match s.gns.winAt with
  | some t => if !s.gns.asleep then 0 else if s.gns.wakeDue then 1 else ceilDiv (t + s.fld 0x90090 16 0 * nsPerSec - s.now) nsPerSec
  | none => 0

/-- An inter-system offset as its register holds it: 0x8000_0000 where none is known (R320). -/
def isbWord (x : Option Int) : W32 := (x.map fun v => BitVec.ofNat 32 (unsigned 32 (satS 32 v))).getD 0x80000000

def State.readGns (s : State) (p : Path) (off : Nat) : W32 :=
  let g := s.gns
  let agc := fun (gain : Int) (rms fs : Nat) => pk [(unsigned 16 gain, 16), (rms % 256, 8), (fs % 256, 0)]
  if off = 0x90100 then s.gnsStat
  else if 0x90100 < off ∧ off < 0x90134 then (s.latOf p).gns.getD ((off - 0x90100) / 4) 0
  else if off = 0x90140 then agc g.gainA g.rmsA g.fsA
  else if off = 0x90144 then agc g.gainB g.rmsB g.fsB
  else if 0x90180 ≤ off ∧ off < 0x90198 then
    let k := (off - 0x90180) / 4
    pk [(((g.chans.filter fun c => c.st == .tow && sigSys c.sig == k).map (·.svid)).eraseDups.length, 8), (g.sysUsed.getD k 0, 0)]
  else if 0x901C0 ≤ off ∧ off < 0x901EC then
    let k := (off - 0x901C0) / 4
    pk [(s.chansIn fun c => c.st != .idle && c.sig == k, 8), (s.chansIn fun c => c.st == .tow && c.sig == k, 0)]
  else if 0x90200 ≤ off ∧ off < 0x90230 then
    let k := (off - 0x90200) / 8
    isbWord ((if off % 8 = 0 then g.isbSol else g.isbBc).getD k none)
  else if off = 0x90404 then pk [(g.ctlToken, 16), (g.ctlCode, 8)]
  else if off = 0x90500 then s.intStat
  else if off = 0x90504 then pk [(unsigned 16 g.gainBaseA, 16), (unsigned 16 g.gainBaseB, 0)]
  else if off = 0x90508 then half (whole g.q) false
  else if off = 0x9050C then half (whole g.q) true
  else if off = 0x90510 then word32 (g.slope * 10 ^ 12)
  else if off = 0x90520 then pk [(b01 g.asleep, 31), (b01 g.chkFail, 30), (b01 g.chkNosol, 29), (s.wakeIn, 0)]
  else if off = 0x90524 then BitVec.ofNat 32 (unsigned 32 (satS 32 g.chkZ))
  else if 0x90600 ≤ off ∧ off < 0x90700 then
    match Assoc.get ((off - 0x90600) / 8) g.excls with
    | some e => if off % 8 = 0 then pk [((s.exclWords e).1, 0)] else pk [((s.exclWords e).2, 0)]
    | none => 0
  else if 0x94000 ≤ off ∧ off < 0x95820 then
    match (s.latOf p).recSet with
    | some r => r.word ((off - 0x94000) / 4)
    | none => 0
  else 0

/-! PTP (R484, R485, R487). -/

/-- A client of the grant table as PTP_GT_ENTRY0 to PTP_GT_ENTRY7 show it: the log interval of a kind that it holds no grant of is
open. -/
def State.gtEntry (s : State) (k : Nat) : List W32 :=
  match s.clients[k]? with
  | none => List.replicate 8 0
  | some (n, cid, addr) =>
    let of := fun (kind : Nat) => s.ptp.grants.find? fun g => g.client == (n, cid, addr) && g.kind == kind
    let phase := ((of 0).map (·.phase)).getD 0
    let log := fun (kind : Nat) => ((of kind).map fun g => unsigned 8 g.logI).getD (Config.noGrant.toNat)
    [pk [(1, 31), (n, 24), (phase % 16, 20)], pk [(log 0, 0), (log 1, 8), (log 2, 16)], wordBe cid 0, wordBe cid 4,
     wordBe addr 0, wordBe addr 4, wordBe addr 8, wordBe addr 12]

/-- STATE of PTP_PORT_STATn (R484). -/
def State.ptpState (s : State) (n : Nat) : Nat :=
  if !s.ptpOn n then 0
  else if !s.ptpClient n then 1
  else if (s.followed n).isNone then 2
  else if (s.ptpPort n).mpd.isNone then 3
  else 4

def State.readPtp (s : State) (off : Nat) : W32 :=
  if off = 0x98008 then wordU 23 s.committedRate
  else if off = 0x9800C then pk [(s.clients.length, 0)]
  else if off = 0x980C4 then pk [(s.ptp.ctlToken, 16), (s.ptp.ctlCode, 8)]
  else if 0x980E0 ≤ off ∧ off < 0x98100 then (s.gtEntry (s.fld 0x980D0 13 0)).getD ((off - 0x980E0) / 4) 0
  else
    let n := (off - 0x98400) / 0x400
    if off < 0x98400 ∨ 4 ≤ n then 0 else
    let q := s.ptpPort n
    let gm := ((s.followed n).map (·.gmId)).getD (zeros 8)
    match off - gBase n with
    | 0x200 => pk [(s.ptpState n, 29), (b01 (s.ptpOn n && s.ptpProfile n == 4 && q.asCapable), 28), (b01 (s.ptpOn n && s.ptpProfile n == 4 && !q.oneStepOk), 27), (b01 (s.authNoKey n), 26),
                   (if s.ptpOn n then ((s.followed n).map (·.class_)).getD 255 else 255, 16), ((s.clients.filter fun c => c.1 == n).length, 0)]
    | 0x204 => wordBe gm 4
    | 0x208 => wordBe gm 0
    | 0x20C => half (q.mpd.getD 0) false
    | 0x210 => half (q.mpd.getD 0) true
    | 0x214 => half q.ofs false
    | 0x218 => half q.ofs true
    | _ => 0

/-! PKE and key store (R548 to R552). -/

/-- The slot that KST_SEL selects, in an unsealed store. -/
def State.kstSlot (s : State) : Option KeySlot := if s.pke.unsealed then Assoc.get (s.fld 0xC0000 6 0) s.fe.slots else none

def State.readPke (s : State) (off : Nat) : W32 :=
  let cores := ((List.range 8).map fun c => b01 ((s.isl (if c < 4 then 22 else 23)).st == .inService) * 2 ^ c).sum
  if off = 0xA0004 then
    pk [(cores, 24), ((s.pke.ops.filter fun o => o.core.isSome).length, 20), (s.pke.ops.length, 13), (ceilDiv s.opMem 1024, 0)]
  else if 0xA0010 ≤ off ∧ off < 0xA0030 then
    match Assoc.get ((off - 0xA0010) / 4) s.pke.curves with
    | some c => pk [(if c.loaded then 1 else 2, 30), (c.reason, 20), (c.h, 16), (c.pbits, 0)]
    | none => 0
  else if off = 0xC0004 then
    match s.kstSlot with
    | some k => pk [(k.typ, 28), (k.curve, 20), (k.policy % 64, 12), (k.pub.length, 0)]
    | none => pk [(0xFF, 20)]
  else if off = 0xC0008 then
    pk [(b01 s.pke.unsealed, 31), (b01 s.pke.pufOk, 30), (if s.pke.unsealed then s.fe.slots.length else 0, 16)]
  else if 0xC1000 ≤ off ∧ off < 0xC1400 then wordAt ((s.kstSlot.map (·.pub)).getD []) (off - 0xC1000)
  else 0

/-! Self-test and fault manager (R584 to R589). -/

/-- STATE of BST_ISLk (R589). -/
def IslState.code : IslState → Nat
  | .inService => 0
  | .underTest => 1
  | .retired => 2
  | .untested => 3

/-- FMU_DEGRADED (R585). -/
def State.degradedWord (s : State) : W32 :=
  pk [(b01 s.degraded, 31), (b01 s.fmu.pathFail, 30), (b01 s.clkMuted, 29), (b01 s.memRetired, 28), (b01 s.fmu.portCal, 27),
      (b01 s.fmu.tacDeg, 26), (b01 s.islandRetired, 25), (((List.range 24).map fun k => b01 (s.fe.retired.contains k) * 2 ^ k).sum, 0)]

def State.readSafety (s : State) (off : Nat) : W32 :=
  let f := s.fmu
  let tested := (List.range 24).filter fun k => (s.isl k).st == .underTest
  if off = 0xD0004 then pk [(tested.getD 0 31, 24), (tested.getD 1 31, 16)]
  else if off = 0xD0014 then pk [(f.ctlToken, 16), (f.ctlCode, 8)]
  else if 0xD0100 ≤ off ∧ off < 0xD0160 then
    let k := (off - 0xD0100) / 4
    let i := s.isl k
    pk [(i.st.code, 30), (b01 (islEssential k), 29), (islMethod k, 27), (b01 (rotating.contains k), 26), (min 3 (s.errsOf k), 8), (i.last, 0)]
  else if off = 0xE0010 then
    pk [(b01 f.gate, 31), (b01 f.pathA, 30), (b01 f.pathB, 29), (b01 s.tb.freeze.isSome, 28), (b01 f.window.isSome, 27)]
  else if off = 0xE0014 then s.degradedWord
  else if off = 0xE0018 then pk [(f.lastRoot, 16), (f.lastCause, 0)]
  else if off = 0xE001C then BitVec.ofNat 32 (unsigned 32 (satSym 32 (f.gateDiff.getD 0)))
  else if 0xE0040 ≤ off ∧ off < 0xE0060 then wordAt f.root (off - 0xE0040)
  else 0

/-! Bandwidth (R633, R634). -/

def State.readPmc (s : State) (p : Path) (off : Nat) : W32 :=
  let n := (off - 0xF0100) / 0x20
  let k := (off - 0xF0100) % 0x20
  if off < 0xF0100 ∨ 5 ≤ n then 0
  else if k = 0x1C then (s.bwAt n).peak
  else if 4 ≤ k then ((s.latOf p).bw.getD n []).getD (k / 4 - 1) 0
  else 0

/-! Management (R599, R619 to R621). -/

/-- A log record's 64 bytes (R599). -/
def LogRec.bytes (r : LogRec) (len : Nat) : List Byte :=
  let b := leBytes 2 r.typ ++ [BitVec.ofNat 8 len, BitVec.ofNat 8 (b01 r.fmu)] ++ leBytes 4 r.seq ++ leBytes 12 r.time.toBits.toNat ++ padTo 40 r.body
  b ++ leBytes 4 (crc32 b)

/-- LEN of a record by its type (R600). -/
def recLen (typ : Nat) : Nat := [0, 9, 3, 12, 6, 32, 12, 3, 4, 8, 8, 20, 4, 4].getD typ 0

/-- The highest SEQ in the log. -/
def State.logHead (s : State) : Nat := ((s.fe.log.getLast?).map (·.seq)).getD 0

/-- MGT_STAT (R619). -/
def State.mgtStat (s : State) : W32 :=
  let m := s.mgt
  pk [(b01 m.recovery, 31), (b01 m.tempHot, 30), (b01 m.droopHeavy, 29), (b01 (!m.otarnKeys.isEmpty), 28), (m.fwSlot, 24)]

/-- MGT_UPD_STAT (R621). -/
def State.updStat (s : State) : W32 :=
  let u := s.mgt.upd
  pk [(u.st, 29), (u.slot, 27), (u.code, 16), (u.progress, 0)]

def State.readMgt (s : State) (off : Nat) : W32 :=
  let m := s.mgt
  if off = 0x100000 then s.mgtStat
  else if off = 0x100004 then m.fwVer
  else if 0x100040 ≤ off ∧ off < 0x100054 then
    let k := (off - 0x100040) / 4
    pk [(unsigned 16 (m.tempMax.getD k 0), 16), (unsigned 16 (m.tempNow.getD k 0), 0)]
  else if 0x100060 ≤ off ∧ off < 0x100074 then
    let k := (off - 0x100060) / 4
    pk [(m.railMin.getD k 0 % 65536, 16), (m.railNow.getD k 0 % 65536, 0)]
  else if off = 0x100090 then s.updStat
  else if off = 0x100100 then pk [(s.logHead, 0)]
  else if 0x100140 ≤ off ∧ off < 0x100180 then
    match s.fe.log.find? fun r => r.seq == (s.reg 0x100104).toNat with
    | some r => wordAt (r.bytes (recLen r.typ)) (off - 0x100140)
    | none => 0
  else if off = 0x101004 then pk [(m.mbToken, 16), (m.mbLen, 4), (m.mbState, 0)]
  else if 0x101800 ≤ off ∧ off < 0x101E00 then wordAt m.mbox (off - 0x101800)
  else 0

/-! Host interface (R498, R512 to R520). -/

/-- A ring or queue by its register block: TAIL and HEAD. -/
def State.ringOf (s : State) (off : Nat) : Ring :=
  if off < 0x110300 then s.rxRing ((off - 0x110100) / 0x20)
  else if off < 0x110500 then s.txRing ((off - 0x110300) / 0x20)
  else s.cqRing ((off - 0x110500) / 0x20)

def State.readHif (s : State) (p : Path) (off : Nat) : W32 :=
  let h := s.hif
  let pend := ((List.range 36).map fun v => b01 (h.vecs.getD v Vec.reset).pend * 2 ^ v).sum
  if off = 0x110004 then pk [(b01 h.link, 31), (b01 h.bme, 30), (b01 h.ptmEn, 29), (h.speed, 24), (h.width, 16)]
  else if 0x110100 ≤ off ∧ off < 0x110540 then
    match (off - 0x110100) % 0x20 with
    | 0x0C => pk [((s.ringOf off).tail, 0)]
    | 0x10 => pk [((s.ringOf off).head, 0)]
    | _ => 0
  else if off = 0x11060C then pk [(h.evsHostRd, 0)]
  else if off = 0x110610 then pk [(h.evsWr, 0)]
  else if off = 0x110618 then pk ((b01 s.evsHeld, 0) :: s.readerStat h.evs false)
  else if off = 0x110700 then h.cause
  else if off = 0x110908 then pk [(h.ptm.token, 16), (h.ptm.code, 8)]
  else if off = 0x11090C then pk [(h.ptm.seq, 0)]
  else if 0x110910 ≤ off ∧ off < 0x110930 then (s.latOf p).ptm.getD ((off - 0x110910) / 4) 0
  else if off = 0x119000 then pk [(pend, 0)]
  else if off = 0x119004 then pk [(pend / 2 ^ 32, 0)]
  else 0

/-! The loader's registers (R94 to R97). -/

/-- CFG_SEQ_A and CFG_SEQ_B go by the headers as the flash holds them, and read 0 where the flash lies outside R59, so that no header can
be read (DESIGN CHOICE, log 92). -/
def State.readCfg (s : State) (off : Nat) : W32 :=
  let c := s.cfg
  if off = 0x120000 then s.cfgStatus
  else if off = 0x120004 then pk [(8 - c.fuses.length, 4), (if c.fuses.isEmpty then 15 else c.fuses.length - 1, 0)]
  else if off = 0x120008 then pk [(c.density, 16), (b01 c.modeBit, 8), (c.div, 0)]
  else if off = 0x120010 then pk [(s.slotSeq 1, 0)]
  else if off = 0x120014 then pk [(s.slotSeq 2, 0)]
  else if 0x120040 ≤ off ∧ off < 0x120080 then wordAt c.label (off - 0x120040)
  else 0

/-! A read. -/

/-- The word a read returns, its latches as they stand: commit registers, counters, configuration registers, and the rest by their
block; an unassigned offset reads 0 (R7). -/
def State.readLive (s : State) (p : Path) (off : Nat) : W32 :=
  if off < 0x10000 then s.readGlb off else
  match cmtAt off with
  | some b => (s.cmt b).words.getD ((off - cmtOff b) / 4) 0
  | none =>
    if isCounter off then BitVec.ofNat 32 (s.ctrAt off).toNat
    else if isCounter (off - 4) then BitVec.ofNat 32 ((s.latOf p).ctr.toNat / 2 ^ 32)
    else if (regDef off).isSome then s.cfgWord off
    else match off / 0x10000 with
      | 1 => s.readMac off
      | 2 => s.readMac off
      | 3 => s.readStk off
      | 4 => s.readWv off
      | 5 => s.readTin off
      | 6 => s.readRef off
      | 7 => if off < 0x78000 then s.readSrv off else s.readTb p off
      | 8 => s.readOut off
      | 9 => if off < 0x98000 then s.readGns p off else s.readPtp off
      | 10 => s.readPke off
      | 11 => s.readWv off
      | 12 => s.readPke off
      | 13 => s.readSafety off
      | 14 => s.readSafety off
      | 15 => s.readPmc p off
      | 16 => s.readMgt off
      | 17 => s.readHif p off
      | 18 => s.readCfg off
      | _ => 0

/-- What the blocks behind the boot shadow show: the reset values, with those that R40, R95 and R586 take from this start, from the
fuses and from the SAFE entry before it. -/
def State.bootView (s : State) : State :=
  let r := State.reset
  { r with md := { r.md with cause := s.md.cause }, cfg := { r.cfg with fuses := s.cfg.fuses },
           fmu := { r.fmu with lastRoot := s.fmu.lastRoot, lastCause := s.fmu.lastCause } }

/-- A read of a register: while the boot shadow stands, every block but GLB answers with its reset values (R8, R494); what lies in no
block, or is not aligned, reads 0 (R7, R638). -/
def State.readReg (s : State) (p : Path) (off : Nat) : W32 :=
  if off % 4 ≠ 0 ∨ 0x130000 ≤ off then 0
  else if s.shadow && decide (0x10000 ≤ off) then s.bootView.readLive p off
  else s.readLive p off

/-- What a read latches before it returns (R101, R113, R174, R299, R318, R518, R625, R633). -/
def State.readLatch (s : State) (p : Path) (off : Nat) : State :=
  if off = 0x78000 then s.timeLatch p
  else if off = 0x78010 then s.weftLatch p
  else if off = 0x50220 then if s.shadow then s else s.tinRecRead
  else if off = 0x94000 then s.recLock p
  else if off = 0x90100 then s.gnsLatch p
  else if off = 0x11090C then s.ptmLatch p
  else if 0xF0104 ≤ off ∧ off < 0xF01A0 ∧ (off - 0xF0104) % 0x20 = 0 then s.bwLatch p ((off - 0xF0104) / 0x20)
  else s.ctrLatch p off

/-- The minimum of a rail reloaded with its latest value (R621). -/
def State.railReload (s : State) (k : Nat) : State :=
  if s.shadow then s else
  { s with mgt := { s.mgt with railMin := putAt s.mgt.railMin k (s.mgt.railNow.getD k 0) } }

/-- What a read clears once it has returned (R596, R621, R634). -/
def State.readClear (s : State) (off : Nat) : State :=
  if off = 0x100000 then if s.shadow then s else { s with mgt := { s.mgt with droopHeavy := false } }
  else if 0x100060 ≤ off ∧ off < 0x100074 then s.railReload ((off - 0x100060) / 4)
  else if 0xF011C ≤ off ∧ off < 0xF01A0 ∧ (off - 0xF011C) % 0x20 = 0 then s.bwPeakClear ((off - 0xF011C) / 0x20)
  else s

/-- A read carried out on a path: its value is what the path last read. One outside every block sets UNASSIGNED (R638). -/
def State.readOn (s : State) (p : Path) (off : Nat) : State :=
  if 0x130000 ≤ off ∧ off < 0x1000000 then ({ s with glb := { s.glb with errUnassigned := true } }).setLat p fun l => { l with lastRead := 0 } else
  if off % 4 ≠ 0 ∨ 0x130000 ≤ off then s else
  let s1 := s.readLatch p off
  let v := s1.readReg p off
  (s1.readClear off).setLat p fun l => { l with lastRead := v }

/-! Writes. -/

/-- A configuration register written: RW bits at once, RWS bits in the staged copy (R6); image-set bits keep their value. -/
def State.putStaged (s : State) (off : Nat) (v : W32) : State :=
  match regDef off with
  | some r =>
    let m := r.mask (· == .rws)
    let s1 := if r.mask (· == .rw) = 0 then s else s.putRw off v
    if m = 0 then s1 else { s1 with stg := s1.stg.wr off ((v &&& m) ||| (s1.stg.rd off &&& ~~~m)) }
  | none => s

/-- A bit that a W1C write leaves: cleared by a 1. -/
def keep (x : Bool) (v : W32) (i : Nat) : Bool := x && !bitAt v i

/-- A write of <P>_CMT or of the W1C bits of <P>_CMT_STAT (R82, R89, R90). -/
def State.writeCmt (s : State) (b : CmtBlk) (k : Nat) (v : W32) : State :=
  let token := bitsOf v 31 16
  if k = 0 then
    match bitsOf v 1 0 with
    | 1 => s.cmtStart b token false
    | 2 => s.cmtStart b token true
    | 3 => s.cmtRevert b token
    | _ => s
  else if k = 4 then
    let c := s.cmt b
    s.setCmt b { c with reject := keep c.reject v 4, done := keep c.done v 3 }
  else s

/-- A write of a GLB register (R644, R646, R647). -/
def State.writeGlb (s : State) (off : Nat) (v : W32) : State :=
  let g := s.glb
  if off = 0x30 then s.glbReset v
  else if off = 0x34 then
    { s with glb := { g with errUnassigned := keep g.errUnassigned v 2, errPartial := keep g.errPartial v 1, errBadReset := keep g.errBadReset v 0 } }
  else if off = 0x40 then { s with glb := { g with scratch := v } }
  else s

/-- A write in MAC's range. -/
def State.writeMac (s : State) (off : Nat) (v : W32) : State :=
  if 0x24000 ≤ off ∧ off < 0x26000 then if (regDef off).isSome then s.ruleWrite ((off - 0x24000) / 0x20) ((off - 0x24000) % 0x20 / 4) v else s
  else if off = 0x26800 then { s with wv := { s.wv with clsErr := keep s.wv.clsErr v 0 } }
  else if off < 0x24000 ∧ (off - 0x10000) % 0x4000 = 0x40 then
    s.setPort ((off - 0x10000) / 0x4000) fun p =>
      { p with stepFail := keep p.stepFail v 22, pauseStorm := keep p.pauseStorm v 21, xoffStorm := keep p.xoffStorm v 20 }
  else s.putStaged off v

/-- A write in TAC and TIN's range (R173, R177, R178, R181, R183, R184). -/
def State.writeTin (s : State) (off : Nat) (v : W32) : State :=
  let r := s.tin.rdr
  if off = 0x50010 then
    let s1 := if bitAt v 31 then s.rdEnable else s
    (s1.putStaged off v).flushOverflow
  else if off = 0x50014 then
    let dis := bitsOf v 15 8
    let arm := (List.range 8).filter fun n => bitAt v n && !bitAt v (8 + n)
    (arm.foldl (fun s n => s.armOne n) s).tinDisarm (BitVec.ofNat 8 dis)
  else if 0x50110 ≤ off ∧ off < 0x50200 ∧ (off - 0x50110) % 0x20 = 0 then
    s.setTin ((off - 0x50110) / 0x20) fun i => { i with missed := keep i.missed v 3, rearm := keep i.rearm v 0 }
  else if off = 0x5020C then
    match bitsOf v 1 0 with
    | 1 => s.setRdr r.doMark
    | 2 => s.setRdr (s.rewound r)
    | 3 => s.setRdr r.doClear
    | _ => s
  else if off = 0x50210 then { s with tin := { s.tin with ovf := keep s.tin.ovf v 3, rdr := { r with markLost := keep r.markLost v 1 } } }
  else s.putStaged off v

/-- A write in REF's range (R210, R215). -/
def State.writeRef (s : State) (off : Nat) (v : W32) : State :=
  let token := BitVec.ofNat 16 (bitsOf v 31 16)
  if off = 0x6000C then
    match bitsOf v 1 0 with
    | 1 => s.endWtr token (bitsOf v 12 8)
    | 2 => s.forgetRef token (bitsOf v 12 8)
    | 3 => s.refCtl token 0x11
    | _ => s
  else if 0x60120 ≤ off ∧ off < 0x60540 ∧ (off - 0x60120) % 0x40 = 0 then
    s.setRef ((off - 0x60120) / 0x40) fun r =>
      { r with integ := keep r.integ v 6, qlf := keep r.qlf v 5, proj := keep r.proj v 4, te := keep r.te v 3, pjump := keep r.pjump v 2,
               freq := keep r.freq v 1, los := keep r.los v 0 }
  else s.putStaged off v

/-- A write in SRV and TB's range (R41 to R43, R129, R131, R242, R244). -/
def State.writeSrv (s : State) (off : Nat) (v : W32) : State :=
  let token := BitVec.ofNat 16 (bitsOf v 31 16)
  if off = 0x70040 then { s with srv := { s.srv with retLimit := keep s.srv.retLimit v 1, winClamp := keep s.srv.winClamp v 0 } }
  else if off = 0x70090 then
    match bitsOf v 1 0 with
    | 0 => s
    | 1 => s.forgetModel token
    | _ => s.srvCtl token 0x11
  else if off = 0x78030 then
    if bitsOf v 2 0 = 0 then s
    else s.stepIssue { bodkin := false, op := bitsOf v 2 0, op0 := s.reg 0x78034, op1 := s.reg 0x78038, op2 := s.reg 0x7803C, op3 := s.reg 0x78040,
                       chk := s.reg 0x78044, ctl := v, token := token.toNat, armedAt := 0 }
  else if off = 0x78048 then { s with tb := { s.tb with stReject := keep s.tb.stReject v 4, stDone := keep s.tb.stDone v 3 } }
  else if off = 0x78104 then { s with md := { s.md with reqRefused := keep s.md.reqRefused v 17, modeChg := keep s.md.modeChg v 16 } }
  else if off = 0x7810C then
    if bitsOf v 7 0 = 1 then s.beginDrain else if bitsOf v 7 0 = 2 then s.safeReq else s.refuseReq
  else s.putStaged off v

/-- A write in GNS's and PTP's range (R321, R348, R487). -/
def State.writeGns (s : State) (off : Nat) (v : W32) : State :=
  let token := bitsOf v 31 16
  if off = 0x90400 then
    match bitsOf v 1 0 with
    | 1 => s.resurvey token
    | 2 => s.rerunScript token
    | 3 => s.coldStart token
    | _ => s
  else if off = 0x90520 then { s with gns := { s.gns with chkFail := keep s.gns.chkFail v 30, chkNosol := keep s.gns.chkNosol v 29 } }
  else if off = 0x980C0 then
    match bitsOf v 1 0 with
    | 1 => s.ptpCancelAll token (bitsOf v 9 8)
    | 2 => s.ptpRestart token (bitsOf v 9 8)
    | 3 => s.ptpCtl token 0x11
    | _ => s
  else s.putStaged off v

/-- A write in the ranges of STK, WV, SYM, PKE, KST, BST, FMU and PMC (R424, R454, R589). -/
def State.writeMisc (s : State) (off : Nat) (v : W32) : State :=
  let token := bitsOf v 31 16
  if 0x30020 ≤ off ∧ off < 0x30400 ∧ (off - 0x30020) % 0x100 = 0 then
    s.setPort ((off - 0x30020) / 0x100) fun p => { p with stk := { p.stk with txphErr := keep p.stk.txphErr v 28 } }
  else if off = 0xB0020 then
    match bitsOf v 1 0 with
    | 0 => s
    | 1 => s.rotateOp token
    | _ => s.symCtl token 0x13
  else if off = 0xD0010 then
    match bitsOf v 1 0 with
    | 0 => s
    | 1 => s.bstTest token (bitsOf v 12 8)
    | 2 => s.bstClear token (bitsOf v 12 8)
    | _ => s.bstCtl token 0x11
  else s.putStaged off v

/-- A write in MGT's range: the mailbox window beside the configuration (R615). MGT_MBOX_CTL is served apart. -/
def State.writeMgt (s : State) (off : Nat) (v : W32) : State :=
  if 0x101800 ≤ off ∧ off < 0x101E00 then { s with mgt := { s.mgt with mbox := splice s.mgt.mbox (off - 0x101800) (leBytes 4 v.toNat) } }
  else s.putStaged off v

/-- A write in HIF's range (R496, R498, R510, R512 to R515, R518). -/
def State.writeHif (s : State) (off : Nat) (v : W32) : State :=
  let e := s.hif.evs
  let put := fun (r : Reader) => { s with hif := { s.hif with evs := r } }
  if 0x110100 ≤ off ∧ off < 0x110540 ∧ (off - 0x110100) % 0x20 = 0x0C then
    if off < 0x110300 then s.rxTail ((off - 0x110100) / 0x20) v
    else if off < 0x110500 then s.txTail ((off - 0x110300) / 0x20) v
    else s.cqTail ((off - 0x110500) / 0x20) v
  else if off = 0x110514 ∨ off = 0x110534 then
    let q := (off - 0x110500) / 0x20
    match bitsOf v 17 16 with
    | 1 => s.cqAbort q (bitsOf v 15 0)
    | 2 => s.cqAbortAll q
    | _ => s
  else if off = 0x11060C then s.evsRdWrite v
  else if off = 0x110614 then
    match bitsOf v 1 0 with
    | 1 => put e.doMark
    | 2 => put (s.rewound e)
    | 3 => put e.doClear
    | _ => s
  else if off = 0x110618 then put { e with markLost := keep e.markLost v 1 }
  else if off = 0x110700 then { s with hif := { s.hif with cause := s.hif.cause &&& ~~~v } }
  else if off = 0x110904 then if bitAt v 0 then s.ptmReq (bitsOf v 31 16) else s
  else if 0x118000 ≤ off ∧ off < 0x118240 ∧ (off - 0x118000) % 16 = 12 then (s.putStaged off v).vecUnmask ((off - 0x118000) / 16)
  else s.putStaged off v

/-- A whole write to a block other than GLB: discarded in BOOT and CALIBRATE (R79). -/
def State.writeBlock (s : State) (off : Nat) (v : W32) : State :=
  if s.noWrites then s else
  match cmtAt off with
  | some b => s.writeCmt b (off - cmtOff b) v
  | none =>
    if isCounter (off - 4) then if bitAt v 31 then s.wrapClear (off - 4) else s
    else match off / 0x10000 with
      | 1 => s.writeMac off v
      | 2 => s.writeMac off v
      | 5 => s.writeTin off v
      | 6 => s.writeRef off v
      | 7 => s.writeSrv off v
      | 8 => s.putStaged off v
      | 9 => s.writeGns off v
      | 16 => s.writeMgt off v
      | 17 => s.writeHif off v
      | _ => s.writeMisc off v

/-- A write of a register, with its byte enables (R7, R638): one outside every block sets UNASSIGNED, one that enables fewer than four
bytes sets PARTIAL, and neither writes anything. -/
def State.writeReg (s : State) (off : Nat) (be : BitVec 4) (v : W32) : State :=
  if s.inReset ∨ off % 4 ≠ 0 ∨ 0x1000000 ≤ off then s
  else if 0x130000 ≤ off then { s with glb := { s.glb with errUnassigned := true } }
  else if be ≠ 15 then { s with glb := { s.glb with errPartial := true } }
  else if off < 0x10000 then s.writeGlb off v
  else s.writeBlock off v

def execTimeLatchRead (p : Path) (s : State) : Host.Outcome State Fault Refusal := .next (s.readOn p 0x78000)
def execWeftLatchRead (p : Path) (s : State) : Host.Outcome State Fault Refusal := .next (s.readOn p 0x78010)
def execTinRecRead (p : Path) (s : State) : Host.Outcome State Fault Refusal := .next (s.readOn p 0x50220)
def execRecordSetLock (p : Path) (s : State) : Host.Outcome State Fault Refusal := .next (s.readOn p 0x94000)
def execGnsStatLatch (p : Path) (s : State) : Host.Outcome State Fault Refusal := .next (s.readOn p 0x90100)
def execPtmResultLatch (p : Path) (s : State) : Host.Outcome State Fault Refusal := .next (s.readOn p 0x11090C)
def execRailMinRead (p : Path) (k : Nat) (s : State) : Host.Outcome State Fault Refusal := .next (if k < 5 then s.readOn p (0x100060 + 4 * k) else s)
def execMgtStatRead (p : Path) (s : State) : Host.Outcome State Fault Refusal := .next (s.readOn p 0x100000)
def execCounterLatchRead (p : Path) (off : Nat) (s : State) : Host.Outcome State Fault Refusal :=
  .next (if isCounter off then s.readOn p off else s)
def execBwStatLatch (p : Path) (n : Nat) (s : State) : Host.Outcome State Fault Refusal := .next (if n < 5 then s.readOn p (0xF0104 + 0x20 * n) else s)
def execBwPeakRead (p : Path) (n : Nat) (s : State) : Host.Outcome State Fault Refusal := .next (if n < 5 then s.readOn p (0xF011C + 0x20 * n) else s)

end Sys2Proof.Machine
end

