-- ==== Sys2Proof/Machine/Mgmt.lean ====
section
/-! DEFINITION. Management (R591 to R622): the sensors, the I2C status page, Otarn and the mailbox with their messages, the update path
and the firmware swap; and the write of a register with no row of its own. -/

namespace Sys2Proof.Machine

open Sys2Proof Sys2Proof.Machine.Crypto

/-! Sensors (R594 to R596). -/

/-- The five readings of a scan, a sensor that it leaves out keeping its value. -/
def readings {α : Type} (l old : List α) (d : α) : List α := (List.range 5).map fun k => (l[k]?).getD (old.getD k d)

/-- TEMP_HOT and its record at each rise (R595, R600). -/
def State.tempCheck (s : State) : State :=
  let ts := s.mgt.tempNow
  let top := ts.foldl max (ts.headD 0)
  let hot := decide (((s.fld 0x100030 7 0 * 16 : Nat) : Int) < top)
  let s1 := if hot && !s.mgt.tempHot then
      s.log 0x000C ([BitVec.ofNat 8 (ts.findIdx (· == top)), 0] ++ leBytes 2 (unsigned 16 top))
    else s
  { s1 with mgt := { s1.mgt with tempHot := hot } }

/-- The fields of the I2C page that Bodkin refreshes (R618). -/
def State.pageFields (s : State) : List Byte :=
  let slots := bitsOf s.cfgStatus 3 0 + 16 * s.mgt.fwSlot + 128 * b01 s.mgt.recovery
  leBytes 4 0x0448ED01 ++ [0, 0, BitVec.ofNat 8 s.selId, 0] ++ leBytes 4 s.degradedWord.toNat ++ [0, BitVec.ofNat 8 slots, 0, 0] ++
    s.mgt.tempNow.flatMap (fun t => leBytes 2 (unsigned 16 t)) ++ s.mgt.railNow.flatMap (fun v => leBytes 2 v) ++
    leBytes 4 s.teEst ++ zeros 8 ++ leBytes 4 s.logHead ++ leBytes 4 s.mgt.fwVer.toNat ++ zeros 8

/-- SENSOR_SCAN: the sensors read, their extremes kept, and the I2C page refreshed; none while Bodkin is halted. -/
def State.sensorScan (s : State) (temps : List Int) (rails : List Nat) : State :=
  if s.fmu.halted || s.inReset then s else
  let m := s.mgt
  let t := readings temps m.tempNow 0
  let v := readings rails m.railNow 0
  let hi := if m.refreshed.isNone then t else List.zipWith max m.tempMax t
  let lo := List.zipWith (fun a b => if a = 0 then b else min a b) m.railMin v
  let hist := (s.srv.tHist ++ [(s.now, t.getD 0 0)]).filter fun x => decide (s.now ≤ x.1 + 64 * nsPerSec)
  let s1 := ({ s with mgt := { m with tempNow := t, tempMax := hi, railNow := v, railMin := lo, refreshed := some s.now },
                      srv := { s.srv with tHist := hist } }).tempCheck
  { s1 with mgt := { s1.mgt with i2cPage := s1.pageFields } }

/-! The I2C status page (R617, R618). -/

/-- Whether the I2C target answers: from 4 ms after RESET_N release (R44). -/
def State.i2cUp (s : State) : Bool := !s.inReset && (s.md.mode != .boot || decide (s.md.since + 4000000 ≤ s.now))

/-- BALLS. -/
def State.ballsByte (s : State) : Nat :=
  b01 s.ballLock + 2 * b01 s.ballHold + 4 * b01 s.ballPps + 8 * b01 s.alarm + 16 * b01 s.fault + 32 * b01 s.md.drain

/-- The page as a snapshot takes it: what hardware fills stands over what Bodkin last refreshed, and the CRC covers the whole. -/
def State.i2cSnapshot (s : State) : List Byte :=
  let age := match s.mgt.refreshed with
    | some t => min 255 ((s.now - t) / 10000000)
    | none => 255
  let p1 := splice s.mgt.i2cPage 4 [BitVec.ofNat 8 s.md.mode.code, BitVec.ofNat 8 s.ballsByte]
  let p2 := splice (splice p1 7 [BitVec.ofNat 8 age]) 12 [BitVec.ofNat 8 s.fmu.lastCause]
  let p3 := splice p2 0x28 (leBytes 6 s.secNow)
  splice p3 0x3C (leBytes 4 (crc32 (p3.take 0x3C)))

/-- I2C_POINTER_WRITE. -/
def State.i2cPoint (s : State) (b : Byte) : State :=
  if s.i2cUp then { s with mgt := { s.mgt with i2cPtr := b.toNat % 64 } } else s

/-- I2C_READ: so many bytes of a snapshot from the pointer upward, wrapping from 63 to 0. -/
def State.i2cRead (s : State) (count : Nat) : State :=
  if !s.i2cUp then s else
  let page := s.i2cSnapshot
  { s with mgt := { s.mgt with i2cOut := (List.range count).map fun i => page.getD ((s.mgt.i2cPtr + i) % 64) 0 } }

/-! Responses (R607, R608, R611, R615). -/

/-- Whether an IPv6 address is link-local. -/
def isLinkLocal (a : List Byte) : Bool := a.length == 16 && a.take 1 == [0xFE] && (a.getD 1 0).toNat / 64 == 2

/-- MGT_IP6. -/
def State.mgtIp6 (s : State) : List Byte := (List.range 4).flatMap fun k => beBytes 4 (s.reg (0x10001C + 4 * k)).toNat

/-- The address that answers a source: of its own family, and of its own scope. -/
def State.mgtSource (s : State) (dst : List Byte) : List Byte :=
  if dst.length ≠ 16 then beBytes 4 (s.reg 0x100014).toNat
  else if isLinkLocal dst || ipNone s.mgtIp6 then linkLocal (s.macAddr 4)
  else s.mgtIp6

/-- The next hop to an address: the gateway for one off the MGT_IP4 subnet (R607). -/
def State.mgtHop (s : State) (dst : List Byte) : List Byte :=
  let d := 2 ^ (32 - s.fld 0x100010 29 24)
  let gw := (s.reg 0x100018).toNat
  if dst.length ≠ 16 ∧ gw ≠ 0 ∧ ofBe dst / d ≠ (s.reg 0x100014).toNat / d then beBytes 4 gw else dst

/-- The device identity key's signature, or 64 zero bytes while the store has not opened (R608, R614). -/
def State.identitySign (s : State) (bs : List Byte) : List Byte :=
  match if s.pke.unsealed then Assoc.get 0 s.fe.slots else none with
  | some k => edSign ed25519 k.secret bs
  | none => zeros 64

/-- A response datagram as a frame, its next hop still to be written. -/
def State.otarnFrame (s : State) (src : List Byte) (port typ seq replay : Nat) (body : List Byte) : List Byte :=
  let v6 := src.length == 16
  let msg := leBytes 2 (typ % 2 ^ 15 + 2 ^ 15) ++ leBytes 2 seq ++ leBytes 2 body.length ++ leBytes 6 replay ++ body
  let me := s.mgtSource src
  let udp := udpBytes v6 me src 39413 port (msg ++ s.identitySign msg)
  padFrame (ethHdr 0 (s.macAddr 4) [] (if v6 then 0x86DD else 0x0800) ++
    ipHdr v6 0 Config.bodkinTtl 17 udp.length me src ++ udp)

/-- A command answered: STATUS, three zero bytes and the data. -/
def State.respond (s : State) (via : ReplyTo) (status : Nat) (data : List Byte) : State :=
  let body := [BitVec.ofNat 8 status, 0, 0, 0] ++ data
  match via with
  | .mailbox => { s with mgt := { s.mgt with mbox := splice s.mgt.mbox 0 body, mbLen := body.length, mbState := 2 } }
  | .otarn src port typ seq replay =>
    s.sendVia 4 [] (s.mgtSource src) (s.mgtHop src) (s.plainFrame .bodkin (s.otarnFrame src port typ seq replay body) (s.untagPrio 4))

/-! Messages that read and write (R613). -/

/-- STATUS. Without a key of its own a message gets an open value for the last REPLAY. -/
def State.msgStatus (s : State) (via : ReplyTo) (body : List Byte) : State :=
  if body ≠ [] then s.respond via 0x10 [] else
  let words := [0x0448ED01#32, s.tbMode, s.tbStatus, s.degradedWord, s.cfgStatus, s.mgtStat, s.mgt.fwVer, s.updStat]
  let data := words.flatMap fun w => leBytes 4 w.toNat
  match via with
  | .otarn _ _ _ _ replay => if s.mgt.recovery then s.draw.2.respond via 0 (data ++ leBytes 6 s.draw.1) else s.respond via 0 (data ++ leBytes 6 replay)
  | .mailbox => s.draw.2.respond via 0 (data ++ leBytes 6 s.draw.1)

/-- Whether `n` registers from an offset are aligned and lie in BAR0. -/
def barOk (off n : Nat) : Bool := off % 4 == 0 && decide (off + 4 * n ≤ 0x1000000)

/-- `n` registers read in ascending order, with what each read latches or clears. -/
def State.readMany (s : State) : Nat → Nat → List Byte × State
  | _, 0 => ([], s)
  | off, n + 1 =>
    let s1 := s.readOn .otarn off
    let (bs, s2) := s1.readMany (off + 4) n
    (leBytes 4 (s1.latOf .otarn).lastRead.toNat ++ bs, s2)

/-- REG_READ. -/
def State.msgRegRead (s : State) (via : ReplyTo) (body : List Byte) : State :=
  let off := ofLe (body.take 4)
  let n := ofLe (slice body 4 2)
  if body.length ≠ 6 ∨ n < 1 ∨ 256 < n then s.respond via 0x10 []
  else if !barOk off n then s.respond via 0x12 []
  else
    let (bs, s1) := s.readMany off n
    s1.respond via 0 bs

/-- One register of REG_WRITE: a write of MGT_MBOX_CTL is noted, to be served when this command has ended (R615, R616). -/
def State.pairWrite (s : State) (w : Option W32) (off : Nat) (v : W32) : State × Option W32 :=
  if off ≠ 0x101000 then (s.writeReg off 15 v, w)
  else if s.noWrites || s.mgt.mbState == 1 then (s, w)
  else ({ s with mgt := { s.mgt with mbState := 1, mbToken := bitsOf v 31 16 } }, some v)

/-- Pairs carried out in order up to the first whose offset is refused: how many, and a mailbox command to serve. -/
def State.pairsWrite (s : State) (w : Option W32) (done : Nat) : List (Nat × W32) → State × Option W32 × Nat × Bool
  | [] => (s, w, done, true)
  | (off, v) :: rest =>
    if !barOk off 1 then (s, w, done, false) else
    let (s1, w1) := s.pairWrite w off v
    s1.pairsWrite w1 (done + 1) rest

/-- REG_WRITE, and the mailbox command that it wrote. -/
def State.msgRegWrite (s : State) (via : ReplyTo) (body : List Byte) : State × Option W32 :=
  let n := body.length / 8
  if body.length % 8 ≠ 0 ∨ n < 1 ∨ 128 < n then (s.respond via 0x10 [], none) else
  let pairs := (List.range n).map fun i => (ofLe (slice body (8 * i) 4), BitVec.ofNat 32 (ofLe (slice body (8 * i + 4) 4)))
  let (s1, w, done, ok) := s.pairsWrite none 0 pairs
  (s1.respond via (if ok then 0 else 0x12) (leBytes 2 done), w)

/-- LOG_READ. -/
def State.msgLogRead (s : State) (via : ReplyTo) (body : List Byte) : State :=
  let n := (body.getD 4 0).toNat
  if body.length ≠ 5 ∨ n < 1 ∨ 20 < n then s.respond via 0x10 [] else
  let l := (s.fe.log.filter fun r => decide (ofLe (body.take 4) ≤ r.seq)).take n
  s.respond via 0 (l.flatMap fun r => r.bytes (recLen r.typ))

/-! The update path (R601 to R606). -/

def State.setUpd (s : State) (f : UpdSt → UpdSt) : State := { s with mgt := { s.mgt with upd := f s.mgt.upd } }

/-- Bytes programmed into the flash; an erased byte reads 0xFF and is not listed. -/
def flashPut : List Host.Cell → Nat → List Byte → List Host.Cell
  | m, _, [] => m
  | m, a, b :: bs => flashPut (Assoc.putD 0xFF a b m) (a + 1) bs

def State.program (s : State) (a : Nat) (bs : List Byte) : State := { s with cfg := { s.cfg with flash := flashPut s.cfg.flash a bs } }

/-- A range of the flash erased. -/
def State.eraseFlash (s : State) (a n : Nat) : State :=
  { s with cfg := { s.cfg with flash := s.cfg.flash.filter fun c => decide (c.1 < a ∨ a + n ≤ c.1) } }

/-- The bytes of the sector that holds a header: the smallest erase of the flash. -/
def sectorBytes : Nat := 4096

/-- The UPDATE record of an operation that has ended (R600). -/
def State.logUpdate (s : State) (op k code : Nat) : State :=
  s.log 0x000A (leBytes 2 op ++ [BitVec.ofNat 8 k, BitVec.ofNat 8 code] ++ leBytes 4 (s.slotSeq k))

/-- What refuses an update operation: another running, or the mode (R601). -/
def State.updRefused (s : State) : Nat := if s.mgt.upd.busy then 0x25 else if s.noWrites then 0x24 else 0

/-- What refuses an update operation on a slot: the slot in use is not its to touch (R601, R602). -/
def State.slotRefused (s : State) (k : Nat) : Nat :=
  if s.updRefused ≠ 0 then s.updRefused
  else if k < 1 ∨ 2 < k then 0x12
  else if s.cfg.slot = k then 0x22
  else 0

/-- The answer still owed to a SLOT_VERIFY that a SAFE reaction ended (R604). -/
def State.settle (s : State) : State :=
  match s.mgt.upd.via with
  | some via => if s.mgt.upd.busy then s else (s.setUpd fun u => { u with via := none }).respond via 0x31 []
  | none => s

/-- SLOT_ERASE: answered once the erase has started, with the header's sector (R602). -/
def State.msgErase (s : State) (via : ReplyTo) (body : List Byte) : State :=
  let k := (body.getD 0 0).toNat
  if body.length ≠ 1 then s.respond via 0x10 []
  else if s.slotRefused k ≠ 0 then s.respond via (s.slotRefused k) []
  else
    let s1 := s.settle.eraseFlash (s.slotBase k) sectorBytes
    let s2 := s1.setUpd fun u => { u with st := 1, slot := k, code := 0, progress := 0, busy := true, verified := 0, hdr := List.replicate 32 0xFF }
    s2.respond via 0 []

/-- SLOT_ERASE_DONE. -/
def State.eraseDone (s : State) (ok : Bool) : State :=
  let u := s.mgt.upd
  if !(u.busy && u.st == 1) || s.fmu.halted then s else
  let s1 := if ok then s.eraseFlash (s.slotBase u.slot) s.slotSize else s
  let s2 := s1.setUpd fun u => { u with st := if ok then 0 else 6, code := if ok then 0 else 0x30, progress := if ok then 100 else u.progress, busy := false }
  s2.logUpdate 0x010 u.slot (if ok then 0 else 0x30)

/-- The code of a SLOT_WRITE of bytes at a slot offset that nothing refuses (R603). -/
def State.writeCode (s : State) (k off : Nat) (bs : List Byte) : Nat :=
  let cut := 32 - off
  let tail := bs.drop cut
  let old := s.flashRead (s.slotBase k + max 32 off) tail.length
  if s.slotSize < off + bs.length then 0x12
  else if !s.cfg.flashOk then 0x30
  else if (List.zipWith (fun (a b : Byte) => a &&& b == b) old tail).all id then 0 else 0x13

/-- SLOT_WRITE: the header's bytes go to its buffer, the others to the flash. -/
def State.msgWrite (s : State) (via : ReplyTo) (body : List Byte) : State :=
  let k := (body.getD 0 0).toNat
  let off := ofLe (slice body 4 4)
  let bs := body.drop 8
  if body.length < 9 ∨ 1032 < body.length then s.respond via 0x10 []
  else if s.slotRefused k ≠ 0 then s.respond via (s.slotRefused k) []
  else
    let c := s.writeCode k off bs
    let s1 := s.settle.setUpd fun u => { u with slot := k, code := c, st := if c = 0 then 0 else 6, verified := 0 }
    let s2 := if c ≠ 0 then s1.logUpdate 0x011 k c else
      let head := bs.take (32 - off)
      (s1.setUpd fun u => { u with hdr := splice u.hdr off head }).program (s.slotBase k + max 32 off) (bs.drop (32 - off))
    s2.respond via c []

/-- SEQ of the slot in use; none in recovery. -/
def State.seqInUse (s : State) : Nat := if s.cfg.slot = 0 then 0 else s.slotSeq s.cfg.slot

/-- The bytes of a slot from 0 to LENGTH + 95, its header taken from the header buffer (R604). -/
def State.slotImage (s : State) (k : Nat) (hdr : List Byte) : List Byte := hdr ++ s.flashRead (s.slotBase k + 32) (hdrLen hdr + 64)

/-- The firmware of a slot's image: its version and its bytes. -/
def State.slotFw (s : State) (k : Nat) (hdr : List Byte) : W32 × List Byte :=
  match parseImage s.cfg.fuses (s.slotImage k hdr) with
  | .ok g => ((fwSigned g.fw).getD 0, g.fw)
  | .error _ => (0, [])

/-- The result of verifying a slot (R604): the header and its SEQ, then steps 2 and 3 of R76. -/
def State.verifyCode (s : State) (k : Nat) (hdr : List Byte) : Nat :=
  if imgHeaderCode s.slotSize hdr ≠ 0 ∨ hdrSeq hdr ≤ s.seqInUse then 0x10 else
  let bs := s.slotImage k hdr
  match parseImage s.cfg.fuses bs with
  | .error c => c
  | .ok g => signaturesCode bs g

/-- The signature checks that a verification comes to: none where step 2 fails, and only the firmware's where that one fails. -/
def State.verifyChecks (s : State) (k : Nat) : Nat :=
  let c := s.verifyCode k s.mgt.upd.hdr
  if c = 0x23 then 1 else if c = 0 ∨ c = 0x20 then 2 else 0

/-- SLOT_VERIFY: the read of the idle slot begins; it is answered when it ends. -/
def State.msgVerify (s : State) (via : ReplyTo) (body : List Byte) : State :=
  let k := (body.getD 0 0).toNat
  if body.length ≠ 1 then s.respond via 0x10 []
  else if s.slotRefused k ≠ 0 then s.respond via (s.slotRefused k) []
  else
    let s1 := s.settle.setUpd fun u => { u with st := 3, slot := k, code := 0, progress := 0, busy := true, verified := 0, via := some via }
    s1.bodkinQueue (s.verifyChecks k)

/-- SLOT_VERIFY_DONE, once the checks on the cores have ended: the header programmed and VERIFIED set, or the check's code. -/
def State.verifyDone (s : State) (flashOk : Bool) : State :=
  let u := s.mgt.upd
  if s.fmu.halted then s
  else if !(u.busy && u.st == 3) then s.settle
  else if flashOk && s.bodkinHeld then s
  else
    let c := if flashOk && s.cfg.flashOk then s.verifyCode u.slot u.hdr else 0x30
    let good := c = 0
    let ver : W32 := if good then (s.slotFw u.slot u.hdr).1 else 0
    let s1 := if good then s.program (s.slotBase u.slot) u.hdr else s
    let s2 := s1.setUpd fun u => { u with st := if good then 4 else 6, code := c, progress := 100, busy := false, via := none,
                                          verified := if good then u.slot else 0, fw := ver }
    let s3 := s2.logUpdate 0x012 u.slot c
    match u.via with
    | some via => s3.respond via (if c = 0x30 then 0x30 else 0) ([BitVec.ofNat 8 c, 0, 0, 0] ++ leBytes 4 (hdrSeq u.hdr) ++ leBytes 4 ver.toNat)
    | none => s3

/-! The firmware swap (R39, R605, R606). -/

/-- What refuses a FW_SWAP, in the order in which its rules stand. -/
def State.swapRefused (s : State) : Nat :=
  let u := s.mgt.upd
  if s.updRefused ≠ 0 then s.updRefused
  else if !s.md.mode.running then 0x24
  else if u.verified = 0 then 0x23
  else if !Config.fwHandover s.mgt.fwVer (s.slotFw u.verified u.hdr).2 then 0x26
  else 0

/-- FW_SWAP: MAINTAIN granted, and the swap begun. -/
def State.msgSwap (s : State) (via : ReplyTo) (body : List Byte) : State :=
  if body ≠ [] then s.respond via 0x10 []
  else if s.swapRefused ≠ 0 then
    (if s.swapRefused = 0x24 then s.refuseReq else s).respond via s.swapRefused []
  else
    let s1 := (s.settle.grantMaintain true).setUpd fun u => { u with st := 5, slot := u.verified, code := 0, progress := 0, busy := true }
    (s1.respond via 0 []).bodkinQueue 1

/-- The FW_SWAP record (R600). -/
def State.logSwap (s : State) (result : Nat) (old new : W32) : State :=
  s.log 0x0006 ([BitVec.ofNat 8 result, 0, 0, 0] ++ leBytes 4 old.toNat ++ leBytes 4 new.toNat)

/-- FW_READY: within 2 s of MAINTAIN's beginning, its signature checked, the new firmware has taken the handover block, and the work
of MAINTAIN has ended (R39, R605). -/
def State.fwReady (s : State) : State :=
  let u := s.mgt.upd
  match s.md.mode, s.md.maint with
  | .maintain, some m =>
    let late := m.boundHit || decide (m.began + 2 * nsPerSec ≤ s.now)
    if !m.swap || m.ended || late || s.bodkinHeld || !(u.busy && u.st == 5) || s.fmu.halted then s else
    let s1 := { s with md := { s.md with maint := some { m with ended := true } }, mgt := { s.mgt with fwSlot := u.slot, fwVer := u.fw } }
    (s1.setUpd fun u => { u with st := 4, code := 0, progress := 100, busy := false }).logSwap 0 s.mgt.fwVer u.fw
  | _, _ => s

/-- FW_SWAP_REVERT: 2 s after MAINTAIN began without that signal, the slot's header is spoilt and Bodkin runs its old firmware; which
of the codes of a failed update MGT_UPD_STAT shows, 0x30 or 0x31, is a free value (R39, R606, R622; log 91). -/
def State.swapRevert (s : State) : State :=
  let u := s.mgt.upd
  let due := match s.md.maint with
    | some m => m.swap && decide (m.began + 2 * nsPerSec ≤ s.now)
    | none => true
  let live := u.busy && u.st == 5 || (s.md.maint.map fun (m : Maint) => m.swap && !m.ended && !m.boundHit).getD false
  if !live || !due || s.fmu.halted then s else
  let s1 := { (s.program (s.slotBase u.slot) (zeros 4)) with
    fresh := s.fresh + 1, md := { s.md with maint := s.md.maint.map fun (m : Maint) => { m with boundHit := true } } }
  (s1.setUpd fun u => { u with st := 6, code := 0x30 + s.draw.1 % 2, busy := false, verified := 0 }).logSwap 1 s.mgt.fwVer u.fw

/-! RESTART and OFFLINE_TEST (R38, R43, R579). -/

/-- RESTART: answered, then carried out as TB_MODE_REQ lays down; a request refused sets REQ_REFUSED. -/
def State.msgRestart (s : State) (via : ReplyTo) (body : List Byte) : State :=
  let r := body.getD 0 0
  if body.length ≠ 1 then s.respond via 0x10 []
  else if r = 1 ∧ s.md.mode.running ∧ !s.md.drain then (s.respond via 0 []).beginDrain
  else if r = 2 ∧ s.md.mode = .safe then (s.respond via 0 []).safeReq
  else s.refuseReq.respond via 0x24 []

/-- OFFLINE_TEST: MAINTAIN granted, and the first island taken. -/
def State.msgOffline (s : State) (via : ReplyTo) (body : List Byte) : State :=
  let n := ofLe (body.take 2)
  if body.length ≠ 2 ∨ n < 1 ∨ 60 < n then s.respond via 0x10 []
  else if !s.md.mode.running then s.refuseReq.respond via 0x24 []
  else
    let s1 := (s.grantMaintain false).respond via 0 []
    ({ s1 with md := { s1.md with maint := s1.md.maint.map fun (m : Maint) => { m with bound := n * nsPerSec } } }).offlineNext

/-! Otarn (R608 to R612) and the mailbox (R615). -/

/-- A source address in 16 bytes. -/
def mapped (a : List Byte) : List Byte := if a.length = 16 then a else padTo 16 (zeros 10 ++ [0xFF, 0xFF] ++ a)

/-- A datagram dropped in silence (R609, R600). -/
def State.otarnDrop (s : State) (src : List Byte) : State :=
  ({ s with mgt := { s.mgt with otDrops := s.mgt.otDrops + 1, otSrc := mapped src } }).count 0x100208

/-- A datagram counted into its second of Warp. -/
def State.otarnArrive (s : State) : State :=
  let m := s.mgt
  { s with mgt := { m with otSec := s.secNow, otCount := if m.otSec = s.secNow then m.otCount + 1 else 1 } }

/-- The last accepted REPLAY of a key (R610). -/
def State.lastReplay (s : State) (key : List Byte) : Nat := ((s.fe.replay.find? fun e => e.1 == sha256 key).map (·.2)).getD 0

/-- A REPLAY accepted: the 64 newest keys keep their entries. -/
def State.putReplay (s : State) (key : List Byte) (v : Nat) : State :=
  let h := sha256 key
  let l := s.fe.replay
  let l1 := if l.any (fun e => e.1 == h) then l.map (fun e => if e.1 == h then (h, v) else e) else l ++ [(h, v)]
  { s with fe := { s.fe with replay := l1.drop (l1.length - 64) } }

/-- Whether the MGT port answers at an address of this family: Otarn on, IPv4 only when enabled (R607, R620). -/
def State.otarnHears (s : State) (src : List Byte) : Bool :=
  s.bit 0x100010 31 && (s.port 4).link && (src.length == 16 || (src.length == 4 && s.bit 0x100010 30 && !s.mgt.recovery))

/-- A datagram processed up to its signature check, which Bodkin's queue takes (R522, R609), and in recovery as R614 lays down; `sub`
tells which bodies are in the recovery subset. A datagram whose CODE is another message's is not this command's. -/
def State.datagram (s : State) (known : Nat → Bool) (sub : List Byte → Bool) (bytes src : List Byte) (port hop : Nat)
    (act : State → ReplyTo → List Byte → State) : State :=
  let typ := ofLe (bytes.take 2)
  let len := ofLe (slice bytes 4 2)
  if s.fmu.halted || !s.otarnHears src || (decide (12 ≤ bytes.length) && !known (typ % 4096)) then s else
  let s1 := s.otarnArrive
  let replay := ofLe (slice bytes 6 6)
  let via := ReplyTo.otarn src port typ (ofLe (slice bytes 2 2)) replay
  let body := slice bytes 12 len
  if bytes.length ≠ 76 + len ∨ 2 ^ 15 ≤ typ ∨ s1.fld 0x100010 9 0 < s1.mgt.otCount then s1.otarnDrop src
  else if s1.mgt.recovery then
    if !isLinkLocal src || hop != 255 then s1.otarnDrop src
    else if sub body then act (s1.count 0x100200) via body
    else (s1.count 0x100200).respond via 0x11 []
  else match s1.mgt.otarnKeys[typ / 4096 % 8]? with
    | none => s1.otarnDrop src
    | some key =>
      let s2 := s1.bodkinPut (otarnCheck key (bytes.take (12 + len)) (bytes.drop (12 + len)))
      { s2 with mgt := { s2.mgt with otWait := s2.mgt.otWait ++ [{ index := s1.bodkinNext, bytes := bytes, src := src, port := port }] } }

/-- The codes of R613. -/
def messageCodes : List Nat := [0x001, 0x002, 0x003, 0x004, 0x010, 0x011, 0x012, 0x013, 0x020, 0x021]

/-- A mailbox command taken: the write of MGT_MBOX_CTL, discarded while one is busy (R615). -/
def State.mboxTake (s : State) (token : Nat) : State := { s with mgt := { s.mgt with mbToken := token, mbState := 1 } }

/-- A mailbox command already taken, served: never by a halted Bodkin. -/
def State.mboxServe (s : State) (sub : List Byte → Bool) (act : State → ReplyTo → List Byte → State) : State :=
  if s.fmu.halted then s else
  let len := s.fld 0x101008 10 0
  let body := s.mgt.mbox.take len
  if s.mgt.recovery && !sub body then s.respond .mailbox 0x11 []
  else if 1400 < len then s.respond .mailbox 0x10 []
  else act s .mailbox body

/-- A message by the way it came. -/
def State.message (s : State) (known : Nat → Bool) (sub : List Byte → Bool) (c : Carrier) (act : State → ReplyTo → List Byte → State) : State :=
  match c with
  | .mailbox token => if s.noWrites || s.mgt.mbState == 1 then s else (s.mboxTake token.toNat).mboxServe sub act
  | .datagram bytes src port hop => s.datagram known sub bytes src port hop act

/-- In recovery, or not (R613). -/
def inSubset (_ : List Byte) : Bool := true
def notInSubset (_ : List Byte) : Bool := false

/-- Whether a message is in the recovery subset (R613). -/
def inRecovery (code : Nat) (b : List Byte) : Bool := [0x001, 0x004, 0x010, 0x011, 0x012].contains code || (code == 0x020 && b.getD 0 0 == 2)

/-- A message carried out by its CODE (R613). -/
def State.messageAct (s : State) (code : Nat) (via : ReplyTo) (body : List Byte) : State :=
  match code with
  | 0x001 => s.msgStatus via body
  | 0x002 => s.msgRegRead via body
  | 0x003 => (s.msgRegWrite via body).1
  | 0x004 => s.msgLogRead via body
  | 0x010 => s.msgErase via body
  | 0x011 => s.msgWrite via body
  | 0x012 => s.msgVerify via body
  | 0x013 => s.msgSwap via body
  | 0x020 => s.msgRestart via body
  | 0x021 => s.msgOffline via body
  | _ => s.respond via 0x11 []

/-- A mailbox command served by its CODE. -/
def State.mboxRun (s : State) (code : Nat) : State := s.mboxServe (inRecovery code) fun s via b => s.messageAct code via b

/-- REG_WRITE, then the mailbox command that it wrote, in order of arrival (R616). -/
def State.regWriteThen (s : State) (via : ReplyTo) (body : List Byte) : State :=
  match s.msgRegWrite via body with
  | (s1, some v) => s1.mboxRun (bitsOf v 11 0)
  | (s1, none) => s1

/-- A register written through an access path: MGT_MBOX_CTL takes and serves a mailbox command. -/
def State.registerWrite (s : State) (off : Nat) (be : BitVec 4) (v : W32) : State :=
  if off = 0x101000 ∧ be = 15 then
    if s.noWrites || s.mgt.mbState == 1 then s else (s.mboxTake (bitsOf v 31 16)).mboxRun (bitsOf v 11 0)
  else s.writeReg off be v

/-- A datagram whose signature has verified under a key, carried out from REPLAY on (R609). -/
def State.otarnRun (s : State) (w : OtWait) (key : List Byte) : State :=
  let typ := ofLe (w.bytes.take 2)
  let replay := ofLe (slice w.bytes 6 6)
  let via := ReplyTo.otarn w.src w.port typ (ofLe (slice w.bytes 2 2)) replay
  let body := slice w.bytes 12 (ofLe (slice w.bytes 4 2))
  if replay ≤ s.lastReplay key then (s.count 0x100210).respond via 0x21 (leBytes 6 (s.lastReplay key))
  else
    let s1 := (s.putReplay key replay).count 0x100200
    if typ % 4096 = 0x003 then s1.regWriteThen via body else s1.messageAct (typ % 4096) via body

/-- The signature check of an Otarn command ended: the command is carried out, or dropped in silence; a halted Bodkin does neither. -/
def State.otarnChecked (s : State) (o : PkeOp) : State :=
  match s.mgt.otWait.find? (fun w => w.index == o.index) with
  | none => s
  | some w =>
    let s1 := s.otarnLose o.index
    if s1.fmu.halted then s1
    else if o.code ≠ 0 ∨ o.data.headD 0 ≠ 1 then s1.otarnDrop w.src
    else s1.otarnRun w ((pkeCmd o.bytes).arg 0)

/-- PKE_RESULT_RELEASE, and what the check of an Otarn command leads to (R522, R609). -/
def State.resultRelease (s : State) (core : Nat) (redundantOk : Bool) : State :=
  let s1 := s.pkeRelease core redundantOk
  match s.pke.ops.find? (fun o => o.core == some core) with
  | some o => if o.bod && !s1.pke.ops.any (fun x => x.core == some core) then s1.otarnChecked o else s1
  | none => s1

/-- OTARN_DROP_RECORD: at most one in each second (R600). -/
def State.dropRecord (s : State) : State :=
  let due := match s.fe.dropRecAt with
    | some t => decide (t + nsPerSec ≤ s.now)
    | none => true
  if s.mgt.otDrops = 0 ∨ !due ∨ s.fmu.halted then s else
  let s1 := s.log 0x000B (leBytes 4 s.mgt.otDrops ++ s.mgt.otSrc)
  { s1 with fe := { s1.fe with dropRecAt := some s.now }, mgt := { s1.mgt with otDrops := 0 } }

def execPkeResultRelease (core : Nat) (redundantOk : Bool) (s : State) : Host.Outcome State Fault Refusal :=
  .next (s.resultRelease core redundantOk)
def execRegisterWrite (_p : Path) (off : Nat) (be : BitVec 4) (v : W32) (s : State) : Host.Outcome State Fault Refusal :=
  .next (s.registerWrite off be v)
def execSensorScan (temps : List Int) (rails : List Nat) (s : State) : Host.Outcome State Fault Refusal := .next (s.sensorScan temps rails)
def execStatus (c : Carrier) (s : State) : Host.Outcome State Fault Refusal := .next (s.message (· == 0x001) inSubset c State.msgStatus)
def execRegRead (c : Carrier) (s : State) : Host.Outcome State Fault Refusal := .next (s.message (· == 0x002) notInSubset c State.msgRegRead)
def execRegWrite (c : Carrier) (s : State) : Host.Outcome State Fault Refusal := .next (s.message (· == 0x003) notInSubset c State.regWriteThen)
def execLogRead (c : Carrier) (s : State) : Host.Outcome State Fault Refusal := .next (s.message (· == 0x004) inSubset c State.msgLogRead)
def execSlotErase (c : Carrier) (s : State) : Host.Outcome State Fault Refusal := .next (s.message (· == 0x010) inSubset c State.msgErase)
def execSlotEraseDone (ok : Bool) (s : State) : Host.Outcome State Fault Refusal := .next (s.eraseDone ok)
def execSlotWrite (c : Carrier) (s : State) : Host.Outcome State Fault Refusal := .next (s.message (· == 0x011) inSubset c State.msgWrite)
def execSlotVerify (c : Carrier) (s : State) : Host.Outcome State Fault Refusal := .next (s.message (· == 0x012) inSubset c State.msgVerify)
def execSlotVerifyDone (flashOk : Bool) (s : State) : Host.Outcome State Fault Refusal := .next (s.verifyDone flashOk)
def execFwSwap (c : Carrier) (s : State) : Host.Outcome State Fault Refusal := .next (s.message (· == 0x013) notInSubset c State.msgSwap)
def execFwReady (s : State) : Host.Outcome State Fault Refusal := .next s.fwReady
def execFwSwapRevert (s : State) : Host.Outcome State Fault Refusal := .next s.swapRevert
def execRestart (c : Carrier) (s : State) : Host.Outcome State Fault Refusal :=
  .next (s.message (· == 0x020) (fun b => b.getD 0 0 == 2) c State.msgRestart)
def execOfflineTest (c : Carrier) (s : State) : Host.Outcome State Fault Refusal := .next (s.message (· == 0x021) notInSubset c State.msgOffline)
def execOtarnUndefinedCode (c : Carrier) (s : State) : Host.Outcome State Fault Refusal :=
  .next (s.message (fun k => !messageCodes.contains k) notInSubset c fun s via _ => s.respond via 0x11 [])
def execOtarnDropRecord (s : State) : Host.Outcome State Fault Refusal := .next s.dropRecord
def execI2cPointerWrite (b : Byte) (s : State) : Host.Outcome State Fault Refusal := .next (s.i2cPoint b)
def execI2cRead (count : Nat) (s : State) : Host.Outcome State Fault Refusal := .next (s.i2cRead count)

end Sys2Proof.Machine
end

