-- ==== Sys2Proof/Machine/Dispatch.lean ====
section
/-! DEFINITION. One arm for each command: its meaning. -/

namespace Sys2Proof.Machine

open Sys2Proof

/-- The effect of a command on everything but the queue. -/
def exec (i : Instr) (s : State) : Host.Outcome State Fault Refusal :=
  match i with
  | .registerWrite p off be v => Sys2Proof.Machine.execRegisterWrite p off be v s
  | .powerOnReset rails => Sys2Proof.Machine.execPowerOnReset rails s
  | .resetNAssert lowNs => Sys2Proof.Machine.execResetNAssert lowNs s
  | .resetNRelease strap => Sys2Proof.Machine.execResetNRelease strap s
  | .pllLock => Sys2Proof.Machine.execPllLock s
  | .glbReset p v => Sys2Proof.Machine.execGlbReset p v s
  | .deviceReset => Sys2Proof.Machine.execDeviceReset s
  | .droopStretchStart mv => Sys2Proof.Machine.execDroopStretchStart mv s
  | .droopRecover mv => Sys2Proof.Machine.execDroopRecover mv s
  | .stretchEnd => Sys2Proof.Machine.execStretchEnd s
  | .droopRecord => Sys2Proof.Machine.execDroopRecord s
  | .droopHeavyEval => Sys2Proof.Machine.execDroopHeavyEval s
  | .modeEvaluation => Sys2Proof.Machine.execModeEvaluation s
  | .bootTimeout => Sys2Proof.Machine.execBootTimeout s
  | .calibrateTimeout => Sys2Proof.Machine.execCalibrateTimeout s
  | .orderlyRestartReq => Sys2Proof.Machine.execOrderlyRestartReq s
  | .safeRestartReq => Sys2Proof.Machine.execSafeRestartReq s
  | .drainTimeout => Sys2Proof.Machine.execDrainTimeout s
  | .drainReset => Sys2Proof.Machine.execDrainReset s
  | .safeAutoRestart => Sys2Proof.Machine.execSafeAutoRestart s
  | .maintainBound => Sys2Proof.Machine.execMaintainBound s
  | .fwSwapRevert => Sys2Proof.Machine.execFwSwapRevert s
  | .slotLoad pufOk faultA faultB => Sys2Proof.Machine.execSlotLoad pufOk faultA faultB s
  | .commit b token => Sys2Proof.Machine.execCommit b token s
  | .check b token => Sys2Proof.Machine.execCheck b token s
  | .revert b token => Sys2Proof.Machine.execRevert b token s
  | .commitValidated b intact => Sys2Proof.Machine.execCommitValidated b intact s
  | .commitApply b intact => Sys2Proof.Machine.execCommitApply b intact s
  | .timeLatchRead p => Sys2Proof.Machine.execTimeLatchRead p s
  | .weftLatchRead p => Sys2Proof.Machine.execWeftLatchRead p s
  | .weftLoad lSync => Sys2Proof.Machine.execWeftLoad lSync s
  | .weftSteer => Sys2Proof.Machine.execWeftSteer s
  | .tbSet token => Sys2Proof.Machine.execTbSet token s
  | .tbStep token => Sys2Proof.Machine.execTbStep token s
  | .tbSlew token => Sys2Proof.Machine.execTbSlew token s
  | .tbCancel token => Sys2Proof.Machine.execTbCancel token s
  | .stepCheckDone warpIntact weftIntact => Sys2Proof.Machine.execStepCheckDone warpIntact weftIntact s
  | .stepApply warpStands weftStands => Sys2Proof.Machine.execStepApply warpStands weftStands s
  | .slewMsTick => Sys2Proof.Machine.execSlewMsTick s
  | .tacCalibration hits => Sys2Proof.Machine.execTacCalibration hits s
  | .stakeCalibration n main alt => Sys2Proof.Machine.execStakeCalibration n main alt s
  | .outputCalibration => Sys2Proof.Machine.execOutputCalibration s
  | .tacBgCalDone g hits => Sys2Proof.Machine.execTacBgCalDone g hits s
  | .tacRotate g => Sys2Proof.Machine.execTacRotate g s
  | .tinEdge n falling code => Sys2Proof.Machine.execTinEdge n falling code s
  | .captureBufferWrite n => Sys2Proof.Machine.execCaptureBufferWrite n s
  | .measurementTruncate n => Sys2Proof.Machine.execMeasurementTruncate n s
  | .tinArm mask => Sys2Proof.Machine.execTinArm mask s
  | .tinDisarm mask => Sys2Proof.Machine.execTinDisarm mask s
  | .registerReaderEnable => Sys2Proof.Machine.execRegisterReaderEnable s
  | .tinRecRead p => Sys2Proof.Machine.execTinRecRead p s
  | .tinMark => Sys2Proof.Machine.execTinMark s
  | .tinRewind => Sys2Proof.Machine.execTinRewind s
  | .tinClear => Sys2Proof.Machine.execTinClear s
  | .refMeasurement id m => Sys2Proof.Machine.execRefMeasurement id m s
  | .refActivityTimeout id k => Sys2Proof.Machine.execRefActivityTimeout id k s
  | .todinMessage baud bytes => Sys2Proof.Machine.execTodinMessage baud bytes s
  | .selectorEvaluation => Sys2Proof.Machine.execSelectorEvaluation s
  | .ensembleUpdate => Sys2Proof.Machine.execEnsembleUpdate s
  | .wtrCountdown => Sys2Proof.Machine.execWtrCountdown s
  | .endWtr token id => Sys2Proof.Machine.execEndWtr token id s
  | .forget token id => Sys2Proof.Machine.execForget token id s
  | .servoUpdate => Sys2Proof.Machine.execServoUpdate s
  | .fastlockHalve => Sys2Proof.Machine.execFastlockHalve s
  | .spliceWindowEnd => Sys2Proof.Machine.execSpliceWindowEnd s
  | .holdoverModelFit => Sys2Proof.Machine.execHoldoverModelFit s
  | .modelCopyWrite => Sys2Proof.Machine.execModelCopyWrite s
  | .holdoverPredict => Sys2Proof.Machine.execHoldoverPredict s
  | .forgetModel token => Sys2Proof.Machine.execForgetModel token s
  | .ppsEdge m => Sys2Proof.Machine.execPpsEdge m s
  | .ppsPulseEnd m => Sys2Proof.Machine.execPpsPulseEnd m s
  | .ppsInputLost m => Sys2Proof.Machine.execPpsInputLost m s
  | .outputUnmute o => Sys2Proof.Machine.execOutputUnmute o s
  | .clkoutRealign n => Sys2Proof.Machine.execClkoutRealign n s
  | .clkoutMonitorTrip n counted => Sys2Proof.Machine.execClkoutMonitorTrip n counted s
  | .todMessageSend => Sys2Proof.Machine.execTodMessageSend s
  | .gppsPulse => Sys2Proof.Machine.execGppsPulse s
  | .feScriptRun miso => Sys2Proof.Machine.execFeScriptRun miso s
  | .agcRead miso => Sys2Proof.Machine.execAgcRead miso s
  | .agcMonitorReport a b => Sys2Proof.Machine.execAgcMonitorReport a b s
  | .channelPlacement almanacs sats => Sys2Proof.Machine.execChannelPlacement almanacs sats s
  | .channelDetect ch peak1 peak2 code bin => Sys2Proof.Machine.execChannelDetect ch peak1 peak2 code bin s
  | .searchExhausted ch => Sys2Proof.Machine.execSearchExhausted ch s
  | .pullinLock ch => Sys2Proof.Machine.execPullinLock ch s
  | .pullinTimeout ch => Sys2Proof.Machine.execPullinTimeout ch s
  | .syncFound ch => Sys2Proof.Machine.execSyncFound ch s
  | .towDecoded ch => Sys2Proof.Machine.execTowDecoded ch s
  | .channelLost ch => Sys2Proof.Machine.execChannelLost ch s
  | .lostRefound ch => Sys2Proof.Machine.execLostRefound ch s
  | .lostTimeout ch => Sys2Proof.Machine.execLostTimeout ch s
  | .cycleSlip ch => Sys2Proof.Machine.execCycleSlip ch s
  | .epochStrobe code latch => Sys2Proof.Machine.execEpochStrobe code latch s
  | .gnssSolution sol => Sys2Proof.Machine.execGnssSolution sol s
  | .exclusionExpire k => Sys2Proof.Machine.execExclusionExpire k s
  | .integClearExpire => Sys2Proof.Machine.execIntegClearExpire s
  | .integGoodReturn => Sys2Proof.Machine.execIntegGoodReturn s
  | .recordSetLock p => Sys2Proof.Machine.execRecordSetLock p s
  | .gnsStatLatch p => Sys2Proof.Machine.execGnsStatLatch p s
  | .resurvey token => Sys2Proof.Machine.execResurvey token s
  | .rerunScript token => Sys2Proof.Machine.execRerunScript token s
  | .coldStart token => Sys2Proof.Machine.execColdStart token s
  | .checkinSleep => Sys2Proof.Machine.execCheckinSleep s
  | .checkinWake => Sys2Proof.Machine.execCheckinWake s
  | .checkinEarlyWake => Sys2Proof.Machine.execCheckinEarlyWake s
  | .frameReceive n f => Sys2Proof.Machine.execFrameReceive n f s
  | .pauseReceive n quanta => Sys2Proof.Machine.execPauseReceive n quanta s
  | .pfcReceive n enable quanta => Sys2Proof.Machine.execPfcReceive n enable quanta s
  | .pauseExpire n prio => Sys2Proof.Machine.execPauseExpire n prio s
  | .xoffRepeat n => Sys2Proof.Machine.execXoffRepeat n s
  | .xonSend n => Sys2Proof.Machine.execXonSend n s
  | .pauseWatchdog n prio => Sys2Proof.Machine.execPauseWatchdog n prio s
  | .xoffWatchdog n => Sys2Proof.Machine.execXoffWatchdog n s
  | .holdoffExpire n prio rx => Sys2Proof.Machine.execHoldoffExpire n prio rx s
  | .esmcReceive n ssm tlv => Sys2Proof.Machine.execEsmcReceive n ssm tlv s
  | .esmcInfoSend n => Sys2Proof.Machine.execEsmcInfoSend n s
  | .preemptVerifySend n => Sys2Proof.Machine.execPreemptVerifySend n s
  | .preemptRespondReceive n => Sys2Proof.Machine.execPreemptRespondReceive n s
  | .classifierRuleWrite k w v => Sys2Proof.Machine.execClassifierRuleWrite k w v s
  | .parkEvaluation => Sys2Proof.Machine.execParkEvaluation s
  | .parkApply => Sys2Proof.Machine.execParkApply s
  | .speedStepDown n => Sys2Proof.Machine.execSpeedStepDown n s
  | .speedStepUp n => Sys2Proof.Machine.execSpeedStepUp n s
  | .speedStepFail n => Sys2Proof.Machine.execSpeedStepFail n s
  | .linkUp n speed fec => Sys2Proof.Machine.execLinkUp n speed fec s
  | .linkDown n => Sys2Proof.Machine.execLinkDown n s
  | .trackerConversion n kind word code => Sys2Proof.Machine.execTrackerConversion n kind word code s
  | .syncePhaseDeliver n => Sys2Proof.Machine.execSyncePhaseDeliver n s
  | .replicaUpdate n => Sys2Proof.Machine.execReplicaUpdate n s
  | .laneTake lane => Sys2Proof.Machine.execLaneTake lane s
  | .answerBuilt lane => Sys2Proof.Machine.execAnswerBuilt lane s
  | .frameCommit n word bit itemOk readBackOk eccOk => Sys2Proof.Machine.execFrameCommit n word bit itemOk readBackOk eccOk s
  | .frameSent n => Sys2Proof.Machine.execFrameSent n s
  | .keyRotation => Sys2Proof.Machine.execKeyRotation s
  | .rotate token => Sys2Proof.Machine.execRotate token s
  | .cookieMint => Sys2Proof.Machine.execCookieMint s
  | .mintComplete => Sys2Proof.Machine.execMintComplete s
  | .syncSend n slot => Sys2Proof.Machine.execSyncSend n slot s
  | .announceSend n inst => Sys2Proof.Machine.execAnnounceSend n inst s
  | .pdelayReqSend n inst => Sys2Proof.Machine.execPdelayReqSend n inst s
  | .ptpMessageReceive lane => Sys2Proof.Machine.execPtpMessageReceive lane s
  | .unicastNegotiation lane => Sys2Proof.Machine.execUnicastNegotiation lane s
  | .delayReq lane => Sys2Proof.Machine.execDelayReq lane s
  | .pdelayReqReceive lane => Sys2Proof.Machine.execPdelayReqReceive lane s
  | .pdelayRespFollowUp n => Sys2Proof.Machine.execPdelayRespFollowUp n s
  | .peerDelayComplete lane => Sys2Proof.Machine.execPeerDelayComplete lane s
  | .clientAnnounce lane => Sys2Proof.Machine.execClientAnnounce lane s
  | .clientSync lane => Sys2Proof.Machine.execClientSync lane s
  | .clientDelayResp lane => Sys2Proof.Machine.execClientDelayResp lane s
  | .clientGrantRenew n => Sys2Proof.Machine.execClientGrantRenew n s
  | .grantExpire n g => Sys2Proof.Machine.execGrantExpire n g s
  | .clientGmTimeout n => Sys2Proof.Machine.execClientGmTimeout n s
  | .cancelGrants token n => Sys2Proof.Machine.execCancelGrants token n s
  | .restartClient token n => Sys2Proof.Machine.execRestartClient token n s
  | .hifReset linkLost => Sys2Proof.Machine.execHifReset linkLost s
  | .rxTailWrite r v => Sys2Proof.Machine.execRxTailWrite r v s
  | .txTailWrite r v => Sys2Proof.Machine.execTxTailWrite r v s
  | .cqTailWrite q v => Sys2Proof.Machine.execCqTailWrite q v s
  | .hostFrameDeliver r entries eccOk => Sys2Proof.Machine.execHostFrameDeliver r entries eccOk s
  | .ringWaitExpire r => Sys2Proof.Machine.execRingWaitExpire r s
  | .hostFrameTransmit r entries => Sys2Proof.Machine.execHostFrameTransmit r entries s
  | .txComplete r => Sys2Proof.Machine.execTxComplete r s
  | .commandFetch q e => Sys2Proof.Machine.execCommandFetch q e s
  | .abort q index => Sys2Proof.Machine.execAbort q index s
  | .abortAll q => Sys2Proof.Machine.execAbortAll q s
  | .evsRecordDeliver => Sys2Proof.Machine.execEvsRecordDeliver s
  | .evsHostRdWrite v => Sys2Proof.Machine.execEvsHostRdWrite v s
  | .evsMark => Sys2Proof.Machine.execEvsMark s
  | .evsRewind => Sys2Proof.Machine.execEvsRewind s
  | .evsClear => Sys2Proof.Machine.execEvsClear s
  | .msixMessage v => Sys2Proof.Machine.execMsixMessage v s
  | .ptmReq token => Sys2Proof.Machine.execPtmReq token s
  | .ptmAuto => Sys2Proof.Machine.execPtmAuto s
  | .ptmResponse master turn => Sys2Proof.Machine.execPtmResponse master turn s
  | .ptmTimeout => Sys2Proof.Machine.execPtmTimeout s
  | .ptmResultLatch p => Sys2Proof.Machine.execPtmResultLatch p s
  | .modexp core => Sys2Proof.Machine.execModexp core s
  | .rsaPriv core => Sys2Proof.Machine.execRsaPriv core s
  | .ecdh core => Sys2Proof.Machine.execEcdh core s
  | .ecdhEph core => Sys2Proof.Machine.execEcdhEph core s
  | .ecdsaSign core => Sys2Proof.Machine.execEcdsaSign core s
  | .ecdsaVerify core => Sys2Proof.Machine.execEcdsaVerify core s
  | .eddsaSign core => Sys2Proof.Machine.execEddsaSign core s
  | .eddsaVerify core => Sys2Proof.Machine.execEddsaVerify core s
  | .keygen core => Sys2Proof.Machine.execKeygen core s
  | .delete core => Sys2Proof.Machine.execDelete core s
  | .pubkey core => Sys2Proof.Machine.execPubkey core s
  | .pkeResultRelease core redundantOk => Sys2Proof.Machine.execPkeResultRelease core redundantOk s
  | .weftPeriodicCompare => Sys2Proof.Machine.execWeftPeriodicCompare s
  | .clockMonitorTrip d => Sys2Proof.Machine.execClockMonitorTrip d s
  | .railFault r mv => Sys2Proof.Machine.execRailFault r mv s
  | .tempFault => Sys2Proof.Machine.execTempFault s
  | .lockstepMismatch sram => Sys2Proof.Machine.execLockstepMismatch sram s
  | .heartbeatTimeout => Sys2Proof.Machine.execHeartbeatTimeout s
  | .faultPathFail a => Sys2Proof.Machine.execFaultPathFail a s
  | .faultReport tag => Sys2Proof.Machine.execFaultReport tag s
  | .stormWindowClose => Sys2Proof.Machine.execStormWindowClose s
  | .memoryScrubDone m ok => Sys2Proof.Machine.execMemoryScrubDone m ok s
  | .rotatingPassStart => Sys2Proof.Machine.execRotatingPassStart s
  | .passScanStart k => Sys2Proof.Machine.execPassScanStart k s
  | .passEnd k signatureOk restoreOk => Sys2Proof.Machine.execPassEnd k signatureOk restoreOk s
  | .test token k => Sys2Proof.Machine.execTest token k s
  | .clearRetired token k => Sys2Proof.Machine.execClearRetired token k s
  | .sensorScan temps rails => Sys2Proof.Machine.execSensorScan temps rails s
  | .status c => Sys2Proof.Machine.execStatus c s
  | .regRead c => Sys2Proof.Machine.execRegRead c s
  | .regWrite c => Sys2Proof.Machine.execRegWrite c s
  | .logRead c => Sys2Proof.Machine.execLogRead c s
  | .slotErase c => Sys2Proof.Machine.execSlotErase c s
  | .slotEraseDone ok => Sys2Proof.Machine.execSlotEraseDone ok s
  | .slotWrite c => Sys2Proof.Machine.execSlotWrite c s
  | .slotVerify c => Sys2Proof.Machine.execSlotVerify c s
  | .fwSwap c => Sys2Proof.Machine.execFwSwap c s
  | .fwReady => Sys2Proof.Machine.execFwReady s
  | .restart c => Sys2Proof.Machine.execRestart c s
  | .offlineTest c => Sys2Proof.Machine.execOfflineTest c s
  | .otarnUndefinedCode c => Sys2Proof.Machine.execOtarnUndefinedCode c s
  | .otarnDropRecord => Sys2Proof.Machine.execOtarnDropRecord s
  | .i2cPointerWrite b => Sys2Proof.Machine.execI2cPointerWrite b s
  | .i2cRead count => Sys2Proof.Machine.execI2cRead count s
  | .railMinRead p k => Sys2Proof.Machine.execRailMinRead p k s
  | .mgtStatRead p => Sys2Proof.Machine.execMgtStatRead p s
  | .counterLatchRead p off => Sys2Proof.Machine.execCounterLatchRead p off s
  | .counterWrapClear off => Sys2Proof.Machine.execCounterWrapClear off s
  | .bwWindowEnd n => Sys2Proof.Machine.execBwWindowEnd n s
  | .bwStatLatch p n => Sys2Proof.Machine.execBwStatLatch p n s
  | .bwPeakRead p n => Sys2Proof.Machine.execBwPeakRead p n s
  | .userPageRead off bytes => Sys2Proof.Machine.execUserPageRead off bytes s
  | .jtagSamplePreload preload balls => Sys2Proof.Machine.execJtagSamplePreload preload balls s
  | .jtagExtest balls => Sys2Proof.Machine.execJtagExtest balls s
  | .jtagHighz => Sys2Proof.Machine.execJtagHighz s
  | .jtagClamp => Sys2Proof.Machine.execJtagClamp s
  | .jtagBypass code => Sys2Proof.Machine.execJtagBypass code s
  | .jtagTrst => Sys2Proof.Machine.execJtagTrst s
  | .leapEvent => Sys2Proof.Machine.execLeapEvent s
  | .offsetSlewEnd o => Sys2Proof.Machine.execOffsetSlewEnd o s
  | .pathAHeartbeatLoss => Sys2Proof.Machine.execPathAHeartbeatLoss s
  | .clientDelayReqSend n => Sys2Proof.Machine.execClientDelayReqSend n s
  | .pcieLinkUp speed width => Sys2Proof.Machine.execPcieLinkUp speed width s
  | .pcieConfigWrite w => Sys2Proof.Machine.execPcieConfigWrite w s
  | .slotVerifyDone flashOk => Sys2Proof.Machine.execSlotVerifyDone flashOk s
  | .scriptWaitExpire miso => Sys2Proof.Machine.execScriptWaitExpire miso s

end Sys2Proof.Machine
end

