-- ==== Sys2Proof/Machine/Tick.lean ====
section
/-! DEFINITION. What one cycle of CLK_TIME does with no command waiting (R98, R108, R125, R246, R255, R256, R336). -/

namespace Sys2Proof.Machine

open Sys2Proof

/-- How often CLK_WEFT runs against CLK_TIME, nominal 1 (R108): OSC_IN clocks both, CLK_TIME at the servo's frequency word, unless
OSC_AUX is fitted. -/
def State.weftClock (s : State) : Rat :=
  if s.auxFitted then Config.auxRatio s.now else 1 / (1 + s.srv.yCmd + s.slewFf)

/-- The advance of Weft on one CLK_WEFT cycle, in 2^-32 ns (R108, R112): 8 ns at the steering rate. -/
def State.weftAdvance (s : State) : Nat := (8 * 2 ^ 32 * (1 + s.weftRate / 10 ^ 9) * s.weftClock : Rat).floor.toNat

/-- Weft after one CLK_WEFT cycle: the first after A takes the change, adjusted for the time since A (R118). -/
def State.weftEdge (s : State) : Nat :=
  match s.tb.weftDue with
  | some c => match c.load with
    | some n => (n + (s.now - c.at_)) * 2 ^ 32
    | none => unsigned 96 ((s.tb.weftFix : Int) + s.weftAdvance + c.by_ * (2 ^ 32 : Nat))
  | none => s.tb.weftFix + s.weftAdvance

/-- A quantity moved toward its goal by at most a step. -/
def toward (x goal stp : Rat) : Rat := if goal < x then max goal (x - stp) else min goal (x + stp)

/-- OFS_SLEW as sns of movement for each nanosecond elapsed (R255, R272): its register counts ps/s. -/
def State.ofsStep (s : State) : Rat := (s.fld 0x80000 29 0 : Rat) * 65536 / 10 ^ 12

/-- The slews of the outputs over one cycle (R250, R255, R256); SLEWING falls with OFFSET_SLEW_END. -/
def State.slewOutputs (s : State) : State :=
  let k := s.ofsStep
  let pps := s.out.pps.mapIdx fun m p =>
    let goal : Rat := (s.pair (pBase m + 12) : Rat)
    let eff := toward p.eff goal k
    let inPhase := p.inPhase.map (fun x => toward x p.inGoal k)
    let moved := eff - p.eff + (if s.bit (pBase m) 29 then inPhase.getD 0 - p.inPhase.getD 0 else 0)
    { p with eff := eff, inPhase := inPhase, back := max 0 (-moved) }
  let clks := s.out.clks.mapIdx fun n c =>
    let goal : Rat := (signed 32 (s.reg (cBase n + 16)).toNat : Rat)
    let ph := toward c.phase goal (k * 1000 / 65536)
    { c with phase := ph, next := c.next + (ph - c.phase) / 1000 }
  { s with out := { s.out with pps := pps, clks := clks } }

/-- The clock outputs and CLK_GNSS over one cycle of CLK_TIME. -/
def State.runClocks (s : State) : State :=
  let gns := { s.gns with clkNext := if s.gns.clkNext ≤ (s.now : Rat) then s.gns.clkNext + gnssPeriod else s.gns.clkNext }
  { s with out := { s.out with clks := s.out.clks.mapIdx fun n c => s.clkTick n c }, gns := gns }

/-- What a cycle of CLK_TIME brings beside: a message or pulse that has just ended is muted where a change of mode waited for its
end (R53), and a whole second latches QERR (R270) and ends what a step left to be sent in the second before (R266). -/
def State.pulseEnds (s : State) : State :=
  let s1 := if s.now = s.out.todBusyUntil ∨ s.now = s.out.gppsHighUntil then s.applyMute else s
  if s1.nsNow = 0 then ({ s1 with out := { s1.out with todDue := false } }).latchGpps else s1

/-- One cycle of CLK_TIME. -/
def State.tick (s : State) : State :=
  let s1 := { s with now := s.now + 1 }
  if !s1.tb.running then s1 else
  let edge := s1.tb.weftPhase == 7
  let tb := { s1.tb with warp := s1.tb.warp + 1, weftPhase := (s1.tb.weftPhase + 1) % 8,
                         weftFix := if edge then s1.weftEdge else s1.tb.weftFix,
                         weftDue := if edge then none else s1.tb.weftDue }
  ({ s1 with tb := tb }).slewOutputs.runClocks.pulseEnds.redoPlacement

end Sys2Proof.Machine
end

