-- ==== Sys2Proof/Safety.lean ====
section
/-! DEFINITION. What the claims call a safe run, and the relations between a state and the next in which they are stated. -/

namespace Sys2Proof.Machine

open Sys2Proof

/-- A step that answers a next state. -/
def Steps (s t : State) : Prop := step s = .next t

/-- The keys of a sparse map rise strictly. -/
def Assoc.rising {α : Type} : Assoc α → Prop
  | [] => True
  | [_] => True
  | a :: b :: m => a.1 < b.1 ∧ Assoc.rising (b :: m)

/-- The sparse maps of the state are in their canonical form, so that equal contents are equal data. -/
def State.canonical (s : State) : Prop :=
  Assoc.wf regReset s.act = true ∧ Assoc.wf regReset s.stg = true ∧ Assoc.wf (fun _ => 0) s.ctr = true ∧
  Assoc.wf (fun _ => CmtSt.reset) s.cmts = true ∧ Assoc.wf (fun _ => 0xFF) s.cfg.flash = true ∧ Assoc.rising s.fe.slots ∧
  Assoc.rising s.gns.excls ∧ Assoc.rising s.wv.buckets ∧ Assoc.rising s.pke.curves ∧ Assoc.rising s.hif.mem ∧
  Assoc.rising s.fe.kept.almanac ∧ Assoc.rising s.fe.kept.iono

/-- Every list of like things has as many as the part has of them. -/
def State.shaped (s : State) : Prop :=
  s.lat.length = 2 ∧ s.ports.length = 5 ∧ s.tin.ins.length = 8 ∧ s.ref.refs.length = 17 ∧ s.out.clks.length = 10 ∧
  s.out.pps.length = 4 ∧ s.gns.chans.length = 192 ∧ s.hif.rx.length = 16 ∧ s.hif.tx.length = 16 ∧ s.hif.cq.length = 2 ∧
  s.hif.vecs.length = 36 ∧ s.fmu.islands.length = 24 ∧ s.wv.lanes.length = 8 ∧ s.wv.queues.length = 5 ∧ s.ptp.ports.length = 4 ∧
  s.pmc.length = 5

/-- A well-formed state: its maps canonical and its lists of the part's sizes. -/
def State.wf (s : State) : Prop := s.canonical ∧ s.shaped

/-- The global gate is closed exactly in SAFE, and the mode that MAINTAIN was entered from is not SAFE (R35, R38, R556). -/
def State.gated (s : State) : Prop := (s.fmu.gate = true ↔ s.md.mode = .safe) ∧ s.md.origin ≠ some .safe

/-- A start of the part by cause `kind` of GLB_RST_CAUSE (0 power-on, 1 RESET_N, 2 device reset, 3 orderly restart, 4 automatic
restart, 5 restart from SAFE): BOOT, every block at its reset values, and what each kind of start keeps (R35, R567, R597, R643, R645).
A start out of LOCKED with Bodkin running writes a copy of the oscillator model (R231). -/
def Restarted (kind : Nat) (s t : State) : Prop :=
  t = { State.reset with now := s.now, fresh := s.fresh, pending := s.pending, jtag := s.jtag, glb := t.glb, md := t.md,
                         hif := t.hif, fmu := t.fmu, cfg := t.cfg, fe := t.fe } ∧
  t.md = { ModeSt.reset with cause := if kind ≤ 1 then 1 else kind, since := s.now } ∧
  t.glb.rstCause = kind ∧ t.glb.starts = (if kind = 0 then 0 else min 255 (s.glb.starts + 1)) ∧
  t.glb.scratch = (if 2 ≤ kind then s.glb.scratch else 0) ∧ t.glb.pllLocked = false ∧
  t.hif.link = (decide (2 ≤ kind) && s.hif.link) ∧ t.hif.mem = s.hif.mem ∧
  t.fmu.lastCause = (if kind = 0 then 0 else s.fmu.lastCause) ∧ t.fmu.lastRoot = (if kind = 0 then 0 else s.fmu.lastRoot) ∧
  t.fmu.gate = false ∧ t.fmu.halted = false ∧ t.fmu.pathA = true ∧ t.fmu.pathB = true ∧
  t.fe = { (if s.md.mode = .locked ∧ 2 ≤ kind ∧ s.fmu.halted = false then s.writeModel else s).fe with
             rotCount := t.fe.rotCount, restarts := t.fe.restarts } ∧
  t.cfg.flash = s.cfg.flash ∧ t.cfg.fuses = s.cfg.fuses

/-- The drain of an orderly restart may end: it has run, no pulse of a PPSOUT or of GPPS is high, no TODOUT message is being sent, and
every CLKOUT is muted or at rest (R35, R53, R56). -/
def State.drainFree (s : State) : Prop :=
  s.md.drainArmed = true ∧ s.md.mode.running = true ∧ (∀ p ∈ s.out.pps, p.high = false) ∧
  s.out.todBusyUntil ≤ s.now ∧ s.out.gppsHighUntil ≤ s.now ∧ ∀ c ∈ s.out.clks, c.muted = true ∨ c.per = 0

/-- What the visible copy of the step registers hands to the dual check (R115, R119). -/
def State.visibleRec (s : State) (op : Nat) (tok : BitVec 16) : StepRec :=
  { bodkin := false, op := op, op0 := s.reg 0x78034, op1 := s.reg 0x78038, op2 := s.reg 0x7803C, op3 := s.reg 0x78040,
    chk := s.reg 0x78044, ctl := BitVec.ofNat 32 (tok.toNat * 65536 + op), token := tok.toNat, armedAt := 0 }

/-- A state with that operation issued: TB_STEP_STAT shows its token, code 0x00 and STATE 1 (R131). -/
def State.withIssued (s : State) (op : Nat) (tok : BitVec 16) : State :=
  { s with tb := { s.tb with checking := s.tb.checking ++ [s.visibleRec op tok], stToken := tok.toNat, stCode := 0, stState := 1 } }

/-- The state in CALIBRATE once its TACs, outputs and Stakes are all calibrated leaves for ACQUIRE (R35). -/
def State.calibrated (s : State) : Bool := s.md.calTac && s.md.calOut && s.md.calStk.all id

/-- The commands that start an operation on a core, each with the OP it takes (R526). -/
def pkeStarts (core : Nat) : List (Nat × Instr) :=
  [(0x01, .modexp core), (0x02, .rsaPriv core), (0x10, .ecdh core), (0x11, .ecdhEph core), (0x12, .ecdsaSign core),
   (0x13, .ecdsaVerify core), (0x14, .eddsaSign core), (0x15, .eddsaVerify core), (0x20, .keygen core), (0x21, .delete core),
   (0x22, .pubkey core)]

/-- A state in which a held operation has started on a core, with its release set so many nanoseconds later, its code and its data, and its time joined to the demand on the cores. -/
def State.withStarted (s : State) (o : PkeOp) (core after code : Nat) (data : List Byte) : State :=
  { s with pke := { s.pke with
      ops := s.pke.ops.map fun x => if x = o then { o with core := some core, start := s.now, release := s.now + after, code := code, data := data } else x
      work := logLoad s.now loadSpan s.pke.work after } }

/-- The SAFE reaction with cause `c` (R557, R564 to R567): the gate closed, FAULT_N asserted by path A, the cause kept, the mode SAFE, and the
servo, the step unit and a drain stopped; the registers, the flash and the fuses stand. -/
def SafeEntered (c : Nat) (s t : State) : Prop :=
  t.md.mode = .safe ∧ t.md.cause = c ∧ t.md.prev = s.md.mode ∧ t.md.since = s.now ∧ t.md.drain = false ∧ t.md.maint = none ∧
  t.fmu.gate = true ∧ t.fmu.pathA = true ∧ t.fmu.lastCause = c ∧ t.srv.st = .stopped ∧ t.srv.win = none ∧
  t.tb.armed = none ∧ t.tb.warp = s.tb.warp ∧ t.act = s.act ∧ t.stg = s.stg ∧ t.cfg = s.cfg ∧ t.now = s.now ∧ t.pending = s.pending

/-- The messages of R613: the CODE of each, its command, and what it does with its body. -/
def messageActs : List (Nat × (Carrier → Instr) × (State → ReplyTo → List Byte → State)) :=
  [(0x001, .status, State.msgStatus), (0x002, .regRead, State.msgRegRead), (0x003, .regWrite, State.regWriteThen),
   (0x004, .logRead, State.msgLogRead), (0x010, .slotErase, State.msgErase), (0x011, .slotWrite, State.msgWrite),
   (0x012, .slotVerify, State.msgVerify), (0x013, .fwSwap, State.msgSwap), (0x020, .restart, State.msgRestart),
   (0x021, .offlineTest, State.msgOffline)]

/-- A mailbox command can be taken and served (R615). -/
def State.mboxFree (s : State) : Prop := s.noWrites = false ∧ s.mgt.mbState ≠ 1 ∧ s.fmu.halted = false ∧ s.fld 0x101008 10 0 ≤ 1400

/-- The body that the mailbox holds. -/
def State.mboxBody (s : State) : List Byte := s.mgt.mbox.take (s.fld 0x101008 10 0)

/-- The mailbox shows a response: its status first, its length, and STATE 2 (R615). -/
def State.answered (t : State) (status : Byte) (data : List Byte) : Prop :=
  t.mgt.mbox.take (4 + data.length) = [status, 0, 0, 0] ++ data ∧ t.mgt.mbLen = 4 + data.length ∧ t.mgt.mbState = 2

/-- Registers and the words that the spec says they read after reset. -/
def resetWords : List (Nat × W32) :=
  [(0x0, 0x0448ED01), (0x40, 0), (0x78108, 0x0507800A), (0x78020, 0x03E80064), (0x50000, 0x98000001), (0x60000, 0x8012C002),
   (0x60004, 0x03C25800), (0x60008, 0x001F101F), (bBase 0, 0x42000000), (bBase 16, 0x42000000), (bBase 0 + 0x20, 0x1E000080)] ++
  [(0x70000, 0xA0002710), (0x70004, 0x000A0002), (0x7000C, 5000), (0x70040, 0x1F000000), (0x80000, 0x000186A0), (cBase 0, 0x100003E8),
   (cBase 9, 0x100003E8), (pBase 0, 0x00800000), (pBase 3, 0x00800000), (0x80500, 0x10900258), (0x90040, 0x7FF), (0x90044, 0x12000A19)] ++
  [(0x90048, 0x012C00C8), (0x9008C, 2360), (0x90100, 0x03000000), (0x90080, 0xF828001E), (0x90084, 0x0A032064), (0x90088, 0x8258012C),
   (0x90090, 0x00F00E10), (0x90500, 0x00C00000), (0x40800, 0x80402710), (0x40000, 0xE04003E8), (0x40008, 0xA0402000), (0x4000C, 64)] ++
  [(mBase 3 + 0x10, 0x64), (mBase 3 + 0x18, 0x00FF000A), (mBase 3 + 0x40, 0x60000000), (gBase 3, 0x030186A0), (iBase 3 3, 0x8080),
   (iBase 3 3 + 4, 0x01002180), (gBase 3 + 0x200, 0x00FF0000), (0xA0000, 0x80000000), (0xD0000, 0x800003E8), (0x100010, 0x98000064), (0x110000, 50)]

end Sys2Proof.Machine
end

