-- ==== Sys2Proof/Certificates/Slice0/Obligations.lean ====
section
/-! DEFINITION. The statements about the block, chapter by chapter. Each says, for states and operands that meet its hypotheses, that
the command answers a next state, what that state holds, and what it leaves as it was. -/

open Sys2Proof Sys2Proof.Machine

/-- A power-on with a rail below 85 % of nominal, RESET_N low for at least 100 ns, a device reset that falls due, an orderly restart whose drain may end, and both restarts from SAFE each answer a next state in BOOT with the blocks TB, TAC, TIN, REF, SRV, OUT, GNS, the ports, WV, PTP, PKE, MGT, PMC, the register copies, counters, commits and latches at their reset values; elapsed time, the queue, the test port, the flash, the fuses, FeRAM but for the rotation and restart times and, out of LOCKED in kinds 2 to 5, a model copy, stand; so do FMU_LAST_SAFE and, one more, the count of starts, but for power-on; and GLB_SCRATCH and the PCIe link in the kinds 2 to 5 (that these include the restarts from SAFE is the model's reading, log entry 15). An automatic restart needs SAFE_RESTART, SAFE_HOLD gone by and fewer than 3 in 24 h, and is counted in FeRAM. (R35, R56, R567, R597, R643, R645, R654, R655) -/
def Obligations.ResetsRestartInBoot : Prop :=
  ∀ s : State,
    (∀ rails k, k < 5 → rails.getD k 0 < porLimits.getD k 0 →
      ∃ t, exec (.powerOnReset rails) s = .next t ∧ Restarted 0 s t ∧ t.glb.porHeld = true ∧ t.fe.restarts = s.fe.restarts) ∧
    (∀ lowNs, 100 ≤ lowNs →
      ∃ t, exec (.resetNAssert lowNs) s = .next t ∧ Restarted 1 s t ∧ t.glb.resetLow = true ∧ t.fe.restarts = s.fe.restarts) ∧
    (∀ due, s.glb.resetAt = some due → due ≤ s.now →
      ∃ t, exec .deviceReset s = .next t ∧ Restarted 2 s t ∧ t.fe.restarts = s.fe.restarts) ∧
    (s.drainFree → ∃ t, exec .drainReset s = .next t ∧ Restarted 3 s t ∧ t.fe.restarts = s.fe.restarts) ∧
    (s.md.mode = .safe → s.bit 0x78108 31 = true → s.md.since + s.fld 0x78108 7 0 * nsPerSec ≤ s.now → s.recentRestarts.length < 3 →
      ∃ t, exec .safeAutoRestart s = .next t ∧ Restarted 4 s t ∧ t.fe.restarts = s.recentRestarts ++ [s.now]) ∧
    (s.md.mode = .safe → s.noWrites = false →
      ∃ t, exec .safeRestartReq s = .next t ∧ Restarted 5 s t ∧ t.fe.restarts = s.fe.restarts)

/-- RESET_N release reads the strap and times start-up from that instant; PLL_LOCK starts Warp at SEC 0, NS 0, FRAC 0; of a GLB_RESET write with no reset waiting, KEY other than 0xA5 or OP 2 or 3 sets BAD_RESET, OP 1 schedules the device reset 1 ms later, and OP 0 does nothing; while one waits, or while a reset input holds the part, the write changes nothing. PLL_LOCK also places CLK_GNSS, at a phase that the spec leaves open (a free value). A power-on with every rail at 85 % of nominal or more ends the hold, from which start-up is timed, and takes the reading of VDD_CORE; RESET_N low for less than 100 ns changes nothing. Nothing else changes. (R44, R100, R642, R644, R645, R654, R655) -/
def Obligations.ResetInputsAndRequests : Prop :=
  ∀ (s : State) (p : Path) (v : W32) (strap : Bool),
    (s.glb.resetLow = true → exec (.resetNRelease strap) s =
      .next { s with glb := { s.glb with resetLow := false, strap := strap }, md := { s.md with since := s.now } }) ∧
    (s.inReset = false → s.md.mode = .boot → s.glb.pllLocked = false → exec .pllLock s =
      .next { s with glb := { s.glb with pllLocked := true }, tb := { s.tb with running := true, warp := 0, frac := 0 },
                     gns := { s.gns with clkNext := (s.now : Rat) + clampQ 0 gnssPeriod Config.gnssPhase } }) ∧
    (s.inReset = false → s.glb.resetAt = none →
      ((bitsOf v 15 8 ≠ 0xA5 ∨ 2 ≤ bitsOf v 1 0) → exec (.glbReset p v) s =
        .next { s with glb := { s.glb with errBadReset := true } }) ∧
      (bitsOf v 15 8 = 0xA5 → bitsOf v 1 0 = 1 → exec (.glbReset p v) s =
        .next { s with glb := { s.glb with resetAt := some (s.now + 1000000) } }) ∧
      (bitsOf v 15 8 = 0xA5 → bitsOf v 1 0 = 0 → exec (.glbReset p v) s = .next s)) ∧
    (s.glb.resetAt.isSome = true ∨ s.inReset = true → exec (.glbReset p v) s = .next s) ∧
    (∀ rails : List Nat, (∀ k < 5, porLimits.getD k 0 ≤ rails.getD k 0) → exec (.powerOnReset rails) s =
      .next { s with glb := { s.glb with porHeld := false }, md := { s.md with since := if s.glb.porHeld then s.now else s.md.since },
                     fmu := { s.fmu with coreMv := rails.getD 0 0, minMv := if s.glb.porHeld then rails.getD 0 0 else s.fmu.minMv } }) ∧
    (∀ lowNs < 100, exec (.resetNAssert lowNs) s = .next s)

/-- Below 0.86 V with the PLLs locked, outside a reset, the stretch begins and any recovery count is cancelled; at 0.87 V or above during a stretch the 1 us count starts, or goes on; once it has passed the stretch ends, FMU_DROOP_EVENTS counts one more and a step-up of CLK_CORE that waits is applied; a record is written, at most one per second, with the episodes since the last and the minimum of VDD_CORE, and the count starts anew; at a whole second of Warp DROOP_HEAVY is set when the stretched cycles since the last were more than 1 %. None of them touches the mode, the registers, the time base, the outputs or the ports. (R26, R27, R28, R31, R596) -/
def Obligations.DroopsStretchTheCoreClock : Prop :=
  ∀ (s : State) (mv : Nat),
    (mv < 860 → s.inReset = false → s.glb.pllLocked = true → ∃ t, exec (.droopStretchStart mv) s = .next t ∧
      t.fmu.stretch = true ∧ t.fmu.holdAt = none ∧ t.fmu.minMv = min s.fmu.minMv mv ∧
      t = { s with fmu := t.fmu, pke := { s.pke with ops := t.pke.ops }, wv := { s.wv with lanes := t.wv.lanes },
                   mgt := { s.mgt with railMin := t.mgt.railMin } }) ∧
    (870 ≤ mv → s.fmu.stretch = true → exec (.droopRecover mv) s =
      .next { s with fmu := { s.fmu with coreMv := mv, minMv := min s.fmu.minMv mv, holdAt := some (s.fmu.holdAt.getD s.now) } }) ∧
    (∀ at_, s.fmu.holdAt = some at_ → s.fmu.stretch = true → at_ + 1000 ≤ s.now → ∃ t, exec .stretchEnd s = .next t ∧
      t.fmu.stretch = false ∧ t.fmu.holdAt = none ∧ t.fmu.episodes = s.fmu.episodes + 1 ∧
      t.ctrAt 0xE0100 = ctrAdd (s.ctrAt 0xE0100) 1 ∧
      t.wv.step = (match s.wv.parkWant with | some (_, want, _) => min want s.wv.step | none => s.wv.step) ∧
      t = { s with fmu := t.fmu, pke := { s.pke with ops := t.pke.ops }, ctr := t.ctr, wv := { s.wv with step := t.wv.step, lanes := t.wv.lanes } }) ∧
    (s.fmu.episodes ≠ 0 → s.fmu.halted = false → (∀ last, s.fmu.droopRecAt = some last → last + nsPerSec ≤ s.now) → ∃ t, exec .droopRecord s = .next t ∧
      t.fe.nextSeq = s.fe.nextSeq + 1 ∧ t.fmu.episodes = 0 ∧ t.fmu.droopRecAt = some s.now ∧
      (∃ r ∈ t.fe.log, r.typ = 4 ∧ r.seq = s.fe.nextSeq ∧ r.body = padTo 40 (leBytes 4 s.fmu.episodes ++ leBytes 2 s.fmu.minMv)) ∧
      t = { s with fmu := t.fmu, fe := t.fe, ctr := t.ctr }) ∧
    (s.nsNow = 0 → ∃ t, exec .droopHeavyEval s = .next t ∧
      t.mgt = { s.mgt with droopHeavy := s.mgt.droopHeavy || decide (s.tally.fmu.totCyc < 100 * s.tally.fmu.strCyc) } ∧
      t.fmu.strCyc = 0 ∧ t.fmu.totCyc = 0 ∧
      t = { s with fmu := t.fmu, mgt := t.mgt, pke := { s.pke with ops := t.pke.ops }, wv := { s.wv with lanes := t.wv.lanes } })

/-- With Bodkin running: ACQUIRE with a reference in SEL and the lock condition goes to LOCKED, else to FREERUN when none is in QUAL or SEL nor has been for ACQ_TIMEOUT; LOCKED without a reference to follow goes to HOLDOVER; HOLDOVER with one in SEL goes to ACQUIRE when the measured error exceeds HOLD_LIMIT, else to LOCKED when the lock condition holds, and with none to FREERUN when the prediction exceeds HOLD_LIMIT; FREERUN with one in SEL goes to ACQUIRE; MAINTAIN goes to its origin, or where the origin's rows lead, with cause 0x22 when its work ended and 0x23 when a bound was reached. The cause and the previous mode are recorded. Where no row holds, and in BOOT, CALIBRATE and SAFE, mode and cause stay. With Bodkin halted nothing changes. (R34, R35, R36, R37, R38) -/
def Obligations.ModeEvaluationFollowsTheTable : Prop :=
  ∀ s : State,
    let quiet := s.md.acqSeen + s.fld 0x78108 23 12 * nsPerSec ≤ s.now ∧ ∀ i < 17, (s.refAt i).st ≠ .qual ∧ (s.refAt i).st ≠ .sel
    let far := s.srv.st = .tracking ∧ s.holdLimit < s.measured
    let row : Mode → Mode → Nat → Prop := fun m dest cause =>
      (m = .acquire ∧ s.selStands = true ∧ s.lockMet = true ∧ dest = .locked ∧ cause = 0x11) ∨
      (m = .acquire ∧ ¬(s.selStands = true ∧ s.lockMet = true) ∧ quiet ∧ dest = .freerun ∧ cause = 0x14) ∨
      (m = .locked ∧ s.ref.sel = none ∧ dest = .holdover ∧ cause = 0x12) ∨
      (m = .holdover ∧ s.selStands = true ∧ far ∧ dest = .acquire ∧ cause = 0x16) ∨
      (m = .holdover ∧ s.selStands = true ∧ ¬far ∧ s.lockMet = true ∧ dest = .locked ∧ cause = 0x11) ∨
      (m = .holdover ∧ s.selStands = false ∧ s.holdLimit < s.predicted ∧ dest = .freerun ∧ cause = 0x13) ∨
      (m = .freerun ∧ s.selStands = true ∧ dest = .acquire ∧ cause = 0x15)
    (s.fmu.halted = true → exec .modeEvaluation s = .next s) ∧
    (s.fmu.halted = false → s.fld 0x78108 23 12 ≠ 0 → ∃ t, exec .modeEvaluation s = .next t ∧
      (∀ dest cause, row s.md.mode dest cause → t.md.mode = dest ∧ t.md.cause = cause ∧ t.md.prev = s.md.mode) ∧
      (s.md.mode ≠ .maintain → (∀ dest cause, ¬ row s.md.mode dest cause) → t.md.mode = s.md.mode ∧ t.md.cause = s.md.cause ∧ t.md.prev = s.md.prev) ∧
      (∀ m o, s.md.mode = .maintain → s.md.maint = some m → s.md.origin = some o → m.ended = true ∨ m.boundHit = true →
        (∀ dest cause, row o dest cause → t.md.mode = dest) ∧ ((∀ dest cause, ¬ row o dest cause) → t.md.mode = o) ∧
        t.md.cause = (if m.ended then 0x22 else 0x23) ∧ t.md.prev = .maintain ∧ t.md.maint = none) ∧
      (∀ m, s.md.mode = .maintain → s.md.maint = some m → m.ended = false → m.boundHit = false →
        t.md.mode = .maintain ∧ t.md.cause = s.md.cause))

/-- BOOT_TIMEOUT after 3 s of BOOT outside a reset, and CALIBRATE_TIMEOUT after 1 s of CALIBRATE, answer a next state in SAFE with cause 0x34, the gate closed and FAULT_N asserted by path A; the queue, elapsed time, Warp and both copies of the configuration registers stand. (R35, R566) -/
def Obligations.StartUpTimeoutsEndInSafe : Prop :=
  ∀ s : State,
    (s.md.mode = .boot → s.inReset = false → s.md.since + 3 * nsPerSec ≤ s.now → ∃ t, exec .bootTimeout s = .next t ∧
      t.md.mode = .safe ∧ t.md.cause = 0x34 ∧ t.md.prev = .boot ∧ t.fmu.gate = true ∧ t.fmu.pathA = true ∧
      t.fmu.lastCause = 0x34 ∧ t.fmu.lastRoot = 0 ∧ t.act = s.act ∧ t.stg = s.stg ∧ t.now = s.now ∧ t.tb.warp = s.tb.warp ∧ t.pending = s.pending) ∧
    (s.md.mode = .calibrate → s.md.since + nsPerSec ≤ s.now → ∃ t, exec .calibrateTimeout s = .next t ∧
      t.md.mode = .safe ∧ t.md.cause = 0x34 ∧ t.md.prev = .calibrate ∧ t.fmu.gate = true ∧ t.fmu.pathA = true ∧
      t.fmu.lastCause = 0x34 ∧ t.fmu.lastRoot = 0 ∧ t.act = s.act ∧ t.stg = s.stg ∧ t.now = s.now ∧ t.tb.warp = s.tb.warp ∧ t.pending = s.pending)

/-- ORDERLY_RESTART_REQ in ACQUIRE, LOCKED, HOLDOVER or FREERUN without a drain sets DRAIN until RESTART_DRAIN has passed; in a drain, or in another mode that takes writes, it sets REQ_REFUSED only; DRAIN_TIMEOUT arms the reset, and mutes what must be muted and is not in a cycle, pulse or message; MAINTAIN_BOUND marks the work as at its bound once 2 s or the test's bound has passed, or for an offline test once E reaches HOLD_BUDGET. Nothing else changes. (R38, R41, R43, R56, R57) -/
def Obligations.OrderlyRestartDrains : Prop :=
  ∀ s : State,
    (s.md.mode.running = true → s.md.drain = false → exec .orderlyRestartReq s =
      .next { s with md := { s.md with drain := true, drainArmed := false, drainUntil := s.now + s.fld 0x78108 29 24 * nsPerSec } }) ∧
    (s.noWrites = false → (s.md.mode.running = false ∨ s.md.drain = true) → exec .orderlyRestartReq s =
      .next { s with md := { s.md with reqRefused := true } }) ∧
    (s.md.drain = true → s.md.drainUntil ≤ s.now →
      exec .drainTimeout s = .next ({ s with md := { s.md with drainArmed := true } } : State).applyMute) ∧
    (∀ m, s.md.mode = .maintain → s.md.maint = some m → m.ended = false →
      (m.began + m.bound ≤ s.now ∨ (m.swap = false ∧ s.holdBudget ≤ s.predicted)) →
      exec .maintainBound s = .next { s with md := { s.md with maint := some { m with boundHit := true } } })

/-- In BOOT and in CALIBRATE a whole register write at any offset from 0x0001_0000 to 0x0012_FFFF, and every command that is itself such a write (commits, step operations, arming, reader and stream control, selector, servo, GNSS, SYM, PTP, BST, mode and PTM requests, classifier rules, doorbells, aborts, counter clears), leaves the whole state as it was. (R79) -/
def Obligations.WritesDiscardedInBootAndCalibrate : Prop :=
  ∀ (s : State) (p : Path) (off : Nat) (v : W32) (b : CmtBlk) (tok : BitVec 16) (mask : BitVec 8) (n k : Nat),
    s.md.mode = .boot ∨ s.md.mode = .calibrate →
    (0x10000 ≤ off → off < 0x130000 → exec (.registerWrite p off 15 v) s = .next s) ∧
    (∀ c ∈ ([.commit b tok, .check b tok, .revert b tok, .tbSet tok, .tbStep tok, .tbSlew tok, .tbCancel tok, .tinArm mask, .tinDisarm mask,
        .registerReaderEnable, .tinMark, .tinRewind, .tinClear, .endWtr tok n, .forget tok n, .forgetModel tok, .resurvey tok,
        .rerunScript tok, .coldStart tok, .classifierRuleWrite n k v, .rotate tok, .cancelGrants tok n, .restartClient tok n,
        .rxTailWrite n v, .txTailWrite n v, .cqTailWrite n v, .abort n k, .abortAll n, .evsHostRdWrite v, .evsMark, .evsRewind, .evsClear,
        .ptmReq tok, .test tok n, .clearRetired tok n, .counterWrapClear off, .orderlyRestartReq, .safeRestartReq] : List Instr),
      exec c s = .next s)

/-- Outside a reset an unassigned write sets UNASSIGNED and a partial one sets PARTIAL, and neither writes anything; a whole write of GLB_SCRATCH writes it. Once writes are taken, a whole write to a configuration register of OUT, WV, SYM, PKE, KST or PMC that is no commit register, no counter and no operation register puts its RWS bits into the staged copy alone when it has no RW bits, and its RW bits into both copies when it has no RWS bits. A word of a classifier rule other than W0 is not written while the rule is enabled, and sets WERR; any other is. Nothing else changes. (R6, R7, R16, R82, R83, R365, R638) -/
def Obligations.RegisterWriteIsStagedOrDiscarded : Prop :=
  ∀ (s : State) (p : Path) (off : Nat) (be : BitVec 4) (v : W32), s.inReset = false → off % 4 = 0 →
    (0x130000 ≤ off → off < 0x1000000 → exec (.registerWrite p off be v) s = .next { s with glb := { s.glb with errUnassigned := true } }) ∧
    (off < 0x130000 → be ≠ 15 → exec (.registerWrite p off be v) s = .next { s with glb := { s.glb with errPartial := true } }) ∧
    exec (.registerWrite p 0x40 15 v) s = .next { s with glb := { s.glb with scratch := v } } ∧
    (∀ r, regDef off = some r → s.noWrites = false → off / 0x10000 ∈ [4, 8, 10, 11, 12, 15] → off ≠ 0xB0020 → cmtAt off = none → isCounter (off - 4) = false →
      (r.mask (· == .rw) = 0 → r.mask (· == .rws) ≠ 0 → exec (.registerWrite p off 15 v) s =
        .next { s with stg := s.stg.wr off ((v &&& r.mask (· == .rws)) ||| (s.stg.rd off &&& ~~~(r.mask (· == .rws)))) }) ∧
      (r.mask (· == .rw) ≠ 0 → r.mask (· == .rws) = 0 → exec (.registerWrite p off 15 v) s =
        .next { s with act := s.act.wr off (r.clamped ((v &&& r.mask (· == .rw)) ||| (s.reg off &&& ~~~(r.mask (· == .rw))))),
                       stg := s.stg.wr off (r.clamped ((v &&& r.mask (· == .rw)) ||| (s.stg.rd off &&& ~~~(r.mask (· == .rw))))) })) ∧
    (∀ k w, k < 256 → w < 5 → s.noWrites = false →
      (w ≠ 0 → s.bit (clsOff k 0) 31 = true → exec (.classifierRuleWrite k w v) s = .next { s with wv := { s.wv with clsErr := true, clsErrRule := k } }) ∧
      (w = 0 ∨ s.bit (clsOff k 0) 31 = false → ∃ r, regDef (clsOff k w) = some r ∧ exec (.classifierRuleWrite k w v) s =
        .next { s with act := s.act.wr (clsOff k w) (r.clamped ((v &&& r.mask (· == .rw)) ||| (s.reg (clsOff k w) &&& ~~~(r.mask (· == .rw))))),
                       stg := s.stg.wr (clsOff k w) (r.clamped ((v &&& r.mask (· == .rw)) ||| (s.stg.rd (clsOff k w) &&& ~~~(r.mask (· == .rw))))) }))

/-- Once writes are taken and outside SAFE: COMMIT and CHECK start checking the staged words of the block, whatever stood before; REVERT leaves every staged word of the block equal to its active word and every other staged word as it was, shows its token, code 0x00 and STATE 3, and touches neither CMT_DONE, CMT_REJECT nor APPLIED; each keeps the token of an operation that it finds checking or pending as that of the one superseded. In SAFE they change no word and show code 0x24 and STATE 4, COMMIT and CHECK setting CMT_REJECT; the host interface shows the rejection as an interrupt cause. Nothing else changes. For REVERT the canonical form of both copies is assumed, which every step keeps. (R82, R83, R85, R86, R90) -/
def Obligations.CommitSnapshotsTheStagedCopy : Prop :=
  ∀ (s : State) (b : CmtBlk) (tok : BitVec 16),
    let old := s.cmt b
    let sup := if old.st = 1 ∨ old.st = 2 then some old.token else old.sup
    (s.noWrites = false → s.md.mode ≠ .safe →
      exec (.commit b tok) s = .next (s.setCmt b { old with sup := sup, token := tok.toNat, code := 0, st := 1,
                                                              snap := s.stg.filter (fun e => inBlk b e.1), isCheck := false }) ∧
      exec (.check b tok) s = .next (s.setCmt b { old with sup := sup, token := tok.toNat, code := 0, st := 1,
                                                              snap := s.stg.filter (fun e => inBlk b e.1), isCheck := true }) ∧
      (Assoc.wf regReset s.act = true → Assoc.wf regReset s.stg = true → ∃ t, exec (.revert b tok) s = .next t ∧
        (∀ off, inBlk b off = true → t.stg.rd off = s.act.rd off) ∧ (∀ off, inBlk b off = false → t.stg.rd off = s.stg.rd off) ∧
        t = ({ s with stg := t.stg } : State).setCmt b { old with sup := sup, token := tok.toNat, code := 0, st := 3, snap := [], isCheck := false })) ∧
    (s.md.mode = .safe →
      (∀ c ∈ ([.commit b tok, .check b tok] : List Instr), ∃ t, exec c s = .next t ∧
        t = { s.setCmt b { old with token := tok.toNat, code := 0x24, st := 4, reject := true } with hif := t.hif } ∧
        t.hif.cause = s.hif.cause ||| 4) ∧
      exec (.revert b tok) s = .next (s.setCmt b { old with token := tok.toNat, code := 0x24, st := 4 }))

/-- COMMIT_VALIDATED of a checking set with a fault rejects it with its code and offset, sets CMT_REJECT and keeps every active and staged word; a valid CHECK shows STATE 3 and applies nothing; a valid COMMIT waits as pending with no word changed, and where the block takes its sets at once it is then applied as COMMIT_APPLY applies it. COMMIT_APPLY of a pending set changes nothing before its safe point; there it makes the active copy the old one with the snapshot's staged fields of that block, leaves the staged copy, shows STATE 3, sets CMT_DONE and counts it; on an internal fault it rejects the set with code 0x32 instead and keeps every word. A set of the host interface takes the rings and queues that hold no entry in process first: those that do keep their active words, and the set stays pending for them. (R82, R84, R85, R86, R87, R90, R93, R498) -/
def Obligations.CommitAppliesWholeOrNotAtAll : Prop :=
  ∀ (s : State) (b : CmtBlk) (ok : Bool),
    let c := s.cmt b
    let m := s.merged b c.snap
    (∀ code arg, c.st = 1 → s.validate b false m = (code, arg) → code ≠ 0 → ∃ t, exec (.commitValidated b ok) s = .next t ∧
      t = { s.setCmt b { c with st := 4, code := code, arg := arg, reject := true, snap := [] } with hif := t.hif }) ∧
    (∀ arg, c.st = 1 → s.validate b false m = (0, arg) → c.isCheck = true →
      exec (.commitValidated b ok) s = .next (s.setCmt b { c with st := 3, arg := arg, snap := [] })) ∧
    (∀ arg, c.st = 1 → s.validate b false m = (0, arg) → c.isCheck = false →
      let u := s.setCmt b { c with st := 2, arg := arg }
      (s.atOnce b = false → exec (.commitValidated b ok) s = .next u) ∧
      (s.atOnce b = true → exec (.commitValidated b ok) s = exec (.commitApply b ok) u)) ∧
    (c.st = 2 → s.safePoint b m = false → exec (.commitApply b ok) s = .next s) ∧
    (c.st = 2 → s.safePoint b m = true → ok = false → ∃ t, exec (.commitApply b ok) s = .next t ∧
      t = { s.setCmt b { c with st := 4, code := 0x32, arg := 0xFFFFFF, reject := true, snap := [] } with hif := t.hif }) ∧
    (c.st = 2 → ok = true → b = .hif → s.hifWaits m ≠ [] → Assoc.wf regReset s.act = true → ∃ t, exec (.commitApply b ok) s = .next t ∧
      (∀ r ∈ s.hifWaits m, ∀ k ∈ [0, 4, 8], t.act.rd (r + k) = s.act.rd (r + k)) ∧
      (∀ off, (∀ r ∈ s.hifWaits m, off ∉ [r, r + 4, r + 8]) → t.act.rd off = m.rd off) ∧
      t.stg = s.stg ∧ t.cmts = s.cmts ∧ t.md = s.md) ∧
    (c.st = 2 → s.safePoint b m = true → ok = true → (b = .hif → s.hifWaits m = []) → ∃ t, exec (.commitApply b ok) s = .next t ∧
      t.act = m ∧ t.stg = s.stg ∧ t.md.mode = s.md.mode ∧ t.now = s.now ∧ t.pending = s.pending ∧
      t.cmt b = { c with st := 3, code := 0, done := true, cnt := (c.cnt + 1) % 65536, snap := [] })

/-- In BOOT with the PLLs locked, Bodkin's and the fault manager's islands in service, no slot in force and a flash that fits, the slot with the higher SEQ (slot A when equal) is tried first. If it loads, it is the slot in force; if not and the other loads, that one is, as the fallback; the part is then in CALIBRATE if the self-test has ended, else still in BOOT. If both fail the part is in SAFE with the gate closed, cause 0x32 after a firmware or unsealing failure of the last and 0x31 otherwise, with no slot in force and the recovery subset running. Each slot tried shows its code. A flash that does not fit gives SAFE with cause 0x31 and code 0x30 for both. (R35, R61, R76, R77, R78, R94) -/
def Obligations.SlotLoadTriesBothSlots : Prop :=
  ∀ (s : State) (puf fa fb : Bool), s.inReset = false → s.md.mode = .boot → s.glb.pllLocked = true → s.cfg.slot = 0 →
    (s.isl 0).st = .inService → (s.isl 1).st = .inService →
    let code := fun (t : State) (k : Nat) => if k = 1 then t.cfg.codeA else t.cfg.codeB
    (s.flashFits = false → ∃ t, exec (.slotLoad puf fa fb) s = .next t ∧ t.md.mode = .safe ∧ t.md.cause = 0x31 ∧ t.fmu.gate = true ∧
      t.fmu.lastCause = 0x31 ∧ t.cfg.codeA = 0x30 ∧ t.cfg.codeB = 0x30 ∧ t.cfg.slot = 0 ∧ t.mgt.recovery = true ∧ t.act = s.act) ∧
    (s.flashFits = true →
      let h := s.readHeaders
      let first := if h.slotSeq 2 ≤ h.slotSeq 1 then 1 else 2
      let r1 := h.trySlot first false puf (if first = 1 then fa else fb)
      let r2 := (r1.1.putCode first r1.2.1).trySlot (3 - first) true puf (if first = 1 then fb else fa)
      let mode := if s.glb.bistDone then Mode.calibrate else Mode.boot
      (r1.2.1 = 0 → ∃ t, exec (.slotLoad puf fa fb) s = .next t ∧ t.cfg.slot = first ∧ t.cfg.fallback = false ∧ t.act = r1.1.act ∧
        code t first = 0 ∧ t.md.mode = mode) ∧
      (r1.2.1 ≠ 0 → r2.2.1 = 0 → ∃ t, exec (.slotLoad puf fa fb) s = .next t ∧ t.cfg.slot = 3 - first ∧ t.cfg.fallback = true ∧
        t.act = r2.1.act ∧ code t first = r1.2.1 ∧ code t (3 - first) = 0 ∧ t.md.mode = mode) ∧
      (r1.2.1 ≠ 0 → r2.2.1 ≠ 0 → ∃ t, exec (.slotLoad puf fa fb) s = .next t ∧ t.md.mode = .safe ∧ t.fmu.gate = true ∧ t.cfg.slot = 0 ∧
        code t first = r1.2.1 ∧ code t (3 - first) = r2.2.1 ∧
        t.md.cause = (if r2.2.2 then 0x32 else 0x31) ∧ t.fmu.lastCause = (if r2.2.2 then 0x32 else 0x31) ∧ t.mgt.recovery = true))

/-- Outside BOOT, TIME_LATCH_READ captures SEC, NS, SNS, V and L of one time word into the latch of its path and returns SEC[31:0], and WEFT_LATCH_READ all 64 bits of Weft; TB_TIME_SEC_H, TB_TIME_NS and TB_TIME_SNS show fields of that latch, which no read of another register changes. A read of any register through one path leaves the latches of the other as they were. After reset the latch reads 0, and in BOOT the shadow answers with 0 and nothing is latched. (R101, R102) -/
def Obligations.TimeReadsLatchPerPath : Prop :=
  ∀ (s : State) (p q : Path), s.wf → p ≠ q →
    (∀ off, (s.readOn p off).latOf q = s.latOf q ∧ (off ≠ 0x78000 → ((s.readOn p off).latOf p).time = (s.latOf p).time)) ∧
    (s.shadow = false →
      (∃ t, exec (.timeLatchRead p) s = .next t ∧ t.latOf q = s.latOf q ∧ t = { s with lat := t.lat } ∧
        t.latOf p = { s.latOf p with time := ⟨s.warpSns, s.vBit, s.tb.l⟩, lastRead := BitVec.ofNat 32 (s.warpSns / 65536 / 1000000000) }) ∧
      (∃ t, exec (.weftLatchRead p) s = .next t ∧ t.latOf q = s.latOf q ∧ t = { s with lat := t.lat } ∧
        t.latOf p = { s.latOf p with weft := BitVec.ofNat 64 s.weftNs, lastRead := BitVec.ofNat 32 s.weftNs }) ∧
      s.readReg p 0x78004 = BitVec.ofNat 32 ((s.latOf p).time.sec / 2 ^ 32) ∧ s.readReg p 0x78008 = BitVec.ofNat 32 (s.latOf p).time.ns ∧
      s.readReg p 0x7800C = BitVec.ofNat 32 ((s.latOf p).time.sns * 4 + 2 * b01 (s.latOf p).time.v + b01 (s.latOf p).time.l)) ∧
    (State.reset.latOf p).time = ⟨0, false, false⟩ ∧
    (s.shadow = true →
      (∃ t, exec (.timeLatchRead p) s = .next t ∧ t = { s with lat := t.lat } ∧ t.latOf p = { s.latOf p with lastRead := 0 }) ∧
      (∃ t, exec (.weftLatchRead p) s = .next t ∧ t = { s with lat := t.lat } ∧ t.latOf p = { s.latOf p with lastRead := 0 }))

/-- WEFT_LOAD at the first whole second of Warp after BOOT, the load not yet done, gives Weft Warp's second at the nominal rate and keeps the strobe's crossing latency L_SYNC (that second may fall after CALIBRATE: log entry 124). WEFT_STEER of a loaded Weft at a whole second of Warp forms d, captured Weft minus Warp's second and L_SYNC (the capture, L_SYNC after the second, is taken at the nominal rate: the model's choice, log entry 107), and, while Weft's holdover is not in force, sets phase and y_int by the loop of R112: with V 0 tau is 1 s and the phase term is unclamped; with V 1 tau is WEFT_TAU and the phase term is held to RATE_MAX; y_int is held to 200,000 ns/s, and RATE_MAX is taken from what a missed comparison still allows. In holdover only d changes. At any other instant neither changes anything, and nothing outside the time base changes. (R108, R110, R111, R112, R559, R560) -/
def Obligations.WeftLoadsOnceAndSteersTowardWarp : Prop :=
  ∀ (s : State) (lSync : Nat),
    (s.nsNow ≠ 0 → exec (.weftLoad lSync) s = .next s ∧ exec .weftSteer s = .next s) ∧
    (s.nsNow = 0 → s.md.mode ≠ .boot → s.tb.weftLoaded = false → exec (.weftLoad lSync) s = .next { s with tb := { s.tb with
      weftFix := s.secNow * 1000000000 * 2 ^ 32, weftPhase := 0, weftLoaded := true, lSync := lSync, yInt := 0, phase := 0 } }) ∧
    (s.nsNow = 0 → s.tb.weftLoaded = true →
      let d : Int := -(weftDiff (s.secNow * 1000000000 + s.tb.lSync) (s.weftNs + s.tb.lSync))
      let rmax : Rat := (s.fld 0x78020 9 0 : Nat)
      let wtau : Rat := (s.fld 0x78020 29 16 : Nat)
      (s.tb.freeze.isSome = true → exec .weftSteer s = .next { s with tb := { s.tb with d := d } }) ∧
      (s.tb.freeze = none → s.vBit = false → exec .weftSteer s = .next { s with tb := { s.tb with
        d := d, phase := -(d : Rat), yInt := clampQ (-200000) 200000 (s.tb.yInt - (d : Rat) / 4), allow := max 0 (s.tb.allow - rmax) } }) ∧
      (s.tb.freeze = none → s.vBit = true → exec .weftSteer s = .next { s with tb := { s.tb with
        d := d, phase := clampQ (-rmax) rmax (-(d : Rat) / wtau),
        yInt := clampQ (-200000) 200000 (s.tb.yInt - (d : Rat) / (4 * wtau * wtau)), allow := max 0 (s.tb.allow - rmax) } }))

/-- Once writes are taken, SET, STEP, SLEW and CANCEL of the visible copy put one operation, made of the operand registers, the check value and the word written, at the end of what is being checked, and TB_STEP_STAT shows its token, code 0x00 and STATE 1. DONE and REJECT stand, and nothing else changes. (R115, R116, R119, R129, R131) -/
def Obligations.StepOperationsAreIssuedForTheDualCheck : Prop :=
  ∀ (s : State) (tok : BitVec 16), s.noWrites = false →
    let after := fun (op : Nat) => s.withIssued op tok
    exec (.tbSet tok) s = .next (after 1) ∧ exec (.tbStep tok) s = .next (after 2) ∧
    exec (.tbSlew tok) s = .next (after 3) ∧ exec (.tbCancel tok) s = .next (after 4)

/-- STEP_CHECK_DONE takes the oldest operation being checked. A host operation whose CRC differs, or that one side does not find intact, ends with 0x11; else an unknown one with 0x13, one not permitted in the mode with 0x20, one issued while another is armed or slewing with 0x22, a CANCEL of nothing with 0x24, a bad operand with 0x10 and a bad amount or rate with 0x12: STATE 4 and REJECT, nothing armed. With no fault a SET, STEP or SLEW is armed at this instant with STATE 2; a CANCEL withdraws the armed operation of the visible copy with STATE 7, or marks its running slew to end, with STATE 5. Nothing but the time base and the host interface's interrupt state changes. (R116, R119, R120, R121, R122, R124, R125, R126, R674) -/
def Obligations.StepCheckArmsOrEndsWithItsCode : Prop :=
  ∀ (s : State) (a b : Bool) (r : StepRec) (rest : List StepRec), s.tb.checking = r :: rest → r.bodkin = false →
    let sound := (a && b) = true ∧ crc32 (stepBytes r) = r.chk.toNat
    let free := s.tb.armed = none ∧ s.tb.slew = none
    let mine := (∃ x, s.tb.armed = some x ∧ x.bodkin = false) ∨ (∃ x, s.tb.slew = some x ∧ x.bodkin = false)
    ∃ t, exec (.stepCheckDone a b) s = .next t ∧ t.tb.checking = rest ∧ t = { s with tb := t.tb, hif := t.hif } ∧ t.tb.stToken = r.token ∧
      (¬ sound → t.tb.stCode = 0x11 ∧ t.tb.stState = 4 ∧ t.tb.stReject = true ∧ t.tb.armed = s.tb.armed ∧ t.tb.slew = s.tb.slew) ∧
      (sound → (r.op = 0 ∨ 4 < r.op) → t.tb.stCode = 0x13 ∧ t.tb.stState = 4 ∧ t.tb.armed = s.tb.armed) ∧
      (sound → 1 ≤ r.op → r.op ≤ 3 → ¬ (s.md.mode = .freerun ∧ s.bit 0x78024 0 = true) →
        t.tb.stCode = 0x20 ∧ t.tb.stState = 4 ∧ t.tb.armed = s.tb.armed) ∧
      (sound → 1 ≤ r.op → r.op ≤ 3 → s.md.mode = .freerun → s.bit 0x78024 0 = true → ¬ free →
        t.tb.stCode = 0x22 ∧ t.tb.stState = 4 ∧ t.tb.armed = s.tb.armed) ∧
      (sound → 1 ≤ r.op → r.op ≤ 3 → s.md.mode = .freerun → s.bit 0x78024 0 = true → free → r.badOperand = true →
        t.tb.stCode = 0x10 ∧ t.tb.stState = 4 ∧ t.tb.armed = none) ∧
      (sound → 1 ≤ r.op → r.op ≤ 3 → s.md.mode = .freerun → s.bit 0x78024 0 = true → free → r.badOperand = false → r.badAmount = true →
        t.tb.stCode = 0x12 ∧ t.tb.stState = 4 ∧ t.tb.armed = none) ∧
      (sound → 1 ≤ r.op → r.op ≤ 3 → s.md.mode = .freerun → s.bit 0x78024 0 = true → free → r.badOperand = false → r.badAmount = false →
        t.tb.stCode = 0 ∧ t.tb.stState = 2 ∧ t.tb.armed = some { r with armedAt := s.now }) ∧
      (sound → r.op = 4 → ¬ mine → t.tb.stCode = 0x24 ∧ t.tb.stState = 4 ∧ t.tb.armed = s.tb.armed) ∧
      (sound → r.op = 4 → mine → r.badOperand = true → t.tb.stCode = 0x10 ∧ t.tb.stState = 4 ∧ t.tb.armed = s.tb.armed ∧ t.tb.slew = s.tb.slew) ∧
      (∀ x, sound → r.op = 4 → s.tb.armed = some x → x.bodkin = false → r.badOperand = false →
        t.tb.stCode = 0 ∧ t.tb.stState = 7 ∧ t.tb.stDone = true ∧ t.tb.armed = none ∧ t.tb.slew = s.tb.slew) ∧
      (∀ x, sound → r.op = 4 → s.tb.armed = none → s.tb.slew = some x → x.bodkin = false → r.badOperand = false →
        t.tb.stCode = 0 ∧ t.tb.stState = 5 ∧ t.tb.slew = some { x with cancelled := true, token := r.token })

/-- STEP_APPLY of an armed operation changes nothing before A, the half-second of Warp at least 1 ms after the check. At A while a CANCEL that will withdraw it is still under its check, nothing is applied. Else, with both agreements standing, a SET makes Warp read the time word given and loads Weft with SEC x 10^9 + NS, and a STEP within Warp's range adds its amount to Warp and the amount rounded to the nearest ns to Weft: Weft takes the change with its next cycle, and comparisons count it from A; the change is recorded in TB_STEP_LAST, nothing stays armed, and neither the mode nor the registers change. A SLEW begins with its amount and rate. With an agreement withdrawn Warp and Weft stay and the operation of the visible copy ends with code 0x31. (R117, R118, R123, R124, R125, R127, R132) -/
def Obligations.StepsMoveBothCountersAtA : Prop :=
  ∀ (s : State) (r : StepRec), s.tb.armed = some r →
    ((s.now < r.armedAt + 1000000 ∨ s.nsNow ≠ 500000000) → ∀ a b, exec (.stepApply a b) s = .next s) ∧
    (s.cancelWaits = true → ∀ a b, exec (.stepApply a b) s = .next s) ∧
    (s.cancelWaits = false → r.armedAt + 1000000 ≤ s.now → s.nsNow = 500000000 →
      (∀ a b, (a && b) = false → ∃ t, exec (.stepApply a b) s = .next t ∧ t.tb.warp = s.tb.warp ∧ t.tb.frac = s.tb.frac ∧
        t.tb.weftFix = s.tb.weftFix ∧ t.tb.weftDue = s.tb.weftDue ∧ t.tb.armed = none ∧
        (r.bodkin = false → t.tb.stCode = 0x31 ∧ t.tb.stState = 4 ∧ t.tb.stReject = true) ∧
        t = { s with tb := t.tb, hif := t.hif, srv := { s.srv with removal := t.srv.removal } }) ∧
      (r.op = 1 → r.badOperand = false → ∃ t, exec (.stepApply true true) s = .next t ∧
        let ns := (r.op0.toNat + r.op1.toNat * 2 ^ 32) * 1000000000 + r.op2.toNat
        t.tb.warp = ns ∧ t.tb.frac = r.op3.toNat ∧ t.tb.weftDue = some ⟨some ns, (ns : Int) - s.tb.warp, s.now⟩ ∧
        t.weftCmp = unsigned 64 ((s.weftNs : Int) + ((ns : Int) - s.tb.warp)) ∧
        t.tb.armed = none ∧ t.tb.last = satSym 64 ((t.warpSns : Int) - s.warpSns) ∧ t.md.timeSet = (s.md.timeSet || r.bodkin) ∧
        t.md.mode = s.md.mode ∧ t.act = s.act ∧ t.stg = s.stg ∧ t.now = s.now) ∧
      (r.op = 2 → 0 ≤ (s.warpSns : Int) + r.amount → (s.warpSns : Int) + r.amount < ((2 ^ 48 * snsPerSec : Nat) : Int) →
        ∃ t, exec (.stepApply true true) s = .next t ∧ (t.warpSns : Int) = s.warpSns + r.amount ∧
        t.tb.weftDue = some ⟨none, roundQ ((r.amount : Rat) / 65536), s.now⟩ ∧
        t.weftCmp = unsigned 64 ((s.weftNs : Int) + roundQ ((r.amount : Rat) / 65536)) ∧
        t.tb.armed = none ∧ t.tb.last = satSym 64 r.amount ∧ t.md = s.md ∧ t.act = s.act ∧ t.stg = s.stg ∧ t.now = s.now) ∧
      (r.op = 3 → ∃ t, exec (.stepApply true true) s = .next t ∧ t.tb.armed = none ∧ t.tb.warp = s.tb.warp ∧ t.tb.weftFix = s.tb.weftFix ∧
        t.tb.slew = some { bodkin := r.bodkin, amount := r.amount, rate := r.op2.toNat, change := 0, token := r.token,
                           msAt := s.tb.warp, cancelled := false, abandoned := false } ∧ t.md = s.md ∧ t.act = s.act ∧ t.stg = s.stg))

/-- SLEW_MS_TICK once a millisecond of Warp has passed: a slew whose full change of a millisecond is less than what remains adds that change, toward the amount, and runs on unless it is cancelled or abandoned; when what remains is no more than that, the slew ends and TB_STEP_LAST takes the amount (a cancelled one too: the model's choice, log entry 108); a cancelled or abandoned slew that is not yet there ends with the change made so far, rounded. TB_STEP_STAT of a slew from the visible copy shows STATE 3 for one completed, 7 cancelled, 6 with code 0x30 abandoned. Before that, and with no slew running, the command changes nothing; it always leaves the mode, the registers and Warp's reading. LEAP_EVENT makes L, the offset in force and the next event read as the leap table gives them at this SEC, and changes nothing else. (R125, R126, R127, R131, R136, R138, R139) -/
def Obligations.SlewsEndExactlyAndLeapsFollowTheTable : Prop :=
  ∀ s : State,
    exec .leapEvent s = .next { s with tb := { s.tb with
      l := leapL s.tb.leap s.secNow, utcOfs := leapOfs s.tb.leap s.secNow, next := leapNext s.tb.leap s.secNow } } ∧
    (∃ t, exec .slewMsTick s = .next t ∧ t.md = s.md ∧ t.act = s.act ∧ t.stg = s.stg ∧ t.tb.warp = s.tb.warp ∧ t.tb.frac = s.tb.frac) ∧
    (s.tb.slew = none → exec .slewMsTick s = .next s) ∧
    ∀ x : SlewRec, s.tb.slew = some x →
    let left : Rat := |(x.amount : Rat) - x.change|
    let sgn : Rat := if x.amount < 0 then -1 else 1
    (s.tb.warp < x.msAt + 1000000 → exec .slewMsTick s = .next s) ∧
    (x.msAt + 1000000 ≤ s.tb.warp →
      (x.perMs < left → x.cancelled = false → x.abandoned = false → exec .slewMsTick s = .next { s.qAccrue with
        tb := { s.tb with slew := some { x with change := x.change + sgn * x.perMs, msAt := x.msAt + 1000000 } },
        srv := { s.srv with bo := if x.bodkin ∧ s.srv.removal then s.srv.bo - sgn * x.perMs else s.srv.bo } }) ∧
      (left ≤ x.perMs → ∃ t, exec .slewMsTick s = .next t ∧ t.tb.slew = none ∧ t.tb.last = satSym 64 x.amount ∧ t.tb.warp = s.tb.warp ∧
        (x.bodkin = false → x.abandoned = false → t.tb.stState = 3 ∧ t.tb.stCode = 0 ∧ t.tb.stDone = true) ∧
        t.md = s.md ∧ t.act = s.act ∧ t.stg = s.stg) ∧
      (x.perMs < left → x.cancelled = true ∨ x.abandoned = true → ∃ t, exec .slewMsTick s = .next t ∧ t.tb.slew = none ∧
        t.tb.last = satSym 64 (roundQ (x.change + sgn * x.perMs)) ∧ t.tb.warp = s.tb.warp ∧
        (x.bodkin = false → t.tb.stState = (if x.abandoned then 6 else 7) ∧ t.tb.stCode = (if x.abandoned then 0x30 else 0)) ∧
        t.md = s.md ∧ t.act = s.act ∧ t.stg = s.stg))

/-- In CALIBRATE, once each: TAC_CALIBRATION with 2^22 hits for each of the 33 TACs, which all pass, gives each TAC the table of its hits and keeps every TAC at its position, and one in which the TAC of the GNSS epoch strobe alone fails puts its group's spare at that position; STAKE_CALIBRATION of a port keeps its measured delays and whether they pass; OUTPUT_CALIBRATION is marked done, and changes nothing else while another is missing. While another calibration is missing the mode stays CALIBRATE; when this one was the last the mode is ACQUIRE with cause 0x10. (R35, R44, R144, R145, R149, R414, R415) -/
def Obligations.CalibrationsEndCalibrate : Prop :=
  ∀ s : State, s.md.mode = .calibrate → s.ports.length = 5 →
    (∀ hits, s.md.calTac = false → s.tac.tables.length = 33 → (∀ k < 33, (hits.getD k []).sum = 4194304) →
      ((∀ k < 33, calPasses (hits.getD k []) = true) → ∃ t, exec (.tacCalibration hits) s = .next t ∧ t.md.calTac = true ∧ t.tac.posTac = s.tac.posTac ∧ t.tac.failed = s.tac.failed ∧
        (∀ k < 33, t.tac.tables.getD k [] = inlTable (hits.getD k [])) ∧
        ((s.md.calOut && s.md.calStk.all id) = false → t.md.mode = .calibrate) ∧
        ((s.md.calOut && s.md.calStk.all id) = true → t.md.mode = .acquire ∧ t.md.cause = 0x10)) ∧
      (calPasses (hits.getD 28 []) = false → (∀ k < 33, k ≠ 28 → calPasses (hits.getD k []) = true) →
        s.tac.posTac = List.range 29 → s.tac.spare.getD 3 63 = 32 → ∃ t, exec (.tacCalibration hits) s = .next t ∧ t.md.calTac = true ∧
        t.tac.posTac = putAt s.tac.posTac 28 32 ∧ t.tac.spare = putAt s.tac.spare 3 63 ∧ t.tac.failed = s.tac.failed + 1)) ∧
    (∀ n main alt, n < 4 → s.md.calStk.getD n true = false → ∃ t, exec (.stakeCalibration n main alt) s = .next t ∧
        t.md.calStk = putAt s.md.calStk n true ∧ (t.port n).stk.calOk = (calDelays n (s.cfgSpeed n) main).2.2 ∧
        (t.port n).stk.txCal = setMean main.transmit ∧ (t.port n).stk.rxCal = (calDelays n (s.cfgSpeed n) main).1.toNat ∧
        ((s.md.calTac && s.md.calOut && (putAt s.md.calStk n true).all id) = false → t.md.mode = .calibrate) ∧
        ((s.md.calTac && s.md.calOut && (putAt s.md.calStk n true).all id) = true → t.md.mode = .acquire ∧ t.md.cause = 0x10)) ∧
    (s.md.calOut = false → ∃ t, exec .outputCalibration s = .next t ∧ t.md.calOut = true ∧
        ((s.md.calTac && s.md.calStk.all id) = false → t = { s with md := { s.md with calOut := true } }) ∧
        ((s.md.calTac && s.md.calStk.all id) = true → t.md.mode = .acquire ∧ t.md.cause = 0x10))

/-- From ACQUIRE on with background calibration enabled: TAC_BG_CAL_DONE of a spare with 2^CAL_LOG2 hits that pass replaces its table and marks it fresh; with hits that fail it retires the spare, counts it and reports a fault of island 4. TAC_ROTATE, once ROT_PERIOD has passed since the group's last, with a fresh spare and a ready TAC at the group's next position swaps the two, moves on to the next position and, on an event input, lets the new TAC join as the member that is not next. Nothing else changes, and nothing at all while that TAC converts or the spare is not fresh. (R143, R147, R148, R149) -/
def Obligations.SpareTacsCalibrateAndRotate : Prop :=
  ∀ (s : State) (g : Nat) (hits : List Nat), s.md.mode.serving = true → s.bit 0x50000 31 = true → g < 4 → s.tac.spare.getD g 63 < 33 →
    let sp := s.tac.spare.getD g 63
    (hits.sum = 2 ^ s.fld 0x50000 28 24 → calPasses hits = true → exec (.tacBgCalDone g hits) s = .next { s with tac := { s.tac with
      tables := putAt s.tac.tables sp (inlTable hits), fresh := putAt s.tac.fresh g true } }) ∧
    (hits.sum = 2 ^ s.fld 0x50000 28 24 → calPasses hits = false → ∃ t, exec (.tacBgCalDone g hits) s = .next t ∧
      t.tac = { s.tac with spare := putAt s.tac.spare g 63, failed := s.tac.failed + 1 } ∧
      (∃ r ∈ t.fmu.reports, r.tag = 0x3004) ∧ t = { s with tac := t.tac, fmu := t.fmu, ctr := t.ctr }) ∧
    (let p0 := (groupSpan g).1
     let pos := s.tac.nextPos.getD g p0
     ((s.tac.fresh.getD g false = false ∨ s.tacReady pos = false) → exec (.tacRotate g) s = .next s) ∧
     (s.tac.fresh.getD g false = true → s.tacReady pos = true → s.tac.rotAt.getD g 0 + s.fld 0x50000 7 0 * nsPerSec ≤ s.now →
      exec (.tacRotate g) s = .next { s with
        tac := { s.tac with rotAt := putAt s.tac.rotAt g s.now, posTac := putAt s.tac.posTac pos sp, spare := putAt s.tac.spare g (s.tacAt pos),
                            fresh := putAt s.tac.fresh g false, nextPos := putAt s.tac.nextPos g (p0 + (pos - p0 + 1) % (groupSpan g).2) },
        tin := { s.tin with ins := if pos < 16 then updAt s.tin.ins (pos / 2) (fun i => { i with member := 1 - pos % 2 }) else s.tin.ins } }))

/-- In a capturing mode, a selected edge of an input in event mode with BURST 0, no interval awaiting it, no PPSOUT following it and a ready TAC: its time is Warp plus the TAC's own table plus DLY, one EVENT record with the next SEQ enters the input's FIFO when that holds fewer than 1,024, and the TAC is busy for 40 ns. With no TAC ready the edge is missed and counted. Nothing else changes. CAPTURE_BUFFER_WRITE of the input whose turn it is moves its record to WR while the buffer is not full; while it is full the record is lost and counted, and an OVERFLOW record is owed. (R141, R153, R154, R156, R165, R171, R172, R175) -/
def Obligations.EventEdgesBecomeRecordsInOrder : Prop :=
  ∀ (s : State) (n : Nat) (falling : Bool) (code : Nat), n < 8 → s.tin.ins.length = 8 →
    (s.tinCaptures = true → s.ownSelected n falling = true → s.tinMode n = 1 → s.tinBurst n = 0 →
      (∀ m < 8, s.stopSelected n m falling = false) → (s.tinAt n).gapFrom = none → (s.tinAt n).opened = none →
      (∀ mem, s.tinMember n = some mem → (s.tinAt n).fifo.length < 1024 → (∀ m < 4, ¬ (s.bit (pBase m) 29 = true ∧ s.fld (pBase m) 28 25 = 8 + n)) →
        let tm : Int := (s.warpSns : Int) + s.tacF (s.tacAt (2 * n + mem)) code + s.tinDly n
        ∃ t, exec (.tinEdge n falling code) s = .next t ∧
          (t.tinAt n).fifo = (s.tinAt n).fifo ++ [(tm - s.tb.stepSum,
            recEvent n falling false mem (s.tinAt n).seq ⟨wrapTime tm, s.vBit, s.tb.l⟩)] ∧
          (t.tinAt n).seq = ((s.tinAt n).seq + 1) % 65536 ∧ (t.tinAt n).member = 1 - mem ∧
          t.tac = { s.tac with busyUntil := putAt s.tac.busyUntil (s.tacAt (2 * n + mem)) (s.now + 40) } ∧
          (∀ m < 8, m ≠ n → t.tinAt m = s.tinAt m) ∧ t = { s with tac := t.tac, tin := { s.tin with ins := t.tin.ins } }) ∧
      (s.tinMember n = none → ∃ t, exec (.tinEdge n falling code) s = .next t ∧ (t.tinAt n).missed = true ∧
          (t.tinAt n).fifo = (s.tinAt n).fifo ∧ t.ctrAt (0x50300 + 8 * n) = ctrAdd (s.ctrAt (0x50300 + 8 * n)) 1 ∧
          t = { s with ctr := t.ctr, tin := { s.tin with ins := t.tin.ins } })) ∧
    (∀ tm rec rest, (s.tinAt n).fifo = (tm, rec) :: rest → s.portTurn n = true → s.tin.ovfDue = false →
      (s.bufFull = false → ∃ t, exec (.captureBufferWrite n) s = .next t ∧ (t.tinAt n).fifo = rest ∧ t.tin.wr = (s.tin.wr + 1) % 2 ^ 32 ∧
          t.tin.buf = (s.tin.buf ++ [rec]).drop ((s.tin.buf ++ [rec]).length - 16384) ∧ t = { s with tin := t.tin, hif := { s.hif with evs := t.hif.evs } }) ∧
      (s.bufFull = true → ∃ t, exec (.captureBufferWrite n) s = .next t ∧ (t.tinAt n).fifo = rest ∧ t.tin.wr = s.tin.wr ∧
          t.tin.buf = s.tin.buf ∧ t.tin.ovfDue = true ∧ t.tin.lostTotal = s.tin.lostTotal + 1 ∧
          t.ctrAt (0x50340 + 8 * n) = ctrAdd (s.ctrAt (0x50340 + 8 * n)) 1 ∧ t = { s with tin := t.tin, ctr := t.ctr, hif := t.hif }))

/-- Once writes are taken, TIN_ARM of one input with BURST not 0 arms it from SEQ 0, or sets REARM when it is armed already; TIN_ARM DISARM of one input disarms it, and closes its open measurement as a silence does. A measurement silent for BURST_GAP is closed by MEASUREMENT_TRUNCATE: a TRUNCATED record with its count and span enters the FIFO when that holds fewer than 1,024, and a GAP is owed from its last edge. Only that input changes. (R157, R158, R159, R162, R167, R178) -/
def Obligations.MeasurementsArmTruncateAndDisarm : Prop :=
  ∀ (s : State) (n : Nat), n < 8 → s.tin.ins.length = 8 →
    (s.noWrites = false → s.tinBurst n ≠ 0 →
      (∃ t, exec (.tinArm (BitVec.ofNat 8 (2 ^ n))) s = .next t ∧ t = { s with tin := { s.tin with ins := t.tin.ins } } ∧
        (∀ m < 8, m ≠ n → t.tinAt m = s.tinAt m) ∧
        ((s.tinAt n).armed = true → t.tinAt n = { s.tinAt n with rearm := true }) ∧
        ((s.tinAt n).armed = false → t.tinAt n = { s.tinAt n with armed := true, seq := 0, burstDone := 0 }))) ∧
    (∀ m, s.noWrites = false → (s.tinAt n).opened = some m → (s.tinAt n).fifo.length < 1024 →
      ∃ t, exec (.tinDisarm (BitVec.ofNat 8 (2 ^ n))) s = .next t ∧ t = { s with tin := { s.tin with ins := t.tin.ins } } ∧
        (∀ m < 8, m ≠ n → t.tinAt m = s.tinAt m) ∧
        t.tinAt n = { s.tinAt n with armed := false, opened := none, gapFrom := some m.last, fifo := (s.tinAt n).fifo ++ [(m.last,
          recTruncated n (s.tinMode n - 1) ((s.tinAt n).seq + 65535) (m.count (s.tinMode n)) (m.last - m.first))] }) ∧
    (s.noWrites = false → (s.tinAt n).opened = none →
      ∃ t, exec (.tinDisarm (BitVec.ofNat 8 (2 ^ n))) s = .next t ∧ t = { s with tin := { s.tin with ins := t.tin.ins } } ∧
        (∀ m < 8, m ≠ n → t.tinAt m = s.tinAt m) ∧ t.tinAt n = { s.tinAt n with armed := false }) ∧
    (∀ m last, (s.tinAt n).opened = some m → (s.tinAt n).lastEdge = some last → last + s.fld 0x50010 26 0 * 1000 ≤ s.now →
      (s.tinAt n).fifo.length < 1024 →
      ∃ t, exec (.measurementTruncate n) s = .next t ∧ t = { s with tin := { s.tin with ins := t.tin.ins } } ∧
        (∀ k < 8, k ≠ n → t.tinAt k = s.tinAt k) ∧
        t.tinAt n = { s.tinAt n with opened := none, gapFrom := some m.last, fifo := (s.tinAt n).fifo ++ [(m.last,
          recTruncated n (s.tinMode n - 1) ((s.tinAt n).seq + 65535) (m.count (s.tinMode n)) (m.last - m.first))] })

/-- Once writes are taken: enabling the reader sets RD_EN, and a reader behind held_from starts there; a read of TIN_REC0 with unread records and no overflow owed latches the record at RD and advances RD by 1 modulo 2^32; with none unread it returns zeros and RD stays; MARK keeps RD; REWIND goes back to a valid mark with code 0x00, or, with none or one that is lost, to held_from with code 0x20; CLEAR removes the mark and clears TIN_MARK_LOST. Only the reader, its latch, the path's last word read and TIN_GLB change. (R172, R173, R174, R176, R183) -/
def Obligations.RegisterReaderFollowsItsPointers : Prop :=
  ∀ s : State, s.noWrites = false → s.lat.length = 2 →
    (s.rdEn = false → ∃ t, exec .registerReaderEnable s = .next t ∧ t.rdEn = true ∧
      t.tin.rdr.rd = (if 16384 < s.unread s.tin.rdr ∨ s.tin.buf.length < s.unread s.tin.rdr then s.heldFrom else s.tin.rdr.rd) ∧
      t = { s with act := t.act, stg := t.stg, tin := { s.tin with rdr := { s.tin.rdr with rd := t.tin.rdr.rd } } }) ∧
    (∀ p, s.unread s.tin.rdr ≠ 0 → s.tin.ovfDue = false → ∃ t, exec (.tinRecRead p) s = .next t ∧
      t.tin = { s.tin with recLatch := s.recAt s.tin.rdr.rd, rdr := { s.tin.rdr with rd := (s.tin.rdr.rd + 1) % 2 ^ 32 } } ∧
      (t.latOf p).lastRead = BitVec.ofNat 32 (s.recAt s.tin.rdr.rd).toNat ∧ t = { s with tin := t.tin, lat := t.lat }) ∧
    (∀ p, s.unread s.tin.rdr = 0 → ∃ t, exec (.tinRecRead p) s = .next t ∧ t.tin = { s.tin with recLatch := 0 } ∧
      (t.latOf p).lastRead = 0 ∧ t = { s with tin := t.tin, lat := t.lat }) ∧
    exec .tinMark s = .next { s with tin := { s.tin with rdr := { s.tin.rdr with mark := some s.tin.rdr.rd, gone := false, code := 0 } } } ∧
    (∀ m, s.tin.rdr.mark = some m → s.tin.rdr.gone = false → ptrSub s.tin.wr m ≤ 16384 → exec .tinRewind s =
      .next { s with tin := { s.tin with rdr := { s.tin.rdr with rd := m, code := 0 } } }) ∧
    ((∀ m, s.tin.rdr.mark = some m → s.tin.rdr.gone = true ∨ 16384 < ptrSub s.tin.wr m) → exec .tinRewind s =
      .next { s with tin := { s.tin with rdr := { s.tin.rdr with rd := s.heldFrom, code := 0x20 } } }) ∧
    exec .tinClear s = .next { s with tin := { s.tin with rdr := { s.tin.rdr with mark := none, gone := false, markLost := false, code := 0 } } }

/-- Of a watched reference 8 to 16, which brings its phase: fewer than 8 measurements before it, or a departure from their prediction of at most PJ_LIM, makes it the newest measurement, new to the servo; a greater departure after 8 of them sets PJUMP and puts a reference that was not in DISQ into DISQ. Of REFIN 0 to 7 an edge at a ready TAC is taken at Warp plus the table's time, and judged so: a pulse without message gives the phase to the nearest second, a frequency the phase since its last edge, a pulse with a good message that came 10 ms before or earlier the time of the message; at a busy TAC it is missed and nothing else changes. A pulse more than 10 us from its expected instant sets PJUMP and disqualifies. An activity deadline that has passed sets LOS and does the same. A TODIN message at the line's rate with a good label waits with its instant of arrival; any other changes nothing. Registers, mode and Warp stay. (R188, R189, R191, R192, R197) -/
def Obligations.ReferencesAreJudgedByTheirMonitors : Prop :=
  ∀ (s : State) (i : Nat), s.ref.refs.length = 17 → i < 17 → s.refOn i = true →
    let accepted := fun (t : State) (z : Int) => (t.refAt i).z = z ∧ (t.refAt i).isNew = true ∧ (t.refAt i).active = true ∧
      (t.refAt i).lastAt = some s.now ∧ (t.refAt i).st = (s.refAt i).st ∧ ∀ j, j ≠ i → t.refAt j = s.refAt j
    let stands := fun (t : State) => t.md.mode = s.md.mode ∧ t.act = s.act ∧ t.stg = s.stg ∧ t.tb.warp = s.tb.warp ∧ t.ports = s.ports
    let near := fun (z : Int) => (s.refAt i).recent.length < 8 ∨ |(z : Rat) - predict8 (s.refAt i).recent s.now| ≤ s.pjLim i
    (∀ z : Int, 8 ≤ i → near z → ∃ t, exec (.refMeasurement i (.phase z)) s = .next t ∧ accepted t z ∧
      t = { s with ref := { s.ref with refs := t.ref.refs } }) ∧
    (∀ z : Int, 8 ≤ i → ¬ near z → (s.refAt i).st ≠ .disq →
      ∃ t, exec (.refMeasurement i (.phase z)) s = .next t ∧ (t.refAt i).st = .disq ∧ (t.refAt i).pjump = true ∧ (t.refAt i).z = (s.refAt i).z ∧
        stands t) ∧
    (∀ code, i < 8 → s.tacReady (16 + i) = false → exec (.refMeasurement i (.edge code)) s =
      .next { s with tac := { s.tac with missed := updAt s.tac.missed (16 + i) (· + 1) } }) ∧
    (∀ code, i < 8 → s.tacReady (16 + i) = true →
      let w : Int := (s.warpSns : Int) + s.tacF (s.tacAt (16 + i)) code
      let kept := fun (t : State) => t = { s with tac := { s.tac with busyUntil := t.tac.busyUntil }, out := { s.out with pps := t.out.pps },
                                                  ref := { s.ref with refs := t.ref.refs, tod := t.ref.tod } }
      (s.refKind i = 1 → pulseOff (s.refAt i) w = false → near (phaseZ (s.refAt i) w) →
        ∃ t, exec (.refMeasurement i (.edge code)) s = .next t ∧ accepted t (phaseZ (s.refAt i) w) ∧ kept t) ∧
      (s.refKind i = 2 → (s.refAt i).lastAt.isSome = true →
        let d := w - (s.refAt i).lastT
        let z := (s.refAt i).z + (d + 32768000000) / 65536000000 * 65536000000 - d
        near z → ∃ t, exec (.refMeasurement i (.edge code)) s = .next t ∧ accepted t z ∧ kept t) ∧
      (∀ l at_, s.refKind i = 0 → pulseOff (s.refAt i) w = false → s.ref.tod.waiting = some (l, at_) → at_ + 10000000 ≤ s.now →
        s.ref.tod.lastLabel = none → near ((l : Int) * 65536000000000 - w) →
        ∃ t, exec (.refMeasurement i (.edge code)) s = .next t ∧ accepted t ((l : Int) * 65536000000000 - w) ∧
          t.ref.tod = { waiting := none, lastLabel := some (l, w), bad := 0 } ∧ kept t) ∧
      (s.refKind i ≠ 2 → pulseOff (s.refAt i) w = true → (s.refAt i).st ≠ .disq →
        ∃ t, exec (.refMeasurement i (.edge code)) s = .next t ∧ (t.refAt i).st = .disq ∧ (t.refAt i).pjump = true ∧ stands t)) ∧
    (∀ k, s.activityDue i k = true → (s.refAt i).st ≠ .disq →
      ∃ t, exec (.refActivityTimeout i k) s = .next t ∧ (t.refAt i).st = .disq ∧ (t.refAt i).los = true ∧ (t.refAt i).active = false ∧
        stands t) ∧
    (∀ baud bytes, exec (.todinMessage baud bytes) s =
      match todLabel 8 bytes with
      | some l => if baud = baudOf (s.fld 0x80500 20 18) then .next { s with ref := { s.ref with tod := { s.ref.tod with waiting := some (l, s.now) } } }
                  else .next s
      | none => .next s)

/-- While the part serves: SELECTOR_EVALUATION applies a pending set of REF first, as COMMIT_APPLY does, and then, or with none pending, puts every watched reference that is not in DISQ and fails its activity or time-of-day monitor into DISQ with LOS set, and changes no mode, register, port, Warp or elapsed time; ENSEMBLE_UPDATE puts the phase of each reference that measured within the last second at the head of its history, adds to P of each that is judged, not weak and has two seconds in a row the difference of its frequency from the weighted one of the other members and the oscillator, and moves no reference between states; WTR_COUNTDOWN takes 1 from WTR_LEFT of each reference in WTR, and stops at 0. (R87, R191, R192, R193, R197, R198, R199) -/
def Obligations.SelectorDisqualifiesAndCountsDown : Prop :=
  ∀ s : State, s.md.mode.serving = true → s.ref.refs.length = 17 →
    (∀ u, (s.cmt .ref).st = 2 → exec (.commitApply .ref true) s = .next u →
      exec .selectorEvaluation s = exec .selectorEvaluation u ∧ (u.cmt .ref).st = 3) ∧
    ((s.cmt .ref).st ≠ 2 → ∃ t, exec .selectorEvaluation s = .next t ∧
      (∀ i < 17, s.refOn i = true → (s.refAt i).st ≠ .disq → s.activityOk i = false → (t.refAt i).st = .disq ∧ (t.refAt i).los = true) ∧
      t.md.mode = s.md.mode ∧ t.act = s.act ∧ t.stg = s.stg ∧ t.tb.warp = s.tb.warp ∧ t.ports = s.ports ∧ t.now = s.now) ∧
    (∃ t, exec .ensembleUpdate s = .next t ∧ t = { s with ref := { s.ref with refs := t.ref.refs } } ∧
      (∀ i < 17, (t.refAt i).st = (s.refAt i).st ∧ (t.refAt i).z = (s.refAt i).z) ∧
      (∀ i < 17, ∀ at_, (s.refAt i).lastAt = some at_ → s.now ≤ at_ + 1000000000 →
        (t.refAt i).secHist = ((s.refAt i).z :: (s.refAt i).secHist).take 66) ∧
      (∀ i < 17, ∀ y, s.refOn i = true → (s.refAt i).st ≠ .disq → s.weakNow i = false → (t.refAt i).yNow = some y →
        let terms := (((List.range 17).filter fun j => j != i && s.member j).filterMap fun j =>
          (t.refAt j).yNow.map fun y => (ensWeight (t.refAt j).secHist, y)) ++ [(s.oscWeight, s.oscFreq * 65536000000000)]
        sumQ (terms.map (·.1)) ≠ 0 →
        (t.refAt i).p = (s.refAt i).p + (y - sumQ (terms.map fun x => x.1 * x.2) / sumQ (terms.map (·.1))))) ∧
    exec .wtrCountdown s = .next { s with ref := { s.ref with refs := s.ref.refs.map fun r =>
      if r.st == .wtr then { r with wtrLeft := r.wtrLeft - 1 } else r } }

/-- Once writes are taken: an ID above 16 answers 0x10, and a mode other than ACQUIRE, LOCKED, HOLDOVER and FREERUN 0x24, with nothing else changed. Otherwise END_WTR of a reference in WTR ends its count at the next evaluation with code 0x00, of one not in WTR answers 0x20; FORGET puts the reference into DISQ with NEVER set and its history cleared, its cause bits kept, with code 0x00. (R197, R210, R211, R217) -/
def Obligations.SelectorControlAnswersWithItsCode : Prop :=
  ∀ (s : State) (tok : BitVec 16) (i : Nat), s.noWrites = false → s.ref.refs.length = 17 →
    let answer := fun (code : Nat) => { s with ref := { s.ref with ctlToken := tok.toNat, ctlCode := code } }
    (16 < i → exec (.endWtr tok i) s = .next (answer 0x10) ∧ exec (.forget tok i) s = .next (answer 0x10)) ∧
    (i ≤ 16 → s.md.mode.running = false → exec (.endWtr tok i) s = .next (answer 0x24) ∧ exec (.forget tok i) s = .next (answer 0x24)) ∧
    (i ≤ 16 → s.md.mode.running = true → (s.refAt i).st ≠ .wtr → exec (.endWtr tok i) s = .next (answer 0x20)) ∧
    (i ≤ 16 → s.md.mode.running = true → (s.refAt i).st = .wtr → ∃ t, exec (.endWtr tok i) s = .next t ∧
      t.refAt i = { s.refAt i with endWtr := true } ∧ (∀ j, j ≠ i → t.refAt j = s.refAt j) ∧
      t = { s with ref := { s.ref with refs := t.ref.refs, ctlToken := tok.toNat, ctlCode := 0 } }) ∧
    (i ≤ 16 → s.md.mode.running = true → ∃ t, exec (.forget tok i) s = .next t ∧ t.ref.ctlCode = 0 ∧ t.ref.ctlToken = tok.toNat ∧
      (t.refAt i).st = .disq ∧ (t.refAt i).never = true ∧ (t.refAt i).recent = [] ∧ (t.refAt i).secHist = [] ∧ (t.refAt i).pHist = [] ∧
      (t.refAt i).los = (s.refAt i).los ∧ (t.refAt i).freq = (s.refAt i).freq ∧ (t.refAt i).pjump = (s.refAt i).pjump ∧
      (t.refAt i).te = (s.refAt i).te ∧ (t.refAt i).proj = (s.refAt i).proj ∧ (t.refAt i).qlf = (s.refAt i).qlf ∧
      (t.refAt i).integ = (s.refAt i).integ ∧ t.md.mode = s.md.mode ∧ t.act = s.act ∧ t.stg = s.stg)

/-- With Bodkin halted nothing changes; else a pending set of SRV is applied first, but in MAINTAIN, as COMMIT_APPLY does, and with none pending the heartbeat restarts. In ACQUIRE, LOCKED, HOLDOVER or FREERUN with island 3 in service, a loop that tracks a reference with a new z, time set and no operation to repeat, forms e = z - B, adds Ki x e x Tm to i, Tm being the time between the two measurements, sets p to Kp x e, moves z_f by a x (z - z_f), and puts y_anchor + i + p in force, held to the PLL's span and rounded to its 48-bit N; without a new z, z_f falls by p over the millisecond. In other modes nothing but the heartbeat changes. Registers, time base and mode stay. (R87, R218, R219, R220, R222, R575, R593) -/
def Obligations.ServoRunsTheLoopOfItsRule : Prop :=
  ∀ s : State, (s.fmu.halted = true → exec .servoUpdate s = .next s) ∧ (s.fmu.halted = false →
    (∀ u, (s.cmt .srv).st = 2 → s.md.mode ≠ .maintain → exec (.commitApply .srv true) s = .next u →
      exec .servoUpdate s = exec .servoUpdate u ∧ (u.cmt .srv).st = 3) ∧
    (((s.cmt .srv).st ≠ 2 ∨ s.md.mode = .maintain) → s.md.mode.running = false → exec .servoUpdate s = .next { s with fmu := { s.fmu with lastHeart := s.now } }) ∧
    (∀ i, (s.cmt .srv).st ≠ 2 → s.md.mode.running = true → s.islandOut 3 = false → s.srv.st = .tracking → s.srv.target = some i → s.srv.retry = false →
      s.md.timeSet = true → i < s.ref.refs.length →
      let zeta : Rat := if s.bit 0x70000 30 then 5 else 707 / 1000
      let g : Rat := if s.bit 0x70000 30 then 1010 / 100 else 2058 / 1000
      let wn := 2 * piQ * s.bwEff i / g
      ∃ t, exec .servoUpdate s = .next t ∧ t.fmu = { s.fmu with lastHeart := s.now } ∧ t.md.mode = s.md.mode ∧ t.tb = s.tb ∧
        t.act = s.act ∧ t.stg = s.stg ∧ t.ports = s.ports ∧
        ((s.refAt i).isNew = true →
          let e : Rat := ((s.refAt i).z : Rat) - s.srv.bo
          let tm : Rat := match s.srv.lastZ with | some x => (((s.refAt i).lastAt.getD s.now - x.1 : Nat) : Rat) / 1000000000 | none => 1
          t.srv.i = s.srv.i + wn * wn * (e / 65536000000000) * tm ∧ t.srv.p = 2 * zeta * wn * (e / 65536000000000) ∧
          t.srv.zf = s.srv.zf + min 1 (2 * piQ * s.bwEff i * tm) * (((s.refAt i).z : Rat) - s.srv.zf) ∧
          t.srv.yCmd = s.quantY (clampY (s.srv.yAnchor + t.srv.i + t.srv.p)) ∧ (t.refAt i).isNew = false) ∧
        ((s.refAt i).isNew = false → t.srv.zf = s.srv.zf - s.srv.p * 65536000000 ∧ t.srv.i = s.srv.i ∧ t.srv.yCmd = s.srv.yCmd)))

/-- FASTLOCK_HALVE, once the stay of 4 / (2 pi x stage bandwidth) seconds has passed, halves the stage bandwidth, or ends the stage when the half is no more than BW, and counts the stay anew. SPLICE_WINDOW_END of a window that has run, is not limited by re-targets and holds at least 2 measurements, while Warp is not vouched for, leaves the loop tracking its target with the bridge ended, y_anchor at the bridge frequency plus the slope fitted over the window, z_f at the last measurement and the integral and proportional terms at 0; in HOLDOVER the prediction stands but no longer steers, elsewhere it ends. Mode, registers, references, ports and Warp stay. (R221, R222, R223, R224) -/
def Obligations.FastLockHalvesAndTheWindowEndsOnItsTarget : Prop :=
  ∀ s : State, s.md.mode.running = true →
    (∀ since, s.srv.stageSince = some since → s.srv.stageBw ≠ 0 → 4 / (2 * piQ * s.srv.stageBw) ≤ s.secsSince since →
      exec .fastlockHalve s = .next { s with srv := { s.srv with
        stageBw := if s.srv.stageBw / 2 ≤ s.bwHz then 0 else s.srv.stageBw / 2, stageSince := some s.now } }) ∧
    (∀ w last, s.srv.st = .window → s.srv.win = some w → w.limited = false → w.start + w.len ≤ s.now → 2 ≤ w.samples.length →
      w.samples.getLast? = some last → s.vouched = false →
      let slope := (fitLine (w.samples.map fun x => (((x.1 : Rat) - (w.start : Rat)) / 1000000000, (x.2 : Rat)))).2
      ∃ t, exec .spliceWindowEnd s = .next t ∧ t.srv.st = .tracking ∧ t.srv.win = none ∧ t.srv.bridge = false ∧
        t.srv.hold = (if s.md.mode = .holdover then s.srv.hold.map (fun h => { h with follows := false }) else none) ∧
        t.srv.yAnchor = s.srv.bridgeY + slope / 65536000000000 ∧ t.srv.zf = (last.2 : Rat) ∧ t.srv.lastZ = some last ∧
        t.srv.i = 0 ∧ t.srv.p = 0 ∧ t.srv.target = s.srv.target ∧ t.md = s.md ∧ t.act = s.act ∧ t.stg = s.stg ∧ t.tb.warp = s.tb.warp ∧
        t.ref = s.ref ∧ t.ports = s.ports)

/-- HOLDOVER_MODEL_FIT in LOCKED while tracking, 60 s after any STEP, adds one sample of y_cmd and temperature to those within HO_WIN, the seconds of the fit being as many as they are, and leaves y_cmd; MODEL_COPY_WRITE in LOCKED writes the 64 bytes of the copy whose turn it is and leaves the other; HOLDOVER_PREDICT in ACQUIRE, HOLDOVER, FREERUN and MAINTAIN sets E to E0 + u_y t + u_D t^2 / 2 + u_c x the sum of temperature departures; FORGET_MODEL in ACQUIRE, LOCKED or FREERUN erases the model and both copies with code 0x00 and, in HOLDOVER, MAINTAIN and SAFE, answers 0x24 alone. Beside the servo, the first and the last refresh the selector's flags, the last makes the coasting test anchor anew, and the prediction refreshes what the outputs mute and the frequency sum of that test. (R229, R230, R231, R234, R244, R245) -/
def Obligations.HoldoverModelIsFittedKeptAndForgotten : Prop :=
  ∀ (s : State) (tok : BitVec 16),
    (s.md.mode = .locked → s.srv.st = .tracking → (∀ at_, s.tb.stepAt = some at_ → at_ + 60 * 1000000000 ≤ s.now) →
      let kept := (s.srv.modelHist ++ [(s.now, s.srv.yCmd, s.oscTemp)]).filter fun x => decide (s.now ≤ x.1 + s.fld 0x70020 6 0 * 3600 * 1000000000)
      ∃ t, exec .holdoverModelFit s = .next t ∧ t.srv.fitAt = s.now ∧ t.srv.fitS = min kept.length (s.fld 0x70020 6 0 * 3600) ∧
        t.srv.yCmd = s.srv.yCmd ∧ t.srv.modelHist = kept ∧
        t = { s with srv := t.srv, ref := { s.ref with ensWeak := t.ref.ensWeak, forceMiss := t.ref.forceMiss } }) ∧
    (s.md.mode = .locked → ∃ c : ModelCopy, c.m = s.srv.model ∧ c.learnt = s.srv.learnt ∧ c.oscKhz = s.fld 0x70024 16 0 ∧
      c.updSec = s.secNow % 2 ^ 48 ∧ c.aux = s.auxFitted ∧ c.bytes.length = 64 ∧ exec .modelCopyWrite s = .next { s with fe := if s.fe.nextB
        then { s.fe with copyB := some c.bytes, nextB := false } else { s.fe with copyA := some c.bytes, nextB := true } }) ∧
    (∀ h, s.srv.hold = some h → (s.md.mode = .acquire ∨ s.md.mode = .holdover ∨ s.md.mode = .freerun ∨ s.md.mode = .maintain) →
      let el := s.secsSince h.start
      let sumDT := h.sumDT + |((s.oscTemp - h.tempH : Int) : Rat)| / 16
      ∃ t, exec .holdoverPredict s = .next t ∧ t.srv.hold = some { h with sumDT := sumDT } ∧
        t.srv.pred = h.e0 + ((s.modelU.uy : Rat) / 10 ^ 15 * el + (s.modelU.ud : Rat) / 10 ^ 18 / 3600 * el ^ 2 / 2 +
          (s.modelU.uc : Rat) / 10 ^ 15 * sumDT) * 65536000000000 ∧ t = { s with srv := t.srv, out := t.out, gns := { s.gns with qFreq := t.gns.qFreq, qAt := t.gns.qAt } }) ∧
    (s.md.mode = .acquire ∨ s.md.mode = .locked ∨ s.md.mode = .freerun → ∃ t, exec (.forgetModel tok) s = .next t ∧
      t.srv = { s.srv with model := Model.unlearnt, learnt := false, prior := false, fitS := 0, modelHist := [], ctlToken := tok.toNat, ctlCode := 0 } ∧
      t.fe = { s.fe with copyA := none, copyB := none, nextB := false } ∧
      t = { s with srv := t.srv, fe := t.fe, gns := { s.gns with qDue := true, qAnch := false }, ref := { s.ref with ensWeak := t.ref.ensWeak, forceMiss := t.ref.forceMiss } }) ∧
    (s.md.mode = .holdover ∨ s.md.mode = .maintain ∨ s.md.mode = .safe → ∃ t, exec (.forgetModel tok) s = .next t ∧
      t = { s with srv := { s.srv with ctlToken := tok.toNat, ctlCode := 0x24 },
                   ref := { s.ref with ensWeak := t.ref.ensWeak, forceMiss := t.ref.forceMiss } })

/-- On an enabled, unmuted PPSOUT that is neither high nor within 4 ns of a pulse's end, an edge whose instant, the schedule's phase plus a whole number of periods, lies within this ns, or which a running slew has moved back over this ns's start since the last, starts the pulse when it passes the comparison with Weft, and keeps its place within the ns; with the gate closed it is suppressed whole and only OUT_SUPPRESSED counts; failing the comparison with the gate open it is suppressed, the gate closes and the mode is SAFE. An output without an edge due changes nothing. A high pulse whose width has run ends, what waited for its end is muted, and nothing outside the outputs changes. With no accepted edge for 2 x PERIOD an aligned PPSOUT sets INPUT_LOST, stays at its last phase, and nothing else changes. A muted PPSOUT rests at the level that POL makes inactive, or with MZ 1 is high-impedance; an unmuted one is active exactly while its pulse runs. (R52, R53, R253, R256, R262, R264, R275, R556, R557) -/
def Obligations.PulseEdgesPassTheComparisonOrAreSuppressed : Prop :=
  ∀ (s : State) (m : Nat),
    (s.ppsDue m = none → exec (.ppsEdge m) s = .next s) ∧
    (∀ (ph d : Rat) (k : Int), s.bit (pBase m) 31 = true → (s.ppsAt m).muted = false → (s.ppsAt m).high = false →
      (∀ e, (s.ppsAt m).endedAt = some e → e + 4 ≤ s.now) → s.ppsPhase m = some ph → (s.reg (pBase m + 4)).toNat ≠ 0 →
      d = ph + (k : Rat) * (((s.reg (pBase m + 4)).toNat * 65536 : Nat) : Rat) - (s.warpSns : Rat) → -(s.ppsAt m).back ≤ d → d < 65536 →
      d < (((s.reg (pBase m + 4)).toNat * 65536 : Nat) : Rat) - (s.ppsAt m).back →
      let passes := s.weftPasses (weftDiff s.tb.warp s.weftCmp)
      (s.fmu.gate = false → passes = true → exec (.ppsEdge m) s = .next (s.setPps m fun p =>
        { p with high := true, width := (s.reg (pBase m + 8)).toNat, startedAt := s.now, fine := roundQ (max 0 d * 1000 / 65536) })) ∧
      (s.fmu.gate = true → exec (.ppsEdge m) s = .next (s.count 0x80700)) ∧
      (s.fmu.gate = false → passes = false → ∃ t, exec (.ppsEdge m) s = .next t ∧
        t.fmu.gate = true ∧ t.md.mode = .safe ∧ (t.ppsAt m).high = false ∧
        t.act = s.act ∧ t.stg = s.stg ∧ t.tb.warp = s.tb.warp)) ∧
    ((s.ppsAt m).high = true → (s.ppsAt m).startedAt + (s.ppsAt m).width ≤ s.now →
      ∃ t, exec (.ppsPulseEnd m) s = .next t ∧ (t.ppsAt m).high = false ∧ (t.ppsAt m).endedAt = some s.now ∧
        (s.wantMuted (.pps m) = true → (t.ppsAt m).muted = true) ∧ t = { s with out := t.out }) ∧
    (s.bit (pBase m) 31 = true → s.bit (pBase m) 29 = true → (s.ppsAt m).inAt + 2 * (s.reg (pBase m + 4)).toNat ≤ s.now →
      exec (.ppsInputLost m) s = .next (s.setPps m fun p =>
        { p with inputLost := true, inGoal := (s.ppsAt m).inPhase.getD (s.ppsAt m).inGoal })) ∧
    ((s.ppsAt m).muted = true → s.bit (pBase m) 20 = true → s.ppsBall m = .hiZ) ∧
    ((s.ppsAt m).muted = true → s.bit (pBase m) 20 = false → s.ppsBall m = if s.bit (pBase m) 30 then .high else .low) ∧
    ((s.ppsAt m).muted = false → (s.ppsBall m = (if s.bit (pBase m) 30 then .low else .high) ↔ (s.ppsAt m).high = true))

/-- OUTPUT_UNMUTE at an instant at which the output may unmute (a CLKOUT's rising edge, a whole second of Warp for PPSOUT and TODOUT, GPPS's pulse), of a muted output that neither enable, latch, mode nor monitor mutes, leaves it unmuted, leaves every other output's muting and changes nothing outside the outputs; at another instant it changes nothing. CLKOUT_REALIGN at a whole second of Warp of an output waiting for it moves its next edge to the second's grid, not before it was due, and sets ALIGNED unless it is muted. A count of cycles more than 2 from the programmed one marks that CLKOUT, which must then be muted, until reset, mutes it at once if it is at rest, and sets DEGRADED, leaving mode and registers; a closer count changes nothing. OFFSET_SLEW_END at the goal clears SLEWING and nothing else. A muted CLKOUT holds _P low and _M high, as two LVCMOS balls both low, as one _P low, or with MZ 1 is high-impedance, by FMT and MZ of the cycle in progress; an unmuted one that runs has _P high in the first half of each cycle. (R248, R249, R251, R255, R259, R260, R261, R262, R273, R561) -/
def Obligations.OutputsUnmuteRealignAndAreMutedByTheirMonitor : Prop :=
  ∀ (s : State),
    (∀ o, s.unmuteInstant o = false → exec (.outputUnmute o) s = .next s) ∧
    (∀ o, s.wantMuted o = false → s.outMuted o = true → s.unmuteInstant o = true →
      ∃ t, exec (.outputUnmute o) s = .next t ∧ t.outMuted o = false ∧ t = { s with out := t.out } ∧
        ∀ o', o' ≠ o → t.outMuted o' = s.outMuted o') ∧
    (∀ n, (s.clkAt n).realign = true → s.nsNow = 0 → ∃ t, exec (.clkoutRealign n) s = .next t ∧
      t = s.setClk n (fun c => { c with realign := false, aligned := !(s.clkAt n).muted, next := (t.clkAt n).next }) ∧
      (0 < (s.clkAt n).per → (s.clkAt n).next ≤ (t.clkAt n).next ∧ (t.clkAt n).next < (s.clkAt n).next + (s.clkAt n).per ∧
        ∃ k : Int, (t.clkAt n).next = s.secondAt + (s.clkAt n).phase / 1000 + k * (s.clkAt n).per)) ∧
    (∀ n counted : Nat, n < 10 → s.bit (cBase n) 31 = true → (s.clkAt n).muted = false →
      (|(counted : Rat) - clkFreq s.act n| ≤ 2 → exec (.clkoutMonitorTrip n counted) s = .next s) ∧
      (2 < |(counted : Rat) - clkFreq s.act n| → ∃ t, exec (.clkoutMonitorTrip n counted) s = .next t ∧ (t.clkAt n).monMuted = true ∧
        t.wantMuted (.clk n) = true ∧ ((s.clkAt n).per = 0 → (t.clkAt n).muted = true) ∧
        t = { s with out := t.out, hif := t.hif } ∧ t.degraded = true)) ∧
    (∀ m, (s.ppsAt m).slewing = true → (s.ppsAt m).eff = (s.pair (pBase m + 12) : Rat) → exec (.offsetSlewEnd (.pps m)) s =
      .next (s.setPps m fun p => { p with slewing := false })) ∧
    (∀ n, (s.clkAt n).slewing = true → (s.clkAt n).phase = (signed 32 (s.reg (cBase n + 16)).toNat : Rat) →
      exec (.offsetSlewEnd (.clk n)) s = .next (s.setClk n fun c => { c with slewing := false })) ∧
    (∀ n, (s.clkAt n).muted = true →
      let fmt := if (s.clkAt n).per = 0 then s.fld (cBase n) 30 29 else (s.clkAt n).fmt
      let mz := if (s.clkAt n).per = 0 then s.bit (cBase n) 23 else (s.clkAt n).mz
      (mz = true → s.clkBalls n = (.hiZ, .hiZ)) ∧
      (mz = false → (fmt < 2 → s.clkBalls n = (.low, .high)) ∧ (fmt = 2 → s.clkBalls n = (.low, .low)) ∧
        (fmt = 3 → s.clkBalls n = (.low, .hiZ)))) ∧
    (∀ n, (s.clkAt n).muted = false → (s.clkAt n).per ≠ 0 → (s.clkAt n).start ≤ (s.now : Rat) →
      ((s.clkBalls n).1 = .high ↔ (s.now : Rat) < (s.clkAt n).start + (s.clkAt n).per / 2))

/-- With TODOUT enabled, unmuted and idle, at TOD_DELAY after the whole second or straight after a step passed it, and none sent in this second: TOD_MESSAGE_SEND sends a 34-byte TIME message that carries its sequence number and the SEC of the next whole second and ends in the CRC-32 of its first 30 bytes, with GNSS_MSG 1 and a valid solution followed by a 26-byte GNSS message; the number and the count of messages rise by one for each, and STEP is cleared; a message that can no longer end 10 ms before its second is only counted as omitted. At another instant, or once it is sent, nothing changes. GPPS_PULSE of an enabled, unmuted GPPS that is low holds the pulse for GPPS_WIDTH when the CLK_GNSS edge nearest a second of the solution has come and the comparison passes; without such an edge nothing changes; with the gate closed the pulse is counted as suppressed. A muted GPPS rests at its inactive level and a muted TODOUT high, or each is high-impedance with MZ 1; GPPS is active exactly while its pulse runs, and TODOUT sends a byte as a low start bit, its bits from the lowest and a high stop bit. (R260, R262, R264, R265, R266, R267, R268, R269, R270, R277, R278) -/
def Obligations.TodoutAndGppsSendOnePerSecond : Prop :=
  ∀ (s : State),
    (s.bit 0x80500 31 = true → s.out.todMuted = false → s.out.todBusyUntil ≤ s.now →
      let base := s.fld 0x80500 9 0 * 1000000
      let baud := baudOf (s.fld 0x80500 23 21)
      let line := lineTime baud 34
      let both := lineTime baud 60
      let sent := fun (t : State) (n k until_ : Nat) => t.out.todLast.length = n ∧ slice t.out.todLast 0 4 = [0xED, 0x54, 0x01, 0x18] ∧
        slice t.out.todLast 4 2 = leBytes 2 s.out.todSeq ∧ slice t.out.todLast 6 6 = leBytes 6 (s.secNow + 1) ∧
        slice t.out.todLast 15 1 = [BitVec.ofNat 8 s.md.mode.code] ∧ slice t.out.todLast 30 4 = leBytes 4 (crc32 (slice t.out.todLast 0 30)) ∧
        t.out = { s.out with todLast := t.out.todLast, todSeq := (s.out.todSeq + k) % 65536, todAt := s.now, todRate := baud,
                             todBusyUntil := until_, todSec := some s.secNow, todDue := false } ∧
        t = { s with out := t.out, ctr := t.ctr, tb := { s.tb with stepFlag := false } } ∧ t.ctrAt 0x80708 = ctrAdd (s.ctrAt 0x80708) k
      ((s.nsNow ≠ base ∧ s.out.todDue = false) ∨ s.out.todSec = some s.secNow → exec .todMessageSend s = .next s) ∧
      (s.nsNow = base ∨ s.out.todDue = true → s.out.todSec ≠ some s.secNow →
        (s.bit 0x80500 30 = false ∨ s.gns.sol.valid = false → s.nsNow + line + 10000000 ≤ 1000000000 →
          ∃ t, exec .todMessageSend s = .next t ∧ sent t 34 1 (s.now + line)) ∧
        (s.bit 0x80500 30 = true → s.gns.sol.valid = true → s.nsNow + both + 10000000 ≤ 1000000000 →
          ∃ t, exec .todMessageSend s = .next t ∧ sent t 60 2 (s.now + both) ∧ slice t.out.todLast 34 4 = [0xED, 0x54, 0x02, 0x10] ∧
            slice t.out.todLast 56 4 = leBytes 4 (crc32 (slice t.out.todLast 34 22))) ∧
        (1000000000 < s.nsNow + line + 10000000 → exec .todMessageSend s =
          .next (({ s with out := { s.out with todSec := some s.secNow, todDue := false } } : State).count 0x80710)))) ∧
    (s.bit 0x80600 31 = true → s.out.gppsMuted = false → s.out.gppsHighUntil ≤ s.now →
      (s.gppsDue = none → exec .gppsPulse s = .next s) ∧
      (∀ q, s.gppsDue = some q → s.fmu.gate = true → exec .gppsPulse s = .next (s.count 0x80700)) ∧
      (∀ q, s.gppsDue = some q → s.edgePasses = true → |q| ≤ 400392 ∧ exec .gppsPulse s =
        .next { s with out := { s.out with gppsHighUntil := s.now + s.fld 0x80600 8 0 * 1000000 } })) ∧
    (s.out.gppsMuted = true → s.gppsBall = if s.bit 0x80600 29 then .hiZ else if s.bit 0x80600 30 then .high else .low) ∧
    (s.out.gppsMuted = false → (s.gppsBall = (if s.bit 0x80600 30 then .low else .high) ↔ s.now < s.out.gppsHighUntil)) ∧
    (s.out.todMuted = true → s.out.todBusyUntil ≤ s.now → s.todBall = if s.bit 0x80500 25 then .hiZ else .high) ∧
    (∀ (bs : List Byte) (k : Nat) (b : Byte), bs[k]? = some b → lineLevel bs (10 * k) = false ∧ lineLevel bs (10 * k + 9) = true ∧
      ∀ j < 8, lineLevel bs (10 * k + 1 + j) = (b.toNat / 2 ^ j % 2 == 1))

/-- While the baseband tracks: two dwells with their peak above the threshold, inside the search window, move SEARCH to PULLIN and load the NCOs, the engine of island 6 being in service, and a peak not above the threshold changes nothing; an exhausted window moves SEARCH to IDLE and hides the satellite for 60 s; lock, 100 ms after entry, moves PULLIN to TRACK and no lock 500 ms after it back to SEARCH; synchronisation moves TRACK to SYNC, a confirmed time of week SYNC to TOW, completing the handover of which the channel is the new one; loss moves TRACK, SYNC and TOW to LOST with LOCK_MS 0, re-finding within 10 s moves LOST to TRACK with SLIP and 10 s to IDLE; a slip in TRACK, SYNC or TOW leaves the state, sets SLIP, clears LOCK_MS and is counted. An event that the channel's state does not have changes nothing. With the baseband not tracking none of them changes anything. (R291, R320) -/
def Obligations.ChannelsMoveByTheirTransitionTable : Prop :=
  ∀ (s : State) (ch p1 p2 code : Nat) (bin : Int),
    let events : List (List ChState × List Instr) := [([.search], [Instr.channelDetect ch p1 p2 code bin, .searchExhausted ch]),
      ([.pullin], [.pullinLock ch, .pullinTimeout ch]), ([.track], [.syncFound ch]), ([.sync], [.towDecoded ch]),
      ([.track, .sync, .tow], [.channelLost ch, .cycleSlip ch]), ([.lost], [.lostRefound ch, .lostTimeout ch])]
    (s.gnsLive = false → ∀ e ∈ events, ∀ i ∈ e.2, exec i s = .next s) ∧
    (s.gnsLive = true →
      (∀ e ∈ events, (s.chan ch).st ∉ e.1 → ∀ i ∈ e.2, exec i s = .next s) ∧
      ((s.chan ch).st = .search →
        let above := (s.chan ch).threshold < p1 ∧ (s.chan ch).threshold < p2
        (s.islandOut 6 = false → above → (s.chan ch).inWindow code bin = true → exec (.channelDetect ch p1 p2 code bin) s =
          .next (s.setChan ch (fun c => { c.go s.now .pullin with ncoCode := code,
                                                                  ncoDop := c.dopC + bin * ((500000 / sigPeriod c.sig : Nat) : Int) }))) ∧
        (¬above → exec (.channelDetect ch p1 p2 code bin) s = .next s) ∧
        let hidden := s.gns.blocked.filter (fun x => decide (s.now < x.2.2)) ++ [(sigSys (s.chan ch).sig, (s.chan ch).svid, s.now + 60 * nsPerSec)]
        exec (.searchExhausted ch) s = .next (({ s with gns := { s.gns with blocked := hidden } }).setChan ch (fun _ => Chan.reset))) ∧
      ((s.chan ch).st = .pullin →
        ((s.chan ch).since + 100000000 ≤ s.now → exec (.pullinLock ch) s = .next (s.setChan ch (Chan.go s.now .track))) ∧
        ((s.chan ch).since + 500000000 ≤ s.now → exec (.pullinTimeout ch) s = .next (s.setChan ch (Chan.go s.now .search)))) ∧
      ((s.chan ch).st = .track → exec (.syncFound ch) s = .next (s.setChan ch (fun c => { c.go s.now .sync with half := true }))) ∧
      ((s.chan ch).st = .sync →
        ((s.chan ch).handover = none → exec (.towDecoded ch) s = .next (s.setChan ch (fun c => { c.go s.now .tow with handover := none }))) ∧
        (∀ o, (s.chan ch).handover = some o → exec (.towDecoded ch) s =
          .next (((s.setChan ch (fun c => { c.go s.now .tow with handover := none })).setChan o (fun c => { c with handed := true })).count
            (gnsCtr 3)))) ∧
      (((s.chan ch).st = .track ∨ (s.chan ch).st = .sync ∨ (s.chan ch).st = .tow) →
        exec (.channelLost ch) s = .next (s.setChan ch (fun c => { c.go s.now .lost with lockMs := 0, half := false })) ∧
        exec (.cycleSlip ch) s = .next ((s.setChan ch (fun c => { c with slip := true, lockMs := 0 })).count (gnsCtr 2))) ∧
      ((s.chan ch).st = .lost →
        (s.now ≤ (s.chan ch).since + 10 * nsPerSec →
          exec (.lostRefound ch) s = .next (s.setChan ch (fun c => { c.go s.now .track with slip := true }))) ∧
        ((s.chan ch).since + 10 * nsPerSec ≤ s.now → exec (.lostTimeout ch) s = .next (s.setChan ch (fun _ => Chan.reset)))))

/-- FE_SCRIPT_RUN, in CALIBRATE with no script running or where one is due, runs from entry 0: a first entry END ends it well; an XFER and then an END shift out that entry's bits and end it well; a first CHECK whose masked bits differ from EXPECT ends it with FE_FAIL and code 0x30; a first WAIT holds it for its microseconds at entry 1. SCRIPT_WAIT_EXPIRE at the end of the wait goes on from there, an END answering a waiting token with code 0. Awake and out of BOOT, a monitor report sets, of each band captured, the figures of its samples, taken at the edge that CAPT_EDGE names; an AGC read shifts out every AGC entry that the script has reached, in its order; of the one entry reached that its band's GNS_AGC_CFG names, GAIN of that band is the captured code times SCALE, where that fits 16 bits, and of an entry that it does not name no GAIN changes. Register writes accepted: RESURVEY answers 0x20 with POS_MODE not 0; RERUN_SCRIPT, COLD_START and, with POS_MODE 0, RESURVEY answer 0x24 outside the running modes, and RERUN_SCRIPT 0x25 while the script runs; carried out, RESURVEY starts survey-in afresh with no position held, and the last two release every channel, make the integrity state GOOD and clear the exclusions. (R285, R287, R288, R289, R310, R313, R321, R322) -/
def Obligations.FrontEndScriptAndGainReadBack : Prop :=
  ∀ (s : State) (miso : List W32) (tok : BitVec 16),
    let op := fun k => bitsOf (s.scrWord k 0) 31 29
    let shifted := fun k => (bitsOf (s.scrWord k 0) 28 24 + 1, BitVec.ofNat 32 (bitsOf (s.scrWord k 1) (bitsOf (s.scrWord k 0) 28 24) 0))
    (s.md.mode = .calibrate ∧ s.gns.scrRun = false ∨ s.gns.scrRun = true ∧ s.gns.scrWait = none →
      (op 0 = 0 → ∃ t, exec (.feScriptRun miso) s = .next t ∧ t = { s with gns := t.gns } ∧ t.gns.scrRun = false ∧ t.gns.feFail = false ∧
        t.gns.spi = [] ∧ t.gns.chans = s.gns.chans ∧ (∀ k, s.gns.scrToken = some k → t.gns.ctlToken = k ∧ t.gns.ctlCode = 0)) ∧
      (op 0 = 1 → op 1 = 0 → ∃ t, exec (.feScriptRun miso) s = .next t ∧ t = { s with gns := t.gns } ∧ t.gns.scrRun = false ∧
        t.gns.feFail = false ∧ t.gns.spi = [shifted 0] ∧ t.gns.chans = s.gns.chans) ∧
      (op 0 = 2 → (bitsOf (miso.headD 0) (bitsOf (s.scrWord 0 0) 28 24) 0) % 256 &&& bitsOf (s.scrWord 0 0) 7 0 ≠ bitsOf (s.scrWord 0 0) 23 16 →
        ∃ t, exec (.feScriptRun miso) s = .next t ∧ t = { s with gns := t.gns } ∧ t.gns.scrRun = false ∧ t.gns.feFail = true ∧
          t.gns.ctlCode = 0x30 ∧ t.gns.spi = [shifted 0] ∧ t.gns.chans = s.gns.chans) ∧
      (op 0 = 3 → ∃ t, exec (.feScriptRun miso) s = .next t ∧ t = { s with gns := t.gns } ∧
        t.gns.scrRun = true ∧ t.gns.scrIdx = 1 ∧ t.gns.scrWait = some (s.now + (s.scrWord 0 1).toNat * 1000) ∧ t.gns.chans = s.gns.chans)) ∧
    (∀ at_, s.gns.scrRun = true → s.gns.scrWait = some at_ → at_ ≤ s.now → s.gns.scrIdx < 64 → op s.gns.scrIdx = 0 →
      ∃ t, exec (.scriptWaitExpire miso) s = .next t ∧ t = { s with gns := t.gns } ∧
        t.gns.scrRun = false ∧ t.gns.feFail = s.gns.feFail ∧ (∀ k, s.gns.scrToken = some k → t.gns.ctlToken = k ∧ t.gns.ctlCode = 0)) ∧
    (s.gns.asleep = false → s.md.mode ≠ .boot →
      (∃ t, exec (.agcRead miso) s = .next t ∧
        t = { s with gns := { s.gns with gainA := t.gns.gainA, gainB := t.gns.gainB, spi := s.gns.scrAgc.map shifted, spiAt := s.now }, fresh := t.fresh } ∧
        ∀ i, s.gns.scrAgc = [i] →
          let cfg := s.reg (if op i = 4 then 0x90010 else 0x90014)
          let got := (bitsOf (s.agcBits i (miso.headD 0)) (bitsOf cfg 25 21) (bitsOf cfg 20 16) : Nat) * signed 16 (bitsOf cfg 15 0)
          (bitsOf cfg 31 26 ≠ i → t.gns.gainA = s.gns.gainA ∧ t.gns.gainB = s.gns.gainB ∧ t.fresh = s.fresh) ∧
          (bitsOf cfg 31 26 = i → satS 16 got = got → t.fresh = s.fresh ∧
            (op i = 4 → t.gns.gainA = got ∧ t.gns.gainB = s.gns.gainB) ∧ (op i ≠ 4 → t.gns.gainB = got ∧ t.gns.gainA = s.gns.gainA))) ∧
      (∀ a b : List (BitVec 8 × BitVec 8),
        let edge := fun (l : List (BitVec 8 × BitVec 8)) => l.map fun x => if s.bit 0x90000 28 then x.2 else x.1
        exec (.agcMonitorReport a b) s = .next { s with gns := { s.gns with
          rmsA := if s.bandEn true then (s.sampleMonitor (edge a)).1 else s.gns.rmsA, fsA := if s.bandEn true then (s.sampleMonitor (edge a)).2 else s.gns.fsA,
          rmsB := if s.bandEn false then (s.sampleMonitor (edge b)).1 else s.gns.rmsB, fsB := if s.bandEn false then (s.sampleMonitor (edge b)).2 else s.gns.fsB } })) ∧
    (s.noWrites = false →
      (s.fld 0x90044 27 26 ≠ 0 → exec (.resurvey tok) s = .next (s.gnsCtl tok.toNat 0x20)) ∧
      (s.md.mode.running = false → exec (.rerunScript tok) s = .next (s.gnsCtl tok.toNat 0x24) ∧
        exec (.coldStart tok) s = .next (s.gnsCtl tok.toNat 0x24) ∧
        (s.fld 0x90044 27 26 = 0 → exec (.resurvey tok) s = .next (s.gnsCtl tok.toNat 0x24))) ∧
      (s.md.mode.running = true →
        (s.fld 0x90044 27 26 = 0 → ∃ t, exec (.resurvey tok) s = .next t ∧
          t = { s with gns := t.gns, fe := { s.fe with kept := { s.fe.kept with holdPos := none } } } ∧ t.gns.ctlCode = 0 ∧
          t.gns.ctlToken = tok.toNat ∧ t.gns.surveyN = 0 ∧ t.gns.surveyAt = s.now ∧ t.gns.chans = s.gns.chans) ∧
        (s.gns.scrRun = true → exec (.rerunScript tok) s = .next (s.gnsCtl tok.toNat 0x25)) ∧
        (s.gns.scrRun = false → ∃ t, exec (.rerunScript tok) s = .next t ∧ t = { s with gns := t.gns } ∧
          t.gns.chans = List.replicate 192 Chan.reset ∧ t.gns.scrRun = true ∧ t.gns.scrIdx = 0 ∧ t.gns.integ = .good ∧
          t.gns.excls = [] ∧ t.gns.scrToken = some tok.toNat ∧ t.gns.gainBaseA = s.gns.gainBaseA ∧ t.gns.gainBaseB = s.gns.gainBaseB) ∧
        (∃ t, exec (.coldStart tok) s = .next t ∧
          t = { s with gns := t.gns, fe := { s.fe with kept := { s.fe.kept with almanac := [], ephem := [], holdPos := none, fix := none } } } ∧
          t.gns.chans = List.replicate 192 Chan.reset ∧ t.gns.start = 0 ∧ t.gns.integ = .good ∧ t.gns.excls = [] ∧ t.gns.ctlCode = 0 ∧
          t.gns.ctlToken = tok.toNat)))

/-- While the baseband tracks, within 12 ns after a whole millisecond of Warp: with the TAC of the strobe ready, EPOCH_STROBE latches a channel that has a signal, its transmit time modulo the primary code period before TOW; at a millisecond that MEAS_RATE selects it writes a record set with the time of the strobe, the next SET_CNT and both gains, which at a whole second goes to Bodkin, marked when it is withheld, and at another millisecond it writes none; with the TAC not ready the epoch is missed. CHANNEL_PLACEMENT with the front end good and no script running leaves on every channel a signal of the list of those wanted, that list having at most each signal's maximum of them, keeps a wanted channel as it is unless its island is retired and its carrier not locked, and changes no field but the channels, START, the list of satellites seen and the almanacs. (R281, R291, R292, R295, R296, R297, R298) -/
def Obligations.EpochsWriteRecordSetsAndPlacementFillsChannels : Prop :=
  ∀ s : State,
    (∀ code latch, s.gnsLive = true → s.tb.warp % 1000000 ≤ 12 →
      let ms := s.tb.warp / 1000000 * 1000000
      (s.tacReady 28 = false → exec (.epochStrobe code latch) s = .next (s.tacMiss 28)) ∧
      (s.tacReady 28 = true → ∃ t, exec (.epochStrobe code latch) s = .next t ∧ t = { s with gns := t.gns, tac := t.tac } ∧ t.gns.sol = s.gns.sol ∧
        (∀ l, latch = [l] → (s.chan l.ch).st ≠ .idle → (s.chan l.ch).handed = false →
          (t.chan l.ch).cn0 = l.cn0 ∧ (t.chan l.ch).carrier = l.carrier ∧ (t.chan l.ch).doppler = l.doppler ∧ (t.chan l.ch).st = (s.chan l.ch).st ∧
          (t.chan l.ch).txtime = if (s.chan l.ch).st = .tow then l.txtime else l.txtime % (sigPeriod (s.chan l.ch).sig * 2 ^ 32)) ∧
        (ms % nsPerSec % s.measStep = 0 → t.gns.setCnt = (s.gns.setCnt + 1) % 2 ^ 32 ∧
          ∃ r, t.gns.newest = some r ∧ r.cnt = (s.gns.setCnt + 1) % 2 ^ 32 ∧ r.agcA = s.gns.gainA ∧ r.agcB = s.gns.gainB ∧
            r.time = s.word (wrapTime (s.captureAt 28 code 0)) ∧ r.chans.length = s.gns.chans.length ∧
            (ms % nsPerSec = 0 → t.gns.setNew = some (r, decide (0 < s.gns.withhold)) ∧ t.gns.withhold = s.gns.withhold - 1) ∧
            (ms % nsPerSec ≠ 0 → t.gns.setNew = s.gns.setNew ∧ t.gns.withhold = s.gns.withhold)) ∧
        (ms % nsPerSec % s.measStep ≠ 0 → t.gns.newest = s.gns.newest ∧ t.gns.setCnt = s.gns.setCnt ∧ t.gns.setNew = s.gns.setNew))) ∧
    (∀ almanacs sats, s.gnsForms = true → s.gns.feFail = false → s.gns.scrRun = false →
      let wanted := ((({ s with gns := { s.gns with seen := sats } } : State).keepAlmanacs almanacs).settleStart sats).wantedSigs sats
      (∀ g, (wanted.filter (fun v => v.sig == g)).length ≤ sigMax g) ∧
      ∃ t, exec (.channelPlacement almanacs sats) s = .next t ∧
        t = { s with gns := { s.gns with chans := t.gns.chans, start := t.gns.start, startDue := t.gns.startDue,
                                         startKind := t.gns.startKind, alm := t.gns.alm, seen := sats },
                     fe := { s.fe with kept := t.fe.kept } } ∧
        (∀ c, (t.chan c).st ≠ .idle → ∃ v ∈ wanted, v.sig = (t.chan c).sig ∧ v.svid = (t.chan c).svid) ∧
        (∀ c v, v ∈ wanted → (s.chan c).st ≠ .idle → v.sig = (s.chan c).sig → v.svid = (s.chan c).svid →
          (s.chanRetired c = false ∨ (s.chan c).st.locked = true) → t.chan c = s.chan c))

/-- A whole-second epoch of a running mode, awake and with Bodkin running, takes the set waiting; where none waits it counts as an epoch without solution and touches no reference. Where the solution it leaves is valid, the set was not withheld and its flag 0 was clear, GTE is at least 1 ns and at most GTE_MAX, the integrity state is not FAILED, and z is the receiver clock of a least-squares solution over more measurements than unknowns, at the sample time with the cable delay taken off, by the scale of REF_SCALE, saturated, with the count of its satellites. It changes no register, mode or time of Warp. Where the baseband forms solutions: an exclusion at REMAIN 0 whose tests passed 60 s is removed, FAILED clear for INTEG_CLEAR becomes CAUTION, CAUTION quiet for 60 s with no exclusion becomes GOOD. CHK_AWAKE after the window's start puts a baseband that may sleep to sleep, all its channels released, and drops the window, judged, of one that may not yet sleep; CHK_PERIOD after it, at a whole second of Warp, or an early cause at one wakes it with its script due. (R302, R303, R304, R305, R311, R323, R325, R328, R330, R331, R332, R333) -/
def Obligations.SolutionsAreDeliveredOnlyWhenValid : Prop :=
  ∀ s : State,
    (∀ i, s.md.mode.running = true → s.fmu.halted = false → s.gns.asleep = false →
      ∃ t, exec (.gnssSolution i) s = .next t ∧ t.gns.setNew = none ∧ t.act = s.act ∧ t.md.mode = s.md.mode ∧ t.tb.warp = s.tb.warp ∧
        (s.gns.setNew = none → t.gns.sol = { s.gns.sol with valid := false } ∧ t.gns.noSol = s.gns.noSol + 1 ∧ t.ref = s.ref) ∧
        (∀ set held, s.gns.setNew = some (set, held) → t.gns.sol.valid = true →
          held = false ∧ set.flags % 2 = 0 ∧ t.gns.integ ≠ .failed ∧ 1000 ≤ t.gns.sol.gtePs ∧ t.gns.sol.gtePs ≤ (s.reg 0x9005C).toNat * 1000 ∧
          ∃ (f : Form) (x : Fit), f.unknowns < f.meas ∧ (s.keepData i).fit i set.time.t f = some x ∧ t.gns.sol.nsat = f.sats.length ∧
            t.gns.sol.z = satS 64 ((s.keepData i).zOf x ((set.time.t : Int) - s.pair 0x90068)))) ∧
    (s.gnsForms = true →
      (∀ k e, Assoc.get k s.gns.excls = some e → e.remain = 0 → 60 ≤ e.passS → exec (.exclusionExpire k) s =
        .next { s with gns := { s.gns with excls := Assoc.del k s.gns.excls } }) ∧
      (∀ at_, s.gns.clearSince = some at_ → s.gns.integ = .failed → at_ + s.fld 0x90088 11 0 * nsPerSec ≤ s.now →
        exec .integClearExpire s = .next { s with gns := { s.gns with integ := .caution, qDue := true, qAnch := false } }) ∧
      (∀ at_, s.gns.goodSince = some at_ → s.gns.integ = .caution → s.gns.excls = [] → at_ + 60 * nsPerSec ≤ s.now →
        exec .integGoodReturn s = .next { s with gns := { s.gns with integ := .good } })) ∧
    (∀ at_, s.gns.winAt = some at_ →
      (s.gns.asleep = false → s.chkWants = true → at_ + s.fld 0x90090 28 17 * nsPerSec ≤ s.now →
        ∃ t, exec .checkinSleep s = .next t ∧ t = { s with gns := t.gns, fe := { s.fe with kept := t.fe.kept } } ∧ t.gns.asleep = true ∧
          t.gns.chans = List.replicate 192 Chan.reset ∧ (s.gns.chkN < 30 → t.gns.chkNosol = true) ∧ t.gns.winAt = some at_) ∧
      (s.gns.asleep = false → s.chkCycle = true → s.chkWants = false → at_ + s.fld 0x90090 28 17 * nsPerSec ≤ s.now →
        ∃ t, exec .checkinSleep s = .next t ∧ t = { s with gns := t.gns } ∧ t.gns.asleep = false ∧ t.gns.chans = s.gns.chans ∧
          (s.gns.chkN < 30 → t.gns.chkNosol = true) ∧ t.gns.winAt = none) ∧
      (s.gns.asleep = true → at_ + s.fld 0x90090 16 0 * nsPerSec ≤ s.now → s.nsNow = 0 →
        ∃ t, exec .checkinWake s = .next t ∧ t = { s with gns := t.gns, ctr := t.ctr } ∧ t.gns.asleep = false ∧ t.gns.winAt = some s.now ∧
          t.gns.scrRun = true ∧ t.gns.scrWait = none ∧ t.gns.qDue = true ∧ t.ctrAt (gnsCtr 6) = ctrAdd (s.ctrAt (gnsCtr 6)) 1)) ∧
    (s.gns.asleep = true → s.gns.wakeDue = true → s.nsNow = 0 → ∃ t, exec .checkinEarlyWake s = .next t ∧ t = { s with gns := t.gns } ∧
      t.gns.asleep = false ∧ t.gns.winAt = none ∧ t.gns.scrRun = true ∧ t.gns.scrWait = none ∧ t.gns.wakeDue = false ∧ t.gns.qDue = true)

/-- A frame at a port whose link is up is counted on the line with its fragments and, where RS-FEC is in use, its corrected and uncorrected codewords. Then a fragment break adds one to its counter; at NP0 to NP3 a word that the tracker does not time adds one, and, with the gate open, a time at which the counters differ beyond the bound adds one and trips the gate. MGT has no Stake: its frame waits there while the pool has no room or others wait. Else, with room in the pool, a giant, a runt, a bad FCS or coding, and a foreign address each add one to their counter, in that order. No such frame does more. A good frame at NP0 to NP3, no MAC control or slow protocol and no PTP where the MAC timestamps stand off, that no rule matches and that the defaults steer to class 2 or 3, with good checksums and addresses, a payload of at most 1,536 bytes, the limiter off, a context free and the mode not SAFE, is queued with its time word, port and parsed contents. (R356, R358, R360, R363, R376, R378, R397, R403, R406, R408, R428, R431) -/
def Obligations.FramesAreDroppedOnceInOrderOrReachTheirClass : Prop :=
  ∀ (s : State) (n : Nat) (f : RxFrame), n ≤ 4 → (s.port n).link = true →
    let fec := fun (k : Nat) => if (s.port n).fec then k else 0
    let u := (((s.lineLoad n (f.bytes.length + 20) true).countN (macCtr n 16) f.fragments).countN (macCtr n 23) (fec f.fecCorr)).countN (macCtr n 24)
      (fec f.fecUncorr)
    let late := (s.port n).stk.locked = false ∧ ∀ d, (s.port n).stk.drop = some d → d.1 < f.word
    let len := f.bytes.length
    let limit := s.maxFrm n + 4 * (frameTags f.bytes).length
    let at_ := wrapTime (s.ingressAt n f.word f.bit)
    let d := s.weftDiffAt (at_ / snsPerNs)
    (f.asmErr = true → exec (.frameReceive n f) s = .next (u.count (macCtr n 17))) ∧
    (f.asmErr = false → n < 4 → ((s.port n).stk.dropped f.word = true ∨ late) →
      exec (.frameReceive n f) s = .next (u.count (stkCtr n 3))) ∧
    (f.asmErr = false → n < 4 → (s.port n).stk.dropped f.word = false → ¬late → s.fmu.gate = false →
      s.weftPasses d = false → exec (.frameReceive n f) s = .next ((u.count (stkCtr n 1)).gateTrip d)) ∧
    (f.asmErr = false → n = 4 → ((s.port 4).rxWait ≠ [] ∨ s.poolFree < cellsOf (len - 4)) →
      exec (.frameReceive n f) s = .next (u.setPort 4 fun p => { p with rxWait := p.rxWait ++ [f] })) ∧
    (f.asmErr = false →
      ((n = 4 ∧ (s.port 4).rxWait = [] ∧ cellsOf (len - 4) ≤ s.poolFree) ∨
        (n < 4 ∧ (s.port n).stk.dropped f.word = false ∧ ¬late ∧ (s.fmu.gate = true ∨
        s.weftPasses d = true) ∧ s.poolAdmits n (cellsOf (min len limit - 4)) = true)) →
      (limit < len → exec (.frameReceive n f) s = .next (u.count (macCtr n 5))) ∧
      (len ≤ limit → len < 64 → exec (.frameReceive n f) s = .next (u.count (macCtr n 4))) ∧
      (len ≤ limit → 64 ≤ len →
        ((f.fcsOk = false ∨ f.pcsErr = true ∨ f.cut = true) → exec (.frameReceive n f) s = .next (u.count (macCtr n 6))) ∧
        (f.fcsOk = true → f.pcsErr = false → f.cut = false →
          (s.accepts n (ofBe (slice f.bytes 0 6)) = false → exec (.frameReceive n f) s = .next (u.count (macCtr n 7))) ∧
          (let p := parseFrame (f.bytes.take (len - 4))
           n < 4 → s.accepts n (ofBe (slice f.bytes 0 6)) = true → f.eccErr = false → p.etype ≠ 0x8808 → p.etype ≠ 0x8809 →
            sumsOk (f.bytes.take (len - 4)) p = true → (s.bit (mBase n + 4) 30 = true → p.ptp? = none) →
            (∀ k, k < 256 → s.ruleHits n k p = false) → (defaultClass p = 2 ∨ defaultClass p = 3) → s.md.mode ≠ .safe → addrOk p = true →
            p.payload.length ≤ 1536 → s.bit 0x40008 31 = false → ∀ id, s.freeCtxId = some id →
            ∃ t c, exec (.frameReceive n f) s = .next t ∧ t = { u with wv := t.wv, ctr := t.ctr } ∧
              t.wv.ctxs = s.wv.ctxs ++ [c] ∧ c.id = id ∧ c.st = .queued ∧ c.born = s.now ∧ c.port = n ∧ c.pkt = p ∧ c.cls = defaultClass p ∧
              c.kiss = false ∧ c.ingress = ⟨at_, s.vBit && !s.fmu.gate, s.tb.l⟩ ∧
              t.wv.queues = updAt s.wv.queues c.cls (· ++ [{ ctx := id, tag := c.tag }])))))

/-- A PAUSE or PFC frame is counted, at a port whose link is up also as a frame received on the line; obeyed, it stops the port or the priorities set in both vectors from now for its quanta at the port's speed. A stop whose time has run ends. A stop in force for PAUSE_WD ends in hold-off with PAUSE_STORM; an XOFF in force that long ends with XON, hold-off and XOFF_STORM. While XOFF stands it is repeated with time 0xFFFF 0x8000 quanta after the last, and not before; XON with time 0 follows once the reserve is unused and a MAXFRM frame fits the pool. Both are MAC control frames. HOLDOFF later the hold-off ends. (R368, R370, R371, R397) -/
def Obligations.PausesStopAndTheirWatchdogsRelease : Prop :=
  ∀ (s : State) (n : Nat),
    let c := (if (s.port n).link then ((s.lineLoad n 84 true).count (macCtr n 0)).countN (macCtr n 1) 64 else s).count (macCtr n 12)
    let put := fun (e : EgFrame) => { e with stored := decide (cellsOf e.bytes.length ≤ s.poolFree) && (s.port n).eg.all (·.stored) }
    (∀ q, s.pauseRx n = false → exec (.pauseReceive n q) s = .next c) ∧
    (∀ q, s.pauseRx n = true → (s.port n).pause.holdoff = none → 0 < q → exec (.pauseReceive n q) s =
      .next (c.setPort n fun p => { p with pause := { p.pause with
        on := true, until_ := s.now + quantaNs p.speed q, since := if p.pause.live s.now then p.pause.since else s.now } })) ∧
    (∀ (e : BitVec 8) quanta k, k < 8 → ∃ t, exec (.pfcReceive n e quanta) s = .next t ∧ t = { s with ports := t.ports, ctr := t.ctr, pmc := t.pmc } ∧
      (t.port n).pause = (s.port n).pause ∧
      ((e.toNat / 2 ^ k % 2 = 0 ∨ s.pfcEn n / 2 ^ k % 2 = 0) → t.stopAt n (some k) = s.stopAt n (some k)) ∧
      (e.toNat / 2 ^ k % 2 = 1 → s.pfcEn n / 2 ^ k % 2 = 1 → k < (s.port n).stops.length → n < s.ports.length →
        (s.stopAt n (some k)).holdoff = none → 0 < quanta.getD k 0 → (t.stopAt n (some k)).on = true ∧
          (t.stopAt n (some k)).until_ = s.now + quantaNs (s.port n).speed (quanta.getD k 0))) ∧
    (∀ prio, (s.stopAt n prio).on = true →
      ((s.stopAt n prio).until_ ≤ s.now → exec (.pauseExpire n prio) s = .next (s.setStop n prio fun x => { x with on := false })) ∧
      (s.now < (s.stopAt n prio).until_ → (s.stopAt n prio).since + s.pauseWd n ≤ s.now → ∃ t, exec (.pauseWatchdog n prio) s = .next t ∧
        t.stopAt n prio = { s.stopAt n prio with on := false, holdoff := some s.now } ∧ (t.port n).pauseStorm = true ∧
        t = { s with ports := t.ports, ctr := t.ctr, fe := t.fe } ∧ t.fe.nextSeq = s.fe.nextSeq + (if s.fmu.halted then 0 else 1))) ∧
    (∀ at_, (s.port n).xoff = some at_ → (s.port n).link = true →
      let pfc := if s.pauseTx n then 0 else s.pfcEn n
      ((s.port n).xoffSent + quantaNs (s.port n).speed 0x8000 ≤ s.now → exec (.xoffRepeat n) s =
        .next (s.setPort n fun p => { p with eg := p.eg ++ [put (s.xFrame n pfc 0xFFFF)], xoffSent := s.now })) ∧
      (s.now < (s.port n).xoffSent + quantaNs (s.port n).speed 0x8000 → exec (.xoffRepeat n) s = .next s) ∧
      ((s.port n).reserve = 0 → s.poolAdmits n (cellsOf (s.maxFrm n - 4)) = true → ∃ t, exec (.xonSend n) s = .next t ∧
        t = { s with ports := t.ports } ∧ (t.port n) = { s.port n with eg := (s.port n).eg ++ [put (s.xFrame n pfc 0)], xoff := none }) ∧
      (at_ + s.pauseWd n ≤ s.now → ∃ t, exec (.xoffWatchdog n) s = .next t ∧ t = { s with ports := t.ports, ctr := t.ctr, fe := t.fe } ∧
        (t.port n) = { s.port n with eg := (s.port n).eg ++ [put (s.xFrame n pfc 0)], xoff := none, xoffHold := some s.now, xoffStorm := true })) ∧
    (∀ pfc time, slice (s.xFrame n pfc time).bytes 0 6 = [0x01, 0x80, 0xC2, 0, 0, 1] ∧ slice (s.xFrame n pfc time).bytes 12 2 = [0x88, 0x08] ∧
      (s.xFrame n pfc time).bytes.length = 60 ∧ (pfc = 0 → slice (s.xFrame n pfc time).bytes 14 4 = [0, 1] ++ beBytes 2 time)) ∧
    (∀ prio at_, (s.stopAt n prio).holdoff = some at_ → at_ + s.holdoff n ≤ s.now → exec (.holdoffExpire n prio true) s =
      .next (s.setStop n prio fun x => { x with holdoff := none })) ∧
    (∀ prio at_, (s.port n).xoffHold = some at_ → at_ + s.holdoff n ≤ s.now → exec (.holdoffExpire n prio false) s =
      .next (s.setPort n fun p => { p with xoffHold := none }))

/-- With the link up: an ESMC PDU where SyncE is on gives RX_QL, DNU when its clock identity is the part's own, and is counted; where ESMC is on a PDU is queued with the level of the mode, DNU in SAFE and ACQUIRE, when that level differs from the last sent or a second has passed since the last information PDU, and else none; verification sends a try at once and every VERIFY_TIME, three in all, then fails, and a respond frame after a try makes it active. PARK_EVALUATION in a running mode, SAFE or MAINTAIN notes the choice with the instant from which it stands: with parking off, a PKE operation held or too many items in the Packer, every lane in service at 800 MHz, else, below 800 MHz, lanes enough for the arrivals and a clock enough for the line bits of the last 100 µs. PARK_APPLY, with no PKE operation held, goes up at once, a step-up waiting for the end of a stretch, and down after PARK_HOLD; a lane with an item is not parked; with one held it takes every lane in service at 800 MHz. A port at 25G idle for STEP_HOLD with both rates below STEP_DN steps to 10G, refused without its calibration; at 10G a rate above STEP_UP steps back; a step with no link for 3 s fails. (R374, R380, R381, R384, R386, R387, R396, R415) -/
def Obligations.EsmcPreemptionParkingAndSpeedSteps : Prop :=
  ∀ (s : State) (n : Nat),
    (∀ ssm tlv, s.synceOn n = true → (s.port n).link = true → ∃ t, exec (.esmcReceive n ssm tlv) s = .next t ∧ t.act = s.act ∧
      t.md.mode = s.md.mode ∧ (t.port n).rxQlAt = some s.now ∧ (t.port n).enh = tlv.isSome ∧ (t.port n).txQl = (s.port n).txQl ∧
      t.ctrAt (macCtr n 18) = ctrAdd (s.ctrAt (macCtr n 18)) 1 ∧
      (∀ e id, tlv = some (e, id) → (t.port n).rxQl = if id = s.clockId then 8 else essmCode ssm e) ∧
      (tlv = none → (t.port n).rxQl = ssmCode ssm)) ∧
    (s.synceOn n = true → s.bit (mBase n + 0x20) 30 = true → (s.port n).link = true →
      let due := ∀ at_, (s.port n).esmcAt = some at_ → at_ + nsPerSec ≤ s.now
      (s.txLevel n ≠ (s.port n).txQlSent ∨ due → ∃ t, exec (.esmcInfoSend n) s = .next t ∧
        t = { s with ports := t.ports } ∧ (t.port n).txQl = s.txLevel n ∧ (t.port n).eg.length = (s.port n).eg.length + 1) ∧
      (s.txLevel n = (s.port n).txQlSent → ¬due → exec (.esmcInfoSend n) s = .next s) ∧
      (s.md.mode = .safe ∨ s.md.mode = .acquire → s.txLevel n = 8)) ∧
    ((s.port n).link = true → (s.port n).pre = 1 →
      let due := (s.port n).verifyTries = 0 ∨ (s.port n).verifyAt + s.fld (mBase n + 0x18) 7 0 * 1000000 ≤ s.now
      (due → (s.port n).verifyTries < 3 → exec (.preemptVerifySend n) s =
        .next (s.setPort n fun p => { p with verifyTries := p.verifyTries + 1, verifyAt := s.now })) ∧
      (due → 3 ≤ (s.port n).verifyTries → exec (.preemptVerifySend n) s = .next (s.setPort n fun p => { p with pre := 3 })) ∧
      (¬due → exec (.preemptVerifySend n) s = .next s) ∧
      (0 < (s.port n).verifyTries → exec (.preemptRespondReceive n) s = .next (s.setPort n fun p => { p with pre := 2 }))) ∧
    (s.md.mode.serving = true ∨ s.md.mode = .safe → ∃ k st since, exec .parkEvaluation s =
        .next { s with wv := { s.wv with parkWant := some (k, st, since) } } ∧ (since = s.now ∨ s.wv.parkWant = some (k, st, since)) ∧
      ((s.bit 0x40800 31 = false ∨ s.pke.ops ≠ [] ∨ s.fld 0x40800 25 16 < s.packerItems) → k = s.lanesIn ∧ st = 0) ∧
      (st ≠ 0 → 1 ≤ k ∧ k ≤ s.lanesIn ∧ s.parkBits * 800 ≤ 5000000 * (800 / 2 ^ st) ∧ 128 * s.parkArrivals ≤ k * (800 / 2 ^ st) * 100)) ∧
    (s.pke.ops ≠ [] → ∃ t, exec .parkApply s = .next t ∧ (s.fmu.stretch = false → t.wv.step = 0) ∧
      (s.wv.lanesOn ≤ s.lanesIn → t.wv.lanesOn = s.lanesIn)) ∧
    (∀ k st at_, s.pke.ops = [] → s.wv.parkWant = some (k, st, at_) → ∃ t, exec .parkApply s = .next t ∧ t.act = s.act ∧ t.md = s.md ∧ t.ports = s.ports ∧
      t.wv.ctxs = s.wv.ctxs ∧ (s.wv.lanesOn ≤ k → t.wv.lanesOn = k) ∧ (st ≤ s.wv.step → s.fmu.stretch = false → t.wv.step = st) ∧
      (at_ + s.fld 0x40800 15 0 * 1000 ≤ s.now → t.wv.lanesOn = k ∧ (s.wv.step < st → t.wv.step = st)) ∧
      (s.now < at_ + s.fld 0x40800 15 0 * 1000 → (k < s.wv.lanesOn → t.wv.lanesOn = s.wv.lanesOn) ∧ (s.wv.step < st → t.wv.step = s.wv.step)) ∧
      (∀ i, i < 8 → (t.wv.lanes.getD i Lane.reset).parked = true → (s.wv.lanes.getD i Lane.reset).parked = true ∨
        (s.wv.lanes.getD i Lane.reset).ctx = none)) ∧
    (s.steps n = true → (s.port n).link = true →
      (∀ at_, (s.port n).speed = 2 → (s.port n).stepped = false → (s.port n).lowSince = some at_ →
        at_ + s.fld (mBase n + 0x24) 29 24 * 60 * nsPerSec ≤ s.now → loadOf s.now loadSpan (s.port n).rxLog < s.stepDn n →
        loadOf s.now loadSpan (s.port n).txLog < s.stepDn n →
        ((s.port n).stk.calAlt = false → exec (.speedStepDown n) s = .next (s.setPort n fun p => { p with stepFail := true })) ∧
        ((s.port n).stk.calAlt = true → ∃ t, exec (.speedStepDown n) s = .next t ∧ (t.port n).stepped = true ∧
          (t.port n).stepping = some s.now ∧ (t.port n).link = false ∧ t.md = s.md ∧ t.act = s.act)) ∧
      ((s.port n).stepped = true →
        (s.stepUpAt n < loadOf s.now loadSpan (s.port n).rxLog ∨ s.stepUpAt n < loadOf s.now loadSpan (s.port n).txLog) →
        ∃ t, exec (.speedStepUp n) s = .next t ∧
          (t.port n).stepped = false ∧ (t.port n).stepping = some s.now ∧ (t.port n).link = false ∧ t.md = s.md ∧ t.act = s.act)) ∧
    (∀ at_, (s.port n).stepping = some at_ → at_ + 3 * nsPerSec ≤ s.now → (s.port n).link = false → exec (.speedStepFail n) s =
      .next (s.setPort n fun p => { p with stepped := false, stepFail := true, stepOff := true, stepping := none, linkWait := false }))

/-- LINK_UP at the speed that the port waits for makes a port not held wait for its tracker, MGT, but for an SGMII partner of 10 or 100 Mbit/s, report at once. A conversion of NP0 to NP3 that is not of the kind that the cycle of 16 has next changes nothing; that one takes the time of Warp with the TAC's fraction where the TAC is ready, else it is counted missed, and the cycle goes on. Without a link a receive edge does no more; below 15 it joins the fit; the sixteenth of a waiting port reports the link; the third in a row beyond the limit empties a locked tracker. A transmit conversion, short of the sixty-fourth, adds its distance from the predicted edge to the phase's mean, and a replica conversion to the replica's. LINK_DOWN ends the link, its egress and committed frames, its tracker and every uncommitted context of the port, and leaves the other links, the mode, registers and Warp. SYNCE_PHASE_DELIVER offers the recovered clock's phase to its reference. REPLICA_UPDATE at a whole second, with conversions and within bounds, sets the delay change and moves D_RX and D_TX by at most 64 sns. (R17, R18, R354, R395, R404, R405, R407, R413, R416, R433) -/
def Obligations.LinksComeUpByTheirTrackersAndGoDownWhole : Prop :=
  ∀ (s : State) (n : Nat),
    (∀ speed fec, (s.port n).held = false → (s.port n).link = false →
      (n < 4 → speed = (if (s.port n).stepped then 1 else s.cfgSpeed n) → exec (.linkUp n speed fec) s = .next (s.setPort n fun p =>
        { p with linkWait := true, speed := speed, fec := s.fecUse n speed fec, stk := p.stk.atSpeed (speed != s.cfgSpeed n) })) ∧
      (n = 4 → s.cfgSpeed 4 = 3 → speed ≠ 0 → exec (.linkUp n speed fec) s = .next s) ∧
      (n = 4 → s.ports.length = 5 → (s.cfgSpeed 4 ≠ 3 ∨ speed = 0) → ∃ t, exec (.linkUp n speed fec) s = .next t ∧ (t.port 4).link = true ∧ (t.port 4).speed = 0 ∧
        t = { s with ports := t.ports, hif := t.hif, pmc := t.pmc })) ∧
    ((s.port n).link = true → ∃ t, exec (.linkDown n) s = .next t ∧ (t.port n).link = false ∧ (t.port n).speed = 3 ∧ (t.port n).eg = [] ∧
      (t.port n).committed = [] ∧ (t.port n).stk.convs = [] ∧ (∀ c ∈ t.wv.ctxs, c.port = n → c.st = .committed) ∧
      (∀ m, m ≠ n → (t.port m).link = (s.port m).link ∧ (t.port m).committed = (s.port m).committed) ∧ t.md.mode = s.md.mode ∧
      t.act = s.act ∧ t.tb.warp = s.tb.warp) ∧
    (∀ kind word code : Nat, n < 4 → kind ≠ (s.port n).stk.due → exec (.trackerConversion n kind word code) s = .next s) ∧
    (∀ kind word code : Nat, n < 4 → s.tb.running = true → kind = (s.port n).stk.due →
      (s.tacReady (24 + n) = false → exec (.trackerConversion n kind word code) s = .next (s.tacMiss (24 + n))) ∧
      (s.tacReady (24 + n) = true →
        let x := s.captureAt (24 + n) code 0
        let busy := (s.tacBusy (24 + n)).setPort n fun p => { p with stk := { p.stk with cyc := (p.stk.cyc + 1) % 16 } }
        let up := (s.port n).link = true ∨ (s.port n).linkWait = true
        (kind = 0 → ¬up → exec (.trackerConversion n kind word code) s = .next busy) ∧
        (kind = 0 → up → (s.port n).stk.locked = false →
          ((s.port n).stk.convs.length < 15 → exec (.trackerConversion n kind word code) s =
            .next (busy.setPort n fun p => { p with stk := { p.stk with convs := p.stk.convs ++ [(word, x)], bad := 0 } })) ∧
          ((s.port n).linkWait = true → (s.port n).stk.convs.length = 15 → ∃ t, exec (.trackerConversion n kind word code) s = .next t ∧
            (t.port n).link = true ∧ (t.port n).linkWait = false ∧ (t.port n).stk.locked = true ∧ bitAt t.hif.cause 7 = true ∧
            t = { busy with ports := t.ports, hif := t.hif, pmc := t.pmc })) ∧
        (kind = 0 → up → (s.port n).stk.locked = true → (s.port n).stk.bad = 2 →
          trkLimit (s.port n).speed < |(s.port n).stk.edgeAt word - x| → ∃ t, exec (.trackerConversion n kind word code) s = .next t ∧
            (t.port n).stk.convs = [] ∧ (t.port n).stk.bad = 0 ∧ t = { busy with ports := t.ports, ctr := t.ctr }) ∧
        (kind = 1 → (s.port n).stk.txOff.2 < 63 → exec (.trackerConversion n kind word code) s = .next (busy.setPort n fun p =>
          { p with stk := { p.stk with txOff := (p.stk.txOff.1 + (x - s.txEdge n word), p.stk.txOff.2 + 1) } })) ∧
        (kind = 2 → exec (.trackerConversion n kind word code) s = .next (busy.setPort n fun p =>
          { p with stk := { p.stk with rep := (p.stk.rep.1 + (x - s.txEdge n word), p.stk.rep.2 + 1) } })))) ∧
    (∀ c, (s.port n).link = true → (s.port n).stk.locked = true → s.bit (mBase n + 0x20) 31 = true → s.bit (mBase n + 4) 30 = false →
      (s.port n).stk.convs.getLast? = some c →
      exec (.syncePhaseDeliver n) s = .next (s.refMeasure (13 + n) (.phase (Config.round
        (((c.1 : Rat) * (uiSns (s.port n).speed * (if (s.port n).speed = 0 then 10 else 64)) - s.warpSns) -
          ((s.port n).stk.edgeAt c.1 - s.warpSns)))))) ∧
    (let k := (s.port n).stk
     let d := Config.round ((k.rep.1 : Rat) / k.rep.2) - (if k.altNow then k.replicaAlt else k.replica : Nat)
     s.md.mode.serving = true → s.nsNow = 0 → (s.port n).stk.rep.2 ≠ 0 → |d| ≤ 16384 →
      ∃ t, exec (.replicaUpdate n) s = .next t ∧ t = { s with ports := t.ports } ∧ (t.port n).stk.delta = d ∧ (t.port n).stk.rep = (0, 0) ∧
        |((t.port n).stk.rxDly : Int) - (s.port n).stk.rxDly| ≤ 64 ∧ |((t.port n).stk.txDly : Int) - (s.port n).stk.txDly| ≤ 64 ∧
        (t.port n).stk.txphErr = (s.port n).stk.txphErr ∧ (t.port n).stk.convs = (s.port n).stk.convs)

/-- LANE_TAKE of a free lane removes the head of the highest class that is not empty: a context older than MAXAGE is freed and counted as stale, any other is BUILDING in that lane with the item's tag and its cycles still to run, the other lanes as they were. While they run ANSWER_BUILT changes nothing. When they have run, under the set with which the lane began: a plain request of class 3 ends its lane's work with its context freed, counted, when it is shorter than 48 bytes, or has 48 bytes and a wrong version, or version 4 and a wrong mode; with 48 bytes, NTP_EN, VN 4 and mode 3, no kiss, the link up and the mode not SAFE it queues a frame of 48 bytes of payload with mode 4, the origin timestamp of the request, the receive timestamp of its time word, transmit time 0 with insertion NTP64, and frees the lane. (R430, R433, R436, R437, R440, R451) -/
def Obligations.LanesTakeTheHeadOfTheHighestClassAndAnswer : Prop :=
  ∀ (s : State) (lane : Nat),
    (∀ k i rest c, s.laneFree lane = true → s.headClass = some k → s.wv.queues.getD k [] = i :: rest → s.ctxAt i.ctx = some c →
      let u := { s with wv := { s.wv with queues := putAt s.wv.queues k rest } }
      (s.stale c = true → exec (.laneTake lane) s = .next ((u.freeCtx c.id).count (wvCtr 5))) ∧
      (s.stale c = false → ∃ t, exec (.laneTake lane) s = .next t ∧ t = { s with wv := t.wv } ∧
        t.wv.queues = putAt s.wv.queues k rest ∧ t.ctxAt c.id = some { c with st := .building, lane := some lane } ∧
        (lane < s.wv.lanes.length → (t.wv.lanes.getD lane Lane.reset).ctx = some c.id ∧ (t.wv.lanes.getD lane Lane.reset).tag = i.tag ∧
          (t.wv.lanes.getD lane Lane.reset).left = 2000 * laneCycles c + s.coreWork) ∧
        (∀ m, m ≠ lane → t.wv.lanes.getD m Lane.reset = s.wv.lanes.getD m Lane.reset))) ∧
    (s.laneDone lane = false → exec (.answerBuilt lane) s = .next s) ∧
    (∀ c, s.laneDone lane = true → (s.wv.lanes.getD lane Lane.reset).ctx.bind s.ctxAt = some c → c.cls = 3 →
      let p := c.pkt.payload
      let u := s.underSet lane
      (p.length < 48 → exec (.answerBuilt lane) s = .next ((s.laneDrop lane c).count (wvCtr 7))) ∧
      (p.length = 48 → vnOf p ≠ 3 → vnOf p ≠ 4 → exec (.answerBuilt lane) s = .next ((s.laneDrop lane c).count (wvCtr 8))) ∧
      (p.length = 48 → vnOf p = 4 → modeOf p ≠ 3 → exec (.answerBuilt lane) s = .next ((s.laneDrop lane c).count (wvCtr 9))) ∧
      (p.length = 48 → vnOf p = 4 → modeOf p = 3 → u.bit 0x40000 31 = true → c.kiss = false → (s.port c.port).link = true →
        s.md.mode ≠ .safe →
        ∃ t e body, exec (.answerBuilt lane) s = .next t ∧ t = { s with wv := t.wv, ports := t.ports } ∧
          t.port c.port = { s.port c.port with eg := (s.port c.port).eg ++ [e] } ∧ (t.wv.lanes.getD lane Lane.reset).ctx = none ∧
          e.src = .plain c.id ∧ e.bytes = c.pkt.respondUdp (s.macAddr c.port) (u.fld 0x40000 23 16) body ∧
          e.ins = .ntp64 (c.pkt.udpAt + 48) ∧ e.tag = some (s.wv.lanes.getD lane Lane.reset).tag ∧ body.length = 48 ∧
          (body.getD 0 0).toNat = u.ntpIndic.1 * 64 + 4 * 8 + 4 ∧ body.getD 1 0 = BitVec.ofNat 8 u.ntpIndic.2.1 ∧
          slice body 12 4 = u.ntpIndic.2.2 ∧ slice body 24 8 = slice p 40 8 ∧ slice body 32 8 = beBytes 8 (ntpOf s.tb.leap c.ingress) ∧
          slice body 40 8 = zeros 8))

/-- FRAME_COMMIT, at C of the port's next frame and at no other instant, with the link up and the line open to it, takes that frame: one hit by an ECC error is dropped with STATUS 0x32 and the error reported, one that a port with NTP_ONLY never sends is dropped with 0x20 (log entry 122), one whose context is older than MAXAGE is given up and counted, one whose tag or item disagrees, its lane free of it, is discarded and counted, its context freed; else a frame with an insertion or a time request is refused while the gate is closed, counted in STK_GATE_DROP, and likewise, tripping the gate, when its departure fails the comparison; any other, where what was written reads back and it cuts or overtakes no committed frame, joins the committed frames with its departure as time word, its bytes changed only where it has an insertion, a seal or an ICV. FRAME_SENT at ports 0 to 4 removes the first committed frame, keeps it as sent, and frees its context, then serves the frames MGT holds; a plain answer counts in WV_ANSWERED. (R409, R410, R412, R432, R433, R455, R557) -/
def Obligations.FramesCommitUnderTheBoundAndCloseTheirContexts : Prop :=
  ∀ (s : State) (n : Nat),
    (∀ word bit itemOk readBackOk eccOk, s.atCommit n (s.departure n word bit) = false →
      exec (.frameCommit n word bit itemOk readBackOk eccOk) s = .next s) ∧
    (∀ word bit itemOk readBackOk eccOk e, (s.port n).link = true → s.atCommit n (s.departure n word bit) = true →
      s.storeWaiting.nextFrame n = some e →
      let v := s.storeWaiting
      let u := v.setPort n fun p => { p with eg := p.eg.erase e }
      let d := s.departure n word bit
      let diff := s.weftDiffAt (d / 65536).toNat
      let go := exec (.frameCommit n word bit itemOk readBackOk eccOk) s
      (v.lineOpen n e (s.elapsed d) = false → go = .next v) ∧
      (v.lineOpen n e (s.elapsed d) = true → eccOk = false → go = .next ((u.dropFrame e 0x32).memoryError 0)) ∧
      (v.lineOpen n e (s.elapsed d) = true → eccOk = true → u.neverSent n e = true → go = .next (u.dropFrame e 0x20)) ∧
      (v.lineOpen n e (s.elapsed d) = true → eccOk = true → u.neverSent n e = false →
      (∀ k c, e.src.ctx? = some k → s.ctxAt k = some c → s.stale c = true → go = .next ((u.freeCtx k).count (wvCtr 5))) ∧
      (∀ k c, e.src.ctx? = some k → s.ctxAt k = some c → s.stale c = false → c.lane = none → (itemOk = false ∨ e.tag ≠ some c.checkTag) →
        go = .next ((u.freeCtx k).count (wvCtr 6))) ∧
      ((∀ k, e.src.ctx? = some k → ∃ c, s.ctxAt k = some c ∧ s.stale c = false ∧ itemOk = true ∧ e.tag = some c.checkTag) →
        (e.timed = true → s.fmu.gate = true → go = .next ((u.dropFrame e 0x30).count (stkCtr n 0))) ∧
        (e.timed = true → s.fmu.gate = false → s.weftPasses diff = false →
          go = .next (((u.dropFrame e 0x30).count (stkCtr n 0)).gateTrip diff)) ∧
        ((e.timed = true → s.fmu.gate = false ∧ s.weftPasses diff = true) → readBackOk = true →
          (∀ x ∈ (s.port n).committed, e.express = true →
            (s.port n).cuts (s.fld (mBase n + 0x18) 9 8) (s.elapsed d) x = false ∧ (s.port n).waits (s.elapsed d) x = false) →
          ∃ t e', go = .next t ∧ t = { s with ports := t.ports, wv := t.wv, ctr := t.ctr } ∧
            (t.port n).committed = (s.port n).committed ++ [e'] ∧ (t.port n).eg = (v.port n).eg.erase e ∧ e'.out = s.egressWord n d ∧
            e' = { e with bytes := e'.bytes, out := e'.out, resume := s.elapsed d } ∧
            (e.ins = .none → e.sealReq = none → e.auth = none → e'.bytes = e.bytes))))) ∧
    (∀ e rest, n ≤ 4 → (s.port n).committed = e :: rest → let t := s.frameSent n
      exec (.frameSent n) s = .next t.mgtWaiting ∧
      ((s.port 4).rxWait = [] → exec (.frameSent n) s = .next t) ∧ (t.port n).committed = rest ∧ (t.port n).lastTx = e.bytes ∧
      (t.port n).lastOut = e.out ∧ (t.port n).eg.map (fun x => { x with stored := true }) = (s.port n).eg.map (fun x => { x with stored := true }) ∧ t.md = s.md ∧ t.act = s.act ∧
      (∀ k, e.src.ctx? = some k → ∀ c ∈ t.wv.ctxs, c.id ≠ k) ∧
      (∀ k, e.src = .plain k → t.ctrAt (wvCtr 0) = ctrAdd (s.ctrAt (wvCtr 0)) 1))

/-- A rotation that is due in ACQUIRE, LOCKED, HOLDOVER or FREERUN puts a new key with the next KEYID (0 skipped) in slot 1, the old current one in slot 2, the previous one in slot 3, leaves every other slot, restarts the count and answers a waiting ROTATE with code 0x00. ROTATE, its write accepted, rotates at once in those modes; it is refused with 0x24 in SAFE and waits in MAINTAIN. COOKIE_MINT starts the oldest command, with the master keys then in force, when none runs; MINT_COMPLETE with bus mastering on writes the result with the code that its bytes, the mode and those keys give, completes its entry, and holds the command and its keys no longer. (R445, R446, R447, R448, R455) -/
def Obligations.MasterKeysRotateAndMintsComplete : Prop :=
  ∀ (s : State) (tok : BitVec 16),
    (s.md.mode.running = true → Assoc.rising s.fe.slots →
      let old := Assoc.get 1 s.fe.slots
      let id := match old with | some k => (if k.keyId = 0xFFFFFFFF then 1 else k.keyId + 1) | none => 1
      let moved (t : State) : Prop := (∃ k, Assoc.get 1 t.fe.slots = some k ∧ k.typ = 7 ∧ k.keyId = id ∧ k.secret.length = 32) ∧
        Assoc.get 2 t.fe.slots = old ∧ Assoc.get 3 t.fe.slots = Assoc.get 2 s.fe.slots ∧
        (∀ j, j ≠ 1 → j ≠ 2 → j ≠ 3 → Assoc.get j t.fe.slots = Assoc.get j s.fe.slots) ∧ t.rotNs = 0 ∧ t.wv.rotDue = false ∧
        t.wv.rotToken = none ∧ t = { s with fe := t.fe, wv := t.wv, ctr := t.ctr, fresh := s.fresh + 1 }
      (s.rotationDue = true → ∃ t, exec .keyRotation s = .next t ∧ moved t ∧
        (∀ k, s.wv.rotToken = some k → t.wv.symToken = k ∧ t.wv.symCode = 0)) ∧
      (s.noWrites = false → ∃ t, exec (.rotate tok) s = .next t ∧ moved t ∧ t.wv.symToken = tok.toNat ∧ t.wv.symCode = 0)) ∧
    (s.md.mode.running = false → exec .keyRotation s = .next s) ∧
    (s.md.mode = .safe → exec (.rotate tok) s = .next (s.symCtl tok.toNat 0x24)) ∧
    (s.md.mode = .maintain → exec (.rotate tok) s = .next { s with wv := { s.wv with rotToken := some tok.toNat } }) ∧
    (∀ m rest, s.wv.mints = m :: rest → (∀ x ∈ s.wv.mints, x.running = false) →
      exec .cookieMint s = .next { s with wv := { s.wv with mints := { m with running := true, keys := s.masterKeys } :: rest } }) ∧
    (∀ m, s.hif.bme = true → s.wv.mints.find? (·.running) = some m →
      let u := { s with wv := { s.wv with mints := s.wv.mints.filter (· != m) } }
      (s.mintCode m.keys m.bytes ≠ 0 → exec .mintComplete s = .next (((u.count 0xB0108).dma m.resAddr
        (mintResult m.bytes (s.mintCode m.keys m.bytes) 0 [])).cqWrite 1 m.index 0 (s.mintCode m.keys m.bytes))) ∧
      (s.mintCode m.keys m.bytes = 0 → ∃ t k, ∃ cs : List (List Byte), exec .mintComplete s = .next t ∧ Assoc.get 1 m.keys = some k ∧
        cs.length = (m.bytes.getD 2 0).toNat ∧ (∀ x ∈ cs, x.take 4 = beBytes 4 k.keyId) ∧
        t = ((({ u with fresh := t.fresh }).countN 0xB0100 cs.length).dma m.resAddr (mintResult m.bytes 0 k.keyId cs)).cqWrite 1 m.index 0 0))

/-- For a grandmaster port whose engine runs, with link up, no grants and no AUTHENTICATION: in the slot of Warp the one multicast instance, due in it, sends one Sync with PTP_TS and the next sequenceId, and one Announce likewise, and neither a second time in that slot. An Announce has 64 bytes, with the clockClass in force and the clock identity. A lane's message not yet checked is dropped, counted under the first rule it breaks; on a grandmaster port Announce and Sync end there, counted, any other, and any on a client, is passed on. A checked Delay_Req of an instance with multicast alone, with no peer delay, is refused above MAX_DREQ in a second and within it answered with the ingress time. A request on Ethernet for a new Sync or Announce grant, of one TLV, within ranges, rate and clients, that is placed is granted for its duration and answered. A grant whose time has run goes. CANCEL_GRANTS, its write accepted, answers 0x20 on a client and 0x24 outside the serving modes, and else removes the grants of the port. (R461, R462, R464, R467, R468, R469, R473, R478, R487, R488) -/
def Obligations.GrandmasterPortsSendAndAnswer : Prop :=
  ∀ (s : State) (n : Nat), n < s.ptp.ports.length →
    (∀ m slot, s.ptpRuns n = true → s.ptpClient n = false → s.maySync n = true → s.mayAnnounce n = true → (s.port n).link = true →
      s.ptp.grants = [] → slot = s.slotNow → m < 4 → (∀ k, k < 4 → (s.instOn n k && s.bit (iBase n k) 30) = decide (k = m)) →
      s.bit (iBase n m) 25 = false →
      ((s.ptpPort n).syncSlot = some s.slotCount → exec (.syncSend n slot) s = .next s) ∧
      ((s.ptpPort n).annSlot.getD m none = some s.slotCount → exec (.announceSend n m) s = .next s) ∧
      ((s.ptpPort n).syncSlot ≠ some s.slotCount → inSlot (s.logSync n m) 0 slot = true → ∃ t e, exec (.syncSend n slot) s = .next t ∧ t = { s with ports := t.ports, ptp := t.ptp } ∧
        (t.port n) = { s.port n with eg := (s.port n).eg ++ [e] } ∧ e.src = .sync ∧ e.ins = syncIns e.ptpAt ∧
        e.bytes = (s.ptpFrame n m false (s.syncMsg n m (s.ptpPort n).syncSeq false (s.logSync n m)) (s.groupDst n m false)).1 ∧
        t.ptpPort n = { s.ptpPort n with syncSeq := (s.ptpPort n).syncSeq + 1, syncSlot := some s.slotCount }) ∧
      ((s.ptpPort n).annSlot.getD m none ≠ some s.slotCount → inSlot (s.logAnn n m) 0 slot = true → ∃ t e, exec (.announceSend n m) s = .next t ∧ t = { s with ports := t.ports, ptp := t.ptp } ∧
        (t.port n) = { s.port n with eg := (s.port n).eg ++ [e] } ∧ e.src = .announce ∧ e.ins = .none ∧
        e.bytes = (s.ptpFrame n m false (s.announceMsg n m (s.ptpPort n).annSeq false (s.logAnn n m)) (s.groupDst n m false)).1 ∧
        t.ptpPort n = { s.ptpPort n with annSeq := (s.ptpPort n).annSeq + 1,
                                          annSlot := putAt (s.ptpPort n).annSlot m (some s.slotCount) })) ∧
    (∀ m seq uni l, (s.announceMsg n m seq uni l).length = 64 ∧ (s.announceMsg n m seq uni l).getD 48 0 = BitVec.ofNat 8 s.clockClass ∧
      ptpType (s.announceMsg n m seq uni l) = 11 ∧ slice (s.announceMsg n m seq uni l) 53 8 = s.clockId) ∧
    (∀ lane c m, s.lanePtp lane = some (c, m) → c.checked = false →
      (∀ i, s.ptpDrop c.port c.pkt m = some i → exec (.ptpMessageReceive lane) s = .next ((s.laneDrop lane c).count (ptpCtr c.port i))) ∧
      (s.ptpDrop c.port c.pkt m = none →
        (s.ptpClient c.port = false → (ptpType m = 0 ∨ ptpType m = 11) →
          exec (.ptpMessageReceive lane) s = .next ((s.laneDrop lane c).count (ptpCtr c.port 17))) ∧
        ((s.ptpClient c.port = true ∨ (ptpType m ≠ 0 ∧ ptpType m ≠ 11)) →
          exec (.ptpMessageReceive lane) s = .next (s.setCtx c.id fun x => { x with checked := true })))) ∧
    (∀ lane c m i, s.taken lane [1] = some (c, m, i) → c.port = n → peerDelay (s.ptpProfile n) = false → s.bit (iBase n i) 29 = false →
      s.bit (iBase n i) 30 = true →
      (s.fld (gBase n) 19 0 ≤ (s.lastSec (s.ptpPort n).dreqTimes).length →
        exec (.delayReq lane) s = .next ((s.laneDrop lane c).count (ptpCtr n 13))) ∧
      ((s.lastSec (s.ptpPort n).dreqTimes).length < s.fld (gBase n) 19 0 → (s.port n).link = true → s.bit (iBase n i) 25 = false →
        ∃ t e, exec (.delayReq lane) s = .next t ∧ t = { s with ports := t.ports, ptp := t.ptp, wv := t.wv, ctr := t.ctr } ∧
          (t.port n) = { s.port n with eg := (s.port n).eg ++ [e] } ∧ e.src = .delayResp c.id ∧ e.ins = .none ∧
          (∃ msg, e.bytes = ((s.underSet lane).ptpReply n c.pkt msg).1 ∧ slice msg 34 10 = stampOf c.ingress ∧ slice msg 44 10 = ptpSrc m ∧
            msg = s.delayResp c m i false (s.logDreq n i)) ∧
          (t.ptpPort n).dreqTimes = s.now :: s.lastSec (s.ptpPort n).dreqTimes ∧ (t.wv.lanes.getD lane Lane.reset).ctx = none)) ∧
    (∀ lane c m i x k, s.taken lane [12] = some (c, m, i) → c.port = n → s.ptpClient n = false → s.bit (iBase n i) 29 = true →
      s.bit (iBase n i) 25 = false → (s.port n).link = true → slice m 34 8 = s.clockId → ptpTlvs m = some [x] → x.typ = 4 →
      grantKind ((m.getD (x.at_ + 4) 0).toNat / 16) = some k → k ≠ 2 → c.pkt.etype = 0x88F7 →
      let l := signed 8 (m.getD (x.at_ + 5) 0).toNat
      let d := max (if s.ptpProfile n = 3 then 60 else 10) (min 1000 (ofBe (slice m (x.at_ + 6) 4)))
      let me := (n, ptpSrc m, beBytes 6 c.pkt.src)
      let new : Grant := { port := n, inst := i, cid := ptpSrc m, addr := beBytes 6 c.pkt.src, kind := k, logI := l, phase := 0, movePhase := none,
                           until_ := s.now + d * nsPerSec, times := [], reply := c.pkt }
      (logRange (s.ptpProfile n) k).1 ≤ l → l ≤ (logRange (s.ptpProfile n) k).2 → s.clients.length < 16384 →
      (∀ g ∈ s.ptp.grants, g.client = me → g.kind ≠ k ∨ g.inst ≠ i) →
      ({ s with ptp := { s.ptp with grants := s.ptp.grants ++ [new] } } : State).committedRate ≤ 8000000 →
      ∀ ph, s.place s.ptp.grants n k l = some ph → ∃ t e, exec (.unicastNegotiation lane) s = .next t ∧
        t.ptp.grants = s.ptp.grants ++ [{ new with phase := ph }] ∧ (t.port n).eg = (s.port n).eg ++ [e] ∧ e.src = .signaling ∧
        t = { s with ports := t.ports, ptp := t.ptp, wv := t.wv, ctr := t.ctr } ∧ t.ctrAt (ptpCtr n 5) = ctrAdd (s.ctrAt (ptpCtr n 5)) 1) ∧
    (∀ g x, s.ptp.grants[g]? = some x → x.port = n → x.until_ ≤ s.now →
      exec (.grantExpire n g) s = .next { s with ptp := { s.ptp with grants := s.ptp.grants.eraseIdx g } }) ∧
    (∀ tok : BitVec 16, s.noWrites = false →
      (s.ptpClient n = true → exec (.cancelGrants tok n) s = .next (s.ptpCtl tok.toNat 0x20)) ∧
      (s.ptpClient n = false → s.md.mode.serving = false → exec (.cancelGrants tok n) s = .next (s.ptpCtl tok.toNat 0x24)) ∧
      (s.ptpClient n = false → s.md.mode.serving = true → ∃ t, exec (.cancelGrants tok n) s = .next t ∧
        t.ptp.grants = s.ptp.grants.filter (fun g => g.port != n) ∧ t.ptp.ctlToken = tok.toNat ∧ t.ptp.ctlCode = 0 ∧ t.md = s.md ∧
        t.act = s.act))

/-- With link up: PDELAY_REQ_SEND of a multicast instance of a peer-delay profile, without AUTHENTICATION, begins an exchange with the next sequenceId and sends a request whose transmit time is asked for, when the interval has run since the last, and else does nothing. PDELAY_REQ_RECEIVE of profile 1 answers with insertion PTP_RES from the ingress time, the correction and sequenceId of the request and its sender. PDELAY_RESP_FOLLOW_UP sends the follow-up of the oldest reported departure. PEER_DELAY_COMPLETE, for the exchange in hand whose request has left, of a one-step response forms half of t4 - t1 less the correction and keeps the last 16 delays, and of the follow-up of a two-step one in profile 1 half of t4 - t1 - (t3 - t2) less both corrections. (R457, R462, R463) -/
def Obligations.PeerDelayPortsMeasureTheirNeighbour : Prop :=
  ∀ (s : State) (n : Nat), n < s.ptp.ports.length → (s.port n).link = true →
    (∀ m, s.ptpRuns n = true → s.instOn n m = true → s.bit (iBase n m) 30 = true → peerDelay (s.ptpProfile n) = true →
      s.bit (iBase n m) 25 = false →
      let seq := ((s.ptpPort n).reqSeq + 1) % 65536
      (s.pdelayDue n = false → exec (.pdelayReqSend n m) s = .next s) ∧
      (s.pdelayDue n = true → ∃ t e, exec (.pdelayReqSend n m) s = .next t ∧ t = { s with ports := t.ports, ptp := t.ptp } ∧
        (t.port n) = { s.port n with eg := (s.port n).eg ++ [e] } ∧ e.src = .pdelayReq seq ∧ e.tsReq = true ∧ e.ins = .none ∧
        (t.ptpPort n).exch = some ⟨seq, none, none, none, 0⟩ ∧ (t.ptpPort n).reqSeq = (s.ptpPort n).reqSeq + 1 ∧
        (t.ptpPort n).mpd = (s.ptpPort n).mpd ∧ (t.ptpPort n).pdAt = some s.now)) ∧
    (∀ lane c m i, s.taken lane [2] = some (c, m, i) → c.port = n → s.ptpProfile n = 1 → s.bit (iBase n i) 25 = false →
      ∃ t e msg, exec (.pdelayReqReceive lane) s = .next t ∧ t = { s with ports := t.ports, ptp := t.ptp, wv := t.wv } ∧
        (t.port n) = { s.port n with eg := (s.port n).eg ++ [e] } ∧ e.src = .pdelayResp c.id false ∧
        e.ins = .ptpRes (e.ptpAt + 8) c.ingress ∧ e.bytes = ((s.underSet lane).ptpReply n c.pkt msg).1 ∧ ptpType msg = 3 ∧ slice msg 44 10 = ptpSrc m ∧
        slice msg 30 2 = beBytes 2 (ptpSeq m % 65536) ∧ slice msg 8 8 = beBytes 8 (unsigned 64 (ptpCorr m))) ∧
    (∀ pid seq w p rest m i, (s.ptpPort n).pdFup = (pid, seq, w, p) :: rest → p.ptp? = some m →
      s.instFor n (ptpDomain m) p.transport = some i → s.ptpRuns n = true → s.bit (iBase n i) 25 = false →
      ∃ t e, exec (.pdelayRespFollowUp n) s = .next t ∧ t = { s with ports := t.ports, ptp := t.ptp } ∧ (t.ptpPort n).pdFup = rest ∧
        (t.port n) = { s.port n with eg := (s.port n).eg ++ [e] } ∧ e.src = .pdelayFup ∧ e.ins = .none) ∧
    (∀ lane c m i x t1, s.taken lane [3, 10] = some (c, m, i) → c.port = n → (s.ptpPort n).exch = some x → x.t1 = some t1 →
      ptpSeq m = x.seq → slice m 44 10 = s.portId n → peerDelay (s.ptpProfile n) = true →
      (ptpType m = 3 → (m.getD 6 0).toNat / 2 % 2 = 0 →
        let d := Config.round ((((c.ingress.t : Int) - t1 - ptpCorr m : Int) : Rat) / 2)
        ∃ t, exec (.peerDelayComplete lane) s = .next t ∧ t = { s with ptp := t.ptp, wv := t.wv } ∧ (t.ptpPort n).mpd = some d ∧
          (t.ptpPort n).delays = ((s.ptpPort n).delays ++ [d]).drop ((s.ptpPort n).delays.length + 1 - 16) ∧ (t.ptpPort n).exch = none ∧
          (t.wv.lanes.getD lane Lane.reset).ctx = none) ∧
      (∀ t2 t4, ptpType m = 10 → s.ptpProfile n = 1 → x.t2 = some t2 → x.t4 = some t4 →
        ∃ t, exec (.peerDelayComplete lane) s = .next t ∧ t = { s with ptp := t.ptp, wv := t.wv } ∧
          (t.ptpPort n).mpd = some (Config.round (((t4 - t1 - (ptpStamp m - t2) - (x.corr + ptpCorr m) : Int) : Rat) / 2))))

/-- CLIENT_ANNOUNCE records a grandmaster not yet heard while fewer than 8 are. CLIENT_SYNC of the one followed, one-step, keeps t2 - t1 less the correction and, with a delay known, forms z = t1 + correction + delay + asymmetry - t2. CLIENT_DELAY_RESP of the exchange in hand, with no peer delay, adds a delay sample to the last 16. With the link up, no AUTHENTICATION and the engine running, a Delay_Req is sent to the one followed, by multicast or while Delay_Resp is granted, once it has a Sync (a unicast one to an address not yet resolved waits while a frame of Bodkin asks for it), and where unicast requests are due a frame goes out for each enabled grandmaster and the next are due in 150 s. No Announce for ANN_TO intervals forgets the one followed and counts its loss; Announces but no Sync for 3 intervals count the loss. RESTART_CLIENT, its write accepted, answers 0x20 on a grandmaster port and 0x24 outside the serving modes, and else forgets all. (R474, R475, R476, R477, R487, R488) -/
def Obligations.ClientPortsFollowTheirGrandmaster : Prop :=
  ∀ (s : State) (n : Nat), n < 4 → n < s.ptp.ports.length →
    (∀ lane c m i, s.taken lane [11] = some (c, m, i) → c.port = n → s.ptpClient n = true → (s.ptpPort n).foreign.length < 8 →
      (∀ f ∈ (s.ptpPort n).foreign, f.cid ≠ ptpSrc m) → (s.ptpPort n).following ≠ some (ptpSrc m) →
      ∃ t f, exec (.clientAnnounce lane) s = .next t ∧ t.md.mode = s.md.mode ∧ t.act = s.act ∧ f ∈ (t.ptpPort n).foreign ∧ f.cid = ptpSrc m ∧
        f.gmId = slice m 53 8 ∧ f.class_ = (m.getD 48 0).toNat ∧ f.steps = be2 m 61 ∧ f.anns = [s.now] ∧
        (t.wv.lanes.getD lane Lane.reset).ctx = none) ∧
    (∀ lane c m i, s.taken lane [0, 8] = some (c, m, i) → c.port = n → s.ptpClient n = true → (s.ptpPort n).following = some (ptpSrc m) →
      ptpType m = 0 → (m.getD 6 0).toNat / 2 % 2 = 0 →
      let ms : Int := (c.ingress.t : Int) - ptpStamp m - ptpCorr m
      ∃ t, exec (.clientSync lane) s = .next t ∧ t.md.mode = s.md.mode ∧ t.act = s.act ∧ (t.ptpPort n).syncMs = some ms ∧
        (t.ptpPort n).syncAt = s.now ∧ (t.wv.lanes.getD lane Lane.reset).ctx = none ∧
        ((s.ptpPort n).delays = [] → (t.ptpPort n).ofs = (s.ptpPort n).ofs ∧ t = { s with ptp := t.ptp, wv := t.wv }) ∧
        ((s.ptpPort n).delays ≠ [] → (t.ptpPort n).ofs = medianI (s.ptpPort n).delays + s.pair (gBase n + 0x1C) - ms)) ∧
    (∀ lane c m i x ms t3, s.taken lane [9] = some (c, m, i) → c.port = n → s.ptpClient n = true → peerDelay (s.ptpProfile n) = false →
      (s.ptpPort n).following = some (ptpSrc m) → (s.ptpPort n).exch = some x → (s.ptpPort n).syncMs = some ms → x.t1 = some t3 →
      ptpSeq m = x.seq → slice m 44 10 = s.portId n →
      let d := Config.round (((ms + (ptpStamp m - t3 - ptpCorr m) : Int) : Rat) / 2)
      ∃ t, exec (.clientDelayResp lane) s = .next t ∧ t = { s with ptp := t.ptp, wv := t.wv } ∧ (t.ptpPort n).exch = none ∧
        (t.ptpPort n).delays = ((s.ptpPort n).delays ++ [d]).drop ((s.ptpPort n).delays.length + 1 - 16)) ∧
    (∀ f, s.followed n = some f → s.ptpRuns n = true → s.ptpClient n = true → s.instOn n 0 = true → peerDelay (s.ptpProfile n) = false →
      (s.ptpPort n).syncMs ≠ none → (s.bit (iBase n 0) 29 = false ∨ ∃ g ∈ (s.ptpPort n).granted, g.1 = 2 ∧ s.now < g.2) →
      s.bit (iBase n 0) 25 = false → (s.port n).link = true →
      ∃ t e, exec (.clientDelayReqSend n) s = .next t ∧ t = { s with ports := t.ports, ptp := t.ptp, mgt := t.mgt } ∧
        e.src = .delayReq (((s.ptpPort n).reqSeq + 1) % 65536) ∧ e.tsReq = true ∧
        (t.ptpPort n).exch = some ⟨((s.ptpPort n).reqSeq + 1) % 65536, none, none, none, 0⟩ ∧
        ((s.bit (iBase n 0) 29 = false ∨ s.macReg (gBase n + 0x24) ≠ 0 ∨ (s.neighMac n f.src.srcIp).isSome = true) →
          t.port n = { s.port n with eg := (s.port n).eg ++ [e] } ∧ t.mgt = s.mgt) ∧
        (s.bit (iBase n 0) 29 = true → s.macReg (gBase n + 0x24) = 0 → s.neighMac n f.src.srcIp = none →
          { port := n, ip := f.src.srcIp, frame := e } ∈ t.mgt.held ∧ ∃ q, t.port n = { s.port n with eg := (s.port n).eg ++ [q] } ∧ q.src = .bodkin)) ∧
    (s.ptpRuns n = true → s.ptpClient n = true → s.instOn n 0 = true → s.bit (iBase n 0) 29 = true → s.bit (iBase n 0) 25 = false →
      (s.ptpPort n).renewAt ≤ s.now → (s.port n).link = true →
      ∃ t, exec (.clientGrantRenew n) s = .next t ∧ t = { s with ports := t.ports, ptp := t.ptp, mgt := t.mgt } ∧
        (s.macReg (gBase n + 0x24) ≠ 0 → t.mgt = s.mgt) ∧
        (t.ptpPort n).renewAt = s.now + 150 * nsPerSec ∧ (t.port n).eg.length = (s.port n).eg.length +
          ((List.range 4).filter (fun k => s.bit (gBase n + 0x100 + 0x20 * k) 31)).length) ∧
    (∀ id, (s.ptpPort n).following = some id → s.md.mode.serving = true →
      (s.ptpPort n).annAt + s.fld (gBase n) 26 24 * logNs (s.logAnn n 0) ≤ s.now →
      ∃ t, exec (.clientGmTimeout n) s = .next t ∧ t.md.mode = s.md.mode ∧ t.act = s.act ∧ (t.ptpPort n).following ≠ some id ∧
        (∀ f ∈ (t.ptpPort n).foreign, f.cid ≠ id) ∧ (t.ptpPort n).syncMs = none ∧
        t.ctrAt (ptpCtr n 18) = ctrAdd (s.ctrAt (ptpCtr n 18)) 1) ∧
    (∀ id, (s.ptpPort n).following = some id → s.md.mode.serving = true →
      s.now < (s.ptpPort n).annAt + s.fld (gBase n) 26 24 * logNs (s.logAnn n 0) →
      (s.ptpPort n).syncAt + 3 * logNs ((s.ptpPort n).syncLog.getD (s.logSync n 0)) ≤ s.now →
      ∃ t, exec (.clientGmTimeout n) s = .next t ∧ t.md.mode = s.md.mode ∧ t.act = s.act ∧
        (t.ptpPort n).foreign = (s.ptpPort n).foreign ∧ (t.ptpPort n).syncMs = none ∧
        t.ctrAt (ptpCtr n 18) = ctrAdd (s.ctrAt (ptpCtr n 18)) 1) ∧
    (∀ tok : BitVec 16, s.noWrites = false →
      (s.ptpClient n = false → exec (.restartClient tok n) s = .next (s.ptpCtl tok.toNat 0x20)) ∧
      (s.ptpClient n = true → s.md.mode.serving = false → exec (.restartClient tok n) s = .next (s.ptpCtl tok.toNat 0x24)) ∧
      (s.ptpClient n = true → s.md.mode.serving = true → ∃ t, exec (.restartClient tok n) s = .next t ∧ (t.ptpPort n).foreign = [] ∧
        (t.ptpPort n).delays = [] ∧ (t.ptpPort n).mpd = none ∧ (t.ptpPort n).following = none ∧ t.ptp.ctlToken = tok.toNat ∧
        t.ptp.ctlCode = 0 ∧ t.md.mode = s.md.mode ∧ t.act = s.act))

/-- HIF_RESET leaves the rings, queues and registers of the host interface at their reset values, the commands of the host held aborted first and every other register as it stood. A link comes up at its speed and width; a configuration write sets the fields it gives, what waited for Bus Master Enable is completed, and held messages unmasked go out. An accepted TAIL below the ring size is taken, another raises DOORBELL_ERR. With the interface running: a frame whose ring has it first, and whose bytes fit the posted entry at HEAD, is written whole there with its fields, HEAD moved on by one, or with an ECC error dropped and reported; short of entries it waits, and RING_WAIT after it came to the head it is taken off and counted. A frame of one entry, SOP and EOP alone, sound and of a good length, joins the egress of a port with link and transmit enabled as it stands when it fits the pool, and without link ends with 0x20. TX_COMPLETE of a ring's oldest frame of one entry, its status known and not FAULT, writes T_out and STATUS into the entry, moves HEAD on and counts it; with no status yet it waits. (R493, R494, R496, R499, R500, R502, R505, R506, R520, R521) -/
def Obligations.HostRingsMoveFramesThroughTheirEntries : Prop :=
  ∀ s : State,
    (∀ lost, ∃ t, exec (.hifReset lost) s = .next t ∧ (∀ n, n < 16 → t.rxRing n = Ring.reset ∧ t.txRing n = Ring.reset) ∧
      (∀ q, q < 2 → t.cqRing q = Ring.reset) ∧ t.hif.bme = false ∧ t.hif.ptmEn = false ∧ t.pke.ops = s.pke.ops.filter (·.bod) ∧ t.wv.mints = [] ∧
      t.wv.hostQ = [] ∧ t.hif.txq = [] ∧ t.hif.link = (s.hif.link && !lost) ∧ t.hif.compq = [] ∧
      t.hif.mem = (s.abortHeld false).hif.mem ∧ (s.hif.bme = false → t.hif.mem = s.hif.mem) ∧
      (∀ a, 0x110000 ≤ a → a < 0x120000 → t.reg a = regReset a) ∧
      (Assoc.rising s.act → ∀ a, a < 0x110000 ∨ 0x120000 ≤ a → t.reg a = s.reg a) ∧
      t = { s with ports := t.ports, pke := t.pke, wv := t.wv, hif := t.hif, ctr := t.ctr, stg := t.stg, act := t.act, cmts := t.cmts }) ∧
    (∀ sp w, 1 ≤ sp → sp ≤ 4 → (w = 1 ∨ w = 2 ∨ w = 4) →
      exec (.pcieLinkUp sp w) s = .next { s with hif := { s.hif with link := true, speed := sp, width := w } }) ∧
    (∀ w : PcieWrite, ((s.hif.link = false ∨ s.shadow = true) → exec (.pcieConfigWrite w) s = .next s) ∧
      (s.hif.link = true → s.shadow = false →
        let u : State := { s with hif := { s.hif with bme := w.bme.getD s.hif.bme, ptmEn := w.ptmEn.getD s.hif.ptmEn, pci := s.hif.pci.written w } }
        exec (.pcieConfigWrite w) s = .next ((List.range 36).foldl (fun s v => s.vecUnmask v) u.cqFlush) ∧
        (s.hif.compq = [] → (∀ x ∈ s.hif.vecs, x.pend = false) → exec (.pcieConfigWrite w) s = .next u))) ∧
    (∀ n v, s.noWrites = false →
      (bitsOf v 15 0 < s.ringSize (rxBase n) →
        exec (.rxTailWrite n v) s = .next (s.setRx n { s.rxRing n with tail := bitsOf v 15 0 })) ∧
      (bitsOf v 15 0 < s.ringSize (txBase n) →
        exec (.txTailWrite n v) s = .next (s.setTx n { s.txRing n with tail := bitsOf v 15 0 })) ∧
      (bitsOf v 15 0 < s.ringSize (cqBase n) →
        exec (.cqTailWrite n v) s = .next (s.setCq n { s.cqRing n with tail := bitsOf v 15 0 })) ∧
      (s.ringSize (rxBase n) ≤ bitsOf v 15 0 → exec (.rxTailWrite n v) s = .next (s.cause 10)) ∧
      (s.ringSize (txBase n) ≤ bitsOf v 15 0 → exec (.txTailWrite n v) s = .next (s.cause 10)) ∧
      (s.ringSize (cqBase n) ≤ bitsOf v 15 0 → exec (.cqTailWrite n v) s = .next (s.cause 10))) ∧
    (∀ n i es, n < s.hif.rx.length → s.hifRuns = true → s.ringEn (rxBase n) = true → s.hostHead n = some i →
      (∀ e es', es = e :: es' → 0 < ringCount (s.ringSize (rxBase n)) (s.rxRing n).head (s.rxRing n).tail → rxBad e = none →
        i.bytes.length ≤ e.bufLen → ∃ t, exec (.hostFrameDeliver n es true) s = .next t ∧
          t.hif.mem = memPut (memPut s.hif.mem e.addr i.bytes) (s.ringAddr (rxBase n) + 32 * (s.rxRing n).head)
            (leBytes 12 i.time.toBits.toNat ++ leBytes 2 i.bytes.length ++ leBytes 2 i.bytes.length ++ leBytes 8 e.user ++
              [0, BitVec.ofNat 8 (131 + 4 * b01 i.mirror + 8 * b01 i.csumOk), BitVec.ofNat 8 i.port, BitVec.ofNat 8 i.cls] ++
              leBytes 2 i.rule ++ leBytes 2 i.tci) ∧
          (t.rxRing n).head = ((s.rxRing n).head + 1) % s.ringSize (rxBase n) ∧ (t.rxRing n).tail = (s.rxRing n).tail ∧
          t.wv.hostQ.length + 1 = s.wv.hostQ.length ∧ t.ctrAt (hifCtr 0) = ctrAdd (s.ctrAt (hifCtr 0)) 1 ∧
          t = { s with ports := t.ports, wv := t.wv, hif := t.hif, ctr := t.ctr }) ∧
      (reserveRx (es.take (ringCount (s.ringSize (rxBase n)) (s.rxRing n).head (s.rxRing n).tail)) i.bytes.length = none →
        (∀ e ∈ es.head?, rxBad e = none) → exec (.hostFrameDeliver n es true) s = .next s) ∧
      exec (.hostFrameDeliver n es false) s = .next ((s.popHost i).memoryError 0)) ∧
    (∀ n i at_, s.hostHead n = some i → i.since = some at_ → s.islandOut 5 = false →
      (at_ + s.fld 0x110000 15 0 * 1000 ≤ s.now → exec (.ringWaitExpire n) s = .next ((s.popHost i).count (hifCtr 2))) ∧
      (s.now < at_ + s.fld 0x110000 15 0 * 1000 → exec (.ringWaitExpire n) s = .next s)) ∧
    (∀ n e es, n < s.hif.tx.length → s.hifRuns = true → s.ringEn (txBase n) = true → e.flags = 3 → e.fault = false →
      0 < ringCount (s.ringSize (txBase n)) (s.txRing n).next (s.txRing n).tail → badDesc [e] = false → s.badLen [e] e.data = false →
      ((s.port e.port).link = false → exec (.hostFrameTransmit n (e :: es)) s = .next (s.txRead n [e] (some 0x20))) ∧
      ((s.port e.port).link = true → s.bit (mBase e.port + 4) 31 = true → e.port < s.ports.length → cellsOf e.data.length ≤ s.poolFree →
        ∃ t f, exec (.hostFrameTransmit n (e :: es)) s = .next t ∧ t.port e.port = { s.port e.port with eg := (s.port e.port).eg ++ [f] } ∧
          f.bytes = e.data ∧ f.src = .host s.hif.nextTx ∧ f.prio = e.prio % 8 ∧ f.tsReq = false ∧
          t.hif.txq = s.hif.txq ++ [⟨n, s.hif.nextTx, [3], none, []⟩] ∧
          (t.txRing n).next = ((s.txRing n).next + 1) % s.ringSize (txBase n) ∧ t = { s with ports := t.ports, hif := t.hif })) ∧
    (∀ n x st, n < s.hif.tx.length → s.hifRuns = true → s.hif.txq.find? (fun x => x.ring == n) = some x →
      (x.status = none → exec (.txComplete n) s = .next s) ∧
      (x.status = some st → x.flags = [3] → x.tout.length = 12 → st ≠ 0x32 → ∃ t, exec (.txComplete n) s = .next t ∧
        t.hif.mem = memPut (memPut s.hif.mem (s.ringAddr (txBase n) + 32 * (s.txRing n).head) (x.tout.take 11 ++ [x.tout.getD 11 0 ||| 0x80]))
          (s.ringAddr (txBase n) + 32 * (s.txRing n).head + 24) [BitVec.ofNat 8 st] ∧
        (t.txRing n).head = ((s.txRing n).head + 1) % s.ringSize (txBase n) ∧ t.hif.txq = s.hif.txq.erase x ∧
        (let c := if st = 0 then hifCtr 1 else if st = 0x11 then hifCtr 4 else hifCtr 5
         t.ctrAt c = ctrAdd (s.ctrAt c) 1) ∧ t = { s with hif := t.hif, ctr := t.ctr }))

/-- With room, a fetched command that passes its checks is held, an operation asking for full core speed, and one that fails is completed with its status, FAULT being reported too. Writes accepted: ABORT of an entry inside HEAD to TAIL − 1 completes it with ABORTED, held, a held operation or mint ending with it, or not yet fetched; any other index, or one whose completion waits for Bus Master Enable, has no effect; ABORT_ALL does what ABORT does for each entry from HEAD on. A completion writes its status, DONE and code, and HEAD moves over it; it waits while Bus Master Enable is 0. EVS_RECORD_DELIVER, with a record unread, room and no overflow owed, writes the record at the reader into the next slot and moves both on. The host's RD write is taken; MARK, REWIND and CLEAR change the stream's reader alone. With MSI-X enabled a due vector sends its message unless masked, when it is pending. PTM_REQ begins a correlation, and PTM_AUTO one at its PERIOD of Warp; PTM_REQ without PTM Enable fails with 0x21, without link with 0x22, and a correlation unanswered for 10 ms with 0x33; the first dialog keeps its times, the second forms the result with its own turnaround. (R508, R509, R510, R511, R512, R513, R514, R516, R517, R521) -/
def Obligations.CommandsStreamInterruptsAndPtmRun : Prop :=
  ∀ s : State,
    (∀ q e i, q < s.hif.cq.length → s.hifRuns = true → s.ringEn (cqBase q) = true → s.cqRoom q e.bytes = true →
      (s.cqRing q).toFetch (s.ringSize (cqBase q)) = some i →
      let s1 := s.setCq q { s.cqRing q with next := (i + 1) % s.ringSize (cqBase q) }
      (s1.cqCheck q e = 0 → q = 0 → exec (.commandFetch q e) s =
        .next ({ s1 with pke := { s.pke with ops := s.pke.ops ++ [⟨false, i, e.bytes, e.resAddr, none, 0, 0, 0, []⟩] } } : State).coreFull) ∧
      (s1.cqCheck q e = 0 → q = 1 → exec (.commandFetch q e) s =
        .next { s1 with wv := { s.wv with mints := s.wv.mints ++ [⟨i, e.bytes, e.resAddr, false, []⟩] } }) ∧
      (s1.cqCheck q e = 0x32 → exec (.commandFetch q e) s =
        .next ((s1.cqComplete q i 0x32 0).draw.2.faultReport ((s1.cqComplete q i 0x32 0).draw.1 % 65536) 0)) ∧
      (∀ st ∈ [0x13, 0x14], s1.cqCheck q e = st → exec (.commandFetch q e) s = .next (s1.cqComplete q i st 0))) ∧
    (∀ q i, s.noWrites = false →
      ((s.cqRing q).open_ (s.ringSize (cqBase q)) i = false → exec (.abort q i) s = .next s) ∧ (s.cqWaits q i = true → exec (.abort q i) s = .next s) ∧
      (s.cqWaits q i = false →
      (q < 2 → (s.cqRing q).open_ (s.ringSize (cqBase q)) i = true → (∀ o ∈ s.pke.ops, o.bod = true ∨ o.index ≠ i) → (∀ m ∈ s.wv.mints, m.index ≠ i) →
        exec (.abort q i) s = .next ((if q = 0 then s else s.count 0xB0108).cqComplete q i 0x31 0x31)) ∧
      ((s.cqRing 0).open_ (s.ringSize (cqBase 0)) i = true → q = 0 → ∀ o, s.pke.ops = [o] → o.index = i → o.bod = false →
        ∃ t : State, exec (.abort 0 i) s = .next (t.cqComplete 0 i 0x31 0x31) ∧ t = { s with pke := t.pke, ctr := t.ctr } ∧
        t.pke.ops = [] ∧ (∀ c, o.core = some c → t.pke.zeroUntil = putAt s.pke.zeroUntil c (s.now + 2000)) ∧
        t.ctrAt (pkeCtr 3) = ctrAdd (s.ctrAt (pkeCtr 3)) 1) ∧
      ((s.cqRing 1).open_ (s.ringSize (cqBase 1)) i = true → q = 1 → ∀ m, s.wv.mints = [m] → m.index = i →
        exec (.abort 1 i) s = .next ((({ s with wv := { s.wv with mints := [] } } : State).count 0xB0108).cqComplete 1 i 0x31 0x31))) ∧
      exec (.abort q i) s = .next (s.cqAbort q i) ∧
      exec (.abortAll q) s = .next (((List.range (ringCount (s.ringSize (cqBase q)) (s.cqRing q).head (s.cqRing q).tail)).map fun k =>
        ((s.cqRing q).head + k) % s.ringSize (cqBase q)).foldl (fun s i => s.cqAbort q i) s)) ∧
    (∀ q i st c, s.hif.bme = false → s.cqComplete q i st c =
      { s with hif := { s.hif with compq := s.hif.compq ++ [{ q := q, i := i, qstat := st, code := c, addr := 0, res := [] }] } }) ∧
    (∀ q i st c, q < s.hif.cq.length → s.hif.bme = true → ∃ r, (s.cqComplete q i st c).hif.mem =
        memPut s.hif.mem (s.ringAddr (cqBase q) + 32 * i + 24) [BitVec.ofNat 8 st, 0x80, BitVec.ofNat 8 c] ∧
      (s.cqComplete q i st c).cqRing q = r ∧ r.tail = (s.cqRing q).tail ∧ ((s.cqRing q).done = [] →
        r.head = if i = (s.cqRing q).head then (i + 1) % s.ringSize (cqBase q) else (s.cqRing q).head)) ∧
    (s.evsEn = true → s.hifRuns = true → s.unread s.hif.evs ≠ 0 → s.evsHeld = false → s.tin.ovfDue = false →
      ∃ t, exec .evsRecordDeliver s = .next t ∧
        t.hif.mem = memPut s.hif.mem ((s.reg 0x110600).toNat + (s.reg 0x110604).toNat * 2 ^ 32 + 16 * (s.hif.evsWr % 2 ^ s.fld 0x110608 4 0))
          (leBytes 16 (s.recAt s.hif.evs.rd).toNat) ∧
        t.hif.evs = { s.hif.evs with rd := (s.hif.evs.rd + 1) % 2 ^ 32 } ∧ t.hif.evsWr = (s.hif.evsWr + 1) % 2 ^ 32 ∧
        t.ctrAt (hifCtr 8) = ctrAdd (s.ctrAt (hifCtr 8)) 1 ∧ t = { s with hif := t.hif, ctr := t.ctr }) ∧
    (s.noWrites = false →
      (∀ v : W32, exec (.evsHostRdWrite v) s = .next { s with hif := { s.hif with evsHostRd := v.toNat } }) ∧
      exec .evsMark s = .next { s with hif := { s.hif with evs := { s.hif.evs with mark := some s.hif.evs.rd, gone := false, code := 0 } } } ∧
      exec .evsClear s = .next { s with hif := { s.hif with evs := { s.hif.evs with mark := none, gone := false, markLost := false, code := 0 } } } ∧
      (∀ m, s.hif.evs.mark = some m → s.markValid s.hif.evs = true →
        exec .evsRewind s = .next { s with hif := { s.hif with evs := { s.hif.evs with rd := m, code := 0 } } }) ∧
      (s.markValid s.hif.evs = false →
        exec .evsRewind s = .next { s with hif := { s.hif with evs := { s.hif.evs with rd := s.heldFrom, code := 0x20 } } })) ∧
    (∀ v x, s.hif.vecs[v]? = some x → s.hifRuns = true → s.hif.pci.msixEn = true → s.hif.pci.msixEn = true →
      (s.vecDue v = true → s.vecMasked v = false →
        exec (.msixMessage v) s = .next { s with hif := { s.hif with vecs := s.hif.vecs.set v { x with events := 0, sent := x.sent + 1 } } }) ∧
      (s.vecDue v = true → s.vecMasked v = true →
        exec (.msixMessage v) s = .next { s with hif := { s.hif with vecs := s.hif.vecs.set v { x with events := 0, pend := true } } }) ∧
      (s.vecDue v = false → exec (.msixMessage v) s = .next s)) ∧
    (∀ tok : BitVec 16, s.noWrites = false →
      (s.hif.ptmEn = true → s.hif.link = true → exec (.ptmReq tok) s =
        .next { s with hif := { s.hif with ptmRun := some ⟨some tok.toNat, s.now, s.tb.warp, none⟩ } }) ∧
      (∀ c, (s.hif.ptmEn = false ∧ c = 0x21) ∨ (s.hif.ptmEn = true ∧ s.hif.link = false ∧ c = 0x22) →
        ∃ t, exec (.ptmReq tok) s = .next t ∧ t.hif.ptm = { s.hif.ptm with token := tok.toNat, code := c } ∧ t.hif.ptmRun = none ∧
          t.ctrAt (hifCtr 10) = ctrAdd (s.ctrAt (hifCtr 10)) 1 ∧ t.hif.cause = s.hif.cause ||| 0x200)) ∧
    (s.bit 0x110900 31 = true → s.hif.ptmRun = none → s.inReset = false → s.hif.ptmEn = true → s.hif.link = true →
      (s.tb.warp % (s.fld 0x110900 9 0 * 1000000) = 0 → exec .ptmAuto s =
        .next { s with hif := { s.hif with ptmRun := some ⟨none, s.now, s.tb.warp, none⟩ } }) ∧
      (s.tb.warp % (s.fld 0x110900 9 0 * 1000000) ≠ 0 → exec .ptmAuto s = .next s)) ∧
    (∀ r m d, s.hif.ptmRun = some r →
      (r.firstDlg = none → exec (.ptmResponse m d) s = .next { s with hif := { s.hif with
        ptmRun := some { r with began := s.now, t1 := s.tb.warp, firstDlg := some (r.t1, s.tb.warp, m) } } }) ∧
      (∀ a b m1, r.firstDlg = some (a, b, m1) → ∃ t, exec (.ptmResponse m d) s = .next t ∧ t.hif.ptmRun = none ∧
        t.hif.ptm.code = 0 ∧ t.hif.ptm.seq = (s.hif.ptm.seq + 1) % 2 ^ 32 ∧ t.hif.ptm.t1 = a ∧ t.hif.ptm.rtt = b - a ∧ t.hif.ptm.master = m1 ∧
        t.hif.ptm.turn = d ∧ t.hif.ptm.prop = Config.round (((b - a : Nat) - d : Rat) / 2) ∧
        t.hif.ptm.token = r.token.getD s.hif.ptm.token ∧ t.ctrAt (hifCtr 9) = ctrAdd (s.ctrAt (hifCtr 9)) 1) ∧
      (r.began + 10000000 ≤ s.now → ∃ t, exec .ptmTimeout s = .next t ∧ t.hif.ptm.code = 0x33 ∧ t.hif.ptmRun = none ∧
        t.hif.ptm.seq = s.hif.ptm.seq ∧ t.hif.cause = s.hif.cause ||| 0x200) ∧
      (s.now < r.began + 10000000 → exec .ptmTimeout s = .next s))

/-- The operation to start next, the oldest of Bodkin's that wait or else of the host's, starts on a free core that its own command names; a core not free or another kind changes nothing. A check of an image by Bodkin runs for a verification. Of any other a header fault is set to release 0.1 us later, a fault of a public input V later, any other T later with code 0x00 or 0x14. MODEXP gives A0^A1 mod A2 in the length of A2; DELETE empties its slot alone; PUBKEY gives the public key; verifications give 4 bytes. A release before its time changes nothing. Then, the cycles reckoned, Bodkin's ends and a waiting one takes its place, and with bus mastering on (until which it waits) the host's writes its result at RES_ADDR, completes its entry, is counted by its code and zeroises the core for 2 us; a KEYGEN fills its slot; a failed redundant check ends it and reports its island. (R522, R523, R524, R526, R528, R529, R530, R532, R545, R546, R553) -/
def Obligations.OperationsStartAndReleaseAtFixedTimes : Prop :=
  ∀ (s : State) (core : Nat),
    (∀ p ∈ pkeStarts core, s.coreFree core = false → exec p.2 s = .next s) ∧
    (∀ o, s.coreFree core = true → s.pkeNext = some o → ∀ p ∈ pkeStarts core,
      let c := pkeCmd o.bytes
      (c.op ≠ p.1 → exec p.2 s = .next s) ∧
      let image := o.bod && c.op == 0x13
      (c.op = p.1 → image = true → exec p.2 s = .next (s.withStarted o core (s.ecTimes 1).verify 0 [])) ∧
      (c.op = p.1 → image = false → s.headerCode c ≠ 0 → exec p.2 s = .next (s.withStarted o core 100 (s.headerCode c) [])) ∧
      (c.op = p.1 → image = false → s.headerCode c = 0 → s.inputCode c ≠ 0 →
        exec p.2 s = .next (s.withStarted o core (s.pkeTimes c).1 (s.inputCode c) [])) ∧
      (c.op = p.1 → image = false → s.headerCode c = 0 → s.inputCode c = 0 → ∃ t code data, exec p.2 s = .next t ∧
        t.pke = (s.withStarted o core (s.pkeTimes c).2 code data).pke ∧ (code = 0 ∨ (code = 0x14 ∧ p.1 ∈ [0x10, 0x11, 0x12])) ∧
        t = { s with pke := t.pke, fe := t.fe, ctr := t.ctr, fresh := t.fresh } ∧ (p.1 ≠ 0x21 → t.fe = s.fe ∧ t.ctr = s.ctr) ∧
        (p.1 = 0x01 → data = beBytes (c.len 2) (ofBe (c.arg 0) ^ ofBe (c.arg 1) % ofBe (c.arg 2))) ∧
        (p.1 ∈ [0x13, 0x15] → data = [0, 0, 0, 0] ∨ data = [1, 0, 0, 0]) ∧
        (p.1 = 0x21 → Assoc.rising s.fe.slots → t.slotAt c.slot = none ∧ ∀ k, k ≠ c.slot → t.slotAt k = s.slotAt k) ∧
        (p.1 = 0x22 → ∀ k, s.slotAt c.slot = some k → data = k.pub))) ∧
    (let u := s.tally
     ∀ o ok, u.pke.ops.find? (fun o => o.core == some core) = some o →
      let c := pkeCmd o.bytes
      let done (code : Nat) (data : List Byte) : List Host.Cell :=
        memPut (memPut s.hif.mem o.resAddr (pkeResult code c.tag data)) (s.ringAddr (cqBase 0) + 32 * o.index + 24) [0, 0x80, BitVec.ofNat 8 code]
      (s.now < o.release → exec (.pkeResultRelease core ok) s = .next s) ∧
      (o.release ≤ s.now → o.bod = true → (∀ w ∈ s.mgt.otWait, w.index ≠ o.index) → ∃ t, exec (.pkeResultRelease core ok) s = .next t ∧
        t.pke = ({ u with pke := { u.pke with ops := u.pke.ops.filter (· != o), zeroUntil := putAt s.pke.zeroUntil core (s.now + 2000) } } : State).bodFill.pke ∧
        t = { u with pke := t.pke, ctr := t.ctr } ∧
        (let i := if o.code = 0 then 0 else if o.code = 0x14 then 2 else if o.code = 0x32 then 4 else 1
         t.ctrAt (pkeCtr i) = ctrAdd (s.ctrAt (pkeCtr i)) 1)) ∧
      (o.bod = false → s.hif.bme = false → exec (.pkeResultRelease core ok) s = .next s) ∧
      (o.release ≤ s.now → o.bod = false → s.hif.bme = true →
        (ok = true → (c.op ≠ 0x20 ∨ o.code ≠ 0) → ∃ t, exec (.pkeResultRelease core ok) s = .next t ∧
          t.hif.mem = done o.code o.data ∧ t.pke = { u.pke with ops := u.pke.ops.filter (· != o), zeroUntil := putAt s.pke.zeroUntil core (s.now + 2000) } ∧
          t = { u with pke := t.pke, hif := t.hif, ctr := t.ctr } ∧
          (let i := if o.code = 0 then 0 else if o.code = 0x14 then 2 else if o.code = 0x32 then 4 else 1
           t.ctrAt (pkeCtr i) = ctrAdd (s.ctrAt (pkeCtr i)) 1)) ∧
        (ok = true → c.op = 0x20 → o.code = 0 → ∃ t, exec (.pkeResultRelease core ok) s = .next t ∧
          t.hif.mem = done 0 (s.publicOf c.genType c.curve o.data) ∧
          (c.slot < 128 → t.slotAt c.slot = some ⟨c.genType, c.curve, c.genPolicy, o.data, s.publicOf c.genType c.curve o.data, 0⟩) ∧
          t.pke.ops = u.pke.ops.filter (· != o) ∧ t = { u with pke := t.pke, hif := t.hif, ctr := t.ctr, fe := t.fe }) ∧
        (ok = false → c.op ∈ [0x02, 0x10, 0x11, 0x12, 0x14, 0x20, 0x22] → (o.code = 0 ∨ o.code = 0x14) →
          ∃ t, exec (.pkeResultRelease core ok) s = .next t ∧ o ∉ t.pke.ops ∧ t.fe.slots = s.fe.slots ∧ t.md.mode = s.md.mode ∧
            t.fmu.reports.getLast?.map (·.tag) = some (0x3000 + 22 + core / 4))))

/-- Outside SAFE and with no reset input held: a failed comparison at a whole millisecond of Warp once Weft is loaded (0x35, its difference kept when it is the first, FMU_GATES counted), a trip of CLK_TIME, CLK_WEFT, CLK_CORE or CLK_MGT after PLL lock (0x36), a rail outside its fault window (0x37), the temperature (0x38), a lockstep mismatch (0x39, Bodkin halted) and 10 ms without a servo update in a running mode entered as long ago (0x39, halted) each answer a next state in SAFE with that cause, the gate closed, FAULT_N asserted, and the servo, the step unit and any drain stopped. (R556, R557, R561, R563, R564, R566, R567, R590, R593) -/
def Obligations.EachSafeCauseLeadsToSafe : Prop :=
  ∀ s : State, s.inReset = false → s.md.mode ≠ .safe →
    (s.tb.weftLoaded = true → s.fmu.gate = false → s.tb.warp % 1000000 = 0 → s.weftPasses (weftDiff s.tb.warp s.weftCmp) = false →
      ∃ t, exec .weftPeriodicCompare s = .next t ∧ SafeEntered 0x35 s t ∧
        t.fmu.gateDiff = some (s.fmu.gateDiff.getD (satSym 32 (weftDiff s.tb.warp s.weftCmp))) ∧
        t.ctrAt (fmuCtr 3) = ctrAdd (s.ctrAt (fmuCtr 3)) 1) ∧
    (s.glb.pllLocked = true → ∀ d ∈ [ClkDom.time, ClkDom.weft, ClkDom.core, ClkDom.mgt],
      ∃ t, exec (.clockMonitorTrip d) s = .next t ∧ SafeEntered 0x36 s t) ∧
    (∀ r mv, railFaulty (railIx r) mv = true → ∃ t, exec (.railFault r mv) s = .next t ∧ SafeEntered 0x37 s t) ∧
    (∃ t, exec .tempFault s = .next t ∧ SafeEntered 0x38 s t) ∧
    (∀ sram, ∃ t, exec (.lockstepMismatch sram) s = .next t ∧ SafeEntered 0x39 s t ∧ t.fmu.halted = true) ∧
    (s.md.mode.running = true → s.fmu.halted = false → s.fmu.lastHeart + 10000000 ≤ s.now → s.md.since + 10000000 ≤ s.now →
      ∃ t, exec .heartbeatTimeout s = .next t ∧ SafeEntered 0x39 s t ∧ t.fmu.halted = true)

/-- A path that drives low and sees the ball high sets the failure and asserts the other path; the loss of path A's heartbeat asserts path B. A report of a clock that is no SAFE cause joins the open window or opens one and is counted. Ten microseconds later a window with one rail or clock report closes with a root-cause record of ACTION 1. A memory scrub that fails, or ends the third error in 24 h, retires its part and counts as lasting, any other as transient. (R561, R565, R568, R569, R570, R580, R585, R587) -/
def Obligations.FaultPathsReportsAndStormsAreRecorded : Prop :=
  ∀ s : State,
    (s.fmu.pathA = true → ∃ t, exec (.faultPathFail true) s = .next t ∧ t.fmu = { s.fmu with pathFail := true, pathB := true } ∧
      t.degraded = true ∧ t = { s with fmu := t.fmu, hif := t.hif }) ∧
    (s.fmu.pathB = true → ∃ t, exec (.faultPathFail false) s = .next t ∧ t.fmu = { s.fmu with pathFail := true, pathA := true } ∧
      t.degraded = true ∧ t = { s with fmu := t.fmu, hif := t.hif }) ∧
    (∃ t, exec .pathAHeartbeatLoss s = .next t ∧ t.fmu = { s.fmu with pathB := true } ∧ t = { s with fmu := t.fmu, hif := t.hif }) ∧
    (∀ i ∈ [3, 4, 5, 6, 7, 8, 10, 11], s.inReset = false →
      ∃ t, exec (.faultReport (BitVec.ofNat 16 (0x1000 + i))) s = .next t ∧ t = { s with fmu := t.fmu, ctr := t.ctr } ∧
        t.ctrAt (fmuCtr 1) = ctrAdd (s.ctrAt (fmuCtr 1)) 1 ∧
        t.fmu = { s.fmu with window := some (s.fmu.window.getD s.now),
                             reports := (if s.fmu.window.isSome then s.fmu.reports else []) ++ [⟨0x1000 + i, s.nowWord, 0⟩] }) ∧
    (∀ at_ r, s.fmu.window = some at_ → at_ + 10000 ≤ s.now → s.fmu.reports = [r] → r.tag < 0x2000 → r.safe = 0 →
      ∃ t, exec .stormWindowClose s = .next t ∧ t.fmu = { s.fmu with window := none, reports := [], root := rootBytes r.tag [r] 1 0 } ∧
        t = { s with fmu := t.fmu, fe := t.fe, ctr := t.ctr } ∧ t.fe.nextSeq = s.fe.nextSeq + 1 ∧
        t.fe.log.getLast? = some ⟨0x0005, s.fmu.halted, s.fe.nextSeq, s.nowWord, padTo 40 (rootBytes r.tag [r] 1 0)⟩) ∧
    (∀ m ok rec_, s.fmu.scrubs.find? (fun e => e.1 == m) = some (m, rec_) →
      ∃ t, exec (.memoryScrubDone m ok) s = .next t ∧ t.fmu.scrubs = s.fmu.scrubs.erase (m, rec_) ∧ t.md = s.md ∧
        t.fe.retired = (if (ok = true ∧ s.errsOf (32 + m) < 3) ∨ 32 + m ∈ s.fe.retired then s.fe.retired else s.fe.retired ++ [32 + m]))

/-- With the rotation on in a serving mode, fewer than two islands under test and no targeted pass waiting, ROTATING_PASS_START before ROT_INT has run since the last turn does nothing, and then takes the first island in service after the last one taken: it goes under test and drains, but a lane or PKE island whose loss would leave less than the demand of the last 100 ms and 10 % of it is passed over and counted. PASS_SCAN_START out of BOOT, of an island other than a port's that drains and whose work has drained, begins its scan; in BOOT, with no reset input held, it needs its turn. Nothing else changes. (R24, R574, R576, R577, R579) -/
def Obligations.PassesRunInTheirOrder : Prop :=
  ∀ (s : State) (k : Nat),
    (s.bit 0xD0000 31 = true → s.md.mode.serving = true → s.underTest.length < 2 → (∀ i ∈ s.fmu.islands, i.targeted = false) →
      (s.rotateDue = false → exec .rotatingPassStart s = .next s) ∧
      (s.rotateDue = true →
        (rotating.drop s.fmu.rotIdx ++ rotating.take s.fmu.rotIdx).find? (fun k => (s.isl k).st == .inService) = some k →
        let u := { s with fmu := { s.fmu with rotIdx := (rotating.idxOf k + 1) % 15, rotAt := some s.now } }
        let short := 14 ≤ k ∧ (s.capacityLeft k ≤ s.demandOn k ∨ 10 * s.capacityLeft k < 11 * s.demandOn k)
        (short → exec .rotatingPassStart s = .next (u.count 0xD0210)) ∧
        (¬short → exec .rotatingPassStart s =
          .next (u.setIsl k fun i => { i with st := .underTest, draining := true, targeted := false })))) ∧
    (s.md.mode ≠ .boot → (s.isl k).draining = true → (s.isl k).scanAt = none → s.drained k = true → islMethod k ≠ 3 →
      exec (.passScanStart k) s = .next (s.setIsl k fun i => { i with draining := false, scanAt := some s.now })) ∧
    (s.md.mode = .boot → s.bootTurn k = true → s.inReset = false →
      exec (.passScanStart k) s = .next (s.setIsl k fun i => { i with st := .underTest, scanAt := some s.now }))

/-- At least 2 ms into the scan of an island of METHOD I or S outside BOOT, SAFE and MAINTAIN, no pass of an offline test, with no record and no other pass waiting: PASS_END with a right signature and restore puts an island not retired in service, LAST 0x00, counted, and answers the operation that asked with code 0x00; a wrong signature retires it in FeRAM, LAST 0x30 where it is not essential, and an essential one leads to SAFE with cause 0x3A. TEST and CLEAR_RETIRED, their writes accepted in a running mode or MAINTAIN, answer 0x10 above island 23, 0x20 for a TEST of METHOD B and 0x25 when busy; with no pass waiting and the island free, CLEAR_RETIRED of METHOD B answers 0x00 and, with fewer than two under test, both begin the pass of another; CLEAR_RETIRED removes the retirement and the error history. (R574, R580, R581, R582, R589, R590) -/
def Obligations.PassesDecideServiceAndRetirement : Prop :=
  ∀ (s : State) (k : Nat),
    (∀ at_, (s.isl k).scanAt = some at_ → at_ + 2000000 ≤ s.now → s.md.mode ≠ .boot → s.md.mode ≠ .safe → s.md.mode ≠ .maintain →
      (∀ i ∈ s.fmu.islands, i.targeted = false) → (s.isl k).rootRec = [] → (s.isl k).offline = false →
      (islMethod k = 1 ∨ islMethod k = 2) →
      (k ∉ s.fe.retired → ∃ t, exec (.passEnd k true true) s = .next t ∧ (t.isl k).st = .inService ∧ (t.isl k).last = 0 ∧
        (t.isl k).scanAt = none ∧ (∀ j, j ≠ k → t.isl j = s.isl j) ∧ t = { s with fmu := t.fmu, ctr := t.ctr } ∧
        t.ctrAt 0xD0200 = ctrAdd (s.ctrAt 0xD0200) 1 ∧ (∀ tok, (s.isl k).ctl = some tok → t.fmu.ctlToken = tok ∧ t.fmu.ctlCode = 0)) ∧
      (∀ restoreOk, s.vital k = false → ∃ t, exec (.passEnd k false restoreOk) s = .next t ∧ (t.isl k).st = .retired ∧
        (t.isl k).last = 0x30 ∧ k ∈ t.fe.retired ∧ t.md = s.md ∧ t.act = s.act) ∧
      (∀ restoreOk, s.vital k = true → ∃ t, exec (.passEnd k false restoreOk) s = .next t ∧ k ∈ t.fe.retired ∧ SafeEntered 0x3A s t)) ∧
    (∀ tok : BitVec 16, s.noWrites = false → (s.md.mode.running = true ∨ s.md.mode = .maintain) →
      (24 ≤ k → exec (.test tok k) s = .next (s.bstCtl tok.toNat 0x10) ∧ exec (.clearRetired tok k) s = .next (s.bstCtl tok.toNat 0x10)) ∧
      (k < 24 → islMethod k = 0 → exec (.test tok k) s = .next (s.bstCtl tok.toNat 0x20)) ∧
      (k < 24 → ((s.isl k).targeted = true ∨ (s.isl k).busy = true) →
        (islMethod k ≠ 0 → exec (.test tok k) s = .next (s.bstCtl tok.toNat 0x25)) ∧
        exec (.clearRetired tok k) s = .next (s.bstCtl tok.toNat 0x25)) ∧
      (k < s.fmu.islands.length → k < 24 → (∀ i ∈ s.fmu.islands, i.targeted = false) → (s.isl k).busy = false →
        let kept := { s with fe := { s.fe with retired := s.fe.retired.filter (· ≠ k), errs := s.fe.errs.filter (fun e => e.1 ≠ k) } }
        (islMethod k = 0 → exec (.clearRetired tok k) s = .next (kept.bstCtl tok.toNat 0)) ∧
        (islMethod k ≠ 0 → s.underTest.length < 2 →
          (∃ t, exec (.test tok k) s = .next t ∧ t.fe = s.fe ∧ t.md = s.md ∧ t.act = s.act ∧
            t.isl k = { s.isl k with st := .underTest, draining := true, ctl := some tok.toNat }) ∧
          (∃ t, exec (.clearRetired tok k) s = .next t ∧ t.fe = kept.fe ∧ t.md = s.md ∧ t.act = s.act ∧
            t.isl k = { s.isl k with st := .underTest, draining := true, ctl := some tok.toNat }))))

/-- A datagram of a message is dropped and counted for its length, its rate or an empty key slot; otherwise its signature joins Bodkin's operations, and at the end of that check it is dropped, or answered 0x21 for a REPLAY not above the last, or served with its REPLAY kept. A mailbox command outside recovery is served on the body in its window: STATUS answers its words, REG_READ the registers in order, REG_WRITE writes, LOG_READ the records, RESTART drains or leaves SAFE or is refused 0x24, OFFLINE_TEST enters MAINTAIN, an undefined code 0x11. In recovery REG_READ, REG_WRITE, FW_SWAP, OFFLINE_TEST and an undefined code get 0x11. A drop record is written when drops wait and the last is a second old. (R608, R609, R610, R611, R613, R614, R615, R616) -/
def Obligations.MessagesAreCheckedThenServedByTheirCode : Prop :=
  ∀ s : State,
    (∀ p ∈ messageActs, ∀ bytes src port hop, ofLe (bytes.take 2) % 4096 = p.1 → s.fmu.halted = false → s.otarnHears src = true →
      s.mgt.recovery = false →
      let typ := ofLe (bytes.take 2)
      let len := ofLe (slice bytes 4 2)
      let a := s.otarnArrive
      let run := exec (p.2.1 (.datagram bytes src port hop)) s
      ((bytes.length ≠ 76 + len ∨ 2 ^ 15 ≤ typ ∨ s.fld 0x100010 9 0 < a.mgt.otCount ∨ s.mgt.otarnKeys[typ / 4096 % 8]? = none) →
        run = .next (a.otarnDrop src)) ∧
      (∀ key, bytes.length = 76 + len → typ < 2 ^ 15 → a.mgt.otCount ≤ s.fld 0x100010 9 0 → s.mgt.otarnKeys[typ / 4096 % 8]? = some key →
        let v := a.bodkinPut (otarnCheck key (bytes.take (12 + len)) (bytes.drop (12 + len)))
        run = .next { v with mgt := { v.mgt with otWait := v.mgt.otWait ++ [{ index := s.bodkinNext, bytes := bytes, src := src, port := port }] } })) ∧
    (∀ core ok o w, s.pke.ops.find? (fun o => o.core == some core) = some o → o.bod = true →
      s.mgt.otWait.find? (fun w => w.index == o.index) = some w →
      let r := s.pkeRelease core ok
      r.pke.ops.any (fun x => x.core == some core) = false → r.fmu.halted = false →
      let q := r.otarnLose o.index
      let run := exec (.pkeResultRelease core ok) s
      let key := (pkeCmd o.bytes).arg 0
      let typ := ofLe (w.bytes.take 2)
      let rp := ofLe (slice w.bytes 6 6)
      let via := ReplyTo.otarn w.src w.port typ (ofLe (slice w.bytes 2 2)) rp
      ((o.code ≠ 0 ∨ o.data.headD 0 ≠ 1) → run = .next (q.otarnDrop w.src)) ∧
      (o.code = 0 → o.data.headD 0 = 1 →
        (rp ≤ r.lastReplay key → run = .next ((q.count 0x100210).respond via 0x21 (leBytes 6 (r.lastReplay key)))) ∧
        (∀ p ∈ messageActs, typ % 4096 = p.1 → r.lastReplay key < rp →
          run = .next (p.2.2 ((q.putReplay key rp).count 0x100200) via (slice w.bytes 12 (ofLe (slice w.bytes 4 2))))))) ∧
    (s.fe.replay.length ≤ 64 → ∀ key rp, (s.putReplay key rp).lastReplay key = rp) ∧
    (∀ tok : BitVec 16, s.mboxFree →
      let s1 := s.mboxTake tok.toNat
      let b := s.mboxBody
      (s.mgt.recovery = true → ∀ c ∈ [Instr.regRead, .regWrite, .fwSwap, .offlineTest, .otarnUndefinedCode],
        exec (c (.mailbox tok)) s = .next (s1.respond .mailbox 0x11 [])) ∧
      (b = [] → ∃ t rp, exec (.status (.mailbox tok)) s = .next t ∧ t = { s with mgt := t.mgt, fresh := t.fresh } ∧ t.answered 0
        (([0x0448ED01#32, s1.tbMode, s1.tbStatus, s1.degradedWord, s1.cfgStatus, s1.mgtStat, s1.mgt.fwVer, s1.updStat].flatMap
          fun w => leBytes 4 w.toNat) ++ leBytes 6 rp)) ∧
      (s.mgt.recovery = false →
        (b.length = 6 → 1 ≤ ofLe (slice b 4 2) → ofLe (slice b 4 2) ≤ 256 →
          (barOk (ofLe (b.take 4)) (ofLe (slice b 4 2)) = true → exec (.regRead (.mailbox tok)) s =
            .next ((s1.readMany (ofLe (b.take 4)) (ofLe (slice b 4 2))).2.respond .mailbox 0 (s1.readMany (ofLe (b.take 4)) (ofLe (slice b 4 2))).1)) ∧
          (barOk (ofLe (b.take 4)) (ofLe (slice b 4 2)) = false → exec (.regRead (.mailbox tok)) s = .next (s1.respond .mailbox 0x12 []))) ∧
        (b.length = 8 → ofLe (b.take 4) ≠ 0x101000 → barOk (ofLe (b.take 4)) 1 = true → exec (.regWrite (.mailbox tok)) s =
          .next ((s1.writeReg (ofLe (b.take 4)) 15 (BitVec.ofNat 32 (ofLe (slice b 4 4)))).respond .mailbox 0 [1, 0])) ∧
        (b = [] → s.md.mode.running = false → ∃ t, exec (.fwSwap (.mailbox tok)) s = .next t ∧
          t.answered (if s.mgt.upd.busy then 0x25 else 0x24) [] ∧
          t = { s with mgt := t.mgt, md := { s.md with reqRefused := s.md.reqRefused || !s.mgt.upd.busy } })) ∧
      (b.length = 5 → 1 ≤ (b.getD 4 0).toNat → (b.getD 4 0).toNat ≤ 20 → exec (.logRead (.mailbox tok)) s = .next (s1.respond .mailbox 0
        (((s.fe.log.filter fun r => decide (ofLe (b.take 4) ≤ r.seq)).take (b.getD 4 0).toNat).flatMap fun r => r.bytes (recLen r.typ)))) ∧
      (b = [2] → s.md.mode = .safe → exec (.restart (.mailbox tok)) s = .next ((s1.respond .mailbox 0 []).bootReset 5)) ∧
      (s.mgt.recovery = false → b = [1] →
        (s.md.mode.running = true → s.md.drain = false → ∃ t, exec (.restart (.mailbox tok)) s = .next t ∧ t.answered 0 [] ∧
          t = { s with mgt := t.mgt, md := { s.md with drain := true, drainArmed := false, drainUntil := s.now + s.fld 0x78108 29 24 * nsPerSec } }) ∧
        (s.md.mode.running = false ∨ s.md.drain = true → ∃ t, exec (.restart (.mailbox tok)) s = .next t ∧ t.answered 0x24 [] ∧
          t = { s with mgt := t.mgt, md := { s.md with reqRefused := true } })) ∧
      (s.mgt.recovery = false → b.length = 2 → 1 ≤ ofLe (b.take 2) → ofLe (b.take 2) ≤ 60 →
        (s.md.mode.running = true → ∃ t, exec (.offlineTest (.mailbox tok)) s = .next t ∧ t.answered 0 [] ∧ t.md.mode = .maintain ∧
          t.md.prev = s.md.mode ∧ t.md.maint.map (fun (m : Maint) => (m.swap, m.began, m.bound)) = some (false, s.now, ofLe (b.take 2) * nsPerSec)) ∧
        (s.md.mode.running = false → ∃ t, exec (.offlineTest (.mailbox tok)) s = .next t ∧ t.answered 0x24 [] ∧
          t = { s with mgt := t.mgt, md := { s.md with reqRefused := true } })) ∧
      (s.mgt.recovery = false → exec (.otarnUndefinedCode (.mailbox tok)) s = .next (s1.respond .mailbox 0x11 []))) ∧
    (s.mgt.otDrops ≠ 0 → s.fmu.halted = false →
      ((∀ x, s.fe.dropRecAt = some x → x + nsPerSec ≤ s.now) → ∃ t, exec .otarnDropRecord s = .next t ∧ t.mgt = { s.mgt with otDrops := 0 } ∧
        t.fe.dropRecAt = some s.now ∧ t.fe.log.getLast? = some ⟨0x000B, false, s.fe.nextSeq, s.nowWord, padTo 40 (leBytes 4 s.mgt.otDrops ++ s.mgt.otSrc)⟩ ∧
        t = { s with mgt := t.mgt, fe := t.fe, ctr := t.ctr }) ∧
      (∀ x, s.fe.dropRecAt = some x → s.now < x + nsPerSec → exec .otarnDropRecord s = .next s))

/-- SLOT_ERASE starts with the header sector and ends with the slot erased or code 0x30; SLOT_WRITE puts the header's bytes in its buffer and the rest into the flash; SLOT_VERIFY answers when its read and checks end, and only a slot that passes gets its header and VERIFIED. FW_SWAP gives 0x23 without a verified slot, and with one enters MAINTAIN where the new firmware reads this one's handover, else 0x26; FW_READY within 2 s makes it the running firmware; 2 s without it spoil the header and keep the old. A scan takes the readings and their extremes; the page is read from its pointer; RAIL reads reload the minimum, MGT_STAT clears DROOP_HEAVY. (R594, R595, R596, R601, R602, R603, R604, R605, R606, R617, R618, R621) -/
def Obligations.SlotsFirmwareSensorsAndTheStatusPage : Prop :=
  ∀ s : State,
    (∀ tok : BitVec 16, s.mboxFree → s.mgt.upd.busy = false → s.mgt.upd.via = none →
      let b := s.mboxBody
      let k := (b.getD 0 0).toNat
      (∀ c ∈ [Instr.slotErase, .slotVerify], b.length = 1 → k = 1 ∨ k = 2 → s.cfg.slot = k →
        exec (c (.mailbox tok)) s = .next ((s.mboxTake tok.toNat).respond .mailbox 0x22 [])) ∧
      (k = 1 ∨ k = 2 → s.cfg.slot ≠ k →
        (b.length = 1 → ∃ t, exec (.slotErase (.mailbox tok)) s = .next t ∧ t.answered 0 [] ∧
          t.cfg.flash = s.cfg.flash.filter (fun c => decide (c.1 < s.slotBase k ∨ s.slotBase k + 4096 ≤ c.1)) ∧
          t.mgt.upd = { s.mgt.upd with st := 1, slot := k, code := 0, progress := 0, busy := true, verified := 0, hdr := List.replicate 32 0xFF } ∧
          t = { s with mgt := t.mgt, cfg := { s.cfg with flash := t.cfg.flash } }) ∧
        (b.length = 1 → exec (.slotVerify (.mailbox tok)) s = .next (((s.mboxTake tok.toNat).setUpd fun u =>
          { u with st := 3, slot := k, code := 0, progress := 0, busy := true, verified := 0, via := some .mailbox }).bodkinQueue
            ((s.mboxTake tok.toNat).verifyChecks k))) ∧
        (9 ≤ b.length → b.length ≤ 1032 →
          let off := ofLe (slice b 4 4)
          let c := s.writeCode k off (b.drop 8)
          ∃ t, exec (.slotWrite (.mailbox tok)) s = .next t ∧ t.answered (BitVec.ofNat 8 c) [] ∧ t.mgt.upd.code = c ∧ t.mgt.upd.verified = 0 ∧
            (c = 0 → t.mgt.upd.hdr = splice s.mgt.upd.hdr off ((b.drop 8).take (32 - off)) ∧
              t.cfg.flash = flashPut s.cfg.flash (s.slotBase k + max 32 off) ((b.drop 8).drop (32 - off)) ∧
              t = { s with mgt := t.mgt, cfg := { s.cfg with flash := t.cfg.flash } }) ∧ (c ≠ 0 → t.cfg = s.cfg ∧ t.mgt.upd.hdr = s.mgt.upd.hdr))) ∧
      (b = [] → s.mgt.recovery = false → s.md.mode.running = true → s.mgt.upd.verified = 0 → ∃ t, exec (.fwSwap (.mailbox tok)) s = .next t ∧
        t.answered 0x23 [] ∧ t = { s with mgt := t.mgt }) ∧
      (b = [] → s.mgt.recovery = false → s.md.mode.running = true → s.mgt.upd.verified ≠ 0 → ∃ t, exec (.fwSwap (.mailbox tok)) s = .next t ∧
        (if Config.fwHandover s.mgt.fwVer (s.slotFw s.mgt.upd.verified s.mgt.upd.hdr).2 then t.answered 0 [] ∧ t.md.mode = .maintain ∧
          t.md.prev = s.md.mode ∧ t.md.maint = some ⟨true, s.now, 2 * nsPerSec, false, false, []⟩ ∧
          t.mgt.upd = { s.mgt.upd with st := 5, slot := s.mgt.upd.verified, code := 0, progress := 0, busy := true }
         else t.answered 0x26 [] ∧ t = { s with mgt := t.mgt }))) ∧
    (∀ ok, s.mgt.upd.busy = true → s.mgt.upd.st = 1 → s.fmu.halted = false → ∃ t, exec (.slotEraseDone ok) s = .next t ∧
      t.mgt.upd = { s.mgt.upd with st := (if ok then 0 else 6), code := (if ok then 0 else 0x30), progress := (if ok then 100 else s.mgt.upd.progress), busy := false } ∧
      t.cfg.flash = (if ok then s.cfg.flash.filter (fun c => decide (c.1 < s.slotBase s.mgt.upd.slot ∨ s.slotBase s.mgt.upd.slot + s.slotSize ≤ c.1)) else s.cfg.flash) ∧
      t.fe.nextSeq = s.fe.nextSeq + 1 ∧ t = { s with mgt := t.mgt, cfg := { s.cfg with flash := t.cfg.flash }, fe := t.fe, ctr := t.ctr }) ∧
    (∀ f, s.mgt.upd.busy = true → s.mgt.upd.st = 3 → s.fmu.halted = false → s.mgt.upd.via = some .mailbox → s.bodkinHeld = false →
      let c := if f && s.cfg.flashOk then s.verifyCode s.mgt.upd.slot s.mgt.upd.hdr else 0x30
      ∃ t, exec (.slotVerifyDone f) s = .next t ∧ t.mgt.upd.code = c ∧ t.mgt.upd.busy = false ∧ t.mgt.upd.via = none ∧
        t.mgt.upd.st = (if c = 0 then 4 else 6) ∧ t.mgt.upd.verified = (if c = 0 then s.mgt.upd.slot else 0) ∧
        t.cfg.flash = (if c = 0 then flashPut s.cfg.flash (s.slotBase s.mgt.upd.slot) s.mgt.upd.hdr else s.cfg.flash) ∧
        t.answered (if c = 0x30 then 0x30 else 0) ([BitVec.ofNat 8 c, 0, 0, 0] ++ leBytes 4 (hdrSeq s.mgt.upd.hdr) ++ leBytes 4 t.mgt.upd.fw.toNat)) ∧
    (∀ m, s.md.mode = .maintain → s.md.maint = some m → m.swap = true → s.mgt.upd.busy = true → s.mgt.upd.st = 5 → s.fmu.halted = false →
      ((m.boundHit = true ∨ m.began + 2 * nsPerSec ≤ s.now) → exec .fwReady s = .next s) ∧
      (m.ended = false → m.boundHit = false → s.now < m.began + 2 * nsPerSec → s.bodkinHeld = false → ∃ t, exec .fwReady s = .next t ∧ t.md = { s.md with maint := some { m with ended := true } } ∧
        t.mgt = { s.mgt with fwSlot := s.mgt.upd.slot, fwVer := s.mgt.upd.fw, upd := { s.mgt.upd with st := 4, code := 0, progress := 100, busy := false } } ∧
        t = { s with md := t.md, mgt := t.mgt, fe := t.fe, ctr := t.ctr }) ∧
      (m.began + 2 * nsPerSec ≤ s.now → ∃ t, exec .fwSwapRevert s = .next t ∧ t.mgt.fwVer = s.mgt.fwVer ∧ t.mgt.fwSlot = s.mgt.fwSlot ∧
        t.mgt.upd.st = 6 ∧ t.mgt.upd.busy = false ∧ t.mgt.upd.verified = 0 ∧ t.cfg.flash = flashPut s.cfg.flash (s.slotBase s.mgt.upd.slot) (zeros 4) ∧
        (t.mgt.upd.code = 0x30 ∨ t.mgt.upd.code = 0x31) ∧ t.md = { s.md with maint := some { m with boundHit := true } } ∧
        t = { s with fresh := s.fresh + 1, cfg := { s.cfg with flash := t.cfg.flash }, md := t.md, mgt := t.mgt, fe := t.fe, ctr := t.ctr }) ∧
      (s.now < m.began + 2 * nsPerSec → exec .fwSwapRevert s = .next s)) ∧
    (∀ ts rs, s.fmu.halted = false → s.inReset = false → ts.length = 5 → rs.length = 5 →
      ∃ t, exec (.sensorScan ts rs) s = .next t ∧ t.mgt.tempNow = ts ∧ t.mgt.railNow = rs ∧ t.mgt.tempMax = (if s.mgt.refreshed.isNone then ts else List.zipWith max s.mgt.tempMax ts) ∧
        t.mgt.railMin = List.zipWith (fun a b => if a = 0 then b else min a b) s.mgt.railMin rs ∧ t.mgt.refreshed = some s.now ∧
        (t.mgt.tempHot = true ↔ ∃ x ∈ ts, ((s.fld 0x100030 7 0 * 16 : Nat) : Int) < x) ∧
        t = { s with mgt := t.mgt, srv := t.srv, fe := t.fe, ctr := t.ctr }) ∧
    (s.i2cUp = true → (∀ b, exec (.i2cPointerWrite b) s = .next { s with mgt := { s.mgt with i2cPtr := b.toNat % 64 } }) ∧
      (∀ n, exec (.i2cRead n) s =
        .next { s with mgt := { s.mgt with i2cOut := (List.range n).map fun i => s.i2cSnapshot.getD ((s.mgt.i2cPtr + i) % 64) 0 } }) ∧
      (s.mgt.i2cPage.length = 64 → slice s.i2cSnapshot 0x3C 4 = leBytes 4 (crc32 (s.i2cSnapshot.take 0x3C)))) ∧
    (s.md.mode ≠ .boot → s.lat.length = 2 → ∀ p,
      (∀ k, k < 5 → ∃ t, exec (.railMinRead p k) s = .next t ∧ t.mgt = { s.mgt with railMin := putAt s.mgt.railMin k (s.mgt.railNow.getD k 0) } ∧
        (t.latOf p).lastRead = pk [(s.mgt.railMin.getD k 0 % 65536, 16), (s.mgt.railNow.getD k 0 % 65536, 0)] ∧ t = { s with mgt := t.mgt, lat := t.lat }) ∧
      (∃ t, exec (.mgtStatRead p) s = .next t ∧ t.mgt = { s.mgt with droopHeavy := false } ∧ (t.latOf p).lastRead = s.mgtStat ∧
        t = { s with mgt := t.mgt, lat := t.lat }))

/-- Outside BOOT a read of a counter's lower register latches its 64 bits for the path that reads, and clearing WRAP leaves its other bits and every other counter; the reads of GNS_STAT, the record sets, HIF_PTM_SEQ and PMC_BW_STATn latch their blocks for that path alone, and PMC_BW_PEAKn reads its peaks and leaves 0. A window that ends at a multiple of WIN in Warp gives its octets and utilisation to the results and takes the WIN of a prepared commit; with WIN 0 no further window runs and the results read 0. A user-page read answers the counter word, or 0 with the page off. The JTAG instructions capture, shift in and select as R666 says, and drive the balls only while RESET_N is low. (R102, R299, R318, R518, R625, R629, R630, R633, R634, R635, R666, R667) -/
def Obligations.CountersLatchesAndTheTestPort : Prop :=
  ∀ s : State,
    (s.md.mode ≠ .boot → s.lat.length = 2 → ∀ p q : Path, p ≠ q →
      (∃ t, exec (.recordSetLock p) s = .next t ∧ (t.latOf p).recSet = s.gns.newest ∧ t.latOf q = s.latOf q ∧ t = { s with lat := t.lat }) ∧
      (∃ t, exec (.gnsStatLatch p) s = .next t ∧ t.latOf p = { s.latOf p with gns := s.gnsWords, lastRead := s.gnsStat } ∧ t.latOf q = s.latOf q ∧
        t = { s with lat := t.lat }) ∧
      (∃ t, exec (.ptmResultLatch p) s = .next t ∧
        t.latOf p = { s.latOf p with ptm := s.hif.ptm.words, lastRead := BitVec.ofNat 32 s.hif.ptm.seq } ∧ t.latOf q = s.latOf q ∧ t = { s with lat := t.lat }) ∧
      (∀ off, (isCounter off = true → ∃ t, exec (.counterLatchRead p off) s = .next t ∧
          t.latOf p = { s.latOf p with ctr := s.ctrAt off, lastRead := BitVec.ofNat 32 (s.ctrAt off).toNat } ∧ t.latOf q = s.latOf q ∧
          t = { s with lat := t.lat }) ∧
        (isCounter off = false → exec (.counterLatchRead p off) s = .next s)) ∧
      (∀ n, n < 5 → (s.latOf p).bw.length = 5 →
        (∃ t, exec (.bwStatLatch p n) s = .next t ∧ t.latOf p = { s.latOf p with bw := putAt (s.latOf p).bw n (s.bwAt n).words, lastRead := (s.bwAt n).stat } ∧
          t.latOf q = s.latOf q ∧ t = { s with lat := t.lat }) ∧
        (s.pmc.length = 5 → ∃ t, exec (.bwPeakRead p n) s = .next t ∧ (t.latOf p).lastRead = (s.bwAt n).peak ∧
          t.bwAt n = { s.bwAt n with peakRx := 0, peakTx := 0 } ∧ (∀ m, m ≠ n → t.bwAt m = s.bwAt m) ∧ t = { s with lat := t.lat, pmc := t.pmc }))) ∧
    (s.noWrites = false → Assoc.rising s.ctr → ∀ off, isCounter off = true → ∃ t, exec (.counterWrapClear off) s = .next t ∧
      t.ctrAt off = BitVec.ofNat 64 ((s.ctrAt off).toNat % 2 ^ 63) ∧ (∀ o, o ≠ off → t.ctrAt o = s.ctrAt o) ∧ t = { s with ctr := t.ctr }) ∧
    (∀ n, n < s.pmc.length → (s.bwAt n).on = true → s.tb.warp % (s.bwWin n * 1000000) = 0 →
      let b := s.bwAt n
      let cfg := if (s.cmt .pmc).st = 2 then (s.merged .pmc (s.cmt .pmc).snap).rd (bwOff n) else s.reg (bwOff n)
      let win := bitsOf cfg 13 0
      let cap := b.cap + if (s.port n).link then (s.now - b.capAt) / 1000 * octetsPerUs (s.port n).speed else 0
      let next : BwSt := { b with start := s.now, rx := 0, tx := 0, cap := 0, capAt := s.now, short := decide (win ≠ s.bwWin n),
                                  wseq := (b.wseq + 1) % 2 ^ 64, peakRx := max b.peakRx (bwUtil b.rx cap), peakTx := max b.peakTx (bwUtil b.tx cap) }
      ∃ t, exec (.bwWindowEnd n) s = .next t ∧ t = { s with act := s.act.wr (bwOff n) cfg, pmc := t.pmc } ∧ (∀ m, m ≠ n → t.bwAt m = s.bwAt m) ∧
        (win ≠ 0 → t.bwAt n = { next with on := true, valid := true, rShort := b.short, rRx := b.rx, rTx := b.tx, rRxUtil := bwUtil b.rx cap,
                                          rTxUtil := bwUtil b.tx cap, rLen := (s.now - b.start) / 1000 % 2 ^ 24 }) ∧
        (win = 0 → t.bwAt n = { next with on := false, valid := false, rShort := false, rRx := 0, rTx := 0, rRxUtil := 0, rTxUtil := 0, rLen := 0 })) ∧
    (∀ off, off < 4096 →
      (s.bit 0xF0000 31 = true →
        (off % 8 = 0 → exec (.userPageRead off 8) s = .next { s with userRead := BitVec.ofNat 64 (s.pageWord off) } ∧
          exec (.userPageRead off 4) s = .next { s with userRead := BitVec.ofNat 64 (s.pageWord off % 2 ^ 32) }) ∧
        (off % 8 = 4 → exec (.userPageRead off 4) s = .next { s with userRead := BitVec.ofNat 64 (s.pageWord (off - 4) / 2 ^ 32 % 2 ^ 32) })) ∧
      (s.bit 0xF0000 31 = false → off % 4 = 0 → exec (.userPageRead off 4) s = .next { s with userRead := 0 })) ∧
    (∀ pre balls, exec (.jtagSamplePreload pre balls) s = .next { s with jtag := ⟨1, pre, balls⟩ }) ∧
    (∀ balls, (s.glb.resetLow = true → exec (.jtagExtest balls) s = .next { s with jtag := { s.jtag with ir := 2, capture := balls } }) ∧
      (s.glb.resetLow = false → exec (.jtagExtest balls) s = .next { s with jtag := { s.jtag with ir := 2 } })) ∧
    exec .jtagHighz s = .next { s with jtag := { s.jtag with ir := 3 } } ∧ exec .jtagClamp s = .next { s with jtag := { s.jtag with ir := 4 } } ∧
    (∀ c, (c.toNat = 0 ∨ 4 < c.toNat) → exec (.jtagBypass c) s = .next { s with jtag := { s.jtag with ir := c } }) ∧
    exec .jtagTrst s = .next { s with jtag := { s.jtag with ir := 0xF } } ∧ (s.glb.resetLow = false → s.jtagDrive = 0)

/-- For every command and every state, a step of the state with that command at the front of its queue is the command executed on the state with the rest of the queue. That a step with no command waiting is one cycle of CLK_TIME is the model's choice (log entry 3). While the counters run, such a step adds 1 ns to Warp; seven of eight leave Weft, and the eighth adds its increment at the steering rate, or, where an operation of TB_STEP is due, adds its change as well or takes the loaded time plus what has elapsed since the apply instant, and nothing is due after it; nothing else moves beside the outputs, CLK_GNSS, the QERR latched at a whole second, and the placement that a time just set makes anew. While they do not run, only the model's own instant moves. (R15, R98, R108, R118) -/
def Obligations.StepRunsTheFrontCommand : Prop :=
  ∀ s : State,
    (∀ c rest, step { s with pending := c :: rest } = exec c { s with pending := rest }) ∧
    (∀ c rest, s.pending = c :: rest → step s = exec c { s with pending := rest }) ∧
    (s.pending = [] →
      let u := { s with now := s.now + 1 }
      (s.tb.running = false → step s = .next u) ∧
      (s.tb.running = true → ∃ t, step s = .next t ∧ t.now = s.now + 1 ∧
        (s.tb.weftPhase ≠ 7 → t.tb = { s.tb with warp := s.tb.warp + 1, weftPhase := (s.tb.weftPhase + 1) % 8 }) ∧
        (s.tb.weftPhase = 7 →
          (s.tb.weftDue = none → t.tb = { s.tb with warp := s.tb.warp + 1, weftPhase := 0, weftFix := s.tb.weftFix + u.weftAdvance }) ∧
          (∀ c, s.tb.weftDue = some c →
            (∀ n, c.load = some n → t.tb = { s.tb with warp := s.tb.warp + 1, weftPhase := 0, weftDue := none, weftFix := (n + (s.now + 1 - c.at_)) * 2 ^ 32 }) ∧
            (c.load = none → t.tb = { s.tb with warp := s.tb.warp + 1, weftPhase := 0, weftDue := none,
                                                weftFix := unsigned 96 ((s.tb.weftFix : Int) + u.weftAdvance + c.by_ * (2 ^ 32 : Nat)) }))) ∧
        t = { s with now := t.now, tb := t.tb, out := t.out, gns := t.gns } ∧
        (s.gns.redo = false → t.gns = { s.gns with clkNext := t.gns.clkNext })))

/-- State.reset is in BOOT, with V = 0, both FAULT_N paths asserted, the gate open, Warp and Weft at 0, every output muted, no log record and no command waiting. A read through either path of the registers for which the spec says what they read after reset gives that word, and every configuration register holds its field resets, staged and active. (The registers for which the spec gives no reset value take the model's choice of log entry 5; nothing is said of them here.) (R32, R35, R42, R114, R150, R207, R213, R236, R272, R316, R453, R620) -/
def Obligations.ResetStateReadsAsTheSpecSays : Prop :=
  let s := State.reset
  s.md.mode = .boot ∧ s.vBit = false ∧ s.fmu.pathA = true ∧ s.fmu.pathB = true ∧ s.fmu.gate = false ∧ s.tb.warp = 0 ∧ s.weftNs = 0 ∧
  (∀ c ∈ s.out.clks, c.muted = true) ∧ (∀ p ∈ s.out.pps, p.muted = true) ∧ s.out.todMuted = true ∧ s.out.gppsMuted = true ∧
  s.fe.log = [] ∧ s.pending = [] ∧ (∀ e ∈ resetWords, ∀ p, s.readReg p e.1 = e.2) ∧ (∀ off, s.reg off = regReset off ∧ s.stg.rd off = regReset off) ∧
  s.wf

/-- For every command and every state the execution answers a next state, with the same commands waiting and at the same instant: what a command starts (a reset, a SAFE reaction, a restart, a commit) is carried out whole within it, and only a step with nothing waiting lets time pass. No command of the block is refused and none faults. (R15, R16, R35, R98) -/
def Obligations.EveryCommandCompletesAndLeavesQueueAndClock : Prop :=
  ∀ (c : Instr) (s : State), ∃ t, exec c s = .next t ∧ t.pending = s.pending ∧ t.now = s.now

/-- If the gate is closed exactly when the mode is SAFE, and MAINTAIN has not been entered from SAFE, then after any step both still hold: every command that enters SAFE closes the gate with it, and every command that leaves SAFE is a start in BOOT, which opens it. The state after reset meets this. (R35, R556, R557, R564, R566) -/
def Obligations.TheGateIsClosedExactlyInSafe : Prop :=
  State.reset.gated ∧ ∀ s t : State, s.gated → Steps s t → t.gated

/-- If the maps of registers, staged registers, counters, commits, flash, key slots, exclusions, buckets, curves and host memory rise strictly with no entry at its default, and the ports, inputs, references, outputs, channels, rings, vectors, islands, lanes, queues and latches are as many as the part has, then the same holds after any step. The state after reset meets this. (R9, R16, R21, R82, R102, R397, R511, R571) -/
def Obligations.EveryStepKeepsTheStateWellFormed : Prop :=
  State.reset.wf ∧ ∀ s t : State, s.wf → Steps s t → t.wf
end

