-- ==== Sys2Proof/Laws/Assoc.lean ====
section
/-! SUPPORT. What the operations over sparse maps do: read after write, and that every write keeps the canonical form. -/

set_option Elab.async false

namespace Sys2Proof.Machine

open Sys2Proof

section
variable {α : Type}

/-- Every key of a map lies above a bound. -/
def Assoc.above (k : Nat) (m : Assoc α) : Prop := ∀ e ∈ m, k < e.1

theorem Assoc.rising_cons (a : Nat × α) (m : Assoc α) : Assoc.rising (a :: m) ↔ Assoc.above a.1 m ∧ Assoc.rising m := by
  induction m generalizing a with
  | nil => simp [Assoc.rising, Assoc.above]
  | cons b m ih =>
    rw [Assoc.rising, ih b]
    constructor
    · rintro ⟨h, hb, hm⟩
      refine ⟨?_, hb, hm⟩
      intro e he
      rcases List.mem_cons.1 he with rfl | he
      · exact h
      · exact h.trans (hb e he)
    · rintro ⟨h, hb, hm⟩
      exact ⟨h b (List.mem_cons_self ..), hb, hm⟩

@[simp] theorem Assoc.get_nil (k : Nat) : Assoc.get k ([] : Assoc α) = none := rfl

theorem Assoc.get_put (k k' : Nat) (v : α) (m : Assoc α) : Assoc.get k' (Assoc.put k v m) = if k' = k then some v else Assoc.get k' m := by
  induction m with
  | nil => simp only [Assoc.put, Assoc.get]; split_ifs <;> rfl
  | cons a m ih =>
    obtain ⟨j, w⟩ := a
    rcases lt_trichotomy k j with h | h | h
    · simp only [Assoc.put, if_neg (Nat.ne_of_lt h), if_pos h]
      rw [Assoc.get]
      split_ifs with h1 h2
      · rfl
      · simp only [Assoc.get]
        split_ifs <;> first | rfl | omega
      · rfl
    · subst h
      simp only [Assoc.put, if_true, Assoc.get]
      split_ifs <;> rfl
    · simp only [Assoc.put, if_neg (Nat.ne_of_gt h), if_neg (Nat.lt_asymm h), Assoc.get, ih]
      split_ifs <;> first | rfl | omega

theorem Assoc.above_put {b k : Nat} {v : α} {m : Assoc α} (h : Assoc.above b m) (hk : b < k) : Assoc.above b (Assoc.put k v m) := by
  induction m with
  | nil => intro e he; simp only [Assoc.put, List.mem_singleton] at he; subst he; exact hk
  | cons a m ih =>
    have ha := h a (List.mem_cons_self ..)
    have hm : Assoc.above b m := fun e he => h e (List.mem_cons_of_mem _ he)
    intro e he
    simp only [Assoc.put] at he
    split_ifs at he
    · rcases List.mem_cons.1 he with rfl | he
      · exact hk
      · exact hm e he
    · rcases List.mem_cons.1 he with rfl | he
      · exact hk
      · exact h e he
    · rcases List.mem_cons.1 he with rfl | he
      · exact ha
      · exact ih hm e he

theorem Assoc.rising_put (k : Nat) (v : α) (m : Assoc α) (h : Assoc.rising m) : Assoc.rising (Assoc.put k v m) := by
  induction m with
  | nil => trivial
  | cons a m ih =>
    rw [Assoc.rising_cons] at h
    simp only [Assoc.put]
    split_ifs with h1 h2
    · rw [Assoc.rising_cons]; subst h1; exact h
    · rw [Assoc.rising_cons, Assoc.rising_cons]
      refine ⟨?_, h⟩
      intro e he
      rcases List.mem_cons.1 he with rfl | he
      · exact h2
      · exact h2.trans (h.1 e he)
    · rw [Assoc.rising_cons]
      exact ⟨Assoc.above_put h.1 (by omega), ih h.2⟩

theorem Assoc.del_sublist (k : Nat) (m : Assoc α) : (Assoc.del k m).Sublist m := by
  induction m with
  | nil => exact List.Sublist.refl _
  | cons a m ih =>
    simp only [Assoc.del]
    split_ifs
    · exact List.sublist_cons_self ..
    · exact List.Sublist.refl _
    · exact ih.cons_cons a

theorem Assoc.rising_sublist {m m' : Assoc α} (h : m'.Sublist m) (hm : Assoc.rising m) : Assoc.rising m' := by
  induction h with
  | slnil => exact hm
  | cons a _ ih => rw [Assoc.rising_cons] at hm; exact ih hm.2
  | cons_cons a hs ih =>
    rw [Assoc.rising_cons] at hm ⊢
    exact ⟨fun e he => hm.1 e (hs.subset he), ih hm.2⟩

theorem Assoc.rising_del (k : Nat) (m : Assoc α) (h : Assoc.rising m) : Assoc.rising (Assoc.del k m) :=
  Assoc.rising_sublist (Assoc.del_sublist k m) h

theorem Assoc.rising_filter (p : Nat × α → Bool) (m : Assoc α) (h : Assoc.rising m) : Assoc.rising (m.filter p) :=
  Assoc.rising_sublist List.filter_sublist h

/-- A change of entries that leaves the keys. -/
theorem Assoc.rising_map {β : Type} (f : Nat × α → Nat × β) (m : Assoc α) (hk : ∀ e, (f e).1 = e.1) (h : Assoc.rising m) :
    Assoc.rising (m.map f) := by
  induction m with
  | nil => trivial
  | cons a m ih =>
    rw [Assoc.rising_cons] at h
    rw [List.map_cons, Assoc.rising_cons]
    refine ⟨fun e he => ?_, ih h.2⟩
    obtain ⟨x, hx, rfl⟩ := List.mem_map.1 he
    rw [hk, hk]
    exact h.1 x hx

theorem Assoc.get_above {k : Nat} {m : Assoc α} (h : Assoc.above k m) : Assoc.get k m = none := by
  cases m with
  | nil => rfl
  | cons a m =>
    have := h a (List.mem_cons_self ..)
    simp only [Assoc.get]
    split_ifs <;> first | omega | rfl

theorem Assoc.get_del (k k' : Nat) (m : Assoc α) (h : Assoc.rising m) :
    Assoc.get k' (Assoc.del k m) = if k' = k then none else Assoc.get k' m := by
  induction m with
  | nil => simp [Assoc.del]
  | cons a m ih =>
    rw [Assoc.rising_cons] at h
    simp only [Assoc.del]
    split_ifs with h1 h2 h3 h4 h5
    · subst h1; subst h2; exact Assoc.get_above h.1
    · subst h1
      simp only [Assoc.get, h2, if_false]
      split_ifs with h6
      · exact Assoc.get_above fun e he => (h6.trans (h.1 e he))
      · rfl
    · subst h4; simp only [Assoc.get, h1, h3, if_false, if_true]
    · rfl
    · subst h5; simp only [Assoc.get, h1, h3, if_false, ih h.2, if_true]
    · simp only [Assoc.get, ih h.2, h5, if_false]

theorem Assoc.put_mem {k : Nat} {v : α} {m : Assoc α} {e : Nat × α} (h : e ∈ Assoc.put k v m) : e = (k, v) ∨ e ∈ m := by
  induction m with
  | nil => simpa [Assoc.put] using h
  | cons a m ih =>
    simp only [Assoc.put] at h
    split_ifs at h
    · rcases List.mem_cons.1 h with h | h
      · exact .inl h
      · exact .inr (List.mem_cons_of_mem _ h)
    · exact List.mem_cons.1 h
    · rcases List.mem_cons.1 h with h | h
      · exact .inr (h ▸ List.mem_cons_self ..)
      · exact (ih h).imp id (List.mem_cons_of_mem _)

variable [DecidableEq α]

/-- The canonical form said of the map's members. -/
theorem Assoc.wf_iff (d : Nat → α) (m : Assoc α) : Assoc.wf d m = true ↔ Assoc.rising m ∧ ∀ e ∈ m, e.2 ≠ d e.1 := by
  induction m with
  | nil => simp [Assoc.wf, Assoc.rising]
  | cons a m ih =>
    cases m with
    | nil => simp [Assoc.wf, Assoc.rising]
    | cons b m =>
      obtain ⟨k, v⟩ := a
      obtain ⟨k', v'⟩ := b
      simp only [Assoc.wf, Bool.and_eq_true, decide_eq_true_eq, ih, Assoc.rising, List.mem_cons, forall_eq_or_imp]
      tauto

/-- A write through the default keeps the canonical form. -/
theorem Assoc.wf_putD {d : Nat → α} (k : Nat) (v : α) (m : Assoc α) (h : Assoc.wf d m = true) : Assoc.wf d (Assoc.putD (d k) k v m) = true := by
  rw [Assoc.wf_iff] at h ⊢
  unfold Assoc.putD
  split_ifs with hv
  · exact ⟨Assoc.rising_del k m h.1, fun e he => h.2 e ((Assoc.del_sublist k m).subset he)⟩
  · refine ⟨Assoc.rising_put k v m h.1, fun e he => ?_⟩
    rcases Assoc.put_mem he with rfl | he
    · exact hv
    · exact h.2 e he

theorem Assoc.wf_filter {d : Nat → α} (p : Nat × α → Bool) (m : Assoc α) (h : Assoc.wf d m = true) : Assoc.wf d (m.filter p) = true := by
  rw [Assoc.wf_iff] at h ⊢
  exact ⟨Assoc.rising_filter p m h.1, fun e he => h.2 e (List.filter_sublist.subset he)⟩

theorem Assoc.wf_del {d : Nat → α} (k : Nat) (m : Assoc α) (h : Assoc.wf d m = true) : Assoc.wf d (Assoc.del k m) = true := by
  rw [Assoc.wf_iff] at h ⊢
  exact ⟨Assoc.rising_del k m h.1, fun e he => h.2 e ((Assoc.del_sublist k m).subset he)⟩

/-- A change of entries that leaves the keys and makes none of them the default. -/
theorem Assoc.wf_map {d : Nat → α} (f : Nat × α → Nat × α) (m : Assoc α) (hk : ∀ e, (f e).1 = e.1) (hv : ∀ e, e.2 ≠ d e.1 → (f e).2 ≠ d e.1)
    (h : Assoc.wf d m = true) : Assoc.wf d (m.map f) = true := by
  rw [Assoc.wf_iff] at h ⊢
  refine ⟨Assoc.rising_map f m hk h.1, ?_⟩
  intro e he
  obtain ⟨x, hx, rfl⟩ := List.mem_map.1 he
  rw [hk]
  exact hv x (h.2 x hx)

/-- Read after a write through the default. -/
theorem Assoc.getD_putD (d : Nat → α) (k k' : Nat) (v : α) (m : Assoc α) (h : Assoc.rising m) :
    (Assoc.get k' (Assoc.putD (d k) k v m)).getD (d k') = if k' = k then v else (Assoc.get k' m).getD (d k') := by
  unfold Assoc.putD
  split_ifs with hv hk hk
  · rw [Assoc.get_del k k' m h]; subst hk; simp [hv]
  · rw [Assoc.get_del k k' m h]; simp [hk]
  · rw [Assoc.get_put]; simp [hk]
  · rw [Assoc.get_put]; simp [hk]

end

/-- A register read after a write: the written one reads as written, every other as before. -/
theorem RegMap.rd_wr (m : RegMap) (off off' : Nat) (v : W32) (h : Assoc.rising m) :
    RegMap.rd (RegMap.wr m off v) off' = if off' = off then v else RegMap.rd m off' := Assoc.getD_putD regReset off off' v m h

theorem RegMap.wf_wr (m : RegMap) (off : Nat) (v : W32) (h : Assoc.wf regReset m = true) : Assoc.wf regReset (RegMap.wr m off v) = true :=
  Assoc.wf_putD off v m h

/-- A fold whose every step keeps the keys rising keeps them rising. -/
theorem Assoc.rising_foldl {β : Type} {f : Assoc α → β → Assoc α} (hf : ∀ m x, Assoc.rising m → Assoc.rising (f m x)) (l : List β)
    {m : Assoc α} (h : Assoc.rising m) : Assoc.rising (l.foldl f m) := by
  induction l generalizing m with
  | nil => exact h
  | cons a l ih => exact ih (hf m a h)

/-- Host memory: its writes keep the keys rising. -/
theorem memPut_rising (m : List Host.Cell) (a : Nat) (bs : List Byte) (h : Assoc.rising m) : Assoc.rising (memPut m a bs) := by
  induction bs generalizing m a with
  | nil => exact h
  | cons b bs ih => exact ih _ _ (Assoc.rising_put a b m h)

/-- A byte of host memory after a write: those written read as written, every other as before. -/
theorem memPut_get (m : List Host.Cell) (a k : Nat) (bs : List Byte) :
    Assoc.get k (memPut m a bs) = if a ≤ k ∧ k < a + bs.length then bs[k - a]? else Assoc.get k m := by
  induction bs generalizing m a with
  | nil => simp [memPut]
  | cons b bs ih =>
    rw [memPut, ih, Assoc.get_put]
    simp only [List.length_cons]
    by_cases h : k = a
    · subst h; simp
    · by_cases h2 : a + 1 ≤ k ∧ k < a + 1 + bs.length
      · rw [if_pos h2, if_pos (by omega), show k - a = (k - (a + 1)) + 1 by omega, List.getElem?_cons_succ]
      · rw [if_neg h2, if_neg h, if_neg (by omega)]

/-- The flash: programming and erasing keep its canonical form, in which no erased byte is listed. -/
theorem flashPut_wf (m : List Host.Cell) (a : Nat) (bs : List Byte) (h : Assoc.wf (fun _ => (0xFF : Byte)) m = true) :
    Assoc.wf (fun _ => (0xFF : Byte)) (flashPut m a bs) = true := by
  induction bs generalizing m a with
  | nil => exact h
  | cons b bs ih => exact ih _ _ (Assoc.wf_putD (d := fun _ => (0xFF : Byte)) a b m h)

theorem State.eraseFlash_wf (s : State) (a n : Nat) (h : Assoc.wf (fun _ => (0xFF : Byte)) s.cfg.flash = true) :
    Assoc.wf (fun _ => (0xFF : Byte)) (s.eraseFlash a n).cfg.flash = true := Assoc.wf_filter _ _ h

/-- A counter after a count: its own offset is raised, every other stands. -/
theorem State.ctrAt_countN (s : State) (off n k : Nat) (h : Assoc.rising s.ctr) :
    (s.countN off n).ctrAt k = if k = off then ctrAdd (s.ctrAt off) n else s.ctrAt k :=
  Assoc.getD_putD (fun _ => (0 : BitVec 64)) off k _ s.ctr h

theorem State.countN_wf (s : State) (off n : Nat) (h : Assoc.wf (fun _ => (0 : BitVec 64)) s.ctr = true) :
    Assoc.wf (fun _ => (0 : BitVec 64)) (s.countN off n).ctr = true := Assoc.wf_putD (d := fun _ => (0 : BitVec 64)) off _ s.ctr h

@[simp] theorem updAt_length {α : Type} (xs : List α) (i : Nat) (f : α → α) : (updAt xs i f).length = xs.length := by
  simp [updAt]

@[simp] theorem putAt_length {α : Type} (xs : List α) (i : Nat) (a : α) : (putAt xs i a).length = xs.length := by
  simp [putAt]

end Sys2Proof.Machine
end

