-- ==== Sys2Proof/Laws/Keeps.lean ====
section
/-! SUPPORT. That every operation of the block leaves the clock and the queue alone, and keeps the canonical form of the maps, the lengths of the
lists, and the gate and the mode where they are, or, where it changes
the mode, the gate closed exactly in SAFE: one lemma for each operation, by which the same is shown of whatever calls it. -/

set_option Elab.async false

namespace Sys2Proof.Machine

open Sys2Proof

/-- What an operation keeps from a state to a later one. -/
structure State.Keeps (r s : State) : Prop where
  now : s.now = r.now
  pending : s.pending = r.pending
  canon : r.canonical → s.canonical
  shaped : r.shaped → s.shaped
  gate : s.fmu.gate = r.fmu.gate
  mode : s.md.mode = r.md.mode
  origin : s.md.origin = r.md.origin

/-- What an operation that may change the mode keeps from a state to a later one. -/
structure State.Leads (r s : State) : Prop where
  now : s.now = r.now
  pending : s.pending = r.pending
  canon : r.canonical → s.canonical
  shaped : r.shaped → s.shaped
  gated : r.gated → s.gated

theorem State.Keeps.refl (s : State) : s.Keeps s := ⟨rfl, rfl, id, id, rfl, rfl, rfl⟩

theorem State.Keeps.trans {r s t : State} (a : r.Keeps s) (b : s.Keeps t) : r.Keeps t :=
  ⟨b.now.trans a.now, b.pending.trans a.pending, b.canon ∘ a.canon, b.shaped ∘ a.shaped, b.gate.trans a.gate,
    b.mode.trans a.mode, b.origin.trans a.origin⟩

/-- A kept state taken as one of which nothing else is known. -/
theorem State.Keeps.gen {r s : State} (h : r.Keeps s) : ∃ y, r.Keeps y ∧ s = y := ⟨s, h, rfl⟩

theorem State.Keeps.ite {r a b : State} {c : Prop} [Decidable c] (ha : r.Keeps a) (hb : r.Keeps b) : r.Keeps (if c then a else b) := by
  split <;> assumption

theorem State.Keeps.leads {r s : State} (k : r.Keeps s) : r.Leads s :=
  ⟨k.now, k.pending, k.canon, k.shaped, fun g => by unfold State.gated; rw [k.gate, k.mode, k.origin]; exact g⟩

theorem State.Leads.refl (s : State) : s.Leads s := (State.Keeps.refl s).leads

theorem State.Leads.trans {r s t : State} (a : r.Leads s) (b : s.Leads t) : r.Leads t :=
  ⟨b.now.trans a.now, b.pending.trans a.pending, b.canon ∘ a.canon, b.shaped ∘ a.shaped, b.gated ∘ a.gated⟩

theorem State.Leads.andThen {r s t : State} (a : r.Leads s) (b : s.Keeps t) : r.Leads t := a.trans b.leads

theorem State.Leads.gen {r s : State} (h : r.Leads s) : ∃ y, r.Leads y ∧ s = y := ⟨s, h, rfl⟩

theorem State.Leads.ite {r a b : State} {c : Prop} [Decidable c] (ha : r.Leads a) (hb : r.Leads b) : r.Leads (if c then a else b) := by
  split <;> assumption

theorem State.Leads.foldl {α : Type} {r s : State} {f : State → α → State} {l : List α} (h : r.Leads s)
    (hf : ∀ t a, r.Leads t → r.Leads (f t a)) : r.Leads (l.foldl f s) := by
  induction l generalizing s with
  | nil => exact h
  | cons a l ih => exact ih (hf s a h)

theorem State.Leads.snd {α : Type} {r s : State} {x : α} {p : α × State} (e : p = (x, s)) (h : r.Leads p.2) : r.Leads s := by
  subst e; exact h

theorem State.Leads.fst {α : Type} {r s : State} {x : α} {p : State × α} (e : p = (s, x)) (h : r.Leads p.1) : r.Leads s := by
  subst e; exact h

theorem State.Keeps.snd {α : Type} {r s : State} {x : α} {p : α × State} (e : p = (x, s)) (h : r.Keeps p.2) : r.Keeps s := by
  subst e; exact h

theorem State.Keeps.snd2 {α β : Type} {r s : State} {x : α} {y : β} {p : α × β × State} (e : p = (x, y, s)) (h : r.Keeps p.2.2) : r.Keeps s := by
  subst e; exact h

theorem State.Keeps.fst {α : Type} {r s : State} {x : α} {p : State × α} (e : p = (s, x)) (h : r.Keeps p.1) : r.Keeps s := by
  subst e; exact h

theorem State.Keeps.foldl {α : Type} {r s : State} {f : State → α → State} {l : List α} (h : r.Keeps s)
    (hf : ∀ t a, r.Keeps t → r.Keeps (f t a)) : r.Keeps (l.foldl f s) := by
  induction l generalizing s with
  | nil => exact h
  | cons a l ih => exact ih (hf s a h)

theorem State.Keeps.foldlFst {α β : Type} {r : State} {p : State × β} {f : State × β → α → State × β} {l : List α} (h : r.Keeps p.1)
    (hf : ∀ q a, r.Keeps q.1 → r.Keeps (f q a).1) : r.Keeps (l.foldl f p).1 := by
  induction l generalizing p with
  | nil => exact h
  | cons a l ih => exact ih (hf p a h)

theorem State.Keeps.foldlSnd {α β : Type} {r : State} {p : β × State} {f : β × State → α → β × State} {l : List α} (h : r.Keeps p.2)
    (hf : ∀ q a, r.Keeps q.2 → r.Keeps (f q a).2) : r.Keeps (l.foldl f p).2 := by
  induction l generalizing p with
  | nil => exact h
  | cons a l ih => exact ih (hf p a h)

/-- A record update that leaves the clock and the queue alone: what it must show of the parts that the laws speak of. -/
theorem State.Keeps.upd {r : State} (u : State) {a2 a3 a4 a5 a6 a7 a8 a9 a10 a11 a12 a13 a14 a15 a16 a17 a18 a19 a20 a21 a22 a23 a24 a25 a26 a27 a28}
    (h : r.Keeps u)
    (hg : a21.gate = u.fmu.gate ∧ a8.mode = u.md.mode ∧ a8.origin = u.md.origin)
    (hc : Assoc.wf regReset u.act = true ∧ Assoc.wf regReset u.stg = true ∧ Assoc.wf (fun _ => 0) u.ctr = true ∧
        Assoc.wf (fun _ => CmtSt.reset) u.cmts = true ∧ Assoc.wf (fun _ => 0xFF) u.cfg.flash = true ∧ Assoc.rising u.fe.slots ∧
        Assoc.rising u.gns.excls ∧ Assoc.rising u.wv.buckets ∧ Assoc.rising u.pke.curves ∧ Assoc.rising u.hif.mem ∧
        Assoc.rising u.fe.kept.almanac ∧ Assoc.rising u.fe.kept.iono →
      Assoc.wf regReset a4 = true ∧ Assoc.wf regReset a3 = true ∧ Assoc.wf (fun _ => 0) a5 = true ∧
        Assoc.wf (fun _ => CmtSt.reset) a6 = true ∧ Assoc.wf (fun _ => 0xFF) a24.flash = true ∧ Assoc.rising a25.slots ∧
        Assoc.rising a15.excls ∧ Assoc.rising a17.buckets ∧ Assoc.rising a20.curves ∧ Assoc.rising a19.mem ∧
        Assoc.rising a25.kept.almanac ∧ Assoc.rising a25.kept.iono)
    (hs : u.lat.length = 2 ∧ u.ports.length = 5 ∧ u.tin.ins.length = 8 ∧ u.ref.refs.length = 17 ∧ u.out.clks.length = 10 ∧
        u.out.pps.length = 4 ∧ u.gns.chans.length = 192 ∧ u.hif.rx.length = 16 ∧ u.hif.tx.length = 16 ∧ u.hif.cq.length = 2 ∧
        u.hif.vecs.length = 36 ∧ u.fmu.islands.length = 24 ∧ u.wv.lanes.length = 8 ∧ u.wv.queues.length = 5 ∧ u.ptp.ports.length = 4 ∧
        u.pmc.length = 5 →
      a26.length = 2 ∧ a16.length = 5 ∧ a11.ins.length = 8 ∧ a12.refs.length = 17 ∧ a14.clks.length = 10 ∧
        a14.pps.length = 4 ∧ a15.chans.length = 192 ∧ a19.rx.length = 16 ∧ a19.tx.length = 16 ∧ a19.cq.length = 2 ∧
        a19.vecs.length = 36 ∧ a21.islands.length = 24 ∧ a17.lanes.length = 8 ∧ a17.queues.length = 5 ∧ a18.ports.length = 4 ∧
        a23.length = 5) :
    r.Keeps (State.mk u.now a2 a3 a4 a5 a6 a7 a8 a9 a10 a11 a12 a13 a14 a15 a16 a17 a18 a19 a20 a21 a22 a23 a24 a25 a26 a27 a28 u.pending) :=
  h.trans ⟨rfl, rfl, hc, hs, hg.1, hg.2.1, hg.2.2⟩

end Sys2Proof.Machine
end

