-- ==== Sys2Proof/Laws/KeepOps.lean ====
section
/-! SUPPORT. What the operations of Machine/Ops.lean keep. -/

set_option Elab.async false
set_option linter.unusedVariables false
set_option linter.unusedSimpArgs false

namespace Sys2Proof.Machine

open Sys2Proof

theorem State.countN_keeps {r0 : State} {s : State} {off : Nat} {n : Nat} (h : r0.Keeps s) : r0.Keeps (s.countN off n) :=
  .upd s h ⟨rfl, rfl, rfl⟩ (fun ⟨a, b, c, d⟩ => ⟨a, b, Assoc.wf_putD (d := fun _ => (0 : BitVec 64)) _ _ _ c, d⟩) id

theorem State.count_keeps {r0 : State} {s : State} {off : Nat} (h : r0.Keeps s) : r0.Keeps (s.count off) := by
  unfold State.count
  refine State.countN_keeps ?_
  exact h

theorem State.refreshLeap_keeps {r0 : State} {s : State} (h : r0.Keeps s) : r0.Keeps s.refreshLeap := by
  unfold State.refreshLeap
  extract_lets +onlyGivenNames v1
  refine .upd s ?_ (⟨rfl, rfl, rfl⟩) (fun h => h) (fun h => h)
  exact h

theorem State.vecEvent_keeps {r0 : State} {s : State} {v : Nat} (h : r0.Keeps s) : r0.Keeps (s.vecEvent v) := by
  unfold State.vecEvent
  extract_lets +onlyGivenNames v1
  refine .upd s ?_ (⟨rfl, rfl, rfl⟩) (fun h => h) (by simp only [updAt_length]; exact fun h => h)
  exact h

theorem State.cause_keeps {r0 : State} {s : State} {b : Nat} (h : r0.Keeps s) : r0.Keeps (s.cause b) := by
  unfold State.cause
  extract_lets +onlyGivenNames v1
  extract_lets +onlyGivenNames v2
  have hv2 : r0.Keeps v2 := by
    unfold v2
    refine .upd s ?_ (⟨rfl, rfl, rfl⟩) (fun h => h) (fun h => h)
    exact h
  obtain ⟨yv2, hyv2, ev2⟩ := hv2.gen
  rw [ev2]
  refine .ite ?_ ?_
  · refine State.vecEvent_keeps ?_
    exact hyv2
  · exact hyv2

theorem State.logAs_keeps {r0 : State} {s : State} {fmu : Bool} {typ : Nat} {body : List Byte} (h : r0.Keeps s) : r0.Keeps (s.logAs fmu typ body) := by
  unfold State.logAs
  extract_lets +onlyGivenNames v1
  extract_lets +onlyGivenNames v2
  extract_lets +onlyGivenNames v3
  refine State.count_keeps ?_
  refine .upd s ?_ (⟨rfl, rfl, rfl⟩) (fun h => h) (fun h => h)
  exact h

theorem State.log_keeps {r0 : State} {s : State} {typ : Nat} {body : List Byte} (h : r0.Keeps s) : r0.Keeps (s.log typ body) := by
  unfold State.log
  refine .ite ?_ ?_
  · exact h
  · refine State.logAs_keeps ?_
    exact h

theorem State.faultReport_keeps {r0 : State} {s : State} {tag : Nat} {safe : Nat} (h : r0.Keeps s) : r0.Keeps (s.faultReport tag safe) := by
  unfold State.faultReport
  refine State.count_keeps (.upd s h ?_ id fun k => ?_)
  · split <;> exact ⟨rfl, rfl, rfl⟩
  · split <;> exact k

theorem State.draw_keeps {r0 : State} {s : State} (h : r0.Keeps s) : r0.Keeps s.draw.2 := .upd s h ⟨rfl, rfl, rfl⟩ id id

theorem State.setPort_keeps {r0 : State} {s : State} {n : Nat} {f : PortSt → PortSt} (h : r0.Keeps s) : r0.Keeps (s.setPort n f) := by
  unfold State.setPort
  refine .upd s ?_ (⟨rfl, rfl, rfl⟩) (fun h => h) (by simp only [updAt_length]; exact fun h => h)
  exact h

theorem State.setRef_keeps {r0 : State} {s : State} {n : Nat} {f : RefSt → RefSt} (h : r0.Keeps s) : r0.Keeps (s.setRef n f) := by
  unfold State.setRef
  extract_lets +onlyGivenNames v1
  refine .upd s ?_ (⟨rfl, rfl, rfl⟩) (fun h => h) (by simp only [updAt_length]; exact fun h => h)
  exact h

theorem State.setCmt_keeps {r0 : State} {s : State} {b : CmtBlk} {c : CmtSt} (h : r0.Keeps s) : r0.Keeps (s.setCmt b c) := by
  unfold State.setCmt
  refine .upd s ?_ (⟨rfl, rfl, rfl⟩) (fun ⟨a, b, c, d, e, f, g, i, j, k⟩ => ⟨a, b, c, Assoc.wf_putD (d := fun _ => CmtSt.reset) _ _ _ d, e, f, g, i, j, k⟩) (fun h => h)
  exact h

theorem State.setLat_keeps {r0 : State} {s : State} {p : Path} {f : Latches → Latches} (h : r0.Keeps s) : r0.Keeps (s.setLat p f) := by
  unfold State.setLat
  refine .upd s ?_ (⟨rfl, rfl, rfl⟩) (fun h => h) (by simp only [updAt_length]; exact fun h => h)
  exact h

end Sys2Proof.Machine
end

