-- ==== Sys2Proof/Laws/KeepBandwidth.lean ====
section
/-! SUPPORT. What the operations of Machine/Bandwidth.lean keep. -/

set_option Elab.async false
set_option linter.unusedVariables false
set_option linter.unusedSimpArgs false

namespace Sys2Proof.Machine

open Sys2Proof

theorem State.setBw_keeps {r0 : State} {s : State} {n : Nat} {f : BwSt → BwSt} (h : r0.Keeps s) : r0.Keeps (s.setBw n f) := by
  unfold State.setBw
  refine .upd s ?_ (⟨rfl, rfl, rfl⟩) (fun h => h) (by simp only [updAt_length]; exact fun h => h)
  exact h

theorem State.bwAccrue_keeps {r0 : State} {s : State} {n : Nat} (h : r0.Keeps s) : r0.Keeps (s.bwAccrue n) := by
  unfold State.bwAccrue
  extract_lets +onlyGivenNames v1
  refine State.setBw_keeps ?_
  exact h

theorem State.lineLoad_keeps {r0 : State} {s : State} {n : Nat} {octets : Nat} {rx : Bool} (h : r0.Keeps s) : r0.Keeps (s.lineLoad n octets rx) := by
  unfold State.lineLoad
  extract_lets +onlyGivenNames v1
  have hv1 : r0.Keeps v1 := by
    unfold v1
    refine State.setBw_keeps ?_
    exact h
  obtain ⟨yv1, hyv1, ev1⟩ := hv1.gen
  rw [ev1]
  extract_lets +onlyGivenNames v2
  extract_lets +onlyGivenNames v3
  extract_lets +onlyGivenNames v4
  clear_value v4
  refine State.setPort_keeps ?_
  exact hyv1

theorem State.bwClose_keeps {r0 : State} {s : State} {n : Nat} {short : Bool} {next : Bool} (h : r0.Keeps s) : r0.Keeps (s.bwClose n short next) := by
  unfold State.bwClose
  extract_lets +onlyGivenNames v1
  clear_value v1
  refine State.setBw_keeps ?_
  refine State.bwAccrue_keeps ?_
  exact h

theorem State.bwStep_keeps {r0 : State} {s : State} (h : r0.Keeps s) : r0.Keeps s.bwStep := by
  unfold State.bwStep
  refine .foldl ?_ fun t1 a2 k3 => ?_
  · exact h
  · refine .ite ?_ ?_
    · refine State.bwClose_keeps ?_
      exact k3
    · exact k3

theorem State.bwStart_keeps {r0 : State} {s : State} {n : Nat} (h : r0.Keeps s) : r0.Keeps (s.bwStart n) := by
  unfold State.bwStart
  refine State.setBw_keeps ?_
  exact h

end Sys2Proof.Machine
end

