-- ==== Sys2Proof/Laws/KeepFlags.lean ====
section
/-! SUPPORT. What the operations of Machine/Flags.lean keep. -/

set_option Elab.async false
set_option linter.unusedVariables false
set_option linter.unusedSimpArgs false

namespace Sys2Proof.Machine

open Sys2Proof

theorem State.noteDegraded_keeps {r0 : State} {old : State} {new : State} (h : r0.Keeps new) : r0.Keeps (old.noteDegraded new) := by
  unfold State.noteDegraded
  exact .ite (State.cause_keeps h) h

theorem State.noteFault_keeps {r0 : State} {old : State} {new : State} (h : r0.Keeps new) : r0.Keeps (old.noteFault new) := by
  unfold State.noteFault
  exact .ite (State.cause_keeps h) h

theorem State.setPps_keeps {r0 : State} {s : State} {m : Nat} {f : PpsOut → PpsOut} (h : r0.Keeps s) : r0.Keeps (s.setPps m f) := by
  unfold State.setPps
  extract_lets +onlyGivenNames v1
  refine .upd s ?_ (⟨rfl, rfl, rfl⟩) (fun h => h) (by simp only [updAt_length]; exact fun h => h)
  exact h

theorem State.setClk_keeps {r0 : State} {s : State} {n : Nat} {f : ClkOut → ClkOut} (h : r0.Keeps s) : r0.Keeps (s.setClk n f) := by
  unfold State.setClk
  extract_lets +onlyGivenNames v1
  refine .upd s ?_ (⟨rfl, rfl, rfl⟩) (fun h => h) (by simp only [updAt_length]; exact fun h => h)
  exact h

theorem State.setLatch_keeps {r0 : State} {s : State} {x0 : OutId} (h : r0.Keeps s) : r0.Keeps (s.setLatch x0) := by
  unfold State.setLatch
  extract_lets +onlyGivenNames v1
  split
  · rename_i y2 y3
    refine State.setClk_keeps ?_
    exact h
  · rename_i y4 y5
    refine State.setPps_keeps ?_
    exact h
  · rename_i y6
    refine .upd s ?_ (⟨rfl, rfl, rfl⟩) (fun h => h) (fun h => h)
    exact h
  · rename_i y7
    refine .upd s ?_ (⟨rfl, rfl, rfl⟩) (fun h => h) (fun h => h)
    exact h

theorem State.setMuted_keeps {r0 : State} {s : State} {b : Bool} {x0 : OutId} (h : r0.Keeps s) : r0.Keeps (s.setMuted b x0) := by
  unfold State.setMuted
  extract_lets +onlyGivenNames v1
  split
  · rename_i y2 y3
    refine State.setClk_keeps ?_
    exact h
  · rename_i y4 y5
    refine State.setPps_keeps ?_
    exact h
  · rename_i y6
    refine .upd s ?_ (⟨rfl, rfl, rfl⟩) (fun h => h) (fun h => h)
    exact h
  · rename_i y7
    refine .upd s ?_ (⟨rfl, rfl, rfl⟩) (fun h => h) (fun h => h)
    exact h

theorem State.latchUnmute_keeps {r0 : State} {s : State} (h : r0.Keeps s) : r0.Keeps s.latchUnmute := by
  unfold State.latchUnmute
  refine .foldl ?_ fun t1 a2 k3 => ?_
  · exact h
  · refine .ite ?_ ?_
    · refine State.setLatch_keeps ?_
      exact k3
    · exact k3

theorem State.applyMute_keeps {r0 : State} {s : State} (h : r0.Keeps s) : r0.Keeps s.applyMute := by
  unfold State.applyMute
  refine .foldl ?_ fun t1 a2 k3 => ?_
  · exact h
  · refine .ite ?_ ?_
    · refine State.setMuted_keeps ?_
      exact k3
    · exact k3

theorem State.outputsFollow_keeps {r0 : State} {s : State} (h : r0.Keeps s) : r0.Keeps s.outputsFollow := by
  unfold State.outputsFollow
  refine State.applyMute_keeps ?_
  refine State.latchUnmute_keeps ?_
  exact h

theorem State.ppsInput_keeps {r0 : State} {s : State} {src : Nat} {t : Rat} (h : r0.Keeps s) : r0.Keeps (s.ppsInput src t) := by
  unfold State.ppsInput
  refine .foldl ?_ fun t2 a3 k4 => ?_
  · exact h
  · extract_lets +onlyGivenNames v5
    clear_value v5
    extract_lets +onlyGivenNames v6
    clear_value v6
    refine .ite ?_ ?_
    · split
      · rename_i y9 y10
        refine State.setPps_keeps ?_
        exact k4
      · rename_i y11 y12 y13
        extract_lets +onlyGivenNames v14
        clear_value v14
        refine .ite ?_ ?_
        · refine State.setPps_keeps ?_
          exact k4
        · exact k4
    · exact k4

end Sys2Proof.Machine
end

