-- ==== Sys2Proof/Laws/KeepTin.lean ====
section
/-! SUPPORT. What the operations of Machine/Tin.lean keep. -/

set_option Elab.async false
set_option linter.unusedVariables false
set_option linter.unusedSimpArgs false

namespace Sys2Proof.Machine

open Sys2Proof

theorem State.tacMiss_keeps {r0 : State} {s : State} {pos : Nat} (h : r0.Keeps s) : r0.Keeps (s.tacMiss pos) := by
  unfold State.tacMiss
  extract_lets +onlyGivenNames v1
  refine .upd s ?_ (⟨rfl, rfl, rfl⟩) (fun h => h) (fun h => h)
  exact h

theorem State.tacBusy_keeps {r0 : State} {s : State} {pos : Nat} (h : r0.Keeps s) : r0.Keeps (s.tacBusy pos) := by
  unfold State.tacBusy
  extract_lets +onlyGivenNames v1
  refine .upd s ?_ (⟨rfl, rfl, rfl⟩) (fun h => h) (fun h => h)
  exact h

theorem State.setTable_keeps {r0 : State} {s : State} {phys : Nat} {t : List W32} (h : r0.Keeps s) : r0.Keeps (s.setTable phys t) := by
  unfold State.setTable
  extract_lets +onlyGivenNames v1
  refine .upd s ?_ (⟨rfl, rfl, rfl⟩) (fun h => h) (fun h => h)
  exact h

theorem State.tacFailCal_keeps {r0 : State} {s : State} {phys : Nat} (h : r0.Keeps s) : r0.Keeps (s.tacFailCal phys) := by
  unfold State.tacFailCal
  extract_lets +onlyGivenNames v1
  have hv1 : r0.Keeps v1 := by
    unfold v1
    refine State.faultReport_keeps ?_
    exact h
  obtain ⟨yv1, hyv1, ev1⟩ := hv1.gen
  rw [ev1]
  extract_lets +onlyGivenNames v2
  extract_lets +onlyGivenNames v3
  split
  · rename_i y5 y6
    refine .upd yv1 ?_ (⟨rfl, rfl, rfl⟩) (fun h => h) (fun h => h)
    exact hyv1
  · rename_i y7 y8 y9
    extract_lets +onlyGivenNames v10
    clear_value v10
    extract_lets +onlyGivenNames v11
    clear_value v11
    refine .upd yv1 ?_ (⟨rfl, rfl, rfl⟩) (fun h => h) (fun h => h)
    exact hyv1

theorem State.calibrateTacs_keeps {r0 : State} {s : State} {hits : List (List Nat)} (h : r0.Keeps s) : r0.Keeps (s.calibrateTacs hits) := by
  unfold State.calibrateTacs
  extract_lets +onlyGivenNames v1
  extract_lets +onlyGivenNames v2
  extract_lets +onlyGivenNames v3
  extract_lets +onlyGivenNames v4
  extract_lets +onlyGivenNames v5
  extract_lets +onlyGivenNames v6
  extract_lets +onlyGivenNames v7
  refine .foldl ?_ fun t9 a10 k11 => ?_
  · exact h
  · extract_lets +onlyGivenNames v12
    refine .ite ?_ ?_
    · refine State.setTable_keeps ?_
      exact k11
    · refine State.tacFailCal_keeps ?_
      exact k11

theorem State.tacBgCalDone_keeps {r0 : State} {s : State} {g : Nat} {hits : List Nat} (h : r0.Keeps s) : r0.Keeps (s.tacBgCalDone g hits) := by
  unfold State.tacBgCalDone
  extract_lets +onlyGivenNames v1
  clear_value v1
  extract_lets +onlyGivenNames v2
  have hv2 : r0.Keeps v2 := by
    unfold v2
    refine State.setTable_keeps ?_
    exact h
  obtain ⟨yv2, hyv2, ev2⟩ := hv2.gen
  rw [ev2]
  extract_lets +onlyGivenNames v3
  extract_lets +onlyGivenNames v4
  refine .ite ?_ ?_
  · refine .ite ?_ ?_
    · refine .upd yv2 ?_ (⟨rfl, rfl, rfl⟩) (fun h => h) (fun h => h)
      exact hyv2
    · refine State.faultReport_keeps ?_
      refine .upd s ?_ (⟨rfl, rfl, rfl⟩) (fun h => h) (fun h => h)
      exact h
  · exact h

theorem State.tacRotate_keeps {r0 : State} {s : State} {g : Nat} (h : r0.Keeps s) : r0.Keeps (s.tacRotate g) := by
  unfold State.tacRotate
  extract_lets v1
  split
  rename_i p0 n _
  extract_lets pos old t ins
  have hi : ins.length = s.tin.ins.length := by
    unfold ins
    split
    · exact updAt_length ..
    · rfl
  refine .ite (.upd s h ⟨rfl, rfl, rfl⟩ (fun h => h) fun k => ?_) h
  simp only [hi]
  exact k

theorem State.bufPut_keeps {r0 : State} {s : State} {r : BitVec 128} (h : r0.Keeps s) : r0.Keeps (s.bufPut r) := by
  unfold State.bufPut
  extract_lets +onlyGivenNames v1
  extract_lets +onlyGivenNames v2
  extract_lets +onlyGivenNames v3
  have hv3 : r0.Keeps v3 := by
    unfold v3
    refine .upd s ?_ (⟨rfl, rfl, rfl⟩) (fun h => h) (fun h => h)
    exact h
  obtain ⟨yv3, hyv3, ev3⟩ := hv3.gen
  rw [ev3]
  extract_lets +onlyGivenNames v4
  extract_lets +onlyGivenNames v5
  refine .upd yv3 ?_ (⟨rfl, rfl, rfl⟩) (fun h => h) (fun h => h)
  exact hyv3

theorem State.flushOverflow_keeps {r0 : State} {s : State} (h : r0.Keeps s) : r0.Keeps s.flushOverflow := by
  unfold State.flushOverflow
  extract_lets +onlyGivenNames v1
  have hv1 : r0.Keeps v1 := by
    unfold v1
    refine State.bufPut_keeps ?_
    exact h
  obtain ⟨yv1, hyv1, ev1⟩ := hv1.gen
  rw [ev1]
  extract_lets +onlyGivenNames v2
  refine .ite ?_ ?_
  · refine .upd yv1 ?_ (⟨rfl, rfl, rfl⟩) (fun h => h) (fun h => h)
    exact hyv1
  · exact h

theorem State.loseRecord_keeps {r0 : State} {s : State} {inp : Option Nat} {atBuffer : Bool} (h : r0.Keeps s) : r0.Keeps (s.loseRecord inp atBuffer) := by
  unfold State.loseRecord
  extract_lets +onlyGivenNames v1
  extract_lets +onlyGivenNames v2
  extract_lets +onlyGivenNames v3
  have hv3 : r0.Keeps v3 := by
    unfold v3
    refine .upd s ?_ (⟨rfl, rfl, rfl⟩) (fun h => h) (fun h => h)
    exact h
  obtain ⟨yv3, hyv3, ev3⟩ := hv3.gen
  rw [ev3]
  extract_lets +onlyGivenNames v4
  have hv4 : r0.Keeps v4 := by
    unfold v4
    split
    · rename_i y5 y6
      refine State.count_keeps ?_
      exact hyv3
    · rename_i y7
      exact hyv3
  obtain ⟨yv4, hyv4, ev4⟩ := hv4.gen
  rw [ev4]
  refine .ite ?_ ?_
  · refine State.cause_keeps ?_
    exact hyv4
  · exact hyv4

theorem State.portWrite_keeps {r0 : State} {s : State} {inp : Option Nat} {r : BitVec 128} (h : r0.Keeps s) : r0.Keeps (s.portWrite inp r) := by
  unfold State.portWrite
  extract_lets +onlyGivenNames v1
  have hv1 : r0.Keeps v1 := by
    unfold v1
    refine State.flushOverflow_keeps ?_
    exact h
  obtain ⟨yv1, hyv1, ev1⟩ := hv1.gen
  rw [ev1]
  refine .ite ?_ ?_
  · refine State.loseRecord_keeps ?_
    exact hyv1
  · refine State.bufPut_keeps ?_
    exact hyv1

theorem State.setTin_keeps {r0 : State} {s : State} {n : Nat} {f : TinIn → TinIn} (h : r0.Keeps s) : r0.Keeps (s.setTin n f) := by
  unfold State.setTin
  extract_lets +onlyGivenNames v1
  refine .upd s ?_ (⟨rfl, rfl, rfl⟩) (fun h => h) (by simp only [updAt_length]; exact fun h => h)
  exact h

theorem State.fifoPut_keeps {r0 : State} {s : State} {n : Nat} {t : Int} {r : BitVec 128} (h : r0.Keeps s) : r0.Keeps (s.fifoPut n t r) := by
  unfold State.fifoPut
  refine .ite ?_ ?_
  · refine State.setTin_keeps ?_
    exact h
  · refine State.loseRecord_keeps ?_
    exact h

theorem State.closeMeas_keeps {r0 : State} {s : State} {n : Nat} (h : r0.Keeps s) : r0.Keeps (s.closeMeas n) := by
  unfold State.closeMeas
  extract_lets +onlyGivenNames v1
  clear_value v1
  split
  · rename_i y3 y4
    exact h
  · rename_i y5 y6 y7
    extract_lets +onlyGivenNames v8
    have hv8 : r0.Keeps v8 := by
      unfold v8
      refine State.fifoPut_keeps ?_
      exact h
    obtain ⟨yv8, hyv8, ev8⟩ := hv8.gen
    rw [ev8]
    refine State.setTin_keeps ?_
    exact hyv8

theorem State.putEvent_keeps {r0 : State} {s : State} {n : Nat} {falling : Bool} {last : Bool} {member : Nat} {t : Int} {mono : Int} (h : r0.Keeps s) : r0.Keeps (s.putEvent n falling last member t mono) := by
  unfold State.putEvent
  extract_lets +onlyGivenNames v1
  have hv1 : r0.Keeps v1 := by
    unfold v1
    refine State.fifoPut_keeps ?_
    exact h
  obtain ⟨yv1, hyv1, ev1⟩ := hv1.gen
  rw [ev1]
  refine State.setTin_keeps ?_
  exact hyv1

theorem State.firstEdge_keeps {r0 : State} {s : State} {n : Nat} {falling : Bool} {last : Bool} {member : Nat} {t : Int} {mono : Int} (h : r0.Keeps s) : r0.Keeps (s.firstEdge n falling last member t mono) := by
  unfold State.firstEdge
  extract_lets +onlyGivenNames v1
  have hv1 : r0.Keeps v1 := by
    unfold v1
    split
    · rename_i y2 y3 y4
      refine State.setTin_keeps ?_
      refine State.fifoPut_keeps ?_
      exact h
    · rename_i y5 y6
      exact h
  obtain ⟨yv1, hyv1, ev1⟩ := hv1.gen
  rw [ev1]
  refine State.putEvent_keeps ?_
  exact hyv1

theorem State.putResult_keeps {r0 : State} {s : State} {n : Nat} {kind : Nat} {count : Nat} {iv : Int} {mono : Int} (h : r0.Keeps s) : r0.Keeps (s.putResult n kind count iv mono) := by
  unfold State.putResult
  extract_lets +onlyGivenNames v1
  extract_lets +onlyGivenNames v2
  clear_value v2
  extract_lets +onlyGivenNames v3
  clear_value v3
  extract_lets +onlyGivenNames v4
  have hv4 : r0.Keeps v4 := by
    unfold v4
    refine State.fifoPut_keeps ?_
    exact h
  obtain ⟨yv4, hyv4, ev4⟩ := hv4.gen
  rw [ev4]
  refine State.setTin_keeps ?_
  exact hyv4

theorem State.ownEdge_keeps {r0 : State} {s : State} {n : Nat} {falling : Bool} {member : Nat} {t : Int} {mono : Int} (h : r0.Keeps s) : r0.Keeps (s.ownEdge n falling member t mono) := by
  unfold State.ownEdge
  extract_lets +onlyGivenNames v1
  extract_lets +onlyGivenNames v2
  clear_value v2
  extract_lets +onlyGivenNames v3
  clear_value v3
  extract_lets +onlyGivenNames v4
  have hv4 : r0.Keeps v4 := by
    unfold v4
    refine .ite ?_ ?_
    · refine State.firstEdge_keeps ?_
      exact h
    · refine State.putEvent_keeps ?_
      exact h
  obtain ⟨yv4, hyv4, ev4⟩ := hv4.gen
  rw [ev4]
  extract_lets +onlyGivenNames v5
  have hv5 : r0.Keeps v5 := by
    unfold v5
    refine State.setTin_keeps ?_
    exact hyv4
  obtain ⟨yv5, hyv5, ev5⟩ := hv5.gen
  rw [ev5]
  split
  · rename_i y7 y8
    refine State.ppsInput_keeps ?_
    exact hyv5
  · rename_i y9 y10
    split
    · rename_i y12 y13
      refine State.setTin_keeps ?_
      refine State.firstEdge_keeps ?_
      exact h
    · rename_i y14 y15 y16
      extract_lets +onlyGivenNames v17
      have hv17 : r0.Keeps v17 := by
        unfold v17
        refine State.setTin_keeps ?_
        exact h
      obtain ⟨yv17, hyv17, ev17⟩ := hv17.gen
      rw [ev17]
      refine State.putResult_keeps ?_
      exact hyv17
  · rename_i y18 y19
    split
    · rename_i y21 y22
      refine State.setTin_keeps ?_
      refine State.firstEdge_keeps ?_
      exact h
    · rename_i y23 y24 y25
      extract_lets +onlyGivenNames v26
      have hv26 : r0.Keeps v26 := by
        unfold v26
        refine State.setTin_keeps ?_
        exact h
      obtain ⟨yv26, hyv26, ev26⟩ := hv26.gen
      rw [ev26]
      refine State.putResult_keeps ?_
      exact hyv26
  · rename_i y27 y28
    split
    · rename_i y29 y30
      refine State.setTin_keeps ?_
      refine State.firstEdge_keeps ?_
      exact h
    · rename_i y31 y32 y33
      refine State.setTin_keeps ?_
      exact h
  · rename_i y34 y35 y36 y37 y38
    exact h

theorem State.stopEdge_keeps {r0 : State} {s : State} {m : Nat} {mono : Int} (h : r0.Keeps s) : r0.Keeps (s.stopEdge m mono) := by
  unfold State.stopEdge
  split
  · rename_i y1 y2
    exact h
  · rename_i y3 y4 y5
    refine .ite ?_ ?_
    · exact h
    · refine State.putResult_keeps ?_
      refine State.setTin_keeps ?_
      exact h

theorem State.midGate_keeps {r0 : State} {s : State} {n : Nat} {m : Meas} {mono : Int} (h : r0.Keeps s) : r0.Keeps (s.midGate n m mono) := by
  unfold State.midGate
  refine State.setTin_keeps ?_
  exact h

theorem State.tinEdge_keeps {r0 : State} {s : State} {n : Nat} {falling : Bool} {code : Nat} (h : r0.Keeps s) : r0.Keeps (s.tinEdge n falling code) := by
  unfold State.tinEdge
  extract_lets +onlyGivenNames v1
  clear_value v1
  extract_lets +onlyGivenNames v2
  extract_lets +onlyGivenNames v3
  clear_value v3
  extract_lets +onlyGivenNames v4
  clear_value v4
  extract_lets +onlyGivenNames v5
  have hv5 : r0.Keeps v5 := by
    unfold v5
    refine State.count_keeps ?_
    refine State.setTin_keeps ?_
    exact h
  obtain ⟨yv5, hyv5, ev5⟩ := hv5.gen
  rw [ev5]
  refine .ite ?_ ?_
  · exact h
  · refine .ite ?_ ?_
    · exact h
    · split
      · rename_i y9 y10 y11 y12
        refine State.midGate_keeps ?_
        exact h
      · rename_i y13 y14 y15 y16
        split
        · rename_i y18 y19
          exact hyv5
        · rename_i y20 y21 y22
          extract_lets +onlyGivenNames v23
          clear_value v23
          extract_lets +onlyGivenNames v24
          clear_value v24
          extract_lets +onlyGivenNames v25
          have hv25 : r0.Keeps v25 := by
            unfold v25
            refine State.setTin_keeps ?_
            refine State.tacBusy_keeps ?_
            exact h
          obtain ⟨yv25, hyv25, ev25⟩ := hv25.gen
          rw [ev25]
          extract_lets +onlyGivenNames v26
          have hv26 : r0.Keeps v26 := by
            unfold v26
            refine .foldl ?_ fun t27 a28 k29 => ?_
            · exact hyv25
            · refine State.stopEdge_keeps ?_
              exact k29
          obtain ⟨yv26, hyv26, ev26⟩ := hv26.gen
          rw [ev26]
          extract_lets +onlyGivenNames v30
          clear_value v30
          extract_lets +onlyGivenNames v31
          have hv31 : r0.Keeps v31 := by
            unfold v31
            refine State.setTin_keeps ?_
            exact hyv26
          obtain ⟨yv31, hyv31, ev31⟩ := hv31.gen
          rw [ev31]
          refine .ite ?_ ?_
          · exact hyv26
          · refine .ite ?_ ?_
            · exact hyv31
            · refine .ite ?_ ?_
              · split
                · rename_i y32 y33 y34
                  refine State.midGate_keeps ?_
                  exact hyv31
                · rename_i y35 y36
                  exact hyv31
              · refine State.ownEdge_keeps ?_
                exact hyv31

theorem State.captureWrite_keeps {r0 : State} {s : State} {n : Nat} (h : r0.Keeps s) : r0.Keeps (s.captureWrite n) := by
  unfold State.captureWrite
  refine .ite ?_ ?_
  · exact h
  · split
    · rename_i y1 y2
      exact h
    · rename_i y3 y4 y5 y6 y7
      refine State.portWrite_keeps ?_
      refine State.setTin_keeps ?_
      exact h

theorem State.drainFifos_keeps {r0 : State} {s : State} {k : Nat} (h : r0.Keeps s) : r0.Keeps (State.drainFifos k s) := by
  induction k generalizing s with
  | zero => exact h
  | succ k ih =>
    unfold State.drainFifos
    split
    · exact h
    · split
      · exact h
      · exact ih (State.portWrite_keeps (State.setTin_keeps h))

theorem State.putStep_keeps {r0 : State} {s : State} {op : Nat} {sec : Nat} {change : Int} (h : r0.Keeps s) : r0.Keeps (s.putStep op sec change) := by
  unfold State.putStep
  extract_lets +onlyGivenNames v1
  extract_lets +onlyGivenNames v2
  have hv2 : r0.Keeps v2 := by
    unfold v2
    refine .upd s ?_ (⟨rfl, rfl, rfl⟩) (fun h => h) (fun h => h)
    exact h
  obtain ⟨yv2, hyv2, ev2⟩ := hv2.gen
  rw [ev2]
  refine State.portWrite_keeps ?_
  refine State.drainFifos_keeps ?_
  exact hyv2

theorem State.closeAllMeas_keeps {r0 : State} {s : State} (h : r0.Keeps s) : r0.Keeps s.closeAllMeas := by
  unfold State.closeAllMeas
  refine .foldl ?_ fun t1 a2 k3 => ?_
  · exact h
  · refine State.closeMeas_keeps ?_
    exact k3

theorem State.measTruncate_keeps {r0 : State} {s : State} {n : Nat} (h : r0.Keeps s) : r0.Keeps (s.measTruncate n) := by
  unfold State.measTruncate
  extract_lets +onlyGivenNames v1
  split
  · rename_i y2 y3 y4 y5 y6 y7
    refine .ite ?_ ?_
    · refine State.closeMeas_keeps ?_
      exact h
    · exact h
  · rename_i y8 y9 y10
    exact h

theorem State.armOne_keeps {r0 : State} {s : State} {n : Nat} (h : r0.Keeps s) : r0.Keeps (s.armOne n) := by
  unfold State.armOne
  refine .ite ?_ ?_
  · exact h
  · refine .ite ?_ ?_
    · refine State.setTin_keeps ?_
      exact h
    · refine State.setTin_keeps ?_
      exact h

theorem State.disarmOne_keeps {r0 : State} {s : State} {n : Nat} (h : r0.Keeps s) : r0.Keeps (s.disarmOne n) := by
  unfold State.disarmOne
  refine State.setTin_keeps ?_
  refine State.closeMeas_keeps ?_
  exact h

theorem State.tinArm_keeps {r0 : State} {s : State} {mask : BitVec 8} (h : r0.Keeps s) : r0.Keeps (s.tinArm mask) := by
  unfold State.tinArm
  refine .ite ?_ ?_
  · exact h
  · refine .foldl ?_ fun t1 a2 k3 => ?_
    · exact h
    · refine State.armOne_keeps ?_
      exact k3

theorem State.tinDisarm_keeps {r0 : State} {s : State} {mask : BitVec 8} (h : r0.Keeps s) : r0.Keeps (s.tinDisarm mask) := by
  unfold State.tinDisarm
  refine .ite ?_ ?_
  · exact h
  · refine .foldl ?_ fun t1 a2 k3 => ?_
    · exact h
    · refine State.disarmOne_keeps ?_
      exact k3

theorem State.rdEnable_keeps {r0 : State} {s : State} (h : r0.Keeps s) : r0.Keeps s.rdEnable := by
  unfold State.rdEnable
  extract_lets +onlyGivenNames v1
  extract_lets +onlyGivenNames v2
  extract_lets +onlyGivenNames v3
  refine .ite ?_ ?_
  · exact h
  · refine .upd s ?_ (⟨rfl, rfl, rfl⟩) (fun ⟨a, b, c⟩ => ⟨RegMap.wf_wr _ _ _ a, RegMap.wf_wr _ _ _ b, c⟩) (fun h => h)
    exact h

theorem State.tinRecRead_keeps {r0 : State} {s : State} (h : r0.Keeps s) : r0.Keeps s.tinRecRead := by
  unfold State.tinRecRead
  extract_lets +onlyGivenNames v1
  extract_lets +onlyGivenNames v2
  extract_lets +onlyGivenNames v3
  have hv3 : r0.Keeps v3 := by
    unfold v3
    refine .upd s ?_ (⟨rfl, rfl, rfl⟩) (fun h => h) (fun h => h)
    exact h
  obtain ⟨yv3, hyv3, ev3⟩ := hv3.gen
  rw [ev3]
  refine .ite ?_ ?_
  · refine .upd s ?_ (⟨rfl, rfl, rfl⟩) (fun h => h) (fun h => h)
    exact h
  · refine State.flushOverflow_keeps ?_
    exact hyv3

theorem State.setRdr_keeps {r0 : State} {s : State} {r : Reader} (h : r0.Keeps s) : r0.Keeps (s.setRdr r) := by
  unfold State.setRdr
  extract_lets +onlyGivenNames v1
  refine .upd s ?_ (⟨rfl, rfl, rfl⟩) (fun h => h) (fun h => h)
  exact h

end Sys2Proof.Machine
end

