-- ==== Sys2Proof/Laws/KeepHifOps.lean ====
section
/-! SUPPORT. What the operations of Machine/HifOps.lean keep. -/

set_option Elab.async false
set_option linter.unusedVariables false
set_option linter.unusedSimpArgs false

namespace Sys2Proof.Machine

open Sys2Proof

theorem State.dma_keeps {r0 : State} {s : State} {addr : Nat} {bs : List Byte} (h : r0.Keeps s) : r0.Keeps (s.dma addr bs) := by
  unfold State.dma
  extract_lets +onlyGivenNames v1
  refine .ite ?_ ?_
  · refine .upd s ?_ (⟨rfl, rfl, rfl⟩) (fun ⟨a, b, c, d, e, f, g, i, j, k, l⟩ => ⟨a, b, c, d, e, f, g, i, j, memPut_rising _ _ _ k, l⟩) (fun h => h)
    exact h
  · exact h

theorem State.setRx_keeps {r0 : State} {s : State} {n : Nat} {r : Ring} (h : r0.Keeps s) : r0.Keeps (s.setRx n r) := by
  unfold State.setRx
  extract_lets +onlyGivenNames v1
  refine .upd s ?_ (⟨rfl, rfl, rfl⟩) (fun h => h) (by simp only [updAt_length, putAt_length, List.length_map, List.length_mapIdx]; exact fun h => h)
  exact h

theorem State.setTx_keeps {r0 : State} {s : State} {n : Nat} {r : Ring} (h : r0.Keeps s) : r0.Keeps (s.setTx n r) := by
  unfold State.setTx
  extract_lets +onlyGivenNames v1
  refine .upd s ?_ (⟨rfl, rfl, rfl⟩) (fun h => h) (by simp only [updAt_length, putAt_length, List.length_map, List.length_mapIdx]; exact fun h => h)
  exact h

theorem State.setCq_keeps {r0 : State} {s : State} {q : Nat} {r : Ring} (h : r0.Keeps s) : r0.Keeps (s.setCq q r) := by
  unfold State.setCq
  extract_lets +onlyGivenNames v1
  refine .upd s ?_ (⟨rfl, rfl, rfl⟩) (fun h => h) (by simp only [updAt_length, putAt_length, List.length_map, List.length_mapIdx]; exact fun h => h)
  exact h

theorem State.cqWrite_keeps {r0 : State} {s : State} {q : Nat} {i : Nat} {qstat : Nat} {code : Nat} (h : r0.Keeps s) : r0.Keeps (s.cqWrite q i qstat code) := by
  unfold State.cqWrite
  extract_lets +onlyGivenNames v1
  clear_value v1
  extract_lets +onlyGivenNames v2
  have hv2 : r0.Keeps v2 := by
    unfold v2
    refine State.dma_keeps ?_
    exact h
  obtain ⟨yv2, hyv2, ev2⟩ := hv2.gen
  rw [ev2]
  extract_lets +onlyGivenNames v3
  have hv3 : r0.Keeps v3 := by
    unfold v3
    refine State.setCq_keeps ?_
    exact hyv2
  obtain ⟨yv3, hyv3, ev3⟩ := hv3.gen
  rw [ev3]
  extract_lets +onlyGivenNames v4
  have hv4 : r0.Keeps v4 := by
    unfold v4
    refine State.vecEvent_keeps ?_
    refine State.count_keeps ?_
    exact hyv3
  obtain ⟨yv4, hyv4, ev4⟩ := hv4.gen
  rw [ev4]
  refine .ite ?_ ?_
  · refine State.cause_keeps ?_
    refine State.count_keeps ?_
    exact hyv4
  · exact hyv4

theorem State.cqFinish_keeps {r0 : State} {s : State} {c : CompWait} (h : r0.Keeps s) : r0.Keeps (s.cqFinish c) := by
  unfold State.cqFinish
  extract_lets +onlyGivenNames v1
  refine .ite ?_ ?_
  · refine State.cqWrite_keeps ?_
    refine State.dma_keeps ?_
    exact h
  · refine .upd s ?_ (⟨rfl, rfl, rfl⟩) (fun h => h) (fun h => h)
    exact h

theorem State.cqComplete_keeps {r0 : State} {s : State} {q : Nat} {i : Nat} {qstat : Nat} {code : Nat} (h : r0.Keeps s) : r0.Keeps (s.cqComplete q i qstat code) := by
  unfold State.cqComplete
  refine State.cqFinish_keeps ?_
  exact h

theorem State.cqFlush_keeps {r0 : State} {s : State} (h : r0.Keeps s) : r0.Keeps s.cqFlush := by
  unfold State.cqFlush
  extract_lets +onlyGivenNames v1
  refine .ite ?_ ?_
  · exact h
  · refine .foldl ?_ fun t2 a3 k4 => ?_
    · refine .upd s ?_ (⟨rfl, rfl, rfl⟩) (fun h => h) (fun h => h)
      exact h
    · refine State.cqWrite_keeps ?_
      refine State.dma_keeps ?_
      exact k4

theorem State.hostStatus_keeps {r0 : State} {s : State} {id : Nat} {st : Nat} {tout : List Byte} (h : r0.Keeps s) : r0.Keeps (s.hostStatus id st tout) := by
  unfold State.hostStatus
  extract_lets +onlyGivenNames v1
  refine .upd s ?_ (⟨rfl, rfl, rfl⟩) (fun h => h) (fun h => h)
  exact h

theorem State.hostStatuses_keeps {r0 : State} {s : State} {es : List EgFrame} {st : Nat} (h : r0.Keeps s) : r0.Keeps (s.hostStatuses es st) := by
  unfold State.hostStatuses
  refine .foldl ?_ fun t1 a2 k3 => ?_
  · exact h
  · split
    · rename_i y4 y5 y6
      refine State.hostStatus_keeps ?_
      exact k3
    · rename_i y7 y8
      exact k3

theorem State.zeroCore_keeps {r0 : State} {s : State} {c : Option Nat} (h : r0.Keeps s) : r0.Keeps (s.zeroCore c) := by
  unfold State.zeroCore
  extract_lets +onlyGivenNames v1
  split
  · rename_i y2 y3
    refine .upd s ?_ (⟨rfl, rfl, rfl⟩) (fun h => h) (fun h => h)
    exact h
  · rename_i y4
    exact h

theorem State.bodFill_keeps {r0 : State} {s : State} (h : r0.Keeps s) : r0.Keeps s.bodFill := by
  unfold State.bodFill
  extract_lets +onlyGivenNames v1
  clear_value v1
  extract_lets +onlyGivenNames v2
  refine .upd s ?_ (⟨rfl, rfl, rfl⟩) (fun h => h) (fun h => h)
  exact h

theorem State.otarnLose_keeps {r0 : State} {s : State} {index : Nat} (h : r0.Keeps s) : r0.Keeps (s.otarnLose index) := by
  unfold State.otarnLose
  extract_lets +onlyGivenNames v1
  refine .upd s ?_ (⟨rfl, rfl, rfl⟩) (fun h => h) (fun h => h)
  exact h

theorem State.pkeAbort_keeps {r0 : State} {s : State} {o : PkeOp} (h : r0.Keeps s) : r0.Keeps (s.pkeAbort o) := by
  unfold State.pkeAbort
  extract_lets +onlyGivenNames v1
  extract_lets +onlyGivenNames v2
  have hv2 : r0.Keeps v2 := by
    unfold v2
    refine .upd s ?_ (⟨rfl, rfl, rfl⟩) (fun h => h) (fun h => h)
    exact h
  obtain ⟨yv2, hyv2, ev2⟩ := hv2.gen
  rw [ev2]
  extract_lets +onlyGivenNames v3
  have hv3 : r0.Keeps v3 := by
    unfold v3
    refine State.count_keeps ?_
    refine State.zeroCore_keeps ?_
    exact hyv2
  obtain ⟨yv3, hyv3, ev3⟩ := hv3.gen
  rw [ev3]
  refine .ite ?_ ?_
  · refine State.bodFill_keeps ?_
    refine State.otarnLose_keeps ?_
    exact hyv3
  · refine State.cqComplete_keeps ?_
    exact hyv3

theorem State.mintAbort_keeps {r0 : State} {s : State} {m : Mint} {code : Nat} (h : r0.Keeps s) : r0.Keeps (s.mintAbort m code) := by
  unfold State.mintAbort
  extract_lets +onlyGivenNames v1
  extract_lets +onlyGivenNames v2
  have hv2 : r0.Keeps v2 := by
    unfold v2
    refine State.count_keeps ?_
    refine .upd s ?_ (⟨rfl, rfl, rfl⟩) (fun h => h) (fun h => h)
    exact h
  obtain ⟨yv2, hyv2, ev2⟩ := hv2.gen
  rw [ev2]
  refine .ite ?_ ?_
  · refine State.cqComplete_keeps ?_
    exact hyv2
  · refine State.cqFinish_keeps ?_
    exact hyv2

theorem State.abortHeld_keeps {r0 : State} {s : State} {all : Bool} (h : r0.Keeps s) : r0.Keeps (s.abortHeld all) := by
  unfold State.abortHeld
  extract_lets +onlyGivenNames v1
  extract_lets +onlyGivenNames v2
  extract_lets +onlyGivenNames v3
  have hv3 : r0.Keeps v3 := by
    unfold v3
    refine .ite ?_ ?_
    · refine .upd s ?_ (⟨rfl, rfl, rfl⟩) (fun h => h) (fun h => h)
      exact h
    · exact h
  obtain ⟨yv3, hyv3, ev3⟩ := hv3.gen
  rw [ev3]
  extract_lets +onlyGivenNames v4
  have hv4 : r0.Keeps v4 := by
    unfold v4
    refine .foldl ?_ fun t5 a6 k7 => ?_
    · exact hyv3
    · refine State.pkeAbort_keeps ?_
      exact k7
  obtain ⟨yv4, hyv4, ev4⟩ := hv4.gen
  rw [ev4]
  refine .foldl ?_ fun t8 a9 k10 => ?_
  · exact hyv4
  · refine State.mintAbort_keeps ?_
    exact k10

theorem State.cqAbort_keeps {r0 : State} {s : State} {q : Nat} {i : Nat} (h : r0.Keeps s) : r0.Keeps (s.cqAbort q i) := by
  unfold State.cqAbort
  extract_lets +onlyGivenNames v1
  clear_value v1
  refine .ite ?_ ?_
  · exact h
  · split
    · rename_i y2
      split
      · rename_i y3 y4 y5
        refine State.pkeAbort_keeps ?_
        exact h
      · rename_i y6 y7
        refine State.cqComplete_keeps ?_
        exact h
    · rename_i y8 y9
      split
      · rename_i y10 y11 y12
        refine State.mintAbort_keeps ?_
        exact h
      · rename_i y13 y14
        refine State.cqComplete_keeps ?_
        refine State.count_keeps ?_
        exact h

theorem State.cqAbortAll_keeps {r0 : State} {s : State} {q : Nat} (h : r0.Keeps s) : r0.Keeps (s.cqAbortAll q) := by
  unfold State.cqAbortAll
  extract_lets +onlyGivenNames v1
  clear_value v1
  extract_lets +onlyGivenNames v2
  refine .foldl ?_ fun t3 a4 k5 => ?_
  · exact h
  · refine State.cqAbort_keeps ?_
    exact k5

theorem State.markHeads_keeps {r0 : State} {s : State} (h : r0.Keeps s) : r0.Keeps s.markHeads := by
  unfold State.markHeads
  extract_lets +onlyGivenNames v1
  extract_lets +onlyGivenNames v2
  refine .upd s ?_ (⟨rfl, rfl, rfl⟩) (fun h => h) (fun h => h)
  exact h

theorem State.freeCells_keeps {r0 : State} {s : State} {port : Nat} {cells : Nat} {fromPool : Bool} (h : r0.Keeps s) : r0.Keeps (s.freeCells port cells fromPool) := by
  unfold State.freeCells
  refine .ite ?_ ?_
  · refine State.setPort_keeps ?_
    exact h
  · refine State.setPort_keeps ?_
    exact h

theorem State.hifResetBlock_keeps {r0 : State} {s : State} {linkLost : Bool} {keepConfig : Bool} (h : r0.Keeps s) : r0.Keeps (s.hifResetBlock linkLost keepConfig) := by
  unfold State.hifResetBlock
  extract_lets s1 s2 isHost u w x hif inHif y
  have h2 : r0.Keeps s2 := .foldl (.ite h (State.abortHeld_keeps h)) fun t i k =>
    .ite (State.count_keeps (State.freeCells_keeps k)) (State.count_keeps (State.freeCells_keeps k))
  clear_value s2
  refine .upd s2 h2 ⟨rfl, rfl, rfl⟩ (fun ⟨a, b, c, d, e, f, g, i, j, k⟩ =>
    ⟨Assoc.wf_filter _ _ a, Assoc.wf_filter _ _ b, c, Assoc.wf_del (d := fun _ => CmtSt.reset) _ _ d, e, f, g, i, j, k⟩) ?_
  rintro ⟨a, b, c, d, e, f, g, i, j, k, l, m⟩
  refine ⟨a, (List.length_map _).trans b, c, d, e, f, g, rfl, rfl, rfl, ?_, m⟩
  show (if keepConfig = true then _ else HifSt.reset.vecs).length = 36
  split
  · exact (List.length_map _).trans l
  · rfl

end Sys2Proof.Machine
end

