-- ==== Sys2Proof/Laws/KeepTimeBase.lean ====
section
/-! SUPPORT. What the operations of Machine/TimeBase.lean keep. -/

set_option Elab.async false
set_option linter.unusedVariables false
set_option linter.unusedSimpArgs false

namespace Sys2Proof.Machine

open Sys2Proof

theorem State.timeLatch_keeps {r0 : State} {s : State} {p : Path} (h : r0.Keeps s) : r0.Keeps (s.timeLatch p) := by
  unfold State.timeLatch
  refine .ite ?_ ?_
  · exact h
  · refine State.setLat_keeps ?_
    exact h

theorem State.weftLatch_keeps {r0 : State} {s : State} {p : Path} (h : r0.Keeps s) : r0.Keeps (s.weftLatch p) := by
  unfold State.weftLatch
  refine .ite ?_ ?_
  · exact h
  · refine State.setLat_keeps ?_
    exact h

theorem State.qAccrue_keeps {r0 : State} {s : State} (h : r0.Keeps s) : r0.Keeps s.qAccrue := by
  unfold State.qAccrue
  extract_lets +onlyGivenNames v1
  refine .upd s ?_ (⟨rfl, rfl, rfl⟩) (fun h => h) (fun h => h)
  exact h

theorem State.freezeWeft_keeps {r0 : State} {s : State} {e0 : Rat} (h : r0.Keeps s) : r0.Keeps (s.freezeWeft e0) := by
  unfold State.freezeWeft
  extract_lets +onlyGivenNames v1
  refine .ite ?_ ?_
  · refine .upd s ?_ (⟨rfl, rfl, rfl⟩) (fun h => h) (fun h => h)
    exact h
  · exact h

theorem State.thawWeft_keeps {r0 : State} {s : State} (h : r0.Keeps s) : r0.Keeps s.thawWeft := by
  unfold State.thawWeft
  extract_lets +onlyGivenNames v1
  split
  · rename_i y3 y4
    exact h
  · rename_i y5 y6 y7
    extract_lets +onlyGivenNames v8
    clear_value v8
    refine .upd s ?_ (⟨rfl, rfl, rfl⟩) (fun h => h) (fun h => h)
    exact h

theorem State.weftLoad_keeps {r0 : State} {s : State} {lSync : Nat} (h : r0.Keeps s) : r0.Keeps (s.weftLoad lSync) := by
  unfold State.weftLoad
  extract_lets +onlyGivenNames v1
  refine .ite ?_ ?_
  · refine .upd s ?_ (⟨rfl, rfl, rfl⟩) (fun h => h) (fun h => h)
    exact h
  · exact h

theorem State.weftSteer_keeps {r0 : State} {s : State} (h : r0.Keeps s) : r0.Keeps s.weftSteer := by
  unfold State.weftSteer
  extract_lets +onlyGivenNames v1
  clear_value v1
  extract_lets +onlyGivenNames v2
  clear_value v2
  extract_lets +onlyGivenNames v3
  extract_lets +onlyGivenNames v4
  have hv4 : r0.Keeps v4 := by
    unfold v4
    refine .upd s ?_ (⟨rfl, rfl, rfl⟩) (fun h => h) (fun h => h)
    exact h
  obtain ⟨yv4, hyv4, ev4⟩ := hv4.gen
  rw [ev4]
  extract_lets +onlyGivenNames v5
  clear_value v5
  extract_lets +onlyGivenNames v6
  clear_value v6
  extract_lets +onlyGivenNames v7
  clear_value v7
  extract_lets +onlyGivenNames v8
  clear_value v8
  extract_lets +onlyGivenNames v9
  refine .ite ?_ ?_
  · exact h
  · refine .ite ?_ ?_
    · exact hyv4
    · refine .upd yv4 ?_ (⟨rfl, rfl, rfl⟩) (fun h => h) (fun h => h)
      exact hyv4

theorem State.stepStat_keeps {r0 : State} {s : State} {r : StepRec} {st : Nat} {code : Nat} (h : r0.Keeps s) : r0.Keeps (s.stepStat r st code) := by
  unfold State.stepStat
  extract_lets +onlyGivenNames v1
  clear_value v1
  extract_lets +onlyGivenNames v2
  clear_value v2
  extract_lets +onlyGivenNames v3
  extract_lets +onlyGivenNames v4
  have hv4 : r0.Keeps v4 := by
    unfold v4
    refine .upd s ?_ (⟨rfl, rfl, rfl⟩) (fun h => h) (fun h => h)
    exact h
  obtain ⟨yv4, hyv4, ev4⟩ := hv4.gen
  rw [ev4]
  refine .ite ?_ ?_
  · exact h
  · refine .ite ?_ ?_
    · refine State.cause_keeps ?_
      exact hyv4
    · exact hyv4

theorem State.stepIssue_keeps {r0 : State} {s : State} {r : StepRec} (h : r0.Keeps s) : r0.Keeps (s.stepIssue r) := by
  unfold State.stepIssue
  extract_lets +onlyGivenNames v1
  have hv1 : r0.Keeps v1 := by
    unfold v1
    refine State.stepStat_keeps ?_
    exact h
  obtain ⟨yv1, hyv1, ev1⟩ := hv1.gen
  rw [ev1]
  extract_lets +onlyGivenNames v2
  refine .upd yv1 ?_ (⟨rfl, rfl, rfl⟩) (fun h => h) (fun h => h)
  exact hyv1

theorem State.visibleStep_keeps {r0 : State} {s : State} {op : Nat} {token : BitVec 16} (h : r0.Keeps s) : r0.Keeps (s.visibleStep op token) := by
  unfold State.visibleStep
  refine .ite ?_ ?_
  · exact h
  · refine State.stepIssue_keeps ?_
    exact h

theorem State.bodkinStep_keeps {r0 : State} {s : State} {op : Nat} {o0 : Nat} {o1 : Nat} {o2 : Nat} {o3 : Nat} (h : r0.Keeps s) : r0.Keeps (s.bodkinStep op o0 o1 o2 o3) := by
  unfold State.bodkinStep
  extract_lets +onlyGivenNames v1
  refine State.stepIssue_keeps ?_
  exact h

theorem State.stepCancel_keeps {r0 : State} {s : State} {r : StepRec} (h : r0.Keeps s) : r0.Keeps (s.stepCancel r) := by
  unfold State.stepCancel
  extract_lets +onlyGivenNames v1
  extract_lets +onlyGivenNames v2
  have hv2 : r0.Keeps v2 := by
    unfold v2
    refine .upd s ?_ (⟨rfl, rfl, rfl⟩) (fun h => h) (fun h => h)
    exact h
  obtain ⟨yv2, hyv2, ev2⟩ := hv2.gen
  rw [ev2]
  extract_lets +onlyGivenNames v3
  extract_lets +onlyGivenNames v4
  have hv4 : r0.Keeps v4 := by
    unfold v4
    refine .upd s ?_ (⟨rfl, rfl, rfl⟩) (fun h => h) (fun h => h)
    exact h
  obtain ⟨yv4, hyv4, ev4⟩ := hv4.gen
  rw [ev4]
  split
  · rename_i y5 y6 y7
    refine .ite ?_ ?_
    · refine State.stepStat_keeps ?_
      exact hyv2
    · refine State.stepStat_keeps ?_
      exact hyv2
  · rename_i y8 y9
    refine State.stepStat_keeps ?_
    exact hyv4

theorem State.stepCheck_keeps {r0 : State} {s : State} {warpIntact : Bool} {weftIntact : Bool} (h : r0.Keeps s) : r0.Keeps (s.stepCheck warpIntact weftIntact) := by
  unfold State.stepCheck
  extract_lets +onlyGivenNames v1
  split
  · rename_i y3 y4
    exact h
  · rename_i y5 y6 y7 y8
    extract_lets +onlyGivenNames v9
    have hv9 : r0.Keeps v9 := by
      unfold v9
      refine .upd s ?_ (⟨rfl, rfl, rfl⟩) (fun h => h) (fun h => h)
      exact h
    obtain ⟨yv9, hyv9, ev9⟩ := hv9.gen
    extract_lets +onlyGivenNames v10
    extract_lets +onlyGivenNames v11
    have hv11 : r0.Keeps v11 := by
      unfold v11
      refine State.stepStat_keeps ?_
      exact hv9
    obtain ⟨yv11, hyv11, ev11⟩ := hv11.gen
    rw [ev11]
    extract_lets +onlyGivenNames v12
    extract_lets +onlyGivenNames v13
    refine .ite ?_ ?_
    · refine .ite ?_ ?_
      · refine .upd yv11 ?_ (⟨rfl, rfl, rfl⟩) (fun h => h) (fun h => h)
        exact hyv11
      · exact hyv11
    · refine .ite ?_ ?_
      · refine State.stepCancel_keeps ?_
        exact hv9
      · refine State.stepStat_keeps ?_
        refine .upd v9 ?_ (⟨rfl, rfl, rfl⟩) (fun h => h) (fun h => h)
        exact hv9

theorem State.recordChange_keeps {r0 : State} {s : State} {bodkin : Bool} {op : Nat} {change : Int} (h : r0.Keeps s) : r0.Keeps (s.recordChange bodkin op change) := by
  unfold State.recordChange
  extract_lets +onlyGivenNames v1
  clear_value v1
  extract_lets +onlyGivenNames v2
  extract_lets +onlyGivenNames v3
  have hv3 : r0.Keeps v3 := by
    unfold v3
    refine .upd s ?_ (⟨rfl, rfl, rfl⟩) (fun h => h) (fun h => h)
    exact h
  obtain ⟨yv3, hyv3, ev3⟩ := hv3.gen
  rw [ev3]
  refine State.log_keeps ?_
  exact hyv3

theorem State.afterStep_keeps {r0 : State} {s : State} {change : Int} {bo : Rat} (h : r0.Keeps s) : r0.Keeps (s.afterStep change bo) := by
  unfold State.afterStep
  extract_lets +onlyGivenNames v1
  extract_lets +onlyGivenNames v2
  extract_lets +onlyGivenNames v3
  extract_lets +onlyGivenNames v4
  extract_lets +onlyGivenNames v5
  extract_lets +onlyGivenNames v6
  extract_lets +onlyGivenNames v7
  extract_lets +onlyGivenNames v8
  extract_lets +onlyGivenNames v9
  extract_lets +onlyGivenNames v10
  clear_value v10
  extract_lets +onlyGivenNames v11
  extract_lets +onlyGivenNames v12
  split
  · rename_i y13 y14 y15 y16
    refine State.refreshLeap_keeps ?_
    refine State.countN_keeps ?_
    refine .upd s ?_ (⟨rfl, rfl, rfl⟩) (fun h => h) (by simp +zetaDelta only [updAt_length, putAt_length, List.length_map, List.length_mapIdx]; exact fun h => h)
    exact h

theorem State.setWarp_keeps {r0 : State} {s : State} {t : Int} {change : Int} {weftTo : Option Nat} (h : r0.Keeps s) : r0.Keeps (s.setWarp t change weftTo) := by
  unfold State.setWarp
  extract_lets +onlyGivenNames v1
  clear_value v1
  extract_lets +onlyGivenNames v2
  clear_value v2
  split
  · rename_i y4 y5 y6 y7
    extract_lets +onlyGivenNames v8
    refine .upd y6 ?_ (⟨rfl, rfl, rfl⟩) (fun h => h) (fun h => h)
    refine .snd y7 ?_
    split
    · rename_i y9
      dsimp only
      exact h
    · rename_i y10
      dsimp only
      refine State.draw_keeps ?_
      exact h

theorem State.applySet_keeps {r0 : State} {s : State} {r : StepRec} (h : r0.Keeps s) : r0.Keeps (s.applySet r) := by
  unfold State.applySet
  extract_lets +onlyGivenNames v1
  clear_value v1
  extract_lets +onlyGivenNames v2
  clear_value v2
  extract_lets +onlyGivenNames v3
  clear_value v3
  extract_lets +onlyGivenNames v4
  clear_value v4
  extract_lets +onlyGivenNames v5
  have hv5 : r0.Keeps v5 := by
    unfold v5
    refine State.putStep_keeps ?_
    refine State.setWarp_keeps ?_
    refine State.bwStep_keeps ?_
    exact h
  obtain ⟨yv5, hyv5, ev5⟩ := hv5.gen
  rw [ev5]
  extract_lets +onlyGivenNames v6
  extract_lets +onlyGivenNames v7
  extract_lets +onlyGivenNames v8
  extract_lets +onlyGivenNames v9
  have hv9 : r0.Keeps v9 := by
    unfold v9
    refine .upd yv5 ?_ (⟨rfl, rfl, rfl⟩) (fun h => h) (fun h => h)
    exact hyv5
  obtain ⟨yv9, hyv9, ev9⟩ := hv9.gen
  rw [ev9]
  refine State.stepStat_keeps ?_
  refine State.recordChange_keeps ?_
  refine State.afterStep_keeps ?_
  exact hyv9

theorem State.applyStep_keeps {r0 : State} {s : State} {r : StepRec} (h : r0.Keeps s) : r0.Keeps (s.applyStep r) := by
  unfold State.applyStep
  extract_lets +onlyGivenNames v1
  clear_value v1
  extract_lets +onlyGivenNames v2
  clear_value v2
  extract_lets +onlyGivenNames v3
  have hv3 : r0.Keeps v3 := by
    unfold v3
    refine State.putStep_keeps ?_
    refine State.setWarp_keeps ?_
    refine State.bwStep_keeps ?_
    exact h
  obtain ⟨yv3, hyv3, ev3⟩ := hv3.gen
  rw [ev3]
  extract_lets +onlyGivenNames v4
  extract_lets +onlyGivenNames v5
  have hv5 : r0.Keeps v5 := by
    unfold v5
    refine .upd yv3 ?_ (⟨rfl, rfl, rfl⟩) (fun h => h) (fun h => h)
    exact hyv3
  obtain ⟨yv5, hyv5, ev5⟩ := hv5.gen
  rw [ev5]
  refine State.stepStat_keeps ?_
  refine State.recordChange_keeps ?_
  refine State.afterStep_keeps ?_
  exact hyv5

theorem State.startSlew_keeps {r0 : State} {s : State} {r : StepRec} (h : r0.Keeps s) : r0.Keeps (s.startSlew r) := by
  unfold State.startSlew
  extract_lets +onlyGivenNames v1
  extract_lets +onlyGivenNames v2
  have hv2 : r0.Keeps v2 := by
    unfold v2
    refine State.qAccrue_keeps ?_
    exact h
  obtain ⟨yv2, hyv2, ev2⟩ := hv2.gen
  rw [ev2]
  extract_lets +onlyGivenNames v3
  extract_lets +onlyGivenNames v4
  have hv4 : r0.Keeps v4 := by
    unfold v4
    refine .upd yv2 ?_ (⟨rfl, rfl, rfl⟩) (fun h => h) (fun h => h)
    exact hyv2
  obtain ⟨yv4, hyv4, ev4⟩ := hv4.gen
  rw [ev4]
  refine State.stepStat_keeps ?_
  refine State.putStep_keeps ?_
  exact hyv4

theorem State.stepApply_keeps {r0 : State} {s : State} {warpStands : Bool} {weftStands : Bool} (h : r0.Keeps s) : r0.Keeps (s.stepApply warpStands weftStands) := by
  unfold State.stepApply
  extract_lets +onlyGivenNames v1
  split
  · rename_i y3 y4
    exact h
  · rename_i y5 y6 y7
    extract_lets +onlyGivenNames v8
    have hv8 : r0.Keeps v8 := by
      unfold v8
      refine State.stepStat_keeps ?_
      refine .upd s ?_ (⟨rfl, rfl, rfl⟩) (fun h => h) (fun h => h)
      exact h
    obtain ⟨yv8, hyv8, ev8⟩ := hv8.gen
    rw [ev8]
    extract_lets +onlyGivenNames v9
    refine .ite ?_ ?_
    · exact h
    · refine .ite ?_ ?_
      · refine .ite ?_ ?_
        · refine .upd yv8 ?_ (⟨rfl, rfl, rfl⟩) (fun h => h) (fun h => h)
          exact hyv8
        · exact hyv8
      · split
        · rename_i y10 y11
          refine State.applySet_keeps ?_
          exact h
        · rename_i y12 y13
          refine State.applyStep_keeps ?_
          exact h
        · rename_i y14 y15 y16
          refine State.startSlew_keeps ?_
          exact h

theorem State.endSlew_keeps {r0 : State} {s : State} {x : SlewRec} {change : Int} (h : r0.Keeps s) : r0.Keeps (s.endSlew x change) := by
  unfold State.endSlew
  extract_lets +onlyGivenNames v1
  extract_lets +onlyGivenNames v2
  extract_lets +onlyGivenNames v3
  extract_lets +onlyGivenNames v4
  have hv4 : r0.Keeps v4 := by
    unfold v4
    refine .upd s ?_ (⟨rfl, rfl, rfl⟩) (fun h => h) (fun h => h)
    exact h
  obtain ⟨yv4, hyv4, ev4⟩ := hv4.gen
  rw [ev4]
  extract_lets +onlyGivenNames v5
  have hv5 : r0.Keeps v5 := by
    unfold v5
    refine State.recordChange_keeps ?_
    refine State.putStep_keeps ?_
    exact hyv4
  obtain ⟨yv5, hyv5, ev5⟩ := hv5.gen
  rw [ev5]
  refine State.stepStat_keeps ?_
  exact hyv5

theorem State.slewTick_keeps {r0 : State} {s : State} (h : r0.Keeps s) : r0.Keeps s.slewTick := by
  unfold State.slewTick
  extract_lets +onlyGivenNames v1
  have hv1 : r0.Keeps v1 := by
    unfold v1
    refine State.qAccrue_keeps ?_
    exact h
  obtain ⟨yv1, hyv1, ev1⟩ := hv1.gen
  rw [ev1]
  extract_lets +onlyGivenNames v2
  extract_lets +onlyGivenNames v3
  split
  · rename_i y5 y6
    exact h
  · rename_i y7 y8 y9
    extract_lets +onlyGivenNames v10
    clear_value v10
    extract_lets +onlyGivenNames v11
    extract_lets +onlyGivenNames v12
    clear_value v12
    extract_lets +onlyGivenNames v13
    have hv13 : r0.Keeps v13 := by
      unfold v13
      refine .upd yv1 ?_ (⟨rfl, rfl, rfl⟩) (fun h => h) (fun h => h)
      exact hyv1
    obtain ⟨yv13, hyv13, ev13⟩ := hv13.gen
    rw [ev13]
    refine .ite ?_ ?_
    · exact h
    · refine .ite ?_ ?_
      · refine State.endSlew_keeps ?_
        exact hyv13
      · refine .ite ?_ ?_
        · refine State.endSlew_keeps ?_
          exact hyv13
        · exact hyv13

theorem State.leapEvent_keeps {r0 : State} {s : State} (h : r0.Keeps s) : r0.Keeps s.leapEvent := by
  unfold State.leapEvent
  refine State.refreshLeap_keeps ?_
  exact h

end Sys2Proof.Machine
end

