-- ==== Sys2Proof/Laws/KeepServo.lean ====
section
/-! SUPPORT. What the operations of Machine/Servo.lean keep. -/

set_option Elab.async false
set_option linter.unusedVariables false
set_option linter.unusedSimpArgs false

namespace Sys2Proof.Machine

open Sys2Proof

theorem State.newHold_keeps {r0 : State} {s : State} {y0 : Rat} {follows : Bool} (h : r0.Keeps s) : r0.Keeps (s.newHold y0 follows) := by
  unfold State.newHold
  extract_lets +onlyGivenNames v1
  clear_value v1
  extract_lets +onlyGivenNames v2
  extract_lets +onlyGivenNames v3
  refine State.freezeWeft_keeps ?_
  refine .upd s ?_ (⟨rfl, rfl, rfl⟩) (fun h => h) (fun h => h)
  exact h

theorem State.beginHold_keeps {r0 : State} {s : State} {y0 : Rat} (h : r0.Keeps s) : r0.Keeps (s.beginHold y0) := by
  unfold State.beginHold
  refine .ite ?_ ?_
  · refine State.freezeWeft_keeps ?_
    exact h
  · refine State.newHold_keeps ?_
    exact h

theorem State.setY_keeps {r0 : State} {s : State} {y : Rat} (h : r0.Keeps s) : r0.Keeps (s.setY y) := by
  unfold State.setY
  extract_lets +onlyGivenNames v1
  have hv1 : r0.Keeps v1 := by
    unfold v1
    refine State.qAccrue_keeps ?_
    exact h
  obtain ⟨yv1, hyv1, ev1⟩ := hv1.gen
  rw [ev1]
  extract_lets +onlyGivenNames v2
  refine .upd yv1 ?_ (⟨rfl, rfl, rfl⟩) (fun h => h) (fun h => h)
  exact hyv1

theorem State.loopStep_keeps {r0 : State} {s : State} {i : Nat} {z : Int} {tm : Rat} (h : r0.Keeps s) : r0.Keeps (s.loopStep i z tm) := by
  unfold State.loopStep
  extract_lets +onlyGivenNames v1
  clear_value v1
  extract_lets +onlyGivenNames v2
  clear_value v2
  extract_lets +onlyGivenNames v3
  clear_value v3
  extract_lets +onlyGivenNames v4
  clear_value v4
  extract_lets +onlyGivenNames v5
  clear_value v5
  extract_lets +onlyGivenNames v6
  clear_value v6
  extract_lets +onlyGivenNames v7
  clear_value v7
  extract_lets +onlyGivenNames v8
  clear_value v8
  extract_lets +onlyGivenNames v9
  clear_value v9
  extract_lets +onlyGivenNames v10
  extract_lets +onlyGivenNames v11
  extract_lets +onlyGivenNames v12
  refine State.setY_keeps ?_
  refine .upd s ?_ (⟨rfl, rfl, rfl⟩) (fun h => h) (fun h => h)
  exact h

theorem State.followError_keeps {r0 : State} {s : State} (h : r0.Keeps s) : r0.Keeps s.followError := by
  unfold State.followError
  extract_lets +onlyGivenNames v1
  extract_lets +onlyGivenNames v2
  clear_value v2
  extract_lets +onlyGivenNames v3
  clear_value v3
  extract_lets +onlyGivenNames v4
  extract_lets +onlyGivenNames v5
  clear_value v5
  extract_lets +onlyGivenNames v6
  refine .ite ?_ ?_
  · refine .upd s ?_ (⟨rfl, rfl, rfl⟩) (fun h => h) (fun h => h)
    exact h
  · refine State.latchUnmute_keeps ?_
    refine .upd s ?_ (⟨rfl, rfl, rfl⟩) (fun h => h) (fun h => h)
    exact h

theorem State.issueSet_keeps {r0 : State} {s : State} {z : Int} (h : r0.Keeps s) : r0.Keeps (s.issueSet z) := by
  unfold State.issueSet
  extract_lets +onlyGivenNames v1
  clear_value v1
  extract_lets +onlyGivenNames v2
  clear_value v2
  extract_lets +onlyGivenNames v3
  clear_value v3
  refine .ite ?_ ?_
  · exact h
  · refine State.bodkinStep_keeps ?_
    exact h

theorem State.removeError_keeps {r0 : State} {s : State} (h : r0.Keeps s) : r0.Keeps s.removeError := by
  unfold State.removeError
  extract_lets +onlyGivenNames v1
  clear_value v1
  extract_lets +onlyGivenNames v2
  clear_value v2
  extract_lets +onlyGivenNames v3
  refine .ite ?_ ?_
  · exact h
  · refine .ite ?_ ?_
    · refine State.bodkinStep_keeps ?_
      exact h
    · refine State.bodkinStep_keeps ?_
      refine .upd s ?_ (⟨rfl, rfl, rfl⟩) (fun h => h) (fun h => h)
      exact h

theorem State.takeZ_keeps {r0 : State} {s : State} {i : Nat} (h : r0.Keeps s) : r0.Keeps (s.takeZ i).2 := by
  unfold State.takeZ
  split
  · rename_i y1
    dsimp only
    refine State.setRef_keeps ?_
    exact h
  · rename_i y2
    dsimp only
    exact h

theorem State.windowUpdate_keeps {r0 : State} {s : State} {w : Window} (h : r0.Keeps s) : r0.Keeps (s.windowUpdate w) := by
  unfold State.windowUpdate
  extract_lets +onlyGivenNames v1
  clear_value v1
  extract_lets +onlyGivenNames v2
  have hv2 : r0.Keeps v2 := by
    unfold v2
    refine State.setY_keeps ?_
    exact h
  obtain ⟨yv2, hyv2, ev2⟩ := hv2.gen
  rw [ev2]
  split
  · rename_i y4 y5 y6
    refine .snd y6 ?_
    refine State.takeZ_keeps ?_
    exact hyv2
  · rename_i y7 y8 y9 y10
    extract_lets +onlyGivenNames v11
    extract_lets +onlyGivenNames v12
    have hv12 : r0.Keeps v12 := by
      unfold v12
      refine .upd y9 ?_ (⟨rfl, rfl, rfl⟩) (fun h => h) (fun h => h)
      refine .snd y10 ?_
      refine State.takeZ_keeps ?_
      exact hyv2
    obtain ⟨yv12, hyv12, ev12⟩ := hv12.gen
    rw [ev12]
    refine .ite ?_ ?_
    · refine State.issueSet_keeps ?_
      exact hyv12
    · exact hyv12

theorem State.trackUpdate_keeps {r0 : State} {s : State} {i : Nat} (h : r0.Keeps s) : r0.Keeps (s.trackUpdate i) := by
  unfold State.trackUpdate
  split
  · rename_i y2 y3 y4 y5
    extract_lets +onlyGivenNames v6
    clear_value v6
    extract_lets +onlyGivenNames v7
    have hv7 : r0.Keeps v7 := by
      unfold v7
      refine State.loopStep_keeps ?_
      refine .snd y5 ?_
      refine State.takeZ_keeps ?_
      exact h
    obtain ⟨yv7, hyv7, ev7⟩ := hv7.gen
    rw [ev7]
    refine .ite ?_ ?_
    · refine State.issueSet_keeps ?_
      exact hyv7
    · exact hyv7
  · rename_i y8 y9 y10
    extract_lets +onlyGivenNames v11
    refine .upd y9 ?_ (⟨rfl, rfl, rfl⟩) (fun h => h) (fun h => h)
    refine .snd y10 ?_
    refine State.takeZ_keeps ?_
    exact h

theorem State.retryRemoval_keeps {r0 : State} {s : State} (h : r0.Keeps s) : r0.Keeps s.retryRemoval := by
  unfold State.retryRemoval
  extract_lets +onlyGivenNames v1
  refine .ite ?_ ?_
  · refine State.removeError_keeps ?_
    refine .upd s ?_ (⟨rfl, rfl, rfl⟩) (fun h => h) (fun h => h)
    exact h
  · exact h

theorem State.servoUpdate_keeps {r0 : State} {s : State} (h : r0.Keeps s) : r0.Keeps s.servoUpdate := by
  unfold State.servoUpdate
  extract_lets +onlyGivenNames v1
  extract_lets +onlyGivenNames v2
  have hv2 : r0.Keeps v2 := by
    unfold v2
    refine .upd s ?_ (⟨rfl, rfl, rfl⟩) (fun h => h) (fun h => h)
    exact h
  obtain ⟨yv2, hyv2, ev2⟩ := hv2.gen
  extract_lets +onlyGivenNames v3
  have hv3 : r0.Keeps v3 := by
    unfold v3
    split
    · rename_i y4 y5 y6 y7 y8 y9
      refine State.windowUpdate_keeps ?_
      exact hv2
    · rename_i y10 y11 y12 y13 y14 y15
      refine State.trackUpdate_keeps ?_
      exact hv2
    · rename_i y16 y17 y18 y19 y20
      exact hv2
  obtain ⟨yv3, hyv3, ev3⟩ := hv3.gen
  extract_lets +onlyGivenNames v21
  have hv21 : r0.Keeps v21 := by
    unfold v21
    refine State.followError_keeps ?_
    refine State.retryRemoval_keeps ?_
    exact hv3
  obtain ⟨yv21, hyv21, ev21⟩ := hv21.gen
  extract_lets +onlyGivenNames v22
  extract_lets +onlyGivenNames v23
  clear_value v23
  extract_lets +onlyGivenNames v24
  clear_value v24
  extract_lets +onlyGivenNames v25
  refine .ite ?_ ?_
  · exact h
  · refine .ite ?_ ?_
    · exact hv2
    · refine .upd v21 ?_ (⟨rfl, rfl, rfl⟩) (fun h => h) (fun h => h)
      exact hv21

theorem State.fastlockHalve_keeps {r0 : State} {s : State} (h : r0.Keeps s) : r0.Keeps s.fastlockHalve := by
  unfold State.fastlockHalve
  extract_lets +onlyGivenNames v1
  clear_value v1
  extract_lets +onlyGivenNames v2
  split
  · rename_i y3 y4
    exact h
  · rename_i y5 y6 y7
    refine .ite ?_ ?_
    · refine .upd s ?_ (⟨rfl, rfl, rfl⟩) (fun h => h) (fun h => h)
      exact h
    · exact h

theorem State.startFast_keeps {r0 : State} {s : State} {i : Nat} (h : r0.Keeps s) : r0.Keeps (s.startFast i) := by
  unfold State.startFast
  extract_lets +onlyGivenNames v1
  refine .ite ?_ ?_
  · refine .upd s ?_ (⟨rfl, rfl, rfl⟩) (fun h => h) (fun h => h)
    exact h
  · refine .upd s ?_ (⟨rfl, rfl, rfl⟩) (fun h => h) (fun h => h)
    exact h

theorem State.acquireEntry_keeps {r0 : State} {s : State} (h : r0.Keeps s) : r0.Keeps s.acquireEntry := by
  unfold State.acquireEntry
  extract_lets +onlyGivenNames v1
  extract_lets +onlyGivenNames v2
  have hv2 : r0.Keeps v2 := by
    unfold v2
    refine .upd s ?_ (⟨rfl, rfl, rfl⟩) (fun h => h) (fun h => h)
    exact h
  obtain ⟨yv2, hyv2, ev2⟩ := hv2.gen
  rw [ev2]
  extract_lets +onlyGivenNames v3
  split
  · rename_i y4 y5 y6 y7 y8
    refine .ite ?_ ?_
    · refine State.startFast_keeps ?_
      refine State.setY_keeps ?_
      refine .upd yv2 ?_ (⟨rfl, rfl, rfl⟩) (fun h => h) (fun h => h)
      exact hyv2
    · refine .upd yv2 ?_ (⟨rfl, rfl, rfl⟩) (fun h => h) (fun h => h)
      exact hyv2
  · rename_i y9 y10 y11
    exact h

theorem State.cancelSlew_keeps {r0 : State} {s : State} (h : r0.Keeps s) : r0.Keeps s.cancelSlew := by
  unfold State.cancelSlew
  refine .ite ?_ ?_
  · refine State.bodkinStep_keeps ?_
    exact h
  · exact h

theorem State.beginSplice_keeps {r0 : State} {s : State} {new : Option Nat} {elig : List Nat} {oldPasses : Bool} {again : Bool} (h : r0.Keeps s) :
    r0.Keeps (s.beginSplice new elig oldPasses again) := by
  unfold State.beginSplice
  extract_lets b s1 temp _ v _ s2
  have h1 : r0.Keeps s1 :=
    .ite h (.upd _ (State.setY_keeps (State.count_keeps (State.cancelSlew_keeps h))) ⟨rfl, rfl, rfl⟩ (fun h => h) (fun h => h))
  clear_value s1
  have h2 : r0.Keeps s2 := .upd s1 h1 ⟨rfl, rfl, rfl⟩ (fun h => h) (fun h => h)
  clear_value s2
  split
  · exact State.thawWeft_keeps (State.setRef_keeps (.upd s2 h2 ⟨rfl, rfl, rfl⟩ (fun h => h) (fun h => h)))
  · exact State.beginHold_keeps (State.setY_keeps (.upd s2 h2 ⟨rfl, rfl, rfl⟩ (fun h => h) (fun h => h)))

theorem State.holdPredict_keeps {r0 : State} {s : State} (h : r0.Keeps s) : r0.Keeps s.holdPredict := by
  unfold State.holdPredict
  extract_lets +onlyGivenNames v1
  extract_lets +onlyGivenNames v2
  split
  · rename_i y4 y5
    exact h
  · rename_i y6 y7 y8
    extract_lets +onlyGivenNames v9
    clear_value v9
    extract_lets +onlyGivenNames v10
    clear_value v10
    extract_lets +onlyGivenNames v11
    extract_lets +onlyGivenNames v12
    clear_value v12
    extract_lets +onlyGivenNames v13
    have hv13 : r0.Keeps v13 := by
      unfold v13
      refine .upd s ?_ (⟨rfl, rfl, rfl⟩) (fun h => h) (fun h => h)
      exact h
    obtain ⟨yv13, hyv13, ev13⟩ := hv13.gen
    rw [ev13]
    extract_lets +onlyGivenNames v14
    have hv14 : r0.Keeps v14 := by
      unfold v14
      refine .ite ?_ ?_
      · refine State.setY_keeps ?_
        exact hyv13
      · exact hyv13
    obtain ⟨yv14, hyv14, ev14⟩ := hv14.gen
    rw [ev14]
    refine .ite ?_ ?_
    · exact h
    · refine State.applyMute_keeps ?_
      exact hyv14

theorem State.modelFit_keeps {r0 : State} {s : State} (h : r0.Keeps s) : r0.Keeps s.modelFit := by
  unfold State.modelFit
  extract_lets +onlyGivenNames v1
  clear_value v1
  extract_lets +onlyGivenNames v2
  extract_lets +onlyGivenNames v3
  have hv3 : r0.Keeps v3 := by
    unfold v3
    refine .upd s ?_ (⟨rfl, rfl, rfl⟩) (fun h => h) (fun h => h)
    exact h
  obtain ⟨yv3, hyv3, ev3⟩ := hv3.gen
  extract_lets +onlyGivenNames v4
  extract_lets +onlyGivenNames v5
  extract_lets +onlyGivenNames v6
  have hv6 : r0.Keeps v6 := by
    unfold v6
    refine .upd v3 ?_ (⟨rfl, rfl, rfl⟩) (fun h => h) (fun h => h)
    exact hv3
  obtain ⟨yv6, hyv6, ev6⟩ := hv6.gen
  extract_lets +onlyGivenNames v7
  extract_lets +onlyGivenNames v8
  clear_value v8
  extract_lets +onlyGivenNames v9
  refine .ite ?_ ?_
  · exact h
  · refine .upd v6 ?_ (⟨rfl, rfl, rfl⟩) (fun h => h) (fun h => h)
    exact hv6

theorem State.writeModel_keeps {r0 : State} {s : State} (h : r0.Keeps s) : r0.Keeps s.writeModel := by
  unfold State.writeModel
  extract_lets c _ fe
  have hf : fe.slots = s.fe.slots ∧ fe.kept = s.fe.kept := by constructor <;> (unfold fe; split <;> rfl)
  refine .upd s h ⟨rfl, rfl, rfl⟩ (fun k => ?_) (fun h => h)
  rw [hf.1, hf.2]
  exact k

theorem State.modelCopyWrite_keeps {r0 : State} {s : State} (h : r0.Keeps s) : r0.Keeps s.modelCopyWrite := by
  unfold State.modelCopyWrite
  refine .ite ?_ ?_
  · refine State.writeModel_keeps ?_
    exact h
  · exact h

theorem State.srvCtl_keeps {r0 : State} {s : State} {token : BitVec 16} {code : Nat} (h : r0.Keeps s) : r0.Keeps (s.srvCtl token code) := by
  unfold State.srvCtl
  extract_lets +onlyGivenNames v1
  refine .upd s ?_ (⟨rfl, rfl, rfl⟩) (fun h => h) (fun h => h)
  exact h

theorem State.forgetModel_keeps {r0 : State} {s : State} {token : BitVec 16} (h : r0.Keeps s) : r0.Keeps (s.forgetModel token) := by
  unfold State.forgetModel
  extract_lets +onlyGivenNames v1
  extract_lets +onlyGivenNames v2
  extract_lets +onlyGivenNames v3
  extract_lets +onlyGivenNames v4
  refine .ite ?_ ?_
  · exact h
  · refine .ite ?_ ?_
    · refine State.srvCtl_keeps ?_
      refine .upd s ?_ (⟨rfl, rfl, rfl⟩) (fun h => h) (fun h => h)
      exact h
    · refine State.srvCtl_keeps ?_
      exact h

theorem State.servoFreeze_keeps {r0 : State} {s : State} (h : r0.Keeps s) : r0.Keeps s.servoFreeze := by
  unfold State.servoFreeze
  extract_lets +onlyGivenNames v1
  have hv1 : r0.Keeps v1 := by
    unfold v1
    refine State.cancelSlew_keeps ?_
    exact h
  obtain ⟨yv1, hyv1, ev1⟩ := hv1.gen
  rw [ev1]
  extract_lets +onlyGivenNames v2
  extract_lets +onlyGivenNames v3
  have hv3 : r0.Keeps v3 := by
    unfold v3
    refine .upd yv1 ?_ (⟨rfl, rfl, rfl⟩) (fun h => h) (fun h => h)
    exact hyv1
  obtain ⟨yv3, hyv3, ev3⟩ := hv3.gen
  rw [ev3]
  refine .ite ?_ ?_
  · refine State.freezeWeft_keeps ?_
    exact hyv3
  · refine State.newHold_keeps ?_
    exact hyv3

end Sys2Proof.Machine
end

