-- ==== Sys2Proof/Laws/KeepRefs.lean ====
section
/-! SUPPORT. What the operations of Machine/Refs.lean keep. -/

set_option Elab.async false
set_option linter.unusedVariables false
set_option linter.unusedSimpArgs false

namespace Sys2Proof.Machine

open Sys2Proof

theorem State.leaves_keeps {r0 : State} {s : State} {i : Nat} (h : r0.Keeps s) : r0.Keeps (s.leaves i) := by
  unfold State.leaves
  extract_lets +onlyGivenNames v1
  have hv1 : r0.Keeps v1 := by
    unfold v1
    refine State.count_keeps ?_
    exact h
  obtain ⟨yv1, hyv1, ev1⟩ := hv1.gen
  rw [ev1]
  extract_lets +onlyGivenNames v2
  refine .ite ?_ ?_
  · refine .upd yv1 ?_ (⟨rfl, rfl, rfl⟩) (fun h => h) (fun h => h)
    exact hyv1
  · exact h

theorem State.refreshSel_keeps {r0 : State} {s : State} (h : r0.Keeps s) : r0.Keeps s.refreshSel := by
  unfold State.refreshSel
  extract_lets +onlyGivenNames v1
  extract_lets +onlyGivenNames v2
  refine .ite ?_ ?_
  · exact h
  · refine .upd s ?_ (⟨rfl, rfl, rfl⟩) (fun h => h) (fun h => h)
    exact h

theorem State.toDisq_keeps {r0 : State} {s : State} {i : Nat} {mark : RefSt → RefSt} (h : r0.Keeps s) : r0.Keeps (s.toDisq i mark) := by
  unfold State.toDisq
  refine .ite ?_ ?_
  · refine State.setRef_keeps ?_
    exact h
  · refine State.refreshSel_keeps ?_
    refine State.setRef_keeps ?_
    refine State.leaves_keeps ?_
    exact h

theorem State.markSel_keeps {r0 : State} {s : State} {new : Option Nat} {reason : Nat} (h : r0.Keeps s) : r0.Keeps (s.markSel new reason) := by
  unfold State.markSel
  extract_lets +onlyGivenNames v1
  clear_value v1
  extract_lets +onlyGivenNames v2
  have hv2 : r0.Keeps v2 := by
    unfold v2
    split
    · rename_i y3 y4
      refine .ite ?_ ?_
      · refine State.setRef_keeps ?_
        exact h
      · exact h
    · rename_i y5
      exact h
  obtain ⟨yv2, hyv2, ev2⟩ := hv2.gen
  rw [ev2]
  extract_lets +onlyGivenNames v6
  have hv6 : r0.Keeps v6 := by
    unfold v6
    split
    · rename_i y7 y8
      refine State.setRef_keeps ?_
      exact hyv2
    · rename_i y9
      exact hyv2
  obtain ⟨yv6, hyv6, ev6⟩ := hv6.gen
  rw [ev6]
  extract_lets +onlyGivenNames v10
  extract_lets +onlyGivenNames v11
  extract_lets +onlyGivenNames v12
  extract_lets +onlyGivenNames v13
  extract_lets +onlyGivenNames v14
  extract_lets +onlyGivenNames v15
  have hv15 : r0.Keeps v15 := by
    unfold v15
    refine .upd yv6 ?_ (⟨rfl, rfl, rfl⟩) (fun h => h) (fun h => h)
    exact hyv6
  obtain ⟨yv15, hyv15, ev15⟩ := hv15.gen
  rw [ev15]
  refine .ite ?_ ?_
  · exact hyv15
  · refine State.cause_keeps ?_
    refine State.count_keeps ?_
    exact hyv15

theorem State.switchTo_keeps {r0 : State} {s : State} {new : Option Nat} {reason : Nat} {again : Bool} (h : r0.Keeps s) : r0.Keeps (s.switchTo new reason again) := by
  unfold State.switchTo
  extract_lets +onlyGivenNames v1
  have hv1 : r0.Keeps v1 := by
    unfold v1
    refine State.markSel_keeps ?_
    exact h
  obtain ⟨yv1, hyv1, ev1⟩ := hv1.gen
  rw [ev1]
  refine State.beginSplice_keeps ?_
  exact hyv1

theorem State.dropInMaintain_keeps {r0 : State} {s : State} {why : Nat} (h : r0.Keeps s) : r0.Keeps (s.dropInMaintain why) := by
  unfold State.dropInMaintain
  extract_lets +onlyGivenNames v1
  extract_lets +onlyGivenNames v2
  extract_lets +onlyGivenNames v3
  split
  · rename_i y5 y6
    exact h
  · rename_i y7 y8 y9
    extract_lets +onlyGivenNames v10
    have hv10 : r0.Keeps v10 := by
      unfold v10
      refine .upd s ?_ (⟨rfl, rfl, rfl⟩) (fun h => h) (fun h => h)
      exact h
    obtain ⟨yv10, hyv10, ev10⟩ := hv10.gen
    rw [ev10]
    refine .ite ?_ ?_
    · exact h
    · refine State.cause_keeps ?_
      refine State.count_keeps ?_
      exact hyv10

theorem State.offer_keeps {r0 : State} {s : State} {w : Window} {want : Option Nat} {why : Nat} (h : r0.Keeps s) : r0.Keeps (s.offer w want why) := by
  unfold State.offer
  extract_lets +onlyGivenNames v1
  clear_value v1
  extract_lets +onlyGivenNames v2
  clear_value v2
  extract_lets +onlyGivenNames v3
  extract_lets +onlyGivenNames v4
  have hv4 : r0.Keeps v4 := by
    unfold v4
    refine State.count_keeps ?_
    exact h
  obtain ⟨yv4, hyv4, ev4⟩ := hv4.gen
  rw [ev4]
  extract_lets +onlyGivenNames v5
  refine .ite ?_ ?_
  · exact h
  · refine .ite ?_ ?_
    · refine .upd s ?_ (⟨rfl, rfl, rfl⟩) (fun h => h) (fun h => h)
      exact h
    · refine State.switchTo_keeps ?_
      refine .upd yv4 ?_ (⟨rfl, rfl, rfl⟩) (fun h => h) (fun h => h)
      exact hyv4

theorem State.choose_keeps {r0 : State} {s : State} {why : Nat} (h : r0.Keeps s) : r0.Keeps (s.choose why) := by
  unfold State.choose
  extract_lets +onlyGivenNames v1
  clear_value v1
  extract_lets +onlyGivenNames v2
  clear_value v2
  refine .ite ?_ ?_
  · refine State.dropInMaintain_keeps ?_
    exact h
  · refine .ite ?_ ?_
    · exact h
    · split
      · rename_i y3 y4 y5 y6 y7
        refine State.offer_keeps ?_
        exact h
      · rename_i y8 y9 y10
        refine .ite ?_ ?_
        · exact h
        · refine State.switchTo_keeps ?_
          exact h

theorem State.monitorFails_keeps {r0 : State} {s : State} {i : Nat} {mark : RefSt → RefSt} (h : r0.Keeps s) : r0.Keeps (s.monitorFails i mark) := by
  unfold State.monitorFails
  extract_lets +onlyGivenNames v1
  clear_value v1
  extract_lets +onlyGivenNames v2
  have hv2 : r0.Keeps v2 := by
    unfold v2
    refine State.toDisq_keeps ?_
    exact h
  obtain ⟨yv2, hyv2, ev2⟩ := hv2.gen
  rw [ev2]
  refine .ite ?_ ?_
  · exact h
  · refine .ite ?_ ?_
    · refine State.choose_keeps ?_
      exact hyv2
    · exact hyv2

theorem State.judge_keeps {r0 : State} {s : State} {i : Nat} {w : Int} {z : Int} (h : r0.Keeps s) : r0.Keeps (s.judge i w z) := by
  unfold State.judge
  extract_lets +onlyGivenNames v1
  extract_lets +onlyGivenNames v2
  clear_value v2
  extract_lets +onlyGivenNames v3
  extract_lets +onlyGivenNames v4
  clear_value v4
  refine .ite ?_ ?_
  · refine State.monitorFails_keeps ?_
    refine State.setRef_keeps ?_
    exact h
  · refine State.setRef_keeps ?_
    exact h

theorem State.todPulse_keeps {r0 : State} {s : State} {w : Int} (h : r0.Keeps s) : r0.Keeps (s.todPulse w).2 := by
  unfold State.todPulse
  extract_lets +onlyGivenNames v1
  extract_lets +onlyGivenNames v2
  extract_lets +onlyGivenNames v3
  clear_value v3
  extract_lets +onlyGivenNames v4
  clear_value v4
  extract_lets +onlyGivenNames v5
  split
  · rename_i y6 y7
    dsimp only
    refine .upd s ?_ (⟨rfl, rfl, rfl⟩) (fun h => h) (fun h => h)
    exact h
  · rename_i y8
    dsimp only
    refine .upd s ?_ (⟨rfl, rfl, rfl⟩) (fun h => h) (fun h => h)
    exact h

theorem State.refEdge_keeps {r0 : State} {s : State} {n : Nat} {code : Nat} (h : r0.Keeps s) : r0.Keeps (s.refEdge n code) := by
  unfold State.refEdge
  extract_lets +onlyGivenNames v1
  clear_value v1
  extract_lets +onlyGivenNames v2
  have hv2 : r0.Keeps v2 := by
    unfold v2
    refine State.tacBusy_keeps ?_
    exact h
  obtain ⟨yv2, hyv2, ev2⟩ := hv2.gen
  rw [ev2]
  extract_lets +onlyGivenNames v3
  extract_lets +onlyGivenNames v4
  have hv4 : r0.Keeps v4 := by
    unfold v4
    refine State.ppsInput_keeps ?_
    exact hyv2
  obtain ⟨yv4, hyv4, ev4⟩ := hv4.gen
  rw [ev4]
  extract_lets +onlyGivenNames v5
  clear_value v5
  refine .ite ?_ ?_
  · exact h
  · refine .ite ?_ ?_
    · refine State.tacMiss_keeps ?_
      exact h
    · split
      · rename_i y9 y10
        refine State.judge_keeps ?_
        exact hyv4
      · rename_i y11 y12
        refine .ite ?_ ?_
        · refine State.monitorFails_keeps ?_
          refine State.setRef_keeps ?_
          exact hyv4
        · refine .ite ?_ ?_
          · refine State.judge_keeps ?_
            exact hyv4
          · split
            · rename_i y16 y17 y18 y19
              extract_lets +onlyGivenNames v20
              have hv20 : r0.Keeps v20 := by
                unfold v20
                refine .ite ?_ ?_
                · refine State.monitorFails_keeps ?_
                  refine .snd y19 ?_
                  refine State.todPulse_keeps ?_
                  exact hyv4
                · refine .snd y19 ?_
                  refine State.todPulse_keeps ?_
                  exact hyv4
              obtain ⟨yv20, hyv20, ev20⟩ := hv20.gen
              rw [ev20]
              split
              · rename_i y21 y22
                refine State.judge_keeps ?_
                exact hyv20
              · rename_i y23
                refine State.judge_keeps ?_
                exact hyv20

theorem State.refMeasure_keeps {r0 : State} {s : State} {id : Nat} {m : RefIn} (h : r0.Keeps s) : r0.Keeps (s.refMeasure id m) := by
  unfold State.refMeasure
  split
  · rename_i y1 y2
    refine .ite ?_ ?_
    · refine State.refEdge_keeps ?_
      exact h
    · exact h
  · rename_i y3 y4
    refine .ite ?_ ?_
    · refine State.judge_keeps ?_
      exact h
    · exact h

theorem State.refTimeout_keeps {r0 : State} {s : State} {id : Nat} {k : ActKind} (h : r0.Keeps s) : r0.Keeps (s.refTimeout id k) := by
  unfold State.refTimeout
  refine .ite ?_ ?_
  · refine State.monitorFails_keeps ?_
    refine State.setRef_keeps ?_
    exact h
  · exact h

theorem State.todMessage_keeps {r0 : State} {s : State} {baud : Nat} {bytes : List Byte} (h : r0.Keeps s) : r0.Keeps (s.todMessage baud bytes) := by
  unfold State.todMessage
  extract_lets +onlyGivenNames v1
  extract_lets +onlyGivenNames v2
  refine .ite ?_ ?_
  · exact h
  · split
    · rename_i y3 y4 y5
      refine .upd s ?_ (⟨rfl, rfl, rfl⟩) (fun h => h) (fun h => h)
      exact h
    · rename_i y6 y7
      exact h

theorem State.ensOne_keeps {r0 : State} {s : State} {i : Nat} (h : r0.Keeps s) : r0.Keeps (s.ensOne i) := by
  unfold State.ensOne
  extract_lets +onlyGivenNames v1
  extract_lets +onlyGivenNames v2
  extract_lets +onlyGivenNames v3
  extract_lets +onlyGivenNames v4
  clear_value v4
  extract_lets +onlyGivenNames v5
  clear_value v5
  extract_lets +onlyGivenNames v6
  clear_value v6
  extract_lets +onlyGivenNames v7
  extract_lets +onlyGivenNames v8
  extract_lets +onlyGivenNames v9
  clear_value v9
  extract_lets +onlyGivenNames v10
  clear_value v10
  refine .ite ?_ ?_
  · exact h
  · refine .ite ?_ ?_
    · exact h
    · refine State.setRef_keeps ?_
      exact h

theorem State.ensembleUpdate_keeps {r0 : State} {s : State} (h : r0.Keeps s) : r0.Keeps s.ensembleUpdate := by
  unfold State.ensembleUpdate
  extract_lets +onlyGivenNames v1
  extract_lets +onlyGivenNames v2
  have hv2 : r0.Keeps v2 := by
    unfold v2
    refine .upd s ?_ (⟨rfl, rfl, rfl⟩) (fun h => h) (by simp only [updAt_length, putAt_length, List.length_map, List.length_mapIdx]; exact fun h => h)
    exact h
  obtain ⟨yv2, hyv2, ev2⟩ := hv2.gen
  rw [ev2]
  refine .ite ?_ ?_
  · exact h
  · refine .foldl ?_ fun t3 a4 k5 => ?_
    · exact hyv2
    · refine State.ensOne_keeps ?_
      exact k5

theorem State.project_keeps {r0 : State} {s : State} {i : Nat} (h : r0.Keeps s) : r0.Keeps (s.project i) := by
  unfold State.project
  extract_lets +onlyGivenNames v1
  extract_lets +onlyGivenNames v2
  extract_lets +onlyGivenNames v3
  extract_lets +onlyGivenNames v4
  clear_value v4
  extract_lets +onlyGivenNames v5
  clear_value v5
  extract_lets +onlyGivenNames v6
  clear_value v6
  extract_lets +onlyGivenNames v7
  clear_value v7
  refine .ite ?_ ?_
  · exact h
  · split
    · rename_i y10 y11 y12 y13
      extract_lets +onlyGivenNames v14
      clear_value v14
      extract_lets +onlyGivenNames v15
      clear_value v15
      extract_lets +onlyGivenNames v16
      clear_value v16
      refine State.setRef_keeps ?_
      exact h

theorem State.intoWtr_keeps {r0 : State} {s : State} {i : Nat} {n : Nat} {fromDrift : Bool} {twait : Bool} (h : r0.Keeps s) : r0.Keeps (s.intoWtr i n fromDrift twait) := by
  unfold State.intoWtr
  refine State.setRef_keeps ?_
  exact h

theorem State.toWtr_keeps {r0 : State} {s : State} {i : Nat} {fromDrift : Bool} (h : r0.Keeps s) : r0.Keeps (s.toWtr i fromDrift) := by
  unfold State.toWtr
  refine State.intoWtr_keeps ?_
  exact h

theorem State.toQual_keeps {r0 : State} {s : State} {i : Nat} (h : r0.Keeps s) : r0.Keeps (s.toQual i) := by
  unfold State.toQual
  refine State.setRef_keeps ?_
  exact h

theorem State.evalFails_keeps {r0 : State} {s : State} {i : Nat} (h : r0.Keeps s) : r0.Keeps (s.evalFails i) := by
  unfold State.evalFails
  extract_lets +onlyGivenNames v1
  extract_lets +onlyGivenNames v2
  clear_value v2
  extract_lets +onlyGivenNames v3
  clear_value v3
  extract_lets +onlyGivenNames v4
  clear_value v4
  extract_lets +onlyGivenNames v5
  clear_value v5
  extract_lets +onlyGivenNames v6
  clear_value v6
  extract_lets +onlyGivenNames v7
  clear_value v7
  extract_lets +onlyGivenNames v8
  clear_value v8
  refine .ite ?_ ?_
  · exact h
  · refine .ite ?_ ?_
    · refine State.toDisq_keeps ?_
      exact h
    · refine .ite ?_ ?_
      · refine State.setRef_keeps ?_
        refine State.leaves_keeps ?_
        exact h
      · exact h

theorem State.evalMoves_keeps {r0 : State} {s : State} {i : Nat} (h : r0.Keeps s) : r0.Keeps (s.evalMoves i) := by
  unfold State.evalMoves
  extract_lets +onlyGivenNames v1
  clear_value v1
  extract_lets +onlyGivenNames v2
  have hv2 : r0.Keeps v2 := by
    unfold v2
    refine State.setRef_keeps ?_
    exact h
  obtain ⟨yv2, hyv2, ev2⟩ := hv2.gen
  rw [ev2]
  extract_lets +onlyGivenNames v3
  extract_lets +onlyGivenNames v4
  clear_value v4
  extract_lets +onlyGivenNames v5
  clear_value v5
  refine .ite ?_ ?_
  · exact h
  · refine .ite ?_ ?_
    · exact hyv2
    · split
      · rename_i y6 y7
        refine .ite ?_ ?_
        · refine .ite ?_ ?_
          · exact hyv2
          · refine .ite ?_ ?_
            · refine State.toQual_keeps ?_
              exact hyv2
            · refine State.setRef_keeps ?_
              refine State.intoWtr_keeps ?_
              exact hyv2
        · refine State.toWtr_keeps ?_
          exact hyv2
      · rename_i y8 y9
        refine .ite ?_ ?_
        · refine State.toWtr_keeps ?_
          exact hyv2
        · exact hyv2
      · rename_i y10 y11
        refine .ite ?_ ?_
        · refine State.setRef_keeps ?_
          exact hyv2
        · refine .ite ?_ ?_
          · refine .ite ?_ ?_
            · refine State.toQual_keeps ?_
              exact hyv2
            · refine State.setRef_keeps ?_
              exact hyv2
          · exact hyv2
      · rename_i y12 y13 y14 y15
        exact hyv2

theorem State.selectorEval_keeps {r0 : State} {s : State} (h : r0.Keeps s) : r0.Keeps s.selectorEval := by
  unfold State.selectorEval
  extract_lets +onlyGivenNames v1
  extract_lets +onlyGivenNames v2
  have hv2 : r0.Keeps v2 := by
    unfold v2
    refine .foldl ?_ fun t3 a4 k5 => ?_
    · exact h
    · refine State.project_keeps ?_
      exact k5
  obtain ⟨yv2, hyv2, ev2⟩ := hv2.gen
  rw [ev2]
  extract_lets +onlyGivenNames v6
  have hv6 : r0.Keeps v6 := by
    unfold v6
    refine .foldl ?_ fun t7 a8 k9 => ?_
    · exact hyv2
    · refine State.evalFails_keeps ?_
      exact k9
  obtain ⟨yv6, hyv6, ev6⟩ := hv6.gen
  rw [ev6]
  extract_lets +onlyGivenNames v10
  have hv10 : r0.Keeps v10 := by
    unfold v10
    refine .foldl ?_ fun t11 a12 k13 => ?_
    · exact hyv6
    · refine .ite ?_ ?_
      · refine State.evalMoves_keeps ?_
        exact k13
      · exact k13
  obtain ⟨yv10, hyv10, ev10⟩ := hv10.gen
  rw [ev10]
  extract_lets +onlyGivenNames v14
  clear_value v14
  extract_lets +onlyGivenNames v15
  extract_lets +onlyGivenNames v16
  extract_lets +onlyGivenNames v17
  have hv17 : r0.Keeps v17 := by
    unfold v17
    refine State.refreshSel_keeps ?_
    refine .upd yv10 ?_ (⟨rfl, rfl, rfl⟩) (fun h => h) (fun h => h)
    exact hyv10
  obtain ⟨yv17, hyv17, ev17⟩ := hv17.gen
  rw [ev17]
  extract_lets +onlyGivenNames v18
  have hv18 : r0.Keeps v18 := by
    unfold v18
    refine State.choose_keeps ?_
    exact hyv17
  obtain ⟨yv18, hyv18, ev18⟩ := hv18.gen
  rw [ev18]
  extract_lets +onlyGivenNames v19
  refine .ite ?_ ?_
  · exact h
  · refine .ite ?_ ?_
    · refine .upd yv18 ?_ (⟨rfl, rfl, rfl⟩) (fun h => h) (fun h => h)
      exact hyv18
    · exact hyv18

theorem State.wtrCountdown_keeps {r0 : State} {s : State} (h : r0.Keeps s) : r0.Keeps s.wtrCountdown := by
  unfold State.wtrCountdown
  extract_lets +onlyGivenNames v1
  refine .ite ?_ ?_
  · exact h
  · refine .upd s ?_ (⟨rfl, rfl, rfl⟩) (fun h => h) (by simp only [updAt_length, putAt_length, List.length_map, List.length_mapIdx]; exact fun h => h)
    exact h

theorem State.refCtl_keeps {r0 : State} {s : State} {token : BitVec 16} {code : Nat} (h : r0.Keeps s) : r0.Keeps (s.refCtl token code) := by
  unfold State.refCtl
  extract_lets +onlyGivenNames v1
  refine .upd s ?_ (⟨rfl, rfl, rfl⟩) (fun h => h) (fun h => h)
  exact h

theorem State.endWtr_keeps {r0 : State} {s : State} {token : BitVec 16} {id : Nat} (h : r0.Keeps s) : r0.Keeps (s.endWtr token id) := by
  unfold State.endWtr
  extract_lets +onlyGivenNames v1
  clear_value v1
  refine .ite ?_ ?_
  · exact h
  · refine .ite ?_ ?_
    · refine State.refCtl_keeps ?_
      exact h
    · refine .ite ?_ ?_
      · refine State.refCtl_keeps ?_
        exact h
      · refine State.refCtl_keeps ?_
        refine State.setRef_keeps ?_
        exact h

theorem State.wipeRef_keeps {r0 : State} {s : State} {id : Nat} (h : r0.Keeps s) : r0.Keeps (s.wipeRef id) := by
  unfold State.wipeRef
  extract_lets +onlyGivenNames v1
  have hv1 : r0.Keeps v1 := by
    unfold v1
    refine State.leaves_keeps ?_
    exact h
  obtain ⟨yv1, hyv1, ev1⟩ := hv1.gen
  rw [ev1]
  extract_lets +onlyGivenNames v2
  refine State.setRef_keeps ?_
  exact hyv1

theorem State.clearRefs_keeps {r0 : State} {s : State} {ids : List Nat} {tod : Bool} (h : r0.Keeps s) : r0.Keeps (s.clearRefs ids tod) := by
  unfold State.clearRefs
  extract_lets +onlyGivenNames v1
  clear_value v1
  extract_lets +onlyGivenNames v2
  have hv2 : r0.Keeps v2 := by
    unfold v2
    refine .foldl ?_ fun t3 a4 k5 => ?_
    · exact h
    · refine State.wipeRef_keeps ?_
      exact k5
  obtain ⟨yv2, hyv2, ev2⟩ := hv2.gen
  rw [ev2]
  extract_lets +onlyGivenNames v6
  extract_lets +onlyGivenNames v7
  have hv7 : r0.Keeps v7 := by
    unfold v7
    refine .ite ?_ ?_
    · refine .upd yv2 ?_ (⟨rfl, rfl, rfl⟩) (fun h => h) (fun h => h)
      exact hyv2
    · exact hyv2
  obtain ⟨yv7, hyv7, ev7⟩ := hv7.gen
  rw [ev7]
  extract_lets +onlyGivenNames v8
  have hv8 : r0.Keeps v8 := by
    unfold v8
    refine State.refreshSel_keeps ?_
    exact hyv7
  obtain ⟨yv8, hyv8, ev8⟩ := hv8.gen
  rw [ev8]
  refine .ite ?_ ?_
  · refine State.choose_keeps ?_
    exact hyv8
  · exact hyv8

theorem State.forgetRef_keeps {r0 : State} {s : State} {token : BitVec 16} {id : Nat} (h : r0.Keeps s) : r0.Keeps (s.forgetRef token id) := by
  unfold State.forgetRef
  extract_lets +onlyGivenNames v1
  clear_value v1
  refine .ite ?_ ?_
  · exact h
  · refine .ite ?_ ?_
    · refine State.refCtl_keeps ?_
      exact h
    · refine State.refCtl_keeps ?_
      refine State.clearRefs_keeps ?_
      exact h

theorem State.startMonitors_keeps {r0 : State} {s : State} (h : r0.Keeps s) : r0.Keeps s.startMonitors := by
  unfold State.startMonitors
  extract_lets +onlyGivenNames v1
  extract_lets +onlyGivenNames v2
  refine .upd s ?_ (⟨rfl, rfl, rfl⟩) (fun h => h) (by simp only [updAt_length, putAt_length, List.length_map, List.length_mapIdx]; exact fun h => h)
  exact h

theorem State.follow_keeps {r0 : State} {s : State} {w : Window} {b : Rat} {bo : Rat} (h : r0.Keeps s) : r0.Keeps (s.follow w b bo) := by
  unfold State.follow
  extract_lets +onlyGivenNames v1
  clear_value v1
  extract_lets +onlyGivenNames v2
  clear_value v2
  extract_lets +onlyGivenNames v3
  clear_value v3
  extract_lets +onlyGivenNames v4
  clear_value v4
  extract_lets +onlyGivenNames v5
  extract_lets +onlyGivenNames v6
  extract_lets +onlyGivenNames v7
  have hv7 : r0.Keeps v7 := by
    unfold v7
    refine State.startFast_keeps ?_
    refine State.setY_keeps ?_
    refine .upd s ?_ (⟨rfl, rfl, rfl⟩) (fun h => h) (fun h => h)
    exact h
  obtain ⟨yv7, hyv7, ev7⟩ := hv7.gen
  rw [ev7]
  extract_lets +onlyGivenNames v8
  extract_lets +onlyGivenNames v9
  have hv9 : r0.Keeps v9 := by
    unfold v9
    refine .upd yv7 ?_ (⟨rfl, rfl, rfl⟩) (fun h => h) (fun h => h)
    exact hyv7
  obtain ⟨yv9, hyv9, ev9⟩ := hv9.gen
  rw [ev9]
  extract_lets +onlyGivenNames v10
  refine .ite ?_ ?_
  · exact hyv7
  · refine .ite ?_ ?_
    · refine .ite ?_ ?_
      · refine State.issueSet_keeps ?_
        exact hyv9
      · refine .ite ?_ ?_
        · exact hyv9
        · refine State.removeError_keeps ?_
          refine .upd yv9 ?_ (⟨rfl, rfl, rfl⟩) (fun h => h) (fun h => h)
          exact hyv9
    · refine State.removeError_keeps ?_
      exact hyv7

theorem State.endWindowOn_keeps {r0 : State} {s : State} {w : Window} (h : r0.Keeps s) : r0.Keeps (s.endWindowOn w) := by
  unfold State.endWindowOn
  extract_lets +onlyGivenNames v1
  clear_value v1
  extract_lets +onlyGivenNames v2
  have hv2 : r0.Keeps v2 := by
    unfold v2
    refine State.toDisq_keeps ?_
    exact h
  obtain ⟨yv2, hyv2, ev2⟩ := hv2.gen
  rw [ev2]
  extract_lets +onlyGivenNames v3
  clear_value v3
  split
  · rename_i y5 y6 y7 y8
    extract_lets +onlyGivenNames v9
    clear_value v9
    extract_lets +onlyGivenNames v10
    clear_value v10
    refine .ite ?_ ?_
    · refine State.switchTo_keeps ?_
      exact hyv2
    · refine State.follow_keeps ?_
      exact h

theorem State.windowEnd_keeps {r0 : State} {s : State} (h : r0.Keeps s) : r0.Keeps s.windowEnd := by
  unfold State.windowEnd
  split
  · rename_i y2 y3 y4 y5 y6
    refine .ite ?_ ?_
    · exact h
    · refine .ite ?_ ?_
      · split
        · rename_i y10 y11
          refine State.switchTo_keeps ?_
          exact h
        · rename_i y12 y13 y14
          extract_lets +onlyGivenNames v15
          extract_lets +onlyGivenNames v16
          have hv16 : r0.Keeps v16 := by
            unfold v16
            refine State.markSel_keeps ?_
            exact h
          obtain ⟨yv16, hyv16, ev16⟩ := hv16.gen
          rw [ev16]
          extract_lets +onlyGivenNames v17
          extract_lets +onlyGivenNames v18
          have hv18 : r0.Keeps v18 := by
            unfold v18
            refine .upd yv16 ?_ (⟨rfl, rfl, rfl⟩) (fun h => h) (fun h => h)
            exact hyv16
          obtain ⟨yv18, hyv18, ev18⟩ := hv18.gen
          rw [ev18]
          refine .ite ?_ ?_
          · exact hyv18
          · refine State.endWindowOn_keeps ?_
            exact hyv18
      · refine .ite ?_ ?_
        · exact h
        · refine State.endWindowOn_keeps ?_
          exact h
  · rename_i y19 y20 y21
    exact h

end Sys2Proof.Machine
end

