-- ==== Sys2Proof/Laws/KeepReaction.lean ====
section
/-! SUPPORT. What the operations of Machine/Reaction.lean keep. -/

set_option Elab.async false
set_option linter.unusedVariables false
set_option linter.unusedSimpArgs false

namespace Sys2Proof.Machine

open Sys2Proof

theorem State.enablePorts_keeps {r0 : State} {s : State} (h : r0.Keeps s) : r0.Keeps s.enablePorts := by
  unfold State.enablePorts
  refine .upd s ?_ (⟨rfl, rfl, rfl⟩) (fun h => h) (by simp only [updAt_length, putAt_length, List.length_map, List.length_mapIdx]; exact fun h => h)
  exact h

theorem State.startGnss_keeps {r0 : State} {s : State} (h : r0.Keeps s) : r0.Keeps s.startGnss := by
  unfold State.startGnss
  extract_lets +onlyGivenNames v1
  extract_lets +onlyGivenNames v2
  clear_value v2
  extract_lets +onlyGivenNames v3
  clear_value v3
  extract_lets +onlyGivenNames v4
  refine .upd s ?_ (⟨rfl, rfl, rfl⟩) (fun h => h) (fun h => h)
  exact h

theorem State.enterAcquire_keeps {r0 : State} {s : State} {old : Mode} (h : r0.Keeps s) : r0.Keeps (s.enterAcquire old) := by
  unfold State.enterAcquire
  extract_lets +onlyGivenNames v1
  extract_lets +onlyGivenNames v2
  have hv2 : r0.Keeps v2 := by
    unfold v2
    refine .upd s ?_ (⟨rfl, rfl, rfl⟩) (fun h => h) (fun h => h)
    exact h
  obtain ⟨yv2, hyv2, ev2⟩ := hv2.gen
  rw [ev2]
  extract_lets +onlyGivenNames v3
  have hv3 : r0.Keeps v3 := by
    unfold v3
    refine State.startGnss_keeps ?_
    refine State.enablePorts_keeps ?_
    refine State.startMonitors_keeps ?_
    exact hyv2
  obtain ⟨yv3, hyv3, ev3⟩ := hv3.gen
  rw [ev3]
  extract_lets +onlyGivenNames v4
  refine .ite ?_ ?_
  · refine .upd yv3 ?_ (⟨rfl, rfl, rfl⟩) (fun h => h) (fun h => h)
    exact hyv3
  · refine State.acquireEntry_keeps ?_
    exact h

theorem State.enterLocked_keeps {r0 : State} {s : State} (h : r0.Keeps s) : r0.Keeps s.enterLocked := by
  unfold State.enterLocked
  extract_lets +onlyGivenNames v1
  extract_lets +onlyGivenNames v2
  refine .upd s ?_ (⟨rfl, rfl, rfl⟩) (fun h => h) (fun h => h)
  exact h

theorem State.leaveMaintain_keeps {r0 : State} {s : State} (h : r0.Keeps s) : r0.Keeps s.leaveMaintain := by
  unfold State.leaveMaintain
  extract_lets +onlyGivenNames v1
  have hv1 : r0.Keeps v1 := by
    unfold v1
    refine .ite ?_ ?_
    · refine State.thawWeft_keeps ?_
      exact h
    · exact h
  obtain ⟨yv1, hyv1, ev1⟩ := hv1.gen
  rw [ev1]
  extract_lets +onlyGivenNames v2
  extract_lets +onlyGivenNames v3
  refine .upd yv1 ?_ (⟨rfl, rfl, rfl⟩) (fun h => h) (fun h => h)
  exact hyv1

/-- A change of mode: the mode and the origin are as it says, the gate stands. -/
theorem State.setMode_spec (s : State) (m : Mode) (cause : Nat) :
    (s.setMode m cause).md.mode = m ∧ (s.setMode m cause).md.origin = (if m = .maintain then some s.md.mode else none) ∧
    (s.setMode m cause).fmu.gate = s.fmu.gate ∧ (s.setMode m cause).now = s.now ∧ (s.setMode m cause).pending = s.pending ∧
    (s.canonical → (s.setMode m cause).canonical) ∧ (s.shaped → (s.setMode m cause).shaped) := by
  unfold State.setMode
  extract_lets old s1 _ s1b s2 _ md _ gns _ s3 s4 s5
  have h1 : s.Keeps s1 := .ite (State.writeModel_keeps (.refl s)) (.refl s)
  have h1b : s.Keeps s1b := .upd s1 h1 ⟨rfl, rfl, rfl⟩ (fun h => h) (fun h => h)
  have h2 : s.Keeps s2 := .ite (State.leaveMaintain_keeps h1b) h1b
  clear_value s2
  have h3 : State.Keeps { s2 with md := md, gns := gns, glb := { s2.glb with bootStep := 0, loaderSlot := 0 } } s3 := State.cause_keeps (.refl _)
  have h4 := h3.trans (State.log_keeps (typ := 0x0002)
    (body := [BitVec.ofNat 8 m.code, BitVec.ofNat 8 old.code, BitVec.ofNat 8 cause]) (.refl s3))
  have h5 : s4.Keeps s5 := by
    unfold s5
    split
    · exact State.enterAcquire_keeps (.refl _)
    · exact State.enterLocked_keeps (.refl _)
    · exact State.servoFreeze_keeps (.refl _)
    · exact .refl _
  have h6 := (h4.trans h5).trans (State.outputsFollow_keeps (.refl s5))
  refine ⟨h6.mode, h6.origin.trans ?_, h6.gate.trans h2.gate, h6.now.trans h2.now, h6.pending.trans h2.pending, fun c => h6.canon (h2.canon c),
    fun c => h6.shaped (h2.shaped c)⟩
  show (if m == Mode.maintain then some old else none) = _
  cases m <;> rfl

theorem State.setMode_leads {r0 : State} {s : State} {m : Mode} {cause : Nat} (h : r0.Leads s) (hs : s.md.mode ≠ .safe) (hm : s.gated → m ≠ .safe) :
    r0.Leads (s.setMode m cause) := by
  obtain ⟨a, b, c, d, e, f, g⟩ := s.setMode_spec m cause
  refine h.trans ⟨d, e, f, g, fun k => ⟨?_, ?_⟩⟩
  · rw [a, c]
    exact ⟨fun hg => absurd (k.1.1 hg) hs, fun hh => absurd hh (hm k)⟩
  · rw [b]
    split
    · exact fun hh => hs (Option.some.inj hh)
    · exact fun hh => nomatch hh

theorem State.freeContexts_keeps {r0 : State} {s : State} (h : r0.Keeps s) : r0.Keeps s.freeContexts := by
  unfold State.freeContexts
  extract_lets +onlyGivenNames v1
  extract_lets +onlyGivenNames v2
  extract_lets +onlyGivenNames v3
  have hv3 : r0.Keeps v3 := by
    unfold v3
    refine State.countN_keeps ?_
    exact h
  obtain ⟨yv3, hyv3, ev3⟩ := hv3.gen
  rw [ev3]
  extract_lets +onlyGivenNames v4
  refine .upd yv3 ?_ (⟨rfl, rfl, rfl⟩) (fun h => h) (by simp +contextual [updAt_length, putAt_length])
  exact hyv3

theorem State.abandonCommits_keeps {r0 : State} {s : State} (h : r0.Keeps s) : r0.Keeps s.abandonCommits := by
  refine .upd s h ⟨rfl, rfl, rfl⟩ (fun ⟨a, b, c, d, k⟩ => ⟨a, b, c, ?_, k⟩) id
  refine Assoc.wf_map (d := fun _ => CmtSt.reset) _ _ (fun e => ?_) (fun e he => ?_) d
  · split <;> rfl
  · split
    · exact fun hh => absurd (show (6 : Nat) = 0 from congrArg CmtSt.st hh) (by decide)
    · exact he

theorem State.abandonSteps_keeps {r0 : State} {s : State} (h : r0.Keeps s) : r0.Keeps s.abandonSteps := by
  unfold State.abandonSteps
  extract_lets +onlyGivenNames v1
  have hv1 : r0.Keeps v1 := by
    unfold v1
    split
    · rename_i y2 y3 y4
      refine State.stepStat_keeps ?_
      exact h
    · rename_i y5 y6
      exact h
  obtain ⟨yv1, hyv1, ev1⟩ := hv1.gen
  rw [ev1]
  extract_lets +onlyGivenNames v7
  extract_lets +onlyGivenNames v8
  refine .upd yv1 ?_ (⟨rfl, rfl, rfl⟩) (fun h => h) (fun h => h)
  exact hyv1

theorem State.abortUpdate_keeps {r0 : State} {s : State} (h : r0.Keeps s) : r0.Keeps s.abortUpdate := by
  unfold State.abortUpdate
  extract_lets +onlyGivenNames v1
  extract_lets +onlyGivenNames v2
  refine .ite ?_ ?_
  · refine .upd s ?_ (⟨rfl, rfl, rfl⟩) (fun h => h) (fun h => h)
    exact h
  · exact h

/-- The SAFE actions: the mode is SAFE, and the gate stands. -/
theorem State.safeActions_spec (s : State) (cause : Nat) :
    (s.safeActions cause).md.mode = .safe ∧ (s.safeActions cause).md.origin = none ∧ (s.safeActions cause).fmu.gate = s.fmu.gate ∧
    (s.safeActions cause).now = s.now ∧ (s.safeActions cause).pending = s.pending ∧ (s.canonical → (s.safeActions cause).canonical) ∧
    (s.shaped → (s.safeActions cause).shaped) := by
  unfold State.safeActions
  extract_lets s1 _ _ s2 boot s3
  have h1 : s.Keeps s1 := State.abortUpdate_keeps (State.closeAllMeas_keeps (State.abandonSteps_keeps (State.abandonCommits_keeps
    (State.abortHeld_keeps (State.freeContexts_keeps (.refl s))))))
  clear_value s1
  have h2 : s.Keeps s2 := .upd s1 h1 ⟨rfl, rfl, rfl⟩ (fun h => h) (fun h => h)
  obtain ⟨a, b, c, d, e, f, g⟩ := s2.setMode_spec .safe cause
  have h4 : (s2.setMode .safe cause).Keeps s3 := State.setPort_keeps (.refl _)
  have h3 : s3.Keeps (if boot = true then { s3 with glb := { s3.glb with bootStep := 7 } } else s3) :=
    .ite (.upd s3 (.refl _) ⟨rfl, rfl, rfl⟩ (fun h => h) (fun h => h)) (.refl _)
  exact ⟨h3.mode.trans (h4.mode.trans a), h3.origin.trans (h4.origin.trans b), h3.gate.trans (h4.gate.trans (c.trans h2.gate)),
    h3.now.trans (h4.now.trans (d.trans h2.now)), h3.pending.trans (h4.pending.trans (e.trans h2.pending)),
    fun k => h3.canon (h4.canon (f (h2.canon k))), fun k => h3.shaped (h4.shaped (g (h2.shaped k)))⟩

theorem State.safeReaction_leads {r0 : State} {s : State} {tag : Nat} {cause : Nat} {pathB : Bool} (h : r0.Leads s) :
    r0.Leads (s.safeReaction tag cause pathB) := by
  unfold State.safeReaction
  extract_lets s1 _ s2 s3 _ s4
  have h1 : s.Keeps s1 := .ite (.refl s) (State.faultReport_keeps (.refl s))
  have h3 : s2.Keeps s3 := State.noteFault_keeps (.refl s2)
  have hn : s3.now = s.now := h3.now.trans h1.now
  have hp : s3.pending = s.pending := h3.pending.trans h1.pending
  have hc : s.canonical → s3.canonical := fun k => h3.canon (h1.canon k)
  have hs : s.shaped → s3.shaped := fun k => h3.shaped (h1.shaped k)
  have hg : s3.fmu.gate = true := h3.gate
  have ho : s3.md.origin = s.md.origin := h3.origin.trans h1.origin
  clear_value s3
  refine h.trans ?_
  split
  · rename_i hm
    exact ⟨hn, hp, hc, hs, fun k => ⟨⟨fun _ => eq_of_beq hm, fun _ => hg⟩, ho ▸ k.2⟩⟩
  · obtain ⟨a, b, c, d, e, f, g⟩ := s4.safeActions_spec cause
    have hg4 : s4.fmu.gate = true := hg
    exact ⟨d.trans hn, e.trans hp, fun k => f (hc k), fun k => g (hs k), fun _ =>
      ⟨⟨fun _ => a, fun _ => c.trans hg4⟩, b ▸ nofun⟩⟩

theorem State.bodkinFault_leads {r0 : State} {s : State} {tag : Nat} (h : r0.Leads s) : r0.Leads (s.bodkinFault tag) := by
  unfold State.bodkinFault
  extract_lets +onlyGivenNames v1
  refine State.safeReaction_leads ?_
  refine .andThen ?_ (.upd s (.refl _) (⟨rfl, rfl, rfl⟩) (fun h => h) (fun h => h))
  exact h

theorem State.bootReset_leads {r0 : State} {s : State} {kind : Nat} (h : r0.Leads s) : r0.Leads (s.bootReset kind) := by
  unfold State.bootReset
  extract_lets s1
  have h1 : r0.Leads s1 := h.andThen (.ite (State.writeModel_keeps (.refl _)) (.refl _))
  clear_value s1
  have hb : s1.Keeps (s1.hifResetBlock false true) := State.hifResetBlock_keeps (.refl s1)
  refine h1.trans ⟨rfl, rfl, fun k => ?_, fun k => ?_, fun _ => ⟨⟨nofun, nofun⟩, nofun⟩⟩
  · have hm := (hb.canon k).2.2.2.2.2.2.2.2.2.1
    obtain ⟨_, _, _, _, e, f, _, _, _, k, l⟩ := k
    refine ⟨rfl, rfl, rfl, rfl, e, f, trivial, trivial, trivial, ?_, l⟩
    show Assoc.rising (if 2 ≤ kind then (s1.hifResetBlock false true).hif else _).mem
    split
    · exact hm
    · exact k
  · obtain ⟨_, _, _, _, _, _, _, a, b, c, d, _⟩ := hb.shaped k
    refine ⟨rfl, rfl, rfl, rfl, rfl, rfl, rfl, ?_, ?_, ?_, ?_, rfl, rfl, rfl, rfl, rfl⟩
    · show (if 2 ≤ kind then (s1.hifResetBlock false true).hif else _).rx.length = 16
      split
      · exact a
      · rfl
    · show (if 2 ≤ kind then (s1.hifResetBlock false true).hif else _).tx.length = 16
      split
      · exact b
      · rfl
    · show (if 2 ≤ kind then (s1.hifResetBlock false true).hif else _).cq.length = 2
      split
      · exact c
      · rfl
    · show (if 2 ≤ kind then (s1.hifResetBlock false true).hif else _).vecs.length = 36
      split
      · exact d
      · rfl

end Sys2Proof.Machine
end

