-- ==== Sys2Proof/Laws/KeepBoot.lean ====
section
/-! SUPPORT. What the operations of Machine/Boot.lean keep. -/

set_option Elab.async false
set_option linter.unusedVariables false
set_option linter.unusedSimpArgs false

namespace Sys2Proof.Machine

open Sys2Proof

theorem State.powerOn_leads {r0 : State} {s : State} {rails : List Nat} (h : r0.Leads s) : r0.Leads (s.powerOn rails) := by
  unfold State.powerOn
  extract_lets +onlyGivenNames v1
  clear_value v1
  extract_lets +onlyGivenNames v2
  extract_lets +onlyGivenNames v3
  have hv3 : r0.Leads v3 := by
    unfold v3
    refine State.bootReset_leads ?_
    refine .andThen ?_ (.upd s (.refl _) (⟨rfl, rfl, rfl⟩) (fun h => h) (fun h => h))
    exact h
  obtain ⟨yv3, hyv3, ev3⟩ := hv3.gen
  rw [ev3]
  extract_lets +onlyGivenNames v4
  extract_lets +onlyGivenNames v5
  extract_lets +onlyGivenNames v6
  refine .ite ?_ ?_
  · refine .andThen ?_ (.upd yv3 (.refl _) (⟨rfl, rfl, rfl⟩) (fun h => h) (fun h => h))
    exact hyv3
  · refine .andThen ?_ (.upd s (.refl _) (⟨rfl, rfl, rfl⟩) (fun h => h) (fun h => h))
    exact h

theorem State.resetAssert_leads {r0 : State} {s : State} {lowNs : Nat} (h : r0.Leads s) : r0.Leads (s.resetAssert lowNs) := by
  unfold State.resetAssert
  extract_lets +onlyGivenNames v1
  refine .ite ?_ ?_
  · exact h
  · refine State.bootReset_leads ?_
    refine .andThen ?_ (.upd s (.refl _) (⟨rfl, rfl, rfl⟩) (fun h => h) (fun h => h))
    exact h

theorem State.resetRelease_keeps {r0 : State} {s : State} {strap : Bool} (h : r0.Keeps s) : r0.Keeps (s.resetRelease strap) := by
  unfold State.resetRelease
  extract_lets +onlyGivenNames v1
  extract_lets +onlyGivenNames v2
  refine .ite ?_ ?_
  · refine .upd s ?_ (⟨rfl, rfl, rfl⟩) (fun h => h) (fun h => h)
    exact h
  · exact h

theorem State.pllLock_keeps {r0 : State} {s : State} (h : r0.Keeps s) : r0.Keeps s.pllLock := by
  unfold State.pllLock
  extract_lets +onlyGivenNames v1
  extract_lets +onlyGivenNames v2
  extract_lets +onlyGivenNames v3
  refine .ite ?_ ?_
  · exact h
  · refine .upd s ?_ (⟨rfl, rfl, rfl⟩) (fun h => h) (fun h => h)
    exact h

theorem State.glbReset_keeps {r0 : State} {s : State} {v : W32} (h : r0.Keeps s) : r0.Keeps (s.glbReset v) := by
  unfold State.glbReset
  extract_lets +onlyGivenNames v1
  refine .ite ?_ ?_
  · exact h
  · refine .ite ?_ ?_
    · refine .upd s ?_ (⟨rfl, rfl, rfl⟩) (fun h => h) (fun h => h)
      exact h
    · refine .ite ?_ ?_
      · refine .upd s ?_ (⟨rfl, rfl, rfl⟩) (fun h => h) (fun h => h)
        exact h
      · exact h

theorem State.deviceReset_leads {r0 : State} {s : State} (h : r0.Leads s) : r0.Leads s.deviceReset := by
  unfold State.deviceReset
  split
  · rename_i y1 y2 y3
    refine .ite ?_ ?_
    · refine State.bootReset_leads ?_
      exact h
    · exact h
  · rename_i y4 y5
    exact h

theorem State.tally_keeps {r0 : State} {s : State} (h : r0.Keeps s) : r0.Keeps s.tally := by
  unfold State.tally
  extract_lets +onlyGivenNames v1
  clear_value v1
  extract_lets +onlyGivenNames v2
  clear_value v2
  extract_lets +onlyGivenNames v3
  extract_lets +onlyGivenNames v4
  extract_lets +onlyGivenNames v5
  extract_lets +onlyGivenNames v6
  extract_lets +onlyGivenNames v7
  refine .upd s ?_ (⟨rfl, rfl, rfl⟩) (fun h => h) (by simp only [updAt_length, putAt_length, List.length_map, List.length_mapIdx]; exact fun h => h)
  exact h

theorem State.railLow_keeps {r0 : State} {s : State} {k : Nat} {mv : Nat} (h : r0.Keeps s) : r0.Keeps (s.railLow k mv) := by
  unfold State.railLow
  extract_lets +onlyGivenNames v1
  refine .upd s ?_ (⟨rfl, rfl, rfl⟩) (fun h => h) (fun h => h)
  exact h

theorem State.seeCore_keeps {r0 : State} {s : State} {mv : Nat} (h : r0.Keeps s) : r0.Keeps (s.seeCore mv) := by
  unfold State.seeCore
  extract_lets +onlyGivenNames v1
  refine .upd s ?_ (⟨rfl, rfl, rfl⟩) (fun h => h) (fun h => h)
  exact h

theorem State.droopStart_keeps {r0 : State} {s : State} {mv : Nat} (h : r0.Keeps s) : r0.Keeps (s.droopStart mv) := by
  unfold State.droopStart
  extract_lets +onlyGivenNames v1
  have hv1 : r0.Keeps v1 := by
    unfold v1
    refine State.railLow_keeps ?_
    refine State.seeCore_keeps ?_
    refine State.tally_keeps ?_
    exact h
  obtain ⟨yv1, hyv1, ev1⟩ := hv1.gen
  rw [ev1]
  extract_lets +onlyGivenNames v2
  refine .ite ?_ ?_
  · exact h
  · refine .upd yv1 ?_ (⟨rfl, rfl, rfl⟩) (fun h => h) (fun h => h)
    exact hyv1

theorem State.droopRecover_keeps {r0 : State} {s : State} {mv : Nat} (h : r0.Keeps s) : r0.Keeps (s.droopRecover mv) := by
  unfold State.droopRecover
  extract_lets +onlyGivenNames v1
  have hv1 : r0.Keeps v1 := by
    unfold v1
    refine State.seeCore_keeps ?_
    exact h
  obtain ⟨yv1, hyv1, ev1⟩ := hv1.gen
  rw [ev1]
  extract_lets +onlyGivenNames v2
  refine .ite ?_ ?_
  · exact h
  · refine .upd yv1 ?_ (⟨rfl, rfl, rfl⟩) (fun h => h) (fun h => h)
    exact hyv1

theorem State.stepUp_keeps {r0 : State} {s : State} (h : r0.Keeps s) : r0.Keeps s.stepUp := by
  unfold State.stepUp
  extract_lets +onlyGivenNames v1
  split
  · rename_i y2 y3 y4 y5 y6
    refine .ite ?_ ?_
    · refine .upd s ?_ (⟨rfl, rfl, rfl⟩) (fun h => h) (fun h => h)
      exact h
    · exact h
  · rename_i y7 y8
    exact h

theorem State.stretchEnd_keeps {r0 : State} {s : State} (h : r0.Keeps s) : r0.Keeps s.stretchEnd := by
  unfold State.stretchEnd
  extract_lets +onlyGivenNames v1
  have hv1 : r0.Keeps v1 := by
    unfold v1
    refine State.tally_keeps ?_
    exact h
  obtain ⟨yv1, hyv1, ev1⟩ := hv1.gen
  rw [ev1]
  extract_lets +onlyGivenNames v2
  extract_lets +onlyGivenNames v3
  have hv3 : r0.Keeps v3 := by
    unfold v3
    refine .upd yv1 ?_ (⟨rfl, rfl, rfl⟩) (fun h => h) (fun h => h)
    exact hyv1
  obtain ⟨yv3, hyv3, ev3⟩ := hv3.gen
  rw [ev3]
  split
  · rename_i y4 y5 y6
    refine .ite ?_ ?_
    · refine State.stepUp_keeps ?_
      refine State.count_keeps ?_
      exact hyv3
    · exact h
  · rename_i y7 y8
    exact h

theorem State.droopRecord_keeps {r0 : State} {s : State} (h : r0.Keeps s) : r0.Keeps s.droopRecord := by
  unfold State.droopRecord
  extract_lets +onlyGivenNames v1
  clear_value v1
  extract_lets +onlyGivenNames v2
  have hv2 : r0.Keeps v2 := by
    unfold v2
    refine State.log_keeps ?_
    exact h
  obtain ⟨yv2, hyv2, ev2⟩ := hv2.gen
  rw [ev2]
  extract_lets +onlyGivenNames v3
  refine .ite ?_ ?_
  · exact h
  · refine .upd yv2 ?_ (⟨rfl, rfl, rfl⟩) (fun h => h) (fun h => h)
    exact hyv2

theorem State.droopHeavyEval_keeps {r0 : State} {s : State} (h : r0.Keeps s) : r0.Keeps s.droopHeavyEval := by
  unfold State.droopHeavyEval
  extract_lets +onlyGivenNames v1
  have hv1 : r0.Keeps v1 := by
    unfold v1
    refine State.tally_keeps ?_
    exact h
  obtain ⟨yv1, hyv1, ev1⟩ := hv1.gen
  rw [ev1]
  extract_lets +onlyGivenNames v2
  clear_value v2
  extract_lets +onlyGivenNames v3
  extract_lets +onlyGivenNames v4
  refine .ite ?_ ?_
  · exact h
  · refine .upd yv1 ?_ (⟨rfl, rfl, rfl⟩) (fun h => h) (fun h => h)
    exact hyv1

/-- No row of the transition table that an evaluation reads leads to SAFE. -/
theorem State.modeRow_ne_safe (s : State) (m : Mode) : ∀ p, s.modeRow m = some p → p.1 ≠ .safe := by
  intro p h
  cases m <;> simp only [State.modeRow] at h <;> (try split_ifs at h) <;> first | contradiction | (injection h with h; subst h; exact nofun)

theorem State.maintainExit_leads {r0 : State} {s : State} {cause : Nat} (h : r0.Leads s) (hs : s.md.mode = .maintain) : r0.Leads (s.maintainExit cause) := by
  refine State.setMode_leads h (by rw [hs]; exact nofun) fun g => ?_
  cases hr : s.modeRow (s.md.origin.getD .acquire) with
  | some p => exact s.modeRow_ne_safe _ p hr
  | none =>
    show s.md.origin.getD .acquire ≠ .safe
    cases ho : s.md.origin with
    | none => exact nofun
    | some o => exact fun hh => g.2 (ho.trans (congrArg some hh))

theorem State.modeEval_leads {r0 : State} {s : State} (h : r0.Leads s) : r0.Leads s.modeEval := by
  unfold State.modeEval
  refine .ite h ?_
  extract_lets seen _ s1
  have h1 : r0.Leads s1 := .andThen h (.upd s (.refl _) ⟨rfl, rfl, rfl⟩ (fun h => h) (fun h => h))
  clear_value s1
  split
  · rename_i hm _
    exact .ite (State.maintainExit_leads h1 hm) (.ite (State.maintainExit_leads h1 hm) h1)
  · exact h1
  · split
    · rename_i hr
      refine State.setMode_leads h1 (fun hs => ?_) fun _ => s1.modeRow_ne_safe _ _ hr
      rw [hs] at hr
      exact nomatch hr
    · exact .andThen h1 (State.outputsFollow_keeps (.refl _))

theorem State.startupStep_leads {r0 : State} {s : State} (h : r0.Leads s) : r0.Leads s.startupStep := by
  unfold State.startupStep
  split
  · rename_i hc
    have hm : s.md.mode = .boot := by simp only [Bool.and_eq_true, beq_iff_eq] at hc; exact hc.1.1
    exact State.setMode_leads h (by rw [hm]; exact nofun) fun _ => nofun
  · split
    · rename_i hc
      have hm : s.md.mode = .calibrate := by simp only [Bool.and_eq_true, beq_iff_eq] at hc; exact hc.1.1.1
      exact State.setMode_leads h (by rw [hm]; exact nofun) fun _ => nofun
    · exact h

theorem State.bootTimeout_leads {r0 : State} {s : State} (h : r0.Leads s) : r0.Leads s.bootTimeout := by
  unfold State.bootTimeout
  refine .ite ?_ ?_
  · refine State.safeReaction_leads ?_
    exact h
  · exact h

theorem State.calTimeout_leads {r0 : State} {s : State} (h : r0.Leads s) : r0.Leads s.calTimeout := by
  unfold State.calTimeout
  refine .ite ?_ ?_
  · refine State.safeReaction_leads ?_
    exact h
  · exact h

theorem State.refuseReq_keeps {r0 : State} {s : State} (h : r0.Keeps s) : r0.Keeps s.refuseReq := by
  unfold State.refuseReq
  extract_lets +onlyGivenNames v1
  refine .upd s ?_ (⟨rfl, rfl, rfl⟩) (fun h => h) (fun h => h)
  exact h

theorem State.beginDrain_keeps {r0 : State} {s : State} (h : r0.Keeps s) : r0.Keeps s.beginDrain := by
  unfold State.beginDrain
  extract_lets +onlyGivenNames v1
  refine .ite ?_ ?_
  · refine .upd s ?_ (⟨rfl, rfl, rfl⟩) (fun h => h) (fun h => h)
    exact h
  · refine State.refuseReq_keeps ?_
    exact h

theorem State.orderlyReq_keeps {r0 : State} {s : State} (h : r0.Keeps s) : r0.Keeps s.orderlyReq := by
  unfold State.orderlyReq
  refine .ite ?_ ?_
  · exact h
  · refine State.beginDrain_keeps ?_
    exact h

theorem State.safeReq_leads {r0 : State} {s : State} (h : r0.Leads s) : r0.Leads s.safeReq := by
  unfold State.safeReq
  refine .ite ?_ ?_
  · exact h
  · refine .ite ?_ ?_
    · refine State.bootReset_leads ?_
      exact h
    · refine .andThen ?_ (State.refuseReq_keeps (.refl _))
      exact h

theorem State.drainTimeout_keeps {r0 : State} {s : State} (h : r0.Keeps s) : r0.Keeps s.drainTimeout := by
  unfold State.drainTimeout
  extract_lets +onlyGivenNames v1
  refine .ite ?_ ?_
  · refine State.applyMute_keeps ?_
    refine .upd s ?_ (⟨rfl, rfl, rfl⟩) (fun h => h) (fun h => h)
    exact h
  · exact h

theorem State.drainReset_leads {r0 : State} {s : State} (h : r0.Leads s) : r0.Leads s.drainReset := by
  unfold State.drainReset
  refine .ite ?_ ?_
  · refine State.bootReset_leads ?_
    exact h
  · exact h

theorem State.autoRestart_leads {r0 : State} {s : State} (h : r0.Leads s) : r0.Leads s.autoRestart := by
  unfold State.autoRestart
  extract_lets +onlyGivenNames v1
  refine .ite ?_ ?_
  · refine State.bootReset_leads ?_
    refine .andThen ?_ (.upd s (.refl _) (⟨rfl, rfl, rfl⟩) (fun h => h) (fun h => h))
    exact h
  · exact h

theorem State.grantMaintain_leads {r0 : State} {s : State} {swap : Bool} (h : r0.Leads s) (hs : s.md.mode ≠ .safe) : r0.Leads (s.grantMaintain swap) := by
  unfold State.grantMaintain
  extract_lets +onlyGivenNames s1
  have h1 : r0.Leads s1 := State.setMode_leads h hs fun _ => nofun
  obtain ⟨y1, hy1, e1⟩ := h1.gen
  rw [e1]
  exact .andThen hy1 (.upd y1 (.refl _) ⟨rfl, rfl, rfl⟩ (fun h => h) (fun h => h))

theorem State.maintainBound_keeps {r0 : State} {s : State} (h : r0.Keeps s) : r0.Keeps s.maintainBound := by
  unfold State.maintainBound
  extract_lets +onlyGivenNames v1
  split
  · rename_i y2 y3 y4 y5 y6
    refine .ite ?_ ?_
    · refine .upd s ?_ (⟨rfl, rfl, rfl⟩) (fun h => h) (fun h => h)
      exact h
    · exact h
  · rename_i y7 y8 y9
    exact h

end Sys2Proof.Machine
end

