-- ==== Sys2Proof/Laws/KeepFmu.lean ====
section
/-! SUPPORT. What the operations of Machine/Fmu.lean keep. -/

set_option Elab.async false
set_option linter.unusedVariables false
set_option linter.unusedSimpArgs false

namespace Sys2Proof.Machine

open Sys2Proof

theorem State.discardCtxs_keeps {r0 : State} {s : State} {p : Ctx → Bool} (h : r0.Keeps s) : r0.Keeps (s.discardCtxs p) := by
  unfold State.discardCtxs
  extract_lets +onlyGivenNames v1
  extract_lets +onlyGivenNames v2
  extract_lets +onlyGivenNames v3
  extract_lets +onlyGivenNames v4
  extract_lets +onlyGivenNames v5
  refine State.countN_keeps ?_
  refine .upd s ?_ (⟨rfl, rfl, rfl⟩) (fun h => h) (by simp +zetaDelta only [updAt_length, putAt_length, List.length_map, List.length_mapIdx]; exact fun h => h)
  exact h

theorem State.dropCommitted_keeps {r0 : State} {s : State} {n : Nat} {st : Nat} (h : r0.Keeps s) : r0.Keeps (s.dropCommitted n st) := by
  unfold State.dropCommitted
  extract_lets +onlyGivenNames v1
  extract_lets +onlyGivenNames v2
  extract_lets +onlyGivenNames v3
  have hv3 : r0.Keeps v3 := by
    unfold v3
    refine .upd s ?_ (⟨rfl, rfl, rfl⟩) (fun h => h) (fun h => h)
    exact h
  obtain ⟨yv3, hyv3, ev3⟩ := hv3.gen
  rw [ev3]
  refine State.setPort_keeps ?_
  refine State.hostStatuses_keeps ?_
  exact hyv3

theorem State.linkDrop_keeps {r0 : State} {s : State} {n : Nat} (h : r0.Keeps s) : r0.Keeps (s.linkDrop n) := by
  unfold State.linkDrop
  extract_lets +onlyGivenNames v1
  have hv1 : r0.Keeps v1 := by
    unfold v1
    refine State.discardCtxs_keeps ?_
    refine State.bwAccrue_keeps ?_
    exact h
  obtain ⟨yv1, hyv1, ev1⟩ := hv1.gen
  rw [ev1]
  extract_lets +onlyGivenNames v2
  have hv2 : r0.Keeps v2 := by
    unfold v2
    refine State.countN_keeps ?_
    exact hyv1
  obtain ⟨yv2, hyv2, ev2⟩ := hv2.gen
  rw [ev2]
  extract_lets +onlyGivenNames v3
  have hv3 : r0.Keeps v3 := by
    unfold v3
    refine State.hostStatuses_keeps ?_
    refine State.dropCommitted_keeps ?_
    exact hyv2
  obtain ⟨yv3, hyv3, ev3⟩ := hv3.gen
  rw [ev3]
  extract_lets +onlyGivenNames v4
  have hv4 : r0.Keeps v4 := by
    unfold v4
    refine State.setPort_keeps ?_
    exact hyv3
  obtain ⟨yv4, hyv4, ev4⟩ := hv4.gen
  rw [ev4]
  refine .ite ?_ ?_
  · exact h
  · refine State.cause_keeps ?_
    refine State.count_keeps ?_
    exact hyv4

theorem State.holdPort_keeps {r0 : State} {s : State} {n : Nat} (h : r0.Keeps s) : r0.Keeps (s.holdPort n) := by
  unfold State.holdPort
  refine State.setPort_keeps ?_
  refine State.linkDrop_keeps ?_
  exact h

theorem State.setIsl_keeps {r0 : State} {s : State} {k : Nat} {f : Island → Island} (h : r0.Keeps s) : r0.Keeps (s.setIsl k f) := by
  unfold State.setIsl
  extract_lets +onlyGivenNames v1
  refine .upd s ?_ (⟨rfl, rfl, rfl⟩) (fun h => h) (by simp only [updAt_length]; exact fun h => h)
  exact h

theorem State.discardWork_keeps {r0 : State} {s : State} {k : Nat} (h : r0.Keeps s) : r0.Keeps (s.discardWork k) := by
  unfold State.discardWork
  extract_lets +onlyGivenNames v1
  extract_lets +onlyGivenNames v2
  have hv2 : r0.Keeps v2 := by
    unfold v2
    refine .foldl ?_ fun t3 a4 k5 => ?_
    · exact h
    · refine State.pkeAbort_keeps ?_
      exact k5
  obtain ⟨yv2, hyv2, ev2⟩ := hv2.gen
  rw [ev2]
  extract_lets +onlyGivenNames v6
  refine .ite ?_ ?_
  · refine State.discardCtxs_keeps ?_
    exact h
  · refine .ite ?_ ?_
    · refine .ite ?_ ?_
      · refine State.abortUpdate_keeps ?_
        exact hyv2
      · exact hyv2
    · refine .ite ?_ ?_
      · refine .foldl ?_ fun t7 a8 k9 => ?_
        · exact h
        · refine State.mintAbort_keeps ?_
          exact k9
      · refine .ite ?_ ?_
        · refine .upd s ?_ (⟨rfl, rfl, rfl⟩) (fun h => h) (by simp only [updAt_length, putAt_length, List.length_map, List.length_mapIdx]; exact fun h => h)
          exact h
        · refine .ite ?_ ?_
          · refine .upd s ?_ (⟨rfl, rfl, rfl⟩) (fun h => h) (by simp only [updAt_length, putAt_length, List.length_map, List.length_mapIdx]; exact fun h => h)
            exact h
          · refine .ite ?_ ?_
            · refine State.dropCommitted_keeps ?_
              exact h
            · exact h

theorem State.beginPass_keeps {r0 : State} {s : State} {k : Nat} {targeted : Bool} (h : r0.Keeps s) : r0.Keeps (s.beginPass k targeted) := by
  unfold State.beginPass
  extract_lets +onlyGivenNames v1
  have hv1 : r0.Keeps v1 := by
    unfold v1
    refine .ite ?_ ?_
    · refine State.discardWork_keeps ?_
      exact h
    · exact h
  obtain ⟨yv1, hyv1, ev1⟩ := hv1.gen
  rw [ev1]
  refine State.setIsl_keeps ?_
  exact hyv1

theorem State.startWaiting_keeps {r0 : State} {s : State} (h : r0.Keeps s) : r0.Keeps s.startWaiting := by
  unfold State.startWaiting
  refine .foldl ?_ fun t1 a2 k3 => ?_
  · exact h
  · refine .ite ?_ ?_
    · refine State.beginPass_keeps ?_
      exact k3
    · exact k3

theorem State.target_keeps {r0 : State} {s : State} {k : Nat} (h : r0.Keeps s) : r0.Keeps (s.target k) := by
  unfold State.target
  refine State.startWaiting_keeps ?_
  refine State.setIsl_keeps ?_
  exact h

theorem State.offlineNext_keeps {r0 : State} {s : State} (h : r0.Keeps s) : r0.Keeps s.offlineNext := by
  unfold State.offlineNext
  extract_lets +onlyGivenNames v1
  split
  · rename_i y2 y3 y4 y5 y6
    refine .ite ?_ ?_
    · exact h
    · split
      · rename_i y7 y8 y9
        refine .ite ?_ ?_
        · refine State.setIsl_keeps ?_
          refine State.beginPass_keeps ?_
          exact h
        · exact h
      · rename_i y10 y11
        refine .upd s ?_ (⟨rfl, rfl, rfl⟩) (fun h => h) (fun h => h)
        exact h
  · rename_i y12 y13 y14
    exact h

theorem State.islandError_keeps {r0 : State} {s : State} {k : Nat} (h : r0.Keeps s) : r0.Keeps (s.islandError k) := by
  unfold State.islandError
  refine State.discardWork_keeps ?_
  refine State.faultReport_keeps ?_
  exact h

theorem State.memoryError_keeps {r0 : State} {s : State} {m : Nat} (h : r0.Keeps s) : r0.Keeps (s.memoryError m) := by
  unfold State.memoryError
  refine State.count_keeps ?_
  refine State.faultReport_keeps ?_
  exact h

theorem State.writeRoot_keeps {r0 : State} {s : State} {rec_ : List Byte} (h : r0.Keeps s) : r0.Keeps (s.writeRoot rec_) := by
  unfold State.writeRoot
  extract_lets +onlyGivenNames v1
  clear_value v1
  extract_lets +onlyGivenNames v2
  have hv2 : r0.Keeps v2 := by
    unfold v2
    refine State.logAs_keeps ?_
    exact h
  obtain ⟨yv2, hyv2, ev2⟩ := hv2.gen
  rw [ev2]
  extract_lets +onlyGivenNames v3
  refine State.count_keeps ?_
  refine .upd yv2 ?_ (⟨rfl, rfl, rfl⟩) (fun h => h) (fun h => h)
  exact hyv2

theorem State.addErr_keeps {r0 : State} {s : State} {u : Nat} (h : r0.Keeps s) : r0.Keeps (s.addErr u) := by
  unfold State.addErr
  extract_lets +onlyGivenNames v1
  refine .upd s ?_ (⟨rfl, rfl, rfl⟩) (fun h => h) (fun h => h)
  exact h

theorem State.testRoot_keeps {r0 : State} {s : State} {root : Nat} {rec_ : List Byte} {written : Bool} (h : r0.Keeps s) : r0.Keeps (s.testRoot root rec_ written) := by
  unfold State.testRoot
  extract_lets +onlyGivenNames v1
  clear_value v1
  extract_lets +onlyGivenNames v2
  have hv2 : r0.Keeps v2 := by
    unfold v2
    refine State.addErr_keeps ?_
    exact h
  obtain ⟨yv2, hyv2, ev2⟩ := hv2.gen
  rw [ev2]
  extract_lets +onlyGivenNames v3
  extract_lets +onlyGivenNames v4
  have hv4 : r0.Keeps v4 := by
    unfold v4
    refine State.addErr_keeps ?_
    exact h
  obtain ⟨yv4, hyv4, ev4⟩ := hv4.gen
  rw [ev4]
  extract_lets +onlyGivenNames v5
  extract_lets +onlyGivenNames v6
  have hv6 : r0.Keeps v6 := by
    unfold v6
    refine .ite ?_ ?_
    · refine .upd yv4 ?_ (⟨rfl, rfl, rfl⟩) (fun h => h) (fun h => h)
      exact hyv4
    · exact hyv4
  obtain ⟨yv6, hyv6, ev6⟩ := hv6.gen
  rw [ev6]
  split
  · rename_i y7 y8
    refine .upd yv2 ?_ (⟨rfl, rfl, rfl⟩) (fun h => h) (fun h => h)
    exact hyv2
  · rename_i y9 y10
    refine .ite ?_ ?_
    · refine .ite ?_ ?_
      · exact hyv6
      · refine State.writeRoot_keeps ?_
        exact hyv6
    · refine State.target_keeps ?_
      refine State.setIsl_keeps ?_
      exact hyv4
  · rename_i y11 y12 y13
    refine .ite ?_ ?_
    · exact h
    · refine State.writeRoot_keeps ?_
      exact h

theorem stormRoots_keeps {r0 : State} {x0 : Nat} {x1 : List Report} {s : State} (h : r0.Keeps s) : r0.Keeps (stormRoots x0 x1 s) := by
  induction x0 generalizing x1 s with
  | zero =>
    unfold stormRoots
    exact h
  | succ n ih =>
    unfold stormRoots
    extract_lets +onlyGivenNames v1
    clear_value v1
    extract_lets +onlyGivenNames v2
    split
    · rename_i y4 y5
      exact h
    · rename_i y6 y7 y8
      extract_lets +onlyGivenNames v9
      extract_lets +onlyGivenNames v10
      extract_lets +onlyGivenNames v11
      clear_value v11
      extract_lets +onlyGivenNames v12
      clear_value v12
      extract_lets +onlyGivenNames v13
      have hv13 : r0.Keeps v13 := by
        unfold v13
        refine .ite ?_ ?_
        · refine .upd s ?_ (⟨rfl, rfl, rfl⟩) (fun h => h) (fun h => h)
          exact h
        · exact h
      obtain ⟨yv13, hyv13, ev13⟩ := hv13.gen
      rw [ev13]
      extract_lets +onlyGivenNames v14
      extract_lets +onlyGivenNames v15
      have hv15 : r0.Keeps v15 := by
        unfold v15
        refine .ite ?_ ?_
        · exact hyv13
        · refine State.writeRoot_keeps ?_
          exact hyv13
      obtain ⟨yv15, hyv15, ev15⟩ := hv15.gen
      rw [ev15]
      refine ih ?_
      refine State.testRoot_keeps ?_
      exact hyv15

theorem State.closeStorm_keeps {r0 : State} {s : State} (h : r0.Keeps s) : r0.Keeps s.closeStorm := by
  unfold State.closeStorm
  extract_lets +onlyGivenNames v1
  extract_lets +onlyGivenNames v2
  split
  · rename_i y3 y4 y5
    refine .ite ?_ ?_
    · exact h
    · refine stormRoots_keeps ?_
      refine .upd s ?_ (⟨rfl, rfl, rfl⟩) (fun h => h) (fun h => h)
      exact h
  · rename_i y6 y7
    exact h

theorem State.addRetired_keeps {r0 : State} {s : State} {u : Nat} (h : r0.Keeps s) : r0.Keeps (s.addRetired u) := by
  unfold State.addRetired
  extract_lets +onlyGivenNames v1
  refine .ite ?_ ?_
  · exact h
  · refine .upd s ?_ (⟨rfl, rfl, rfl⟩) (fun h => h) (fun h => h)
    exact h

theorem State.retire_leads {r0 : State} {s : State} {k : Nat} (h : r0.Leads s) : r0.Leads (s.retire k) := by
  unfold State.retire
  extract_lets +onlyGivenNames v1
  clear_value v1
  extract_lets +onlyGivenNames v2
  have hv2 : r0.Leads v2 := by
    unfold v2
    refine .andThen ?_ (State.setIsl_keeps (.refl _))
    refine .andThen ?_ (State.addRetired_keeps (.refl _))
    exact h
  obtain ⟨yv2, hyv2, ev2⟩ := hv2.gen
  rw [ev2]
  extract_lets +onlyGivenNames v3
  have hv3 : r0.Leads v3 := by
    unfold v3
    refine .andThen ?_ (State.noteDegraded_keeps (.refl _))
    exact hyv2
  obtain ⟨yv3, hyv3, ev3⟩ := hv3.gen
  rw [ev3]
  extract_lets +onlyGivenNames v4
  have hv4 : r0.Leads v4 := by
    unfold v4
    refine .ite ?_ ?_
    · refine .andThen ?_ (State.holdPort_keeps (.refl _))
      exact hyv3
    · exact hyv3
  obtain ⟨yv4, hyv4, ev4⟩ := hv4.gen
  rw [ev4]
  refine .ite ?_ ?_
  · refine State.safeReaction_leads ?_
    exact hyv4
  · exact hyv4

theorem State.classify_keeps {r0 : State} {s : State} {u : Nat} {ok : Bool} (h : r0.Keeps s) : r0.Keeps (s.classify u ok).2 := by
  unfold State.classify
  split
  · rename_i y1
    dsimp only
    refine State.count_keeps ?_
    exact h
  · rename_i y2
    dsimp only
    refine State.count_keeps ?_
    exact h

theorem State.writeRoots_keeps {r0 : State} {s : State} {k : Nat} {action : Nat} (h : r0.Keeps s) : r0.Keeps (s.writeRoots k action) := by
  unfold State.writeRoots
  extract_lets +onlyGivenNames v1
  refine State.setIsl_keeps ?_
  refine .foldl ?_ fun t2 a3 k4 => ?_
  · exact h
  · refine State.writeRoot_keeps ?_
    exact k4

theorem State.scrubDone_keeps {r0 : State} {s : State} {m : Nat} {ok : Bool} (h : r0.Keeps s) : r0.Keeps (s.scrubDone m ok) := by
  unfold State.scrubDone
  extract_lets +onlyGivenNames v1
  split
  · rename_i y3 y4
    exact h
  · rename_i y5 y6 y7
    extract_lets +onlyGivenNames v8
    have hv8 : r0.Keeps v8 := by
      unfold v8
      refine .upd s ?_ (⟨rfl, rfl, rfl⟩) (fun h => h) (fun h => h)
      exact h
    obtain ⟨yv8, hyv8, ev8⟩ := hv8.gen
    rw [ev8]
    split
    · rename_i y10 y11 y12 y13
      extract_lets +onlyGivenNames v14
      have hv14 : r0.Keeps v14 := by
        unfold v14
        refine .ite ?_ ?_
        · refine .snd y13 ?_
          refine State.classify_keeps ?_
          exact hyv8
        · refine State.writeRoot_keeps ?_
          refine .snd y13 ?_
          refine State.classify_keeps ?_
          exact hyv8
      obtain ⟨yv14, hyv14, ev14⟩ := hv14.gen
      rw [ev14]
      refine .ite ?_ ?_
      · refine State.noteDegraded_keeps ?_
        refine State.addRetired_keeps ?_
        exact hyv14
      · exact hyv14

theorem State.rotatePass_keeps {r0 : State} {s : State} (h : r0.Keeps s) : r0.Keeps s.rotatePass := by
  unfold State.rotatePass
  extract_lets +onlyGivenNames v1
  extract_lets +onlyGivenNames v2
  refine .ite ?_ ?_
  · exact h
  · split
    · rename_i y5 y6
      exact h
    · rename_i y7 y8 y9
      extract_lets +onlyGivenNames v10
      have hv10 : r0.Keeps v10 := by
        unfold v10
        refine .upd s ?_ (⟨rfl, rfl, rfl⟩) (fun h => h) (fun h => h)
        exact h
      obtain ⟨yv10, hyv10, ev10⟩ := hv10.gen
      rw [ev10]
      refine .ite ?_ ?_
      · refine State.count_keeps ?_
        exact hyv10
      · refine State.beginPass_keeps ?_
        exact hyv10

theorem State.scanStart_keeps {r0 : State} {s : State} {k : Nat} (h : r0.Keeps s) : r0.Keeps (s.scanStart k) := by
  unfold State.scanStart
  extract_lets +onlyGivenNames v1
  have hv1 : r0.Keeps v1 := by
    unfold v1
    refine State.setIsl_keeps ?_
    exact h
  obtain ⟨yv1, hyv1, ev1⟩ := hv1.gen
  rw [ev1]
  refine .ite ?_ ?_
  · refine .ite ?_ ?_
    · refine State.setIsl_keeps ?_
      exact h
    · exact h
  · refine .ite ?_ ?_
    · refine .ite ?_ ?_
      · refine State.holdPort_keeps ?_
        exact hyv1
      · exact hyv1
    · exact h

theorem State.bootPassEnd_leads {r0 : State} {s : State} {k : Nat} {ok : Bool} (h : r0.Leads s) : r0.Leads (s.bootPassEnd k ok) := by
  unfold State.bootPassEnd
  extract_lets +onlyGivenNames v1
  clear_value v1
  extract_lets +onlyGivenNames v2
  extract_lets +onlyGivenNames v3
  have hv3 : r0.Leads v3 := by
    unfold v3
    refine .andThen ?_ (.upd s (.refl _) (⟨rfl, rfl, rfl⟩) (fun h => h) (fun h => h))
    exact h
  obtain ⟨yv3, hyv3, ev3⟩ := hv3.gen
  rw [ev3]
  extract_lets +onlyGivenNames v4
  have hv4 : r0.Leads v4 := by
    unfold v4
    refine .ite ?_ ?_
    · exact hyv3
    · refine .andThen ?_ (State.addErr_keeps (.refl _))
      exact hyv3
  obtain ⟨yv4, hyv4, ev4⟩ := hv4.gen
  rw [ev4]
  split
  · rename_i y6 y7 y8 y9
    extract_lets +onlyGivenNames v10
    have hv10 : r0.Leads v10 := by
      unfold v10
      refine .ite ?_ ?_
      · refine .andThen ?_ (State.addRetired_keeps (.refl _))
        refine .snd y9 ?_
        split
        · rename_i y11
          refine .andThen ?_ (State.classify_keeps (.refl _))
          exact hyv4
        · rename_i y12
          dsimp only
          exact hyv4
      · refine .snd y9 ?_
        split
        · rename_i y13
          refine .andThen ?_ (State.classify_keeps (.refl _))
          exact hyv4
        · rename_i y14
          dsimp only
          exact hyv4
    obtain ⟨yv10, hyv10, ev10⟩ := hv10.gen
    rw [ev10]
    extract_lets +onlyGivenNames v15
    have hv15 : r0.Leads v15 := by
      unfold v15
      refine .andThen ?_ (State.setIsl_keeps (.refl _))
      exact hyv10
    obtain ⟨yv15, hyv15, ev15⟩ := hv15.gen
    rw [ev15]
    extract_lets +onlyGivenNames v16
    have hv16 : r0.Leads v16 := by
      unfold v16
      refine .andThen ?_ (State.noteDegraded_keeps (.refl _))
      exact hyv15
    obtain ⟨yv16, hyv16, ev16⟩ := hv16.gen
    rw [ev16]
    extract_lets +onlyGivenNames v17
    clear_value v17
    extract_lets +onlyGivenNames v18
    extract_lets +onlyGivenNames v19
    have hv19 : r0.Leads v19 := by
      unfold v19
      refine .ite ?_ ?_
      · refine .andThen ?_ (.upd yv16 (.refl _) (⟨rfl, rfl, rfl⟩) (fun h => h) (fun h => h))
        exact hyv16
      · exact hyv16
    obtain ⟨yv19, hyv19, ev19⟩ := hv19.gen
    rw [ev19]
    extract_lets +onlyGivenNames v20
    refine .ite ?_ ?_
    · refine State.safeReaction_leads ?_
      exact hyv16
    · refine .ite ?_ ?_
      · refine State.safeReaction_leads ?_
        exact hyv16
      · refine .ite ?_ ?_
        · refine State.startupStep_leads ?_
          refine .andThen ?_ (.upd yv19 (.refl _) (⟨rfl, rfl, rfl⟩) (fun h => h) (fun h => h))
          exact hyv19
        · exact hyv19

theorem State.bstAnswer_keeps {r0 : State} {s : State} {k : Nat} {ok : Bool} (h : r0.Keeps s) : r0.Keeps (s.bstAnswer k ok) := by
  unfold State.bstAnswer
  extract_lets +onlyGivenNames v1
  have hv1 : r0.Keeps v1 := by
    unfold v1
    refine State.setIsl_keeps ?_
    exact h
  obtain ⟨yv1, hyv1, ev1⟩ := hv1.gen
  rw [ev1]
  extract_lets +onlyGivenNames v2
  split
  · rename_i y3 y4 y5
    refine .upd yv1 ?_ (⟨rfl, rfl, rfl⟩) (fun h => h) (fun h => h)
    exact hyv1
  · rename_i y6 y7
    exact h

theorem State.servicePassEnd_leads {r0 : State} {s : State} {k : Nat} {ok : Bool} (h : r0.Leads s) : r0.Leads (s.servicePassEnd k ok) := by
  unfold State.servicePassEnd
  extract_lets +onlyGivenNames v1
  clear_value v1
  extract_lets +onlyGivenNames v2
  clear_value v2
  extract_lets +onlyGivenNames v3
  have hv3 : r0.Leads v3 := by
    unfold v3
    refine .andThen ?_ (State.setIsl_keeps (.refl _))
    exact h
  obtain ⟨yv3, hyv3, ev3⟩ := hv3.gen
  rw [ev3]
  extract_lets +onlyGivenNames v4
  have hv4 : r0.Leads v4 := by
    unfold v4
    refine .andThen ?_ (State.bstAnswer_keeps (.refl _))
    exact hyv3
  obtain ⟨yv4, hyv4, ev4⟩ := hv4.gen
  rw [ev4]
  extract_lets +onlyGivenNames v5
  have hv5 : r0.Leads v5 := by
    unfold v5
    refine .ite ?_ ?_
    · exact hyv4
    · refine .andThen ?_ (State.addErr_keeps (.refl _))
      exact hyv4
  obtain ⟨yv5, hyv5, ev5⟩ := hv5.gen
  rw [ev5]
  split
  · rename_i y7 y8 y9 y10
    extract_lets +onlyGivenNames v11
    have hv11 : r0.Leads v11 := by
      unfold v11
      refine .andThen ?_ (State.writeRoots_keeps (.refl _))
      refine .snd y10 ?_
      split
      · rename_i y12
        dsimp only
        exact hyv5
      · rename_i y13
        refine .andThen ?_ (State.classify_keeps (.refl _))
        exact hyv5
    obtain ⟨yv11, hyv11, ev11⟩ := hv11.gen
    rw [ev11]
    extract_lets +onlyGivenNames v14
    have hv14 : r0.Leads v14 := by
      unfold v14
      refine .andThen ?_ (State.setIsl_keeps (.refl _))
      exact hyv11
    obtain ⟨yv14, hyv14, ev14⟩ := hv14.gen
    rw [ev14]
    extract_lets +onlyGivenNames v15
    have hv15 : r0.Leads v15 := by
      unfold v15
      refine .ite ?_ ?_
      · refine State.retire_leads ?_
        exact hyv11
      · refine .ite ?_ ?_
        · exact hyv11
        · refine .ite ?_ ?_
          · refine .andThen ?_ (State.setPort_keeps (.refl _))
            exact hyv14
          · exact hyv14
    obtain ⟨yv15, hyv15, ev15⟩ := hv15.gen
    rw [ev15]
    extract_lets +onlyGivenNames v16
    extract_lets +onlyGivenNames v17
    have hv17 : r0.Leads v17 := by
      unfold v17
      split
      · rename_i y18 y19 y20
        refine .ite ?_ ?_
        · refine .andThen ?_ (.upd yv15 (.refl _) (⟨rfl, rfl, rfl⟩) (fun h => h) (fun h => h))
          exact hyv15
        · exact hyv15
      · rename_i y21 y22
        exact hyv15
    obtain ⟨yv17, hyv17, ev17⟩ := hv17.gen
    rw [ev17]
    refine .andThen ?_ (State.offlineNext_keeps (.refl _))
    refine .andThen ?_ (State.startWaiting_keeps (.refl _))
    exact hyv17

theorem State.passEnd_leads {r0 : State} {s : State} {k : Nat} {signatureOk : Bool} {restoreOk : Bool} (h : r0.Leads s) : r0.Leads (s.passEnd k signatureOk restoreOk) := by
  unfold State.passEnd
  extract_lets +onlyGivenNames v1
  clear_value v1
  extract_lets +onlyGivenNames v2
  clear_value v2
  extract_lets +onlyGivenNames v3
  have hv3 : r0.Leads v3 := by
    unfold v3
    refine .andThen ?_ (State.count_keeps (.refl _))
    refine .andThen ?_ (State.setIsl_keeps (.refl _))
    exact h
  obtain ⟨yv3, hyv3, ev3⟩ := hv3.gen
  rw [ev3]
  split
  · rename_i y4 y5
    exact h
  · rename_i y6 y7 y8
    refine .ite ?_ ?_
    · exact h
    · refine .ite ?_ ?_
      · refine State.bootPassEnd_leads ?_
        exact hyv3
      · refine State.servicePassEnd_leads ?_
        exact hyv3

theorem State.bstCtl_keeps {r0 : State} {s : State} {token : Nat} {code : Nat} (h : r0.Keeps s) : r0.Keeps (s.bstCtl token code) := by
  unfold State.bstCtl
  extract_lets +onlyGivenNames v1
  refine .upd s ?_ (⟨rfl, rfl, rfl⟩) (fun h => h) (fun h => h)
  exact h

theorem State.bstTest_keeps {r0 : State} {s : State} {token : Nat} {k : Nat} (h : r0.Keeps s) : r0.Keeps (s.bstTest token k) := by
  unfold State.bstTest
  extract_lets +onlyGivenNames v1
  clear_value v1
  refine .ite ?_ ?_
  · exact h
  · refine .ite ?_ ?_
    · refine State.bstCtl_keeps ?_
      exact h
    · refine State.target_keeps ?_
      refine State.setIsl_keeps ?_
      exact h

theorem State.bstClear_keeps {r0 : State} {s : State} {token : Nat} {k : Nat} (h : r0.Keeps s) : r0.Keeps (s.bstClear token k) := by
  unfold State.bstClear
  extract_lets +onlyGivenNames v1
  clear_value v1
  extract_lets +onlyGivenNames v2
  extract_lets +onlyGivenNames v3
  have hv3 : r0.Keeps v3 := by
    unfold v3
    refine .upd s ?_ (⟨rfl, rfl, rfl⟩) (fun h => h) (fun h => h)
    exact h
  obtain ⟨yv3, hyv3, ev3⟩ := hv3.gen
  rw [ev3]
  refine .ite ?_ ?_
  · exact h
  · refine .ite ?_ ?_
    · refine State.bstCtl_keeps ?_
      exact h
    · refine .ite ?_ ?_
      · refine State.bstCtl_keeps ?_
        exact hyv3
      · refine State.target_keeps ?_
        refine State.setIsl_keeps ?_
        exact hyv3

theorem State.gateTrip_leads {r0 : State} {s : State} {d : Int} (h : r0.Leads s) : r0.Leads (s.gateTrip d) := by
  unfold State.gateTrip
  extract_lets +onlyGivenNames v1
  have hv1 : r0.Leads v1 := by
    unfold v1
    refine .andThen ?_ (State.count_keeps (.refl _))
    exact h
  obtain ⟨yv1, hyv1, ev1⟩ := hv1.gen
  rw [ev1]
  extract_lets +onlyGivenNames v2
  extract_lets +onlyGivenNames v3
  have hv3 : r0.Leads v3 := by
    unfold v3
    refine .andThen ?_ (.upd yv1 (.refl _) (⟨rfl, rfl, rfl⟩) (fun h => h) (fun h => h))
    exact hyv1
  obtain ⟨yv3, hyv3, ev3⟩ := hv3.gen
  rw [ev3]
  split
  · rename_i y4 y5 y6 y7
    refine State.safeReaction_leads ?_
    refine .snd y7 ?_
    refine .andThen ?_ (State.draw_keeps (.refl _))
    exact hyv3

theorem State.periodicCompare_leads {r0 : State} {s : State} (h : r0.Leads s) : r0.Leads s.periodicCompare := by
  unfold State.periodicCompare
  extract_lets +onlyGivenNames v1
  clear_value v1
  refine .ite ?_ ?_
  · exact h
  · refine .ite ?_ ?_
    · exact h
    · refine State.gateTrip_leads ?_
      exact h

theorem State.railFault_leads {r0 : State} {s : State} {r : Rail} {mv : Nat} (h : r0.Leads s) : r0.Leads (s.railFault r mv) := by
  unfold State.railFault
  extract_lets +onlyGivenNames v1
  have hv1 : r0.Leads v1 := by
    unfold v1
    split
    · rename_i y2
      refine .andThen ?_ (State.seeCore_keeps (.refl _))
      exact h
    · rename_i y3 y4
      exact h
  obtain ⟨yv1, hyv1, ev1⟩ := hv1.gen
  rw [ev1]
  refine .ite ?_ ?_
  · exact h
  · refine State.safeReaction_leads ?_
    exact hyv1

theorem State.tempFault_leads {r0 : State} {s : State} (h : r0.Leads s) : r0.Leads s.tempFault := by
  unfold State.tempFault
  refine .ite ?_ ?_
  · exact h
  · split
    · rename_i y1 y2 y3 y4
      refine State.safeReaction_leads ?_
      refine .snd y4 ?_
      refine .andThen ?_ (State.draw_keeps (.refl _))
      exact h

theorem State.lockstep_leads {r0 : State} {s : State} {sram : Bool} (h : r0.Leads s) : r0.Leads (s.lockstep sram) := by
  unfold State.lockstep
  refine .ite ?_ ?_
  · exact h
  · refine .ite ?_ ?_
    · refine State.bodkinFault_leads ?_
      refine .andThen ?_ (State.count_keeps (.refl _))
      exact h
    · refine State.bodkinFault_leads ?_
      exact h

theorem State.heartbeat_leads {r0 : State} {s : State} (h : r0.Leads s) : r0.Leads s.heartbeat := by
  unfold State.heartbeat
  refine .ite ?_ ?_
  · refine State.bodkinFault_leads ?_
    exact h
  · exact h

theorem State.pathFails_keeps {r0 : State} {s : State} {a : Bool} (h : r0.Keeps s) : r0.Keeps (s.pathFails a) := by
  unfold State.pathFails
  extract_lets +onlyGivenNames v1
  extract_lets +onlyGivenNames v2
  have hv2 : r0.Keeps v2 := by
    unfold v2
    refine .upd s ?_ (⟨rfl, rfl, rfl⟩) (fun h => h) (fun h => h)
    exact h
  obtain ⟨yv2, hyv2, ev2⟩ := hv2.gen
  rw [ev2]
  extract_lets +onlyGivenNames v3
  have hv3 : r0.Keeps v3 := by
    unfold v3
    refine .upd s ?_ (⟨rfl, rfl, rfl⟩) (fun h => h) (fun h => h)
    exact h
  obtain ⟨yv3, hyv3, ev3⟩ := hv3.gen
  rw [ev3]
  refine .ite ?_ ?_
  · refine .ite ?_ ?_
    · refine State.noteFault_keeps ?_
      refine State.noteDegraded_keeps ?_
      exact hyv2
    · exact h
  · refine .ite ?_ ?_
    · refine State.noteFault_keeps ?_
      refine State.noteDegraded_keeps ?_
      exact hyv3
    · exact h

theorem State.pathALost_keeps {r0 : State} {s : State} (h : r0.Keeps s) : r0.Keeps s.pathALost := by
  unfold State.pathALost
  extract_lets +onlyGivenNames v1
  refine State.noteFault_keeps ?_
  refine .upd s ?_ (⟨rfl, rfl, rfl⟩) (fun h => h) (fun h => h)
  exact h

theorem State.reportTag_leads {r0 : State} {s : State} {tag : Nat} (h : r0.Leads s) : r0.Leads (s.reportTag tag) := by
  unfold State.reportTag
  refine .ite ?_ ?_
  · exact h
  · split
    · rename_i y1 y2
      refine State.safeReaction_leads ?_
      exact h
    · rename_i y3 y4
      refine .ite ?_ ?_
      · refine State.safeReaction_leads ?_
        exact h
      · refine .andThen ?_ (State.faultReport_keeps (.refl _))
        exact h
    · rename_i y5 y6
      refine .ite ?_ ?_
      · refine State.lockstep_leads ?_
        exact h
      · refine .andThen ?_ (State.memoryError_keeps (.refl _))
        exact h
    · rename_i y7 y8 y9 y10
      refine .andThen ?_ (State.islandError_keeps (.refl _))
      exact h

theorem State.muteClk_keeps {r0 : State} {s : State} {n : Nat} (h : r0.Keeps s) : r0.Keeps (s.muteClk n) := by
  unfold State.muteClk
  refine State.noteDegraded_keeps ?_
  refine State.outputsFollow_keeps ?_
  refine State.setClk_keeps ?_
  exact h

theorem State.clockTrip_leads {r0 : State} {s : State} {d : ClkDom} (h : r0.Leads s) : r0.Leads (s.clockTrip d) := by
  unfold State.clockTrip
  extract_lets +onlyGivenNames v1
  have hv1 : r0.Leads v1 := by
    unfold v1
    refine .andThen ?_ (State.faultReport_keeps (.refl _))
    exact h
  obtain ⟨yv1, hyv1, ev1⟩ := hv1.gen
  rw [ev1]
  extract_lets +onlyGivenNames v2
  refine .ite ?_ ?_
  · exact h
  · split
    · rename_i y5 y6
      refine .andThen ?_ (State.linkDrop_keeps (.refl _))
      exact h
    · rename_i y7 y8
      extract_lets +onlyGivenNames v9
      have hv9 : r0.Leads v9 := by
        unfold v9
        refine .andThen ?_ (State.holdPort_keeps (.refl _))
        refine .andThen ?_ (State.faultReport_keeps (.refl _))
        exact h
      obtain ⟨yv9, hyv9, ev9⟩ := hv9.gen
      rw [ev9]
      refine .ite ?_ ?_
      · refine .andThen ?_ (State.target_keeps (.refl _))
        exact hyv9
      · exact hyv9
    · rename_i y10
      refine .andThen ?_ (State.faultReport_keeps (.refl _))
      exact h
    · rename_i y11
      refine .andThen ?_ (State.hifResetBlock_keeps (.refl _))
      refine .andThen ?_ (State.faultReport_keeps (.refl _))
      exact h
    · rename_i y12
      refine .ite ?_ ?_
      · refine .andThen ?_ (.upd yv1 (.refl _) (⟨rfl, rfl, rfl⟩) (fun h => h) (fun h => h))
        exact hyv1
      · exact hyv1
    · rename_i y13 y14
      refine .andThen ?_ (State.muteClk_keeps (.refl _))
      exact h
    · rename_i y15 y16 y17 y18 y19 y20 y21
      refine State.safeReaction_leads ?_
      exact h

end Sys2Proof.Machine
end

