-- ==== Sys2Proof/Laws/KeepOutputs.lean ====
section
/-! SUPPORT. What the operations of Machine/Outputs.lean keep. -/

set_option Elab.async false
set_option linter.unusedVariables false
set_option linter.unusedSimpArgs false

namespace Sys2Proof.Machine

open Sys2Proof

theorem State.clkMonitor_keeps {r0 : State} {s : State} {n : Nat} {counted : Nat} (h : r0.Keeps s) : r0.Keeps (s.clkMonitor n counted) := by
  unfold State.clkMonitor
  refine .ite ?_ ?_
  · exact h
  · refine .ite ?_ ?_
    · exact h
    · refine State.muteClk_keeps ?_
      exact h

theorem State.clkRealign_keeps {r0 : State} {s : State} {n : Nat} (h : r0.Keeps s) : r0.Keeps (s.clkRealign n) := by
  unfold State.clkRealign
  extract_lets +onlyGivenNames v1
  refine .ite ?_ ?_
  · exact h
  · refine State.setClk_keeps ?_
    exact h

theorem State.unmute_keeps {r0 : State} {s : State} {o : OutId} (h : r0.Keeps s) : r0.Keeps (s.unmute o) := by
  unfold State.unmute
  extract_lets +onlyGivenNames v1
  have hv1 : r0.Keeps v1 := by
    unfold v1
    refine State.setMuted_keeps ?_
    exact h
  obtain ⟨yv1, hyv1, ev1⟩ := hv1.gen
  rw [ev1]
  refine .ite ?_ ?_
  · exact h
  · split
    · rename_i y2 y3
      refine State.setClk_keeps ?_
      exact hyv1
    · rename_i y4 y5
      exact hyv1

theorem State.suppressEdge_leads {r0 : State} {s : State} (h : r0.Leads s) : r0.Leads s.suppressEdge := by
  unfold State.suppressEdge
  extract_lets +onlyGivenNames v1
  have hv1 : r0.Leads v1 := by
    unfold v1
    refine .andThen ?_ (State.count_keeps (.refl _))
    exact h
  obtain ⟨yv1, hyv1, ev1⟩ := hv1.gen
  rw [ev1]
  refine .ite ?_ ?_
  · exact hyv1
  · refine State.gateTrip_leads ?_
    exact hyv1

theorem State.ppsEdge_leads {r0 : State} {s : State} {m : Nat} (h : r0.Leads s) : r0.Leads (s.ppsEdge m) := by
  unfold State.ppsEdge
  extract_lets +onlyGivenNames v1
  extract_lets +onlyGivenNames v2
  clear_value v2
  split
  · rename_i y3 y4
    exact h
  · rename_i y5 y6 y7
    refine .ite ?_ ?_
    · exact h
    · refine .ite ?_ ?_
      · refine State.suppressEdge_leads ?_
        exact h
      · refine .andThen ?_ (State.setPps_keeps (.refl _))
        exact h

theorem State.ppsEnd_keeps {r0 : State} {s : State} {m : Nat} (h : r0.Keeps s) : r0.Keeps (s.ppsEnd m) := by
  unfold State.ppsEnd
  extract_lets +onlyGivenNames v1
  refine .ite ?_ ?_
  · refine State.applyMute_keeps ?_
    refine State.setPps_keeps ?_
    exact h
  · exact h

theorem State.ppsLost_keeps {r0 : State} {s : State} {m : Nat} (h : r0.Keeps s) : r0.Keeps (s.ppsLost m) := by
  unfold State.ppsLost
  extract_lets +onlyGivenNames v1
  clear_value v1
  refine .ite ?_ ?_
  · refine State.setPps_keeps ?_
    exact h
  · exact h

theorem State.ofsSlewEnd_keeps {r0 : State} {s : State} {x0 : OutId} (h : r0.Keeps s) : r0.Keeps (s.ofsSlewEnd x0) := by
  unfold State.ofsSlewEnd
  split
  · rename_i y1 y2
    refine .ite ?_ ?_
    · refine State.setPps_keeps ?_
      exact h
    · exact h
  · rename_i y3 y4
    refine .ite ?_ ?_
    · refine State.setClk_keeps ?_
      exact h
    · exact h
  · rename_i y5
    exact h
  · rename_i y6
    exact h

theorem State.todSend_keeps {r0 : State} {s : State} (h : r0.Keeps s) : r0.Keeps s.todSend := by
  unfold State.todSend
  extract_lets +onlyGivenNames v1
  clear_value v1
  extract_lets +onlyGivenNames v2
  clear_value v2
  extract_lets +onlyGivenNames v3
  clear_value v3
  extract_lets +onlyGivenNames v4
  clear_value v4
  extract_lets +onlyGivenNames v5
  extract_lets +onlyGivenNames v6
  have hv6 : r0.Keeps v6 := by
    unfold v6
    refine .upd s ?_ (⟨rfl, rfl, rfl⟩) (fun h => h) (fun h => h)
    exact h
  obtain ⟨yv6, hyv6, ev6⟩ := hv6.gen
  rw [ev6]
  extract_lets +onlyGivenNames v7
  clear_value v7
  extract_lets +onlyGivenNames v8
  extract_lets +onlyGivenNames v9
  extract_lets +onlyGivenNames v10
  extract_lets +onlyGivenNames v11
  have hv11 : r0.Keeps v11 := by
    unfold v11
    refine .upd yv6 ?_ (⟨rfl, rfl, rfl⟩) (fun h => h) (fun h => h)
    exact hyv6
  obtain ⟨yv11, hyv11, ev11⟩ := hv11.gen
  rw [ev11]
  refine .ite ?_ ?_
  · exact h
  · refine .ite ?_ ?_
    · refine State.count_keeps ?_
      exact hyv6
    · refine State.countN_keeps ?_
      exact hyv11

theorem State.gppsPulse_leads {r0 : State} {s : State} (h : r0.Leads s) : r0.Leads s.gppsPulse := by
  unfold State.gppsPulse
  extract_lets +onlyGivenNames v1
  refine .ite ?_ ?_
  · exact h
  · refine .ite ?_ ?_
    · refine State.suppressEdge_leads ?_
      exact h
    · refine .andThen ?_ (.upd s (.refl _) (⟨rfl, rfl, rfl⟩) (fun h => h) (fun h => h))
      exact h

theorem State.latchGpps_keeps {r0 : State} {s : State} (h : r0.Keeps s) : r0.Keeps s.latchGpps := by
  unfold State.latchGpps
  extract_lets +onlyGivenNames v1
  split
  · rename_i y2 y3 y4
    refine .upd s ?_ (⟨rfl, rfl, rfl⟩) (fun h => h) (fun h => h)
    exact h
  · rename_i y5 y6
    refine .upd s ?_ (⟨rfl, rfl, rfl⟩) (fun h => h) (fun h => h)
    exact h

end Sys2Proof.Machine
end

