-- ==== Sys2Proof/Laws/KeepGnssBaseband.lean ====
section
/-! SUPPORT. What the operations of Machine/GnssBaseband.lean keep. -/

set_option Elab.async false
set_option linter.unusedVariables false
set_option linter.unusedSimpArgs false

namespace Sys2Proof.Machine

open Sys2Proof

theorem State.setChan_keeps {r0 : State} {s : State} {c : Nat} {f : Chan → Chan} (h : r0.Keeps s) : r0.Keeps (s.setChan c f) := by
  unfold State.setChan
  extract_lets +onlyGivenNames v1
  refine .upd s ?_ (⟨rfl, rfl, rfl⟩) (fun h => h) (by simp only [updAt_length]; exact fun h => h)
  exact h

theorem State.releaseAll_keeps {r0 : State} {s : State} (h : r0.Keeps s) : r0.Keeps s.releaseAll := by
  unfold State.releaseAll
  extract_lets +onlyGivenNames v1
  refine .upd s ?_ (⟨rfl, rfl, rfl⟩) (fun h => h) (fun ⟨a, b, c, d, e, f, g, i, j, k, l, m, n, o, p, q⟩ => by refine ⟨?_, ?_, ?_, ?_, ?_, ?_, ?_, ?_, ?_, ?_, ?_, ?_, ?_, ?_, ?_, ?_⟩ <;> first | assumption | (simp +zetaDelta only []; split <;> simp only [updAt_length, putAt_length, List.length_map] <;> first | assumption | rfl) | rfl)
  exact h

theorem State.setGain_keeps {r0 : State} {s : State} {a : Bool} {i : Nat} {w : W32} (h : r0.Keeps s) : r0.Keeps (s.setGain a i w) := by
  unfold State.setGain
  extract_lets +onlyGivenNames v1
  extract_lets +onlyGivenNames v2
  clear_value v2
  refine .ite ?_ ?_
  · exact h
  · split
    · rename_i y5 y6 y7 y8
      extract_lets +onlyGivenNames v9
      refine .ite ?_ ?_
      · refine .upd y7 ?_ (⟨rfl, rfl, rfl⟩) (fun h => h) (fun h => h)
        refine .snd y8 ?_
        split
        · rename_i y10
          dsimp only
          exact h
        · rename_i y11
          dsimp only
          refine State.draw_keeps ?_
          exact h
      · refine .upd y7 ?_ (⟨rfl, rfl, rfl⟩) (fun h => h) (fun h => h)
        refine .snd y8 ?_
        split
        · rename_i y12
          dsimp only
          exact h
        · rename_i y13
          dsimp only
          refine State.draw_keeps ?_
          exact h

theorem State.spiSend_keeps {r0 : State} {s : State} {i : Nat} (h : r0.Keeps s) : r0.Keeps (s.spiSend i) := by
  unfold State.spiSend
  extract_lets +onlyGivenNames v1
  refine .upd s ?_ (⟨rfl, rfl, rfl⟩) (fun h => h) (fun h => h)
  exact h

theorem State.agcEntry_keeps {r0 : State} {s : State} {i : Nat} (h : r0.Keeps s) : r0.Keeps (s.agcEntry i) := by
  unfold State.agcEntry
  extract_lets +onlyGivenNames v1
  have hv1 : r0.Keeps v1 := by
    unfold v1
    refine State.spiSend_keeps ?_
    exact h
  obtain ⟨yv1, hyv1, ev1⟩ := hv1.gen
  rw [ev1]
  extract_lets +onlyGivenNames v2
  refine .upd yv1 ?_ (⟨rfl, rfl, rfl⟩) (fun h => h) (fun h => h)
  exact hyv1

theorem State.scriptDone_keeps {r0 : State} {s : State} {fail : Bool} (h : r0.Keeps s) : r0.Keeps (s.scriptDone fail) := by
  unfold State.scriptDone
  extract_lets _ _ g
  have hg : g.chans = s.gns.chans ∧ g.excls = s.gns.excls := by unfold g; split <;> exact ⟨rfl, rfl⟩
  refine .upd s h ⟨rfl, rfl, rfl⟩ (fun k => ?_) fun k => ?_
  · rw [hg.2]; exact k
  · rw [hg.1]; exact k

theorem scriptRun_keeps {r0 : State} {x0 : Nat} {x1 : Nat} {x2 : List W32} {s : State} (h : r0.Keeps s) : r0.Keeps (scriptRun x0 x1 x2 s) := by
  induction x0 generalizing x1 x2 s with
  | zero => exact State.scriptDone_keeps h
  | succ n ih =>
    have hs : r0.Keeps (s.spiSend x1) := State.spiSend_keeps h
    unfold scriptRun
    extract_lets w got m
    refine .ite (State.scriptDone_keeps h) ?_
    split
    · exact ih hs
    · exact .ite (ih hs) (State.scriptDone_keeps hs)
    · exact .upd s h ⟨rfl, rfl, rfl⟩ (fun h => h) (fun h => h)
    · exact ih (State.setGain_keeps (.upd _ hs ⟨rfl, rfl, rfl⟩ (fun h => h) (fun h => h)))
    · exact ih (State.setGain_keeps (.upd _ hs ⟨rfl, rfl, rfl⟩ (fun h => h) (fun h => h)))
    · exact State.scriptDone_keeps h

theorem State.feScript_keeps {r0 : State} {s : State} {miso : List W32} (h : r0.Keeps s) : r0.Keeps (s.feScript miso) := by
  unfold State.feScript
  extract_lets +onlyGivenNames v1
  clear_value v1
  extract_lets +onlyGivenNames v2
  refine .ite ?_ ?_
  · exact h
  · refine scriptRun_keeps ?_
    refine .upd s ?_ (⟨rfl, rfl, rfl⟩) (fun h => h) (fun h => h)
    exact h

theorem State.scriptResume_keeps {r0 : State} {s : State} {miso : List W32} (h : r0.Keeps s) : r0.Keeps (s.scriptResume miso) := by
  unfold State.scriptResume
  extract_lets +onlyGivenNames v1
  split
  · rename_i y2 y3 y4
    refine .ite ?_ ?_
    · refine scriptRun_keeps ?_
      refine .upd s ?_ (⟨rfl, rfl, rfl⟩) (fun h => h) (fun h => h)
      exact h
    · exact h
  · rename_i y5 y6
    exact h

theorem State.agcRead_keeps {r0 : State} {s : State} {miso : List W32} (h : r0.Keeps s) : r0.Keeps (s.agcRead miso) := by
  unfold State.agcRead
  extract_lets +onlyGivenNames v1
  extract_lets +onlyGivenNames v2
  have hv2 : r0.Keeps v2 := by
    unfold v2
    refine .upd s ?_ (⟨rfl, rfl, rfl⟩) (fun h => h) (fun h => h)
    exact h
  obtain ⟨yv2, hyv2, ev2⟩ := hv2.gen
  rw [ev2]
  refine .ite ?_ ?_
  · exact h
  · refine .foldl ?_ fun t3 a4 k5 => ?_
    · exact hyv2
    · refine State.setGain_keeps ?_
      refine State.spiSend_keeps ?_
      exact k5

theorem State.agcReport_keeps {r0 : State} {s : State} {a : List (BitVec 8 × BitVec 8)} {b : List (BitVec 8 × BitVec 8)} (h : r0.Keeps s) :
    r0.Keeps (s.agcReport a b) := by
  unfold State.agcReport
  refine .ite h ?_
  extract_lets
  split
  split
  extract_lets g1 g2
  have h1 : g1.chans = s.gns.chans ∧ g1.excls = s.gns.excls := by constructor <;> (unfold g1; split <;> rfl)
  have h2 : g2.chans = g1.chans ∧ g2.excls = g1.excls := by constructor <;> (unfold g2; split <;> rfl)
  refine .upd s h ⟨rfl, rfl, rfl⟩ (fun k => ?_) fun k => ?_
  · rw [h2.2, h1.2]; exact k
  · rw [h2.1, h1.1]; exact k

theorem State.placeOne_keeps {r0 : State} {s : State} {v : Visible} (h : r0.Keeps s) : r0.Keeps (s.placeOne v) := by
  unfold State.placeOne
  extract_lets +onlyGivenNames v1
  extract_lets +onlyGivenNames v2
  clear_value v2
  refine .ite ?_ ?_
  · exact h
  · split
    · rename_i y3 y4
      exact h
    · rename_i y5 y6 y7
      refine State.setChan_keeps ?_
      exact h

theorem State.keepAlmanacs_keeps {r0 : State} {s : State} {systems : List Nat} (h : r0.Keeps s) : r0.Keeps (s.keepAlmanacs systems) := by
  unfold State.keepAlmanacs
  extract_lets put
  have hp : ∀ m k, Assoc.rising m → Assoc.rising (put m k) := by
    intro m k hm
    unfold put
    split
    · split
      · exact hm
      · exact Assoc.rising_put _ _ _ hm
    · exact Assoc.rising_put _ _ _ hm
  refine .upd s h ⟨rfl, rfl, rfl⟩ (fun ⟨a, b, c, d, e, f, g, i, j, k, l, m⟩ => ⟨a, b, c, d, e, f, g, i, j, k, ?_, m⟩) (fun h => h)
  exact Assoc.rising_foldl hp _ l

theorem State.settleStart_keeps {r0 : State} {s : State} {sats : List Visible} (h : r0.Keeps s) : r0.Keeps (s.settleStart sats) := by
  unfold State.settleStart
  extract_lets +onlyGivenNames v1
  refine .ite ?_ ?_
  · refine .upd s ?_ (⟨rfl, rfl, rfl⟩) (fun h => h) (fun h => h)
    exact h
  · exact h

theorem State.placement_keeps {r0 : State} {s : State} {almanacs : List Nat} {sats : List Visible} (h : r0.Keeps s) : r0.Keeps (s.placement almanacs sats) := by
  unfold State.placement
  extract_lets +onlyGivenNames v1
  extract_lets +onlyGivenNames v2
  have hv2 : r0.Keeps v2 := by
    unfold v2
    refine State.settleStart_keeps ?_
    refine State.keepAlmanacs_keeps ?_
    refine .upd s ?_ (⟨rfl, rfl, rfl⟩) (fun h => h) (fun h => h)
    exact h
  obtain ⟨yv2, hyv2, ev2⟩ := hv2.gen
  rw [ev2]
  extract_lets +onlyGivenNames v3
  extract_lets +onlyGivenNames v4
  extract_lets +onlyGivenNames v5
  extract_lets +onlyGivenNames v6
  have hv6 : r0.Keeps v6 := by
    unfold v6
    refine .upd yv2 ?_ (⟨rfl, rfl, rfl⟩) (fun h => h) (by simp only [updAt_length, putAt_length, List.length_map, List.length_mapIdx]; exact fun h => h)
    exact hyv2
  obtain ⟨yv6, hyv6, ev6⟩ := hv6.gen
  rw [ev6]
  refine .ite ?_ ?_
  · exact h
  · refine .ite ?_ ?_
    · exact hyv6
    · refine .foldl ?_ fun t7 a8 k9 => ?_
      · exact hyv6
      · refine State.placeOne_keeps ?_
        exact k9

theorem State.redoPlacement_keeps {r0 : State} {s : State} (h : r0.Keeps s) : r0.Keeps s.redoPlacement := by
  unfold State.redoPlacement
  extract_lets +onlyGivenNames v1
  extract_lets +onlyGivenNames v2
  refine .ite ?_ ?_
  · exact h
  · refine .ite ?_ ?_
    · refine .upd s ?_ (⟨rfl, rfl, rfl⟩) (fun h => h) (fun h => h)
      exact h
    · refine State.placement_keeps ?_
      refine .upd s ?_ (⟨rfl, rfl, rfl⟩) (fun h => h) (by simp +zetaDelta only [updAt_length, putAt_length, List.length_map, List.length_mapIdx]; exact fun h => h)
      exact h

theorem State.chanDetect_keeps {r0 : State} {s : State} {ch : Nat} {peak1 : Nat} {peak2 : Nat} {code : Nat} {bin : Int} (h : r0.Keeps s) : r0.Keeps (s.chanDetect ch peak1 peak2 code bin) := by
  unfold State.chanDetect
  extract_lets +onlyGivenNames v1
  refine .ite ?_ ?_
  · refine State.setChan_keeps ?_
    exact h
  · exact h

theorem State.chanExhausted_keeps {r0 : State} {s : State} {ch : Nat} (h : r0.Keeps s) : r0.Keeps (s.chanExhausted ch) := by
  unfold State.chanExhausted
  extract_lets +onlyGivenNames v1
  extract_lets +onlyGivenNames v2
  extract_lets +onlyGivenNames v3
  refine .ite ?_ ?_
  · refine State.setChan_keeps ?_
    refine .upd s ?_ (⟨rfl, rfl, rfl⟩) (fun h => h) (fun h => h)
    exact h
  · exact h

theorem State.chanPullin_keeps {r0 : State} {s : State} {ch : Nat} (h : r0.Keeps s) : r0.Keeps (s.chanPullin ch) := by
  unfold State.chanPullin
  extract_lets +onlyGivenNames v1
  refine .ite ?_ ?_
  · refine State.setChan_keeps ?_
    exact h
  · exact h

theorem State.chanPullinTimeout_keeps {r0 : State} {s : State} {ch : Nat} (h : r0.Keeps s) : r0.Keeps (s.chanPullinTimeout ch) := by
  unfold State.chanPullinTimeout
  extract_lets +onlyGivenNames v1
  refine .ite ?_ ?_
  · refine State.setChan_keeps ?_
    exact h
  · exact h

theorem State.chanSync_keeps {r0 : State} {s : State} {ch : Nat} (h : r0.Keeps s) : r0.Keeps (s.chanSync ch) := by
  unfold State.chanSync
  refine .ite ?_ ?_
  · refine State.setChan_keeps ?_
    exact h
  · exact h

theorem State.chanTow_keeps {r0 : State} {s : State} {ch : Nat} (h : r0.Keeps s) : r0.Keeps (s.chanTow ch) := by
  unfold State.chanTow
  extract_lets +onlyGivenNames v1
  extract_lets +onlyGivenNames v2
  have hv2 : r0.Keeps v2 := by
    unfold v2
    refine State.setChan_keeps ?_
    exact h
  obtain ⟨yv2, hyv2, ev2⟩ := hv2.gen
  rw [ev2]
  refine .ite ?_ ?_
  · split
    · rename_i y4 y5 y6
      refine State.count_keeps ?_
      refine State.setChan_keeps ?_
      exact hyv2
    · rename_i y7 y8
      exact hyv2
  · exact h

theorem State.chanLost_keeps {r0 : State} {s : State} {ch : Nat} (h : r0.Keeps s) : r0.Keeps (s.chanLost ch) := by
  unfold State.chanLost
  refine .ite ?_ ?_
  · refine State.setChan_keeps ?_
    exact h
  · exact h

theorem State.chanRefound_keeps {r0 : State} {s : State} {ch : Nat} (h : r0.Keeps s) : r0.Keeps (s.chanRefound ch) := by
  unfold State.chanRefound
  extract_lets +onlyGivenNames v1
  refine .ite ?_ ?_
  · refine State.setChan_keeps ?_
    exact h
  · exact h

theorem State.chanLostTimeout_keeps {r0 : State} {s : State} {ch : Nat} (h : r0.Keeps s) : r0.Keeps (s.chanLostTimeout ch) := by
  unfold State.chanLostTimeout
  extract_lets +onlyGivenNames v1
  refine .ite ?_ ?_
  · refine State.setChan_keeps ?_
    exact h
  · exact h

theorem State.chanSlip_keeps {r0 : State} {s : State} {ch : Nat} (h : r0.Keeps s) : r0.Keeps (s.chanSlip ch) := by
  unfold State.chanSlip
  refine .ite ?_ ?_
  · refine State.count_keeps ?_
    refine State.setChan_keeps ?_
    exact h
  · exact h

theorem State.epoch_keeps {r0 : State} {s : State} {code : Nat} {latch : List ChanLatch} (h : r0.Keeps s) : r0.Keeps (s.epoch code latch) := by
  unfold State.epoch
  extract_lets +onlyGivenNames v1
  clear_value v1
  extract_lets +onlyGivenNames v2
  clear_value v2
  extract_lets +onlyGivenNames v3
  clear_value v3
  extract_lets +onlyGivenNames v4
  have hv4 : r0.Keeps v4 := by
    unfold v4
    refine State.tacBusy_keeps ?_
    exact h
  obtain ⟨yv4, hyv4, ev4⟩ := hv4.gen
  rw [ev4]
  extract_lets +onlyGivenNames v5
  have hv5 : r0.Keeps v5 := by
    unfold v5
    refine .foldl ?_ fun t6 a7 k8 => ?_
    · exact hyv4
    · refine State.setChan_keeps ?_
      exact k8
  obtain ⟨yv5, hyv5, ev5⟩ := hv5.gen
  rw [ev5]
  extract_lets +onlyGivenNames v9
  extract_lets +onlyGivenNames v10
  clear_value v10
  extract_lets +onlyGivenNames v11
  clear_value v11
  extract_lets +onlyGivenNames v12
  extract_lets +onlyGivenNames v13
  extract_lets +onlyGivenNames v14
  refine .ite ?_ ?_
  · exact h
  · refine .ite ?_ ?_
    · refine State.tacMiss_keeps ?_
      exact h
    · refine .ite ?_ ?_
      · exact hyv5
      · refine .upd yv5 ?_ (⟨rfl, rfl, rfl⟩) (fun h => h) (by simp +zetaDelta only [updAt_length, putAt_length, List.length_map, List.length_mapIdx]; exact fun h => h)
        exact hyv5

theorem State.recLock_keeps {r0 : State} {s : State} {p : Path} (h : r0.Keeps s) : r0.Keeps (s.recLock p) := by
  unfold State.recLock
  refine .ite ?_ ?_
  · exact h
  · refine State.setLat_keeps ?_
    exact h

theorem State.gnsLatch_keeps {r0 : State} {s : State} {p : Path} (h : r0.Keeps s) : r0.Keeps (s.gnsLatch p) := by
  unfold State.gnsLatch
  refine .ite ?_ ?_
  · exact h
  · refine State.setLat_keeps ?_
    exact h

theorem State.gnsCtl_keeps {r0 : State} {s : State} {token : Nat} {code : Nat} (h : r0.Keeps s) : r0.Keeps (s.gnsCtl token code) := by
  unfold State.gnsCtl
  extract_lets +onlyGivenNames v1
  refine .upd s ?_ (⟨rfl, rfl, rfl⟩) (fun h => h) (fun h => h)
  exact h

theorem State.surveyStart_keeps {r0 : State} {s : State} (h : r0.Keeps s) : r0.Keeps s.surveyStart := by
  unfold State.surveyStart
  extract_lets +onlyGivenNames v1
  extract_lets +onlyGivenNames v2
  extract_lets +onlyGivenNames v3
  refine .upd s ?_ (⟨rfl, rfl, rfl⟩) (fun h => h) (fun h => h)
  exact h

theorem State.resurvey_keeps {r0 : State} {s : State} {token : Nat} (h : r0.Keeps s) : r0.Keeps (s.resurvey token) := by
  unfold State.resurvey
  refine .ite ?_ ?_
  · exact h
  · refine .ite ?_ ?_
    · refine State.gnsCtl_keeps ?_
      exact h
    · refine .ite ?_ ?_
      · refine State.gnsCtl_keeps ?_
        exact h
      · refine State.gnsCtl_keeps ?_
        refine State.surveyStart_keeps ?_
        exact h

theorem State.integReset_keeps {r0 : State} {s : State} (h : r0.Keeps s) : r0.Keeps s.integReset := by
  unfold State.integReset
  extract_lets +onlyGivenNames v1
  clear_value v1
  extract_lets +onlyGivenNames v2
  refine .upd s ?_ (⟨rfl, rfl, rfl⟩) (fun ⟨a, b, c, d, e, f, g, i, j, k⟩ => by refine ⟨?_, ?_, ?_, ?_, ?_, ?_, ?_, ?_, ?_, ?_⟩ <;> repeat' first | assumption | trivial | unfold v2 | split) (fun h => h)
  exact h

theorem State.rerunScript_keeps {r0 : State} {s : State} {token : Nat} (h : r0.Keeps s) : r0.Keeps (s.rerunScript token) := by
  unfold State.rerunScript
  extract_lets +onlyGivenNames v1
  have hv1 : r0.Keeps v1 := by
    unfold v1
    refine State.integReset_keeps ?_
    refine State.releaseAll_keeps ?_
    exact h
  obtain ⟨yv1, hyv1, ev1⟩ := hv1.gen
  rw [ev1]
  extract_lets +onlyGivenNames v2
  refine .ite ?_ ?_
  · exact h
  · refine .ite ?_ ?_
    · refine State.gnsCtl_keeps ?_
      exact h
    · refine .ite ?_ ?_
      · refine State.gnsCtl_keeps ?_
        exact h
      · refine .upd yv1 ?_ (⟨rfl, rfl, rfl⟩) (fun h => h) (fun h => h)
        exact hyv1

theorem State.coldStart_keeps {r0 : State} {s : State} {token : Nat} (h : r0.Keeps s) : r0.Keeps (s.coldStart token) := by
  unfold State.coldStart
  extract_lets +onlyGivenNames v1
  have hv1 : r0.Keeps v1 := by
    unfold v1
    refine State.integReset_keeps ?_
    refine State.releaseAll_keeps ?_
    exact h
  obtain ⟨yv1, hyv1, ev1⟩ := hv1.gen
  rw [ev1]
  extract_lets +onlyGivenNames v2
  extract_lets +onlyGivenNames v3
  extract_lets +onlyGivenNames v4
  extract_lets +onlyGivenNames v5
  refine .ite ?_ ?_
  · exact h
  · refine .ite ?_ ?_
    · refine State.gnsCtl_keeps ?_
      exact h
    · refine State.gnsCtl_keeps ?_
      refine .upd yv1 ?_ (⟨rfl, rfl, rfl⟩) (fun ⟨a, b, c, d, e, f, g, i, j, k, _, l⟩ => ⟨a, b, c, d, e, f, g, i, j, k, trivial, l⟩) (fun h => h)
      exact hyv1

end Sys2Proof.Machine
end

