-- ==== Sys2Proof/Laws/KeepGnssIntegrity.lean ====
section
/-! SUPPORT. What the operations of Machine/GnssIntegrity.lean keep. -/

set_option Elab.async false
set_option linter.unusedVariables false
set_option linter.unusedSimpArgs false

namespace Sys2Proof.Machine

open Sys2Proof

theorem State.exclude_keeps {r0 : State} {s : State} {sat : Bool} {sys : Nat} {svid : Nat} {bit : Nat} (h : r0.Keeps s) : r0.Keeps (s.exclude sat sys svid bit).1 := by
  unfold State.exclude
  extract_lets +onlyGivenNames v1
  extract_lets +onlyGivenNames v2
  extract_lets +onlyGivenNames v3
  clear_value v3
  extract_lets +onlyGivenNames v4
  split
  · rename_i y6 y7 y8 y9
    extract_lets +onlyGivenNames v10
    clear_value v10
    extract_lets +onlyGivenNames v11
    dsimp only
    refine .upd s ?_ (⟨rfl, rfl, rfl⟩) (fun ⟨a, b, c, d, e, f, g, i, j, k⟩ => ⟨a, b, c, d, e, f, Assoc.rising_put _ _ _ g, i, j, k⟩) (fun h => h)
    exact h
  · rename_i y12 y13
    split
    · rename_i y15 y16
      dsimp only
      exact h
    · rename_i y17 y18 y19
      extract_lets +onlyGivenNames v20
      have hv20 : r0.Keeps v20 := by
        unfold v20
        refine State.count_keeps ?_
        refine .upd s ?_ (⟨rfl, rfl, rfl⟩) (fun ⟨a, b, c, d, e, f, g, i, j, k⟩ => ⟨a, b, c, d, e, f, Assoc.rising_put _ _ _ g, i, j, k⟩) (fun h => h)
        exact h
      obtain ⟨yv20, hyv20, ev20⟩ := hv20.gen
      rw [ev20]
      extract_lets +onlyGivenNames v21
      dsimp only
      refine State.log_keeps ?_
      exact hyv20

theorem State.excludeAll_keeps {r0 : State} {s : State} {sat : Bool} {bit : Nat} {l : List SatId} (h : r0.Keeps s) : r0.Keeps (s.excludeAll sat bit l).1 :=
  .foldlFst h fun _ _ k => State.exclude_keeps k

theorem State.exclMap_keeps {r0 : State} {s : State} {f : Excl → Excl} (h : r0.Keeps s) : r0.Keeps (s.exclMap f) := by
  unfold State.exclMap
  extract_lets +onlyGivenNames v1
  refine .upd s ?_ (⟨rfl, rfl, rfl⟩) (fun ⟨a, b, c, d, e, f, g, i, j, k⟩ => ⟨a, b, c, d, e, f, Assoc.rising_map _ _ (fun _ => rfl) g, i, j, k⟩) (fun h => h)
  exact h

theorem State.exclTick_keeps {r0 : State} {s : State} (h : r0.Keeps s) : r0.Keeps s.exclTick := by
  unfold State.exclTick
  refine State.exclMap_keeps ?_
  exact h

theorem State.exclTests_keeps {r0 : State} {s : State} {fails : Excl → Bool} (h : r0.Keeps s) : r0.Keeps (s.exclTests fails) := by
  unfold State.exclTests
  refine State.exclMap_keeps ?_
  exact h

theorem State.exclExpire_keeps {r0 : State} {s : State} {k : Nat} (h : r0.Keeps s) : r0.Keeps (s.exclExpire k) := by
  unfold State.exclExpire
  extract_lets +onlyGivenNames v1
  split
  · rename_i y2 y3 y4
    refine .ite ?_ ?_
    · refine .upd s ?_ (⟨rfl, rfl, rfl⟩) (fun ⟨a, b, c, d, e, f, g, i, j, k⟩ => ⟨a, b, c, d, e, f, Assoc.rising_del _ _ g, i, j, k⟩) (fun h => h)
      exact h
    · exact h
  · rename_i y5 y6
    exact h

theorem State.prdOne_keeps {r0 : State} {s : State} {m : PrdMeas} (h : r0.Keeps s) : r0.Keeps (s.prdOne m).1 := by
  unfold State.prdOne
  extract_lets +onlyGivenNames v1
  extract_lets +onlyGivenNames v2
  clear_value v2
  extract_lets +onlyGivenNames v3
  split
  · rename_i y4
    dsimp only
    refine State.setChan_keeps ?_
    exact h
  · rename_i y5
    dsimp only
    exact h

theorem State.prdAll_keeps {r0 : State} {s : State} {ms : List PrdMeas} (h : r0.Keeps s) : r0.Keeps (s.prdAll ms).1 := by
  unfold State.prdAll
  have h0 : r0.Keeps { s with gns := { s.gns with prdF := false } } := .upd s h ⟨rfl, rfl, rfl⟩ (fun h => h) (fun h => h)
  split
  · exact h0
  · extract_lets r
    have h1 : r0.Keeps r.1 := .foldlFst h fun _ _ k => State.prdOne_keeps k
    clear_value r
    exact .upd _ h1 ⟨rfl, rfl, rfl⟩ (fun h => h) (fun h => h)

theorem State.powerTest_keeps {r0 : State} {s : State} (h : r0.Keeps s) : r0.Keeps s.powerTest := by
  unfold State.powerTest
  extract_lets +onlyGivenNames v1
  split
  · rename_i y2 y3 y4 y5 y6 y7 y8
    split
    · rename_i y9 y10 y11 y12 y13 y14 y15
      refine .upd s ?_ (⟨rfl, rfl, rfl⟩) (fun h => h) (fun h => h)
      exact h

theorem State.baseline_keeps {r0 : State} {s : State} (h : r0.Keeps s) : r0.Keeps s.baseline := by
  unfold State.baseline
  extract_lets +onlyGivenNames v1
  extract_lets +onlyGivenNames v2
  extract_lets +onlyGivenNames v3
  clear_value v3
  extract_lets +onlyGivenNames v4
  extract_lets +onlyGivenNames v5
  extract_lets +onlyGivenNames v6
  extract_lets +onlyGivenNames v7
  refine .ite ?_ ?_
  · exact h
  · refine .upd s ?_ (⟨rfl, rfl, rfl⟩) (fun h => by simp +zetaDelta only []; repeat' first | exact h | split) (fun h => h)
    exact h

theorem State.isbTake_keeps {r0 : State} {s : State} {t : Fit} {f : Form} {bc : List SysOffset} (h : r0.Keeps s) : r0.Keeps (s.isbTake t f bc) := by
  unfold State.isbTake
  extract_lets +onlyGivenNames v1
  clear_value v1
  extract_lets +onlyGivenNames v2
  extract_lets +onlyGivenNames v3
  extract_lets +onlyGivenNames v4
  extract_lets +onlyGivenNames v5
  extract_lets +onlyGivenNames v6
  refine .upd s ?_ (⟨rfl, rfl, rfl⟩) (fun h => h) (fun h => h)
  exact h

theorem State.isbNone_keeps {r0 : State} {s : State} {bc : List SysOffset} (h : r0.Keeps s) : r0.Keeps (s.isbNone bc) := by
  unfold State.isbNone
  extract_lets +onlyGivenNames v1
  refine .upd s ?_ (⟨rfl, rfl, rfl⟩) (fun h => h) (fun h => h)
  exact h

theorem State.qAnchor_keeps {r0 : State} {s : State} {z : Int} (h : r0.Keeps s) : r0.Keeps (s.qAnchor z) := by
  unfold State.qAnchor
  extract_lets +onlyGivenNames v1
  refine .upd s ?_ (⟨rfl, rfl, rfl⟩) (fun h => h) (fun h => h)
  exact h

theorem State.coast_keeps {r0 : State} {s : State} {z : Int} (h : r0.Keeps s) : r0.Keeps (s.coast z) := by
  unfold State.coast
  extract_lets +onlyGivenNames v1
  extract_lets +onlyGivenNames v2
  clear_value v2
  extract_lets +onlyGivenNames v3
  clear_value v3
  extract_lets +onlyGivenNames v4
  clear_value v4
  extract_lets +onlyGivenNames v5
  extract_lets +onlyGivenNames v6
  clear_value v6
  extract_lets +onlyGivenNames v7
  clear_value v7
  split
  · rename_i y9 y10 y11
    extract_lets +onlyGivenNames v12
    clear_value v12
    extract_lets +onlyGivenNames v13
    clear_value v13
    refine .ite ?_ ?_
    · refine .upd s ?_ (⟨rfl, rfl, rfl⟩) (fun h => h) (fun h => h)
      exact h
    · refine .upd s ?_ (⟨rfl, rfl, rfl⟩) (fun h => h) (fun h => h)
      exact h
  · rename_i y14 y15
    refine .upd s ?_ (⟨rfl, rfl, rfl⟩) (fun h => h) (fun h => h)
    exact h

theorem State.takeLeaps_keeps {r0 : State} {s : State} {sec : Nat} {l : List LeapAnn} (h : r0.Keeps s) : r0.Keeps (s.takeLeaps sec l) := by
  unfold State.takeLeaps
  extract_lets +onlyGivenNames v1
  extract_lets +onlyGivenNames v2
  extract_lets +onlyGivenNames v3
  extract_lets +onlyGivenNames v4
  have hv4 : r0.Keeps v4 := by
    unfold v4
    refine .upd s ?_ (⟨rfl, rfl, rfl⟩) (fun h => h) (fun h => h)
    exact h
  obtain ⟨yv4, hyv4, ev4⟩ := hv4.gen
  rw [ev4]
  extract_lets +onlyGivenNames v5
  have hv5 : r0.Keeps v5 := by
    unfold v5
    refine .foldl ?_ fun t7 a8 k9 => ?_
    · exact hyv4
    · extract_lets +onlyGivenNames v10
      split
      · rename_i y12 y13 y14
        extract_lets +onlyGivenNames v15
        clear_value v15
        refine .upd t7 ?_ (⟨rfl, rfl, rfl⟩) (fun h => h) (fun h => h)
        exact k9
      · rename_i y16 y17
        exact k9
  obtain ⟨yv5, hyv5, ev5⟩ := hv5.gen
  rw [ev5]
  refine State.refreshLeap_keeps ?_
  exact hyv5

theorem State.seedLeap_keeps {r0 : State} {s : State} {sec : Nat} {l : List LeapAnn} (h : r0.Keeps s) : r0.Keeps (s.seedLeap sec l) := by
  unfold State.seedLeap
  extract_lets +onlyGivenNames v1
  extract_lets +onlyGivenNames v2
  split
  · rename_i y3 y4 y5
    refine .ite ?_ ?_
    · refine State.refreshLeap_keeps ?_
      refine .upd s ?_ (⟨rfl, rfl, rfl⟩) (fun h => h) (fun h => h)
      exact h
    · exact h
  · rename_i y6 y7
    exact h

theorem State.surveyEnd_keeps {r0 : State} {s : State} (h : r0.Keeps s) : r0.Keeps s.surveyEnd := by
  unfold State.surveyEnd
  extract_lets +onlyGivenNames v1
  extract_lets +onlyGivenNames v2
  extract_lets +onlyGivenNames v3
  refine .upd s ?_ (⟨rfl, rfl, rfl⟩) (fun h => h) (fun h => h)
  exact h

theorem State.surveyLimit_keeps {r0 : State} {s : State} (h : r0.Keeps s) : r0.Keeps s.surveyLimit := by
  unfold State.surveyLimit
  refine .ite ?_ ?_
  · refine State.surveyEnd_keeps ?_
    exact h
  · exact h

theorem State.surveyStep_keeps {r0 : State} {s : State} {p : Int × Int × Int} (h : r0.Keeps s) : r0.Keeps (s.surveyStep p) := by
  unfold State.surveyStep
  extract_lets +onlyGivenNames v1
  clear_value v1
  extract_lets +onlyGivenNames v2
  extract_lets +onlyGivenNames v3
  clear_value v3
  extract_lets +onlyGivenNames v4
  extract_lets +onlyGivenNames v5
  have hv5 : r0.Keeps v5 := by
    unfold v5
    refine .upd s ?_ (⟨rfl, rfl, rfl⟩) (fun h => h) (fun h => h)
    exact h
  obtain ⟨yv5, hyv5, ev5⟩ := hv5.gen
  rw [ev5]
  extract_lets +onlyGivenNames v6
  clear_value v6
  extract_lets +onlyGivenNames v7
  clear_value v7
  extract_lets +onlyGivenNames v8
  clear_value v8
  refine .ite ?_ ?_
  · refine State.surveyEnd_keeps ?_
    exact hyv5
  · refine State.surveyLimit_keeps ?_
    exact hyv5

theorem State.holdCheck_keeps {r0 : State} {s : State} {f : Form} {h : Int × Int × Int} {p : Int × Int × Int} (hk : r0.Keeps s) : r0.Keeps (s.holdCheck f h p) := by
  unfold State.holdCheck
  extract_lets +onlyGivenNames v1
  clear_value v1
  extract_lets +onlyGivenNames v2
  extract_lets +onlyGivenNames v3
  extract_lets +onlyGivenNames v4
  extract_lets +onlyGivenNames v5
  clear_value v5
  extract_lets +onlyGivenNames v6
  clear_value v6
  extract_lets +onlyGivenNames v7
  have hv7 : r0.Keeps v7 := by
    unfold v7
    refine .upd s ?_ (⟨rfl, rfl, rfl⟩) (fun h => h) (fun h => h)
    exact hk
  obtain ⟨yv7, hyv7, ev7⟩ := hv7.gen
  rw [ev7]
  extract_lets +onlyGivenNames v8
  refine .ite ?_ ?_
  · refine .upd s ?_ (⟨rfl, rfl, rfl⟩) (fun h => h) (fun h => h)
    exact hk
  · refine .ite ?_ ?_
    · refine .upd yv7 ?_ (⟨rfl, rfl, rfl⟩) (fun h => h) (fun h => h)
      exact hyv7
    · refine .ite ?_ ?_
      · refine State.surveyStart_keeps ?_
        exact hyv7
      · exact hyv7

theorem State.positionStep_keeps {r0 : State} {s : State} {t : Fit} {f : Form} (h : r0.Keeps s) : r0.Keeps (s.positionStep t f) := by
  unfold State.positionStep
  extract_lets +onlyGivenNames v1
  extract_lets +onlyGivenNames v2
  have hv2 : r0.Keeps v2 := by
    unfold v2
    refine .ite ?_ ?_
    · exact h
    · refine .upd s ?_ (⟨rfl, rfl, rfl⟩) (fun h => h) (fun h => h)
      exact h
  obtain ⟨yv2, hyv2, ev2⟩ := hv2.gen
  rw [ev2]
  split
  · rename_i y3 y4 y5 y6
    refine .upd s ?_ (⟨rfl, rfl, rfl⟩) (fun h => h) (fun h => h)
    exact h
  · rename_i y7 y8 y9 y10 y11 y12 y13
    refine State.surveyStep_keeps ?_
    exact hyv2
  · rename_i y14 y15 y16 y17 y18 y19 y20 y21
    refine State.holdCheck_keeps ?_
    exact h
  · rename_i y22 y23 y24 y25 y26 y27 y28 y29 y30
    refine State.holdCheck_keeps ?_
    refine .upd s ?_ (⟨rfl, rfl, rfl⟩) (fun h => h) (fun h => h)
    exact h
  · rename_i y31 y32 y33 y34 y35
    refine .upd s ?_ (⟨rfl, rfl, rfl⟩) (fun h => h) (fun h => h)
    exact h
  · rename_i y36 y37 y38 y39 y40 y41 y42
    exact h

theorem State.markChans_keeps {r0 : State} {s : State} {used : List Nat} {set : RecSet} (h : r0.Keeps s) : r0.Keeps (s.markChans used set) := by
  unfold State.markChans
  extract_lets +onlyGivenNames v1
  extract_lets +onlyGivenNames v2
  clear_value v2
  extract_lets +onlyGivenNames v3
  refine .upd s ?_ (⟨rfl, rfl, rfl⟩) (fun h => h) (by simp only [updAt_length, putAt_length, List.length_map, List.length_mapIdx]; exact fun h => h)
  exact h

theorem State.solRegs_keeps {r0 : State} {s : State} {t : Fit} {f : Form} {e : Int} {z : Int} {valid : Bool} (h : r0.Keeps s) : r0.Keeps (s.solRegs t f e z valid) := by
  unfold State.solRegs
  extract_lets +onlyGivenNames v1
  clear_value v1
  extract_lets +onlyGivenNames v2
  extract_lets +onlyGivenNames v3
  extract_lets +onlyGivenNames v4
  extract_lets +onlyGivenNames v5
  extract_lets +onlyGivenNames v6
  extract_lets +onlyGivenNames v7
  refine .upd s ?_ (⟨rfl, rfl, rfl⟩) (fun h => h) (fun h => h)
  exact h

theorem State.noSolution_keeps {r0 : State} {s : State} (h : r0.Keeps s) : r0.Keeps s.noSolution := by
  unfold State.noSolution
  extract_lets +onlyGivenNames v1
  extract_lets +onlyGivenNames v2
  extract_lets +onlyGivenNames v3
  refine State.count_keeps ?_
  refine .upd s ?_ (⟨rfl, rfl, rfl⟩) (fun h => h) (fun h => h)
  exact h

theorem State.integStep_keeps {r0 : State} {s : State} {fail : Bool} {raimNone : Bool} (h : r0.Keeps s) : r0.Keeps (s.integStep fail raimNone) := by
  unfold State.integStep
  extract_lets +onlyGivenNames v1
  extract_lets +onlyGivenNames v2
  clear_value v2
  extract_lets +onlyGivenNames v3
  extract_lets +onlyGivenNames v4
  have hv4 : r0.Keeps v4 := by
    unfold v4
    refine .upd s ?_ (⟨rfl, rfl, rfl⟩) (fun h => h) (fun h => h)
    exact h
  obtain ⟨yv4, hyv4, ev4⟩ := hv4.gen
  rw [ev4]
  extract_lets +onlyGivenNames v5
  extract_lets +onlyGivenNames v6
  have hv6 : r0.Keeps v6 := by
    unfold v6
    refine .upd yv4 ?_ (⟨rfl, rfl, rfl⟩) (fun h => h) (fun h => h)
    exact hyv4
  obtain ⟨yv6, hyv6, ev6⟩ := hv6.gen
  rw [ev6]
  refine .ite ?_ ?_
  · refine .ite ?_ ?_
    · exact hyv6
    · refine State.log_keeps ?_
      refine State.count_keeps ?_
      exact hyv6
  · refine .ite ?_ ?_
    · refine .upd yv4 ?_ (⟨rfl, rfl, rfl⟩) (fun h => h) (fun h => h)
      exact hyv4
    · exact hyv4

theorem State.keepSol_keeps {r0 : State} {s : State} {t : Fit} (h : r0.Keeps s) : r0.Keeps (s.keepSol t) := by
  unfold State.keepSol
  extract_lets +onlyGivenNames v1
  extract_lets +onlyGivenNames v2
  clear_value v2
  extract_lets +onlyGivenNames v3
  extract_lets +onlyGivenNames v4
  extract_lets +onlyGivenNames v5
  refine .upd s ?_ (⟨rfl, rfl, rfl⟩) (fun h => h) (fun h => h)
  exact h

theorem State.chkTake_keeps {r0 : State} {s : State} {z : Int} (h : r0.Keeps s) : r0.Keeps (s.chkTake z) := by
  unfold State.chkTake
  extract_lets +onlyGivenNames v1
  split
  · rename_i y3 y4 y5
    extract_lets +onlyGivenNames v6
    clear_value v6
    refine .ite ?_ ?_
    · refine .upd s ?_ (⟨rfl, rfl, rfl⟩) (fun h => h) (fun h => h)
      exact h
    · exact h
  · rename_i y7 y8
    exact h

theorem State.chkWindow_keeps {r0 : State} {s : State} (h : r0.Keeps s) : r0.Keeps s.chkWindow := by
  unfold State.chkWindow
  extract_lets +onlyGivenNames v1
  refine .ite ?_ ?_
  · exact h
  · refine .ite ?_ ?_
    · refine .upd s ?_ (⟨rfl, rfl, rfl⟩) (fun h => h) (fun h => h)
      exact h
    · refine .ite ?_ ?_
      · refine .upd s ?_ (⟨rfl, rfl, rfl⟩) (fun h => h) (fun h => h)
        exact h
      · exact h

theorem State.keepData_keeps {r0 : State} {s : State} {i : SolInput} (h : r0.Keeps s) : r0.Keeps (s.keepData i) := by
  unfold State.keepData
  extract_lets k old
  refine .upd s h ⟨rfl, rfl, rfl⟩ (fun ⟨a, b, c, d, e, f, g, i, j, k, l, m⟩ => ⟨a, b, c, d, e, f, g, i, j, k, l, ?_⟩) (fun h => h)
  exact Assoc.rising_foldl (fun m x hm => Assoc.rising_put _ _ _ hm) _ m

theorem State.deliver_keeps {r0 : State} {s : State} {t : Fit} {f : Form} {i : SolInput} {usable : Bool} {e : Int} {z : Int} (h : r0.Keeps s) : r0.Keeps (s.deliver t f i usable e z) := by
  unfold State.deliver
  extract_lets +onlyGivenNames v1
  clear_value v1
  extract_lets +onlyGivenNames v2
  have hv2 : r0.Keeps v2 := by
    unfold v2
    refine State.solRegs_keeps ?_
    exact h
  obtain ⟨yv2, hyv2, ev2⟩ := hv2.gen
  rw [ev2]
  extract_lets +onlyGivenNames v3
  clear_value v3
  extract_lets +onlyGivenNames v4
  have hv4 : r0.Keeps v4 := by
    unfold v4
    refine .ite ?_ ?_
    · refine State.qAnchor_keeps ?_
      exact hyv2
    · exact hyv2
  obtain ⟨yv4, hyv4, ev4⟩ := hv4.gen
  rw [ev4]
  extract_lets +onlyGivenNames v5
  have hv5 : r0.Keeps v5 := by
    unfold v5
    refine State.chkTake_keeps ?_
    refine State.seedLeap_keeps ?_
    refine State.takeLeaps_keeps ?_
    refine State.positionStep_keeps ?_
    refine State.keepSol_keeps ?_
    exact hyv4
  obtain ⟨yv5, hyv5, ev5⟩ := hv5.gen
  rw [ev5]
  refine .ite ?_ ?_
  · refine State.seedLeap_keeps ?_
    refine State.noSolution_keeps ?_
    exact hyv2
  · refine State.refMeasure_keeps ?_
    refine State.count_keeps ?_
    exact hyv5

theorem State.integMonitor_keeps {r0 : State} {s : State} (h : r0.Keeps s) : r0.Keeps s.integMonitor := by
  unfold State.integMonitor
  refine .ite ?_ ?_
  · refine State.monitorFails_keeps ?_
    exact h
  · exact h

theorem State.solve_keeps {r0 : State} {s : State} {i : SolInput} {set : RecSet} {held : Bool} (h : r0.Keeps s) : r0.Keeps (s.solve i set held) := by
  unfold State.solve
  extract_lets +onlyGivenNames v1
  clear_value v1
  extract_lets +onlyGivenNames v2
  clear_value v2
  extract_lets +onlyGivenNames v3
  clear_value v3
  extract_lets +onlyGivenNames v4
  have hv4 : r0.Keeps v4 := by
    unfold v4
    refine State.keepData_keeps ?_
    exact h
  obtain ⟨yv4, hyv4, ev4⟩ := hv4.gen
  rw [ev4]
  extract_lets +onlyGivenNames v5
  split
  · rename_i y7 y8 y9 y10
    split
    · rename_i y12 y13 y14 y15
      extract_lets +onlyGivenNames v16
      split
      · rename_i y18 y19 y20 y21
        extract_lets +onlyGivenNames v22
        have hv22 : r0.Keeps v22 := by
          unfold v22
          refine State.powerTest_keeps ?_
          refine .fst y21 ?_
          refine State.excludeAll_keeps ?_
          refine .fst y15 ?_
          refine State.prdAll_keeps ?_
          refine .fst y10 ?_
          refine State.excludeAll_keeps ?_
          exact hyv4
        obtain ⟨yv22, hyv22, ev22⟩ := hv22.gen
        rw [ev22]
        split
        · rename_i y24 y25 y26 y27 y28
          extract_lets +onlyGivenNames v29
          clear_value v29
          split
          · rename_i y31 y32 y33 y34
            extract_lets +onlyGivenNames v35
            extract_lets +onlyGivenNames v36
            have hv36 : r0.Keeps v36 := by
              unfold v36
              refine .upd y32 ?_ (⟨rfl, rfl, rfl⟩) (fun h => h) (fun h => h)
              refine .fst y34 ?_
              refine State.excludeAll_keeps ?_
              exact hyv22
            obtain ⟨yv36, hyv36, ev36⟩ := hv36.gen
            rw [ev36]
            extract_lets +onlyGivenNames v37
            clear_value v37
            extract_lets +onlyGivenNames v38
            have hv38 : r0.Keeps v38 := by
              unfold v38
              split
              · rename_i y39 y40 y41
                refine State.isbTake_keeps ?_
                exact hyv36
              · rename_i y42
                refine State.isbNone_keeps ?_
                exact hyv36
            obtain ⟨yv38, hyv38, ev38⟩ := hv38.gen
            rw [ev38]
            split
            · rename_i y44 y45 y46 y47 y48
              split
              · rename_i y50 y51 y52 y53
                extract_lets +onlyGivenNames v54
                extract_lets +onlyGivenNames v55
                have hv55 : r0.Keeps v55 := by
                  unfold v55
                  refine .upd y51 ?_ (⟨rfl, rfl, rfl⟩) (fun h => h) (fun h => h)
                  refine .fst y53 ?_
                  refine State.excludeAll_keeps ?_
                  exact hyv38
                obtain ⟨yv55, hyv55, ev55⟩ := hv55.gen
                extract_lets +onlyGivenNames v56
                have hv56 : r0.Keeps v56 := by
                  unfold v56
                  split
                  · rename_i y57 y58 y59
                    refine State.coast_keeps ?_
                    exact hv55
                  · rename_i y60
                    exact hv55
                obtain ⟨yv56, hyv56, ev56⟩ := hv56.gen
                extract_lets +onlyGivenNames v61
                clear_value v61
                extract_lets +onlyGivenNames v62
                have hv62 : r0.Keeps v62 := by
                  unfold v62
                  refine State.integMonitor_keeps ?_
                  refine State.integStep_keeps ?_
                  exact hv56
                obtain ⟨yv62, hyv62, ev62⟩ := hv62.gen
                rw [ev62]
                extract_lets +onlyGivenNames v63
                have hv63 : r0.Keeps v63 := by
                  unfold v63
                  refine State.markChans_keeps ?_
                  refine State.exclTests_keeps ?_
                  exact hyv62
                obtain ⟨yv63, hyv63, ev63⟩ := hv63.gen
                rw [ev63]
                extract_lets +onlyGivenNames v64
                have hv64 : r0.Keeps v64 := by
                  unfold v64
                  split
                  · rename_i y65 y66 y67
                    refine State.deliver_keeps ?_
                    exact hyv63
                  · rename_i y68
                    refine State.noSolution_keeps ?_
                    exact hyv63
                obtain ⟨yv64, hyv64, ev64⟩ := hv64.gen
                rw [ev64]
                refine State.baseline_keeps ?_
                exact hyv64

theorem State.gnssSolution_keeps {r0 : State} {s : State} {i : SolInput} (h : r0.Keeps s) : r0.Keeps (s.gnssSolution i) := by
  unfold State.gnssSolution
  extract_lets +onlyGivenNames v1
  have hv1 : r0.Keeps v1 := by
    unfold v1
    refine State.qAccrue_keeps ?_
    exact h
  obtain ⟨yv1, hyv1, ev1⟩ := hv1.gen
  rw [ev1]
  extract_lets +onlyGivenNames v2
  have hv2 : r0.Keeps v2 := by
    unfold v2
    refine .ite ?_ ?_
    · refine State.exclTick_keeps ?_
      exact hyv1
    · exact hyv1
  obtain ⟨yv2, hyv2, ev2⟩ := hv2.gen
  rw [ev2]
  extract_lets +onlyGivenNames v3
  have hv3 : r0.Keeps v3 := by
    unfold v3
    refine State.exclTests_keeps ?_
    exact hyv2
  obtain ⟨yv3, hyv3, ev3⟩ := hv3.gen
  rw [ev3]
  extract_lets +onlyGivenNames v4
  extract_lets +onlyGivenNames v5
  extract_lets +onlyGivenNames v6
  extract_lets +onlyGivenNames v7
  have hv7 : r0.Keeps v7 := by
    unfold v7
    split
    · rename_i y8 y9 y10 y11
      refine State.solve_keeps ?_
      refine .upd yv2 ?_ (⟨rfl, rfl, rfl⟩) (fun h => h) (fun h => h)
      exact hyv2
    · rename_i y12 y13
      refine State.noSolution_keeps ?_
      exact hyv3
  obtain ⟨yv7, hyv7, ev7⟩ := hv7.gen
  rw [ev7]
  refine .ite ?_ ?_
  · refine .upd yv3 ?_ (⟨rfl, rfl, rfl⟩) (fun h => h) (fun h => h)
    exact hyv3
  · refine .ite ?_ ?_
    · exact hyv2
    · refine .ite ?_ ?_
      · refine State.applyMute_keeps ?_
        refine State.count_keeps ?_
        refine State.noSolution_keeps ?_
        refine .upd yv3 ?_ (⟨rfl, rfl, rfl⟩) (fun h => h) (fun h => h)
        exact hyv3
      · refine State.applyMute_keeps ?_
        refine State.chkWindow_keeps ?_
        refine State.surveyLimit_keeps ?_
        exact hyv7

theorem State.integClear_keeps {r0 : State} {s : State} (h : r0.Keeps s) : r0.Keeps s.integClear := by
  unfold State.integClear
  extract_lets +onlyGivenNames v1
  split
  · rename_i y2 y3 y4
    refine .ite ?_ ?_
    · refine .upd s ?_ (⟨rfl, rfl, rfl⟩) (fun h => h) (fun h => h)
      exact h
    · exact h
  · rename_i y5 y6
    exact h

theorem State.integGood_keeps {r0 : State} {s : State} (h : r0.Keeps s) : r0.Keeps s.integGood := by
  unfold State.integGood
  extract_lets +onlyGivenNames v1
  split
  · rename_i y2 y3 y4
    refine .ite ?_ ?_
    · refine .upd s ?_ (⟨rfl, rfl, rfl⟩) (fun h => h) (fun h => h)
      exact h
    · exact h
  · rename_i y5 y6
    exact h

theorem State.chkSleep_keeps {r0 : State} {s : State} (h : r0.Keeps s) : r0.Keeps s.chkSleep := by
  unfold State.chkSleep
  split
  · refine .ite h ?_
    extract_lets g mean fail k k1 s1
    have h1 : r0.Keeps s1 := .upd s h ⟨rfl, rfl, rfl⟩ (fun h => h) (fun h => h)
    have e1 : s1.fe = s.fe := rfl
    have e2 : Assoc.rising k.almanac → Assoc.rising k1.almanac := fun hm =>
      Assoc.rising_foldl (fun m x hm => by split <;> first | exact Assoc.rising_put _ _ _ hm | exact hm) _ hm
    have e3 : k1.iono = s.fe.kept.iono := rfl
    have e4 : k.almanac = s.fe.kept.almanac := rfl
    have e5 : s1.fe.slots = s.fe.slots := rfl
    clear_value s1 k1 k
    refine .ite (.upd s1 h1 ⟨rfl, rfl, rfl⟩ (fun h => h) (fun h => h)) (State.releaseAll_keeps ?_)
    refine .upd s1 h1 ⟨rfl, rfl, rfl⟩ (fun ⟨a, b, c, d, e, f, g, i, j, k, l, m⟩ => ⟨a, b, c, d, e, by rw [e5] at f; exact f, g, i, j, k, ?_, ?_⟩) (fun h => h)
    · exact e2 (e4 ▸ (e1 ▸ l))
    · show Assoc.rising k1.iono
      rw [e3, ← e1]; exact m
  · exact h

theorem State.wake_keeps {r0 : State} {s : State} {win : Option Nat} (h : r0.Keeps s) : r0.Keeps (s.wake win) := by
  unfold State.wake
  extract_lets +onlyGivenNames v1
  refine .upd s ?_ (⟨rfl, rfl, rfl⟩) (fun h => h) (fun h => h)
  exact h

theorem State.chkWake_keeps {r0 : State} {s : State} (h : r0.Keeps s) : r0.Keeps s.chkWake := by
  unfold State.chkWake
  split
  · rename_i y1 y2 y3
    refine .ite ?_ ?_
    · refine State.count_keeps ?_
      refine State.wake_keeps ?_
      exact h
    · exact h
  · rename_i y4 y5
    exact h

theorem State.chkEarly_keeps {r0 : State} {s : State} (h : r0.Keeps s) : r0.Keeps s.chkEarly := by
  unfold State.chkEarly
  refine .ite ?_ ?_
  · refine State.wake_keeps ?_
    exact h
  · exact h

end Sys2Proof.Machine
end

