-- ==== Sys2Proof/Laws/KeepStake.lean ====
section
/-! SUPPORT. What the operations of Machine/Stake.lean keep. -/

set_option Elab.async false
set_option linter.unusedVariables false
set_option linter.unusedSimpArgs false

namespace Sys2Proof.Machine

open Sys2Proof

theorem State.tacCal_leads {r0 : State} {s : State} {hits : List (List Nat)} (h : r0.Leads s) : r0.Leads (s.tacCal hits) := by
  unfold State.tacCal
  extract_lets +onlyGivenNames v1
  have hv1 : r0.Leads v1 := by
    unfold v1
    refine .andThen ?_ (State.calibrateTacs_keeps (.refl _))
    exact h
  obtain ⟨yv1, hyv1, ev1⟩ := hv1.gen
  rw [ev1]
  extract_lets +onlyGivenNames v2
  extract_lets +onlyGivenNames v3
  extract_lets +onlyGivenNames v4
  have hv4 : r0.Leads v4 := by
    unfold v4
    refine .andThen ?_ (.upd yv1 (.refl _) (⟨rfl, rfl, rfl⟩) (fun h => h) (fun h => h))
    exact hyv1
  obtain ⟨yv4, hyv4, ev4⟩ := hv4.gen
  rw [ev4]
  refine .ite ?_ ?_
  · exact h
  · refine State.startupStep_leads ?_
    refine .andThen ?_ (State.noteDegraded_keeps (.refl _))
    exact hyv4

theorem State.outCal_leads {r0 : State} {s : State} (h : r0.Leads s) : r0.Leads s.outCal := by
  unfold State.outCal
  extract_lets +onlyGivenNames v1
  refine .ite ?_ ?_
  · exact h
  · refine State.startupStep_leads ?_
    refine .andThen ?_ (.upd s (.refl _) (⟨rfl, rfl, rfl⟩) (fun h => h) (fun h => h))
    exact h

theorem State.stakeCal_leads {r0 : State} {s : State} {n : Nat} {main : StakeCal} {alt : Option StakeCal} (h : r0.Leads s) : r0.Leads (s.stakeCal n main alt) := by
  unfold State.stakeCal
  extract_lets +onlyGivenNames v1
  clear_value v1
  extract_lets +onlyGivenNames v2
  clear_value v2
  refine .ite ?_ ?_
  · exact h
  · split
    · rename_i y5 y6 y7 y8 y9
      split
      · rename_i y11 y12 y13 y14 y15
        extract_lets +onlyGivenNames v16
        have hv16 : r0.Leads v16 := by
          unfold v16
          refine .andThen ?_ (State.setPort_keeps (.refl _))
          exact h
        obtain ⟨yv16, hyv16, ev16⟩ := hv16.gen
        rw [ev16]
        extract_lets +onlyGivenNames v18
        extract_lets +onlyGivenNames v19
        extract_lets +onlyGivenNames v20
        have hv20 : r0.Leads v20 := by
          unfold v20
          refine .andThen ?_ (.upd yv16 (.refl _) (⟨rfl, rfl, rfl⟩) (fun h => h) (fun h => h))
          exact hyv16
        obtain ⟨yv20, hyv20, ev20⟩ := hv20.gen
        rw [ev20]
        refine State.startupStep_leads ?_
        refine .andThen ?_ (State.noteDegraded_keeps (.refl _))
        exact hyv20

theorem State.linkReport_keeps {r0 : State} {s : State} {n : Nat} (h : r0.Keeps s) : r0.Keeps (s.linkReport n) := by
  unfold State.linkReport
  extract_lets +onlyGivenNames v1
  extract_lets +onlyGivenNames v2
  clear_value v2
  refine State.cause_keeps ?_
  refine State.setPort_keeps ?_
  refine State.bwAccrue_keeps ?_
  exact h

theorem State.trackEdge_keeps {r0 : State} {s : State} {n : Nat} {word : Nat} {t : Int} (h : r0.Keeps s) : r0.Keeps (s.trackEdge n word t) := by
  unfold State.trackEdge
  extract_lets +onlyGivenNames v1
  extract_lets +onlyGivenNames v2
  extract_lets +onlyGivenNames v3
  clear_value v3
  extract_lets +onlyGivenNames v4
  clear_value v4
  extract_lets +onlyGivenNames v5
  clear_value v5
  extract_lets +onlyGivenNames v6
  extract_lets +onlyGivenNames v7
  extract_lets +onlyGivenNames v8
  clear_value v8
  extract_lets +onlyGivenNames v9
  have hv9 : r0.Keeps v9 := by
    unfold v9
    refine State.setPort_keeps ?_
    exact h
  obtain ⟨yv9, hyv9, ev9⟩ := hv9.gen
  rw [ev9]
  refine .ite ?_ ?_
  · refine State.count_keeps ?_
    refine State.setPort_keeps ?_
    exact h
  · refine .ite ?_ ?_
    · refine State.linkReport_keeps ?_
      exact hyv9
    · exact hyv9

theorem State.txConv_keeps {r0 : State} {s : State} {n : Nat} {x : Int} (h : r0.Keeps s) : r0.Keeps (s.txConv n x) := by
  unfold State.txConv
  extract_lets +onlyGivenNames v1
  extract_lets +onlyGivenNames v2
  clear_value v2
  extract_lets +onlyGivenNames v3
  clear_value v3
  extract_lets +onlyGivenNames v4
  have hv4 : r0.Keeps v4 := by
    unfold v4
    refine State.setPort_keeps ?_
    exact h
  obtain ⟨yv4, hyv4, ev4⟩ := hv4.gen
  rw [ev4]
  refine .ite ?_ ?_
  · refine State.setPort_keeps ?_
    exact h
  · refine .ite ?_ ?_
    · refine State.islandError_keeps ?_
      exact hyv4
    · exact hyv4

theorem State.trackerConv_keeps {r0 : State} {s : State} {n : Nat} {kind : Nat} {word : Nat} {code : Nat} (h : r0.Keeps s) : r0.Keeps (s.trackerConv n kind word code) := by
  unfold State.trackerConv
  extract_lets +onlyGivenNames v1
  extract_lets +onlyGivenNames v2
  clear_value v2
  extract_lets +onlyGivenNames v3
  have hv3 : r0.Keeps v3 := by
    unfold v3
    refine State.setPort_keeps ?_
    refine State.tacBusy_keeps ?_
    exact h
  obtain ⟨yv3, hyv3, ev3⟩ := hv3.gen
  rw [ev3]
  refine .ite ?_ ?_
  · exact h
  · refine .ite ?_ ?_
    · refine State.tacMiss_keeps ?_
      exact h
    · split
      · rename_i y8
        refine .ite ?_ ?_
        · refine State.trackEdge_keeps ?_
          exact hyv3
        · exact hyv3
      · rename_i y9
        refine State.txConv_keeps ?_
        exact hyv3
      · rename_i y10 y11 y12
        refine State.setPort_keeps ?_
        exact hyv3

theorem State.syncePhase_keeps {r0 : State} {s : State} {n : Nat} (h : r0.Keeps s) : r0.Keeps (s.syncePhase n) := by
  unfold State.syncePhase
  extract_lets +onlyGivenNames v1
  extract_lets +onlyGivenNames v2
  clear_value v2
  refine .ite ?_ ?_
  · exact h
  · split
    · rename_i y5 y6 y7 y8
      extract_lets +onlyGivenNames v9
      clear_value v9
      extract_lets +onlyGivenNames v10
      clear_value v10
      refine State.refMeasure_keeps ?_
      exact h
    · rename_i y11 y12
      exact h

theorem State.replicaUpdate_keeps {r0 : State} {s : State} {n : Nat} (h : r0.Keeps s) : r0.Keeps (s.replicaUpdate n) := by
  unfold State.replicaUpdate
  extract_lets +onlyGivenNames v1
  extract_lets +onlyGivenNames v2
  extract_lets +onlyGivenNames v3
  clear_value v3
  extract_lets +onlyGivenNames v4
  clear_value v4
  extract_lets +onlyGivenNames v5
  clear_value v5
  extract_lets +onlyGivenNames v6
  clear_value v6
  extract_lets +onlyGivenNames v7
  extract_lets +onlyGivenNames v8
  clear_value v8
  extract_lets +onlyGivenNames v9
  have hv9 : r0.Keeps v9 := by
    unfold v9
    refine State.setPort_keeps ?_
    exact h
  obtain ⟨yv9, hyv9, ev9⟩ := hv9.gen
  rw [ev9]
  refine .ite ?_ ?_
  · exact h
  · refine .ite ?_ ?_
    · refine State.islandError_keeps ?_
      exact hyv9
    · exact hyv9

theorem State.linkUp_keeps {r0 : State} {s : State} {n : Nat} {speed : Nat} {fec : Bool} (h : r0.Keeps s) : r0.Keeps (s.linkUp n speed fec) := by
  unfold State.linkUp
  extract_lets +onlyGivenNames v1
  extract_lets +onlyGivenNames v2
  clear_value v2
  refine .ite ?_ ?_
  · exact h
  · refine .ite ?_ ?_
    · refine .ite ?_ ?_
      · exact h
      · refine State.cause_keeps ?_
        refine State.setPort_keeps ?_
        refine State.bwAccrue_keeps ?_
        exact h
    · refine .ite ?_ ?_
      · exact h
      · refine State.setPort_keeps ?_
        exact h

theorem State.linkLost_keeps {r0 : State} {s : State} {n : Nat} (h : r0.Keeps s) : r0.Keeps (s.linkLost n) := by
  unfold State.linkLost
  extract_lets +onlyGivenNames v1
  have hv1 : r0.Keeps v1 := by
    unfold v1
    refine State.setPort_keeps ?_
    refine State.linkDrop_keeps ?_
    exact h
  obtain ⟨yv1, hyv1, ev1⟩ := hv1.gen
  rw [ev1]
  refine .ite ?_ ?_
  · refine State.monitorFails_keeps ?_
    exact hyv1
  · exact hyv1

end Sys2Proof.Machine
end

