-- ==== Sys2Proof/Laws/KeepEgress.lean ====
section
/-! SUPPORT. What the operations of Machine/Egress.lean keep. -/

set_option Elab.async false
set_option linter.unusedVariables false
set_option linter.unusedSimpArgs false

namespace Sys2Proof.Machine

open Sys2Proof

theorem State.freeCtx_keeps {r0 : State} {s : State} {id : Nat} (h : r0.Keeps s) : r0.Keeps (s.freeCtx id) := by
  unfold State.freeCtx
  extract_lets +onlyGivenNames v1
  refine .upd s ?_ (⟨rfl, rfl, rfl⟩) (fun h => h) (fun h => h)
  exact h

theorem State.setCtx_keeps {r0 : State} {s : State} {id : Nat} {f : Ctx → Ctx} (h : r0.Keeps s) : r0.Keeps (s.setCtx id f) := by
  unfold State.setCtx
  extract_lets +onlyGivenNames v1
  refine .upd s ?_ (⟨rfl, rfl, rfl⟩) (fun h => h) (fun h => h)
  exact h

theorem State.storeWaiting_keeps {r0 : State} {s : State} (h : r0.Keeps s) : r0.Keeps s.storeWaiting := by
  unfold State.storeWaiting
  refine .foldl ?_ fun t1 a2 k3 => ?_
  · exact h
  · refine State.setPort_keeps ?_
    exact k3

theorem State.dropFrame_keeps {r0 : State} {s : State} {e : EgFrame} {st : Nat} (h : r0.Keeps s) : r0.Keeps (s.dropFrame e st) := by
  unfold State.dropFrame
  extract_lets +onlyGivenNames v1
  have hv1 : r0.Keeps v1 := by
    unfold v1
    split
    · rename_i y2 y3 y4
      refine State.freeCtx_keeps ?_
      exact h
    · rename_i y5 y6
      exact h
  obtain ⟨yv1, hyv1, ev1⟩ := hv1.gen
  rw [ev1]
  split
  · rename_i y7 y8 y9
    refine State.hostStatus_keeps ?_
    exact hyv1
  · rename_i y10 y11
    exact hyv1

theorem State.commitFrame_keeps {r0 : State} {s : State} {n : Nat} {e : EgFrame} {t : Int} (h : r0.Keeps s) : r0.Keeps (s.commitFrame n e t) := by
  unfold State.commitFrame
  extract_lets +onlyGivenNames v1
  extract_lets +onlyGivenNames v2
  extract_lets +onlyGivenNames v3
  clear_value v3
  extract_lets +onlyGivenNames v4
  extract_lets +onlyGivenNames v5
  extract_lets +onlyGivenNames v6
  extract_lets +onlyGivenNames v7
  have hv7 : r0.Keeps v7 := by
    unfold v7
    refine State.setPort_keeps ?_
    exact h
  obtain ⟨yv7, hyv7, ev7⟩ := hv7.gen
  rw [ev7]
  extract_lets +onlyGivenNames v8
  have hv8 : r0.Keeps v8 := by
    unfold v8
    refine .ite ?_ ?_
    · refine State.count_keeps ?_
      exact hyv7
    · exact hyv7
  obtain ⟨yv8, hyv8, ev8⟩ := hv8.gen
  rw [ev8]
  extract_lets +onlyGivenNames v9
  have hv9 : r0.Keeps v9 := by
    unfold v9
    refine .ite ?_ ?_
    · exact hyv8
    · refine State.count_keeps ?_
      exact hyv8
  obtain ⟨yv9, hyv9, ev9⟩ := hv9.gen
  rw [ev9]
  extract_lets +onlyGivenNames v10
  have hv10 : r0.Keeps v10 := by
    unfold v10
    refine .ite ?_ ?_
    · refine State.count_keeps ?_
      exact hyv9
    · exact hyv9
  obtain ⟨yv10, hyv10, ev10⟩ := hv10.gen
  rw [ev10]
  split
  · rename_i y11 y12 y13
    refine State.setCtx_keeps ?_
    exact hyv10
  · rename_i y14 y15
    exact hyv10

theorem State.ctxRefused_keeps {r0 : State} {s : State} {e : EgFrame} {itemOk : Bool} (h : r0.Keeps s) :
    ∀ t, s.ctxRefused e itemOk = some t → r0.Keeps t := by
  intro t ht
  unfold State.ctxRefused at ht
  split at ht
  · exact nomatch ht
  · split at ht
    · exact Option.some.inj ht ▸ h
    · split at ht
      · exact Option.some.inj ht ▸ State.count_keeps (State.freeCtx_keeps h)
      · split at ht
        · exact nomatch ht
        · refine Option.some.inj ht ▸ ?_
          split
          · exact State.islandError_keeps (State.count_keeps (State.freeCtx_keeps h))
          · exact State.count_keeps (State.freeCtx_keeps h)

theorem State.frameCommit_leads {r0 : State} {s : State} {n word bit : Nat} {itemOk readBackOk eccOk : Bool} (h : r0.Leads s) :
    r0.Leads (s.frameCommit n word bit itemOk readBackOk eccOk) := by
  unfold State.frameCommit
  extract_lets d s0
  refine .ite h ?_
  have h0 : r0.Leads s0 := .andThen h (State.storeWaiting_keeps (.refl _))
  clear_value s0
  split
  · exact h0
  · extract_lets s1 diff w
    have h1 : r0.Leads s1 := .andThen h0 (State.setPort_keeps (.refl _))
    clear_value s1
    refine .ite h0 (.ite (.andThen h1 (State.memoryError_keeps (State.dropFrame_keeps (.refl _))))
      (.ite (.andThen h1 (State.dropFrame_keeps (.refl _))) ?_))
    split
    · rename_i hr
      exact .andThen h1 (State.ctxRefused_keeps (.refl _) _ hr)
    · refine .ite (.andThen h1 (State.count_keeps (State.dropFrame_keeps (.refl _)))) (.ite ?_ (.ite ?_ ?_))
      · exact State.gateTrip_leads (.andThen h1 (State.count_keeps (State.dropFrame_keeps (.refl _))))
      · exact .andThen h1 (State.islandError_keeps (State.dropFrame_keeps (.refl _)))
      · exact .andThen h1 (State.commitFrame_keeps (.refl _))

theorem State.setPtp_keeps {r0 : State} {s : State} {n : Nat} {f : PtpPort → PtpPort} (h : r0.Keeps s) : r0.Keeps (s.setPtp n f) := by
  unfold State.setPtp
  extract_lets +onlyGivenNames v1
  refine .upd s ?_ (⟨rfl, rfl, rfl⟩) (fun h => h) (by simp only [updAt_length]; exact fun h => h)
  exact h

theorem State.reportLeft_keeps {r0 : State} {s : State} {n : Nat} {seq : Nat} {w : TimeWord} (h : r0.Keeps s) : r0.Keeps (s.reportLeft n seq w) := by
  unfold State.reportLeft
  refine State.setPtp_keeps ?_
  exact h

theorem State.sentBy_keeps {r0 : State} {s : State} {n : Nat} {e : EgFrame} (h : r0.Keeps s) : r0.Keeps (s.sentBy n e) := by
  unfold State.sentBy
  extract_lets +onlyGivenNames v1
  have hv1 : r0.Keeps v1 := by
    unfold v1
    refine State.count_keeps ?_
    exact h
  obtain ⟨yv1, hyv1, ev1⟩ := hv1.gen
  rw [ev1]
  split
  · rename_i y2 y3 y4
    refine State.count_keeps ?_
    exact h
  · rename_i y5 y6 y7
    refine State.count_keeps ?_
    exact h
  · rename_i y8 y9 y10
    refine State.count_keeps ?_
    exact h
  · rename_i y11 y12 y13
    refine State.count_keeps ?_
    exact h
  · rename_i y14 y15 y16
    refine State.count_keeps ?_
    exact h
  · rename_i y17 y18 y19 y20
    split
    · rename_i y21 y22 y23 y24
      refine State.setPtp_keeps ?_
      exact hyv1
    · rename_i y25 y26 y27 y28
      exact hyv1
  · rename_i y29 y30
    refine State.count_keeps ?_
    exact h
  · rename_i y31 y32
    refine State.count_keeps ?_
    exact h
  · rename_i y33 y34 y35
    refine State.reportLeft_keeps ?_
    exact h
  · rename_i y36 y37
    exact h
  · rename_i y38 y39 y40
    refine State.reportLeft_keeps ?_
    exact h
  · rename_i y41 y42
    exact h
  · rename_i y43 y44
    refine State.count_keeps ?_
    exact h
  · rename_i y45 y46
    refine State.count_keeps ?_
    exact h
  · rename_i y47 y48 y49
    refine State.hostStatus_keeps ?_
    exact h
  · rename_i y50 y51
    exact h

theorem State.frameSent_keeps {r0 : State} {s : State} {n : Nat} (h : r0.Keeps s) : r0.Keeps (s.frameSent n) := by
  unfold State.frameSent
  split
  · rename_i y2 y3
    exact h
  · rename_i y4 y5 y6 y7
    extract_lets +onlyGivenNames v8
    have hv8 : r0.Keeps v8 := by
      unfold v8
      refine State.setPort_keeps ?_
      exact h
    obtain ⟨yv8, hyv8, ev8⟩ := hv8.gen
    rw [ev8]
    extract_lets +onlyGivenNames v9
    clear_value v9
    extract_lets +onlyGivenNames v10
    have hv10 : r0.Keeps v10 := by
      unfold v10
      refine State.lineLoad_keeps ?_
      refine State.countN_keeps ?_
      refine State.count_keeps ?_
      exact hyv8
    obtain ⟨yv10, hyv10, ev10⟩ := hv10.gen
    rw [ev10]
    extract_lets +onlyGivenNames v11
    have hv11 : r0.Keeps v11 := by
      unfold v11
      refine State.sentBy_keeps ?_
      exact hyv10
    obtain ⟨yv11, hyv11, ev11⟩ := hv11.gen
    rw [ev11]
    refine State.storeWaiting_keeps ?_
    split
    · rename_i y12 y13 y14
      refine State.freeCtx_keeps ?_
      exact hyv11
    · rename_i y15 y16
      exact hyv11

theorem State.queueFrame_keeps {r0 : State} {s : State} {n : Nat} {e : EgFrame} (h : r0.Keeps s) : r0.Keeps (s.queueFrame n e) := by
  unfold State.queueFrame
  extract_lets +onlyGivenNames v1
  clear_value v1
  refine .ite ?_ ?_
  · refine State.setPort_keeps ?_
    exact h
  · refine State.count_keeps ?_
    refine State.dropFrame_keeps ?_
    exact h

end Sys2Proof.Machine
end

