-- ==== Sys2Proof/Laws/KeepWeave.lean ====
section
/-! SUPPORT. What the operations of Machine/Weave.lean keep. -/

set_option Elab.async false
set_option linter.unusedVariables false
set_option linter.unusedSimpArgs false

namespace Sys2Proof.Machine

open Sys2Proof

theorem State.drawNonce_keeps {r0 : State} {s : State} (h : r0.Keeps s) : r0.Keeps (s.drawNonce).2 := by
  unfold State.drawNonce
  dsimp only
  refine State.draw_keeps ?_
  exact h

theorem State.sealCookie_keeps {r0 : State} {s : State} {k : KeySlot} {q : CookieKeys} (h : r0.Keeps s) : r0.Keeps (s.sealCookie k q).2 := by
  unfold State.sealCookie
  extract_lets +onlyGivenNames v1
  split
  · rename_i y2 y3 y4 y5
    dsimp only
    refine .snd y5 ?_
    refine State.drawNonce_keeps ?_
    exact h

theorem State.sealCookies_keeps {r0 : State} {s : State} {k : KeySlot} {q : CookieKeys} {x0 : Nat} (h : r0.Keeps s) : r0.Keeps (s.sealCookies k q x0).2 := by
  induction x0 generalizing s with
  | zero =>
    unfold State.sealCookies
    dsimp only
    exact h
  | succ n ih =>
    unfold State.sealCookies
    refine ih ?_
    refine State.sealCookie_keeps ?_
    exact h

theorem State.ntsFrame_keeps {r0 : State} {s : State} {c : Ctx} {src : EgSrc} {hdr : List Byte} {uid : List Byte} {plain : List Byte} {q : CookieKeys} {timed : Bool} (h : r0.Keeps s) : r0.Keeps (s.ntsFrame c src hdr uid plain q timed).2 := by
  unfold State.ntsFrame
  extract_lets +onlyGivenNames v1
  clear_value v1
  extract_lets +onlyGivenNames v2
  clear_value v2
  extract_lets +onlyGivenNames v3
  split
  · rename_i y5 y6 y7 y8
    extract_lets +onlyGivenNames v9
    dsimp only
    refine .snd y8 ?_
    refine State.drawNonce_keeps ?_
    exact h

theorem State.laneEnd_keeps {r0 : State} {s : State} {lane : Nat} (h : r0.Keeps s) : r0.Keeps (s.laneEnd lane) := by
  unfold State.laneEnd
  extract_lets +onlyGivenNames v1
  clear_value v1
  extract_lets +onlyGivenNames v2
  refine .upd s ?_ (⟨rfl, rfl, rfl⟩) (fun h => h) (by simp only [updAt_length]; exact fun h => h)
  exact h

theorem State.underSet_keeps {r0 : State} {s : State} {lane : Nat} (h : r0.Keeps s) : r0.Keeps (s.underSet lane) := by
  unfold State.underSet
  split
  · refine .upd s h ⟨rfl, rfl, rfl⟩ (fun ⟨a, b, c, d, e, f, g⟩ =>
      ⟨RegMap.wf_wr _ _ _ (RegMap.wf_wr _ _ _ a), b, c, d, e, ?_, g⟩) (fun h => h)
    exact Assoc.rising_foldl (fun m x hm => Assoc.rising_put _ _ _ hm) _ (Assoc.rising_filter _ _ f)
  · exact h

theorem State.backFrom_keeps {r0 : State} {s : State} {o : State} (h : r0.Keeps s) (ho : r0.Keeps o) : r0.Keeps (s.backFrom o) := by
  refine ⟨h.now, h.pending, fun k => ?_, h.shaped, h.gate, h.mode, h.origin⟩
  obtain ⟨a, _, _, _, _, f, _⟩ := ho.canon k
  obtain ⟨_, b, c, d, e, _, g⟩ := h.canon k
  exact ⟨a, b, c, d, e, f, g⟩

theorem State.answer_keeps {r0 : State} {s : State} {lane : Nat} {c : Ctx} {e : EgFrame} (h : r0.Keeps s) : r0.Keeps (s.answer lane c e) := by
  unfold State.answer
  extract_lets +onlyGivenNames v1
  have hv1 : r0.Keeps v1 := by
    unfold v1
    refine State.laneEnd_keeps ?_
    exact h
  obtain ⟨yv1, hyv1, ev1⟩ := hv1.gen
  rw [ev1]
  extract_lets +onlyGivenNames v2
  have hv2 : r0.Keeps v2 := by
    unfold v2
    refine State.setCtx_keeps ?_
    exact hyv1
  obtain ⟨yv2, hyv2, ev2⟩ := hv2.gen
  rw [ev2]
  refine State.queueFrame_keeps ?_
  exact hyv2

theorem State.laneDrop_keeps {r0 : State} {s : State} {lane : Nat} {c : Ctx} (h : r0.Keeps s) : r0.Keeps (s.laneDrop lane c) := by
  unfold State.laneDrop
  refine State.freeCtx_keeps ?_
  refine State.laneEnd_keeps ?_
  exact h

theorem State.ntsAnswer_keeps {r0 : State} {s : State} {lane : Nat} {c : Ctx} {u : ExtField} {ph : Nat} {q : CookieKeys} (h : r0.Keeps s) : r0.Keeps (s.ntsAnswer lane c u ph q) := by
  unfold State.ntsAnswer
  extract_lets +onlyGivenNames v1
  extract_lets +onlyGivenNames v2
  refine .ite ?_ ?_
  · split
    · rename_i y4 y5 y6 y7
      refine State.answer_keeps ?_
      refine .snd y7 ?_
      refine State.ntsFrame_keeps ?_
      exact h
  · split
    · rename_i y9 y10
      split
      · rename_i y11 y12 y13 y14
        refine State.answer_keeps ?_
        refine .snd y14 ?_
        refine State.ntsFrame_keeps ?_
        exact h
    · rename_i y15 y16 y17
      split
      · rename_i y19 y20 y21 y22
        extract_lets +onlyGivenNames v23
        split
        · rename_i y24 y25 y26 y27
          refine State.answer_keeps ?_
          refine .snd y27 ?_
          refine State.ntsFrame_keeps ?_
          refine .snd y22 ?_
          refine State.sealCookies_keeps ?_
          exact h

theorem State.buildNtp_keeps {r0 : State} {s : State} {lane : Nat} {c : Ctx} (h : r0.Keeps s) : r0.Keeps (s.buildNtp lane c) := by
  unfold State.buildNtp
  extract_lets +onlyGivenNames v1
  extract_lets +onlyGivenNames v2
  refine .ite ?_ ?_
  · refine .ite ?_ ?_
    · unfold v2
      refine State.count_keeps ?_
      refine State.laneDrop_keeps ?_
      exact h
    · split
      · rename_i y3 y4
        unfold v2
        refine State.count_keeps ?_
        refine State.laneDrop_keeps ?_
        exact h
      · rename_i y5 y6 y7 y8 y9 y10
        split
        · rename_i y11 y12
          refine State.answer_keeps ?_
          exact h
        · rename_i y13 y14 y15
          split
          · rename_i y16 y17 y18
            unfold v2
            refine State.count_keeps ?_
            refine State.laneDrop_keeps ?_
            exact h
          · rename_i y19 y20
            refine State.ntsAnswer_keeps ?_
            exact h
  · split
    · rename_i y21 y22 y23
      unfold v2
      refine State.count_keeps ?_
      refine State.laneDrop_keeps ?_
      exact h
    · rename_i y24 y25
      refine .ite ?_ ?_
      · refine State.answer_keeps ?_
        exact h
      · refine State.answer_keeps ?_
        exact h

theorem State.answerBuilt_keeps {r0 : State} {s : State} {lane : Nat} (h : r0.Keeps s) : r0.Keeps (s.answerBuilt lane) := by
  unfold State.answerBuilt
  split
  · rename_i y1 y2 y3
    refine .ite ?_ ?_
    · refine State.backFrom_keeps ?_ ?_
      · refine State.buildNtp_keeps ?_
        refine State.underSet_keeps ?_
        exact h
      · exact h
    · exact h
  · rename_i y4 y5
    exact h

theorem State.laneTake_keeps {r0 : State} {s : State} {lane : Nat} (h : r0.Keeps s) : r0.Keeps (s.laneTake lane) := by
  unfold State.laneTake
  extract_lets +onlyGivenNames v1
  refine .ite ?_ ?_
  · exact h
  · split
    · rename_i y4 y5
      exact h
    · rename_i y6 y7 y8
      split
      · rename_i y10 y11
        exact h
      · rename_i y12 y13 y14 y15
        extract_lets +onlyGivenNames v16
        have hv16 : r0.Keeps v16 := by
          unfold v16
          refine .upd s ?_ (⟨rfl, rfl, rfl⟩) (fun h => h) (by simp only [updAt_length, putAt_length, List.length_map, List.length_mapIdx]; exact fun h => h)
          exact h
        obtain ⟨yv16, hyv16, ev16⟩ := hv16.gen
        rw [ev16]
        split
        · rename_i y18 y19
          exact hyv16
        · rename_i y20 y21 y22
          extract_lets +onlyGivenNames v23
          have hv23 : r0.Keeps v23 := by
            unfold v23
            refine State.setCtx_keeps ?_
            exact hyv16
          obtain ⟨yv23, hyv23, ev23⟩ := hv23.gen
          rw [ev23]
          extract_lets +onlyGivenNames v24
          clear_value v24
          extract_lets +onlyGivenNames v25
          refine .ite ?_ ?_
          · refine State.count_keeps ?_
            refine State.freeCtx_keeps ?_
            exact hyv16
          · refine .upd yv23 ?_ (⟨rfl, rfl, rfl⟩) (fun h => h) (by simp only [updAt_length]; exact fun h => h)
            exact hyv23

theorem State.symCtl_keeps {r0 : State} {s : State} {token : Nat} {code : Nat} (h : r0.Keeps s) : r0.Keeps (s.symCtl token code) := by
  unfold State.symCtl
  extract_lets +onlyGivenNames v1
  refine .upd s ?_ (⟨rfl, rfl, rfl⟩) (fun h => h) (fun h => h)
  exact h

theorem State.rotateKeys_keeps {r0 : State} {s : State} (h : r0.Keeps s) : r0.Keeps s.rotateKeys := by
  unfold State.rotateKeys
  extract_lets id new s1 move sl _ _ s2 s3
  have h1 : r0.Keeps s1 := State.draw_keeps h
  clear_value s1 new id
  have hm : ∀ m a b, Assoc.rising m → Assoc.rising (move m a b) := by
    intro m a b k
    unfold move
    split
    · exact Assoc.rising_put _ _ _ k
    · exact Assoc.rising_del _ _ k
  have h2 : r0.Keeps s2 := .upd s1 h1 ⟨rfl, rfl, rfl⟩
    (fun ⟨a, b, c, d, e, f, g⟩ => ⟨a, b, c, d, e, Assoc.rising_put _ _ _ (hm _ _ _ (hm _ _ _ f)), g⟩) (fun h => h)
  clear_value s2
  have h3 : r0.Keeps s3 := State.log_keeps (State.count_keeps (State.count_keeps h2))
  clear_value s3
  split
  · exact State.symCtl_keeps (.upd s3 h3 ⟨rfl, rfl, rfl⟩ (fun h => h) (fun h => h))
  · exact h3

theorem State.keyRotation_keeps {r0 : State} {s : State} (h : r0.Keeps s) : r0.Keeps s.keyRotation := by
  unfold State.keyRotation
  refine .ite ?_ ?_
  · refine State.rotateKeys_keeps ?_
    exact h
  · exact h

theorem State.rotateOp_keeps {r0 : State} {s : State} {token : Nat} (h : r0.Keeps s) : r0.Keeps (s.rotateOp token) := by
  unfold State.rotateOp
  extract_lets +onlyGivenNames v1
  extract_lets +onlyGivenNames v2
  have hv2 : r0.Keeps v2 := by
    unfold v2
    refine .upd s ?_ (⟨rfl, rfl, rfl⟩) (fun h => h) (fun h => h)
    exact h
  obtain ⟨yv2, hyv2, ev2⟩ := hv2.gen
  rw [ev2]
  refine .ite ?_ ?_
  · exact h
  · refine .ite ?_ ?_
    · refine State.symCtl_keeps ?_
      exact h
    · refine .ite ?_ ?_
      · refine State.rotateKeys_keeps ?_
        exact hyv2
      · exact hyv2

theorem State.mintStart_keeps {r0 : State} {s : State} (h : r0.Keeps s) : r0.Keeps s.mintStart := by
  unfold State.mintStart
  extract_lets +onlyGivenNames v1
  refine .ite ?_ ?_
  · exact h
  · split
    · rename_i y2 y3 y4 y5
      refine .upd s ?_ (⟨rfl, rfl, rfl⟩) (fun h => h) (fun h => h)
      exact h
    · rename_i y6 y7
      exact h

theorem State.mintComplete_keeps {r0 : State} {s : State} (h : r0.Keeps s) : r0.Keeps s.mintComplete := by
  unfold State.mintComplete
  extract_lets +onlyGivenNames v1
  refine .ite ?_ ?_
  · exact h
  · split
    · rename_i y4 y5
      exact h
    · rename_i y6 y7 y8
      extract_lets +onlyGivenNames v9
      clear_value v9
      extract_lets +onlyGivenNames v10
      have hv10 : r0.Keeps v10 := by
        unfold v10
        refine .upd s ?_ (⟨rfl, rfl, rfl⟩) (fun h => h) (fun h => h)
        exact h
      obtain ⟨yv10, hyv10, ev10⟩ := hv10.gen
      rw [ev10]
      extract_lets +onlyGivenNames v11
      clear_value v11
      extract_lets +onlyGivenNames v12
      extract_lets +onlyGivenNames v13
      clear_value v13
      split
      · rename_i y14 y15 y16 y17
        split
        · rename_i y18 y19 y20 y21
          refine State.cqFinish_keeps ?_
          refine State.countN_keeps ?_
          refine .snd y21 ?_
          refine State.sealCookies_keeps ?_
          exact hyv10
      · rename_i y22 y23 y24 y25
        refine State.cqFinish_keeps ?_
        refine State.count_keeps ?_
        exact hyv10

end Sys2Proof.Machine
end

