-- ==== Sys2Proof/Laws/KeepPtp.lean ====
section
/-! SUPPORT. What the operations of Machine/Ptp.lean keep. -/

set_option Elab.async false
set_option linter.unusedVariables false
set_option linter.unusedSimpArgs false

namespace Sys2Proof.Machine

open Sys2Proof

theorem State.sendVia_keeps {r0 : State} {s : State} {n : Nat} {tags : List (Nat × Nat)} {src : List Byte} {ip : List Byte} {f : EgFrame} (h : r0.Keeps s) : r0.Keeps (s.sendVia n tags src ip f) := by
  unfold State.sendVia
  extract_lets +onlyGivenNames v1
  extract_lets +onlyGivenNames v2
  extract_lets +onlyGivenNames v3
  extract_lets +onlyGivenNames v4
  have hv4 : r0.Keeps v4 := by
    unfold v4
    refine .upd s ?_ (⟨rfl, rfl, rfl⟩) (fun h => h) (fun h => h)
    exact h
  obtain ⟨yv4, hyv4, ev4⟩ := hv4.gen
  rw [ev4]
  split
  · rename_i y5 y6 y7
    refine State.queueFrame_keeps ?_
    exact h
  · rename_i y8 y9
    refine State.queueFrame_keeps ?_
    exact hyv4

theorem State.learn_keeps {r0 : State} {s : State} {n : Nat} {ip : List Byte} {mac : Nat} (h : r0.Keeps s) : r0.Keeps (s.learn n ip mac) := by
  unfold State.learn
  extract_lets +onlyGivenNames v1
  extract_lets +onlyGivenNames v2
  extract_lets +onlyGivenNames v3
  have hv3 : r0.Keeps v3 := by
    unfold v3
    refine .upd s ?_ (⟨rfl, rfl, rfl⟩) (fun h => h) (fun h => h)
    exact h
  obtain ⟨yv3, hyv3, ev3⟩ := hv3.gen
  rw [ev3]
  refine .foldl ?_ fun t5 a6 k7 => ?_
  · exact hyv3
  · extract_lets +onlyGivenNames v8
    refine State.queueFrame_keeps ?_
    exact k7

theorem State.withhold_keeps {r0 : State} {s : State} {n : Nat} (h : r0.Keeps s) : r0.Keeps (s.withhold n) := by
  unfold State.withhold
  refine State.count_keeps ?_
  exact h

theorem State.ptpSend_keeps {r0 : State} {s : State} {n : Nat} {m : Nat} {src : EgSrc} {peer : Bool} {ins : Nat → Insertion} {tsReq : Bool} {msg : List Byte} {d : PtpDst} (h : r0.Keeps s) : r0.Keeps (s.ptpSend n m src peer ins tsReq msg d) := by
  unfold State.ptpSend
  split
  · rename_i y2 y3
    refine State.withhold_keeps ?_
    exact h
  · rename_i y4 y5 y6 y7
    refine .ite ?_ ?_
    · exact h
    · split
      · rename_i y10 y11 y12 y13 y14
        extract_lets +onlyGivenNames v15
        clear_value v15
        extract_lets +onlyGivenNames v16
        extract_lets +onlyGivenNames v17
        refine .ite ?_ ?_
        · refine State.sendVia_keeps ?_
          exact h
        · refine State.queueFrame_keeps ?_
          exact h

theorem State.ptpAnswer_keeps {r0 : State} {s : State} {lane : Nat} {c : Ctx} {m : Nat} {src : EgSrc} {ins : Nat → Insertion} {tsReq : Bool} {msg : List Byte} (h : r0.Keeps s) : r0.Keeps (s.ptpAnswer lane c m src ins tsReq msg) := by
  unfold State.ptpAnswer
  split
  · rename_i y2 y3
    refine State.withhold_keeps ?_
    refine State.laneDrop_keeps ?_
    exact h
  · rename_i y4 y5 y6 y7
    split
    · rename_i y9 y10 y11 y12 y13
      extract_lets +onlyGivenNames v14
      clear_value v14
      extract_lets +onlyGivenNames v15
      refine State.answer_keeps ?_
      exact h

theorem State.ptpReplySend_keeps {r0 : State} {s : State} {n : Nat} {m : Nat} {src : EgSrc} {p : Pkt} {msg : List Byte} (h : r0.Keeps s) : r0.Keeps (s.ptpReplySend n m src p msg) := by
  unfold State.ptpReplySend
  split
  · rename_i y2 y3
    refine State.withhold_keeps ?_
    exact h
  · rename_i y4 y5 y6 y7
    refine .ite ?_ ?_
    · exact h
    · split
      · rename_i y10 y11 y12 y13 y14
        extract_lets +onlyGivenNames v15
        refine State.queueFrame_keeps ?_
        exact h

theorem State.grantOne_keeps {r0 : State} {s : State} {n : Nat} {m : Nat} {p : Pkt} {cid : List Byte} {typ : Nat} {l : Int} {dur : Nat} (h : r0.Keeps s) : r0.Keeps (s.grantOne n m p cid typ l dur).2 := by
  unfold State.grantOne
  extract_lets +onlyGivenNames v1
  extract_lets +onlyGivenNames v2
  clear_value v2
  extract_lets +onlyGivenNames v3
  clear_value v3
  extract_lets +onlyGivenNames v4
  clear_value v4
  extract_lets +onlyGivenNames v5
  have hv5 : r0.Keeps v5.2 := by
    unfold v5
    dsimp only
    refine State.count_keeps ?_
    exact h
  extract_lets +onlyGivenNames v6
  extract_lets +onlyGivenNames v7
  split
  · rename_i y9 y10
    exact hv5
  · rename_i y11 y12 y13
    extract_lets +onlyGivenNames v14
    extract_lets +onlyGivenNames v15
    extract_lets +onlyGivenNames v16
    extract_lets +onlyGivenNames v17
    have hv17 : r0.Keeps v17 := by
      unfold v17
      refine .upd s ?_ (⟨rfl, rfl, rfl⟩) (fun h => h) (fun h => h)
      exact h
    obtain ⟨yv17, hyv17, ev17⟩ := hv17.gen
    rw [ev17]
    extract_lets +onlyGivenNames v18
    clear_value v18
    extract_lets +onlyGivenNames v19
    split
    · rename_i y20 y21 y22 y23
      split
      · rename_i y24
        exact hv5
      · rename_i y25
        split
        · rename_i y26
          exact hv5
        · rename_i y27
          split
          · rename_i y28
            exact hv5
          · rename_i y29
            split
            · rename_i y30 y31
              split
              · rename_i y32
                unfold v19
                dsimp only
                refine State.count_keeps ?_
                refine .upd s ?_ (⟨rfl, rfl, rfl⟩) (fun h => h) (fun h => h)
                exact h
              · rename_i y33
                split
                · rename_i y34
                  unfold v19
                  dsimp only
                  refine State.count_keeps ?_
                  refine .upd s ?_ (⟨rfl, rfl, rfl⟩) (fun h => h) (fun h => h)
                  exact h
                · rename_i y35
                  split
                  · rename_i y36 y37 y38
                    unfold v19
                    dsimp only
                    refine State.count_keeps ?_
                    refine .upd s ?_ (⟨rfl, rfl, rfl⟩) (fun h => h) (fun h => h)
                    exact h
                  · rename_i y39 y40
                    exact hv5
            · rename_i y41
              split
              · rename_i y42
                unfold v19
                dsimp only
                refine State.count_keeps ?_
                refine .upd s ?_ (⟨rfl, rfl, rfl⟩) (fun h => h) (fun h => h)
                exact h
              · rename_i y43
                split
                · rename_i y44 y45 y46
                  unfold v19
                  dsimp only
                  refine State.count_keeps ?_
                  refine .upd s ?_ (⟨rfl, rfl, rfl⟩) (fun h => h) (fun h => h)
                  exact h
                · rename_i y47 y48
                  exact hv5

theorem State.cancelOne_keeps {r0 : State} {s : State} {n : Nat} {m : Nat} {p : Pkt} {cid : List Byte} {typ : Nat} (h : r0.Keeps s) : r0.Keeps (s.cancelOne n m p cid typ) := by
  unfold State.cancelOne
  extract_lets +onlyGivenNames v1
  extract_lets +onlyGivenNames v2
  extract_lets +onlyGivenNames v3
  refine .ite ?_ ?_
  · refine State.count_keeps ?_
    refine .upd s ?_ (⟨rfl, rfl, rfl⟩) (fun h => h) (fun h => h)
    exact h
  · exact h

theorem State.sendCancel_keeps {r0 : State} {s : State} {g : Grant} (h : r0.Keeps s) : r0.Keeps (s.sendCancel g) := by
  unfold State.sendCancel
  extract_lets +onlyGivenNames v1
  refine State.setPtp_keeps ?_
  refine State.ptpSend_keeps ?_
  exact h

theorem State.cancelGrants_keeps {r0 : State} {s : State} {p : Grant → Bool} (h : r0.Keeps s) : r0.Keeps (s.cancelGrants p) := by
  unfold State.cancelGrants
  extract_lets +onlyGivenNames v1
  extract_lets +onlyGivenNames v2
  have hv2 : r0.Keeps v2 := by
    unfold v2
    refine .foldl ?_ fun t3 a4 k5 => ?_
    · exact h
    · refine State.count_keeps ?_
      refine State.sendCancel_keeps ?_
      exact k5
  obtain ⟨yv2, hyv2, ev2⟩ := hv2.gen
  rw [ev2]
  extract_lets +onlyGivenNames v6
  refine .upd yv2 ?_ (⟨rfl, rfl, rfl⟩) (fun h => h) (fun h => h)
  exact hyv2

theorem State.grantExpire_keeps {r0 : State} {s : State} {n : Nat} {g : Nat} (h : r0.Keeps s) : r0.Keeps (s.grantExpire n g) := by
  unfold State.grantExpire
  extract_lets +onlyGivenNames v1
  split
  · rename_i y2 y3 y4
    refine .ite ?_ ?_
    · refine .upd s ?_ (⟨rfl, rfl, rfl⟩) (fun h => h) (fun h => h)
      exact h
    · exact h
  · rename_i y5 y6
    exact h

theorem State.sendGroup_keeps {r0 : State} {s : State} {n : Nat} {m : Nat} {kind : Nat} (h : r0.Keeps s) : r0.Keeps (s.sendGroup n m kind) := by
  unfold State.sendGroup
  extract_lets +onlyGivenNames v1
  refine .ite ?_ ?_
  · refine State.setPtp_keeps ?_
    refine State.ptpSend_keeps ?_
    exact h
  · refine State.setPtp_keeps ?_
    refine State.ptpSend_keeps ?_
    exact h

theorem State.sendUni_keeps {r0 : State} {s : State} {g : Grant} (h : r0.Keeps s) : r0.Keeps (s.sendUni g) := by
  unfold State.sendUni
  extract_lets +onlyGivenNames v1
  refine .ite ?_ ?_
  · refine State.setPtp_keeps ?_
    refine State.ptpSend_keeps ?_
    exact h
  · refine State.setPtp_keeps ?_
    refine State.ptpSend_keeps ?_
    exact h

theorem State.sendSlot_keeps {r0 : State} {s : State} {n : Nat} {kind : Nat} {slot : Nat} {inst : Nat → Bool} (h : r0.Keeps s) : r0.Keeps (s.sendSlot n kind slot inst) := by
  unfold State.sendSlot
  extract_lets +onlyGivenNames v1
  have hv1 : r0.Keeps v1 := by
    unfold v1
    refine .foldl ?_ fun t2 a3 k4 => ?_
    · exact h
    · refine .ite ?_ ?_
      · refine State.sendGroup_keeps ?_
        exact k4
      · exact k4
  obtain ⟨yv1, hyv1, ev1⟩ := hv1.gen
  rw [ev1]
  extract_lets +onlyGivenNames v5
  extract_lets +onlyGivenNames v6
  have hv6 : r0.Keeps v6 := by
    unfold v6
    refine .foldl ?_ fun t7 a8 k9 => ?_
    · exact hyv1
    · refine State.sendUni_keeps ?_
      exact k9
  obtain ⟨yv6, hyv6, ev6⟩ := hv6.gen
  rw [ev6]
  extract_lets +onlyGivenNames v10
  refine .upd yv6 ?_ (⟨rfl, rfl, rfl⟩) (fun h => h) (fun h => h)
  exact hyv6

theorem State.syncSend_keeps {r0 : State} {s : State} {n : Nat} {slot : Nat} (h : r0.Keeps s) : r0.Keeps (s.syncSend n slot) := by
  unfold State.syncSend
  refine .ite ?_ ?_
  · refine State.setPtp_keeps ?_
    refine State.sendSlot_keeps ?_
    exact h
  · exact h

theorem State.announceSend_keeps {r0 : State} {s : State} {n : Nat} {inst : Nat} (h : r0.Keeps s) : r0.Keeps (s.announceSend n inst) := by
  unfold State.announceSend
  refine .ite ?_ ?_
  · refine State.setPtp_keeps ?_
    refine State.sendSlot_keeps ?_
    exact h
  · exact h

theorem State.ptpReceive_keeps {r0 : State} {s : State} {lane : Nat} (h : r0.Keeps s) : r0.Keeps (s.ptpReceive lane) := by
  unfold State.ptpReceive
  split
  · rename_i y1 y2
    split
    · rename_i y3 y4 y5
      refine .ite ?_ ?_
      · refine State.count_keeps ?_
        refine State.laneDrop_keeps ?_
        exact h
      · exact h
    · rename_i y6 y7
      exact h
  · rename_i y8 y9 y10 y11
    refine .ite ?_ ?_
    · exact h
    · split
      · rename_i y12 y13 y14
        refine State.count_keeps ?_
        refine State.laneDrop_keeps ?_
        exact h
      · rename_i y15 y16
        refine .ite ?_ ?_
        · refine State.count_keeps ?_
          refine State.laneDrop_keeps ?_
          exact h
        · refine State.setCtx_keeps ?_
          exact h

theorem State.delayReq_keeps {r0 : State} {s : State} {lane : Nat} (h : r0.Keeps s) : r0.Keeps (s.delayReq lane) := by
  unfold State.delayReq
  extract_lets +onlyGivenNames v1
  split
  · rename_i y3 y4
    exact h
  · rename_i y5 y6 y7 y8 y9
    extract_lets +onlyGivenNames v10
    clear_value v10
    extract_lets +onlyGivenNames v11
    have hv11 : r0.Keeps v11 := by
      unfold v11
      refine State.count_keeps ?_
      refine State.laneDrop_keeps ?_
      exact h
    obtain ⟨yv11, hyv11, ev11⟩ := hv11.gen
    rw [ev11]
    extract_lets +onlyGivenNames v12
    extract_lets +onlyGivenNames v13
    refine .ite ?_ ?_
    · refine State.laneDrop_keeps ?_
      exact h
    · refine .ite ?_ ?_
      · split
        · rename_i y17 y18
          exact hyv11
        · rename_i y19 y20 y21
          extract_lets +onlyGivenNames v22
          extract_lets +onlyGivenNames v23
          refine .ite ?_ ?_
          · exact hyv11
          · unfold v12
            refine State.ptpAnswer_keeps ?_
            refine State.count_keeps ?_
            refine .upd s ?_ (⟨rfl, rfl, rfl⟩) (fun h => h) (fun h => h)
            exact h
      · refine .ite ?_ ?_
        · refine .ite ?_ ?_
          · exact hyv11
          · unfold v12
            refine State.ptpAnswer_keeps ?_
            refine State.count_keeps ?_
            refine State.setPtp_keeps ?_
            exact h
        · exact hyv11

theorem State.pdelayReqIn_keeps {r0 : State} {s : State} {lane : Nat} (h : r0.Keeps s) : r0.Keeps (s.pdelayReqIn lane) := by
  unfold State.pdelayReqIn
  split
  · rename_i y2 y3
    exact h
  · rename_i y4 y5 y6 y7 y8
    extract_lets +onlyGivenNames v9
    clear_value v9
    split
    · rename_i y10 y11
      refine State.ptpAnswer_keeps ?_
      exact h
    · rename_i y12 y13
      refine State.ptpAnswer_keeps ?_
      exact h
    · rename_i y14 y15 y16
      refine State.laneDrop_keeps ?_
      exact h

theorem State.pdelayFollow_keeps {r0 : State} {s : State} {n : Nat} (h : r0.Keeps s) : r0.Keeps (s.pdelayFollow n) := by
  unfold State.pdelayFollow
  split
  · rename_i y2 y3
    exact h
  · rename_i y4 y5 y6 y7 y8 y9 y10
    extract_lets +onlyGivenNames v11
    have hv11 : r0.Keeps v11 := by
      unfold v11
      refine State.setPtp_keeps ?_
      exact h
    obtain ⟨yv11, hyv11, ev11⟩ := hv11.gen
    rw [ev11]
    split
    · rename_i y12 y13 y14
      refine .ite ?_ ?_
      · refine State.ptpSend_keeps ?_
        exact hyv11
      · exact hyv11
    · rename_i y15 y16
      exact hyv11

theorem State.judgeAs_keeps {r0 : State} {s : State} {n : Nat} (h : r0.Keeps s) : r0.Keeps (s.judgeAs n) := by
  unfold State.judgeAs
  refine State.setPtp_keeps ?_
  exact h

theorem State.beginExchange_keeps {r0 : State} {s : State} {n : Nat} (h : r0.Keeps s) : r0.Keeps (s.beginExchange n) := by
  unfold State.beginExchange
  refine State.setPtp_keeps ?_
  exact h

theorem State.pdelaySend_keeps {r0 : State} {s : State} {n : Nat} {m : Nat} (h : r0.Keeps s) : r0.Keeps (s.pdelaySend n m) := by
  unfold State.pdelaySend
  extract_lets +onlyGivenNames v1
  have hv1 : r0.Keeps v1 := by
    unfold v1
    refine State.setPtp_keeps ?_
    refine State.beginExchange_keeps ?_
    exact h
  obtain ⟨yv1, hyv1, ev1⟩ := hv1.gen
  rw [ev1]
  extract_lets +onlyGivenNames v2
  have hv2 : r0.Keeps v2 := by
    unfold v2
    refine State.judgeAs_keeps ?_
    exact hyv1
  obtain ⟨yv2, hyv2, ev2⟩ := hv2.gen
  rw [ev2]
  extract_lets +onlyGivenNames v3
  clear_value v3
  refine .ite ?_ ?_
  · refine State.ptpSend_keeps ?_
    exact hyv2
  · exact h

theorem State.neighbour_keeps {r0 : State} {s : State} {n : Nat} {d : Int} (h : r0.Keeps s) : r0.Keeps (s.neighbour n d) := by
  unfold State.neighbour
  refine State.judgeAs_keeps ?_
  refine State.setPtp_keeps ?_
  exact h

theorem State.peerComplete_keeps {r0 : State} {s : State} {lane : Nat} (h : r0.Keeps s) : r0.Keeps (s.peerComplete lane) := by
  unfold State.peerComplete
  split
  · rename_i y2 y3
    exact h
  · rename_i y4 y5 y6 y7 y8
    extract_lets +onlyGivenNames v9
    clear_value v9
    extract_lets +onlyGivenNames v10
    have hv10 : r0.Keeps v10 := by
      unfold v10
      refine State.laneDrop_keeps ?_
      exact h
    obtain ⟨yv10, hyv10, ev10⟩ := hv10.gen
    rw [ev10]
    extract_lets +onlyGivenNames v11
    extract_lets +onlyGivenNames v12
    clear_value v12
    extract_lets +onlyGivenNames v13
    clear_value v13
    extract_lets +onlyGivenNames v14
    clear_value v14
    split
    · rename_i y16 y17
      exact hyv10
    · rename_i y18 y19 y20
      extract_lets +onlyGivenNames v21
      clear_value v21
      refine .ite ?_ ?_
      · exact hyv10
      · split
        · rename_i y22 y23
          exact hyv10
        · rename_i y24 y25 y26
          refine .ite ?_ ?_
          · refine .ite ?_ ?_
            · refine State.neighbour_keeps ?_
              exact hyv10
            · refine State.setPtp_keeps ?_
              exact hyv10
          · split
            · rename_i y27 y28 y29 y30 y31 y32
              refine State.neighbour_keeps ?_
              exact hyv10
            · rename_i y33 y34 y35
              exact hyv10

theorem State.rxQuality_keeps {r0 : State} {s : State} {i : Nat} {q : Nat} (h : r0.Keeps s) : r0.Keeps (s.rxQuality i q) := by
  unfold State.rxQuality
  extract_lets +onlyGivenNames v1
  have hv1 : r0.Keeps v1 := by
    unfold v1
    refine State.setRef_keeps ?_
    exact h
  obtain ⟨yv1, hyv1, ev1⟩ := hv1.gen
  rw [ev1]
  refine .ite ?_ ?_
  · exact h
  · refine .ite ?_ ?_
    · refine State.monitorFails_keeps ?_
      exact hyv1
    · exact hyv1

theorem State.clientQl_keeps {r0 : State} {s : State} {n : Nat} (h : r0.Keeps s) : r0.Keeps (s.clientQl n) := by
  unfold State.clientQl
  split
  · rename_i y1 y2 y3
    refine State.rxQuality_keeps ?_
    exact h
  · rename_i y4 y5
    refine State.setRef_keeps ?_
    exact h

theorem State.followBest_keeps {r0 : State} {s : State} {n : Nat} (h : r0.Keeps s) : r0.Keeps (s.followBest n) := by
  unfold State.followBest
  refine .ite ?_ ?_
  · refine State.clientQl_keeps ?_
    exact h
  · split
    · rename_i y1 y2 y3
      refine State.clientQl_keeps ?_
      refine State.setPtp_keeps ?_
      exact h
    · rename_i y4 y5
      refine State.clientQl_keeps ?_
      exact h

theorem State.gmLoss_keeps {r0 : State} {s : State} {n : Nat} (h : r0.Keeps s) : r0.Keeps (s.gmLoss n) := by
  unfold State.gmLoss
  extract_lets +onlyGivenNames v1
  have hv1 : r0.Keeps v1 := by
    unfold v1
    refine State.setPtp_keeps ?_
    exact h
  obtain ⟨yv1, hyv1, ev1⟩ := hv1.gen
  rw [ev1]
  extract_lets +onlyGivenNames v2
  have hv2 : r0.Keeps v2 := by
    unfold v2
    refine State.setRef_keeps ?_
    refine State.count_keeps ?_
    exact hyv1
  obtain ⟨yv2, hyv2, ev2⟩ := hv2.gen
  rw [ev2]
  refine State.followBest_keeps ?_
  refine State.monitorFails_keeps ?_
  exact hyv2

theorem State.clientAnnounce_keeps {r0 : State} {s : State} {lane : Nat} (h : r0.Keeps s) : r0.Keeps (s.clientAnnounce lane) := by
  unfold State.clientAnnounce
  split
  · rename_i y2 y3
    exact h
  · rename_i y4 y5 y6 y7 y8
    extract_lets +onlyGivenNames v9
    clear_value v9
    extract_lets +onlyGivenNames v10
    have hv10 : r0.Keeps v10 := by
      unfold v10
      refine State.laneDrop_keeps ?_
      exact h
    obtain ⟨yv10, hyv10, ev10⟩ := hv10.gen
    rw [ev10]
    extract_lets +onlyGivenNames v11
    extract_lets +onlyGivenNames v12
    extract_lets +onlyGivenNames v13
    clear_value v13
    extract_lets +onlyGivenNames v14
    extract_lets +onlyGivenNames v15
    clear_value v15
    extract_lets +onlyGivenNames v16
    have hv16 : r0.Keeps v16 := by
      unfold v16
      refine State.setPtp_keeps ?_
      exact hyv10
    obtain ⟨yv16, hyv16, ev16⟩ := hv16.gen
    rw [ev16]
    refine .ite ?_ ?_
    · exact hyv10
    · refine .ite ?_ ?_
      · exact hyv10
      · refine .ite ?_ ?_
        · refine State.gmLoss_keeps ?_
          refine State.setPtp_keeps ?_
          exact hyv16
        · split
          · rename_i y17 y18 y19 y20 y21 y22
            refine .ite ?_ ?_
            · refine State.clientQl_keeps ?_
              exact hyv16
            · refine State.gmLoss_keeps ?_
              exact hyv16
          · rename_i y23 y24 y25
            refine State.followBest_keeps ?_
            exact hyv16

theorem State.clientZ_keeps {r0 : State} {s : State} {n : Nat} {t1 : Int} {cs : Int} {t2 : Int} (h : r0.Keeps s) : r0.Keeps (s.clientZ n t1 cs t2) := by
  unfold State.clientZ
  extract_lets +onlyGivenNames v1
  have hv1 : r0.Keeps v1 := by
    unfold v1
    refine State.setPtp_keeps ?_
    exact h
  obtain ⟨yv1, hyv1, ev1⟩ := hv1.gen
  rw [ev1]
  extract_lets +onlyGivenNames v2
  extract_lets +onlyGivenNames v3
  clear_value v3
  refine .ite ?_ ?_
  · exact hyv1
  · refine State.refMeasure_keeps ?_
    refine State.setPtp_keeps ?_
    exact hyv1

theorem State.clientSync_keeps {r0 : State} {s : State} {lane : Nat} (h : r0.Keeps s) : r0.Keeps (s.clientSync lane) := by
  unfold State.clientSync
  split
  · rename_i y2 y3
    exact h
  · rename_i y4 y5 y6 y7 y8
    extract_lets +onlyGivenNames v9
    clear_value v9
    extract_lets +onlyGivenNames v10
    have hv10 : r0.Keeps v10 := by
      unfold v10
      refine State.laneDrop_keeps ?_
      exact h
    obtain ⟨yv10, hyv10, ev10⟩ := hv10.gen
    rw [ev10]
    extract_lets +onlyGivenNames v11
    clear_value v11
    refine .ite ?_ ?_
    · exact hyv10
    · refine .ite ?_ ?_
      · refine .ite ?_ ?_
        · refine State.clientZ_keeps ?_
          exact hyv10
        · refine State.setPtp_keeps ?_
          exact hyv10
      · split
        · rename_i y12 y13 y14 y15 y16
          refine .ite ?_ ?_
          · refine State.clientZ_keeps ?_
            exact hyv10
          · exact hyv10
        · rename_i y17 y18
          exact hyv10

theorem State.clientDelayResp_keeps {r0 : State} {s : State} {lane : Nat} (h : r0.Keeps s) : r0.Keeps (s.clientDelayResp lane) := by
  unfold State.clientDelayResp
  split
  · rename_i y2 y3
    exact h
  · rename_i y4 y5 y6 y7 y8
    extract_lets +onlyGivenNames v9
    clear_value v9
    extract_lets +onlyGivenNames v10
    have hv10 : r0.Keeps v10 := by
      unfold v10
      refine State.laneDrop_keeps ?_
      exact h
    obtain ⟨yv10, hyv10, ev10⟩ := hv10.gen
    rw [ev10]
    extract_lets +onlyGivenNames v11
    split
    · rename_i y13 y14 y15 y16 y17 y18
      split
      · rename_i y20 y21 y22
        extract_lets +onlyGivenNames v23
        clear_value v23
        extract_lets +onlyGivenNames v24
        refine .ite ?_ ?_
        · refine State.setPtp_keeps ?_
          exact hyv10
        · exact hyv10
      · rename_i y25 y26
        exact hyv10
    · rename_i y27 y28 y29
      exact hyv10

theorem State.clientDreq_keeps {r0 : State} {s : State} {n : Nat} (h : r0.Keeps s) : r0.Keeps (s.clientDreq n) := by
  unfold State.clientDreq
  extract_lets +onlyGivenNames v1
  clear_value v1
  extract_lets +onlyGivenNames v2
  clear_value v2
  extract_lets +onlyGivenNames v3
  have hv3 : r0.Keeps v3 := by
    unfold v3
    refine State.beginExchange_keeps ?_
    exact h
  obtain ⟨yv3, hyv3, ev3⟩ := hv3.gen
  rw [ev3]
  extract_lets +onlyGivenNames v4
  clear_value v4
  split
  · rename_i y6 y7
    exact h
  · rename_i y8 y9 y10
    extract_lets +onlyGivenNames v11
    refine .ite ?_ ?_
    · exact h
    · refine State.ptpSend_keeps ?_
      exact hyv3

theorem State.clientRenew_keeps {r0 : State} {s : State} {n : Nat} (h : r0.Keeps s) : r0.Keeps (s.clientRenew n) := by
  unfold State.clientRenew
  extract_lets +onlyGivenNames v1
  extract_lets +onlyGivenNames v2
  have hv2 : r0.Keeps v2 := by
    unfold v2
    refine State.setPtp_keeps ?_
    exact h
  obtain ⟨yv2, hyv2, ev2⟩ := hv2.gen
  rw [ev2]
  extract_lets +onlyGivenNames v3
  clear_value v3
  refine .ite ?_ ?_
  · exact h
  · refine .foldl ?_ fun t6 a7 k8 => ?_
    · exact hyv2
    · extract_lets +onlyGivenNames v9
      extract_lets +onlyGivenNames v10
      extract_lets +onlyGivenNames v11
      clear_value v11
      extract_lets +onlyGivenNames v12
      have hv12 : r0.Keeps v12 := by
        unfold v12
        refine State.setPtp_keeps ?_
        exact k8
      obtain ⟨yv12, hyv12, ev12⟩ := hv12.gen
      rw [ev12]
      refine .ite ?_ ?_
      · exact k8
      · refine State.ptpSend_keeps ?_
        exact hyv12

theorem State.gmTimeout_keeps {r0 : State} {s : State} {n : Nat} (h : r0.Keeps s) : r0.Keeps (s.gmTimeout n) := by
  unfold State.gmTimeout
  extract_lets +onlyGivenNames v1
  extract_lets +onlyGivenNames v2
  clear_value v2
  extract_lets +onlyGivenNames v3
  clear_value v3
  split
  · rename_i y4 y5
    exact h
  · rename_i y6 y7 y8
    refine .ite ?_ ?_
    · exact h
    · refine .ite ?_ ?_
      · refine State.gmLoss_keeps ?_
        refine State.setPtp_keeps ?_
        exact h
      · refine .ite ?_ ?_
        · refine State.gmLoss_keeps ?_
          exact h
        · exact h

theorem State.gmTlv_keeps {r0 : State} {s : State} {n : Nat} {i : Nat} {p : Pkt} {m : List Byte} {t : TlvAt} (h : r0.Keeps s) : r0.Keeps (s.gmTlv n i p m t).2 := by
  unfold State.gmTlv
  extract_lets +onlyGivenNames v1
  extract_lets +onlyGivenNames v2
  clear_value v2
  extract_lets +onlyGivenNames v3
  clear_value v3
  split
  · rename_i y4 y5
    split
    · rename_i y6 y7 y8 y9
      dsimp only
      refine .snd y9 ?_
      refine State.grantOne_keeps ?_
      exact h
  · rename_i y10 y11
    dsimp only
    refine State.cancelOne_keeps ?_
    exact h
  · rename_i y12 y13
    split
    · rename_i y14
      dsimp only
      refine State.setPtp_keeps ?_
      exact h
    · rename_i y15
      dsimp only
      exact h
  · rename_i y16 y17 y18 y19
    dsimp only
    exact h

theorem State.cliTlv_keeps {r0 : State} {s : State} {n : Nat} {m : List Byte} {t : TlvAt} (h : r0.Keeps s) : r0.Keeps (s.cliTlv n m t).2 := by
  unfold State.cliTlv
  extract_lets +onlyGivenNames v1
  clear_value v1
  extract_lets +onlyGivenNames v2
  clear_value v2
  extract_lets +onlyGivenNames v3
  clear_value v3
  extract_lets +onlyGivenNames v4
  extract_lets +onlyGivenNames v5
  extract_lets +onlyGivenNames v6
  clear_value v6
  extract_lets +onlyGivenNames v7
  clear_value v7
  extract_lets +onlyGivenNames v8
  clear_value v8
  extract_lets +onlyGivenNames v9
  have hv9 : r0.Keeps v9 := by
    unfold v9
    refine .ite ?_ ?_
    · refine State.count_keeps ?_
      exact h
    · exact h
  obtain ⟨yv9, hyv9, ev9⟩ := hv9.gen
  rw [ev9]
  split
  · rename_i y11 y12
    split
    · rename_i y14
      dsimp only
      unfold v4
      refine .ite ?_ ?_
      · refine State.gmLoss_keeps ?_
        refine State.setPtp_keeps ?_
        exact h
      · refine State.setPtp_keeps ?_
        exact h
    · rename_i y15
      dsimp only
      refine State.setPtp_keeps ?_
      exact h
  · rename_i y17 y18
    dsimp only
    unfold v4
    refine .ite ?_ ?_
    · refine State.gmLoss_keeps ?_
      refine State.setPtp_keeps ?_
      exact hyv9
    · refine State.setPtp_keeps ?_
      exact hyv9
  · rename_i y19 y20 y21
    dsimp only
    exact h

theorem State.negotiate_keeps {r0 : State} {s : State} {lane : Nat} (h : r0.Keeps s) : r0.Keeps (s.negotiate lane) := by
  unfold State.negotiate
  split
  · exact h
  · rename_i c m i _
    extract_lets n s0 tl target cli
    have h0 : r0.Keeps s0 := State.laneDrop_keeps h
    clear_value s0
    refine .ite h0 (.ite (State.count_keeps h0) ?_)
    split
    rename_i out s1 he
    have h1 : r0.Keeps s1 := by
      refine .snd he (.foldlSnd h0 fun q a k => ?_)
      show r0.Keeps (if cli = true then q.2.cliTlv n m a else q.2.gmTlv n i c.pkt m a).2
      split
      · exact State.cliTlv_keeps k
      · exact State.gmTlv_keeps k
    exact .ite h1 (State.ptpReplySend_keeps h1)

theorem State.ptpCtl_keeps {r0 : State} {s : State} {token : Nat} {code : Nat} (h : r0.Keeps s) : r0.Keeps (s.ptpCtl token code) := by
  unfold State.ptpCtl
  extract_lets +onlyGivenNames v1
  refine .upd s ?_ (⟨rfl, rfl, rfl⟩) (fun h => h) (fun h => h)
  exact h

theorem State.ptpCancelAll_keeps {r0 : State} {s : State} {token : Nat} {n : Nat} (h : r0.Keeps s) : r0.Keeps (s.ptpCancelAll token n) := by
  unfold State.ptpCancelAll
  refine .ite ?_ ?_
  · exact h
  · refine .ite ?_ ?_
    · refine State.ptpCtl_keeps ?_
      exact h
    · refine .ite ?_ ?_
      · refine State.ptpCtl_keeps ?_
        exact h
      · refine State.ptpCtl_keeps ?_
        refine State.cancelGrants_keeps ?_
        exact h

theorem State.ptpRestart_keeps {r0 : State} {s : State} {token : Nat} {n : Nat} (h : r0.Keeps s) : r0.Keeps (s.ptpRestart token n) := by
  unfold State.ptpRestart
  refine .ite ?_ ?_
  · exact h
  · refine .ite ?_ ?_
    · refine State.ptpCtl_keeps ?_
      exact h
    · refine .ite ?_ ?_
      · refine State.ptpCtl_keeps ?_
        exact h
      · refine State.ptpCtl_keeps ?_
        refine State.gmLoss_keeps ?_
        refine State.setPtp_keeps ?_
        exact h

end Sys2Proof.Machine
end

