-- ==== Sys2Proof/Laws/KeepFlow.lean ====
section
/-! SUPPORT. What the operations of Machine/Flow.lean keep. -/

set_option Elab.async false
set_option linter.unusedVariables false
set_option linter.unusedSimpArgs false

namespace Sys2Proof.Machine

open Sys2Proof

theorem State.pauseIn_keeps {r0 : State} {s : State} {n : Nat} {q : Nat} (h : r0.Keeps s) : r0.Keeps (s.pauseIn n q) := by
  unfold State.pauseIn
  extract_lets +onlyGivenNames v1
  have hv1 : r0.Keeps v1 := by
    unfold v1
    refine State.count_keeps ?_
    exact h
  obtain ⟨yv1, hyv1, ev1⟩ := hv1.gen
  rw [ev1]
  refine .ite ?_ ?_
  · refine State.setPort_keeps ?_
    exact hyv1
  · exact hyv1

theorem State.controlFrame_keeps {r0 : State} {s : State} {n : Nat} (h : r0.Keeps s) : r0.Keeps (s.controlFrame n) := by
  unfold State.controlFrame
  refine .ite ?_ ?_
  · refine State.countN_keeps ?_
    refine State.count_keeps ?_
    refine State.lineLoad_keeps ?_
    exact h
  · exact h

theorem State.pfcIn_keeps {r0 : State} {s : State} {n : Nat} {enable : Nat} {quanta : List Nat} (h : r0.Keeps s) : r0.Keeps (s.pfcIn n enable quanta) := by
  unfold State.pfcIn
  extract_lets +onlyGivenNames v1
  have hv1 : r0.Keeps v1 := by
    unfold v1
    refine State.count_keeps ?_
    exact h
  obtain ⟨yv1, hyv1, ev1⟩ := hv1.gen
  rw [ev1]
  extract_lets +onlyGivenNames v2
  refine State.setPort_keeps ?_
  exact hyv1

theorem State.setStop_keeps {r0 : State} {s : State} {n : Nat} {prio : Option Nat} {f : Stop → Stop} (h : r0.Keeps s) : r0.Keeps (s.setStop n prio f) := by
  unfold State.setStop
  refine State.setPort_keeps ?_
  exact h

theorem State.pauseEnd_keeps {r0 : State} {s : State} {n : Nat} {prio : Option Nat} (h : r0.Keeps s) : r0.Keeps (s.pauseEnd n prio) := by
  unfold State.pauseEnd
  extract_lets +onlyGivenNames v1
  refine .ite ?_ ?_
  · refine State.setStop_keeps ?_
    exact h
  · exact h

theorem State.logPause_keeps {r0 : State} {s : State} {n : Nat} {side : Nat} {prio : Nat} (h : r0.Keeps s) : r0.Keeps (s.logPause n side prio) := by
  unfold State.logPause
  refine State.log_keeps ?_
  exact h

theorem State.pauseWatch_keeps {r0 : State} {s : State} {n : Nat} {prio : Option Nat} (h : r0.Keeps s) : r0.Keeps (s.pauseWatch n prio) := by
  unfold State.pauseWatch
  extract_lets +onlyGivenNames v1
  extract_lets +onlyGivenNames v2
  have hv2 : r0.Keeps v2 := by
    unfold v2
    refine State.setStop_keeps ?_
    exact h
  obtain ⟨yv2, hyv2, ev2⟩ := hv2.gen
  rw [ev2]
  refine .ite ?_ ?_
  · refine State.logPause_keeps ?_
    refine State.count_keeps ?_
    refine State.setPort_keeps ?_
    exact hyv2
  · exact h

theorem State.sendX_keeps {r0 : State} {s : State} {n : Nat} {time : Nat} (h : r0.Keeps s) : r0.Keeps (s.sendX n time) := by
  unfold State.sendX
  refine State.queueFrame_keeps ?_
  exact h

theorem State.xoffFirst_keeps {r0 : State} {s : State} {n : Nat} (h : r0.Keeps s) : r0.Keeps (s.xoffFirst n) := by
  unfold State.xoffFirst
  extract_lets +onlyGivenNames v1
  refine .ite ?_ ?_
  · refine State.setPort_keeps ?_
    refine State.sendX_keeps ?_
    exact h
  · exact h

theorem State.xoffAgain_keeps {r0 : State} {s : State} {n : Nat} (h : r0.Keeps s) : r0.Keeps (s.xoffAgain n) := by
  unfold State.xoffAgain
  extract_lets +onlyGivenNames v1
  refine .ite ?_ ?_
  · refine State.setPort_keeps ?_
    refine State.sendX_keeps ?_
    exact h
  · exact h

theorem State.xonSend_keeps {r0 : State} {s : State} {n : Nat} (h : r0.Keeps s) : r0.Keeps (s.xonSend n) := by
  unfold State.xonSend
  extract_lets +onlyGivenNames v1
  refine .ite ?_ ?_
  · refine State.setPort_keeps ?_
    refine State.sendX_keeps ?_
    exact h
  · exact h

theorem State.xoffWatch_keeps {r0 : State} {s : State} {n : Nat} (h : r0.Keeps s) : r0.Keeps (s.xoffWatch n) := by
  unfold State.xoffWatch
  extract_lets +onlyGivenNames v1
  clear_value v1
  extract_lets +onlyGivenNames v2
  have hv2 : r0.Keeps v2 := by
    unfold v2
    refine State.setPort_keeps ?_
    refine State.sendX_keeps ?_
    exact h
  obtain ⟨yv2, hyv2, ev2⟩ := hv2.gen
  rw [ev2]
  split
  · rename_i y3 y4 y5
    refine .ite ?_ ?_
    · refine State.logPause_keeps ?_
      refine State.count_keeps ?_
      exact hyv2
    · exact h
  · rename_i y6 y7
    exact h

theorem State.holdoffEnd_keeps {r0 : State} {s : State} {n : Nat} {prio : Option Nat} {rx : Bool} (h : r0.Keeps s) : r0.Keeps (s.holdoffEnd n prio rx) := by
  unfold State.holdoffEnd
  extract_lets +onlyGivenNames v1
  refine .ite ?_ ?_
  · refine .ite ?_ ?_
    · refine State.setStop_keeps ?_
      exact h
    · exact h
  · refine .ite ?_ ?_
    · refine State.setPort_keeps ?_
      exact h
    · exact h

theorem State.esmcIn_keeps {r0 : State} {s : State} {n : Nat} {ssm : Nat} {tlv : Option (Nat × List Byte)} (h : r0.Keeps s) : r0.Keeps (s.esmcIn n ssm tlv) := by
  unfold State.esmcIn
  extract_lets +onlyGivenNames v1
  clear_value v1
  extract_lets +onlyGivenNames v2
  have hv2 : r0.Keeps v2 := by
    unfold v2
    refine State.setPort_keeps ?_
    refine State.count_keeps ?_
    exact h
  obtain ⟨yv2, hyv2, ev2⟩ := hv2.gen
  rw [ev2]
  refine .ite ?_ ?_
  · exact h
  · refine State.rxQuality_keeps ?_
    exact hyv2

theorem State.esmcSend_keeps {r0 : State} {s : State} {n : Nat} (h : r0.Keeps s) : r0.Keeps (s.esmcSend n) := by
  unfold State.esmcSend
  extract_lets +onlyGivenNames v1
  clear_value v1
  extract_lets +onlyGivenNames v2
  clear_value v2
  extract_lets +onlyGivenNames v3
  clear_value v3
  extract_lets +onlyGivenNames v4
  have hv4 : r0.Keeps v4 := by
    unfold v4
    refine State.setPort_keeps ?_
    exact h
  obtain ⟨yv4, hyv4, ev4⟩ := hv4.gen
  rw [ev4]
  refine .ite ?_ ?_
  · exact h
  · refine .ite ?_ ?_
    · exact h
    · refine State.queueFrame_keeps ?_
      exact hyv4

theorem State.verifySend_keeps {r0 : State} {s : State} {n : Nat} (h : r0.Keeps s) : r0.Keeps (s.verifySend n) := by
  unfold State.verifySend
  extract_lets +onlyGivenNames v1
  extract_lets +onlyGivenNames v2
  clear_value v2
  refine .ite ?_ ?_
  · refine .ite ?_ ?_
    · refine State.setPort_keeps ?_
      exact h
    · refine State.setPort_keeps ?_
      exact h
  · exact h

theorem State.respondIn_keeps {r0 : State} {s : State} {n : Nat} (h : r0.Keeps s) : r0.Keeps (s.respondIn n) := by
  unfold State.respondIn
  extract_lets +onlyGivenNames v1
  refine .ite ?_ ?_
  · refine State.setPort_keeps ?_
    exact h
  · exact h

theorem State.restartVerify_keeps {r0 : State} {s : State} {n : Nat} (h : r0.Keeps s) : r0.Keeps (s.restartVerify n) := by
  unfold State.restartVerify
  extract_lets +onlyGivenNames v1
  clear_value v1
  refine State.setPort_keeps ?_
  exact h

theorem State.putRw_keeps {r0 : State} {s : State} {off : Nat} {v : W32} (h : r0.Keeps s) : r0.Keeps (s.putRw off v) := by
  unfold State.putRw
  split
  · rename_i y2 y3 y4
    extract_lets +onlyGivenNames v5
    extract_lets +onlyGivenNames v6
    extract_lets +onlyGivenNames v7
    refine .upd s ?_ (⟨rfl, rfl, rfl⟩) (fun ⟨a, b, c⟩ => ⟨RegMap.wf_wr _ _ _ a, RegMap.wf_wr _ _ _ b, c⟩) (fun h => h)
    exact h
  · rename_i y8 y9
    exact h

theorem State.ruleWrite_keeps {r0 : State} {s : State} {k : Nat} {w : Nat} {v : W32} (h : r0.Keeps s) : r0.Keeps (s.ruleWrite k w v) := by
  unfold State.ruleWrite
  extract_lets +onlyGivenNames v1
  refine .ite ?_ ?_
  · exact h
  · refine .ite ?_ ?_
    · refine .upd s ?_ (⟨rfl, rfl, rfl⟩) (fun h => h) (fun h => h)
      exact h
    · refine State.putRw_keeps ?_
      exact h

theorem State.coreFull_keeps {r0 : State} {s : State} (h : r0.Keeps s) : r0.Keeps s.coreFull := by
  unfold State.coreFull
  extract_lets +onlyGivenNames v1
  extract_lets +onlyGivenNames v2
  have hv2 : r0.Keeps v2 := by
    unfold v2
    refine .upd s ?_ (⟨rfl, rfl, rfl⟩) (fun h => h) (fun h => h)
    exact h
  obtain ⟨yv2, hyv2, ev2⟩ := hv2.gen
  rw [ev2]
  extract_lets +onlyGivenNames v3
  have hv3 : r0.Keeps v3 := by
    unfold v3
    refine State.tally_keeps ?_
    exact hyv2
  obtain ⟨yv3, hyv3, ev3⟩ := hv3.gen
  rw [ev3]
  extract_lets +onlyGivenNames v4
  refine .ite ?_ ?_
  · exact hyv2
  · refine .upd yv3 ?_ (⟨rfl, rfl, rfl⟩) (fun h => h) (fun h => h)
    exact hyv3

theorem State.parkEval_keeps {r0 : State} {s : State} (h : r0.Keeps s) : r0.Keeps s.parkEval := by
  unfold State.parkEval
  extract_lets +onlyGivenNames v1
  refine .ite ?_ ?_
  · exact h
  · split
    · rename_i y4 y5 y6 y7
      extract_lets +onlyGivenNames v8
      clear_value v8
      refine .upd s ?_ (⟨rfl, rfl, rfl⟩) (fun h => h) (fun h => h)
      exact h

theorem State.setLanes_keeps {r0 : State} {s : State} {k : Nat} (h : r0.Keeps s) : r0.Keeps (s.setLanes k) := by
  unfold State.setLanes
  extract_lets +onlyGivenNames v1
  extract_lets +onlyGivenNames v2
  have hv2 : r0.Keeps v2 := by
    unfold v2
    refine .upd s ?_ (⟨rfl, rfl, rfl⟩) (fun h => h) (fun h => h)
    exact h
  obtain ⟨yv2, hyv2, ev2⟩ := hv2.gen
  rw [ev2]
  extract_lets +onlyGivenNames v3
  extract_lets +onlyGivenNames v4
  refine .upd yv2 ?_ (⟨rfl, rfl, rfl⟩) (fun h => h) (by simp only [updAt_length, putAt_length, List.length_map, List.length_mapIdx]; exact fun h => h)
  exact hyv2

theorem State.parkApply_keeps {r0 : State} {s : State} (h : r0.Keeps s) : r0.Keeps s.parkApply := by
  unfold State.parkApply
  split
  · rename_i y2 y3
    exact h
  · rename_i y4 y5 y6 y7 y8
    extract_lets +onlyGivenNames v9
    clear_value v9
    extract_lets +onlyGivenNames v10
    clear_value v10
    extract_lets +onlyGivenNames v11
    clear_value v11
    extract_lets +onlyGivenNames v12
    have hv12 : r0.Keeps v12 := by
      unfold v12
      refine .ite ?_ ?_
      · exact h
      · refine State.tally_keeps ?_
        exact h
    obtain ⟨yv12, hyv12, ev12⟩ := hv12.gen
    rw [ev12]
    extract_lets +onlyGivenNames v13
    refine State.setLanes_keeps ?_
    refine .upd yv12 ?_ (⟨rfl, rfl, rfl⟩) (fun h => h) (fun h => h)
    exact hyv12

theorem State.beginStep_keeps {r0 : State} {s : State} {n : Nat} {down : Bool} (h : r0.Keeps s) : r0.Keeps (s.beginStep n down) := by
  unfold State.beginStep
  refine State.count_keeps ?_
  refine State.setPort_keeps ?_
  refine State.linkDrop_keeps ?_
  exact h

theorem State.stepDown_keeps {r0 : State} {s : State} {n : Nat} (h : r0.Keeps s) : r0.Keeps (s.stepDown n) := by
  unfold State.stepDown
  extract_lets +onlyGivenNames v1
  extract_lets +onlyGivenNames v2
  clear_value v2
  extract_lets +onlyGivenNames v3
  refine .ite ?_ ?_
  · exact h
  · refine .ite ?_ ?_
    · refine State.setPort_keeps ?_
      exact h
    · refine State.beginStep_keeps ?_
      exact h

theorem State.stepUpPort_keeps {r0 : State} {s : State} {n : Nat} (h : r0.Keeps s) : r0.Keeps (s.stepUpPort n) := by
  unfold State.stepUpPort
  extract_lets +onlyGivenNames v1
  extract_lets +onlyGivenNames v2
  refine .ite ?_ ?_
  · refine State.beginStep_keeps ?_
    exact h
  · exact h

theorem State.stepFailed_keeps {r0 : State} {s : State} {n : Nat} (h : r0.Keeps s) : r0.Keeps (s.stepFailed n) := by
  unfold State.stepFailed
  split
  · rename_i y1 y2 y3
    refine .ite ?_ ?_
    · refine State.setPort_keeps ?_
      exact h
    · exact h
  · rename_i y4 y5
    exact h

end Sys2Proof.Machine
end

