-- ==== Sys2Proof/Laws/KeepRx.lean ====
section
/-! SUPPORT. What the operations of Machine/Rx.lean keep. -/

set_option Elab.async false
set_option linter.unusedVariables false
set_option linter.unusedSimpArgs false

namespace Sys2Proof.Machine

open Sys2Proof

theorem State.rateLimit_keeps {r0 : State} {s : State} {p : Pkt} (h : r0.Keeps s) : r0.Keeps (s.rateLimit p).2 := by
  unfold State.rateLimit
  extract_lets k full b have_ _ put kissed
  clear_value full have_ kissed
  have hp : ∀ x, r0.Keeps (put x) := fun x => .upd s h ⟨rfl, rfl, rfl⟩
    (fun ⟨a, b, c, d, e, f, g, i, j, k⟩ => ⟨a, b, c, d, e, f, g, Assoc.rising_put _ _ _ i, j, k⟩) (fun h => h)
  clear_value put
  split
  · exact h
  · split
    · exact hp _
    · split
      · exact hp _
      · exact hp _

theorem State.serveItem_keeps {r0 : State} {s : State} {i : Item} (h : r0.Keeps s) : r0.Keeps (s.serveItem i) := by
  unfold State.serveItem
  split
  · rename_i y2 y3
    exact h
  · rename_i y4 y5 y6
    extract_lets +onlyGivenNames v7
    have hv7 : r0.Keeps v7 := by
      unfold v7
      refine State.freeCtx_keeps ?_
      exact h
    obtain ⟨yv7, hyv7, ev7⟩ := hv7.gen
    rw [ev7]
    extract_lets +onlyGivenNames v8
    have hv8 : r0.Keeps v8 := by
      unfold v8
      split
      · rename_i y9 y10 y11 y12
        refine State.learn_keeps ?_
        exact hyv7
      · rename_i y13 y14
        exact hyv7
    obtain ⟨yv8, hyv8, ev8⟩ := hv8.gen
    rw [ev8]
    split
    · rename_i y15 y16 y17
      refine State.queueFrame_keeps ?_
      exact hyv8
    · rename_i y18 y19
      exact hyv8

theorem State.serveMgt_keeps {r0 : State} {s : State} (h : r0.Keeps s) : r0.Keeps s.serveMgt := by
  unfold State.serveMgt
  extract_lets +onlyGivenNames v1
  extract_lets +onlyGivenNames v2
  refine .ite ?_ ?_
  · exact h
  · refine .foldl ?_ fun t3 a4 k5 => ?_
    · refine .upd s ?_ (⟨rfl, rfl, rfl⟩) (fun h => h) (by simp only [updAt_length, putAt_length, List.length_map, List.length_mapIdx]; exact fun h => h)
      exact h
    · refine State.serveItem_keeps ?_
      exact k5

theorem State.demandLane_keeps {r0 : State} {s : State} {cls : Nat} {cycles : Nat} (h : r0.Keeps s) : r0.Keeps (s.demandLane cls cycles) := by
  unfold State.demandLane
  extract_lets +onlyGivenNames v1
  refine .upd s ?_ (⟨rfl, rfl, rfl⟩) (fun h => h) (fun h => h)
  exact h

theorem State.admitReq_keeps {r0 : State} {s : State} {n : Nat} {cls : Nat} {p : Pkt} {w : TimeWord} {kiss : Bool} (h : r0.Keeps s) : r0.Keeps (s.admitReq n cls p w kiss) := by
  unfold State.admitReq
  split
  · rename_i y2 y3
    refine State.count_keeps ?_
    exact h
  · rename_i y4 y5 y6
    extract_lets +onlyGivenNames v7
    extract_lets +onlyGivenNames v8
    extract_lets +onlyGivenNames v9
    have hv9 : r0.Keeps v9 := by
      unfold v9
      refine State.demandLane_keeps ?_
      exact h
    obtain ⟨yv9, hyv9, ev9⟩ := hv9.gen
    rw [ev9]
    extract_lets +onlyGivenNames v10
    refine .upd yv9 ?_ (⟨rfl, rfl, rfl⟩) (fun h => h) (by simp only [updAt_length]; exact fun h => h)
    exact hyv9

theorem State.admitPtp_keeps {r0 : State} {s : State} {n : Nat} {cls : Nat} {p : Pkt} {w : TimeWord} (h : r0.Keeps s) : r0.Keeps (s.admitPtp n cls p w) := by
  unfold State.admitPtp
  refine .ite ?_ ?_
  · exact h
  · split
    · rename_i y1 y2 y3
      refine State.count_keeps ?_
      exact h
    · rename_i y4 y5
      refine State.admitReq_keeps ?_
      exact h

theorem State.admitNtp_keeps {r0 : State} {s : State} {n : Nat} {cls : Nat} {p : Pkt} {w : TimeWord} (h : r0.Keeps s) : r0.Keeps (s.admitNtp n cls p w) := by
  unfold State.admitNtp
  refine .ite ?_ ?_
  · refine State.count_keeps ?_
    exact h
  · refine .ite ?_ ?_
    · refine State.count_keeps ?_
      exact h
    · refine .ite ?_ ?_
      · refine State.count_keeps ?_
        exact h
      · split
        · rename_i y1 y2 y3 y4
          refine State.admitReq_keeps ?_
          refine .snd y4 ?_
          refine State.rateLimit_keeps ?_
          exact h
        · rename_i y5 y6 y7
          refine State.count_keeps ?_
          refine .snd y7 ?_
          refine State.rateLimit_keeps ?_
          exact h

theorem State.admitMgt_keeps {r0 : State} {s : State} {n : Nat} {p : Pkt} {w : TimeWord} (h : r0.Keeps s) : r0.Keeps (s.admitMgt n p w) := by
  unfold State.admitMgt
  refine .ite ?_ ?_
  · refine State.count_keeps ?_
    exact h
  · refine State.serveMgt_keeps ?_
    refine State.admitReq_keeps ?_
    exact h

theorem State.takeCells_keeps {r0 : State} {s : State} {n : Nat} {cells : Nat} {fromPool : Bool} (h : r0.Keeps s) : r0.Keeps (s.takeCells n cells fromPool) := by
  unfold State.takeCells
  refine State.setPort_keeps ?_
  exact h

theorem State.admitHost_keeps {r0 : State} {s : State} {i : HostItem} (h : r0.Keeps s) : r0.Keeps (s.admitHost i) := by
  unfold State.admitHost
  extract_lets +onlyGivenNames v1
  have hv1 : r0.Keeps v1 := by
    unfold v1
    refine State.demandLane_keeps ?_
    exact h
  obtain ⟨yv1, hyv1, ev1⟩ := hv1.gen
  rw [ev1]
  extract_lets +onlyGivenNames v2
  refine .ite ?_ ?_
  · refine State.count_keeps ?_
    exact h
  · refine .ite ?_ ?_
    · refine State.count_keeps ?_
      exact h
    · refine State.markHeads_keeps ?_
      refine State.takeCells_keeps ?_
      refine .upd yv1 ?_ (⟨rfl, rfl, rfl⟩) (fun h => h) (fun h => h)
      exact hyv1

theorem State.steerTo_keeps {r0 : State} {s : State} {n : Nat} {bs : List Byte} {p : Pkt} {w : TimeWord} {fromPool : Bool} {t : Steer} (h : r0.Keeps s) : r0.Keeps (s.steerTo n bs p w fromPool t) := by
  unfold State.steerTo
  extract_lets +onlyGivenNames v1
  have hv1 : r0.Keeps v1 := by
    unfold v1
    split
    · rename_i y2 y3 y4
      refine State.count_keeps ?_
      exact h
    · rename_i y5 y6
      exact h
  obtain ⟨yv1, hyv1, ev1⟩ := hv1.gen
  rw [ev1]
  extract_lets +onlyGivenNames v7
  extract_lets +onlyGivenNames v8
  have hv8 : r0.Keeps v8 := by
    unfold v8
    split
    · rename_i y9 y10 y11
      refine State.admitHost_keeps ?_
      exact hyv1
    · rename_i y12 y13
      exact hyv1
  obtain ⟨yv8, hyv8, ev8⟩ := hv8.gen
  rw [ev8]
  refine .ite ?_ ?_
  · refine State.count_keeps ?_
    exact hyv1
  · refine .ite ?_ ?_
    · refine State.admitPtp_keeps ?_
      exact hyv8
    · refine .ite ?_ ?_
      · refine State.admitNtp_keeps ?_
        exact hyv8
      · refine .ite ?_ ?_
        · refine State.admitMgt_keeps ?_
          exact hyv8
        · refine State.admitHost_keeps ?_
          exact hyv8

theorem State.macControl_keeps {r0 : State} {s : State} {n : Nat} {b : List Byte} (h : r0.Keeps s) : r0.Keeps (s.macControl n b) := by
  unfold State.macControl
  split
  · rename_i y1 y2
    refine State.pauseIn_keeps ?_
    exact h
  · rename_i y3 y4
    refine State.pfcIn_keeps ?_
    exact h
  · rename_i y5 y6 y7
    refine State.count_keeps ?_
    exact h

theorem State.esmcFrameIn_keeps {r0 : State} {s : State} {n : Nat} {b : List Byte} (h : r0.Keeps s) : r0.Keeps (s.esmcFrameIn n b) := by
  unfold State.esmcFrameIn
  split
  · rename_i y1 y2 y3 y4
    refine State.esmcIn_keeps ?_
    exact h
  · rename_i y5 y6
    exact h

theorem State.frameGood_keeps {r0 : State} {s : State} {n : Nat} {f : RxFrame} {w : TimeWord} {fromPool : Bool} (h : r0.Keeps s) : r0.Keeps (s.frameGood n f w fromPool) := by
  unfold State.frameGood
  extract_lets +onlyGivenNames v1
  clear_value v1
  extract_lets +onlyGivenNames v2
  have hv2 : r0.Keeps v2 := by
    unfold v2
    refine State.countN_keeps ?_
    refine State.count_keeps ?_
    exact h
  obtain ⟨yv2, hyv2, ev2⟩ := hv2.gen
  rw [ev2]
  extract_lets +onlyGivenNames v3
  extract_lets +onlyGivenNames v4
  refine .ite ?_ ?_
  · refine State.memoryError_keeps ?_
    exact hyv2
  · refine .ite ?_ ?_
    · refine State.macControl_keeps ?_
      exact hyv2
    · refine .ite ?_ ?_
      · refine .ite ?_ ?_
        · refine State.esmcFrameIn_keeps ?_
          exact hyv2
        · refine State.count_keeps ?_
          exact hyv2
      · refine .ite ?_ ?_
        · refine State.count_keeps ?_
          exact hyv2
        · refine .ite ?_ ?_
          · refine State.count_keeps ?_
            exact hyv2
          · refine .ite ?_ ?_
            · refine .ite ?_ ?_
              · exact hyv2
              · refine State.steerTo_keeps ?_
                exact hyv2
            · refine State.admitMgt_keeps ?_
              exact hyv2

theorem State.frameMac_keeps {r0 : State} {s : State} {n : Nat} {f : RxFrame} {w : TimeWord} (h : r0.Keeps s) : r0.Keeps (s.frameMac n f w) := by
  unfold State.frameMac
  extract_lets +onlyGivenNames v1
  clear_value v1
  extract_lets +onlyGivenNames v2
  clear_value v2
  extract_lets +onlyGivenNames v3
  clear_value v3
  extract_lets +onlyGivenNames v4
  clear_value v4
  extract_lets +onlyGivenNames v5
  have hv5 : r0.Keeps v5 := by
    unfold v5
    refine .ite ?_ ?_
    · exact h
    · refine State.xoffFirst_keeps ?_
      exact h
  obtain ⟨yv5, hyv5, ev5⟩ := hv5.gen
  rw [ev5]
  refine .ite ?_ ?_
  · refine State.count_keeps ?_
    exact h
  · refine .ite ?_ ?_
    · refine State.count_keeps ?_
      exact hyv5
    · refine .ite ?_ ?_
      · refine State.count_keeps ?_
        exact hyv5
      · refine .ite ?_ ?_
        · refine State.count_keeps ?_
          exact hyv5
        · refine .ite ?_ ?_
          · refine State.count_keeps ?_
            exact hyv5
          · refine State.frameGood_keeps ?_
            exact hyv5

theorem State.mgtFrame_keeps {r0 : State} {s : State} {f : RxFrame} (h : r0.Keeps s) : r0.Keeps (s.mgtFrame f) := by
  unfold State.mgtFrame
  refine .ite ?_ ?_
  · refine State.setPort_keeps ?_
    exact h
  · refine State.frameMac_keeps ?_
    exact h

theorem State.mgtWaiting_keeps {r0 : State} {s : State} (h : r0.Keeps s) : r0.Keeps s.mgtWaiting := by
  unfold State.mgtWaiting
  refine .foldl ?_ fun t1 a2 k3 => ?_
  · refine State.setPort_keeps ?_
    exact h
  · refine State.mgtFrame_keeps ?_
    exact k3

theorem State.frameStake_leads {r0 : State} {s : State} {n : Nat} {f : RxFrame} (h : r0.Leads s) : r0.Leads (s.frameStake n f) := by
  unfold State.frameStake
  extract_lets +onlyGivenNames v1
  extract_lets +onlyGivenNames v2
  clear_value v2
  extract_lets +onlyGivenNames v3
  clear_value v3
  refine .ite ?_ ?_
  · refine .andThen ?_ (State.mgtFrame_keeps (.refl _))
    exact h
  · refine .ite ?_ ?_
    · refine .andThen ?_ (State.count_keeps (.refl _))
      exact h
    · refine .ite ?_ ?_
      · refine State.gateTrip_leads ?_
        refine .andThen ?_ (State.count_keeps (.refl _))
        exact h
      · refine .andThen ?_ (State.frameMac_keeps (.refl _))
        exact h

theorem State.frameIn_leads {r0 : State} {s : State} {n : Nat} {f : RxFrame} (h : r0.Leads s) : r0.Leads (s.frameIn n f) := by
  unfold State.frameIn
  extract_lets +onlyGivenNames v1
  have hv1 : r0.Leads v1 := by
    unfold v1
    refine .andThen ?_ (State.lineLoad_keeps (.refl _))
    exact h
  obtain ⟨yv1, hyv1, ev1⟩ := hv1.gen
  rw [ev1]
  extract_lets +onlyGivenNames v2
  clear_value v2
  extract_lets +onlyGivenNames v3
  have hv3 : r0.Leads v3 := by
    unfold v3
    refine .andThen ?_ (State.countN_keeps (.refl _))
    refine .andThen ?_ (State.countN_keeps (.refl _))
    refine .andThen ?_ (State.countN_keeps (.refl _))
    exact hyv1
  obtain ⟨yv3, hyv3, ev3⟩ := hv3.gen
  rw [ev3]
  refine .ite ?_ ?_
  · exact h
  · refine .ite ?_ ?_
    · refine .andThen ?_ (State.count_keeps (.refl _))
      exact hyv3
    · refine State.frameStake_leads ?_
      exact hyv3

theorem State.sentFrame_keeps {r0 : State} {s : State} {n : Nat} (h : r0.Keeps s) : r0.Keeps (s.sentFrame n) := by
  unfold State.sentFrame
  refine State.mgtWaiting_keeps ?_
  refine State.frameSent_keeps ?_
  exact h

end Sys2Proof.Machine
end

