-- ==== Sys2Proof/Laws/KeepPke.lean ====
section
/-! SUPPORT. What the operations of Machine/Pke.lean keep. -/

set_option Elab.async false
set_option linter.unusedVariables false
set_option linter.unusedSimpArgs false

namespace Sys2Proof.Machine

open Sys2Proof

theorem State.drawSecret_keeps {r0 : State} {s : State} {typ : Nat} {curve : Nat} (h : r0.Keeps s) : r0.Keeps (s.drawSecret typ curve).2 := by
  unfold State.drawSecret
  split
  · rename_i y2 y3 y4 y5
    extract_lets +onlyGivenNames v6
    dsimp only
    refine .snd y5 ?_
    refine State.draw_keeps ?_
    exact h

theorem State.genKey_keeps {r0 : State} {s : State} {typ : Nat} {curve : Nat} {policy : Nat} (h : r0.Keeps s) : r0.Keeps (s.genKey typ curve policy).2 := by
  unfold State.genKey
  split
  · rename_i y1 y2 y3 y4
    dsimp only
    refine .snd y4 ?_
    refine State.drawSecret_keeps ?_
    exact h

theorem State.fillSlot_keeps {r0 : State} {s : State} {k : Nat} {v : KeySlot} (h : r0.Keeps s) : r0.Keeps (s.fillSlot k v) := by
  unfold State.fillSlot
  extract_lets +onlyGivenNames v1
  refine .upd s ?_ (⟨rfl, rfl, rfl⟩) (fun ⟨a, b, c, d, e, f, g, i, j, k⟩ => ⟨a, b, c, d, e, Assoc.rising_put _ _ _ f, g, i, j, k⟩) (fun h => h)
  exact h

theorem State.pkeCompute_keeps {r0 : State} {s : State} {c : PkeCmd} (h : r0.Keeps s) : r0.Keeps (s.pkeCompute c).2.2 := by
  unfold State.pkeCompute
  extract_lets k secret u
  clear_value k secret u
  have h1 : r0.Keeps s.draw.2 := State.draw_keeps h
  generalize c.op = op
  split
  · exact h
  · exact h
  · generalize (k.bind _) = o
    cases o <;> exact h
  · generalize s.ecCurve c.curve = o
    cases o <;> exact h1
  · generalize (k.bind _) = o
    cases o with
    | none => exact h
    | some e =>
      dsimp only
      generalize Crypto.ecdsaSign _ _ _ _ = q
      cases q <;> exact h1
  · generalize s.ecCurve c.curve = q
    cases q <;> exact h
  · exact h
  · exact h
  · rcases hd : s.drawSecret c.genType c.curve with ⟨x, s1⟩
    exact .snd hd (State.drawSecret_keeps h)
  · exact h
  · exact h

theorem State.pkeOutcome_keeps {r0 : State} {s : State} {c : PkeCmd} (h : r0.Keeps s) : r0.Keeps (s.pkeOutcome c).2.2.2 := by
  unfold State.pkeOutcome
  extract_lets hc v
  clear_value hc v
  split
  split
  · exact h
  · split
    · exact h
    · split
      rename_i he
      have h1 := State.Keeps.snd2 he (State.pkeCompute_keeps h)
      extract_lets _ s2
      refine (?_ : r0.Keeps s2)
      refine .ite (State.count_keeps (.upd _ h1 ⟨rfl, rfl, rfl⟩ ?_ (fun h => h))) h1
      exact fun ⟨a, b, c, d, e, f, g, i, j, k⟩ => ⟨a, b, c, d, e, Assoc.rising_del _ _ f, g, i, j, k⟩

theorem State.bodkinPut_keeps {r0 : State} {s : State} {bytes : List Byte} (h : r0.Keeps s) : r0.Keeps (s.bodkinPut bytes) := by
  unfold State.bodkinPut
  extract_lets +onlyGivenNames v1
  extract_lets +onlyGivenNames v2
  refine State.coreFull_keeps ?_
  refine State.bodFill_keeps ?_
  refine .upd s ?_ (⟨rfl, rfl, rfl⟩) (fun h => h) (fun h => h)
  exact h

theorem State.bodkinQueue_keeps {r0 : State} {s : State} {k : Nat} (h : r0.Keeps s) : r0.Keeps (s.bodkinQueue k) := by
  unfold State.bodkinQueue
  refine .foldl ?_ fun t1 a2 k3 => ?_
  · exact h
  · refine State.bodkinPut_keeps ?_
    exact k3

theorem State.pkeStart_keeps {r0 : State} {s : State} {op : Nat} {core : Nat} (h : r0.Keeps s) : r0.Keeps (s.pkeStart op core) := by
  unfold State.pkeStart
  refine .ite h ?_
  split
  · exact h
  · rename_i o _
    extract_lets c
    refine .ite h ?_
    split
    rename_i he
    extract_lets _ _
    have h1 : r0.Keeps (if (o.bod && c.op == 0x13) = true then (0, [], (s.ecTimes 1).verify, s) else s.pkeOutcome c).2.2.2 := by
      split
      · exact h
      · exact State.pkeOutcome_keeps (c := c) h
    rw [he] at h1
    exact .upd _ h1 ⟨rfl, rfl, rfl⟩ (fun h => h) (fun h => h)

theorem State.pkeCount_keeps {r0 : State} {s : State} {code : Nat} (h : r0.Keeps s) : r0.Keeps (s.pkeCount code) := by
  unfold State.pkeCount
  refine .ite ?_ ?_
  · refine State.count_keeps ?_
    exact h
  · refine .ite ?_ ?_
    · refine State.count_keeps ?_
      exact h
    · refine .ite ?_ ?_
      · refine State.count_keeps ?_
        exact h
      · refine State.count_keeps ?_
        exact h

theorem State.pkeRelease_keeps {r0 : State} {s : State} {core : Nat} {redundantOk : Bool} (h : r0.Keeps s) : r0.Keeps (s.pkeRelease core redundantOk) := by
  unfold State.pkeRelease
  extract_lets +onlyGivenNames v1
  have hv1 : r0.Keeps v1 := by
    unfold v1
    refine State.tally_keeps ?_
    exact h
  obtain ⟨yv1, hyv1, ev1⟩ := hv1.gen
  rw [ev1]
  extract_lets +onlyGivenNames v2
  split
  · rename_i y4 y5
    exact h
  · rename_i y6 y7 y8
    extract_lets +onlyGivenNames v9
    extract_lets +onlyGivenNames v10
    clear_value v10
    extract_lets +onlyGivenNames v11
    clear_value v11
    extract_lets +onlyGivenNames v12
    have hv12 : r0.Keeps v12 := by
      unfold v12
      refine State.zeroCore_keeps ?_
      refine .upd yv1 ?_ (⟨rfl, rfl, rfl⟩) (fun h => h) (fun h => h)
      exact hyv1
    obtain ⟨yv12, hyv12, ev12⟩ := hv12.gen
    rw [ev12]
    extract_lets +onlyGivenNames v13
    clear_value v13
    extract_lets +onlyGivenNames v14
    extract_lets +onlyGivenNames v15
    have hv15 : r0.Keeps v15 := by
      unfold v15
      refine .ite ?_ ?_
      · refine State.count_keeps ?_
        refine State.fillSlot_keeps ?_
        exact hyv12
      · exact hyv12
    obtain ⟨yv15, hyv15, ev15⟩ := hv15.gen
    rw [ev15]
    extract_lets +onlyGivenNames v16
    have hv16 : r0.Keeps v16 := by
      unfold v16
      refine State.cqFinish_keeps ?_
      refine State.pkeCount_keeps ?_
      exact hyv15
    obtain ⟨yv16, hyv16, ev16⟩ := hv16.gen
    rw [ev16]
    refine .ite ?_ ?_
    · exact h
    · refine .ite ?_ ?_
      · refine State.bodFill_keeps ?_
        refine State.pkeCount_keeps ?_
        refine State.zeroCore_keeps ?_
        refine .upd yv1 ?_ (⟨rfl, rfl, rfl⟩) (fun h => h) (fun h => h)
        exact hyv1
      · refine .ite ?_ ?_
        · refine State.islandError_keeps ?_
          exact hyv16
        · exact hyv16

end Sys2Proof.Machine
end

