-- ==== Sys2Proof/Laws/KeepHif.lean ====
section
/-! SUPPORT. What the operations of Machine/Hif.lean keep. -/

set_option Elab.async false
set_option linter.unusedVariables false
set_option linter.unusedSimpArgs false

namespace Sys2Proof.Machine

open Sys2Proof

theorem State.hifReset_keeps {r0 : State} {s : State} {linkLost : Bool} (h : r0.Keeps s) : r0.Keeps (s.hifReset linkLost) := by
  unfold State.hifReset
  refine State.hifResetBlock_keeps ?_
  exact h

theorem State.pcieUp_keeps {r0 : State} {s : State} {speed : Nat} {width : Nat} (h : r0.Keeps s) : r0.Keeps (s.pcieUp speed width) := by
  unfold State.pcieUp
  extract_lets +onlyGivenNames v1
  refine .ite ?_ ?_
  · refine .upd s ?_ (⟨rfl, rfl, rfl⟩) (fun h => h) (fun h => h)
    exact h
  · exact h

theorem State.vecUnmask_keeps {r0 : State} {s : State} {v : Nat} (h : r0.Keeps s) : r0.Keeps (s.vecUnmask v) := by
  unfold State.vecUnmask
  extract_lets +onlyGivenNames v1
  extract_lets +onlyGivenNames v2
  refine .upd s ?_ (⟨rfl, rfl, rfl⟩) (fun h => h) (by simp only [updAt_length]; exact fun h => h)
  exact h

theorem State.pcieConfig_keeps {r0 : State} {s : State} {w : PcieWrite} (h : r0.Keeps s) : r0.Keeps (s.pcieConfig w) := by
  unfold State.pcieConfig
  extract_lets +onlyGivenNames v1
  extract_lets +onlyGivenNames v2
  have hv2 : r0.Keeps v2 := by
    unfold v2
    refine .upd s ?_ (⟨rfl, rfl, rfl⟩) (fun h => h) (fun h => h)
    exact h
  obtain ⟨yv2, hyv2, ev2⟩ := hv2.gen
  rw [ev2]
  refine .ite ?_ ?_
  · exact h
  · refine .foldl ?_ fun t3 a4 k5 => ?_
    · refine State.cqFlush_keeps ?_
      exact hyv2
    · refine State.vecUnmask_keeps ?_
      exact k5

theorem State.dmaFault_keeps {r0 : State} {s : State} (h : r0.Keeps s) : r0.Keeps s.dmaFault := by
  unfold State.dmaFault
  split
  · rename_i y1 y2 y3 y4
    refine State.faultReport_keeps ?_
    refine .snd y4 ?_
    refine State.draw_keeps ?_
    refine State.cause_keeps ?_
    refine State.count_keeps ?_
    exact h

theorem State.tailWrite_keeps {r0 : State} {s : State} {b : Nat} {v : W32} {put : Nat → State} (h : r0.Keeps s) (hp : ∀ n, r0.Keeps (put n)) :
    r0.Keeps (s.tailWrite b v put) := .ite h (.ite (hp _) (State.cause_keeps h))

theorem State.rxTail_keeps {r0 : State} {s : State} {r : Nat} {v : W32} (h : r0.Keeps s) : r0.Keeps (s.rxTail r v) :=
  State.tailWrite_keeps h fun _ => State.setRx_keeps h

theorem State.txTail_keeps {r0 : State} {s : State} {r : Nat} {v : W32} (h : r0.Keeps s) : r0.Keeps (s.txTail r v) :=
  State.tailWrite_keeps h fun _ => State.setTx_keeps h

theorem State.cqTail_keeps {r0 : State} {s : State} {r : Nat} {v : W32} (h : r0.Keeps s) : r0.Keeps (s.cqTail r v) :=
  State.tailWrite_keeps h fun _ => State.setCq_keeps h

theorem State.rxDone_keeps {r0 : State} {s : State} {r : Nat} {ofs : Nat} {bs : List Byte} (h : r0.Keeps s) : r0.Keeps (s.rxDone r ofs bs) := by
  unfold State.rxDone
  extract_lets +onlyGivenNames v1
  clear_value v1
  extract_lets +onlyGivenNames v2
  clear_value v2
  extract_lets +onlyGivenNames v3
  have hv3 : r0.Keeps v3 := by
    unfold v3
    refine State.dma_keeps ?_
    exact h
  obtain ⟨yv3, hyv3, ev3⟩ := hv3.gen
  rw [ev3]
  extract_lets +onlyGivenNames v4
  clear_value v4
  extract_lets +onlyGivenNames v5
  refine State.vecEvent_keeps ?_
  refine State.setRx_keeps ?_
  exact hyv3

theorem State.rxSkip_keeps {r0 : State} {s : State} {r : Nat} {e : RxEntry} {st : Nat} (h : r0.Keeps s) : r0.Keeps (s.rxSkip r e st) := by
  unfold State.rxSkip
  extract_lets +onlyGivenNames v1
  have hv1 : r0.Keeps v1 := by
    unfold v1
    refine State.rxDone_keeps ?_
    exact h
  obtain ⟨yv1, hyv1, ev1⟩ := hv1.gen
  rw [ev1]
  extract_lets +onlyGivenNames v2
  clear_value v2
  extract_lets +onlyGivenNames v3
  have hv3 : r0.Keeps v3 := by
    unfold v3
    refine State.dma_keeps ?_
    exact hyv1
  obtain ⟨yv3, hyv3, ev3⟩ := hv3.gen
  rw [ev3]
  refine .ite ?_ ?_
  · refine State.dmaFault_keeps ?_
    exact hyv3
  · refine State.count_keeps ?_
    exact hyv3

theorem State.rxFilled_keeps {r0 : State} {s : State} {r : Nat} {e : RxEntry} {i : HostItem} {data : List Byte} {sop : Bool} {eop : Bool} (h : r0.Keeps s) : r0.Keeps (s.rxFilled r e i data sop eop) := by
  unfold State.rxFilled
  extract_lets +onlyGivenNames v1
  clear_value v1
  refine State.rxDone_keeps ?_
  refine State.dma_keeps ?_
  exact h

theorem State.rxFill_keeps {r0 : State} {r : Nat} {i : HostItem} {x0 : List RxEntry} {x1 : List Byte} {x2 : Bool} {s : State} (h : r0.Keeps s) :
    r0.Keeps (State.rxFill r i x0 x1 x2 s) := by
  induction x0 generalizing x1 x2 s with
  | nil => exact h
  | cons e es ih =>
    unfold State.rxFill
    split
    · exact ih (State.rxSkip_keeps h)
    · exact ih (State.rxFilled_keeps h)

theorem State.popHost_keeps {r0 : State} {s : State} {i : HostItem} (h : r0.Keeps s) : r0.Keeps (s.popHost i) := by
  unfold State.popHost
  extract_lets +onlyGivenNames v1
  refine State.markHeads_keeps ?_
  refine State.freeCells_keeps ?_
  refine .upd s ?_ (⟨rfl, rfl, rfl⟩) (fun h => h) (fun h => h)
  exact h

theorem State.hostDeliver_keeps {r0 : State} {s : State} {r : Nat} {entries : List RxEntry} {eccOk : Bool} (h : r0.Keeps s) : r0.Keeps (s.hostDeliver r entries eccOk) := by
  unfold State.hostDeliver
  extract_lets +onlyGivenNames v1
  clear_value v1
  extract_lets +onlyGivenNames v2
  extract_lets +onlyGivenNames v3
  extract_lets +onlyGivenNames v4
  have hv4 : r0.Keeps v4 := by
    unfold v4
    refine .foldl ?_ fun t5 a6 k7 => ?_
    · exact h
    · refine State.rxSkip_keeps ?_
      exact k7
  obtain ⟨yv4, hyv4, ev4⟩ := hv4.gen
  rw [ev4]
  refine .ite ?_ ?_
  · exact h
  · split
    · rename_i y8 y9
      exact hyv4
    · rename_i y10 y11 y12
      refine .ite ?_ ?_
      · refine State.memoryError_keeps ?_
        refine State.popHost_keeps ?_
        exact h
      · split
        · rename_i y13 y14 y15
          refine State.count_keeps ?_
          refine State.rxFill_keeps ?_
          refine State.popHost_keeps ?_
          exact h
        · rename_i y16 y17
          exact hyv4

theorem State.ringWait_keeps {r0 : State} {s : State} {r : Nat} (h : r0.Keeps s) : r0.Keeps (s.ringWait r) := by
  unfold State.ringWait
  split
  · rename_i y1 y2 y3
    split
    · rename_i y4 y5 y6
      refine .ite ?_ ?_
      · refine State.count_keeps ?_
        refine State.popHost_keeps ?_
        exact h
      · exact h
    · rename_i y7 y8
      exact h
  · rename_i y9 y10
    exact h

theorem State.txRead_keeps {r0 : State} {s : State} {r : Nat} {es : List TxEntry} {st : Option Nat} (h : r0.Keeps s) : r0.Keeps (s.txRead r es st) := by
  unfold State.txRead
  extract_lets +onlyGivenNames v1
  extract_lets +onlyGivenNames v2
  have hv2 : r0.Keeps v2 := by
    unfold v2
    refine State.setTx_keeps ?_
    exact h
  obtain ⟨yv2, hyv2, ev2⟩ := hv2.gen
  rw [ev2]
  extract_lets +onlyGivenNames v3
  refine .upd yv2 ?_ (⟨rfl, rfl, rfl⟩) (fun h => h) (fun h => h)
  exact hyv2

theorem State.hostTransmit_keeps {r0 : State} {s : State} {r : Nat} {entries : List TxEntry} (h : r0.Keeps s) : r0.Keeps (s.hostTransmit r entries) := by
  unfold State.hostTransmit
  extract_lets +onlyGivenNames v1
  clear_value v1
  extract_lets +onlyGivenNames v2
  extract_lets +onlyGivenNames v3
  extract_lets +onlyGivenNames v4
  extract_lets +onlyGivenNames v5
  extract_lets +onlyGivenNames v6
  extract_lets +onlyGivenNames v7
  clear_value v7
  refine .ite ?_ ?_
  · exact h
  · refine .ite ?_ ?_
    · exact h
    · refine .ite ?_ ?_
      · refine State.txRead_keeps ?_
        exact h
      · refine .ite ?_ ?_
        · refine State.txRead_keeps ?_
          exact h
        · refine .ite ?_ ?_
          · refine State.txRead_keeps ?_
            exact h
          · refine .ite ?_ ?_
            · refine State.txRead_keeps ?_
              exact h
            · refine .ite ?_ ?_
              · exact h
              · split
                · rename_i y16 y17 y18 y19
                  extract_lets +onlyGivenNames v20
                  have hv20 : r0.Keeps v20 := by
                    unfold v20
                    refine .ite ?_ ?_
                    · refine State.count_keeps ?_
                      exact h
                    · exact h
                  obtain ⟨yv20, hyv20, ev20⟩ := hv20.gen
                  rw [ev20]
                  extract_lets +onlyGivenNames v21
                  extract_lets +onlyGivenNames v22
                  refine State.queueFrame_keeps ?_
                  refine State.txRead_keeps ?_
                  exact hyv20

theorem State.txDone_keeps {r0 : State} {s : State} {r : Nat} {flags : Nat} {st : Nat} {tout : List Byte} (h : r0.Keeps s) : r0.Keeps (s.txDone r flags st tout) := by
  unfold State.txDone
  extract_lets +onlyGivenNames v1
  clear_value v1
  extract_lets +onlyGivenNames v2
  clear_value v2
  extract_lets +onlyGivenNames v3
  clear_value v3
  extract_lets +onlyGivenNames v4
  clear_value v4
  extract_lets +onlyGivenNames v5
  extract_lets +onlyGivenNames v6
  have hv6 : r0.Keeps v6 := by
    unfold v6
    refine .ite ?_ ?_
    · refine State.dma_keeps ?_
      exact h
    · refine State.dma_keeps ?_
      exact h
  obtain ⟨yv6, hyv6, ev6⟩ := hv6.gen
  rw [ev6]
  extract_lets +onlyGivenNames v7
  have hv7 : r0.Keeps v7 := by
    unfold v7
    refine State.dma_keeps ?_
    exact hyv6
  obtain ⟨yv7, hyv7, ev7⟩ := hv7.gen
  rw [ev7]
  extract_lets +onlyGivenNames v8
  extract_lets +onlyGivenNames v9
  have hv9 : r0.Keeps v9 := by
    unfold v9
    refine State.setTx_keeps ?_
    exact hyv7
  obtain ⟨yv9, hyv9, ev9⟩ := hv9.gen
  rw [ev9]
  refine State.vecEvent_keeps ?_
  exact hyv9

theorem State.txCount_keeps {r0 : State} {s : State} {st : Nat} (h : r0.Keeps s) : r0.Keeps (s.txCount st) := by
  unfold State.txCount
  refine .ite ?_ ?_
  · refine State.count_keeps ?_
    exact h
  · refine .ite ?_ ?_
    · refine State.count_keeps ?_
      exact h
    · refine .ite ?_ ?_
      · refine State.dmaFault_keeps ?_
        refine State.count_keeps ?_
        exact h
      · refine State.count_keeps ?_
        exact h

theorem State.txComplete_keeps {r0 : State} {s : State} {r : Nat} (h : r0.Keeps s) : r0.Keeps (s.txComplete r) := by
  unfold State.txComplete
  extract_lets +onlyGivenNames v1
  refine .ite ?_ ?_
  · exact h
  · split
    · rename_i y4 y5
      exact h
    · rename_i y6 y7 y8
      extract_lets +onlyGivenNames v9
      have hv9 : r0.Keeps v9 := by
        unfold v9
        refine .upd s ?_ (⟨rfl, rfl, rfl⟩) (fun h => h) (fun h => h)
        exact h
      obtain ⟨yv9, hyv9, ev9⟩ := hv9.gen
      rw [ev9]
      split
      · rename_i y11 y12
        exact h
      · rename_i y13 y14 y15
        extract_lets +onlyGivenNames v16
        have hv16 : r0.Keeps v16 := by
          unfold v16
          refine .foldl ?_ fun t17 a18 k19 => ?_
          · exact hyv9
          · refine State.txDone_keeps ?_
            exact k19
        obtain ⟨yv16, hyv16, ev16⟩ := hv16.gen
        rw [ev16]
        refine State.txCount_keeps ?_
        exact hyv16

theorem State.cmdFetch_keeps {r0 : State} {s : State} {q : Nat} {e : CmdEntry} (h : r0.Keeps s) : r0.Keeps (s.cmdFetch q e) := by
  unfold State.cmdFetch
  extract_lets +onlyGivenNames v1
  clear_value v1
  extract_lets +onlyGivenNames v2
  clear_value v2
  extract_lets +onlyGivenNames v3
  refine .ite ?_ ?_
  · exact h
  · split
    · rename_i y6 y7
      exact h
    · rename_i y8 y9 y10
      extract_lets +onlyGivenNames v11
      have hv11 : r0.Keeps v11 := by
        unfold v11
        refine State.setCq_keeps ?_
        exact h
      obtain ⟨yv11, hyv11, ev11⟩ := hv11.gen
      rw [ev11]
      extract_lets +onlyGivenNames v12
      clear_value v12
      extract_lets +onlyGivenNames v13
      extract_lets +onlyGivenNames v14
      extract_lets +onlyGivenNames v15
      refine .ite ?_ ?_
      · split
        · rename_i y16 y17 y18 y19
          refine State.faultReport_keeps ?_
          refine .snd y19 ?_
          refine State.draw_keeps ?_
          refine State.cqComplete_keeps ?_
          exact hyv11
      · refine .ite ?_ ?_
        · refine State.cqComplete_keeps ?_
          exact hyv11
        · refine .ite ?_ ?_
          · refine State.coreFull_keeps ?_
            refine .upd yv11 ?_ (⟨rfl, rfl, rfl⟩) (fun h => h) (fun h => h)
            exact hyv11
          · refine .upd yv11 ?_ (⟨rfl, rfl, rfl⟩) (fun h => h) (fun h => h)
            exact hyv11

theorem State.evsDeliver_keeps {r0 : State} {s : State} (h : r0.Keeps s) : r0.Keeps s.evsDeliver := by
  unfold State.evsDeliver
  extract_lets +onlyGivenNames v1
  clear_value v1
  extract_lets +onlyGivenNames v2
  clear_value v2
  extract_lets +onlyGivenNames v3
  have hv3 : r0.Keeps v3 := by
    unfold v3
    refine State.dma_keeps ?_
    exact h
  obtain ⟨yv3, hyv3, ev3⟩ := hv3.gen
  rw [ev3]
  extract_lets +onlyGivenNames v4
  extract_lets +onlyGivenNames v5
  extract_lets +onlyGivenNames v6
  have hv6 : r0.Keeps v6 := by
    unfold v6
    refine .upd yv3 ?_ (⟨rfl, rfl, rfl⟩) (fun h => h) (fun h => h)
    exact hyv3
  obtain ⟨yv6, hyv6, ev6⟩ := hv6.gen
  rw [ev6]
  refine .ite ?_ ?_
  · exact h
  · refine State.flushOverflow_keeps ?_
    refine State.vecEvent_keeps ?_
    refine State.count_keeps ?_
    exact hyv6

theorem State.evsOp_keeps {r0 : State} {s : State} {r : Reader} (h : r0.Keeps s) : r0.Keeps (s.evsOp r) := by
  unfold State.evsOp
  extract_lets +onlyGivenNames v1
  refine .ite ?_ ?_
  · exact h
  · refine .upd s ?_ (⟨rfl, rfl, rfl⟩) (fun h => h) (fun h => h)
    exact h

theorem State.evsRdWrite_keeps {r0 : State} {s : State} {v : W32} (h : r0.Keeps s) : r0.Keeps (s.evsRdWrite v) := by
  unfold State.evsRdWrite
  extract_lets +onlyGivenNames v1
  refine .ite ?_ ?_
  · exact h
  · refine .upd s ?_ (⟨rfl, rfl, rfl⟩) (fun h => h) (fun h => h)
    exact h

theorem State.msix_keeps {r0 : State} {s : State} {v : Nat} (h : r0.Keeps s) : r0.Keeps (s.msix v) := by
  unfold State.msix
  extract_lets +onlyGivenNames v1
  extract_lets +onlyGivenNames v2
  refine .ite ?_ ?_
  · exact h
  · refine .upd s ?_ (⟨rfl, rfl, rfl⟩) (fun h => h) (by simp only [updAt_length]; exact fun h => h)
    exact h

theorem State.ptmFail_keeps {r0 : State} {s : State} {token : Option Nat} {code : Nat} (h : r0.Keeps s) : r0.Keeps (s.ptmFail token code) := by
  unfold State.ptmFail
  extract_lets +onlyGivenNames v1
  extract_lets +onlyGivenNames v2
  extract_lets +onlyGivenNames v3
  refine State.cause_keeps ?_
  refine State.count_keeps ?_
  refine .upd s ?_ (⟨rfl, rfl, rfl⟩) (fun h => h) (fun h => h)
  exact h

theorem State.ptmBegin_keeps {r0 : State} {s : State} {token : Option Nat} (h : r0.Keeps s) : r0.Keeps (s.ptmBegin token) := by
  unfold State.ptmBegin
  extract_lets +onlyGivenNames v1
  refine .ite ?_ ?_
  · refine State.ptmFail_keeps ?_
    exact h
  · refine .ite ?_ ?_
    · refine State.ptmFail_keeps ?_
      exact h
    · refine .upd s ?_ (⟨rfl, rfl, rfl⟩) (fun h => h) (fun h => h)
      exact h

theorem State.ptmReq_keeps {r0 : State} {s : State} {token : Nat} (h : r0.Keeps s) : r0.Keeps (s.ptmReq token) := by
  unfold State.ptmReq
  refine .ite ?_ ?_
  · exact h
  · refine State.ptmBegin_keeps ?_
    exact h

theorem State.ptmAuto_keeps {r0 : State} {s : State} (h : r0.Keeps s) : r0.Keeps s.ptmAuto := by
  unfold State.ptmAuto
  refine .ite ?_ ?_
  · refine State.ptmBegin_keeps ?_
    exact h
  · exact h

theorem State.ptmResponse_keeps {r0 : State} {s : State} {master : Nat} {turn : Nat} (h : r0.Keeps s) : r0.Keeps (s.ptmResponse master turn) := by
  unfold State.ptmResponse
  extract_lets +onlyGivenNames v1
  split
  · rename_i y3 y4
    exact h
  · rename_i y5 y6 y7
    split
    · rename_i y9 y10
      refine .upd s ?_ (⟨rfl, rfl, rfl⟩) (fun h => h) (fun h => h)
      exact h
    · rename_i y11 y12 y13 y14 y15
      extract_lets +onlyGivenNames v16
      clear_value v16
      extract_lets +onlyGivenNames v17
      refine State.cause_keeps ?_
      refine State.count_keeps ?_
      refine .upd s ?_ (⟨rfl, rfl, rfl⟩) (fun h => h) (fun h => h)
      exact h

theorem State.ptmTimeout_keeps {r0 : State} {s : State} (h : r0.Keeps s) : r0.Keeps s.ptmTimeout := by
  unfold State.ptmTimeout
  split
  · rename_i y1 y2 y3
    refine .ite ?_ ?_
    · refine State.ptmFail_keeps ?_
      exact h
    · exact h
  · rename_i y4 y5
    exact h

theorem State.ptmLatch_keeps {r0 : State} {s : State} {p : Path} (h : r0.Keeps s) : r0.Keeps (s.ptmLatch p) := by
  unfold State.ptmLatch
  refine .ite ?_ ?_
  · exact h
  · refine State.setLat_keeps ?_
    exact h

end Sys2Proof.Machine
end

