-- ==== Sys2Proof/Laws/KeepPmc.lean ====
section
/-! SUPPORT. What the operations of Machine/Pmc.lean keep. -/

set_option Elab.async false
set_option linter.unusedVariables false
set_option linter.unusedSimpArgs false

namespace Sys2Proof.Machine

open Sys2Proof

theorem State.ctrLatch_keeps {r0 : State} {s : State} {p : Path} {off : Nat} (h : r0.Keeps s) : r0.Keeps (s.ctrLatch p off) := by
  unfold State.ctrLatch
  refine .ite ?_ ?_
  · exact h
  · refine State.setLat_keeps ?_
    exact h

theorem State.wrapClear_keeps {r0 : State} {s : State} {off : Nat} (h : r0.Keeps s) : r0.Keeps (s.wrapClear off) := by
  unfold State.wrapClear
  refine .ite ?_ ?_
  · exact h
  · refine .upd s ?_ (⟨rfl, rfl, rfl⟩) (fun ⟨a, b, c, d, e, f, g, i, j, k⟩ => ⟨a, b, Assoc.wf_putD (d := fun _ => (0 : BitVec 64)) _ _ _ c, d, e, f, g, i, j, k⟩) (fun h => h)
    exact h

theorem State.bwLatch_keeps {r0 : State} {s : State} {p : Path} {n : Nat} (h : r0.Keeps s) : r0.Keeps (s.bwLatch p n) := by
  unfold State.bwLatch
  refine .ite ?_ ?_
  · exact h
  · refine State.setLat_keeps ?_
    exact h

theorem State.bwPeakClear_keeps {r0 : State} {s : State} {n : Nat} (h : r0.Keeps s) : r0.Keeps (s.bwPeakClear n) := by
  unfold State.bwPeakClear
  refine .ite ?_ ?_
  · exact h
  · refine State.setBw_keeps ?_
    exact h

theorem State.userPage_keeps {r0 : State} {s : State} {off : Nat} {bytes : Nat} (h : r0.Keeps s) : r0.Keeps (s.userPage off bytes) := by
  unfold State.userPage
  extract_lets +onlyGivenNames v1
  clear_value v1
  extract_lets +onlyGivenNames v2
  clear_value v2
  refine .ite ?_ ?_
  · exact h
  · refine .upd s ?_ (⟨rfl, rfl, rfl⟩) (fun h => h) (fun h => h)
    exact h

theorem State.jtagSample_keeps {r0 : State} {s : State} {preload : BitVec 115} {balls : BitVec 115} (h : r0.Keeps s) : r0.Keeps (s.jtagSample preload balls) := by
  unfold State.jtagSample
  refine .upd s ?_ (⟨rfl, rfl, rfl⟩) (fun h => h) (fun h => h)
  exact h

theorem State.jtagExtest_keeps {r0 : State} {s : State} {balls : BitVec 115} (h : r0.Keeps s) : r0.Keeps (s.jtagExtest balls) := by
  unfold State.jtagExtest
  extract_lets +onlyGivenNames v1
  refine .upd s ?_ (⟨rfl, rfl, rfl⟩) (fun h => h) (fun h => h)
  exact h

theorem State.jtagIr_keeps {r0 : State} {s : State} {ir : BitVec 4} (h : r0.Keeps s) : r0.Keeps (s.jtagIr ir) := by
  unfold State.jtagIr
  extract_lets +onlyGivenNames v1
  refine .upd s ?_ (⟨rfl, rfl, rfl⟩) (fun h => h) (fun h => h)
  exact h

theorem State.jtagBypass_keeps {r0 : State} {s : State} {code : BitVec 4} (h : r0.Keeps s) : r0.Keeps (s.jtagBypass code) := by
  unfold State.jtagBypass
  refine .ite ?_ ?_
  · exact h
  · refine State.jtagIr_keeps ?_
    exact h

end Sys2Proof.Machine
end

