-- ==== Sys2Proof/Laws/KeepCommit.lean ====
section
/-! SUPPORT. What the operations of Machine/Commit.lean keep. -/

set_option Elab.async false
set_option linter.unusedVariables false
set_option linter.unusedSimpArgs false

namespace Sys2Proof.Machine

open Sys2Proof

theorem State.cmtRefuse_keeps {r0 : State} {s : State} {b : CmtBlk} {token : Nat} {rej : Bool} (h : r0.Keeps s) : r0.Keeps (s.cmtRefuse b token rej) := by
  unfold State.cmtRefuse
  extract_lets +onlyGivenNames v1
  extract_lets +onlyGivenNames v2
  have hv2 : r0.Keeps v2 := by
    unfold v2
    refine State.setCmt_keeps ?_
    exact h
  obtain ⟨yv2, hyv2, ev2⟩ := hv2.gen
  rw [ev2]
  refine .ite ?_ ?_
  · refine State.cause_keeps ?_
    exact hyv2
  · exact hyv2

theorem State.cmtStart_keeps {r0 : State} {s : State} {b : CmtBlk} {token : Nat} {check : Bool} (h : r0.Keeps s) : r0.Keeps (s.cmtStart b token check) := by
  unfold State.cmtStart
  extract_lets +onlyGivenNames v1
  refine .ite ?_ ?_
  · exact h
  · refine .ite ?_ ?_
    · refine State.cmtRefuse_keeps ?_
      exact h
    · refine State.setCmt_keeps ?_
      exact h

theorem State.cmtRevert_keeps {r0 : State} {s : State} {b : CmtBlk} {token : Nat} (h : r0.Keeps s) : r0.Keeps (s.cmtRevert b token) := by
  unfold State.cmtRevert
  extract_lets stg _
  have hf : ∀ (l : List Nat) (m : RegMap), Assoc.wf regReset m = true → Assoc.wf regReset (l.foldl (fun m off => RegMap.wr m off (RegMap.rd s.act off)) m) = true := by
    intro l
    induction l with
    | nil => exact fun _ k => k
    | cons a l ih => exact fun m k => ih _ (RegMap.wf_wr _ _ _ k)
  exact .ite h (.ite (State.cmtRefuse_keeps h) (State.setCmt_keeps
    (.upd s h ⟨rfl, rfl, rfl⟩ (fun ⟨a, b, c⟩ => ⟨a, hf _ _ b, c⟩) (fun h => h))))

theorem State.xonRemoved_keeps {r0 : State} {s : State} {o : State} {n : Nat} (h : r0.Keeps s) (ho : r0.Keeps o) : r0.Keeps (s.xonRemoved o n) := by
  unfold State.xonRemoved
  extract_lets +onlyGivenNames v1
  have hv1 : r0.Keeps v1 := by
    unfold v1
    refine .ite ?_ ?_
    · refine State.queueFrame_keeps ?_
      exact h
    · exact h
  obtain ⟨yv1, hyv1, ev1⟩ := hv1.gen
  rw [ev1]
  extract_lets +onlyGivenNames v2
  clear_value v2
  extract_lets +onlyGivenNames v3
  have hv3 : r0.Keeps v3 := by
    unfold v3
    refine .ite ?_ ?_
    · refine State.queueFrame_keeps ?_
      exact hyv1
    · exact hyv1
  obtain ⟨yv3, hyv3, ev3⟩ := hv3.gen
  rw [ev3]
  refine .ite ?_ ?_
  · exact h
  · refine .ite ?_ ?_
    · exact hyv3
    · refine State.setPort_keeps ?_
      exact hyv3

theorem State.applyMac_keeps {r0 : State} {s : State} {o : State} {n : Nat} (h : r0.Keeps s) (ho : r0.Keeps o) : r0.Keeps (s.applyMac o n) := by
  unfold State.applyMac
  extract_lets +onlyGivenNames v1
  clear_value v1
  extract_lets +onlyGivenNames v2
  have hv2 : r0.Keeps v2 := by
    unfold v2
    refine State.xonRemoved_keeps ?_ ?_
    · exact h
    · exact ho
  obtain ⟨yv2, hyv2, ev2⟩ := hv2.gen
  rw [ev2]
  extract_lets +onlyGivenNames v3
  have hv3 : r0.Keeps v3 := by
    unfold v3
    refine .ite ?_ ?_
    · exact hyv2
    · refine .ite ?_ ?_
      · refine State.holdPort_keeps ?_
        exact hyv2
      · refine .ite ?_ ?_
        · refine State.setPort_keeps ?_
          exact hyv2
        · exact hyv2
  obtain ⟨yv3, hyv3, ev3⟩ := hv3.gen
  rw [ev3]
  extract_lets +onlyGivenNames v4
  have hv4 : r0.Keeps v4 := by
    unfold v4
    refine .ite ?_ ?_
    · refine State.restartVerify_keeps ?_
      exact hyv3
    · exact hyv3
  obtain ⟨yv4, hyv4, ev4⟩ := hv4.gen
  rw [ev4]
  refine .ite ?_ ?_
  · refine State.setPort_keeps ?_
    exact hyv4
  · exact hyv4

theorem State.closeChanged_keeps {r0 : State} {s : State} {m : RegMap} (h : r0.Keeps s) : r0.Keeps (s.closeChanged m) := by
  unfold State.closeChanged
  refine .foldl ?_ fun t1 a2 k3 => ?_
  · exact h
  · refine .ite ?_ ?_
    · refine State.closeMeas_keeps ?_
      exact k3
    · exact k3

theorem State.applyRef_keeps {r0 : State} {s : State} {o : State} (h : r0.Keeps s) (ho : r0.Keeps o) : r0.Keeps (s.applyRef o) := by
  unfold State.applyRef
  extract_lets +onlyGivenNames v1
  extract_lets +onlyGivenNames v2
  clear_value v2
  extract_lets +onlyGivenNames v3
  have hv3 : r0.Keeps v3 := by
    unfold v3
    refine State.clearRefs_keeps ?_
    exact h
  obtain ⟨yv3, hyv3, ev3⟩ := hv3.gen
  rw [ev3]
  refine .foldl ?_ fun t4 a5 k6 => ?_
  · exact hyv3
  · refine .ite ?_ ?_
    · refine State.setRef_keeps ?_
      exact k6
    · exact k6

theorem State.applyOut_keeps {r0 : State} {s : State} {o : State} (h : r0.Keeps s) (ho : r0.Keeps o) : r0.Keeps (s.applyOut o) := by
  unfold State.applyOut
  extract_lets +onlyGivenNames v1
  extract_lets +onlyGivenNames v2
  refine State.outputsFollow_keeps ?_
  refine .foldl ?_ fun t3 a4 k5 => ?_
  · refine .foldl ?_ fun t6 a7 k8 => ?_
    · exact h
    · unfold v1
      extract_lets +onlyGivenNames v9
      clear_value v9
      extract_lets +onlyGivenNames v10
      clear_value v10
      extract_lets +onlyGivenNames v11
      clear_value v11
      refine State.setClk_keeps ?_
      exact k8
  · unfold v2
    extract_lets +onlyGivenNames v13
    clear_value v13
    extract_lets +onlyGivenNames v14
    clear_value v14
    extract_lets +onlyGivenNames v15
    clear_value v15
    refine State.setPps_keeps ?_
    exact k5

theorem State.releaseDisabled_keeps {r0 : State} {s : State} (h : r0.Keeps s) : r0.Keeps s.releaseDisabled := by
  unfold State.releaseDisabled
  extract_lets +onlyGivenNames v1
  refine .upd s ?_ (⟨rfl, rfl, rfl⟩) (fun h => h) (by simp only [updAt_length, putAt_length, List.length_map, List.length_mapIdx]; exact fun h => h)
  exact h

theorem State.applyGns_keeps {r0 : State} {s : State} {o : State} (h : r0.Keeps s) (ho : r0.Keeps o) : r0.Keeps (s.applyGns o) := by
  unfold State.applyGns
  extract_lets +onlyGivenNames v1
  clear_value v1
  extract_lets +onlyGivenNames v2
  extract_lets +onlyGivenNames v3
  have hv3 : r0.Keeps v3 := by
    unfold v3
    refine .ite ?_ ?_
    · refine .upd s ?_ (⟨rfl, rfl, rfl⟩) (fun h => h) (fun h => h)
      exact h
    · exact h
  obtain ⟨yv3, hyv3, ev3⟩ := hv3.gen
  rw [ev3]
  extract_lets +onlyGivenNames v4
  have hv4 : r0.Keeps v4 := by
    unfold v4
    refine State.releaseDisabled_keeps ?_
    exact hyv3
  obtain ⟨yv4, hyv4, ev4⟩ := hv4.gen
  rw [ev4]
  extract_lets +onlyGivenNames v5
  clear_value v5
  extract_lets +onlyGivenNames v6
  clear_value v6
  extract_lets +onlyGivenNames v7
  extract_lets +onlyGivenNames v8
  have hv8 : r0.Keeps v8 := by
    unfold v8
    refine .ite ?_ ?_
    · refine .upd yv4 ?_ (⟨rfl, rfl, rfl⟩) (fun h => h) (fun h => h)
      exact hyv4
    · exact hyv4
  obtain ⟨yv8, hyv8, ev8⟩ := hv8.gen
  rw [ev8]
  extract_lets +onlyGivenNames v9
  refine .ite ?_ ?_
  · refine .upd yv8 ?_ (⟨rfl, rfl, rfl⟩) (fun h => h) (fun h => h)
    exact hyv8
  · exact hyv8

/-- The active map of a set in force. -/
theorem State.merged_wf (s : State) (b : CmtBlk) (snap : RegMap) (h : s.canonical) : Assoc.wf regReset (s.merged b snap) = true := by
  unfold State.merged
  have k := h.1
  generalize (List.filter _ _) = l
  generalize s.act = m at k ⊢
  induction l generalizing m with
  | nil => exact k
  | cons a l ih =>
    refine ih _ ?_
    dsimp only
    split
    · exact RegMap.wf_wr _ _ _ k
    · exact k

/-- A state with another active map. -/
theorem State.Keeps.setAct {r s : State} {m : RegMap} (h : r.Keeps s) (hm : r.canonical → Assoc.wf regReset m = true) : r.Keeps { s with act := m } :=
  ⟨h.now, h.pending, fun k => ⟨hm k, (h.canon k).2⟩, h.shaped, h.gate, h.mode, h.origin⟩

theorem State.applyPtp_keeps {r0 : State} {s : State} {m : RegMap} (h : r0.Keeps s) (hm : r0.canonical → Assoc.wf regReset m = true) :
    r0.Keeps (s.applyPtp m) := by
  unfold State.applyPtp
  exact .foldl (.setAct (State.cancelGrants_keeps h) hm) fun t n k => .ite k (State.setPtp_keeps k)

theorem State.applyPmc_keeps {r0 : State} {s : State} {o : State} (h : r0.Keeps s) (ho : r0.Keeps o) : r0.Keeps (s.applyPmc o) := by
  unfold State.applyPmc
  refine .foldl ?_ fun t1 a2 k3 => ?_
  · exact h
  · refine .ite ?_ ?_
    · refine State.bwStart_keeps ?_
      exact k3
    · exact k3

theorem State.abortRx_keeps {r0 : State} {s : State} {r : Nat} (h : r0.Keeps s) : r0.Keeps (s.abortRx r) := by
  unfold State.abortRx
  refine State.rxDone_keeps ?_
  exact h

theorem State.abortTx_keeps {r0 : State} {s : State} {r : Nat} (h : r0.Keeps s) : r0.Keeps (s.abortTx r) := by
  unfold State.abortTx
  extract_lets +onlyGivenNames v1
  clear_value v1
  extract_lets +onlyGivenNames v2
  extract_lets +onlyGivenNames v3
  clear_value v3
  extract_lets +onlyGivenNames v4
  have hv4 : r0.Keeps v4 := by
    unfold v4
    refine State.dma_keeps ?_
    refine State.dma_keeps ?_
    refine State.draw_keeps ?_
    exact h
  obtain ⟨yv4, hyv4, ev4⟩ := hv4.gen
  rw [ev4]
  extract_lets +onlyGivenNames v5
  clear_value v5
  refine State.vecEvent_keeps ?_
  refine State.setTx_keeps ?_
  exact hyv4

theorem times_keeps {r0 : State} {n : Nat} {f : State → State} {s : State} (h : r0.Keeps s) (hf : ∀ t, r0.Keeps t → r0.Keeps (f t)) : r0.Keeps (times n f s) := by
  unfold times
  induction n with
  | zero => exact h
  | succ n ih => exact hf _ ih

theorem State.abortPosted_keeps {r0 : State} {s : State} {m : RegMap} (h : r0.Keeps s) : r0.Keeps (s.abortPosted m) :=
  .foldl (.foldl (.foldl h fun _ _ k => .ite (times_keeps k fun _ k => State.abortRx_keeps k) k)
    fun _ _ k => .ite (times_keeps k fun _ k => State.abortTx_keeps k) k) fun _ _ k => .ite (State.cqAbortAll_keeps k) k

theorem State.applyHif_keeps {r0 : State} {s : State} {m : RegMap} (h : r0.Keeps s) (hm : r0.canonical → Assoc.wf regReset m = true) :
    r0.Keeps (s.applyHif m) := by
  unfold State.applyHif
  extract_lets s1 s2 hf _ ev fit
  have h1 : r0.Keeps s1 := State.abortPosted_keeps h
  clear_value s1
  have h2 : r0.Keeps s2 := .setAct h1 hm
  clear_value s2
  have hl : ∀ base l, (fit base l).length = l.length := fun _ l => List.length_mapIdx
  refine .upd s2 h2 ⟨rfl, rfl, rfl⟩ (fun h => h) ?_
  rintro ⟨a, b, c, d, e, f, g, i, j, k, l⟩
  exact ⟨a, b, c, d, e, f, g, (hl _ _).trans i, (hl _ _).trans j, (hl _ _).trans k, l⟩

theorem State.putSet_keeps {r0 : State} {s : State} {b : CmtBlk} {m : RegMap} (h : r0.Keeps s) (hm : r0.canonical → Assoc.wf regReset m = true) :
    r0.Keeps (s.putSet b m) := by
  unfold State.putSet
  extract_lets s1
  have h1 : r0.Keeps s1 := .setAct h hm
  clear_value s1
  split
  · exact State.applyMac_keeps h1 h
  · exact .setAct (State.closeChanged_keeps h) hm
  · exact State.applyRef_keeps h1 h
  · exact State.applyOut_keeps h1 h
  · exact State.applyGns_keeps h1 h
  · exact State.applyPtp_keeps h hm
  · exact State.applyPmc_keeps h1 h
  · exact State.applyHif_keeps h hm
  · exact h1

theorem State.cmtReject_keeps {r0 : State} {s : State} {b : CmtBlk} {code : Nat} {arg : Nat} (h : r0.Keeps s) : r0.Keeps (s.cmtReject b code arg) := by
  unfold State.cmtReject
  extract_lets +onlyGivenNames v1
  refine State.cause_keeps ?_
  refine State.setCmt_keeps ?_
  exact h

/-- The map of a set without the parts that must wait. -/
theorem State.hifNow_wf (s : State) {m : RegMap} (hm : Assoc.wf regReset m = true) (_ : s.canonical) : Assoc.wf regReset (s.hifNow m) = true := by
  unfold State.hifNow
  generalize s.hifWaits m = l
  induction l generalizing m with
  | nil => exact hm
  | cons b l ih =>
    refine ih ?_
    dsimp only [List.foldl]
    exact RegMap.wf_wr _ _ _ (RegMap.wf_wr _ _ _ (RegMap.wf_wr _ _ _ hm))

theorem State.cmtApply_keeps {r0 : State} {s : State} {b : CmtBlk} {intact : Bool} (h : r0.Keeps s) : r0.Keeps (s.cmtApply b intact) := by
  unfold State.cmtApply
  extract_lets c m low s1 _ s2
  have h1 : r0.Keeps s1 := State.putSet_keeps h fun k => s.merged_wf b c.snap (h.canon k)
  clear_value s1
  have h2 : r0.Keeps s2 := .ite (.upd s1 h1 ⟨rfl, rfl, rfl⟩ (fun h => h) (fun h => h)) h1
  clear_value s2
  exact .ite h (.ite h (.ite (State.cmtReject_keeps h) (.ite (State.applyHif_keeps h fun k => s.hifNow_wf (s.merged_wf b c.snap (h.canon k)) (h.canon k)) (State.cause_keeps (State.setCmt_keeps h2)))))

theorem State.cmtValidated_keeps {r0 : State} {s : State} {b : CmtBlk} {intact : Bool} (h : r0.Keeps s) : r0.Keeps (s.cmtValidated b intact) := by
  unfold State.cmtValidated
  extract_lets +onlyGivenNames v1
  extract_lets +onlyGivenNames v2
  extract_lets +onlyGivenNames v3
  have hv3 : r0.Keeps v3 := by
    unfold v3
    refine State.setCmt_keeps ?_
    exact h
  obtain ⟨yv3, hyv3, ev3⟩ := hv3.gen
  rw [ev3]
  refine .ite ?_ ?_
  · exact h
  · refine .ite ?_ ?_
    · refine State.cmtReject_keeps ?_
      exact h
    · refine .ite ?_ ?_
      · refine State.setCmt_keeps ?_
        exact h
      · refine .ite ?_ ?_
        · refine State.cmtApply_keeps ?_
          exact hyv3
        · exact hyv3

theorem State.bwEnd_keeps {r0 : State} {s : State} {n : Nat} (h : r0.Keeps s) : r0.Keeps (s.bwEnd n) := by
  unfold State.bwEnd
  extract_lets +onlyGivenNames v1
  extract_lets +onlyGivenNames v2
  extract_lets +onlyGivenNames v3
  have hv3 : r0.Keeps v3 := by
    unfold v3
    refine .upd s ?_ (⟨rfl, rfl, rfl⟩) (fun ⟨a, b, c⟩ => ⟨RegMap.wf_wr _ _ _ a, b, c⟩) (fun h => h)
    exact h
  obtain ⟨yv3, hyv3, ev3⟩ := hv3.gen
  rw [ev3]
  refine .ite ?_ ?_
  · exact h
  · refine State.bwClose_keeps ?_
    exact hyv3

end Sys2Proof.Machine
end

