-- ==== Sys2Proof/Laws/KeepLoader.lean ====
section
/-! SUPPORT. What the operations of Machine/Loader.lean keep. -/

set_option Elab.async false
set_option linter.unusedVariables false
set_option linter.unusedSimpArgs false

namespace Sys2Proof.Machine

open Sys2Proof

theorem State.primeLike_keeps {r0 : State} {s : State} {n : Nat} (h : r0.Keeps s) : r0.Keeps (s.primeLike n).2 := by
  unfold State.primeLike
  extract_lets +onlyGivenNames v1
  dsimp only
  refine .upd s ?_ (⟨rfl, rfl, rfl⟩) (fun h => h) (fun h => h)
  exact h

theorem State.loadCurve_keeps {r0 : State} {s : State} {q : List Byte} (h : r0.Keeps s) : r0.Keeps (s.loadCurve q) := by
  unfold State.loadCurve
  extract_lets +onlyGivenNames v1
  extract_lets +onlyGivenNames v2
  clear_value v2
  split
  · rename_i y4 y5 y6 y7
    split
    · rename_i y9 y10 y11 y12
      extract_lets +onlyGivenNames v13
      clear_value v13
      extract_lets +onlyGivenNames v14
      extract_lets +onlyGivenNames v15
      refine .upd y11 ?_ (⟨rfl, rfl, rfl⟩) (fun ⟨a, b, c, d, e, f, g, i, j, k⟩ => ⟨a, b, c, d, e, f, g, i, Assoc.rising_put _ _ _ j, k⟩) (fun h => h)
      refine .snd y12 ?_
      refine State.primeLike_keeps ?_
      refine .snd y7 ?_
      refine State.primeLike_keeps ?_
      exact h

theorem State.bootKey_keeps {r0 : State} {s : State} {k : Nat} {typ : Nat} {curve : Nat} {policy : Nat} (h : r0.Keeps s) : r0.Keeps (s.bootKey k typ curve policy) := by
  unfold State.bootKey
  split
  · rename_i y1 y2 y3 y4
    refine State.count_keeps ?_
    refine State.fillSlot_keeps ?_
    refine .snd y4 ?_
    refine State.genKey_keeps ?_
    exact h

theorem State.unseal_keeps {r0 : State} {s : State} {pufOk : Bool} (h : r0.Keeps s) : ∀ t, s.unseal pufOk = some t → r0.Keeps t := by
  intro t ht
  unfold State.unseal at ht
  extract_lets _ s1 s2 at ht
  have h1 : r0.Keeps s1 := .upd s h ⟨rfl, rfl, rfl⟩ (fun h => h) (fun h => h)
  clear_value s1
  have h2 : r0.Keeps s2 := .ite (State.bootKey_keeps (State.bootKey_keeps h1)) h1
  clear_value s2
  split at ht
  · exact nomatch ht
  · refine Option.some.inj ht ▸ .upd s2 h2 ⟨rfl, rfl, rfl⟩ ?_ (fun h => h)
    exact fun ⟨a, b, c, d, e, f, g⟩ => ⟨a, b, c, d, e, Assoc.rising_filter _ _ f, g⟩

theorem State.importAll_keeps {r0 : State} {s : State} {l : List (List Byte)} (h : r0.Keeps s) : ∀ t, s.importAll l = some t → r0.Keeps t := by
  intro t ht
  induction l generalizing s with
  | nil => exact Option.some.inj ht ▸ h
  | cons p ps ih =>
    unfold State.importAll at ht
    split at ht
    · exact nomatch ht
    · split at ht
      · exact nomatch ht
      · split at ht
        · exact nomatch ht
        · exact ih (State.fillSlot_keeps h) ht

theorem State.putExtras_keeps {r0 : State} {s : State} {regs : RegMap} (h : r0.Keeps s) : r0.Keeps (s.putExtras regs) := by
  unfold State.putExtras
  extract_lets +onlyGivenNames v1
  extract_lets +onlyGivenNames v2
  extract_lets +onlyGivenNames v3
  extract_lets +onlyGivenNames v4
  refine .upd s ?_ (⟨rfl, rfl, rfl⟩) (fun h => h) (by simp +zetaDelta only [updAt_length, putAt_length, List.length_map, List.length_mapIdx]; exact fun h => h)
  exact h

theorem State.reloadModel_keeps {r0 : State} {s : State} (h : r0.Keeps s) : r0.Keeps s.reloadModel := by
  unfold State.reloadModel
  extract_lets +onlyGivenNames v1
  extract_lets +onlyGivenNames v2
  clear_value v2
  extract_lets +onlyGivenNames v3
  split
  · rename_i y5 y6
    extract_lets +onlyGivenNames v7
    refine .ite ?_ ?_
    · refine .upd s ?_ (⟨rfl, rfl, rfl⟩) (fun h => h) (fun h => h)
      exact h
    · exact h
  · rename_i y8
    exact h

theorem State.logStart_keeps {r0 : State} {s : State} (h : r0.Keeps s) : r0.Keeps s.logStart := by
  unfold State.logStart
  refine State.log_keeps ?_
  exact h

/-- An image whose register map is canonical, where there is one. -/
def imgWf (e : Except Nat Img) : Prop := ∀ g, e = .ok g → Assoc.wf regReset g.regs = true

theorem imgWf_ok {g : Img} (h : Assoc.wf regReset g.regs = true) : imgWf (.ok g) := by
  intro g' e
  cases e
  exact h

theorem imgWf_error (c : Nat) : imgWf (.error c) := nofun

theorem imgWf_ite {p : Prop} [Decidable p] {a b : Except Nat Img} (ha : imgWf a) (hb : imgWf b) : imgWf (if p then a else b) := by
  split <;> assumption

theorem ownerCheck_wf (fuses : List (List Byte)) (seq : Nat) (g : Img) (h : Assoc.wf regReset g.regs = true) : imgWf (ownerCheck fuses seq g) := by
  unfold ownerCheck
  split
  · exact imgWf_ok h
  · refine imgWf_ite (imgWf_ok h) ?_
    split
    · exact imgWf_error _
    · exact imgWf_ite (imgWf_error _) (imgWf_ite (imgWf_error _) (imgWf_ok h))

theorem fwCheck_wf (g : Img) (h : Assoc.wf regReset g.regs = true) : imgWf (fwCheck g) := imgWf_ite (imgWf_error _) (imgWf_ok h)

theorem regEntry_wf (g : Img) (off : Nat) (mask v : W32) (h : Assoc.wf regReset g.regs = true) : imgWf (regEntry g off mask v) :=
  imgWf_ite (imgWf_error _) (imgWf_ok (RegMap.wf_wr _ _ _ h))

theorem regEntries_wf (w n : Nat) (p : List Byte) (g : Img) (h : Assoc.wf regReset g.regs = true) : imgWf (regEntries w n p g) := by
  induction n generalizing p g with
  | zero => exact imgWf_ok h
  | succ n ih =>
    unfold regEntries
    dsimp only
    split
    · exact imgWf_error _
    · rename_i he
      exact ih _ _ (regEntry_wf _ _ _ _ h _ he)

theorem takeRecord_wf (fuses : List (List Byte)) (seq typ : Nat) (p : List Byte) (g : Img) (h : Assoc.wf regReset g.regs = true) :
    imgWf (takeRecord fuses seq typ p g) := by
  unfold takeRecord
  split
  · exact imgWf_ok h
  · exact ownerCheck_wf _ _ _ h
  · exact imgWf_ok h
  · exact regEntries_wf _ _ _ _ h
  · exact regEntries_wf _ _ _ _ h
  · exact imgWf_ite (imgWf_ok h) (imgWf_error _)
  · exact imgWf_ok h
  · exact imgWf_ite (imgWf_ok h) (imgWf_error _)
  · exact imgWf_ite (imgWf_error _) (imgWf_ok h)
  · exact imgWf_ok h
  · exact imgWf_ok h

/-- The registers that an image sets stand in canonical form. -/
theorem records_wf (fuses : List (List Byte)) (seq count len k ix off prev : Nat) (bs : List Byte) (g : Img) (h : Assoc.wf regReset g.regs = true) :
    imgWf (records fuses seq count len k ix off prev bs g) := by
  induction k generalizing ix off prev bs g with
  | zero => exact imgWf_error _
  | succ k ih =>
    unfold records
    extract_lets +onlyGivenNames typ due
    have hd : imgWf due := imgWf_ite (ownerCheck_wf _ _ _ h) (imgWf_ite (fwCheck_wf _ h) (imgWf_ok h))
    clear_value due typ
    split
    · exact imgWf_error _
    · exact imgWf_error _
    · have h1 := hd _ rfl
      extract_lets
      refine imgWf_ite (imgWf_error _) (imgWf_ite (imgWf_ite (imgWf_ok h1) (imgWf_error _)) ?_)
      split
      · exact imgWf_error _
      · rename_i he
        exact imgWf_ite (imgWf_error _) (ih _ _ _ _ _ (takeRecord_wf _ _ _ _ _ h1 _ he))

theorem parseImage_wf (fuses : List (List Byte)) (bs : List Byte) : imgWf (parseImage fuses bs) := records_wf _ _ _ _ _ _ _ _ _ _ rfl

theorem activeOf_wf (regs : RegMap) : Assoc.wf regReset (activeOf regs) = true := by
  unfold activeOf
  have k : Assoc.wf regReset ([] : RegMap) = true := rfl
  generalize ([] : RegMap) = m at k
  induction regs generalizing m with
  | nil => exact k
  | cons a l ih =>
    refine ih _ ?_
    dsimp only
    split
    · exact RegMap.wf_wr _ _ _ k
    · exact k

theorem State.release_keeps {r0 : State} {s : State} {k : Nat} {fallback : Bool} {g : Img} {act : RegMap} (h : r0.Keeps s)
    (hg : Assoc.wf regReset g.regs = true) (ha : Assoc.wf regReset act = true) : r0.Keeps (s.release k fallback g act) := by
  unfold State.release
  extract_lets clk pps _ _ _ _ _ _ s1 s2 s3
  have h1 : r0.Keeps s1 := by
    refine h.trans ⟨rfl, rfl, fun ⟨_, _, c⟩ => ⟨ha, Assoc.wf_filter _ _ hg, c⟩, ?_, rfl, rfl, rfl⟩
    rintro ⟨a, b, c, d, e, f, i⟩
    exact ⟨a, b, c, d, List.length_mapIdx.trans e, List.length_mapIdx.trans f, i⟩
  clear_value s1
  exact .foldl (State.setPort_keeps (State.refreshLeap_keeps (State.reloadModel_keeps (State.putExtras_keeps h1)))) fun _ _ k =>
    .ite k (State.bwStart_keeps k)

theorem State.trySlot_keeps {r0 : State} {s : State} {k : Nat} {fallback : Bool} {pufOk : Bool} {fault : Bool} (h : r0.Keeps s) :
    r0.Keeps (s.trySlot k fallback pufOk fault).1 := by
  unfold State.trySlot
  extract_lets
  split
  · exact .upd s h ⟨rfl, rfl, rfl⟩ (fun h => h) (fun h => h)
  · split
    · exact h
    · split
      · exact h
      · rename_i g hg
        extract_lets
        split
        · exact h
        · split
          · exact .upd s h ⟨rfl, rfl, rfl⟩ (fun h => h) (fun h => h)
          · rename_i s1 h1
            have h1 := State.unseal_keeps h _ h1
            split
            · exact h1
            · rename_i s2 h2
              have h2 := State.importAll_keeps (.foldl h1 fun _ _ k => State.loadCurve_keeps k) _ h2
              extract_lets
              split
              · exact h1
              · split
                · exact h1
                · exact State.release_keeps h2 (parseImage_wf _ _ _ hg) (activeOf_wf _)

theorem State.putCode_keeps {r0 : State} {s : State} {k : Nat} {code : Nat} (h : r0.Keeps s) : r0.Keeps (s.putCode k code) := by
  unfold State.putCode
  extract_lets +onlyGivenNames v1
  refine .upd s ?_ (⟨rfl, rfl, rfl⟩) (fun h => by repeat' first | exact h | split) (fun h => h)
  exact h

theorem State.loadFailed_leads {r0 : State} {s : State} {cause : Nat} (h : r0.Leads s) : r0.Leads (s.loadFailed cause) := by
  unfold State.loadFailed
  extract_lets +onlyGivenNames v1
  extract_lets +onlyGivenNames v2
  have hv2 : r0.Leads v2 := by
    unfold v2
    refine .andThen ?_ (.upd s (.refl _) (⟨rfl, rfl, rfl⟩) (fun h => h) (fun h => h))
    exact h
  obtain ⟨yv2, hyv2, ev2⟩ := hv2.gen
  rw [ev2]
  refine State.safeReaction_leads ?_
  refine .andThen ?_ (State.logStart_keeps (.refl _))
  exact hyv2

theorem State.readHeaders_keeps {r0 : State} {s : State} (h : r0.Keeps s) : r0.Keeps s.readHeaders := by
  unfold State.readHeaders
  extract_lets +onlyGivenNames v1
  extract_lets +onlyGivenNames v2
  refine .upd s ?_ (⟨rfl, rfl, rfl⟩) (fun h => h) (fun h => h)
  exact h

theorem State.loadSlots_leads {r0 : State} {s : State} {pufOk : Bool} {fault : Nat → Bool} (h : r0.Leads s) : r0.Leads (s.loadSlots pufOk fault) := by
  unfold State.loadSlots
  extract_lets +onlyGivenNames v1
  clear_value v1
  extract_lets +onlyGivenNames v2
  have hv2 : r0.Leads v2.1 := by
    unfold v2
    refine .andThen ?_ (State.trySlot_keeps (.refl _))
    exact h
  extract_lets +onlyGivenNames v3
  have hv3 : r0.Leads v3 := by
    unfold v3
    refine .andThen ?_ (State.putCode_keeps (.refl _))
    exact hv2
  obtain ⟨yv3, hyv3, ev3⟩ := hv3.gen
  rw [ev3]
  extract_lets +onlyGivenNames v4
  have hv4 : r0.Leads v4.1 := by
    unfold v4
    refine .andThen ?_ (State.trySlot_keeps (.refl _))
    exact hyv3
  extract_lets +onlyGivenNames v5
  have hv5 : r0.Leads v5 := by
    unfold v5
    refine .andThen ?_ (State.putCode_keeps (.refl _))
    exact hv4
  obtain ⟨yv5, hyv5, ev5⟩ := hv5.gen
  rw [ev5]
  refine .ite ?_ ?_
  · refine .andThen ?_ (State.logStart_keeps (.refl _))
    exact hyv3
  · refine .ite ?_ ?_
    · refine .andThen ?_ (State.logStart_keeps (.refl _))
      exact hyv5
    · refine State.loadFailed_leads ?_
      exact hyv5

theorem State.bootLoad_leads {r0 : State} {s : State} {pufOk : Bool} {faultA : Bool} {faultB : Bool} (h : r0.Leads s) : r0.Leads (s.bootLoad pufOk faultA faultB) := by
  unfold State.bootLoad
  extract_lets +onlyGivenNames v1
  clear_value v1
  extract_lets +onlyGivenNames v2
  extract_lets +onlyGivenNames v3
  have hv3 : r0.Leads v3 := by
    unfold v3
    refine State.loadSlots_leads ?_
    refine .andThen ?_ (State.readHeaders_keeps (.refl _))
    exact h
  obtain ⟨yv3, hyv3, ev3⟩ := hv3.gen
  rw [ev3]
  extract_lets +onlyGivenNames v4
  refine .ite ?_ ?_
  · exact h
  · refine .ite ?_ ?_
    · refine State.loadFailed_leads ?_
      refine .andThen ?_ (.upd s (.refl _) (⟨rfl, rfl, rfl⟩) (fun h => h) (fun h => h))
      exact h
    · refine .ite ?_ ?_
      · refine State.startupStep_leads ?_
        refine .andThen ?_ (.upd yv3 (.refl _) (⟨rfl, rfl, rfl⟩) (fun h => h) (fun h => h))
        exact hyv3
      · exact hyv3

end Sys2Proof.Machine
end

