-- ==== Sys2Proof/Laws/KeepRegs.lean ====
section
/-! SUPPORT. What the operations of Machine/Regs.lean keep. -/

set_option Elab.async false
set_option linter.unusedVariables false
set_option linter.unusedSimpArgs false

namespace Sys2Proof.Machine

open Sys2Proof



theorem State.readLatch_keeps {r0 : State} {s : State} {p : Path} {off : Nat} (h : r0.Keeps s) : r0.Keeps (s.readLatch p off) := by
  unfold State.readLatch
  refine .ite ?_ ?_
  · refine State.timeLatch_keeps ?_
    exact h
  · refine .ite ?_ ?_
    · refine State.weftLatch_keeps ?_
      exact h
    · refine .ite ?_ ?_
      · refine .ite ?_ ?_
        · exact h
        · refine State.tinRecRead_keeps ?_
          exact h
      · refine .ite ?_ ?_
        · refine State.recLock_keeps ?_
          exact h
        · refine .ite ?_ ?_
          · refine State.gnsLatch_keeps ?_
            exact h
          · refine .ite ?_ ?_
            · refine State.ptmLatch_keeps ?_
              exact h
            · refine .ite ?_ ?_
              · refine State.bwLatch_keeps ?_
                exact h
              · refine State.ctrLatch_keeps ?_
                exact h

theorem State.railReload_keeps {r0 : State} {s : State} {k : Nat} (h : r0.Keeps s) : r0.Keeps (s.railReload k) := by
  unfold State.railReload
  extract_lets +onlyGivenNames v1
  refine .ite ?_ ?_
  · exact h
  · refine .upd s ?_ (⟨rfl, rfl, rfl⟩) (fun h => h) (fun h => h)
    exact h

theorem State.readClear_keeps {r0 : State} {s : State} {off : Nat} (h : r0.Keeps s) : r0.Keeps (s.readClear off) := by
  unfold State.readClear
  extract_lets +onlyGivenNames v1
  refine .ite ?_ ?_
  · refine .ite ?_ ?_
    · exact h
    · refine .upd s ?_ (⟨rfl, rfl, rfl⟩) (fun h => h) (fun h => h)
      exact h
  · refine .ite ?_ ?_
    · refine State.railReload_keeps ?_
      exact h
    · refine .ite ?_ ?_
      · refine State.bwPeakClear_keeps ?_
        exact h
      · exact h

theorem State.readOn_keeps {r0 : State} {s : State} {p : Path} {off : Nat} (h : r0.Keeps s) : r0.Keeps (s.readOn p off) := by
  unfold State.readOn
  extract_lets +onlyGivenNames v1
  extract_lets +onlyGivenNames v2
  have hv2 : r0.Keeps v2 := by
    unfold v2
    refine State.readLatch_keeps ?_
    exact h
  obtain ⟨yv2, hyv2, ev2⟩ := hv2.gen
  rw [ev2]
  extract_lets +onlyGivenNames v3
  refine .ite ?_ ?_
  · refine State.setLat_keeps ?_
    refine .upd s ?_ (⟨rfl, rfl, rfl⟩) (fun h => h) (fun h => h)
    exact h
  · refine .ite ?_ ?_
    · exact h
    · refine State.setLat_keeps ?_
      refine State.readClear_keeps ?_
      exact hyv2

theorem State.putStaged_keeps {r0 : State} {s : State} {off : Nat} {v : W32} (h : r0.Keeps s) : r0.Keeps (s.putStaged off v) := by
  unfold State.putStaged
  split
  · rename_i y2 y3 y4
    extract_lets +onlyGivenNames v5
    extract_lets +onlyGivenNames v6
    have hv6 : r0.Keeps v6 := by
      unfold v6
      refine .ite ?_ ?_
      · exact h
      · refine State.putRw_keeps ?_
        exact h
    obtain ⟨yv6, hyv6, ev6⟩ := hv6.gen
    rw [ev6]
    refine .ite ?_ ?_
    · exact hyv6
    · refine .upd yv6 ?_ (⟨rfl, rfl, rfl⟩) (fun ⟨a, b, c⟩ => ⟨a, RegMap.wf_wr _ _ _ b, c⟩) (fun h => h)
      exact hyv6
  · rename_i y7 y8
    exact h

theorem State.writeCmt_keeps {r0 : State} {s : State} {b : CmtBlk} {k : Nat} {v : W32} (h : r0.Keeps s) : r0.Keeps (s.writeCmt b k v) := by
  unfold State.writeCmt
  extract_lets +onlyGivenNames v1
  clear_value v1
  extract_lets +onlyGivenNames v2
  refine .ite ?_ ?_
  · split
    · rename_i y3 y4
      refine State.cmtStart_keeps ?_
      exact h
    · rename_i y5 y6
      refine State.cmtStart_keeps ?_
      exact h
    · rename_i y7 y8
      refine State.cmtRevert_keeps ?_
      exact h
    · rename_i y9 y10 y11 y12
      exact h
  · refine .ite ?_ ?_
    · refine State.setCmt_keeps ?_
      exact h
    · exact h

theorem State.writeGlb_keeps {r0 : State} {s : State} {off : Nat} {v : W32} (h : r0.Keeps s) : r0.Keeps (s.writeGlb off v) := by
  unfold State.writeGlb
  extract_lets +onlyGivenNames v1
  refine .ite ?_ ?_
  · refine State.glbReset_keeps ?_
    exact h
  · refine .ite ?_ ?_
    · refine .upd s ?_ (⟨rfl, rfl, rfl⟩) (fun h => h) (fun h => h)
      exact h
    · refine .ite ?_ ?_
      · refine .upd s ?_ (⟨rfl, rfl, rfl⟩) (fun h => h) (fun h => h)
        exact h
      · exact h

theorem State.writeMac_keeps {r0 : State} {s : State} {off : Nat} {v : W32} (h : r0.Keeps s) : r0.Keeps (s.writeMac off v) := by
  unfold State.writeMac
  extract_lets +onlyGivenNames v1
  refine .ite ?_ ?_
  · refine .ite ?_ ?_
    · refine State.ruleWrite_keeps ?_
      exact h
    · exact h
  · refine .ite ?_ ?_
    · refine .upd s ?_ (⟨rfl, rfl, rfl⟩) (fun h => h) (fun h => h)
      exact h
    · refine .ite ?_ ?_
      · refine State.setPort_keeps ?_
        exact h
      · refine State.putStaged_keeps ?_
        exact h

theorem State.writeTin_keeps {r0 : State} {s : State} {off : Nat} {v : W32} (h : r0.Keeps s) : r0.Keeps (s.writeTin off v) := by
  unfold State.writeTin
  extract_lets +onlyGivenNames v1
  extract_lets +onlyGivenNames v2
  have hv2 : r0.Keeps v2 := by
    unfold v2
    refine .ite ?_ ?_
    · refine State.rdEnable_keeps ?_
      exact h
    · exact h
  obtain ⟨yv2, hyv2, ev2⟩ := hv2.gen
  rw [ev2]
  extract_lets +onlyGivenNames v3
  clear_value v3
  extract_lets +onlyGivenNames v4
  extract_lets +onlyGivenNames v5
  refine .ite ?_ ?_
  · refine State.flushOverflow_keeps ?_
    refine State.putStaged_keeps ?_
    exact hyv2
  · refine .ite ?_ ?_
    · refine State.tinDisarm_keeps ?_
      refine .foldl ?_ fun t6 a7 k8 => ?_
      · exact h
      · refine State.armOne_keeps ?_
        exact k8
    · refine .ite ?_ ?_
      · refine State.setTin_keeps ?_
        exact h
      · refine .ite ?_ ?_
        · split
          · rename_i y9 y10
            refine State.setRdr_keeps ?_
            exact h
          · rename_i y11 y12
            refine State.setRdr_keeps ?_
            exact h
          · rename_i y13 y14
            refine State.setRdr_keeps ?_
            exact h
          · rename_i y15 y16 y17 y18
            exact h
        · refine .ite ?_ ?_
          · refine .upd s ?_ (⟨rfl, rfl, rfl⟩) (fun h => h) (fun h => h)
            exact h
          · refine State.putStaged_keeps ?_
            exact h

theorem State.writeRef_keeps {r0 : State} {s : State} {off : Nat} {v : W32} (h : r0.Keeps s) : r0.Keeps (s.writeRef off v) := by
  unfold State.writeRef
  extract_lets +onlyGivenNames v1
  clear_value v1
  refine .ite ?_ ?_
  · split
    · rename_i y2 y3
      refine State.endWtr_keeps ?_
      exact h
    · rename_i y4 y5
      refine State.forgetRef_keeps ?_
      exact h
    · rename_i y6 y7
      refine State.refCtl_keeps ?_
      exact h
    · rename_i y8 y9 y10 y11
      exact h
  · refine .ite ?_ ?_
    · refine State.setRef_keeps ?_
      exact h
    · refine State.putStaged_keeps ?_
      exact h

theorem State.writeSrv_leads {r0 : State} {s : State} {off : Nat} {v : W32} (h : r0.Leads s) : r0.Leads (s.writeSrv off v) := by
  unfold State.writeSrv
  extract_lets +onlyGivenNames v1
  clear_value v1
  extract_lets +onlyGivenNames v2
  extract_lets +onlyGivenNames v3
  extract_lets +onlyGivenNames v4
  refine .ite ?_ ?_
  · refine .andThen ?_ (.upd s (.refl _) (⟨rfl, rfl, rfl⟩) (fun h => h) (fun h => h))
    exact h
  · refine .ite ?_ ?_
    · split
      · rename_i y5 y6
        exact h
      · rename_i y7 y8
        refine .andThen ?_ (State.forgetModel_keeps (.refl _))
        exact h
      · rename_i y9 y10 y11
        refine .andThen ?_ (State.srvCtl_keeps (.refl _))
        exact h
    · refine .ite ?_ ?_
      · refine .ite ?_ ?_
        · exact h
        · refine .andThen ?_ (State.stepIssue_keeps (.refl _))
          exact h
      · refine .ite ?_ ?_
        · refine .andThen ?_ (.upd s (.refl _) (⟨rfl, rfl, rfl⟩) (fun h => h) (fun h => h))
          exact h
        · refine .ite ?_ ?_
          · refine .andThen ?_ (.upd s (.refl _) (⟨rfl, rfl, rfl⟩) (fun h => h) (fun h => h))
            exact h
          · refine .ite ?_ ?_
            · refine .ite ?_ ?_
              · refine .andThen ?_ (State.beginDrain_keeps (.refl _))
                exact h
              · refine .ite ?_ ?_
                · refine State.safeReq_leads ?_
                  exact h
                · refine .andThen ?_ (State.refuseReq_keeps (.refl _))
                  exact h
            · refine .andThen ?_ (State.putStaged_keeps (.refl _))
              exact h

theorem State.writeGns_keeps {r0 : State} {s : State} {off : Nat} {v : W32} (h : r0.Keeps s) : r0.Keeps (s.writeGns off v) := by
  unfold State.writeGns
  extract_lets +onlyGivenNames v1
  clear_value v1
  extract_lets +onlyGivenNames v2
  refine .ite ?_ ?_
  · split
    · rename_i y3 y4
      refine State.resurvey_keeps ?_
      exact h
    · rename_i y5 y6
      refine State.rerunScript_keeps ?_
      exact h
    · rename_i y7 y8
      refine State.coldStart_keeps ?_
      exact h
    · rename_i y9 y10 y11 y12
      exact h
  · refine .ite ?_ ?_
    · refine .upd s ?_ (⟨rfl, rfl, rfl⟩) (fun h => h) (fun h => h)
      exact h
    · refine .ite ?_ ?_
      · split
        · rename_i y13 y14
          refine State.ptpCancelAll_keeps ?_
          exact h
        · rename_i y15 y16
          refine State.ptpRestart_keeps ?_
          exact h
        · rename_i y17 y18
          refine State.ptpCtl_keeps ?_
          exact h
        · rename_i y19 y20 y21 y22
          exact h
      · refine State.putStaged_keeps ?_
        exact h

theorem State.writeMisc_keeps {r0 : State} {s : State} {off : Nat} {v : W32} (h : r0.Keeps s) : r0.Keeps (s.writeMisc off v) := by
  unfold State.writeMisc
  extract_lets +onlyGivenNames v1
  clear_value v1
  refine .ite ?_ ?_
  · refine State.setPort_keeps ?_
    exact h
  · refine .ite ?_ ?_
    · split
      · rename_i y4 y5
        exact h
      · rename_i y6 y7
        refine State.rotateOp_keeps ?_
        exact h
      · rename_i y8 y9 y10
        refine State.symCtl_keeps ?_
        exact h
    · refine .ite ?_ ?_
      · split
        · rename_i y11 y12
          exact h
        · rename_i y13 y14
          refine State.bstTest_keeps ?_
          exact h
        · rename_i y15 y16
          refine State.bstClear_keeps ?_
          exact h
        · rename_i y17 y18 y19 y20
          refine State.bstCtl_keeps ?_
          exact h
      · refine State.putStaged_keeps ?_
        exact h

theorem State.writeMgt_keeps {r0 : State} {s : State} {off : Nat} {v : W32} (h : r0.Keeps s) : r0.Keeps (s.writeMgt off v) := by
  unfold State.writeMgt
  extract_lets +onlyGivenNames v1
  refine .ite ?_ ?_
  · refine .upd s ?_ (⟨rfl, rfl, rfl⟩) (fun h => h) (fun h => h)
    exact h
  · refine State.putStaged_keeps ?_
    exact h

theorem State.writeHif_keeps {r0 : State} {s : State} {off : Nat} {v : W32} (h : r0.Keeps s) : r0.Keeps (s.writeHif off v) := by
  unfold State.writeHif
  extract_lets +onlyGivenNames v1
  extract_lets +onlyGivenNames v2
  extract_lets +onlyGivenNames v3
  extract_lets +onlyGivenNames v4
  clear_value v4
  refine .ite ?_ ?_
  · refine .ite ?_ ?_
    · refine State.rxTail_keeps ?_
      exact h
    · refine .ite ?_ ?_
      · refine State.txTail_keeps ?_
        exact h
      · refine State.cqTail_keeps ?_
        exact h
  · refine .ite ?_ ?_
    · split
      · rename_i y5 y6
        refine State.cqAbort_keeps ?_
        exact h
      · rename_i y7 y8
        refine State.cqAbortAll_keeps ?_
        exact h
      · rename_i y9 y10 y11
        exact h
    · refine .ite ?_ ?_
      · refine State.evsRdWrite_keeps ?_
        exact h
      · refine .ite ?_ ?_
        · split
          · rename_i y12 y13
            unfold v3
            refine .upd s ?_ (⟨rfl, rfl, rfl⟩) (fun h => h) (fun h => h)
            exact h
          · rename_i y14 y15
            unfold v3
            refine .upd s ?_ (⟨rfl, rfl, rfl⟩) (fun h => h) (fun h => h)
            exact h
          · rename_i y16 y17
            unfold v3
            refine .upd s ?_ (⟨rfl, rfl, rfl⟩) (fun h => h) (fun h => h)
            exact h
          · rename_i y18 y19 y20 y21
            exact h
        · refine .ite ?_ ?_
          · unfold v3
            refine .upd s ?_ (⟨rfl, rfl, rfl⟩) (fun h => h) (fun h => h)
            exact h
          · refine .ite ?_ ?_
            · refine .upd s ?_ (⟨rfl, rfl, rfl⟩) (fun h => h) (fun h => h)
              exact h
            · refine .ite ?_ ?_
              · refine .ite ?_ ?_
                · refine State.ptmReq_keeps ?_
                  exact h
                · exact h
              · refine .ite ?_ ?_
                · refine State.vecUnmask_keeps ?_
                  refine State.putStaged_keeps ?_
                  exact h
                · refine State.putStaged_keeps ?_
                  exact h

theorem State.writeBlock_leads {r0 : State} {s : State} {off : Nat} {v : W32} (h : r0.Leads s) : r0.Leads (s.writeBlock off v) := by
  unfold State.writeBlock
  refine .ite ?_ ?_
  · exact h
  · split
    · rename_i y1 y2 y3
      refine .andThen ?_ (State.writeCmt_keeps (.refl _))
      exact h
    · rename_i y4 y5
      refine .ite ?_ ?_
      · refine .ite ?_ ?_
        · refine .andThen ?_ (State.wrapClear_keeps (.refl _))
          exact h
        · exact h
      · split
        · rename_i y6 y7
          refine .andThen ?_ (State.writeMac_keeps (.refl _))
          exact h
        · rename_i y8 y9
          refine .andThen ?_ (State.writeMac_keeps (.refl _))
          exact h
        · rename_i y10 y11
          refine .andThen ?_ (State.writeTin_keeps (.refl _))
          exact h
        · rename_i y12 y13
          refine .andThen ?_ (State.writeRef_keeps (.refl _))
          exact h
        · rename_i y14 y15
          refine State.writeSrv_leads ?_
          exact h
        · rename_i y16 y17
          refine .andThen ?_ (State.putStaged_keeps (.refl _))
          exact h
        · rename_i y18 y19
          refine .andThen ?_ (State.writeGns_keeps (.refl _))
          exact h
        · rename_i y20 y21
          refine .andThen ?_ (State.writeMgt_keeps (.refl _))
          exact h
        · rename_i y22 y23
          refine .andThen ?_ (State.writeHif_keeps (.refl _))
          exact h
        · rename_i y24 y25 y26 y27 y28 y29 y30 y31 y32 y33
          refine .andThen ?_ (State.writeMisc_keeps (.refl _))
          exact h

theorem State.writeReg_leads {r0 : State} {s : State} {off : Nat} {be : BitVec 4} {v : W32} (h : r0.Leads s) : r0.Leads (s.writeReg off be v) := by
  unfold State.writeReg
  extract_lets +onlyGivenNames v1
  refine .ite ?_ ?_
  · exact h
  · refine .ite ?_ ?_
    · refine .andThen ?_ (.upd s (.refl _) (⟨rfl, rfl, rfl⟩) (fun h => h) (fun h => h))
      exact h
    · refine .ite ?_ ?_
      · refine .andThen ?_ (.upd s (.refl _) (⟨rfl, rfl, rfl⟩) (fun h => h) (fun h => h))
        exact h
      · refine .ite ?_ ?_
        · refine .andThen ?_ (State.writeGlb_keeps (.refl _))
          exact h
        · refine State.writeBlock_leads ?_
          exact h

end Sys2Proof.Machine
end

