-- ==== Sys2Proof/Laws/KeepMgmt.lean ====
section
/-! SUPPORT. What the operations of Machine/Mgmt.lean keep. -/

set_option Elab.async false
set_option linter.unusedVariables false
set_option linter.unusedSimpArgs false

namespace Sys2Proof.Machine

open Sys2Proof

theorem State.tempCheck_keeps {r0 : State} {s : State} (h : r0.Keeps s) : r0.Keeps s.tempCheck := by
  unfold State.tempCheck
  extract_lets +onlyGivenNames v1
  extract_lets +onlyGivenNames v2
  clear_value v2
  extract_lets +onlyGivenNames v3
  clear_value v3
  extract_lets +onlyGivenNames v4
  have hv4 : r0.Keeps v4 := by
    unfold v4
    refine .ite ?_ ?_
    · refine State.log_keeps ?_
      exact h
    · exact h
  obtain ⟨yv4, hyv4, ev4⟩ := hv4.gen
  rw [ev4]
  extract_lets +onlyGivenNames v5
  refine .upd yv4 ?_ (⟨rfl, rfl, rfl⟩) (fun h => h) (fun h => h)
  exact hyv4

theorem State.sensorScan_keeps {r0 : State} {s : State} {temps : List Int} {rails : List Nat} (h : r0.Keeps s) : r0.Keeps (s.sensorScan temps rails) := by
  unfold State.sensorScan
  extract_lets +onlyGivenNames v1
  extract_lets +onlyGivenNames v2
  extract_lets +onlyGivenNames v3
  extract_lets +onlyGivenNames v4
  extract_lets +onlyGivenNames v5
  extract_lets +onlyGivenNames v6
  extract_lets +onlyGivenNames v7
  extract_lets +onlyGivenNames v8
  have hv8 : r0.Keeps v8 := by
    unfold v8
    refine State.tempCheck_keeps ?_
    refine .upd s ?_ (⟨rfl, rfl, rfl⟩) (fun h => h) (fun h => h)
    exact h
  obtain ⟨yv8, hyv8, ev8⟩ := hv8.gen
  rw [ev8]
  extract_lets +onlyGivenNames v9
  refine .ite ?_ ?_
  · exact h
  · refine .upd yv8 ?_ (⟨rfl, rfl, rfl⟩) (fun h => h) (fun h => h)
    exact hyv8

theorem State.i2cPoint_keeps {r0 : State} {s : State} {b : Byte} (h : r0.Keeps s) : r0.Keeps (s.i2cPoint b) := by
  unfold State.i2cPoint
  extract_lets +onlyGivenNames v1
  refine .ite ?_ ?_
  · refine .upd s ?_ (⟨rfl, rfl, rfl⟩) (fun h => h) (fun h => h)
    exact h
  · exact h

theorem State.i2cRead_keeps {r0 : State} {s : State} {count : Nat} (h : r0.Keeps s) : r0.Keeps (s.i2cRead count) := by
  unfold State.i2cRead
  extract_lets +onlyGivenNames v1
  extract_lets +onlyGivenNames v2
  refine .ite ?_ ?_
  · exact h
  · refine .upd s ?_ (⟨rfl, rfl, rfl⟩) (fun h => h) (fun h => h)
    exact h

theorem State.respond_keeps {r0 : State} {s : State} {via : ReplyTo} {status : Nat} {data : List Byte} (h : r0.Keeps s) : r0.Keeps (s.respond via status data) := by
  unfold State.respond
  extract_lets +onlyGivenNames v1
  extract_lets +onlyGivenNames v2
  split
  · rename_i y3
    refine .upd s ?_ (⟨rfl, rfl, rfl⟩) (fun h => h) (fun h => h)
    exact h
  · rename_i y4 y5 y6 y7 y8 y9
    refine State.sendVia_keeps ?_
    exact h

theorem State.msgStatus_keeps {r0 : State} {s : State} {via : ReplyTo} {body : List Byte} (h : r0.Keeps s) : r0.Keeps (s.msgStatus via body) := by
  unfold State.msgStatus
  extract_lets +onlyGivenNames v1
  extract_lets +onlyGivenNames v2
  refine .ite ?_ ?_
  · refine State.respond_keeps ?_
    exact h
  · split
    · rename_i y3 y4 y5 y6 y7 y8
      refine .ite ?_ ?_
      · refine State.respond_keeps ?_
        refine State.draw_keeps ?_
        exact h
      · refine State.respond_keeps ?_
        exact h
    · rename_i y9
      refine State.respond_keeps ?_
      refine State.draw_keeps ?_
      exact h

theorem State.readMany_keeps {r0 : State} {s : State} {x0 : Nat} {x1 : Nat} (h : r0.Keeps s) : r0.Keeps (s.readMany x0 x1).2 := by
  induction x1 generalizing s x0 with
  | zero => exact h
  | succ n ih => exact ih (State.readOn_keeps h)

theorem State.msgRegRead_keeps {r0 : State} {s : State} {via : ReplyTo} {body : List Byte} (h : r0.Keeps s) : r0.Keeps (s.msgRegRead via body) := by
  unfold State.msgRegRead
  extract_lets +onlyGivenNames v1
  clear_value v1
  extract_lets +onlyGivenNames v2
  clear_value v2
  refine .ite ?_ ?_
  · refine State.respond_keeps ?_
    exact h
  · refine .ite ?_ ?_
    · refine State.respond_keeps ?_
      exact h
    · split
      · rename_i y3 y4 y5 y6
        refine State.respond_keeps ?_
        refine .snd y6 ?_
        refine State.readMany_keeps ?_
        exact h

theorem State.pairWrite_leads {r0 : State} {s : State} {w : Option W32} {off : Nat} {v : W32} (h : r0.Leads s) : r0.Leads (s.pairWrite w off v).1 := by
  unfold State.pairWrite
  extract_lets +onlyGivenNames v1
  split
  · rename_i y2
    dsimp only
    refine State.writeReg_leads ?_
    exact h
  · rename_i y3
    split
    · rename_i y4
      dsimp only
      exact h
    · rename_i y5
      dsimp only
      refine .andThen ?_ (.upd s (.refl _) (⟨rfl, rfl, rfl⟩) (fun h => h) (fun h => h))
      exact h

theorem State.pairsWrite_leads {r0 : State} {s : State} {w : Option W32} {done : Nat} {l : List (Nat × W32)} (h : r0.Leads s) :
    r0.Leads (s.pairsWrite w done l).1 := by
  induction l generalizing s w done with
  | nil => exact h
  | cons a l ih =>
    unfold State.pairsWrite
    dsimp only
    split
    · exact h
    · exact ih (State.pairWrite_leads h)

theorem State.msgRegWrite_leads {r0 : State} {s : State} {via : ReplyTo} {body : List Byte} (h : r0.Leads s) : r0.Leads (s.msgRegWrite via body).1 := by
  unfold State.msgRegWrite
  extract_lets n pairs
  split
  · exact .andThen h (State.respond_keeps (.refl _))
  · exact .andThen (State.pairsWrite_leads h) (State.respond_keeps (.refl _))

theorem State.msgLogRead_keeps {r0 : State} {s : State} {via : ReplyTo} {body : List Byte} (h : r0.Keeps s) : r0.Keeps (s.msgLogRead via body) := by
  unfold State.msgLogRead
  extract_lets +onlyGivenNames v1
  clear_value v1
  extract_lets +onlyGivenNames v2
  refine .ite ?_ ?_
  · refine State.respond_keeps ?_
    exact h
  · refine State.respond_keeps ?_
    exact h

theorem State.setUpd_keeps {r0 : State} {s : State} {f : UpdSt → UpdSt} (h : r0.Keeps s) : r0.Keeps (s.setUpd f) := by
  unfold State.setUpd
  extract_lets +onlyGivenNames v1
  refine .upd s ?_ (⟨rfl, rfl, rfl⟩) (fun h => h) (fun h => h)
  exact h

theorem State.program_keeps {r0 : State} {s : State} {a : Nat} {bs : List Byte} (h : r0.Keeps s) : r0.Keeps (s.program a bs) := by
  unfold State.program
  extract_lets +onlyGivenNames v1
  refine .upd s ?_ (⟨rfl, rfl, rfl⟩) (fun ⟨a, b, c, d, e, f, g, i, j, k⟩ => ⟨a, b, c, d, flashPut_wf _ _ _ e, f, g, i, j, k⟩) (fun h => h)
  exact h

theorem State.eraseFlash_keeps {r0 : State} {s : State} {a : Nat} {n : Nat} (h : r0.Keeps s) : r0.Keeps (s.eraseFlash a n) := by
  unfold State.eraseFlash
  extract_lets +onlyGivenNames v1
  refine .upd s ?_ (⟨rfl, rfl, rfl⟩) (fun ⟨a, b, c, d, e, f, g, i, j, k⟩ => ⟨a, b, c, d, Assoc.wf_filter _ _ e, f, g, i, j, k⟩) (fun h => h)
  exact h

theorem State.logUpdate_keeps {r0 : State} {s : State} {op : Nat} {k : Nat} {code : Nat} (h : r0.Keeps s) : r0.Keeps (s.logUpdate op k code) := by
  unfold State.logUpdate
  refine State.log_keeps ?_
  exact h

theorem State.settle_keeps {r0 : State} {s : State} (h : r0.Keeps s) : r0.Keeps s.settle := by
  unfold State.settle
  split
  · rename_i y1 y2 y3
    refine .ite ?_ ?_
    · exact h
    · refine State.respond_keeps ?_
      refine State.setUpd_keeps ?_
      exact h
  · rename_i y4 y5
    exact h

theorem State.msgErase_keeps {r0 : State} {s : State} {via : ReplyTo} {body : List Byte} (h : r0.Keeps s) : r0.Keeps (s.msgErase via body) := by
  unfold State.msgErase
  extract_lets +onlyGivenNames v1
  clear_value v1
  extract_lets +onlyGivenNames v2
  have hv2 : r0.Keeps v2 := by
    unfold v2
    refine State.eraseFlash_keeps ?_
    refine State.settle_keeps ?_
    exact h
  obtain ⟨yv2, hyv2, ev2⟩ := hv2.gen
  rw [ev2]
  extract_lets +onlyGivenNames v3
  have hv3 : r0.Keeps v3 := by
    unfold v3
    refine State.setUpd_keeps ?_
    exact hyv2
  obtain ⟨yv3, hyv3, ev3⟩ := hv3.gen
  rw [ev3]
  refine .ite ?_ ?_
  · refine State.respond_keeps ?_
    exact h
  · refine .ite ?_ ?_
    · refine State.respond_keeps ?_
      exact h
    · refine State.respond_keeps ?_
      exact hyv3

theorem State.eraseDone_keeps {r0 : State} {s : State} {ok : Bool} (h : r0.Keeps s) : r0.Keeps (s.eraseDone ok) := by
  unfold State.eraseDone
  extract_lets +onlyGivenNames v1
  extract_lets +onlyGivenNames v2
  have hv2 : r0.Keeps v2 := by
    unfold v2
    refine .ite ?_ ?_
    · refine State.eraseFlash_keeps ?_
      exact h
    · exact h
  obtain ⟨yv2, hyv2, ev2⟩ := hv2.gen
  rw [ev2]
  extract_lets +onlyGivenNames v3
  have hv3 : r0.Keeps v3 := by
    unfold v3
    refine State.setUpd_keeps ?_
    exact hyv2
  obtain ⟨yv3, hyv3, ev3⟩ := hv3.gen
  rw [ev3]
  refine .ite ?_ ?_
  · exact h
  · refine State.logUpdate_keeps ?_
    exact hyv3

theorem State.msgWrite_keeps {r0 : State} {s : State} {via : ReplyTo} {body : List Byte} (h : r0.Keeps s) : r0.Keeps (s.msgWrite via body) := by
  unfold State.msgWrite
  extract_lets +onlyGivenNames v1
  clear_value v1
  extract_lets +onlyGivenNames v2
  clear_value v2
  extract_lets +onlyGivenNames v3
  extract_lets +onlyGivenNames v4
  clear_value v4
  extract_lets +onlyGivenNames v5
  have hv5 : r0.Keeps v5 := by
    unfold v5
    refine State.setUpd_keeps ?_
    refine State.settle_keeps ?_
    exact h
  obtain ⟨yv5, hyv5, ev5⟩ := hv5.gen
  rw [ev5]
  extract_lets +onlyGivenNames v6
  extract_lets +onlyGivenNames v7
  have hv7 : r0.Keeps v7 := by
    unfold v7
    refine .ite ?_ ?_
    · refine State.logUpdate_keeps ?_
      exact hyv5
    · refine State.program_keeps ?_
      refine State.setUpd_keeps ?_
      exact hyv5
  obtain ⟨yv7, hyv7, ev7⟩ := hv7.gen
  rw [ev7]
  refine .ite ?_ ?_
  · refine State.respond_keeps ?_
    exact h
  · refine .ite ?_ ?_
    · refine State.respond_keeps ?_
      exact h
    · refine State.respond_keeps ?_
      exact hyv7

theorem State.msgVerify_keeps {r0 : State} {s : State} {via : ReplyTo} {body : List Byte} (h : r0.Keeps s) : r0.Keeps (s.msgVerify via body) := by
  unfold State.msgVerify
  extract_lets +onlyGivenNames v1
  clear_value v1
  extract_lets +onlyGivenNames v2
  have hv2 : r0.Keeps v2 := by
    unfold v2
    refine State.setUpd_keeps ?_
    refine State.settle_keeps ?_
    exact h
  obtain ⟨yv2, hyv2, ev2⟩ := hv2.gen
  rw [ev2]
  refine .ite ?_ ?_
  · refine State.respond_keeps ?_
    exact h
  · refine .ite ?_ ?_
    · refine State.respond_keeps ?_
      exact h
    · refine State.bodkinQueue_keeps ?_
      exact hyv2

theorem State.verifyDone_keeps {r0 : State} {s : State} {flashOk : Bool} (h : r0.Keeps s) : r0.Keeps (s.verifyDone flashOk) := by
  unfold State.verifyDone
  extract_lets +onlyGivenNames v1
  extract_lets +onlyGivenNames v2
  clear_value v2
  extract_lets +onlyGivenNames v3
  extract_lets +onlyGivenNames v4
  extract_lets +onlyGivenNames v5
  have hv5 : r0.Keeps v5 := by
    unfold v5
    refine .ite ?_ ?_
    · refine State.program_keeps ?_
      exact h
    · exact h
  obtain ⟨yv5, hyv5, ev5⟩ := hv5.gen
  rw [ev5]
  extract_lets +onlyGivenNames v6
  have hv6 : r0.Keeps v6 := by
    unfold v6
    refine State.setUpd_keeps ?_
    exact hyv5
  obtain ⟨yv6, hyv6, ev6⟩ := hv6.gen
  rw [ev6]
  extract_lets +onlyGivenNames v7
  have hv7 : r0.Keeps v7 := by
    unfold v7
    refine State.logUpdate_keeps ?_
    exact hyv6
  obtain ⟨yv7, hyv7, ev7⟩ := hv7.gen
  rw [ev7]
  refine .ite ?_ ?_
  · exact h
  · refine .ite ?_ ?_
    · refine State.settle_keeps ?_
      exact h
    · refine .ite ?_ ?_
      · exact h
      · split
        · rename_i y8 y9 y10
          refine State.respond_keeps ?_
          exact hyv7
        · rename_i y11 y12
          exact hyv7

theorem State.swapRefused_running {s : State} (h : s.swapRefused = 0) : s.md.mode.running = true := by
  unfold State.swapRefused at h
  extract_lets at h
  split at h
  · rename_i hu
    exact absurd h hu
  · split at h
    · exact absurd h (by decide)
    · rename_i hr
      simpa using hr

theorem Mode.ne_safe_of_running {m : Mode} (h : m.running = true) : m ≠ .safe := by
  rintro rfl
  exact nomatch h

theorem State.msgSwap_leads {r0 : State} {s : State} {via : ReplyTo} {body : List Byte} (h : r0.Leads s) : r0.Leads (s.msgSwap via body) := by
  unfold State.msgSwap
  extract_lets s1
  refine .ite (.andThen h (State.respond_keeps (.refl _))) ?_
  split
  · refine .andThen ?_ (State.respond_keeps (.refl _))
    exact .ite (.andThen h (State.refuseReq_keeps (.refl _))) h
  · rename_i hr
    have hs : s.Keeps s.settle := State.settle_keeps (.refl s)
    have hm : s.settle.md.mode ≠ .safe := hs.mode ▸ Mode.ne_safe_of_running (State.swapRefused_running (not_not.1 hr))
    exact .andThen (State.grantMaintain_leads (.andThen h hs) hm) (State.bodkinQueue_keeps (State.respond_keeps (State.setUpd_keeps (.refl _))))

theorem State.logSwap_keeps {r0 : State} {s : State} {result : Nat} {old : W32} {new : W32} (h : r0.Keeps s) : r0.Keeps (s.logSwap result old new) := by
  unfold State.logSwap
  refine State.log_keeps ?_
  exact h

theorem State.fwReady_keeps {r0 : State} {s : State} (h : r0.Keeps s) : r0.Keeps s.fwReady := by
  unfold State.fwReady
  extract_lets +onlyGivenNames v1
  extract_lets +onlyGivenNames v2
  extract_lets +onlyGivenNames v3
  split
  · rename_i y5 y6 y7 y8 y9
    extract_lets +onlyGivenNames v10
    clear_value v10
    extract_lets +onlyGivenNames v11
    have hv11 : r0.Keeps v11 := by
      unfold v11
      refine .upd s ?_ (⟨rfl, rfl, rfl⟩) (fun h => h) (fun h => h)
      exact h
    obtain ⟨yv11, hyv11, ev11⟩ := hv11.gen
    rw [ev11]
    refine .ite ?_ ?_
    · exact h
    · refine State.logSwap_keeps ?_
      refine State.setUpd_keeps ?_
      exact hyv11
  · rename_i y12 y13 y14
    exact h

theorem State.swapRevert_keeps {r0 : State} {s : State} (h : r0.Keeps s) : r0.Keeps s.swapRevert := by
  unfold State.swapRevert
  extract_lets u due live p _ s1
  have hp : s.Keeps p := State.program_keeps (.refl s)
  clear_value p
  have h1 : r0.Keeps s1 := .upd p (h.trans hp) ⟨rfl, hp.mode.symm, hp.origin.symm⟩ (fun h => h) (fun h => h)
  clear_value s1
  exact .ite h (State.logSwap_keeps (State.setUpd_keeps h1))

theorem State.msgRestart_leads {r0 : State} {s : State} {via : ReplyTo} {body : List Byte} (h : r0.Leads s) : r0.Leads (s.msgRestart via body) := by
  unfold State.msgRestart
  extract_lets +onlyGivenNames v1
  refine .ite ?_ ?_
  · refine .andThen ?_ (State.respond_keeps (.refl _))
    exact h
  · refine .ite ?_ ?_
    · refine .andThen ?_ (State.beginDrain_keeps (.refl _))
      refine .andThen ?_ (State.respond_keeps (.refl _))
      exact h
    · refine .ite ?_ ?_
      · refine State.safeReq_leads ?_
        refine .andThen ?_ (State.respond_keeps (.refl _))
        exact h
      · refine .andThen ?_ (State.respond_keeps (.refl _))
        refine .andThen ?_ (State.refuseReq_keeps (.refl _))
        exact h

theorem State.msgOffline_leads {r0 : State} {s : State} {via : ReplyTo} {body : List Byte} (h : r0.Leads s) : r0.Leads (s.msgOffline via body) := by
  unfold State.msgOffline
  extract_lets n s1
  refine .ite (.andThen h (State.respond_keeps (.refl _))) ?_
  split
  · exact .andThen h (State.respond_keeps (State.refuseReq_keeps (.refl _)))
  · rename_i hr
    have h1 : r0.Leads s1 := .andThen (State.grantMaintain_leads h (Mode.ne_safe_of_running (by simpa using hr))) (State.respond_keeps (.refl _))
    clear_value s1
    exact .andThen h1 (State.offlineNext_keeps (.upd s1 (.refl _) ⟨rfl, rfl, rfl⟩ (fun h => h) (fun h => h)))

theorem State.otarnDrop_keeps {r0 : State} {s : State} {src : List Byte} (h : r0.Keeps s) : r0.Keeps (s.otarnDrop src) := by
  unfold State.otarnDrop
  extract_lets +onlyGivenNames v1
  refine State.count_keeps ?_
  refine .upd s ?_ (⟨rfl, rfl, rfl⟩) (fun h => h) (fun h => h)
  exact h

theorem State.otarnArrive_keeps {r0 : State} {s : State} (h : r0.Keeps s) : r0.Keeps s.otarnArrive := by
  unfold State.otarnArrive
  extract_lets +onlyGivenNames v1
  refine .upd s ?_ (⟨rfl, rfl, rfl⟩) (fun h => h) (fun h => h)
  exact h

theorem State.putReplay_keeps {r0 : State} {s : State} {key : List Byte} {v : Nat} (h : r0.Keeps s) : r0.Keeps (s.putReplay key v) := by
  unfold State.putReplay
  extract_lets +onlyGivenNames v1
  extract_lets +onlyGivenNames v2
  extract_lets +onlyGivenNames v3
  extract_lets +onlyGivenNames v4
  refine .upd s ?_ (⟨rfl, rfl, rfl⟩) (fun h => h) (fun h => h)
  exact h

theorem State.datagram_leads {r0 : State} {s : State} {known : Nat → Bool} {sub : List Byte → Bool} {bytes : List Byte} {src : List Byte} {port : Nat}
    {hop : Nat} {act : State → ReplyTo → List Byte → State} (h : r0.Leads s) (ha : ∀ t via b, r0.Leads t → r0.Leads (act t via b)) :
    r0.Leads (s.datagram known sub bytes src port hop act) := by
  unfold State.datagram
  extract_lets typ len s1 replay via body
  have h1 : r0.Leads s1 := .andThen h (State.otarnArrive_keeps (.refl _))
  clear_value s1
  have hd : r0.Leads (s1.otarnDrop src) := .andThen h1 (State.otarnDrop_keeps (.refl _))
  refine .ite h (.ite hd (.ite (.ite hd (.ite (ha _ _ _ (.andThen h1 (State.count_keeps (.refl _))))
    (.andThen h1 (State.respond_keeps (State.count_keeps (.refl _)))))) ?_))
  split
  · exact hd
  · rename_i key _
    extract_lets s2
    have h2 : r0.Leads s2 := .andThen h1 (State.bodkinPut_keeps (.refl _))
    clear_value s2
    exact .andThen h2 (.upd s2 (.refl _) ⟨rfl, rfl, rfl⟩ (fun h => h) (fun h => h))

theorem State.mboxTake_keeps {r0 : State} {s : State} {token : Nat} (h : r0.Keeps s) : r0.Keeps (s.mboxTake token) := by
  unfold State.mboxTake
  extract_lets +onlyGivenNames v1
  refine .upd s ?_ (⟨rfl, rfl, rfl⟩) (fun h => h) (fun h => h)
  exact h

theorem State.mboxServe_leads {r0 : State} {s : State} {sub : List Byte → Bool} {act : State → ReplyTo → List Byte → State} (h : r0.Leads s)
    (ha : ∀ t via b, r0.Leads t → r0.Leads (act t via b)) : r0.Leads (s.mboxServe sub act) :=
  .ite h (.ite (.andThen h (State.respond_keeps (.refl _))) (.ite (.andThen h (State.respond_keeps (.refl _))) (ha _ _ _ h)))

theorem State.message_leads {r0 : State} {s : State} {known : Nat → Bool} {sub : List Byte → Bool} {c : Carrier}
    {act : State → ReplyTo → List Byte → State} (h : r0.Leads s) (ha : ∀ t via b, r0.Leads t → r0.Leads (act t via b)) :
    r0.Leads (s.message known sub c act) := by
  unfold State.message
  split
  · exact .ite h (State.mboxServe_leads (.andThen h (State.mboxTake_keeps (.refl _))) ha)
  · exact State.datagram_leads h ha

theorem State.messageAct_leads {r0 : State} {s : State} {code : Nat} {via : ReplyTo} {body : List Byte} (h : r0.Leads s) : r0.Leads (s.messageAct code via body) := by
  unfold State.messageAct
  split
  · rename_i y1
    refine .andThen ?_ (State.msgStatus_keeps (.refl _))
    exact h
  · rename_i y2
    refine .andThen ?_ (State.msgRegRead_keeps (.refl _))
    exact h
  · rename_i y3
    refine State.msgRegWrite_leads ?_
    exact h
  · rename_i y4
    refine .andThen ?_ (State.msgLogRead_keeps (.refl _))
    exact h
  · rename_i y5
    refine .andThen ?_ (State.msgErase_keeps (.refl _))
    exact h
  · rename_i y6
    refine .andThen ?_ (State.msgWrite_keeps (.refl _))
    exact h
  · rename_i y7
    refine .andThen ?_ (State.msgVerify_keeps (.refl _))
    exact h
  · rename_i y8
    refine State.msgSwap_leads ?_
    exact h
  · rename_i y9
    refine State.msgRestart_leads ?_
    exact h
  · rename_i y10
    refine State.msgOffline_leads ?_
    exact h
  · rename_i y11 y12 y13 y14 y15 y16 y17 y18 y19 y20 y21
    refine .andThen ?_ (State.respond_keeps (.refl _))
    exact h

theorem State.mboxRun_leads {r0 : State} {s : State} {code : Nat} (h : r0.Leads s) : r0.Leads (s.mboxRun code) := by
  unfold State.mboxRun
  exact State.mboxServe_leads h fun _ _ _ k => State.messageAct_leads k

theorem State.regWriteThen_leads {r0 : State} {s : State} {via : ReplyTo} {body : List Byte} (h : r0.Leads s) : r0.Leads (s.regWriteThen via body) := by
  unfold State.regWriteThen
  split
  · rename_i y1 y2 y3 y4
    refine State.mboxRun_leads ?_
    refine .fst y4 ?_
    refine State.msgRegWrite_leads ?_
    exact h
  · rename_i y5 y6 y7
    refine .fst y7 ?_
    refine State.msgRegWrite_leads ?_
    exact h

theorem State.registerWrite_leads {r0 : State} {s : State} {off : Nat} {be : BitVec 4} {v : W32} (h : r0.Leads s) : r0.Leads (s.registerWrite off be v) := by
  unfold State.registerWrite
  refine .ite ?_ ?_
  · refine .ite ?_ ?_
    · exact h
    · refine State.mboxRun_leads ?_
      refine .andThen ?_ (State.mboxTake_keeps (.refl _))
      exact h
  · refine State.writeReg_leads ?_
    exact h

theorem State.otarnRun_leads {r0 : State} {s : State} {w : OtWait} {key : List Byte} (h : r0.Leads s) : r0.Leads (s.otarnRun w key) := by
  unfold State.otarnRun
  extract_lets +onlyGivenNames v1
  clear_value v1
  extract_lets +onlyGivenNames v2
  clear_value v2
  extract_lets +onlyGivenNames v3
  extract_lets +onlyGivenNames v4
  extract_lets +onlyGivenNames v5
  have hv5 : r0.Leads v5 := by
    unfold v5
    refine .andThen ?_ (State.count_keeps (.refl _))
    refine .andThen ?_ (State.putReplay_keeps (.refl _))
    exact h
  obtain ⟨yv5, hyv5, ev5⟩ := hv5.gen
  rw [ev5]
  refine .ite ?_ ?_
  · refine .andThen ?_ (State.respond_keeps (.refl _))
    refine .andThen ?_ (State.count_keeps (.refl _))
    exact h
  · refine .ite ?_ ?_
    · refine State.regWriteThen_leads ?_
      exact hyv5
    · refine State.messageAct_leads ?_
      exact hyv5

theorem State.otarnChecked_leads {r0 : State} {s : State} {o : PkeOp} (h : r0.Leads s) : r0.Leads (s.otarnChecked o) := by
  unfold State.otarnChecked
  extract_lets +onlyGivenNames v1
  have hv1 : r0.Leads v1 := by
    unfold v1
    refine .andThen ?_ (State.otarnLose_keeps (.refl _))
    exact h
  obtain ⟨yv1, hyv1, ev1⟩ := hv1.gen
  rw [ev1]
  split
  · rename_i y2 y3
    exact h
  · rename_i y4 y5 y6
    refine .ite ?_ ?_
    · exact hyv1
    · refine .ite ?_ ?_
      · refine .andThen ?_ (State.otarnDrop_keeps (.refl _))
        exact hyv1
      · refine State.otarnRun_leads ?_
        exact hyv1

theorem State.resultRelease_leads {r0 : State} {s : State} {core : Nat} {redundantOk : Bool} (h : r0.Leads s) : r0.Leads (s.resultRelease core redundantOk) := by
  unfold State.resultRelease
  extract_lets +onlyGivenNames v1
  have hv1 : r0.Leads v1 := by
    unfold v1
    refine .andThen ?_ (State.pkeRelease_keeps (.refl _))
    exact h
  obtain ⟨yv1, hyv1, ev1⟩ := hv1.gen
  rw [ev1]
  split
  · rename_i y2 y3 y4
    refine .ite ?_ ?_
    · refine State.otarnChecked_leads ?_
      exact hyv1
    · exact hyv1
  · rename_i y5 y6
    exact hyv1

theorem State.dropRecord_keeps {r0 : State} {s : State} (h : r0.Keeps s) : r0.Keeps s.dropRecord := by
  unfold State.dropRecord
  extract_lets +onlyGivenNames v1
  clear_value v1
  extract_lets +onlyGivenNames v2
  have hv2 : r0.Keeps v2 := by
    unfold v2
    refine State.log_keeps ?_
    exact h
  obtain ⟨yv2, hyv2, ev2⟩ := hv2.gen
  rw [ev2]
  extract_lets +onlyGivenNames v3
  extract_lets +onlyGivenNames v4
  refine .ite ?_ ?_
  · exact h
  · refine .upd yv2 ?_ (⟨rfl, rfl, rfl⟩) (fun h => h) (fun h => h)
    exact hyv2

end Sys2Proof.Machine
end

