-- ==== Sys2Proof/Laws/KeepTick.lean ====
section
/-! SUPPORT. What the operations of Machine/Tick.lean keep. -/

set_option Elab.async false
set_option linter.unusedVariables false
set_option linter.unusedSimpArgs false

namespace Sys2Proof.Machine

open Sys2Proof

theorem State.slewOutputs_keeps {r0 : State} {s : State} (h : r0.Keeps s) : r0.Keeps s.slewOutputs := by
  refine .upd s h ⟨rfl, rfl, rfl⟩ (fun h => h) ?_
  rintro ⟨a, b, c, d, e, f, g⟩
  exact ⟨a, b, c, d, List.length_mapIdx.trans e, List.length_mapIdx.trans f, g⟩

theorem State.runClocks_keeps {r0 : State} {s : State} (h : r0.Keeps s) : r0.Keeps s.runClocks := by
  unfold State.runClocks
  extract_lets +onlyGivenNames v1
  extract_lets +onlyGivenNames v2
  extract_lets +onlyGivenNames v3
  refine .upd s ?_ (⟨rfl, rfl, rfl⟩) (fun h => h) (by simp only [updAt_length, putAt_length, List.length_map, List.length_mapIdx]; exact fun h => h)
  exact h

theorem State.pulseEnds_keeps {r0 : State} {s : State} (h : r0.Keeps s) : r0.Keeps s.pulseEnds := by
  unfold State.pulseEnds
  extract_lets +onlyGivenNames v1
  have hv1 : r0.Keeps v1 := by
    unfold v1
    refine .ite ?_ ?_
    · refine State.applyMute_keeps ?_
      exact h
    · exact h
  obtain ⟨yv1, hyv1, ev1⟩ := hv1.gen
  rw [ev1]
  extract_lets +onlyGivenNames v2
  refine .ite ?_ ?_
  · refine State.latchGpps_keeps ?_
    refine .upd yv1 ?_ (⟨rfl, rfl, rfl⟩) (fun h => h) (fun h => h)
    exact hyv1
  · exact hyv1

/-- One cycle of CLK_TIME: the time is the next, and all else that the laws speak of is kept. -/
theorem State.tick_keeps (s : State) : State.Keeps { s with now := s.now + 1 } s.tick := by
  unfold State.tick
  extract_lets s1 edge _ tb
  clear_value edge
  exact .ite (.refl _) (State.redoPlacement_keeps (State.pulseEnds_keeps (State.runClocks_keeps (State.slewOutputs_keeps
    (.upd s1 (.refl _) ⟨rfl, rfl, rfl⟩ (fun h => h) (fun h => h))))))

end Sys2Proof.Machine
end

