-- ==== Sys2Proof/Laws/State.lean ====
section
/-! SUPPORT. What each update of one part of the state leaves of every other part: one lemma for each field of each update. -/

set_option Elab.async false

namespace Sys2Proof.Machine

open Sys2Proof

@[simp] theorem State.countN_now (s : State) (off n : Nat) : (s.countN off n).now = s.now := rfl
@[simp] theorem State.countN_fresh (s : State) (off n : Nat) : (s.countN off n).fresh = s.fresh := rfl
@[simp] theorem State.countN_stg (s : State) (off n : Nat) : (s.countN off n).stg = s.stg := rfl
@[simp] theorem State.countN_act (s : State) (off n : Nat) : (s.countN off n).act = s.act := rfl
@[simp] theorem State.countN_ctr (s : State) (off n : Nat) : (s.countN off n).ctr = Assoc.putD 0 off (ctrAdd (s.ctrAt off) n) s.ctr := rfl
@[simp] theorem State.countN_cmts (s : State) (off n : Nat) : (s.countN off n).cmts = s.cmts := rfl
@[simp] theorem State.countN_glb (s : State) (off n : Nat) : (s.countN off n).glb = s.glb := rfl
@[simp] theorem State.countN_md (s : State) (off n : Nat) : (s.countN off n).md = s.md := rfl
@[simp] theorem State.countN_tb (s : State) (off n : Nat) : (s.countN off n).tb = s.tb := rfl
@[simp] theorem State.countN_tac (s : State) (off n : Nat) : (s.countN off n).tac = s.tac := rfl
@[simp] theorem State.countN_tin (s : State) (off n : Nat) : (s.countN off n).tin = s.tin := rfl
@[simp] theorem State.countN_ref (s : State) (off n : Nat) : (s.countN off n).ref = s.ref := rfl
@[simp] theorem State.countN_srv (s : State) (off n : Nat) : (s.countN off n).srv = s.srv := rfl
@[simp] theorem State.countN_out (s : State) (off n : Nat) : (s.countN off n).out = s.out := rfl
@[simp] theorem State.countN_gns (s : State) (off n : Nat) : (s.countN off n).gns = s.gns := rfl
@[simp] theorem State.countN_ports (s : State) (off n : Nat) : (s.countN off n).ports = s.ports := rfl
@[simp] theorem State.countN_wv (s : State) (off n : Nat) : (s.countN off n).wv = s.wv := rfl
@[simp] theorem State.countN_ptp (s : State) (off n : Nat) : (s.countN off n).ptp = s.ptp := rfl
@[simp] theorem State.countN_hif (s : State) (off n : Nat) : (s.countN off n).hif = s.hif := rfl
@[simp] theorem State.countN_pke (s : State) (off n : Nat) : (s.countN off n).pke = s.pke := rfl
@[simp] theorem State.countN_fmu (s : State) (off n : Nat) : (s.countN off n).fmu = s.fmu := rfl
@[simp] theorem State.countN_mgt (s : State) (off n : Nat) : (s.countN off n).mgt = s.mgt := rfl
@[simp] theorem State.countN_pmc (s : State) (off n : Nat) : (s.countN off n).pmc = s.pmc := rfl
@[simp] theorem State.countN_cfg (s : State) (off n : Nat) : (s.countN off n).cfg = s.cfg := rfl
@[simp] theorem State.countN_fe (s : State) (off n : Nat) : (s.countN off n).fe = s.fe := rfl
@[simp] theorem State.countN_lat (s : State) (off n : Nat) : (s.countN off n).lat = s.lat := rfl
@[simp] theorem State.countN_userRead (s : State) (off n : Nat) : (s.countN off n).userRead = s.userRead := rfl
@[simp] theorem State.countN_jtag (s : State) (off n : Nat) : (s.countN off n).jtag = s.jtag := rfl
@[simp] theorem State.countN_pending (s : State) (off n : Nat) : (s.countN off n).pending = s.pending := rfl

@[simp] theorem State.count_now (s : State) (off : Nat) : (s.count off).now = s.now := rfl
@[simp] theorem State.count_fresh (s : State) (off : Nat) : (s.count off).fresh = s.fresh := rfl
@[simp] theorem State.count_stg (s : State) (off : Nat) : (s.count off).stg = s.stg := rfl
@[simp] theorem State.count_act (s : State) (off : Nat) : (s.count off).act = s.act := rfl
@[simp] theorem State.count_ctr (s : State) (off : Nat) : (s.count off).ctr = Assoc.putD 0 off (ctrAdd (s.ctrAt off) 1) s.ctr := rfl
@[simp] theorem State.count_cmts (s : State) (off : Nat) : (s.count off).cmts = s.cmts := rfl
@[simp] theorem State.count_glb (s : State) (off : Nat) : (s.count off).glb = s.glb := rfl
@[simp] theorem State.count_md (s : State) (off : Nat) : (s.count off).md = s.md := rfl
@[simp] theorem State.count_tb (s : State) (off : Nat) : (s.count off).tb = s.tb := rfl
@[simp] theorem State.count_tac (s : State) (off : Nat) : (s.count off).tac = s.tac := rfl
@[simp] theorem State.count_tin (s : State) (off : Nat) : (s.count off).tin = s.tin := rfl
@[simp] theorem State.count_ref (s : State) (off : Nat) : (s.count off).ref = s.ref := rfl
@[simp] theorem State.count_srv (s : State) (off : Nat) : (s.count off).srv = s.srv := rfl
@[simp] theorem State.count_out (s : State) (off : Nat) : (s.count off).out = s.out := rfl
@[simp] theorem State.count_gns (s : State) (off : Nat) : (s.count off).gns = s.gns := rfl
@[simp] theorem State.count_ports (s : State) (off : Nat) : (s.count off).ports = s.ports := rfl
@[simp] theorem State.count_wv (s : State) (off : Nat) : (s.count off).wv = s.wv := rfl
@[simp] theorem State.count_ptp (s : State) (off : Nat) : (s.count off).ptp = s.ptp := rfl
@[simp] theorem State.count_hif (s : State) (off : Nat) : (s.count off).hif = s.hif := rfl
@[simp] theorem State.count_pke (s : State) (off : Nat) : (s.count off).pke = s.pke := rfl
@[simp] theorem State.count_fmu (s : State) (off : Nat) : (s.count off).fmu = s.fmu := rfl
@[simp] theorem State.count_mgt (s : State) (off : Nat) : (s.count off).mgt = s.mgt := rfl
@[simp] theorem State.count_pmc (s : State) (off : Nat) : (s.count off).pmc = s.pmc := rfl
@[simp] theorem State.count_cfg (s : State) (off : Nat) : (s.count off).cfg = s.cfg := rfl
@[simp] theorem State.count_fe (s : State) (off : Nat) : (s.count off).fe = s.fe := rfl
@[simp] theorem State.count_lat (s : State) (off : Nat) : (s.count off).lat = s.lat := rfl
@[simp] theorem State.count_userRead (s : State) (off : Nat) : (s.count off).userRead = s.userRead := rfl
@[simp] theorem State.count_jtag (s : State) (off : Nat) : (s.count off).jtag = s.jtag := rfl
@[simp] theorem State.count_pending (s : State) (off : Nat) : (s.count off).pending = s.pending := rfl

@[simp] theorem State.refreshLeap_now (s : State)  : s.refreshLeap.now = s.now := rfl
@[simp] theorem State.refreshLeap_fresh (s : State)  : s.refreshLeap.fresh = s.fresh := rfl
@[simp] theorem State.refreshLeap_stg (s : State)  : s.refreshLeap.stg = s.stg := rfl
@[simp] theorem State.refreshLeap_act (s : State)  : s.refreshLeap.act = s.act := rfl
@[simp] theorem State.refreshLeap_ctr (s : State)  : s.refreshLeap.ctr = s.ctr := rfl
@[simp] theorem State.refreshLeap_cmts (s : State)  : s.refreshLeap.cmts = s.cmts := rfl
@[simp] theorem State.refreshLeap_glb (s : State)  : s.refreshLeap.glb = s.glb := rfl
@[simp] theorem State.refreshLeap_md (s : State)  : s.refreshLeap.md = s.md := rfl
@[simp] theorem State.refreshLeap_tac (s : State)  : s.refreshLeap.tac = s.tac := rfl
@[simp] theorem State.refreshLeap_tin (s : State)  : s.refreshLeap.tin = s.tin := rfl
@[simp] theorem State.refreshLeap_ref (s : State)  : s.refreshLeap.ref = s.ref := rfl
@[simp] theorem State.refreshLeap_srv (s : State)  : s.refreshLeap.srv = s.srv := rfl
@[simp] theorem State.refreshLeap_out (s : State)  : s.refreshLeap.out = s.out := rfl
@[simp] theorem State.refreshLeap_gns (s : State)  : s.refreshLeap.gns = s.gns := rfl
@[simp] theorem State.refreshLeap_ports (s : State)  : s.refreshLeap.ports = s.ports := rfl
@[simp] theorem State.refreshLeap_wv (s : State)  : s.refreshLeap.wv = s.wv := rfl
@[simp] theorem State.refreshLeap_ptp (s : State)  : s.refreshLeap.ptp = s.ptp := rfl
@[simp] theorem State.refreshLeap_hif (s : State)  : s.refreshLeap.hif = s.hif := rfl
@[simp] theorem State.refreshLeap_pke (s : State)  : s.refreshLeap.pke = s.pke := rfl
@[simp] theorem State.refreshLeap_fmu (s : State)  : s.refreshLeap.fmu = s.fmu := rfl
@[simp] theorem State.refreshLeap_mgt (s : State)  : s.refreshLeap.mgt = s.mgt := rfl
@[simp] theorem State.refreshLeap_pmc (s : State)  : s.refreshLeap.pmc = s.pmc := rfl
@[simp] theorem State.refreshLeap_cfg (s : State)  : s.refreshLeap.cfg = s.cfg := rfl
@[simp] theorem State.refreshLeap_fe (s : State)  : s.refreshLeap.fe = s.fe := rfl
@[simp] theorem State.refreshLeap_lat (s : State)  : s.refreshLeap.lat = s.lat := rfl
@[simp] theorem State.refreshLeap_userRead (s : State)  : s.refreshLeap.userRead = s.userRead := rfl
@[simp] theorem State.refreshLeap_jtag (s : State)  : s.refreshLeap.jtag = s.jtag := rfl
@[simp] theorem State.refreshLeap_pending (s : State)  : s.refreshLeap.pending = s.pending := rfl

@[simp] theorem State.vecEvent_now (s : State) (v : Nat) : (s.vecEvent v).now = s.now := rfl
@[simp] theorem State.vecEvent_fresh (s : State) (v : Nat) : (s.vecEvent v).fresh = s.fresh := rfl
@[simp] theorem State.vecEvent_stg (s : State) (v : Nat) : (s.vecEvent v).stg = s.stg := rfl
@[simp] theorem State.vecEvent_act (s : State) (v : Nat) : (s.vecEvent v).act = s.act := rfl
@[simp] theorem State.vecEvent_ctr (s : State) (v : Nat) : (s.vecEvent v).ctr = s.ctr := rfl
@[simp] theorem State.vecEvent_cmts (s : State) (v : Nat) : (s.vecEvent v).cmts = s.cmts := rfl
@[simp] theorem State.vecEvent_glb (s : State) (v : Nat) : (s.vecEvent v).glb = s.glb := rfl
@[simp] theorem State.vecEvent_md (s : State) (v : Nat) : (s.vecEvent v).md = s.md := rfl
@[simp] theorem State.vecEvent_tb (s : State) (v : Nat) : (s.vecEvent v).tb = s.tb := rfl
@[simp] theorem State.vecEvent_tac (s : State) (v : Nat) : (s.vecEvent v).tac = s.tac := rfl
@[simp] theorem State.vecEvent_tin (s : State) (v : Nat) : (s.vecEvent v).tin = s.tin := rfl
@[simp] theorem State.vecEvent_ref (s : State) (v : Nat) : (s.vecEvent v).ref = s.ref := rfl
@[simp] theorem State.vecEvent_srv (s : State) (v : Nat) : (s.vecEvent v).srv = s.srv := rfl
@[simp] theorem State.vecEvent_out (s : State) (v : Nat) : (s.vecEvent v).out = s.out := rfl
@[simp] theorem State.vecEvent_gns (s : State) (v : Nat) : (s.vecEvent v).gns = s.gns := rfl
@[simp] theorem State.vecEvent_ports (s : State) (v : Nat) : (s.vecEvent v).ports = s.ports := rfl
@[simp] theorem State.vecEvent_wv (s : State) (v : Nat) : (s.vecEvent v).wv = s.wv := rfl
@[simp] theorem State.vecEvent_ptp (s : State) (v : Nat) : (s.vecEvent v).ptp = s.ptp := rfl
@[simp] theorem State.vecEvent_pke (s : State) (v : Nat) : (s.vecEvent v).pke = s.pke := rfl
@[simp] theorem State.vecEvent_fmu (s : State) (v : Nat) : (s.vecEvent v).fmu = s.fmu := rfl
@[simp] theorem State.vecEvent_mgt (s : State) (v : Nat) : (s.vecEvent v).mgt = s.mgt := rfl
@[simp] theorem State.vecEvent_pmc (s : State) (v : Nat) : (s.vecEvent v).pmc = s.pmc := rfl
@[simp] theorem State.vecEvent_cfg (s : State) (v : Nat) : (s.vecEvent v).cfg = s.cfg := rfl
@[simp] theorem State.vecEvent_fe (s : State) (v : Nat) : (s.vecEvent v).fe = s.fe := rfl
@[simp] theorem State.vecEvent_lat (s : State) (v : Nat) : (s.vecEvent v).lat = s.lat := rfl
@[simp] theorem State.vecEvent_userRead (s : State) (v : Nat) : (s.vecEvent v).userRead = s.userRead := rfl
@[simp] theorem State.vecEvent_jtag (s : State) (v : Nat) : (s.vecEvent v).jtag = s.jtag := rfl
@[simp] theorem State.vecEvent_pending (s : State) (v : Nat) : (s.vecEvent v).pending = s.pending := rfl

@[simp] theorem State.setPort_now (s : State) (n : Nat) (f : PortSt → PortSt) : (s.setPort n f).now = s.now := rfl
@[simp] theorem State.setPort_fresh (s : State) (n : Nat) (f : PortSt → PortSt) : (s.setPort n f).fresh = s.fresh := rfl
@[simp] theorem State.setPort_stg (s : State) (n : Nat) (f : PortSt → PortSt) : (s.setPort n f).stg = s.stg := rfl
@[simp] theorem State.setPort_act (s : State) (n : Nat) (f : PortSt → PortSt) : (s.setPort n f).act = s.act := rfl
@[simp] theorem State.setPort_ctr (s : State) (n : Nat) (f : PortSt → PortSt) : (s.setPort n f).ctr = s.ctr := rfl
@[simp] theorem State.setPort_cmts (s : State) (n : Nat) (f : PortSt → PortSt) : (s.setPort n f).cmts = s.cmts := rfl
@[simp] theorem State.setPort_glb (s : State) (n : Nat) (f : PortSt → PortSt) : (s.setPort n f).glb = s.glb := rfl
@[simp] theorem State.setPort_md (s : State) (n : Nat) (f : PortSt → PortSt) : (s.setPort n f).md = s.md := rfl
@[simp] theorem State.setPort_tb (s : State) (n : Nat) (f : PortSt → PortSt) : (s.setPort n f).tb = s.tb := rfl
@[simp] theorem State.setPort_tac (s : State) (n : Nat) (f : PortSt → PortSt) : (s.setPort n f).tac = s.tac := rfl
@[simp] theorem State.setPort_tin (s : State) (n : Nat) (f : PortSt → PortSt) : (s.setPort n f).tin = s.tin := rfl
@[simp] theorem State.setPort_ref (s : State) (n : Nat) (f : PortSt → PortSt) : (s.setPort n f).ref = s.ref := rfl
@[simp] theorem State.setPort_srv (s : State) (n : Nat) (f : PortSt → PortSt) : (s.setPort n f).srv = s.srv := rfl
@[simp] theorem State.setPort_out (s : State) (n : Nat) (f : PortSt → PortSt) : (s.setPort n f).out = s.out := rfl
@[simp] theorem State.setPort_gns (s : State) (n : Nat) (f : PortSt → PortSt) : (s.setPort n f).gns = s.gns := rfl
@[simp] theorem State.setPort_ports (s : State) (n : Nat) (f : PortSt → PortSt) : (s.setPort n f).ports = updAt s.ports n f := rfl
@[simp] theorem State.setPort_wv (s : State) (n : Nat) (f : PortSt → PortSt) : (s.setPort n f).wv = s.wv := rfl
@[simp] theorem State.setPort_ptp (s : State) (n : Nat) (f : PortSt → PortSt) : (s.setPort n f).ptp = s.ptp := rfl
@[simp] theorem State.setPort_hif (s : State) (n : Nat) (f : PortSt → PortSt) : (s.setPort n f).hif = s.hif := rfl
@[simp] theorem State.setPort_pke (s : State) (n : Nat) (f : PortSt → PortSt) : (s.setPort n f).pke = s.pke := rfl
@[simp] theorem State.setPort_fmu (s : State) (n : Nat) (f : PortSt → PortSt) : (s.setPort n f).fmu = s.fmu := rfl
@[simp] theorem State.setPort_mgt (s : State) (n : Nat) (f : PortSt → PortSt) : (s.setPort n f).mgt = s.mgt := rfl
@[simp] theorem State.setPort_pmc (s : State) (n : Nat) (f : PortSt → PortSt) : (s.setPort n f).pmc = s.pmc := rfl
@[simp] theorem State.setPort_cfg (s : State) (n : Nat) (f : PortSt → PortSt) : (s.setPort n f).cfg = s.cfg := rfl
@[simp] theorem State.setPort_fe (s : State) (n : Nat) (f : PortSt → PortSt) : (s.setPort n f).fe = s.fe := rfl
@[simp] theorem State.setPort_lat (s : State) (n : Nat) (f : PortSt → PortSt) : (s.setPort n f).lat = s.lat := rfl
@[simp] theorem State.setPort_userRead (s : State) (n : Nat) (f : PortSt → PortSt) : (s.setPort n f).userRead = s.userRead := rfl
@[simp] theorem State.setPort_jtag (s : State) (n : Nat) (f : PortSt → PortSt) : (s.setPort n f).jtag = s.jtag := rfl
@[simp] theorem State.setPort_pending (s : State) (n : Nat) (f : PortSt → PortSt) : (s.setPort n f).pending = s.pending := rfl

@[simp] theorem State.setRef_now (s : State) (n : Nat) (f : RefSt → RefSt) : (s.setRef n f).now = s.now := rfl
@[simp] theorem State.setRef_fresh (s : State) (n : Nat) (f : RefSt → RefSt) : (s.setRef n f).fresh = s.fresh := rfl
@[simp] theorem State.setRef_stg (s : State) (n : Nat) (f : RefSt → RefSt) : (s.setRef n f).stg = s.stg := rfl
@[simp] theorem State.setRef_act (s : State) (n : Nat) (f : RefSt → RefSt) : (s.setRef n f).act = s.act := rfl
@[simp] theorem State.setRef_ctr (s : State) (n : Nat) (f : RefSt → RefSt) : (s.setRef n f).ctr = s.ctr := rfl
@[simp] theorem State.setRef_cmts (s : State) (n : Nat) (f : RefSt → RefSt) : (s.setRef n f).cmts = s.cmts := rfl
@[simp] theorem State.setRef_glb (s : State) (n : Nat) (f : RefSt → RefSt) : (s.setRef n f).glb = s.glb := rfl
@[simp] theorem State.setRef_md (s : State) (n : Nat) (f : RefSt → RefSt) : (s.setRef n f).md = s.md := rfl
@[simp] theorem State.setRef_tb (s : State) (n : Nat) (f : RefSt → RefSt) : (s.setRef n f).tb = s.tb := rfl
@[simp] theorem State.setRef_tac (s : State) (n : Nat) (f : RefSt → RefSt) : (s.setRef n f).tac = s.tac := rfl
@[simp] theorem State.setRef_tin (s : State) (n : Nat) (f : RefSt → RefSt) : (s.setRef n f).tin = s.tin := rfl
@[simp] theorem State.setRef_ref (s : State) (n : Nat) (f : RefSt → RefSt) : (s.setRef n f).ref = { s.ref with refs := updAt s.ref.refs n f } := rfl
@[simp] theorem State.setRef_srv (s : State) (n : Nat) (f : RefSt → RefSt) : (s.setRef n f).srv = s.srv := rfl
@[simp] theorem State.setRef_out (s : State) (n : Nat) (f : RefSt → RefSt) : (s.setRef n f).out = s.out := rfl
@[simp] theorem State.setRef_gns (s : State) (n : Nat) (f : RefSt → RefSt) : (s.setRef n f).gns = s.gns := rfl
@[simp] theorem State.setRef_ports (s : State) (n : Nat) (f : RefSt → RefSt) : (s.setRef n f).ports = s.ports := rfl
@[simp] theorem State.setRef_wv (s : State) (n : Nat) (f : RefSt → RefSt) : (s.setRef n f).wv = s.wv := rfl
@[simp] theorem State.setRef_ptp (s : State) (n : Nat) (f : RefSt → RefSt) : (s.setRef n f).ptp = s.ptp := rfl
@[simp] theorem State.setRef_hif (s : State) (n : Nat) (f : RefSt → RefSt) : (s.setRef n f).hif = s.hif := rfl
@[simp] theorem State.setRef_pke (s : State) (n : Nat) (f : RefSt → RefSt) : (s.setRef n f).pke = s.pke := rfl
@[simp] theorem State.setRef_fmu (s : State) (n : Nat) (f : RefSt → RefSt) : (s.setRef n f).fmu = s.fmu := rfl
@[simp] theorem State.setRef_mgt (s : State) (n : Nat) (f : RefSt → RefSt) : (s.setRef n f).mgt = s.mgt := rfl
@[simp] theorem State.setRef_pmc (s : State) (n : Nat) (f : RefSt → RefSt) : (s.setRef n f).pmc = s.pmc := rfl
@[simp] theorem State.setRef_cfg (s : State) (n : Nat) (f : RefSt → RefSt) : (s.setRef n f).cfg = s.cfg := rfl
@[simp] theorem State.setRef_fe (s : State) (n : Nat) (f : RefSt → RefSt) : (s.setRef n f).fe = s.fe := rfl
@[simp] theorem State.setRef_lat (s : State) (n : Nat) (f : RefSt → RefSt) : (s.setRef n f).lat = s.lat := rfl
@[simp] theorem State.setRef_userRead (s : State) (n : Nat) (f : RefSt → RefSt) : (s.setRef n f).userRead = s.userRead := rfl
@[simp] theorem State.setRef_jtag (s : State) (n : Nat) (f : RefSt → RefSt) : (s.setRef n f).jtag = s.jtag := rfl
@[simp] theorem State.setRef_pending (s : State) (n : Nat) (f : RefSt → RefSt) : (s.setRef n f).pending = s.pending := rfl

@[simp] theorem State.setCmt_now (s : State) (b : CmtBlk) (c : CmtSt) : (s.setCmt b c).now = s.now := rfl
@[simp] theorem State.setCmt_fresh (s : State) (b : CmtBlk) (c : CmtSt) : (s.setCmt b c).fresh = s.fresh := rfl
@[simp] theorem State.setCmt_stg (s : State) (b : CmtBlk) (c : CmtSt) : (s.setCmt b c).stg = s.stg := rfl
@[simp] theorem State.setCmt_act (s : State) (b : CmtBlk) (c : CmtSt) : (s.setCmt b c).act = s.act := rfl
@[simp] theorem State.setCmt_ctr (s : State) (b : CmtBlk) (c : CmtSt) : (s.setCmt b c).ctr = s.ctr := rfl
@[simp] theorem State.setCmt_cmts (s : State) (b : CmtBlk) (c : CmtSt) : (s.setCmt b c).cmts = Assoc.putD CmtSt.reset (cmtKey b) c s.cmts := rfl
@[simp] theorem State.setCmt_glb (s : State) (b : CmtBlk) (c : CmtSt) : (s.setCmt b c).glb = s.glb := rfl
@[simp] theorem State.setCmt_md (s : State) (b : CmtBlk) (c : CmtSt) : (s.setCmt b c).md = s.md := rfl
@[simp] theorem State.setCmt_tb (s : State) (b : CmtBlk) (c : CmtSt) : (s.setCmt b c).tb = s.tb := rfl
@[simp] theorem State.setCmt_tac (s : State) (b : CmtBlk) (c : CmtSt) : (s.setCmt b c).tac = s.tac := rfl
@[simp] theorem State.setCmt_tin (s : State) (b : CmtBlk) (c : CmtSt) : (s.setCmt b c).tin = s.tin := rfl
@[simp] theorem State.setCmt_ref (s : State) (b : CmtBlk) (c : CmtSt) : (s.setCmt b c).ref = s.ref := rfl
@[simp] theorem State.setCmt_srv (s : State) (b : CmtBlk) (c : CmtSt) : (s.setCmt b c).srv = s.srv := rfl
@[simp] theorem State.setCmt_out (s : State) (b : CmtBlk) (c : CmtSt) : (s.setCmt b c).out = s.out := rfl
@[simp] theorem State.setCmt_gns (s : State) (b : CmtBlk) (c : CmtSt) : (s.setCmt b c).gns = s.gns := rfl
@[simp] theorem State.setCmt_ports (s : State) (b : CmtBlk) (c : CmtSt) : (s.setCmt b c).ports = s.ports := rfl
@[simp] theorem State.setCmt_wv (s : State) (b : CmtBlk) (c : CmtSt) : (s.setCmt b c).wv = s.wv := rfl
@[simp] theorem State.setCmt_ptp (s : State) (b : CmtBlk) (c : CmtSt) : (s.setCmt b c).ptp = s.ptp := rfl
@[simp] theorem State.setCmt_hif (s : State) (b : CmtBlk) (c : CmtSt) : (s.setCmt b c).hif = s.hif := rfl
@[simp] theorem State.setCmt_pke (s : State) (b : CmtBlk) (c : CmtSt) : (s.setCmt b c).pke = s.pke := rfl
@[simp] theorem State.setCmt_fmu (s : State) (b : CmtBlk) (c : CmtSt) : (s.setCmt b c).fmu = s.fmu := rfl
@[simp] theorem State.setCmt_mgt (s : State) (b : CmtBlk) (c : CmtSt) : (s.setCmt b c).mgt = s.mgt := rfl
@[simp] theorem State.setCmt_pmc (s : State) (b : CmtBlk) (c : CmtSt) : (s.setCmt b c).pmc = s.pmc := rfl
@[simp] theorem State.setCmt_cfg (s : State) (b : CmtBlk) (c : CmtSt) : (s.setCmt b c).cfg = s.cfg := rfl
@[simp] theorem State.setCmt_fe (s : State) (b : CmtBlk) (c : CmtSt) : (s.setCmt b c).fe = s.fe := rfl
@[simp] theorem State.setCmt_lat (s : State) (b : CmtBlk) (c : CmtSt) : (s.setCmt b c).lat = s.lat := rfl
@[simp] theorem State.setCmt_userRead (s : State) (b : CmtBlk) (c : CmtSt) : (s.setCmt b c).userRead = s.userRead := rfl
@[simp] theorem State.setCmt_jtag (s : State) (b : CmtBlk) (c : CmtSt) : (s.setCmt b c).jtag = s.jtag := rfl
@[simp] theorem State.setCmt_pending (s : State) (b : CmtBlk) (c : CmtSt) : (s.setCmt b c).pending = s.pending := rfl

@[simp] theorem State.setLat_now (s : State) (p : Path) (f : Latches → Latches) : (s.setLat p f).now = s.now := rfl
@[simp] theorem State.setLat_fresh (s : State) (p : Path) (f : Latches → Latches) : (s.setLat p f).fresh = s.fresh := rfl
@[simp] theorem State.setLat_stg (s : State) (p : Path) (f : Latches → Latches) : (s.setLat p f).stg = s.stg := rfl
@[simp] theorem State.setLat_act (s : State) (p : Path) (f : Latches → Latches) : (s.setLat p f).act = s.act := rfl
@[simp] theorem State.setLat_ctr (s : State) (p : Path) (f : Latches → Latches) : (s.setLat p f).ctr = s.ctr := rfl
@[simp] theorem State.setLat_cmts (s : State) (p : Path) (f : Latches → Latches) : (s.setLat p f).cmts = s.cmts := rfl
@[simp] theorem State.setLat_glb (s : State) (p : Path) (f : Latches → Latches) : (s.setLat p f).glb = s.glb := rfl
@[simp] theorem State.setLat_md (s : State) (p : Path) (f : Latches → Latches) : (s.setLat p f).md = s.md := rfl
@[simp] theorem State.setLat_tb (s : State) (p : Path) (f : Latches → Latches) : (s.setLat p f).tb = s.tb := rfl
@[simp] theorem State.setLat_tac (s : State) (p : Path) (f : Latches → Latches) : (s.setLat p f).tac = s.tac := rfl
@[simp] theorem State.setLat_tin (s : State) (p : Path) (f : Latches → Latches) : (s.setLat p f).tin = s.tin := rfl
@[simp] theorem State.setLat_ref (s : State) (p : Path) (f : Latches → Latches) : (s.setLat p f).ref = s.ref := rfl
@[simp] theorem State.setLat_srv (s : State) (p : Path) (f : Latches → Latches) : (s.setLat p f).srv = s.srv := rfl
@[simp] theorem State.setLat_out (s : State) (p : Path) (f : Latches → Latches) : (s.setLat p f).out = s.out := rfl
@[simp] theorem State.setLat_gns (s : State) (p : Path) (f : Latches → Latches) : (s.setLat p f).gns = s.gns := rfl
@[simp] theorem State.setLat_ports (s : State) (p : Path) (f : Latches → Latches) : (s.setLat p f).ports = s.ports := rfl
@[simp] theorem State.setLat_wv (s : State) (p : Path) (f : Latches → Latches) : (s.setLat p f).wv = s.wv := rfl
@[simp] theorem State.setLat_ptp (s : State) (p : Path) (f : Latches → Latches) : (s.setLat p f).ptp = s.ptp := rfl
@[simp] theorem State.setLat_hif (s : State) (p : Path) (f : Latches → Latches) : (s.setLat p f).hif = s.hif := rfl
@[simp] theorem State.setLat_pke (s : State) (p : Path) (f : Latches → Latches) : (s.setLat p f).pke = s.pke := rfl
@[simp] theorem State.setLat_fmu (s : State) (p : Path) (f : Latches → Latches) : (s.setLat p f).fmu = s.fmu := rfl
@[simp] theorem State.setLat_mgt (s : State) (p : Path) (f : Latches → Latches) : (s.setLat p f).mgt = s.mgt := rfl
@[simp] theorem State.setLat_pmc (s : State) (p : Path) (f : Latches → Latches) : (s.setLat p f).pmc = s.pmc := rfl
@[simp] theorem State.setLat_cfg (s : State) (p : Path) (f : Latches → Latches) : (s.setLat p f).cfg = s.cfg := rfl
@[simp] theorem State.setLat_fe (s : State) (p : Path) (f : Latches → Latches) : (s.setLat p f).fe = s.fe := rfl
@[simp] theorem State.setLat_lat (s : State) (p : Path) (f : Latches → Latches) : (s.setLat p f).lat = updAt s.lat (pathIx p) f := rfl
@[simp] theorem State.setLat_userRead (s : State) (p : Path) (f : Latches → Latches) : (s.setLat p f).userRead = s.userRead := rfl
@[simp] theorem State.setLat_jtag (s : State) (p : Path) (f : Latches → Latches) : (s.setLat p f).jtag = s.jtag := rfl
@[simp] theorem State.setLat_pending (s : State) (p : Path) (f : Latches → Latches) : (s.setLat p f).pending = s.pending := rfl

@[simp] theorem State.setBw_now (s : State) (n : Nat) (f : BwSt → BwSt) : (s.setBw n f).now = s.now := rfl
@[simp] theorem State.setBw_fresh (s : State) (n : Nat) (f : BwSt → BwSt) : (s.setBw n f).fresh = s.fresh := rfl
@[simp] theorem State.setBw_stg (s : State) (n : Nat) (f : BwSt → BwSt) : (s.setBw n f).stg = s.stg := rfl
@[simp] theorem State.setBw_act (s : State) (n : Nat) (f : BwSt → BwSt) : (s.setBw n f).act = s.act := rfl
@[simp] theorem State.setBw_ctr (s : State) (n : Nat) (f : BwSt → BwSt) : (s.setBw n f).ctr = s.ctr := rfl
@[simp] theorem State.setBw_cmts (s : State) (n : Nat) (f : BwSt → BwSt) : (s.setBw n f).cmts = s.cmts := rfl
@[simp] theorem State.setBw_glb (s : State) (n : Nat) (f : BwSt → BwSt) : (s.setBw n f).glb = s.glb := rfl
@[simp] theorem State.setBw_md (s : State) (n : Nat) (f : BwSt → BwSt) : (s.setBw n f).md = s.md := rfl
@[simp] theorem State.setBw_tb (s : State) (n : Nat) (f : BwSt → BwSt) : (s.setBw n f).tb = s.tb := rfl
@[simp] theorem State.setBw_tac (s : State) (n : Nat) (f : BwSt → BwSt) : (s.setBw n f).tac = s.tac := rfl
@[simp] theorem State.setBw_tin (s : State) (n : Nat) (f : BwSt → BwSt) : (s.setBw n f).tin = s.tin := rfl
@[simp] theorem State.setBw_ref (s : State) (n : Nat) (f : BwSt → BwSt) : (s.setBw n f).ref = s.ref := rfl
@[simp] theorem State.setBw_srv (s : State) (n : Nat) (f : BwSt → BwSt) : (s.setBw n f).srv = s.srv := rfl
@[simp] theorem State.setBw_out (s : State) (n : Nat) (f : BwSt → BwSt) : (s.setBw n f).out = s.out := rfl
@[simp] theorem State.setBw_gns (s : State) (n : Nat) (f : BwSt → BwSt) : (s.setBw n f).gns = s.gns := rfl
@[simp] theorem State.setBw_ports (s : State) (n : Nat) (f : BwSt → BwSt) : (s.setBw n f).ports = s.ports := rfl
@[simp] theorem State.setBw_wv (s : State) (n : Nat) (f : BwSt → BwSt) : (s.setBw n f).wv = s.wv := rfl
@[simp] theorem State.setBw_ptp (s : State) (n : Nat) (f : BwSt → BwSt) : (s.setBw n f).ptp = s.ptp := rfl
@[simp] theorem State.setBw_hif (s : State) (n : Nat) (f : BwSt → BwSt) : (s.setBw n f).hif = s.hif := rfl
@[simp] theorem State.setBw_pke (s : State) (n : Nat) (f : BwSt → BwSt) : (s.setBw n f).pke = s.pke := rfl
@[simp] theorem State.setBw_fmu (s : State) (n : Nat) (f : BwSt → BwSt) : (s.setBw n f).fmu = s.fmu := rfl
@[simp] theorem State.setBw_mgt (s : State) (n : Nat) (f : BwSt → BwSt) : (s.setBw n f).mgt = s.mgt := rfl
@[simp] theorem State.setBw_pmc (s : State) (n : Nat) (f : BwSt → BwSt) : (s.setBw n f).pmc = updAt s.pmc n f := rfl
@[simp] theorem State.setBw_cfg (s : State) (n : Nat) (f : BwSt → BwSt) : (s.setBw n f).cfg = s.cfg := rfl
@[simp] theorem State.setBw_fe (s : State) (n : Nat) (f : BwSt → BwSt) : (s.setBw n f).fe = s.fe := rfl
@[simp] theorem State.setBw_lat (s : State) (n : Nat) (f : BwSt → BwSt) : (s.setBw n f).lat = s.lat := rfl
@[simp] theorem State.setBw_userRead (s : State) (n : Nat) (f : BwSt → BwSt) : (s.setBw n f).userRead = s.userRead := rfl
@[simp] theorem State.setBw_jtag (s : State) (n : Nat) (f : BwSt → BwSt) : (s.setBw n f).jtag = s.jtag := rfl
@[simp] theorem State.setBw_pending (s : State) (n : Nat) (f : BwSt → BwSt) : (s.setBw n f).pending = s.pending := rfl

@[simp] theorem State.setPps_now (s : State) (m : Nat) (f : PpsOut → PpsOut) : (s.setPps m f).now = s.now := rfl
@[simp] theorem State.setPps_fresh (s : State) (m : Nat) (f : PpsOut → PpsOut) : (s.setPps m f).fresh = s.fresh := rfl
@[simp] theorem State.setPps_stg (s : State) (m : Nat) (f : PpsOut → PpsOut) : (s.setPps m f).stg = s.stg := rfl
@[simp] theorem State.setPps_act (s : State) (m : Nat) (f : PpsOut → PpsOut) : (s.setPps m f).act = s.act := rfl
@[simp] theorem State.setPps_ctr (s : State) (m : Nat) (f : PpsOut → PpsOut) : (s.setPps m f).ctr = s.ctr := rfl
@[simp] theorem State.setPps_cmts (s : State) (m : Nat) (f : PpsOut → PpsOut) : (s.setPps m f).cmts = s.cmts := rfl
@[simp] theorem State.setPps_glb (s : State) (m : Nat) (f : PpsOut → PpsOut) : (s.setPps m f).glb = s.glb := rfl
@[simp] theorem State.setPps_md (s : State) (m : Nat) (f : PpsOut → PpsOut) : (s.setPps m f).md = s.md := rfl
@[simp] theorem State.setPps_tb (s : State) (m : Nat) (f : PpsOut → PpsOut) : (s.setPps m f).tb = s.tb := rfl
@[simp] theorem State.setPps_tac (s : State) (m : Nat) (f : PpsOut → PpsOut) : (s.setPps m f).tac = s.tac := rfl
@[simp] theorem State.setPps_tin (s : State) (m : Nat) (f : PpsOut → PpsOut) : (s.setPps m f).tin = s.tin := rfl
@[simp] theorem State.setPps_ref (s : State) (m : Nat) (f : PpsOut → PpsOut) : (s.setPps m f).ref = s.ref := rfl
@[simp] theorem State.setPps_srv (s : State) (m : Nat) (f : PpsOut → PpsOut) : (s.setPps m f).srv = s.srv := rfl
@[simp] theorem State.setPps_out (s : State) (m : Nat) (f : PpsOut → PpsOut) : (s.setPps m f).out = { s.out with pps := updAt s.out.pps m f } := rfl
@[simp] theorem State.setPps_gns (s : State) (m : Nat) (f : PpsOut → PpsOut) : (s.setPps m f).gns = s.gns := rfl
@[simp] theorem State.setPps_ports (s : State) (m : Nat) (f : PpsOut → PpsOut) : (s.setPps m f).ports = s.ports := rfl
@[simp] theorem State.setPps_wv (s : State) (m : Nat) (f : PpsOut → PpsOut) : (s.setPps m f).wv = s.wv := rfl
@[simp] theorem State.setPps_ptp (s : State) (m : Nat) (f : PpsOut → PpsOut) : (s.setPps m f).ptp = s.ptp := rfl
@[simp] theorem State.setPps_hif (s : State) (m : Nat) (f : PpsOut → PpsOut) : (s.setPps m f).hif = s.hif := rfl
@[simp] theorem State.setPps_pke (s : State) (m : Nat) (f : PpsOut → PpsOut) : (s.setPps m f).pke = s.pke := rfl
@[simp] theorem State.setPps_fmu (s : State) (m : Nat) (f : PpsOut → PpsOut) : (s.setPps m f).fmu = s.fmu := rfl
@[simp] theorem State.setPps_mgt (s : State) (m : Nat) (f : PpsOut → PpsOut) : (s.setPps m f).mgt = s.mgt := rfl
@[simp] theorem State.setPps_pmc (s : State) (m : Nat) (f : PpsOut → PpsOut) : (s.setPps m f).pmc = s.pmc := rfl
@[simp] theorem State.setPps_cfg (s : State) (m : Nat) (f : PpsOut → PpsOut) : (s.setPps m f).cfg = s.cfg := rfl
@[simp] theorem State.setPps_fe (s : State) (m : Nat) (f : PpsOut → PpsOut) : (s.setPps m f).fe = s.fe := rfl
@[simp] theorem State.setPps_lat (s : State) (m : Nat) (f : PpsOut → PpsOut) : (s.setPps m f).lat = s.lat := rfl
@[simp] theorem State.setPps_userRead (s : State) (m : Nat) (f : PpsOut → PpsOut) : (s.setPps m f).userRead = s.userRead := rfl
@[simp] theorem State.setPps_jtag (s : State) (m : Nat) (f : PpsOut → PpsOut) : (s.setPps m f).jtag = s.jtag := rfl
@[simp] theorem State.setPps_pending (s : State) (m : Nat) (f : PpsOut → PpsOut) : (s.setPps m f).pending = s.pending := rfl

@[simp] theorem State.setClk_now (s : State) (n : Nat) (f : ClkOut → ClkOut) : (s.setClk n f).now = s.now := rfl
@[simp] theorem State.setClk_fresh (s : State) (n : Nat) (f : ClkOut → ClkOut) : (s.setClk n f).fresh = s.fresh := rfl
@[simp] theorem State.setClk_stg (s : State) (n : Nat) (f : ClkOut → ClkOut) : (s.setClk n f).stg = s.stg := rfl
@[simp] theorem State.setClk_act (s : State) (n : Nat) (f : ClkOut → ClkOut) : (s.setClk n f).act = s.act := rfl
@[simp] theorem State.setClk_ctr (s : State) (n : Nat) (f : ClkOut → ClkOut) : (s.setClk n f).ctr = s.ctr := rfl
@[simp] theorem State.setClk_cmts (s : State) (n : Nat) (f : ClkOut → ClkOut) : (s.setClk n f).cmts = s.cmts := rfl
@[simp] theorem State.setClk_glb (s : State) (n : Nat) (f : ClkOut → ClkOut) : (s.setClk n f).glb = s.glb := rfl
@[simp] theorem State.setClk_md (s : State) (n : Nat) (f : ClkOut → ClkOut) : (s.setClk n f).md = s.md := rfl
@[simp] theorem State.setClk_tb (s : State) (n : Nat) (f : ClkOut → ClkOut) : (s.setClk n f).tb = s.tb := rfl
@[simp] theorem State.setClk_tac (s : State) (n : Nat) (f : ClkOut → ClkOut) : (s.setClk n f).tac = s.tac := rfl
@[simp] theorem State.setClk_tin (s : State) (n : Nat) (f : ClkOut → ClkOut) : (s.setClk n f).tin = s.tin := rfl
@[simp] theorem State.setClk_ref (s : State) (n : Nat) (f : ClkOut → ClkOut) : (s.setClk n f).ref = s.ref := rfl
@[simp] theorem State.setClk_srv (s : State) (n : Nat) (f : ClkOut → ClkOut) : (s.setClk n f).srv = s.srv := rfl
@[simp] theorem State.setClk_out (s : State) (n : Nat) (f : ClkOut → ClkOut) : (s.setClk n f).out = { s.out with clks := updAt s.out.clks n f } := rfl
@[simp] theorem State.setClk_gns (s : State) (n : Nat) (f : ClkOut → ClkOut) : (s.setClk n f).gns = s.gns := rfl
@[simp] theorem State.setClk_ports (s : State) (n : Nat) (f : ClkOut → ClkOut) : (s.setClk n f).ports = s.ports := rfl
@[simp] theorem State.setClk_wv (s : State) (n : Nat) (f : ClkOut → ClkOut) : (s.setClk n f).wv = s.wv := rfl
@[simp] theorem State.setClk_ptp (s : State) (n : Nat) (f : ClkOut → ClkOut) : (s.setClk n f).ptp = s.ptp := rfl
@[simp] theorem State.setClk_hif (s : State) (n : Nat) (f : ClkOut → ClkOut) : (s.setClk n f).hif = s.hif := rfl
@[simp] theorem State.setClk_pke (s : State) (n : Nat) (f : ClkOut → ClkOut) : (s.setClk n f).pke = s.pke := rfl
@[simp] theorem State.setClk_fmu (s : State) (n : Nat) (f : ClkOut → ClkOut) : (s.setClk n f).fmu = s.fmu := rfl
@[simp] theorem State.setClk_mgt (s : State) (n : Nat) (f : ClkOut → ClkOut) : (s.setClk n f).mgt = s.mgt := rfl
@[simp] theorem State.setClk_pmc (s : State) (n : Nat) (f : ClkOut → ClkOut) : (s.setClk n f).pmc = s.pmc := rfl
@[simp] theorem State.setClk_cfg (s : State) (n : Nat) (f : ClkOut → ClkOut) : (s.setClk n f).cfg = s.cfg := rfl
@[simp] theorem State.setClk_fe (s : State) (n : Nat) (f : ClkOut → ClkOut) : (s.setClk n f).fe = s.fe := rfl
@[simp] theorem State.setClk_lat (s : State) (n : Nat) (f : ClkOut → ClkOut) : (s.setClk n f).lat = s.lat := rfl
@[simp] theorem State.setClk_userRead (s : State) (n : Nat) (f : ClkOut → ClkOut) : (s.setClk n f).userRead = s.userRead := rfl
@[simp] theorem State.setClk_jtag (s : State) (n : Nat) (f : ClkOut → ClkOut) : (s.setClk n f).jtag = s.jtag := rfl
@[simp] theorem State.setClk_pending (s : State) (n : Nat) (f : ClkOut → ClkOut) : (s.setClk n f).pending = s.pending := rfl

@[simp] theorem State.setTin_now (s : State) (n : Nat) (f : TinIn → TinIn) : (s.setTin n f).now = s.now := rfl
@[simp] theorem State.setTin_fresh (s : State) (n : Nat) (f : TinIn → TinIn) : (s.setTin n f).fresh = s.fresh := rfl
@[simp] theorem State.setTin_stg (s : State) (n : Nat) (f : TinIn → TinIn) : (s.setTin n f).stg = s.stg := rfl
@[simp] theorem State.setTin_act (s : State) (n : Nat) (f : TinIn → TinIn) : (s.setTin n f).act = s.act := rfl
@[simp] theorem State.setTin_ctr (s : State) (n : Nat) (f : TinIn → TinIn) : (s.setTin n f).ctr = s.ctr := rfl
@[simp] theorem State.setTin_cmts (s : State) (n : Nat) (f : TinIn → TinIn) : (s.setTin n f).cmts = s.cmts := rfl
@[simp] theorem State.setTin_glb (s : State) (n : Nat) (f : TinIn → TinIn) : (s.setTin n f).glb = s.glb := rfl
@[simp] theorem State.setTin_md (s : State) (n : Nat) (f : TinIn → TinIn) : (s.setTin n f).md = s.md := rfl
@[simp] theorem State.setTin_tb (s : State) (n : Nat) (f : TinIn → TinIn) : (s.setTin n f).tb = s.tb := rfl
@[simp] theorem State.setTin_tac (s : State) (n : Nat) (f : TinIn → TinIn) : (s.setTin n f).tac = s.tac := rfl
@[simp] theorem State.setTin_ref (s : State) (n : Nat) (f : TinIn → TinIn) : (s.setTin n f).ref = s.ref := rfl
@[simp] theorem State.setTin_srv (s : State) (n : Nat) (f : TinIn → TinIn) : (s.setTin n f).srv = s.srv := rfl
@[simp] theorem State.setTin_out (s : State) (n : Nat) (f : TinIn → TinIn) : (s.setTin n f).out = s.out := rfl
@[simp] theorem State.setTin_gns (s : State) (n : Nat) (f : TinIn → TinIn) : (s.setTin n f).gns = s.gns := rfl
@[simp] theorem State.setTin_ports (s : State) (n : Nat) (f : TinIn → TinIn) : (s.setTin n f).ports = s.ports := rfl
@[simp] theorem State.setTin_wv (s : State) (n : Nat) (f : TinIn → TinIn) : (s.setTin n f).wv = s.wv := rfl
@[simp] theorem State.setTin_ptp (s : State) (n : Nat) (f : TinIn → TinIn) : (s.setTin n f).ptp = s.ptp := rfl
@[simp] theorem State.setTin_hif (s : State) (n : Nat) (f : TinIn → TinIn) : (s.setTin n f).hif = s.hif := rfl
@[simp] theorem State.setTin_pke (s : State) (n : Nat) (f : TinIn → TinIn) : (s.setTin n f).pke = s.pke := rfl
@[simp] theorem State.setTin_fmu (s : State) (n : Nat) (f : TinIn → TinIn) : (s.setTin n f).fmu = s.fmu := rfl
@[simp] theorem State.setTin_mgt (s : State) (n : Nat) (f : TinIn → TinIn) : (s.setTin n f).mgt = s.mgt := rfl
@[simp] theorem State.setTin_pmc (s : State) (n : Nat) (f : TinIn → TinIn) : (s.setTin n f).pmc = s.pmc := rfl
@[simp] theorem State.setTin_cfg (s : State) (n : Nat) (f : TinIn → TinIn) : (s.setTin n f).cfg = s.cfg := rfl
@[simp] theorem State.setTin_fe (s : State) (n : Nat) (f : TinIn → TinIn) : (s.setTin n f).fe = s.fe := rfl
@[simp] theorem State.setTin_lat (s : State) (n : Nat) (f : TinIn → TinIn) : (s.setTin n f).lat = s.lat := rfl
@[simp] theorem State.setTin_userRead (s : State) (n : Nat) (f : TinIn → TinIn) : (s.setTin n f).userRead = s.userRead := rfl
@[simp] theorem State.setTin_jtag (s : State) (n : Nat) (f : TinIn → TinIn) : (s.setTin n f).jtag = s.jtag := rfl
@[simp] theorem State.setTin_pending (s : State) (n : Nat) (f : TinIn → TinIn) : (s.setTin n f).pending = s.pending := rfl

@[simp] theorem State.setRdr_now (s : State) (r : Reader) : (s.setRdr r).now = s.now := rfl
@[simp] theorem State.setRdr_fresh (s : State) (r : Reader) : (s.setRdr r).fresh = s.fresh := rfl
@[simp] theorem State.setRdr_stg (s : State) (r : Reader) : (s.setRdr r).stg = s.stg := rfl
@[simp] theorem State.setRdr_act (s : State) (r : Reader) : (s.setRdr r).act = s.act := rfl
@[simp] theorem State.setRdr_ctr (s : State) (r : Reader) : (s.setRdr r).ctr = s.ctr := rfl
@[simp] theorem State.setRdr_cmts (s : State) (r : Reader) : (s.setRdr r).cmts = s.cmts := rfl
@[simp] theorem State.setRdr_glb (s : State) (r : Reader) : (s.setRdr r).glb = s.glb := rfl
@[simp] theorem State.setRdr_md (s : State) (r : Reader) : (s.setRdr r).md = s.md := rfl
@[simp] theorem State.setRdr_tb (s : State) (r : Reader) : (s.setRdr r).tb = s.tb := rfl
@[simp] theorem State.setRdr_tac (s : State) (r : Reader) : (s.setRdr r).tac = s.tac := rfl
@[simp] theorem State.setRdr_tin (s : State) (r : Reader) : (s.setRdr r).tin = { s.tin with rdr := r } := rfl
@[simp] theorem State.setRdr_ref (s : State) (r : Reader) : (s.setRdr r).ref = s.ref := rfl
@[simp] theorem State.setRdr_srv (s : State) (r : Reader) : (s.setRdr r).srv = s.srv := rfl
@[simp] theorem State.setRdr_out (s : State) (r : Reader) : (s.setRdr r).out = s.out := rfl
@[simp] theorem State.setRdr_gns (s : State) (r : Reader) : (s.setRdr r).gns = s.gns := rfl
@[simp] theorem State.setRdr_ports (s : State) (r : Reader) : (s.setRdr r).ports = s.ports := rfl
@[simp] theorem State.setRdr_wv (s : State) (r : Reader) : (s.setRdr r).wv = s.wv := rfl
@[simp] theorem State.setRdr_ptp (s : State) (r : Reader) : (s.setRdr r).ptp = s.ptp := rfl
@[simp] theorem State.setRdr_hif (s : State) (r : Reader) : (s.setRdr r).hif = s.hif := rfl
@[simp] theorem State.setRdr_pke (s : State) (r : Reader) : (s.setRdr r).pke = s.pke := rfl
@[simp] theorem State.setRdr_fmu (s : State) (r : Reader) : (s.setRdr r).fmu = s.fmu := rfl
@[simp] theorem State.setRdr_mgt (s : State) (r : Reader) : (s.setRdr r).mgt = s.mgt := rfl
@[simp] theorem State.setRdr_pmc (s : State) (r : Reader) : (s.setRdr r).pmc = s.pmc := rfl
@[simp] theorem State.setRdr_cfg (s : State) (r : Reader) : (s.setRdr r).cfg = s.cfg := rfl
@[simp] theorem State.setRdr_fe (s : State) (r : Reader) : (s.setRdr r).fe = s.fe := rfl
@[simp] theorem State.setRdr_lat (s : State) (r : Reader) : (s.setRdr r).lat = s.lat := rfl
@[simp] theorem State.setRdr_userRead (s : State) (r : Reader) : (s.setRdr r).userRead = s.userRead := rfl
@[simp] theorem State.setRdr_jtag (s : State) (r : Reader) : (s.setRdr r).jtag = s.jtag := rfl
@[simp] theorem State.setRdr_pending (s : State) (r : Reader) : (s.setRdr r).pending = s.pending := rfl

@[simp] theorem State.setY_now (s : State) (y : Rat) : (s.setY y).now = s.now := rfl
@[simp] theorem State.setY_fresh (s : State) (y : Rat) : (s.setY y).fresh = s.fresh := rfl
@[simp] theorem State.setY_stg (s : State) (y : Rat) : (s.setY y).stg = s.stg := rfl
@[simp] theorem State.setY_act (s : State) (y : Rat) : (s.setY y).act = s.act := rfl
@[simp] theorem State.setY_ctr (s : State) (y : Rat) : (s.setY y).ctr = s.ctr := rfl
@[simp] theorem State.setY_cmts (s : State) (y : Rat) : (s.setY y).cmts = s.cmts := rfl
@[simp] theorem State.setY_glb (s : State) (y : Rat) : (s.setY y).glb = s.glb := rfl
@[simp] theorem State.setY_md (s : State) (y : Rat) : (s.setY y).md = s.md := rfl
@[simp] theorem State.setY_tb (s : State) (y : Rat) : (s.setY y).tb = s.tb := rfl
@[simp] theorem State.setY_tac (s : State) (y : Rat) : (s.setY y).tac = s.tac := rfl
@[simp] theorem State.setY_tin (s : State) (y : Rat) : (s.setY y).tin = s.tin := rfl
@[simp] theorem State.setY_ref (s : State) (y : Rat) : (s.setY y).ref = s.ref := rfl
@[simp] theorem State.setY_srv (s : State) (y : Rat) : (s.setY y).srv = { s.srv with yCmd := s.quantY (clampY y) } := rfl
@[simp] theorem State.setY_out (s : State) (y : Rat) : (s.setY y).out = s.out := rfl
@[simp] theorem State.setY_ports (s : State) (y : Rat) : (s.setY y).ports = s.ports := rfl
@[simp] theorem State.setY_wv (s : State) (y : Rat) : (s.setY y).wv = s.wv := rfl
@[simp] theorem State.setY_ptp (s : State) (y : Rat) : (s.setY y).ptp = s.ptp := rfl
@[simp] theorem State.setY_hif (s : State) (y : Rat) : (s.setY y).hif = s.hif := rfl
@[simp] theorem State.setY_pke (s : State) (y : Rat) : (s.setY y).pke = s.pke := rfl
@[simp] theorem State.setY_fmu (s : State) (y : Rat) : (s.setY y).fmu = s.fmu := rfl
@[simp] theorem State.setY_mgt (s : State) (y : Rat) : (s.setY y).mgt = s.mgt := rfl
@[simp] theorem State.setY_pmc (s : State) (y : Rat) : (s.setY y).pmc = s.pmc := rfl
@[simp] theorem State.setY_cfg (s : State) (y : Rat) : (s.setY y).cfg = s.cfg := rfl
@[simp] theorem State.setY_fe (s : State) (y : Rat) : (s.setY y).fe = s.fe := rfl
@[simp] theorem State.setY_lat (s : State) (y : Rat) : (s.setY y).lat = s.lat := rfl
@[simp] theorem State.setY_userRead (s : State) (y : Rat) : (s.setY y).userRead = s.userRead := rfl
@[simp] theorem State.setY_jtag (s : State) (y : Rat) : (s.setY y).jtag = s.jtag := rfl
@[simp] theorem State.setY_pending (s : State) (y : Rat) : (s.setY y).pending = s.pending := rfl

@[simp] theorem State.qAccrue_now (s : State)  : s.qAccrue.now = s.now := rfl
@[simp] theorem State.qAccrue_fresh (s : State)  : s.qAccrue.fresh = s.fresh := rfl
@[simp] theorem State.qAccrue_stg (s : State)  : s.qAccrue.stg = s.stg := rfl
@[simp] theorem State.qAccrue_act (s : State)  : s.qAccrue.act = s.act := rfl
@[simp] theorem State.qAccrue_ctr (s : State)  : s.qAccrue.ctr = s.ctr := rfl
@[simp] theorem State.qAccrue_cmts (s : State)  : s.qAccrue.cmts = s.cmts := rfl
@[simp] theorem State.qAccrue_glb (s : State)  : s.qAccrue.glb = s.glb := rfl
@[simp] theorem State.qAccrue_md (s : State)  : s.qAccrue.md = s.md := rfl
@[simp] theorem State.qAccrue_tb (s : State)  : s.qAccrue.tb = s.tb := rfl
@[simp] theorem State.qAccrue_tac (s : State)  : s.qAccrue.tac = s.tac := rfl
@[simp] theorem State.qAccrue_tin (s : State)  : s.qAccrue.tin = s.tin := rfl
@[simp] theorem State.qAccrue_ref (s : State)  : s.qAccrue.ref = s.ref := rfl
@[simp] theorem State.qAccrue_srv (s : State)  : s.qAccrue.srv = s.srv := rfl
@[simp] theorem State.qAccrue_out (s : State)  : s.qAccrue.out = s.out := rfl
@[simp] theorem State.qAccrue_ports (s : State)  : s.qAccrue.ports = s.ports := rfl
@[simp] theorem State.qAccrue_wv (s : State)  : s.qAccrue.wv = s.wv := rfl
@[simp] theorem State.qAccrue_ptp (s : State)  : s.qAccrue.ptp = s.ptp := rfl
@[simp] theorem State.qAccrue_hif (s : State)  : s.qAccrue.hif = s.hif := rfl
@[simp] theorem State.qAccrue_pke (s : State)  : s.qAccrue.pke = s.pke := rfl
@[simp] theorem State.qAccrue_fmu (s : State)  : s.qAccrue.fmu = s.fmu := rfl
@[simp] theorem State.qAccrue_mgt (s : State)  : s.qAccrue.mgt = s.mgt := rfl
@[simp] theorem State.qAccrue_pmc (s : State)  : s.qAccrue.pmc = s.pmc := rfl
@[simp] theorem State.qAccrue_cfg (s : State)  : s.qAccrue.cfg = s.cfg := rfl
@[simp] theorem State.qAccrue_fe (s : State)  : s.qAccrue.fe = s.fe := rfl
@[simp] theorem State.qAccrue_lat (s : State)  : s.qAccrue.lat = s.lat := rfl
@[simp] theorem State.qAccrue_userRead (s : State)  : s.qAccrue.userRead = s.userRead := rfl
@[simp] theorem State.qAccrue_jtag (s : State)  : s.qAccrue.jtag = s.jtag := rfl
@[simp] theorem State.qAccrue_pending (s : State)  : s.qAccrue.pending = s.pending := rfl

@[simp] theorem State.bodFill_now (s : State)  : s.bodFill.now = s.now := rfl
@[simp] theorem State.bodFill_fresh (s : State)  : s.bodFill.fresh = s.fresh := rfl
@[simp] theorem State.bodFill_stg (s : State)  : s.bodFill.stg = s.stg := rfl
@[simp] theorem State.bodFill_act (s : State)  : s.bodFill.act = s.act := rfl
@[simp] theorem State.bodFill_ctr (s : State)  : s.bodFill.ctr = s.ctr := rfl
@[simp] theorem State.bodFill_cmts (s : State)  : s.bodFill.cmts = s.cmts := rfl
@[simp] theorem State.bodFill_glb (s : State)  : s.bodFill.glb = s.glb := rfl
@[simp] theorem State.bodFill_md (s : State)  : s.bodFill.md = s.md := rfl
@[simp] theorem State.bodFill_tb (s : State)  : s.bodFill.tb = s.tb := rfl
@[simp] theorem State.bodFill_tac (s : State)  : s.bodFill.tac = s.tac := rfl
@[simp] theorem State.bodFill_tin (s : State)  : s.bodFill.tin = s.tin := rfl
@[simp] theorem State.bodFill_ref (s : State)  : s.bodFill.ref = s.ref := rfl
@[simp] theorem State.bodFill_srv (s : State)  : s.bodFill.srv = s.srv := rfl
@[simp] theorem State.bodFill_out (s : State)  : s.bodFill.out = s.out := rfl
@[simp] theorem State.bodFill_gns (s : State)  : s.bodFill.gns = s.gns := rfl
@[simp] theorem State.bodFill_ports (s : State)  : s.bodFill.ports = s.ports := rfl
@[simp] theorem State.bodFill_wv (s : State)  : s.bodFill.wv = s.wv := rfl
@[simp] theorem State.bodFill_ptp (s : State)  : s.bodFill.ptp = s.ptp := rfl
@[simp] theorem State.bodFill_hif (s : State)  : s.bodFill.hif = s.hif := rfl
@[simp] theorem State.bodFill_fmu (s : State)  : s.bodFill.fmu = s.fmu := rfl
@[simp] theorem State.bodFill_mgt (s : State)  : s.bodFill.mgt = s.mgt := rfl
@[simp] theorem State.bodFill_pmc (s : State)  : s.bodFill.pmc = s.pmc := rfl
@[simp] theorem State.bodFill_cfg (s : State)  : s.bodFill.cfg = s.cfg := rfl
@[simp] theorem State.bodFill_fe (s : State)  : s.bodFill.fe = s.fe := rfl
@[simp] theorem State.bodFill_lat (s : State)  : s.bodFill.lat = s.lat := rfl
@[simp] theorem State.bodFill_userRead (s : State)  : s.bodFill.userRead = s.userRead := rfl
@[simp] theorem State.bodFill_jtag (s : State)  : s.bodFill.jtag = s.jtag := rfl
@[simp] theorem State.bodFill_pending (s : State)  : s.bodFill.pending = s.pending := rfl

@[simp] theorem State.otarnLose_now (s : State) (index : Nat) : (s.otarnLose index).now = s.now := rfl
@[simp] theorem State.otarnLose_fresh (s : State) (index : Nat) : (s.otarnLose index).fresh = s.fresh := rfl
@[simp] theorem State.otarnLose_stg (s : State) (index : Nat) : (s.otarnLose index).stg = s.stg := rfl
@[simp] theorem State.otarnLose_act (s : State) (index : Nat) : (s.otarnLose index).act = s.act := rfl
@[simp] theorem State.otarnLose_ctr (s : State) (index : Nat) : (s.otarnLose index).ctr = s.ctr := rfl
@[simp] theorem State.otarnLose_cmts (s : State) (index : Nat) : (s.otarnLose index).cmts = s.cmts := rfl
@[simp] theorem State.otarnLose_glb (s : State) (index : Nat) : (s.otarnLose index).glb = s.glb := rfl
@[simp] theorem State.otarnLose_md (s : State) (index : Nat) : (s.otarnLose index).md = s.md := rfl
@[simp] theorem State.otarnLose_tb (s : State) (index : Nat) : (s.otarnLose index).tb = s.tb := rfl
@[simp] theorem State.otarnLose_tac (s : State) (index : Nat) : (s.otarnLose index).tac = s.tac := rfl
@[simp] theorem State.otarnLose_tin (s : State) (index : Nat) : (s.otarnLose index).tin = s.tin := rfl
@[simp] theorem State.otarnLose_ref (s : State) (index : Nat) : (s.otarnLose index).ref = s.ref := rfl
@[simp] theorem State.otarnLose_srv (s : State) (index : Nat) : (s.otarnLose index).srv = s.srv := rfl
@[simp] theorem State.otarnLose_out (s : State) (index : Nat) : (s.otarnLose index).out = s.out := rfl
@[simp] theorem State.otarnLose_gns (s : State) (index : Nat) : (s.otarnLose index).gns = s.gns := rfl
@[simp] theorem State.otarnLose_ports (s : State) (index : Nat) : (s.otarnLose index).ports = s.ports := rfl
@[simp] theorem State.otarnLose_wv (s : State) (index : Nat) : (s.otarnLose index).wv = s.wv := rfl
@[simp] theorem State.otarnLose_ptp (s : State) (index : Nat) : (s.otarnLose index).ptp = s.ptp := rfl
@[simp] theorem State.otarnLose_hif (s : State) (index : Nat) : (s.otarnLose index).hif = s.hif := rfl
@[simp] theorem State.otarnLose_pke (s : State) (index : Nat) : (s.otarnLose index).pke = s.pke := rfl
@[simp] theorem State.otarnLose_fmu (s : State) (index : Nat) : (s.otarnLose index).fmu = s.fmu := rfl
@[simp] theorem State.otarnLose_pmc (s : State) (index : Nat) : (s.otarnLose index).pmc = s.pmc := rfl
@[simp] theorem State.otarnLose_cfg (s : State) (index : Nat) : (s.otarnLose index).cfg = s.cfg := rfl
@[simp] theorem State.otarnLose_fe (s : State) (index : Nat) : (s.otarnLose index).fe = s.fe := rfl
@[simp] theorem State.otarnLose_lat (s : State) (index : Nat) : (s.otarnLose index).lat = s.lat := rfl
@[simp] theorem State.otarnLose_userRead (s : State) (index : Nat) : (s.otarnLose index).userRead = s.userRead := rfl
@[simp] theorem State.otarnLose_jtag (s : State) (index : Nat) : (s.otarnLose index).jtag = s.jtag := rfl
@[simp] theorem State.otarnLose_pending (s : State) (index : Nat) : (s.otarnLose index).pending = s.pending := rfl

@[simp] theorem State.setIsl_now (s : State) (k : Nat) (f : Island → Island) : (s.setIsl k f).now = s.now := rfl
@[simp] theorem State.setIsl_fresh (s : State) (k : Nat) (f : Island → Island) : (s.setIsl k f).fresh = s.fresh := rfl
@[simp] theorem State.setIsl_stg (s : State) (k : Nat) (f : Island → Island) : (s.setIsl k f).stg = s.stg := rfl
@[simp] theorem State.setIsl_act (s : State) (k : Nat) (f : Island → Island) : (s.setIsl k f).act = s.act := rfl
@[simp] theorem State.setIsl_ctr (s : State) (k : Nat) (f : Island → Island) : (s.setIsl k f).ctr = s.ctr := rfl
@[simp] theorem State.setIsl_cmts (s : State) (k : Nat) (f : Island → Island) : (s.setIsl k f).cmts = s.cmts := rfl
@[simp] theorem State.setIsl_glb (s : State) (k : Nat) (f : Island → Island) : (s.setIsl k f).glb = s.glb := rfl
@[simp] theorem State.setIsl_md (s : State) (k : Nat) (f : Island → Island) : (s.setIsl k f).md = s.md := rfl
@[simp] theorem State.setIsl_tb (s : State) (k : Nat) (f : Island → Island) : (s.setIsl k f).tb = s.tb := rfl
@[simp] theorem State.setIsl_tac (s : State) (k : Nat) (f : Island → Island) : (s.setIsl k f).tac = s.tac := rfl
@[simp] theorem State.setIsl_tin (s : State) (k : Nat) (f : Island → Island) : (s.setIsl k f).tin = s.tin := rfl
@[simp] theorem State.setIsl_ref (s : State) (k : Nat) (f : Island → Island) : (s.setIsl k f).ref = s.ref := rfl
@[simp] theorem State.setIsl_srv (s : State) (k : Nat) (f : Island → Island) : (s.setIsl k f).srv = s.srv := rfl
@[simp] theorem State.setIsl_out (s : State) (k : Nat) (f : Island → Island) : (s.setIsl k f).out = s.out := rfl
@[simp] theorem State.setIsl_gns (s : State) (k : Nat) (f : Island → Island) : (s.setIsl k f).gns = s.gns := rfl
@[simp] theorem State.setIsl_ports (s : State) (k : Nat) (f : Island → Island) : (s.setIsl k f).ports = s.ports := rfl
@[simp] theorem State.setIsl_wv (s : State) (k : Nat) (f : Island → Island) : (s.setIsl k f).wv = s.wv := rfl
@[simp] theorem State.setIsl_ptp (s : State) (k : Nat) (f : Island → Island) : (s.setIsl k f).ptp = s.ptp := rfl
@[simp] theorem State.setIsl_hif (s : State) (k : Nat) (f : Island → Island) : (s.setIsl k f).hif = s.hif := rfl
@[simp] theorem State.setIsl_pke (s : State) (k : Nat) (f : Island → Island) : (s.setIsl k f).pke = s.pke := rfl
@[simp] theorem State.setIsl_fmu (s : State) (k : Nat) (f : Island → Island) : (s.setIsl k f).fmu = { s.fmu with islands := updAt s.fmu.islands k f } := rfl
@[simp] theorem State.setIsl_mgt (s : State) (k : Nat) (f : Island → Island) : (s.setIsl k f).mgt = s.mgt := rfl
@[simp] theorem State.setIsl_pmc (s : State) (k : Nat) (f : Island → Island) : (s.setIsl k f).pmc = s.pmc := rfl
@[simp] theorem State.setIsl_cfg (s : State) (k : Nat) (f : Island → Island) : (s.setIsl k f).cfg = s.cfg := rfl
@[simp] theorem State.setIsl_fe (s : State) (k : Nat) (f : Island → Island) : (s.setIsl k f).fe = s.fe := rfl
@[simp] theorem State.setIsl_lat (s : State) (k : Nat) (f : Island → Island) : (s.setIsl k f).lat = s.lat := rfl
@[simp] theorem State.setIsl_userRead (s : State) (k : Nat) (f : Island → Island) : (s.setIsl k f).userRead = s.userRead := rfl
@[simp] theorem State.setIsl_jtag (s : State) (k : Nat) (f : Island → Island) : (s.setIsl k f).jtag = s.jtag := rfl
@[simp] theorem State.setIsl_pending (s : State) (k : Nat) (f : Island → Island) : (s.setIsl k f).pending = s.pending := rfl

@[simp] theorem State.setChan_now (s : State) (c : Nat) (f : Chan → Chan) : (s.setChan c f).now = s.now := rfl
@[simp] theorem State.setChan_fresh (s : State) (c : Nat) (f : Chan → Chan) : (s.setChan c f).fresh = s.fresh := rfl
@[simp] theorem State.setChan_stg (s : State) (c : Nat) (f : Chan → Chan) : (s.setChan c f).stg = s.stg := rfl
@[simp] theorem State.setChan_act (s : State) (c : Nat) (f : Chan → Chan) : (s.setChan c f).act = s.act := rfl
@[simp] theorem State.setChan_ctr (s : State) (c : Nat) (f : Chan → Chan) : (s.setChan c f).ctr = s.ctr := rfl
@[simp] theorem State.setChan_cmts (s : State) (c : Nat) (f : Chan → Chan) : (s.setChan c f).cmts = s.cmts := rfl
@[simp] theorem State.setChan_glb (s : State) (c : Nat) (f : Chan → Chan) : (s.setChan c f).glb = s.glb := rfl
@[simp] theorem State.setChan_md (s : State) (c : Nat) (f : Chan → Chan) : (s.setChan c f).md = s.md := rfl
@[simp] theorem State.setChan_tb (s : State) (c : Nat) (f : Chan → Chan) : (s.setChan c f).tb = s.tb := rfl
@[simp] theorem State.setChan_tac (s : State) (c : Nat) (f : Chan → Chan) : (s.setChan c f).tac = s.tac := rfl
@[simp] theorem State.setChan_tin (s : State) (c : Nat) (f : Chan → Chan) : (s.setChan c f).tin = s.tin := rfl
@[simp] theorem State.setChan_ref (s : State) (c : Nat) (f : Chan → Chan) : (s.setChan c f).ref = s.ref := rfl
@[simp] theorem State.setChan_srv (s : State) (c : Nat) (f : Chan → Chan) : (s.setChan c f).srv = s.srv := rfl
@[simp] theorem State.setChan_out (s : State) (c : Nat) (f : Chan → Chan) : (s.setChan c f).out = s.out := rfl
@[simp] theorem State.setChan_ports (s : State) (c : Nat) (f : Chan → Chan) : (s.setChan c f).ports = s.ports := rfl
@[simp] theorem State.setChan_wv (s : State) (c : Nat) (f : Chan → Chan) : (s.setChan c f).wv = s.wv := rfl
@[simp] theorem State.setChan_ptp (s : State) (c : Nat) (f : Chan → Chan) : (s.setChan c f).ptp = s.ptp := rfl
@[simp] theorem State.setChan_hif (s : State) (c : Nat) (f : Chan → Chan) : (s.setChan c f).hif = s.hif := rfl
@[simp] theorem State.setChan_pke (s : State) (c : Nat) (f : Chan → Chan) : (s.setChan c f).pke = s.pke := rfl
@[simp] theorem State.setChan_fmu (s : State) (c : Nat) (f : Chan → Chan) : (s.setChan c f).fmu = s.fmu := rfl
@[simp] theorem State.setChan_mgt (s : State) (c : Nat) (f : Chan → Chan) : (s.setChan c f).mgt = s.mgt := rfl
@[simp] theorem State.setChan_pmc (s : State) (c : Nat) (f : Chan → Chan) : (s.setChan c f).pmc = s.pmc := rfl
@[simp] theorem State.setChan_cfg (s : State) (c : Nat) (f : Chan → Chan) : (s.setChan c f).cfg = s.cfg := rfl
@[simp] theorem State.setChan_fe (s : State) (c : Nat) (f : Chan → Chan) : (s.setChan c f).fe = s.fe := rfl
@[simp] theorem State.setChan_lat (s : State) (c : Nat) (f : Chan → Chan) : (s.setChan c f).lat = s.lat := rfl
@[simp] theorem State.setChan_userRead (s : State) (c : Nat) (f : Chan → Chan) : (s.setChan c f).userRead = s.userRead := rfl
@[simp] theorem State.setChan_jtag (s : State) (c : Nat) (f : Chan → Chan) : (s.setChan c f).jtag = s.jtag := rfl
@[simp] theorem State.setChan_pending (s : State) (c : Nat) (f : Chan → Chan) : (s.setChan c f).pending = s.pending := rfl

@[simp] theorem State.setPtp_now (s : State) (n : Nat) (f : PtpPort → PtpPort) : (s.setPtp n f).now = s.now := rfl
@[simp] theorem State.setPtp_fresh (s : State) (n : Nat) (f : PtpPort → PtpPort) : (s.setPtp n f).fresh = s.fresh := rfl
@[simp] theorem State.setPtp_stg (s : State) (n : Nat) (f : PtpPort → PtpPort) : (s.setPtp n f).stg = s.stg := rfl
@[simp] theorem State.setPtp_act (s : State) (n : Nat) (f : PtpPort → PtpPort) : (s.setPtp n f).act = s.act := rfl
@[simp] theorem State.setPtp_ctr (s : State) (n : Nat) (f : PtpPort → PtpPort) : (s.setPtp n f).ctr = s.ctr := rfl
@[simp] theorem State.setPtp_cmts (s : State) (n : Nat) (f : PtpPort → PtpPort) : (s.setPtp n f).cmts = s.cmts := rfl
@[simp] theorem State.setPtp_glb (s : State) (n : Nat) (f : PtpPort → PtpPort) : (s.setPtp n f).glb = s.glb := rfl
@[simp] theorem State.setPtp_md (s : State) (n : Nat) (f : PtpPort → PtpPort) : (s.setPtp n f).md = s.md := rfl
@[simp] theorem State.setPtp_tb (s : State) (n : Nat) (f : PtpPort → PtpPort) : (s.setPtp n f).tb = s.tb := rfl
@[simp] theorem State.setPtp_tac (s : State) (n : Nat) (f : PtpPort → PtpPort) : (s.setPtp n f).tac = s.tac := rfl
@[simp] theorem State.setPtp_tin (s : State) (n : Nat) (f : PtpPort → PtpPort) : (s.setPtp n f).tin = s.tin := rfl
@[simp] theorem State.setPtp_ref (s : State) (n : Nat) (f : PtpPort → PtpPort) : (s.setPtp n f).ref = s.ref := rfl
@[simp] theorem State.setPtp_srv (s : State) (n : Nat) (f : PtpPort → PtpPort) : (s.setPtp n f).srv = s.srv := rfl
@[simp] theorem State.setPtp_out (s : State) (n : Nat) (f : PtpPort → PtpPort) : (s.setPtp n f).out = s.out := rfl
@[simp] theorem State.setPtp_gns (s : State) (n : Nat) (f : PtpPort → PtpPort) : (s.setPtp n f).gns = s.gns := rfl
@[simp] theorem State.setPtp_ports (s : State) (n : Nat) (f : PtpPort → PtpPort) : (s.setPtp n f).ports = s.ports := rfl
@[simp] theorem State.setPtp_wv (s : State) (n : Nat) (f : PtpPort → PtpPort) : (s.setPtp n f).wv = s.wv := rfl
@[simp] theorem State.setPtp_hif (s : State) (n : Nat) (f : PtpPort → PtpPort) : (s.setPtp n f).hif = s.hif := rfl
@[simp] theorem State.setPtp_pke (s : State) (n : Nat) (f : PtpPort → PtpPort) : (s.setPtp n f).pke = s.pke := rfl
@[simp] theorem State.setPtp_fmu (s : State) (n : Nat) (f : PtpPort → PtpPort) : (s.setPtp n f).fmu = s.fmu := rfl
@[simp] theorem State.setPtp_mgt (s : State) (n : Nat) (f : PtpPort → PtpPort) : (s.setPtp n f).mgt = s.mgt := rfl
@[simp] theorem State.setPtp_pmc (s : State) (n : Nat) (f : PtpPort → PtpPort) : (s.setPtp n f).pmc = s.pmc := rfl
@[simp] theorem State.setPtp_cfg (s : State) (n : Nat) (f : PtpPort → PtpPort) : (s.setPtp n f).cfg = s.cfg := rfl
@[simp] theorem State.setPtp_fe (s : State) (n : Nat) (f : PtpPort → PtpPort) : (s.setPtp n f).fe = s.fe := rfl
@[simp] theorem State.setPtp_lat (s : State) (n : Nat) (f : PtpPort → PtpPort) : (s.setPtp n f).lat = s.lat := rfl
@[simp] theorem State.setPtp_userRead (s : State) (n : Nat) (f : PtpPort → PtpPort) : (s.setPtp n f).userRead = s.userRead := rfl
@[simp] theorem State.setPtp_jtag (s : State) (n : Nat) (f : PtpPort → PtpPort) : (s.setPtp n f).jtag = s.jtag := rfl
@[simp] theorem State.setPtp_pending (s : State) (n : Nat) (f : PtpPort → PtpPort) : (s.setPtp n f).pending = s.pending := rfl

@[simp] theorem State.setRx_now (s : State) (n : Nat) (r : Ring) : (s.setRx n r).now = s.now := rfl
@[simp] theorem State.setRx_fresh (s : State) (n : Nat) (r : Ring) : (s.setRx n r).fresh = s.fresh := rfl
@[simp] theorem State.setRx_stg (s : State) (n : Nat) (r : Ring) : (s.setRx n r).stg = s.stg := rfl
@[simp] theorem State.setRx_act (s : State) (n : Nat) (r : Ring) : (s.setRx n r).act = s.act := rfl
@[simp] theorem State.setRx_ctr (s : State) (n : Nat) (r : Ring) : (s.setRx n r).ctr = s.ctr := rfl
@[simp] theorem State.setRx_cmts (s : State) (n : Nat) (r : Ring) : (s.setRx n r).cmts = s.cmts := rfl
@[simp] theorem State.setRx_glb (s : State) (n : Nat) (r : Ring) : (s.setRx n r).glb = s.glb := rfl
@[simp] theorem State.setRx_md (s : State) (n : Nat) (r : Ring) : (s.setRx n r).md = s.md := rfl
@[simp] theorem State.setRx_tb (s : State) (n : Nat) (r : Ring) : (s.setRx n r).tb = s.tb := rfl
@[simp] theorem State.setRx_tac (s : State) (n : Nat) (r : Ring) : (s.setRx n r).tac = s.tac := rfl
@[simp] theorem State.setRx_tin (s : State) (n : Nat) (r : Ring) : (s.setRx n r).tin = s.tin := rfl
@[simp] theorem State.setRx_ref (s : State) (n : Nat) (r : Ring) : (s.setRx n r).ref = s.ref := rfl
@[simp] theorem State.setRx_srv (s : State) (n : Nat) (r : Ring) : (s.setRx n r).srv = s.srv := rfl
@[simp] theorem State.setRx_out (s : State) (n : Nat) (r : Ring) : (s.setRx n r).out = s.out := rfl
@[simp] theorem State.setRx_gns (s : State) (n : Nat) (r : Ring) : (s.setRx n r).gns = s.gns := rfl
@[simp] theorem State.setRx_ports (s : State) (n : Nat) (r : Ring) : (s.setRx n r).ports = s.ports := rfl
@[simp] theorem State.setRx_wv (s : State) (n : Nat) (r : Ring) : (s.setRx n r).wv = s.wv := rfl
@[simp] theorem State.setRx_ptp (s : State) (n : Nat) (r : Ring) : (s.setRx n r).ptp = s.ptp := rfl
@[simp] theorem State.setRx_hif (s : State) (n : Nat) (r : Ring) : (s.setRx n r).hif = { s.hif with rx := putAt s.hif.rx n r } := rfl
@[simp] theorem State.setRx_pke (s : State) (n : Nat) (r : Ring) : (s.setRx n r).pke = s.pke := rfl
@[simp] theorem State.setRx_fmu (s : State) (n : Nat) (r : Ring) : (s.setRx n r).fmu = s.fmu := rfl
@[simp] theorem State.setRx_mgt (s : State) (n : Nat) (r : Ring) : (s.setRx n r).mgt = s.mgt := rfl
@[simp] theorem State.setRx_pmc (s : State) (n : Nat) (r : Ring) : (s.setRx n r).pmc = s.pmc := rfl
@[simp] theorem State.setRx_cfg (s : State) (n : Nat) (r : Ring) : (s.setRx n r).cfg = s.cfg := rfl
@[simp] theorem State.setRx_fe (s : State) (n : Nat) (r : Ring) : (s.setRx n r).fe = s.fe := rfl
@[simp] theorem State.setRx_lat (s : State) (n : Nat) (r : Ring) : (s.setRx n r).lat = s.lat := rfl
@[simp] theorem State.setRx_userRead (s : State) (n : Nat) (r : Ring) : (s.setRx n r).userRead = s.userRead := rfl
@[simp] theorem State.setRx_jtag (s : State) (n : Nat) (r : Ring) : (s.setRx n r).jtag = s.jtag := rfl
@[simp] theorem State.setRx_pending (s : State) (n : Nat) (r : Ring) : (s.setRx n r).pending = s.pending := rfl

@[simp] theorem State.setTx_now (s : State) (n : Nat) (r : Ring) : (s.setTx n r).now = s.now := rfl
@[simp] theorem State.setTx_fresh (s : State) (n : Nat) (r : Ring) : (s.setTx n r).fresh = s.fresh := rfl
@[simp] theorem State.setTx_stg (s : State) (n : Nat) (r : Ring) : (s.setTx n r).stg = s.stg := rfl
@[simp] theorem State.setTx_act (s : State) (n : Nat) (r : Ring) : (s.setTx n r).act = s.act := rfl
@[simp] theorem State.setTx_ctr (s : State) (n : Nat) (r : Ring) : (s.setTx n r).ctr = s.ctr := rfl
@[simp] theorem State.setTx_cmts (s : State) (n : Nat) (r : Ring) : (s.setTx n r).cmts = s.cmts := rfl
@[simp] theorem State.setTx_glb (s : State) (n : Nat) (r : Ring) : (s.setTx n r).glb = s.glb := rfl
@[simp] theorem State.setTx_md (s : State) (n : Nat) (r : Ring) : (s.setTx n r).md = s.md := rfl
@[simp] theorem State.setTx_tb (s : State) (n : Nat) (r : Ring) : (s.setTx n r).tb = s.tb := rfl
@[simp] theorem State.setTx_tac (s : State) (n : Nat) (r : Ring) : (s.setTx n r).tac = s.tac := rfl
@[simp] theorem State.setTx_tin (s : State) (n : Nat) (r : Ring) : (s.setTx n r).tin = s.tin := rfl
@[simp] theorem State.setTx_ref (s : State) (n : Nat) (r : Ring) : (s.setTx n r).ref = s.ref := rfl
@[simp] theorem State.setTx_srv (s : State) (n : Nat) (r : Ring) : (s.setTx n r).srv = s.srv := rfl
@[simp] theorem State.setTx_out (s : State) (n : Nat) (r : Ring) : (s.setTx n r).out = s.out := rfl
@[simp] theorem State.setTx_gns (s : State) (n : Nat) (r : Ring) : (s.setTx n r).gns = s.gns := rfl
@[simp] theorem State.setTx_ports (s : State) (n : Nat) (r : Ring) : (s.setTx n r).ports = s.ports := rfl
@[simp] theorem State.setTx_wv (s : State) (n : Nat) (r : Ring) : (s.setTx n r).wv = s.wv := rfl
@[simp] theorem State.setTx_ptp (s : State) (n : Nat) (r : Ring) : (s.setTx n r).ptp = s.ptp := rfl
@[simp] theorem State.setTx_hif (s : State) (n : Nat) (r : Ring) : (s.setTx n r).hif = { s.hif with tx := putAt s.hif.tx n r } := rfl
@[simp] theorem State.setTx_pke (s : State) (n : Nat) (r : Ring) : (s.setTx n r).pke = s.pke := rfl
@[simp] theorem State.setTx_fmu (s : State) (n : Nat) (r : Ring) : (s.setTx n r).fmu = s.fmu := rfl
@[simp] theorem State.setTx_mgt (s : State) (n : Nat) (r : Ring) : (s.setTx n r).mgt = s.mgt := rfl
@[simp] theorem State.setTx_pmc (s : State) (n : Nat) (r : Ring) : (s.setTx n r).pmc = s.pmc := rfl
@[simp] theorem State.setTx_cfg (s : State) (n : Nat) (r : Ring) : (s.setTx n r).cfg = s.cfg := rfl
@[simp] theorem State.setTx_fe (s : State) (n : Nat) (r : Ring) : (s.setTx n r).fe = s.fe := rfl
@[simp] theorem State.setTx_lat (s : State) (n : Nat) (r : Ring) : (s.setTx n r).lat = s.lat := rfl
@[simp] theorem State.setTx_userRead (s : State) (n : Nat) (r : Ring) : (s.setTx n r).userRead = s.userRead := rfl
@[simp] theorem State.setTx_jtag (s : State) (n : Nat) (r : Ring) : (s.setTx n r).jtag = s.jtag := rfl
@[simp] theorem State.setTx_pending (s : State) (n : Nat) (r : Ring) : (s.setTx n r).pending = s.pending := rfl

@[simp] theorem State.setCq_now (s : State) (q : Nat) (r : Ring) : (s.setCq q r).now = s.now := rfl
@[simp] theorem State.setCq_fresh (s : State) (q : Nat) (r : Ring) : (s.setCq q r).fresh = s.fresh := rfl
@[simp] theorem State.setCq_stg (s : State) (q : Nat) (r : Ring) : (s.setCq q r).stg = s.stg := rfl
@[simp] theorem State.setCq_act (s : State) (q : Nat) (r : Ring) : (s.setCq q r).act = s.act := rfl
@[simp] theorem State.setCq_ctr (s : State) (q : Nat) (r : Ring) : (s.setCq q r).ctr = s.ctr := rfl
@[simp] theorem State.setCq_cmts (s : State) (q : Nat) (r : Ring) : (s.setCq q r).cmts = s.cmts := rfl
@[simp] theorem State.setCq_glb (s : State) (q : Nat) (r : Ring) : (s.setCq q r).glb = s.glb := rfl
@[simp] theorem State.setCq_md (s : State) (q : Nat) (r : Ring) : (s.setCq q r).md = s.md := rfl
@[simp] theorem State.setCq_tb (s : State) (q : Nat) (r : Ring) : (s.setCq q r).tb = s.tb := rfl
@[simp] theorem State.setCq_tac (s : State) (q : Nat) (r : Ring) : (s.setCq q r).tac = s.tac := rfl
@[simp] theorem State.setCq_tin (s : State) (q : Nat) (r : Ring) : (s.setCq q r).tin = s.tin := rfl
@[simp] theorem State.setCq_ref (s : State) (q : Nat) (r : Ring) : (s.setCq q r).ref = s.ref := rfl
@[simp] theorem State.setCq_srv (s : State) (q : Nat) (r : Ring) : (s.setCq q r).srv = s.srv := rfl
@[simp] theorem State.setCq_out (s : State) (q : Nat) (r : Ring) : (s.setCq q r).out = s.out := rfl
@[simp] theorem State.setCq_gns (s : State) (q : Nat) (r : Ring) : (s.setCq q r).gns = s.gns := rfl
@[simp] theorem State.setCq_ports (s : State) (q : Nat) (r : Ring) : (s.setCq q r).ports = s.ports := rfl
@[simp] theorem State.setCq_wv (s : State) (q : Nat) (r : Ring) : (s.setCq q r).wv = s.wv := rfl
@[simp] theorem State.setCq_ptp (s : State) (q : Nat) (r : Ring) : (s.setCq q r).ptp = s.ptp := rfl
@[simp] theorem State.setCq_hif (s : State) (q : Nat) (r : Ring) : (s.setCq q r).hif = { s.hif with cq := putAt s.hif.cq q r } := rfl
@[simp] theorem State.setCq_pke (s : State) (q : Nat) (r : Ring) : (s.setCq q r).pke = s.pke := rfl
@[simp] theorem State.setCq_fmu (s : State) (q : Nat) (r : Ring) : (s.setCq q r).fmu = s.fmu := rfl
@[simp] theorem State.setCq_mgt (s : State) (q : Nat) (r : Ring) : (s.setCq q r).mgt = s.mgt := rfl
@[simp] theorem State.setCq_pmc (s : State) (q : Nat) (r : Ring) : (s.setCq q r).pmc = s.pmc := rfl
@[simp] theorem State.setCq_cfg (s : State) (q : Nat) (r : Ring) : (s.setCq q r).cfg = s.cfg := rfl
@[simp] theorem State.setCq_fe (s : State) (q : Nat) (r : Ring) : (s.setCq q r).fe = s.fe := rfl
@[simp] theorem State.setCq_lat (s : State) (q : Nat) (r : Ring) : (s.setCq q r).lat = s.lat := rfl
@[simp] theorem State.setCq_userRead (s : State) (q : Nat) (r : Ring) : (s.setCq q r).userRead = s.userRead := rfl
@[simp] theorem State.setCq_jtag (s : State) (q : Nat) (r : Ring) : (s.setCq q r).jtag = s.jtag := rfl
@[simp] theorem State.setCq_pending (s : State) (q : Nat) (r : Ring) : (s.setCq q r).pending = s.pending := rfl

@[simp] theorem State.setUpd_now (s : State) (f : UpdSt → UpdSt) : (s.setUpd f).now = s.now := rfl
@[simp] theorem State.setUpd_fresh (s : State) (f : UpdSt → UpdSt) : (s.setUpd f).fresh = s.fresh := rfl
@[simp] theorem State.setUpd_stg (s : State) (f : UpdSt → UpdSt) : (s.setUpd f).stg = s.stg := rfl
@[simp] theorem State.setUpd_act (s : State) (f : UpdSt → UpdSt) : (s.setUpd f).act = s.act := rfl
@[simp] theorem State.setUpd_ctr (s : State) (f : UpdSt → UpdSt) : (s.setUpd f).ctr = s.ctr := rfl
@[simp] theorem State.setUpd_cmts (s : State) (f : UpdSt → UpdSt) : (s.setUpd f).cmts = s.cmts := rfl
@[simp] theorem State.setUpd_glb (s : State) (f : UpdSt → UpdSt) : (s.setUpd f).glb = s.glb := rfl
@[simp] theorem State.setUpd_md (s : State) (f : UpdSt → UpdSt) : (s.setUpd f).md = s.md := rfl
@[simp] theorem State.setUpd_tb (s : State) (f : UpdSt → UpdSt) : (s.setUpd f).tb = s.tb := rfl
@[simp] theorem State.setUpd_tac (s : State) (f : UpdSt → UpdSt) : (s.setUpd f).tac = s.tac := rfl
@[simp] theorem State.setUpd_tin (s : State) (f : UpdSt → UpdSt) : (s.setUpd f).tin = s.tin := rfl
@[simp] theorem State.setUpd_ref (s : State) (f : UpdSt → UpdSt) : (s.setUpd f).ref = s.ref := rfl
@[simp] theorem State.setUpd_srv (s : State) (f : UpdSt → UpdSt) : (s.setUpd f).srv = s.srv := rfl
@[simp] theorem State.setUpd_out (s : State) (f : UpdSt → UpdSt) : (s.setUpd f).out = s.out := rfl
@[simp] theorem State.setUpd_gns (s : State) (f : UpdSt → UpdSt) : (s.setUpd f).gns = s.gns := rfl
@[simp] theorem State.setUpd_ports (s : State) (f : UpdSt → UpdSt) : (s.setUpd f).ports = s.ports := rfl
@[simp] theorem State.setUpd_wv (s : State) (f : UpdSt → UpdSt) : (s.setUpd f).wv = s.wv := rfl
@[simp] theorem State.setUpd_ptp (s : State) (f : UpdSt → UpdSt) : (s.setUpd f).ptp = s.ptp := rfl
@[simp] theorem State.setUpd_hif (s : State) (f : UpdSt → UpdSt) : (s.setUpd f).hif = s.hif := rfl
@[simp] theorem State.setUpd_pke (s : State) (f : UpdSt → UpdSt) : (s.setUpd f).pke = s.pke := rfl
@[simp] theorem State.setUpd_fmu (s : State) (f : UpdSt → UpdSt) : (s.setUpd f).fmu = s.fmu := rfl
@[simp] theorem State.setUpd_mgt (s : State) (f : UpdSt → UpdSt) : (s.setUpd f).mgt = { s.mgt with upd := f s.mgt.upd } := rfl
@[simp] theorem State.setUpd_pmc (s : State) (f : UpdSt → UpdSt) : (s.setUpd f).pmc = s.pmc := rfl
@[simp] theorem State.setUpd_cfg (s : State) (f : UpdSt → UpdSt) : (s.setUpd f).cfg = s.cfg := rfl
@[simp] theorem State.setUpd_fe (s : State) (f : UpdSt → UpdSt) : (s.setUpd f).fe = s.fe := rfl
@[simp] theorem State.setUpd_lat (s : State) (f : UpdSt → UpdSt) : (s.setUpd f).lat = s.lat := rfl
@[simp] theorem State.setUpd_userRead (s : State) (f : UpdSt → UpdSt) : (s.setUpd f).userRead = s.userRead := rfl
@[simp] theorem State.setUpd_jtag (s : State) (f : UpdSt → UpdSt) : (s.setUpd f).jtag = s.jtag := rfl
@[simp] theorem State.setUpd_pending (s : State) (f : UpdSt → UpdSt) : (s.setUpd f).pending = s.pending := rfl

/-! The updates that depend on a condition. -/

@[simp] theorem State.cause_now (s : State) (b : Nat) : (s.cause b).now = s.now := by
  unfold State.cause; split <;> rfl
@[simp] theorem State.cause_fresh (s : State) (b : Nat) : (s.cause b).fresh = s.fresh := by
  unfold State.cause; split <;> rfl
@[simp] theorem State.cause_stg (s : State) (b : Nat) : (s.cause b).stg = s.stg := by
  unfold State.cause; split <;> rfl
@[simp] theorem State.cause_act (s : State) (b : Nat) : (s.cause b).act = s.act := by
  unfold State.cause; split <;> rfl
@[simp] theorem State.cause_ctr (s : State) (b : Nat) : (s.cause b).ctr = s.ctr := by
  unfold State.cause; split <;> rfl
@[simp] theorem State.cause_cmts (s : State) (b : Nat) : (s.cause b).cmts = s.cmts := by
  unfold State.cause; split <;> rfl
@[simp] theorem State.cause_glb (s : State) (b : Nat) : (s.cause b).glb = s.glb := by
  unfold State.cause; split <;> rfl
@[simp] theorem State.cause_md (s : State) (b : Nat) : (s.cause b).md = s.md := by
  unfold State.cause; split <;> rfl
@[simp] theorem State.cause_tb (s : State) (b : Nat) : (s.cause b).tb = s.tb := by
  unfold State.cause; split <;> rfl
@[simp] theorem State.cause_tac (s : State) (b : Nat) : (s.cause b).tac = s.tac := by
  unfold State.cause; split <;> rfl
@[simp] theorem State.cause_tin (s : State) (b : Nat) : (s.cause b).tin = s.tin := by
  unfold State.cause; split <;> rfl
@[simp] theorem State.cause_ref (s : State) (b : Nat) : (s.cause b).ref = s.ref := by
  unfold State.cause; split <;> rfl
@[simp] theorem State.cause_srv (s : State) (b : Nat) : (s.cause b).srv = s.srv := by
  unfold State.cause; split <;> rfl
@[simp] theorem State.cause_out (s : State) (b : Nat) : (s.cause b).out = s.out := by
  unfold State.cause; split <;> rfl
@[simp] theorem State.cause_gns (s : State) (b : Nat) : (s.cause b).gns = s.gns := by
  unfold State.cause; split <;> rfl
@[simp] theorem State.cause_ports (s : State) (b : Nat) : (s.cause b).ports = s.ports := by
  unfold State.cause; split <;> rfl
@[simp] theorem State.cause_wv (s : State) (b : Nat) : (s.cause b).wv = s.wv := by
  unfold State.cause; split <;> rfl
@[simp] theorem State.cause_ptp (s : State) (b : Nat) : (s.cause b).ptp = s.ptp := by
  unfold State.cause; split <;> rfl
@[simp] theorem State.cause_pke (s : State) (b : Nat) : (s.cause b).pke = s.pke := by
  unfold State.cause; split <;> rfl
@[simp] theorem State.cause_fmu (s : State) (b : Nat) : (s.cause b).fmu = s.fmu := by
  unfold State.cause; split <;> rfl
@[simp] theorem State.cause_mgt (s : State) (b : Nat) : (s.cause b).mgt = s.mgt := by
  unfold State.cause; split <;> rfl
@[simp] theorem State.cause_pmc (s : State) (b : Nat) : (s.cause b).pmc = s.pmc := by
  unfold State.cause; split <;> rfl
@[simp] theorem State.cause_cfg (s : State) (b : Nat) : (s.cause b).cfg = s.cfg := by
  unfold State.cause; split <;> rfl
@[simp] theorem State.cause_fe (s : State) (b : Nat) : (s.cause b).fe = s.fe := by
  unfold State.cause; split <;> rfl
@[simp] theorem State.cause_lat (s : State) (b : Nat) : (s.cause b).lat = s.lat := by
  unfold State.cause; split <;> rfl
@[simp] theorem State.cause_userRead (s : State) (b : Nat) : (s.cause b).userRead = s.userRead := by
  unfold State.cause; split <;> rfl
@[simp] theorem State.cause_jtag (s : State) (b : Nat) : (s.cause b).jtag = s.jtag := by
  unfold State.cause; split <;> rfl
@[simp] theorem State.cause_pending (s : State) (b : Nat) : (s.cause b).pending = s.pending := by
  unfold State.cause; split <;> rfl

@[simp] theorem State.logAs_now (s : State) (m : Bool) (typ : Nat) (body : List Byte) : (s.logAs m typ body).now = s.now := rfl
@[simp] theorem State.logAs_fresh (s : State) (m : Bool) (typ : Nat) (body : List Byte) : (s.logAs m typ body).fresh = s.fresh := rfl
@[simp] theorem State.logAs_stg (s : State) (m : Bool) (typ : Nat) (body : List Byte) : (s.logAs m typ body).stg = s.stg := rfl
@[simp] theorem State.logAs_act (s : State) (m : Bool) (typ : Nat) (body : List Byte) : (s.logAs m typ body).act = s.act := rfl
@[simp] theorem State.logAs_cmts (s : State) (m : Bool) (typ : Nat) (body : List Byte) : (s.logAs m typ body).cmts = s.cmts := rfl
@[simp] theorem State.logAs_glb (s : State) (m : Bool) (typ : Nat) (body : List Byte) : (s.logAs m typ body).glb = s.glb := rfl
@[simp] theorem State.logAs_md (s : State) (m : Bool) (typ : Nat) (body : List Byte) : (s.logAs m typ body).md = s.md := rfl
@[simp] theorem State.logAs_tb (s : State) (m : Bool) (typ : Nat) (body : List Byte) : (s.logAs m typ body).tb = s.tb := rfl
@[simp] theorem State.logAs_tac (s : State) (m : Bool) (typ : Nat) (body : List Byte) : (s.logAs m typ body).tac = s.tac := rfl
@[simp] theorem State.logAs_tin (s : State) (m : Bool) (typ : Nat) (body : List Byte) : (s.logAs m typ body).tin = s.tin := rfl
@[simp] theorem State.logAs_ref (s : State) (m : Bool) (typ : Nat) (body : List Byte) : (s.logAs m typ body).ref = s.ref := rfl
@[simp] theorem State.logAs_srv (s : State) (m : Bool) (typ : Nat) (body : List Byte) : (s.logAs m typ body).srv = s.srv := rfl
@[simp] theorem State.logAs_out (s : State) (m : Bool) (typ : Nat) (body : List Byte) : (s.logAs m typ body).out = s.out := rfl
@[simp] theorem State.logAs_gns (s : State) (m : Bool) (typ : Nat) (body : List Byte) : (s.logAs m typ body).gns = s.gns := rfl
@[simp] theorem State.logAs_ports (s : State) (m : Bool) (typ : Nat) (body : List Byte) : (s.logAs m typ body).ports = s.ports := rfl
@[simp] theorem State.logAs_wv (s : State) (m : Bool) (typ : Nat) (body : List Byte) : (s.logAs m typ body).wv = s.wv := rfl
@[simp] theorem State.logAs_ptp (s : State) (m : Bool) (typ : Nat) (body : List Byte) : (s.logAs m typ body).ptp = s.ptp := rfl
@[simp] theorem State.logAs_hif (s : State) (m : Bool) (typ : Nat) (body : List Byte) : (s.logAs m typ body).hif = s.hif := rfl
@[simp] theorem State.logAs_pke (s : State) (m : Bool) (typ : Nat) (body : List Byte) : (s.logAs m typ body).pke = s.pke := rfl
@[simp] theorem State.logAs_fmu (s : State) (m : Bool) (typ : Nat) (body : List Byte) : (s.logAs m typ body).fmu = s.fmu := rfl
@[simp] theorem State.logAs_mgt (s : State) (m : Bool) (typ : Nat) (body : List Byte) : (s.logAs m typ body).mgt = s.mgt := rfl
@[simp] theorem State.logAs_pmc (s : State) (m : Bool) (typ : Nat) (body : List Byte) : (s.logAs m typ body).pmc = s.pmc := rfl
@[simp] theorem State.logAs_cfg (s : State) (m : Bool) (typ : Nat) (body : List Byte) : (s.logAs m typ body).cfg = s.cfg := rfl
@[simp] theorem State.logAs_lat (s : State) (m : Bool) (typ : Nat) (body : List Byte) : (s.logAs m typ body).lat = s.lat := rfl
@[simp] theorem State.logAs_userRead (s : State) (m : Bool) (typ : Nat) (body : List Byte) : (s.logAs m typ body).userRead = s.userRead := rfl
@[simp] theorem State.logAs_jtag (s : State) (m : Bool) (typ : Nat) (body : List Byte) : (s.logAs m typ body).jtag = s.jtag := rfl
@[simp] theorem State.logAs_pending (s : State) (m : Bool) (typ : Nat) (body : List Byte) : (s.logAs m typ body).pending = s.pending := rfl

@[simp] theorem State.log_now (s : State) (typ : Nat) (body : List Byte) : (s.log typ body).now = s.now := by
  unfold State.log; split <;> rfl
@[simp] theorem State.log_fresh (s : State) (typ : Nat) (body : List Byte) : (s.log typ body).fresh = s.fresh := by
  unfold State.log; split <;> rfl
@[simp] theorem State.log_stg (s : State) (typ : Nat) (body : List Byte) : (s.log typ body).stg = s.stg := by
  unfold State.log; split <;> rfl
@[simp] theorem State.log_act (s : State) (typ : Nat) (body : List Byte) : (s.log typ body).act = s.act := by
  unfold State.log; split <;> rfl
@[simp] theorem State.log_cmts (s : State) (typ : Nat) (body : List Byte) : (s.log typ body).cmts = s.cmts := by
  unfold State.log; split <;> rfl
@[simp] theorem State.log_glb (s : State) (typ : Nat) (body : List Byte) : (s.log typ body).glb = s.glb := by
  unfold State.log; split <;> rfl
@[simp] theorem State.log_md (s : State) (typ : Nat) (body : List Byte) : (s.log typ body).md = s.md := by
  unfold State.log; split <;> rfl
@[simp] theorem State.log_tb (s : State) (typ : Nat) (body : List Byte) : (s.log typ body).tb = s.tb := by
  unfold State.log; split <;> rfl
@[simp] theorem State.log_tac (s : State) (typ : Nat) (body : List Byte) : (s.log typ body).tac = s.tac := by
  unfold State.log; split <;> rfl
@[simp] theorem State.log_tin (s : State) (typ : Nat) (body : List Byte) : (s.log typ body).tin = s.tin := by
  unfold State.log; split <;> rfl
@[simp] theorem State.log_ref (s : State) (typ : Nat) (body : List Byte) : (s.log typ body).ref = s.ref := by
  unfold State.log; split <;> rfl
@[simp] theorem State.log_srv (s : State) (typ : Nat) (body : List Byte) : (s.log typ body).srv = s.srv := by
  unfold State.log; split <;> rfl
@[simp] theorem State.log_out (s : State) (typ : Nat) (body : List Byte) : (s.log typ body).out = s.out := by
  unfold State.log; split <;> rfl
@[simp] theorem State.log_gns (s : State) (typ : Nat) (body : List Byte) : (s.log typ body).gns = s.gns := by
  unfold State.log; split <;> rfl
@[simp] theorem State.log_ports (s : State) (typ : Nat) (body : List Byte) : (s.log typ body).ports = s.ports := by
  unfold State.log; split <;> rfl
@[simp] theorem State.log_wv (s : State) (typ : Nat) (body : List Byte) : (s.log typ body).wv = s.wv := by
  unfold State.log; split <;> rfl
@[simp] theorem State.log_ptp (s : State) (typ : Nat) (body : List Byte) : (s.log typ body).ptp = s.ptp := by
  unfold State.log; split <;> rfl
@[simp] theorem State.log_hif (s : State) (typ : Nat) (body : List Byte) : (s.log typ body).hif = s.hif := by
  unfold State.log; split <;> rfl
@[simp] theorem State.log_pke (s : State) (typ : Nat) (body : List Byte) : (s.log typ body).pke = s.pke := by
  unfold State.log; split <;> rfl
@[simp] theorem State.log_fmu (s : State) (typ : Nat) (body : List Byte) : (s.log typ body).fmu = s.fmu := by
  unfold State.log; split <;> rfl
@[simp] theorem State.log_mgt (s : State) (typ : Nat) (body : List Byte) : (s.log typ body).mgt = s.mgt := by
  unfold State.log; split <;> rfl
@[simp] theorem State.log_pmc (s : State) (typ : Nat) (body : List Byte) : (s.log typ body).pmc = s.pmc := by
  unfold State.log; split <;> rfl
@[simp] theorem State.log_cfg (s : State) (typ : Nat) (body : List Byte) : (s.log typ body).cfg = s.cfg := by
  unfold State.log; split <;> rfl
@[simp] theorem State.log_lat (s : State) (typ : Nat) (body : List Byte) : (s.log typ body).lat = s.lat := by
  unfold State.log; split <;> rfl
@[simp] theorem State.log_userRead (s : State) (typ : Nat) (body : List Byte) : (s.log typ body).userRead = s.userRead := by
  unfold State.log; split <;> rfl
@[simp] theorem State.log_jtag (s : State) (typ : Nat) (body : List Byte) : (s.log typ body).jtag = s.jtag := by
  unfold State.log; split <;> rfl
@[simp] theorem State.log_pending (s : State) (typ : Nat) (body : List Byte) : (s.log typ body).pending = s.pending := by
  unfold State.log; split <;> rfl

@[simp] theorem State.faultReport_now (s : State) (tag safe : Nat) : (s.faultReport tag safe).now = s.now := rfl
@[simp] theorem State.faultReport_fresh (s : State) (tag safe : Nat) : (s.faultReport tag safe).fresh = s.fresh := rfl
@[simp] theorem State.faultReport_stg (s : State) (tag safe : Nat) : (s.faultReport tag safe).stg = s.stg := rfl
@[simp] theorem State.faultReport_act (s : State) (tag safe : Nat) : (s.faultReport tag safe).act = s.act := rfl
@[simp] theorem State.faultReport_cmts (s : State) (tag safe : Nat) : (s.faultReport tag safe).cmts = s.cmts := rfl
@[simp] theorem State.faultReport_glb (s : State) (tag safe : Nat) : (s.faultReport tag safe).glb = s.glb := rfl
@[simp] theorem State.faultReport_md (s : State) (tag safe : Nat) : (s.faultReport tag safe).md = s.md := rfl
@[simp] theorem State.faultReport_tb (s : State) (tag safe : Nat) : (s.faultReport tag safe).tb = s.tb := rfl
@[simp] theorem State.faultReport_tac (s : State) (tag safe : Nat) : (s.faultReport tag safe).tac = s.tac := rfl
@[simp] theorem State.faultReport_tin (s : State) (tag safe : Nat) : (s.faultReport tag safe).tin = s.tin := rfl
@[simp] theorem State.faultReport_ref (s : State) (tag safe : Nat) : (s.faultReport tag safe).ref = s.ref := rfl
@[simp] theorem State.faultReport_srv (s : State) (tag safe : Nat) : (s.faultReport tag safe).srv = s.srv := rfl
@[simp] theorem State.faultReport_out (s : State) (tag safe : Nat) : (s.faultReport tag safe).out = s.out := rfl
@[simp] theorem State.faultReport_gns (s : State) (tag safe : Nat) : (s.faultReport tag safe).gns = s.gns := rfl
@[simp] theorem State.faultReport_ports (s : State) (tag safe : Nat) : (s.faultReport tag safe).ports = s.ports := rfl
@[simp] theorem State.faultReport_wv (s : State) (tag safe : Nat) : (s.faultReport tag safe).wv = s.wv := rfl
@[simp] theorem State.faultReport_ptp (s : State) (tag safe : Nat) : (s.faultReport tag safe).ptp = s.ptp := rfl
@[simp] theorem State.faultReport_hif (s : State) (tag safe : Nat) : (s.faultReport tag safe).hif = s.hif := rfl
@[simp] theorem State.faultReport_pke (s : State) (tag safe : Nat) : (s.faultReport tag safe).pke = s.pke := rfl
@[simp] theorem State.faultReport_mgt (s : State) (tag safe : Nat) : (s.faultReport tag safe).mgt = s.mgt := rfl
@[simp] theorem State.faultReport_pmc (s : State) (tag safe : Nat) : (s.faultReport tag safe).pmc = s.pmc := rfl
@[simp] theorem State.faultReport_cfg (s : State) (tag safe : Nat) : (s.faultReport tag safe).cfg = s.cfg := rfl
@[simp] theorem State.faultReport_fe (s : State) (tag safe : Nat) : (s.faultReport tag safe).fe = s.fe := rfl
@[simp] theorem State.faultReport_lat (s : State) (tag safe : Nat) : (s.faultReport tag safe).lat = s.lat := rfl
@[simp] theorem State.faultReport_userRead (s : State) (tag safe : Nat) : (s.faultReport tag safe).userRead = s.userRead := rfl
@[simp] theorem State.faultReport_jtag (s : State) (tag safe : Nat) : (s.faultReport tag safe).jtag = s.jtag := rfl
@[simp] theorem State.faultReport_pending (s : State) (tag safe : Nat) : (s.faultReport tag safe).pending = s.pending := rfl

@[simp] theorem State.dma_now (s : State) (addr : Nat) (bs : List Byte) : (s.dma addr bs).now = s.now := by
  unfold State.dma; split <;> rfl
@[simp] theorem State.dma_fresh (s : State) (addr : Nat) (bs : List Byte) : (s.dma addr bs).fresh = s.fresh := by
  unfold State.dma; split <;> rfl
@[simp] theorem State.dma_stg (s : State) (addr : Nat) (bs : List Byte) : (s.dma addr bs).stg = s.stg := by
  unfold State.dma; split <;> rfl
@[simp] theorem State.dma_act (s : State) (addr : Nat) (bs : List Byte) : (s.dma addr bs).act = s.act := by
  unfold State.dma; split <;> rfl
@[simp] theorem State.dma_ctr (s : State) (addr : Nat) (bs : List Byte) : (s.dma addr bs).ctr = s.ctr := by
  unfold State.dma; split <;> rfl
@[simp] theorem State.dma_cmts (s : State) (addr : Nat) (bs : List Byte) : (s.dma addr bs).cmts = s.cmts := by
  unfold State.dma; split <;> rfl
@[simp] theorem State.dma_glb (s : State) (addr : Nat) (bs : List Byte) : (s.dma addr bs).glb = s.glb := by
  unfold State.dma; split <;> rfl
@[simp] theorem State.dma_md (s : State) (addr : Nat) (bs : List Byte) : (s.dma addr bs).md = s.md := by
  unfold State.dma; split <;> rfl
@[simp] theorem State.dma_tb (s : State) (addr : Nat) (bs : List Byte) : (s.dma addr bs).tb = s.tb := by
  unfold State.dma; split <;> rfl
@[simp] theorem State.dma_tac (s : State) (addr : Nat) (bs : List Byte) : (s.dma addr bs).tac = s.tac := by
  unfold State.dma; split <;> rfl
@[simp] theorem State.dma_tin (s : State) (addr : Nat) (bs : List Byte) : (s.dma addr bs).tin = s.tin := by
  unfold State.dma; split <;> rfl
@[simp] theorem State.dma_ref (s : State) (addr : Nat) (bs : List Byte) : (s.dma addr bs).ref = s.ref := by
  unfold State.dma; split <;> rfl
@[simp] theorem State.dma_srv (s : State) (addr : Nat) (bs : List Byte) : (s.dma addr bs).srv = s.srv := by
  unfold State.dma; split <;> rfl
@[simp] theorem State.dma_out (s : State) (addr : Nat) (bs : List Byte) : (s.dma addr bs).out = s.out := by
  unfold State.dma; split <;> rfl
@[simp] theorem State.dma_gns (s : State) (addr : Nat) (bs : List Byte) : (s.dma addr bs).gns = s.gns := by
  unfold State.dma; split <;> rfl
@[simp] theorem State.dma_ports (s : State) (addr : Nat) (bs : List Byte) : (s.dma addr bs).ports = s.ports := by
  unfold State.dma; split <;> rfl
@[simp] theorem State.dma_wv (s : State) (addr : Nat) (bs : List Byte) : (s.dma addr bs).wv = s.wv := by
  unfold State.dma; split <;> rfl
@[simp] theorem State.dma_ptp (s : State) (addr : Nat) (bs : List Byte) : (s.dma addr bs).ptp = s.ptp := by
  unfold State.dma; split <;> rfl
@[simp] theorem State.dma_pke (s : State) (addr : Nat) (bs : List Byte) : (s.dma addr bs).pke = s.pke := by
  unfold State.dma; split <;> rfl
@[simp] theorem State.dma_fmu (s : State) (addr : Nat) (bs : List Byte) : (s.dma addr bs).fmu = s.fmu := by
  unfold State.dma; split <;> rfl
@[simp] theorem State.dma_mgt (s : State) (addr : Nat) (bs : List Byte) : (s.dma addr bs).mgt = s.mgt := by
  unfold State.dma; split <;> rfl
@[simp] theorem State.dma_pmc (s : State) (addr : Nat) (bs : List Byte) : (s.dma addr bs).pmc = s.pmc := by
  unfold State.dma; split <;> rfl
@[simp] theorem State.dma_cfg (s : State) (addr : Nat) (bs : List Byte) : (s.dma addr bs).cfg = s.cfg := by
  unfold State.dma; split <;> rfl
@[simp] theorem State.dma_fe (s : State) (addr : Nat) (bs : List Byte) : (s.dma addr bs).fe = s.fe := by
  unfold State.dma; split <;> rfl
@[simp] theorem State.dma_lat (s : State) (addr : Nat) (bs : List Byte) : (s.dma addr bs).lat = s.lat := by
  unfold State.dma; split <;> rfl
@[simp] theorem State.dma_userRead (s : State) (addr : Nat) (bs : List Byte) : (s.dma addr bs).userRead = s.userRead := by
  unfold State.dma; split <;> rfl
@[simp] theorem State.dma_jtag (s : State) (addr : Nat) (bs : List Byte) : (s.dma addr bs).jtag = s.jtag := by
  unfold State.dma; split <;> rfl
@[simp] theorem State.dma_pending (s : State) (addr : Nat) (bs : List Byte) : (s.dma addr bs).pending = s.pending := by
  unfold State.dma; split <;> rfl

/-- Host memory after a write of the device: with Bus Master Enable its bytes are written, and without it nothing is. -/
@[simp] theorem State.dma_mem (s : State) (addr : Nat) (bs : List Byte) :
    (s.dma addr bs).hif.mem = if s.hif.bme then memPut s.hif.mem addr bs else s.hif.mem := by
  unfold State.dma; split <;> rfl

@[simp] theorem State.dma_bme (s : State) (addr : Nat) (bs : List Byte) : (s.dma addr bs).hif.bme = s.hif.bme := by
  unfold State.dma; split <;> rfl

/-- A cause sets its bit of HIF_CAUSE. -/
@[simp] theorem State.cause_cause (s : State) (b : Nat) : (s.cause b).hif.cause = s.hif.cause ||| BitVec.ofNat 32 (2 ^ b) := by
  unfold State.cause; split <;> rfl

@[simp] theorem State.cause_mem (s : State) (b : Nat) : (s.cause b).hif.mem = s.hif.mem := by
  unfold State.cause; split <;> rfl

/-- While Bodkin is halted nothing is logged. -/
theorem State.log_halted (s : State) (typ : Nat) (body : List Byte) (h : s.fmu.halted = true) : s.log typ body = s := if_pos h

/-- A fault report stands last among those of its window. -/
theorem State.faultReport_reports (s : State) (tag safe : Nat) :
    (s.faultReport tag safe).fmu.reports =
      (if s.fmu.window.isNone then [] else s.fmu.reports) ++ [{ tag := tag, time := s.nowWord, safe := safe }] := by
  unfold State.faultReport
  cases h : s.fmu.window <;> simp [State.count, State.countN, h]

/-- A fault report opens a window where none is open. -/
theorem State.faultReport_window (s : State) (tag safe : Nat) : (s.faultReport tag safe).fmu.window = some (s.fmu.window.getD s.now) := by
  unfold State.faultReport
  cases h : s.fmu.window <;> simp [State.count, State.countN, h]

end Sys2Proof.Machine
end

