-- ==== Sys2Proof/WellFormed.lean ====
section
/-! DEFINITION. Which commands are well formed: their operands name things the part has. -/

namespace Sys2Proof

/-- Whether a block of the type is one of the part (ports are 0 to 4). -/
def CmtBlk.valid : CmtBlk → Bool
  | .mac n => decide (n < 5)
  | _ => true

/-- Whether an output is one of the sixteen. -/
def OutId.valid : OutId → Bool
  | .clk n => decide (n < 10)
  | .pps m => decide (m < 4)
  | .tod => true
  | .gpps => true

/-- Whether a calibration brings the 1,024 measurements of each set (R414). -/
def StakeCal.whole (c : StakeCal) : Bool := [c.roundTrip, c.transmit, c.replica].all fun l => l.length == 1024

/-- Whether a write of configuration space fits the fields that it names: 3-bit sizes and 64-bit base addresses (R490, R491). -/
def PcieWrite.fits (w : PcieWrite) : Bool :=
  let under := fun (o : Option Nat) (n : Nat) => match o with
    | some v => decide (v < n)
    | none => true
  under w.mps 8 && under w.mrrs 8 && under w.bar0 (2 ^ 64) && under w.bar2 (2 ^ 64)

/-- Whether a clock domain is one of those monitored (R562). -/
def ClkDom.valid : ClkDom → Bool
  | .srdRx n => decide (n < 5)
  | .srdTx n => decide (n < 5)
  | .clkout n => decide (n < 10)
  | .time => true
  | .weft => true
  | .core => true
  | .mgt => true
  | .gnss => true
  | .pcie => true
  | .qspi => true

/-- Whether every operand that names one of a number of like things names one the part has. -/
def Instr.wf : Instr → Bool
  | .registerWrite _ off _ _ => off % 4 == 0 && decide (off < 0x1000000)
  | .powerOnReset rails => rails.length == 5
  | .resetNAssert _ => true
  | .resetNRelease _ => true
  | .pllLock => true
  | .glbReset _ _ => true
  | .deviceReset => true
  | .droopStretchStart _ => true
  | .droopRecover _ => true
  | .stretchEnd => true
  | .droopRecord => true
  | .droopHeavyEval => true
  | .modeEvaluation => true
  | .bootTimeout => true
  | .calibrateTimeout => true
  | .orderlyRestartReq => true
  | .safeRestartReq => true
  | .drainTimeout => true
  | .drainReset => true
  | .safeAutoRestart => true
  | .maintainBound => true
  | .fwSwapRevert => true
  | .slotLoad _ _ _ => true
  | .commit b _ => b.valid
  | .check b _ => b.valid
  | .revert b _ => b.valid
  | .commitValidated b _ => b.valid
  | .commitApply b _ => b.valid
  | .timeLatchRead _ => true
  | .weftLatchRead _ => true
  | .weftLoad _ => true
  | .weftSteer => true
  | .tbSet _ => true
  | .tbStep _ => true
  | .tbSlew _ => true
  | .tbCancel _ => true
  | .stepCheckDone _ _ => true
  | .stepApply _ _ => true
  | .slewMsTick => true
  | .tacCalibration hits => hits.length == 33
  | .stakeCalibration n main alt => decide (n < 4) && main.whole && alt.all StakeCal.whole
  | .outputCalibration => true
  | .tacBgCalDone g _ => decide (g < 4)
  | .tacRotate g => decide (g < 4)
  | .tinEdge n _ _ => decide (n < 8)
  | .captureBufferWrite n => decide (n < 8)
  | .measurementTruncate n => decide (n < 8)
  | .tinArm _ => true
  | .tinDisarm _ => true
  | .registerReaderEnable => true
  | .tinRecRead _ => true
  | .tinMark => true
  | .tinRewind => true
  | .tinClear => true
  | .refMeasurement id _ => decide (id < 17)
  | .refActivityTimeout id _ => decide (id < 17)
  | .todinMessage _ _ => true
  | .selectorEvaluation => true
  | .ensembleUpdate => true
  | .wtrCountdown => true
  | .endWtr _ id => decide (id < 17)
  | .forget _ id => decide (id < 17)
  | .servoUpdate => true
  | .fastlockHalve => true
  | .spliceWindowEnd => true
  | .holdoverModelFit => true
  | .modelCopyWrite => true
  | .holdoverPredict => true
  | .forgetModel _ => true
  | .ppsEdge m => decide (m < 4)
  | .ppsPulseEnd m => decide (m < 4)
  | .ppsInputLost m => decide (m < 4)
  | .outputUnmute o => o.valid
  | .clkoutRealign n => decide (n < 10)
  | .clkoutMonitorTrip n _ => decide (n < 10)
  | .todMessageSend => true
  | .gppsPulse => true
  | .feScriptRun _ => true
  | .agcRead _ => true
  | .agcMonitorReport _ _ => true
  | .channelPlacement l _ => l.all (· < 6)
  | .channelDetect ch _ _ _ _ => decide (ch < 192)
  | .searchExhausted ch => decide (ch < 192)
  | .pullinLock ch => decide (ch < 192)
  | .pullinTimeout ch => decide (ch < 192)
  | .syncFound ch => decide (ch < 192)
  | .towDecoded ch => decide (ch < 192)
  | .channelLost ch => decide (ch < 192)
  | .lostRefound ch => decide (ch < 192)
  | .lostTimeout ch => decide (ch < 192)
  | .cycleSlip ch => decide (ch < 192)
  | .epochStrobe _ _ => true
  | .gnssSolution _ => true
  | .exclusionExpire k => decide (k < 32)
  | .integClearExpire => true
  | .integGoodReturn => true
  | .recordSetLock _ => true
  | .gnsStatLatch _ => true
  | .resurvey _ => true
  | .rerunScript _ => true
  | .coldStart _ => true
  | .checkinSleep => true
  | .checkinWake => true
  | .checkinEarlyWake => true
  | .frameReceive n _ => decide (n < 5)
  | .pauseReceive n _ => decide (n < 5)
  | .pfcReceive n _ quanta => decide (n < 4) && quanta.length == 8
  | .pauseExpire n prio => decide (n < 5) && prio.all (· < 8)
  | .xoffRepeat n => decide (n < 5)
  | .xonSend n => decide (n < 5)
  | .pauseWatchdog n prio => decide (n < 5) && prio.all (· < 8)
  | .xoffWatchdog n => decide (n < 5)
  | .holdoffExpire n prio _ => decide (n < 5) && prio.all (· < 8)
  | .esmcReceive n _ _ => decide (n < 4)
  | .esmcInfoSend n => decide (n < 4)
  | .preemptVerifySend n => decide (n < 4)
  | .preemptRespondReceive n => decide (n < 4)
  | .classifierRuleWrite k w _ => decide (k < 256) && decide (w < 5)
  | .parkEvaluation => true
  | .parkApply => true
  | .speedStepDown n => decide (n < 4)
  | .speedStepUp n => decide (n < 4)
  | .speedStepFail n => decide (n < 4)
  | .linkUp n _ _ => decide (n < 5)
  | .linkDown n => decide (n < 5)
  | .trackerConversion n kind _ code => decide (n < 4) && decide (kind < 3) && decide (code < 4096)
  | .syncePhaseDeliver n => decide (n < 4)
  | .replicaUpdate n => decide (n < 4)
  | .laneTake lane => decide (lane < 8)
  | .answerBuilt lane => decide (lane < 8)
  | .frameCommit n _ _ _ _ _ => decide (n < 5)
  | .frameSent n => decide (n < 5)
  | .keyRotation => true
  | .rotate _ => true
  | .cookieMint => true
  | .mintComplete => true
  | .syncSend n _ => decide (n < 4)
  | .announceSend n inst => decide (n < 4) && decide (inst < 4)
  | .pdelayReqSend n inst => decide (n < 4) && decide (inst < 4)
  | .ptpMessageReceive lane => decide (lane < 8)
  | .unicastNegotiation lane => decide (lane < 8)
  | .delayReq lane => decide (lane < 8)
  | .pdelayReqReceive lane => decide (lane < 8)
  | .pdelayRespFollowUp n => decide (n < 4)
  | .peerDelayComplete lane => decide (lane < 8)
  | .clientAnnounce lane => decide (lane < 8)
  | .clientSync lane => decide (lane < 8)
  | .clientDelayResp lane => decide (lane < 8)
  | .clientGrantRenew n => decide (n < 4)
  | .grantExpire n _ => decide (n < 4)
  | .clientGmTimeout n => decide (n < 4)
  | .cancelGrants _ n => decide (n < 4)
  | .restartClient _ n => decide (n < 4)
  | .hifReset _ => true
  | .rxTailWrite r _ => decide (r < 16)
  | .txTailWrite r _ => decide (r < 16)
  | .cqTailWrite q _ => decide (q < 2)
  | .hostFrameDeliver r _ _ => decide (r < 16)
  | .ringWaitExpire r => decide (r < 16)
  | .hostFrameTransmit r _ => decide (r < 16)
  | .txComplete r => decide (r < 16)
  | .commandFetch q _ => decide (q < 2)
  | .abort q _ => decide (q < 2)
  | .abortAll q => decide (q < 2)
  | .evsRecordDeliver => true
  | .evsHostRdWrite _ => true
  | .evsMark => true
  | .evsRewind => true
  | .evsClear => true
  | .msixMessage v => decide (v < 36)
  | .ptmReq _ => true
  | .ptmAuto => true
  | .ptmResponse _ _ => true
  | .ptmTimeout => true
  | .ptmResultLatch _ => true
  | .modexp core => decide (core < 8)
  | .rsaPriv core => decide (core < 8)
  | .ecdh core => decide (core < 8)
  | .ecdhEph core => decide (core < 8)
  | .ecdsaSign core => decide (core < 8)
  | .ecdsaVerify core => decide (core < 8)
  | .eddsaSign core => decide (core < 8)
  | .eddsaVerify core => decide (core < 8)
  | .keygen core => decide (core < 8)
  | .delete core => decide (core < 8)
  | .pubkey core => decide (core < 8)
  | .pkeResultRelease core _ => decide (core < 8)
  | .weftPeriodicCompare => true
  | .clockMonitorTrip d => d.valid
  | .railFault _ _ => true
  | .tempFault => true
  | .lockstepMismatch _ => true
  | .heartbeatTimeout => true
  | .faultPathFail _ => true
  | .faultReport _ => true
  | .stormWindowClose => true
  | .memoryScrubDone m _ => decide (m < 8)
  | .rotatingPassStart => true
  | .passScanStart k => decide (k < 24)
  | .passEnd k _ _ => decide (k < 24)
  | .test _ k => decide (k < 24)
  | .clearRetired _ k => decide (k < 24)
  | .sensorScan temps rails => temps.length == 5 && rails.length == 5
  | .status _ => true
  | .regRead _ => true
  | .regWrite _ => true
  | .logRead _ => true
  | .slotErase _ => true
  | .slotEraseDone _ => true
  | .slotWrite _ => true
  | .slotVerify _ => true
  | .fwSwap _ => true
  | .fwReady => true
  | .restart _ => true
  | .offlineTest _ => true
  | .otarnUndefinedCode _ => true
  | .otarnDropRecord => true
  | .i2cPointerWrite _ => true
  | .i2cRead _ => true
  | .railMinRead _ k => decide (k < 5)
  | .mgtStatRead _ => true
  | .counterLatchRead _ off => off % 4 == 0
  | .counterWrapClear off => off % 4 == 0
  | .bwWindowEnd n => decide (n < 5)
  | .bwStatLatch _ n => decide (n < 5)
  | .bwPeakRead _ n => decide (n < 5)
  | .userPageRead off _ => off % 4 == 0
  | .jtagSamplePreload _ _ => true
  | .jtagExtest _ => true
  | .jtagHighz => true
  | .jtagClamp => true
  | .jtagBypass _ => true
  | .jtagTrst => true
  | .leapEvent => true
  | .offsetSlewEnd o => o.valid
  | .pathAHeartbeatLoss => true
  | .clientDelayReqSend n => decide (n < 4)
  | .pcieLinkUp _ _ => true
  | .pcieConfigWrite w => w.fits
  | .slotVerifyDone _ => true
  | .scriptWaitExpire _ => true

end Sys2Proof
end

