-- ==== Sys2Proof/Tests/Slice0.lean ====
section
/-! SUPPORT. Small states that meet the hypotheses of the statements, and tests of single steps against the spec's own examples. -/

set_option Elab.async false

namespace Sys2Proof.Tests

open Sys2Proof Sys2Proof.Machine

/-! States for the witnesses. -/

/-- The state after reset. -/
def rst : State := State.reset

/-- The state after reset, but for its mode. -/
def inMode (m : Mode) : State := { rst with md := { rst.md with mode := m } }

/-- A state that follows reference 0 with the lock condition met. -/
def following (m : Mode) : State :=
  { rst with now := 2000000000, md := { rst.md with mode := m, lockSince := some 0 }, ref := { rst.ref with sel := some 0, refs := { RefSt.reset with st := .sel } :: List.replicate 16 RefSt.reset },
             srv := { rst.srv with st := .tracking } }

theorem wit_powerOn : ∃ (rails : List Nat) (k : Nat), k < 5 ∧ rails.getD k 0 < porLimits.getD k 0 := ⟨[900, 764, 1200, 1800, 1800], 1, by decide⟩
theorem wit_deviceReset : ∃ (s : State) (due : Nat), s.glb.resetAt = some due ∧ due ≤ s.now :=
  ⟨{ rst with now := 1000000, glb := { rst.glb with resetAt := some 1000000 } }, 1000000, by decide⟩
theorem wit_drainFree : ∃ s : State, s.drainFree :=
  ⟨{ rst with md := { rst.md with mode := .locked, drainArmed := true } }, by decide, by decide, by decide, by decide, by decide, by decide⟩
theorem wit_autoRestart : ∃ s : State, s.md.mode = .safe ∧ s.bit 0x78108 31 = true ∧
    s.md.since + s.fld 0x78108 7 0 * nsPerSec ≤ s.now ∧ s.recentRestarts.length < 3 :=
  ⟨{ rst with now := 5000000000, act := [(0x78108, 0x80000005)], md := { rst.md with mode := .safe } }, by decide⟩
theorem wit_safeRequest : ∃ s : State, s.md.mode = .safe ∧ s.noWrites = false := ⟨inMode .safe, by decide⟩

theorem wit_release : ∃ s : State, s.glb.resetLow = true := ⟨{ rst with glb := { rst.glb with resetLow := true } }, by decide⟩
theorem wit_pllLock : ∃ s : State, s.inReset = false ∧ s.md.mode = .boot ∧ s.glb.pllLocked = false ∧ s.glb.resetAt = none := ⟨rst, by decide⟩
theorem wit_glbReset_bad : ∃ v : W32, bitsOf v 15 8 ≠ 0xA5 ∨ 2 ≤ bitsOf v 1 0 := ⟨0xA502, by decide⟩
theorem wit_glbReset_reset : ∃ v : W32, bitsOf v 15 8 = 0xA5 ∧ bitsOf v 1 0 = 1 := ⟨0xA501, by decide⟩
theorem wit_glbReset_none : ∃ v : W32, bitsOf v 15 8 = 0xA5 ∧ bitsOf v 1 0 = 0 := ⟨0xA500, by decide⟩
theorem wit_glbReset_waiting : ∃ s : State, s.glb.resetAt.isSome = true := ⟨{ rst with glb := { rst.glb with resetAt := some 0 } }, by decide⟩
theorem wit_railsGood : ∀ k < 5, porLimits.getD k 0 ≤ ([900, 900, 1200, 1800, 1800] : List Nat).getD k 0 := by decide
theorem wit_glbReset_held : ∃ s : State, s.inReset = true := ⟨{ rst with glb := { rst.glb with resetLow := true } }, by decide⟩

theorem wit_droop : ∃ s : State, s.inReset = false ∧ s.glb.pllLocked = true := ⟨{ rst with glb := { rst.glb with pllLocked := true } }, by decide⟩
theorem wit_stretch : ∃ (s : State) (at_ : Nat), s.fmu.holdAt = some at_ ∧ s.fmu.stretch = true ∧ at_ + 1000 ≤ s.now :=
  ⟨{ rst with now := 1000, fmu := { rst.fmu with holdAt := some 0, stretch := true } }, 0, by decide⟩
theorem wit_droopHeavy : ∃ s : State, s.nsNow = 0 ∧ s.tally.fmu.totCyc < 100 * s.tally.fmu.strCyc :=
  ⟨{ rst with fmu := { rst.fmu with strCyc := 1 } }, by decide⟩
theorem wit_droopRecord : ∃ s : State, s.fmu.episodes ≠ 0 ∧ s.fmu.halted = false ∧ s.fmu.droopRecAt = none :=
  ⟨{ rst with fmu := { rst.fmu with episodes := 1 } }, by decide⟩

theorem wit_modeEval : ∀ m : Mode, (inMode m).fmu.halted = false ∧ (inMode m).fld 0x78108 23 12 ≠ 0 ∧ (inMode m).md.mode = m ∧
    (inMode m).ref.sel = none ∧ (inMode m).selStands = false := by intro m; cases m <;> decide
theorem wit_modeEval_halted : ∃ s : State, s.fmu.halted = true := ⟨{ rst with fmu := { rst.fmu with halted := true } }, by decide⟩
theorem wit_modeEval_quiet : ∃ s : State, s.md.mode = .acquire ∧ s.selStands = false ∧ s.md.acqSeen + s.fld 0x78108 23 12 * nsPerSec ≤ s.now ∧
    ∀ i < 17, (s.refAt i).st ≠ .qual ∧ (s.refAt i).st ≠ .sel := ⟨{ inMode .acquire with now := 10 ^ 13 }, by decide +kernel⟩
theorem wit_modeEval_sel : ∀ m : Mode, (following m).ref.sel.isSome = true ∧ (following m).selStands = true ∧ (following m).lockMet = true ∧
    (following m).srv.st = .tracking ∧ (following m).measured ≤ (following m).holdLimit := by intro m; cases m <;> decide
theorem wit_modeEval_limit : ∃ s : State, s.md.mode = .holdover ∧ s.selStands = true ∧ s.srv.st = .tracking ∧ s.holdLimit < s.measured :=
  ⟨{ following .holdover with srv := { (following .holdover).srv with zf := 10 ^ 20 } }, by decide⟩
theorem wit_modeEval_predicted : ∃ s : State, s.md.mode = .holdover ∧ s.selStands = false ∧ s.holdLimit < s.predicted :=
  ⟨{ inMode .holdover with srv := { rst.srv with pred := 10 ^ 20 } }, by decide⟩
/-- A state in MAINTAIN, from LOCKED, with its work ended or at its bound, or neither. -/
def maintaining (ended bound : Bool) : State :=
  { rst with md := { rst.md with mode := .maintain, origin := some .locked, maint := some ⟨true, 0, 0, ended, bound, []⟩ } }
theorem wit_modeEval_maint : ∀ e b, (maintaining e b).md.mode = .maintain ∧ (maintaining e b).md.origin = some .locked ∧
    (maintaining e b).md.maint = some ⟨true, 0, 0, e, b, []⟩ := by intro e b; exact ⟨rfl, rfl, rfl⟩

theorem wit_bootTimeout : ∃ s : State, s.md.mode = .boot ∧ s.inReset = false ∧ s.md.since + 3 * nsPerSec ≤ s.now :=
  ⟨{ rst with now := 3000000000 }, by decide⟩
theorem wit_calTimeout : ∃ s : State, s.md.mode = .calibrate ∧ s.md.since + nsPerSec ≤ s.now :=
  ⟨{ inMode .calibrate with now := 1000000000 }, by decide⟩

theorem wit_orderly : ∃ s : State, s.md.mode.running = true ∧ s.md.drain = false ∧ s.noWrites = false := ⟨inMode .locked, by decide⟩
theorem wit_orderly_refused : ∃ s : State, s.noWrites = false ∧ s.md.mode.running = false := ⟨inMode .safe, by decide⟩
theorem wit_drain : ∃ s : State, s.md.drain = true ∧ s.md.drainUntil ≤ s.now ∧ s.noWrites = false :=
  ⟨{ inMode .locked with md := { (inMode .locked).md with drain := true } }, by decide⟩
theorem wit_maintain : ∃ (s : State) (m : Maint), s.md.mode = .maintain ∧ s.md.maint = some m ∧ m.ended = false ∧ m.began + m.bound ≤ s.now ∧
    m.boundHit = false :=
  ⟨{ rst with md := { rst.md with mode := .maintain, maint := some ⟨false, 0, 0, false, false, []⟩ } }, ⟨false, 0, 0, false, false, []⟩, by decide⟩

theorem wit_noWrites : ∃ s : State, s.md.mode = .calibrate := ⟨inMode .calibrate, rfl⟩

theorem wit_ruleWrite : (inMode .locked).noWrites = false ∧ (inMode .locked).bit (clsOff 255 0) 31 = false ∧
    ({ inMode .locked with act := [(0x24000, 0x80000000)] } : State).bit (clsOff 0 0) 31 = true := by decide +kernel
theorem wit_registerWrite : ∃ s : State, s.inReset = false ∧ s.noWrites = false := ⟨inMode .locked, by decide⟩
theorem wit_registerWrite_staged : ∃ r, regDef 0x80100 = some r ∧ cmtAt 0x80100 = none ∧ isCounter (0x80100 - 4) = false ∧
    r.mask (· == .rw) = 0 ∧ r.mask (· == .rws) ≠ 0 := ⟨_, rfl, by decide, by decide, by decide, by decide⟩
theorem wit_registerWrite_atOnce : ∃ r, regDef 0xC0000 = some r ∧ cmtAt 0xC0000 = none ∧ isCounter (0xC0000 - 4) = false ∧
    r.mask (· == .rw) ≠ 0 ∧ r.mask (· == .rws) = 0 := ⟨_, rfl, by decide, by decide, by decide, by decide⟩

theorem wit_commit : ∃ s : State, s.noWrites = false ∧ s.md.mode ≠ .safe ∧ Assoc.wf regReset s.act = true ∧ Assoc.wf regReset s.stg = true :=
  ⟨inMode .locked, by decide⟩
theorem wit_commit_safe : ∃ s : State, s.md.mode = .safe := ⟨inMode .safe, rfl⟩
theorem wit_commit_supersedes : ∃ (s : State) (b : CmtBlk), (s.cmt b).st = 2 ∧ s.md.mode = .locked :=
  ⟨(inMode .locked).setCmt .srv { CmtSt.reset with st := 2 }, .srv, by decide +kernel, rfl⟩

/-- A state with a set of the servo's block in some stage. -/
def withSet (st : Nat) (check : Bool) (snap : RegMap) : State :=
  (inMode .locked).setCmt .srv { CmtSt.reset with st := st, isCheck := check, snap := snap }
theorem wit_validated : ∃ arg, ∀ check, ((withSet 1 check []).cmt .srv).st = 1 ∧ ((withSet 1 check []).cmt .srv).isCheck = check ∧
    (withSet 1 check []).atOnce .srv = false ∧
    (withSet 1 check []).validate .srv false ((withSet 1 check []).merged .srv ((withSet 1 check []).cmt .srv).snap) = (0, arg) :=
  ⟨0xFFFFFF, by intro check; cases check <;> decide +kernel⟩
theorem wit_validated_bad : ∃ code arg, code ≠ 0 ∧ (withSet 1 false [(0x70000, 0xFFFFFFFF)]).validate .srv false
    ((withSet 1 false [(0x70000, 0xFFFFFFFF)]).merged .srv ((withSet 1 false [(0x70000, 0xFFFFFFFF)]).cmt .srv).snap) = (code, arg) :=
  ⟨0x15, 0, by decide, by decide +kernel⟩
theorem wit_validated_atOnce : ((inMode .locked).setCmt .mgt { CmtSt.reset with st := 1 }).atOnce .mgt = true := by decide +kernel
theorem wit_apply : ((withSet 2 false []).cmt .srv).st = 2 ∧ (withSet 2 false []).safePoint .srv ((withSet 2 false []).merged .srv []) = true := by decide +kernel
/-- A state that disables a ring by commit while Bus Master Enable is 0. -/
def ringWaits : State :=
  ({ inMode .locked with hif := { rst.hif with link := true }, act := [(0x110308, 0x80000006)], stg := [(0x110308, 0x80000006)] } : State).setCmt .hif
    { CmtSt.reset with st := 2 }
theorem wit_apply_hif : (ringWaits.cmt .hif).st = 2 ∧ ringWaits.hifWaits (ringWaits.merged .hif []) = [0x110300] ∧ Assoc.wf regReset ringWaits.act = true ∧
    (withSet 2 false []).hifWaits ((withSet 2 false []).merged .srv []) = [] := by decide +kernel
theorem wit_apply_waits : ((inMode .maintain).setCmt .srv { CmtSt.reset with st := 2 }).safePoint .srv [] = false := by decide +kernel

/-- A part whose first two islands have passed, with flash contents. -/
def atLoad (flash : List Host.Cell) (ok : Bool) : State :=
  { rst with glb := { rst.glb with pllLocked := true },
             fmu := { rst.fmu with islands := List.replicate 24 { Island.reset with st := .inService } },
             cfg := { rst.cfg with flash := flash, flashOk := ok } }
theorem wit_slotLoad : (atLoad [] true).inReset = false ∧ (atLoad [] true).md.mode = .boot ∧ (atLoad [] true).glb.pllLocked = true ∧
    (atLoad [] true).cfg.slot = 0 ∧ ((atLoad [] true).isl 0).st = .inService ∧ ((atLoad [] true).isl 1).st = .inService ∧
    (atLoad [] true).flashFits = true ∧ (atLoad [] false).flashFits = false := by decide

theorem rst_wf : rst.wf := by
  refine ⟨⟨?_, ?_, ?_, ?_, ?_, ?_, ?_, ?_, ?_, ?_, ?_, ?_⟩, ?_⟩ <;> first | exact trivial | rfl | exact ⟨rfl, rfl, rfl, rfl, rfl, rfl, rfl, rfl, rfl, rfl, rfl, rfl, rfl, rfl, rfl, rfl⟩
theorem wit_reads : rst.wf ∧ Path.host ≠ Path.otarn ∧ rst.shadow = true := ⟨rst_wf, by decide, by decide⟩
theorem wit_reads_live : (inMode .locked).wf ∧ (inMode .locked).shadow = false := ⟨rst_wf, by decide⟩

theorem wit_weftLoad : (inMode .calibrate).nsNow = 0 ∧ (inMode .calibrate).md.mode ≠ .boot ∧ (inMode .calibrate).tb.weftLoaded = false := by decide
/-- A state whose Weft runs, in a mode and with TIME_SET. -/
def weftRuns (m : Mode) : State := { inMode m with md := { (inMode m).md with timeSet := true }, tb := { rst.tb with weftLoaded := true } }
theorem wit_weftLater : ∃ s : State, s.nsNow ≠ 0 := ⟨{ rst with tb := { rst.tb with warp := 1 } }, by decide⟩
theorem wit_weftSteer : (weftRuns .acquire).nsNow = 0 ∧ (weftRuns .acquire).tb.weftLoaded = true ∧ (weftRuns .acquire).tb.freeze = none ∧ (weftRuns .acquire).vBit = false ∧
    (weftRuns .locked).vBit = true := by decide
theorem wit_weftSteer_frozen : ∃ s : State, s.nsNow = 0 ∧ s.tb.weftLoaded = true ∧ s.tb.freeze.isSome = true :=
  ⟨{ rst with tb := { rst.tb with weftLoaded := true, freeze := some ⟨0, 0, 0⟩ } }, by decide⟩

theorem wit_hostStep : ∃ s : State, s.noWrites = false := ⟨inMode .freerun, by decide⟩

/-- A STEP of one nanosecond with its check value. -/
def aStep : StepRec := { bodkin := false, op := 2, op0 := 65536, op1 := 0, op2 := 0, op3 := 0, chk := BitVec.ofNat 32 (crc32 (stepBytes
    { bodkin := false, op := 2, op0 := 65536, op1 := 0, op2 := 0, op3 := 0, chk := 0, ctl := 2, token := 0, armedAt := 0 })), ctl := 2, token := 0, armedAt := 0 }
theorem wit_stepCheck : aStep.bodkin = false ∧ crc32 (stepBytes aStep) = aStep.chk.toNat ∧ aStep.badOperand = false ∧ aStep.badAmount = false := by decide +kernel
theorem wit_stepCheck_free : (inMode .freerun).md.mode = .freerun ∧ (inMode .freerun).tb.armed = none ∧ (inMode .freerun).tb.slew = none := by decide
theorem wit_stepCheck_grant : ({ inMode .freerun with act := [(0x78024, 1)] } : State).bit 0x78024 0 = true := by decide
/-- A CANCEL with its check value. -/
def aCancel : StepRec := { bodkin := false, op := 4, op0 := 0, op1 := 0, op2 := 0, op3 := 0, chk := BitVec.ofNat 32 (crc32 (stepBytes
    { bodkin := false, op := 4, op0 := 0, op1 := 0, op2 := 0, op3 := 0, chk := 0, ctl := 4, token := 0, armedAt := 0 })), ctl := 4, token := 0, armedAt := 0 }
theorem wit_stepCheck_cancel : aCancel.bodkin = false ∧ aCancel.op = 4 ∧ crc32 (stepBytes aCancel) = aCancel.chk.toNat ∧ aCancel.badOperand = false := by
  decide +kernel
theorem wit_stepCheck_bad : ({ aStep with op2 := 1 } : StepRec).badOperand = true ∧ ({ aStep with op0 := 0 } : StepRec).badAmount = true := by decide

theorem wit_stepApply : ∃ s : State, s.tb.armed = some aStep ∧ aStep.armedAt + 1000000 ≤ s.now ∧ 0 ≤ (s.warpSns : Int) + aStep.amount ∧
    (s.warpSns : Int) + aStep.amount < ((2 ^ 48 * snsPerSec : Nat) : Int) :=
  ⟨{ rst with now := 1000000, tb := { rst.tb with armed := some aStep, warp := 500000000 } }, by decide +kernel⟩
theorem wit_stepApply_cancel : ∃ s : State, s.tb.armed = some aStep ∧ s.cancelWaits = true :=
  ⟨{ inMode .freerun with act := [(0x78024, 1)], tb := { rst.tb with armed := some aStep, checking := [aCancel] } }, rfl, by decide +kernel⟩
theorem wit_stepApply_noCancel : ({ rst with tb := { rst.tb with armed := some aStep } } : State).cancelWaits = false := by decide +kernel
theorem wit_stepApply_at : ({ rst with tb := { rst.tb with warp := 500000000 } } : State).nsNow = 500000000 := by decide +kernel
theorem wit_stepApply_early : ∃ s : State, s.tb.armed = some aStep ∧ s.now < aStep.armedAt + 1000000 := ⟨{ rst with tb := { rst.tb with armed := some aStep } }, rfl, by decide +kernel⟩
theorem wit_stepApply_set : ({ aStep with op := 1, op0 := 1767225637, op2 := 500000000 } : StepRec).badOperand = false := by decide

/-- A slew of 1 us at 5,000 ps/s. -/
def aSlew : SlewRec := { bodkin := false, amount := 65536000, rate := 5000, change := 0, token := 0, msAt := 0, cancelled := false, abandoned := false }
theorem wit_slew : ∃ s : State, s.tb.slew = some aSlew ∧ aSlew.msAt + 1000000 ≤ s.tb.warp ∧ aSlew.perMs < |(aSlew.amount : Rat) - aSlew.change| :=
  ⟨{ rst with tb := { rst.tb with slew := some aSlew, warp := 1000000 } }, rfl, by decide, by decide +kernel⟩
theorem wit_slew_end : |(({ aSlew with change := 65536000 } : SlewRec).amount : Rat) - ({ aSlew with change := 65536000 } : SlewRec).change| ≤
    ({ aSlew with change := 65536000 } : SlewRec).perMs := by decide +kernel

theorem wit_calibrate : (inMode .calibrate).md.mode = .calibrate ∧ (inMode .calibrate).ports.length = 5 ∧ (inMode .calibrate).md.calTac = false ∧
    (inMode .calibrate).tac.tables.length = 33 ∧ (inMode .calibrate).md.calStk.getD 0 true = false ∧ (inMode .calibrate).md.calOut = false := by decide
/-- 2^22 hits over 3,856 codes, all but one of which have 1,088. -/
def evenHits : List Nat := List.replicate 3855 1088 ++ [64]
theorem wit_evenHits : evenHits.sum = 4194304 := by
  unfold evenHits; rw [List.sum_append, List.sum_replicate]; decide
theorem wit_foldl_max (n a : Nat) : (List.replicate n a).foldl max a = a := by
  induction n with
  | zero => rfl
  | succ n ih => rw [List.replicate_succ, List.foldl_cons, Nat.max_self, ih]
theorem wit_calPasses : calPasses evenHits = true := by
  have h0 : ∀ x ∈ evenHits, x ≠ 0 := by
    intro x hx
    rcases List.mem_append.mp hx with h | h
    · rw [List.eq_of_mem_replicate h]; decide
    · rw [List.mem_singleton.mp h]; decide
  have hd : evenHits.dropWhile (· == 0) = evenHits := by
    unfold evenHits; rw [List.replicate_succ]; rfl
  have ht : evenHits.takeWhile (· != 0) = evenHits := List.takeWhile_eq_self_iff.mpr fun x hx => by simpa using h0 x hx
  have hm : evenHits.foldl max 0 = 1088 := by
    have h1 : (List.replicate 3855 1088).foldl max 0 = 1088 := by
      rw [List.replicate_succ, List.foldl_cons, Nat.max_eq_right (Nat.zero_le _), wit_foldl_max]
    unfold evenHits
    rw [List.foldl_append, h1]
    rfl
  have hl : evenHits.length = 3856 := by unfold evenHits; rw [List.length_append, List.length_replicate]; rfl
  have hr : evenHits.drop 3856 = [] := by rw [← hl, List.drop_length]
  simp only [calPasses, hd, ht, hm, hl, hr, ← List.sum_eq_foldl, wit_evenHits]
  decide +kernel
theorem wit_calPasses_all : ∀ k < 33, ((List.replicate 33 evenHits).getD k []).sum = 4194304 ∧ calPasses ((List.replicate 33 evenHits).getD k []) = true := by
  intro k hk
  rw [List.getD_eq_getElem _ _ (by simpa using hk), List.getElem_replicate]
  exact ⟨wit_evenHits, wit_calPasses⟩
theorem wit_cal_fails : calPasses [4194304] = false ∧ [4194304].sum = 4194304 ∧ (inMode .calibrate).tac.posTac = List.range 29 ∧
    (inMode .calibrate).tac.spare.getD 3 63 = 32 := by decide

theorem wit_tac : (inMode .locked).md.mode.serving = true ∧ (inMode .locked).bit 0x50000 31 = true ∧ (inMode .locked).tac.spare.getD 0 63 < 33 ∧
    (inMode .locked).tacReady 0 = true ∧ 2 ^ (inMode .locked).fld 0x50000 28 24 = 16777216 ∧ calPasses [16777216] = false := by decide
theorem wit_tac_fresh : ∃ s : State, s.tac.fresh.getD 0 false = true ∧ s.tacReady (s.tac.nextPos.getD 0 (groupSpan 0).1) = true ∧
    s.tac.rotAt.getD 0 0 + s.fld 0x50000 7 0 * nsPerSec ≤ s.now :=
  ⟨{ rst with now := 10 ^ 10, tac := { rst.tac with fresh := [true, false, false, false] } }, by decide⟩

/-- Input 0 in event mode on either edge, in LOCKED. -/
def eventMode : State := { inMode .locked with act := [(0x50100, 0x21)] }
theorem wit_tinEdge : eventMode.tinCaptures = true ∧ eventMode.ownSelected 0 false = true ∧ eventMode.tinMode 0 = 1 ∧ eventMode.tinBurst 0 = 0 ∧
    (∀ m < 8, eventMode.stopSelected 0 m false = false) ∧ (eventMode.tinAt 0).gapFrom = none ∧ (eventMode.tinAt 0).opened = none ∧
    eventMode.tinMember 0 = some 0 ∧ eventMode.tin.ins.length = 8 := by decide
theorem wit_tinEdge_output : ∀ m < 4, ¬ (eventMode.bit (pBase m) 29 = true ∧ eventMode.fld (pBase m) 28 25 = 8 + 0) := by decide
theorem wit_tinMissed : ∃ s : State, s.tinMember 0 = none ∧ s.ownSelected 0 false = true ∧ s.tinMode 0 = 1 :=
  ⟨{ eventMode with tac := { eventMode.tac with busyUntil := List.replicate 33 40 } }, by decide⟩
theorem wit_capture : ∃ s : State, (s.tinAt 0).fifo = [(0, 5)] ∧ s.portTurn 0 = true ∧ s.tin.ovfDue = false ∧ s.bufFull = false :=
  ⟨{ rst with tin := { rst.tin with ins := { TinIn.reset with fifo := [(0, 5)] } :: List.replicate 7 TinIn.reset } }, by decide⟩
theorem wit_capture_full : ∃ s : State, (s.tinAt 0).fifo = [(0, 5)] ∧ s.portTurn 0 = true ∧ s.bufFull = true :=
  ⟨{ rst with act := [(0x50010, 0x80000000)], tin := { rst.tin with wr := 16384, ins := { TinIn.reset with fifo := [(0, 5)] } :: List.replicate 7 TinIn.reset } },
   by decide⟩

theorem wit_arm : ∃ s : State, s.noWrites = false ∧ s.tinBurst 0 ≠ 0 ∧ s.tin.ins.length = 8 ∧ (s.tinAt 0).opened = none :=
  ⟨{ inMode .locked with act := [(0x50100, 0x50001)] }, by decide⟩
theorem wit_disarm_open : ∃ s : State, s.noWrites = false ∧ (s.tinAt 0).opened = some ⟨0, 0, 0, 0, 1, false⟩ ∧ (s.tinAt 0).fifo.length < 1024 ∧
    s.tin.ins.length = 8 :=
  ⟨{ inMode .locked with tin := { rst.tin with ins := { TinIn.reset with opened := some ⟨0, 0, 0, 0, 1, false⟩ } :: List.replicate 7 TinIn.reset } }, by decide⟩
theorem wit_truncate : ∃ s : State, (s.tinAt 0).opened = some ⟨0, 0, 0, 0, 1, false⟩ ∧ (s.tinAt 0).lastEdge = some 0 ∧ s.tin.ins.length = 8 ∧
    0 + s.fld 0x50010 26 0 * 1000 ≤ s.now ∧ (s.tinAt 0).fifo.length < 1024 :=
  ⟨{ rst with now := 10 ^ 12, tin := { rst.tin with ins :=
      { TinIn.reset with opened := some ⟨0, 0, 0, 0, 1, false⟩, lastEdge := some 0 } :: List.replicate 7 TinIn.reset } }, by decide⟩

theorem wit_reader : ∃ s : State, s.noWrites = false ∧ s.lat.length = 2 ∧ s.rdEn = false ∧ s.unread s.tin.rdr ≠ 0 ∧ s.tin.ovfDue = false :=
  ⟨{ inMode .locked with tin := { rst.tin with buf := [7], wr := 1 } }, by decide⟩
theorem wit_reader_mark : ∃ (s : State) (m : Nat), s.noWrites = false ∧ s.tin.rdr.mark = some m ∧ s.tin.rdr.gone = false ∧ ptrSub s.tin.wr m ≤ 16384 :=
  ⟨{ inMode .locked with tin := { rst.tin with rdr := { Reader.reset with mark := some 0 } } }, 0, by decide⟩
theorem wit_reader_noMark : (inMode .locked).noWrites = false ∧ (inMode .locked).tin.rdr.mark = none ∧ (inMode .locked).unread (inMode .locked).tin.rdr = 0 := by decide

/-- Reference 8 enabled and in QUAL, with eight measurements of 0. -/
def judged : State :=
  { inMode .locked with now := 10 ^ 10, act := [(0x60300, 0xC2000000)], ref := { rst.ref with refs := List.replicate 8 RefSt.reset ++
      [{ RefSt.reset with st := .qual, recent := (List.range 8).map fun k => (k * 1000000000, (0 : Int)) }] ++ List.replicate 8 RefSt.reset } }
theorem wit_refMeasure : judged.ref.refs.length = 17 ∧ judged.refOn 8 = true ∧ (judged.refAt 8).st ≠ .disq ∧ (judged.refAt 8).recent.length = 8 ∧
    (RefSt.reset).recent.length < 8 := by decide +kernel
theorem wit_refMeasure_jump : judged.pjLim 8 < |((10 ^ 20 : Int) : Rat) - predict8 (judged.refAt 8).recent judged.now| := by decide +kernel
/-- REFIN 0 enabled in LOCKED with some signal, its TAC free. -/
def refinOn (sig : Nat) : State := { inMode .locked with now := 10 ^ 10, act := [(0x60100, BitVec.ofNat 32 (0xC2000000 + sig * 2097152))],
                                                         ref := { rst.ref with tod := { rst.ref.tod with waiting := some (5, 0) } } }
theorem wit_refEdge : ∀ sig < 3, (refinOn sig).refOn 0 = true ∧ (refinOn sig).tacReady 16 = true ∧ ((refinOn sig).refAt 0).recent.length < 8 ∧
    (refinOn sig).ref.refs.length = 17 ∧ (refinOn sig).refKind 0 = [1, 0, 2].getD sig 0 ∧ ∀ w, pulseOff ((refinOn sig).refAt 0) w = false := by
  intro sig h
  have : sig = 0 ∨ sig = 1 ∨ sig = 2 := by omega
  rcases this with rfl | rfl | rfl <;> exact ⟨by decide, by decide, by decide, by decide, by decide, fun _ => rfl⟩
theorem wit_refEdge_label : (refinOn 1).ref.tod.waiting = some (5, 0) ∧ 0 + 10000000 ≤ (refinOn 1).now ∧ (refinOn 1).ref.tod.lastLabel = none := by decide
theorem wit_refEdge_missed : ∃ s : State, s.refOn 0 = true ∧ s.tacReady 16 = false :=
  ⟨{ refinOn 0 with tac := { rst.tac with posTac := putAt rst.tac.posTac 16 63 } }, by decide⟩
theorem wit_refEdge_off : ∃ (r : RefSt) (w : Int), pulseOff r w = true :=
  ⟨{ RefSt.reset with active := true, lastAt := some 0 }, 10 ^ 20, by decide⟩
theorem wit_refTimeout : (List.range 5).any (fun _ => { judged with gns := { judged.gns with noSol := 2 } }.activityDue 8 .epoch) = true := by decide +kernel

theorem wit_selector : judged.md.mode.serving = true ∧ judged.ref.refs.length = 17 ∧ judged.activityOk 8 = false ∧ judged.refOn 8 = true ∧
    (judged.refAt 8).st ≠ .disq := by decide +kernel
theorem wit_selector_set : (judged.cmt .ref).st ≠ 2 ∧ ((judged.setCmt .ref { CmtSt.reset with st := 2 }).cmt .ref).st = 2 := by decide +kernel
theorem wit_ensemble : ∃ s : State, s.md.mode.serving = true ∧ s.ref.refs.length = 17 ∧ (s.refAt 0).lastAt = some 0 ∧ s.now ≤ 0 + 1000000000 :=
  ⟨{ inMode .locked with ref := { rst.ref with refs := { RefSt.reset with lastAt := some 0 } :: List.replicate 16 RefSt.reset } }, by decide⟩

theorem wit_refCtl : (inMode .locked).noWrites = false ∧ (inMode .locked).md.mode.running = true ∧ (inMode .safe).noWrites = false ∧
    (inMode .safe).md.mode.running = false ∧ (inMode .locked).ref.refs.length = 17 ∧ ((inMode .locked).refAt 0).st ≠ .wtr := by decide
theorem wit_endWtr : ∃ s : State, s.noWrites = false ∧ s.md.mode.running = true ∧ (s.refAt 0).st = .wtr ∧ s.ref.refs.length = 17 :=
  ⟨{ inMode .locked with ref := { rst.ref with refs := { RefSt.reset with st := .wtr } :: List.replicate 16 RefSt.reset } }, by decide⟩

/-- Tracking reference 0 in LOCKED with time set, with or without a new measurement. -/
def tracks (new : Bool) : State :=
  { inMode .locked with
      md := { (inMode .locked).md with timeSet := true }, srv := { rst.srv with st := .tracking, target := some 0 },
      fmu := { rst.fmu with islands := List.replicate 24 { Island.reset with st := .inService } },
      ref := { rst.ref with refs := { RefSt.reset with st := .sel, isNew := new, z := 65536 } :: List.replicate 16 RefSt.reset } }
theorem wit_servo_halted : ∃ s : State, s.fmu.halted = true := ⟨{ rst with fmu := { rst.fmu with halted := true } }, by decide⟩
theorem wit_servo_idle : ∃ s : State, s.fmu.halted = false ∧ s.md.mode.running = false := ⟨inMode .maintain, by decide⟩
theorem wit_servo : ∀ new, (tracks new).fmu.halted = false ∧ (tracks new).md.mode.running = true ∧ (tracks new).islandOut 3 = false ∧
    (tracks new).srv.st = .tracking ∧ (tracks new).srv.target = some 0 ∧ (tracks new).srv.retry = false ∧ (tracks new).md.timeSet = true ∧
    0 < (tracks new).ref.refs.length ∧ ((tracks new).refAt 0).isNew = new ∧ ((tracks new).cmt .srv).st ≠ 2 := by intro new; cases new <;> decide
theorem wit_servo_set : (((tracks true).setCmt .srv { CmtSt.reset with st := 2 }).cmt .srv).st = 2 ∧ (tracks true).md.mode ≠ .maintain := by decide +kernel

theorem wit_fastlock : ∃ s : State, s.md.mode.running = true ∧ s.srv.stageSince = some 0 ∧ s.srv.stageBw ≠ 0 ∧
    4 / (2 * piQ * s.srv.stageBw) ≤ s.secsSince 0 := by
  have h3 : (3141592 / 1000000 : Rat) ≤ piQ := le_max_left _ _
  refine ⟨{ inMode .acquire with now := 10 ^ 9, srv := { rst.srv with stageSince := some 0, stageBw := 1 } }, rfl, rfl, one_ne_zero, ?_⟩
  have h1 : State.secsSince { inMode .acquire with now := 10 ^ 9, srv := { rst.srv with stageSince := some 0, stageBw := 1 } } 0 = 1 := by
    simp only [State.secsSince, nsPerSec]; norm_num
  rw [h1, div_le_one (by linarith)]
  linarith
/-- A window of 1 s with two measurements that has run. -/
def windowOver : State :=
  { inMode .acquire with
      now := 10 ^ 9
      srv := { rst.srv with st := .window, target := some 0, win := some { target := 0, start := 0, len := 10 ^ 9, samples := [(0, 0), (5, 1)], offers := [0], limited := false, temp := 0 } } }
theorem wit_windowEnd : windowOver.md.mode.running = true ∧ windowOver.srv.st = .window ∧ windowOver.vouched = false := by decide

theorem wit_model : (tracks true).md.mode = .locked ∧ (tracks true).srv.st = .tracking ∧ (tracks true).tb.stepAt = none := by decide
theorem wit_predict : ∃ (s : State) (h : Hold), s.srv.hold = some h ∧ s.md.mode = .holdover :=
  ⟨{ inMode .holdover with srv := { rst.srv with hold := some ⟨0, 0, 0, 0, 0, true⟩ } }, ⟨0, 0, 0, 0, 0, true⟩, by decide⟩

/-- PPSOUT0 enabled and unmuted in LOCKED, its pulse high or not, the gate open or closed, Weft agreeing or not. -/
def pulses (high closed off : Bool) : State :=
  { inMode .locked with
      now := 2000000000, act := [(0x80300, 0xA0000000)]
      tb := { rst.tb with warp := if off then 1000000000 else 0 }
      fmu := { rst.fmu with gate := closed }
      out := { rst.out with pps := { PpsOut.reset with unmuted := true, muted := false, high := high, inPhase := some 0 } :: List.replicate 3 PpsOut.reset } }
theorem wit_ppsEdge : ∀ c o, (pulses false c o).bit (pBase 0) 31 = true ∧ ((pulses false c o).ppsAt 0).muted = false ∧
    ((pulses false c o).ppsAt 0).high = false ∧ ((pulses false c o).ppsAt 0).endedAt = none ∧
    (pulses false c o).ppsPhase 0 = some 0 ∧ ((pulses false c o).reg (pBase 0 + 4)).toNat ≠ 0 ∧ (pulses false c o).fmu.gate = c := by decide +kernel
theorem wit_ppsPasses : ∀ o, (pulses false false o).weftPasses (weftDiff (pulses false false o).tb.warp (pulses false false o).weftCmp) =
    !o := by decide +kernel
theorem wit_ppsInstant : ∀ o, ∃ (d : Rat) (k : Int), d = 0 + (k : Rat) * ((((pulses false false o).reg (pBase 0 + 4)).toNat * 65536 : Nat) : Rat) -
    ((pulses false false o).warpSns : Rat) ∧ -((pulses false false o).ppsAt 0).back ≤ d ∧ d < 65536 ∧
    d < ((((pulses false false o).reg (pBase 0 + 4)).toNat * 65536 : Nat) : Rat) - ((pulses false false o).ppsAt 0).back := by
  intro o
  cases o
  · exact ⟨0, 0, by decide +kernel⟩
  · exact ⟨0, 1, by decide +kernel⟩
theorem wit_ppsNotDue : ∃ s : State, s.ppsDue 0 = none := ⟨{ rst with act := [(0x80300, 0x20000000)] }, by decide +kernel⟩
theorem wit_ppsEnd : ((pulses true false false).ppsAt 0).high = true ∧
    ((pulses true false false).ppsAt 0).startedAt + ((pulses true false false).ppsAt 0).width ≤ 2000000000 := by decide
theorem wit_ppsLost : (pulses false false false).bit (pBase 0) 29 = true ∧
    ((pulses false false false).ppsAt 0).inAt + 2 * ((pulses false false false).reg (pBase 0 + 4)).toNat ≤ 2000000000 := by decide
theorem wit_ppsBall : ((inMode .locked).ppsAt 0).muted = true ∧ (inMode .locked).bit (pBase 0) 20 = false ∧
    ({ inMode .locked with act := [(pBase 0, 0x00100000)] } : State).bit (pBase 0) 20 = true ∧
    ({ inMode .locked with act := [(pBase 0, 0x00100000)] } : State).ppsAt 0 = (inMode .locked).ppsAt 0 := by decide +kernel

/-- CLKOUT0 enabled and unmuted, or muted though it may run, waiting to re-align and slewing at its goal. -/
def clocks (muted : Bool) : State :=
  { inMode .locked with
      act := [(0x80100, 0x80000000)]
      out := { rst.out with clks := { ClkOut.reset with unmuted := true, muted := muted, realign := true, slewing := true } :: List.replicate 9 ClkOut.reset, pps := { PpsOut.reset with slewing := true } :: List.replicate 3 PpsOut.reset } }
theorem wit_unmute : ∃ s : State, ∀ o ∈ ([.clk 0, .pps 0, .tod] : List OutId), s.wantMuted o = false ∧ s.outMuted o = true ∧ s.unmuteInstant o = true :=
  ⟨{ clocks true with act := [(0x80100, 0x80000000), (0x80300, 0x80000000), (0x80500, 0x80000000)],
                      out := { (clocks true).out with clks := { ClkOut.reset with unmuted := true, muted := true, per := 100 } :: List.replicate 9 ClkOut.reset,
                                                      pps := { PpsOut.reset with unmuted := true } :: List.replicate 3 PpsOut.reset, todUnmuted := true } },
   by decide +kernel⟩
theorem wit_realign : (clocks false).nsNow = 0 ∧ (clocks false).unmuteInstant (.clk 0) = false ∧ ((clocks false).clkAt 0).realign = true ∧ ((clocks false).clkAt 0).slewing = true ∧
    ((clocks false).clkAt 0).phase = (signed 32 ((clocks false).reg (cBase 0 + 16)).toNat : Rat) ∧
    ((clocks false).ppsAt 0).slewing = true ∧ ((clocks false).ppsAt 0).eff = ((clocks false).pair (pBase 0 + 12) : Rat) := by decide
theorem wit_clkMonitor : (clocks false).bit (cBase 0) 31 = true ∧ ((clocks false).clkAt 0).muted = false ∧
    2 < |((7 : Nat) : Rat) - clkFreq (clocks false).act 0| := by decide +kernel
theorem wit_clkBalls : ∀ f ∈ [(0x00000000, 0, false), (0x40000000, 2, false), (0x60000000, 3, false), (0x00800000, 0, true)],
    let s : State := { clocks true with act := [(cBase 0, f.1)] }
    (s.clkAt 0).muted = true ∧ (s.clkAt 0).per = 0 ∧ s.fld (cBase 0) 30 29 = f.2.1 ∧ s.bit (cBase 0) 23 = f.2.2 := by decide +kernel
theorem wit_clkRuns : ∃ s : State, (s.clkAt 0).muted = false ∧ (s.clkAt 0).per ≠ 0 ∧ (s.clkAt 0).start ≤ (s.now : Rat) ∧ (s.clkBalls 0).1 = .high :=
  ⟨{ rst with out := { rst.out with clks := { ClkOut.reset with muted := false, per := 100 } :: List.replicate 9 ClkOut.reset } }, by decide +kernel⟩

/-- TODOUT and GPPS enabled, unmuted and idle in LOCKED, at an instant of the second, with a solution that is Warp's own second. -/
def speaking (ns : Nat) (gnss : Bool) : State :=
  { inMode .locked with
      now := 1000000000, act := [(0x80500, if gnss then 0xC0E00200 else 0x80E00200), (0x80600, 0x80000000)]
      tb := { rst.tb with warp := ns, weftFix := ns * 2 ^ 32 }
      gns := { rst.gns with clkNext := 1000000000 + gnssPeriod, sol := { rst.gns.sol with valid := gnss } }
      out := { rst.out with todMuted := false, gppsMuted := false, gppsZ := some 0, todDue := decide (ns = 999999999) } }
theorem wit_tod : ∀ g, (speaking 512000000 g).bit 0x80500 31 = true ∧ (speaking 512000000 g).bit 0x80500 30 = g ∧
    (speaking 512000000 g).nsNow = (speaking 512000000 g).fld 0x80500 9 0 * 1000000 ∧ (speaking 512000000 g).out.todSec = none ∧
    (speaking 512000000 g).gns.sol.valid = g := by decide +kernel
theorem wit_todFits : (speaking 0 false).nsNow ≠ (speaking 0 false).fld 0x80500 9 0 * 1000000 ∧
    512000000 + lineTime (baudOf ((speaking 512000000 true).fld 0x80500 23 21)) 60 + 10000000 ≤ 1000000000 ∧
    (speaking 999999999 false).out.todDue = true ∧
    1000000000 < 999999999 + lineTime (baudOf ((speaking 999999999 false).fld 0x80500 23 21)) 34 + 10000000 := by decide +kernel
theorem wit_gpps : (speaking 0 false).bit 0x80600 31 = true ∧ (speaking 0 false).edgePasses = true ∧ (speaking 0 false).gppsDue.isSome = true ∧
    (speaking 600000000 false).gppsDue = none := by decide +kernel
theorem wit_todRest : (inMode .locked).out.todMuted = true ∧ (inMode .locked).out.todBusyUntil ≤ (inMode .locked).now ∧
    (inMode .locked).out.gppsMuted = true ∧ (speaking 0 false).out.gppsMuted = false := by decide +kernel

/-- Tracking in LOCKED at 10 s, channel 0 in a state since the start. -/
def channelIn (st : ChState) (o : Option Nat) : State :=
  { inMode .locked with
      now := 10000000000
      fmu := { rst.fmu with islands := List.replicate 24 { Island.reset with st := .inService } }
      gns := { rst.gns with chans := [{ Chan.reset with st := st, sig := 0, svid := 5, handover := o, dopW := 5000000 }, Chan.reset] } }
theorem wit_channel : ∀ st ∈ [ChState.search, .pullin, .track, .sync, .tow, .lost, .idle], ∀ o ∈ [none, some 1],
    (channelIn st o).gnsLive = true ∧ ((channelIn st o).chan 0).st = st ∧ ((channelIn st o).chan 0).handover = o ∧
    (channelIn st o).islandOut 6 = false ∧ ((channelIn st o).chan 0).since + 10 * nsPerSec ≤ (channelIn st o).now ∧
    (channelIn st o).now ≤ ((channelIn st o).chan 0).since + 10 * nsPerSec := by decide +kernel
/-- A peak 0.01 dB above the threshold at the last half chip, ten bins from the middle, is inside; one more bin is not. -/
theorem wit_peak : ((channelIn .search none).chan 0).threshold < 3201 ∧ ((channelIn .search none).chan 0).inWindow 2045 10 = true ∧
    ((channelIn .search none).chan 0).inWindow 2045 11 = false := by decide +kernel
theorem wit_notLive : (inMode .calibrate).gnsLive = false := by decide +kernel

/-- A first script entry with operation `op`, its script running or not. -/
def scripted (m : Mode) (op : Nat) (run : Bool) : State :=
  { inMode m with
      now := 5000, act := [(0x90000, 0x80000000), (0x91000, BitVec.ofNat 32 (op * 2 ^ 29 + 7 * 2 ^ 24 + 255))]
      gns := { rst.gns with scrRun := run, scrWait := if run then some 5000 else none } }
theorem wit_script : ∀ op ∈ [0, 1, 2, 3], (scripted .calibrate op false).md.mode = .calibrate ∧
    bitsOf ((scripted .calibrate op false).scrWord 0 0) 31 29 = op ∧ bitsOf ((scripted .calibrate op false).scrWord 1 0) 31 29 = 0 ∧
    (scripted .calibrate op false).gns.scrRun = false := by decide +kernel
theorem wit_check : (bitsOf (([5] : List W32).headD 0) (bitsOf ((scripted .calibrate 2 false).scrWord 0 0) 28 24) 0) % 256 &&&
    bitsOf ((scripted .calibrate 2 false).scrWord 0 0) 7 0 ≠ bitsOf ((scripted .calibrate 2 false).scrWord 0 0) 23 16 := by decide +kernel
theorem wit_scriptDue : ∃ s : State, s.gns.scrRun = true ∧ s.gns.scrWait = none ∧ s.gns.scrToken = some 7 ∧ s.md.mode = .locked :=
  ⟨{ inMode .locked with gns := { rst.gns with scrRun := true, scrToken := some 7 } }, by decide +kernel⟩
theorem wit_resume : (scripted .locked 0 true).gns.scrRun = true ∧ (scripted .locked 0 true).gns.scrWait = some 5000 ∧
    bitsOf ((scripted .locked 0 true).scrWord 0 0) 31 29 = 0 ∧ (scripted .locked 0 true).bandEn true = true ∧
    (scripted .locked 0 true).bandEn false = false ∧ (scripted .locked 0 true).noWrites = false ∧
    (scripted .locked 0 true).fld 0x90044 27 26 = 0 := by decide +kernel
theorem wit_noSurvey : ∃ s : State, s.noWrites = false ∧ s.fld 0x90044 27 26 ≠ 0 :=
  ⟨{ inMode .locked with act := [(0x90044, 0x08000000)] }, by decide +kernel⟩
theorem wit_notRunning : (scripted .maintain 0 false).noWrites = false ∧ (scripted .maintain 0 false).md.mode.running = false ∧
    (scripted .maintain 0 false).fld 0x90044 27 26 = 0 := by decide +kernel
theorem wit_agc : ∀ c ∈ [(4, 3), (5, 3), (4, 2)], ∃ s : State, s.gns.scrAgc = [3] ∧ bitsOf (s.scrWord 3 0) 31 29 = c.1 ∧
    bitsOf (s.reg (if c.1 = 4 then 0x90010 else 0x90014)) 31 26 = c.2 ∧ s.gns.asleep = false ∧ s.md.mode ≠ .boot := by
  intro c h
  exact ⟨{ inMode .locked with act := [(0x90010, BitVec.ofNat 32 (c.2 * 2 ^ 26 + 1)), (0x90014, BitVec.ofNat 32 (c.2 * 2 ^ 26 + 1)),
      (0x91018, BitVec.ofNat 32 (c.1 * 2 ^ 29))], gns := { rst.gns with scrAgc := [3] } }, by revert c; decide +kernel⟩

/-- Tracking in LOCKED with the TAC of the strobe calibrated. -/
def strobed : State :=
  { channelIn .track none with tac := { rst.tac with tables := List.replicate 33 (List.replicate 32 0), busyUntil := List.replicate 33 0 } }
theorem wit_strobe : strobed.gnsLive = true ∧ strobed.tacReady 28 = true ∧ strobed.tb.warp % 1000000 ≤ 12 ∧ (strobed.chan 0).st ≠ .idle ∧
    (strobed.chan 0).handed = false ∧ (strobed.tb.warp / 1000000 * 1000000) % nsPerSec % strobed.measStep = 0 := by decide +kernel
theorem wit_offStrobe : ∃ s : State, s.gnsLive = true ∧ s.tacReady 28 = true ∧ s.tb.warp % 1000000 ≤ 12 ∧
    (s.tb.warp / 1000000 * 1000000) % nsPerSec % s.measStep ≠ 0 :=
  ⟨{ strobed with tb := { rst.tb with warp := 7000012 } }, by decide +kernel⟩
theorem wit_tenth : ∃ s : State, s.gnsLive = true ∧ s.tacReady 28 = true ∧ s.tb.warp % 1000000 ≤ 12 ∧
    (s.tb.warp / 1000000 * 1000000) % nsPerSec % s.measStep = 0 ∧ (s.tb.warp / 1000000 * 1000000) % nsPerSec ≠ 0 :=
  ⟨{ strobed with tb := { rst.tb with warp := 100000000 }, act := [(0x90060, 3)] }, by decide +kernel⟩
theorem wit_missedStrobe : ∃ s : State, s.gnsLive = true ∧ s.tacReady 28 = false :=
  ⟨{ channelIn .track none with tac := { rst.tac with posTac := List.replicate 33 63 } }, by decide +kernel⟩
theorem wit_place : strobed.gnsForms = true ∧ strobed.gns.feFail = false ∧ strobed.gns.scrRun = false := by decide +kernel

theorem wit_solution : strobed.md.mode.running = true ∧ strobed.fmu.halted = false ∧ strobed.gns.asleep = false ∧
    strobed.gns.setNew = none := by decide +kernel
/-- Asleep or awake in LOCKED at 100,000 s and a whole second of Warp, following reference 2, a window open since 0, an early cause. -/
def checkin (asleep : Bool) (i : Integ) : State :=
  { inMode .locked with
      now := 100000 * nsPerSec, act := [(0x90090, 0x80000000)]
      ref := { rst.ref with sel := some 2 }
      gns := { rst.gns with asleep := asleep, integ := i, solMode := 3, winAt := some 0, wakeDue := true, clearSince := some 0, goodSince := some 0 } }
theorem wit_sleeps : ∀ i ∈ [Integ.good, .caution], (checkin false i).chkWants = true ∧ (checkin false i).gnsForms = true ∧
    (checkin false i).nsNow = 0 ∧
    0 + (checkin false i).fld 0x90090 28 17 * nsPerSec ≤ (checkin false i).now ∧
    0 + (checkin false i).fld 0x90090 16 0 * nsPerSec ≤ (checkin false i).now ∧
    0 + (checkin false .failed).fld 0x90088 11 0 * nsPerSec ≤ (checkin false .failed).now := by decide +kernel
theorem wit_excl : ∃ (s : State) (e : Excl), Assoc.get 3 s.gns.excls = some e ∧ e.remain = 0 ∧ 60 ≤ e.passS ∧ s.gnsForms = true :=
  ⟨{ checkin false .good with gns := { (checkin false .good).gns with excls := [(3, ⟨true, 0, 5, 1, 0, 60⟩)] } }, ⟨true, 0, 5, 1, 0, 60⟩, by
    decide +kernel⟩
/-- An epoch of five satellites in five directions, whose solution is valid: no check is enabled, so that it stands. -/
def solved : State :=
  { checkin false .good with
      fmu := { rst.fmu with islands := List.replicate 24 { Island.reset with st := .inService } }
      act := [(0x90044, 0), (0x9005C, 1), (0x90080, 0)], tb := { rst.tb with leap := [(37, 37)] }
      fe := { rst.fe with kept := { rst.fe.kept with ephem := (List.range 5).map fun k => ⟨⟨0, k⟩, 0, 0, 0, 100000 * nsPerSec⟩ } }
      gns := { (checkin false .good).gns with
        solMode := 1
        setNew := some (⟨⟨snsPerSec, true, true⟩, 0, 1, 0, 0, 0, (List.range 5).map fun k =>
          { Chan.reset with st := .tow, sig := 0, svid := k, cn0 := 5000, elev := 89 }⟩, false) } }
/-- The ranges of that epoch: each satellite along an axis. -/
def ranges : SolInput :=
  ⟨[⟨0, 0, 0, 1000000000, 0, 0, 1⟩, ⟨1, 0, 0, -1000000000, 0, 0, 1⟩, ⟨2, 0, 0, 0, 1000000000, 0, 1⟩, ⟨3, 0, 0, 0, 0, 1000000000, 1⟩,
     ⟨4, 0, 0, 0, 0, -1000000000, 1⟩], (0, 0, 0), [], [], [], [⟨0, false, 0, 0, 0⟩], [], [], [], [], []⟩
theorem wit_valid : (solved.gnssSolution ranges).gns.sol.valid = true ∧ (solved.gnssSolution ranges).gns.sol.nsat = 5 := by
  decide +kernel

/-- Ports up in LOCKED with tracker and latencies at zero; port 0 has the address 0. -/
def ported : State :=
  { inMode .locked with
      act := [(0x40008, 0)]
      ports := List.replicate 5 { PortSt.reset with link := true, speed := 2, held := false, stk := { StkSt.reset with convs := List.replicate 16 (0, 0) } } }
/-- A frame of `len` zero bytes with an FCS that is right or not. -/
def blank (len : Nat) (fcs : Bool) : RxFrame := ⟨List.replicate len 0, fcs, false, false, 0, false, false, 0, 0, 0, 0⟩
theorem wit_frame : (ported.port 0).link = true ∧ (ported.port 0).stk.dropped 0 = false ∧ (ported.port 0).stk.locked = true ∧
    (ported.port 4).link = true ∧ (ported.port 4).rxWait = [] ∧ cellsOf 60 ≤ ported.poolFree ∧ ported.poolAdmits 0 24 = true ∧ ported.accepts 0 (ofBe (slice (blank 64 true).bytes 0 6)) = true ∧
    ported.accepts 0 (ofBe [2, 0, 0, 0, 0, 7]) = false ∧ ported.freeCtxId = some 0 ∧ ported.bit 0x40008 31 = false := by decide +kernel
/-- An NTP request from 10.0.0.2 to 10.0.0.1 at the address 0, without a UDP checksum, as bytes with an FCS. -/
def ntpAsk : List Byte :=
  zeros 12 ++ [8, 0] ++ ip4Hdr 0 64 17 56 [10, 0, 0, 2] [10, 0, 0, 1] ++ [0x13, 0x88, 0, 123, 0, 56, 0, 0] ++ ([0x23] ++ zeros 47) ++ zeros 4
theorem wit_ntpAsk : sumsOk (ntpAsk.take (ntpAsk.length - 4)) (parseFrame (ntpAsk.take (ntpAsk.length - 4))) = true ∧
    defaultClass (parseFrame (ntpAsk.take (ntpAsk.length - 4))) = 3 ∧ addrOk (parseFrame (ntpAsk.take (ntpAsk.length - 4))) = true ∧
    (parseFrame (ntpAsk.take (ntpAsk.length - 4))).etype = 0x0800 ∧
    (List.range 256).all (fun k => !ported.ruleHits 0 k (parseFrame (ntpAsk.take (ntpAsk.length - 4)))) = true := by decide +kernel

/-- Port 0 up at 100 s with every stop and XOFF in force since 0, or in hold-off. -/
def paused (hold : Option Nat) : State :=
  { inMode .locked with
      now := 100000000000, act := [(0x10010, 0xC0FF0064)]
      ports := { PortSt.reset with link := true, xoff := some 0, xoffHold := hold, pause := ⟨5, 0, hold, true⟩, stops := List.replicate 8 ⟨5, 0, hold, true⟩ } ::
        List.replicate 4 PortSt.reset }
theorem wit_pause : ∀ h ∈ [none, some 0], ∀ prio ∈ [none, some 0, some 7], (paused h).pauseRx 0 = true ∧ (paused h).pfcEn 0 = 255 ∧
    ((paused h).stopAt 0 prio).on = true ∧ ((paused h).stopAt 0 prio).until_ ≤ (paused h).now ∧ ((paused h).stopAt 0 prio).holdoff = h ∧
    ((paused h).stopAt 0 prio).since + (paused h).pauseWd 0 ≤ (paused h).now ∧ 0 + (paused h).pauseWd 0 ≤ (paused h).now ∧
    0 + (paused h).holdoff 0 ≤ (paused h).now ∧ ((paused h).port 0).xoff = some 0 ∧ ((paused h).port 0).xoffHold = h ∧
    ((paused h).port 0).reserve = 0 ∧ ((paused h).port 0).xoffSent + quantaNs ((paused h).port 0).speed 0x8000 ≤ (paused h).now ∧ (paused h).poolAdmits 0 (cellsOf ((paused h).maxFrm 0 - 4)) = true ∧ ((paused h).port 0).link = true := by
  decide +kernel
theorem wit_pauseWatch : ∀ prio ∈ [none, some 0, some 7], ∃ s : State, (s.stopAt 0 prio).on = true ∧ s.now < (s.stopAt 0 prio).until_ ∧
    (s.stopAt 0 prio).since + s.pauseWd 0 ≤ s.now := by
  intro prio h
  exact ⟨{ paused none with ports := (paused none).ports.map fun p =>
    { p with pause := { p.pause with until_ := 10 ^ 12 }, stops := p.stops.map fun x => { x with until_ := 10 ^ 12 } } }, by revert prio; decide +kernel⟩
theorem wit_xoffEarly : ∃ s : State, (s.port 0).xoff = some 0 ∧ (s.port 0).link = true ∧
    s.now < (s.port 0).xoffSent + quantaNs (s.port 0).speed 0x8000 := ⟨{ paused none with now := 5 }, by decide +kernel⟩
theorem wit_pauseOff : ported.pauseRx 0 = false := by decide +kernel

/-- Port 0 at 25G, or at 10G after a step with a rate of 3 Gb/s, with SyncE, ESMC and speed steps on, in LOCKED at 1,000 s. -/
def stepper (stepped alt link : Bool) (tries : Nat) : State :=
  { inMode .locked with
      now := 1000 * nsPerSec, act := [(0x10020, 0xC0000000), (0x10024, 0x8A321400)]
      fmu := { rst.fmu with islands := List.replicate 24 { Island.reset with st := .inService } }
      wv := { rst.wv with parkWant := some (3, 1, 0) }
      ports := { PortSt.reset with link := link, speed := 2, stepped := stepped, lowSince := some 0, pre := 1, verifyTries := tries,
                                   rxLog := if stepped then [(1000 * nsPerSec, 300000000)] else [],
                                   stepping := some 0, stk := { StkSt.reset with calAlt := alt } } :: List.replicate 4 PortSt.reset }
theorem wit_esmc : ∀ a ∈ [true, false], ∀ n ∈ [0, 1, 3], (stepper a a true n).synceOn 0 = true ∧
    (stepper a a true n).bit (mBase 0 + 0x20) 30 = true ∧ ((stepper a a true n).port 0).link = true ∧ ((stepper a a true n).port 0).pre = 1 ∧
    ((stepper a a true n).port 0).verifyTries = n ∧ (stepper a a true n).md.mode.serving = true ∧ (stepper a a true n).steps 0 = true ∧
    ((stepper a a true n).port 0).stepped = a ∧ ((stepper a a true n).port 0).stk.calAlt = a ∧ ((stepper a a true n).port 0).esmcAt = none ∧
    ((stepper a a true n).port 0).verifyAt + (stepper a a true n).fld (mBase 0 + 0x18) 7 0 * 1000000 ≤ (stepper a a true n).now ∧
    0 + (stepper a a true n).fld (mBase 0 + 0x24) 29 24 * 60 * nsPerSec ≤ (stepper a a true n).now := by decide +kernel
theorem wit_rates : (stepper true true true 0).stepUpAt 0 < loadOf (stepper true true true 0).now loadSpan ((stepper true true true 0).port 0).rxLog ∧
    loadOf (stepper false true true 0).now loadSpan ((stepper false true true 0).port 0).rxLog < (stepper false true true 0).stepDn 0 := by
  decide +kernel
/-- Just after a PDU and a verify frame. -/
def justSent : State :=
  { stepper false false true 1 with ports := (stepper false false true 1).ports.map fun p => { p with esmcAt := some (1000 * nsPerSec), txQlSent := 8, verifyAt := 1000 * nsPerSec } }
theorem wit_justSent : justSent.txLevel 0 = (justSent.port 0).txQlSent ∧ (justSent.port 0).esmcAt = some justSent.now ∧
    (justSent.port 0).verifyTries ≠ 0 ∧ justSent.now < (justSent.port 0).verifyAt + justSent.fld (mBase 0 + 0x18) 7 0 * 1000000 := by decide +kernel
theorem wit_stepFail : ((stepper true true false 0).port 0).stepping = some 0 ∧ ((stepper true true false 0).port 0).link = false ∧
    (stepper true true false 0).wv.parkWant = some (3, 1, 0) := by decide

/-- Port 0 or MGT down or up with some conversions and its TAC calibrated, in LOCKED with SyncE on. -/
def linked (up wait : Bool) (k bad : Nat) : State :=
  { inMode .locked with
      act := [(0x10020, 0xC0000000)]
      tac := { rst.tac with tables := List.replicate 33 (List.replicate 32 0), busyUntil := List.replicate 33 0 }
      tb := { rst.tb with running := true }
      ports := List.replicate 5 { PortSt.reset with held := false, link := up, linkWait := wait, speed := 2,
                                                    stk := { StkSt.reset with convs := List.replicate k (1, 1000000), bad := bad } } }
theorem wit_linkUp : ∀ n ∈ [0, 4], ((linked false false 0 0).port n).held = false ∧ ((linked false false 0 0).port n).link = false ∧
    (linked false false 0 0).ports.length = 5 := by decide
theorem wit_linkDown : ((linked true false 16 2).port 0).link = true ∧ ((linked true false 16 2).port 0).stk.locked = true ∧
    ((linked true false 16 2).port 0).stk.bad = 2 ∧ (linked true false 16 2).bit (mBase 0 + 0x20) 31 = true ∧
    (linked true false 16 2).bit (mBase 0 + 4) 30 = false ∧ ((linked true false 16 2).port 0).stk.convs.getLast? = some (1, 1000000) ∧
    (linked true false 16 2).tacReady 24 = true ∧
    trkLimit ((linked true false 16 2).port 0).speed < |((linked true false 16 2).port 0).stk.edgeAt 5 - (linked true false 16 2).captureAt 24 0 0| := by
  decide +kernel
theorem wit_tracker : ((linked false true 15 0).port 0).linkWait = true ∧ ((linked false true 15 0).port 0).stk.locked = false ∧
    ((linked false true 15 0).port 0).stk.convs.length = 15 ∧ ((linked true false 14 0).port 0).stk.convs.length < 15 ∧
    ((linked false true 15 0).port 0).stk.txOff.2 < 63 ∧ ((linked false true 15 0).port 0).stk.due = 0 ∧ (linked false true 15 0).tb.running = true ∧ (linked false true 15 0).tacReady 24 = true := by decide +kernel
theorem wit_due : ({ StkSt.reset with cyc := 14 } : StkSt).due = 1 ∧ ({ StkSt.reset with cyc := 15 } : StkSt).due = 2 := by decide
theorem wit_noTac : ∃ s : State, s.tacReady 24 = false ∧ (s.port 0).link = true :=
  ⟨{ ported with tac := { rst.tac with posTac := List.replicate 33 63 } }, by decide +kernel⟩

/-- A context of class 3 waiting in the queue or taken by lane 0, with a payload of 48 bytes whose first is `b`, or of 47. -/
def asking (taken : Bool) (b : Byte) (len : Nat) (age : Nat) : State :=
  let w : List (Nat × Nat) := []
  let p : Pkt := ⟨0, 0, w, 0x0800, 14, false, true, [10, 0, 0, 2], [10, 0, 0, 1], [10, 0, 0, 1], 17, 0, 64, false, false, some (5000, 123, 56),
    [], b :: zeros (len - 1)⟩
  { ported with
      now := age, act := [(0x40000, 0x804003E8)]
      fmu := { rst.fmu with islands := List.replicate 24 { Island.reset with st := .inService } }
      wv := { rst.wv with
        ctxs := [⟨7, if taken then .building else .queued, 0, TimeWord.zero, 0, p, 3, false, 0, none, false⟩]
        queues := [[], [], [], if taken then [] else [⟨7, 0⟩], []]
        lanesOn := 8
        lanes := { Lane.reset with ctx := if taken then some 7 else none } :: List.replicate 7 Lane.reset } }
theorem wit_laneTake : (asking false 0x23 48 0).laneFree 0 = true ∧ (asking false 0x23 48 0).headClass = some 3 ∧
    (asking false 0x23 48 0).wv.queues.getD 3 [] = [⟨7, 0⟩] ∧ ((asking false 0x23 48 0).ctxAt 7).isSome = true ∧
    ((asking false 0x23 48 0).ctxAt 7).map (asking false 0x23 48 0).stale = some false ∧
    ((asking false 0x23 48 2000000).ctxAt 7).map (asking false 0x23 48 2000000).stale = some true := by decide +kernel
/-- A lane whose cycles still run. -/
theorem wit_busyLane : ∃ s : State, s.laneDone 0 = false :=
  ⟨{ rst with wv := { rst.wv with lanes := [{ Lane.reset with left := 128000 }] } }, by decide +kernel⟩
theorem wit_answer : ∀ b ∈ [(0x23 : Byte), 0x24, 0x0B, 0], ∀ n ∈ [47, 48],
    (((asking true b n 0).wv.lanes.getD 0 Lane.reset).ctx.bind (asking true b n 0).ctxAt).map
      (fun c => (c.cls, c.kiss, vnOf c.pkt.payload, modeOf c.pkt.payload, c.pkt.payload.length)) =
      some (3, false, b.toNat / 8 % 8, b.toNat % 8, n) ∧
    (asking true b n 0).laneDone 0 = true ∧ ((asking true b n 0).underSet 0).bit 0x40000 31 = true ∧ ((asking true b n 0).port 0).link = true ∧ (asking true b n 0).md.mode ≠ .safe := by
  decide +kernel

/-- An egress frame for context 7, with its insertion and tag. -/
def outgoing (ins : Insertion) (tag : W32) : EgFrame :=
  { src := .plain 7, bytes := zeros 90, ins := ins, csum := 0, l4 := 34, sealReq := none, auth := none, tag := some tag, tsReq := false, prio := 0,
    express := true, born := 0, out := TimeWord.zero, cuts := 0, gone := 0, resume := 0, stored := true }
/-- Context 7 with no lane and its frame waiting, or committed, on port 0. -/
def leaving (ins : Insertion) (good closed : Bool) (age : Nat) : State :=
  let c := ((asking false 0x23 48 0).ctxAt 7).map Ctx.checkTag
  let e := outgoing ins (if good then c.getD 0 else 1)
  { asking false 0x23 48 age with
      fmu := { rst.fmu with gate := closed }
      ports := { PortSt.reset with link := true, speed := 2, eg := [e], committed := [e], stk := { StkSt.reset with txDly := 16777216 } } :: List.replicate 4 PortSt.reset }
theorem wit_frameCommit : ∀ g ∈ [true, false], ∀ i ∈ [Insertion.none, .ntp64 82],
    ((leaving i g true 0).port 0).link = true ∧ ((leaving i g true 0).storeWaiting.nextFrame 0).map (fun e => (e.src.ctx?, e.timed, e.sealReq.isSome)) =
      some (some 7, decide (i ≠ .none), false) ∧
    ((leaving i g true 0).ctxAt 7).map (fun c => ((leaving i g true 0).stale c, c.lane, decide (((leaving i g true 0).nextFrame 0).bind (·.tag) =
      some c.checkTag))) = some (false, none, g) ∧ (∀ x ∈ ((leaving i g true 0).port 0).committed, ((leaving i g true 0).port 0).cuts 0 0 x = false ∧
      ((leaving i g true 0).port 0).waits 0 x = false) ∧ (∀ e ∈ ((leaving i g true 0).port 0).eg, (leaving i g true 0).storeWaiting.lineOpen 0 e 0 = true ∧
      (leaving i g true 0).neverSent 0 e = false ∧ ({ leaving i g true 0 with act := [(mBase 0 + 4, 0x40000000)] } : State).neverSent 0 { e with bytes := zeros 12 ++ [0x88, 0xF7] ++ zeros 76 } = true) ∧
    ((leaving i g true 2000000).ctxAt 7).map (leaving i g true 2000000).stale = some true := by decide +kernel
/-- C is 256 ns before D; a delay of 256 ns and transmit word 0 make it now. -/
theorem wit_atCommit : (leaving .none true true 0).atCommit 0 ((leaving .none true true 0).departure 0 0 0) = true ∧
    (leaving .none true true 2000000).atCommit 0 ((leaving .none true true 2000000).departure 0 805664 5) = true ∧
    (leaving .none true true 2000000).atCommit 0 ((leaving .none true true 2000000).departure 0 804375 0) = false := by decide +kernel
theorem wit_bound : (leaving (.ntp64 82) true false 0).weftPasses ((leaving (.ntp64 82) true false 0).weftDiffAt
    ((leaving (.ntp64 82) true false 0).departure 0 0 0 / 65536).toNat) = true ∧
    ({ leaving (.ntp64 82) true false 0 with tb := { rst.tb with warp := 1000000 } } : State).weftPasses
      (({ leaving (.ntp64 82) true false 0 with tb := { rst.tb with warp := 1000000 } } : State).weftDiffAt 0) = false := by decide +kernel

/-- A mode with a master key in slot 1, a ROTATE waiting, and a mint command of a length waiting or running. -/
def keyed (m : Mode) (run : Bool) (len : Nat) : State :=
  let slot : KeySlot := ⟨7, 0xFF, 16, zeros 32, [], 5⟩
  { inMode m with
      hif := { rst.hif with bme := true }
      fe := { rst.fe with slots := [(1, slot), (9, slot)] }
      wv := { rst.wv with rotToken := some 3, mints := [⟨0, [1, 15, 2, 0] ++ zeros len, 0x1000, run, if run then [(1, slot)] else []⟩] } }
theorem wit_rotate_due : (keyed .locked false 68).md.mode.running = true ∧ Assoc.rising (keyed .locked false 68).fe.slots ∧
    (keyed .locked false 68).rotationDue = true ∧ (keyed .locked false 68).noWrites = false :=
  ⟨by decide, ⟨by decide, trivial⟩, by decide, by decide⟩
theorem wit_mints : ∀ m ∈ [Mode.safe, .maintain, .locked], ∀ r ∈ [true, false], (keyed m r 68).md.mode = m ∧ (keyed m r 68).hif.bme = true ∧
    (keyed m r 68).wv.mints.map (·.running) = [r] := by decide
theorem wit_mintCodes : (keyed .locked true 68).mintCode (keyed .locked true 68).masterKeys ([1, 15, 2, 0] ++ zeros 68) = 0 ∧
    (keyed .locked true 9).mintCode [] ([1, 15, 2, 0] ++ zeros 9) = 0x12 ∧ ((keyed .locked true 68).wv.mints.find? (·.running)).isSome = true := by
  decide

/-- A PTP message over Ethernet from a neighbour with sourcePortIdentity 7 ... 7, with a type, flags, sequenceId and a body. -/
def ptpBytes (typ flags seq : Nat) (body : List Byte) : List Byte :=
  [BitVec.ofNat 8 typ, 0x12] ++ beBytes 2 (34 + body.length) ++ [0, 0] ++ beBytes 2 flags ++ zeros 12 ++ List.replicate 10 7 ++ beBytes 2 seq ++ [0, 0] ++ body
/-- Port 0 in LOCKED with PTP_PORT0 = `port0`, instance 0 as `inst0`, and lane 0 holding a message, checked or not. -/
def ptpLane (port0 inst0 : W32) (checked : Bool) (msg : List Byte) (p : PtpPort) : State :=
  let w : List (Nat × Nat) := []
  let k : Pkt := ⟨0x011B19000000, 5, w, 0x88F7, 14, false, false, [], [], [], 0, 0, 0, false, false, none, [], msg⟩
  { inMode .locked with
      now := 10000000000, act := [(gBase 0, port0), (iBase 0 0, inst0)]
      ports := ported.ports
      ptp := { rst.ptp with ports := p :: List.replicate 3 PtpPort.reset }
      wv := { rst.wv with ctxs := [⟨7, .building, 0, TimeWord.zero, 0, k, 0, false, 0, some 0, checked⟩]
                          lanes := { Lane.reset with ctx := some 7 } :: List.replicate 7 Lane.reset } }
/-- A grandmaster port with one multicast and unicast instance of profile 0. -/
def gmPort (checked : Bool) (msg : List Byte) : State := ptpLane 0x80000000 0xC0000000 checked msg PtpPort.reset
theorem wit_gmSends : (gmPort false []).ptpRuns 0 = true ∧ (gmPort false []).ptpClient 0 = false ∧ (gmPort false []).maySync 0 = true ∧
    (gmPort false []).mayAnnounce 0 = true ∧ ((gmPort false []).port 0).link = true ∧ (gmPort false []).slotNow = 0 ∧
    (∀ k ∈ [0, 1, 2, 3], ((gmPort false []).instOn 0 k && (gmPort false []).bit (iBase 0 k) 30) = decide (k = 0)) ∧
    (gmPort false []).bit (iBase 0 0) 25 = false ∧ inSlot ((gmPort false []).logSync 0 0) 0 0 = true ∧
    inSlot ((gmPort false []).logAnn 0 0) 0 0 = true ∧ ((gmPort false []).ptpPort 0).syncSlot = none ∧
    ((gmPort false []).ptpPort 0).annSlot.getD 0 none = none := by decide +kernel
theorem wit_gmSent : ∃ s : State, (s.ptpPort 0).syncSlot = some s.slotCount ∧ (s.ptpPort 0).annSlot.getD 0 none = some s.slotCount ∧ s.ptpRuns 0 = true :=
  ⟨ptpLane 0x80000000 0xC0000000 false [] { PtpPort.reset with syncSlot := some 0, annSlot := [some 0] }, by decide +kernel⟩
theorem wit_gmReceives : ∀ x ∈ [((0, none) : Nat × Option Nat), (11, none), (1, none), (4, some 10)],
    ((gmPort false (ptpBytes x.1 0 1 (zeros 30))).lanePtp 0).isSome = true ∧
    ((gmPort false (ptpBytes x.1 0 1 (zeros 30))).lanePtp 0).map (fun q => (q.1.checked,
      (gmPort false (ptpBytes x.1 0 1 (zeros 30))).ptpDrop 0 q.1.pkt q.2)) = some (false, x.2) := by decide +kernel
theorem wit_delayReq : ((gmPort true (ptpBytes 1 0 1 (zeros 10))).taken 0 [1]).map (fun q => (q.1.port, q.2.2)) = some (0, 0) ∧
    peerDelay ((gmPort true []).ptpProfile 0) = false ∧ (gmPort true []).bit (iBase 0 0) 29 = false ∧
    ((gmPort true []).lastSec ((gmPort true []).ptpPort 0).dreqTimes).length < (gmPort true []).fld (gBase 0) 19 0 + 1 ∧
    (gmPort true []).fld (gBase 0) 19 0 = 0 ∧ (ptpLane 0x80000010 0xC0000000 true [] PtpPort.reset).fld (gBase 0) 19 0 = 16 := by decide +kernel
/-- A request for Announce messages at 1 a second for 300 s. -/
def askAnnounce (s : State) : List Byte := ptpBytes 12 0 1 (s.clockId ++ [0, 1] ++ tlv 4 ([0xB0, 0] ++ beBytes 4 300))
def negotiating : State := ptpLane 0x80000000 0xE0000000 true (askAnnounce (gmPort true [])) PtpPort.reset
theorem wit_negotiation : (match negotiating.taken 0 [12] with
      | some q => q.1.port == 0 && q.2.2 == 0 && slice q.2.1 34 8 == negotiating.clockId &&
        (ptpTlvs q.2.1).map (fun l => l.map (fun x => (x.typ, x.at_))) == some [(4, 44)]
      | none => false) = true ∧ negotiating.bit (iBase 0 0) 29 = true ∧ negotiating.bit (iBase 0 0) 25 = false ∧
    negotiating.clients.length < 16384 := by decide +kernel
theorem wit_grantEnds : ∃ (s : State) (x : Grant), s.ptp.grants[0]? = some x ∧ x.port = 0 ∧ x.until_ ≤ s.now :=
  ⟨{ rst with now := 5, ptp := { rst.ptp with grants := [⟨0, 0, [], [], 0, 0, 0, none, 5, [], ⟨0, 0, [], 0, 0, false, false, [], [], [], 0, 0, 0, false,
      false, none, [], []⟩⟩] } }, _, rfl, rfl, by decide⟩

/-- A peer-delay port of profile 1, its lane holding a message, an exchange in hand with its times. -/
def peerPort (msg : List Byte) : State :=
  ptpLane 0x88000000 0xC0000000 true msg { PtpPort.reset with reqSeq := 4, exch := some ⟨5, some 0, some 10, some 40, 0⟩
                                                              pdFup := [([], 5, TimeWord.zero, ⟨0, 0, [], 0x88F7, 0, false, false, [], [], [], 0, 0, 0,
                                                                false, false, none, [], ptpBytes 2 0 5 (zeros 20)⟩)] }
theorem wit_pdelaySend : (peerPort []).ptpRuns 0 = true ∧ (peerPort []).instOn 0 0 = true ∧ (peerPort []).bit (iBase 0 0) 30 = true ∧
    peerDelay ((peerPort []).ptpProfile 0) = true ∧ (peerPort []).ptpProfile 0 = 1 ∧ (peerPort []).bit (iBase 0 0) 25 = false ∧
    ((peerPort []).port 0).link = true ∧ ((peerPort []).ptpPort 0).pdFup.length = 1 ∧ (peerPort []).pdelayDue 0 = true ∧
    (ptpLane 0x88000000 0xC0000000 true [] { PtpPort.reset with pdAt := some 10000000000 }).pdelayDue 0 = false ∧
    (peerPort []).instFor 0 (ptpDomain (ptpBytes 2 0 5 (zeros 20))) 0 = some 0 := by decide +kernel
theorem wit_pdelayIn : ((peerPort (ptpBytes 2 0 5 (zeros 20))).taken 0 [2]).map (fun q => (q.1.port, q.2.2)) = some (0, 0) := by decide +kernel
theorem wit_pdelayDone : ∀ ty ∈ [3, 10], (match (peerPort (ptpBytes ty 0 5 (zeros 10 ++ (peerPort []).portId 0))).taken 0 [3, 10] with
      | some q => q.1.port == 0 && ptpSeq q.2.1 == 5 && slice q.2.1 44 10 == (peerPort []).portId 0 && ptpType q.2.1 == ty &&
        (q.2.1.getD 6 0).toNat / 2 % 2 == 0
      | none => false) = true := by decide +kernel

/-- A client port that follows grandmaster 7 ... 7 or none, with an exchange in hand, by multicast or unicast. -/
def clientPort (uni : Bool) (follows : Bool) (delays : List Int) (msg : List Byte) : State :=
  ptpLane 0xC0000000 (if uni then 0xA0000000 else 0xC0000000) true msg
    { PtpPort.reset with following := if follows then some (List.replicate 10 7) else none, exch := some ⟨5, some 0, none, none, 0⟩, reqSeq := 4
                         syncMs := some 3, delays := delays, granted := [(2, 20000000000)]
                         foreign := if follows then [⟨List.replicate 10 7, [], 0, 0, 0, 0, 0, 0, 0, [], ⟨0, 0, [], 0, 0, false, false, [], [], [], 0, 0, 0,
                           false, false, none, [], []⟩⟩] else [] }
theorem wit_client : ∀ u ∈ [true, false], (clientPort u true [] []).ptpRuns 0 = true ∧ (clientPort u true [] []).ptpClient 0 = true ∧
    (clientPort u true [] []).instOn 0 0 = true ∧ (clientPort u true [] []).bit (iBase 0 0) 29 = u ∧
    (clientPort u true [] []).bit (iBase 0 0) 25 = false ∧ ((clientPort u true [] []).followed 0).isSome = true ∧
    peerDelay ((clientPort u true [] []).ptpProfile 0) = false ∧ ((clientPort u true [] []).port 0).link = true ∧
    ((clientPort u true [] []).ptpPort 0).renewAt ≤ (clientPort u true [] []).now ∧ (clientPort u true [] []).noWrites = false ∧
    ((clientPort u true [] []).ptpPort 0).annAt + (clientPort u true [] []).fld (gBase 0) 26 24 *
      logNs ((clientPort u true [] []).logAnn 0 0) ≤ (clientPort u true [] []).now := by decide +kernel
/-- Announces until now, but no Sync. -/
theorem wit_noSync : ∃ s : State, (s.ptpPort 0).following = some [7] ∧ s.ptpRuns 0 = true ∧
    s.now < (s.ptpPort 0).annAt + s.fld (gBase 0) 26 24 * logNs (s.logAnn 0 0) ∧
    (s.ptpPort 0).syncAt + 3 * logNs ((s.ptpPort 0).syncLog.getD (s.logSync 0 0)) ≤ s.now :=
  ⟨ptpLane 0xC3000000 0xC0000000 true [] { PtpPort.reset with following := some [7], annAt := 10000000000 }, by decide +kernel⟩
theorem wit_clientAnnounce : (match (clientPort false false [] (ptpBytes 11 0 1 (zeros 30))).taken 0 [11] with
      | some q => q.1.port == 0
      | none => false) = true := by decide +kernel
theorem wit_clientSync : ∀ d ∈ [[], [(5 : Int)]], (match (clientPort false true d (ptpBytes 0 0 1 (zeros 10))).taken 0 [0, 8] with
      | some q => ptpSrc q.2.1 == List.replicate 10 7 && ptpType q.2.1 == 0
      | none => false) = true := by decide +kernel
theorem wit_clientDelay : (match (clientPort false true [] (ptpBytes 9 0 5 (zeros 10 ++ (clientPort false true [] []).portId 0))).taken 0 [9] with
      | some q => ptpSrc q.2.1 == List.replicate 10 7 && ptpSeq q.2.1 == 5 && slice q.2.1 44 10 == (clientPort false true [] []).portId 0
      | none => false) = true := by decide +kernel

/-- LOCKED with the PCIe link up, Bus Master Enable set, and the rings, queues and the stream that `act` enables. -/
def hosting (act : RegMap) (h : HifSt) : State :=
  { inMode .locked with
      now := 2000000000, act := act, hif := { h with link := true, bme := true, ptmEn := true }
      ports := ported.ports.take 4 ++ [PortSt.reset]
      fmu := { rst.fmu with islands := List.replicate 24 { Island.reset with st := .inService } } }
def aFrame : HostItem := ⟨zeros 60, TimeWord.zero, 0, 1, 0, 0, 0, false, true, 1, true, some 0⟩
def rings : RegMap := [(0x10004, 0x80000000), (0x110108, 0x80000008), (0x110308, 0x80000008)]
def posted : State :=
  { hosting rings { HifSt.reset with rx := { Ring.reset with tail := 4 } :: List.replicate 15 Ring.reset, tx := { Ring.reset with tail := 4 } :: List.replicate 15 Ring.reset, txq := [⟨0, 5, [3], some 0, zeros 12⟩] } with
      wv := { rst.wv with hostQ := [aFrame] } }
def aBuffer : RxEntry := ⟨4096, 2048, 0, false⟩
def aSend : TxEntry := ⟨zeros 60, 60, 0, 3, 0, 0, false⟩
theorem wit_hostLink : posted.hif.link = true ∧ posted.shadow = false ∧ rst.hif.link = false ∧ posted.hif.compq = [] ∧ (∀ x ∈ posted.hif.vecs, x.pend = false) ∧ Assoc.wf regReset posted.act = true := by decide +kernel
theorem wit_tails : posted.noWrites = false ∧ (∀ b ∈ [rxBase 0, txBase 0], posted.ringSize b = 256 ∧
    bitsOf (255 : W32) 15 0 < posted.ringSize b ∧ posted.ringSize b ≤ bitsOf (256 : W32) 15 0) ∧
    bitsOf (0 : W32) 15 0 < posted.ringSize (cqBase 0) := by decide +kernel
theorem wit_hostRx : 0 < posted.hif.rx.length ∧ posted.hifRuns = true ∧ posted.ringEn (rxBase 0) = true ∧ posted.hostHead 0 = some aFrame ∧
    0 < ringCount (posted.ringSize (rxBase 0)) (posted.rxRing 0).head (posted.rxRing 0).tail ∧ rxBad aBuffer = none ∧
    aFrame.bytes.length ≤ aBuffer.bufLen ∧ reserveRx [] aFrame.bytes.length = none ∧ aFrame.since = some 0 ∧ posted.islandOut 5 = false ∧
    0 + posted.fld 0x110000 15 0 * 1000 ≤ posted.now := by decide +kernel
theorem wit_hostTx : 0 < posted.hif.tx.length ∧ posted.ringEn (txBase 0) = true ∧
    0 < ringCount (posted.ringSize (txBase 0)) (posted.txRing 0).next (posted.txRing 0).tail ∧ badDesc [aSend] = false ∧
    posted.badLen [aSend] aSend.data = false ∧ (posted.port 0).link = true ∧ posted.bit (mBase 0 + 4) 31 = true ∧ (posted.port 4).link = false ∧ badDesc [{ aSend with port := 4 }] = false ∧ posted.badLen [{ aSend with port := 4 }] aSend.data = false ∧
    0 < posted.ports.length ∧ cellsOf aSend.data.length ≤ posted.poolFree ∧
    posted.hif.txq.find? (fun x => x.ring == 0) = some ⟨0, 5, [3], some 0, zeros 12⟩ := by decide +kernel

/-- Both command queues and the stream enabled, an entry posted in each queue, a record to deliver, vectors due and a correlation at its second dialog. -/
def queued : State :=
  { hosting [(0xA0000, 0x80000000), (0x110508, 0x80000004), (0x110528, 0x80000004), (0x110608, 0x80000004), (0x110900, 0x80000000), (0x11800C, 0)] { HifSt.reset with cq := List.replicate 2 { Ring.reset with tail := 1 }, vecs := List.replicate 36 { Vec.reset with events := 1 }, pci := { PciSt.reset with msixEn := true }, ptmRun := some ⟨some 7, 0, 0, some (10, 30, 5)⟩ } with
      tin := { rst.tin with buf := [0], wr := 1 } }
def aModexp : List Byte := [1, 0xFF, 0xFF, 0, 1, 2, 3, 4, 1, 0, 1, 0, 1, 0, 0, 0, 2, 0, 0, 0, 3, 0, 0, 0, 7, 0, 0, 0]
def aCommand : CmdEntry := ⟨28, 64, 4096, 0, aModexp, false⟩
theorem wit_fetch : 0 < queued.hif.cq.length ∧ queued.hifRuns = true ∧ queued.ringEn (cqBase 0) = true ∧ queued.cqRoom 0 aCommand.bytes = true ∧
    (queued.cqRing 0).toFetch (queued.ringSize (cqBase 0)) = some 0 ∧ queued.cqCheck 0 aCommand = 0 ∧
    queued.cqCheck 0 { aCommand with resLen := 8 } = 0x14 ∧ queued.cqCheck 0 { aCommand with reserved := 1 } = 0x13 ∧
    queued.ringEn (cqBase 1) = true ∧ queued.cqRoom 1 (zeros 8) = true ∧ queued.cqCheck 1 ⟨8, 64, 4096, 0, zeros 8, false⟩ = 0 := by decide +kernel
theorem wit_abort : queued.noWrites = false ∧ (queued.cqRing 0).open_ (queued.ringSize (cqBase 0)) 0 = true ∧ queued.cqWaits 0 0 = false ∧
    ({ queued with hif := { queued.hif with compq := [⟨0, 0, 0, 0, 0, []⟩] } } : State).cqWaits 0 0 = true ∧
    (queued.cqRing 0).open_ (queued.ringSize (cqBase 0)) 1 = false ∧
    ringCount (queued.ringSize (cqBase 0)) (queued.cqRing 0).head (queued.cqRing 0).tail = 1 := by decide +kernel
theorem wit_stream : queued.evsEn = true ∧ queued.unread queued.hif.evs ≠ 0 ∧ queued.evsHeld = false ∧ queued.tin.ovfDue = false ∧
    queued.markValid queued.hif.evs = false ∧ queued.markValid { queued.hif.evs with mark := some 0 } = true := by decide +kernel
theorem wit_msix : queued.hif.vecs[0]? = some { Vec.reset with events := 1 } ∧ queued.vecDue 0 = true ∧ queued.vecMasked 0 = false ∧ queued.hif.pci.msixEn = true ∧
    queued.vecMasked 1 = true ∧ queued.vecDue 1 = true := by decide +kernel
theorem wit_ptm : queued.hif.ptmEn = true ∧ queued.hif.link = true ∧ queued.bit 0x110900 31 = true ∧ queued.inReset = false ∧
    queued.hif.ptmRun.isSome = true ∧ 0 + 10000000 ≤ queued.now ∧ queued.tb.warp % (queued.fld 0x110900 9 0 * 1000000) = 0 := by decide +kernel
theorem wit_ptmEarly : ∃ s : State, s.bit 0x110900 31 = true ∧ s.hif.ptmRun = none ∧ s.inReset = false ∧ s.tb.warp % (s.fld 0x110900 9 0 * 1000000) ≠ 0 :=
  ⟨{ inMode .locked with act := [(0x110900, 0x80000001)], tb := { rst.tb with warp := 5 } }, by decide +kernel⟩

/-- The host's queue with the bytes of one held operation, waiting or on core 0 with its release due, its core's islands in service. -/
def running (bytes : List Byte) (core : Option Nat) (bod : Bool := false) : State :=
  { queued with mgt := { rst.mgt with otWait := [] }, pke := { rst.pke with ops := [⟨bod, 0, bytes, 4096, core, 0, 1000, 0, []⟩] } }
theorem wit_pkeWaits : (running aModexp none).coreFree 0 = true ∧ (running aModexp (some 0)).coreFree 0 = false ∧
    (running aModexp none).pkeNext = some ⟨false, 0, aModexp, 4096, none, 0, 1000, 0, []⟩ ∧
    (running aModexp none true).pkeNext = some ⟨true, 0, aModexp, 4096, none, 0, 1000, 0, []⟩ := by decide +kernel
theorem wit_pkeCodes : (running aModexp none).headerCode (pkeCmd aModexp) = 0 ∧ (running aModexp none).inputCode (pkeCmd aModexp) = 0 ∧
    (running aModexp none).inputCode (pkeCmd (aModexp.take 24 ++ [6, 0, 0, 0])) = 0x11 ∧
    (running aModexp none).headerCode (pkeCmd [0x21, 0xFF, 3, 0, 0, 0, 0, 0, 0, 0, 0, 0, 0, 0, 0, 0]) = 0x21 ∧ (pkeCmd aModexp).op = 1 := by decide +kernel
theorem wit_pkeRelease : (∀ b ∈ [true, false], (running aModexp (some 0) b).tally.pke.ops.find? (fun o => o.core == some 0) =
      some ⟨b, 0, aModexp, 4096, some 0, 0, 1000, 0, []⟩) ∧ queued.hif.bme = true ∧ 1000 ≤ queued.now ∧
    (pkeCmd [0x20, 3, 64, 0, 0, 0, 0, 0, 4, 0, 0, 0, 0, 0, 0, 0, 2, 0, 2, 0]).op = 0x20 ∧
    (pkeCmd [0x22, 0xFF, 64, 0, 0, 0, 0, 0, 0, 0, 0, 0, 0, 0, 0, 0]).op = 0x22 := by decide +kernel
/-- A store with an X25519 key in slot 64: its public key can be read, and it can be deleted. -/
def stored : State :=
  { running [0x22, 0xFF, 64, 0, 0, 0, 0, 0, 0, 0, 0, 0, 0, 0, 0, 0] none with
      fe := { rst.fe with slots := [(64, ⟨2, 3, 2, zeros 32, zeros 32, 0⟩)] } }
theorem wit_slots : stored.headerCode (pkeCmd [0x22, 0xFF, 64, 0, 0, 0, 0, 0, 0, 0, 0, 0, 0, 0, 0, 0]) = 0 ∧
    stored.headerCode (pkeCmd [0x21, 0xFF, 64, 0, 0, 0, 0, 0, 0, 0, 0, 0, 0, 0, 0, 0]) = 0 ∧ Assoc.rising stored.fe.slots ∧
    (stored.slotAt 64).isSome = true := ⟨by decide +kernel, by decide +kernel, trivial, by decide +kernel⟩

/-- LOCKED with Warp ahead of Weft by 1 ms and no servo update for 10 ms. -/
def failing : State :=
  { inMode .locked with
      now := 10000000, tb := { rst.tb with warp := 1000000, weftLoaded := true }
      glb := { rst.glb with pllLocked := true } }
theorem wit_safe : failing.inReset = false ∧ failing.md.mode ≠ .safe ∧ failing.tb.weftLoaded = true ∧ failing.fmu.gate = false ∧
    failing.tb.warp % 1000000 = 0 ∧ failing.weftPasses (weftDiff failing.tb.warp failing.weftCmp) = false ∧ failing.glb.pllLocked = true ∧
    failing.md.mode.running = true ∧ failing.fmu.halted = false ∧ failing.fmu.lastHeart + 10000000 ≤ failing.now ∧
    failing.md.since + 10000000 ≤ failing.now ∧ railFaulty (railIx .core) 799 = true ∧ railFaulty (railIx .core) 991 = true := by decide +kernel

/-- A window 10 us old with one clock report, both paths asserted, and a scrub of memory 5 asked for. -/
def stormy : State :=
  { rst with now := 10000, fmu := { rst.fmu with window := some 0, reports := [⟨0x1008, TimeWord.zero, 0⟩], scrubs := [(5, [])] } }
theorem wit_storm : stormy.fmu.pathA = true ∧ stormy.fmu.pathB = true ∧ stormy.inReset = false ∧
    stormy.fmu.window = some 0 ∧ stormy.fmu.scrubs.find? (fun e => e.1 == 5) = some (5, []) := by decide +kernel

/-- Every island in service but island 3, which drains, in LOCKED with the rotation on and a counter of 1. -/
def rotates (draining : Bool) (scan : Option Nat) : State :=
  { inMode .locked with
      now := 2000000, act := [(0xD0000, 0x800003E8)]
      fmu := { rst.fmu with islands := (List.replicate 24 { Island.reset with st := .inService }).set 3 { Island.reset with st := if draining || scan.isSome then .underTest else .inService, draining := draining, scanAt := scan } } }
theorem wit_rotate : (rotates false none).bit 0xD0000 31 = true ∧ (rotates false none).md.mode.serving = true ∧
    (rotates false none).underTest.length < 2 ∧ (rotates false none).rotateDue = true ∧ (∀ i ∈ (rotates false none).fmu.islands, i.targeted = false) ∧
    rotating.find? (fun k => ((rotates false none).isl k).st == .inService) = some 3 := by decide +kernel
theorem wit_rotateLane : ∃ s : State, (rotating.drop s.fmu.rotIdx ++ rotating.take s.fmu.rotIdx).find?
    (fun k => (s.isl k).st == .inService) = some 14 :=
  ⟨{ rotates false none with fmu := { (rotates false none).fmu with rotIdx := 5 } }, by decide +kernel⟩
/-- Lane island 14 as the last lane in service with demand on it; and a rotation that had its turn just now. -/
theorem wit_rotateShort : ∃ s : State, s.capacityLeft 14 ≤ s.demandOn 14 ∧ s.rotateDue = false :=
  ⟨{ rotates false none with fmu := { rst.fmu with rotAt := some 2000000 } }, by decide +kernel⟩
theorem wit_scan : ((rotates true none).isl 3).draining = true ∧ ((rotates true none).isl 3).scanAt = none ∧
    (rotates true none).drained 3 = true ∧ islMethod 3 ≠ 3 := by decide +kernel
theorem wit_scanBoot : ∃ s : State, s.md.mode = .boot ∧ s.bootTurn 0 = true ∧ s.inReset = false :=
  ⟨{ rst with glb := { rst.glb with pllLocked := true } }, by decide +kernel⟩

theorem wit_passEnd : ((rotates false (some 0)).isl 3).scanAt = some 0 ∧ 0 + 2000000 ≤ (rotates false (some 0)).now ∧
    (∀ i ∈ (rotates false (some 0)).fmu.islands, i.targeted = false) ∧ ((rotates false (some 0)).isl 3).rootRec = [] ∧
    ((rotates false (some 0)).isl 3).offline = false ∧
    islMethod 3 = 2 ∧ 3 ∉ (rotates false (some 0)).fe.retired ∧ (rotates false (some 0)).vital 3 = true ∧
    ((rotates false (some 0)).isl 3).busy = true := by decide +kernel
theorem wit_passFail : ∃ s : State, (s.isl 6).scanAt = some 0 ∧ islMethod 6 = 1 ∧ s.vital 6 = false :=
  ⟨{ rotates false none with fmu := { rst.fmu with islands := List.replicate 24 { Island.reset with scanAt := some 0 } } }, by decide +kernel⟩
theorem wit_test : (rotates false none).noWrites = false ∧ (rotates false none).md.mode.running = true ∧
    3 < (rotates false none).fmu.islands.length ∧ ((rotates false none).isl 3).busy = false ∧ islMethod 0 = 0 := by decide +kernel

/-- LOCKED or another mode with a body in the mailbox, in recovery or not, and drops to record. -/
def boxed (m : Mode) (recovery : Bool) (body : List Byte) : State :=
  { inMode m with
      act := [(0x100010, 0x8000000A), (0x101008, BitVec.ofNat 32 body.length)]
      ports := List.replicate 5 { PortSt.reset with link := true }
      mgt := { rst.mgt with mbox := body ++ zeros (1408 - body.length), recovery := recovery, otarnKeys := [zeros 32], otDrops := 1 } }
theorem wit_mailbox : ∀ x ∈ [((.locked, false, []) : Mode × Bool × List Byte), (.locked, true, []), (.locked, false, [0, 0, 1, 0, 1, 0]), (.locked, false, [1, 0, 1, 0, 1, 0]), (.locked, false, [0, 0, 1, 0, 0, 0, 0, 0]), (.locked, false, [0, 0, 0, 0, 1]), (.safe, false, [2]), (.safe, false, [1]), (.locked, false, [1]), (.locked, false, [2, 0]), (.safe, false, [2, 0]), (.safe, false, [])],
    let s := boxed x.1 x.2.1 x.2.2
    (s.noWrites || s.mgt.mbState == 1 || s.fmu.halted || decide (1400 < s.fld 0x101008 10 0)) = false ∧ s.mboxBody = x.2.2 := by decide +kernel
theorem wit_mailbox_fields : barOk (ofLe ([0, 0, 1, 0] : List Byte)) 1 = true ∧ barOk (ofLe ([1, 0, 1, 0] : List Byte)) 1 = false ∧
    Mode.running .locked = true ∧ Mode.running .safe = false ∧ (boxed .locked false []).md.drain = false ∧
    (boxed .locked false []).mgt.otDrops ≠ 0 ∧ (boxed .locked false []).fe.dropRecAt = none := by decide +kernel
/-- A STATUS datagram with an empty body, under key slot 0, 1 or 8 and with a REPLAY; the key of 32 zero bytes has small order, so that it
admits a signature made of the neutral point and zero. -/
def aDatagram (key rp : Nat) : List Byte := leBytes 2 (1 + 4096 * key) ++ zeros 4 ++ leBytes 6 rp ++ zeros 64
theorem wit_datagram : (boxed .locked false []).otarnHears (zeros 16) = true ∧ ofLe ((aDatagram 0 5).take 2) % 4096 = 0x001 ∧
    (aDatagram 0 5).length = 76 + ofLe (slice (aDatagram 0 5) 4 2) ∧ (boxed .locked false []).otarnArrive.mgt.otCount ≤ (boxed .locked false []).fld 0x100010 9 0 ∧
    (boxed .locked false []).mgt.otarnKeys[1]? = none ∧ (boxed .locked false []).mgt.otarnKeys[0]? = some (zeros 32) ∧
    (boxed .locked false []).fe.replay.length ≤ 64 := by decide +kernel
/-- Core 0 at the end of the check of that datagram, which gave a result or a code. -/
def checked (rp code : Nat) (good : Byte) : State :=
  let b := boxed .locked false []
  { b with
      now := 5000
      mgt := { b.mgt with otWait := [⟨0, aDatagram 0 rp, zeros 16, 7⟩] }
      pke := { b.pke with ops := [⟨true, 0, otarnCheck (zeros 32) (zeros 12) (zeros 64), 0, some 0, 0, 1000, code, [good, 0, 0, 0]⟩] } }
theorem wit_checked : ∀ rp ∈ [0, 5], ∀ c ∈ [0, 0x10], ∀ g ∈ [(0 : Byte), 1], ((checked rp c g).pke.ops.find? (fun o => o.core == some 0)).map (fun o => (o.bod,
      o.code, o.data.headD 0)) = some (true, c, g) ∧ ((checked rp c g).mgt.otWait.find? (fun w => w.index == 0)).isSome = true ∧
    ((checked rp c g).pkeRelease 0 true).pke.ops.any (fun x => x.core == some 0) = false ∧ ((checked rp c g).pkeRelease 0 true).fmu.halted = false ∧
    ((checked rp c g).pkeRelease 0 true).lastReplay (zeros 32) = 0 := by decide +kernel

/-- The mailbox state with slot 1 in use, an update in this state, a clock reading and MAINTAIN for a swap. -/
def updating (m : Mode) (st : Nat) (busy : Bool) (via : Option ReplyTo) (body : List Byte) (ver : Nat := 2) (now : Nat := 3000000000) : State :=
  let b := boxed m false body
  { b with
      now := now, cfg := { b.cfg with slot := 1, flashOk := true, densityLog2 := 24 }
      mgt := { b.mgt with upd := { b.mgt.upd with st := st, slot := 2, busy := busy, via := via, verified := ver }, refreshed := some 0 }
      md := { b.md with maint := if m = .maintain then some ⟨true, 0, 2 * nsPerSec, false, false, []⟩ else none } }
theorem wit_update : ∀ x ∈ [(([2], 0) : List Byte × Nat), ([2, 0, 0, 0, 0, 0, 0, 0, 0x44], 0), ([2, 0, 0, 0, 255, 255, 255, 0, 1], 0x12), ([1], 0), ([], 0)],
    let s := updating .locked 0 false none x.1
    (s.noWrites || s.mgt.mbState == 1 || s.fmu.halted || decide (1400 < s.fld 0x101008 10 0) || s.mgt.upd.busy || s.mgt.upd.via.isSome) = false ∧
    s.mboxBody = x.1 ∧ s.cfg.slot = 1 ∧ s.md.mode.running = true ∧ s.mgt.upd.verified ≠ 0 ∧ s.mgt.recovery = false ∧
    s.writeCode 2 (ofLe (slice s.mboxBody 4 4)) (s.mboxBody.drop 8) = x.2 := by decide +kernel
theorem wit_updateEnds : (updating .locked 1 true none []).mgt.upd.st = 1 ∧ (updating .locked 3 true (some .mailbox) []).mgt.upd.st = 3 ∧
    (updating .locked 3 true (some .mailbox) []).mgt.upd.via = some .mailbox ∧ (updating .maintain 5 true none []).md.mode = .maintain ∧
    (updating .maintain 5 true none []).md.maint = some ⟨true, 0, 2 * nsPerSec, false, false, []⟩ ∧ (updating .maintain 5 true none []).fmu.halted = false ∧
    0 + 2 * nsPerSec ≤ (updating .maintain 5 true none []).now ∧ (updating .maintain 5 true none [] 2 1000000000).now < 0 + 2 * nsPerSec ∧
    (updating .maintain 5 true none [] 2 1000000000).bodkinHeld = false ∧ (updating .locked 3 true (some .mailbox) []).bodkinHeld = false ∧
    (updating .locked 0 false none [] 0).mgt.upd.verified = 0 := by decide +kernel
theorem wit_sensors : (updating .locked 0 false none []).inReset = false ∧ (updating .locked 0 false none []).i2cUp = true ∧ (updating .locked 0 false none []).mgt.i2cPage.length = 64 ∧
    (updating .locked 0 false none []).md.mode ≠ .boot ∧ (updating .locked 0 false none []).lat.length = 2 := by decide +kernel

/-- A window of port 0 open, and the user page on or off. -/
def metered (page : Bool) (w : W32 := 100) : State :=
  { inMode .locked with
      act := [(0xF0000, if page then 0x80000000 else 0), (0xF0100, w)], pmc := { BwSt.reset with on := true } :: List.replicate 4 BwSt.reset
      ctr := [(0x40200, 5)] }
theorem wit_latches : (metered true).md.mode ≠ .boot ∧ (metered true).lat.length = 2 ∧ Path.host ≠ Path.otarn ∧ isCounter 0x40200 = true ∧
    isCounter 0x40204 = false ∧ ((metered true).latOf .host).bw.length = 5 ∧ (metered true).pmc.length = 5 ∧ (metered true).noWrites = false := by decide +kernel
theorem wit_rising : Assoc.rising (metered true).ctr := trivial
theorem wit_windows : 0 < (metered true).pmc.length ∧ ((metered true).bwAt 0).on = true ∧ (metered true).tb.warp % ((metered true).bwWin 0 * 1000000) = 0 ∧
    bitsOf ((metered true).reg (bwOff 0)) 13 0 ≠ 0 ∧ ((metered true).cmt .pmc).st ≠ 2 ∧ (metered true 0).tb.warp % ((metered true 0).bwWin 0 * 1000000) = 0 ∧
    bitsOf ((metered true 0).reg (bwOff 0)) 13 0 = 0 ∧
    (metered true).bit 0xF0000 31 = true ∧ (metered false).bit 0xF0000 31 = false ∧ (metered true).glb.resetLow = false ∧
    ({ (metered true).glb with resetLow := true } : GlbSt).resetLow = true := by decide +kernel

theorem wit_step : rst.pending = [] ∧ ({ rst with pending := [.jtagTrst] } : State).pending = .jtagTrst :: [] := by decide
/-- The counters running, at a phase of CLK_WEFT and with a change due or none. -/
def cycling (run : Bool) (phase : Nat) (due : Option WeftChange) : State := { rst with tb := { rst.tb with running := run, weftPhase := phase, weftDue := due } }
theorem wit_cycle : ∀ x ∈ [((false, 0, none) : Bool × Nat × Option WeftChange), (true, 3, none), (true, 7, none), (true, 7, some ⟨some 5, 0, 0⟩), (true, 7, some ⟨none, 0, 100⟩)],
    let s := cycling x.1 x.2.1 x.2.2
    s.pending = [] ∧ s.tb.running = x.1 ∧ s.tb.weftPhase = x.2.1 ∧ s.tb.weftDue = x.2.2 := by decide +kernel

theorem wit_gate : State.gated { inMode .safe with fmu := { rst.fmu with gate := true } } ∧ Steps rst rst.tick := ⟨⟨by decide, by decide⟩, rfl⟩

theorem wit_stepKeeps : rst.wf ∧ Steps rst rst.tick ∧ Steps { rst with pending := [.jtagTrst] } { rst with jtag := { rst.jtag with ir := 0xF } } := ⟨rst_wf, rfl, rfl⟩
/-! Commands that name what the part does not have are not well formed, one for each check of Instr.wf. -/

theorem test_illFormed1 : ∀ i ∈ ([.registerWrite .host 1 0 0, .registerWrite .host 0x1000000 0 0, .powerOnReset [], .commit (.mac 5) 0, .check (.mac 5) 0,
    .revert (.mac 5) 0, .commitValidated (.mac 5) true, .commitApply (.mac 5) true, .tacCalibration [], .tacBgCalDone 4 [],
    .tacRotate 4, .tinEdge 8 true 0, .captureBufferWrite 8, .measurementTruncate 8, .endWtr 0 17,
    .forget 0 17, .ppsEdge 4, .ppsPulseEnd 4, .ppsInputLost 4, .outputUnmute (.clk 10),
    .clkoutRealign 10, .clkoutMonitorTrip 10 0, .channelDetect 192 0 0 0 0, .searchExhausted 192, .pullinLock 192,
    .pullinTimeout 192, .syncFound 192, .towDecoded 192, .channelLost 192, .lostRefound 192,
    .lostTimeout 192, .cycleSlip 192, .exclusionExpire 32, .frameReceive 5 (blank 64 true), .pauseReceive 5 0,
    .pfcReceive 4 0 (List.replicate 8 0), .pfcReceive 0 0 [], .pauseExpire 5 none, .pauseExpire 0 (some 8), .xoffRepeat 5,
    .xonSend 5, .pauseWatchdog 5 none, .pauseWatchdog 0 (some 8), .xoffWatchdog 5, .holdoffExpire 5 none true] : List Instr), i.wf = false := by decide +kernel

theorem test_illFormed2 : ∀ i ∈ ([.holdoffExpire 0 (some 8) true, .esmcReceive 4 0 none, .esmcInfoSend 4, .preemptVerifySend 4, .preemptRespondReceive 4,
    .classifierRuleWrite 256 0 0, .classifierRuleWrite 0 5 0, .speedStepDown 4, .speedStepUp 4, .speedStepFail 4,
    .linkUp 5 0 true, .linkDown 5, .trackerConversion 4 0 0 0, .syncePhaseDeliver 4, .replicaUpdate 4,
    .laneTake 8, .answerBuilt 8, .frameCommit 5 0 0 true true true, .frameSent 5, .syncSend 4 0,
    .announceSend 4 0, .announceSend 0 4, .pdelayReqSend 4 0, .pdelayReqSend 0 4, .ptpMessageReceive 8,
    .unicastNegotiation 8, .delayReq 8, .pdelayReqReceive 8, .pdelayRespFollowUp 4, .peerDelayComplete 8,
    .clientAnnounce 8, .clientSync 8, .clientDelayResp 8, .clientGrantRenew 4, .grantExpire 4 0,
    .clientGmTimeout 4, .cancelGrants 0 4, .restartClient 0 4, .rxTailWrite 16 0, .txTailWrite 16 0,
    .cqTailWrite 2 0, .hostFrameDeliver 16 [] true, .ringWaitExpire 16, .hostFrameTransmit 16 [], .txComplete 16] : List Instr), i.wf = false := by decide +kernel

theorem test_illFormed3 : ∀ i ∈ ([.abort 2 0, .abortAll 2, .msixMessage 36, .modexp 8, .rsaPriv 8,
    .ecdh 8, .ecdhEph 8, .ecdsaSign 8, .ecdsaVerify 8, .eddsaSign 8,
    .eddsaVerify 8, .keygen 8, .delete 8, .pubkey 8, .pkeResultRelease 8 true,
    .clockMonitorTrip (.clkout 10), .memoryScrubDone 8 true, .passScanStart 24, .passEnd 24 true true, .test 0 24,
    .clearRetired 0 24, .sensorScan [] (List.replicate 5 0), .sensorScan (List.replicate 5 0) [], .railMinRead .host 5, .counterLatchRead .host 1,
    .counterWrapClear 1, .bwWindowEnd 5, .bwStatLatch .host 5, .bwPeakRead .host 5, .userPageRead 1 0,
    .offsetSlewEnd (.clk 10), .clientDelayReqSend 4, .stakeCalibration 4 ⟨[], [], [], 0⟩ none, .stakeCalibration 0 ⟨[], [], [], 0⟩ none, .refMeasurement 17 (.phase 0), .refActivityTimeout 17 .link,
    .commandFetch 2 aCommand, .outputUnmute (.pps 4), .clockMonitorTrip (.srdRx 5), .clockMonitorTrip (.srdTx 5),
    .pcieConfigWrite ⟨none, none, some 8, none, none, none, none, none, none⟩, .pcieConfigWrite ⟨none, none, none, none, none, none, none, some (2 ^ 64), none⟩] : List Instr), i.wf = false := by decide +kernel

/-! The spec's own examples. -/

/-- 00_scope.md: -1.5 ns is -98,304 sns, 0xFFFF_FFFF in the high register and 0xFFFE_8000 in the low one. -/
theorem test_pair : signed 64 (0xFFFE8000 + 0xFFFFFFFF * 2 ^ 32) = -98304 ∧ unsigned 64 (-98304) = 0xFFFFFFFFFFFE8000 := by decide +kernel
/-- 03_dacor_image.md: SEQ 17, LENGTH 262,312 and COUNT 8 of the small image's header. -/
theorem test_header :
    let h : List Byte := [0x44, 0x43, 0x52, 0x31, 1, 0, 0, 0, 0x11, 0, 0, 0, 0xA8, 0, 4, 0, 8, 0, 0, 0, 0x48, 4]
    hdrSeq h = 17 ∧ hdrLen h = 262312 ∧ hdrCount h = 8 := by decide +kernel
/-- 04_time_base.md: two timestamps across the NTP era boundary, with 37 s in force. -/
theorem test_ntp_era : ntpOf [(0, 37)] ⟨(2085978532 * 1000000000 + 999999999) * 65536 + 32768, true, false⟩ = 0xFFFFFFFFFFFFFFFD ∧
    ntpOf [(0, 37)] ⟨(2085978533 * 1000000000 + 250000000) * 65536, true, false⟩ = 0x0000000040000000 := by decide +kernel
/-- 08_outputs.md: -1,200 ns is 0xFFFF_FFFF_FB50_0000, and at 100 ns/s an offset moves by 100 ns in a second. -/
theorem test_offset : unsigned 64 (-1200 * 65536) = 0xFFFFFFFFFB500000 ∧ rst.ofsStep * 1000000000 = 6553600 := by decide +kernel
/-- 13_weave_ntp.md: a cookie of AEAD 15 is 104 bytes. -/
theorem test_cookie : 40 + 2 * aeadK 15 = 104 := by decide
/-- 15_host_interface.md: a frame of 8,996 bytes waits for three buffers of 2,048, and takes six entries once two more and an empty one are posted. -/
theorem test_jumbo :
    let b : RxEntry := ⟨4096, 2048, 0, false⟩
    reserveRx [b, b, b] 8996 = none ∧ reserveRx [b, b, b, ⟨0, 0, 0, false⟩, b, b] 8996 = some [b, b, b, ⟨0, 0, 0, false⟩, b, b] := by decide +kernel
/-- 16_public_key_engine.md: an X25519 key share gives 64 bytes at 140 us; one whose u is 2^255 - 1 gives RANGE at 1.2 us. -/
theorem test_keyShare :
    let c := pkeCmd ([0x11, 3, 0xFF, 0, 0x34, 0x12, 0, 0, 0x20, 0, 0, 0, 0, 0, 0, 0] ++ List.replicate 32 0xFF)
    rst.pkeTimes c = (1200, 140000) ∧ rst.resultLen c = 64 ∧ rst.headerCode c = 0 ∧ rst.inputCode c = 0x11 := by decide +kernel
/-- 19_performance_counters.md: 2,034,000,000 of 3,125,000,000 octets are 65.0 %. -/
theorem test_util : bwUtil 2034000000 3125000000 = 650 := by decide +kernel
/-- 20_register_map.md: REF_TTL14, PTP_INST_CFG23, PTP_CMT and PTP_TX_SYNC of NP2. -/
theorem test_registers : bBase 14 + 0x34 = 0x604B4 ∧ iBase 2 3 = 0x98CA0 ∧ cmtOff .ptp = 0x9BF00 ∧ ptpCtr 2 0 = 0x98F00 ∧
    isCounter 0x98F00 = true := by decide +kernel


end Sys2Proof.Tests
end

section
/-! SUPPORT. That a step of the block answers a next state which the state before it leads to: one arm for each command, and the cycle of
CLK_TIME with none waiting. Every invariant that `State.Leads` carries is an invariant of every step. -/

namespace Sys2Proof.Machine

open Sys2Proof

/-- An outcome is a next state, and one that the state leads to. -/
def State.Completes (s : State) (o : Host.Outcome State Fault Refusal) : Prop := ∃ t, o = .next t ∧ s.Leads t

theorem State.Completes.of_leads {s t : State} (h : s.Leads t) : s.Completes (.next t) := ⟨t, rfl, h⟩

theorem State.Completes.of_keeps {s t : State} (h : s.Keeps t) : s.Completes (.next t) := .of_leads h.leads

/-- Every command completes. -/
theorem exec_completes (c : Instr) (s : State) : s.Completes (exec c s) :=
  match c with
  | .registerWrite .. => .of_leads (State.registerWrite_leads (.refl s))
  | .powerOnReset .. => .of_leads (State.powerOn_leads (.refl s))
  | .resetNAssert .. => .of_leads (State.resetAssert_leads (.refl s))
  | .resetNRelease .. => .of_keeps (State.resetRelease_keeps (.refl s))
  | .pllLock => .of_keeps (State.pllLock_keeps (.refl s))
  | .glbReset .. => .of_keeps (State.glbReset_keeps (.refl s))
  | .deviceReset => .of_leads (State.deviceReset_leads (.refl s))
  | .droopStretchStart .. => .of_keeps (State.droopStart_keeps (.refl s))
  | .droopRecover .. => .of_keeps (State.droopRecover_keeps (.refl s))
  | .stretchEnd => .of_keeps (State.stretchEnd_keeps (.refl s))
  | .droopRecord => .of_keeps (State.droopRecord_keeps (.refl s))
  | .droopHeavyEval => .of_keeps (State.droopHeavyEval_keeps (.refl s))
  | .modeEvaluation => .of_leads (State.modeEval_leads (.refl s))
  | .bootTimeout => .of_leads (State.bootTimeout_leads (.refl s))
  | .calibrateTimeout => .of_leads (State.calTimeout_leads (.refl s))
  | .orderlyRestartReq => .of_keeps (State.orderlyReq_keeps (.refl s))
  | .safeRestartReq => .of_leads (State.safeReq_leads (.refl s))
  | .drainTimeout => .of_keeps (State.drainTimeout_keeps (.refl s))
  | .drainReset => .of_leads (State.drainReset_leads (.refl s))
  | .safeAutoRestart => .of_leads (State.autoRestart_leads (.refl s))
  | .maintainBound => .of_keeps (State.maintainBound_keeps (.refl s))
  | .fwSwapRevert => .of_keeps (State.swapRevert_keeps (.refl s))
  | .slotLoad .. => .of_leads (State.bootLoad_leads (.refl s))
  | .commit .. => .of_keeps (State.cmtStart_keeps (.refl s))
  | .check .. => .of_keeps (State.cmtStart_keeps (.refl s))
  | .revert .. => .of_keeps (State.cmtRevert_keeps (.refl s))
  | .commitValidated .. => .of_keeps (State.cmtValidated_keeps (.refl s))
  | .commitApply .. => .of_keeps (State.cmtApply_keeps (.refl s))
  | .timeLatchRead .. => .of_keeps (State.readOn_keeps (.refl s))
  | .weftLatchRead .. => .of_keeps (State.readOn_keeps (.refl s))
  | .weftLoad .. => .of_keeps (State.weftLoad_keeps (.refl s))
  | .weftSteer => .of_keeps (State.weftSteer_keeps (.refl s))
  | .tbSet .. => .of_keeps (State.visibleStep_keeps (.refl s))
  | .tbStep .. => .of_keeps (State.visibleStep_keeps (.refl s))
  | .tbSlew .. => .of_keeps (State.visibleStep_keeps (.refl s))
  | .tbCancel .. => .of_keeps (State.visibleStep_keeps (.refl s))
  | .stepCheckDone .. => .of_keeps (State.stepCheck_keeps (.refl s))
  | .stepApply .. => .of_keeps (State.stepApply_keeps (.refl s))
  | .slewMsTick => .of_keeps (State.slewTick_keeps (.refl s))
  | .tacCalibration .. => .of_leads (State.tacCal_leads (.refl s))
  | .stakeCalibration .. => .of_leads (State.stakeCal_leads (.refl s))
  | .outputCalibration => .of_leads (State.outCal_leads (.refl s))
  | .tacBgCalDone .. => .of_keeps (State.tacBgCalDone_keeps (.refl s))
  | .tacRotate .. => .of_keeps (State.tacRotate_keeps (.refl s))
  | .tinEdge .. => .of_keeps (State.tinEdge_keeps (.refl s))
  | .captureBufferWrite .. => .of_keeps (State.captureWrite_keeps (.refl s))
  | .measurementTruncate .. => .of_keeps (State.measTruncate_keeps (.refl s))
  | .tinArm .. => .of_keeps (State.tinArm_keeps (.refl s))
  | .tinDisarm .. => .of_keeps (State.tinDisarm_keeps (.refl s))
  | .registerReaderEnable => .of_keeps (State.rdEnable_keeps (.refl s))
  | .tinRecRead .. => .of_keeps (State.readOn_keeps (.refl s))
  | .tinMark => .of_keeps (.ite (.refl s) (State.setRdr_keeps (.refl s)))
  | .tinRewind => .of_keeps (.ite (.refl s) (State.setRdr_keeps (.refl s)))
  | .tinClear => .of_keeps (.ite (.refl s) (State.setRdr_keeps (.refl s)))
  | .refMeasurement .. => .of_keeps (State.refMeasure_keeps (.refl s))
  | .refActivityTimeout .. => .of_keeps (State.refTimeout_keeps (.refl s))
  | .todinMessage .. => .of_keeps (State.todMessage_keeps (.refl s))
  | .selectorEvaluation => .of_keeps (State.selectorEval_keeps (State.cmtApply_keeps (.refl s)))
  | .ensembleUpdate => .of_keeps (State.ensembleUpdate_keeps (.refl s))
  | .wtrCountdown => .of_keeps (State.wtrCountdown_keeps (.refl s))
  | .endWtr .. => .of_keeps (State.endWtr_keeps (.refl s))
  | .forget .. => .of_keeps (State.forgetRef_keeps (.refl s))
  | .servoUpdate => .of_keeps (.ite (.refl s) (State.servoUpdate_keeps (State.cmtApply_keeps (.refl s))))
  | .fastlockHalve => .of_keeps (State.fastlockHalve_keeps (.refl s))
  | .spliceWindowEnd => .of_keeps (State.windowEnd_keeps (.refl s))
  | .holdoverModelFit => .of_keeps (State.refreshSel_keeps (State.modelFit_keeps (.refl s)))
  | .modelCopyWrite => .of_keeps (State.modelCopyWrite_keeps (.refl s))
  | .holdoverPredict => .of_keeps (State.holdPredict_keeps (.refl s))
  | .forgetModel .. => .of_keeps (State.refreshSel_keeps (State.forgetModel_keeps (.refl s)))
  | .ppsEdge .. => .of_leads (State.ppsEdge_leads (.refl s))
  | .ppsPulseEnd .. => .of_keeps (State.ppsEnd_keeps (.refl s))
  | .ppsInputLost .. => .of_keeps (State.ppsLost_keeps (.refl s))
  | .outputUnmute .. => .of_keeps (State.unmute_keeps (.refl s))
  | .clkoutRealign .. => .of_keeps (State.clkRealign_keeps (.refl s))
  | .clkoutMonitorTrip .. => .of_keeps (State.clkMonitor_keeps (.refl s))
  | .todMessageSend => .of_keeps (State.todSend_keeps (.refl s))
  | .gppsPulse => .of_leads (State.gppsPulse_leads (.refl s))
  | .feScriptRun .. => .of_keeps (State.feScript_keeps (.refl s))
  | .agcRead .. => .of_keeps (State.agcRead_keeps (.refl s))
  | .agcMonitorReport .. => .of_keeps (State.agcReport_keeps (.refl s))
  | .channelPlacement .. => .of_keeps (State.placement_keeps (.refl s))
  | .channelDetect .. => .of_keeps (State.chanDetect_keeps (.refl s))
  | .searchExhausted .. => .of_keeps (State.chanExhausted_keeps (.refl s))
  | .pullinLock .. => .of_keeps (State.chanPullin_keeps (.refl s))
  | .pullinTimeout .. => .of_keeps (State.chanPullinTimeout_keeps (.refl s))
  | .syncFound .. => .of_keeps (State.chanSync_keeps (.refl s))
  | .towDecoded .. => .of_keeps (State.chanTow_keeps (.refl s))
  | .channelLost .. => .of_keeps (State.chanLost_keeps (.refl s))
  | .lostRefound .. => .of_keeps (State.chanRefound_keeps (.refl s))
  | .lostTimeout .. => .of_keeps (State.chanLostTimeout_keeps (.refl s))
  | .cycleSlip .. => .of_keeps (State.chanSlip_keeps (.refl s))
  | .epochStrobe .. => .of_keeps (State.epoch_keeps (.refl s))
  | .gnssSolution .. => .of_keeps (State.gnssSolution_keeps (.refl s))
  | .exclusionExpire .. => .of_keeps (State.exclExpire_keeps (.refl s))
  | .integClearExpire => .of_keeps (State.integClear_keeps (.refl s))
  | .integGoodReturn => .of_keeps (State.integGood_keeps (.refl s))
  | .recordSetLock .. => .of_keeps (State.readOn_keeps (.refl s))
  | .gnsStatLatch .. => .of_keeps (State.readOn_keeps (.refl s))
  | .resurvey .. => .of_keeps (State.resurvey_keeps (.refl s))
  | .rerunScript .. => .of_keeps (State.rerunScript_keeps (.refl s))
  | .coldStart .. => .of_keeps (State.coldStart_keeps (.refl s))
  | .checkinSleep => .of_keeps (State.chkSleep_keeps (.refl s))
  | .checkinWake => .of_keeps (State.chkWake_keeps (.refl s))
  | .checkinEarlyWake => .of_keeps (State.chkEarly_keeps (.refl s))
  | .frameReceive .. => .of_leads (State.frameIn_leads (.refl s))
  | .pauseReceive .. => .of_keeps (State.pauseIn_keeps (State.controlFrame_keeps (.refl s)))
  | .pfcReceive .. => .of_keeps (State.pfcIn_keeps (State.controlFrame_keeps (.refl s)))
  | .pauseExpire .. => .of_keeps (State.pauseEnd_keeps (.refl s))
  | .xoffRepeat .. => .of_keeps (State.xoffAgain_keeps (.refl s))
  | .xonSend .. => .of_keeps (State.xonSend_keeps (.refl s))
  | .pauseWatchdog .. => .of_keeps (State.pauseWatch_keeps (.refl s))
  | .xoffWatchdog .. => .of_keeps (State.xoffWatch_keeps (.refl s))
  | .holdoffExpire .. => .of_keeps (State.holdoffEnd_keeps (.refl s))
  | .esmcReceive .. => .of_keeps (State.esmcIn_keeps (State.controlFrame_keeps (.refl s)))
  | .esmcInfoSend .. => .of_keeps (State.esmcSend_keeps (.refl s))
  | .preemptVerifySend .. => .of_keeps (State.verifySend_keeps (.refl s))
  | .preemptRespondReceive .. => .of_keeps (State.respondIn_keeps (.refl s))
  | .classifierRuleWrite .. => .of_keeps (State.ruleWrite_keeps (.refl s))
  | .parkEvaluation => .of_keeps (State.parkEval_keeps (.refl s))
  | .parkApply => .of_keeps (State.parkApply_keeps (.refl s))
  | .speedStepDown .. => .of_keeps (State.stepDown_keeps (.refl s))
  | .speedStepUp .. => .of_keeps (State.stepUpPort_keeps (.refl s))
  | .speedStepFail .. => .of_keeps (State.stepFailed_keeps (.refl s))
  | .linkUp .. => .of_keeps (State.linkUp_keeps (.refl s))
  | .linkDown .. => .of_keeps (State.linkLost_keeps (.refl s))
  | .trackerConversion .. => .of_keeps (State.trackerConv_keeps (.refl s))
  | .syncePhaseDeliver .. => .of_keeps (State.syncePhase_keeps (.refl s))
  | .replicaUpdate .. => .of_keeps (State.replicaUpdate_keeps (.refl s))
  | .laneTake .. => .of_keeps (State.laneTake_keeps (.refl s))
  | .answerBuilt .. => .of_keeps (State.answerBuilt_keeps (.refl s))
  | .frameCommit .. => .of_leads (State.frameCommit_leads (.refl s))
  | .frameSent .. => .of_keeps (State.sentFrame_keeps (.refl s))
  | .keyRotation => .of_keeps (State.keyRotation_keeps (.refl s))
  | .rotate .. => .of_keeps (State.rotateOp_keeps (.refl s))
  | .cookieMint => .of_keeps (State.mintStart_keeps (.refl s))
  | .mintComplete => .of_keeps (State.mintComplete_keeps (.refl s))
  | .syncSend .. => .of_keeps (State.syncSend_keeps (.refl s))
  | .announceSend .. => .of_keeps (State.announceSend_keeps (.refl s))
  | .pdelayReqSend .. => .of_keeps (State.pdelaySend_keeps (.refl s))
  | .ptpMessageReceive .. => .of_keeps (State.ptpReceive_keeps (.refl s))
  | .unicastNegotiation .. => .of_keeps (State.negotiate_keeps (.refl s))
  | .delayReq .. => .of_keeps (State.delayReq_keeps (.refl s))
  | .pdelayReqReceive .. => .of_keeps (State.pdelayReqIn_keeps (.refl s))
  | .pdelayRespFollowUp .. => .of_keeps (State.pdelayFollow_keeps (.refl s))
  | .peerDelayComplete .. => .of_keeps (State.peerComplete_keeps (.refl s))
  | .clientAnnounce .. => .of_keeps (State.clientAnnounce_keeps (.refl s))
  | .clientSync .. => .of_keeps (State.clientSync_keeps (.refl s))
  | .clientDelayResp .. => .of_keeps (State.clientDelayResp_keeps (.refl s))
  | .clientGrantRenew .. => .of_keeps (State.clientRenew_keeps (.refl s))
  | .grantExpire .. => .of_keeps (State.grantExpire_keeps (.refl s))
  | .clientGmTimeout .. => .of_keeps (State.gmTimeout_keeps (.refl s))
  | .cancelGrants .. => .of_keeps (State.ptpCancelAll_keeps (.refl s))
  | .restartClient .. => .of_keeps (State.ptpRestart_keeps (.refl s))
  | .hifReset .. => .of_keeps (State.hifReset_keeps (.refl s))
  | .rxTailWrite .. => .of_keeps (State.rxTail_keeps (.refl s))
  | .txTailWrite .. => .of_keeps (State.txTail_keeps (.refl s))
  | .cqTailWrite .. => .of_keeps (State.cqTail_keeps (.refl s))
  | .hostFrameDeliver .. => .of_keeps (State.hostDeliver_keeps (.refl s))
  | .ringWaitExpire .. => .of_keeps (State.ringWait_keeps (.refl s))
  | .hostFrameTransmit .. => .of_keeps (State.hostTransmit_keeps (.refl s))
  | .txComplete .. => .of_keeps (State.txComplete_keeps (.refl s))
  | .commandFetch .. => .of_keeps (State.cmdFetch_keeps (.refl s))
  | .abort .. => .of_keeps (.ite (.refl s) (State.cqAbort_keeps (.refl s)))
  | .abortAll .. => .of_keeps (.ite (.refl s) (State.cqAbortAll_keeps (.refl s)))
  | .evsRecordDeliver => .of_keeps (State.evsDeliver_keeps (.refl s))
  | .evsHostRdWrite .. => .of_keeps (State.evsRdWrite_keeps (.refl s))
  | .evsMark => .of_keeps (State.evsOp_keeps (.refl s))
  | .evsRewind => .of_keeps (State.evsOp_keeps (.refl s))
  | .evsClear => .of_keeps (State.evsOp_keeps (.refl s))
  | .msixMessage .. => .of_keeps (State.msix_keeps (.refl s))
  | .ptmReq .. => .of_keeps (State.ptmReq_keeps (.refl s))
  | .ptmAuto => .of_keeps (State.ptmAuto_keeps (.refl s))
  | .ptmResponse .. => .of_keeps (State.ptmResponse_keeps (.refl s))
  | .ptmTimeout => .of_keeps (State.ptmTimeout_keeps (.refl s))
  | .ptmResultLatch .. => .of_keeps (State.readOn_keeps (.refl s))
  | .modexp .. => .of_keeps (State.pkeStart_keeps (.refl s))
  | .rsaPriv .. => .of_keeps (State.pkeStart_keeps (.refl s))
  | .ecdh .. => .of_keeps (State.pkeStart_keeps (.refl s))
  | .ecdhEph .. => .of_keeps (State.pkeStart_keeps (.refl s))
  | .ecdsaSign .. => .of_keeps (State.pkeStart_keeps (.refl s))
  | .ecdsaVerify .. => .of_keeps (State.pkeStart_keeps (.refl s))
  | .eddsaSign .. => .of_keeps (State.pkeStart_keeps (.refl s))
  | .eddsaVerify .. => .of_keeps (State.pkeStart_keeps (.refl s))
  | .keygen .. => .of_keeps (State.pkeStart_keeps (.refl s))
  | .delete .. => .of_keeps (State.pkeStart_keeps (.refl s))
  | .pubkey .. => .of_keeps (State.pkeStart_keeps (.refl s))
  | .pkeResultRelease .. => .of_leads (State.resultRelease_leads (.refl s))
  | .weftPeriodicCompare => .of_leads (State.periodicCompare_leads (.refl s))
  | .clockMonitorTrip .. => .of_leads (State.clockTrip_leads (.refl s))
  | .railFault .. => .of_leads (State.railFault_leads (.refl s))
  | .tempFault => .of_leads (State.tempFault_leads (.refl s))
  | .lockstepMismatch .. => .of_leads (State.lockstep_leads (.refl s))
  | .heartbeatTimeout => .of_leads (State.heartbeat_leads (.refl s))
  | .faultPathFail .. => .of_keeps (State.pathFails_keeps (.refl s))
  | .faultReport .. => .of_leads (State.reportTag_leads (.refl s))
  | .stormWindowClose => .of_keeps (State.closeStorm_keeps (.refl s))
  | .memoryScrubDone .. => .of_keeps (State.scrubDone_keeps (.refl s))
  | .rotatingPassStart => .of_keeps (State.rotatePass_keeps (.refl s))
  | .passScanStart .. => .of_keeps (State.scanStart_keeps (.refl s))
  | .passEnd .. => .of_leads (State.passEnd_leads (.refl s))
  | .test .. => .of_keeps (State.bstTest_keeps (.refl s))
  | .clearRetired .. => .of_keeps (State.bstClear_keeps (.refl s))
  | .sensorScan .. => .of_keeps (State.sensorScan_keeps (.refl s))
  | .status .. => .of_leads (State.message_leads (.refl s) fun _ _ _ h => h.andThen (State.msgStatus_keeps (.refl _)))
  | .regRead .. => .of_leads (State.message_leads (.refl s) fun _ _ _ h => h.andThen (State.msgRegRead_keeps (.refl _)))
  | .regWrite .. => .of_leads (State.message_leads (.refl s) fun _ _ _ h => State.regWriteThen_leads h)
  | .logRead .. => .of_leads (State.message_leads (.refl s) fun _ _ _ h => h.andThen (State.msgLogRead_keeps (.refl _)))
  | .slotErase .. => .of_leads (State.message_leads (.refl s) fun _ _ _ h => h.andThen (State.msgErase_keeps (.refl _)))
  | .slotEraseDone .. => .of_keeps (State.eraseDone_keeps (.refl s))
  | .slotWrite .. => .of_leads (State.message_leads (.refl s) fun _ _ _ h => h.andThen (State.msgWrite_keeps (.refl _)))
  | .slotVerify .. => .of_leads (State.message_leads (.refl s) fun _ _ _ h => h.andThen (State.msgVerify_keeps (.refl _)))
  | .fwSwap .. => .of_leads (State.message_leads (.refl s) fun _ _ _ h => State.msgSwap_leads h)
  | .fwReady => .of_keeps (State.fwReady_keeps (.refl s))
  | .restart .. => .of_leads (State.message_leads (.refl s) fun _ _ _ h => State.msgRestart_leads h)
  | .offlineTest .. => .of_leads (State.message_leads (.refl s) fun _ _ _ h => State.msgOffline_leads h)
  | .otarnUndefinedCode .. => .of_leads (State.message_leads (.refl s) fun _ _ _ h => h.andThen (State.respond_keeps (.refl _)))
  | .otarnDropRecord => .of_keeps (State.dropRecord_keeps (.refl s))
  | .i2cPointerWrite .. => .of_keeps (State.i2cPoint_keeps (.refl s))
  | .i2cRead .. => .of_keeps (State.i2cRead_keeps (.refl s))
  | .railMinRead .. => .of_keeps (.ite (State.readOn_keeps (.refl s)) (.refl s))
  | .mgtStatRead .. => .of_keeps (State.readOn_keeps (.refl s))
  | .counterLatchRead .. => .of_keeps (.ite (State.readOn_keeps (.refl s)) (.refl s))
  | .counterWrapClear .. => .of_keeps (State.wrapClear_keeps (.refl s))
  | .bwWindowEnd .. => .of_keeps (State.bwEnd_keeps (.refl s))
  | .bwStatLatch .. => .of_keeps (.ite (State.readOn_keeps (.refl s)) (.refl s))
  | .bwPeakRead .. => .of_keeps (.ite (State.readOn_keeps (.refl s)) (.refl s))
  | .userPageRead .. => .of_keeps (State.userPage_keeps (.refl s))
  | .jtagSamplePreload .. => .of_keeps (State.jtagSample_keeps (.refl s))
  | .jtagExtest .. => .of_keeps (State.jtagExtest_keeps (.refl s))
  | .jtagHighz => .of_keeps (State.jtagIr_keeps (.refl s))
  | .jtagClamp => .of_keeps (State.jtagIr_keeps (.refl s))
  | .jtagBypass .. => .of_keeps (State.jtagBypass_keeps (.refl s))
  | .jtagTrst => .of_keeps (State.jtagIr_keeps (.refl s))
  | .leapEvent => .of_keeps (State.leapEvent_keeps (.refl s))
  | .offsetSlewEnd .. => .of_keeps (State.ofsSlewEnd_keeps (.refl s))
  | .pathAHeartbeatLoss => .of_keeps (State.pathALost_keeps (.refl s))
  | .clientDelayReqSend .. => .of_keeps (State.clientDreq_keeps (.refl s))
  | .pcieLinkUp .. => .of_keeps (State.pcieUp_keeps (.refl s))
  | .pcieConfigWrite .. => .of_keeps (State.pcieConfig_keeps (.refl s))
  | .slotVerifyDone .. => .of_keeps (State.verifyDone_keeps (.refl s))
  | .scriptWaitExpire .. => .of_keeps (State.scriptResume_keeps (.refl s))

theorem exec_leads {c : Instr} {s t : State} (h : exec c s = .next t) : s.Leads t := by
  obtain ⟨u, hu, hl⟩ := exec_completes c s
  obtain rfl : u = t := Host.Outcome.next.inj (hu.symm.trans h)
  exact hl

/-- What a step leads from: the state without the command that it runs, or, with none waiting, the state one nanosecond on. -/
theorem Steps.leads {s t : State} (h : Steps s t) :
    (∃ c rest, s.pending = c :: rest ∧ State.Leads { s with pending := rest } t) ∨
    (s.pending = [] ∧ State.Leads { s with now := s.now + 1 } t) := by
  unfold Steps step at h
  split at h
  case h_1 c rest hp => exact .inl ⟨c, rest, hp, exec_leads h⟩
  case h_2 hp =>
    obtain rfl : s.tick = t := Host.Outcome.next.inj h
    exact .inr ⟨hp, s.tick_keeps.leads⟩

theorem State.Leads.wf {r s : State} (h : r.Leads s) (hr : r.wf) : s.wf := ⟨h.canon hr.1, h.shaped hr.2⟩

/-- Neither the queue nor the clock is part of what makes a state well formed, so it stands in the state that a step leads from. -/
theorem Steps.wf {s t : State} (h : Steps s t) (hs : s.wf) : t.wf := by
  obtain ⟨_, _, _, hl⟩ | ⟨_, hl⟩ := h.leads
  · exact hl.wf hs
  · exact hl.wf hs

/-- After reset every map is empty and every list is made in the part's size. -/
theorem State.reset_wf : State.reset.wf :=
  ⟨⟨rfl, rfl, rfl, rfl, rfl, trivial, trivial, trivial, trivial, trivial, trivial, trivial⟩,
   ⟨rfl, rfl, rfl, rfl, rfl, rfl, rfl, rfl, rfl, rfl, rfl, rfl, rfl, rfl, rfl, rfl⟩⟩

/-- Settles O60: whatever a step leads to keeps the maps canonical and the lists in the part's sizes, and the reset state has both. -/
theorem everyStepKeepsTheStateWellFormed : Obligations.EveryStepKeepsTheStateWellFormed :=
  ⟨State.reset_wf, fun _ _ hs hst => hst.wf hs⟩

end Sys2Proof.Machine
end

section
/-! SUPPORT. What a register write does, by where it goes: outside every block, in part, to GLB, to a plain configuration register, and to
a word of a classifier rule. -/

namespace Sys2Proof.Machine

open Sys2Proof

theorem exec_registerWrite (s : State) (p : Path) (off : Nat) (be : BitVec 4) (v : W32) :
    exec (.registerWrite p off be v) s = .next (s.registerWrite off be v) := rfl

theorem exec_classifierRuleWrite (s : State) (k w : Nat) (v : W32) :
    exec (.classifierRuleWrite k w v) s = .next (s.ruleWrite k w v) := rfl

section
variable {s : State} {off k w : Nat} {be : BitVec 4} {v : W32} {r : RegDef}

/-! The dispatch of a write by its offset. -/

/-- Only a whole write of MGT_MBOX_CTL is served apart. -/
theorem State.registerWrite_eq_writeReg (h : off = 0x101000 → be ≠ 15) : s.registerWrite off be v = s.writeReg off be v :=
  if_neg fun hm => h hm.1 hm.2

/-- Outside a reset an aligned write within the register space goes by its range and its byte enables. -/
theorem State.writeReg_taken (hs : s.inReset = false) (ha : off % 4 = 0) (hoff : off < 0x1000000) :
    s.writeReg off be v =
      if 0x130000 ≤ off then { s with glb := { s.glb with errUnassigned := true } }
      else if be ≠ 15 then { s with glb := { s.glb with errPartial := true } }
      else if off < 0x10000 then s.writeGlb off v
      else s.writeBlock off v := if_neg (by simp [hs, ha, hoff])

theorem State.writeReg_unassigned (hs : s.inReset = false) (ha : off % 4 = 0) (hlo : 0x130000 ≤ off) (hhi : off < 0x1000000) :
    s.writeReg off be v = { s with glb := { s.glb with errUnassigned := true } } := by
  rw [State.writeReg_taken hs ha hhi, if_pos hlo]

theorem State.writeReg_partial (hs : s.inReset = false) (ha : off % 4 = 0) (hoff : off < 0x130000) (hbe : be ≠ 15) :
    s.writeReg off be v = { s with glb := { s.glb with errPartial := true } } := by
  rw [State.writeReg_taken hs ha (by omega), if_neg (by omega), if_pos hbe]

theorem State.writeReg_glb (hs : s.inReset = false) (ha : off % 4 = 0) (hoff : off < 0x10000) : s.writeReg off 15 v = s.writeGlb off v := by
  rw [State.writeReg_taken hs ha (by omega), if_neg (by omega), if_neg (not_not_intro rfl), if_pos hoff]

theorem State.writeReg_block (hs : s.inReset = false) (ha : off % 4 = 0) (hlo : 0x10000 ≤ off) (hhi : off < 0x130000) :
    s.writeReg off 15 v = s.writeBlock off v := by
  rw [State.writeReg_taken hs ha (by omega), if_neg (by omega), if_neg (not_not_intro rfl), if_neg (by omega)]

theorem State.writeGlb_scratch : s.writeGlb 0x40 v = { s with glb := { s.glb with scratch := v } } := rfl

theorem State.writeMisc_config (hstk : off < 0x30020 ∨ 0x30400 ≤ off) (hsym : off ≠ 0xB0020) (hbst : off ≠ 0xD0010) :
    s.writeMisc off v = s.putStaged off v := by
  unfold State.writeMisc
  rw [if_neg (by omega), if_neg hsym, if_neg hbst]

/-- In OUT, WV, PKE, SYM, KST and PMC a write goes to the configuration, unless it is to a commit register, a counter or SYM_CTL. -/
theorem State.writeBlock_config (hw : s.noWrites = false) (hblk : off / 0x10000 ∈ [4, 8, 10, 11, 12, 15]) (hsym : off ≠ 0xB0020)
    (hc : cmtAt off = none) (hk : isCounter (off - 4) = false) : s.writeBlock off v = s.putStaged off v := by
  simp only [List.mem_cons, List.not_mem_nil, or_false] at hblk
  have hmisc : s.writeMisc off v = s.putStaged off v := State.writeMisc_config (by omega) hsym (by omega)
  unfold State.writeBlock
  simp only [hw, hc, hk, Bool.false_eq_true, if_false]
  obtain h | h | h | h | h | h := hblk <;> simp only [h, hmisc]

theorem State.registerWrite_config (hs : s.inReset = false) (ha : off % 4 = 0) (hw : s.noWrites = false)
    (hblk : off / 0x10000 ∈ [4, 8, 10, 11, 12, 15]) (hsym : off ≠ 0xB0020) (hc : cmtAt off = none) (hk : isCounter (off - 4) = false) :
    s.registerWrite off 15 v = s.putStaged off v := by
  have hrange : 0x40000 ≤ off ∧ off < 0x100000 := by
    simp only [List.mem_cons, List.not_mem_nil, or_false] at hblk
    omega
  calc s.registerWrite off 15 v
      = s.writeReg off 15 v := State.registerWrite_eq_writeReg (by omega)
    _ = s.writeBlock off v := State.writeReg_block hs ha (by omega) (by omega)
    _ = s.putStaged off v := State.writeBlock_config hw hblk hsym hc hk

/-! The two copies of a configuration register. -/

/-- A register without RW bits: the active copy stands. -/
theorem State.putStaged_rws (hr : regDef off = some r) (hrw : r.mask (· == .rw) = 0) (hrws : r.mask (· == .rws) ≠ 0) :
    s.putStaged off v =
      { s with stg := s.stg.wr off ((v &&& r.mask (· == .rws)) ||| (s.stg.rd off &&& ~~~(r.mask (· == .rws)))) } := by
  unfold State.putStaged
  simp only [hr, hrw, hrws, if_true, if_false]

theorem State.putStaged_rw (hr : regDef off = some r) (hrw : r.mask (· == .rw) ≠ 0) (hrws : r.mask (· == .rws) = 0) :
    s.putStaged off v = s.putRw off v := by
  unfold State.putStaged
  simp only [hr, hrw, hrws, if_true, if_false]

/-- RW bits are written in both copies, each of which keeps its own other bits. -/
theorem State.putRw_eq (hr : regDef off = some r) :
    s.putRw off v = { s with act := s.act.wr off (r.clamped ((v &&& r.mask (· == .rw)) ||| (s.reg off &&& ~~~(r.mask (· == .rw))))),
                             stg := s.stg.wr off (r.clamped ((v &&& r.mask (· == .rw)) ||| (s.stg.rd off &&& ~~~(r.mask (· == .rw))))) } := by
  unfold State.putRw
  simp only [hr]

/-! The classifier's rules. -/

theorem regsCls_word : ∀ w < 5, ∃ r ∈ regsCls, r.base = 0x24000 + 4 * w ∧ r.stride = 0x20 ∧ r.n = 256 := by decide

theorem regDef_clsOff (hk : k < 256) (hw : w < 5) : ∃ r, regDef (clsOff k w) = some r := by
  obtain ⟨r, hr, hbase, hstride, hn⟩ := regsCls_word w hw
  have hoff : clsOff k w = 0x24000 + 0x20 * k + 4 * w := rfl
  have hat : regsAt (clsOff k w) = regsCls := by
    unfold regsAt
    rw [if_neg (by omega), if_neg (by omega), if_pos (by omega)]
  have hhas : r.has (clsOff k w) = true := by
    simp only [RegDef.has, hbase, hstride, hn, Bool.and_eq_true, decide_eq_true_eq, beq_iff_eq]
    omega
  rw [← Option.isSome_iff_exists, regDef, hat, List.find?_isSome]
  exact ⟨r, hr, hhas⟩

theorem State.ruleWrite_enabled (hs : s.noWrites = false) (hw : w ≠ 0) (hen : s.bit (clsOff k 0) 31 = true) :
    s.ruleWrite k w v = { s with wv := { s.wv with clsErr := true, clsErrRule := k } } := by
  unfold State.ruleWrite
  rw [if_neg (by simp [hs]), if_pos ⟨hw, hen⟩]

theorem State.ruleWrite_open (hs : s.noWrites = false) (h : w = 0 ∨ s.bit (clsOff k 0) 31 = false) :
    s.ruleWrite k w v = s.putRw (clsOff k w) v := by
  have hopen : ¬(w ≠ 0 ∧ s.bit (clsOff k 0) 31 = true) := by simpa [or_iff_not_imp_left] using h
  unfold State.ruleWrite
  rw [if_neg (by simp [hs]), if_neg hopen]

end

/-- Settles O8: the dispatch of a write by its offset, then what the register's own bits say of the two copies. -/
theorem registerWriteIsStagedOrDiscarded : Obligations.RegisterWriteIsStagedOrDiscarded := by
  intro s p off be v hs ha
  refine ⟨fun hlo hhi => ?unassigned, fun hoff hbe => ?part, ?scratch,
    fun r hr hw hblk hsym hc hk => ⟨fun hrw hrws => ?staged, fun hrw hrws => ?both⟩,
    fun k w hk hw hnw => ⟨fun hw0 hen => ?refused, fun hopen => ?rule⟩⟩
  case unassigned => rw [exec_registerWrite, State.registerWrite_eq_writeReg (by omega), State.writeReg_unassigned hs ha hlo hhi]
  case part => rw [exec_registerWrite, State.registerWrite_eq_writeReg fun _ => hbe, State.writeReg_partial hs ha hoff hbe]
  case scratch =>
    rw [exec_registerWrite, State.registerWrite_eq_writeReg (by decide), State.writeReg_glb hs rfl (by decide), State.writeGlb_scratch]
  case staged => rw [exec_registerWrite, State.registerWrite_config hs ha hw hblk hsym hc hk, State.putStaged_rws hr hrw hrws]
  case both =>
    rw [exec_registerWrite, State.registerWrite_config hs ha hw hblk hsym hc hk, State.putStaged_rw hr hrw hrws, State.putRw_eq hr]
  case refused => rw [exec_classifierRuleWrite, State.ruleWrite_enabled hnw hw0 hen]
  case rule =>
    obtain ⟨r, hr⟩ := regDef_clsOff hk hw
    exact ⟨r, hr, by rw [exec_classifierRuleWrite, State.ruleWrite_open hnw hopen, State.putRw_eq hr]⟩

end Sys2Proof.Machine
end

section
/-! SUPPORT. That no command adds to the queue, takes from it or moves the clock. -/

namespace Sys2Proof.Machine

open Sys2Proof

/-- Settles O58: every command completes, and what it leads to has the queue and the clock of the state before it. -/
theorem everyCommandCompletesAndLeavesQueueAndClock : Obligations.EveryCommandCompletesAndLeavesQueueAndClock := by
  intro c s
  obtain ⟨t, hexec, hleads⟩ := exec_completes c s
  exact ⟨t, hexec, hleads.pending, hleads.now⟩

end Sys2Proof.Machine
end

section
/-! SUPPORT. What one cycle of CLK_TIME moves: the counters, the outputs and the baseband, and nothing else. -/

namespace Sys2Proof.Machine

open Sys2Proof

/-! Operations that touch the outputs alone. -/

/-- A later state that differs from the first in the outputs alone. -/
def State.OutputsOnly (s t : State) : Prop := t = { s with out := t.out }

theorem State.OutputsOnly.refl (s : State) : s.OutputsOnly s := rfl

theorem State.OutputsOnly.trans {r s t : State} (a : r.OutputsOnly s) (b : s.OutputsOnly t) : r.OutputsOnly t := by
  unfold State.OutputsOnly at *
  rw [b, a]

theorem State.OutputsOnly.gns {s t : State} (h : s.OutputsOnly t) : t.gns = s.gns := by
  rw [show t = _ from h]

theorem State.setMuted_outputsOnly (s : State) (b : Bool) (o : OutId) : s.OutputsOnly (s.setMuted b o) := by
  cases o <;> rfl

theorem State.applyMute_outputsOnly (s : State) : s.OutputsOnly s.applyMute := by
  unfold State.applyMute
  induction allOuts generalizing s with
  | nil => exact .refl s
  | cons o l ih =>
    rw [List.foldl_cons]
    refine .trans ?_ (ih _)
    split
    · exact s.setMuted_outputsOnly true o
    · exact .refl s

theorem State.latchGpps_outputsOnly (s : State) : s.OutputsOnly s.latchGpps := by
  unfold State.latchGpps
  split <;> rfl

theorem State.pulseEnds_outputsOnly (s : State) : s.OutputsOnly s.pulseEnds := by
  unfold State.pulseEnds
  extract_lets s1
  have hmute : s.OutputsOnly s1 := by
    unfold s1
    split
    · exact s.applyMute_outputsOnly
    · exact .refl s
  have hdue : s1.OutputsOnly { s1 with out := { s1.out with todDue := false } } := rfl
  split
  · exact (hmute.trans hdue).trans (State.latchGpps_outputsOnly _)
  · exact hmute

/-! The placement of the channels done again. -/

/-- A later state that differs from the first in the baseband alone. -/
def State.GnssOnly (s t : State) : Prop := t = { s with gns := t.gns }

theorem State.GnssOnly.refl (s : State) : s.GnssOnly s := rfl

theorem State.GnssOnly.trans {r s t : State} (a : r.GnssOnly s) (b : s.GnssOnly t) : r.GnssOnly t := by
  unfold State.GnssOnly at *
  rw [b, a]

theorem State.placeOne_gnssOnly (s : State) (v : Visible) : s.GnssOnly (s.placeOne v) := by
  unfold State.placeOne
  extract_lets onIt
  split
  · exact .refl s
  · split <;> rfl

theorem State.placeAll_gnssOnly (s : State) (l : List Visible) : s.GnssOnly (l.foldl (fun s v => s.placeOne v) s) := by
  induction l generalizing s with
  | nil => exact .refl s
  | cons v l ih => exact (s.placeOne_gnssOnly v).trans (ih _)

theorem State.settleStart_gnssOnly (s : State) (sats : List Visible) : s.GnssOnly (s.settleStart sats) := by
  unfold State.settleStart
  extract_lets g
  split <;> rfl

/-- Only an almanac that has come anew is kept in FeRAM. -/
theorem State.placement_gnssOnly (s : State) (sats : List Visible) : s.GnssOnly (s.placement [] sats) := by
  unfold State.placement
  split
  · exact .refl s
  · extract_lets _ r want drop _ s1
    have hseen : s.GnssOnly (({ s with gns := { s.gns with seen := sats } }).keepAlmanacs []) := rfl
    have hr : s.GnssOnly r := hseen.trans (State.settleStart_gnssOnly _ sats)
    have hs1 : s.GnssOnly s1 := hr.trans rfl
    split
    · exact hs1
    · exact hs1.trans (s1.placeAll_gnssOnly want)

theorem State.redoPlacement_gnssOnly (s : State) : s.GnssOnly s.redoPlacement := by
  unfold State.redoPlacement
  extract_lets g
  split
  · exact .refl s
  · split
    · rfl
    · have hg : s.GnssOnly { s with gns := g } := rfl
      exact hg.trans (State.placement_gnssOnly _ _)

theorem State.redoPlacement_of_settled {s : State} (h : s.gns.redo = false) : s.redoPlacement = s := if_pos (by simp [h])

/-! The cycle. -/

/-- The counters after one cycle of CLK_TIME (R98, R108, R118). -/
def State.tbAfterCycle (s : State) : TbSt :=
  let edge := s.tb.weftPhase == 7
  { s.tb with warp := s.tb.warp + 1, weftPhase := (s.tb.weftPhase + 1) % 8,
              weftFix := if edge then ({ s with now := s.now + 1 } : State).weftEdge else s.tb.weftFix,
              weftDue := if edge then none else s.tb.weftDue }

/-- The counters, the slews and the clock outputs of a cycle, before a pulse's end and a new placement are looked at. -/
def State.cycleStart (s : State) : State :=
  ({ s with now := s.now + 1, tb := s.tbAfterCycle } : State).slewOutputs.runClocks

theorem State.tick_stopped {s : State} (h : s.tb.running = false) : s.tick = { s with now := s.now + 1 } := if_pos (by simp [h])

theorem State.tick_running {s : State} (h : s.tb.running = true) : s.tick = s.cycleStart.pulseEnds.redoPlacement := if_neg (by simp [h])

theorem State.cycleStart_eq (s : State) :
    s.cycleStart = { s with now := s.now + 1, tb := s.tbAfterCycle, out := s.cycleStart.out,
                            gns := { s.gns with clkNext := s.cycleStart.gns.clkNext } } := rfl

/-- Nothing but the counters, the outputs and the baseband moves. -/
theorem State.tick_eq {s : State} (h : s.tb.running = true) :
    s.tick = { s with now := s.now + 1, tb := s.tbAfterCycle, out := s.tick.out, gns := s.tick.gns } := by
  have hpulse := s.cycleStart.pulseEnds_outputsOnly
  have hredo := s.cycleStart.pulseEnds.redoPlacement_gnssOnly
  unfold State.OutputsOnly at hpulse
  unfold State.GnssOnly at hredo
  rw [State.tick_running h, hredo, hpulse, s.cycleStart_eq]

/-- With no placement to be made anew, of the baseband only CLK_GNSS moves. -/
theorem State.tick_gns {s : State} (h : s.tb.running = true) (hredo : s.gns.redo = false) :
    s.tick.gns = { s.gns with clkNext := s.tick.gns.clkNext } := by
  have hgns : s.cycleStart.pulseEnds.gns = { s.gns with clkNext := s.cycleStart.gns.clkNext } := by
    rw [s.cycleStart.pulseEnds_outputsOnly.gns, s.cycleStart_eq]
  rw [State.tick_running h, State.redoPlacement_of_settled (by rw [hgns, hredo]), hgns]

theorem State.tbAfterCycle_between {s : State} (h : s.tb.weftPhase ≠ 7) :
    s.tbAfterCycle = { s.tb with warp := s.tb.warp + 1, weftPhase := (s.tb.weftPhase + 1) % 8 } := by
  simp [State.tbAfterCycle, h]

theorem State.tbAfterCycle_edge {s : State} (h : s.tb.weftPhase = 7) :
    s.tbAfterCycle = { s.tb with warp := s.tb.warp + 1, weftPhase := 0, weftDue := none,
                                 weftFix := ({ s with now := s.now + 1 } : State).weftEdge } := by
  simp [State.tbAfterCycle, h]

theorem State.weftEdge_plain {s : State} (h : s.tb.weftDue = none) : s.weftEdge = s.tb.weftFix + s.weftAdvance := by
  unfold State.weftEdge
  rw [h]

theorem State.weftEdge_set {s : State} {c : WeftChange} {n : Nat} (h : s.tb.weftDue = some c) (hn : c.load = some n) :
    s.weftEdge = (n + (s.now - c.at_)) * 2 ^ 32 := by
  unfold State.weftEdge
  simp only [h, hn]

theorem State.weftEdge_step {s : State} {c : WeftChange} (h : s.tb.weftDue = some c) (hn : c.load = none) :
    s.weftEdge = unsigned 96 ((s.tb.weftFix : Int) + s.weftAdvance + c.by_ * (2 ^ 32 : Nat)) := by
  unfold State.weftEdge
  simp only [h, hn]

theorem step_front (s : State) (c : Instr) (rest : List Instr) (h : s.pending = c :: rest) : step s = exec c { s with pending := rest } := by
  unfold step
  rw [h]

theorem step_idle {s : State} (h : s.pending = []) : step s = .next s.tick := by
  unfold step
  rw [h]

/-- Settles O56: the front command runs with the rest, and with none waiting the cycle moves the counters by the case of Weft's edge. -/
theorem stepRunsTheFrontCommand : Obligations.StepRunsTheFrontCommand := by
  intro s
  refine ⟨fun c rest => step_front _ c rest rfl, fun c rest h => step_front s c rest h, fun hidle => ?_⟩
  rw [step_idle hidle]
  refine ⟨fun hstop => by rw [State.tick_stopped hstop], fun hrun => ⟨s.tick, rfl, ?_⟩⟩
  have hall := State.tick_eq hrun
  have htb : s.tick.tb = s.tbAfterCycle := congrArg State.tb hall
  have hnow : s.tick.now = s.now + 1 := congrArg State.now hall
  refine ⟨hnow, fun hbetween => ?between, fun hedge => ⟨fun hdue => ?plain, fun c hdue => ⟨fun n hn => ?set, fun hn => ?step⟩⟩,
    ?frame, State.tick_gns hrun⟩
  case between => rw [htb, State.tbAfterCycle_between hbetween]
  case plain => simp only [htb, State.tbAfterCycle_edge hedge, State.weftEdge_plain (s := { s with now := s.now + 1 }) hdue, hdue]
  case set => rw [htb, State.tbAfterCycle_edge hedge, State.weftEdge_set (s := { s with now := s.now + 1 }) hdue hn]
  case step => rw [htb, State.tbAfterCycle_edge hedge, State.weftEdge_step (s := { s with now := s.now + 1 }) hdue hn]
  case frame => rw [htb, hnow]; exact hall

end Sys2Proof.Machine
end

section
/-! SUPPORT. The rotating pass and the beginning of a scan. -/

namespace Sys2Proof.Machine

open Sys2Proof

section
variable {s : State} {k : Nat}

theorem exec_rotatingPassStart (s : State) : exec .rotatingPassStart s = .next s.rotatePass := rfl

theorem exec_passScanStart (s : State) (k : Nat) : exec (.passScanStart k) s = .next (s.scanStart k) := rfl

/-- The next island in service in the order of the rotation, from the last one taken (R577). -/
def State.rotationNext (s : State) : Option Nat :=
  (rotating.drop s.fmu.rotIdx ++ rotating.take s.fmu.rotIdx).find? (fun k => (s.isl k).st == .inService)

/-- The state with the turn given to an island. -/
def State.turnTaken (s : State) (k : Nat) : State :=
  { s with fmu := { s.fmu with rotIdx := (rotating.idxOf k + 1) % 15, rotAt := some s.now } }

/-- What holds every turn back: the rotation off, a mode that does not serve, two islands under test, a targeted pass waiting. -/
def State.rotationBlocked (s : State) : Bool :=
  !s.bit 0xD0000 31 || !s.md.mode.serving || decide (2 ≤ s.underTest.length) || s.fmu.islands.any (·.targeted)

theorem State.rotationBlocked_eq_false (hon : s.bit 0xD0000 31 = true) (hmode : s.md.mode.serving = true) (htest : s.underTest.length < 2)
    (hwait : ∀ i ∈ s.fmu.islands, i.targeted = false) : s.rotationBlocked = false := by
  simpa [State.rotationBlocked, hon, hmode, htest] using hwait

theorem State.rotatePass_early (hdue : s.rotateDue = false) : s.rotatePass = s := by
  unfold State.rotatePass
  exact if_pos (by simp [hdue])

theorem State.rotatePass_turn (hfree : s.rotationBlocked = false) (hdue : s.rotateDue = true) (hnext : s.rotationNext = some k) :
    s.rotatePass = if (s.turnTaken k).passesOver k then (s.turnTaken k).count 0xD0210 else (s.turnTaken k).beginPass k false := by
  unfold State.rotationBlocked at hfree
  unfold State.rotationNext at hnext
  unfold State.rotatePass
  simp only [hfree, hdue, hnext, Bool.not_true, Bool.or_false, Bool.false_eq_true, if_false]
  rfl

/-- R24 looks at the demand and the capacity, which the turn itself leaves. -/
theorem State.passesOver_turnTaken : (s.turnTaken k).passesOver k = true ↔
    14 ≤ k ∧ (s.capacityLeft k ≤ s.demandOn k ∨ 10 * s.capacityLeft k < 11 * s.demandOn k) := by
  have hdemand : (s.turnTaken k).demandOn k = s.demandOn k := rfl
  have hcapacity : (s.turnTaken k).capacityLeft k = s.capacityLeft k := rfl
  unfold State.passesOver
  rw [hdemand, hcapacity]
  simp [or_iff_not_imp_left]

theorem State.beginPass_untargeted (s : State) (k : Nat) :
    s.beginPass k false = s.setIsl k fun i => { i with st := .underTest, draining := true, targeted := false } := rfl

/-- Out of BOOT, of an island whose test does not hold its port down. -/
theorem State.scanStart_service (hmode : s.md.mode ≠ .boot) (hdrain : (s.isl k).draining = true) (hscan : (s.isl k).scanAt = none)
    (hdone : s.drained k = true) (hport : islMethod k ≠ 3) :
    s.scanStart k = s.setIsl k fun i => { i with draining := false, scanAt := some s.now } := by
  unfold State.scanStart
  simp [hmode, hdrain, hscan, hdone, hport]

theorem State.scanStart_boot (hmode : s.md.mode = .boot) (hturn : s.bootTurn k = true) (hreset : s.inReset = false) :
    s.scanStart k = s.setIsl k fun i => { i with st := .underTest, scanAt := some s.now } := by
  unfold State.scanStart
  simp [hmode, hturn, hreset]

end

/-- Settles O51: a turn of the rotation by whether it is due and whether R24 passes over the island, and a scan by the mode. -/
theorem passesRunInTheirOrder : Obligations.PassesRunInTheirOrder := by
  intro s k
  refine ⟨fun hon hmode htest hwait => ⟨fun hdue => ?early, fun hdue hnext => ⟨fun hshort => ?passedOver, fun hroom => ?taken⟩⟩,
    fun hmode hdrain hscan hdone hport => ?service, fun hmode hturn hreset => ?boot⟩
  case early => rw [exec_rotatingPassStart, State.rotatePass_early hdue]
  case passedOver =>
    rw [exec_rotatingPassStart, State.rotatePass_turn (State.rotationBlocked_eq_false hon hmode htest hwait) hdue hnext,
      if_pos (State.passesOver_turnTaken.2 hshort)]
    rfl
  case taken =>
    rw [exec_rotatingPassStart, State.rotatePass_turn (State.rotationBlocked_eq_false hon hmode htest hwait) hdue hnext,
      if_neg fun h => hroom (State.passesOver_turnTaken.1 h), State.beginPass_untargeted]
    rfl
  case service => rw [exec_passScanStart, State.scanStart_service hmode hdrain hscan hdone hport]
  case boot => rw [exec_passScanStart, State.scanStart_boot hmode hturn hreset]

end Sys2Proof.Machine
end

section
/-! SUPPORT. What a droop of VDD_CORE begins, ends, counts and records. -/

namespace Sys2Proof.Machine

open Sys2Proof

section
variable {s : State} {mv : Nat}

theorem exec_droopStretchStart (s : State) (mv : Nat) : exec (.droopStretchStart mv) s = .next (s.droopStart mv) := rfl

theorem exec_droopRecover (s : State) (mv : Nat) : exec (.droopRecover mv) s = .next (s.droopRecover mv) := rfl

theorem exec_stretchEnd (s : State) : exec .stretchEnd s = .next s.stretchEnd := rfl

theorem exec_droopRecord (s : State) : exec .droopRecord s = .next s.droopRecord := rfl

theorem exec_droopHeavyEval (s : State) : exec .droopHeavyEval s = .next s.droopHeavyEval := rfl

/-! The stretch. -/

/-- The state in which a stretch has begun at a level of VDD_CORE. -/
def State.stretchBegun (s : State) (mv : Nat) : State :=
  let s1 := (s.tally.seeCore mv).railLow 0 mv
  { s1 with fmu := { s1.fmu with stretch := true, holdAt := none } }

theorem State.droopStart_begins (hmv : mv < 860) (hreset : s.inReset = false) (hlock : s.glb.pllLocked = true) :
    s.droopStart mv = s.stretchBegun mv := if_neg (by simp [hmv, hreset, hlock])

theorem State.droopRecover_counts (hmv : 870 ≤ mv) (hstretch : s.fmu.stretch = true) : s.droopRecover mv =
    { s with fmu := { s.fmu with coreMv := mv, minMv := min s.fmu.minMv mv, holdAt := some (s.fmu.holdAt.getD s.now) } } :=
  if_neg (by simp [hmv, hstretch])

/-- The state in which a stretch has ended, before a step-up that waits is applied. -/
def State.stretchEnded (s : State) : State :=
  let s1 := s.tally
  ({ s1 with fmu := { s1.fmu with stretch := false, holdAt := none, episodes := s1.fmu.episodes + 1 } }).count 0xE0100

theorem State.stretchEnd_ends {at_ : Nat} (hhold : s.fmu.holdAt = some at_) (hstretch : s.fmu.stretch = true) (hran : at_ + 1000 ≤ s.now) :
    s.stretchEnd = s.stretchEnded.stepUp := by
  unfold State.stretchEnd
  rw [hhold]
  exact if_pos ⟨hstretch, hran⟩

/-- A step-up moves the step of CLK_CORE alone. -/
theorem State.stepUp_eq (s : State) : s.stepUp = { s with wv := { s.wv with step := s.stepUp.wv.step } } := by
  unfold State.stepUp
  split
  · split <;> rfl
  · rfl

theorem State.stepUp_waiting {n want at_ : Nat} (h : s.wv.parkWant = some (n, want, at_)) : s.stepUp.wv.step = min want s.wv.step := by
  unfold State.stepUp
  rw [h]
  dsimp only
  split
  · next hlow => exact (Nat.min_eq_left (Nat.le_of_lt hlow)).symm
  · next hlow => exact (Nat.min_eq_right (Nat.le_of_not_lt hlow)).symm

theorem State.stepUp_none (h : s.wv.parkWant = none) : s.stepUp.wv.step = s.wv.step := by
  unfold State.stepUp
  rw [h]

/-! What is counted, recorded and judged. -/

/-- A counter that has counted once more never reads 0: where bits 47:0 wrap, WRAP is set. -/
theorem ctrAdd_one_ne_zero (c : BitVec 64) : ctrAdd c 1 ≠ 0 := by
  intro h
  have hval : (ctrAdd c 1).toNat = 0 := congrArg BitVec.toNat h
  simp only [ctrAdd, BitVec.toNat_ofNat] at hval
  split at hval <;> omega

/-- Whatever the map of counters is, a count raises its own counter by one. -/
theorem State.ctrAt_count_self (s : State) (off : Nat) : (s.count off).ctrAt off = ctrAdd (s.ctrAt off) 1 := by
  unfold State.ctrAt
  rw [State.count_ctr, Assoc.putD, if_neg (ctrAdd_one_ne_zero _), Assoc.get_put, if_pos rfl]
  rfl

theorem State.log_running {typ : Nat} {body : List Byte} (h : s.fmu.halted = false) : s.log typ body = s.logAs false typ body :=
  if_neg (by simp [h])

/-- The state in which a DROOP record has been written (R31, R600). -/
def State.droopRecorded (s : State) : State :=
  let s1 := s.logAs false 0x0004 (leBytes 4 s.fmu.episodes ++ leBytes 2 s.fmu.minMv)
  { s1 with fmu := { s1.fmu with episodes := 0, minMv := s1.fmu.coreMv, droopRecAt := some s1.now } }

theorem State.droopRecord_due (hep : s.fmu.episodes ≠ 0) (hrun : s.fmu.halted = false)
    (hdue : ∀ last, s.fmu.droopRecAt = some last → last + nsPerSec ≤ s.now) : s.droopRecord = s.droopRecorded := by
  unfold State.droopRecord
  rw [State.log_running hrun]
  cases hlast : s.fmu.droopRecAt with
  | none => exact if_neg (by simp [hep, hrun])
  | some last => exact if_neg (by simp [hep, hrun, hdue last hlast])

/-- A record just written stands in the log: only older ones leave it. -/
theorem State.logAs_mem (s : State) (fmu : Bool) (typ : Nat) (body : List Byte) :
    { typ := typ, fmu := fmu, seq := s.fe.nextSeq, time := s.nowWord, body := padTo 40 body } ∈ (s.logAs fmu typ body).fe.log := by
  unfold State.logAs
  rw [State.count_fe]
  dsimp only
  rw [List.drop_append_of_le_length (by rw [List.length_append, List.length_singleton]; omega)]
  exact List.mem_append_right _ (List.mem_singleton_self _)

/-- The state in which the cycles of a second have been judged (R596). -/
def State.heavyJudged (s : State) : State :=
  let s1 := s.tally
  { s1 with fmu := { s1.fmu with strCyc := 0, totCyc := 0 },
            mgt := { s1.mgt with droopHeavy := s1.mgt.droopHeavy || decide (s1.fmu.totCyc < 100 * s1.fmu.strCyc) } }

theorem State.droopHeavyEval_judges (h : s.nsNow = 0) : s.droopHeavyEval = s.heavyJudged := if_neg (not_not_intro h)

end

/-- Settles O3: each command in the case that its hypotheses name, and what that case leaves. -/
theorem droopsStretchTheCoreClock : Obligations.DroopsStretchTheCoreClock := by
  intro s mv
  refine ⟨fun hmv hreset hlock => ⟨s.stretchBegun mv, ?begin, rfl, rfl, rfl, rfl⟩, fun hmv hstretch => ?recover,
    fun at_ hhold hstretch hran => ⟨s.stretchEnded.stepUp, ?finish, ?ended⟩,
    fun hep hrun hdue => ⟨s.droopRecorded, ?record, rfl, rfl, rfl, ⟨_, s.logAs_mem false 0x0004 _, rfl, rfl, rfl⟩, rfl⟩,
    fun hsec => ⟨s.heavyJudged, ?judge, rfl, rfl, rfl, rfl⟩⟩
  case begin => rw [exec_droopStretchStart, State.droopStart_begins hmv hreset hlock]
  case recover => rw [exec_droopRecover, State.droopRecover_counts hmv hstretch]
  case finish => rw [exec_stretchEnd, State.stretchEnd_ends hhold hstretch hran]
  case ended =>
    rw [s.stretchEnded.stepUp_eq]
    refine ⟨rfl, rfl, rfl, s.tally.ctrAt_count_self 0xE0100, ?_, rfl⟩
    split
    · next n want _ hwant => exact State.stepUp_waiting hwant
    · next hwant => exact State.stepUp_none hwant
  case record => rw [exec_droopRecord, State.droopRecord_due hep hrun hdue]
  case judge => rw [exec_droopHeavyEval, State.droopHeavyEval_judges hsec]

end Sys2Proof.Machine
end

section
/-! SUPPORT. What the selector leaves of the other blocks when a monitor of a reference fails: the registers in force, the ports, the Weave
and Warp. -/

namespace Sys2Proof.Machine

open Sys2Proof

/-- The parts that the selector, the servo and the issue of a step leave from a state to a later one. -/
structure State.SelectorFrame (s t : State) : Prop where
  act : t.act = s.act
  ports : t.ports = s.ports
  wv : t.wv = s.wv
  warp : t.tb.warp = s.tb.warp

theorem State.SelectorFrame.refl (s : State) : s.SelectorFrame s := ⟨rfl, rfl, rfl, rfl⟩

theorem State.SelectorFrame.trans {r s t : State} (a : r.SelectorFrame s) (b : s.SelectorFrame t) : r.SelectorFrame t :=
  ⟨b.act.trans a.act, b.ports.trans a.ports, b.wv.trans a.wv, b.warp.trans a.warp⟩

theorem State.SelectorFrame.ite {r a b : State} {c : Prop} [Decidable c] (ha : r.SelectorFrame a) (hb : r.SelectorFrame b) :
    r.SelectorFrame (if c then a else b) := by
  split <;> assumption

/-! The operations that these blocks share with others. -/

theorem State.count_selectorFrame (s : State) (off : Nat) : s.SelectorFrame (s.count off) := ⟨rfl, rfl, rfl, rfl⟩

theorem State.cause_selectorFrame (s : State) (b : Nat) : s.SelectorFrame (s.cause b) := ⟨by simp, by simp, by simp, by simp⟩

theorem State.setRef_selectorFrame (s : State) (i : Nat) (f : RefSt → RefSt) : s.SelectorFrame (s.setRef i f) := ⟨rfl, rfl, rfl, rfl⟩

/-! The step unit and Weft's holdover. -/

theorem State.stepStat_selectorFrame (s : State) (r : StepRec) (st code : Nat) : s.SelectorFrame (s.stepStat r st code) := by
  unfold State.stepStat
  extract_lets done rej _ s1
  have hs1 : s.SelectorFrame s1 := ⟨rfl, rfl, rfl, rfl⟩
  exact .ite (.refl s) (.ite (hs1.trans (s1.cause_selectorFrame 3)) hs1)

theorem State.cancelSlew_selectorFrame (s : State) : s.SelectorFrame s.cancelSlew := by
  unfold State.cancelSlew State.bodkinStep State.stepIssue
  exact .ite ((s.stepStat_selectorFrame _ 1 0).trans ⟨rfl, rfl, rfl, rfl⟩) (.refl s)

theorem State.freezeWeft_selectorFrame (s : State) (e0 : Rat) : s.SelectorFrame (s.freezeWeft e0) := by
  unfold State.freezeWeft
  exact .ite ⟨rfl, rfl, rfl, rfl⟩ (.refl s)

theorem State.thawWeft_selectorFrame (s : State) : s.SelectorFrame s.thawWeft := by
  unfold State.thawWeft
  split
  · exact .refl s
  · exact ⟨rfl, rfl, rfl, rfl⟩

/-! The servo. -/

theorem State.beginHold_selectorFrame (s : State) (y0 : Rat) : s.SelectorFrame (s.beginHold y0) := by
  unfold State.beginHold State.newHold
  refine .ite (s.freezeWeft_selectorFrame _) (.trans ?_ (State.freezeWeft_selectorFrame _ _))
  exact ⟨rfl, rfl, rfl, rfl⟩

theorem State.beginSplice_selectorFrame (s : State) (new : Option Nat) (elig : List Nat) (oldPasses again : Bool) :
    s.SelectorFrame (s.beginSplice new elig oldPasses again) := by
  unfold State.beginSplice
  extract_lets b s1 temp _ v _ s2
  have hbridge : s.SelectorFrame s1 :=
    .ite (.refl s) (s.cancelSlew_selectorFrame.trans ⟨rfl, rfl, rfl, rfl⟩)
  have hs2 : s.SelectorFrame s2 := hbridge.trans ⟨rfl, rfl, rfl, rfl⟩
  split
  · refine .trans (hs2.trans ?_) (State.thawWeft_selectorFrame _)
    exact ⟨rfl, rfl, rfl, rfl⟩
  · refine .trans (hs2.trans ?_) (State.beginHold_selectorFrame _ _)
    exact ⟨rfl, rfl, rfl, rfl⟩

/-! The selector. -/

theorem State.toDisq_selectorFrame (s : State) (i : Nat) (mark : RefSt → RefSt) : s.SelectorFrame (s.toDisq i mark) := by
  have hleaves : s.SelectorFrame (s.leaves i) := by
    unfold State.leaves
    exact .ite ⟨rfl, rfl, rfl, rfl⟩ (.refl s)
  unfold State.toDisq State.refreshSel
  refine .ite (s.setRef_selectorFrame i _) ((hleaves.trans (State.setRef_selectorFrame _ i _)).trans (.ite (.refl _) ?_))
  exact ⟨rfl, rfl, rfl, rfl⟩

theorem State.markSel_selectorFrame (s : State) (new : Option Nat) (reason : Nat) : s.SelectorFrame (s.markSel new reason) := by
  unfold State.markSel
  extract_lets old s1 s2 _ sel _ md _ s3
  clear_value old
  have hold : s.SelectorFrame s1 := by
    unfold s1
    split
    · exact .ite (s.setRef_selectorFrame _ _) (.refl s)
    · exact .refl s
  have hnew : s1.SelectorFrame s2 := by
    unfold s2
    split
    · exact s1.setRef_selectorFrame _ _
    · exact .refl s1
  have hs3 : s.SelectorFrame s3 := (hold.trans hnew).trans ⟨rfl, rfl, rfl, rfl⟩
  exact .ite hs3 (hs3.trans ((State.count_selectorFrame _ _).trans (State.cause_selectorFrame _ _)))

theorem State.switchTo_selectorFrame (s : State) (new : Option Nat) (reason : Nat) (again : Bool) :
    s.SelectorFrame (s.switchTo new reason again) :=
  (s.markSel_selectorFrame new reason).trans (State.beginSplice_selectorFrame _ _ _ _ _)

theorem State.dropInMaintain_selectorFrame (s : State) (why : Nat) : s.SelectorFrame (s.dropInMaintain why) := by
  unfold State.dropInMaintain
  split
  · exact .refl s
  · refine .ite (.refl s) (.trans ?_ (State.cause_selectorFrame _ _))
    exact ⟨rfl, rfl, rfl, rfl⟩

theorem State.offer_selectorFrame (s : State) (w : Window) (want : Option Nat) (why : Nat) : s.SelectorFrame (s.offer w want why) := by
  unfold State.offer
  refine .ite (.refl s) (.ite ⟨rfl, rfl, rfl, rfl⟩ (.trans ?_ (State.switchTo_selectorFrame _ _ _ _)))
  exact ⟨rfl, rfl, rfl, rfl⟩

theorem State.choose_selectorFrame (s : State) (why : Nat) : s.SelectorFrame (s.choose why) := by
  unfold State.choose
  refine .ite (s.dropInMaintain_selectorFrame why) (.ite (.refl s) ?_)
  split
  · exact s.offer_selectorFrame _ _ _
  · exact .ite (.refl s) (s.switchTo_selectorFrame _ _ _)

theorem State.monitorFails_selectorFrame (s : State) (i : Nat) (mark : RefSt → RefSt) : s.SelectorFrame (s.monitorFails i mark) := by
  have hdisq := s.toDisq_selectorFrame i mark
  unfold State.monitorFails
  exact .ite (.refl s) (.ite (hdisq.trans (State.choose_selectorFrame _ 3)) hdisq)

end Sys2Proof.Machine
end

section
/-! SUPPORT. A port read after a change of it or of another, and how a link comes up and goes down. -/

namespace Sys2Proof.Machine

open Sys2Proof

/-! Ports. -/

/-- A port of which anything reads otherwise than after reset is one that the part has. -/
theorem State.port_lt {α : Type} {s : State} {n : Nat} (f : PortSt → α) (h : f (s.port n) ≠ f PortSt.reset) : n < s.ports.length := by
  by_contra hn
  exact h (congrArg f (List.getD_eq_default _ _ (Nat.le_of_not_lt hn)))

theorem State.port_setPort_self {s : State} {n : Nat} (f : PortSt → PortSt) (h : n < s.ports.length) :
    (s.setPort n f).port n = f (s.port n) := by
  unfold State.port
  rw [State.setPort_ports, updAt, List.getD_eq_getElem _ _ (by simpa using h), List.getElem_modify_eq, List.getD_eq_getElem _ _ h]

theorem State.port_setPort_ne {s : State} {n m : Nat} (f : PortSt → PortSt) (h : m ≠ n) : (s.setPort n f).port m = s.port m := by
  unfold State.port
  rw [State.setPort_ports, updAt, List.getD_eq_getElem?_getD, List.getElem?_modify_ne f _ h.symm, List.getD_eq_getElem?_getD]

/-- Only what a change makes of the port itself counts. -/
theorem State.setPort_congr {s : State} {n : Nat} {f g : PortSt → PortSt} (h : f (s.port n) = g (s.port n)) : s.setPort n f = s.setPort n g := by
  by_cases hn : n < s.ports.length
  · have hget : s.port n = s.ports.get ⟨n, hn⟩ := List.getD_eq_getElem _ _ hn
    unfold State.setPort updAt
    rw [List.modify_eq_set_get _ hn, List.modify_eq_set_get _ hn, ← hget, h]
  · unfold State.setPort updAt
    rw [List.modify_eq_self (Nat.le_of_not_lt hn), List.modify_eq_self (Nat.le_of_not_lt hn)]

theorem State.cause_eq (s : State) (b : Nat) : s.cause b = { s with hif := (s.cause b).hif } := by
  unfold State.cause
  split <;> rfl

theorem bitAt_eq_getLsbD (w : W32) (i : Nat) : bitAt w i = w.getLsbD i := by
  rw [bitAt, BitVec.getLsbD, Nat.testBit_eq_decide_div_mod_eq]
  rfl

/-- A cause raised shows in HIF_CAUSE. -/
theorem State.bitAt_cause (s : State) {b : Nat} (h : b < 32) : bitAt (s.cause b).hif.cause b = true := by
  rw [State.cause_cause, bitAt_eq_getLsbD, BitVec.getLsbD_or, BitVec.getLsbD_ofNat, Nat.testBit_two_pow_self]
  simp [h]

/-! A link lost. -/

theorem State.hostStatuses_eq (s : State) (es : List EgFrame) (st : Nat) : s.hostStatuses es st = { s with hif := (s.hostStatuses es st).hif } := by
  unfold State.hostStatuses
  induction es generalizing s with
  | nil => rfl
  | cons e es ih =>
    rw [List.foldl_cons, ih]
    split <;> rfl

/-- The contexts of a port lost with what waited on them. -/
def State.portCtxsGone (s : State) (n : Nat) : State := (s.bwAccrue n).discardCtxs fun c => c.port == n

/-- Of every port the frames that answer a context lost go, and nothing else. -/
theorem State.portCtxsGone_port (s : State) (n m : Nat) : ∃ eg, (s.portCtxsGone n).port m = { s.port m with eg := eg } :=
  ⟨_, List.getD_map s.ports PortSt.reset _⟩

theorem State.portCtxsGone_ports_length (s : State) (n : Nat) : (s.portCtxsGone n).ports.length = s.ports.length := List.length_map _

theorem State.portCtxsGone_ctxs {s : State} {n : Nat} {c : Ctx} (hc : c ∈ (s.portCtxsGone n).wv.ctxs) (hport : c.port = n) :
    c.st = .committed := by
  have hkept : c.st == .committed || !(c.port == n) := (List.mem_filter.1 hc).2
  simpa [hport] using hkept

/-- A port without its committed frames. -/
def PortSt.uncommitted (p : PortSt) : PortSt := { p with committed := [] }

/-- A port without its link. -/
def PortSt.unlinked (p : PortSt) : PortSt :=
  { p with link := false, speed := 3, fec := false, pre := 0, eg := [], lineFree := 0, expFree := 0, rxWait := [] }

/-- The frames that a port has committed go with their contexts, and their host frames have a status. -/
theorem State.dropCommitted_eq (s : State) (n st : Nat) : ∃ kept hif, s.dropCommitted n st =
    { s.setPort n PortSt.uncommitted with wv := { s.wv with ctxs := s.wv.ctxs.filter kept }, hif := hif } := by
  unfold State.dropCommitted
  extract_lets cs _ s1
  have hhost := s1.hostStatuses_eq (s.port n).committed st
  exact ⟨fun c => !cs.contains c.id, (s1.hostStatuses (s.port n).committed st).hif, by rw [hhost]; rfl⟩

/-- A link that is up goes down: the port's frames, its contexts with those of the frames it had committed, the counters and the host's
statuses, and nothing else. -/
theorem State.linkDrop_up {s : State} {n : Nat} (h : (s.port n).link = true) : ∃ kept ctr hif, s.linkDrop n =
    { ((s.portCtxsGone n).setPort n PortSt.uncommitted).setPort n PortSt.unlinked with
      wv := { (s.portCtxsGone n).wv with ctxs := (s.portCtxsGone n).wv.ctxs.filter kept }, ctr := ctr, hif := hif } := by
  unfold State.linkDrop
  extract_lets s1 s2 s3 s4
  obtain ⟨kept, hif, hdrop⟩ := s2.dropCommitted_eq n 0x20
  have hhost : s3 = { s2.dropCommitted n 0x20 with hif := s3.hif } := State.hostStatuses_eq _ _ _
  have hs4 : s4 = { ((s.portCtxsGone n).setPort n PortSt.uncommitted).setPort n PortSt.unlinked with
      wv := { (s.portCtxsGone n).wv with ctxs := (s.portCtxsGone n).wv.ctxs.filter kept }, ctr := s2.ctr, hif := s3.hif } := by
    rw [hdrop] at hhost
    clear_value s3
    unfold s4
    rw [hhost]
    rfl
  clear_value s4
  refine ⟨kept, (s4.count (macCtr n 22)).ctr, ((s4.count (macCtr n 22)).cause 7).hif, ?_⟩
  rw [if_neg (by simp [h]), State.cause_eq, hs4]
  rfl

/-- A port whose tracker starts anew. -/
def PortSt.untracked (p : PortSt) : PortSt := { p with linkWait := false, stk := { p.stk with convs := [], bad := 0, drop := none, prev := [] } }

theorem exec_linkDown (s : State) (n : Nat) : exec (.linkDown n) s = .next (s.linkLost n) := rfl

/-- After the link and its tracker only the reference that the port gave is looked at. -/
theorem State.linkLost_selectorFrame (s : State) (n : Nat) : ((s.linkDrop n).setPort n PortSt.untracked).SelectorFrame (s.linkLost n) := by
  unfold State.linkLost
  exact .ite (State.monitorFails_selectorFrame _ _ _) (.refl _)

/-- The port of a link lost, every other port, the contexts, the registers in force and Warp. -/
theorem State.linkLost_up {s : State} {n : Nat} (h : (s.port n).link = true) :
    (s.linkLost n).port n = ((s.portCtxsGone n).port n).uncommitted.unlinked.untracked ∧
    (∀ m, m ≠ n → (s.linkLost n).port m = (s.portCtxsGone n).port m) ∧
    (∀ c ∈ (s.linkLost n).wv.ctxs, c ∈ (s.portCtxsGone n).wv.ctxs) ∧
    (s.linkLost n).act = s.act ∧ (s.linkLost n).tb.warp = s.tb.warp := by
  have hframe := s.linkLost_selectorFrame n
  obtain ⟨kept, ctr, hif, hdrop⟩ := State.linkDrop_up h
  have hports : (s.linkLost n).ports =
      ((((s.portCtxsGone n).setPort n PortSt.uncommitted).setPort n PortSt.unlinked).setPort n PortSt.untracked).ports := by
    rw [hframe.ports, hdrop]
    rfl
  have hport : ∀ m, (s.linkLost n).port m =
      ((((s.portCtxsGone n).setPort n PortSt.uncommitted).setPort n PortSt.unlinked).setPort n PortSt.untracked).port m :=
    fun m => congrArg (·.getD m PortSt.reset) hports
  have hn : n < (s.portCtxsGone n).ports.length := by
    rw [State.portCtxsGone_ports_length]
    exact State.port_lt (·.link) (by simp [h, PortSt.reset])
  refine ⟨?self, fun m hm => ?other, fun c hc => ?ctx, ?act, ?warp⟩
  case self =>
    rw [hport, State.port_setPort_self _ (by simpa using hn), State.port_setPort_self _ (by simpa using hn), State.port_setPort_self _ hn]
  case other => rw [hport, State.port_setPort_ne _ hm, State.port_setPort_ne _ hm, State.port_setPort_ne _ hm]
  case ctx =>
    rw [hframe.wv, hdrop] at hc
    exact List.mem_of_mem_filter hc
  case act => rw [hframe.act, hdrop]; rfl
  case warp => rw [hframe.warp, hdrop]; rfl

/-! A link that comes up. -/

theorem exec_linkUp (s : State) (n speed : Nat) (fec : Bool) : exec (.linkUp n speed fec) s = .next (s.linkUp n speed fec) := rfl

section
variable {s : State} {n speed : Nat} {fec : Bool}

/-- NP0 to NP3 wait for their trackers. -/
theorem State.linkUp_waits (hheld : (s.port n).held = false) (hdown : (s.port n).link = false) (hn : n < 4)
    (hspeed : speed = if (s.port n).stepped then 1 else s.cfgSpeed n) :
    s.linkUp n speed fec = s.setPort n fun p =>
      { p with linkWait := true, speed := speed, fec := s.fecUse n speed fec, stk := p.stk.atSpeed (speed != s.cfgSpeed n) } := by
  unfold State.linkUp
  extract_lets p want
  rw [if_neg (by simp [p, hheld, hdown]), if_neg (by omega), if_neg (not_not_intro hspeed)]

theorem State.linkUp_mgt_slow (hcfg : s.cfgSpeed 4 = 3) (hspeed : speed ≠ 0) : s.linkUp 4 speed fec = s := by
  unfold State.linkUp
  simp [hcfg, hspeed]

/-- The state in which the link of MGT has come up and reported. -/
def State.mgtUp (s : State) : State := ((s.bwAccrue 4).setPort 4 fun p => { p with link := true, speed := 0 }).cause 7

/-- MGT has no tracker to wait for. -/
theorem State.linkUp_mgt (hheld : (s.port 4).held = false) (hdown : (s.port 4).link = false) (hspeed : s.cfgSpeed 4 ≠ 3 ∨ speed = 0) :
    s.linkUp 4 speed fec = s.mgtUp := by
  unfold State.linkUp
  extract_lets p
  rw [if_neg (by simp [p, hheld, hdown]), if_pos rfl, if_neg fun h => hspeed.elim (absurd h.1) fun h0 => h.2 h0]
  rfl

theorem State.mgtUp_port (h : s.ports.length = 5) : s.mgtUp.port 4 = { s.port 4 with link := true, speed := 0 } := by
  unfold State.mgtUp
  rw [State.cause_eq]
  exact State.port_setPort_self (s := s.bwAccrue 4) _ (by show 4 < s.ports.length; omega)

theorem State.mgtUp_eq (s : State) : s.mgtUp = { s with ports := s.mgtUp.ports, hif := s.mgtUp.hif, pmc := s.mgtUp.pmc } := by
  unfold State.mgtUp
  rw [State.cause_eq]
  rfl

end

end Sys2Proof.Machine
end

section
/-! SUPPORT. What a conversion of a Stake's TAC does by its kind, and how the recovered clock's phase and the replica's delay are taken. -/

namespace Sys2Proof.Machine

open Sys2Proof

theorem exec_trackerConversion (s : State) (n kind word code : Nat) :
    exec (.trackerConversion n kind word code) s = .next (s.trackerConv n kind word code) := rfl

theorem exec_syncePhaseDeliver (s : State) (n : Nat) : exec (.syncePhaseDeliver n) s = .next (s.syncePhase n) := rfl

theorem exec_replicaUpdate (s : State) (n : Nat) : exec (.replicaUpdate n) s = .next (s.replicaUpdate n) := rfl

section
variable {s : State} {n kind word code : Nat}

/-! The cycle of 16 conversions. -/

/-- The state in which the Stake's TAC has converted and its cycle goes on. -/
def State.stakeBusy (s : State) (n : Nat) : State :=
  (s.tacBusy (24 + n)).setPort n fun p => { p with stk := { p.stk with cyc := (p.stk.cyc + 1) % 16 } }

theorem State.trackerConv_undue (hkind : kind ≠ (s.port n).stk.due) : s.trackerConv n kind word code = s := by
  unfold State.trackerConv
  exact if_pos (by simp [hkind])

theorem State.trackerConv_missed (hn : n < 4) (hrun : s.tb.running = true) (hkind : kind = (s.port n).stk.due)
    (hbusy : s.tacReady (24 + n) = false) : s.trackerConv n kind word code = s.tacMiss (24 + n) := by
  unfold State.trackerConv
  rw [if_neg (by simp [hn, hrun, hkind]), if_pos (by simp [hbusy])]

theorem State.trackerConv_receive (hn : n < 4) (hrun : s.tb.running = true) (hdue : (s.port n).stk.due = 0)
    (hready : s.tacReady (24 + n) = true) : s.trackerConv n 0 word code =
      if (s.port n).link || (s.port n).linkWait then (s.stakeBusy n).trackEdge n word (s.captureAt (24 + n) code 0) else s.stakeBusy n := by
  unfold State.trackerConv
  rw [if_neg (by simp [hn, hrun, hdue]), if_neg (by simp [hready])]
  rfl

theorem State.trackerConv_transmit (hn : n < 4) (hrun : s.tb.running = true) (hdue : (s.port n).stk.due = 1)
    (hready : s.tacReady (24 + n) = true) : s.trackerConv n 1 word code =
      (s.stakeBusy n).txConv n (s.captureAt (24 + n) code 0 - (s.stakeBusy n).txEdge n word) := by
  unfold State.trackerConv
  rw [if_neg (by simp [hn, hrun, hdue]), if_neg (by simp [hready])]
  rfl

theorem State.trackerConv_replica (hn : n < 4) (hrun : s.tb.running = true) (hdue : (s.port n).stk.due = 2)
    (hready : s.tacReady (24 + n) = true) : s.trackerConv n 2 word code =
      (s.stakeBusy n).setPort n fun p =>
        { p with stk := { p.stk with rep := (p.stk.rep.1 + (s.captureAt (24 + n) code 0 - (s.stakeBusy n).txEdge n word), p.stk.rep.2 + 1) } } := by
  unfold State.trackerConv
  rw [if_neg (by simp [hn, hrun, hdue]), if_neg (by simp [hready])]
  rfl

/-- A conversion moves the place in the cycle and nothing else of the port. -/
theorem State.stakeBusy_port (s : State) (n : Nat) :
    ∃ cyc, (s.stakeBusy n).port n = { s.port n with stk := { (s.port n).stk with cyc := cyc } } := by
  by_cases hn : n < s.ports.length
  · exact ⟨_, State.port_setPort_self (s := s.tacBusy (24 + n)) _ hn⟩
  · have hreset : s.port n = PortSt.reset := List.getD_eq_default _ _ (Nat.le_of_not_lt hn)
    have hbusy : (s.stakeBusy n).port n = PortSt.reset :=
      List.getD_eq_default _ _ (by unfold State.stakeBusy; simpa [State.tacBusy] using hn)
    exact ⟨PortSt.reset.stk.cyc, by rw [hbusy, hreset]⟩

/-- The transmit word clock's edges stand where they stood. -/
theorem State.txEdge_stakeBusy (s : State) (n word : Nat) : (s.stakeBusy n).txEdge n word = s.txEdge n word := by
  obtain ⟨cyc, hport⟩ := s.stakeBusy_port n
  unfold State.txEdge State.lineSpeed
  rw [hport]
  rfl

/-! The receive tracker. -/

variable {t : Int}

/-- A tracker with an edge more in its fit. -/
def PortSt.tracked (word : Nat) (t : Int) (drop : Option (Nat × Option Nat)) (p : PortSt) : PortSt :=
  { p with stk := { p.stk with convs := p.stk.convs ++ [(word, t)], bad := 0, drop := drop } }

/-- Before the fit has sixteen edges none is judged: each joins it, the sixteenth of a waiting port reports the link, and the words for which
the tracker gave no time end with it. -/
theorem State.trackEdge_unlocked (hlock : (s.port n).stk.locked = false) : ∃ drop,
    (s.trackEdge n word t = if (s.port n).linkWait && decide (16 ≤ (s.port n).stk.convs.length + 1) then
        (s.setPort n (PortSt.tracked word t drop)).linkReport n else s.setPort n (PortSt.tracked word t drop)) ∧
    ((s.port n).stk.convs.length < 15 → drop = (s.port n).stk.drop) := by
  have hlen : (s.port n).stk.convs.length < 16 := by simpa [StkSt.locked] using hlock
  unfold State.trackEdge
  extract_lets p k off bad last c1 c drop s1
  have hbad : bad = 0 := by simp [bad, off, k, p, hlock]
  have hc : c = k.convs ++ [(word, t)] := by
    have h1 : c1.length ≤ 64 := by simp only [c1, List.length_append, List.length_singleton, k, p]; omega
    show c1.drop (c1.length - 64) = c1
    rw [Nat.sub_eq_zero_of_le h1, List.drop_zero]
  have hs1 : s1 = s.setPort n (PortSt.tracked word t drop) := State.setPort_congr (by rw [hc, hbad]; rfl)
  refine ⟨drop, ?_, fun hfew => ?_⟩
  · rw [if_neg (by omega), hs1, hc, List.length_append, List.length_singleton]
  · have hshort : c.length ≠ 16 := by rw [hc, List.length_append, List.length_singleton]; show (s.port n).stk.convs.length + 1 ≠ 16; omega
    unfold drop
    split
    · rw [if_neg hshort]
    · rfl

/-- The third edge in a row beyond the limit empties the fit. -/
theorem State.trackEdge_resets (hlock : (s.port n).stk.locked = true) (hbad : (s.port n).stk.bad = 2)
    (hoff : trkLimit (s.port n).speed < |(s.port n).stk.edgeAt word - t|) : ∃ drop prev, s.trackEdge n word t =
      (s.setPort n fun p => { p with stk := { p.stk with convs := [], bad := 0, drop := drop, prev := prev } }).count (stkCtr n 2) := by
  unfold State.trackEdge
  extract_lets p k off bad last c1 c drop s1
  have hthird : bad = 3 := by simp [bad, off, k, p, hlock, hbad, hoff]
  rw [if_pos (by omega)]
  exact ⟨_, _, rfl⟩

/-- A port whose link has come up and reported. -/
theorem State.linkReport_port (hn : n < s.ports.length) : ∃ pre, (s.linkReport n).port n =
    { s.port n with link := true, linkWait := false, pre := pre, verifyTries := 0, stepping := none, lowSince := some s.now } := by
  unfold State.linkReport
  rw [State.cause_eq]
  exact ⟨_, State.port_setPort_self (s := s.bwAccrue n) _ hn⟩

theorem State.linkReport_eq (s : State) (n : Nat) :
    s.linkReport n = { s with ports := (s.linkReport n).ports, hif := (s.linkReport n).hif, pmc := (s.linkReport n).pmc } := by
  unfold State.linkReport
  extract_lets cfg pre
  rw [State.cause_eq]
  rfl

theorem State.linkReport_cause (s : State) (n : Nat) : bitAt (s.linkReport n).hif.cause 7 = true := State.bitAt_cause _ (by decide)

/-- Short of the sixty-fourth a transmit conversion joins its mean. -/
theorem State.txConv_joins {x : Int} (hfew : (s.port n).stk.txOff.2 < 63) : s.txConv n x =
    s.setPort n fun p => { p with stk := { p.stk with txOff := (p.stk.txOff.1 + x, p.stk.txOff.2 + 1) } } := by
  unfold State.txConv
  extract_lets a sum
  rw [if_pos (by show (s.port n).stk.txOff.2 + 1 < 64; omega)]
  exact State.setPort_congr rfl

/-! SyncE and the replica path. -/

/-- The recovered clock's phase, counted in nominal periods of the word clock from the first edge fitted (R407). -/
def State.syncePhaseOf (s : State) (n : Nat) (word : Nat) : Int :=
  Config.round (((word : Rat) * (uiSns (s.port n).speed * (if (s.port n).speed = 0 then 10 else 64)) - s.warpSns) -
    ((s.port n).stk.edgeAt word - s.warpSns))

theorem State.syncePhase_offered {c : Nat × Int} (hup : (s.port n).link = true) (hlock : (s.port n).stk.locked = true)
    (hon : s.bit (mBase n + 0x20) 31 = true) (hmode : s.bit (mBase n + 4) 30 = false) (hlast : (s.port n).stk.convs.getLast? = some c) :
    s.syncePhase n = s.refMeasure (13 + n) (.phase (s.syncePhaseOf n c.1)) := by
  unfold State.syncePhase
  extract_lets p period
  rw [if_neg (by simp [p, hup, hlock, hon, hmode])]
  simp only [p, hlast]
  rfl

/-- A delay moved toward a goal by at most 64 sns (R416). -/
def delayToward (x : Nat) (goal : Int) : Nat := ((x : Int) + max (-64) (min 64 (goal - x))).toNat

theorem delayToward_near (x : Nat) (goal : Int) : |(delayToward x goal : Int) - x| ≤ 64 := by
  unfold delayToward
  rw [abs_le]
  omega

/-- Delta: the mean of a second's replica conversions less the value at CALIBRATE of the speed in force (R416). -/
def StkSt.delayChange (k : StkSt) : Int :=
  Config.round ((k.rep.1 : Rat) / k.rep.2) - (if k.altNow then k.replicaAlt else k.replica : Nat)

/-- A port whose Stake has taken a delay change within its bounds, its latencies moved toward two goals. -/
def PortSt.redelayed (d rx tx : Int) (p : PortSt) : PortSt :=
  { p with stk := { p.stk with delta := d, rep := (0, 0), rxDly := delayToward p.stk.rxDly rx, txDly := delayToward p.stk.txDly tx } }

theorem State.replicaUpdate_bounded (hserve : s.md.mode.serving = true) (hsec : s.nsNow = 0) (hrep : (s.port n).stk.rep.2 ≠ 0)
    (hbound : |(s.port n).stk.delayChange| ≤ 16384) :
    ∃ rx tx, s.replicaUpdate n = s.setPort n (PortSt.redelayed (s.port n).stk.delayChange rx tx) := by
  unfold State.replicaUpdate
  extract_lets p k alt d rx tx toward bad s1
  have hbad : bad = false := decide_eq_false (not_lt.2 hbound)
  rw [if_neg (by simp [k, p, hserve, hsec, hrep]), if_neg (by simp [hbad])]
  exact ⟨rx, tx, State.setPort_congr (by rw [hbad, Bool.or_false]; rfl)⟩

end

end Sys2Proof.Machine
end

section
/-! SUPPORT. The links, their trackers and their latencies, put together. -/

namespace Sys2Proof.Machine

open Sys2Proof

section
variable {s : State} {n word code : Nat}

/-! A receive edge of a port whose link is up or waits. -/

theorem State.trackerConv_edge (hn : n < 4) (hrun : s.tb.running = true) (hdue : (s.port n).stk.due = 0) (hready : s.tacReady (24 + n) = true)
    (hup : (s.port n).link = true ∨ (s.port n).linkWait = true) :
    s.trackerConv n 0 word code = (s.stakeBusy n).trackEdge n word (s.captureAt (24 + n) code 0) := by
  rw [State.trackerConv_receive hn hrun hdue hready, if_pos (by simpa using hup)]

theorem State.trackerConv_unheard (hn : n < 4) (hrun : s.tb.running = true) (hdue : (s.port n).stk.due = 0)
    (hready : s.tacReady (24 + n) = true) (hdown : ¬((s.port n).link = true ∨ (s.port n).linkWait = true)) :
    s.trackerConv n 0 word code = s.stakeBusy n := by
  rw [State.trackerConv_receive hn hrun hdue hready, if_neg (by simpa using hdown)]

theorem State.stakeBusy_ports_length (s : State) (n : Nat) : (s.stakeBusy n).ports.length = s.ports.length := updAt_length _ _ _

variable {t : Int}

/-- Below fifteen edges the conversion joins the fit and no more. -/
theorem State.trackEdge_few (hlock : (s.port n).stk.locked = false) (hfew : (s.port n).stk.convs.length < 15) :
    (s.stakeBusy n).trackEdge n word t = (s.stakeBusy n).setPort n fun p =>
      { p with stk := { p.stk with convs := p.stk.convs ++ [(word, t)], bad := 0 } } := by
  obtain ⟨cyc, hport⟩ := s.stakeBusy_port n
  obtain ⟨drop, hedge, hdrop⟩ := State.trackEdge_unlocked (s := s.stakeBusy n) (n := n) (word := word) (t := t) (by rw [hport]; exact hlock)
  rw [hport] at hedge hdrop
  rw [hedge, if_neg (by simp; omega), hdrop hfew]
  refine State.setPort_congr ?_
  rw [hport]
  rfl

/-- The sixteenth edge of a waiting port reports its link. -/
theorem State.trackEdge_sixteenth (hwait : (s.port n).linkWait = true) (hlast : (s.port n).stk.convs.length = 15) :
    ∃ drop, (s.stakeBusy n).trackEdge n word t = ((s.stakeBusy n).setPort n (PortSt.tracked word t drop)).linkReport n := by
  obtain ⟨cyc, hport⟩ := s.stakeBusy_port n
  obtain ⟨drop, hedge, -⟩ := State.trackEdge_unlocked (s := s.stakeBusy n) (n := n) (word := word) (t := t)
    (by rw [hport]; simp [StkSt.locked, hlast])
  rw [hport] at hedge
  exact ⟨drop, by rw [hedge, if_pos (by simp [hwait, hlast])]⟩

/-- What that report shows: the link, its tracker locked, and the cause. -/
theorem State.sixteenth_reported (drop : Option (Nat × Option Nat)) (hn : n < s.ports.length) (hlast : (s.port n).stk.convs.length = 15) :
    let r := ((s.stakeBusy n).setPort n (PortSt.tracked word t drop)).linkReport n
    (r.port n).link = true ∧ (r.port n).linkWait = false ∧ (r.port n).stk.locked = true ∧ bitAt r.hif.cause 7 = true ∧
      r = { s.stakeBusy n with ports := r.ports, hif := r.hif, pmc := r.pmc } := by
  intro r
  have hbusy : n < (s.stakeBusy n).ports.length := by rw [State.stakeBusy_ports_length]; exact hn
  obtain ⟨cyc, hport⟩ := s.stakeBusy_port n
  obtain ⟨pre, hr⟩ := State.linkReport_port (s := (s.stakeBusy n).setPort n (PortSt.tracked word t drop)) (n := n) (by simpa using hbusy)
  have hstk : (r.port n).stk.convs.length = 16 := by
    rw [hr, State.port_setPort_self _ hbusy, hport]
    simp [PortSt.tracked, hlast]
  refine ⟨by rw [hr], by rw [hr], by simp [StkSt.locked, hstk], State.linkReport_cause _ n, State.linkReport_eq _ n⟩

/-- The third edge in a row beyond the limit empties a locked tracker, and is counted. -/
theorem State.trackEdge_third (hn : n < s.ports.length) (hlock : (s.port n).stk.locked = true) (hbad : (s.port n).stk.bad = 2)
    (hoff : trkLimit (s.port n).speed < |(s.port n).stk.edgeAt word - t|) :
    let r := (s.stakeBusy n).trackEdge n word t
    (r.port n).stk.convs = [] ∧ (r.port n).stk.bad = 0 ∧ r = { s.stakeBusy n with ports := r.ports, ctr := r.ctr } := by
  intro r
  obtain ⟨cyc, hport⟩ := s.stakeBusy_port n
  have hbusy : n < (s.stakeBusy n).ports.length := by rw [State.stakeBusy_ports_length]; exact hn
  obtain ⟨drop, prev, hr⟩ : ∃ drop prev, r = _ :=
    State.trackEdge_resets (by rw [hport]; exact hlock) (by rw [hport]; exact hbad) (by rw [hport]; exact hoff)
  have hself : r.port n = _ := (congrArg (State.port · n) hr).trans (State.port_setPort_self (s := s.stakeBusy n) _ hbusy)
  exact ⟨by rw [hself], by rw [hself], by rw [hr]; rfl⟩

/-- The latencies after a delay change within its bounds. -/
theorem State.redelayed_port (hn : n < s.ports.length) (d rx tx : Int) :
    let r := s.setPort n (PortSt.redelayed d rx tx)
    r = { s with ports := r.ports } ∧ (r.port n).stk.delta = d ∧ (r.port n).stk.rep = (0, 0) ∧
      |((r.port n).stk.rxDly : Int) - (s.port n).stk.rxDly| ≤ 64 ∧ |((r.port n).stk.txDly : Int) - (s.port n).stk.txDly| ≤ 64 ∧
      (r.port n).stk.txphErr = (s.port n).stk.txphErr ∧ (r.port n).stk.convs = (s.port n).stk.convs := by
  intro r
  have hself : r.port n = PortSt.redelayed d rx tx (s.port n) := State.port_setPort_self _ hn
  rw [hself]
  exact ⟨rfl, rfl, rfl, delayToward_near _ rx, delayToward_near _ tx, rfl, rfl⟩

end

/-- Settles O39: the links by what their ports wait for, the conversions by their kind, and the latencies by the bound of their change. -/
theorem linksComeUpByTheirTrackersAndGoDownWhole : Obligations.LinksComeUpByTheirTrackersAndGoDownWhole := by
  intro s n
  refine ⟨fun speed fec hheld hdown => ⟨fun hn hspeed => ?waits, fun hn hcfg hspeed => ?slow, fun hn hports hspeed => ?mgt⟩,
    fun hup => ?down, fun kind word code _ hkind => ?undue,
    fun kind word code hn hrun hdue => ⟨fun hbusy => ?missed, fun hready => ⟨fun hkind hdown => ?unheard,
      fun hkind hup hlock => ⟨fun hfew => ?few, fun hwait hlast => ?sixteenth⟩, fun hkind hup hlock hbad hoff => ?third,
      fun hkind hfew => ?transmit, fun hkind => ?replica⟩⟩,
    fun c hup hlock hon hmode hlast => ?synce, fun hserve hsec hrep hbound => ?delay⟩
  case waits => rw [exec_linkUp, State.linkUp_waits hheld hdown hn hspeed]
  case slow => subst hn; rw [exec_linkUp, State.linkUp_mgt_slow hcfg hspeed]
  case mgt =>
    subst hn
    exact ⟨s.mgtUp, by rw [exec_linkUp, State.linkUp_mgt hheld hdown hspeed], by rw [State.mgtUp_port hports],
      by rw [State.mgtUp_port hports], s.mgtUp_eq⟩
  case down =>
    obtain ⟨hself, hother, hctx, hact, hwarp⟩ := State.linkLost_up hup
    refine ⟨s.linkLost n, exec_linkDown s n, by rw [hself]; rfl, by rw [hself]; rfl, by rw [hself]; rfl, by rw [hself]; rfl,
      by rw [hself]; rfl, fun c hc hport => State.portCtxsGone_ctxs (hctx c hc) hport, fun m hm => ?_,
      (State.linkLost_keeps (.refl s)).mode, hact, hwarp⟩
    obtain ⟨eg, hgone⟩ := s.portCtxsGone_port n m
    rw [hother m hm, hgone]
    exact ⟨rfl, rfl⟩
  case undue => rw [exec_trackerConversion, State.trackerConv_undue hkind]
  case missed => rw [exec_trackerConversion, State.trackerConv_missed hn hrun hdue hbusy]
  case unheard => subst hkind; rw [exec_trackerConversion, State.trackerConv_unheard hn hrun hdue.symm hready hdown]; rfl
  case few =>
    subst hkind
    rw [exec_trackerConversion, State.trackerConv_edge hn hrun hdue.symm hready hup, State.trackEdge_few hlock hfew]
    rfl
  case sixteenth =>
    subst hkind
    obtain ⟨drop, hedge⟩ := State.trackEdge_sixteenth (word := word) (t := s.captureAt (24 + n) code 0) hwait hlast
    have hport : n < s.ports.length := State.port_lt (·.linkWait) (by simp [hwait, PortSt.reset])
    exact ⟨_, by rw [exec_trackerConversion, State.trackerConv_edge hn hrun hdue.symm hready hup, hedge],
      State.sixteenth_reported drop hport hlast⟩
  case third =>
    subst hkind
    have hport : n < s.ports.length := State.port_lt (·.stk.locked) (by rw [hlock]; decide)
    exact ⟨_, by rw [exec_trackerConversion, State.trackerConv_edge hn hrun hdue.symm hready hup],
      State.trackEdge_third hport hlock hbad hoff⟩
  case transmit =>
    subst hkind
    obtain ⟨cyc, hport⟩ := s.stakeBusy_port n
    rw [exec_trackerConversion, State.trackerConv_transmit hn hrun hdue.symm hready,
      State.txConv_joins (by rw [hport]; exact hfew), State.txEdge_stakeBusy]
    rfl
  case replica =>
    subst hkind
    rw [exec_trackerConversion, State.trackerConv_replica hn hrun hdue.symm hready, State.txEdge_stakeBusy]
    rfl
  case synce => rw [exec_syncePhaseDeliver, State.syncePhase_offered hup hlock hon hmode hlast]; rfl
  case delay =>
    have hport : n < s.ports.length := State.port_lt (·.stk.rep.2) hrep
    obtain ⟨rx, tx, hupd⟩ := State.replicaUpdate_bounded hserve hsec hrep hbound
    exact ⟨_, (exec_replicaUpdate s n).trans (congrArg _ hupd), State.redelayed_port hport _ rx tx⟩

end Sys2Proof.Machine
end

section
/-! SUPPORT. That the gate is closed exactly in SAFE, of every step. -/

namespace Sys2Proof.Machine

open Sys2Proof

/-- Neither the queue nor the clock has a part in the gate and the mode, so what a step leads from is gated with the state itself. -/
theorem Steps.gated {s t : State} (h : Steps s t) (hs : s.gated) : t.gated := by
  obtain ⟨_, _, _, hl⟩ | ⟨_, hl⟩ := h.leads
  · exact hl.gated hs
  · exact hl.gated hs

/-- After reset the part is in BOOT with the gate open, and MAINTAIN has been entered from no mode. -/
theorem State.reset_gated : State.reset.gated := ⟨⟨nofun, nofun⟩, nofun⟩

/-- Settles O59: whatever a step leads to is gated when the state before it is, and the reset state is. -/
theorem theGateIsClosedExactlyInSafe : Obligations.TheGateIsClosedExactlyInSafe :=
  ⟨State.reset_gated, fun _ _ hs hst => hst.gated hs⟩

end Sys2Proof.Machine
end

section
/-! SUPPORT. The reset inputs, the lock of the PLLs and a write of GLB_RESET: each by the condition that its rule names. -/

namespace Sys2Proof.Machine

open Sys2Proof

section
variable {s : State} {v : W32} {rails : List Nat}

theorem exec_powerOnReset (s : State) (rails : List Nat) : exec (.powerOnReset rails) s = .next (s.powerOn rails) := rfl

theorem exec_resetNAssert (s : State) (lowNs : Nat) : exec (.resetNAssert lowNs) s = .next (s.resetAssert lowNs) := rfl

theorem exec_resetNRelease (s : State) (strap : Bool) : exec (.resetNRelease strap) s = .next (s.resetRelease strap) := rfl

theorem exec_pllLock (s : State) : exec .pllLock s = .next s.pllLock := rfl

theorem exec_glbReset (s : State) (p : Path) (v : W32) : exec (.glbReset p v) s = .next (s.glbReset v) := rfl

/-- A rail below 85 % of its nominal holds the part (R654). -/
theorem railLow_iff : ((List.range 5).any fun k => decide (rails.getD k 0 < porLimits.getD k 0)) = true ↔
    ∃ k < 5, rails.getD k 0 < porLimits.getD k 0 := by
  simp only [List.any_eq_true, List.mem_range, decide_eq_true_eq]

/-- The state in which a power-on holds the part, with this reading of VDD_CORE. -/
def State.powerHeld (s : State) (rails : List Nat) : State :=
  let s1 := ({ s with glb := { s.glb with porHeld := true } } : State).bootReset 0
  { s1 with fmu := { s1.fmu with coreMv := rails.getD 0 0, minMv := rails.getD 0 0 } }

theorem State.powerOn_low (h : ∃ k < 5, rails.getD k 0 < porLimits.getD k 0) : s.powerOn rails = s.powerHeld rails :=
  if_pos (railLow_iff.2 h)

theorem State.powerOn_good (h : ∀ k < 5, porLimits.getD k 0 ≤ rails.getD k 0) : s.powerOn rails =
    { s with glb := { s.glb with porHeld := false }, md := { s.md with since := if s.glb.porHeld then s.now else s.md.since },
             fmu := { s.fmu with coreMv := rails.getD 0 0, minMv := if s.glb.porHeld then rails.getD 0 0 else s.fmu.minMv } } :=
  if_neg fun hlow => by
    obtain ⟨k, hk, hrail⟩ := railLow_iff.1 hlow
    exact absurd (h k hk) (by omega)

theorem State.resetAssert_short {lowNs : Nat} (h : lowNs < 100) : s.resetAssert lowNs = s := if_pos h

/-- The state in which RESET_N holds the part. -/
def State.resetPulled (s : State) : State := ({ s with glb := { s.glb with resetLow := true } } : State).bootReset 1

theorem State.resetAssert_long {lowNs : Nat} (h : 100 ≤ lowNs) : s.resetAssert lowNs = s.resetPulled := if_neg (by omega)

theorem State.resetRelease_low {strap : Bool} (h : s.glb.resetLow = true) : s.resetRelease strap =
    { s with glb := { s.glb with resetLow := false, strap := strap }, md := { s.md with since := s.now } } := if_pos h

theorem State.pllLock_locks (hreset : s.inReset = false) (hmode : s.md.mode = .boot) (hlock : s.glb.pllLocked = false) : s.pllLock =
    { s with glb := { s.glb with pllLocked := true }, tb := { s.tb with running := true, warp := 0, frac := 0 },
             gns := { s.gns with clkNext := (s.now : Rat) + clampQ 0 gnssPeriod Config.gnssPhase } } :=
  if_neg (by simp [hreset, hmode, hlock])

theorem State.glbReset_ignored (h : s.glb.resetAt.isSome = true ∨ s.inReset = true) : s.glbReset v = s :=
  if_pos (by simpa [or_comm] using h)

/-- With no reset waiting and no reset input active, a write goes by its KEY and OP. -/
theorem State.glbReset_taken (hreset : s.inReset = false) (hwait : s.glb.resetAt = none) : s.glbReset v =
    if bitsOf v 15 8 ≠ 0xA5 ∨ 2 ≤ bitsOf v 1 0 then { s with glb := { s.glb with errBadReset := true } }
    else if bitsOf v 1 0 = 1 then { s with glb := { s.glb with resetAt := some (s.now + 1000000) } }
    else s := if_neg (by simp [hreset, hwait])

end

/-- Settles O2: each input and each write by the case that its hypotheses name. -/
theorem resetInputsAndRequests : Obligations.ResetInputsAndRequests := by
  intro s p v strap
  refine ⟨fun hlow => ?release, fun hreset hmode hlock => ?lock,
    fun hreset hwait => ⟨fun hbad => ?bad, fun hkey hop => ?scheduled, fun hkey hop => ?nothing⟩,
    fun hbusy => ?ignored, fun rails hgood => ?good, fun lowNs hshort => ?short⟩
  case release => rw [exec_resetNRelease, State.resetRelease_low hlow]
  case lock => rw [exec_pllLock, State.pllLock_locks hreset hmode hlock]
  case bad => rw [exec_glbReset, State.glbReset_taken hreset hwait, if_pos hbad]
  case scheduled => rw [exec_glbReset, State.glbReset_taken hreset hwait, if_neg (by omega), if_pos hop]
  case nothing => rw [exec_glbReset, State.glbReset_taken hreset hwait, if_neg (by omega), if_neg (by omega)]
  case ignored => rw [exec_glbReset, State.glbReset_ignored hbusy]
  case good => rw [exec_powerOnReset, State.powerOn_good hgood]
  case short => rw [exec_resetNAssert, State.resetAssert_short hshort]

end Sys2Proof.Machine
end

section
/-! SUPPORT. The orderly restart's drain, and the bound of the work of MAINTAIN. -/

namespace Sys2Proof.Machine

open Sys2Proof

section
variable {s : State}

theorem exec_orderlyRestartReq (s : State) : exec .orderlyRestartReq s = .next s.orderlyReq := rfl

theorem exec_drainTimeout (s : State) : exec .drainTimeout s = .next s.drainTimeout := rfl

theorem exec_maintainBound (s : State) : exec .maintainBound s = .next s.maintainBound := rfl

/-- The modes in which the part runs are past BOOT and CALIBRATE, so writes are taken there (R79). -/
theorem State.noWrites_of_running (h : s.md.mode.running = true) : s.noWrites = false := by
  unfold State.noWrites
  cases hmode : s.md.mode <;> simp_all [Mode.running]

theorem State.orderlyReq_begins (hrun : s.md.mode.running = true) (hdrain : s.md.drain = false) : s.orderlyReq =
    { s with md := { s.md with drain := true, drainArmed := false, drainUntil := s.now + s.fld 0x78108 29 24 * nsPerSec } } := by
  unfold State.orderlyReq State.beginDrain
  rw [if_neg (by simp [State.noWrites_of_running hrun]), if_pos (by simp [hrun, hdrain])]

theorem State.orderlyReq_refused (hw : s.noWrites = false) (h : s.md.mode.running = false ∨ s.md.drain = true) :
    s.orderlyReq = { s with md := { s.md with reqRefused := true } } := by
  unfold State.orderlyReq State.beginDrain
  rw [if_neg (by simp [hw]), if_neg (by obtain h | h := h <;> simp [h])]
  rfl

theorem State.drainTimeout_arms (hdrain : s.md.drain = true) (hdue : s.md.drainUntil ≤ s.now) :
    s.drainTimeout = ({ s with md := { s.md with drainArmed := true } } : State).applyMute := if_pos (by simp [hdrain, hdue])

theorem State.maintainBound_reached {m : Maint} (hmode : s.md.mode = .maintain) (hm : s.md.maint = some m) (hend : m.ended = false)
    (h : m.began + m.bound ≤ s.now ∨ (m.swap = false ∧ s.holdBudget ≤ s.predicted)) :
    s.maintainBound = { s with md := { s.md with maint := some { m with boundHit := true } } } := by
  unfold State.maintainBound
  rw [hmode, hm]
  exact if_pos (by simpa [hend] using h)

end

/-- Settles O6: the request by whether a drain may begin, then the drain's end and the bound of MAINTAIN's work. -/
theorem orderlyRestartDrains : Obligations.OrderlyRestartDrains := by
  intro s
  refine ⟨fun hrun hdrain => ?begins, fun hw hrefuse => ?refused, fun hdrain hdue => ?ends, fun m hmode hm hend hbound => ?bound⟩
  case begins => rw [exec_orderlyRestartReq, State.orderlyReq_begins hrun hdrain]
  case refused => rw [exec_orderlyRestartReq, State.orderlyReq_refused hw hrefuse]
  case ends => rw [exec_drainTimeout, State.drainTimeout_arms hdrain hdue]
  case bound => rw [exec_maintainBound, State.maintainBound_reached hmode hm hend hbound]

end Sys2Proof.Machine
end

section
/-! SUPPORT. What a start of the part keeps, and each way of restarting as such a start. -/

namespace Sys2Proof.Machine

open Sys2Proof

section
variable {s t : State} {kind : Nat}

theorem exec_deviceReset (s : State) : exec .deviceReset s = .next s.deviceReset := rfl

theorem exec_drainReset (s : State) : exec .drainReset s = .next s.drainReset := rfl

theorem exec_safeAutoRestart (s : State) : exec .safeAutoRestart s = .next s.autoRestart := rfl

theorem exec_safeRestartReq (s : State) : exec .safeRestartReq s = .next s.safeReq := rfl

/-! The host interface through a device reset. -/

theorem State.freeCells_hif (s : State) (port cells : Nat) (fromPool : Bool) : (s.freeCells port cells fromPool).hif = s.hif := by
  unfold State.freeCells
  split <;> rfl

/-- A device reset drops the frames that wait for the host, and answers nothing to it. -/
theorem State.hifResetBlock_hif (s : State) :
    (s.hifResetBlock false true).hif.link = s.hif.link ∧ (s.hifResetBlock false true).hif.mem = s.hif.mem := by
  have hdrop : ∀ (l : List HostItem) (u : State), (l.foldl (fun s i =>
      let s := s.freeCells i.port i.cells i.fromPool
      if i.since.isSome then s.count (hifCtr 2) else s.count (macCtr i.port 10)) u).hif = u.hif := by
    intro l
    induction l with
    | nil => exact fun _ => rfl
    | cons i l ih =>
      intro u
      rw [List.foldl_cons, ih]
      dsimp only
      split <;> rw [State.count_hif, State.freeCells_hif]
  have hhif := hdrop s.wv.hostQ s
  exact ⟨(Bool.and_true _).trans (congrArg HifSt.link hhif :), (congrArg HifSt.mem hhif :)⟩

/-! The model's copy. -/

/-- The state whose FeRAM a start keeps: out of LOCKED a device reset writes a copy of the model first (R231). -/
def State.modelSaved (s : State) (kind : Nat) : State :=
  if s.md.mode = .locked ∧ 2 ≤ kind ∧ s.fmu.halted = false then s.writeModel else s

theorem State.modelSaved_eq (s : State) (kind : Nat) : s.modelSaved kind = { s with fe := (s.modelSaved kind).fe } := by
  unfold State.modelSaved
  split <;> rfl

theorem State.modelSaved_restarts (s : State) (kind : Nat) : (s.modelSaved kind).fe.restarts = s.fe.restarts := by
  unfold State.modelSaved State.writeModel
  split
  · dsimp only
    split <;> rfl
  · rfl

/-! A start. -/

theorem State.modelSaved_eq_ite (s : State) (kind : Nat) :
    (if (s.md.mode == .locked && decide (2 ≤ kind) && !s.fmu.halted) = true then s.writeModel else s) = s.modelSaved kind := by
  simp [State.modelSaved, and_assoc]

theorem State.bootReset_restarted (s : State) (kind : Nat) : Restarted kind s (s.bootReset kind) := by
  obtain ⟨hlink, hmem⟩ := ({ s with fe := (s.modelSaved kind).fe } : State).hifResetBlock_hif
  unfold State.bootReset
  rw [s.modelSaved_eq_ite kind, s.modelSaved_eq kind]
  refine ⟨rfl, rfl, rfl, rfl, rfl, rfl, ?link, ?mem, rfl, rfl, rfl, rfl, rfl, rfl, rfl, rfl, rfl⟩
  case link =>
    show (if 2 ≤ kind then _ else _ : HifSt).link = _
    split
    · next hk => rw [hlink, decide_eq_true hk, Bool.true_and]
    · next hk => rw [decide_eq_false hk]; rfl
  case mem =>
    show (if 2 ≤ kind then _ else _ : HifSt).mem = _
    split
    · exact hmem
    · rfl

theorem State.bootReset_restarts (s : State) (kind : Nat) : (s.bootReset kind).fe.restarts = s.fe.restarts := by
  unfold State.bootReset
  rw [s.modelSaved_eq_ite kind]
  exact s.modelSaved_restarts kind

/-- A start leaves the reset inputs as they are. -/
theorem State.bootReset_inputs (s : State) (kind : Nat) :
    (s.bootReset kind).glb.porHeld = s.glb.porHeld ∧ (s.bootReset kind).glb.resetLow = s.glb.resetLow := by
  unfold State.bootReset
  rw [s.modelSaved_eq_ite kind, s.modelSaved_eq kind]
  exact ⟨rfl, rfl⟩

/-- The reading of VDD_CORE is no part of what a start is known by. -/
theorem Restarted.atCore (h : Restarted kind s t) (mv : Nat) : Restarted kind s { t with fmu := { t.fmu with coreMv := mv, minMv := mv } } := by
  obtain ⟨hall, hrest⟩ := h
  exact ⟨congrArg (fun u : State => { u with fmu := { t.fmu with coreMv := mv, minMv := mv } }) hall, hrest⟩

/-- Power-on and RESET_N write no copy of the model, so the reset inputs alone may differ. -/
theorem Restarted.of_input {por low : Bool} (hkind : kind < 2)
    (h : Restarted kind { s with glb := { s.glb with porHeld := por, resetLow := low } } t) : Restarted kind s t := by
  unfold Restarted at h ⊢
  simp only [Nat.not_le.2 hkind, false_and, and_false, if_false] at h ⊢
  exact h

/-- Out of SAFE no copy of the model is written, so the restart times alone may differ. -/
theorem Restarted.of_counted {times : List Nat} (hmode : s.md.mode = .safe)
    (h : Restarted kind { s with fe := { s.fe with restarts := times } } t) : Restarted kind s t := by
  unfold Restarted at h ⊢
  simp only [hmode, reduceCtorEq, false_and, if_false] at h ⊢
  exact h

/-! The ways of restarting. -/

theorem State.deviceReset_due {due : Nat} (hat : s.glb.resetAt = some due) (hdue : due ≤ s.now) : s.deviceReset = s.bootReset 2 := by
  unfold State.deviceReset
  rw [hat]
  exact if_pos hdue

theorem State.drainReset_free (h : s.drainFree) : s.drainReset = s.bootReset 3 := by
  obtain ⟨harmed, hrun, hpps, htod, hgpps, hclk⟩ := h
  refine if_pos ?_
  have hlow : s.out.pps.any (·.high) = false := by simpa using hpps
  have hrest : s.out.clks.all (fun c => c.muted || decide (c.per = 0)) = true := by simpa using hclk
  simp [harmed, hrun, hlow, htod, hgpps, hrest]

/-- The state in which an automatic restart has been counted and carried out. -/
def State.restartCounted (s : State) : State :=
  ({ s with fe := { s.fe with restarts := s.recentRestarts ++ [s.now] } } : State).bootReset 4

theorem State.autoRestart_allowed (hmode : s.md.mode = .safe) (hen : s.bit 0x78108 31 = true)
    (hhold : s.md.since + s.fld 0x78108 7 0 * nsPerSec ≤ s.now) (hfew : s.recentRestarts.length < 3) :
    s.autoRestart = s.restartCounted :=
  if_pos (by simp [hmode, hen, hhold, hfew])

theorem State.safeReq_restarts (hmode : s.md.mode = .safe) : s.safeReq = s.bootReset 5 := by
  unfold State.safeReq State.noWrites
  simp [hmode]

end

/-- Settles O1: each way of restarting is a start of its kind, of the state in which the input or the count has been noted. -/
theorem resetsRestartInBoot : Obligations.ResetsRestartInBoot := by
  intro s
  refine ⟨fun rails k hk hrail => ⟨s.powerHeld rails, ?power, ?held, (State.bootReset_inputs _ 0).1, ?powerKept⟩, 
    fun lowNs hlow => ⟨s.resetPulled, ?assert, ?low, (State.bootReset_inputs _ 1).2, ?lowKept⟩,
    fun due hat hdue => ⟨s.bootReset 2, ?device, s.bootReset_restarted 2, s.bootReset_restarts 2⟩,
    fun hfree => ⟨s.bootReset 3, ?drain, s.bootReset_restarted 3, s.bootReset_restarts 3⟩,
    fun hmode hen hhold hfew => ⟨s.restartCounted, ?auto, ?counted, ?times⟩,
    fun hmode _ => ⟨s.bootReset 5, ?request, s.bootReset_restarted 5, s.bootReset_restarts 5⟩⟩
  case power => rw [exec_powerOnReset, State.powerOn_low ⟨k, hk, hrail⟩]
  case held => exact Restarted.atCore (Restarted.of_input (by decide) (State.bootReset_restarted _ 0)) _
  case powerKept => exact State.bootReset_restarts _ 0
  case assert => rw [exec_resetNAssert, State.resetAssert_long hlow]
  case low => exact Restarted.of_input (by decide) (State.bootReset_restarted _ 1)
  case lowKept => exact State.bootReset_restarts _ 1
  case device => rw [exec_deviceReset, State.deviceReset_due hat hdue]
  case drain => rw [exec_drainReset, State.drainReset_free hfree]
  case auto => rw [exec_safeAutoRestart, State.autoRestart_allowed hmode hen hhold hfew]
  case counted => exact Restarted.of_counted hmode (State.bootReset_restarted _ 4)
  case times => exact State.bootReset_restarts _ 4
  case request => rw [exec_safeRestartReq, State.safeReq_restarts hmode]

end Sys2Proof.Machine
end

section
/-! SUPPORT. What the entry to a mode and the SAFE actions leave of the part: the registers in force and staged, the TACs, the fault manager,
the loader, Warp, the mode but for what an entry notes, the Stakes' delays and the pulses in progress. -/

namespace Sys2Proof.Machine

open Sys2Proof

/-- What the operations that a change of mode or the SAFE reaction runs leave from a state to a later one. -/
structure State.EntryFrame (s t : State) : Prop where
  rest : t = { s with ctr := t.ctr, cmts := t.cmts, tin := t.tin, ref := t.ref, srv := t.srv, out := t.out, gns := t.gns, ports := t.ports,
                      wv := t.wv, hif := t.hif, pke := t.pke, fe := t.fe, tb := { t.tb with warp := s.tb.warp },
                      glb := { t.glb with bistDone := s.glb.bistDone }, mgt := { t.mgt with recovery := s.mgt.recovery },
                      md := { s.md with acqSeen := t.md.acqSeen, lockedOnce := t.md.lockedOnce, lastLocked := t.md.lastLocked } }
  stk : t.ports.map (·.stk) = s.ports.map (·.stk)
  high : t.out.pps.map (·.high) = s.out.pps.map (·.high)
  armed : s.tb.armed = none → t.tb.armed = none

section
variable {r s t : State}

theorem State.EntryFrame.refl (s : State) : s.EntryFrame s := ⟨rfl, rfl, rfl, id⟩

theorem State.EntryFrame.trans (a : r.EntryFrame s) (b : s.EntryFrame t) : r.EntryFrame t := by
  refine ⟨?_, b.stk.trans a.stk, b.high.trans a.high, b.armed ∘ a.armed⟩
  have ha := a.rest
  have hb := b.rest
  rw [hb, ha]

theorem State.EntryFrame.ite {a b : State} {c : Prop} [Decidable c] (ha : r.EntryFrame a) (hb : r.EntryFrame b) :
    r.EntryFrame (if c then a else b) := by
  split <;> assumption

theorem State.EntryFrame.foldl {α : Type} {f : State → α → State} {l : List α} (hf : ∀ u x, State.EntryFrame u (f u x)) (s : State) :
    s.EntryFrame (l.foldl f s) := by
  induction l generalizing s with
  | nil => exact .refl s
  | cons x l ih => exact (hf s x).trans (ih _)

theorem State.EntryFrame.act (h : s.EntryFrame t) : t.act = s.act := by rw [h.rest]

theorem State.EntryFrame.stg (h : s.EntryFrame t) : t.stg = s.stg := by rw [h.rest]

theorem State.EntryFrame.tac (h : s.EntryFrame t) : t.tac = s.tac := by rw [h.rest]

theorem State.EntryFrame.fmu (h : s.EntryFrame t) : t.fmu = s.fmu := by rw [h.rest]

theorem State.EntryFrame.cfg (h : s.EntryFrame t) : t.cfg = s.cfg := by rw [h.rest]

theorem State.EntryFrame.now (h : s.EntryFrame t) : t.now = s.now := by rw [h.rest]

theorem State.EntryFrame.pending (h : s.EntryFrame t) : t.pending = s.pending := by rw [h.rest]

theorem State.EntryFrame.warp (h : s.EntryFrame t) : t.tb.warp = s.tb.warp := by rw [h.rest]

theorem State.EntryFrame.recovery (h : s.EntryFrame t) : t.mgt.recovery = s.mgt.recovery := by rw [h.rest]

theorem State.EntryFrame.md (h : s.EntryFrame t) :
    t.md = { s.md with acqSeen := t.md.acqSeen, lockedOnce := t.md.lockedOnce, lastLocked := t.md.lastLocked } := by
  conv_lhs => rw [h.rest]

/-- The Stake of a port stands. -/
theorem State.EntryFrame.portStk (h : s.EntryFrame t) (n : Nat) : (t.port n).stk = (s.port n).stk := by
  unfold State.port
  rw [← List.getD_map (f := PortSt.stk), ← List.getD_map (f := PortSt.stk), h.stk]

/-- A pulse of a PPSOUT goes on, and none begins. -/
theorem State.EntryFrame.ppsHigh (h : s.EntryFrame t) (m : Nat) : (t.ppsAt m).high = (s.ppsAt m).high := by
  unfold State.ppsAt
  rw [← List.getD_map (f := PpsOut.high), ← List.getD_map (f := PpsOut.high), h.high]

/-! Lists of like things of which one is changed. -/

theorem updAt_map_of_keeps {α β : Type} {f : α → α} {g : α → β} (h : ∀ a, g (f a) = g a) (l : List α) (i : Nat) :
    (updAt l i f).map g = l.map g := by
  refine List.ext_getElem (by simp) fun k _ _ => ?_
  rw [List.getElem_map, List.getElem_map]
  simp only [updAt, List.getElem_modify]
  split
  · exact h _
  · rfl

theorem State.setPort_entryFrame (s : State) (n : Nat) (f : PortSt → PortSt) (h : ∀ p, (f p).stk = p.stk) : s.EntryFrame (s.setPort n f) :=
  ⟨rfl, updAt_map_of_keeps h _ _, rfl, id⟩

theorem State.setPps_entryFrame (s : State) (m : Nat) (f : PpsOut → PpsOut) (h : ∀ p, (f p).high = p.high) : s.EntryFrame (s.setPps m f) :=
  ⟨rfl, rfl, updAt_map_of_keeps h _ _, id⟩

/-! Counters, causes and records. -/

theorem State.count_entryFrame (s : State) (off : Nat) : s.EntryFrame (s.count off) := ⟨rfl, rfl, rfl, id⟩

theorem State.cause_entryFrame (s : State) (b : Nat) : s.EntryFrame (s.cause b) := by
  rw [s.cause_eq]
  exact ⟨rfl, rfl, rfl, id⟩

theorem State.log_entryFrame (s : State) (typ : Nat) (body : List Byte) : s.EntryFrame (s.log typ body) := by
  unfold State.log
  exact .ite (.refl s) ⟨rfl, rfl, rfl, id⟩

/-! The outputs' latches and mutes. -/

theorem State.setLatch_entryFrame (s : State) (o : OutId) : s.EntryFrame (s.setLatch o) := by
  cases o with
  | pps m => exact s.setPps_entryFrame m _ fun _ => rfl
  | clk _ => exact ⟨rfl, rfl, rfl, id⟩
  | tod => exact ⟨rfl, rfl, rfl, id⟩
  | gpps => exact ⟨rfl, rfl, rfl, id⟩

theorem State.setMuted_entryFrame (s : State) (b : Bool) (o : OutId) : s.EntryFrame (s.setMuted b o) := by
  cases o with
  | pps m => exact s.setPps_entryFrame m _ fun _ => rfl
  | clk _ => exact ⟨rfl, rfl, rfl, id⟩
  | tod => exact ⟨rfl, rfl, rfl, id⟩
  | gpps => exact ⟨rfl, rfl, rfl, id⟩

theorem State.applyMute_entryFrame (s : State) : s.EntryFrame s.applyMute :=
  .foldl (fun u o => .ite (u.setMuted_entryFrame true o) (.refl u)) s

theorem State.outputsFollow_entryFrame (s : State) : s.EntryFrame s.outputsFollow :=
  (State.EntryFrame.foldl (fun u o => .ite (u.setLatch_entryFrame o) (.refl u)) s).trans (State.applyMute_entryFrame _)

/-! What a mode begins and ends. -/

theorem State.writeModel_entryFrame (s : State) : s.EntryFrame s.writeModel := ⟨rfl, rfl, rfl, id⟩

theorem State.thawWeft_entryFrame (s : State) : s.EntryFrame s.thawWeft := by
  unfold State.thawWeft
  split
  · exact .refl s
  · exact ⟨rfl, rfl, rfl, id⟩

theorem State.freezeWeft_entryFrame (s : State) (e0 : Rat) : s.EntryFrame (s.freezeWeft e0) := .ite ⟨rfl, rfl, rfl, id⟩ (.refl s)

theorem State.startFast_entryFrame (s : State) (i : Nat) : s.EntryFrame (s.startFast i) := .ite ⟨rfl, rfl, rfl, id⟩ ⟨rfl, rfl, rfl, id⟩

theorem State.acquireEntry_entryFrame (s : State) : s.EntryFrame s.acquireEntry := by
  unfold State.acquireEntry
  split
  · refine .ite (.trans ?_ (State.startFast_entryFrame _ _)) ⟨rfl, rfl, rfl, id⟩
    exact ⟨rfl, rfl, rfl, id⟩
  · exact .refl s

theorem State.enablePorts_entryFrame (s : State) : s.EntryFrame s.enablePorts := by
  refine ⟨rfl, ?_, rfl, id⟩
  refine List.ext_getElem (by simp [State.enablePorts]) fun k _ _ => ?_
  simp only [State.enablePorts, List.getElem_map, List.getElem_mapIdx]
  split <;> rfl

theorem State.enterAcquire_entryFrame (s : State) (old : Mode) : s.EntryFrame (s.enterAcquire old) := by
  unfold State.enterAcquire
  refine .ite ?_ s.acquireEntry_entryFrame
  have hmon : s.EntryFrame (({ s with md := { s.md with acqSeen := s.now } } : State).startMonitors) := ⟨rfl, rfl, rfl, id⟩
  exact (hmon.trans (State.enablePorts_entryFrame _)).trans ⟨rfl, rfl, rfl, id⟩

theorem State.enterLocked_entryFrame (s : State) : s.EntryFrame s.enterLocked := ⟨rfl, rfl, rfl, id⟩

theorem State.cancelSlew_entryFrame (s : State) : s.EntryFrame s.cancelSlew := .ite ⟨rfl, rfl, rfl, id⟩ (.refl s)

theorem State.servoFreeze_entryFrame (s : State) : s.EntryFrame s.servoFreeze := by
  have hstop : s.EntryFrame { s.cancelSlew with srv := { s.cancelSlew.srv with st := .frozen, win := none, retry := false } } :=
    s.cancelSlew_entryFrame.trans ⟨rfl, rfl, rfl, id⟩
  unfold State.servoFreeze State.newHold
  refine .ite (hstop.trans (State.freezeWeft_entryFrame _ _)) (hstop.trans (.trans ?_ (State.freezeWeft_entryFrame _ _)))
  exact ⟨rfl, rfl, rfl, id⟩

/-- The state with a change of mode noted, and MAINTAIN's work ended with MAINTAIN (R35, R40, R41). -/
def State.modeNoted (s : State) (m : Mode) (cause : Nat) : State :=
  { s with md := { s.md with mode := m, prev := s.md.mode, cause := cause, since := s.now, modeChg := true,
                             origin := if m == Mode.maintain then some s.md.mode else none,
                             maint := if s.md.mode == .maintain then none else s.md.maint } }

theorem State.modeNoted_tb (s : State) (m : Mode) (cause : Nat) : (s.modeNoted m cause).tb = s.tb := rfl

/-- What a change of mode notes, it notes alike of the state that its own operations have led to. -/
theorem State.EntryFrame.noted (h : s.EntryFrame t) (m : Mode) (cause : Nat) : (s.modeNoted m cause).EntryFrame (t.modeNoted m cause) := by
  refine ⟨?_, h.stk, h.high, h.armed⟩
  have hrest := h.rest
  rw [hrest]
  rfl

/-- The state that leaves a mode: out of LOCKED the model's copy is written, out of MAINTAIN Weft steers again and the selector is to choose. -/
def State.modeLeft (s : State) : State :=
  let s1 := if s.md.mode == .locked && !s.fmu.halted then s.writeModel else s
  let s2 := { s1 with fe := { s1.fe with rotCount := s1.rotNs } }
  if s.md.mode == .maintain then
    let s3 := if s2.selStands then s2.thawWeft else s2
    { s3 with ref := { s3.ref with maintEnd := true } }
  else s2

theorem State.modeLeft_entryFrame (s : State) : s.EntryFrame s.modeLeft := by
  unfold State.modeLeft
  extract_lets s1 _ s2 s3
  have h2 : s.EntryFrame s2 := (State.EntryFrame.ite s.writeModel_entryFrame (.refl s)).trans (⟨rfl, rfl, rfl, id⟩ : s1.EntryFrame s2)
  have h3 : s2.EntryFrame s3 := .ite s2.thawWeft_entryFrame (.refl s2)
  exact .ite ((h2.trans h3).trans ⟨rfl, rfl, rfl, id⟩) h2

theorem State.setMode_entryFrame (s : State) (m : Mode) (cause : Nat) : (s.modeNoted m cause).EntryFrame (s.setMode m cause) := by
  unfold State.setMode
  extract_lets old s1 _ s1b s2 _ md _ gns _ s3 s4 s5
  have hleft := s.modeLeft_entryFrame.noted m cause
  have h2 : { s2 with md := md } = s.modeLeft.modeNoted m cause := by
    have hmode : s.modeLeft.md.mode = old := by rw [s.modeLeft_entryFrame.md]
    have hs2 : s2 = { s.modeLeft with md := { s.modeLeft.md with maint := if old == .maintain then none else s.modeLeft.md.maint } } := by
      unfold s2 State.modeLeft State.leaveMaintain
      cases old == .maintain <;> rfl
    show ({ s2 with md := { s2.md with
      mode := m, prev := old, cause := cause, since := s2.now, modeChg := true, origin := if m == Mode.maintain then some old else none } } : State) = _
    unfold State.modeNoted
    rw [hs2, hmode]
  have h3 : State.EntryFrame { s2 with md := md } s3 := by
    refine .trans ?_ (State.cause_entryFrame _ 0)
    exact ⟨rfl, rfl, rfl, id⟩
  have h5 : s4.EntryFrame s5 := by
    unfold s5
    split
    · exact State.enterAcquire_entryFrame _ _
    · exact State.enterLocked_entryFrame _
    · exact State.servoFreeze_entryFrame _
    · exact .refl _
  exact (((h2 ▸ hleft).trans h3).trans ((s3.log_entryFrame _ _).trans h5)).trans s5.outputsFollow_entryFrame

/-! What the SAFE actions end. -/

theorem State.freeContexts_entryFrame (s : State) : s.EntryFrame s.freeContexts :=
  ⟨rfl, (List.map_map ..).trans rfl, rfl, id⟩

theorem State.dma_entryFrame (s : State) (addr : Nat) (bs : List Byte) : s.EntryFrame (s.dma addr bs) := by
  unfold State.dma
  exact .ite ⟨rfl, rfl, rfl, id⟩ (.refl s)

theorem State.cqWrite_entryFrame (s : State) (q i qstat code : Nat) : s.EntryFrame (s.cqWrite q i qstat code) := by
  unfold State.cqWrite
  extract_lets _ s1 s2 s3
  have h3 : s.EntryFrame s3 := (State.dma_entryFrame s _ _).trans (⟨rfl, rfl, rfl, id⟩ : s1.EntryFrame s3)
  exact .ite (h3.trans ((s3.count_entryFrame _).trans (State.cause_entryFrame _ 11))) h3

theorem State.cqFinish_entryFrame (s : State) (c : CompWait) : s.EntryFrame (s.cqFinish c) :=
  .ite ((s.dma_entryFrame _ _).trans (State.cqWrite_entryFrame _ _ _ _ _)) ⟨rfl, rfl, rfl, id⟩

theorem State.pkeAbort_entryFrame (s : State) (o : PkeOp) : s.EntryFrame (s.pkeAbort o) := by
  unfold State.pkeAbort State.cqComplete
  extract_lets _ s1 s2
  have h2 : s.EntryFrame s2 := by
    unfold s2 State.zeroCore
    split <;> exact ⟨rfl, rfl, rfl, id⟩
  exact .ite (h2.trans ⟨rfl, rfl, rfl, id⟩) (h2.trans (State.cqFinish_entryFrame _ _))

theorem State.mintAbort_entryFrame (s : State) (m : Mint) (code : Nat) : s.EntryFrame (s.mintAbort m code) := by
  unfold State.mintAbort State.cqComplete
  extract_lets _ s1
  have h1 : s.EntryFrame s1 := ⟨rfl, rfl, rfl, id⟩
  exact .ite (h1.trans (State.cqFinish_entryFrame _ _)) (h1.trans (State.cqFinish_entryFrame _ _))

theorem State.abortHeld_entryFrame (s : State) (all : Bool) : s.EntryFrame (s.abortHeld all) := by
  unfold State.abortHeld
  extract_lets _ _ s0 s1
  have h0 : s.EntryFrame s0 := .ite ⟨rfl, rfl, rfl, id⟩ (.refl s)
  have h1 : s0.EntryFrame s1 := .foldl (fun u o => u.pkeAbort_entryFrame o) s0
  exact (h0.trans h1).trans (.foldl (fun u m => u.mintAbort_entryFrame m 0x31) s1)

theorem State.abandonCommits_entryFrame (s : State) : s.EntryFrame s.abandonCommits := ⟨rfl, rfl, rfl, id⟩

theorem State.stepStat_entryFrame (s : State) (x : StepRec) (st code : Nat) : s.EntryFrame (s.stepStat x st code) := by
  unfold State.stepStat
  extract_lets _ _ _ s1
  have h1 : s.EntryFrame s1 := ⟨rfl, rfl, rfl, id⟩
  exact .ite (.refl s) (.ite (h1.trans (s1.cause_entryFrame 3)) h1)

theorem State.abandonSteps_entryFrame (s : State) : s.EntryFrame s.abandonSteps := by
  unfold State.abandonSteps
  extract_lets s1 _ tb
  have h1 : s.EntryFrame s1 := by
    unfold s1
    split
    · exact s.stepStat_entryFrame _ _ _
    · exact .refl s
  exact h1.trans ⟨rfl, rfl, rfl, fun _ => rfl⟩

theorem State.closeMeas_entryFrame (s : State) (n : Nat) : s.EntryFrame (s.closeMeas n) := by
  unfold State.closeMeas
  split
  · exact .refl s
  · refine .trans ?_ (⟨rfl, rfl, rfl, id⟩ : State.EntryFrame _ (State.setTin _ _ _))
    unfold State.fifoPut State.loseRecord
    refine .ite ⟨rfl, rfl, rfl, id⟩ (.ite (.trans ?_ (State.cause_entryFrame _ 8)) ?_) <;> exact ⟨rfl, rfl, rfl, id⟩

theorem State.closeAllMeas_entryFrame (s : State) : s.EntryFrame s.closeAllMeas := .foldl (fun u n => u.closeMeas_entryFrame n) s

theorem State.abortUpdate_entryFrame (s : State) : s.EntryFrame s.abortUpdate := .ite ⟨rfl, rfl, rfl, id⟩ (.refl s)

/-- The state without a drain and without MAINTAIN's work. -/
def State.undrained (s : State) : State := { s with md := { s.md with drain := false, drainArmed := false, maint := none } }

theorem State.EntryFrame.undrained (h : s.EntryFrame t) : s.undrained.EntryFrame t.undrained := by
  refine ⟨?_, h.stk, h.high, h.armed⟩
  have hrest := h.rest
  rw [hrest]
  rfl

/-- The state in which the SAFE actions have ended the work of the blocks (R566). -/
def State.workEnded (s : State) : State := (s.freeContexts.abortHeld true).abandonCommits.abandonSteps.closeAllMeas.abortUpdate

theorem State.workEnded_entryFrame (s : State) : s.EntryFrame s.workEnded :=
  ((((s.freeContexts_entryFrame.trans (State.abortHeld_entryFrame _ true)).trans (State.abandonCommits_entryFrame _)).trans
    (State.abandonSteps_entryFrame _)).trans (State.closeAllMeas_entryFrame _)).trans (State.abortUpdate_entryFrame _)

theorem State.abandonSteps_armed (s : State) : s.abandonSteps.tb.armed = none := rfl

/-- No operation of TB_STEP stays armed. -/
theorem State.workEnded_armed (s : State) : s.workEnded.tb.armed = none := by
  have hsteps := (s.freeContexts.abortHeld true).abandonCommits.abandonSteps_armed
  unfold State.workEnded
  exact (State.abortUpdate_entryFrame _).armed ((State.closeAllMeas_entryFrame _).armed hsteps)

/-- The state with the servo stopped and its window abandoned. -/
def State.servoStopped (s : State) : State := { s with srv := { s.srv with st := .stopped, win := none } }

theorem State.servoStopped_entryFrame (s : State) : s.EntryFrame s.servoStopped := ⟨rfl, rfl, rfl, id⟩

theorem State.servoStopped_tb (s : State) : s.servoStopped.tb = s.tb := rfl

theorem State.undrained_tb (s : State) : s.undrained.tb = s.tb := rfl

/-- The state that enters SAFE. -/
def State.safeReady (s : State) : State := s.workEnded.undrained.servoStopped

theorem State.safeReady_entryFrame (s : State) : s.undrained.EntryFrame s.safeReady :=
  s.workEnded_entryFrame.undrained.trans (State.servoStopped_entryFrame _)

/-- The state in SAFE, in which MGT is held no longer. -/
def State.safeModed (s : State) (cause : Nat) : State := (s.safeReady.setMode .safe cause).setPort 4 fun p => { p with held := false }

theorem State.safeActions_eq (s : State) (cause : Nat) : s.safeActions cause =
    if s.safeReady.md.mode == .boot then { s.safeModed cause with glb := { (s.safeModed cause).glb with bootStep := 7 } }
    else s.safeModed cause := by
  have hready : s.safeReady = (
      let s1 := (s.freeContexts.abortHeld true).abandonCommits.abandonSteps.closeAllMeas.abortUpdate
      { s1 with srv := { s1.srv with st := .stopped, win := none }, md := { s1.md with drain := false, drainArmed := false, maint := none } }) := by
    unfold State.safeReady
    generalize hended : s.workEnded = u
    unfold State.workEnded at hended
    rw [hended]
    rfl
  unfold State.safeActions State.safeModed
  rw [hready]

theorem State.safeActions_entryFrame (s : State) (cause : Nat) : (s.safeReady.modeNoted .safe cause).EntryFrame (s.safeActions cause) := by
  have hmoded : (s.safeReady.modeNoted .safe cause).EntryFrame (s.safeModed cause) :=
    (s.safeReady.setMode_entryFrame .safe cause).trans (State.setPort_entryFrame _ 4 _ fun _ => rfl)
  have hstep (u : State) : u.EntryFrame { u with glb := { u.glb with bootStep := 7 } } := ⟨rfl, rfl, rfl, id⟩
  rw [s.safeActions_eq]
  exact .ite (hmoded.trans (hstep _)) hmoded

theorem State.latchUnmute_outputsOnly (s : State) : s.OutputsOnly s.latchUnmute := by
  unfold State.latchUnmute
  induction allOuts generalizing s with
  | nil => exact .refl s
  | cons o l ih =>
    rw [List.foldl_cons]
    refine .trans ?_ (ih _)
    split
    · cases o <;> rfl
    · exact .refl s

theorem State.outputsFollow_outputsOnly (s : State) : s.OutputsOnly s.outputsFollow :=
  s.latchUnmute_outputsOnly.trans (State.applyMute_outputsOnly _)

theorem State.thawWeft_srv (s : State) : s.thawWeft.srv = s.srv := by
  unfold State.thawWeft
  split <;> rfl

/-- The servo has no part in the entry to SAFE. -/
theorem State.setMode_safe_srv (s : State) (cause : Nat) : (s.setMode .safe cause).srv = s.srv := by
  unfold State.setMode
  extract_lets old s1 _ s1b s2 _ md _ gns _ s3 s4 s5
  have hs1 : s1.srv = s.srv := by
    unfold s1
    split <;> rfl
  have hs2 : s2.srv = s.srv := by
    refine .trans ?_ hs1
    unfold s2 State.leaveMaintain
    split
    · dsimp only
      split
      · exact s1b.thawWeft_srv
      · rfl
    · rfl
  calc s5.outputsFollow.srv
      = s4.srv := by rw [show s5.outputsFollow = _ from s5.outputsFollow_outputsOnly]
    _ = s3.srv := State.log_srv _ _ _
    _ = s2.srv := State.cause_srv _ 0
    _ = s.srv := hs2

theorem State.safeActions_srv (s : State) (cause : Nat) : (s.safeActions cause).srv = s.safeReady.srv := by
  have hmoded : (s.safeModed cause).srv = s.safeReady.srv := s.safeReady.setMode_safe_srv cause
  rw [s.safeActions_eq]
  split
  · exact hmoded
  · exact hmoded

/-! The SAFE reaction outside SAFE. -/

theorem State.noteFault_eq (old new : State) : old.noteFault new = { new with hif := (old.noteFault new).hif } := by
  unfold State.noteFault
  split
  · exact new.cause_eq 5
  · rfl

/-- The state in which a SAFE cause has been reported: the start-up causes carry no report (R586). -/
def State.safeReported (s : State) (tag cause : Nat) : State := if cause ≤ 0x34 then s else s.faultReport tag cause

theorem State.safeReported_eq (s : State) (tag cause : Nat) :
    s.safeReported tag cause = { s with fmu := (s.safeReported tag cause).fmu, ctr := (s.safeReported tag cause).ctr } := by
  unfold State.safeReported
  split <;> rfl

/-- The state in which the SAFE reaction has closed the gate and asserted FAULT_N (R557, R565). -/
def State.gateShut (s : State) (tag cause : Nat) (pathB : Bool) : State :=
  let s1 := s.safeReported tag cause
  State.noteFault s1 { s1 with fmu := { s1.fmu with gate := true, pathA := true, pathB := s1.fmu.pathB || pathB } }

theorem State.gateShut_eq (s : State) (tag cause : Nat) (pathB : Bool) : s.gateShut tag cause pathB =
    { s with ctr := (s.gateShut tag cause pathB).ctr, hif := (s.gateShut tag cause pathB).hif,
             fmu := { (s.gateShut tag cause pathB).fmu with gate := true, pathA := true } } := by
  unfold State.gateShut
  dsimp only
  rw [State.noteFault_eq]
  dsimp only
  rw [s.safeReported_eq]

/-- The state with the cause of SAFE latched (R567, R586). -/
def State.causeKept (s : State) (tag cause : Nat) : State :=
  { s with fmu := { s.fmu with lastRoot := if cause ≤ 0x34 then 0 else tag, lastCause := cause } }

theorem State.safeReaction_outside {tag cause : Nat} {pathB : Bool} (h : s.md.mode ≠ .safe) :
    s.safeReaction tag cause pathB = ((s.gateShut tag cause pathB).causeKept tag cause).safeActions cause := by
  have hmode : (s.gateShut tag cause pathB).md.mode = s.md.mode := by rw [s.gateShut_eq]
  refine if_neg (c := ((s.gateShut tag cause pathB).md.mode == .safe) = true) ?_
  simpa [hmode] using h

theorem State.safeReaction_entryFrame {tag cause : Nat} {pathB : Bool} (h : s.md.mode ≠ .safe) :
    (((s.gateShut tag cause pathB).causeKept tag cause).undrained.modeNoted .safe cause).EntryFrame (s.safeReaction tag cause pathB) := by
  rw [State.safeReaction_outside h]
  exact ((State.safeReady_entryFrame _).noted .safe cause).trans (State.safeActions_entryFrame _ cause)

theorem State.safeReaction_srv {tag cause : Nat} {pathB : Bool} (h : s.md.mode ≠ .safe) :
    (s.safeReaction tag cause pathB).srv.st = .stopped ∧ (s.safeReaction tag cause pathB).srv.win = none := by
  rw [State.safeReaction_outside h, State.safeActions_srv]
  exact ⟨rfl, rfl⟩

theorem State.safeReady_armed (s : State) : s.safeReady.tb.armed = none := by
  unfold State.safeReady
  rw [State.servoStopped_tb, State.undrained_tb, State.workEnded_armed]

theorem State.safeReaction_armed {tag cause : Nat} {pathB : Bool} (h : s.md.mode ≠ .safe) :
    (s.safeReaction tag cause pathB).tb.armed = none := by
  rw [State.safeReaction_outside h]
  refine (State.safeActions_entryFrame _ cause).armed ?_
  rw [State.modeNoted_tb, State.safeReady_armed]

theorem State.safeReaction_entered {tag cause : Nat} {pathB : Bool} (h : s.md.mode ≠ .safe) :
    SafeEntered cause s (s.safeReaction tag cause pathB) := by
  have hframe := State.safeReaction_entryFrame (tag := tag) (cause := cause) (pathB := pathB) h
  obtain ⟨hst, hwin⟩ := State.safeReaction_srv (tag := tag) (cause := cause) (pathB := pathB) h
  have harmed := State.safeReaction_armed (tag := tag) (cause := cause) (pathB := pathB) h
  have hshut := s.gateShut_eq tag cause pathB
  generalize s.safeReaction tag cause pathB = t at *
  generalize s.gateShut tag cause pathB = u at *
  have hmd := hframe.md
  have hfmu := hframe.fmu
  rw [hshut] at hmd hfmu
  refine ⟨by rw [hmd]; rfl, by rw [hmd]; rfl, by rw [hmd]; rfl, by rw [hmd]; rfl, by rw [hmd]; rfl, by rw [hmd]; exact ite_self _,
    by rw [hfmu]; rfl, by rw [hfmu]; rfl, by rw [hfmu]; rfl, hst, hwin, harmed, ?_, ?_, ?_, ?_, ?_, ?_⟩
  · rw [hframe.warp, hshut]; rfl
  · rw [hframe.act, hshut]; rfl
  · rw [hframe.stg, hshut]; rfl
  · rw [hframe.cfg, hshut]; rfl
  · rw [hframe.now, hshut]; rfl
  · rw [hframe.pending, hshut]; rfl

/-- The root kept with the cause, and what else SAFE leaves: the loader's recovery mode and the pulses in progress. -/
theorem State.safeReaction_leaves {tag cause : Nat} {pathB : Bool} (h : s.md.mode ≠ .safe) :
    (s.safeReaction tag cause pathB).fmu.lastRoot = (if cause ≤ 0x34 then 0 else tag) ∧
    (s.safeReaction tag cause pathB).mgt.recovery = s.mgt.recovery ∧
    ∀ m, ((s.safeReaction tag cause pathB).ppsAt m).high = (s.ppsAt m).high := by
  have hframe := State.safeReaction_entryFrame (tag := tag) (cause := cause) (pathB := pathB) h
  have hshut := s.gateShut_eq tag cause pathB
  generalize s.safeReaction tag cause pathB = t at *
  generalize s.gateShut tag cause pathB = u at *
  refine ⟨?_, ?_, fun m => ?_⟩
  · rw [hframe.fmu]; rfl
  · rw [hframe.recovery, hshut]; rfl
  · rw [hframe.ppsHigh, hshut]; rfl

end
end Sys2Proof.Machine
end

section
/-! SUPPORT. The time limits of BOOT and of CALIBRATE. -/

namespace Sys2Proof.Machine

open Sys2Proof

section
variable {s : State}

theorem exec_bootTimeout (s : State) : exec .bootTimeout s = .next s.bootTimeout := rfl

theorem exec_calibrateTimeout (s : State) : exec .calibrateTimeout s = .next s.calTimeout := rfl

theorem State.bootTimeout_late (hmode : s.md.mode = .boot) (hreset : s.inReset = false) (hlate : s.md.since + 3 * nsPerSec ≤ s.now) :
    s.bootTimeout = s.safeReaction 0 0x34 false := if_pos (by simp [hmode, hreset, hlate])

theorem State.calTimeout_late (hmode : s.md.mode = .calibrate) (hlate : s.md.since + nsPerSec ≤ s.now) :
    s.calTimeout = s.safeReaction 0 0x34 false := if_pos (by simp [hmode, hlate])

/-- Outside SAFE a start-up that has taken too long ends in SAFE with cause 0x34 and ROOT 0 (R35, R566, R586). -/
theorem State.startUpFailed (h : s.md.mode ≠ .safe) :
    let t := s.safeReaction 0 0x34 false
    t.md.mode = .safe ∧ t.md.cause = 0x34 ∧ t.md.prev = s.md.mode ∧ t.fmu.gate = true ∧ t.fmu.pathA = true ∧
    t.fmu.lastCause = 0x34 ∧ t.fmu.lastRoot = 0 ∧ t.act = s.act ∧ t.stg = s.stg ∧ t.now = s.now ∧ t.tb.warp = s.tb.warp ∧ t.pending = s.pending := by
  obtain ⟨hmode, hcause, hprev, -, -, -, hgate, hpath, hlast, -, -, -, hwarp, hact, hstg, -, hnow, hpend⟩ :=
    State.safeReaction_entered (tag := 0) (cause := 0x34) (pathB := false) h
  obtain ⟨hroot, -, -⟩ := State.safeReaction_leaves (tag := 0) (cause := 0x34) (pathB := false) h
  exact ⟨hmode, hcause, hprev, hgate, hpath, hlast, hroot, hact, hstg, hnow, hwarp, hpend⟩

end

/-- Settles O5: both timeouts are the SAFE reaction with cause 0x34, and the mode before it is the one that lasted too long. -/
theorem startUpTimeoutsEndInSafe : Obligations.StartUpTimeoutsEndInSafe := by
  intro s
  refine ⟨fun hmode hreset hlate => ⟨s.safeReaction 0 0x34 false, ?boot, ?_⟩, fun hmode hlate => ⟨s.safeReaction 0 0x34 false, ?calibrate, ?_⟩⟩
  case boot => rw [exec_bootTimeout, State.bootTimeout_late hmode hreset hlate]
  case calibrate => rw [exec_calibrateTimeout, State.calTimeout_late hmode hlate]
  all_goals
    have hfailed := State.startUpFailed (s := s) (by rw [hmode]; decide)
    rwa [hmode] at hfailed

end Sys2Proof.Machine
end

section
/-! SUPPORT. The rows of the transition table, and what an evaluation makes of the first that holds. -/

namespace Sys2Proof.Machine

open Sys2Proof

section
variable {s : State} {m dest : Mode} {cause : Nat}

theorem exec_modeEvaluation (s : State) : exec .modeEvaluation s = .next s.modeEval := rfl

/-- The state in which an evaluation has noted whether a reference was in QUAL or SEL, and which one was followed in LOCKED. -/
def State.refsNoted (s : State) : State :=
  { s with md := { s.md with acqSeen := if (List.range 17).any s.member then s.now else s.md.acqSeen,
                             lastLocked := if s.md.mode == Mode.locked && s.ref.sel.isSome then s.ref.sel else s.md.lastLocked } }

/-- ACQ_TIMEOUT has run without a reference in QUAL or SEL (R35). -/
def State.quiet (s : State) : Prop :=
  s.md.acqSeen + s.fld 0x78108 23 12 * nsPerSec ≤ s.now ∧ ∀ i < 17, (s.refAt i).st ≠ .qual ∧ (s.refAt i).st ≠ .sel

/-- The measured error exceeds HOLD_LIMIT, while the loop tracks (R35; log entry 23). -/
def State.farOff (s : State) : Prop := s.srv.st = .tracking ∧ s.holdLimit < s.measured

/-- A row of the table of R35 that holds in a mode: where it leads, with its cause. -/
def State.rowHolds (s : State) (m dest : Mode) (cause : Nat) : Prop :=
  (m = .acquire ∧ s.selStands = true ∧ s.lockMet = true ∧ dest = .locked ∧ cause = 0x11) ∨
  (m = .acquire ∧ ¬(s.selStands = true ∧ s.lockMet = true) ∧ s.quiet ∧ dest = .freerun ∧ cause = 0x14) ∨
  (m = .locked ∧ s.ref.sel = none ∧ dest = .holdover ∧ cause = 0x12) ∨
  (m = .holdover ∧ s.selStands = true ∧ s.farOff ∧ dest = .acquire ∧ cause = 0x16) ∨
  (m = .holdover ∧ s.selStands = true ∧ ¬s.farOff ∧ s.lockMet = true ∧ dest = .locked ∧ cause = 0x11) ∨
  (m = .holdover ∧ s.selStands = false ∧ s.holdLimit < s.predicted ∧ dest = .freerun ∧ cause = 0x13) ∨
  (m = .freerun ∧ s.selStands = true ∧ dest = .acquire ∧ cause = 0x15)

theorem State.anyMember_iff : (List.range 17).any s.member = true ↔ ¬∀ i < 17, (s.refAt i).st ≠ .qual ∧ (s.refAt i).st ≠ .sel := by
  simp only [List.any_eq_true, List.mem_range, State.member, Bool.or_eq_true, beq_iff_eq]
  push Not
  exact exists_congr fun i => and_congr_right fun _ => or_iff_not_imp_left

/-- With a reference in QUAL or SEL the count of ACQ_TIMEOUT begins anew, and has not run. -/
theorem State.acqTimedOut_refsNoted (hfld : s.fld 0x78108 23 12 ≠ 0) : s.refsNoted.acqTimedOut = true ↔ s.quiet := by
  have hspan : 0 < s.fld 0x78108 23 12 * nsPerSec := Nat.mul_pos (Nat.pos_of_ne_zero hfld) (by decide)
  rw [State.acqTimedOut, decide_eq_true_eq]
  show (if (List.range 17).any s.member then s.now else s.md.acqSeen) + s.fld 0x78108 23 12 * nsPerSec ≤ s.now ↔ _
  by_cases hseen : (List.range 17).any s.member = true
  · rw [if_pos hseen]
    exact ⟨fun h => absurd h (by omega), fun h => absurd h.2 (State.anyMember_iff.1 hseen)⟩
  · rw [if_neg hseen]
    exact ⟨fun h => ⟨h, not_not.1 fun hn => hseen (State.anyMember_iff.2 hn)⟩, fun h => h.1⟩

theorem State.modeRow_refsNoted (hfld : s.fld 0x78108 23 12 ≠ 0) : s.refsNoted.modeRow m = some (dest, cause) ↔ s.rowHolds m dest cause := by
  have hquiet := State.acqTimedOut_refsNoted hfld
  have hstands : s.refsNoted.selStands = s.selStands := rfl
  have hlock : s.refsNoted.lockMet = s.lockMet := rfl
  have hsel : s.refsNoted.ref.sel = s.ref.sel := rfl
  have hfar : (s.refsNoted.srv.st == .tracking && decide (s.refsNoted.holdLimit < s.refsNoted.measured)) = true ↔ s.farOff := by
    rw [Bool.and_eq_true, beq_iff_eq, decide_eq_true_eq]; rfl
  have hdest (a : Mode) : a = dest ↔ dest = a := eq_comm
  have hcause (x : Nat) : x = cause ↔ cause = x := eq_comm
  unfold State.rowHolds
  cases m <;> simp only [State.modeRow, reduceCtorEq, false_and, true_and, false_or, or_false]
  case acquire =>
    rw [hstands, hlock, ← hquiet, ← and_assoc]
    by_cases hmet : s.selStands = true ∧ s.lockMet = true
    · simp [hmet, hdest, hcause]
    · by_cases hrun : s.refsNoted.acqTimedOut = true <;> simp [hmet, hrun, hdest, hcause]
  case locked =>
    rw [hsel]
    cases s.ref.sel <;> simp [hdest, hcause]
  case holdover =>
    rw [hstands, hlock, Bool.and_assoc]
    cases s.selStands with
    | false =>
      have hpred : s.refsNoted.holdLimit < s.refsNoted.predicted ↔ s.holdLimit < s.predicted := Iff.rfl
      by_cases hover : s.holdLimit < s.predicted <;> simp [hpred, hover, hdest, hcause]
    | true =>
      by_cases hoff : s.farOff
      · simp [hfar.2 hoff, hoff, hdest, hcause]
      · cases s.lockMet <;> simp [Bool.eq_false_iff.2 (mt hfar.1 hoff), hoff, hdest, hcause]
  case freerun =>
    rw [hstands]
    cases s.selStands <;> simp [hdest, hcause]

theorem State.modeRow_refsNoted_none (hfld : s.fld 0x78108 23 12 ≠ 0) (h : ∀ dest cause, ¬s.rowHolds m dest cause) :
    s.refsNoted.modeRow m = none :=
  Option.eq_none_iff_forall_not_mem.2 fun x hx => h x.1 x.2 ((State.modeRow_refsNoted hfld).1 hx)

/-! An evaluation. -/

theorem State.modeEval_halted (h : s.fmu.halted = true) : s.modeEval = s := if_pos h

/-- What an evaluation does once it has noted the references: MAINTAIN ends with its work or at its bound, another mode by its row. -/
def State.evaluated (s : State) : State :=
  match s.md.mode, s.md.maint with
  | .maintain, some m => if m.ended then s.maintainExit 0x22 else if m.boundHit then s.maintainExit 0x23 else s
  | .maintain, none => s
  | m, _ => match s.modeRow m with
    | some (m', c) => s.setMode m' c
    | none => s.outputsFollow

theorem State.modeEval_running (hrun : s.fmu.halted = false) : s.modeEval = s.refsNoted.evaluated :=
  if_neg (c := s.fmu.halted = true) (by simp [hrun])

theorem State.evaluated_row (hmode : s.md.mode ≠ .maintain) (hrow : s.modeRow s.md.mode = some (dest, cause)) :
    s.evaluated = s.setMode dest cause := by
  unfold State.evaluated
  split
  · next h _ => exact absurd h hmode
  · next h _ => exact absurd h hmode
  · rw [hrow]

theorem State.evaluated_no_row (hmode : s.md.mode ≠ .maintain) (hrow : s.modeRow s.md.mode = none) : s.evaluated = s.outputsFollow := by
  unfold State.evaluated
  split
  · next h _ => exact absurd h hmode
  · next h _ => exact absurd h hmode
  · rw [hrow]

theorem State.evaluated_maintain {m : Maint} (hmode : s.md.mode = .maintain) (hm : s.md.maint = some m) :
    s.evaluated = if m.ended then s.maintainExit 0x22 else if m.boundHit then s.maintainExit 0x23 else s := by
  unfold State.evaluated
  rw [hmode, hm]

/-- The work of MAINTAIN has ended, or a bound was reached. -/
theorem State.evaluated_ends {m : Maint} (hmode : s.md.mode = .maintain) (hm : s.md.maint = some m) (h : m.ended = true ∨ m.boundHit = true) :
    s.evaluated = s.maintainExit (if m.ended then 0x22 else 0x23) := by
  rw [State.evaluated_maintain hmode hm]
  cases hend : m.ended with
  | true => rfl
  | false => exact if_pos (h.resolve_left (by simp [hend]))

/-- What a change of mode leaves in TB_MODE. -/
theorem State.setMode_md (s : State) (m : Mode) (cause : Nat) :
    (s.setMode m cause).md.mode = m ∧ (s.setMode m cause).md.cause = cause ∧ (s.setMode m cause).md.prev = s.md.mode ∧
    (s.md.mode = .maintain → (s.setMode m cause).md.maint = none) := by
  rw [(s.setMode_entryFrame m cause).md]
  exact ⟨rfl, rfl, rfl, fun h => if_pos (by rw [h]; rfl)⟩

/-- MAINTAIN ended: where a row of its origin leads, or the origin. -/
theorem State.maintainExit_md {o : Mode} (hmode : s.md.mode = .maintain) (ho : s.md.origin = some o) :
    (s.maintainExit cause).md.mode = ((s.modeRow o).map (·.1)).getD o ∧ (s.maintainExit cause).md.cause = cause ∧
    (s.maintainExit cause).md.prev = .maintain ∧ (s.maintainExit cause).md.maint = none := by
  obtain ⟨h1, h2, h3, h4⟩ := s.setMode_md (((s.modeRow o).map (·.1)).getD o) cause
  unfold State.maintainExit
  rw [ho]
  exact ⟨h1, h2, h3.trans hmode, h4 hmode⟩

end

/-- Settles O4: an evaluation by the mode, then by the first row that holds. -/
theorem modeEvaluationFollowsTheTable : Obligations.ModeEvaluationFollowsTheTable := by
  intro s
  refine ⟨fun hhalt => ?halted, fun hrun hfld => ⟨s.refsNoted.evaluated, ?runs, fun dest cause hrow => ?row, fun hmode hnone => ?stay,
    fun m o hmode hm ho hend => ?ends, fun m hmode hm hend hbound => ?works⟩⟩
  case halted => rw [exec_modeEvaluation, State.modeEval_halted hhalt]
  case runs => rw [exec_modeEvaluation, State.modeEval_running hrun]
  case row =>
    have hmode : s.md.mode ≠ .maintain := by rintro hm; simp [hm] at hrow
    rw [State.evaluated_row (s := s.refsNoted) hmode ((State.modeRow_refsNoted hfld).2 hrow)]
    obtain ⟨h1, h2, h3, -⟩ := s.refsNoted.setMode_md dest cause
    exact ⟨h1, h2, h3⟩
  case stay =>
    rw [State.evaluated_no_row (s := s.refsNoted) hmode (State.modeRow_refsNoted_none hfld hnone),
      show s.refsNoted.outputsFollow = _ from s.refsNoted.outputsFollow_outputsOnly]
    exact ⟨rfl, rfl, rfl⟩
  case ends =>
    rw [State.evaluated_ends (s := s.refsNoted) hmode hm hend]
    obtain ⟨hto, hcause, hprev, hmaint⟩ := State.maintainExit_md (s := s.refsNoted) (cause := if m.ended then 0x22 else 0x23) hmode ho
    refine ⟨fun dest cause hrow => ?_, fun hnone => ?_, hcause, hprev, hmaint⟩
    · rw [hto, (State.modeRow_refsNoted hfld).2 hrow]; rfl
    · rw [hto, State.modeRow_refsNoted_none hfld hnone]; rfl
  case works =>
    rw [State.evaluated_maintain (s := s.refsNoted) hmode hm, hend, hbound]
    exact ⟨hmode, rfl⟩

end Sys2Proof.Machine
end

section
/-! SUPPORT. The calibrations of CALIBRATE: what each keeps, and how the last of them ends the mode. -/

namespace Sys2Proof.Machine

open Sys2Proof

section
variable {s : State} {hits : List (List Nat)} {n k : Nat}

theorem exec_tacCalibration (s : State) (hits : List (List Nat)) : exec (.tacCalibration hits) s = .next (s.tacCal hits) := rfl

theorem exec_stakeCalibration (s : State) (n : Nat) (main : StakeCal) (alt : Option StakeCal) :
    exec (.stakeCalibration n main alt) s = .next (s.stakeCal n main alt) := rfl

theorem exec_outputCalibration (s : State) : exec .outputCalibration s = .next s.outCal := rfl

/-! The end of CALIBRATE. -/

theorem State.startupStep_calibrate (hmode : s.md.mode = .calibrate) : s.startupStep = if s.calibrated then s.setMode .acquire 0x10 else s := by
  unfold State.startupStep State.calibrated
  simp [hmode, Bool.and_assoc]

theorem State.startupStep_missing (hmode : s.md.mode = .calibrate) (h : s.calibrated = false) : s.startupStep = s := by
  rw [State.startupStep_calibrate hmode, if_neg (by simp [h])]

theorem State.startupStep_last (hmode : s.md.mode = .calibrate) (h : s.calibrated = true) : s.startupStep = s.setMode .acquire 0x10 := by
  rw [State.startupStep_calibrate hmode, if_pos h]

/-- A step of start-up keeps what the calibrations have measured and noted. -/
theorem State.startupStep_keeps_calibrations (hmode : s.md.mode = .calibrate) :
    s.startupStep.tac = s.tac ∧ (∀ n, (s.startupStep.port n).stk = (s.port n).stk) ∧ s.startupStep.md.calTac = s.md.calTac ∧
    s.startupStep.md.calOut = s.md.calOut ∧ s.startupStep.md.calStk = s.md.calStk := by
  rw [State.startupStep_calibrate hmode]
  split
  · have hframe := s.setMode_entryFrame .acquire 0x10
    exact ⟨hframe.tac, hframe.portStk, by rw [hframe.md]; rfl, by rw [hframe.md]; rfl, by rw [hframe.md]; rfl⟩
  · exact ⟨rfl, fun _ => rfl, rfl, rfl, rfl⟩

theorem State.noteDegraded_eq (old new : State) : old.noteDegraded new = { new with hif := (old.noteDegraded new).hif } := by
  unfold State.noteDegraded
  split
  · exact new.cause_eq 6
  · rfl

/-- The step of start-up after a calibration that has ended in `u`, with a cause of the host noted. -/
theorem State.startupStep_ends {u w : State} (hw : w = { u with hif := w.hif }) (hmode : u.md.mode = .calibrate) :
    w.startupStep.tac = u.tac ∧ (∀ n, (w.startupStep.port n).stk = (u.port n).stk) ∧ w.startupStep.md.calTac = u.md.calTac ∧
    w.startupStep.md.calStk = u.md.calStk ∧ (u.calibrated = false → w.startupStep.md.mode = .calibrate) ∧
    (u.calibrated = true → w.startupStep.md.mode = .acquire ∧ w.startupStep.md.cause = 0x10) := by
  have hmd : w.md = u.md := by rw [hw]
  have hcal : w.calibrated = u.calibrated := by rw [hw]; rfl
  have hwmode : w.md.mode = .calibrate := by rw [hmd, hmode]
  obtain ⟨htac, hstk, hcalTac, -, hcalStk⟩ := State.startupStep_keeps_calibrations hwmode
  refine ⟨by rw [htac, hw], fun n => by rw [hstk, hw]; rfl, by rw [hcalTac, hmd], by rw [hcalStk, hmd], fun hmiss => ?_, fun hlast => ?_⟩
  · rw [State.startupStep_missing hwmode (hcal.trans hmiss), hwmode]
  · obtain ⟨hto, hcause, -⟩ := w.setMode_md .acquire 0x10
    rw [State.startupStep_last hwmode (hcal.trans hlast)]
    exact ⟨hto, hcause⟩

/-! The TACs. -/

/-- One TAC's table, in the order in which the calibration takes them. -/
def tableFrom (hits : List (List Nat)) (tables : List (List W32)) (k : Nat) : List (List W32) := putAt tables k (inlTable (hits.getD k []))

/-- One TAC calibrated: its table replaced, or its failure dealt with (R145, R149). -/
def State.calibrateTac (hits : List (List Nat)) (s : State) (k : Nat) : State :=
  if calPasses (hits.getD k []) then s.setTable k (inlTable (hits.getD k [])) else s.tacFailCal k

/-- The order of the TACs: the spares, then the positions but for the last, then the TAC of the GNSS epoch strobe. -/
def tacsBeforeLast : List Nat := [29, 30, 31, 32] ++ List.range 28

theorem State.calibrateTacs_eq (s : State) (hits : List (List Nat)) :
    s.calibrateTacs hits = (tacsBeforeLast.foldl (State.calibrateTac hits) s).calibrateTac hits 28 := rfl

theorem State.calibrateTac_passes (h : calPasses (hits.getD k []) = true) :
    s.calibrateTac hits k = { s with tac := { s.tac with tables := tableFrom hits s.tac.tables k } } := if_pos h

theorem State.calibrateTacs_pass {l : List Nat} (h : ∀ k ∈ l, calPasses (hits.getD k []) = true) :
    l.foldl (State.calibrateTac hits) s = { s with tac := { s.tac with tables := l.foldl (tableFrom hits) s.tac.tables } } := by
  induction l generalizing s with
  | nil => rfl
  | cons k l ih =>
    rw [List.foldl_cons, State.calibrateTac_passes (h k (List.mem_cons_self ..)), ih fun j hj => h j (List.mem_cons_of_mem _ hj)]
    rfl

/-- Each TAC that was taken has the table of its hits, whatever was taken after it. -/
theorem tablesFrom_getD (l : List Nat) (tables : List (List W32)) (hk : k < tables.length) :
    (l.foldl (tableFrom hits) tables).getD k [] = if k ∈ l then inlTable (hits.getD k []) else tables.getD k [] := by
  induction l generalizing tables with
  | nil => rfl
  | cons j l ih =>
    rw [List.foldl_cons, ih _ (by rwa [tableFrom, putAt_length])]
    by_cases hmem : k ∈ l
    · rw [if_pos hmem, if_pos (List.mem_cons_of_mem _ hmem)]
    · by_cases hkj : k = j
      · subst hkj
        rw [if_neg hmem, if_pos (List.mem_cons_self ..), tableFrom, putAt, List.getD_eq_getElem _ _ (by simpa using hk), List.getElem_set_self]
      · rw [if_neg hmem, if_neg (by simp [hkj, hmem]), tableFrom, putAt, List.getD_eq_getElem?_getD, List.getElem?_set_ne (Ne.symm hkj),
          List.getD_eq_getElem?_getD]

theorem mem_tacsBeforeLast : k ∈ tacsBeforeLast ↔ k < 33 ∧ k ≠ 28 := by
  simp only [tacsBeforeLast, List.mem_append, List.mem_cons, List.not_mem_nil, or_false, List.mem_range]
  omega

/-- All 33 TACs pass: each has the table of its hits. -/
theorem State.calibrateTacs_all (h : ∀ k < 33, calPasses (hits.getD k []) = true) :
    (s.calibrateTacs hits).tac = { s.tac with tables := tableFrom hits (tacsBeforeLast.foldl (tableFrom hits) s.tac.tables) 28 } ∧
    (s.calibrateTacs hits).md = s.md := by
  rw [s.calibrateTacs_eq, State.calibrateTacs_pass fun k hk => h k (mem_tacsBeforeLast.1 hk).1, State.calibrateTac_passes (h 28 (by decide))]
  generalize tacsBeforeLast.foldl (tableFrom hits) s.tac.tables = tables
  exact ⟨rfl, rfl⟩

theorem tablesFrom_last_getD {tables : List (List W32)} (hlen : tables.length = 33) (hk : k < 33) :
    (tableFrom hits (tacsBeforeLast.foldl (tableFrom hits) tables) 28).getD k [] = inlTable (hits.getD k []) := by
  have happ := List.foldl_append (f := tableFrom hits) (b := tables) (l := tacsBeforeLast) (l' := [28])
  rw [List.foldl_cons, List.foldl_nil] at happ
  rw [← happ, tablesFrom_getD _ _ (by omega), if_pos]
  rw [List.mem_append, mem_tacsBeforeLast, List.mem_singleton]
  omega

theorem State.calibrateTac_fails (h : calPasses (hits.getD k []) = false) : s.calibrateTac hits k = s.tacFailCal k :=
  if_neg (by rw [h]; decide)

theorem State.tacFailCal_strobe (hpos : s.tac.posTac = List.range 29) :
    (s.tacFailCal 28).tac.posTac = putAt s.tac.posTac 28 (s.tac.spare.getD 3 63) ∧
    (s.tacFailCal 28).tac.spare = putAt s.tac.spare 3 63 ∧
    (s.tacFailCal 28).tac.failed = s.tac.failed + 1 ∧ (s.tacFailCal 28).md = s.md := by
  have hfind : (List.range 29).findIdx? (· == 28) = some 28 := by decide
  unfold State.tacFailCal
  simp only [State.faultReport_tac, hpos, hfind]
  exact ⟨rfl, rfl, trivial, State.faultReport_md ..⟩

/-- The TAC of the GNSS epoch strobe alone fails, and is replaced by its group's spare. -/
theorem State.calibrateTacs_strobe (hfail : calPasses (hits.getD 28 []) = false)
    (h : ∀ k < 33, k ≠ 28 → calPasses (hits.getD k []) = true) (hpos : s.tac.posTac = List.range 29) :
    (s.calibrateTacs hits).tac.posTac = putAt s.tac.posTac 28 (s.tac.spare.getD 3 63) ∧
    (s.calibrateTacs hits).tac.spare = putAt s.tac.spare 3 63 ∧
    (s.calibrateTacs hits).tac.failed = s.tac.failed + 1 ∧ (s.calibrateTacs hits).md = s.md := by
  rw [s.calibrateTacs_eq, State.calibrateTacs_pass fun k hk => h k (mem_tacsBeforeLast.1 hk).1 (mem_tacsBeforeLast.1 hk).2,
    State.calibrateTac_fails hfail]
  exact State.tacFailCal_strobe hpos

/-! The three commands. -/

/-- A calibration of the TACs that is taken, for whatever the calibrations of each of them come to. -/
theorem exec_tacCalibration_taken (hmode : s.md.mode = .calibrate) (hcal : s.md.calTac = false)
    (hsum : ∀ k < 33, (hits.getD k []).sum = 4194304) (hmd : (s.calibrateTacs hits).md = s.md) :
    ∃ t, exec (.tacCalibration hits) s = .next t ∧ t.md.calTac = true ∧ t.tac = (s.calibrateTacs hits).tac ∧
      ((s.md.calOut && s.md.calStk.all id) = false → t.md.mode = .calibrate) ∧
      ((s.md.calOut && s.md.calStk.all id) = true → t.md.mode = .acquire ∧ t.md.cause = 0x10) := by
  have hall : ((List.range 33).all fun k => (hits.getD k []).sum == 4194304) = true := by
    simpa only [List.all_eq_true, List.mem_range, beq_iff_eq] using hsum
  refine ⟨_, exec_tacCalibration s hits, ?_⟩
  rw [State.tacCal, if_neg (by rw [hmode, hcal, hall]; decide)]
  generalize s.calibrateTacs hits = u at hmd ⊢
  obtain ⟨htac, -, hcalTac, -, hmiss, hlast⟩ := State.startupStep_ends (State.noteDegraded_eq s
    { u with md := { u.md with calTac := true }, fmu := { u.fmu with tacDeg := u.fmu.tacDeg || u.tinOnOne } }) (by rw [← hmode, ← hmd])
  have hdone : State.calibrated { u with md := { u.md with calTac := true }, fmu := { u.fmu with tacDeg := u.fmu.tacDeg || u.tinOnOne } } =
      (s.md.calOut && s.md.calStk.all id) := by rw [← hmd]; rfl
  rw [hdone] at hmiss hlast
  exact ⟨hcalTac, htac, hmiss, hlast⟩

/-- The Stake's own record after a calibration that measured `main`. -/
theorem State.stakeCal_taken {main : StakeCal} {alt : Option StakeCal} (hmode : s.md.mode = .calibrate)
    (hcal : s.md.calStk.getD n true = false) : ∃ f u, s.stakeCal n main alt = (s.noteDegraded u).startupStep ∧
      u.ports = updAt s.ports n f ∧ u.md = { s.md with calStk := putAt s.md.calStk n true } ∧
      ∀ p, (f p).stk.calOk = (calDelays n (s.cfgSpeed n) main).2.2 ∧ (f p).stk.txCal = setMean main.transmit ∧
        (f p).stk.rxCal = (calDelays n (s.cfgSpeed n) main).1.toNat := by
  rw [State.stakeCal, if_neg (by rw [hmode, hcal]; decide)]
  exact ⟨_, _, rfl, rfl, rfl, fun _ => ⟨rfl, rfl, rfl⟩⟩

theorem exec_stakeCalibration_taken {main : StakeCal} {alt : Option StakeCal} (hmode : s.md.mode = .calibrate)
    (hports : n < s.ports.length) (hcal : s.md.calStk.getD n true = false) :
    ∃ t, exec (.stakeCalibration n main alt) s = .next t ∧ t.md.calStk = putAt s.md.calStk n true ∧
      (t.port n).stk.calOk = (calDelays n (s.cfgSpeed n) main).2.2 ∧ (t.port n).stk.txCal = setMean main.transmit ∧
      (t.port n).stk.rxCal = (calDelays n (s.cfgSpeed n) main).1.toNat ∧
      ((s.md.calTac && s.md.calOut && (putAt s.md.calStk n true).all id) = false → t.md.mode = .calibrate) ∧
      ((s.md.calTac && s.md.calOut && (putAt s.md.calStk n true).all id) = true → t.md.mode = .acquire ∧ t.md.cause = 0x10) := by
  obtain ⟨f, u, htaken, huports, humd, hf⟩ := State.stakeCal_taken (s := s) (main := main) (alt := alt) hmode hcal
  obtain ⟨-, hstk, -, hcalStk, hmiss, hlast⟩ := State.startupStep_ends (s.noteDegraded_eq u) (by rw [humd]; exact hmode)
  have hport : u.port n = f (s.port n) := by
    rw [← State.port_setPort_self (s := s) (f := f) hports]
    exact congrArg (fun ps : List PortSt => ps.getD n PortSt.reset) huports
  have hdone : u.calibrated = (s.md.calTac && s.md.calOut && (putAt s.md.calStk n true).all id) := by rw [State.calibrated, humd]
  obtain ⟨hok, htx, hrx⟩ := hf (s.port n)
  refine ⟨_, exec_stakeCalibration s n main alt, ?_⟩
  rw [htaken, hstk, hport, hcalStk, humd, ← hdone]
  exact ⟨rfl, hok, htx, hrx, hmiss, hlast⟩

theorem exec_outputCalibration_taken (hmode : s.md.mode = .calibrate) (hcal : s.md.calOut = false) :
    exec .outputCalibration s = .next (State.startupStep { s with md := { s.md with calOut := true } }) := by
  rw [exec_outputCalibration, State.outCal, if_neg (by rw [hmode, hcal]; decide)]

end

/-- Settles O18: each calibration by what it keeps, then by whether it was the last. -/
theorem calibrationsEndCalibrate : Obligations.CalibrationsEndCalibrate := by
  intro s hmode hports
  refine ⟨fun hits hcal hlen hsum => ⟨fun hpass => ?pass, fun hfail hpass hpos hspare => ?strobe⟩,
    fun n main alt hn hcal => exec_stakeCalibration_taken hmode (by omega) hcal, fun hcal => ?out⟩
  case pass =>
    obtain ⟨hall, hmd⟩ := State.calibrateTacs_all (s := s) hpass
    obtain ⟨t, hnext, hdone, htac, hmiss, hlast⟩ := exec_tacCalibration_taken hmode hcal hsum hmd
    rw [hall] at htac
    have htables : t.tac.tables = tableFrom hits (tacsBeforeLast.foldl (tableFrom hits) s.tac.tables) 28 := by rw [htac]
    exact ⟨t, hnext, hdone, by rw [htac], by rw [htac], fun k hk => by rw [htables, tablesFrom_last_getD hlen hk], hmiss, hlast⟩
  case strobe =>
    obtain ⟨hposTac, hspareOut, hfailed, hmd⟩ := State.calibrateTacs_strobe hfail hpass hpos
    obtain ⟨t, hnext, hdone, htac, -⟩ := exec_tacCalibration_taken hmode hcal hsum hmd
    exact ⟨t, hnext, hdone, by rw [htac, hposTac, hspare], by rw [htac, hspareOut], by rw [htac, hfailed]⟩
  case out =>
    rw [exec_outputCalibration_taken hmode hcal]
    obtain ⟨u, hu⟩ : ∃ u : State, u = { s with md := { s.md with calOut := true } } := ⟨_, rfl⟩
    have humd : u.md = { s.md with calOut := true } := by rw [hu]
    have hmode : u.md.mode = .calibrate := by rw [humd]; exact hmode
    have hdone : u.calibrated = (s.md.calTac && s.md.calStk.all id) := by rw [State.calibrated, humd, Bool.and_true]
    obtain ⟨hto, hcause, -⟩ := u.setMode_md .acquire 0x10
    rw [← hu, ← hdone]
    refine ⟨_, rfl, ?_, fun hmiss => State.startupStep_missing hmode hmiss, fun hlast => ?_⟩
    · rw [(State.startupStep_keeps_calibrations hmode).2.2.2.1, humd]
    · rw [State.startupStep_last hmode hlast]
      exact ⟨hto, hcause⟩

end Sys2Proof.Machine
end

section
/-! SUPPORT. Muting visits the 16 outputs that the part has: a PPSOUT of a number beyond them is left as it is. -/

namespace Sys2Proof.Machine

open Sys2Proof

section
variable {s : State} {m : Nat}

theorem exec_ppsPulseEnd (s : State) (m : Nat) : exec (.ppsPulseEnd m) s = .next (s.ppsEnd m) := rfl

theorem State.setMuted_ppsAt_of_ne {b : Bool} {o : OutId} (h : o ≠ .pps m) : (s.setMuted b o).ppsAt m = s.ppsAt m := by
  cases o with
  | clk n => rfl
  | tod => rfl
  | gpps => rfl
  | pps k =>
    have hne : k ≠ m := fun hkm => h (congrArg OutId.pps hkm)
    simp only [State.setMuted, State.ppsAt, State.setPps_out, updAt, List.getD_eq_getElem?_getD, List.getElem?_modify_ne _ _ hne]

/-- A round of muting over a list of outputs does not touch a PPSOUT that is not in it. -/
theorem muteAll_ppsAt_of_not_mem {os : List OutId} (h : .pps m ∉ os) :
    (os.foldl (fun s o => if s.wantMuted o && !s.midPulse o then s.setMuted true o else s) s).ppsAt m = s.ppsAt m := by
  induction os generalizing s with
  | nil => rfl
  | cons o os ih =>
    obtain ⟨hne, hmem⟩ := not_or.1 (mt List.mem_cons.2 h)
    rw [List.foldl_cons, ih hmem]
    split
    · exact State.setMuted_ppsAt_of_ne (Ne.symm hne)
    · rfl

theorem State.applyMute_ppsAt_beyond (h : .pps m ∉ allOuts) : s.applyMute.ppsAt m = s.ppsAt m := muteAll_ppsAt_of_not_mem h

end

/-- A state with a fifth PPSOUT, which `State.wf` rules out and the statement does not: in BOOT, in mid-pulse, unmuted, its width run. -/
def fifthPulse : State :=
  { State.reset with out := { OutSt.reset with pps := OutSt.reset.pps ++ [{ PpsOut.reset with muted := false, high := true, width := 0 }] } }

theorem fifthPulse_wantMuted : fifthPulse.wantMuted (.pps 4) = true := Bool.or_true _

/-- The fifth pulse ends, and what waited for its end is not muted: muting visits PPSOUT 0 to 3. -/
theorem fifthPulse_ends_unmuted : ((fifthPulse.ppsEnd 4).ppsAt 4).muted = false := by
  rw [State.ppsEnd, if_pos (by decide), State.applyMute_ppsAt_beyond (by decide)]
  rfl

/-- Refutes O29: it bounds neither the number of the output nor the length of the list of outputs (`State.wf` is no hypothesis), and at the end of the pulse of a
fifth PPSOUT that BOOT is to mute, the output is not muted, since muting visits the four that the part has. -/
theorem not_pulseEdgesPassTheComparisonOrAreSuppressed : ¬ Obligations.PulseEdgesPassTheComparisonOrAreSuppressed := by
  intro h
  obtain ⟨-, -, hend, -⟩ := h fifthPulse 4
  obtain ⟨t, hnext, -, -, hmuted, -⟩ := hend rfl (Nat.le_refl 0)
  obtain rfl : fifthPulse.ppsEnd 4 = t := Host.Outcome.next.inj ((exec_ppsPulseEnd fifthPulse 4).symm.trans hnext)
  exact absurd (hmuted fifthPulse_wantMuted) (by rw [fifthPulse_ends_unmuted]; decide)

end Sys2Proof.Machine
end

section
/-! SUPPORT. The loader of the configuration slots: the codes of an image, what an attempt on a slot leaves, and the end of BOOT. -/

namespace Sys2Proof.Machine

open Sys2Proof

theorem exec_slotLoad (puf fa fb : Bool) (s : State) : exec (.slotLoad puf fa fb) s = .next (s.bootLoad puf fa fb) := rfl

/-! The failures of an image: each has a code of its own, and none has the code of a slot that loads. -/

/-- Whether a check, where it fails, fails with a code other than 0. -/
def Coded (e : Except Nat Img) : Prop := e ≠ .error 0

theorem coded_ok (g : Img) : Coded (.ok g) := nofun

theorem coded_error {c : Nat} (h : c ≠ 0) : Coded (.error c) := fun e => h (Except.error.inj e)

theorem Coded.ite {p : Prop} [Decidable p] {a b : Except Nat Img} (ha : Coded a) (hb : Coded b) : Coded (if p then a else b) := by
  split <;> assumption

theorem ownerCheck_coded (fuses : List (List Byte)) (seq : Nat) (g : Img) : Coded (ownerCheck fuses seq g) := by
  unfold ownerCheck
  split
  · exact coded_ok _
  · refine .ite (coded_ok _) ?_
    split
    · exact coded_error (by decide)
    · exact .ite (coded_error (by decide)) (.ite (coded_error (by decide)) (coded_ok _))

theorem fwCheck_coded (g : Img) : Coded (fwCheck g) := .ite (coded_error (by decide)) (coded_ok _)

theorem regEntry_coded (g : Img) (off : Nat) (mask v : W32) : Coded (regEntry g off mask v) := .ite (coded_error (by decide)) (coded_ok _)

theorem regEntries_coded (w n : Nat) (p : List Byte) (g : Img) : Coded (regEntries w n p g) := by
  induction n generalizing p g with
  | zero => exact coded_ok _
  | succ n ih =>
    unfold regEntries
    dsimp only
    split
    · rename_i he
      exact he ▸ regEntry_coded _ _ _ _
    · exact ih _ _

theorem takeRecord_coded (fuses : List (List Byte)) (seq typ : Nat) (p : List Byte) (g : Img) : Coded (takeRecord fuses seq typ p g) := by
  unfold takeRecord
  split
  · exact coded_ok _
  · exact ownerCheck_coded _ _ _
  · exact coded_ok _
  · exact regEntries_coded _ _ _ _
  · exact regEntries_coded _ _ _ _
  · exact .ite (coded_ok _) (coded_error (by decide))
  · exact coded_ok _
  · exact .ite (coded_ok _) (coded_error (by decide))
  · exact .ite (coded_error (by decide)) (coded_ok _)
  · exact coded_ok _
  · exact coded_ok _

theorem records_coded (fuses : List (List Byte)) (seq count len k ix off prev : Nat) (bs : List Byte) (g : Img) :
    Coded (records fuses seq count len k ix off prev bs g) := by
  induction k generalizing ix off prev bs g with
  | zero => exact coded_error (by decide)
  | succ k ih =>
    unfold records
    extract_lets +onlyGivenNames typ due
    have hdue : Coded due := .ite (ownerCheck_coded _ _ _) (.ite (fwCheck_coded _) (coded_ok _))
    clear_value due typ
    split
    · exact hdue
    · exact coded_error (by decide)
    · extract_lets
      refine .ite (coded_error (by decide)) (.ite (.ite (coded_ok _) (coded_error (by decide))) ?_)
      split
      · rename_i he
        exact he ▸ takeRecord_coded _ _ _ _ _
      · exact .ite (coded_error (by decide)) (ih _ _ _ _ _)

theorem parseImage_coded (fuses : List (List Byte)) (bs : List Byte) : Coded (parseImage fuses bs) := records_coded _ _ _ _ _ _ _ _ _ _

section
variable {r s t : State} {k : Nat} {puf fault fb : Bool} {fuses : List (List Byte)} {bs : List Byte} {c : Nat}

theorem parseImage_error_ne_zero (h : parseImage fuses bs = .error c) : c ≠ 0 := by
  rintro rfl
  exact parseImage_coded fuses bs h

/-! What loading leaves alone: the active registers, the block GLB, the mode and the loader's own record. -/

/-- Step 4 of R76 works on the key store and the curves: all this stands. -/
structure State.LoadFrame (s t : State) : Prop where
  act : t.act = s.act
  glb : t.glb = s.glb
  md : t.md = s.md
  cfg : t.cfg = s.cfg

theorem State.LoadFrame.refl (s : State) : s.LoadFrame s := ⟨rfl, rfl, rfl, rfl⟩

theorem State.LoadFrame.trans (a : r.LoadFrame s) (b : s.LoadFrame t) : r.LoadFrame t :=
  ⟨b.act.trans a.act, b.glb.trans a.glb, b.md.trans a.md, b.cfg.trans a.cfg⟩

theorem State.LoadFrame.foldl {α : Type} {f : State → α → State} {l : List α} (hf : ∀ u x, State.LoadFrame u (f u x)) (s : State) :
    s.LoadFrame (l.foldl f s) := by
  induction l generalizing s with
  | nil => exact .refl s
  | cons x l ih => exact (hf s x).trans (ih (f s x))

theorem State.log_loadFrame (s : State) (typ : Nat) (body : List Byte) : s.LoadFrame (s.log typ body) :=
  ⟨s.log_act .., s.log_glb .., s.log_md .., s.log_cfg ..⟩

theorem State.logStart_loadFrame (s : State) : s.LoadFrame s.logStart := s.log_loadFrame ..

theorem State.bootKey_loadFrame (s : State) (k typ curve policy : Nat) : s.LoadFrame (s.bootKey k typ curve policy) := ⟨rfl, rfl, rfl, rfl⟩

theorem State.loadCurve_loadFrame (s : State) (q : List Byte) : s.LoadFrame (s.loadCurve q) := ⟨rfl, rfl, rfl, rfl⟩

theorem State.unseal_loadFrame (h : s.unseal puf = some t) : s.LoadFrame t := by
  unfold State.unseal at h
  extract_lets _ s1 s2 at h
  have h2 : s.LoadFrame s2 := by
    unfold s2
    split
    · exact .trans (s := s1) ⟨rfl, rfl, rfl, rfl⟩ ((s1.bootKey_loadFrame 0 3 4 1).trans (State.bootKey_loadFrame _ 4 2 3 2))
    · exact ⟨rfl, rfl, rfl, rfl⟩
  clear_value s2
  split at h
  · exact nomatch h
  · exact Option.some.inj h ▸ h2.trans ⟨rfl, rfl, rfl, rfl⟩

theorem State.importAll_loadFrame {l : List (List Byte)} (h : s.importAll l = some t) : s.LoadFrame t := by
  induction l generalizing s with
  | nil => exact Option.some.inj h ▸ .refl s
  | cons p ps ih =>
    unfold State.importAll at h
    split at h
    · exact nomatch h
    · split at h
      · exact nomatch h
      · split at h
        · exact nomatch h
        · exact .trans (s := s.fillSlot _ _) ⟨rfl, rfl, rfl, rfl⟩ (ih h)

theorem State.reloadModel_loadFrame (s : State) : s.LoadFrame s.reloadModel := by
  unfold State.reloadModel
  extract_lets _ pick _
  clear_value pick
  split
  · split
    · exact ⟨rfl, rfl, rfl, rfl⟩
    · exact .refl s
  · exact .refl s

theorem State.putExtras_loadFrame (s : State) (regs : RegMap) : s.LoadFrame (s.putExtras regs) := ⟨rfl, rfl, rfl, rfl⟩

/-- A slot released is the slot in force; the codes of the slots, the mode and GLB stand. -/
theorem State.release_leaves (s : State) (k : Nat) (fb : Bool) (g : Img) (act : RegMap) :
    (s.release k fb g act).md = s.md ∧ (s.release k fb g act).glb = s.glb ∧ (s.release k fb g act).cfg.slot = k ∧
    (s.release k fb g act).cfg.fallback = fb ∧ (s.release k fb g act).cfg.codeA = s.cfg.codeA ∧
    (s.release k fb g act).cfg.codeB = s.cfg.codeB := by
  unfold State.release
  extract_lets clk pps _ _ _ _ _ _ s1 s2 s3
  have hframe : s1.LoadFrame ((List.range 5).foldl (fun s n => if s.bwWin n = 0 then s else s.bwStart n) s3) := by
    refine .trans (.trans (s1.putExtras_loadFrame g.regs) (State.reloadModel_loadFrame _)) (.trans (s := s3) ⟨rfl, rfl, rfl, rfl⟩ (.foldl ?_ s3))
    intro u n
    split
    · exact .refl u
    · exact ⟨rfl, rfl, rfl, rfl⟩
  have h1 : s1.md = s.md ∧ s1.glb = s.glb ∧ s1.cfg.slot = k ∧ s1.cfg.fallback = fb ∧ s1.cfg.codeA = s.cfg.codeA ∧
    s1.cfg.codeB = s.cfg.codeB := ⟨rfl, rfl, rfl, rfl, rfl, rfl⟩
  rw [hframe.md, hframe.glb, hframe.cfg]
  exact h1

/-! One attempt on a slot. -/

/-- What an attempt on slot `k` leaves, by its outcome (R76, R77). -/
structure State.Attempt (s : State) (k : Nat) (fb : Bool) (r : State × Nat × Bool) : Prop where
  md : r.1.md = s.md
  glb : r.1.glb = s.glb
  codeA : r.1.cfg.codeA = s.cfg.codeA
  codeB : r.1.cfg.codeB = s.cfg.codeB
  loaded : r.2.1 = 0 → r.1.cfg.slot = k ∧ r.1.cfg.fallback = fb
  failed : r.2.1 ≠ 0 → r.1.cfg.slot = s.cfg.slot

theorem State.attempt_of_failure (h : s.LoadFrame t) (hc : c ≠ 0) (x : Bool) : s.Attempt k fb (t, c, x) :=
  ⟨h.md, h.glb, by rw [h.cfg], by rw [h.cfg], fun h0 => absurd h0 hc, fun _ => by rw [h.cfg]⟩

theorem State.trySlot_attempt (s : State) (k : Nat) (fb puf fault : Bool) : s.Attempt k fb (s.trySlot k fb puf fault) := by
  unfold State.trySlot
  extract_lets hdr
  split
  · exact ⟨rfl, rfl, rfl, rfl, fun h => absurd h (by decide : (0x32 : Nat) ≠ 0), fun _ => rfl⟩
  split
  · exact State.attempt_of_failure (.refl s) ‹_› _
  split
  · exact State.attempt_of_failure (.refl s) (parseImage_error_ne_zero ‹_›) _
  rename_i g hg
  extract_lets sig act
  split
  · exact State.attempt_of_failure (.refl s) ‹_› _
  split
  · exact ⟨rfl, rfl, rfl, rfl, fun h => absurd h (by decide : (0x32 : Nat) ≠ 0), fun _ => rfl⟩
  rename_i s1 hs1
  have h1 := State.unseal_loadFrame hs1
  split
  · exact State.attempt_of_failure h1 (by decide) _
  rename_i s2 hs2
  extract_lets v
  split
  · exact State.attempt_of_failure h1 ‹_› _
  split
  · exact State.attempt_of_failure h1 (by decide) _
  have h2 := (h1.trans (.foldl State.loadCurve_loadFrame s1)).trans (State.importAll_loadFrame hs2)
  obtain ⟨hmd, hglb, hslot, hfb, hA, hB⟩ := s2.release_leaves k fb g act
  exact ⟨hmd.trans h2.md, hglb.trans h2.glb, by rw [hA, h2.cfg], by rw [hB, h2.cfg], fun _ => ⟨hslot, hfb⟩, fun h => absurd rfl h⟩

/-- The code that a slot shows. -/
def State.slotCode (s : State) (k : Nat) : Nat := if k = 1 then s.cfg.codeA else s.cfg.codeB

/-- What the attempt on slot `k` and the record of its code leave. -/
structure State.Attempted (s : State) (k : Nat) (fb : Bool) (c : Nat) (t : State) : Prop where
  md : t.md = s.md
  glb : t.glb = s.glb
  code : t.slotCode k = c
  other : t.slotCode (3 - k) = s.slotCode (3 - k)
  loaded : c = 0 → t.cfg.slot = k ∧ t.cfg.fallback = fb
  failed : c ≠ 0 → t.cfg.slot = s.cfg.slot

theorem State.putCode_attempted {x : State × Nat × Bool} (hk : k = 1 ∨ k = 2) (h : s.Attempt k fb x) :
    s.Attempted k fb x.2.1 (x.1.putCode k x.2.1) := by
  obtain ⟨hmd, hglb, hA, hB, hloaded, hfailed⟩ := h
  obtain rfl | rfl := hk
  · exact ⟨hmd, hglb, rfl, hB, hloaded, hfailed⟩
  · exact ⟨hmd, hglb, rfl, hA, hloaded, hfailed⟩

/-! Both slots in their order. -/

/-- The slot that is tried first (R61). -/
def State.firstSlot (s : State) : Nat := if s.slotSeq 2 ≤ s.slotSeq 1 then 1 else 2

def State.firstTry (s : State) (puf : Bool) (fault : Nat → Bool) : State × Nat × Bool :=
  s.trySlot s.firstSlot false puf (fault s.firstSlot)

def State.firstTried (s : State) (puf : Bool) (fault : Nat → Bool) : State :=
  (s.firstTry puf fault).1.putCode s.firstSlot (s.firstTry puf fault).2.1

def State.secondTry (s : State) (puf : Bool) (fault : Nat → Bool) : State × Nat × Bool :=
  (s.firstTried puf fault).trySlot (3 - s.firstSlot) true puf (fault (3 - s.firstSlot))

def State.secondTried (s : State) (puf : Bool) (fault : Nat → Bool) : State :=
  (s.secondTry puf fault).1.putCode (3 - s.firstSlot) (s.secondTry puf fault).2.1

theorem State.firstSlot_cases (s : State) : s.firstSlot = 1 ∨ s.firstSlot = 2 := by
  unfold State.firstSlot
  split
  · exact .inl rfl
  · exact .inr rfl

theorem State.loadSlots_eq (s : State) (puf : Bool) (fault : Nat → Bool) : s.loadSlots puf fault =
    if (s.firstTry puf fault).2.1 = 0 then (s.firstTried puf fault).logStart
    else if (s.secondTry puf fault).2.1 = 0 then (s.secondTried puf fault).logStart
    else (s.secondTried puf fault).loadFailed (if (s.secondTry puf fault).2.2 then 0x32 else 0x31) := rfl

theorem State.firstTried_attempted (s : State) (puf : Bool) (fault : Nat → Bool) :
    s.Attempted s.firstSlot false (s.firstTry puf fault).2.1 (s.firstTried puf fault) :=
  State.putCode_attempted s.firstSlot_cases (s.trySlot_attempt ..)

theorem State.secondTried_attempted (s : State) (puf : Bool) (fault : Nat → Bool) :
    (s.firstTried puf fault).Attempted (3 - s.firstSlot) true (s.secondTry puf fault).2.1 (s.secondTried puf fault) :=
  State.putCode_attempted (by have := s.firstSlot_cases; omega) (State.trySlot_attempt ..)

/-! The end of SLOT_LOAD. -/

/-- The conditions under which Bodkin's loader starts (R44). -/
def State.loaderStarts (s : State) : Prop :=
  s.inReset = false ∧ s.md.mode = .boot ∧ s.glb.pllLocked = true ∧ s.cfg.slot = 0 ∧ (s.isl 0).st = .inService ∧ (s.isl 1).st = .inService

theorem State.log_recovery (s : State) (typ : Nat) (body : List Byte) : (s.log typ body).mgt.recovery = s.mgt.recovery := by
  unfold State.log
  split <;> rfl

/-- A load that has failed leads to SAFE: the record of the loader, its codes and the active registers stand. -/
theorem State.loadFailed_entered (h : s.md.mode ≠ .safe) :
    (s.loadFailed c).md.mode = .safe ∧ (s.loadFailed c).md.cause = c ∧ (s.loadFailed c).fmu.gate = true ∧
    (s.loadFailed c).fmu.lastCause = c ∧ (s.loadFailed c).cfg = s.cfg ∧ (s.loadFailed c).act = s.act ∧
    (s.loadFailed c).mgt.recovery = true := by
  unfold State.loadFailed
  extract_lets _ s1
  have hframe : s.LoadFrame s1.logStart := .trans (s := s1) ⟨rfl, rfl, rfl, rfl⟩ s1.logStart_loadFrame
  have hrecovery : s1.logStart.mgt.recovery = true := s1.log_recovery ..
  generalize s1.logStart = u at hframe hrecovery ⊢
  have hu : u.md.mode ≠ .safe := by rwa [hframe.md]
  obtain ⟨hmode, hcause, -, -, -, -, hgate, -, hlast, -, -, -, -, hact, -, hcfg, -, -⟩ :=
    State.safeReaction_entered (tag := 0) (cause := c) (pathB := false) hu
  obtain ⟨-, hrec, -⟩ := State.safeReaction_leaves (tag := 0) (cause := c) (pathB := false) hu
  exact ⟨hmode, hcause, hgate, hlast, hcfg.trans hframe.cfg, hact.trans hframe.act, hrec.trans hrecovery⟩

theorem State.bootLoad_unfit {fa fb : Bool} (h : s.loaderStarts) (hfits : s.flashFits = false) :
    s.bootLoad puf fa fb = State.loadFailed { s with cfg := { s.cfg with codeA := 0x30, codeB := 0x30 } } 0x31 := by
  obtain ⟨hreset, hmode, hpll, hslot, h0, h1⟩ := h
  rw [State.bootLoad, hreset, hmode, hpll, hslot, h0, h1, hfits]
  rfl

/-- Whether the load of a slot meets a fault (R93), by the slot. -/
def slotFault (fa fb : Bool) (k : Nat) : Bool := if k = 1 then fa else fb

theorem slotFault_second (h : k = 1 ∨ k = 2) (fa fb : Bool) : slotFault fa fb (3 - k) = if k = 1 then fb else fa := by
  obtain rfl | rfl := h <;> rfl

/-- The loader's run as SLOT_LOAD sees it end: in BOOT with a slot in force, or in SAFE. -/
theorem State.bootLoad_fit {fa fb : Bool} (h : s.loaderStarts) (hfits : s.flashFits = true)
    (hu : s.readHeaders.loadSlots puf (slotFault fa fb) = t) : s.bootLoad puf fa fb =
      if t.md.mode == .boot then State.startupStep { t with glb := { t.glb with bootStep := 6, loaderSlot := t.cfg.slot } } else t := by
  obtain ⟨hreset, hmode, hpll, hslot, h0, h1⟩ := h
  subst hu
  rw [State.bootLoad, hreset, hmode, hpll, hslot, h0, h1, hfits]
  rfl

/-- BOOT with a slot in force ends with the self-test (R35). -/
theorem State.startupStep_boot (hmode : s.md.mode = .boot) (hslot : s.cfg.slot ≠ 0) :
    s.startupStep.act = s.act ∧ s.startupStep.cfg = s.cfg ∧ s.startupStep.md.mode = if s.glb.bistDone then .calibrate else .boot := by
  unfold State.startupStep
  cases hbist : s.glb.bistDone
  · simp [hmode]
  · have hframe := s.setMode_entryFrame .calibrate 0x10
    obtain ⟨hto, -⟩ := s.setMode_md .calibrate 0x10
    simpa [hmode, hslot] using ⟨hframe.act, hframe.cfg, hto⟩

/-- SLOT_LOAD of which an attempt has loaded slot `k`: `u` is the loader's state after it. -/
theorem State.bootLoad_loaded {u : State} {fa fb : Bool} (h : s.loaderStarts) (hfits : s.flashFits = true)
    (hu : s.readHeaders.loadSlots puf (slotFault fa fb) = u.logStart) (hmode : u.md.mode = .boot) (hslot : u.cfg.slot ≠ 0) :
    (s.bootLoad puf fa fb).act = u.act ∧ (s.bootLoad puf fa fb).cfg = u.cfg ∧
    (s.bootLoad puf fa fb).md.mode = if u.glb.bistDone then .calibrate else .boot := by
  have hframe := u.logStart_loadFrame
  rw [State.bootLoad_fit h hfits hu]
  generalize u.logStart = w at hframe ⊢
  have hw : w.md.mode = .boot := by rw [hframe.md, hmode]
  obtain ⟨hact, hcfg, hto⟩ := State.startupStep_boot (s := { w with glb := { w.glb with bootStep := 6, loaderSlot := w.cfg.slot } })
    hw (by rw [hframe.cfg]; exact hslot)
  rw [hw, if_pos (by decide)]
  exact ⟨hact.trans hframe.act, hcfg.trans hframe.cfg, hto.trans (by rw [hframe.glb])⟩

theorem State.bootLoad_failed {u : State} {fa fb : Bool} (h : s.loaderStarts) (hfits : s.flashFits = true)
    (hu : s.readHeaders.loadSlots puf (slotFault fa fb) = u) (hmode : u.md.mode = .safe) : s.bootLoad puf fa fb = u := by
  rw [State.bootLoad_fit h hfits hu, hmode, if_neg (by decide)]

theorem State.slotCode_congr (h : s.cfg = t.cfg) (k : Nat) : s.slotCode k = t.slotCode k := by rw [State.slotCode, State.slotCode, h]

theorem State.readHeaders_firstTried (s : State) (puf : Bool) (fault : Nat → Bool) :
    (s.readHeaders.firstTried puf fault).md = s.md ∧ (s.readHeaders.firstTried puf fault).glb = s.glb :=
  ⟨(s.readHeaders.firstTried_attempted puf fault).md, (s.readHeaders.firstTried_attempted puf fault).glb⟩

theorem State.readHeaders_secondTried (s : State) (puf : Bool) (fault : Nat → Bool) :
    (s.readHeaders.secondTried puf fault).md = s.md ∧ (s.readHeaders.secondTried puf fault).glb = s.glb :=
  ⟨(s.readHeaders.secondTried_attempted puf fault).md.trans (s.readHeaders_firstTried puf fault).1,
    (s.readHeaders.secondTried_attempted puf fault).glb.trans (s.readHeaders_firstTried puf fault).2⟩

/-- The first slot's code still stands after the second attempt. -/
theorem State.secondTried_slotCode (s : State) (puf : Bool) (fault : Nat → Bool) :
    (s.secondTried puf fault).slotCode s.firstSlot = (s.firstTry puf fault).2.1 := by
  have hback : 3 - (3 - s.firstSlot) = s.firstSlot := by have := s.firstSlot_cases; omega
  have hother := (s.secondTried_attempted puf fault).other
  rw [hback] at hother
  exact hother.trans (s.firstTried_attempted puf fault).code

/-- The first attempt loads its slot. -/
theorem State.bootLoad_first {fa fb : Bool} (h : s.loaderStarts) (hfits : s.flashFits = true)
    (hok : (s.readHeaders.firstTry puf (slotFault fa fb)).2.1 = 0) :
    (s.bootLoad puf fa fb).cfg.slot = s.readHeaders.firstSlot ∧ (s.bootLoad puf fa fb).cfg.fallback = false ∧
    (s.bootLoad puf fa fb).act = (s.readHeaders.firstTry puf (slotFault fa fb)).1.act ∧
    (s.bootLoad puf fa fb).slotCode s.readHeaders.firstSlot = 0 ∧
    (s.bootLoad puf fa fb).md.mode = if s.glb.bistDone then .calibrate else .boot := by
  have htried := s.readHeaders.firstTried_attempted puf (slotFault fa fb)
  obtain ⟨hslot, hfall⟩ := htried.loaded hok
  obtain ⟨hmd, hglb⟩ := s.readHeaders_firstTried puf (slotFault fa fb)
  have hrun := s.readHeaders.loadSlots_eq puf (slotFault fa fb)
  rw [if_pos hok] at hrun
  obtain ⟨hact, hcfg, hto⟩ := State.bootLoad_loaded h hfits hrun (by rw [hmd, h.2.1])
    (by have := s.readHeaders.firstSlot_cases; omega)
  rw [State.slotCode_congr hcfg, hcfg, hact, hto, hglb]
  exact ⟨hslot, hfall, rfl, htried.code.trans hok, rfl⟩

/-- The first attempt fails and the second loads its slot, as the fallback. -/
theorem State.bootLoad_second {fa fb : Bool} (h : s.loaderStarts) (hfits : s.flashFits = true)
    (hbad : (s.readHeaders.firstTry puf (slotFault fa fb)).2.1 ≠ 0) (hok : (s.readHeaders.secondTry puf (slotFault fa fb)).2.1 = 0) :
    (s.bootLoad puf fa fb).cfg.slot = 3 - s.readHeaders.firstSlot ∧ (s.bootLoad puf fa fb).cfg.fallback = true ∧
    (s.bootLoad puf fa fb).act = (s.readHeaders.secondTry puf (slotFault fa fb)).1.act ∧
    (s.bootLoad puf fa fb).slotCode s.readHeaders.firstSlot = (s.readHeaders.firstTry puf (slotFault fa fb)).2.1 ∧
    (s.bootLoad puf fa fb).slotCode (3 - s.readHeaders.firstSlot) = 0 ∧
    (s.bootLoad puf fa fb).md.mode = if s.glb.bistDone then .calibrate else .boot := by
  have htried := s.readHeaders.secondTried_attempted puf (slotFault fa fb)
  obtain ⟨hslot, hfall⟩ := htried.loaded hok
  obtain ⟨hmd, hglb⟩ := s.readHeaders_secondTried puf (slotFault fa fb)
  have hrun := s.readHeaders.loadSlots_eq puf (slotFault fa fb)
  rw [if_neg hbad, if_pos hok] at hrun
  obtain ⟨hact, hcfg, hto⟩ := State.bootLoad_loaded h hfits hrun (by rw [hmd, h.2.1])
    (by have := s.readHeaders.firstSlot_cases; omega)
  rw [State.slotCode_congr hcfg, State.slotCode_congr hcfg, hcfg, hact, hto, hglb]
  exact ⟨hslot, hfall, rfl, State.secondTried_slotCode .., htried.code.trans hok, rfl⟩

/-- Both attempts fail. -/
theorem State.bootLoad_neither {fa fb : Bool} (h : s.loaderStarts) (hfits : s.flashFits = true)
    (hbad : (s.readHeaders.firstTry puf (slotFault fa fb)).2.1 ≠ 0) (hbad2 : (s.readHeaders.secondTry puf (slotFault fa fb)).2.1 ≠ 0)
    (hc : c = if (s.readHeaders.secondTry puf (slotFault fa fb)).2.2 then 0x32 else 0x31) :
    (s.bootLoad puf fa fb).md.mode = .safe ∧ (s.bootLoad puf fa fb).fmu.gate = true ∧ (s.bootLoad puf fa fb).cfg.slot = 0 ∧
    (s.bootLoad puf fa fb).slotCode s.readHeaders.firstSlot = (s.readHeaders.firstTry puf (slotFault fa fb)).2.1 ∧
    (s.bootLoad puf fa fb).slotCode (3 - s.readHeaders.firstSlot) = (s.readHeaders.secondTry puf (slotFault fa fb)).2.1 ∧
    (s.bootLoad puf fa fb).md.cause = c ∧ (s.bootLoad puf fa fb).fmu.lastCause = c ∧ (s.bootLoad puf fa fb).mgt.recovery = true := by
  have hone := s.readHeaders.firstTried_attempted puf (slotFault fa fb)
  have htwo := s.readHeaders.secondTried_attempted puf (slotFault fa fb)
  have hrun := s.readHeaders.loadSlots_eq puf (slotFault fa fb)
  rw [if_neg hbad, if_neg hbad2, ← hc] at hrun
  have hmode : (s.readHeaders.secondTried puf (slotFault fa fb)).md.mode = .boot := by
    rw [(s.readHeaders_secondTried puf (slotFault fa fb)).1, h.2.1]
  obtain ⟨hto, hcause, hgate, hlast, hcfg, -, hrec⟩ :=
    State.loadFailed_entered (s := s.readHeaders.secondTried puf (slotFault fa fb)) (c := c) (by rw [hmode]; decide)
  rw [State.bootLoad_failed h hfits hrun hto, State.slotCode_congr hcfg, State.slotCode_congr hcfg, hcfg]
  exact ⟨hto, hgate, (htwo.failed hbad2).trans ((hone.failed hbad).trans h.2.2.2.1), State.secondTried_slotCode .., htwo.code, hcause, hlast, hrec⟩

end

/-- Settles O11: the flash that does not fit, then the first attempt, the second, and both failed. -/
theorem slotLoadTriesBothSlots : Obligations.SlotLoadTriesBothSlots := by
  intro s puf fa fb hreset hmode hpll hslot h0 h1
  have hstarts : s.loaderStarts := ⟨hreset, hmode, hpll, hslot, h0, h1⟩
  refine ⟨fun hfits => ⟨_, exec_slotLoad puf fa fb s, ?unfit⟩, fun hfits => ?fit⟩
  case unfit =>
    rw [State.bootLoad_unfit hstarts hfits]
    obtain ⟨hto, hcause, hgate, hlast, hcfg, hact, hrec⟩ :=
      State.loadFailed_entered (s := { s with cfg := { s.cfg with codeA := 0x30, codeB := 0x30 } }) (c := 0x31) (by rw [hmode]; decide)
    exact ⟨hto, hcause, hgate, hlast, by rw [hcfg], by rw [hcfg], by rw [hcfg]; exact hslot, hrec, hact⟩
  case fit =>
    intro h first r1 r2 mode
    have hr1 : r1 = h.firstTry puf (slotFault fa fb) := rfl
    have hr2 : r2 = h.secondTry puf (slotFault fa fb) :=
      congrArg (State.trySlot _ (3 - first) true puf) (slotFault_second h.firstSlot_cases fa fb).symm
    clear_value r1 r2
    subst hr1 hr2
    exact ⟨fun hok => ⟨_, exec_slotLoad puf fa fb s, State.bootLoad_first hstarts hfits hok⟩,
      fun hbad hok => ⟨_, exec_slotLoad puf fa fb s, State.bootLoad_second hstarts hfits hbad hok⟩,
      fun hbad hbad2 => ⟨_, exec_slotLoad puf fa fb s, State.bootLoad_neither hstarts hfits hbad hbad2 rfl⟩⟩

end Sys2Proof.Machine
end

section
/-! SUPPORT. The state after reset, read by itself and through both register paths. -/

namespace Sys2Proof.Machine

open Sys2Proof

/-- No register has an entry: each reads, in either copy, as its field resets (R9). -/
theorem reset_copies (off : Nat) : State.reset.reg off = regReset off ∧ State.reset.stg.rd off = regReset off := ⟨rfl, rfl⟩

theorem reset_outputs_muted : (∀ c ∈ State.reset.out.clks, c.muted = true) ∧ (∀ p ∈ State.reset.out.pps, p.muted = true) :=
  ⟨fun _ h => (List.eq_of_mem_replicate h) ▸ rfl, fun _ h => (List.eq_of_mem_replicate h) ▸ rfl⟩

/-- In BOOT the shadow answers for what stands behind it; each read is evaluated. -/
theorem resetWords_read (p : Path) : ∀ e ∈ resetWords, State.reset.readReg p e.1 = e.2 := by
  cases p with
  | host => decide +kernel
  | otarn => decide +kernel

/-- Settles O57: the fields of the state as they stand, the words through each path, and the copies, which hold no entry. -/
theorem resetStateReadsAsTheSpecSays : Obligations.ResetStateReadsAsTheSpecSays :=
  ⟨rfl, rfl, rfl, rfl, rfl, rfl, by decide, reset_outputs_muted.1, reset_outputs_muted.2, rfl, rfl, rfl, rfl,
    fun e he p => resetWords_read p e he, reset_copies, State.reset_wf⟩

end Sys2Proof.Machine
end

section
/-! SUPPORT. That BOOT and CALIBRATE discard every write to a block other than GLB, and every command that is such a write. -/

namespace Sys2Proof.Machine

open Sys2Proof

theorem State.noWrites_iff {s : State} : s.noWrites = true ↔ s.md.mode = .boot ∨ s.md.mode = .calibrate := by
  simp [State.noWrites]

section
variable {s : State} (hw : s.noWrites = true)
include hw

/-- A command guarded by the test for BOOT and CALIBRATE leaves the state as it was. -/
theorem exec_guarded {c : Instr} {t : State} (h : exec c s = .next (if s.noWrites then s else t)) : exec c s = .next s := by
  rw [h, if_pos hw]

theorem State.writeBlock_discarded (off : Nat) (v : W32) : s.writeBlock off v = s := if_pos hw

/-- A whole write beyond GLB is discarded whether or not it is to MGT_MBOX_CTL, aligned, or made in a reset. -/
theorem State.registerWrite_discarded {off : Nat} (hlo : 0x10000 ≤ off) (hhi : off < 0x130000) (v : W32) : s.registerWrite off 15 v = s := by
  unfold State.registerWrite
  split
  · exact if_pos (by simp [hw])
  · unfold State.writeReg
    split
    · rfl
    · rw [if_neg (by omega), if_neg (not_not_intro rfl), if_neg (by omega), State.writeBlock_discarded hw]

/-- The flags of the selector are not refreshed either: no monitor runs in BOOT or CALIBRATE. -/
theorem State.refreshSel_discarded : s.refreshSel = s := by
  refine if_pos ?_
  obtain h | h := State.noWrites_iff.1 hw <;> rw [h] <;> rfl

theorem exec_forgetModel_discarded (tok : BitVec 16) : exec (.forgetModel tok) s = .next s := by
  have hforget : s.forgetModel tok = s := if_pos hw
  calc exec (.forgetModel tok) s = .next (s.forgetModel tok).refreshSel := rfl
    _ = .next s := by rw [hforget, State.refreshSel_discarded hw]

theorem exec_counterWrapClear_discarded (off : Nat) : exec (.counterWrapClear off) s = .next s :=
  congrArg Host.Outcome.next (if_pos (by simp [hw]))

end

/-- Settles O7: a register write by the guard of its block, and each command by its own guard. -/
theorem writesDiscardedInBootAndCalibrate : Obligations.WritesDiscardedInBootAndCalibrate := by
  intro s p off v b tok mask n k hmode
  have hw : s.noWrites = true := State.noWrites_iff.2 hmode
  have g : ∀ {c : Instr} {t : State}, exec c s = .next (if s.noWrites then s else t) → exec c s = .next s := exec_guarded hw
  refine ⟨fun hlo hhi => congrArg Host.Outcome.next (State.registerWrite_discarded hw hlo hhi v), ?_⟩
  simp only [List.forall_mem_cons]
  exact ⟨g rfl, g rfl, g rfl, g rfl, g rfl, g rfl, g rfl, g rfl, g rfl,
    g rfl, g rfl, g rfl, g rfl, g rfl, g rfl, exec_forgetModel_discarded hw tok, g rfl,
    g rfl, g rfl, g rfl, g rfl, g rfl, g rfl,
    g rfl, g rfl, g rfl, g rfl, g rfl, g rfl, g rfl, g rfl, g rfl,
    g rfl, g rfl, g rfl, exec_counterWrapClear_discarded hw off, g rfl, g rfl, List.forall_mem_nil _⟩

end Sys2Proof.Machine
end

section
/-! SUPPORT. What a register map reads after a list of writes, and what COMMIT, CHECK and REVERT do by the mode. -/

namespace Sys2Proof.Machine

open Sys2Proof

/-! Registers written one after another. -/

theorem Assoc.rising_of_wf {α : Type} [DecidableEq α] {d : Nat → α} {m : Assoc α} (h : Assoc.wf d m = true) : Assoc.rising m :=
  ((Assoc.wf_iff d m).1 h).1

theorem RegMap.rising_wr {m : RegMap} (off : Nat) (v : W32) (h : Assoc.rising m) : Assoc.rising (m.wr off v) := by
  unfold RegMap.wr Assoc.putD
  split
  · exact Assoc.rising_del off m h
  · exact Assoc.rising_put off v m h

/-- Registers each written with the word that `g` gives it read so, and every other as before. -/
theorem RegMap.rd_foldl_wr (g : Nat → W32) (l : List Nat) {m : RegMap} (h : Assoc.rising m) (off : Nat) :
    RegMap.rd (l.foldl (fun m o => RegMap.wr m o (g o)) m) off = if off ∈ l then g off else RegMap.rd m off := by
  induction l generalizing m with
  | nil => rfl
  | cons o l ih =>
    rw [List.foldl_cons, ih (RegMap.rising_wr o _ h), RegMap.rd_wr m o off _ h]
    by_cases hl : off ∈ l
    · simp [hl]
    · by_cases ho : off = o <;> simp [hl, ho]

/-- An offset that is not among a map's keys reads its reset value. -/
theorem RegMap.rd_of_not_mem {m : RegMap} {off : Nat} (h : off ∉ m.map (·.1)) : RegMap.rd m off = regReset off := by
  have hget : Assoc.get off m = none := by
    induction m with
    | nil => rfl
    | cons e m ih =>
      obtain ⟨hne, hm⟩ : off ≠ e.1 ∧ off ∉ m.map (·.1) := by simpa using h
      obtain ⟨k, w⟩ := e
      rw [Assoc.get, if_neg hne]
      split
      · rfl
      · exact ih hm
  rw [RegMap.rd, hget, Option.getD_none]

/-! COMMIT, CHECK and REVERT. -/

theorem exec_commit (s : State) (b : CmtBlk) (tok : BitVec 16) : exec (.commit b tok) s = .next (s.cmtStart b tok.toNat false) := rfl

theorem exec_check (s : State) (b : CmtBlk) (tok : BitVec 16) : exec (.check b tok) s = .next (s.cmtStart b tok.toNat true) := rfl

theorem exec_revert (s : State) (b : CmtBlk) (tok : BitVec 16) : exec (.revert b tok) s = .next (s.cmtRevert b tok.toNat) := rfl

/-- The token of an operation found checking or pending becomes that of the one superseded. -/
theorem CmtSt.supersede_eq (c : CmtSt) : c.supersede = { c with sup := if c.st = 1 ∨ c.st = 2 then some c.token else c.sup } := by
  unfold CmtSt.supersede
  split <;> rfl

section
variable {s : State} {b : CmtBlk} {token : Nat}

theorem State.cmtStart_taken (hw : s.noWrites = false) (hmode : s.md.mode ≠ .safe) (check : Bool) : s.cmtStart b token check =
    s.setCmt b { (s.cmt b).supersede with token := token, code := 0, st := 1, snap := s.stg.filter (fun e => inBlk b e.1), isCheck := check } := by
  unfold State.cmtStart
  rw [if_neg (by simp [hw]), if_neg (by simpa using hmode)]

theorem State.noWrites_of_safe (hmode : s.md.mode = .safe) : s.noWrites = false := by
  simp [State.noWrites, hmode]

theorem State.cmtStart_safe (hmode : s.md.mode = .safe) (check : Bool) : s.cmtStart b token check =
    (s.setCmt b { s.cmt b with token := token, code := 0x24, st := 4, reject := true }).cause 2 := by
  unfold State.cmtStart State.cmtRefuse
  rw [if_neg (by simp [State.noWrites_of_safe hmode]), if_pos (by simp [hmode])]
  simp only [Bool.or_true, if_true]

/-- A refusal shows in the operation's registers and as a cause of HIF, and nowhere else. -/
theorem State.cmtStart_refused (hmode : s.md.mode = .safe) (check : Bool) :
    s.cmtStart b token check = { s.setCmt b { s.cmt b with token := token, code := 0x24, st := 4, reject := true } with
      hif := (s.cmtStart b token check).hif } ∧ (s.cmtStart b token check).hif.cause = s.hif.cause ||| 4 := by
  rw [State.cmtStart_safe hmode]
  exact ⟨State.cause_eq _ 2, State.cause_cause _ 2⟩

theorem State.cmtRevert_safe (hmode : s.md.mode = .safe) : s.cmtRevert b token =
    s.setCmt b { s.cmt b with token := token, code := 0x24, st := 4 } := by
  unfold State.cmtRevert State.cmtRefuse
  rw [if_neg (by simp [State.noWrites_of_safe hmode]), if_pos (by simp [hmode])]
  simp only [Bool.or_false, Bool.false_eq_true, if_false]

/-- The staged copy with the words of a block taken from the active one. -/
def State.reverted (s : State) (b : CmtBlk) : RegMap :=
  ((s.stg.map (·.1)).filter (inBlk b) ++ (s.act.map (·.1)).filter (inBlk b)).foldl (fun m o => RegMap.wr m o (RegMap.rd s.act o)) s.stg

theorem State.cmtRevert_taken (hw : s.noWrites = false) (hmode : s.md.mode ≠ .safe) : s.cmtRevert b token =
    ({ s with stg := s.reverted b } : State).setCmt b
      { (s.cmt b).supersede with token := token, code := 0, st := 3, snap := [], isCheck := false } := by
  unfold State.cmtRevert
  rw [if_neg (by simp [hw]), if_neg (by simpa using hmode)]
  rfl

theorem State.reverted_rd_inside (hs : Assoc.rising s.stg) {off : Nat} (hin : inBlk b off = true) :
    RegMap.rd (s.reverted b) off = RegMap.rd s.act off := by
  rw [State.reverted, RegMap.rd_foldl_wr _ _ hs]
  split
  case isTrue => rfl
  case isFalse h =>
    obtain ⟨hstg, hact⟩ : off ∉ s.stg.map (·.1) ∧ off ∉ s.act.map (·.1) := by
      simpa only [List.mem_append, List.mem_filter, hin, and_true, not_or] using h
    rw [RegMap.rd_of_not_mem hstg, RegMap.rd_of_not_mem hact]

theorem State.reverted_rd_outside (hs : Assoc.rising s.stg) {off : Nat} (hout : inBlk b off = false) :
    RegMap.rd (s.reverted b) off = RegMap.rd s.stg off := by
  rw [State.reverted, RegMap.rd_foldl_wr _ _ hs, if_neg (by simp [hout])]

end

/-- Settles O9: an operation taken supersedes and snapshots or reverts, and in SAFE it is refused. -/
theorem commitSnapshotsTheStagedCopy : Obligations.CommitSnapshotsTheStagedCopy := by
  intro s b tok
  refine ⟨fun hw hmode => ⟨?commit, ?check, fun _ hstg => ?revert⟩, fun hmode => ⟨?refused, ?revertRefused⟩⟩
  case commit => rw [exec_commit, State.cmtStart_taken hw hmode, CmtSt.supersede_eq]
  case check => rw [exec_check, State.cmtStart_taken hw hmode, CmtSt.supersede_eq]
  case revert =>
    have hs : Assoc.rising s.stg := Assoc.rising_of_wf hstg
    refine ⟨_, exec_revert s b tok, ?_⟩
    rw [State.cmtRevert_taken hw hmode, CmtSt.supersede_eq]
    exact ⟨fun _ => State.reverted_rd_inside hs, fun _ => State.reverted_rd_outside hs, rfl⟩
  case refused =>
    simp only [List.forall_mem_cons]
    exact ⟨⟨_, exec_commit s b tok, State.cmtStart_refused hmode false⟩, ⟨_, exec_check s b tok, State.cmtStart_refused hmode true⟩,
      List.forall_mem_nil _⟩
  case revertRefused => rw [exec_revert, State.cmtRevert_safe hmode]

end Sys2Proof.Machine
end

section
/-! SUPPORT. What laying down a set leaves of the two copies of the configuration, of the commit registers and of the mode: first the rings
and queues of the host interface, then the other blocks. -/

namespace Sys2Proof.Machine

open Sys2Proof

/-- The parts that the operations on rings, ports, grants and counters leave from a state to a later one. -/
structure State.ConfigFrame (s t : State) : Prop where
  act : t.act = s.act
  stg : t.stg = s.stg
  cmts : t.cmts = s.cmts
  md : t.md = s.md

theorem State.ConfigFrame.refl (s : State) : s.ConfigFrame s := ⟨rfl, rfl, rfl, rfl⟩

theorem State.ConfigFrame.trans {r s t : State} (a : r.ConfigFrame s) (b : s.ConfigFrame t) : r.ConfigFrame t :=
  ⟨b.act.trans a.act, b.stg.trans a.stg, b.cmts.trans a.cmts, b.md.trans a.md⟩

theorem State.ConfigFrame.ite {r a b : State} {c : Prop} [Decidable c] (ha : r.ConfigFrame a) (hb : r.ConfigFrame b) :
    r.ConfigFrame (if c then a else b) := by
  split <;> assumption

theorem State.ConfigFrame.foldl {α : Type} {f : State → α → State} {l : List α} (hf : ∀ u x, State.ConfigFrame u (f u x)) (s : State) :
    s.ConfigFrame (l.foldl f s) := by
  induction l generalizing s with
  | nil => exact .refl s
  | cons x l ih => exact (hf s x).trans (ih _)

theorem times_configFrame (n : Nat) {f : State → State} (hf : ∀ u, State.ConfigFrame u (f u)) (s : State) : s.ConfigFrame (times n f s) := by
  unfold times
  induction n with
  | zero => exact .refl s
  | succ n ih => exact ih.trans (hf _)

theorem State.count_configFrame (s : State) (off : Nat) : s.ConfigFrame (s.count off) := ⟨rfl, rfl, rfl, rfl⟩

theorem State.cause_configFrame (s : State) (b : Nat) : s.ConfigFrame (s.cause b) := by
  rw [s.cause_eq]
  exact ⟨rfl, rfl, rfl, rfl⟩

/-! Completions and aborts of the host interface. -/

theorem State.dma_configFrame (s : State) (addr : Nat) (bs : List Byte) : s.ConfigFrame (s.dma addr bs) := .ite ⟨rfl, rfl, rfl, rfl⟩ (.refl s)

theorem State.cqWrite_configFrame (s : State) (q i qstat code : Nat) : s.ConfigFrame (s.cqWrite q i qstat code) := by
  unfold State.cqWrite
  extract_lets _ s1 s2 s3
  have h3 : s.ConfigFrame s3 := (s.dma_configFrame _ _).trans (⟨rfl, rfl, rfl, rfl⟩ : s1.ConfigFrame s3)
  exact .ite (h3.trans ((s3.count_configFrame _).trans (State.cause_configFrame _ 11))) h3

theorem State.cqFinish_configFrame (s : State) (c : CompWait) : s.ConfigFrame (s.cqFinish c) :=
  .ite ((s.dma_configFrame _ _).trans (State.cqWrite_configFrame _ _ _ _ _)) ⟨rfl, rfl, rfl, rfl⟩

theorem State.cqComplete_configFrame (s : State) (q i qstat code : Nat) : s.ConfigFrame (s.cqComplete q i qstat code) := s.cqFinish_configFrame _

theorem State.pkeAbort_configFrame (s : State) (o : PkeOp) : s.ConfigFrame (s.pkeAbort o) := by
  unfold State.pkeAbort
  extract_lets _ s1 s2
  have h2 : s.ConfigFrame s2 := by
    unfold s2 State.zeroCore
    split <;> exact ⟨rfl, rfl, rfl, rfl⟩
  exact .ite (h2.trans ⟨rfl, rfl, rfl, rfl⟩) (h2.trans (s2.cqComplete_configFrame _ _ _ _))

theorem State.mintAbort_configFrame (s : State) (m : Mint) (code : Nat) : s.ConfigFrame (s.mintAbort m code) := by
  unfold State.mintAbort
  extract_lets _ s1
  have h1 : s.ConfigFrame s1 := ⟨rfl, rfl, rfl, rfl⟩
  exact .ite (h1.trans (s1.cqComplete_configFrame _ _ _ _)) (h1.trans (s1.cqFinish_configFrame _))

theorem State.cqAbort_configFrame (s : State) (q i : Nat) : s.ConfigFrame (s.cqAbort q i) := by
  unfold State.cqAbort
  refine .ite (.refl s) ?_
  split
  · split
    · exact s.pkeAbort_configFrame _
    · exact s.cqFinish_configFrame _
  · split
    · exact s.mintAbort_configFrame _ _
    · exact (s.count_configFrame _).trans (State.cqComplete_configFrame _ _ _ _ _)

theorem State.cqAbortAll_configFrame (s : State) (q : Nat) : s.ConfigFrame (s.cqAbortAll q) := .foldl (fun u i => u.cqAbort_configFrame q i) s

theorem State.abortRx_configFrame (s : State) (r : Nat) : s.ConfigFrame (s.abortRx r) :=
  (s.dma_configFrame _ _).trans ⟨rfl, rfl, rfl, rfl⟩

theorem State.abortTx_configFrame (s : State) (r : Nat) : s.ConfigFrame (s.abortTx r) := by
  have hdraw : s.ConfigFrame s.draw.2 := ⟨rfl, rfl, rfl, rfl⟩
  exact ((hdraw.trans (State.dma_configFrame _ _ _)).trans (State.dma_configFrame _ _ _)).trans ⟨rfl, rfl, rfl, rfl⟩

/-- Emptying the rings and queues that a set disables. -/
theorem State.abortPosted_configFrame (s : State) (m : RegMap) : s.ConfigFrame (s.abortPosted m) := by
  unfold State.abortPosted
  extract_lets off s1 s2
  have h1 : s.ConfigFrame s1 := .foldl (fun u r => .ite (times_configFrame _ (fun v => v.abortRx_configFrame r) u) (.refl u)) s
  have h2 : s1.ConfigFrame s2 := .foldl (fun u r => .ite (times_configFrame _ (fun v => v.abortTx_configFrame r) u) (.refl u)) s1
  exact (h1.trans h2).trans (.foldl (fun u q => .ite (u.cqAbortAll_configFrame q) (.refl u)) s2)

/-- The set of HIF puts its map in force, beside which only the rings and what their entries held change. -/
theorem State.applyHif_configFrame (s : State) (m : RegMap) : ({ s with act := m } : State).ConfigFrame (s.applyHif m) := by
  obtain ⟨_, hstg, hcmts, hmd⟩ := s.abortPosted_configFrame m
  exact ⟨rfl, hstg, hcmts, hmd⟩

/-! A network port: XON, its link and verification. -/

theorem State.setPort_configFrame (s : State) (n : Nat) (f : PortSt → PortSt) : s.ConfigFrame (s.setPort n f) := ⟨rfl, rfl, rfl, rfl⟩

theorem State.dropFrame_configFrame (s : State) (e : EgFrame) (st : Nat) : s.ConfigFrame (s.dropFrame e st) := by
  unfold State.dropFrame
  extract_lets s1
  have h1 : s.ConfigFrame s1 := by
    unfold s1
    split <;> exact ⟨rfl, rfl, rfl, rfl⟩
  split
  · exact h1.trans ⟨rfl, rfl, rfl, rfl⟩
  · exact h1

theorem State.queueFrame_configFrame (s : State) (n : Nat) (e : EgFrame) : s.ConfigFrame (s.queueFrame n e) := by
  unfold State.queueFrame
  exact .ite (s.setPort_configFrame _ _) ((s.dropFrame_configFrame e _).trans ⟨rfl, rfl, rfl, rfl⟩)

theorem State.xonRemoved_configFrame (s o : State) (n : Nat) : s.ConfigFrame (s.xonRemoved o n) := by
  unfold State.xonRemoved
  extract_lets s1 gone s2
  have h1 : s.ConfigFrame s1 := .ite (s.queueFrame_configFrame _ _) (.refl s)
  have h2 : s.ConfigFrame s2 := h1.trans (.ite (s1.queueFrame_configFrame _ _) (.refl s1))
  exact .ite (.refl s) (.ite h2 (h2.trans (s2.setPort_configFrame _ _)))

theorem State.linkDrop_configFrame (s : State) (n : Nat) : s.ConfigFrame (s.linkDrop n) := by
  cases hlink : (s.port n).link with
  | false =>
    have hdown : s.linkDrop n = s := if_pos (by simp [hlink])
    rw [hdown]
    exact .refl s
  | true =>
    obtain ⟨kept, ctr, hif, h⟩ := State.linkDrop_up hlink
    rw [h]
    exact ⟨rfl, rfl, rfl, rfl⟩

theorem State.holdPort_configFrame (s : State) (n : Nat) : s.ConfigFrame (s.holdPort n) :=
  (s.linkDrop_configFrame n).trans (State.setPort_configFrame _ _ _)

theorem State.applyMac_configFrame (s o : State) (n : Nat) : s.ConfigFrame (s.applyMac o n) := by
  unfold State.applyMac
  extract_lets b s1 s2 s3
  have h1 : s.ConfigFrame s1 := s.xonRemoved_configFrame o n
  have h2 : s.ConfigFrame s2 :=
    .ite h1 (.ite (h1.trans (s1.holdPort_configFrame n)) (.ite (h1.trans (s1.setPort_configFrame _ _)) h1))
  have h3 : s.ConfigFrame s3 := .ite (h2.trans (s2.setPort_configFrame _ _)) h2
  exact .ite (h3.trans (s3.setPort_configFrame _ _)) h3

/-! The grants of PTP, and the windows of PMC. -/

theorem State.sendVia_configFrame (s : State) (n : Nat) (tags : List (Nat × Nat)) (src ip : List Byte) (f : EgFrame) :
    s.ConfigFrame (s.sendVia n tags src ip f) := by
  unfold State.sendVia
  split
  · exact s.queueFrame_configFrame _ _
  · extract_lets _ _ _ s1
    have h1 : s.ConfigFrame s1 := ⟨rfl, rfl, rfl, rfl⟩
    exact h1.trans (s1.queueFrame_configFrame _ _)

theorem State.ptpSend_configFrame (s : State) (n m : Nat) (src : EgSrc) (peer : Bool) (ins : Nat → Insertion) (tsReq : Bool) (msg : List Byte)
    (d : PtpDst) : s.ConfigFrame (s.ptpSend n m src peer ins tsReq msg d) := by
  unfold State.ptpSend
  split
  · exact ⟨rfl, rfl, rfl, rfl⟩
  · exact .ite (.refl s) (.ite (s.sendVia_configFrame _ _ _ _ _) (s.queueFrame_configFrame _ _))

theorem State.cancelGrants_configFrame (s : State) (p : Grant → Bool) : s.ConfigFrame (s.cancelGrants p) := by
  have hcancel : ∀ (u : State) (g : Grant), u.ConfigFrame ((u.sendCancel g).count (ptpCtr g.port 7)) := fun u g =>
    (u.ptpSend_configFrame _ _ _ _ _ _ _ _).trans ⟨rfl, rfl, rfl, rfl⟩
  exact (State.ConfigFrame.foldl hcancel s).trans ⟨rfl, rfl, rfl, rfl⟩

theorem State.applyPtp_configFrame (s : State) (m : RegMap) : ({ s with act := m } : State).ConfigFrame (s.applyPtp m) := by
  have hcancelled : ∀ p, ({ s with act := m } : State).ConfigFrame { s.cancelGrants p with act := m } := fun p => by
    obtain ⟨_, hstg, hcmts, hmd⟩ := s.cancelGrants_configFrame p
    exact ⟨rfl, hstg, hcmts, hmd⟩
  unfold State.applyPtp
  refine (hcancelled _).trans (.foldl (fun u n => ?_) _)
  exact .ite (.refl u) ⟨rfl, rfl, rfl, rfl⟩

theorem State.applyPmc_configFrame (s o : State) : s.ConfigFrame (s.applyPmc o) := by
  unfold State.applyPmc
  refine .foldl (fun u n => ?_) s
  exact .ite ⟨rfl, rfl, rfl, rfl⟩ (.refl u)

end Sys2Proof.Machine
end

section
/-! SUPPORT. That the selector writes no staged word. -/

namespace Sys2Proof.Machine

open Sys2Proof

theorem State.leaves_entryFrame (s : State) (i : Nat) : s.EntryFrame (s.leaves i) := by
  unfold State.leaves
  exact .ite ⟨rfl, rfl, rfl, id⟩ (.refl s)

theorem State.refreshSel_entryFrame (s : State) : s.EntryFrame s.refreshSel := by
  unfold State.refreshSel
  exact .ite (.refl s) ⟨rfl, rfl, rfl, id⟩

theorem State.setRef_entryFrame (s : State) (i : Nat) (f : RefSt → RefSt) : s.EntryFrame (s.setRef i f) := ⟨rfl, rfl, rfl, id⟩

@[simp] theorem State.beginHold_stg (s : State) (y0 : Rat) : (s.beginHold y0).stg = s.stg := by
  unfold State.beginHold State.newHold
  split
  · exact (s.freezeWeft_entryFrame _).stg
  · exact (State.freezeWeft_entryFrame _ _).stg

@[simp] theorem State.beginSplice_stg (s : State) (new : Option Nat) (elig : List Nat) (oldPasses again : Bool) :
    (s.beginSplice new elig oldPasses again).stg = s.stg := by
  unfold State.beginSplice
  extract_lets b s1 temp _ v _ s2
  have hbridge : s1.stg = s.stg := by
    unfold s1
    split
    · rfl
    · exact s.cancelSlew_entryFrame.stg
  have hs2 : s2.stg = s.stg := hbridge
  split
  · exact (State.thawWeft_entryFrame _).stg.trans hs2
  · exact (State.beginHold_stg _ _).trans hs2

@[simp] theorem State.markSel_stg (s : State) (new : Option Nat) (reason : Nat) : (s.markSel new reason).stg = s.stg := by
  unfold State.markSel
  extract_lets old s1 s2 _ sel _ md _ s3
  clear_value old
  have hold : s1.stg = s.stg := by
    unfold s1
    split
    · split <;> rfl
    · rfl
  have hs3 : s3.stg = s.stg := by
    refine Eq.trans ?_ hold
    show s2.stg = s1.stg
    unfold s2
    split <;> rfl
  split
  · exact hs3
  · simpa using hs3

@[simp] theorem State.switchTo_stg (s : State) (new : Option Nat) (reason : Nat) (again : Bool) : (s.switchTo new reason again).stg = s.stg :=
  (State.beginSplice_stg _ _ _ _ _).trans (s.markSel_stg new reason)

@[simp] theorem State.dropInMaintain_stg (s : State) (why : Nat) : (s.dropInMaintain why).stg = s.stg := by
  unfold State.dropInMaintain
  split
  · rfl
  · split
    · rfl
    · exact State.cause_stg _ _

/-- What an offer during a window can come to: nothing, the window limited, or a re-target to the reference offered. -/
theorem State.offer_cases (s : State) (w : Window) (want : Option Nat) (why : Nat) :
    (∃ srv, s.offer w want why = { s with srv := srv }) ∨
    ∃ (u : State) (reason : Nat) (again : Bool), u = { s with ctr := u.ctr, srv := u.srv } ∧ s.offer w want why = u.switchTo want reason again := by
  unfold State.offer
  extract_lets left outranks _ s1
  by_cases hstays : want = some w.target ∨ (!(left || outranks)) = true
  · exact .inl ⟨s.srv, if_pos hstays⟩
  by_cases hlimited : (w.limited || decide (3 ≤ s.recentRe.length)) = true
  · exact .inl ⟨_, by rw [if_neg hstays, if_pos hlimited]⟩
  · exact .inr ⟨{ s1 with srv := { s1.srv with retTimes := s.recentRe ++ [s.now] } }, s.reasonFor want why, true, rfl,
      by rw [if_neg hstays, if_neg hlimited]⟩

/-- What a choice can come to: a reference dropped in MAINTAIN, nothing or a change within the servo, or a switch to what is wanted. -/
theorem State.choose_cases (s : State) (why : Nat) :
    s.choose why = s.dropInMaintain why ∨ (∃ srv, s.choose why = { s with srv := srv }) ∨
    ∃ (u : State) (reason : Nat) (again : Bool), u = { s with ctr := u.ctr, srv := u.srv } ∧ s.choose why = u.switchTo s.wanted reason again := by
  by_cases hmaintain : (s.md.mode == .maintain) = true
  · exact .inl (if_pos hmaintain)
  by_cases hstopped : (!s.md.mode.running) = true
  · exact .inr (.inl ⟨s.srv, by rw [State.choose, if_neg hmaintain, if_pos hstopped]⟩)
  rw [State.choose, if_neg hmaintain, if_neg hstopped]
  extract_lets want stands
  split
  case h_1 w _ _ => exact .inr (s.offer_cases w want why)
  case h_2 =>
    by_cases hstays : (want == s.ref.sel && stands && !s.ref.maintEnd) = true
    · exact .inr (.inl ⟨s.srv, if_pos hstays⟩)
    · exact .inr (.inr ⟨s, s.reasonFor want why, false, rfl, if_neg hstays⟩)

@[simp] theorem State.choose_stg (s : State) (why : Nat) : (s.choose why).stg = s.stg := by
  obtain h | ⟨srv, h⟩ | ⟨u, reason, again, hu, h⟩ := s.choose_cases why
  · rw [h, State.dropInMaintain_stg]
  · rw [h]
  · rw [h, State.switchTo_stg, hu]

end Sys2Proof.Machine
end

section
/-! SUPPORT. What the end of validation and the safe point make of a set. -/

namespace Sys2Proof.Machine

open Sys2Proof

/-! Beside the words of the set, no block writes a word of either copy. -/

theorem State.wipeRef_entryFrame (s : State) (id : Nat) : s.EntryFrame (s.wipeRef id) :=
  (s.leaves_entryFrame id).trans (State.setRef_entryFrame _ _ _)

theorem State.clearRefs_copies (s : State) (ids : List Nat) (tod : Bool) :
    (s.clearRefs ids tod).act = s.act ∧ (s.clearRefs ids tod).stg = s.stg := by
  unfold State.clearRefs
  extract_lets was s1 _ s2 s3
  have h1 : s.EntryFrame s1 := .foldl State.wipeRef_entryFrame s
  have h2 : s.EntryFrame s2 := h1.trans (.ite ⟨rfl, rfl, rfl, id⟩ (.refl s1))
  have h3 : s.EntryFrame s3 := h2.trans s2.refreshSel_entryFrame
  split
  · exact ⟨(s3.choose_selectorFrame 6).act.trans h3.act, (s3.choose_stg 6).trans h3.stg⟩
  · exact ⟨h3.act, h3.stg⟩

theorem State.applyRef_copies (s o : State) : (s.applyRef o).act = s.act ∧ (s.applyRef o).stg = s.stg := by
  unfold State.applyRef
  extract_lets gone tod s1
  obtain ⟨hact, hstg⟩ : s1.act = s.act ∧ s1.stg = s.stg := s.clearRefs_copies gone tod
  have hmon := State.EntryFrame.foldl (l := List.range 17)
    (f := fun t i => if (!o.bit (bBase i) 31 && s.bit (bBase i) 31) = true then t.setRef i fun r => { r with active := true, monAt := t.now } else t)
    (fun u i => .ite (u.setRef_entryFrame i _) (.refl u)) s1
  exact ⟨hmon.act.trans hact, hmon.stg.trans hstg⟩

theorem State.applyOut_configFrame (s o : State) : s.ConfigFrame (s.applyOut o) := by
  unfold State.applyOut
  extract_lets clk pps
  have hclks : s.ConfigFrame ((List.range 10).foldl clk s) := .foldl (f := clk) (fun u n => ⟨rfl, rfl, rfl, rfl⟩) s
  have houts := hclks.trans (.foldl (f := pps) (l := List.range 4) (fun u n => ⟨rfl, rfl, rfl, rfl⟩) _)
  have hfollow : ∀ u : State, u.ConfigFrame u.outputsFollow := fun u => by
    rw [u.outputsFollow_outputsOnly]
    exact ⟨rfl, rfl, rfl, rfl⟩
  exact houts.trans (hfollow _)

theorem State.applyGns_configFrame (s o : State) : s.ConfigFrame (s.applyGns o) := by
  unfold State.applyGns
  extract_lets scale _ s1 s2 pm mode _ s3
  have h1 : s.ConfigFrame s1 := .ite ⟨rfl, rfl, rfl, rfl⟩ (.refl s)
  have h2 : s.ConfigFrame s2 := h1.trans ⟨rfl, rfl, rfl, rfl⟩
  have h3 : s.ConfigFrame s3 := .ite (h2.trans ⟨rfl, rfl, rfl, rfl⟩) h2
  exact .ite (h3.trans ⟨rfl, rfl, rfl, rfl⟩) h3

theorem State.closeChanged_entryFrame (s : State) (m : RegMap) : s.EntryFrame (s.closeChanged m) := by
  unfold State.closeChanged
  refine .foldl (fun u n => ?_) s
  exact .ite (u.closeMeas_entryFrame n) (.refl u)

/-- A set put in force: the active copy is its map, and the staged copy stands. -/
theorem State.putSet_copies (s : State) (b : CmtBlk) (m : RegMap) : (s.putSet b m).act = m ∧ (s.putSet b m).stg = s.stg := by
  have of_frame : ∀ {u t : State}, u.ConfigFrame t → u.act = m ∧ u.stg = s.stg → t.act = m ∧ t.stg = s.stg := fun h hu =>
    ⟨h.act.trans hu.1, h.stg.trans hu.2⟩
  unfold State.putSet
  extract_lets s1 closed
  have h1 : s1.act = m ∧ s1.stg = s.stg := ⟨rfl, rfl⟩
  split
  case h_1 n => exact of_frame (s1.applyMac_configFrame s n) h1
  case h_2 =>
    have hclosed : closed.stg = s.stg := (s.closeChanged_entryFrame m).stg
    clear_value closed
    exact ⟨rfl, hclosed⟩
  case h_3 => exact s1.applyRef_copies s
  case h_4 => exact of_frame (s1.applyOut_configFrame s) h1
  case h_5 => exact of_frame (s1.applyGns_configFrame s) h1
  case h_6 => exact of_frame (s.applyPtp_configFrame m) h1
  case h_7 => exact of_frame (s1.applyPmc_configFrame s) h1
  case h_8 => exact of_frame (s.applyHif_configFrame m) h1
  case h_9 => exact h1

/-! The commit registers. -/

theorem exec_commitValidated (s : State) (b : CmtBlk) (ok : Bool) : exec (.commitValidated b ok) s = .next (s.cmtValidated b ok) := rfl

theorem exec_commitApply (s : State) (b : CmtBlk) (ok : Bool) : exec (.commitApply b ok) s = .next (s.cmtApply b ok) := rfl

/-- Commit registers that differ from their reset values read as they were put, whatever else the map holds. -/
theorem State.cmt_setCmt {s : State} {b : CmtBlk} {c : CmtSt} (h : c ≠ CmtSt.reset) : (s.setCmt b c).cmt b = c := by
  rw [State.cmt, State.setCmt_cmts, Assoc.putD, if_neg h, Assoc.get_put, if_pos rfl, Option.getD_some]

theorem State.cmt_cause (s : State) (k : Nat) (b : CmtBlk) : (s.cause k).cmt b = s.cmt b := by
  rw [State.cmt, State.cause_cmts, State.cmt]

theorem State.cmtReject_eq (s : State) (b : CmtBlk) (code arg : Nat) : s.cmtReject b code arg =
    { s.setCmt b { s.cmt b with st := 4, code := code, arg := arg, reject := true, snap := [] } with hif := (s.cmtReject b code arg).hif } :=
  State.cause_eq _ 2

/-- The block's commit registers do not say whether its sets are taken at once. -/
theorem State.atOnce_setCmt (s : State) (b b' : CmtBlk) (c : CmtSt) : (s.setCmt b' c).atOnce b = s.atOnce b := by
  cases b <;> rfl

section
variable {s : State} {b : CmtBlk} {ok : Bool} {code arg : Nat}

/-! The end of validation. -/

theorem State.cmtValidated_faulty (hst : (s.cmt b).st = 1) (hv : s.validate b false (s.merged b (s.cmt b).snap) = (code, arg)) (hcode : code ≠ 0) :
    s.cmtValidated b ok = s.cmtReject b code arg := by
  unfold State.cmtValidated
  simp only [hst, hv, ne_eq, not_true_eq_false, if_false, hcode, not_false_eq_true, if_true]

theorem State.cmtValidated_check (hst : (s.cmt b).st = 1) (hv : s.validate b false (s.merged b (s.cmt b).snap) = (0, arg))
    (hcheck : (s.cmt b).isCheck = true) : s.cmtValidated b ok = s.setCmt b { s.cmt b with st := 3, arg := arg, snap := [] } := by
  unfold State.cmtValidated
  simp only [hst, hv, hcheck, ne_eq, not_true_eq_false, if_false, if_true]

theorem State.cmtValidated_valid (hst : (s.cmt b).st = 1) (hv : s.validate b false (s.merged b (s.cmt b).snap) = (0, arg))
    (hcheck : (s.cmt b).isCheck = false) : s.cmtValidated b ok =
      if s.atOnce b then (s.setCmt b { s.cmt b with st := 2, arg := arg }).cmtApply b ok else s.setCmt b { s.cmt b with st := 2, arg := arg } := by
  unfold State.cmtValidated
  simp only [hst, hv, hcheck, State.atOnce_setCmt, ne_eq, not_true_eq_false, if_false, Bool.false_eq_true]

/-! The safe point. -/

theorem State.cmtApply_not_pending (hst : (s.cmt b).st ≠ 2) : s.cmtApply b ok = s := if_pos hst

theorem State.cmtApply_early (hsafe : s.safePoint b (s.merged b (s.cmt b).snap) = false) : s.cmtApply b ok = s := by
  unfold State.cmtApply
  simp only [hsafe, Bool.not_false, if_true, ite_self]

theorem State.cmtApply_fails (hst : (s.cmt b).st = 2) (hsafe : s.safePoint b (s.merged b (s.cmt b).snap) = true) :
    s.cmtApply b false = s.cmtReject b 0x32 0xFFFFFF := by
  unfold State.cmtApply
  simp only [hst, hsafe, ne_eq, not_true_eq_false, if_false, Bool.not_true, Bool.not_false, if_true, Bool.false_eq_true]

theorem State.cmtApply_waits (hst : (s.cmt .hif).st = 2) (hwaits : s.hifWaits (s.merged .hif (s.cmt .hif).snap) ≠ []) :
    s.cmtApply .hif true = s.applyHif (s.hifNow (s.merged .hif (s.cmt .hif).snap)) := by
  unfold State.cmtApply
  rw [if_neg (by simp [hst]), if_neg (by simp [State.safePoint]), if_neg (by simp), if_pos (by simpa using hwaits)]

/-- The state in which a set has been laid down; of SRV a SPLICE_WIN below 100 is noted (R238). -/
def State.setLaid (s : State) (b : CmtBlk) : State :=
  let s1 := s.putSet b (s.merged b (s.cmt b).snap)
  if b == .srv && decide (bitsOf ((s.cmt b).snap.rd 0x70008) 13 0 < 100) then { s1 with srv := { s1.srv with winClamp := true } } else s1

/-- Commit registers after their set has been applied. -/
def CmtSt.applied (c : CmtSt) : CmtSt := { c with st := 3, code := 0, done := true, cnt := (c.cnt + 1) % 65536, snap := [] }

theorem CmtSt.applied_ne_reset (c : CmtSt) : c.applied ≠ CmtSt.reset := fun h => absurd (congrArg CmtSt.done h) Bool.noConfusion

theorem State.cmtApply_applies (hst : (s.cmt b).st = 2) (hsafe : s.safePoint b (s.merged b (s.cmt b).snap) = true)
    (hall : b = .hif → s.hifWaits (s.merged b (s.cmt b).snap) = []) :
    s.cmtApply b true = ((s.setLaid b).setCmt b (s.cmt b).applied).cause 1 := by
  have hnone : (b == .hif && !(s.hifWaits (s.merged b (s.cmt b).snap)).isEmpty) = false := by
    cases hb : b == .hif with
    | false => rfl
    | true => rw [hall (beq_iff_eq.1 hb)]; rfl
  unfold State.cmtApply
  rw [if_neg (by simp [hst]), if_neg (by simp [hsafe]), if_neg (by simp), if_neg (by simp [hnone])]
  rfl

theorem State.setLaid_copies (s : State) (b : CmtBlk) : (s.setLaid b).act = s.merged b (s.cmt b).snap ∧ (s.setLaid b).stg = s.stg := by
  have h := s.putSet_copies b (s.merged b (s.cmt b).snap)
  unfold State.setLaid
  extract_lets s1
  split <;> exact h

/-- Commit registers of a set applied are those that the safe point leaves. -/
theorem State.cmtApply_cmt (hst : (s.cmt b).st = 2) (hsafe : s.safePoint b (s.merged b (s.cmt b).snap) = true)
    (hall : b = .hif → s.hifWaits (s.merged b (s.cmt b).snap) = []) : (s.cmtApply b true).cmt b = (s.cmt b).applied := by
  rw [State.cmtApply_applies hst hsafe hall, State.cmt_cause, State.cmt_setCmt (CmtSt.applied_ne_reset _)]

end

/-! The rings and queues that wait. -/

theorem State.merged_rising {s : State} (h : Assoc.rising s.act) (b : CmtBlk) (snap : RegMap) : Assoc.rising (s.merged b snap) := by
  refine Assoc.rising_foldl (fun m off hm => ?_) _ h
  dsimp only
  split
  · exact RegMap.rising_wr _ _ hm
  · exact hm

/-- The three words of each ring or queue that must wait. -/
def State.waitingWords (s : State) (m : RegMap) : List Nat := (s.hifWaits m).flatMap fun r => [r, r + 4, r + 8]

/-- A set without the parts that must wait: their words are the active ones, and every other word is the set's. -/
theorem State.hifNow_rd (s : State) {m : RegMap} (h : Assoc.rising m) (off : Nat) :
    RegMap.rd (s.hifNow m) off = if off ∈ s.waitingWords m then s.reg off else RegMap.rd m off := by
  rw [← RegMap.rd_foldl_wr s.reg (s.waitingWords m) h off, State.waitingWords, List.foldl_flatMap]
  rfl

/-- Settles O10: validation by its outcome, then the safe point by whether it has come, whether the set is intact, and what must wait. -/
theorem commitAppliesWholeOrNotAtAll : Obligations.CommitAppliesWholeOrNotAtAll := by
  intro s b ok c m
  refine ⟨fun code arg hst hv hcode => ?faulty, fun arg hst hv hcheck => ?check,
    fun arg hst hv hcheck => ⟨fun hlater => ?pending, fun honce => ?atOnce⟩, fun hst hsafe => ?early, fun hst hsafe hok => ?fault,
    fun hst hok hb hwaits hact => ?waits, fun hst hsafe hok hall => ?applies⟩
  case faulty =>
    refine ⟨_, exec_commitValidated s b ok, ?_⟩
    rw [State.cmtValidated_faulty hst hv hcode]
    exact s.cmtReject_eq b code arg
  case check => rw [exec_commitValidated, State.cmtValidated_check hst hv hcheck]
  case pending => rw [exec_commitValidated, State.cmtValidated_valid hst hv hcheck, if_neg (by simp [hlater])]
  case atOnce => rw [exec_commitValidated, State.cmtValidated_valid hst hv hcheck, if_pos honce, exec_commitApply]
  case early => rw [exec_commitApply, State.cmtApply_early hsafe]
  case fault =>
    subst hok
    refine ⟨_, exec_commitApply s b false, ?_⟩
    rw [State.cmtApply_fails hst hsafe]
    exact s.cmtReject_eq b 0x32 0xFFFFFF
  case waits =>
    subst hok hb
    have hrising : Assoc.rising m := State.merged_rising (Assoc.rising_of_wf hact) _ _
    obtain ⟨hnow, hstg, hcmts, hmd⟩ := s.applyHif_configFrame (s.hifNow m)
    refine ⟨_, exec_commitApply s .hif true, ?_⟩
    rw [State.cmtApply_waits hst hwaits, hnow]
    refine ⟨fun r hr k hk => ?_, fun off hoff => ?_, hstg, hcmts, hmd⟩
    · have hmem : r + k ∈ s.waitingWords m := by
        refine List.mem_flatMap.2 ⟨r, hr, ?_⟩
        simp only [List.mem_cons, List.not_mem_nil, or_false] at hk ⊢
        omega
      rw [s.hifNow_rd hrising, if_pos hmem, State.reg]
    · have hnot : off ∉ s.waitingWords m := fun hmem => by
        obtain ⟨r, hr, hin⟩ := List.mem_flatMap.1 hmem
        exact hoff r hr hin
      rw [s.hifNow_rd hrising, if_neg hnot]
  case applies =>
    subst hok
    obtain ⟨hact, hstg⟩ := s.setLaid_copies b
    have hkeeps : s.Keeps (s.cmtApply b true) := State.cmtApply_keeps (.refl s)
    refine ⟨_, exec_commitApply s b true, ?_, ?_, hkeeps.mode, hkeeps.now, hkeeps.pending, State.cmtApply_cmt hst hsafe hall⟩
    · rw [State.cmtApply_applies hst hsafe hall, State.cause_act, State.setCmt_act, hact]
    · rw [State.cmtApply_applies hst hsafe hall, State.cause_stg, State.setCmt_stg, hstg]

end Sys2Proof.Machine
end

section
/-! SUPPORT. The servo's update: its heartbeat, the loop that follows a target, and what is noted after it. -/

namespace Sys2Proof.Machine

open Sys2Proof

theorem exec_servoUpdate (s : State) : exec .servoUpdate s = .next (if s.fmu.halted then s else (s.cmtApply .srv true).servoUpdate) := rfl

/-! A reference read after a change of it or of another. -/

theorem State.refAt_setRef_self {s : State} {i : Nat} (f : RefSt → RefSt) (h : i < s.ref.refs.length) :
    (s.setRef i f).refAt i = f (s.refAt i) := by
  unfold State.refAt
  rw [State.setRef_ref, updAt, List.getD_eq_getElem _ _ (by simpa using h), List.getElem_modify_eq, List.getD_eq_getElem _ _ h]

theorem State.refAt_setRef_ne {s : State} {i j : Nat} (f : RefSt → RefSt) (h : j ≠ i) : (s.setRef i f).refAt j = s.refAt j := by
  unfold State.refAt
  rw [State.setRef_ref, updAt, List.getD_eq_getElem?_getD, List.getElem?_modify_ne f _ h.symm, List.getD_eq_getElem?_getD]

/-! The heartbeat. -/

/-- The state with its heartbeat restarted (R593). -/
def State.beaten (s : State) : State := { s with fmu := { s.fmu with lastHeart := s.now } }

@[simp] theorem State.beaten_now (s : State) : s.beaten.now = s.now := rfl
@[simp] theorem State.beaten_md (s : State) : s.beaten.md = s.md := rfl
@[simp] theorem State.beaten_tb (s : State) : s.beaten.tb = s.tb := rfl
@[simp] theorem State.beaten_act (s : State) : s.beaten.act = s.act := rfl
@[simp] theorem State.beaten_stg (s : State) : s.beaten.stg = s.stg := rfl
@[simp] theorem State.beaten_ports (s : State) : s.beaten.ports = s.ports := rfl
@[simp] theorem State.beaten_srv (s : State) : s.beaten.srv = s.srv := rfl
@[simp] theorem State.beaten_refAt (s : State) (i : Nat) : s.beaten.refAt i = s.refAt i := rfl
@[simp] theorem State.beaten_islandOut (s : State) (k : Nat) : s.beaten.islandOut k = s.islandOut k := rfl

section
variable {s : State} {i : Nat}

theorem State.servoUpdate_halted (h : s.fmu.halted = true) : s.servoUpdate = s := if_pos h

theorem State.servoUpdate_idle (hrun : s.fmu.halted = false) (h : s.md.mode.running = false) : s.servoUpdate = s.beaten := by
  unfold State.servoUpdate
  rw [if_neg (by simp [hrun])]
  exact if_pos (by simp [h])

/-! What follows the loop in an update that tracks. -/

/-- An operation to be issued again waits for none when there is none. -/
theorem State.retryRemoval_none (h : s.srv.retry = false) : s.retryRemoval = s := if_neg (by simp [h])

/-- The parts in which the error is followed, and what is noted of y_cmd and of the reference's time. -/
def State.noted (s : State) (lockSince : Option Nat) (within1ns : Bool) (stageSince : Option Nat) (out : OutSt) (yHist : List (Nat × Rat))
    (refTime : Option TimeWord) : State :=
  { s with md := { s.md with lockSince := lockSince, within1ns := within1ns }, out := out,
           srv := { s.srv with stageSince := stageSince, yHist := yHist, refTime := refTime } }

section
variable (s : State) (l : Option Nat) (w : Bool) (ss : Option Nat) (o : OutSt) (yh : List (Nat × Rat)) (rt : Option TimeWord)

@[simp] theorem State.noted_fmu : (s.noted l w ss o yh rt).fmu = s.fmu := rfl
@[simp] theorem State.noted_mode : (s.noted l w ss o yh rt).md.mode = s.md.mode := rfl
@[simp] theorem State.noted_tb : (s.noted l w ss o yh rt).tb = s.tb := rfl
@[simp] theorem State.noted_act : (s.noted l w ss o yh rt).act = s.act := rfl
@[simp] theorem State.noted_stg : (s.noted l w ss o yh rt).stg = s.stg := rfl
@[simp] theorem State.noted_ports : (s.noted l w ss o yh rt).ports = s.ports := rfl
@[simp] theorem State.noted_refAt (i : Nat) : (s.noted l w ss o yh rt).refAt i = s.refAt i := rfl
@[simp] theorem State.noted_i : (s.noted l w ss o yh rt).srv.i = s.srv.i := rfl
@[simp] theorem State.noted_p : (s.noted l w ss o yh rt).srv.p = s.srv.p := rfl
@[simp] theorem State.noted_zf : (s.noted l w ss o yh rt).srv.zf = s.srv.zf := rfl
@[simp] theorem State.noted_yCmd : (s.noted l w ss o yh rt).srv.yCmd = s.srv.yCmd := rfl

end

theorem State.followError_eq (s : State) : ∃ l w ss o, s.followError = s.noted l w ss o s.srv.yHist s.srv.refTime := by
  unfold State.followError
  split
  · exact ⟨none, s.md.within1ns, s.srv.stageSince, s.out, rfl⟩
  · rw [State.latchUnmute_outputsOnly]
    exact ⟨_, _, _, _, rfl⟩

/-- The end of an update: an operation issued again, the error followed, and y_cmd and the reference's time noted. -/
def State.loopEnded (s : State) : State :=
  let s2 := s.retryRemoval.followError
  let yh := (s2.srv.yHist ++ [(s2.now, s2.srv.yCmd)]).filter (fun x => decide (s2.now ≤ x.1 + 64 * nsPerSec))
  let keeps := s2.md.mode == .holdover || s2.md.mode == .maintain
  let rt := if !keeps && decide (s2.nsNow < 1000000) then s2.srv.refLatch else s2.srv.refTime
  { s2 with srv := { s2.srv with yHist := yh, refTime := rt } }

theorem State.loopEnded_noted (h : s.srv.retry = false) : ∃ l w ss o yh rt, s.loopEnded = s.noted l w ss o yh rt := by
  obtain ⟨l, w, ss, o, hfollow⟩ := s.followError_eq
  unfold State.loopEnded
  rw [State.retryRemoval_none h, hfollow]
  exact ⟨l, w, ss, o, _, _, rfl⟩

/-- An update of a loop that tracks: its heartbeat, the loop's own step, and its end. -/
theorem State.servoUpdate_tracking (hrun : s.fmu.halted = false) (hmode : s.md.mode.running = true) (hisl : s.islandOut 3 = false)
    (hst : s.srv.st = .tracking) (htarget : s.srv.target = some i) : s.servoUpdate = (s.beaten.trackUpdate i).loopEnded := by
  have hserves : ¬(!s.beaten.md.mode.running || s.beaten.islandOut 3) = true := by
    simp [hmode, hisl]
  unfold State.servoUpdate
  rw [if_neg (by simp [hrun])]
  refine (if_neg hserves).trans ?_
  simp only [hst, htarget]
  rfl

/-! The loop's own step. -/

/-- A reference whose measurement has been taken. -/
def RefSt.taken (r : RefSt) : RefSt := { r with isNew := false }

/-- The time between the measurement before and this one, in seconds; 1 s where there was none. -/
def State.loopTime (s : State) (i : Nat) : Rat :=
  match s.srv.lastZ with
  | some x => (((s.refAt i).lastAt.getD s.now - x.1 : Nat) : Rat) / 1000000000
  | none => 1

theorem State.trackUpdate_old (h : (s.refAt i).isNew = false) :
    s.trackUpdate i = { s with srv := { s.srv with zf := s.srv.zf - s.srv.p * 65536000000 } } := by
  unfold State.trackUpdate State.takeZ
  simp only [h, Bool.false_eq_true, if_false]

/-- With time set no SET is issued: the newest measurement is taken, and the loop steps on it. -/
theorem State.trackUpdate_new (h : (s.refAt i).isNew = true) (hi : i < s.ref.refs.length) (htime : s.md.timeSet = true) :
    s.trackUpdate i = (s.setRef i RefSt.taken).loopStep i (s.refAt i).z (s.loopTime i) := by
  have hlast : ((s.setRef i RefSt.taken).refAt i).lastAt = (s.refAt i).lastAt := by rw [State.refAt_setRef_self _ hi]; rfl
  unfold State.trackUpdate State.takeZ
  simp only [h, if_true]
  refine (if_neg (by simp [State.loopStep, htime])).trans (congrArg ((s.setRef i RefSt.taken).loopStep i (s.refAt i).z) ?_)
  unfold State.loopTime
  rw [← hlast]
  cases hz : s.srv.lastZ with
  | none => simp only [State.setRef_srv, hz]
  | some x => simp only [State.setRef_srv, hz, State.setRef_now, Nat.cast_ofNat]; rfl

end

section
variable (s : State) (i : Nat) (z : Int) (tm : Rat)

@[simp] theorem State.loopStep_fmu : (s.loopStep i z tm).fmu = s.fmu := rfl
@[simp] theorem State.loopStep_md : (s.loopStep i z tm).md = s.md := rfl
@[simp] theorem State.loopStep_tb : (s.loopStep i z tm).tb = s.tb := rfl
@[simp] theorem State.loopStep_act : (s.loopStep i z tm).act = s.act := rfl
@[simp] theorem State.loopStep_stg : (s.loopStep i z tm).stg = s.stg := rfl
@[simp] theorem State.loopStep_ports : (s.loopStep i z tm).ports = s.ports := rfl
@[simp] theorem State.loopStep_refAt (j : Nat) : (s.loopStep i z tm).refAt j = s.refAt j := rfl

/-! The loop's quantities after a step (R220). -/

/-- The natural frequency of the loop on a target, by the damping in force. -/
def State.loopWn : Rat := 2 * piQ * s.bwEff i / (if s.bit 0x70000 30 then 1010 / 100 else 2058 / 1000)

theorem State.loopStep_i : (s.loopStep i z tm).srv.i = s.srv.i + s.loopWn i * s.loopWn i * (((z : Rat) - s.srv.bo) / 65536000000000) * tm := rfl

theorem State.loopStep_p : (s.loopStep i z tm).srv.p =
    2 * (if s.bit 0x70000 30 then 5 else 707 / 1000) * s.loopWn i * (((z : Rat) - s.srv.bo) / 65536000000000) := rfl

theorem State.loopStep_zf : (s.loopStep i z tm).srv.zf = s.srv.zf + min 1 (2 * piQ * s.bwEff i * tm) * ((z : Rat) - s.srv.zf) := rfl

theorem State.loopStep_yCmd : (s.loopStep i z tm).srv.yCmd =
    s.quantY (clampY (s.srv.yAnchor + (s.loopStep i z tm).srv.i + (s.loopStep i z tm).srv.p)) := rfl

end

/-- Settles O26: a pending set first; with none the heartbeat alone, or the step of a loop that tracks, with a measurement and without. -/
theorem servoRunsTheLoopOfItsRule : Obligations.ServoRunsTheLoopOfItsRule := by
  intro s
  refine ⟨fun hhalt => ?halted, fun hrun => ⟨fun u hst hmode hu => ?set, fun hnone hmode => ?idle,
    fun i hst hmode hisl htrack htarget hretry htime hi => ?tracking⟩⟩
  case halted => rw [exec_servoUpdate, if_pos hhalt]
  all_goals have hexec : exec .servoUpdate s = .next (s.cmtApply .srv true).servoUpdate := by rw [exec_servoUpdate, if_neg (by simp [hrun])]
  case set =>
    obtain rfl : s.cmtApply .srv true = u := Host.Outcome.next.inj hu
    have hdone : ((s.cmtApply .srv true).cmt .srv).st = 3 := by
      rw [State.cmtApply_cmt hst (by simpa [State.safePoint] using hmode) nofun]
      rfl
    refine ⟨?_, hdone⟩
    rw [hexec, exec_servoUpdate, State.cmtApply_not_pending (s := s.cmtApply .srv true) (by rw [hdone]; decide)]
    split
    case isTrue hhalt => rw [State.servoUpdate_halted hhalt]
    case isFalse => rfl
  case idle =>
    have hsame : s.cmtApply .srv true = s := by
      obtain hst | hmaintain := hnone
      · exact State.cmtApply_not_pending hst
      · exact State.cmtApply_early (by simp [State.safePoint, hmaintain])
    rw [hexec, hsame, State.servoUpdate_idle hrun hmode]
    rfl
  case tracking =>
    have hlen : i < s.beaten.ref.refs.length := hi
    rw [State.cmtApply_not_pending hst, State.servoUpdate_tracking hrun hmode hisl htrack htarget] at hexec
    cases hnew : (s.refAt i).isNew with
    | true =>
      rw [State.trackUpdate_new (s := s.beaten) hnew hlen htime] at hexec
      have htaken : ((s.beaten.setRef i RefSt.taken).refAt i).isNew = false := by rw [State.refAt_setRef_self _ hlen]; rfl
      obtain ⟨l, w, ss, o, yh, rt, hnoted⟩ :=
        State.loopEnded_noted (s := (s.beaten.setRef i RefSt.taken).loopStep i (s.refAt i).z (s.beaten.loopTime i)) hretry
      refine ⟨_, hexec.trans (congrArg _ hnoted), by simp; rfl, by simp, by simp, by simp, by simp, by simp,
        fun _ => ⟨?_, ?_, ?_, ?_, ?_⟩, nofun⟩
      · rw [State.noted_i, State.loopStep_i]; rfl
      · rw [State.noted_p, State.loopStep_p]; rfl
      · rw [State.noted_zf, State.loopStep_zf]; rfl
      · rw [State.noted_yCmd, State.noted_i, State.noted_p, State.loopStep_yCmd]; rfl
      · rw [State.noted_refAt, State.loopStep_refAt, htaken]
    | false =>
      rw [State.trackUpdate_old (s := s.beaten) hnew] at hexec
      obtain ⟨l, w, ss, o, yh, rt, hnoted⟩ :=
        State.loopEnded_noted (s := { s.beaten with srv := { s.srv with zf := s.srv.zf - s.srv.p * 65536000000 } }) hretry
      exact ⟨_, hexec.trans (congrArg _ hnoted), by simp; rfl, by simp, by simp, by simp, by simp, by simp, nofun,
        fun _ => ⟨by simp, by simp, by simp⟩⟩

end Sys2Proof.Machine
end

section
/-! SUPPORT. References visited one after another: by an evaluation, and by the second's residuals. -/

namespace Sys2Proof.Machine

open Sys2Proof

/-! A visit changes no other reference than the one visited. -/

section
variable {f : State → Nat → State} (hne : ∀ (u : State) (j k : Nat), k ≠ j → (f u j).refAt k = u.refAt k)
include hne

theorem foldl_refAt_of_not_mem {l : List Nat} {i : Nat} (hi : i ∉ l) (s : State) : (l.foldl f s).refAt i = s.refAt i := by
  induction l generalizing s with
  | nil => rfl
  | cons j l ih =>
    obtain ⟨hij, hil⟩ : i ≠ j ∧ i ∉ l := by simpa using hi
    rw [List.foldl_cons, ih hil, hne s j i hij]

/-- A reference visited once: it is then as it was before the first visit, and after its own visit as it is after the last. `R` is what
every visit keeps. -/
theorem foldl_visit {R : State → State → Prop} (hrefl : ∀ s, R s s) (htrans : ∀ {r s t}, R r s → R s t → R r t)
    (hR : ∀ u j, R u (f u j)) {l : List Nat} (hl : l.Nodup) {i : Nat} (hi : i ∈ l) (s : State) :
    ∃ u, R s u ∧ u.refAt i = s.refAt i ∧ R (f u i) (l.foldl f s) ∧ (l.foldl f s).refAt i = (f u i).refAt i := by
  have hfold : ∀ (k : List Nat) (u : State), R u (k.foldl f u) := fun k => by
    induction k with
    | nil => exact hrefl
    | cons j k ih => exact fun u => htrans (hR u j) (ih _)
  obtain ⟨before, after, rfl⟩ := List.mem_iff_append.1 hi
  obtain ⟨_, ⟨hafter, _⟩, hdisj⟩ := by simpa only [List.nodup_append, List.nodup_cons] using hl
  have hbefore : i ∉ before := fun h => hdisj i h i (List.mem_cons_self ..) rfl
  rw [List.foldl_append, List.foldl_cons]
  exact ⟨before.foldl f s, hfold _ _, foldl_refAt_of_not_mem hne hbefore s, hfold _ _, foldl_refAt_of_not_mem hne hafter _⟩

end

/-! What the visits of an evaluation move beside the references. -/

/-- An evaluation moves the references, the flags of the selector, the counters and the last instant at which a reference qualified. -/
structure State.EvalFrame (s t : State) : Prop where
  rest : t = { s with ctr := t.ctr, md := { s.md with acqSeen := t.md.acqSeen },
                      ref := { s.ref with refs := t.ref.refs, ensWeak := t.ref.ensWeak, forceMiss := t.ref.forceMiss } }
  len : t.ref.refs.length = s.ref.refs.length

theorem State.EvalFrame.refl (s : State) : s.EvalFrame s := ⟨rfl, rfl⟩

theorem State.EvalFrame.trans {r s t : State} (a : r.EvalFrame s) (b : s.EvalFrame t) : r.EvalFrame t :=
  ⟨by rw [b.rest, a.rest], b.len.trans a.len⟩

theorem State.EvalFrame.ite {r a b : State} {c : Prop} [Decidable c] (ha : r.EvalFrame a) (hb : r.EvalFrame b) :
    r.EvalFrame (if c then a else b) := by
  split <;> assumption

theorem State.refreshSel_evalFrame (s : State) : s.EvalFrame s.refreshSel := by
  unfold State.refreshSel
  exact .ite (.refl s) ⟨rfl, rfl⟩

theorem State.EvalFrame.act {s t : State} (h : s.EvalFrame t) : t.act = s.act := by rw [h.rest]

theorem State.EvalFrame.stg {s t : State} (h : s.EvalFrame t) : t.stg = s.stg := by rw [h.rest]

theorem State.EvalFrame.ports {s t : State} (h : s.EvalFrame t) : t.ports = s.ports := by rw [h.rest]

theorem State.EvalFrame.tb {s t : State} (h : s.EvalFrame t) : t.tb = s.tb := by rw [h.rest]

theorem State.EvalFrame.refOn {s t : State} (h : s.EvalFrame t) (i : Nat) : t.refOn i = s.refOn i := by
  rw [h.rest]; rfl

/-- The activity and time-of-day monitors of a reference that is as active as before say what they said. -/
theorem State.EvalFrame.activityOk {s t : State} (h : s.EvalFrame t) {i : Nat} (hactive : (t.refAt i).active = (s.refAt i).active) :
    t.activityOk i = s.activityOk i := by
  unfold State.activityOk
  rw [hactive, h.rest]
  rfl

/-- A visit to a reference: what an evaluation may move, and no other reference. -/
structure State.Visits (i : Nat) (s t : State) : Prop where
  frame : s.EvalFrame t
  others : ∀ j, j ≠ i → t.refAt j = s.refAt j

theorem State.Visits.refl (i : Nat) (s : State) : s.Visits i s := ⟨.refl s, fun _ _ => rfl⟩

theorem State.Visits.trans {i : Nat} {r s t : State} (a : r.Visits i s) (b : s.Visits i t) : r.Visits i t :=
  ⟨a.frame.trans b.frame, fun j hj => (b.others j hj).trans (a.others j hj)⟩

theorem State.Visits.ite {i : Nat} {r a b : State} {c : Prop} [Decidable c] (ha : r.Visits i a) (hb : r.Visits i b) :
    r.Visits i (if c then a else b) := by
  split <;> assumption

theorem State.setRef_visits (s : State) (i : Nat) (g : RefSt → RefSt) : s.Visits i (s.setRef i g) :=
  ⟨⟨rfl, updAt_length _ _ _⟩, fun _ hj => State.refAt_setRef_ne g hj⟩

theorem State.leaves_refAt (s : State) (i j : Nat) : (s.leaves i).refAt j = s.refAt j := by
  unfold State.leaves
  split <;> rfl

theorem State.leaves_visits (s : State) (i : Nat) : s.Visits i (s.leaves i) := by
  refine ⟨?_, fun j _ => s.leaves_refAt i j⟩
  unfold State.leaves
  exact .ite ⟨rfl, rfl⟩ (.refl s)

theorem State.refreshSel_refAt (s : State) (j : Nat) : s.refreshSel.refAt j = s.refAt j := by
  unfold State.refreshSel
  split <;> rfl

theorem State.toDisq_visits (s : State) (i : Nat) (mark : RefSt → RefSt) : s.Visits i (s.toDisq i mark) := by
  unfold State.toDisq
  exact .ite (s.setRef_visits i _)
    (((s.leaves_visits i).trans (State.setRef_visits _ i _)).trans ⟨State.refreshSel_evalFrame _, fun j _ => State.refreshSel_refAt _ j⟩)

/-- A reference sent to DISQ is there with the cause bits that `mark` gives it. -/
theorem State.toDisq_refAt_self {s : State} {i : Nat} (mark : RefSt → RefSt) (hi : i < s.ref.refs.length) (hst : (s.refAt i).st ≠ .disq) :
    (s.toDisq i mark).refAt i =
      { mark (s.refAt i) with st := .disq, passSince := none, wtrLeft := 0, twait := false, endWtr := false, fromDrift := false } := by
  have hlen : i < (s.leaves i).ref.refs.length := by rwa [(s.leaves_visits i).frame.len]
  unfold State.toDisq
  rw [if_neg (by simpa using hst), State.refreshSel_refAt, State.refAt_setRef_self _ hlen, State.leaves_refAt]

/-! The visits of an evaluation: projection, failures and movements. -/

/-- Projection forms what SCORE and the limits go by: neither the state of its reference nor its monitors. -/
theorem State.project_cases (s : State) (i : Nat) : s.project i = s ∨
    ∃ y d ttl sc, s.project i = s.setRef i fun r => { r with y := y, dRate := d, ttl := ttl, score := sc, xEst := r.x } := by
  by_cases hunjudged : (!s.refOn i || (s.refAt i).st == .disq || s.weakNow i) = true
  · exact .inl (if_pos hunjudged)
  · refine .inr ?_
    rw [State.project, if_neg hunjudged]
    extract_lets
    exact ⟨_, _, _, _, rfl⟩

theorem State.project_visits (s : State) (i : Nat) : s.Visits i (s.project i) := by
  obtain h | ⟨y, d, ttl, sc, h⟩ := s.project_cases i
  · rw [h]; exact .refl i s
  · rw [h]; exact s.setRef_visits i _

theorem State.project_refAt_self (s : State) {i : Nat} (hi : i < s.ref.refs.length) :
    ((s.project i).refAt i).st = (s.refAt i).st ∧ ((s.project i).refAt i).active = (s.refAt i).active := by
  obtain h | ⟨y, d, ttl, sc, h⟩ := s.project_cases i
  · rw [h]; exact ⟨rfl, rfl⟩
  · rw [h, State.refAt_setRef_self _ hi]; exact ⟨rfl, rfl⟩

theorem State.evalFails_visits (s : State) (i : Nat) : s.Visits i (s.evalFails i) := by
  unfold State.evalFails
  extract_lets r los freq te integ qlf guard low
  exact .ite (.refl i s) (.ite (s.toDisq_visits i _) (.ite ((s.leaves_visits i).trans (State.setRef_visits _ i _)) (.refl i s)))

/-- A watched reference whose activity fails goes to DISQ with LOS set. -/
theorem State.evalFails_inactive {s : State} {i : Nat} (hi : i < s.ref.refs.length) (hon : s.refOn i = true) (hst : (s.refAt i).st ≠ .disq)
    (hact : s.activityOk i = false) : ((s.evalFails i).refAt i).st = .disq ∧ ((s.evalFails i).refAt i).los = true := by
  unfold State.evalFails
  rw [if_neg (by simpa [hon] using hst), if_pos (by simp [hact]), State.toDisq_refAt_self _ hi hst]
  exact ⟨rfl, by simp [hact]⟩

theorem State.toQual_visits (s : State) (i : Nat) : s.Visits i (s.toQual i) := s.setRef_visits i _

theorem State.intoWtr_visits (s : State) (i n : Nat) (fromDrift twait : Bool) : s.Visits i (s.intoWtr i n fromDrift twait) := s.setRef_visits i _

theorem State.toWtr_visits (s : State) (i : Nat) (fromDrift : Bool) : s.Visits i (s.toWtr i fromDrift) := s.intoWtr_visits i _ _ _

theorem State.evalMoves_visits (s : State) (i : Nat) : s.Visits i (s.evalMoves i) := by
  unfold State.evalMoves
  extract_lets pass s1 r timeOk
  have h1 : s.Visits i s1 := s.setRef_visits i _
  clear_value s1
  refine .ite (.refl i s) (.ite h1 (h1.trans ?_))
  split
  · refine .ite ?_ (s1.toWtr_visits i _)
    exact .ite (.refl i s1) (.ite (s1.toQual_visits i) ((s1.intoWtr_visits i _ _ _).trans (State.setRef_visits _ i _)))
  · exact .ite (s1.toWtr_visits i _) (.refl i s1)
  · exact .ite (s1.setRef_visits i _) (.ite (.ite (s1.toQual_visits i) (s1.setRef_visits i _)) (.refl i s1))
  · exact .refl i s1

end Sys2Proof.Machine
end

section
/-! SUPPORT. That a choice leaves a reference in DISQ as it is, and what an evaluation of the selector comes to. -/

namespace Sys2Proof.Machine

open Sys2Proof

/-! What a choice looks at and marks. -/

/-- The highest-ranked of some references is one of them. -/
theorem State.bestOf_mem {s : State} {l : List Nat} {i : Nat} (h : s.bestOf l = some i) : i ∈ l := by
  have hmem : ∀ j ∈ s.bestOf l, j ∈ l := by
    unfold State.bestOf
    refine List.foldlRecOn (motive := fun b : Option Nat => ∀ j ∈ b, j ∈ l) l _ nofun fun b hb n hn => ?_
    split
    · simpa using hn
    · split
      · simpa using hn
      · exact hb
  exact hmem i h

theorem State.eligible_st {s : State} {i : Nat} (h : s.eligible i = true) : (s.refAt i).st ≠ .disq := by
  intro hst
  simp [State.eligible, State.member, hst] at h

/-- What the selector would choose is in QUAL or SEL. -/
theorem State.wanted_st {s : State} {i : Nat} (h : s.wanted = some i) : (s.refAt i).st ≠ .disq := by
  have hbest : s.bestOf s.eligList = some i → (s.refAt i).st ≠ .disq := fun hb =>
    State.eligible_st (List.mem_filter.1 (State.bestOf_mem hb)).2
  unfold State.wanted at h
  extract_lets f best at h
  split at h
  case isTrue hforced =>
    obtain rfl : f = i := Option.some.inj h
    exact State.eligible_st (Bool.and_eq_true_iff.1 hforced).2
  case isFalse =>
    split at h
    · exact hbest h
    · split at h
      · split at h
        case h_1.isTrue c _ hsel =>
          obtain rfl : c = i := Option.some.inj h
          rw [beq_iff_eq.1 hsel]
          decide
        case h_1.isFalse => exact hbest h
      · exact hbest h

theorem State.thawWeft_ref (s : State) : s.thawWeft.ref = s.ref := by
  unfold State.thawWeft
  split <;> rfl

theorem State.freezeWeft_ref (s : State) (e0 : Rat) : (s.freezeWeft e0).ref = s.ref := by
  unfold State.freezeWeft
  split <;> rfl

theorem State.beginHold_ref (s : State) (y0 : Rat) : (s.beginHold y0).ref = s.ref := by
  unfold State.beginHold State.newHold
  split
  · exact s.freezeWeft_ref _
  · exact State.freezeWeft_ref _ _

theorem State.cancelSlew_ref (s : State) : s.cancelSlew.ref = s.ref := by
  unfold State.cancelSlew
  split <;> rfl

theorem State.refAt_congr {s t : State} (h : t.ref.refs = s.ref.refs) (i : Nat) : t.refAt i = s.refAt i := by
  unfold State.refAt
  rw [h]

/-- A Splice takes the newest measurement of its target, and leaves every other reference. -/
theorem State.beginSplice_refAt {s : State} {new : Option Nat} {i : Nat} (hi : new ≠ some i) (elig : List Nat) (oldPasses again : Bool) :
    (s.beginSplice new elig oldPasses again).refAt i = s.refAt i := by
  unfold State.beginSplice
  extract_lets b s1 temp _ v _ s2
  have hbridge : s1.ref = s.ref := by
    unfold s1
    split
    · rfl
    · exact s.cancelSlew_ref
  have h2 : s2.refAt i = s.refAt i := State.refAt_congr (congrArg SelSt.refs hbridge) i
  split
  case h_1 t =>
    rw [State.refAt_congr (congrArg SelSt.refs (State.thawWeft_ref _)), State.refAt_setRef_ne _ fun hit => hi (congrArg some hit.symm)]
    exact h2
  case h_2 =>
    rw [State.refAt_congr (congrArg SelSt.refs (State.beginHold_ref _ _))]
    exact h2

/-- A new choice moves the reference chosen and the one that was in SEL. -/
theorem State.markSel_refAt {s : State} {new : Option Nat} {i : Nat} (hi : new ≠ some i) (hst : (s.refAt i).st = .disq) (reason : Nat) :
    (s.markSel new reason).refAt i = s.refAt i := by
  unfold State.markSel
  extract_lets old s1 s2 ref sel modes md gns s3
  have hold : s.ref.sel = old := rfl
  clear_value old
  have h1 : s1.refAt i = s.refAt i := by
    unfold s1
    split
    case h_1 c =>
      split
      case isTrue hleft =>
        have hsel : (s.refAt c).st = .sel := by
          have hstands : s.selStands = true := (Bool.and_eq_true_iff.1 hleft).1
          simpa [State.selStands, hold] using hstands
        refine State.refAt_setRef_ne _ fun hic => ?_
        rw [hic, hsel] at hst
        cases hst
      case isFalse => rfl
    case h_2 => rfl
  have h2 : s2.refAt i = s.refAt i := by
    rw [← h1]
    unfold s2
    split
    case h_1 j => exact State.refAt_setRef_ne _ fun hij => hi (congrArg some hij.symm)
    case h_2 => rfl
  have h3 : s3.refAt i = s.refAt i := h2
  split
  · exact h3
  · rw [State.refAt_congr (congrArg SelSt.refs (State.cause_ref _ _))]
    exact h3

/-- A choice leaves a reference in DISQ as it is. -/
theorem State.choose_refAt {s : State} {i : Nat} (hst : (s.refAt i).st = .disq) (why : Nat) : (s.choose why).refAt i = s.refAt i := by
  obtain h | ⟨srv, h⟩ | ⟨u, reason, again, hu, h⟩ := s.choose_cases why
  · rw [h]
    unfold State.dropInMaintain
    split
    · rfl
    · split
      · rfl
      · exact State.refAt_congr (congrArg SelSt.refs (State.cause_ref _ _)) i
  · rw [h]; rfl
  · have hwanted : s.wanted ≠ some i := fun hw => State.wanted_st hw hst
    have hsame : u.refAt i = s.refAt i := State.refAt_congr (by rw [hu]) i
    rw [h, State.switchTo, State.beginSplice_refAt hwanted, State.markSel_refAt hwanted (by rw [hsame, hst]), hsame]

end Sys2Proof.Machine
end

section
/-! SUPPORT. What an evaluation of the selector comes to. -/

namespace Sys2Proof.Machine

open Sys2Proof

theorem exec_selectorEvaluation (s : State) : exec .selectorEvaluation s = .next (s.cmtApply .ref true).selectorEval := rfl

/-! The stages of an evaluation: projection, failures, then movements of those that have not failed (R199). -/

def State.evalProjected (s : State) : State := (List.range 17).foldl (fun u i => u.project i) s

def State.evalFailed (s : State) : State := (List.range 17).foldl (fun u i => u.evalFails i) s.evalProjected

/-- The movement of one reference: none where the failures changed its state. -/
def State.evalMove (s u : State) (i : Nat) : State :=
  if (s.evalFailed.refAt i).st == (s.evalProjected.refAt i).st then u.evalMoves i else u

def State.evalMoved (s : State) : State := (List.range 17).foldl s.evalMove s.evalFailed

/-- The state in which the selector chooses, once the stages are over: the window's offers and the flags follow. -/
def State.choiceReady (s : State) (srv : SrvSt) : State := ({ s with srv := srv } : State).refreshSel

/-- The last instant at which a reference qualified, noted. -/
def State.acqNoted (s : State) (acq : Nat) : State := { s with md := { s.md with acqSeen := acq } }

theorem State.selectorEval_stages {s : State} (hserve : s.md.mode.serving = true) :
    ∃ srv why acq, s.selectorEval = ((s.evalMoved.choiceReady srv).choose why).acqNoted acq := by
  unfold State.selectorEval
  rw [if_neg (by simp [hserve])]
  extract_lets all s1 s2 s3 why still servo s4 s5
  have h5 : s5 = (s.evalMoved.choiceReady { s3.srv with win := s3.srv.win.map still }).choose why := rfl
  clear_value s5
  by_cases hany : all.any s5.member = true
  · exact ⟨_, why, s5.now, by rw [if_pos hany, ← h5]; rfl⟩
  · exact ⟨_, why, s5.md.acqSeen, by rw [if_neg hany, ← h5]; rfl⟩

theorem State.acqNoted_refAt (s : State) (acq i : Nat) : (s.acqNoted acq).refAt i = s.refAt i := rfl

theorem State.choiceReady_refAt (s : State) (srv : SrvSt) (i : Nat) : (s.choiceReady srv).refAt i = s.refAt i :=
  State.refreshSel_refAt _ i

/-- A choice leaves both copies of the registers, Warp and the ports. -/
theorem State.choice_leaves (s : State) (srv : SrvSt) (why acq : Nat) :
    let t := ((s.choiceReady srv).choose why).acqNoted acq
    t.act = s.act ∧ t.stg = s.stg ∧ t.tb.warp = s.tb.warp ∧ t.ports = s.ports := by
  have hready : ({ s with srv := srv } : State).EvalFrame (s.choiceReady srv) := State.refreshSel_evalFrame _
  have hchoice := (s.choiceReady srv).choose_selectorFrame why
  exact ⟨hchoice.act.trans hready.act, (State.choose_stg _ why).trans hready.stg, hchoice.warp.trans (congrArg TbSt.warp hready.tb),
    hchoice.ports.trans hready.ports⟩

/-- References visited in the order of an evaluation, one visit each. -/
theorem foldl_visits {f : State → Nat → State} (hf : ∀ u j, State.Visits j u (f u j)) {i : Nat} (hi : i < 17) (s : State) :
    ∃ u, s.EvalFrame u ∧ u.refAt i = s.refAt i ∧ s.EvalFrame ((List.range 17).foldl f s) ∧
      ((List.range 17).foldl f s).refAt i = (f u i).refAt i := by
  obtain ⟨u, hu, hbefore, hafter, hself⟩ := foldl_visit (fun u j k hk => (hf u j).others k hk) State.EvalFrame.refl State.EvalFrame.trans
    (fun u j => (hf u j).frame) List.nodup_range (List.mem_range.2 hi) s
  exact ⟨u, hu, hbefore, (hu.trans (hf u i).frame).trans hafter, hself⟩

theorem State.evalMove_visits (s u : State) (i : Nat) : u.Visits i (s.evalMove u i) := .ite (u.evalMoves_visits i) (.refl i u)

section
variable {s : State} {i : Nat}

/-- A reference after the projections is in its state and as active as before. -/
theorem State.evalProjected_refAt (hi : i < 17) (hlen : s.ref.refs.length = 17) : s.EvalFrame s.evalProjected ∧
    (s.evalProjected.refAt i).st = (s.refAt i).st ∧ (s.evalProjected.refAt i).active = (s.refAt i).active := by
  obtain ⟨u, hu, hbefore, hall, hself⟩ := foldl_visits State.project_visits hi s
  refine ⟨hall, ?_⟩
  have hproj := u.project_refAt_self (i := i) (by rw [hu.len, hlen]; exact hi)
  rwa [hbefore, ← hself] at hproj

/-- A watched reference whose activity fails is in DISQ with LOS set after the failures. -/
theorem State.evalFailed_inactive (hi : i < 17) (hlen : s.ref.refs.length = 17) (hon : s.refOn i = true) (hst : (s.refAt i).st ≠ .disq)
    (hact : s.activityOk i = false) : (s.evalFailed.refAt i).st = .disq ∧ (s.evalFailed.refAt i).los = true := by
  obtain ⟨hproj, hpst, hpact⟩ := State.evalProjected_refAt hi hlen
  obtain ⟨u, hu, hbefore, _, hself⟩ := foldl_visits State.evalFails_visits hi s.evalProjected
  have hframe : s.EvalFrame u := hproj.trans hu
  have hfails := State.evalFails_inactive (s := u) (i := i) (by rw [hframe.len, hlen]; exact hi) (by rw [hframe.refOn, hon])
    (by rw [hbefore, hpst]; exact hst) (by rw [hframe.activityOk (by rw [hbefore, hpact]), hact])
  rwa [← hself] at hfails

/-- A reference that the failures moved moves no more. -/
theorem State.evalMoved_refAt (hi : i < 17) (h : (s.evalFailed.refAt i).st ≠ (s.evalProjected.refAt i).st) :
    s.evalMoved.refAt i = s.evalFailed.refAt i := by
  obtain ⟨u, _, hbefore, _, hself⟩ := foldl_visits s.evalMove_visits hi s.evalFailed
  have hstays : s.evalMove u i = u := if_neg (by simpa using h)
  rw [State.evalMoved, hself, hstays, hbefore]

/-- Nor does a choice: the reference is in DISQ after the evaluation. -/
theorem State.selectorEval_inactive (hserve : s.md.mode.serving = true) (hlen : s.ref.refs.length = 17) (hi : i < 17)
    (hon : s.refOn i = true) (hst : (s.refAt i).st ≠ .disq) (hact : s.activityOk i = false) :
    (s.selectorEval.refAt i).st = .disq ∧ (s.selectorEval.refAt i).los = true := by
  obtain ⟨srv, why, acq, heval⟩ := State.selectorEval_stages hserve
  have hfailed := State.evalFailed_inactive hi hlen hon hst hact
  have hmoved : s.evalMoved.refAt i = s.evalFailed.refAt i := State.evalMoved_refAt hi (by
    rw [hfailed.1, (State.evalProjected_refAt hi hlen).2.1]; exact hst.symm)
  have hready : (s.evalMoved.choiceReady srv).refAt i = s.evalFailed.refAt i := (State.choiceReady_refAt _ srv i).trans hmoved
  rw [heval, State.acqNoted_refAt, State.choose_refAt (by rw [hready, hfailed.1]), hready]
  exact hfailed

/-- The stages move nothing but what an evaluation may move. -/
theorem State.evalMoved_evalFrame (hlen : s.ref.refs.length = 17) : s.EvalFrame s.evalMoved := by
  have hfirst : 0 < 17 := by decide
  obtain ⟨_, _, _, hfailed, _⟩ := foldl_visits State.evalFails_visits hfirst s.evalProjected
  obtain ⟨_, _, _, hmoved, _⟩ := foldl_visits s.evalMove_visits hfirst s.evalFailed
  exact ((State.evalProjected_refAt hfirst hlen).1.trans hfailed).trans hmoved

/-- An evaluation leaves the mode, both copies of the registers, Warp, the ports and elapsed time. -/
theorem State.selectorEval_leaves (hserve : s.md.mode.serving = true) (hlen : s.ref.refs.length = 17) :
    s.selectorEval.md.mode = s.md.mode ∧ s.selectorEval.act = s.act ∧ s.selectorEval.stg = s.stg ∧
      s.selectorEval.tb.warp = s.tb.warp ∧ s.selectorEval.ports = s.ports ∧ s.selectorEval.now = s.now := by
  obtain ⟨srv, why, acq, heval⟩ := State.selectorEval_stages hserve
  have hkeeps : s.Keeps s.selectorEval := State.selectorEval_keeps (.refl s)
  have hmoved : s.EvalFrame s.evalMoved := State.evalMoved_evalFrame hlen
  obtain ⟨hact, hstg, hwarp, hports⟩ := s.evalMoved.choice_leaves srv why acq
  refine ⟨hkeeps.mode, ?_, ?_, ?_, ?_, hkeeps.now⟩
  · rw [heval, hact, hmoved.act]
  · rw [heval, hstg, hmoved.stg]
  · rw [heval, hwarp, hmoved.tb]
  · rw [heval, hports, hmoved.ports]

end
end Sys2Proof.Machine
end

section
/-! SUPPORT. The residuals of a second: each reference's snapshot, and its P by the weighted frequency of the others (R193). -/

namespace Sys2Proof.Machine

open Sys2Proof

theorem exec_ensembleUpdate (s : State) : exec .ensembleUpdate s = .next s.ensembleUpdate := rfl

theorem exec_wtrCountdown (s : State) : exec .wtrCountdown s = .next s.wtrCountdown := rfl

theorem sumQ_concat (l : List Rat) (x : Rat) : sumQ (l ++ [x]) = sumQ l + x := by
  simp only [sumQ, List.foldl_append, List.foldl_cons, List.foldl_nil]

/-! The snapshot. -/

/-- Every reference's phase of this second put into its history. -/
def State.snapped (s : State) : State := { s with ref := { s.ref with refs := s.ref.refs.map (RefSt.snap s.now) } }

theorem State.snapped_refAt (s : State) (i : Nat) : s.snapped.refAt i = RefSt.snap s.now (s.refAt i) :=
  List.getD_map s.ref.refs RefSt.reset _

theorem RefSt.snap_keeps (now : Nat) (r : RefSt) : (r.snap now).st = r.st ∧ (r.snap now).z = r.z ∧ (r.snap now).p = r.p := by
  unfold RefSt.snap
  extract_lets fresh
  split <;> exact ⟨rfl, rfl, rfl⟩

theorem RefSt.snap_fresh {now at_ : Nat} {r : RefSt} (hlast : r.lastAt = some at_) (h : now ≤ at_ + nsPerSec) :
    (r.snap now).secHist = (r.z :: r.secHist).take 66 := by
  unfold RefSt.snap
  simp only [hlast, h, decide_true, if_true]

theorem State.ensembleUpdate_serving {s : State} (hserve : s.md.mode.serving = true) :
    s.ensembleUpdate = (List.range 17).foldl (fun u i => u.ensOne i) s.snapped := if_neg (by simp [hserve])

/-! The residuals. -/

/-- What the residuals are part of: of each reference P, its history and x. -/
def RefSt.withResiduals (r : RefSt) (p : Rat) (pHist : List (Nat × Rat)) (x : Rat) : RefSt := { r with p := p, pHist := pHist, x := x }

/-- The residuals move nothing else. -/
structure State.ResidualFrame (s t : State) : Prop where
  rest : t = { s with ref := { s.ref with refs := t.ref.refs } }
  each : ∀ j, ∃ p pHist x, t.refAt j = (s.refAt j).withResiduals p pHist x
  len : t.ref.refs.length = s.ref.refs.length

theorem State.ResidualFrame.refl (s : State) : s.ResidualFrame s := ⟨rfl, fun j => ⟨(s.refAt j).p, (s.refAt j).pHist, (s.refAt j).x, rfl⟩, rfl⟩

theorem State.ResidualFrame.trans {r s t : State} (a : r.ResidualFrame s) (b : s.ResidualFrame t) : r.ResidualFrame t := by
  refine ⟨by rw [b.rest, a.rest], fun j => ?_, b.len.trans a.len⟩
  obtain ⟨_, _, _, ha⟩ := a.each j
  obtain ⟨p, pHist, x, hb⟩ := b.each j
  exact ⟨p, pHist, x, by rw [hb, ha]; rfl⟩

section
variable {s t : State} (h : s.ResidualFrame t) (j : Nat)
include h

theorem State.ResidualFrame.st : (t.refAt j).st = (s.refAt j).st := by
  obtain ⟨_, _, _, hj⟩ := h.each j
  rw [hj]; rfl

theorem State.ResidualFrame.z : (t.refAt j).z = (s.refAt j).z := by
  obtain ⟨_, _, _, hj⟩ := h.each j
  rw [hj]; rfl

theorem State.ResidualFrame.secHist : (t.refAt j).secHist = (s.refAt j).secHist := by
  obtain ⟨_, _, _, hj⟩ := h.each j
  rw [hj]; rfl

theorem State.ResidualFrame.yNow : (t.refAt j).yNow = (s.refAt j).yNow := by
  obtain ⟨_, _, _, hj⟩ := h.each j
  rw [hj]; rfl

end

/-- The frequencies that a reference is held against, each with its weight: of the other members, as the second shows them in `t`, and of
the oscillator. -/
def State.ensTerms (s t : State) (i : Nat) : List (Rat × Rat) :=
  (((List.range 17).filter fun j => j != i && s.member j).filterMap fun j =>
    (t.refAt j).yNow.map fun y => (ensWeight (t.refAt j).secHist, y)) ++ [(s.oscWeight, s.oscFreq * 65536000000000)]

/-- The weighted frequency of some terms. -/
def weightedFreq (terms : List (Rat × Rat)) : Rat := sumQ (terms.map fun x => x.1 * x.2) / sumQ (terms.map (·.1))

/-- P of a reference after its residuals: two seconds in a row add the difference of its frequency from the weighted one. -/
def State.ensP (s : State) (i : Nat) : Rat :=
  (s.refAt i).p + ((s.refAt i).yNow.map fun y => y - weightedFreq (s.ensTerms s i)).getD 0

/-- A reference is judged in this second: watched, not in DISQ, not weak, and with something to be held against. -/
def State.ensJudged (s : State) (i : Nat) : Bool :=
  s.refOn i && (s.refAt i).st != .disq && !s.weakNow i && decide (sumQ ((s.ensTerms s i).map (·.1)) ≠ 0)

theorem State.ensTerms_weight (s t : State) (i : Nat) : sumQ ((s.ensTerms t i).map (·.1)) =
    sumQ ((((List.range 17).filter fun j => j != i && s.member j).filterMap fun j =>
      (t.refAt j).yNow.map fun y => (ensWeight (t.refAt j).secHist, y)).map (·.1)) + s.oscWeight := by
  rw [State.ensTerms, List.map_append, List.map_singleton, sumQ_concat]

theorem State.ensTerms_product (s t : State) (i : Nat) : sumQ ((s.ensTerms t i).map fun x => x.1 * x.2) =
    sumQ ((((List.range 17).filter fun j => j != i && s.member j).filterMap fun j =>
      (t.refAt j).yNow.map fun y => (ensWeight (t.refAt j).secHist, y)).map fun x => x.1 * x.2) + s.oscWeight * s.oscFreq * sSns := by
  rw [State.ensTerms, List.map_append, List.map_singleton, sumQ_concat, mul_assoc]
  rfl

/-- The residuals of a reference that is judged; of any other nothing changes. -/
theorem State.ensOne_eq (s : State) (i : Nat) : ∃ pHist x, s.ensOne i =
    if s.ensJudged i then s.setRef i fun _ => (s.refAt i).withResiduals (s.ensP i) pHist x else s := by
  by_cases hout : (!s.refOn i || (s.refAt i).st == .disq) = true
  · have hnot : ¬s.ensJudged i = true := by
      obtain hoff | hdisq := Bool.or_eq_true_iff.1 hout
      · simp_all [State.ensJudged]
      · simp_all [State.ensJudged]
    exact ⟨[], 0, by rw [if_neg hnot]; exact if_pos hout⟩
  rw [State.ensOne, if_neg hout]
  extract_lets others pairs wo tot yy r1 ds wd x
  have htot : tot = sumQ ((s.ensTerms s i).map (·.1)) := (s.ensTerms_weight s i).symm
  have hyy : yy = weightedFreq (s.ensTerms s i) := by
    rw [weightedFreq, s.ensTerms_product, ← htot]
  by_cases hnone : s.weakNow i = true ∨ tot = 0
  · have hnot : ¬s.ensJudged i = true := by
      rw [htot] at hnone
      obtain hweak | hzero := hnone
      · simp [State.ensJudged, hweak]
      · simp [State.ensJudged, hzero]
    exact ⟨[], 0, by rw [if_neg hnot]; exact if_pos hnone⟩
  · have hjudged : s.ensJudged i = true := by
      rw [htot] at hnone
      simp_all [State.ensJudged]
    have hr1 : r1 = (s.refAt i).withResiduals (s.ensP i) r1.pHist r1.x := by
      unfold r1 State.ensP
      rw [← hyy]
      cases hy : (s.refAt i).yNow with
      | none => simp [RefSt.withResiduals]
      | some y => simp [RefSt.withResiduals]
    clear_value r1
    refine ⟨r1.pHist, x, ?_⟩
    rw [if_neg hnone, if_pos hjudged, hr1]
    rfl

theorem State.setRef_residualFrame (s : State) (i : Nat) (p : Rat) (pHist : List (Nat × Rat)) (x : Rat) :
    s.ResidualFrame (s.setRef i fun _ => (s.refAt i).withResiduals p pHist x) := by
  refine ⟨rfl, fun j => ?_, updAt_length _ _ _⟩
  by_cases hj : j = i
  · subst hj
    by_cases hlen : j < s.ref.refs.length
    · exact ⟨p, pHist, x, State.refAt_setRef_self _ hlen⟩
    · refine ⟨(s.refAt j).p, (s.refAt j).pHist, (s.refAt j).x, State.refAt_congr ?_ j⟩
      exact List.modify_eq_self (Nat.le_of_not_lt hlen)
  · exact ⟨(s.refAt j).p, (s.refAt j).pHist, (s.refAt j).x, State.refAt_setRef_ne _ hj⟩

theorem State.ensOne_residualFrame (s : State) (i : Nat) : s.ResidualFrame (s.ensOne i) := by
  obtain ⟨pHist, x, h⟩ := s.ensOne_eq i
  rw [h]
  split
  · exact s.setRef_residualFrame i _ _ _
  · exact .refl s

theorem State.ensOne_refAt_ne {s : State} {i j : Nat} (hj : j ≠ i) : (s.ensOne i).refAt j = s.refAt j := by
  obtain ⟨pHist, x, h⟩ := s.ensOne_eq i
  rw [h]
  split
  · exact State.refAt_setRef_ne _ hj
  · rfl

theorem State.ensOne_p {s : State} {i : Nat} (hi : i < s.ref.refs.length) (h : s.ensJudged i = true) : ((s.ensOne i).refAt i).p = s.ensP i := by
  obtain ⟨pHist, x, heq⟩ := s.ensOne_eq i
  rw [heq, if_pos h, State.refAt_setRef_self _ hi]
  rfl

/-! What the weights and the members go by stands through the second. -/

/-- Only the references have changed, and none of them its state. -/
structure State.SameStates (s t : State) : Prop where
  rest : t = { s with ref := { s.ref with refs := t.ref.refs } }
  st : ∀ j, (t.refAt j).st = (s.refAt j).st

theorem State.ResidualFrame.sameStates {s t : State} (h : s.ResidualFrame t) : s.SameStates t := ⟨h.rest, h.st⟩

theorem State.snapped_sameStates (s : State) : s.SameStates s.snapped :=
  ⟨rfl, fun j => by rw [s.snapped_refAt, (RefSt.snap_keeps _ _).1]⟩

theorem State.SameStates.trans {r s t : State} (a : r.SameStates s) (b : s.SameStates t) : r.SameStates t :=
  ⟨by rw [b.rest, a.rest], fun j => (b.st j).trans (a.st j)⟩

section
variable {s t : State} (h : s.SameStates t)
include h

theorem State.SameStates.member (j : Nat) : t.member j = s.member j := by
  unfold State.member
  rw [h.st]

theorem State.SameStates.refOn (j : Nat) : t.refOn j = s.refOn j := by
  rw [h.rest]; rfl

theorem State.SameStates.weakNow (i : Nat) : t.weakNow i = s.weakNow i := by
  have hlearnt : t.srv.learnt = s.srv.learnt := by rw [h.rest]
  unfold State.weakNow
  simp only [hlearnt, h.member]

theorem State.SameStates.osc : t.oscWeight = s.oscWeight ∧ t.oscFreq = s.oscFreq := by
  rw [h.rest]; exact ⟨rfl, rfl⟩

end

/-- The terms of a reference are the same by whatever state of the second they are formed. -/
theorem State.ensTerms_congr {s t u v : State} (hs : s.SameStates u) (ht : v.ResidualFrame t) (i : Nat) : u.ensTerms v i = s.ensTerms t i := by
  simp only [State.ensTerms, hs.member, ht.yNow, ht.secHist, hs.osc.1, hs.osc.2]

/-- A second's residuals: the snapshots, and what they move beside. -/
theorem State.ensembleUpdate_residualFrame {s : State} (hserve : s.md.mode.serving = true) : s.snapped.ResidualFrame s.ensembleUpdate := by
  obtain ⟨u, hu, _, hafter, _⟩ := foldl_visit (fun u j k => State.ensOne_refAt_ne (s := u) (i := j) (j := k)) State.ResidualFrame.refl
    State.ResidualFrame.trans State.ensOne_residualFrame List.nodup_range (List.mem_range.2 (show 0 < 17 by decide)) s.snapped
  rw [State.ensembleUpdate_serving hserve]
  exact (hu.trans (u.ensOne_residualFrame 0)).trans hafter

/-- P of a reference that is judged, and has two seconds in a row. -/
theorem State.ensembleUpdate_p {s : State} {i : Nat} {y : Rat} (hserve : s.md.mode.serving = true) (hlen : s.ref.refs.length = 17) (hi : i < 17)
    (hon : s.refOn i = true) (hst : (s.refAt i).st ≠ .disq) (hweak : s.weakNow i = false) (hy : (s.ensembleUpdate.refAt i).yNow = some y)
    (htot : sumQ ((s.ensTerms s.ensembleUpdate i).map (·.1)) ≠ 0) :
    (s.ensembleUpdate.refAt i).p = (s.refAt i).p + (y - weightedFreq (s.ensTerms s.ensembleUpdate i)) := by
  obtain ⟨u, hu, hbefore, hafter, hself⟩ := foldl_visit (fun u j k => State.ensOne_refAt_ne (s := u) (i := j) (j := k))
    State.ResidualFrame.refl State.ResidualFrame.trans State.ensOne_residualFrame List.nodup_range (List.mem_range.2 hi) s.snapped
  rw [← State.ensembleUpdate_serving hserve] at hafter hself
  have hsame : s.SameStates u := s.snapped_sameStates.trans hu.sameStates
  have hlast : u.ResidualFrame s.ensembleUpdate := (u.ensOne_residualFrame i).trans hafter
  have hterms : u.ensTerms u i = s.ensTerms s.ensembleUpdate i := State.ensTerms_congr hsame hlast i
  have hjudged : u.ensJudged i = true := by
    simp [State.ensJudged, hsame.refOn, hsame.st, hsame.weakNow, hterms, hon, hst, hweak, htot]
  have hp : (u.refAt i).p = (s.refAt i).p := by rw [hbefore, s.snapped_refAt, (RefSt.snap_keeps _ _).2.2]
  calc (s.ensembleUpdate.refAt i).p = u.ensP i := by rw [hself, State.ensOne_p (by rw [hu.len, State.snapped, List.length_map, hlen]; exact hi) hjudged]
    _ = (s.refAt i).p + (y - weightedFreq (s.ensTerms s.ensembleUpdate i)) := by
      rw [State.ensP, hp, hterms, ← hlast.yNow, hy, Option.map_some, Option.getD_some]

/-! The countdown of WTR. -/

theorem State.wtrCountdown_serving {s : State} (hserve : s.md.mode.serving = true) : s.wtrCountdown = { s with ref := { s.ref with
    refs := s.ref.refs.map fun r => if r.st == .wtr then { r with wtrLeft := r.wtrLeft - 1 } else r } } := if_neg (by simp [hserve])

/-- Settles O24: the set before the evaluation, the evaluation by its stages, the second's residuals visit by visit, and the countdown. -/
theorem selectorDisqualifiesAndCountsDown : Obligations.SelectorDisqualifiesAndCountsDown := by
  intro s hserve hlen
  have hframe := State.ensembleUpdate_residualFrame hserve
  refine ⟨fun u hst hu => ?set, fun hst => ?evaluation, ⟨_, exec_ensembleUpdate s, ?rest, fun i _ => ?standing, fun i _ at_ hlast hsec => ?history,
    fun i hi y hon hst hweak hy htot => ?residual⟩, ?countdown⟩
  case set =>
    obtain rfl : s.cmtApply .ref true = u := Host.Outcome.next.inj hu
    have hdone : ((s.cmtApply .ref true).cmt .ref).st = 3 := by
      rw [State.cmtApply_cmt hst rfl nofun]
      rfl
    refine ⟨?_, hdone⟩
    rw [exec_selectorEvaluation, exec_selectorEvaluation, State.cmtApply_not_pending (s := s.cmtApply .ref true) (by rw [hdone]; decide)]
  case evaluation =>
    refine ⟨s.selectorEval, by rw [exec_selectorEvaluation, State.cmtApply_not_pending hst], fun i hi hon hi' hact => ?_,
      State.selectorEval_leaves hserve hlen⟩
    exact State.selectorEval_inactive hserve hlen hi hon hi' hact
  case rest => exact hframe.rest
  case standing =>
    obtain ⟨hst, hz, _⟩ := RefSt.snap_keeps s.now (s.refAt i)
    rw [hframe.st, hframe.z, s.snapped_refAt]
    exact ⟨hst, hz⟩
  case history => rw [hframe.secHist, s.snapped_refAt, RefSt.snap_fresh hlast hsec]
  case residual => exact State.ensembleUpdate_p hserve hlen hi hon hst hweak hy htot
  case countdown => rw [exec_wtrCountdown, State.wtrCountdown_serving hserve]

end Sys2Proof.Machine
end

section
/-! SUPPORT. Weft loaded from Warp, and steered toward it at each whole second. -/

namespace Sys2Proof.Machine

open Sys2Proof

theorem exec_weftLoad (s : State) (lSync : Nat) : exec (.weftLoad lSync) s = .next (s.weftLoad lSync) := rfl

theorem exec_weftSteer (s : State) : exec .weftSteer s = .next s.weftSteer := rfl

/-- Weft less Warp's second, both L_SYNC later (R111). -/
def State.weftOffset (s : State) : Int := -(weftDiff (s.secNow * nsPerSec + s.tb.lSync) (s.weftNs + s.tb.lSync))

/-- What the loop makes of an offset of Weft (R112, R559, R560). -/
def State.steerBy (s : State) (d : Int) : State :=
  let s1 := { s with tb := { s.tb with d := d } }
  if s1.tb.freeze.isSome then s1 else
  let rmax : Rat := (s1.fld 0x78020 9 0 : Nat)
  let tau : Rat := if s1.vBit then (s1.fld 0x78020 29 16 : Nat) else 1
  let ph : Rat := if s1.vBit then clampQ (-rmax) rmax (-(d : Rat) / tau) else -(d : Rat)
  let yi := clampQ (-200000) 200000 (s1.tb.yInt - (d : Rat) / (4 * tau * tau))
  { s1 with tb := { s1.tb with yInt := yi, phase := ph, allow := max 0 (s1.tb.allow - rmax) } }

section
variable {s : State} {lSync : Nat} {d : Int}

theorem State.weftLoad_between (h : s.nsNow ≠ 0) : s.weftLoad lSync = s := if_neg (by simp [h])

theorem State.weftLoad_first (hsec : s.nsNow = 0) (hmode : s.md.mode ≠ .boot) (hload : s.tb.weftLoaded = false) :
    s.weftLoad lSync = { s with tb := { s.tb with
      weftFix := s.secNow * nsPerSec * 2 ^ 32, weftPhase := 0, weftLoaded := true, lSync := lSync, yInt := 0, phase := 0 } } :=
  if_pos (by simp [hsec, hmode, hload])

theorem State.weftSteer_eq (s : State) :
    s.weftSteer = if !s.tb.weftLoaded || decide (s.nsNow ≠ 0) then s else s.steerBy s.weftOffset := rfl

theorem State.weftSteer_between (h : s.nsNow ≠ 0) : s.weftSteer = s := by
  rw [State.weftSteer_eq, if_pos (by simp [h])]

theorem State.weftSteer_second (hsec : s.nsNow = 0) (hload : s.tb.weftLoaded = true) : s.weftSteer = s.steerBy s.weftOffset := by
  rw [State.weftSteer_eq, if_neg (by simp [hsec, hload])]

theorem State.steerBy_holdover (h : s.tb.freeze.isSome = true) : s.steerBy d = { s with tb := { s.tb with d := d } } := if_pos h

theorem State.steerBy_unset (h : s.tb.freeze = none) (hv : s.vBit = false) : s.steerBy d = { s with tb := { s.tb with
      d := d, phase := -(d : Rat), yInt := clampQ (-200000) 200000 (s.tb.yInt - (d : Rat) / 4),
      allow := max 0 (s.tb.allow - (s.fld 0x78020 9 0 : Nat)) } } := by
  have hfour : (4 : Rat) * 1 * 1 = 4 := by norm_num
  have hv' : ({ s with tb := { s.tb with d := d } } : State).vBit = false := hv
  unfold State.steerBy
  rw [if_neg (by simp [h])]
  simp only [hv', Bool.false_eq_true, if_false, hfour]
  rfl

theorem State.steerBy_set (h : s.tb.freeze = none) (hv : s.vBit = true) : s.steerBy d =
    let rmax : Rat := (s.fld 0x78020 9 0 : Nat)
    let tau : Rat := (s.fld 0x78020 29 16 : Nat)
    { s with tb := { s.tb with
      d := d, phase := clampQ (-rmax) rmax (-(d : Rat) / tau), yInt := clampQ (-200000) 200000 (s.tb.yInt - (d : Rat) / (4 * tau * tau)),
      allow := max 0 (s.tb.allow - rmax) } } := by
  have hv' : ({ s with tb := { s.tb with d := d } } : State).vBit = true := hv
  unfold State.steerBy
  rw [if_neg (by simp [h])]
  simp only [hv', if_true]
  rfl

end

/-- Settles O13: the load by its three conditions, and the loop by Weft's holdover and by V. -/
theorem weftLoadsOnceAndSteersTowardWarp : Obligations.WeftLoadsOnceAndSteersTowardWarp := by
  intro s lSync
  refine ⟨fun hns => ⟨?_, ?_⟩, fun hsec hmode hload => ?_, fun hsec hload => ⟨fun hfreeze => ?_, fun hfreeze hv => ?_, fun hfreeze hv => ?_⟩⟩
  · rw [exec_weftLoad, State.weftLoad_between hns]
  · rw [exec_weftSteer, State.weftSteer_between hns]
  · rw [exec_weftLoad, State.weftLoad_first hsec hmode hload]
  · rw [exec_weftSteer, State.weftSteer_second hsec hload, State.steerBy_holdover hfreeze, State.weftOffset]
  · rw [exec_weftSteer, State.weftSteer_second hsec hload, State.steerBy_unset hfreeze hv, State.weftOffset]
  · rw [exec_weftSteer, State.weftSteer_second hsec hload, State.steerBy_set hfreeze hv, State.weftOffset]

end Sys2Proof.Machine
end

section
/-! SUPPORT. The operations of the step unit as they are issued, checked and shown in TB_STEP_STAT. -/

namespace Sys2Proof.Machine

open Sys2Proof

theorem exec_tbSet (s : State) (tok : BitVec 16) : exec (.tbSet tok) s = .next (s.visibleStep 1 tok) := rfl

theorem exec_tbStep (s : State) (tok : BitVec 16) : exec (.tbStep tok) s = .next (s.visibleStep 2 tok) := rfl

theorem exec_tbSlew (s : State) (tok : BitVec 16) : exec (.tbSlew tok) s = .next (s.visibleStep 3 tok) := rfl

theorem exec_tbCancel (s : State) (tok : BitVec 16) : exec (.tbCancel tok) s = .next (s.visibleStep 4 tok) := rfl

theorem exec_stepCheckDone (s : State) (a b : Bool) : exec (.stepCheckDone a b) s = .next (s.stepCheck a b) := rfl

/-! TB_STEP_STAT. -/

/-- TB_STEP_STAT with the state and the code of an operation of the visible copy (R131). -/
def TbSt.shown (tb : TbSt) (r : StepRec) (st code : Nat) : TbSt :=
  { tb with stToken := r.token, stCode := code, stState := st, stDone := tb.stDone || (st == 3 || st == 7), stReject := tb.stReject || st == 4 }

section
variable {s : State} {r : StepRec} {rest : List StepRec} {a b : Bool}

/-- An operation of Bodkin's own copy does not show. -/
theorem State.stepStat_bodkin (h : r.bodkin = true) (st code : Nat) : s.stepStat r st code = s := if_pos h

theorem State.stepStat_visible (h : r.bodkin = false) (st code : Nat) : s.stepStat r st code =
    if (st == 3 || st == 7) || st == 4 then ({ s with tb := s.tb.shown r st code } : State).cause 3 else { s with tb := s.tb.shown r st code } :=
  if_neg (by simp [h])

theorem State.stepStat_tb (h : r.bodkin = false) (st code : Nat) : (s.stepStat r st code).tb = s.tb.shown r st code := by
  rw [State.stepStat_visible h]
  split
  · exact State.cause_tb _ _
  · rfl

theorem State.stepStat_eq (r : StepRec) (st code : Nat) :
    s.stepStat r st code = { s with tb := (s.stepStat r st code).tb, hif := (s.stepStat r st code).hif } := by
  cases h : r.bodkin
  case true => rw [State.stepStat_bodkin h]
  case false =>
    rw [State.stepStat_visible h]
    split
    · rw [State.cause_eq]
    · rfl

/-! The issue. -/

theorem State.visibleStep_taken (hw : s.noWrites = false) (op : Nat) (tok : BitVec 16) : s.visibleStep op tok = s.withIssued op tok := by
  unfold State.visibleStep State.stepIssue
  rw [if_neg (by simp [hw]), State.stepStat_visible rfl, if_neg (by decide)]
  simp [TbSt.shown, State.withIssued, State.visibleRec]

/-! The codes of R674 for an operation of the visible copy. -/

theorem State.stepCode_unsound {intact : Bool} (h : ¬(intact = true ∧ crc32 (stepBytes r) = r.chk.toNat)) : s.stepCode r intact = 0x11 :=
  if_pos (by simpa [Classical.or_iff_not_imp_left] using h)

section
variable {intact : Bool} (hsound : intact = true ∧ crc32 (stepBytes r) = r.chk.toNat)
include hsound

theorem State.stepCode_unknown (h : r.op = 0 ∨ 4 < r.op) : s.stepCode r intact = 0x13 := by
  unfold State.stepCode
  rw [if_neg (by simp [hsound]), if_pos (by omega)]

variable (hr : r.bodkin = false)
include hr

omit hsound hr in
theorem State.stepPermitted_visible : s.stepPermitted false = true ↔ s.md.mode = .freerun ∧ s.bit 0x78024 0 = true := by
  simp [State.stepPermitted]

theorem State.stepCode_move (hlo : 1 ≤ r.op) (hhi : r.op ≤ 3) : s.stepCode r intact =
    if ¬(s.md.mode = .freerun ∧ s.bit 0x78024 0 = true) then 0x20
    else if ¬(s.tb.armed = none ∧ s.tb.slew = none) then 0x22
    else if r.badOperand then 0x10 else if r.badAmount then 0x12 else 0 := by
  have hmove : r.op ≠ 4 := by omega
  have hbusy : (s.tb.armed.isSome = true ∨ s.tb.slew.isSome = true) ↔ ¬(s.tb.armed = none ∧ s.tb.slew = none) := by
    rw [Option.isSome_iff_ne_none, Option.isSome_iff_ne_none, not_and_or]
  unfold State.stepCode
  rw [if_neg (by simp [hsound]), if_neg (by omega), hr]
  simp only [← State.stepPermitted_visible, ← hbusy]
  simp [hmove]

theorem State.stepCode_permitted (hlo : 1 ≤ r.op) (hhi : r.op ≤ 3) (hperm : s.md.mode = .freerun ∧ s.bit 0x78024 0 = true)
    (hfree : s.tb.armed = none ∧ s.tb.slew = none) :
    s.stepCode r intact = if r.badOperand then 0x10 else if r.badAmount then 0x12 else 0 := by
  rw [State.stepCode_move hsound hr hlo hhi, if_neg (not_not_intro hperm), if_neg (not_not_intro hfree)]

/-- The visible copy has an operation armed or a slew running. -/
def State.visibleActive (s : State) : Prop := (∃ x, s.tb.armed = some x ∧ x.bodkin = false) ∨ ∃ x, s.tb.slew = some x ∧ x.bodkin = false

omit hsound hr in
theorem State.canCancel_visible : s.canCancel false = true ↔ s.visibleActive := by
  unfold State.canCancel State.visibleActive
  cases s.tb.armed <;> cases s.tb.slew <;> simp

theorem State.stepCode_idle (hop : r.op = 4) (h : ¬s.visibleActive) : s.stepCode r intact = 0x24 := by
  have hcancel : s.canCancel false = false := Bool.eq_false_iff.2 (mt State.canCancel_visible.1 h)
  unfold State.stepCode
  rw [if_neg (by simp [hsound])]
  simp [hop, hr, hcancel]

theorem State.stepCode_cancel (hop : r.op = 4) (h : s.visibleActive) : s.stepCode r intact = if r.badOperand then 0x10 else 0 := by
  have hcancel : s.canCancel false = true := State.canCancel_visible.2 h
  unfold State.stepCode
  rw [if_neg (by simp [hsound])]
  simp [hop, hr, hcancel, StepRec.badAmount]

end
/-! The check. -/

/-- The state from which the oldest operation being checked has been taken. -/
def State.checkTaken (s : State) (rest : List StepRec) : State := { s with tb := { s.tb with checking := rest } }

/-- A state with an operation armed at this instant. -/
def State.withArmed (s : State) (r : StepRec) : State := { s with tb := { s.tb with armed := some { r with armedAt := s.now } } }

theorem State.stepCheck_eq (hq : s.tb.checking = r :: rest) (hr : r.bodkin = false) : s.stepCheck a b =
    let code := s.stepCode r (a && b)
    if code ≠ 0 then (s.checkTaken rest).stepStat r 4 code
    else if r.op = 4 then (s.checkTaken rest).stepCancel r else ((s.checkTaken rest).withArmed r).stepStat r 2 0 := by
  have hown : (r.bodkin && r.op != 4) = false := by rw [hr, Bool.false_and]
  unfold State.stepCheck
  rw [hq]
  simp only [hown, Bool.false_eq_true, if_false]
  rfl

theorem State.stepCancel_armed {x : StepRec} (hr : r.bodkin = false) (harmed : s.tb.armed = some x) :
    s.stepCancel r = ({ s with tb := { s.tb with armed := none } } : State).stepStat r 7 0 := by
  simp only [State.stepCancel, harmed, hr, Bool.false_eq_true, if_false]

theorem State.stepCancel_slewing (hr : r.bodkin = false) (harmed : s.tb.armed = none) : s.stepCancel r =
    ({ s with tb := { s.tb with slew := s.tb.slew.map fun x => { x with cancelled := true, token := r.token } } } : State).stepStat r 5 0 := by
  simp only [State.stepCancel, harmed, hr, Bool.false_eq_true, if_false]

section
variable (hq : s.tb.checking = r :: rest) (hr : r.bodkin = false)
include hq hr

/-- An operation that a code of R674 ends. -/
theorem State.stepCheck_refuses (h : s.stepCode r (a && b) ≠ 0) :
    (s.stepCheck a b).tb = (s.checkTaken rest).tb.shown r 4 (s.stepCode r (a && b)) := by
  rw [State.stepCheck_eq hq hr, if_pos h, State.stepStat_tb hr]

theorem State.stepCheck_arms (h : s.stepCode r (a && b) = 0) (hop : r.op ≠ 4) :
    (s.stepCheck a b).tb = ((s.checkTaken rest).withArmed r).tb.shown r 2 0 := by
  rw [State.stepCheck_eq hq hr, if_neg (not_not_intro h), if_neg hop, State.stepStat_tb hr]

theorem State.stepCheck_withdraws {x : StepRec} (h : s.stepCode r (a && b) = 0) (hop : r.op = 4) (harmed : s.tb.armed = some x) :
    (s.stepCheck a b).tb = ({ (s.checkTaken rest).tb with armed := none } : TbSt).shown r 7 0 := by
  rw [State.stepCheck_eq hq hr, if_neg (not_not_intro h), if_pos hop, State.stepCancel_armed (s := s.checkTaken rest) hr harmed, State.stepStat_tb hr]

theorem State.stepCheck_endsSlew (h : s.stepCode r (a && b) = 0) (hop : r.op = 4) (harmed : s.tb.armed = none) :
    (s.stepCheck a b).tb = ({ (s.checkTaken rest).tb with
      slew := s.tb.slew.map fun x => { x with cancelled := true, token := r.token } } : TbSt).shown r 5 0 := by
  rw [State.stepCheck_eq hq hr, if_neg (not_not_intro h), if_pos hop, State.stepCancel_slewing (s := s.checkTaken rest) hr harmed, State.stepStat_tb hr]
  rfl

/-- Whatever the check comes to, the operation is taken, its token shows, and only the time base and the host interface change. -/
theorem State.stepCheck_frame : (s.stepCheck a b).tb.checking = rest ∧ (s.stepCheck a b).tb.stToken = r.token ∧
    s.stepCheck a b = { s with tb := (s.stepCheck a b).tb, hif := (s.stepCheck a b).hif } := by
  have hshown (u : State) (st code : Nat) (hu : u = { s with tb := u.tb }) (hc : u.tb.checking = rest) :
      (u.stepStat r st code).tb.checking = rest ∧ (u.stepStat r st code).tb.stToken = r.token ∧
      u.stepStat r st code = { s with tb := (u.stepStat r st code).tb, hif := (u.stepStat r st code).hif } := by
    refine ⟨?_, ?_, ?_⟩
    · rw [State.stepStat_tb hr]
      exact hc
    · rw [State.stepStat_tb hr]
      rfl
    · rw [State.stepStat_eq, hu]
  rw [State.stepCheck_eq hq hr]
  dsimp only
  split
  · exact hshown _ _ _ rfl rfl
  split
  · cases harmed : s.tb.armed with
    | some x =>
      rw [State.stepCancel_armed (s := s.checkTaken rest) hr harmed]
      exact hshown _ _ _ rfl rfl
    | none =>
      rw [State.stepCancel_slewing (s := s.checkTaken rest) hr harmed]
      exact hshown _ _ _ rfl rfl
  · exact hshown _ _ _ rfl rfl

end
end

/-- Settles O14: each of the four commands issues its own operation. -/
theorem stepOperationsAreIssuedForTheDualCheck : Obligations.StepOperationsAreIssuedForTheDualCheck := by
  intro s tok hw
  refine ⟨?_, ?_, ?_, ?_⟩
  · rw [exec_tbSet, State.visibleStep_taken hw]
  · rw [exec_tbStep, State.visibleStep_taken hw]
  · rw [exec_tbSlew, State.visibleStep_taken hw]
  · rw [exec_tbCancel, State.visibleStep_taken hw]

/-- Settles O15: what the check comes to by the operation's code, and the code by the first fault that applies. -/
theorem stepCheckArmsOrEndsWithItsCode : Obligations.StepCheckArmsOrEndsWithItsCode := by
  intro s a b r rest hq hr sound free mine
  obtain ⟨hchecking, htoken, hframe⟩ := State.stepCheck_frame (a := a) (b := b) hq hr
  have hrefuse {code : Nat} (hcode : s.stepCode r (a && b) = code) (hne : code ≠ 0) :
      (s.stepCheck a b).tb = (s.checkTaken rest).tb.shown r 4 code := by
    subst hcode
    exact State.stepCheck_refuses hq hr hne
  refine ⟨s.stepCheck a b, exec_stepCheckDone s a b, hchecking, hframe, htoken, fun hbad => ?unsound, fun hs hop => ?unknown,
    fun hs hlo hhi hno => ?mode, fun hs hlo hhi hmode hbit hbusy => ?busy, fun hs hlo hhi hmode hbit hfree hbad => ?operand,
    fun hs hlo hhi hmode hbit hfree hgood hbad => ?amount, fun hs hlo hhi hmode hbit hfree hgood hsize => ?armed,
    fun hs hop hno => ?idle, fun hs hop hmine hbad => ?cancelOperand, fun x hs hop harmed hx hgood => ?withdrawn,
    fun x hs hop harmed hslew hx hgood => ?ended⟩
  case unsound =>
    rw [hrefuse (State.stepCode_unsound hbad) (by decide)]
    exact ⟨rfl, rfl, Bool.or_true _, rfl, rfl⟩
  case unknown =>
    rw [hrefuse (State.stepCode_unknown hs hop) (by decide)]
    exact ⟨rfl, rfl, rfl⟩
  case mode =>
    have hcode : s.stepCode r (a && b) = 0x20 := by rw [State.stepCode_move hs hr hlo hhi, if_pos hno]
    rw [hrefuse hcode (by decide)]
    exact ⟨rfl, rfl, rfl⟩
  case busy =>
    have hcode : s.stepCode r (a && b) = 0x22 := by
      rw [State.stepCode_move hs hr hlo hhi, if_neg (not_not_intro ⟨hmode, hbit⟩), if_pos hbusy]
    rw [hrefuse hcode (by decide)]
    exact ⟨rfl, rfl, rfl⟩
  case operand =>
    have hcode : s.stepCode r (a && b) = 0x10 := by
      rw [State.stepCode_permitted hs hr hlo hhi ⟨hmode, hbit⟩ hfree, if_pos hbad]
    rw [hrefuse hcode (by decide)]
    exact ⟨rfl, rfl, hfree.1⟩
  case amount =>
    have hcode : s.stepCode r (a && b) = 0x12 := by
      rw [State.stepCode_permitted hs hr hlo hhi ⟨hmode, hbit⟩ hfree, if_neg (by simp [hgood]), if_pos hbad]
    rw [hrefuse hcode (by decide)]
    exact ⟨rfl, rfl, hfree.1⟩
  case armed =>
    have hcode : s.stepCode r (a && b) = 0 := by
      rw [State.stepCode_permitted hs hr hlo hhi ⟨hmode, hbit⟩ hfree, if_neg (by simp [hgood]), if_neg (by simp [hsize])]
    rw [State.stepCheck_arms hq hr hcode (by omega)]
    exact ⟨rfl, rfl, rfl⟩
  case idle =>
    rw [hrefuse (State.stepCode_idle hs hr hop hno) (by decide)]
    exact ⟨rfl, rfl, rfl⟩
  case cancelOperand =>
    have hcode : s.stepCode r (a && b) = 0x10 := by rw [State.stepCode_cancel hs hr hop hmine, if_pos hbad]
    rw [hrefuse hcode (by decide)]
    exact ⟨rfl, rfl, rfl, rfl⟩
  case withdrawn =>
    have hcode : s.stepCode r (a && b) = 0 := by
      rw [State.stepCode_cancel hs hr hop (.inl ⟨x, harmed, hx⟩), if_neg (by simp [hgood])]
    rw [State.stepCheck_withdraws hq hr hcode hop harmed]
    exact ⟨rfl, rfl, Bool.or_true _, rfl, rfl⟩
  case ended =>
    have hcode : s.stepCode r (a && b) = 0 := by
      rw [State.stepCode_cancel hs hr hop (.inr ⟨x, hslew, hx⟩), if_neg (by simp [hgood])]
    rw [State.stepCheck_endsSlew hq hr hcode hop harmed, hslew]
    exact ⟨rfl, rfl, rfl⟩

end Sys2Proof.Machine
end

section
/-! SUPPORT. What the records of a change of Warp, its report and what follows from it leave of the counters, the mode and the registers. -/

namespace Sys2Proof.Machine

open Sys2Proof

/-- What recording, reporting and following a change of Warp leave: the instant, the mode, both copies of the registers, and of the time base
both counters, what Weft has yet to take, and the operation armed or running. -/
structure State.StepFrame (s t : State) : Prop where
  now : t.now = s.now
  md : t.md = s.md
  act : t.act = s.act
  stg : t.stg = s.stg
  tb : t.tb = { t.tb with warp := s.tb.warp, frac := s.tb.frac, weftFix := s.tb.weftFix, weftDue := s.tb.weftDue,
                          armed := s.tb.armed, slew := s.tb.slew }

section
variable {r s t : State}

theorem State.StepFrame.refl (s : State) : s.StepFrame s := ⟨rfl, rfl, rfl, rfl, rfl⟩

theorem State.StepFrame.trans (a : r.StepFrame s) (b : s.StepFrame t) : r.StepFrame t :=
  ⟨b.now.trans a.now, b.md.trans a.md, b.act.trans a.act, b.stg.trans a.stg, by rw [b.tb, a.tb]⟩

theorem State.StepFrame.ite {a b : State} {c : Prop} [Decidable c] (ha : r.StepFrame a) (hb : r.StepFrame b) :
    r.StepFrame (if c then a else b) := by split <;> assumption

theorem State.StepFrame.foldl {α : Type} {f : State → α → State} {l : List α} (hf : ∀ u x, State.StepFrame u (f u x)) (s : State) :
    s.StepFrame (l.foldl f s) := by
  induction l generalizing s with
  | nil => exact .refl s
  | cons x l ih => exact (hf s x).trans (ih (f s x))

theorem State.StepFrame.warp (h : s.StepFrame t) : t.tb.warp = s.tb.warp := by rw [h.tb]

theorem State.StepFrame.frac (h : s.StepFrame t) : t.tb.frac = s.tb.frac := by rw [h.tb]

theorem State.StepFrame.weftFix (h : s.StepFrame t) : t.tb.weftFix = s.tb.weftFix := by rw [h.tb]

theorem State.StepFrame.weftDue (h : s.StepFrame t) : t.tb.weftDue = s.tb.weftDue := by rw [h.tb]

theorem State.StepFrame.armed (h : s.StepFrame t) : t.tb.armed = s.tb.armed := by rw [h.tb]

theorem State.StepFrame.slew (h : s.StepFrame t) : t.tb.slew = s.tb.slew := by rw [h.tb]

theorem State.cause_stepFrame (s : State) (b : Nat) : s.StepFrame (s.cause b) :=
  ⟨s.cause_now b, s.cause_md b, s.cause_act b, s.cause_stg b, by rw [s.cause_tb b]⟩

/-! The records of the event buffer. -/

theorem State.bufPut_stepFrame (s : State) (x : BitVec 128) : s.StepFrame (s.bufPut x) := by
  unfold State.bufPut
  exact ⟨rfl, rfl, rfl, rfl, rfl⟩

theorem State.flushOverflow_stepFrame (s : State) : s.StepFrame s.flushOverflow := by
  unfold State.flushOverflow
  refine .ite ((s.bufPut_stepFrame (recOverflow s.tin.lost s.tin.lostTotal)).trans ?_) (.refl s)
  exact ⟨rfl, rfl, rfl, rfl, rfl⟩

theorem State.loseRecord_stepFrame (s : State) (inp : Option Nat) (atBuffer : Bool) : s.StepFrame (s.loseRecord inp atBuffer) := by
  unfold State.loseRecord
  cases inp
  all_goals
    refine .ite (.trans ?_ (State.cause_stepFrame _ 8)) ?_
    · exact ⟨rfl, rfl, rfl, rfl, rfl⟩
    · exact ⟨rfl, rfl, rfl, rfl, rfl⟩

theorem State.portWrite_stepFrame (s : State) (inp : Option Nat) (x : BitVec 128) : s.StepFrame (s.portWrite inp x) := by
  unfold State.portWrite
  exact s.flushOverflow_stepFrame.trans (.ite (State.loseRecord_stepFrame _ inp true) (State.bufPut_stepFrame _ x))

theorem State.drainFifos_stepFrame (k : Nat) (s : State) : s.StepFrame (State.drainFifos k s) := by
  induction k generalizing s with
  | zero => exact .refl s
  | succ k ih =>
    unfold State.drainFifos
    split
    · exact .refl s
    · split
      · exact .refl s
      · refine .trans (.trans ?_ (State.portWrite_stepFrame _ _ _)) (ih _)
        exact ⟨rfl, rfl, rfl, rfl, rfl⟩

theorem State.putStep_stepFrame (s : State) (op sec : Nat) (change : Int) : s.StepFrame (s.putStep op sec change) := by
  unfold State.putStep
  refine .trans (.trans ?_ (State.drainFifos_stepFrame 8192 _)) (State.portWrite_stepFrame _ none _)
  exact ⟨rfl, rfl, rfl, rfl, rfl⟩

/-! What follows from a change, its record and its report. -/

theorem State.bwClose_stepFrame (s : State) (n : Nat) (short next : Bool) : s.StepFrame (s.bwClose n short next) := ⟨rfl, rfl, rfl, rfl, rfl⟩

theorem State.bwStep_stepFrame (s : State) : s.StepFrame s.bwStep := by
  unfold State.bwStep
  refine .foldl (fun u n => ?_) s
  exact .ite (u.bwClose_stepFrame n true true) (.refl u)

theorem State.afterStep_stepFrame (s : State) (change : Int) (bo : Rat) : s.StepFrame (s.afterStep change bo) := ⟨rfl, rfl, rfl, rfl, rfl⟩

theorem State.recordChange_stepFrame (s : State) (bodkin : Bool) (op : Nat) (change : Int) : s.StepFrame (s.recordChange bodkin op change) := by
  unfold State.recordChange
  exact ⟨by rw [State.log_now], by rw [State.log_md], by rw [State.log_act], by rw [State.log_stg], by rw [State.log_tb]⟩

theorem State.recordChange_last (s : State) (bodkin : Bool) (op : Nat) (change : Int) : (s.recordChange bodkin op change).tb.last = satSym 64 change := by
  unfold State.recordChange
  rw [State.log_tb]

theorem State.stepStat_stepFrame (s : State) (x : StepRec) (st code : Nat) : s.StepFrame (s.stepStat x st code) := by
  cases h : x.bodkin
  case true =>
    rw [State.stepStat_bodkin h]
    exact .refl s
  case false =>
    rw [State.stepStat_eq]
    exact ⟨rfl, rfl, rfl, rfl, by rw [State.stepStat_tb h]; rfl⟩

theorem State.stepStat_last (s : State) (x : StepRec) (st code : Nat) : (s.stepStat x st code).tb.last = s.tb.last := by
  cases h : x.bodkin
  case true => rw [State.stepStat_bodkin h]
  case false => rw [State.stepStat_tb h]; rfl

end
end Sys2Proof.Machine
end

section
/-! SUPPORT. A SET, a STEP and the start of a SLEW at their apply instant. -/

namespace Sys2Proof.Machine

open Sys2Proof

theorem exec_stepApply (s : State) (a b : Bool) : exec (.stepApply a b) s = .next (s.stepApply a b) := rfl

section
variable {s t u : State} {r : StepRec} {a b : Bool}

/-! The instant A. -/

theorem State.stepApply_waits (harmed : s.tb.armed = some r)
    (h : s.now < r.armedAt + 1000000 ∨ s.nsNow ≠ 500000000 ∨ s.cancelWaits = true) : s.stepApply a b = s := by
  unfold State.stepApply
  rw [harmed]
  exact if_pos h

/-- A state in which the operation armed has been withdrawn for want of an agreement (R117). -/
def State.agreementLost (s : State) (r : StepRec) : State :=
  let u := ({ s with tb := { s.tb with armed := none } } : State).stepStat r 4 0x31
  if r.bodkin then { u with srv := { u.srv with removal := false } } else u

/-- The operation carried out. -/
def State.carryOut (s : State) (r : StepRec) : State :=
  match r.op with
  | 1 => s.applySet r
  | 2 => s.applyStep r
  | _ => s.startSlew r

theorem State.carryOut_set (hop : r.op = 1) : s.carryOut r = s.applySet r := by simp only [State.carryOut, hop]

theorem State.carryOut_step (hop : r.op = 2) : s.carryOut r = s.applyStep r := by simp only [State.carryOut, hop]

theorem State.carryOut_slew (hop : r.op = 3) : s.carryOut r = s.startSlew r := by simp only [State.carryOut, hop]

section
variable (harmed : s.tb.armed = some r) (hcancel : s.cancelWaits = false) (hat : r.armedAt + 1000000 ≤ s.now) (hhalf : s.nsNow = 500000000)
include harmed hcancel hat hhalf

theorem State.stepApply_due : s.stepApply a b = if !(a && b) then s.agreementLost r else s.carryOut r := by
  unfold State.stepApply
  rw [harmed]
  exact if_neg (by simp [hcancel, hhalf, hat])

theorem exec_stepApply_lost (hab : (a && b) = false) : exec (.stepApply a b) s = .next (s.agreementLost r) := by
  rw [exec_stepApply, State.stepApply_due harmed hcancel hat hhalf, if_pos (by simp [hab])]

theorem exec_stepApply_agreed : exec (.stepApply true true) s = .next (s.carryOut r) := by
  rw [exec_stepApply, State.stepApply_due harmed hcancel hat hhalf, if_neg (by decide)]

end

/-! Warp moved. -/

/-- Warp on its new scale, with what Weft is to take, and no operation armed. -/
structure State.Moved (s : State) (md : ModeSt) (target : Int) (c : WeftChange) (t : State) : Prop where
  warp : t.tb.warp = target.toNat / snsPerNs
  frac : t.tb.frac = target.toNat % snsPerNs
  weftFix : t.tb.weftFix = s.tb.weftFix
  weftDue : t.tb.weftDue = some c
  armed : t.tb.armed = none
  md : t.md = md
  act : t.act = s.act
  stg : t.stg = s.stg
  now : t.now = s.now

section
variable {md : ModeSt} {target change : Int} {c : WeftChange}

theorem State.Moved.frame (h : s.Moved md target c u) (f : u.StepFrame t) : s.Moved md target c t :=
  ⟨f.warp.trans h.warp, f.frac.trans h.frac, f.weftFix.trans h.weftFix, f.weftDue.trans h.weftDue, f.armed.trans h.armed,
    f.md.trans h.md, f.act.trans h.act, f.stg.trans h.stg, f.now.trans h.now⟩

theorem State.Moved.warpSns (h : s.Moved md target c t) (hpos : 0 ≤ target) : (t.warpSns : Int) = target := by
  unfold State.warpSns
  rw [h.warp, h.frac, Nat.div_add_mod']
  exact Int.toNat_of_nonneg hpos

/-- Comparisons count the change from A on (R118). -/
theorem State.Moved.weftCmp (h : s.Moved md target c t) : t.weftCmp = unsigned 64 ((s.weftNs : Int) + c.by_) := by
  unfold State.weftCmp State.weftNs
  rw [h.weftDue, h.weftFix]

/-- What Weft is to take: the time loaded, or the change rounded to the nearest nanosecond (R118, R123, R124). -/
def State.weftTakes (s : State) (change : Int) (weftTo : Option Nat) : WeftChange :=
  { load := weftTo, at_ := s.now, by_ := match weftTo with
    | some n => (n : Int) - s.tb.warp
    | none => roundQ ((change : Rat) / snsPerNs) }

theorem State.setWarp_within {weftTo : Option Nat} (h : 0 ≤ target ∧ target < ((2 ^ 48 * snsPerSec : Nat) : Int)) :
    s.setWarp target change weftTo = { s with tb := { s.tb with
      warp := target.toNat / snsPerNs, frac := target.toNat % snsPerNs, stepSum := s.tb.stepSum + change, weftDue := some (s.weftTakes change weftTo) } } := by
  have hok : decide (0 ≤ target ∧ target < ((2 ^ 48 * snsPerSec : Nat) : Int)) = true := decide_eq_true h
  unfold State.setWarp
  simp only [hok, if_true]
  rfl

/-- Warp moved, the windows closed before and the record of the change put (R161, R629). -/
def State.warpMoved (s : State) (target change : Int) (weftTo : Option Nat) (op : Nat) : State :=
  (s.bwStep.setWarp target change weftTo).putStep op s.secNow change

/-- The operation armed done, with what it leaves of the mode, the baseband and the instant of the last STEP. -/
def State.disarmed (s : State) (md : ModeSt) (gns : GnsSt) (stepAt : Option Nat) : State :=
  { s with md := md, gns := gns, tb := { s.tb with armed := none, gmBase := s.tb.gmBase + 1, stepAt := stepAt } }

/-- What follows from a change, its TIME_CHANGE record and its report. -/
def State.reported (s : State) (r : StepRec) (op : Nat) (change : Int) (bo : Rat) : State :=
  ((s.afterStep change bo).recordChange r.bodkin op change).stepStat r 3 0

theorem State.warpMoved_md (s : State) (weftTo : Option Nat) (op : Nat) (h : 0 ≤ target ∧ target < ((2 ^ 48 * snsPerSec : Nat) : Int)) :
    (s.warpMoved target change weftTo op).md = s.md := by
  unfold State.warpMoved
  rw [(State.putStep_stepFrame _ _ _ _).md, State.setWarp_within h]
  exact s.bwStep_stepFrame.md

theorem State.warpMoved_moved (weftTo : Option Nat) (op : Nat) (gns : GnsSt) (stepAt : Option Nat)
    (h : 0 ≤ target ∧ target < ((2 ^ 48 * snsPerSec : Nat) : Int)) :
    s.Moved md target (s.weftTakes change weftTo) ((s.warpMoved target change weftTo op).disarmed md gns stepAt) := by
  have hbw := s.bwStep_stepFrame
  have htakes : s.bwStep.weftTakes change weftTo = s.weftTakes change weftTo := by
    unfold State.weftTakes
    rw [hbw.now, hbw.warp]
  have hput := State.putStep_stepFrame (s.bwStep.setWarp target change weftTo) op s.secNow change
  rw [State.setWarp_within h, htakes] at hput
  unfold State.warpMoved
  rw [State.setWarp_within h, htakes]
  exact ⟨hput.warp, hput.frac, hput.weftFix.trans hbw.weftFix, hput.weftDue, rfl, rfl, hput.act.trans hbw.act, hput.stg.trans hbw.stg,
    hput.now.trans hbw.now⟩

theorem State.reported_stepFrame (s : State) (r : StepRec) (op : Nat) (change : Int) (bo : Rat) : s.StepFrame (s.reported r op change bo) :=
  ((s.afterStep_stepFrame change bo).trans (State.recordChange_stepFrame _ r.bodkin op change)).trans (State.stepStat_stepFrame _ r 3 0)

theorem State.reported_last (s : State) (r : StepRec) (op : Nat) (change : Int) (bo : Rat) :
    (s.reported r op change bo).tb.last = satSym 64 change := by
  rw [State.reported, State.stepStat_last, State.recordChange_last]

/-! The SET and the STEP. -/

/-- The time word that a SET gives, in whole nanoseconds (R123). -/
def StepRec.setNs (r : StepRec) : Nat := (r.op0.toNat + r.op1.toNat % 2 ^ 16 * 2 ^ 32) * nsPerSec + r.op2.toNat

/-- The same with its fraction. -/
def StepRec.setSns (r : StepRec) : Nat := r.setNs * snsPerNs + r.op3.toNat % 2 ^ 16

theorem State.applySet_eq (s : State) (r : StepRec) : ∃ gns, s.applySet r =
    let change : Int := (r.setSns : Int) - (s.warpSns : Int)
    let u := s.warpMoved r.setSns change (some r.setNs) 0
    (u.disarmed { u.md with timeSet := u.md.timeSet || r.bodkin, hostSet := u.md.hostSet || !r.bodkin } gns u.tb.stepAt).reported r 0 change
      (s.boAfter r change) := ⟨_, rfl⟩

theorem State.applyStep_eq (s : State) (r : StepRec) : s.applyStep r =
    let u := s.warpMoved ((s.warpSns : Int) + r.amount) r.amount none 1
    (u.disarmed u.md u.gns (some u.now)).reported r 1 r.amount (s.boAfter r r.amount) := rfl

/-- A SET's time word lies within Warp's range (R123). -/
theorem StepRec.setNs_lt (h : r.op2.toNat ≤ 999999999) : r.setNs < 2 ^ 48 * nsPerSec := by
  have hlow := r.op0.isLt
  unfold StepRec.setNs nsPerSec
  omega

theorem StepRec.setSns_within (h : r.op2.toNat ≤ 999999999) :
    0 ≤ (r.setSns : Int) ∧ (r.setSns : Int) < ((2 ^ 48 * snsPerSec : Nat) : Int) := by
  have hns := r.setNs_lt h
  unfold nsPerSec at hns
  unfold StepRec.setSns snsPerNs snsPerSec
  omega

theorem StepRec.setSns_div (r : StepRec) : (r.setSns : Int).toNat / snsPerNs = r.setNs := by
  have hlow : r.op3.toNat % 2 ^ 16 < snsPerNs := Nat.mod_lt _ (by decide)
  rw [Int.toNat_natCast, StepRec.setSns, Nat.mul_comm, Nat.mul_add_div (by decide), Nat.div_eq_of_lt hlow, Nat.add_zero]

theorem StepRec.setSns_mod (h : r.op3.toNat / 2 ^ 16 = 0) : (r.setSns : Int).toNat % snsPerNs = r.op3.toNat := by
  have hlow : r.op3.toNat < 2 ^ 16 := by omega
  rw [Int.toNat_natCast, StepRec.setSns, Nat.mul_add_mod_self_right, Nat.mod_eq_of_lt hlow, Nat.mod_eq_of_lt (show _ < snsPerNs from hlow)]

theorem StepRec.setNs_eq (h : r.op1.toNat / 2 ^ 16 = 0) : r.setNs = (r.op0.toNat + r.op1.toNat * 2 ^ 32) * nsPerSec + r.op2.toNat := by
  have hlow : r.op1.toNat < 2 ^ 16 := by omega
  rw [StepRec.setNs, Nat.mod_eq_of_lt hlow]

theorem State.applySet_moved (h : r.op2.toNat ≤ 999999999) :
    s.Moved { s.md with timeSet := s.md.timeSet || r.bodkin, hostSet := s.md.hostSet || !r.bodkin } r.setSns
      ⟨some r.setNs, (r.setNs : Int) - s.tb.warp, s.now⟩ (s.applySet r) := by
  obtain ⟨gns, heq⟩ := s.applySet_eq r
  rw [heq]
  dsimp only
  rw [State.warpMoved_md _ _ _ (r.setSns_within h)]
  exact (State.warpMoved_moved _ _ _ _ (r.setSns_within h)).frame (State.reported_stepFrame _ _ _ _ _)

theorem State.applySet_last : (s.applySet r).tb.last = satSym 64 ((r.setSns : Int) - s.warpSns) := by
  obtain ⟨gns, heq⟩ := s.applySet_eq r
  rw [heq]
  exact State.reported_last _ _ _ _ _

theorem State.applyStep_moved (h : 0 ≤ (s.warpSns : Int) + r.amount ∧ (s.warpSns : Int) + r.amount < ((2 ^ 48 * snsPerSec : Nat) : Int)) :
    s.Moved s.md ((s.warpSns : Int) + r.amount) ⟨none, roundQ ((r.amount : Rat) / snsPerNs), s.now⟩ (s.applyStep r) := by
  rw [s.applyStep_eq r]
  dsimp only
  rw [State.warpMoved_md _ _ _ h]
  exact (State.warpMoved_moved _ _ _ _ h).frame (State.reported_stepFrame _ _ _ _ _)

theorem State.applyStep_last : (s.applyStep r).tb.last = satSym 64 r.amount := State.reported_last _ _ _ _ _

/-! The SLEW, and an agreement withdrawn. -/

/-- A slew at its start (R125). -/
def State.slewBegun (s : State) (r : StepRec) : SlewRec :=
  { bodkin := r.bodkin, amount := r.amount, rate := r.op2.toNat, change := 0, token := r.token, msAt := s.tb.warp, cancelled := false, abandoned := false }

theorem State.startSlew_stepFrame (s : State) (r : StepRec) :
    ({ s.qAccrue with tb := { s.tb with armed := none, slew := some (s.slewBegun r) } } : State).StepFrame (s.startSlew r) := by
  unfold State.startSlew
  exact (State.putStep_stepFrame _ 2 _ r.amount).trans (State.stepStat_stepFrame _ r 5 0)

theorem State.agreementLost_eq (s : State) (r : StepRec) :
    s.agreementLost r = { s with tb := (({ s with tb := { s.tb with armed := none } } : State).stepStat r 4 0x31).tb, hif := (s.agreementLost r).hif,
                                 srv := { s.srv with removal := (s.agreementLost r).srv.removal } } := by
  unfold State.agreementLost
  rw [State.stepStat_eq]
  dsimp only
  split <;> rfl

end
end

/-- Settles O16: before A nothing; at A the agreement withdrawn, and the operation carried out by its code. -/
theorem stepsMoveBothCountersAtA : Obligations.StepsMoveBothCountersAtA := by
  intro s r harmed
  refine ⟨fun hearly a b => ?early, fun hcancel a b => ?cancelled, fun hcancel hat hhalf => ⟨fun a b hab => ?lost, fun hop hgood => ?set,
    fun hop hlo hhi => ?step, fun hop => ?slew⟩⟩
  case early => rw [exec_stepApply, State.stepApply_waits harmed (hearly.imp_right .inl)]
  case cancelled => rw [exec_stepApply, State.stepApply_waits harmed (.inr (.inr hcancel))]
  case lost =>
    have hframe := State.stepStat_stepFrame { s with tb := { s.tb with armed := none } } r 4 0x31
    have heq := s.agreementLost_eq r
    have htb := congrArg State.tb heq
    refine ⟨s.agreementLost r, exec_stepApply_lost harmed hcancel hat hhalf hab, ?_, ?_, ?_, ?_, ?_, fun hr => ?_, ?_⟩
    · rw [htb, hframe.warp]
    · rw [htb, hframe.frac]
    · rw [htb, hframe.weftFix]
    · rw [htb, hframe.weftDue]
    · rw [htb, hframe.armed]
    · rw [htb, State.stepStat_tb hr]
      exact ⟨rfl, rfl, Bool.or_true _⟩
    · rw [← htb] at heq
      exact heq
  case set =>
    obtain ⟨hsec, hfrac, hns⟩ : r.op1.toNat / 2 ^ 16 = 0 ∧ r.op3.toNat / 2 ^ 16 = 0 ∧ r.op2.toNat ≤ 999999999 := by
      simpa [StepRec.badOperand, hop] using hgood
    have hmoved := State.applySet_moved (s := s) hns
    have hwarp := r.setSns_div
    rw [StepRec.setNs_eq hsec] at hmoved hwarp
    refine ⟨s.applySet r, ?_, hmoved.warp.trans hwarp, hmoved.frac.trans (StepRec.setSns_mod hfrac), hmoved.weftDue, hmoved.weftCmp, hmoved.armed, ?_, ?_, ?_,
      hmoved.act, hmoved.stg, hmoved.now⟩
    · rw [exec_stepApply_agreed harmed hcancel hat hhalf, State.carryOut_set hop]
    · rw [State.applySet_last, hmoved.warpSns (Int.natCast_nonneg _)]
    · rw [hmoved.md]
    · rw [hmoved.md]
  case step =>
    have hmoved := State.applyStep_moved (s := s) ⟨hlo, hhi⟩
    rw [show ((snsPerNs : Nat) : Rat) = 65536 from by norm_num] at hmoved
    refine ⟨s.applyStep r, ?_, hmoved.warpSns hlo, hmoved.weftDue, hmoved.weftCmp, hmoved.armed, State.applyStep_last, hmoved.md, hmoved.act,
      hmoved.stg, hmoved.now⟩
    rw [exec_stepApply_agreed harmed hcancel hat hhalf, State.carryOut_step hop]
  case slew =>
    have hframe := s.startSlew_stepFrame r
    refine ⟨s.startSlew r, ?_, hframe.armed, hframe.warp, hframe.weftFix, hframe.slew, hframe.md, hframe.act, hframe.stg⟩
    rw [exec_stepApply_agreed harmed hcancel hat hhalf, State.carryOut_slew hop]

end Sys2Proof.Machine
end

section
/-! SUPPORT. A slew by the millisecond and at its end, and a leap event. -/

namespace Sys2Proof.Machine

open Sys2Proof

theorem exec_slewMsTick (s : State) : exec .slewMsTick s = .next s.slewTick := rfl

theorem exec_leapEvent (s : State) : exec .leapEvent s = .next s.refreshLeap := rfl

/-- The operation that a slew was, as TB_STEP_STAT shows it. -/
def SlewRec.op (x : SlewRec) : StepRec :=
  { bodkin := x.bodkin, op := 3, op0 := 0, op1 := 0, op2 := 0, op3 := 0, chk := 0, ctl := 0, token := x.token, armedAt := 0 }

/-- STATE and code of a slew that has ended (R131). -/
def SlewRec.endState (x : SlewRec) : Nat := if x.abandoned then 6 else if x.cancelled then 7 else 3

def SlewRec.endCode (x : SlewRec) : Nat := if x.abandoned then 0x30 else 0

section
variable {s t : State} {x : SlewRec}

/-! The end of a slew. -/

/-- What the end of a slew comes to: none runs, TB_STEP_LAST holds its change, and TB_STEP_STAT shows how one of the visible copy ended. -/
structure State.SlewEnded (s : State) (x : SlewRec) (change : Int) (t : State) : Prop where
  slew : t.tb.slew = none
  last : t.tb.last = satSym 64 change
  shown : x.bodkin = false → t.tb.stState = x.endState ∧ t.tb.stCode = x.endCode ∧ (x.endState = 3 → t.tb.stDone = true)
  frame : ({ s with tb := { s.tb with slew := none } } : State).StepFrame t

theorem State.endSlew_eq (s : State) (x : SlewRec) (change : Int) : ∃ u, ({ s with tb := { s.tb with slew := none } } : State).StepFrame u ∧
    u.tb.last = satSym 64 change ∧ s.endSlew x change = u.stepStat x.op x.endState x.endCode := by
  refine ⟨_, ?_, ?last, rfl⟩
  case last => exact State.recordChange_last _ _ _ _
  refine .trans (.trans ?_ (State.putStep_stepFrame _ 3 _ change)) (State.recordChange_stepFrame _ _ 3 change)
  exact ⟨rfl, rfl, rfl, rfl, rfl⟩

theorem State.endSlew_ended (s : State) (x : SlewRec) (change : Int) : s.SlewEnded x change (s.endSlew x change) := by
  obtain ⟨u, hframe, hlast, heq⟩ := s.endSlew_eq x change
  have hend := hframe.trans (u.stepStat_stepFrame x.op x.endState x.endCode)
  rw [heq]
  refine ⟨hend.slew, (u.stepStat_last _ _ _).trans hlast, fun hx => ?_, hend⟩
  rw [State.stepStat_tb (r := x.op) hx]
  refine ⟨rfl, rfl, fun h => ?_⟩
  simp [TbSt.shown, h]

/-! A millisecond. -/

theorem State.slewTick_none (h : s.tb.slew = none) : s.slewTick = s := by
  unfold State.slewTick
  rw [h]

theorem State.slewTick_early (hx : s.tb.slew = some x) (h : s.tb.warp < x.msAt + 1000000) : s.slewTick = s := by
  unfold State.slewTick
  rw [hx]
  exact if_pos h

/-- A slew after one more millisecond. -/
def SlewRec.advanced (x : SlewRec) : SlewRec := { x with change := x.change + x.thisMs, msAt := x.msAt + 1000000 }

/-- The state after a millisecond of a slew, with the build-out that it removes (R228). -/
def State.slewed (s : State) (x : SlewRec) : State :=
  { s.qAccrue with tb := { s.tb with slew := some x.advanced },
                   srv := { s.srv with bo := if x.bodkin && s.srv.removal then s.srv.bo - x.thisMs else s.srv.bo } }

theorem State.slewTick_due (hx : s.tb.slew = some x) (h : x.msAt + 1000000 ≤ s.tb.warp) : s.slewTick =
    if |(x.amount : Rat) - x.change| ≤ x.perMs then (s.slewed x).endSlew { x.advanced with cancelled := false } x.amount
    else if x.cancelled || x.abandoned then (s.slewed x).endSlew x.advanced (roundQ x.advanced.change)
    else s.slewed x := by
  unfold State.slewTick
  rw [hx]
  exact if_neg (by omega)

theorem SlewRec.thisMs_full (h : x.perMs < |(x.amount : Rat) - x.change|) : x.thisMs = (if x.amount < 0 then -1 else 1) * x.perMs := by
  rw [SlewRec.thisMs, min_eq_left h.le]

/-- Whatever a tick comes to, the mode, the registers and Warp stand. -/
theorem State.slewTick_leaves (s : State) : s.slewTick.md = s.md ∧ s.slewTick.act = s.act ∧ s.slewTick.stg = s.stg ∧
    s.slewTick.tb.warp = s.tb.warp ∧ s.slewTick.tb.frac = s.tb.frac := by
  have hend (x y : SlewRec) (change : Int) : let t := (s.slewed x).endSlew y change
      t.md = s.md ∧ t.act = s.act ∧ t.stg = s.stg ∧ t.tb.warp = s.tb.warp ∧ t.tb.frac = s.tb.frac := by
    have hframe := ((s.slewed x).endSlew_ended y change).frame
    exact ⟨hframe.md, hframe.act, hframe.stg, hframe.warp, hframe.frac⟩
  cases hx : s.tb.slew with
  | none =>
    rw [State.slewTick_none hx]
    exact ⟨rfl, rfl, rfl, rfl, rfl⟩
  | some x =>
    rcases lt_or_ge s.tb.warp (x.msAt + 1000000) with hearly | hdue
    · rw [State.slewTick_early hx hearly]
      exact ⟨rfl, rfl, rfl, rfl, rfl⟩
    · rw [State.slewTick_due hx hdue]
      split
      · exact hend _ _ _
      · split
        · exact hend _ _ _
        · exact ⟨rfl, rfl, rfl, rfl, rfl⟩

end

/-- Settles O17: the leap table read anew, and a tick by whether it is due, whether the amount is reached and whether the slew is to end. -/
theorem slewsEndExactlyAndLeapsFollowTheTable : Obligations.SlewsEndExactlyAndLeapsFollowTheTable := by
  intro s
  refine ⟨exec_leapEvent s, ⟨s.slewTick, exec_slewMsTick s, s.slewTick_leaves⟩, fun hnone => ?_, fun x hx => ⟨fun hearly => ?_, fun hdue =>
    ⟨fun hfull hc ha => ?runs, fun hlast => ?reached, fun hfull hend => ?stopped⟩⟩⟩
  · rw [exec_slewMsTick, State.slewTick_none hnone]
  · rw [exec_slewMsTick, State.slewTick_early hx hearly]
  case runs =>
    rw [exec_slewMsTick, State.slewTick_due hx hdue, if_neg (not_le.2 hfull), if_neg (by simp [hc, ha])]
    simp only [State.slewed, SlewRec.advanced, SlewRec.thisMs_full hfull, Bool.and_eq_true]
  case reached =>
    have hended := (s.slewed x).endSlew_ended { x.advanced with cancelled := false } x.amount
    refine ⟨_, by rw [exec_slewMsTick, State.slewTick_due hx hdue, if_pos hlast], hended.slew, hended.last, hended.frame.warp, fun hv ha => ?_,
      hended.frame.md, hended.frame.act, hended.frame.stg⟩
    obtain ⟨hst, hcode, hdone⟩ := hended.shown hv
    have hthree : SlewRec.endState { x.advanced with cancelled := false } = 3 := by simp [SlewRec.endState, SlewRec.advanced, ha]
    exact ⟨hst.trans hthree, hcode.trans (by simp [SlewRec.endCode, SlewRec.advanced, ha]), hdone hthree⟩
  case stopped =>
    have hended := (s.slewed x).endSlew_ended x.advanced (roundQ x.advanced.change)
    refine ⟨_, by rw [exec_slewMsTick, State.slewTick_due hx hdue, if_neg (not_le.2 hfull), if_pos (by simpa using hend)], hended.slew, ?_,
      hended.frame.warp, fun hv => ?_, hended.frame.md, hended.frame.act, hended.frame.stg⟩
    · rw [hended.last, SlewRec.advanced, SlewRec.thisMs_full hfull]
    · obtain ⟨hst, hcode, _⟩ := hended.shown hv
      have hseven : x.endState = if x.abandoned then 6 else 7 := by
        rw [SlewRec.endState]
        rcases hend with h | h <;> simp [h]
      exact ⟨hst.trans hseven, hcode⟩

end Sys2Proof.Machine
end

section
/-! SUPPORT. The read latches of the two paths, and the reads of Warp and Weft that they hold. -/

namespace Sys2Proof.Machine

open Sys2Proof

theorem exec_timeLatchRead (s : State) (p : Path) : exec (.timeLatchRead p) s = .next (s.readOn p 0x78000) := rfl

theorem exec_weftLatchRead (s : State) (p : Path) : exec (.weftLatchRead p) s = .next (s.readOn p 0x78010) := rfl

section
variable {r s t : State} {p q : Path} {off : Nat}

/-! The latches of a path. -/

theorem pathIx_ne (h : q ≠ p) : pathIx p ≠ pathIx q := by cases p <;> cases q <;> simp_all [pathIx]

theorem pathIx_lt (p : Path) : pathIx p < 2 := by cases p <;> decide

theorem State.latOf_setLat_self (f : Latches → Latches) (h : s.lat.length = 2) : (s.setLat p f).latOf p = f (s.latOf p) := by
  have hix : pathIx p < s.lat.length := h ▸ pathIx_lt p
  simp [State.latOf, State.setLat, updAt, List.getD_eq_getElem?_getD, hix]

theorem State.latOf_setLat_ne (f : Latches → Latches) (h : q ≠ p) : (s.setLat p f).latOf q = s.latOf q := by
  simp [State.latOf, State.setLat, updAt, List.getD_eq_getElem?_getD, List.getElem?_modify_ne f _ (pathIx_ne h)]

theorem State.latOf_congr (h : t.lat = s.lat) (p : Path) : t.latOf p = s.latOf p := by rw [State.latOf, State.latOf, h]

/-! What a read leaves of the latches. -/

/-- What a read of a register through a path leaves: the latches of the other path, and the latched time word but for a read of
TB_TIME_SEC_L (R102). -/
structure State.LatchFrame (p : Path) (off : Nat) (s t : State) : Prop where
  other : ∀ q, q ≠ p → t.latOf q = s.latOf q
  time : off ≠ 0x78000 → (t.latOf p).time = (s.latOf p).time
  length : t.lat.length = s.lat.length

theorem State.LatchFrame.refl (s : State) : State.LatchFrame p off s s := ⟨fun _ _ => rfl, fun _ => rfl, rfl⟩

theorem State.LatchFrame.trans (a : State.LatchFrame p off r s) (b : State.LatchFrame p off s t) : State.LatchFrame p off r t :=
  ⟨fun q h => (b.other q h).trans (a.other q h), fun h => (b.time h).trans (a.time h), b.length.trans a.length⟩

theorem State.LatchFrame.ite {a b : State} {c : Prop} [Decidable c] (ha : c → State.LatchFrame p off r a) (hb : ¬c → State.LatchFrame p off r b) :
    State.LatchFrame p off r (if c then a else b) := by
  split
  case isTrue h => exact ha h
  case isFalse h => exact hb h

theorem State.LatchFrame.of_lat (h : t.lat = s.lat) : State.LatchFrame p off s t :=
  ⟨fun q _ => State.latOf_congr h q, fun _ => by rw [State.latOf_congr h], by rw [h]⟩

theorem State.LatchFrame.of_setLat (hlen : s.lat.length = 2) {f : Latches → Latches} (hf : off ≠ 0x78000 → ∀ l, (f l).time = l.time) :
    State.LatchFrame p off s (s.setLat p f) :=
  ⟨fun _ h => State.latOf_setLat_ne f h, fun h => by rw [State.latOf_setLat_self f hlen, hf h], by rw [State.setLat_lat, updAt_length]⟩

theorem State.lat_ite {a b : State} {c : Prop} [Decidable c] (ha : a.lat = r.lat) (hb : b.lat = r.lat) : (if c then a else b).lat = r.lat := by
  split <;> assumption

theorem State.flushOverflow_lat (s : State) : s.flushOverflow.lat = s.lat := by
  unfold State.flushOverflow State.bufPut
  exact State.lat_ite rfl rfl

theorem State.tinRecRead_lat (s : State) : s.tinRecRead.lat = s.lat := by
  unfold State.tinRecRead
  exact State.lat_ite rfl (State.flushOverflow_lat _)

theorem State.readLatch_latchFrame (hlen : s.lat.length = 2) : State.LatchFrame p off s (s.readLatch p off) := by
  have hset {f : Latches → Latches} (c : Bool) (hf : off ≠ 0x78000 → ∀ l, (f l).time = l.time) :
      State.LatchFrame p off s (if c then s else s.setLat p f) := .ite (fun _ => .refl s) (fun _ => .of_setLat hlen hf)
  unfold State.readLatch
  refine .ite (fun h => hset _ fun hne => absurd h hne) fun _ => .ite (fun _ => hset _ fun _ _ => rfl) fun _ => .ite (fun _ => ?rec) fun _ =>
    .ite (fun _ => hset _ fun _ _ => rfl) fun _ => .ite (fun _ => hset _ fun _ _ => rfl) fun _ => .ite (fun _ => hset _ fun _ _ => rfl) fun _ =>
    .ite (fun _ => hset _ fun _ _ => rfl) fun _ => hset _ fun _ _ => rfl
  exact .ite (fun _ => .refl s) fun _ => .of_lat s.tinRecRead_lat

theorem State.readClear_lat (s : State) (off : Nat) : (s.readClear off).lat = s.lat := by
  unfold State.readClear State.railReload State.bwPeakClear
  exact State.lat_ite (State.lat_ite rfl rfl) (State.lat_ite (State.lat_ite rfl rfl) (State.lat_ite (State.lat_ite rfl (s.setBw_lat _ _)) rfl))

theorem State.setLastRead_latchFrame (v : W32) (hlen : s.lat.length = 2) :
    State.LatchFrame p off s (s.setLat p fun l => { l with lastRead := v }) := .of_setLat hlen fun _ _ => rfl

theorem State.readOn_latchFrame (hlen : s.lat.length = 2) : State.LatchFrame p off s (s.readOn p off) := by
  unfold State.readOn
  have hunassigned : State.LatchFrame p off s { s with glb := { s.glb with errUnassigned := true } } := .of_lat rfl
  refine .ite (fun _ => hunassigned.trans (State.setLastRead_latchFrame 0 hlen)) fun _ => .ite (fun _ => .refl s) fun _ => ?_
  have hlatch : State.LatchFrame p off s (s.readLatch p off) := State.readLatch_latchFrame hlen
  have hclear : State.LatchFrame p off s ((s.readLatch p off).readClear off) := hlatch.trans (.of_lat (State.readClear_lat _ off))
  exact hclear.trans (State.setLastRead_latchFrame _ (hclear.length.trans hlen))

/-! Reads that latch and clear nothing. -/

/-- A read of a register that latches by `f` and clears nothing. -/
theorem State.readOn_latching {f : Latches → Latches} {v : W32} (hlen : s.lat.length = 2) (hoff : off % 4 = 0 ∧ off < 0x130000)
    (hlatch : s.readLatch p off = s.setLat p f) (hclear : (s.setLat p f).readClear off = s.setLat p f) (hv : (s.setLat p f).readReg p off = v) :
    (s.readOn p off).latOf p = { f (s.latOf p) with lastRead := v } ∧ s.readOn p off = { s with lat := (s.readOn p off).lat } := by
  have hread : s.readOn p off = (s.setLat p f).setLat p fun l => { l with lastRead := v } := by
    unfold State.readOn
    rw [if_neg (by omega), if_neg (by omega), hlatch]
    simp only [hclear, hv]
  have hlen' : (s.setLat p f).lat.length = 2 := by rw [State.setLat_lat, updAt_length, hlen]
  rw [hread, State.latOf_setLat_self _ hlen', State.latOf_setLat_self _ hlen]
  exact ⟨rfl, rfl⟩

end

/-! The registers of the time words. -/

section
variable {s : State} {p : Path} {off : Nat}

/-- The latched registers of Warp and Weft (R101, R113). -/
def timeRegs : List Nat := [0x78000, 0x78004, 0x78008, 0x7800C, 0x78010]

theorem timeRegs_plain : ∀ off ∈ timeRegs, off % 4 = 0 ∧ 0x10000 ≤ off ∧ off < 0x130000 ∧ cmtAt off = none ∧ isCounter off = false ∧
    isCounter (off - 4) = false ∧ (regDef off).isSome = false ∧ off / 0x10000 = 7 ∧ ¬off < 0x78000 := by decide +kernel

theorem State.readLive_time (h : off ∈ timeRegs) : s.readLive p off = s.readTb p off := by
  obtain ⟨_, hlo, _, hcmt, hctr, hctr', hreg, hblk, htb⟩ := timeRegs_plain off h
  unfold State.readLive
  rw [if_neg (by omega), hcmt]
  simp only [hctr, hctr', hreg, hblk, htb, Bool.false_eq_true, if_false]

theorem State.readReg_time (h : off ∈ timeRegs) : s.readReg p off = (if s.shadow then s.bootView else s).readTb p off := by
  obtain ⟨halign, hlo, hhi, _⟩ := timeRegs_plain off h
  unfold State.readReg
  rw [if_neg (by omega), State.readLive_time h, State.readLive_time h]
  cases s.shadow <;> simp [hlo]

theorem State.bootView_latOf (s : State) (p : Path) : s.bootView.latOf p = Latches.reset := by cases p <;> rfl

theorem State.readTb_sec (s : State) (p : Path) : s.readTb p 0x78000 = BitVec.ofNat 32 (s.latOf p).time.sec := by
  simp [State.readTb, timeWords, pk]

theorem State.readTb_secHigh (s : State) (p : Path) : s.readTb p 0x78004 = BitVec.ofNat 32 ((s.latOf p).time.sec / 2 ^ 32) := by
  simp [State.readTb, timeWords, pk]

theorem State.readTb_ns (s : State) (p : Path) : s.readTb p 0x78008 = BitVec.ofNat 32 (s.latOf p).time.ns := by
  simp [State.readTb, timeWords, pk]

theorem State.readTb_sns (s : State) (p : Path) : s.readTb p 0x7800C =
    BitVec.ofNat 32 ((s.latOf p).time.sns * 4 + 2 * b01 (s.latOf p).time.v + b01 (s.latOf p).time.l) := by
  simp [State.readTb, timeWords, pk]
  congr 1
  omega

theorem State.readTb_weft (s : State) (p : Path) : s.readTb p 0x78010 = BitVec.ofNat 32 (s.latOf p).weft.toNat := by
  simp [State.readTb]

theorem State.readClear_time (h : off ∈ timeRegs) : s.readClear off = s := by
  obtain ⟨_, _, _, _, _, _, _, hblk, _⟩ := timeRegs_plain off h
  unfold State.readClear
  rw [if_neg (by omega), if_neg (by omega), if_neg (by omega)]

theorem State.readLatch_sec (s : State) (p : Path) : s.readLatch p 0x78000 = s.timeLatch p := if_pos rfl

theorem State.readLatch_weft (s : State) (p : Path) : s.readLatch p 0x78010 = s.weftLatch p := by
  unfold State.readLatch
  rw [if_neg (by decide), if_pos rfl]

theorem State.setLat_id (s : State) (p : Path) : s.setLat p id = s := by simp [State.setLat, updAt]

/-- SEC[31:0] of a time word. -/
theorem TimeWord.sec_low (w : TimeWord) : BitVec.ofNat 32 w.sec = BitVec.ofNat 32 (w.t / snsPerNs / nsPerSec) := by
  refine BitVec.eq_of_toNat_eq ?_
  rw [BitVec.toNat_ofNat, BitVec.toNat_ofNat, TimeWord.sec, Nat.mod_mod_of_dvd _ (by decide), Nat.div_div_eq_div_mul,
    show snsPerNs * nsPerSec = snsPerSec from by norm_num]

theorem weft_low (n : Nat) : BitVec.ofNat 32 (BitVec.ofNat 64 n).toNat = BitVec.ofNat 32 n := by
  refine BitVec.eq_of_toNat_eq ?_
  rw [BitVec.toNat_ofNat, BitVec.toNat_ofNat, BitVec.toNat_ofNat, Nat.mod_mod_of_dvd _ (by decide)]

/-! The two reads that latch. -/

/-- A read that latches Warp or Weft, by what it latches and the word that then stands there. -/
theorem State.readOn_time {f : Latches → Latches} (hlen : s.lat.length = 2) (h : off ∈ timeRegs) (hlatch : s.readLatch p off = s.setLat p f) :
    (s.readOn p off).latOf p = { f (s.latOf p) with lastRead := (if s.shadow then s.bootView else s.setLat p f).readTb p off } ∧
    s.readOn p off = { s with lat := (s.readOn p off).lat } := by
  obtain ⟨halign, _, hhi, _⟩ := timeRegs_plain off h
  exact State.readOn_latching hlen ⟨halign, hhi⟩ hlatch (State.readClear_time h) (State.readReg_time h)

section
variable (hlen : s.lat.length = 2) (h : s.shadow = false)
include hlen h

theorem State.readOn_sec : (s.readOn p 0x78000).latOf p =
      { s.latOf p with time := s.nowWord, lastRead := BitVec.ofNat 32 (s.warpSns / snsPerNs / nsPerSec) } ∧
    s.readOn p 0x78000 = { s with lat := (s.readOn p 0x78000).lat } := by
  have hlatch : s.readLatch p 0x78000 = s.setLat p fun l => { l with time := s.nowWord } := by
    rw [State.readLatch_sec, State.timeLatch, if_neg (by simp [h])]
  obtain ⟨hself, hframe⟩ := State.readOn_time hlen (by decide) hlatch
  rw [if_neg (by simp [h]), State.readTb_sec, State.latOf_setLat_self _ hlen, TimeWord.sec_low] at hself
  exact ⟨hself, hframe⟩

theorem State.readOn_weft : (s.readOn p 0x78010).latOf p =
      { s.latOf p with weft := BitVec.ofNat 64 s.weftNs, lastRead := BitVec.ofNat 32 s.weftNs } ∧
    s.readOn p 0x78010 = { s with lat := (s.readOn p 0x78010).lat } := by
  have hlatch : s.readLatch p 0x78010 = s.setLat p fun l => { l with weft := BitVec.ofNat 64 s.weftNs } := by
    rw [State.readLatch_weft, State.weftLatch, if_neg (by simp [h])]
  obtain ⟨hself, hframe⟩ := State.readOn_time hlen (by decide) hlatch
  rw [if_neg (by simp [h]), State.readTb_weft, State.latOf_setLat_self _ hlen, weft_low] at hself
  exact ⟨hself, hframe⟩

end

section
variable (hlen : s.lat.length = 2) (h : s.shadow = true)
include hlen h

/-- The shadow answers for the latches as reset leaves them, and the path's own stand. -/
theorem State.readOn_shadowed (hoff : off ∈ timeRegs) (hlatch : s.readLatch p off = s) (hzero : s.bootView.readTb p off = 0) :
    (s.readOn p off).latOf p = { s.latOf p with lastRead := 0 } ∧ s.readOn p off = { s with lat := (s.readOn p off).lat } := by
  obtain ⟨hself, hframe⟩ := State.readOn_time (f := id) hlen hoff (hlatch.trans (s.setLat_id p).symm)
  rw [if_pos h, hzero] at hself
  exact ⟨hself, hframe⟩

theorem State.readOn_sec_shadowed : (s.readOn p 0x78000).latOf p = { s.latOf p with lastRead := 0 } ∧
    s.readOn p 0x78000 = { s with lat := (s.readOn p 0x78000).lat } := by
  refine State.readOn_shadowed hlen h (by decide) ?_ ?_
  · rw [State.readLatch_sec, State.timeLatch, if_pos h]
  · rw [State.readTb_sec, State.bootView_latOf]
    rfl

theorem State.readOn_weft_shadowed : (s.readOn p 0x78010).latOf p = { s.latOf p with lastRead := 0 } ∧
    s.readOn p 0x78010 = { s with lat := (s.readOn p 0x78010).lat } := by
  refine State.readOn_shadowed hlen h (by decide) ?_ ?_
  · rw [State.readLatch_weft, State.weftLatch, if_pos h]
  · rw [State.readTb_weft, State.bootView_latOf]
    rfl

end
end

/-- Settles O12: what any read leaves, then the latching reads outside BOOT and behind its shadow. -/
theorem timeReadsLatchPerPath : Obligations.TimeReadsLatchPerPath := by
  intro s p q hwf hpq
  have hlen : s.lat.length = 2 := hwf.2.1
  have hother (off : Nat) : (s.readOn p off).latOf q = s.latOf q := (State.readOn_latchFrame hlen).other q hpq.symm
  refine ⟨fun off => ⟨hother off, (State.readOn_latchFrame hlen).time⟩, fun h => ⟨?sec, ?weft, ?secHigh, ?ns, ?sns⟩,
    ?reset, fun h => ⟨?secBoot, ?weftBoot⟩⟩
  case sec =>
    obtain ⟨hself, hframe⟩ := State.readOn_sec (p := p) hlen h
    exact ⟨_, exec_timeLatchRead s p, hother _, hframe, hself⟩
  case weft =>
    obtain ⟨hself, hframe⟩ := State.readOn_weft (p := p) hlen h
    exact ⟨_, exec_weftLatchRead s p, hother _, hframe, hself⟩
  case secHigh => rw [State.readReg_time (by decide), if_neg (by simp [h]), State.readTb_secHigh]
  case ns => rw [State.readReg_time (by decide), if_neg (by simp [h]), State.readTb_ns]
  case sns => rw [State.readReg_time (by decide), if_neg (by simp [h]), State.readTb_sns]
  case reset => cases p <;> rfl
  case secBoot =>
    obtain ⟨hself, hframe⟩ := State.readOn_sec_shadowed (p := p) hlen h
    exact ⟨_, exec_timeLatchRead s p, hframe, hself⟩
  case weftBoot =>
    obtain ⟨hself, hframe⟩ := State.readOn_weft_shadowed (p := p) hlen h
    exact ⟨_, exec_weftLatchRead s p, hframe, hself⟩

end Sys2Proof.Machine
end

section
/-! SUPPORT. The end of a bandwidth window where the map of the registers in force lists a register twice. -/

namespace Sys2Proof.Machine

open Sys2Proof

theorem exec_bwWindowEnd (s : State) (n : Nat) : exec (.bwWindowEnd n) s = .next (s.bwEnd n) := rfl

/-- The window of NP0 runs, and PMC_BW_CFG0 is listed twice: first with 1000, its reset value, and behind that with WIN 0. -/
def twiceListed : State :=
  { State.reset with act := [(0xF0100, 1000), (0xF0100, 0)], pmc := { BwSt.reset with on := true } :: List.replicate 4 BwSt.reset }

theorem twiceListed_ends : 0 < twiceListed.pmc.length ∧ (twiceListed.bwAt 0).on = true ∧
    twiceListed.tb.warp % (twiceListed.bwWin 0 * 1000000) = 0 := by decide +kernel

/-- No set is pending, and the register reads WIN 1000. -/
theorem twiceListed_win : bitsOf (if (twiceListed.cmt .pmc).st = 2 then
      (twiceListed.merged .pmc (twiceListed.cmt .pmc).snap).rd (bwOff 0) else twiceListed.reg (bwOff 0)) 13 0 ≠ 0 := by decide +kernel

/-- Writing the reset value takes only the first entry away, so that WIN reads 0 and no further window runs. -/
theorem twiceListed_stops : ((twiceListed.bwEnd 0).bwAt 0).on = false := by decide +kernel

/-- Refutes O55: the clause on a window's end asks nothing of the map of the registers in force, as the clause on WRAP does of the counters;
in one that lists PMC_BW_CFG0 twice the write of its own word, the reset value, brings up the entry behind it, whose WIN is 0, and the window
stops where the clause says that it runs on. -/
theorem not_countersLatchesAndTheTestPort : ¬ Obligations.CountersLatchesAndTheTestPort := by
  intro h
  obtain ⟨_, _, hwindow, _⟩ := h twiceListed
  obtain ⟨hport, hon, hinstant⟩ := twiceListed_ends
  obtain ⟨t, hexec, _, _, hruns, _⟩ := hwindow 0 hport hon hinstant
  obtain rfl : twiceListed.bwEnd 0 = t := Host.Outcome.next.inj ((exec_bwWindowEnd twiceListed 0).symm.trans hexec)
  have hgoes : ((twiceListed.bwEnd 0).bwAt 0).on = true := congrArg BwSt.on (hruns twiceListed_win)
  exact absurd hgoes (by rw [twiceListed_stops]; decide)

end Sys2Proof.Machine
end

section
/-! SUPPORT. The end of a spare TAC's calibration, and its turn at the next position of its group. -/

namespace Sys2Proof.Machine

open Sys2Proof

theorem exec_tacBgCalDone (s : State) (g : Nat) (hits : List Nat) : exec (.tacBgCalDone g hits) s = .next (s.tacBgCalDone g hits) := rfl

theorem exec_tacRotate (s : State) (g : Nat) : exec (.tacRotate g) s = .next (s.tacRotate g) := rfl

/-- A report stands among those of its window, and reaches nothing but the fault manager and the counters. -/
theorem State.faultReport_tagged (s : State) (tag safe : Nat) : (∃ r ∈ (s.faultReport tag safe).fmu.reports, r.tag = tag) ∧
    s.faultReport tag safe = { s with fmu := (s.faultReport tag safe).fmu, ctr := (s.faultReport tag safe).ctr } := by
  refine ⟨⟨{ tag := tag, time := s.nowWord, safe := safe }, ?_, rfl⟩, rfl⟩
  rw [State.faultReport_reports]
  exact List.mem_append_right _ (List.mem_singleton_self _)

/-- A group whose spare is calibrated in the background (R147). -/
def State.spareServes (s : State) (g : Nat) : Bool :=
  s.md.mode.serving && s.bit 0x50000 31 && decide (g < 4) && decide (s.tac.spare.getD g 63 < 33)

theorem State.spareServes_iff {s : State} {g : Nat} : s.spareServes g = true ↔
    s.md.mode.serving = true ∧ s.bit 0x50000 31 = true ∧ g < 4 ∧ s.tac.spare.getD g 63 < 33 := by
  simp only [State.spareServes, Bool.and_eq_true, decide_eq_true_eq, and_assoc]

/-- The state with the spare of a group calibrated anew (R147). -/
def State.spareCalibrated (s : State) (g : Nat) (hits : List Nat) : State :=
  { s with tac := { s.tac with tables := putAt s.tac.tables (s.tac.spare.getD g 63) (inlTable hits), fresh := putAt s.tac.fresh g true } }

/-- The state with the spare of a group retired (R149). -/
def State.spareRetired (s : State) (g : Nat) : State :=
  { s with tac := { s.tac with spare := putAt s.tac.spare g 63, failed := s.tac.failed + 1 } }

theorem State.tacBgCalDone_eq (s : State) (g : Nat) (hits : List Nat) : s.tacBgCalDone g hits =
    if s.spareServes g && hits.sum == s.calHits then
      if calPasses hits then s.spareCalibrated g hits else (s.spareRetired g).faultReport 0x3004 0
    else s := rfl

/-- The position of a group at which its spare comes in next (R148). -/
def State.rotatePos (s : State) (g : Nat) : Nat := s.tac.nextPos.getD g (groupSpan g).1

/-- The spare of a group may come in: it is fresh, the TAC in service is between two conversions, and ROT_PERIOD has passed (R148). -/
def State.swapDue (s : State) (g : Nat) : Bool :=
  s.spareServes g && s.tac.fresh.getD g false && s.tacReady (s.rotatePos g) &&
    decide (s.tac.rotAt.getD g 0 + s.fld 0x50000 7 0 * nsPerSec ≤ s.now)

/-- The state with the spare of a group at its next position (R148). -/
def State.swapped (s : State) (g : Nat) : State :=
  let p0 := (groupSpan g).1
  let pos := s.rotatePos g
  { s with
    tac := { s.tac with rotAt := putAt s.tac.rotAt g s.now, posTac := putAt s.tac.posTac pos (s.tac.spare.getD g 63),
                        spare := putAt s.tac.spare g (s.tacAt pos), fresh := putAt s.tac.fresh g false,
                        nextPos := putAt s.tac.nextPos g (p0 + (pos - p0 + 1) % (groupSpan g).2) },
    tin := { s.tin with ins := if pos < 16 then updAt s.tin.ins (pos / 2) (fun i => { i with member := 1 - pos % 2 }) else s.tin.ins } }

theorem State.tacRotate_eq (s : State) (g : Nat) : s.tacRotate g = if s.swapDue g then s.swapped g else s := rfl

/-- Settles O19: the calibration by whether its hits pass, the turn by whether the spare is fresh and the TAC in service ready. -/
theorem spareTacsCalibrateAndRotate : Obligations.SpareTacsCalibrateAndRotate := by
  intro s g hits hserve hon hg hspare
  have hs : s.spareServes g = true := State.spareServes_iff.2 ⟨hserve, hon, hg, hspare⟩
  have hcounted (hsum : hits.sum = 2 ^ s.fld 0x50000 28 24) : (s.spareServes g && hits.sum == s.calHits) = true := by
    rw [hs, hsum]
    exact beq_self_eq_true _
  refine ⟨fun hsum hpass => ?passes, fun hsum hfail => ?fails, fun hwait => ?waits, fun hfresh hready hdue => ?swaps⟩
  case passes =>
    rw [exec_tacBgCalDone, State.tacBgCalDone_eq, if_pos (hcounted hsum), if_pos hpass]
    rfl
  case fails =>
    obtain ⟨hreport, hframe⟩ := (s.spareRetired g).faultReport_tagged 0x3004 0
    refine ⟨(s.spareRetired g).faultReport 0x3004 0, ?_, rfl, hreport, hframe⟩
    rw [exec_tacBgCalDone, State.tacBgCalDone_eq, if_pos (hcounted hsum), if_neg (Bool.not_eq_true _ ▸ hfail)]
  case waits =>
    have hnot : ¬s.swapDue g = true := by
      simp only [State.swapDue, Bool.and_eq_true]
      rintro ⟨⟨⟨_, hfresh⟩, hready⟩, _⟩
      obtain h | h := hwait
      · exact absurd (hfresh.symm.trans h) (by decide)
      · exact absurd (hready.symm.trans h) (by decide)
    rw [exec_tacRotate, State.tacRotate_eq, if_neg hnot]
  case swaps =>
    have hswap : s.swapDue g = true := by
      simp only [State.swapDue, Bool.and_eq_true, decide_eq_true_eq]
      exact ⟨⟨⟨hs, hfresh⟩, hready⟩, hdue⟩
    rw [exec_tacRotate, State.tacRotate_eq, if_pos hswap]
    rfl

end Sys2Proof.Machine
end

section
/-! SUPPORT. An event input read after a change of it or of another, and how an input is armed and disarmed and its open measurement closed. -/

namespace Sys2Proof.Machine

open Sys2Proof

theorem exec_tinArm (s : State) (mask : BitVec 8) : exec (.tinArm mask) s = .next (s.tinArm mask) := rfl

theorem exec_tinDisarm (s : State) (mask : BitVec 8) : exec (.tinDisarm mask) s = .next (s.tinDisarm mask) := rfl

theorem exec_measurementTruncate (s : State) (n : Nat) : exec (.measurementTruncate n) s = .next (s.measTruncate n) := rfl

section
variable {s : State} {n : Nat} {m : Meas}

/-! Inputs. -/

theorem State.tinAt_setTin_self (f : TinIn → TinIn) (h : n < s.tin.ins.length) : (s.setTin n f).tinAt n = f (s.tinAt n) := by
  simp [State.tinAt, State.setTin, updAt, List.getD_eq_getElem?_getD, h]

theorem State.tinAt_setTin_ne {k : Nat} (f : TinIn → TinIn) (h : k ≠ n) : (s.setTin n f).tinAt k = s.tinAt k := by
  simp [State.tinAt, State.setTin, updAt, List.getD_eq_getElem?_getD, List.getElem?_modify_ne f _ h.symm]

@[simp] theorem State.setTin_ins_length (s : State) (n : Nat) (f : TinIn → TinIn) : (s.setTin n f).tin.ins.length = s.tin.ins.length :=
  updAt_length ..

/-- Two changes of one input are one change. -/
theorem State.setTin_setTin (s : State) (n : Nat) (f g : TinIn → TinIn) : (s.setTin n f).setTin n g = s.setTin n (g ∘ f) := by
  simp [State.setTin, updAt, List.modify_modify_eq]

/-- Only what a change makes of the input itself counts. -/
theorem State.setTin_congr {f g : TinIn → TinIn} (h : n < s.tin.ins.length) (hfg : f (s.tinAt n) = g (s.tinAt n)) :
    s.setTin n f = s.setTin n g := by
  have hget : s.tinAt n = s.tin.ins.get ⟨n, h⟩ := List.getD_eq_getElem _ _ h
  unfold State.setTin updAt
  rw [List.modify_eq_set_get _ h, List.modify_eq_set_get _ h, ← hget, hfg]

/-- A command that changes one input leaves the others and everything else. -/
theorem exec_setTin {c : Instr} {f : TinIn → TinIn} (h : n < s.tin.ins.length) (hexec : exec c s = .next (s.setTin n f)) :
    ∃ t, exec c s = .next t ∧ t = { s with tin := { s.tin with ins := t.tin.ins } } ∧ (∀ k < 8, k ≠ n → t.tinAt k = s.tinAt k) ∧
      t.tinAt n = f (s.tinAt n) :=
  ⟨s.setTin n f, hexec, rfl, fun _ _ hk => State.tinAt_setTin_ne f hk, State.tinAt_setTin_self f h⟩

/-! One input named by a mask. -/

theorem maskBits_single : ∀ n < 8, maskBits 8 (BitVec.ofNat 8 (2 ^ n)).toNat = [n] := by decide

theorem State.tinArm_single (hw : s.noWrites = false) (hn : n < 8) : s.tinArm (BitVec.ofNat 8 (2 ^ n)) = s.armOne n := by
  rw [State.tinArm, if_neg (by simp [hw]), maskBits_single n hn]
  rfl

theorem State.tinDisarm_single (hw : s.noWrites = false) (hn : n < 8) : s.tinDisarm (BitVec.ofNat 8 (2 ^ n)) = s.disarmOne n := by
  rw [State.tinDisarm, if_neg (by simp [hw]), maskBits_single n hn]
  rfl

/-! Arming (R157). -/

theorem State.armOne_again (hburst : s.tinBurst n ≠ 0) (h : (s.tinAt n).armed = true) :
    s.armOne n = s.setTin n fun i => { i with rearm := true } := by
  rw [State.armOne, if_neg hburst, if_pos h]

theorem State.armOne_afresh (hburst : s.tinBurst n ≠ 0) (h : (s.tinAt n).armed = false) :
    s.armOne n = s.setTin n fun i => { i with armed := true, seq := 0, burstDone := 0 } := by
  rw [State.armOne, if_neg hburst, if_neg (by simp [h])]

/-! A measurement closed (R158). -/

theorem State.fifoPut_room (h : (s.tinAt n).fifo.length < 1024) (at_ : Int) (r : BitVec 128) :
    s.fifoPut n at_ r = s.setTin n fun i => { i with fifo := i.fifo ++ [(at_, r)] } := if_pos h

/-- The TRUNCATED record of an input's open measurement (R167). -/
def State.truncated (s : State) (n : Nat) (m : Meas) : BitVec 128 :=
  recTruncated n (s.tinMode n - 1) ((s.tinAt n).seq + 65535) (m.count (s.tinMode n)) (m.last - m.first)

theorem State.closeMeas_none (h : (s.tinAt n).opened = none) : s.closeMeas n = s := by
  unfold State.closeMeas
  rw [h]

theorem State.closeMeas_open (h : (s.tinAt n).opened = some m) (hroom : (s.tinAt n).fifo.length < 1024) : s.closeMeas n =
    s.setTin n fun i => { i with opened := none, gapFrom := some m.last, fifo := i.fifo ++ [(m.last, s.truncated n m)] } := by
  unfold State.closeMeas
  rw [h]
  exact (congrArg (State.setTin · n _) (State.fifoPut_room hroom _ _)).trans (State.setTin_setTin ..)

theorem State.disarmOne_none (h : (s.tinAt n).opened = none) : s.disarmOne n = s.setTin n fun i => { i with armed := false } := by
  rw [State.disarmOne, State.closeMeas_none h]

theorem State.disarmOne_open (h : (s.tinAt n).opened = some m) (hroom : (s.tinAt n).fifo.length < 1024) : s.disarmOne n = s.setTin n fun i =>
    { i with armed := false, opened := none, gapFrom := some m.last, fifo := i.fifo ++ [(m.last, s.truncated n m)] } := by
  rw [State.disarmOne, State.closeMeas_open h hroom, State.setTin_setTin]
  rfl

theorem State.measTruncate_silent {last : Nat} (h : (s.tinAt n).opened = some m) (hlast : (s.tinAt n).lastEdge = some last)
    (hsilent : last + s.fld 0x50010 26 0 * 1000 ≤ s.now) : s.measTruncate n = s.closeMeas n := by
  simp only [State.measTruncate, h, hlast, if_pos hsilent]

end

/-- Settles O21: each command is one change of its input, which the input's own state before it decides. -/
theorem measurementsArmTruncateAndDisarm : Obligations.MeasurementsArmTruncateAndDisarm := by
  intro s n hn hlen
  have hin : n < s.tin.ins.length := hlen ▸ hn
  refine ⟨fun hw hburst => ?arm, fun m hw hopen hroom => ?disarmOpen, fun hw hopen => ?disarm, fun m last hopen hlast hsilent hroom => ?silent⟩
  case arm =>
    cases harmed : (s.tinAt n).armed with
    | true =>
      obtain ⟨t, hexec, hframe, hothers, hself⟩ :=
        exec_setTin hin (by rw [exec_tinArm, State.tinArm_single hw hn, State.armOne_again hburst harmed])
      exact ⟨t, hexec, hframe, hothers, fun _ => hself, fun h => absurd h (by decide)⟩
    | false =>
      obtain ⟨t, hexec, hframe, hothers, hself⟩ :=
        exec_setTin hin (by rw [exec_tinArm, State.tinArm_single hw hn, State.armOne_afresh hburst harmed])
      exact ⟨t, hexec, hframe, hothers, fun h => absurd h (by decide), fun _ => hself⟩
  case disarmOpen => exact exec_setTin hin (by rw [exec_tinDisarm, State.tinDisarm_single hw hn, State.disarmOne_open hopen hroom])
  case disarm => exact exec_setTin hin (by rw [exec_tinDisarm, State.tinDisarm_single hw hn, State.disarmOne_none hopen])
  case silent =>
    exact exec_setTin hin (by rw [exec_measurementTruncate, State.measTruncate_silent hopen hlast hsilent, State.closeMeas_open hopen hroom])

end Sys2Proof.Machine
end

section
/-! SUPPORT. What an edge of an event input leaves in its FIFO, and what the write port makes of the record at the front of one. -/

namespace Sys2Proof.Machine

open Sys2Proof

theorem exec_tinEdge (s : State) (n : Nat) (falling : Bool) (code : Nat) : exec (.tinEdge n falling code) s = .next (s.tinEdge n falling code) := rfl

theorem exec_captureBufferWrite (s : State) (n : Nat) : exec (.captureBufferWrite n) s = .next (s.captureWrite n) := rfl

section
variable {s : State} {n mem : Nat} {falling last : Bool} {t mono : Int}

/-! The record of an edge. -/

/-- An event record, with the instant of its edge, joins the input's FIFO, and the next has the next SEQ (R154, R156). -/
def TinIn.record (i : TinIn) (mono : Int) (r : BitVec 128) : TinIn := { i with fifo := i.fifo ++ [(mono, r)], seq := (i.seq + 1) % 65536 }

/-- The EVENT record that an edge of an input leaves (R165). -/
def State.eventRec (s : State) (n : Nat) (falling last : Bool) (mem : Nat) (t : Int) : BitVec 128 :=
  recEvent n falling last mem (s.tinAt n).seq (s.word (wrapTime t))

theorem State.putEvent_room (hroom : (s.tinAt n).fifo.length < 1024) :
    s.putEvent n falling last mem t mono = s.setTin n (TinIn.record · mono (s.eventRec n falling last mem t)) := by
  rw [State.putEvent, State.fifoPut_room hroom, State.setTin_setTin]
  rfl

/-- Where no GAP record is owed the first edge of a measurement leaves its own record alone. -/
theorem State.firstEdge_noGap (hgap : (s.tinAt n).gapFrom = none) :
    s.firstEdge n falling last mem t mono = s.putEvent n falling last mem t mono := by
  simp only [State.firstEdge, hgap]

/-- An edge is offered to no PPSOUT when none follows its input. -/
theorem State.ppsInput_unfollowed {src : Nat} (h : ∀ m < 4, ¬(s.bit (pBase m) 29 = true ∧ s.fld (pBase m) 28 25 = src)) (x : Rat) :
    s.ppsInput src x = s := by
  unfold State.ppsInput
  refine List.foldlRecOn (motive := (· = s)) _ _ rfl fun u hu m hm => ?_
  subst hu
  refine if_neg fun hfollows => h m (List.mem_range.1 hm) ?_
  simp only [Bool.and_eq_true, beq_iff_eq] at hfollows
  exact ⟨hfollows.1.2, hfollows.2⟩

theorem State.ppsInput_unfollowed_setTin {src : Nat} (h : ∀ m < 4, ¬(s.bit (pBase m) 29 = true ∧ s.fld (pBase m) 28 25 = src))
    (f : TinIn → TinIn) (x : Rat) : (s.setTin n f).ppsInput src x = s.setTin n f := State.ppsInput_unfollowed (s := s.setTin n f) h x

/-- The record of an edge in event mode, counted toward the burst (R154). -/
theorem State.ownEdge_event (hin : n < s.tin.ins.length) (hmode : s.tinMode n = 1) (hburst : s.tinBurst n = 0)
    (hopen : (s.tinAt n).opened = none) (hgap : (s.tinAt n).gapFrom = none) (hroom : (s.tinAt n).fifo.length < 1024)
    (hfollow : ∀ m < 4, ¬(s.bit (pBase m) 29 = true ∧ s.fld (pBase m) 28 25 = 8 + n)) :
    s.ownEdge n falling mem t mono = s.setTin n fun i =>
      { i.record mono (s.eventRec n falling false mem t) with burstDone := i.burstDone + 1 } := by
  have hcounted : s.ownEdge n falling mem t mono = ((s.firstEdge n falling false mem t mono).setTin n fun i =>
      { i with burstDone := i.burstDone + 1, opened := none }).ppsInput (8 + n) t := by
    simp [State.ownEdge, hmode, hburst, hopen]
  rw [hcounted, State.firstEdge_noGap hgap, State.putEvent_room hroom, State.setTin_setTin]
  rw [State.ppsInput_unfollowed_setTin hfollow]
  refine State.setTin_congr hin ?_
  simp [TinIn.record, hopen]

/-! A selected edge. -/

/-- An input of which the given member of its pair has taken an edge: its record, and the other member next (R142, R154). -/
def TinIn.captured (i : TinIn) (mem now : Nat) (mono : Int) (r : BitVec 128) : TinIn :=
  { i.record mono r with member := 1 - mem, lastEdge := some now, burstDone := i.burstDone + 1 }

/-- The state in which the TAC of a member of an input's pair converts an edge: the other member is next (R142, R154). -/
def State.converting (s : State) (n mem : Nat) : State :=
  (s.tacBusy (2 * n + mem)).setTin n fun i => { i with member := 1 - mem, lastEdge := some s.now }

/-- The time of an edge that a member of its input's pair converts (R141). -/
def State.edgeAt (s : State) (n mem code : Nat) : Int := s.captureAt (2 * n + mem) code (s.tinDly n)

/-- No input awaits the edge as the end of its interval. -/
theorem State.noStops (h : ∀ m < 8, s.stopSelected n m falling = false) : (List.range 8).filter (s.stopSelected n · falling) = [] :=
  List.filter_eq_nil_iff.2 fun m hm => by simp [h m (List.mem_range.1 hm)]

section
variable (hn : n < 8) (hcap : s.tinCaptures = true) (hown : s.ownSelected n falling = true)
  (hstop : ∀ m < 8, s.stopSelected n m falling = false) (hopen : (s.tinAt n).opened = none)
include hn hcap hown hstop hopen

/-- With no TAC ready the edge is missed, and counted (R142, R156). -/
theorem State.tinEdge_missed (hin : n < s.tin.ins.length) (code : Nat) (hmem : s.tinMember n = none) : s.tinEdge n falling code =
    (s.setTin n fun i => { i with missed := true, lastEdge := some s.now }).count (0x50300 + 8 * n) := by
  have hn8 : ¬8 ≤ n := by omega
  simp only [State.tinEdge, hcap, hn8, hown, State.noStops hstop, hopen, hmem, Bool.not_true, decide_false, Bool.or_self, Bool.false_eq_true,
    if_false, List.isEmpty_nil, Bool.and_true, reduceCtorEq, imp_self, implies_true]
  refine congrArg (State.count · _) (State.setTin_congr hin ?_)
  simp [hopen]

/-- A ready TAC converts the edge (R141, R154). -/
theorem State.tinEdge_converted (code : Nat) (hmem : s.tinMember n = some mem) : s.tinEdge n falling code =
    (s.converting n mem).ownEdge n falling mem (s.edgeAt n mem code) (s.edgeAt n mem code - s.tb.stepSum) := by
  have hn8 : ¬8 ≤ n := by omega
  simp only [State.tinEdge, hcap, hn8, hown, State.noStops hstop, hopen, hmem, Bool.not_true, decide_false, Bool.or_self, Bool.false_eq_true,
    if_false, List.isEmpty_nil, Bool.and_true, reduceCtorEq, imp_self, implies_true, List.contains_nil, List.foldl_nil, State.setTin_setTin]
  rfl

/-- In event mode without a burst the edge leaves its record, with its time on Warp (R141, R154). -/
theorem State.tinEdge_event (hin : n < s.tin.ins.length) (code : Nat) (hmem : s.tinMember n = some mem) (hmode : s.tinMode n = 1)
    (hburst : s.tinBurst n = 0) (hgap : (s.tinAt n).gapFrom = none) (hroom : (s.tinAt n).fifo.length < 1024)
    (hfollow : ∀ m < 4, ¬(s.bit (pBase m) 29 = true ∧ s.fld (pBase m) 28 25 = 8 + n)) : s.tinEdge n falling code =
    (s.tacBusy (2 * n + mem)).setTin n
      (TinIn.captured · mem s.now (s.edgeAt n mem code - s.tb.stepSum) (s.eventRec n falling false mem (s.edgeAt n mem code))) := by
  have hat : (s.converting n mem).tinAt n = { s.tinAt n with member := 1 - mem, lastEdge := some s.now } :=
    State.tinAt_setTin_self (s := s.tacBusy (2 * n + mem)) _ hin
  have hrec (t : Int) : (s.converting n mem).eventRec n falling false mem t = s.eventRec n falling false mem t := by
    rw [State.eventRec, hat]
    rfl
  have hin' : n < (s.converting n mem).tin.ins.length := (State.setTin_ins_length ..).symm ▸ hin
  rw [State.tinEdge_converted hn hcap hown hstop hopen code hmem,
    State.ownEdge_event hin' hmode hburst (by rw [hat]; exact hopen) (by rw [hat]; exact hgap) (by rw [hat]; exact hroom) hfollow, hrec,
    State.converting, State.setTin_setTin]
  rfl

end

/-! The write port. -/

theorem State.flushOverflow_none (h : s.tin.ovfDue = false) : s.flushOverflow = s := if_neg (by simp [h])

/-- The state with a record of an input counted as lost, and an OVERFLOW record owed (R175). -/
def State.lossCounted (s : State) (n : Nat) : State :=
  ({ s with tin := { s.tin with lost := updAt s.tin.lost n (· + 1), lostTotal := s.tin.lostTotal + 1, ovfDue := true, ovf := true } } : State).count
    (0x50340 + 8 * n)

theorem State.loseRecord_atBuffer (s : State) (n : Nat) :
    s.loseRecord (some n) true = if s.evsEn then (s.lossCounted n).cause 8 else s.lossCounted n := rfl

/-- Beside what is counted, the loss of a record reaches the host interface alone, by the cause EVS_OVF (R515). -/
theorem State.loseRecord_spec (s : State) (n : Nat) : (s.loseRecord (some n) true).tin = (s.lossCounted n).tin ∧
    (s.loseRecord (some n) true).ctr = (s.lossCounted n).ctr ∧
    s.loseRecord (some n) true = { s.lossCounted n with hif := (s.loseRecord (some n) true).hif } := by
  rw [State.loseRecord_atBuffer]
  split
  · exact ⟨State.cause_tin _ 8, State.cause_ctr _ 8, State.cause_eq _ 8⟩
  · exact ⟨rfl, rfl, rfl⟩

/-- The state with the capture buffer and its writer as they are put, and each reader's mark judged anew (R172, R176). -/
def State.withBuffer (s : State) (buf : List (BitVec 128)) (wr : Nat) : State :=
  let s1 := { s with tin := { s.tin with buf := buf, wr := wr } }
  { s1 with tin := { s1.tin with rdr := s1.markAfterWrite s1.tin.rdr }, hif := { s1.hif with evs := s1.markAfterWrite s1.hif.evs } }

/-- A record goes in at WR, behind the 16,383 newest (R172). -/
theorem State.bufPut_eq (s : State) (r : BitVec 128) : s.bufPut r =
    s.withBuffer ((s.tin.buf ++ [r]).drop ((s.tin.buf ++ [r]).length - 16384)) ((s.tin.wr + 1) % 2 ^ 32) := rfl

/-- The inputs and everything but the buffer and its pointers stand. -/
theorem State.withBuffer_spec (s : State) (buf : List (BitVec 128)) (wr : Nat) :
    (s.withBuffer buf wr).tin.ins = s.tin.ins ∧ (s.withBuffer buf wr).tin.wr = wr ∧ (s.withBuffer buf wr).tin.buf = buf ∧
    s.withBuffer buf wr = { s with tin := (s.withBuffer buf wr).tin, hif := { s.hif with evs := (s.withBuffer buf wr).hif.evs } } :=
  ⟨rfl, rfl, rfl, rfl⟩

variable {tm : Int} {rec : BitVec 128} {rest : List (Int × BitVec 128)}

/-- The state with the record at the front of an input's FIFO taken out. -/
def State.popped (s : State) (n : Nat) (rest : List (Int × BitVec 128)) : State := s.setTin n fun i => { i with fifo := rest }

/-- With no OVERFLOW record owed the front record is written, or lost while the buffer is full (R171, R175). -/
theorem State.captureWrite_front (hturn : s.portTurn n = true) (hfifo : (s.tinAt n).fifo = (tm, rec) :: rest) (hovf : s.tin.ovfDue = false) :
    s.captureWrite n = if s.bufFull then (s.popped n rest).loseRecord (some n) true else (s.popped n rest).bufPut rec := by
  have hflush : (s.popped n rest).flushOverflow = s.popped n rest := State.flushOverflow_none hovf
  have hport : s.captureWrite n = (s.popped n rest).portWrite (some n) rec := by
    simp only [State.captureWrite, hturn, hfifo, Bool.not_true, Bool.false_eq_true, if_false]
    rfl
  rw [hport, State.portWrite, hflush]
  rfl

theorem State.popped_fifo (h : n < s.tin.ins.length) : ((s.popped n rest).tinAt n).fifo = rest :=
  congrArg TinIn.fifo (State.tinAt_setTin_self _ h)

end

/-- Settles O20: an edge by whether a TAC is ready for it, and the record at the front of a FIFO by whether the buffer is full. -/
theorem eventEdgesBecomeRecordsInOrder : Obligations.EventEdgesBecomeRecordsInOrder := by
  intro s n falling code hn hlen
  have hin : n < s.tin.ins.length := hlen ▸ hn
  refine ⟨fun hcap hown hmode hburst hstop hgap hopen => ⟨fun mem hmem hroom hfollow => ?event, fun hmem => ?missed⟩,
    fun tm rec rest hfifo hturn hovf => ⟨fun hfull => ?written, fun hfull => ?lost⟩⟩
  case event =>
    have hself := State.tinAt_setTin_self (s := s.tacBusy (2 * n + mem)) (TinIn.captured · mem s.now
      (s.edgeAt n mem code - s.tb.stepSum) (s.eventRec n falling false mem (s.edgeAt n mem code))) hin
    exact ⟨_, (exec_tinEdge s n falling code).trans (congrArg _ (State.tinEdge_event hn hcap hown hstop hopen hin code hmem hmode hburst hgap
      hroom hfollow)), (congrArg TinIn.fifo hself :), (congrArg TinIn.seq hself :), (congrArg TinIn.member hself :), rfl,
      fun _ _ hk => State.tinAt_setTin_ne _ hk, rfl⟩
  case missed =>
    have hself := State.tinAt_setTin_self (fun i => { i with missed := true, lastEdge := some s.now }) hin
    exact ⟨_, (exec_tinEdge s n falling code).trans (congrArg _ (State.tinEdge_missed hn hcap hown hstop hopen hin code hmem)),
      (congrArg TinIn.missed hself :), (congrArg TinIn.fifo hself :), State.ctrAt_count_self _ _, rfl⟩
  case written =>
    obtain ⟨hins, hwr, hbuf, hframe⟩ := (s.popped n rest).withBuffer_spec
      ((s.tin.buf ++ [rec]).drop ((s.tin.buf ++ [rec]).length - 16384)) ((s.tin.wr + 1) % 2 ^ 32)
    refine ⟨_, ?_, ?_, hwr, hbuf, hframe⟩
    · rw [exec_captureBufferWrite, State.captureWrite_front hturn hfifo hovf, if_neg (by simp [hfull]), State.bufPut_eq]
      rfl
    · rw [State.tinAt, hins]
      exact State.popped_fifo hin
  case lost =>
    obtain ⟨htin, hctr, hframe⟩ := (s.popped n rest).loseRecord_spec n
    have hat : ((s.popped n rest).loseRecord (some n) true).tinAt n = (s.popped n rest).tinAt n := by
      rw [State.tinAt, htin]
      rfl
    refine ⟨(s.popped n rest).loseRecord (some n) true, ?_, ?_, by rw [htin]; rfl, by rw [htin]; rfl, by rw [htin]; rfl, by rw [htin]; rfl, ?_, ?_⟩
    · rw [exec_captureBufferWrite, State.captureWrite_front hturn hfifo hovf, if_pos hfull]
    · rw [hat, State.popped_fifo hin]
    · rw [State.ctrAt, hctr]
      exact State.ctrAt_count_self _ _
    · rw [hframe]
      rfl

end Sys2Proof.Machine
end

section
/-! SUPPORT. The register reader of the capture buffer: where it starts, what it reads and what it marks. -/

namespace Sys2Proof.Machine

open Sys2Proof

theorem exec_registerReaderEnable (s : State) : exec .registerReaderEnable s = .next s.rdEnable := rfl

theorem exec_tinRecRead (s : State) (p : Path) : exec (.tinRecRead p) s = .next (s.readOn p 0x50220) := rfl

theorem exec_tinMark (s : State) : exec .tinMark s = .next (if s.noWrites then s else s.setRdr s.tin.rdr.doMark) := rfl

theorem exec_tinRewind (s : State) : exec .tinRewind s = .next (if s.noWrites then s else s.setRdr (s.rewound s.tin.rdr)) := rfl

theorem exec_tinClear (s : State) : exec .tinClear s = .next (if s.noWrites then s else s.setRdr s.tin.rdr.doClear) := rfl

/-- Whatever the map is, a register written with a word other than its reset value reads as written. -/
theorem RegMap.rd_wr_self (m : RegMap) {off : Nat} {v : W32} (h : v ≠ regReset off) : RegMap.rd (m.wr off v) off = v := by
  rw [RegMap.rd, RegMap.wr, Assoc.putD, if_neg h, Assoc.get_put, if_pos rfl, Option.getD_some]

section
variable {s : State} {p : Path}

/-! Enabling. -/

theorem bitAt_or_top (w : W32) : bitAt (w ||| 0x80000000) 31 = true := by
  rw [bitAt_eq_getLsbD, BitVec.getLsbD_or]
  simp

/-- After reset RD_EN is clear. -/
theorem bitAt_regReset_tinGlb : bitAt (regReset 0x50010) 31 = false := by decide +kernel

/-- A word with RD_EN set is not what TIN_GLB resets to. -/
theorem or_top_ne_regReset (w : W32) : w ||| 0x80000000 ≠ regReset 0x50010 := by
  intro h
  have hbit : bitAt (regReset 0x50010) 31 = true := h ▸ bitAt_or_top w
  exact absurd (hbit.symm.trans bitAt_regReset_tinGlb) (by decide)

theorem State.rdEnable_off (hw : s.noWrites = false) (hoff : s.rdEn = false) : s.rdEnable =
    { s with tin := { s.tin with rdr := s.readerStart s.tin.rdr }, act := s.act.wr 0x50010 (s.reg 0x50010 ||| 0x80000000),
             stg := s.stg.wr 0x50010 (s.stg.rd 0x50010 ||| 0x80000000) } := by
  simp only [State.rdEnable, hw, hoff, Bool.false_eq_true, if_false]

theorem State.rdEnable_rdEn (hw : s.noWrites = false) (hoff : s.rdEn = false) : s.rdEnable.rdEn = true := by
  rw [State.rdEnable_off hw hoff]
  exact (congrArg (bitAt · 31) (RegMap.rd_wr_self s.act (or_top_ne_regReset _))).trans (bitAt_or_top _)

/-- Only where a reader stands is moved when it starts (R173). -/
theorem State.readerStart_eq (s : State) (r : Reader) : s.readerStart r =
    { r with rd := if 16384 < s.unread r ∨ s.tin.buf.length < s.unread r then s.heldFrom else r.rd } := by
  unfold State.readerStart
  split <;> rfl

/-! Reading. -/

/-- The state with a record latched and the reader standing behind it (R174). -/
def State.recLatched (s : State) : State :=
  { s with tin := { s.tin with recLatch := s.recAt s.tin.rdr.rd, rdr := { s.tin.rdr with rd := (s.tin.rdr.rd + 1) % 2 ^ 32 } } }

theorem State.tinRecRead_unread (h : s.unread s.tin.rdr ≠ 0) (hovf : s.tin.ovfDue = false) : s.tinRecRead = s.recLatched :=
  (if_neg h).trans (State.flushOverflow_none (s := s.recLatched) hovf)

theorem State.tinRecRead_empty (h : s.unread s.tin.rdr = 0) : s.tinRecRead = { s with tin := { s.tin with recLatch := 0 } } := if_pos h

theorem State.shadow_of_writes (hw : s.noWrites = false) : s.shadow = false := by
  have hmode : s.md.mode ≠ .boot := fun h => absurd (hw.symm.trans (State.noWrites_iff.2 (.inl h))) (by decide)
  simp [State.shadow, hmode]

theorem tinRec0_plain : cmtAt 0x50220 = none ∧ isCounter 0x50220 = false ∧ isCounter (0x50220 - 4) = false ∧ (regDef 0x50220).isSome = false := by
  decide +kernel

/-- TIN_REC0 shows the lowest word of the latched record (R174, R183). -/
theorem State.readReg_tinRec0 (h : s.shadow = false) : s.readReg p 0x50220 = BitVec.ofNat 32 s.tin.recLatch.toNat := by
  obtain ⟨hcmt, hctr, hctr', hreg⟩ := tinRec0_plain
  have hlive : s.readLive p 0x50220 = s.readTin 0x50220 := by
    unfold State.readLive
    rw [if_neg (by decide), hcmt]
    simp only [hctr, hctr', hreg, Bool.false_eq_true, if_false]
  have hword : s.readTin 0x50220 = BitVec.ofNat 32 s.tin.recLatch.toNat := by simp [State.readTin]
  rw [State.readReg, if_neg (by decide), if_neg (by simp [h]), hlive, hword]

/-- A read of TIN_REC0 on a path: what the record read makes of the block, and the word that then stands in the latch. -/
theorem State.readOn_tinRec0 {u : State} (hw : s.noWrites = false) (hlen : s.lat.length = 2) (hrec : s.tinRecRead = u)
    (hframe : u = { s with tin := u.tin }) : ∃ t, exec (.tinRecRead p) s = .next t ∧ t.tin = u.tin ∧
      (t.latOf p).lastRead = BitVec.ofNat 32 u.tin.recLatch.toNat ∧ t = { s with tin := t.tin, lat := t.lat } := by
  have hlatch : s.readLatch p 0x50220 = u := by
    rw [State.readLatch, if_neg (by decide), if_neg (by decide), if_pos rfl, if_neg (by simp [State.shadow_of_writes hw]), hrec]
  have hshadow : u.shadow = false := by rw [hframe]; exact State.shadow_of_writes hw
  have hulen : u.lat.length = 2 := by rw [hframe]; exact hlen
  have hread : s.readOn p 0x50220 = u.setLat p fun l => { l with lastRead := BitVec.ofNat 32 u.tin.recLatch.toNat } := by
    rw [State.readOn, if_neg (by decide), if_neg (by decide), hlatch]
    simp only [State.readReg_tinRec0 hshadow]
    rfl
  refine ⟨_, (exec_tinRecRead s p).trans (congrArg _ hread), rfl, ?_, ?_⟩
  · rw [State.latOf_setLat_self _ hulen]
  · rw [hframe]
    rfl

/-! Marking. -/

theorem State.rewound_valid {r : Reader} {m : Nat} (hmark : r.mark = some m) (hgone : r.gone = false) (hin : ptrSub s.tin.wr m ≤ 16384) :
    s.rewound r = { r with rd := m, code := 0 } := by
  have hvalid : s.markValid r = true := by simp [State.markValid, hmark, hgone, hin]
  simp only [State.rewound, hmark, hvalid, if_true]

theorem State.rewound_lost {r : Reader} (h : ∀ m, r.mark = some m → r.gone = true ∨ 16384 < ptrSub s.tin.wr m) :
    s.rewound r = { r with rd := s.heldFrom, code := 0x20 } := by
  cases hmark : r.mark with
  | none => simp only [State.rewound, hmark]
  | some m =>
    have hlost : s.markValid r = false := by
      obtain hgone | hfar := h m hmark
      · simp [State.markValid, hmark, hgone]
      · simp [State.markValid, hmark, hfar]
    simp only [State.rewound, hmark, hlost, Bool.false_eq_true, if_false]

end

/-- Settles O22: the enable by what TIN_GLB then reads, a read by whether a record is unread, and the marks by the mark that stands. -/
theorem registerReaderFollowsItsPointers : Obligations.RegisterReaderFollowsItsPointers := by
  intro s hw hlen
  have hwrites : ¬s.noWrites = true := by simp [hw]
  refine ⟨fun hoff => ?enable, fun p hunread hovf => ?read, fun p hempty => ?empty, ?mark, fun m hmark hgone hin => ?rewind,
    fun hlost => ?lost, ?clear⟩
  case enable =>
    have hrd : s.rdEnable.tin.rdr = s.readerStart s.tin.rdr := by rw [State.rdEnable_off hw hoff]
    refine ⟨s.rdEnable, exec_registerReaderEnable s, State.rdEnable_rdEn hw hoff, by rw [hrd, State.readerStart_eq], ?_⟩
    rw [State.rdEnable_off hw hoff, State.readerStart_eq]
  case read => exact State.readOn_tinRec0 hw hlen (State.tinRecRead_unread hunread hovf) rfl
  case empty => exact State.readOn_tinRec0 hw hlen (State.tinRecRead_empty hempty) rfl
  case mark => exact (exec_tinMark s).trans (congrArg _ (if_neg hwrites))
  case rewind => rw [exec_tinRewind, if_neg hwrites, State.rewound_valid hmark hgone hin, State.setRdr]
  case lost => rw [exec_tinRewind, if_neg hwrites, State.rewound_lost hlost, State.setRdr]
  case clear => exact (exec_tinClear s).trans (congrArg _ (if_neg hwrites))

end Sys2Proof.Machine
end

section
/-! SUPPORT. END_WTR and FORGET: the codes that come before the reference is looked at, and a reference cleared. -/

namespace Sys2Proof.Machine

open Sys2Proof

theorem exec_endWtr (s : State) (tok : BitVec 16) (i : Nat) : exec (.endWtr tok i) s = .next (s.endWtr tok i) := rfl

theorem exec_forget (s : State) (tok : BitVec 16) (i : Nat) : exec (.forget tok i) s = .next (s.forgetRef tok i) := rfl

section
variable {s : State} {i : Nat}

/-! The codes of R217. -/

theorem State.refCtlCode_unknown (h : 16 < i) : s.refCtlCode i = 0x10 := if_pos h

theorem State.refCtlCode_stopped (h : i ≤ 16) (hrun : s.md.mode.running = false) : s.refCtlCode i = 0x24 := by
  rw [State.refCtlCode, if_neg (by omega), if_pos (by simp [hrun])]

theorem State.refCtlCode_taken (h : i ≤ 16) (hrun : s.md.mode.running = true) : s.refCtlCode i = 0 := by
  rw [State.refCtlCode, if_neg (by omega), if_neg (by simp [hrun])]

section
variable (hw : s.noWrites = false) (tok : BitVec 16)
include hw

/-- A code that comes before the reference is looked at is the answer of both operations, and all that they do. -/
theorem State.refCtl_refused {code : Nat} (hcode : s.refCtlCode i = code) (hne : code ≠ 0) :
    exec (.endWtr tok i) s = .next (s.refCtl tok code) ∧ exec (.forget tok i) s = .next (s.refCtl tok code) := by
  subst hcode
  have hwrites : ¬s.noWrites = true := by simp [hw]
  rw [exec_endWtr, exec_forget, State.endWtr, if_neg hwrites, State.forgetRef, if_neg hwrites]
  exact ⟨congrArg _ (if_pos hne), congrArg _ (if_pos hne)⟩

/-- END_WTR by whether its reference is in WTR. -/
theorem State.endWtr_taken (hcode : s.refCtlCode i = 0) : s.endWtr tok i =
    if (s.refAt i).st = .wtr then (s.setRef i fun r => { r with endWtr := true }).refCtl tok 0 else s.refCtl tok 0x20 := by
  simp [State.endWtr, hw, hcode, ite_not]

theorem State.forgetRef_taken (hcode : s.refCtlCode i = 0) :
    s.forgetRef tok i = (s.clearRefs [i] (decide (i < 8) && s.refKind i == 0)).refCtl tok 0 := by
  simp [State.forgetRef, hw, hcode]

end

/-! A reference cleared. -/

/-- A reference whose history is cleared, its cause bits kept (R197). -/
def RefSt.wiped (r : RefSt) (now : Nat) : RefSt :=
  { RefSt.reset with los := r.los, freq := r.freq, pjump := r.pjump, te := r.te, proj := r.proj, qlf := r.qlf, integ := r.integ,
                     rxQl := r.rxQl, active := true, monAt := now }

theorem State.wipeRef_refAt_self (hi : i < s.ref.refs.length) : (s.wipeRef i).refAt i = (s.refAt i).wiped s.now := by
  have hlen : i < (s.leaves i).ref.refs.length := by rwa [(s.leaves_visits i).frame.len]
  rw [State.wipeRef, State.refAt_setRef_self _ hlen, State.leaves_refAt, (State.leaves_keeps (.refl s)).now]
  rfl

/-- A reference cleared stands in DISQ through the choice that may follow. -/
theorem State.clearRefs_refAt_self (hi : i < s.ref.refs.length) (tod : Bool) : (s.clearRefs [i] tod).refAt i = (s.refAt i).wiped s.now := by
  unfold State.clearRefs
  extract_lets was s1 _ s2 s3
  have h1 : s1.refAt i = (s.refAt i).wiped s.now := State.wipeRef_refAt_self hi
  have h2 : s2.refAt i = s1.refAt i := by
    unfold s2
    split <;> rfl
  have h3 : s3.refAt i = (s.refAt i).wiped s.now := (s2.refreshSel_refAt i).trans (h2.trans h1)
  split
  · exact (State.choose_refAt (by rw [h3]; rfl) 6).trans h3
  · exact h3

end

/-- Settles O25: both operations by the code that comes first, END_WTR by the state of its reference, and FORGET by what clearing leaves. -/
theorem selectorControlAnswersWithItsCode : Obligations.SelectorControlAnswersWithItsCode := by
  intro s tok i hw hlen
  refine ⟨fun hid => ?unknown, fun hid hrun => ?stopped, fun hid hrun hst => ?notWaiting, fun hid hrun hst => ?ended, fun hid hrun => ?forgotten⟩
  case unknown => exact State.refCtl_refused hw tok (State.refCtlCode_unknown hid) (by decide)
  case stopped => exact State.refCtl_refused hw tok (State.refCtlCode_stopped hid hrun) (by decide)
  case notWaiting =>
    rw [exec_endWtr, State.endWtr_taken hw tok (State.refCtlCode_taken hid hrun), if_neg hst]
    rfl
  case ended =>
    have hi : i < s.ref.refs.length := by omega
    refine ⟨(s.setRef i fun r => { r with endWtr := true }).refCtl tok 0, ?_, State.refAt_setRef_self _ hi,
      fun j hj => State.refAt_setRef_ne _ hj, rfl⟩
    rw [exec_endWtr, State.endWtr_taken hw tok (State.refCtlCode_taken hid hrun), if_pos hst]
  case forgotten =>
    have hi : i < s.ref.refs.length := by omega
    have htaken := State.forgetRef_taken hw tok (State.refCtlCode_taken hid hrun)
    have hself : (s.forgetRef tok i).refAt i = (s.refAt i).wiped s.now := by
      rw [htaken]
      exact State.clearRefs_refAt_self hi _
    obtain ⟨hact, hstg⟩ := s.clearRefs_copies [i] (decide (i < 8) && s.refKind i == 0)
    refine ⟨s.forgetRef tok i, exec_forget s tok i, ?_⟩
    rw [hself, (State.forgetRef_keeps (.refl s)).mode, htaken]
    exact ⟨rfl, rfl, rfl, rfl, rfl, rfl, rfl, rfl, rfl, rfl, rfl, rfl, rfl, rfl, rfl, hact, hstg⟩

end Sys2Proof.Machine
end

section
/-! SUPPORT. A measurement of a reference as its phase-jump monitor judges it, and what a failure of a monitor leaves. -/

namespace Sys2Proof.Machine

open Sys2Proof

theorem exec_refMeasurement (s : State) (i : Nat) (m : RefIn) : exec (.refMeasurement i m) s = .next (s.refMeasure i m) := rfl

theorem exec_refActivityTimeout (s : State) (i : Nat) (k : ActKind) : exec (.refActivityTimeout i k) s = .next (s.refTimeout i k) := rfl

/-! What a failure of a monitor leaves, and where it puts its reference. -/

/-- The mode, both copies of the registers, Warp and the ports are as they were. -/
def State.Stands (s t : State) : Prop :=
  t.md.mode = s.md.mode ∧ t.act = s.act ∧ t.stg = s.stg ∧ t.tb.warp = s.tb.warp ∧ t.ports = s.ports

theorem State.monitorFails_stg (s : State) (i : Nat) (mark : RefSt → RefSt) : (s.monitorFails i mark).stg = s.stg := by
  have hdisq := (s.toDisq_visits i mark).frame.stg
  unfold State.monitorFails
  extract_lets was s1
  split
  · rfl
  · split
    · exact (State.choose_stg _ 3).trans hdisq
    · exact hdisq

theorem State.monitorFails_stands (s : State) (i : Nat) (mark : RefSt → RefSt) : s.Stands (s.monitorFails i mark) :=
  have hframe := s.monitorFails_selectorFrame i mark
  ⟨(State.monitorFails_keeps (.refl s)).mode, hframe.act, s.monitorFails_stg i mark, hframe.warp, hframe.ports⟩

section
variable {s : State} {i : Nat}

/-- A reference put into DISQ (R197). -/
def RefSt.disqualified (r : RefSt) : RefSt :=
  { r with st := .disq, passSince := none, wtrLeft := 0, twait := false, endWtr := false, fromDrift := false }

/-- A watched reference whose monitor fails is in DISQ as `mark` has marked it; the choice that may follow leaves it there. -/
theorem State.monitorFails_refAt_self (mark : RefSt → RefSt) (hi : i < s.ref.refs.length) (hon : s.refOn i = true)
    (hst : (s.refAt i).st ≠ .disq) : (s.monitorFails i mark).refAt i = (mark (s.refAt i)).disqualified := by
  have hdisq : (s.toDisq i mark).refAt i = (mark (s.refAt i)).disqualified := State.toDisq_refAt_self mark hi hst
  rw [State.monitorFails, if_neg (by simp [hon])]
  extract_lets was s1
  split
  · rw [State.choose_refAt (by rw [hdisq]; rfl), hdisq]
  · exact hdisq

/-- The same of a reference that `f` changes on the failure, moving it between no states. -/
theorem State.setRef_monitorFails_refAt_self {f : RefSt → RefSt} (mark : RefSt → RefSt) (hf : ∀ r, (f r).st = r.st) (hi : i < s.ref.refs.length)
    (hon : s.refOn i = true) (hst : (s.refAt i).st ≠ .disq) :
    ((s.setRef i f).monitorFails i mark).refAt i = (mark (f (s.refAt i))).disqualified := by
  have hself : (s.setRef i f).refAt i = f (s.refAt i) := State.refAt_setRef_self f hi
  have hlen : i < (s.setRef i f).ref.refs.length := by simpa using hi
  rw [State.monitorFails_refAt_self mark hlen hon (by rw [hself, hf]; exact hst), hself]

/-! A measurement judged (R191). -/

/-- Fewer than 8 measurements before this one, or no further from their prediction than PJ_LIM. -/
def State.Near (s : State) (i : Nat) (z : Int) : Prop :=
  (s.refAt i).recent.length < 8 ∨ |(z : Rat) - predict8 (s.refAt i).recent s.now| ≤ s.pjLim i

/-- The measurement is the newest of its reference, which stays in its state, and no other reference has changed. -/
def State.Accepted (s : State) (i : Nat) (z : Int) (t : State) : Prop :=
  (t.refAt i).z = z ∧ (t.refAt i).isNew = true ∧ (t.refAt i).active = true ∧ (t.refAt i).lastAt = some s.now ∧
    (t.refAt i).st = (s.refAt i).st ∧ ∀ j, j ≠ i → t.refAt j = s.refAt j

theorem State.near_iff {z : Int} : s.Near i z ↔
    ¬(decide (8 ≤ (s.refAt i).recent.length) && decide (s.pjLim i < |(z : Rat) - predict8 (s.refAt i).recent s.now|)) = true := by
  rw [State.Near, Bool.and_eq_true, decide_eq_true_eq, decide_eq_true_eq, not_and_or, not_le, not_lt]

/-- The state with a measurement at Warp time `w` as the newest of its reference. -/
def State.newest (s : State) (i : Nat) (w z : Int) : State :=
  s.setRef i fun r => { r with
    pjBad := false, recent := ((s.refAt i).recent ++ [(s.now, z)]).drop ((s.refAt i).recent.length + 1 - 8), active := true,
    lastAt := some s.now, lastT := w, z := z, isNew := true,
    freqHist := (r.freqHist ++ [(s.now, z)]).filter fun x => decide (s.now ≤ x.1 + if s.refKind i = 2 then nsPerSec else 16 * nsPerSec) }

theorem State.judge_near {z : Int} (h : s.Near i z) (w : Int) : s.judge i w z = s.newest i w z := if_neg (State.near_iff.1 h)

theorem State.judge_jump {z : Int} (h : ¬s.Near i z) (w : Int) : s.judge i w z = (s.setRef i fun r => { r with
    pjBad := true, recent := ((s.refAt i).recent ++ [(s.now, z)]).drop ((s.refAt i).recent.length + 1 - 8) }).monitorFails i
      fun r => { r with pjump := true } := if_pos (not_not.1 (mt State.near_iff.2 h))

theorem State.newest_accepted (hi : i < s.ref.refs.length) (w z : Int) : s.Accepted i z (s.newest i w z) := by
  have hself : (s.newest i w z).refAt i = _ := State.refAt_setRef_self _ hi
  unfold State.Accepted
  rw [hself]
  exact ⟨rfl, rfl, rfl, rfl, rfl, fun _ hj => State.refAt_setRef_ne _ hj⟩

theorem State.refMeasure_phase (h8 : 8 ≤ i) (hi : i < 17) (hon : s.refOn i = true) (z : Int) :
    s.refMeasure i (.phase z) = s.judge i s.warpSns z := if_pos ⟨h8, hi, hon⟩

theorem State.refMeasure_edge (hi : i < 8) (code : Nat) : s.refMeasure i (.edge code) = s.refEdge i code := if_pos hi

/-- An activity deadline that has come takes the activity of its reference away, and its monitor fails (R191, R192). -/
theorem State.refTimeout_due {k : ActKind} (hon : s.refOn i = true) (hdue : s.activityDue i k = true) : s.refTimeout i k =
    (s.setRef i fun r => { r with active := false }).monitorFails i fun r => { r with los := true } := if_pos (by rw [hon, hdue]; rfl)

end
end Sys2Proof.Machine
end

section
/-! SUPPORT. An edge of a REFIN, once its TAC has converted it, and the messages of TODIN that label one. -/

namespace Sys2Proof.Machine

open Sys2Proof

section
variable {s : State} {i : Nat}

/-- The Warp time of an edge that the TAC of a REFIN converts (R141, R189). -/
def State.refTime (s : State) (i code : Nat) : Int := (s.warpSns : Int) + s.tacF (s.tacAt (16 + i)) code

theorem State.captureAt_refTime (s : State) (i code : Nat) : s.captureAt (16 + i) code 0 = s.refTime i code := Int.add_zero _

/-- An edge converted: what it may have moved of the TACs, of the outputs that follow the input and of TODIN's labels. -/
def State.converted (s : State) (busy : List Nat) (pps : List PpsOut) (tod : TodIn) : State :=
  { s with tac := { s.tac with busyUntil := busy }, out := { s.out with pps := pps }, ref := { s.ref with tod := tod } }

theorem State.converted_self (s : State) : s = s.converted s.tac.busyUntil s.out.pps s.ref.tod := rfl

/-- Only what an edge moves, and the references, have changed. -/
def State.EdgeKept (s t : State) : Prop :=
  t = { s with tac := { s.tac with busyUntil := t.tac.busyUntil }, out := { s.out with pps := t.out.pps },
               ref := { s.ref with refs := t.ref.refs, tod := t.ref.tod } }

/-- An edge offered to the PPSOUTs moves the PPSOUTs alone. -/
theorem State.ppsInput_eq (s : State) (src : Nat) (t : Rat) :
    s.ppsInput src t = { s with out := { s.out with pps := (s.ppsInput src t).out.pps } } := by
  unfold State.ppsInput
  refine List.foldlRecOn (motive := fun u : State => u = { s with out := { s.out with pps := u.out.pps } }) _ _ rfl fun u hu m _ => ?_
  have hset (f : PpsOut → PpsOut) : u.setPps m f = { s with out := { s.out with pps := (u.setPps m f).out.pps } } := by
    rw [hu]
    rfl
  extract_lets b period
  split
  · split
    · exact hset _
    · extract_lets e
      split
      · exact hset _
      · exact hu
  · exact hu

/-- The state in which an edge at Warp time `w` is judged: its TAC is busy, and the PPSOUTs that follow the input have it. -/
def State.edgeOffered (s : State) (i : Nat) (w : Int) : State := (s.tacBusy (16 + i)).ppsInput i (w : Rat)

theorem State.edgeOffered_eq (s : State) (i : Nat) (w : Int) : ∃ busy pps, s.edgeOffered i w = s.converted busy pps s.ref.tod :=
  ⟨_, _, State.ppsInput_eq _ i w⟩

/-- The state with TODIN's labels put. -/
def State.withTod (s : State) (tod : TodIn) : State := { s with ref := { s.ref with tod := tod } }

/-- The label of the first good message, which has waited since 10 ms before its pulse or longer (R189). -/
theorem State.todPulse_first {l at_ : Nat} (hwait : s.ref.tod.waiting = some (l, at_)) (hold : at_ + 10000000 ≤ s.now)
    (hfirst : s.ref.tod.lastLabel = none) (w : Int) : s.todPulse w = (some l, s.withTod { waiting := none, lastLabel := some (l, w), bad := 0 }) := by
  simp [State.todPulse, State.withTod, hwait, hfirst, hold]

section
variable (hon : s.refOn i = true)
include hon

theorem State.refEdge_missed (hready : s.tacReady (16 + i) = false) (code : Nat) : s.refEdge i code = s.tacMiss (16 + i) := by
  simp [State.refEdge, hon, hready]

variable (hready : s.tacReady (16 + i) = true) (code : Nat)
include hready

/-- Of a frequency an edge gives the phase since the last one, to the nearest whole microsecond. -/
theorem State.refEdge_frequency (hkind : s.refKind i = 2) (hlast : (s.refAt i).lastAt.isSome = true) :
    let w := s.refTime i code
    let d := w - (s.refAt i).lastT
    s.refEdge i code = (s.edgeOffered i w).judge i w ((s.refAt i).z + (d + 32768000000) / 65536000000 * 65536000000 - d) := by
  have hkind' : (s.tacBusy (16 + i)).refKind i = 2 := hkind
  have hlast' : ((s.tacBusy (16 + i)).refAt i).lastAt.isNone = false := by
    rw [← Option.not_isSome, Bool.not_eq_false']
    exact hlast
  simp only [State.refEdge, hon, hready, hkind', hlast', State.captureAt_refTime, Bool.not_true, Bool.false_eq_true, if_false]
  rfl

/-- A pulse away from its expected instant fails the phase-jump monitor (R191). -/
theorem State.refEdge_off (hkind : s.refKind i ≠ 2) (hoff : pulseOff (s.refAt i) (s.refTime i code) = true) :
    s.refEdge i code = ((s.edgeOffered i (s.refTime i code)).setRef i fun r => { r with pjBad := true }).monitorFails i
      fun r => { r with pjump := true } := by
  have hoff' : pulseOff ((s.tacBusy (16 + i)).refAt i) (s.refTime i code) = true := hoff
  simp only [State.refEdge, hon, hready, State.captureAt_refTime, Bool.not_true, Bool.false_eq_true, if_false, hoff', if_true]
  split
  case h_1 htwo => exact absurd htwo hkind
  case h_2 => rfl

/-- A pulse without message gives the phase to the nearest second. -/
theorem State.refEdge_phase (hkind : s.refKind i = 1) (hoff : pulseOff (s.refAt i) (s.refTime i code) = false) :
    s.refEdge i code = (s.edgeOffered i (s.refTime i code)).judge i (s.refTime i code) (phaseZ (s.refAt i) (s.refTime i code)) := by
  have hkind' : (s.tacBusy (16 + i)).refKind i = 1 := hkind
  have hoff' : pulseOff ((s.tacBusy (16 + i)).refAt i) (s.refTime i code) = false := hoff
  simp only [State.refEdge, hon, hready, hkind', hoff', State.captureAt_refTime, Bool.not_true, Bool.false_eq_true, if_false, if_true]
  rfl

/-- A pulse with its first good message gives the time that the message says. -/
theorem State.refEdge_labelled {l at_ : Nat} (hkind : s.refKind i = 0) (hoff : pulseOff (s.refAt i) (s.refTime i code) = false)
    (hwait : s.ref.tod.waiting = some (l, at_)) (hold : at_ + 10000000 ≤ s.now) (hfirst : s.ref.tod.lastLabel = none) :
    let w := s.refTime i code
    s.refEdge i code = ((s.edgeOffered i w).withTod { waiting := none, lastLabel := some (l, w), bad := 0 }).judge i w
      ((l : Int) * 65536000000000 - w) := by
  intro w
  obtain ⟨busy, pps, hu⟩ := s.edgeOffered_eq i w
  have hw : s.captureAt (16 + i) code 0 = w := s.captureAt_refTime i code
  have hlabel : (s.edgeOffered i w).todPulse w = _ :=
    State.todPulse_first (by rw [hu]; exact hwait) (by rw [hu]; exact hold) (by rw [hu]; exact hfirst) w
  have hkind' : (s.tacBusy (16 + i)).refKind i = 0 := hkind
  have hoff' : pulseOff ((s.tacBusy (16 + i)).refAt i) w = false := hoff
  unfold State.edgeOffered at hlabel
  simp only [State.refEdge, hon, hready, hkind', hoff', hw, Bool.not_true, Bool.false_eq_true, if_false, hlabel, zero_ne_one]
  rfl

end

/-- A near measurement by an edge is accepted, and what the edge moved beside stands as it moved it. -/
theorem exec_edge_judged {u : State} {code : Nat} {w z : Int} {tod : TodIn} (hlen : i < s.ref.refs.length) (hi : i < 8) (hnear : s.Near i z)
    (hu : ∃ busy pps, u = s.converted busy pps tod) (hedge : s.refEdge i code = u.judge i w z) :
    ∃ t, exec (.refMeasurement i (.edge code)) s = .next t ∧ s.Accepted i z t ∧ t.ref.tod = tod ∧ s.EdgeKept t := by
  obtain ⟨busy, pps, rfl⟩ := hu
  have hnear' : (s.converted busy pps tod).Near i z := hnear
  refine ⟨(s.converted busy pps tod).newest i w z, ?_, State.newest_accepted (s := s.converted busy pps tod) hlen w z, rfl, rfl⟩
  rw [exec_refMeasurement, State.refMeasure_edge hi, hedge, State.judge_near hnear']

/-- A command that comes to the failure of a monitor, be it of an edge converted, disqualifies its reference and leaves the rest standing. -/
theorem exec_monitor_failed {c : Instr} {u v : State} {busy : List Nat} {pps : List PpsOut} {f mark : RefSt → RefSt} (hi : i < s.ref.refs.length)
    (hon : s.refOn i = true) (hst : (s.refAt i).st ≠ .disq) (hu : u = s.converted busy pps s.ref.tod) (hexec : exec c s = .next v)
    (hv : v = (u.setRef i f).monitorFails i mark) (hf : ∀ r, (f r).st = r.st) :
    ∃ t, exec c s = .next t ∧ t.refAt i = (mark (f (s.refAt i))).disqualified ∧ s.Stands t := by
  subst hu hv
  exact ⟨_, hexec, State.setRef_monitorFails_refAt_self (s := s.converted busy pps s.ref.tod) mark hf hi hon hst,
    State.monitorFails_stands _ i mark⟩

/-! The messages of TODIN. -/

theorem exec_todinMessage (s : State) (baud : Nat) (bytes : List Byte) : exec (.todinMessage baud bytes) s = .next (s.todMessage baud bytes) := rfl

theorem State.refOn_serving (h : s.refOn i = true) : s.md.mode.serving = true := (Bool.and_eq_true_iff.1 h).1

theorem State.todMessage_unlabelled {baud : Nat} {bytes : List Byte} (h : todLabel 8 bytes = none) : s.todMessage baud bytes = s := by
  simp [State.todMessage, h]

/-- A good label at the line's rate waits, with the instant at which it came. -/
theorem State.todMessage_labelled {baud l : Nat} {bytes : List Byte} (hserve : s.md.mode.serving = true) (h : todLabel 8 bytes = some l) :
    s.todMessage baud bytes = if baud = baudOf (s.fld 0x80500 20 18) then s.withTod { s.ref.tod with waiting := some (l, s.now) } else s := by
  simp [State.todMessage, State.withTod, hserve, h, ite_not]

end

/-- Settles O23: a phase by whether it is near, an edge by its TAC and the kind of its input, a deadline and a message of TODIN. -/
theorem referencesAreJudgedByTheirMonitors : Obligations.ReferencesAreJudgedByTheirMonitors := by
  intro s i hrefs hi17 hon accepted stands near
  have hi : i < s.ref.refs.length := hrefs ▸ hi17
  refine ⟨fun z h8 hnear => ?near, fun z h8 hfar hst => ?jump, fun code hi8 hready => ?missed,
    fun code hi8 hready => ⟨fun hkind hoff hnear => ?phase, fun hkind hlast hnear => ?frequency,
      fun l at_ hkind hoff hwait hold hfirst hnear => ?labelled, fun hkind hoff hst => ?off⟩,
    fun k hdue hst => ?deadline, fun baud bytes => ?message⟩
  case near =>
    refine ⟨s.newest i s.warpSns z, ?_, State.newest_accepted hi _ z, rfl⟩
    rw [exec_refMeasurement, State.refMeasure_phase h8 hi17 hon, State.judge_near hnear]
  case jump =>
    obtain ⟨t, ht, hself, hstands⟩ := exec_monitor_failed hi hon hst s.converted_self (exec_refMeasurement s i _)
      ((State.refMeasure_phase h8 hi17 hon z).trans (State.judge_jump hfar _)) fun _ => rfl
    exact ⟨t, ht, congrArg RefSt.st hself, congrArg RefSt.pjump hself, (congrArg RefSt.z hself :), hstands⟩
  case missed => rw [exec_refMeasurement, State.refMeasure_edge hi8, State.refEdge_missed hon hready, State.tacMiss]
  case phase =>
    obtain ⟨t, ht, haccepted, _, hkept⟩ := exec_edge_judged hi hi8 hnear (s.edgeOffered_eq i _)
      (State.refEdge_phase hon hready code hkind hoff)
    exact ⟨t, ht, haccepted, hkept⟩
  case frequency =>
    obtain ⟨t, ht, haccepted, _, hkept⟩ := exec_edge_judged hi hi8 hnear (s.edgeOffered_eq i _)
      (State.refEdge_frequency hon hready code hkind hlast)
    exact ⟨t, ht, haccepted, hkept⟩
  case labelled =>
    obtain ⟨busy, pps, hu⟩ := s.edgeOffered_eq i (s.refTime i code)
    exact exec_edge_judged hi hi8 hnear ⟨busy, pps, congrArg (State.withTod · _) hu⟩
      (State.refEdge_labelled hon hready code hkind hoff hwait hold hfirst)
  case off =>
    obtain ⟨busy, pps, hu⟩ := s.edgeOffered_eq i (s.refTime i code)
    obtain ⟨t, ht, hself, hstands⟩ := exec_monitor_failed hi hon hst hu (exec_refMeasurement s i _)
      ((State.refMeasure_edge hi8 code).trans (State.refEdge_off hon hready code hkind hoff)) fun _ => rfl
    exact ⟨t, ht, congrArg RefSt.st hself, congrArg RefSt.pjump hself, hstands⟩
  case deadline =>
    obtain ⟨t, ht, hself, hstands⟩ := exec_monitor_failed hi hon hst s.converted_self (exec_refActivityTimeout s i k)
      (State.refTimeout_due hon hdue) fun _ => rfl
    exact ⟨t, ht, congrArg RefSt.st hself, congrArg RefSt.los hself, congrArg RefSt.active hself, hstands⟩
  case message =>
    rw [exec_todinMessage]
    cases hlabel : todLabel 8 bytes with
    | none => rw [State.todMessage_unlabelled hlabel]
    | some l =>
      rw [State.todMessage_labelled (State.refOn_serving hon) hlabel]
      exact apply_ite Host.Outcome.next _ _ _

end Sys2Proof.Machine
end

section
/-! SUPPORT. The stage of fast-lock halved, and the end of a Splice window that holds its measurements and is not vouched for. -/

namespace Sys2Proof.Machine

open Sys2Proof

theorem exec_fastlockHalve (s : State) : exec .fastlockHalve s = .next s.fastlockHalve := rfl

theorem exec_spliceWindowEnd (s : State) : exec .spliceWindowEnd s = .next s.windowEnd := rfl

section
variable {s : State}

theorem State.fastlockHalve_stayed {since : Nat} (hrun : s.md.mode.running = true) (hsince : s.srv.stageSince = some since)
    (hbw : s.srv.stageBw ≠ 0) (hstay : 4 / (2 * piQ * s.srv.stageBw) ≤ s.secsSince since) :
    s.fastlockHalve = { s with srv := { s.srv with
      stageBw := if s.srv.stageBw / 2 ≤ s.bwHz then 0 else s.srv.stageBw / 2, stageSince := some s.now } } := by
  simp only [State.fastlockHalve, hsince]
  exact if_pos (by simp [hrun, hbw, hstay])

/-! What the loop restarted on its target may move beside its own restart: y_cmd with the sum that follows it, the stage, the build-out,
and an operation of Bodkin that removes it. -/

/-- What a restart of the loop moves from a state, in which its terms have been set, to a later one. -/
def State.RestartFrame (s t : State) : Prop :=
  t = { s with gns := t.gns, tb := { s.tb with checking := t.tb.checking },
               srv := { s.srv with yCmd := t.srv.yCmd, stageBw := t.srv.stageBw, stageSince := t.srv.stageSince, bo := t.srv.bo,
                                   removal := t.srv.removal } }

theorem State.RestartFrame.refl (s : State) : s.RestartFrame s := rfl

theorem State.RestartFrame.trans {r s t : State} (a : r.RestartFrame s) (b : s.RestartFrame t) : r.RestartFrame t := by
  unfold State.RestartFrame at *
  rw [b, a]

theorem State.RestartFrame.ite {r a b : State} {c : Prop} [Decidable c] (ha : r.RestartFrame a) (hb : r.RestartFrame b) :
    r.RestartFrame (if c then a else b) := by
  split <;> assumption

theorem State.setY_restartFrame (s : State) (y : Rat) : s.RestartFrame (s.setY y) := rfl

theorem State.startFast_restartFrame (s : State) (i : Nat) : s.RestartFrame (s.startFast i) := .ite rfl rfl

/-- An operation of Bodkin is issued without a trace in TB_STEP_STAT. -/
theorem State.stepIssue_restartFrame (s : State) {r : StepRec} (h : r.bodkin = true) : s.RestartFrame (s.stepIssue r) := by
  simp only [State.stepIssue, State.stepStat_bodkin h]
  rfl

theorem State.bodkinStep_restartFrame (s : State) (op o0 o1 o2 o3 : Nat) : s.RestartFrame (s.bodkinStep op o0 o1 o2 o3) :=
  s.stepIssue_restartFrame rfl

theorem State.issueSet_restartFrame (s : State) (z : Int) : s.RestartFrame (s.issueSet z) := by
  unfold State.issueSet
  exact .ite (.refl s) (s.bodkinStep_restartFrame ..)

theorem State.removeError_restartFrame (s : State) : s.RestartFrame s.removeError := by
  have hremoval : s.RestartFrame { s with srv := { s.srv with removal := true } } := rfl
  unfold State.removeError
  exact .ite (.refl s) (.ite (s.bodkinStep_restartFrame ..) (hremoval.trans (State.bodkinStep_restartFrame ..)))

theorem State.setBo_restartFrame (s : State) (bo : Rat) : s.RestartFrame { s with srv := { s.srv with bo := bo } } := rfl

/-! The loop restarted (R223, R228). -/

/-- The servo restarted on a window's target from its last measurement, at the frequency of the bridge plus the slope `b` (in sns per
second), with its build-out. -/
def State.followSrv (s : State) (last : Nat × Int) (b bo : Rat) : SrvSt :=
  { s.srv with st := .tracking, followed := true, win := none, bridge := false, yAnchor := s.srv.bridgeY + b / sSns,
               winY := s.srv.bridgeY + b / sSns, i := 0, p := 0, zf := (last.2 : Rat), bo := bo, lastZ := some last,
               hold := if s.md.mode == .holdover then s.srv.hold.map fun h => { h with follows := false } else none }

/-- What follows the restart of the loop: the initial SET while time is unset, else the accumulated error removed (R223, R228). -/
def State.followRemoval (s : State) (i : Nat) (z bo : Rat) : State :=
  if s.refKind i == 2 then s
  else if !s.md.timeSet then
    let u : State := { s with srv := { s.srv with bo := 0 } }
    if u.refKind i == 0 && !u.bodkinBusy then u.issueSet (roundQ z)
    else if u.refKind i == 0 then u
    else ({ u with srv := { u.srv with bo := bo } } : State).removeError
  else s.removeError

theorem State.followRemoval_restartFrame (s : State) (i : Nat) (z bo : Rat) : s.RestartFrame (s.followRemoval i z bo) := by
  have hunset := s.setBo_restartFrame 0
  unfold State.followRemoval
  refine .ite (.refl s) (.ite (.ite (hunset.trans (State.issueSet_restartFrame _ _)) (.ite hunset ?_)) s.removeError_restartFrame)
  exact (hunset.trans (State.setBo_restartFrame _ bo)).trans (State.removeError_restartFrame _)

theorem State.follow_eq {w : Window} {last : Nat × Int} (hlast : w.samples.getLast? = some last) (b bo : Rat) : s.follow w b bo =
    ((({ s with srv := s.followSrv last b bo } : State).setY (s.srv.bridgeY + b / sSns)).startFast w.target).followRemoval w.target last.2 bo := by
  unfold State.follow
  rw [hlast]
  rfl

theorem State.follow_restartFrame {w : Window} {last : Nat × Int} (hlast : w.samples.getLast? = some last) (b bo : Rat) :
    State.RestartFrame { s with srv := s.followSrv last b bo } (s.follow w b bo) := by
  rw [State.follow_eq hlast]
  exact ((State.setY_restartFrame _ _).trans (State.startFast_restartFrame _ _)).trans (State.followRemoval_restartFrame _ _ _ _)

/-! The window's end (R223, R224). -/

/-- The slope of a window's measurements, in sns per second. -/
def Window.slope (w : Window) : Rat := (fitLine (w.samples.map fun x => (((x.1 : Rat) - (w.start : Rat)) / 1000000000, (x.2 : Rat)))).2

theorem State.endWindowOn_unvouched (h : s.vouched = false) (w : Window) : ∃ bo, s.endWindowOn w = s.follow w w.slope bo := by
  simp only [State.endWindowOn, Window.slope, nsPerSec, Nat.cast_ofNat]
  generalize fitLine _ = line
  exact ⟨_, if_neg (by simp [h])⟩

theorem State.windowEnd_measured {w : Window} (hrun : s.md.mode.running = true) (hst : s.srv.st = .window) (hwin : s.srv.win = some w)
    (hlimited : w.limited = false) (hend : w.start + w.len ≤ s.now) (hlen : 2 ≤ w.samples.length) : s.windowEnd = s.endWindowOn w := by
  unfold State.windowEnd
  simp only [hst, hwin]
  rw [if_neg (by simp [hrun, hend]), if_neg (by simp [hlimited]), if_neg (by omega)]

end

/-- Settles O27: the stage by its stay, and the window's end as the restart of the loop on its target. -/
theorem fastLockHalvesAndTheWindowEndsOnItsTarget : Obligations.FastLockHalvesAndTheWindowEndsOnItsTarget := by
  intro s hrun
  refine ⟨fun since hsince hbw hstay => ?stage, fun w last hst hwin hlimited hend hlen hlast hvouched => ?window⟩
  case stage => rw [exec_fastlockHalve, State.fastlockHalve_stayed hrun hsince hbw hstay]
  case window =>
    obtain ⟨bo, hfollow⟩ := State.endWindowOn_unvouched hvouched w
    have hframe := State.follow_restartFrame (s := s) hlast w.slope bo
    rw [exec_spliceWindowEnd, State.windowEnd_measured hrun hst hwin hlimited hend hlen, hfollow]
    exact ⟨_, congrArg _ hframe,
      rfl, rfl, rfl, if_congr beq_iff_eq rfl rfl, rfl, rfl, rfl, rfl, rfl, rfl, rfl, rfl, rfl, rfl, rfl, rfl⟩

end Sys2Proof.Machine
end

section
/-! SUPPORT. The holdover model: fitted by the second, copied to FeRAM in turn, the prediction of E, and the model forgotten. -/

namespace Sys2Proof.Machine

open Sys2Proof

theorem exec_holdoverModelFit (s : State) : exec .holdoverModelFit s = .next s.modelFit.refreshSel := rfl

theorem exec_modelCopyWrite (s : State) : exec .modelCopyWrite s = .next s.modelCopyWrite := rfl

theorem exec_holdoverPredict (s : State) : exec .holdoverPredict s = .next s.holdPredict := rfl

theorem exec_forgetModel (s : State) (tok : BitVec 16) : exec (.forgetModel tok) s = .next (s.forgetModel tok).refreshSel := rfl

/-- A refresh of the selector's flags moves those two and nothing else. -/
theorem State.refreshSel_eq (s : State) : s.refreshSel =
    { s with ref := { s.ref with ensWeak := s.refreshSel.ref.ensWeak, forceMiss := s.refreshSel.ref.forceMiss } } := by
  unfold State.refreshSel
  split <;> rfl

/-! The copy of the model in FeRAM (R232). -/

@[simp] theorem leBytes_length (n v : Nat) : (leBytes n v).length = n := by simp [leBytes]

theorem ModelCopy.bytes_length (c : ModelCopy) : c.bytes.length = 64 := by
  simp [ModelCopy.bytes, zeros]

section
variable {s : State}

/-! The fit (R229, R230). -/

/-- The samples within HO_WIN, with this second's. -/
def State.fitSamples (s : State) : List (Nat × Rat × Int) :=
  (s.srv.modelHist ++ [(s.now, s.srv.yCmd, s.oscTemp)]).filter fun x => decide (s.now ≤ x.1 + s.fld 0x70020 6 0 * 3600 * 1000000000)

/-- A fit in LOCKED while tracking and away from any STEP: the sample taken, the seconds counted, and the model made of them. -/
theorem State.modelFit_sampled (hmode : s.md.mode = .locked) (hst : s.srv.st = .tracking)
    (hstep : ∀ at_, s.tb.stepAt = some at_ → at_ + 60 * 1000000000 ≤ s.now) :
    ∃ m learnt prior, s.modelFit = { s with srv := { s.srv with
      modelHist := s.fitSamples, model := m, learnt := learnt, prior := prior,
      fitS := min s.fitSamples.length (s.fld 0x70020 6 0 * 3600), fitAt := s.now } } := by
  unfold State.modelFit
  refine ⟨_, _, _, if_neg ?_⟩
  cases hat : s.tb.stepAt with
  | none => simp [hmode, hst]
  | some at_ => simp [hmode, hst, hstep at_ hat, nsPerSec]

/-! The prediction (R234). -/

/-- A prediction with this second's departure of temperature in its sum. -/
def State.heldNow (s : State) (h : Hold) : Hold := { h with sumDT := h.sumDT + |((s.oscTemp - h.tempH : Int) : Rat)| / 16 }

/-- E by the uncertainties in force, in sns. -/
def State.errorNow (s : State) (h : Hold) : Rat :=
  h.e0 + ((s.modelU.uy : Rat) / 10 ^ 15 * s.secsSince h.start + (s.modelU.ud : Rat) / 10 ^ 18 / 3600 * s.secsSince h.start ^ 2 / 2 +
    (s.modelU.uc : Rat) / 10 ^ 15 * (s.heldNow h).sumDT) * 65536000000000

/-- The state with the prediction of this second. -/
def State.predictedNow (s : State) (h : Hold) : State := { s with srv := { s.srv with hold := some (s.heldNow h), pred := s.errorNow h } }

/-- What a prediction that steers or mutes moves: y_cmd with the sum that follows it, and the outputs. -/
def State.SteerFrame (s t : State) : Prop :=
  t = { s with srv := { s.srv with yCmd := t.srv.yCmd }, out := t.out, gns := { s.gns with qFreq := t.gns.qFreq, qAt := t.gns.qAt } }

theorem State.SteerFrame.trans {r s t : State} (a : r.SteerFrame s) (b : s.SteerFrame t) : r.SteerFrame t := by
  unfold State.SteerFrame at *
  rw [b, a]

theorem State.setY_steerFrame (s : State) (y : Rat) : s.SteerFrame (s.setY y) := rfl

theorem State.applyMute_steerFrame (s : State) : s.SteerFrame s.applyMute := by
  rw [show s.applyMute = _ from s.applyMute_outputsOnly]
  rfl

theorem State.holdPredict_steerFrame {h : Hold} (hhold : s.srv.hold = some h) (hserves : (s.md.mode.running || s.md.mode == .maintain) = true)
    (hlocked : s.md.mode ≠ .locked) : (s.predictedNow h).SteerFrame s.holdPredict := by
  have hpred : (s.md.mode == Mode.locked) = false := by simpa using hlocked
  simp only [State.holdPredict, hhold, hserves, hpred]
  refine .trans ?_ (State.applyMute_steerFrame _)
  split
  · exact State.setY_steerFrame (s.predictedNow h) _
  · rfl

/-! The model forgotten (R245). -/

theorem State.forgetModel_taken (tok : BitVec 16) (h : s.md.mode = .acquire ∨ s.md.mode = .locked ∨ s.md.mode = .freerun) :
    s.forgetModel tok = { s with
      srv := { s.srv with model := Model.unlearnt, learnt := false, prior := false, fitS := 0, modelHist := [], ctlToken := tok.toNat,
                          ctlCode := 0 },
      fe := { s.fe with copyA := none, copyB := none, nextB := false }, gns := { s.gns with qDue := true, qAnch := false } } := by
  have hrun : s.md.mode.running = true := by obtain h | h | h := h <;> simp [h, Mode.running]
  unfold State.forgetModel
  rw [if_neg (by simp [State.noWrites_of_running hrun])]
  exact if_pos (by simpa [or_assoc] using h)

theorem State.forgetModel_refused (tok : BitVec 16) (h : s.md.mode = .holdover ∨ s.md.mode = .maintain ∨ s.md.mode = .safe) :
    s.forgetModel tok = { s with srv := { s.srv with ctlToken := tok.toNat, ctlCode := 0x24 } } := by
  unfold State.forgetModel
  obtain h | h | h := h
  all_goals rw [if_neg (by simp [State.noWrites, h]), if_neg (by simp [h]), State.srvCtl]

end

/-- Settles O28: the fit and the forgetting up to the flags refreshed, the copy by its turn, and the prediction up to what it steers and
mutes. -/
theorem holdoverModelIsFittedKeptAndForgotten : Obligations.HoldoverModelIsFittedKeptAndForgotten := by
  intro s tok
  refine ⟨fun hmode hst hstep => ?fit, fun hmode => ?copy, fun h hhold hmode => ?predict, fun hmode => ?forget, fun hmode => ?refused⟩
  case fit =>
    obtain ⟨m, learnt, prior, hfit⟩ := State.modelFit_sampled hmode hst hstep
    rw [exec_holdoverModelFit, hfit]
    exact ⟨_, congrArg _ (State.refreshSel_eq _), rfl, rfl, rfl, rfl, rfl⟩
  case copy =>
    exact ⟨_, rfl, rfl, rfl, rfl, rfl, ModelCopy.bytes_length _, (exec_modelCopyWrite s).trans (congrArg _ (if_pos (by simp [hmode])))⟩
  case predict =>
    have hserves : (s.md.mode.running || s.md.mode == .maintain) = true := by obtain h | h | h | h := hmode <;> rw [h] <;> rfl
    have hlocked : s.md.mode ≠ .locked := by obtain h | h | h | h := hmode <;> rw [h] <;> nofun
    have hframe := State.holdPredict_steerFrame hhold hserves hlocked
    exact ⟨_, (exec_holdoverPredict s).trans (congrArg _ hframe), rfl, rfl, rfl⟩
  case forget =>
    rw [exec_forgetModel, State.forgetModel_taken tok hmode]
    exact ⟨_, congrArg _ (State.refreshSel_eq _), rfl, rfl, rfl⟩
  case refused =>
    rw [exec_forgetModel, State.forgetModel_refused tok hmode]
    exact ⟨_, congrArg _ (State.refreshSel_eq _), rfl⟩

end Sys2Proof.Machine
end

section
/-! SUPPORT. The outputs: a CLKOUT or PPSOUT read after a change, muting and unmuting, re-alignment to the second's grid, the monitor of the
cycle count, and what the balls of a CLKOUT drive. -/

namespace Sys2Proof.Machine

open Sys2Proof

theorem exec_outputUnmute (o : OutId) (s : State) : exec (.outputUnmute o) s = .next (s.unmute o) := rfl

theorem exec_clkoutRealign (n : Nat) (s : State) : exec (.clkoutRealign n) s = .next (s.clkRealign n) := rfl

theorem exec_clkoutMonitorTrip (n counted : Nat) (s : State) : exec (.clkoutMonitorTrip n counted) s = .next (s.clkMonitor n counted) := rfl

theorem exec_offsetSlewEnd (o : OutId) (s : State) : exec (.offsetSlewEnd o) s = .next (s.ofsSlewEnd o) := rfl

section
variable {s : State} {n m : Nat} {b : Bool} {o o' : OutId}

/-! One output read after a change of it or of another. -/

theorem State.clkAt_setClk_self (f : ClkOut → ClkOut) (h : n < s.out.clks.length) : (s.setClk n f).clkAt n = f (s.clkAt n) := by
  simp [State.clkAt, updAt, List.getD_eq_getElem?_getD, h]

theorem State.clkAt_setClk_ne {k : Nat} (f : ClkOut → ClkOut) (h : k ≠ n) : (s.setClk n f).clkAt k = s.clkAt k := by
  simp [State.clkAt, updAt, List.getD_eq_getElem?_getD, List.getElem?_modify_ne f _ h.symm]

theorem State.ppsAt_setPps_self (f : PpsOut → PpsOut) (h : m < s.out.pps.length) : (s.setPps m f).ppsAt m = f (s.ppsAt m) := by
  simp [State.ppsAt, updAt, List.getD_eq_getElem?_getD, h]

/-- Only what a change makes of the CLKOUT itself counts. -/
theorem State.setClk_congr {f g : ClkOut → ClkOut} (h : n < s.out.clks.length) (hfg : f (s.clkAt n) = g (s.clkAt n)) :
    s.setClk n f = s.setClk n g := by
  have hget : s.clkAt n = s.out.clks.get ⟨n, h⟩ := List.getD_eq_getElem _ _ h
  unfold State.setClk updAt
  rw [List.modify_eq_set_get _ h, List.modify_eq_set_get _ h, ← hget, hfg]

/-- A CLKOUT that is not as a reset leaves it is one of those that the part has. -/
theorem State.clk_listed (h : s.clkAt n ≠ ClkOut.reset) : n < s.out.clks.length := by
  by_contra hn
  exact h (List.getD_eq_default _ _ (Nat.le_of_not_lt hn))

theorem State.pps_listed (h : s.ppsAt m ≠ PpsOut.reset) : m < s.out.pps.length := by
  by_contra hn
  exact h (List.getD_eq_default _ _ (Nat.le_of_not_lt hn))

/-! Muting and unmuting. -/

theorem State.clkAt_setMuted_of_ne (h : o ≠ .clk n) : (s.setMuted b o).clkAt n = s.clkAt n := by
  cases o with
  | clk k => exact State.clkAt_setClk_ne _ fun hkn => h (congrArg OutId.clk hkn.symm)
  | pps m => rfl
  | tod => rfl
  | gpps => rfl

/-- An output whose latch is set is one that the part has, so that its MUTED is as written. -/
theorem State.outMuted_setMuted_self (hlatch : s.outLatch o = true) : (s.setMuted b o).outMuted o = b := by
  cases o with
  | clk n =>
    have hlisted := State.clk_listed fun h : s.clkAt n = ClkOut.reset => by simp [State.outLatch, h, ClkOut.reset] at hlatch
    exact congrArg ClkOut.muted (State.clkAt_setClk_self _ hlisted)
  | pps m =>
    have hlisted := State.pps_listed fun h : s.ppsAt m = PpsOut.reset => by simp [State.outLatch, h, PpsOut.reset] at hlatch
    exact congrArg PpsOut.muted (State.ppsAt_setPps_self _ hlisted)
  | tod => rfl
  | gpps => rfl

theorem State.outMuted_setMuted_of_ne (h : o' ≠ o) : (s.setMuted b o).outMuted o' = s.outMuted o' := by
  cases o' with
  | clk n => exact congrArg ClkOut.muted (State.clkAt_setMuted_of_ne h.symm)
  | pps m => exact congrArg PpsOut.muted (State.setMuted_ppsAt_of_ne h.symm)
  | tod =>
    cases o with
    | tod => exact absurd rfl h
    | clk _ => rfl
    | pps _ => rfl
    | gpps => rfl
  | gpps =>
    cases o with
    | gpps => exact absurd rfl h
    | clk _ => rfl
    | pps _ => rfl
    | tod => rfl

/-- A change of a CLKOUT that keeps its MUTED mutes and unmutes nothing. -/
theorem State.outMuted_setClk {f : ClkOut → ClkOut} (h : ∀ c, (f c).muted = c.muted) : (s.setClk n f).outMuted o = s.outMuted o := by
  cases o with
  | clk k =>
    show ((s.setClk n f).clkAt k).muted = (s.clkAt k).muted
    unfold State.clkAt
    rw [← List.getD_map (f := ClkOut.muted), ← List.getD_map (f := ClkOut.muted), State.setClk_out, updAt_map_of_keeps h]
  | pps _ => rfl
  | tod => rfl
  | gpps => rfl

theorem State.outLatch_of_not_wantMuted (h : s.wantMuted o = false) : s.outLatch o = true := by
  simp only [State.wantMuted, Bool.or_eq_false_iff, Bool.not_eq_false'] at h
  exact h.1.1.2

theorem State.unmute_elsewhen (h : s.unmuteInstant o = false) : s.unmute o = s := if_pos (by simp [h])

/-- An output that unmutes has its MUTED cleared, a CLKOUT its ALIGNED set beside it, and nothing else changes (R261). -/
theorem State.unmute_taken (hfree : s.wantMuted o = false) (hmuted : s.outMuted o = true) (hat : s.unmuteInstant o = true) :
    (∀ o', (s.unmute o).outMuted o' = (s.setMuted false o).outMuted o') ∧ s.OutputsOnly (s.unmute o) := by
  unfold State.unmute
  rw [if_neg (by simp [hfree, hmuted, hat])]
  have hframe := s.setMuted_outputsOnly false o
  cases o with
  | clk n => exact ⟨fun o' => State.outMuted_setClk fun _ => rfl, rfl⟩
  | pps _ => exact ⟨fun _ => rfl, hframe⟩
  | tod => exact ⟨fun _ => rfl, hframe⟩
  | gpps => exact ⟨fun _ => rfl, hframe⟩

/-! Re-alignment (R248, R251). -/

/-- An aligned edge is the first of the second's grid at or after an instant. -/
theorem State.alignedEdge_onGrid (c : ClkOut) {per : Rat} (from_ : Rat) (hper : 0 < per) :
    from_ ≤ s.alignedEdge c per from_ ∧ s.alignedEdge c per from_ < from_ + per ∧
      ∃ k : Int, s.alignedEdge c per from_ = s.secondAt + c.phase / 1000 + k * per := by
  obtain ⟨g, hg⟩ : ∃ g, g = s.secondAt + c.phase / 1000 := ⟨_, rfl⟩
  obtain ⟨k, hk⟩ : ∃ k, k = ((from_ - g) / per).ceil := ⟨_, rfl⟩
  have hedge : s.alignedEdge c per from_ = g + per * k := by
    rw [hk, hg]
    exact if_neg hper.ne'
  have hreached : from_ - g ≤ k * per := (div_le_iff₀ hper).1 (hk ▸ Rat.le_ceil)
  have hfirst : k * per < from_ - g + per := by
    calc (k : Rat) * per < ((from_ - g) / per + 1) * per := mul_lt_mul_of_pos_right (hk ▸ Rat.ceil_lt) hper
      _ = from_ - g + per := by rw [add_mul, one_mul, div_mul_cancel₀ _ hper.ne']
  rw [hedge, ← hg, mul_comm per]
  exact ⟨by linarith, by linarith, k, rfl⟩

theorem State.clkRealign_second (hwait : (s.clkAt n).realign = true) (hsec : s.nsNow = 0) :
    s.clkRealign n = s.setClk n fun c => { c with realign := false, aligned := !c.muted, next := s.alignedEdge c c.per c.next } :=
  if_neg (by simp [hwait, hsec])

/-! The monitor of the cycle count (R561). -/

/-- What muting by a monitor turns on, of each CLKOUT: its monitor's mark and the period that it runs with. -/
def State.clkMarks (s : State) : List (Bool × Rat) := s.out.clks.map fun c => (c.monMuted, c.per)

theorem State.clkMarks_getD (s : State) (n : Nat) : s.clkMarks.getD n (false, 0) = ((s.clkAt n).monMuted, (s.clkAt n).per) :=
  List.getD_map s.out.clks ClkOut.reset fun c : ClkOut => (c.monMuted, c.per)

theorem State.setClk_clkMarks {f : ClkOut → ClkOut} (h : ∀ c, (f c).monMuted = c.monMuted ∧ (f c).per = c.per) :
    (s.setClk n f).clkMarks = s.clkMarks :=
  updAt_map_of_keeps (fun c => Prod.ext (h c).1 (h c).2) _ _

theorem State.setLatch_clkMarks (s : State) (o : OutId) : (s.setLatch o).clkMarks = s.clkMarks := by
  cases o with
  | clk n => exact State.setClk_clkMarks fun _ => ⟨rfl, rfl⟩
  | pps _ => rfl
  | tod => rfl
  | gpps => rfl

theorem State.setMuted_clkMarks (s : State) (b : Bool) (o : OutId) : (s.setMuted b o).clkMarks = s.clkMarks := by
  cases o with
  | clk n => exact State.setClk_clkMarks fun _ => ⟨rfl, rfl⟩
  | pps _ => rfl
  | tod => rfl
  | gpps => rfl

/-- One output's turn in a round of muting. -/
def State.muteTurn (s : State) (o : OutId) : State := if s.wantMuted o && !s.midPulse o then s.setMuted true o else s

theorem State.applyMute_eq_foldl (s : State) : s.applyMute = allOuts.foldl State.muteTurn s := rfl

theorem State.muteTurn_clkMarks (s : State) (o : OutId) : (s.muteTurn o).clkMarks = s.clkMarks := by
  unfold State.muteTurn
  split
  · exact s.setMuted_clkMarks true o
  · rfl

theorem State.latchUnmute_clkMarks (s : State) : s.latchUnmute.clkMarks = s.clkMarks :=
  List.foldlRecOn (motive := fun u : State => u.clkMarks = s.clkMarks) allOuts _ rfl fun u hu o _ => by
    split
    · exact (u.setLatch_clkMarks o).trans hu
    · exact hu

theorem State.applyMute_clkMarks (s : State) : s.applyMute.clkMarks = s.clkMarks :=
  s.applyMute_eq_foldl ▸ List.foldlRecOn (motive := fun u : State => u.clkMarks = s.clkMarks) allOuts _ rfl
    fun u hu o _ => (u.muteTurn_clkMarks o).trans hu

theorem State.outputsFollow_clkMarks (s : State) : s.outputsFollow.clkMarks = s.clkMarks :=
  s.latchUnmute.applyMute_clkMarks.trans s.latchUnmute_clkMarks

/-- A CLKOUT that its monitor has marked is one that the part has. -/
theorem State.listed_of_monMuted (h : (s.clkAt n).monMuted = true) : n < s.out.clks.length :=
  State.clk_listed fun hreset => by simp [hreset, ClkOut.reset] at h

theorem State.wantMuted_of_monMuted (h : (s.clkAt n).monMuted = true) : s.wantMuted (.clk n) = true := by simp [State.wantMuted, h]

theorem State.degraded_of_monMuted (h : (s.clkAt n).monMuted = true) : s.degraded = true := by
  have hlisted := State.listed_of_monMuted h
  have hget : s.clkAt n = s.out.clks[n] := List.getD_eq_getElem _ _ hlisted
  have hany : s.clkMuted = true := List.any_eq_true.2 ⟨_, List.getElem_mem hlisted, hget ▸ h⟩
  simp [State.degraded, hany]

theorem State.muteTurn_clk_muted (hmon : (s.clkAt n).monMuted = true) (hrest : (s.clkAt n).per = 0) :
    ((s.muteTurn (.clk n)).clkAt n).muted = true := by
  unfold State.muteTurn
  rw [if_pos (by simp [State.wantMuted_of_monMuted hmon, State.midPulse, hrest])]
  exact congrArg ClkOut.muted (State.clkAt_setClk_self _ (State.listed_of_monMuted hmon))

theorem State.muteTurn_clkAt_of_ne (h : o ≠ .clk n) : (s.muteTurn o).clkAt n = s.clkAt n := by
  unfold State.muteTurn
  split
  · exact State.clkAt_setMuted_of_ne h
  · rfl

/-- A round of muting that visits a CLKOUT at rest under its monitor's mark leaves it muted. -/
theorem muteTurns_clk_muted {os : List OutId} (hmon : (s.clkAt n).monMuted = true) (hrest : (s.clkAt n).per = 0)
    (hvisit : .clk n ∈ os ∨ (s.clkAt n).muted = true) : ((os.foldl State.muteTurn s).clkAt n).muted = true := by
  induction os generalizing s with
  | nil => exact hvisit.resolve_left (List.not_mem_nil)
  | cons o os ih =>
    have hmarks : (((s.muteTurn o).clkAt n).monMuted, ((s.muteTurn o).clkAt n).per) = (true, 0) := by
      rw [← State.clkMarks_getD, State.muteTurn_clkMarks, State.clkMarks_getD, hmon, hrest]
    obtain ⟨hmon', hrest'⟩ := Prod.mk.inj hmarks
    refine ih hmon' hrest' ?_
    by_cases ho : o = .clk n
    · exact .inr (ho ▸ State.muteTurn_clk_muted hmon hrest)
    · rw [State.muteTurn_clkAt_of_ne ho]
      exact hvisit.imp_left fun hmem => (List.mem_cons.1 hmem).resolve_left (Ne.symm ho)

theorem clk_mem_allOuts (h : n < 10) : .clk n ∈ allOuts := by
  interval_cases n <;> decide

theorem State.applyMute_clk_muted (hn : n < 10) (hmon : (s.clkAt n).monMuted = true) (hrest : (s.clkAt n).per = 0) :
    (s.applyMute.clkAt n).muted = true :=
  s.applyMute_eq_foldl ▸ muteTurns_clk_muted hmon hrest (.inl (clk_mem_allOuts hn))

/-- A CLKOUT muted by its monitor is marked, at rest muted at once, and beside the outputs only the cause of the degradation is noted. -/
theorem State.muteClk_spec (hn : n < 10) (hlisted : n < s.out.clks.length) :
    ((s.muteClk n).clkAt n).monMuted = true ∧ ((s.clkAt n).per = 0 → ((s.muteClk n).clkAt n).muted = true) ∧
      s.muteClk n = { s with out := (s.muteClk n).out, hif := (s.muteClk n).hif } := by
  obtain ⟨u, hu⟩ : ∃ u, u = s.setClk n fun c => { c with monMuted := true } := ⟨_, rfl⟩
  have hclk : u.clkAt n = { s.clkAt n with monMuted := true } := hu ▸ State.clkAt_setClk_self _ hlisted
  have hmuted : s.muteClk n = { u.outputsFollow with hif := (s.muteClk n).hif } := by
    rw [hu]
    exact State.noteDegraded_eq ..
  have hout : (s.muteClk n).out = u.outputsFollow.out := by rw [hmuted]
  have hat : (s.muteClk n).clkAt n = u.outputsFollow.clkAt n := by rw [State.clkAt, hout, State.clkAt]
  have hframe : u.outputsFollow = { s with out := u.outputsFollow.out } := .trans u.outputsFollow_outputsOnly (by rw [hu]; rfl)
  have hmarks (v : State) (h : v.clkMarks = u.clkMarks) : ((v.clkAt n).monMuted, (v.clkAt n).per) = (true, (s.clkAt n).per) := by
    rw [← State.clkMarks_getD, h, State.clkMarks_getD, hclk]
  obtain ⟨hmon, -⟩ := Prod.mk.inj (hmarks _ u.outputsFollow_clkMarks)
  obtain ⟨hmon', hper'⟩ := Prod.mk.inj (hmarks _ u.latchUnmute_clkMarks)
  refine ⟨hat ▸ hmon, fun hrest => hat ▸ State.applyMute_clk_muted hn hmon' (hper'.trans hrest), ?_⟩
  rw [hout]
  exact hmuted.trans (congrArg (fun v : State => { v with hif := (s.muteClk n).hif }) hframe)

theorem State.clkMonitor_judged {counted : Nat} (hon : s.bit (cBase n) 31 = true) (hruns : (s.clkAt n).muted = false) :
    s.clkMonitor n counted = if |(counted : Rat) - clkFreq s.act n| ≤ 2 then s else s.muteClk n := if_neg (by simp [hon, hruns])

/-! The balls of a CLKOUT (R246, R262, R273). -/

/-- FMT of the cycle in progress; at rest, of the register. -/
def State.clkFmt (s : State) (n : Nat) : Nat := if (s.clkAt n).per = 0 then s.fld (cBase n) 30 29 else (s.clkAt n).fmt

/-- MZ of the cycle in progress; at rest, of the register. -/
def State.clkMz (s : State) (n : Nat) : Bool := if (s.clkAt n).per = 0 then s.bit (cBase n) 23 else (s.clkAt n).mz

theorem State.clkBalls_muted (h : (s.clkAt n).muted = true) : s.clkBalls n =
    if s.clkMz n then (.hiZ, .hiZ) else (.low, if s.clkFmt n = 3 then .hiZ else if s.clkFmt n = 2 then .low else .high) := by
  unfold State.clkBalls
  simp only [h, Bool.true_and, Bool.not_true, Bool.false_and]
  rfl

theorem State.clkBalls_running (h : (s.clkAt n).muted = false) (hper : (s.clkAt n).per ≠ 0) (hstart : (s.clkAt n).start ≤ (s.now : Rat)) :
    (s.clkBalls n).1 = levelOf (decide ((s.now : Rat) < (s.clkAt n).start + (s.clkAt n).per / 2)) false := by
  simp [State.clkBalls, h, hper, hstart]

theorem levelOf_high {active low : Bool} : levelOf active low = .high ↔ active ≠ low := by
  simp [levelOf]

end

/-- Settles O30: unmuting by its instant, the realignment on the grid of the second, the monitor by its count, the ends of the slews, and the
balls of a muted and of a running CLKOUT. -/
theorem outputsUnmuteRealignAndAreMutedByTheirMonitor : Obligations.OutputsUnmuteRealignAndAreMutedByTheirMonitor := by
  intro s
  refine ⟨fun o hat => ?elsewhen, fun o hfree hmuted hat => ?unmutes, fun n hwait hsec => ?realigns, fun n counted hn hon hruns => ?monitor,
    fun m hslew hgoal => ?ppsSlew, fun n hslew hgoal => ?clkSlew, fun n hmuted => ?rests, fun n hmuted hper hstart => ?runs⟩
  case elsewhen => rw [exec_outputUnmute, State.unmute_elsewhen hat]
  case unmutes =>
    obtain ⟨hout, hframe⟩ := State.unmute_taken hfree hmuted hat
    refine ⟨_, exec_outputUnmute o s, ?_, hframe, fun o' hne => ?_⟩
    · rw [hout, State.outMuted_setMuted_self (State.outLatch_of_not_wantMuted hfree)]
    · rw [hout, State.outMuted_setMuted_of_ne hne]
  case realigns =>
    have hlisted : n < s.out.clks.length := State.clk_listed fun h => by simp [h, ClkOut.reset] at hwait
    have hnext : ((s.clkRealign n).clkAt n).next = s.alignedEdge (s.clkAt n) (s.clkAt n).per (s.clkAt n).next := by
      rw [State.clkRealign_second hwait hsec, State.clkAt_setClk_self _ hlisted]
    refine ⟨_, exec_clkoutRealign n s, ?_, fun hper => ?_⟩
    all_goals rw [hnext]
    · exact (State.clkRealign_second hwait hsec).trans (State.setClk_congr hlisted rfl)
    · exact State.alignedEdge_onGrid _ _ hper
  case monitor =>
    rw [exec_clkoutMonitorTrip, State.clkMonitor_judged hon hruns]
    refine ⟨fun hnear => by rw [if_pos hnear], fun hfar => ?_⟩
    have hlisted : n < s.out.clks.length := State.clk_listed fun h => by simp [h, ClkOut.reset] at hruns
    obtain ⟨hmon, hrest, hframe⟩ := State.muteClk_spec hn hlisted
    rw [if_neg (not_le.2 hfar)]
    exact ⟨_, rfl, hmon, State.wantMuted_of_monMuted hmon, hrest, hframe, State.degraded_of_monMuted hmon⟩
  case ppsSlew => exact (exec_offsetSlewEnd ..).trans (congrArg _ (if_pos (by simp [hslew, hgoal])))
  case clkSlew => exact (exec_offsetSlewEnd ..).trans (congrArg _ (if_pos (by simp [hslew, hgoal])))
  case rests =>
    intro fmt mz
    have hballs : s.clkBalls n = if mz then (.hiZ, .hiZ) else (.low, if fmt = 3 then .hiZ else if fmt = 2 then .low else .high) :=
      State.clkBalls_muted hmuted
    refine ⟨fun hmz => hballs.trans (if_pos hmz), fun hmz => ?_⟩
    have hdriven := hballs.trans (if_neg (Bool.not_eq_true _ ▸ hmz))
    refine ⟨fun hfmt => ?_, fun hfmt => ?_, fun hfmt => ?_⟩
    · rw [hdriven, if_neg (by omega), if_neg (by omega)]
    · rw [hdriven, hfmt]; rfl
    · rw [hdriven, hfmt]; rfl
  case runs => rw [State.clkBalls_running hmuted hper hstart, levelOf_high, Bool.ne_false_iff, decide_eq_true_eq]

end Sys2Proof.Machine
end

section
/-! SUPPORT. TODOUT's messages byte by byte and when they are sent or omitted, GPPS's pulse at its edge, and what the two balls drive. -/

namespace Sys2Proof.Machine

open Sys2Proof

theorem exec_todMessageSend (s : State) : exec .todMessageSend s = .next s.todSend := rfl

theorem exec_gppsPulse (s : State) : exec .gppsPulse s = .next s.gppsPulse := rfl

/-! Slices of bytes that are put together. -/

theorem slice_append_left {as : List Byte} (bs : List Byte) {i n : Nat} (h : i + n ≤ as.length) : slice (as ++ bs) i n = slice as i n := by
  rw [slice, slice, List.drop_append_of_le_length (by omega), List.take_append_of_le_length (by rw [List.length_drop]; omega)]

theorem slice_append_right (as bs : List Byte) (i n : Nat) : slice (as ++ bs) (as.length + i) n = slice bs i n := by
  rw [slice, slice, List.drop_length_add_append]

theorem slice_whole (bs : List Byte) : slice bs 0 bs.length = bs := List.take_length

/-- Bytes with their CRC-32 begin with the bytes and end in the CRC-32 of what stands before it. -/
theorem withCrc_slices {body : List Byte} {k : Nat} (h : body.length = k) :
    slice (withCrc body) 0 k = body ∧ slice (withCrc body) k 4 = leBytes 4 (crc32 (slice (withCrc body) 0 k)) := by
  subst h
  have hbody : slice (withCrc body) 0 body.length = body := (slice_append_left _ (by simp)).trans (slice_whole body)
  exact ⟨hbody, by rw [hbody]; exact slice_append_right body _ 0 4⟩

theorem withCrc_length (body : List Byte) : (withCrc body).length = body.length + 4 := by rw [withCrc, List.length_append, leBytes_length]

section
variable {s : State}

/-! The messages (R267, R268, R269). -/

/-- Bytes that hold the TIME message of a state at their start: its header with the number, the SEC of the next whole second, the mode, and
the CRC-32 of the 30 bytes before it. -/
def State.TimeAtStart (s : State) (bs : List Byte) : Prop :=
  slice bs 0 4 = [0xED, 0x54, 0x01, 0x18] ∧ slice bs 4 2 = leBytes 2 s.out.todSeq ∧ slice bs 6 6 = leBytes 6 (s.secNow + 1) ∧
    slice bs 15 1 = [BitVec.ofNat 8 s.md.mode.code] ∧ slice bs 30 4 = leBytes 4 (crc32 (slice bs 0 30))

theorem State.todTime_body (s : State) : ∃ body : List Byte, s.todTime = withCrc body ∧ body.length = 30 ∧
    slice body 0 4 = [0xED, 0x54, 0x01, 0x18] ∧ slice body 4 2 = leBytes 2 s.out.todSeq ∧ slice body 6 6 = leBytes 6 (s.secNow + 1) ∧
    slice body 15 1 = [BitVec.ofNat 8 s.md.mode.code] := ⟨_, rfl, rfl, rfl, rfl, rfl, rfl⟩

theorem State.todGnss_body (s : State) : ∃ body : List Byte, s.todGnss = withCrc body ∧ body.length = 22 ∧
    slice body 0 4 = [0xED, 0x54, 0x02, 0x10] := ⟨_, rfl, rfl, rfl⟩

theorem State.todTime_length (s : State) : s.todTime.length = 34 := by
  obtain ⟨body, hmsg, hlen, -⟩ := s.todTime_body
  rw [hmsg, withCrc_length, hlen]

theorem State.todTime_timeAtStart (s : State) : s.TimeAtStart s.todTime := by
  obtain ⟨body, hmsg, hlen, hhead, hseq, hsec, hmode⟩ := s.todTime_body
  have hcut {i n : Nat} (h : i + n ≤ 30) : slice (withCrc body) i n = slice body i n := slice_append_left _ (hlen ▸ h)
  rw [hmsg]
  exact ⟨(hcut (by decide)).trans hhead, (hcut (by decide)).trans hseq, (hcut (by decide)).trans hsec, (hcut (by decide)).trans hmode,
    (withCrc_slices hlen).2⟩

/-- What follows the TIME message does not change it. -/
theorem State.TimeAtStart.append {bs : List Byte} (h : s.TimeAtStart bs) (hlen : bs.length = 34) (rest : List Byte) :
    s.TimeAtStart (bs ++ rest) := by
  have hcut {i n : Nat} (h : i + n ≤ 34) : slice (bs ++ rest) i n = slice bs i n := slice_append_left rest (hlen ▸ h)
  unfold State.TimeAtStart
  rwa [hcut (by decide), hcut (by decide), hcut (by decide), hcut (by decide), hcut (by decide), hcut (by decide)]

/-- Behind the TIME message the GNSS message has its header and the CRC-32 of its own 22 bytes. -/
theorem State.todPair_gnss (s : State) : (s.todTime ++ s.todGnss).length = 60 ∧ slice (s.todTime ++ s.todGnss) 34 4 = [0xED, 0x54, 0x02, 0x10] ∧
    slice (s.todTime ++ s.todGnss) 56 4 = leBytes 4 (crc32 (slice (s.todTime ++ s.todGnss) 34 22)) := by
  obtain ⟨body, hmsg, hlen, hhead⟩ := s.todGnss_body
  have hcut (i n : Nat) : slice (s.todTime ++ s.todGnss) (34 + i) n = slice (withCrc body) i n := by
    rw [← hmsg, ← s.todTime_length, slice_append_right]
  refine ⟨by rw [List.length_append, s.todTime_length, hmsg, withCrc_length, hlen], ?_, ?_⟩
  · exact (hcut 0 4).trans ((slice_append_left _ (by omega)).trans hhead)
  · rw [hcut 22 4, hcut 0 22]
    exact (withCrc_slices hlen).2

/-! The sending (R266). -/

/-- A counter that has counted never reads 0: where bits 47:0 wrap, WRAP is set. -/
theorem ctrAdd_ne_zero (c : BitVec 64) {k : Nat} (hpos : 0 < k) : ctrAdd c k ≠ 0 := by
  intro h
  have hval : (ctrAdd c k).toNat = 0 := congrArg BitVec.toNat h
  simp only [ctrAdd, BitVec.toNat_ofNat] at hval
  split at hval <;> omega

theorem State.ctrAt_countN_self (s : State) (off : Nat) {k : Nat} (hpos : 0 < k) :
    (s.countN off k).ctrAt off = ctrAdd (s.ctrAt off) k := by
  unfold State.ctrAt
  rw [State.countN_ctr, Assoc.putD, if_neg (ctrAdd_ne_zero _ hpos), Assoc.get_put, if_pos rfl]
  rfl

theorem lineTime_mono (baud : Nat) {k n : Nat} (h : k ≤ n) : lineTime baud k ≤ lineTime baud n := by
  unfold lineTime ceilDiv
  gcongr

/-- BAUD of TODOUT. -/
def State.todBaud (s : State) : Nat := baudOf (s.fld 0x80500 23 21)

/-- TODOUT does not send: it is not enabled, muted or busy, the instant is none at which it sends, or this second's message is sent or omitted. -/
def State.todWaits (s : State) : Bool :=
  !s.bit 0x80500 31 || s.out.todMuted || decide (s.now < s.out.todBusyUntil) ||
    !(decide (s.nsNow = s.fld 0x80500 9 0 * 1000000) || s.out.todDue) || s.out.todSec == some s.secNow

/-- A GNSS message follows, where both messages can end 10 ms before the second that they label. -/
def State.todBoth (s : State) : Bool :=
  s.bit 0x80500 30 && s.gns.sol.valid && decide (s.nsNow + lineTime s.todBaud 60 + 10000000 ≤ nsPerSec)

/-- The state that has omitted this second's message. -/
def State.todOmitted (s : State) : State := ({ s with out := { s.out with todSec := some s.secNow, todDue := false } } : State).count 0x80710

/-- The state that has begun to send `k` messages, which take the line `line` ns. -/
def State.todSent (s : State) (msg : List Byte) (k line : Nat) : State :=
  ({ s with out := { s.out with todLast := msg, todSeq := (s.out.todSeq + k) % 65536, todAt := s.now, todRate := s.todBaud,
                                todBusyUntil := s.now + line, todSec := some s.secNow, todDue := false },
            tb := { s.tb with stepFlag := false } } : State).countN 0x80708 k

theorem State.todSend_eq (s : State) : s.todSend =
    if s.todWaits then s
    else if nsPerSec < s.nsNow + lineTime s.todBaud 34 + 10000000 then s.todOmitted
    else s.todSent (if s.todBoth then s.todTime ++ s.todGnss else s.todTime) (if s.todBoth then 2 else 1)
      (if s.todBoth then lineTime s.todBaud 60 else lineTime s.todBaud 34) := rfl

theorem State.todSend_waits (h : (s.nsNow ≠ s.fld 0x80500 9 0 * 1000000 ∧ s.out.todDue = false) ∨ s.out.todSec = some s.secNow) :
    s.todSend = s := by
  have hwaits : s.todWaits = true := by
    obtain ⟨hat, hdue⟩ | hsent := h
    · simp [State.todWaits, hat, hdue]
    · simp [State.todWaits, hsent]
  rw [State.todSend_eq, if_pos hwaits]

theorem State.todWaits_eq_false_iff : s.todWaits = false ↔ s.bit 0x80500 31 = true ∧ s.out.todMuted = false ∧ s.out.todBusyUntil ≤ s.now ∧
    (s.nsNow = s.fld 0x80500 9 0 * 1000000 ∨ s.out.todDue = true) ∧ s.out.todSec ≠ some s.secNow := by
  simp only [State.todWaits, Bool.or_eq_false_iff, Bool.not_eq_false', Bool.or_eq_true, decide_eq_true_eq, decide_eq_false_iff_not, not_lt,
    beq_eq_false_iff_ne, and_assoc]

/-! GPPS (R264, R270). -/

/-- The QERR of an edge nearest a second of the solution is within half a period of CLK_GNSS. -/
theorem State.gppsDue_near {q : Int} (h : s.gppsDue = some q) : |q| ≤ 400392 := by
  unfold State.gppsDue at h
  split at h
  · cases h
  · extract_lets at h
    split at h
    · next hdue => exact Option.some.inj h ▸ of_decide_eq_true (Bool.and_eq_true_iff.1 hdue).2
    · cases h

/-- An enabled, unmuted GPPS that is low. -/
def State.gppsIdle (s : State) : Prop := s.bit 0x80600 31 = true ∧ s.out.gppsMuted = false ∧ s.out.gppsHighUntil ≤ s.now

theorem State.gppsPulse_without_edge (h : s.gppsDue = none) : s.gppsPulse = s := if_pos (by simp [h])

theorem State.gppsPulse_due {q : Int} (hidle : s.gppsIdle) (h : s.gppsDue = some q) : s.gppsPulse =
    if s.edgePasses then { s with out := { s.out with gppsHighUntil := s.now + s.fld 0x80600 8 0 * 1000000 } } else s.suppressEdge := by
  obtain ⟨hon, hmuted, hlow⟩ := hidle
  unfold State.gppsPulse
  rw [if_neg (by simp [hon, hmuted, hlow, h])]
  cases s.edgePasses <;> rfl

theorem State.edgePasses_gate (h : s.fmu.gate = true) : s.edgePasses = false := by simp [State.edgePasses, h]

/-- With the gate closed an edge is only counted. -/
theorem State.suppressEdge_gate (h : s.fmu.gate = true) : s.suppressEdge = s.count 0x80700 := if_pos h

/-! The balls (R262, R265, R277, R278). -/

theorem levelOf_rest (low : Bool) : levelOf false low = if low then .high else .low := by cases low <;> rfl

theorem levelOf_active_iff (active low : Bool) : levelOf active low = (if low then .low else .high) ↔ active = true := by
  cases active <;> cases low <;> decide

theorem State.gppsBall_muted (h : s.out.gppsMuted = true) : s.gppsBall = if s.bit 0x80600 29 then .hiZ else levelOf false (s.bit 0x80600 30) := by
  simp [State.gppsBall, h]

theorem State.gppsBall_unmuted (h : s.out.gppsMuted = false) :
    s.gppsBall = levelOf (decide (s.now < s.out.gppsHighUntil)) (s.bit 0x80600 30) := by
  simp [State.gppsBall, h]

theorem State.todBall_rest (hmuted : s.out.todMuted = true) (hidle : s.out.todBusyUntil ≤ s.now) :
    s.todBall = if s.bit 0x80500 25 then .hiZ else .high := by
  simp [State.todBall, hmuted, Nat.not_lt.2 hidle, levelOf]

end

/-- A line sends ten bits for a byte: a low start bit, the byte's bits from the lowest, and a high stop bit. -/
theorem lineLevel_byte {bs : List Byte} {k : Nat} {b : Byte} (h : bs[k]? = some b) {j : Nat} (hj : j < 10) :
    lineLevel bs (10 * k + j) = if j = 0 then false else if j = 9 then true else b.toNat / 2 ^ (j - 1) % 2 == 1 := by
  unfold lineLevel
  rw [show (10 * k + j) / 10 = k by omega, show (10 * k + j) % 10 = j by omega, h]

/-- Settles O31: TODOUT's send by its instant and by what still fits before the second, GPPS by its edge and the gate, and the balls. -/
theorem todoutAndGppsSendOnePerSecond : Obligations.TodoutAndGppsSendOnePerSecond := by
  intro s
  refine ⟨fun hon hmuted hidle => ?tod, fun hon hmuted hlow => ?gpps, fun hmuted => ?gppsRests, fun hmuted => ?gppsRuns,
    fun hmuted hidle => ?todRests, fun bs k b hb => ?bits⟩
  case tod =>
    intro base baud line both sent
    refine ⟨fun h => (exec_todMessageSend s).trans (congrArg _ (State.todSend_waits h)), fun hat hnew => ?_⟩
    have hsend : s.todSend = if nsPerSec < s.nsNow + line + 10000000 then s.todOmitted
        else s.todSent (if s.todBoth then s.todTime ++ s.todGnss else s.todTime) (if s.todBoth then 2 else 1)
          (if s.todBoth then both else line) :=
      s.todSend_eq.trans (if_neg (Bool.not_eq_true _ ▸ State.todWaits_eq_false_iff.2 ⟨hon, hmuted, hidle, hat, hnew⟩))
    have hsent (msg : List Byte) (n k line : Nat) (hlen : msg.length = n) (htime : s.TimeAtStart msg) (hpos : 0 < k) :
        sent (s.todSent msg k line) n k (s.now + line) := by
      obtain ⟨hhead, hseq, hsec, hmode, hcrc⟩ := htime
      exact ⟨hlen, hhead, hseq, hsec, hmode, hcrc, rfl, rfl, State.ctrAt_countN_self _ _ hpos⟩
    refine ⟨fun honly hfits => ?_, fun hgnss hvalid hfits => ?_, fun hlate => ?_⟩
    · have hone : s.todBoth = false := by obtain h | h := honly <;> simp [State.todBoth, h]
      rw [if_neg (not_lt.2 hfits), hone] at hsend
      exact ⟨_, (exec_todMessageSend s).trans (congrArg _ hsend), hsent _ 34 1 line s.todTime_length s.todTime_timeAtStart Nat.one_pos⟩
    · have htwo : s.todBoth = true := by simp only [State.todBoth, hgnss, hvalid, Bool.true_and, decide_eq_true_eq]; exact hfits
      have hline : line ≤ both := lineTime_mono baud (by decide)
      obtain ⟨hlen, hhead, hcrc⟩ := s.todPair_gnss
      rw [if_neg (not_lt.2 ((Nat.add_le_add_right (Nat.add_le_add_left hline _) _).trans hfits)), htwo] at hsend
      exact ⟨_, (exec_todMessageSend s).trans (congrArg _ hsend),
        hsent _ 60 2 both hlen (s.todTime_timeAtStart.append s.todTime_length _) Nat.two_pos, hhead, hcrc⟩
    · rw [if_pos hlate] at hsend
      exact (exec_todMessageSend s).trans (congrArg _ hsend)
  case gpps =>
    have hdue {q : Int} := State.gppsPulse_due (q := q) ⟨hon, hmuted, hlow⟩
    refine ⟨fun hnone => by rw [exec_gppsPulse, State.gppsPulse_without_edge hnone], fun q hq hgate => ?_, fun q hq hpass => ?_⟩
    · rw [exec_gppsPulse, hdue hq, State.edgePasses_gate hgate, if_neg Bool.false_ne_true, State.suppressEdge_gate hgate]
    · exact ⟨State.gppsDue_near hq, by rw [exec_gppsPulse, hdue hq, if_pos hpass]⟩
  case gppsRests => rw [State.gppsBall_muted hmuted, levelOf_rest]
  case gppsRuns => rw [State.gppsBall_unmuted hmuted, levelOf_active_iff, decide_eq_true_eq]
  case todRests => exact State.todBall_rest hmuted hidle
  case bits =>
    refine ⟨lineLevel_byte (j := 0) hb (by decide), lineLevel_byte (j := 9) hb (by decide), fun j hj => ?_⟩
    rw [Nat.add_assoc, lineLevel_byte hb (by omega), if_neg (by omega), if_neg (by omega), Nat.add_sub_cancel_left]

end Sys2Proof.Machine
end

section
/-! SUPPORT. The events of a channel: each is taken in the states that the transition table gives it while the baseband tracks, and in no
other. -/

namespace Sys2Proof.Machine

open Sys2Proof

section
variable {s : State} {ch p1 p2 code : Nat} {bin : Int}

/-- The events of a channel, by the states in which R291 has them. -/
def chanEvents (ch p1 p2 code : Nat) (bin : Int) : List (List ChState × List Instr) :=
  [([.search], [Instr.channelDetect ch p1 p2 code bin, .searchExhausted ch]), ([.pullin], [.pullinLock ch, .pullinTimeout ch]),
    ([.track], [.syncFound ch]), ([.sync], [.towDecoded ch]), ([.track, .sync, .tow], [.channelLost ch, .cycleSlip ch]),
    ([.lost], [.lostRefound ch, .lostTimeout ch])]

/-- The baseband tracks, and the channel is in one of some states. -/
def State.ChanIn (s : State) (ch : Nat) (l : List ChState) : Prop := s.gnsLive = true ∧ (s.chan ch).st ∈ l

theorem ChState.locked_iff {st : ChState} : st.locked = true ↔ st ∈ [.track, .sync, .tow] := by cases st <;> decide

/-- What an operation does only under a condition that no such state of the channel meets, it does not do. -/
theorem State.next_of_not_chanIn {l : List ChState} {c : Prop} [Decidable c] {t : State} (h : ¬s.ChanIn ch l) (hc : c → s.ChanIn ch l) :
    (Host.Outcome.next (if c then t else s) : Host.Outcome State Fault Refusal) = .next s :=
  congrArg Host.Outcome.next (if_neg (mt hc h))

theorem exec_chanEvent_not_chanIn {e : List ChState × List Instr} (he : e ∈ chanEvents ch p1 p2 code bin) (h : ¬s.ChanIn ch e.1) :
    ∀ i ∈ e.2, exec i s = .next s := by
  have inState {st : ChState} (hc : (s.gnsLive && (s.chan ch).st == st) = true) : s.ChanIn ch [st] := by
    simpa [State.ChanIn] using hc
  have locked (hc : (s.gnsLive && (s.chan ch).st.locked) = true) : s.ChanIn ch [.track, .sync, .tow] := by
    rw [Bool.and_eq_true, ChState.locked_iff] at hc
    exact hc
  simp only [chanEvents, List.mem_cons, List.not_mem_nil, or_false] at he
  obtain rfl | rfl | rfl | rfl | rfl | rfl := he <;>
    simp only [List.forall_mem_cons, List.not_mem_nil, false_implies, implies_true, and_true]
  · exact ⟨State.next_of_not_chanIn h fun hc => inState (Bool.and_elim_left (Bool.and_elim_left (Bool.and_elim_left hc))),
      State.next_of_not_chanIn h inState⟩
  · exact ⟨State.next_of_not_chanIn h fun hc => inState (Bool.and_elim_left hc),
      State.next_of_not_chanIn h fun hc => inState (Bool.and_elim_left hc)⟩
  · exact State.next_of_not_chanIn h inState
  · exact State.next_of_not_chanIn h inState
  · exact ⟨State.next_of_not_chanIn h locked, State.next_of_not_chanIn h locked⟩
  · exact ⟨State.next_of_not_chanIn h fun hc => inState (Bool.and_elim_left hc),
      State.next_of_not_chanIn h fun hc => inState (Bool.and_elim_left hc)⟩

section
variable (hlive : s.gnsLive = true)
include hlive

theorem State.chanDetect_found (hst : (s.chan ch).st = .search) (hisl : s.islandOut 6 = false) (h1 : (s.chan ch).threshold < p1)
    (h2 : (s.chan ch).threshold < p2) (hwin : (s.chan ch).inWindow code bin = true) : s.chanDetect ch p1 p2 code bin = s.setChan ch fun c =>
      { c.go s.now .pullin with ncoCode := code, ncoDop := c.dopC + bin * ((500000 / sigPeriod c.sig : Nat) : Int) } :=
  if_pos (by simp [hlive, hst, hisl, h1, h2, hwin])

theorem State.chanExhausted_search (hst : (s.chan ch).st = .search) : s.chanExhausted ch =
    ({ s with gns := { s.gns with blocked := s.gns.blocked.filter (fun x => decide (s.now < x.2.2)) ++
      [(sigSys (s.chan ch).sig, (s.chan ch).svid, s.now + 60 * nsPerSec)] } } : State).setChan ch fun _ => Chan.reset :=
  if_pos (by simp [hlive, hst])

theorem State.chanPullin_due (hst : (s.chan ch).st = .pullin) (hdue : (s.chan ch).since + 100000000 ≤ s.now) :
    s.chanPullin ch = s.setChan ch (Chan.go s.now .track) := if_pos (by simp [hlive, hst, hdue])

theorem State.chanPullinTimeout_due (hst : (s.chan ch).st = .pullin) (hdue : (s.chan ch).since + 500000000 ≤ s.now) :
    s.chanPullinTimeout ch = s.setChan ch (Chan.go s.now .search) := if_pos (by simp [hlive, hst, hdue])

theorem State.chanSync_track (hst : (s.chan ch).st = .track) :
    s.chanSync ch = s.setChan ch fun c => { c.go s.now .sync with half := true } := if_pos (by simp [hlive, hst])

theorem State.chanTow_alone (hst : (s.chan ch).st = .sync) (hnone : (s.chan ch).handover = none) :
    s.chanTow ch = s.setChan ch fun c => { c.go s.now .tow with handover := none } :=
  (if_pos (by simp [hlive, hst])).trans (by simp only [hnone])

/-- The new channel of a pair completes the handover of the old (R291). -/
theorem State.chanTow_handover {o : Nat} (hst : (s.chan ch).st = .sync) (hsome : (s.chan ch).handover = some o) : s.chanTow ch =
    ((s.setChan ch fun c => { c.go s.now .tow with handover := none }).setChan o fun c => { c with handed := true }).count (gnsCtr 3) :=
  (if_pos (by simp [hlive, hst])).trans (by simp only [hsome])

theorem State.chanLost_locked (hst : (s.chan ch).st.locked = true) :
    s.chanLost ch = s.setChan ch fun c => { c.go s.now .lost with lockMs := 0, half := false } := if_pos (by simp [hlive, hst])

theorem State.chanSlip_locked (hst : (s.chan ch).st.locked = true) :
    s.chanSlip ch = (s.setChan ch fun c => { c with slip := true, lockMs := 0 }).count (gnsCtr 2) := if_pos (by simp [hlive, hst])

theorem State.chanRefound_soon (hst : (s.chan ch).st = .lost) (hsoon : s.now ≤ (s.chan ch).since + 10 * nsPerSec) :
    s.chanRefound ch = s.setChan ch fun c => { c.go s.now .track with slip := true } := if_pos (by simp [hlive, hst, hsoon])

theorem State.chanLostTimeout_due (hst : (s.chan ch).st = .lost) (hdue : (s.chan ch).since + 10 * nsPerSec ≤ s.now) :
    s.chanLostTimeout ch = s.setChan ch fun _ => Chan.reset := if_pos (by simp [hlive, hst, hdue])

end

theorem State.chanDetect_below (h : ¬((s.chan ch).threshold < p1 ∧ (s.chan ch).threshold < p2)) : s.chanDetect ch p1 p2 code bin = s :=
  if_neg (by simp [h])

end

/-- Settles O32: an event in a state that does not have it, then each state's own events. -/
theorem channelsMoveByTheirTransitionTable : Obligations.ChannelsMoveByTheirTransitionTable := by
  intro s ch p1 p2 code bin
  refine ⟨fun hdead e he => ?dead, fun hlive => ⟨fun e he hst => ?elsewhere, fun hst => ?search, fun hst => ?pullin, fun hst => ?track,
    fun hst => ?sync, fun hst => ?locked, fun hst => ?lost⟩⟩
  case dead => exact exec_chanEvent_not_chanIn he fun h => by simp [h.1] at hdead
  case elsewhere => exact exec_chanEvent_not_chanIn he fun h => hst h.2
  case search =>
    exact ⟨fun hisl habove hwin => congrArg _ (State.chanDetect_found hlive hst hisl habove.1 habove.2 hwin),
      fun hbelow => congrArg _ (State.chanDetect_below hbelow), congrArg _ (State.chanExhausted_search hlive hst)⟩
  case pullin =>
    exact ⟨fun hdue => congrArg _ (State.chanPullin_due hlive hst hdue), fun hdue => congrArg _ (State.chanPullinTimeout_due hlive hst hdue)⟩
  case track => exact congrArg _ (State.chanSync_track hlive hst)
  case sync =>
    exact ⟨fun hnone => congrArg _ (State.chanTow_alone hlive hst hnone), fun o hsome => congrArg _ (State.chanTow_handover hlive hst hsome)⟩
  case locked =>
    have hlocked : (s.chan ch).st.locked = true := ChState.locked_iff.2 (by simpa using hst)
    exact ⟨congrArg _ (State.chanLost_locked hlive hlocked), congrArg _ (State.chanSlip_locked hlive hlocked)⟩
  case lost =>
    exact ⟨fun hsoon => congrArg _ (State.chanRefound_soon hlive hst hsoon), fun hdue => congrArg _ (State.chanLostTimeout_due hlive hst hdue)⟩

end Sys2Proof.Machine
end

section
/-! SUPPORT. The front-end script entry by entry, the gains read back, and the operations of GNS_CTL. -/

namespace Sys2Proof.Machine

open Sys2Proof

theorem exec_feScriptRun (s : State) (miso : List W32) : exec (.feScriptRun miso) s = .next (s.feScript miso) := rfl

theorem exec_scriptWaitExpire (s : State) (miso : List W32) : exec (.scriptWaitExpire miso) s = .next (s.scriptResume miso) := rfl

theorem exec_agcRead (s : State) (miso : List W32) : exec (.agcRead miso) s = .next (s.agcRead miso) := rfl

section
variable {s : State} {miso : List W32} {i n : Nat}

/-! The script (R287, R288). -/

/-- The operation code of a script entry. -/
def State.scrOp (s : State) (i : Nat) : Nat := bitsOf (s.scrWord i 0) 31 29

/-- What the transaction of a script entry shifts out: its length and its bits. -/
def State.scrShift (s : State) (i : Nat) : Nat × W32 :=
  (bitsOf (s.scrWord i 0) 28 24 + 1, BitVec.ofNat 32 (bitsOf (s.scrWord i 1) (bitsOf (s.scrWord i 0) 28 24) 0))

/-- The state in which the script begins at entry 0. -/
def State.scriptStarted (s : State) : State :=
  { s with gns := { s.gns with scrRun := true, scrIdx := 0, spi := [], spiAt := s.now, feFail := false, scrAgc := [] } }

theorem State.feScript_begins (h : s.md.mode = .calibrate ∧ s.gns.scrRun = false ∨ s.gns.scrRun = true ∧ s.gns.scrWait = none) :
    s.feScript miso = scriptRun 64 0 miso s.scriptStarted :=
  if_neg (by obtain ⟨hmode, hidle⟩ | ⟨hrun, hwait⟩ := h <;> simp [*])

theorem State.scriptResume_due {at_ : Nat} (hrun : s.gns.scrRun = true) (hwait : s.gns.scrWait = some at_) (hdue : at_ ≤ s.now) :
    s.scriptResume miso =
      scriptRun 64 s.gns.scrIdx miso { s with gns := { s.gns with scrWait := none, spi := [], spiAt := s.now } } := by
  simp [State.scriptResume, hrun, hwait, hdue]

section
variable (hi : i < 64)
include hi

theorem scriptRun_end (h : s.scrOp i = 0) : scriptRun (n + 1) i miso s = s.scriptDone false := by
  unfold State.scrOp at h
  simp only [scriptRun, h, if_neg (Nat.not_le.2 hi)]

theorem scriptRun_xfer (h : s.scrOp i = 1) : scriptRun (n + 1) i miso s = scriptRun n (i + 1) miso.tail (s.spiSend i) := by
  unfold State.scrOp at h
  simp only [scriptRun, h, if_neg (Nat.not_le.2 hi)]

theorem scriptRun_check_fails (h : s.scrOp i = 2) (hne : (bitsOf (miso.headD 0) (bitsOf (s.scrWord i 0) 28 24) 0) % 256 &&&
    bitsOf (s.scrWord i 0) 7 0 ≠ bitsOf (s.scrWord i 0) 23 16) : scriptRun (n + 1) i miso s = (s.spiSend i).scriptDone true := by
  unfold State.scrOp at h
  simp only [scriptRun, h, if_neg (Nat.not_le.2 hi), if_neg hne]

theorem scriptRun_wait (h : s.scrOp i = 3) : scriptRun (n + 1) i miso s =
    { s with gns := { s.gns with scrIdx := i + 1, scrWait := some (s.now + (s.scrWord i 1).toNat * 1000) } } := by
  unfold State.scrOp at h
  simp only [scriptRun, h, if_neg (Nat.not_le.2 hi)]

end

/-- The end of the script leaves its transactions and the channels as they are, and answers with its code (R288, R322). -/
theorem State.scriptDone_spec (s : State) (fail : Bool) : s.GnssOnly (s.scriptDone fail) ∧ (s.scriptDone fail).gns.scrRun = false ∧
    (s.scriptDone fail).gns.feFail = (s.gns.feFail || fail) ∧ (s.scriptDone fail).gns.spi = s.gns.spi ∧
    (s.scriptDone fail).gns.chans = s.gns.chans ∧ (fail = true → (s.scriptDone fail).gns.ctlCode = 0x30) ∧
    (∀ k, fail = false → s.gns.scrToken = some k → (s.scriptDone fail).gns.ctlToken = k ∧ (s.scriptDone fail).gns.ctlCode = 0) := by
  cases htok : s.gns.scrToken <;> cases fail <;> simp [State.scriptDone, State.GnssOnly, htok]

/-! The gains (R288, R313). -/

/-- The register that says of which entry, and how, a band's gain is formed. -/
def State.agcCfg (s : State) (a : Bool) : W32 := s.reg (if a then 0x90010 else 0x90014)

theorem State.setGain_other {a : Bool} (h : bitsOf (s.agcCfg a) 31 26 ≠ i) (w : W32) : s.setGain a i w = s := if_pos h

theorem State.setGain_named {a : Bool} {w : W32} {g : Int} (h : bitsOf (s.agcCfg a) 31 26 = i)
    (hg : g = (bitsOf w (bitsOf (s.agcCfg a) 25 21) (bitsOf (s.agcCfg a) 20 16) : Nat) * signed 16 (bitsOf (s.agcCfg a) 15 0))
    (hfits : satS 16 g = g) : s.setGain a i w =
      if a then { s with gns := { s.gns with gainA := g } } else { s with gns := { s.gns with gainB := g } } := by
  subst hg
  unfold State.agcCfg at h hfits ⊢
  unfold State.setGain
  simp only [h, ne_eq, not_true_eq_false, if_false, if_pos hfits]

/-- Forming a gain moves the gains and the free values, and nothing else. -/
theorem State.setGain_eq (s : State) (a : Bool) (i : Nat) (w : W32) : s.setGain a i w =
    { s with gns := { s.gns with gainA := (s.setGain a i w).gns.gainA, gainB := (s.setGain a i w).gns.gainB },
             fresh := (s.setGain a i w).fresh } := by
  unfold State.setGain
  extract_lets cfg g
  split
  · rfl
  · split
    next heq =>
    split at heq <;> cases heq <;> cases a <;> rfl

/-- One AGC entry read: its transaction, and the gain formed from what it captures. -/
def State.agcReadOne (miso : List W32) (s : State) (x : Nat × Nat) : State :=
  (s.spiSend x.1).setGain (bitsOf (s.scrWord x.1 0) 31 29 == 4) x.1 (s.agcBits x.1 (miso.getD x.2 0))

/-- The state in which a read of the AGC entries begins. -/
def State.readStarted (s : State) : State := { s with gns := { s.gns with spi := [], spiAt := s.now } }

theorem State.agcRead_awake (hawake : s.gns.asleep = false) (hmode : s.md.mode ≠ .boot) : s.agcRead miso =
    s.gns.scrAgc.zipIdx.foldl (State.agcReadOne miso) s.readStarted :=
  if_neg (by simp [hawake, hmode])

/-- A later state that differs in the gains, the free values and the transactions, to which some have been added. -/
def State.GainsRead (s t : State) (shifts : List (Nat × W32)) : Prop :=
  t = { s with gns := { s.gns with gainA := t.gns.gainA, gainB := t.gns.gainB, spi := s.gns.spi ++ shifts }, fresh := t.fresh }

theorem State.agcReadOne_gainsRead (miso : List W32) (s : State) (x : Nat × Nat) : s.GainsRead (s.agcReadOne miso x) [s.scrShift x.1] :=
  State.setGain_eq _ _ _ _

theorem State.GainsRead.trans {r s t : State} {k l : List (Nat × W32)} (a : r.GainsRead s k) (b : s.GainsRead t l) : r.GainsRead t (k ++ l) := by
  unfold State.GainsRead at *
  rw [b, a, List.append_assoc]

theorem State.GainsRead.scrShift {s t : State} {l : List (Nat × W32)} (h : s.GainsRead t l) : t.scrShift = s.scrShift := by
  rw [show t = _ from h]
  rfl

theorem State.agcReadAll_gainsRead (miso : List W32) (l : List (Nat × Nat)) (s : State) :
    s.GainsRead (l.foldl (State.agcReadOne miso) s) (l.map fun x => s.scrShift x.1) := by
  induction l generalizing s with
  | nil => simp [State.GainsRead]
  | cons x l ih =>
    have hone := s.agcReadOne_gainsRead miso x
    have hrest := ih (s.agcReadOne miso x)
    rw [hone.scrShift] at hrest
    exact hone.trans hrest

/-- What an AGC read leaves: the transactions of every entry that the script has reached, in its order. -/
theorem State.agcRead_gainsRead (hawake : s.gns.asleep = false) (hmode : s.md.mode ≠ .boot) :
    s.readStarted.GainsRead (s.agcRead miso) (s.gns.scrAgc.map s.scrShift) := by
  have hentries : s.gns.scrAgc.zipIdx.map (fun x => s.scrShift x.1) = s.gns.scrAgc.map s.scrShift := by
    conv_rhs => rw [← List.zipIdx_map_fst 0 s.gns.scrAgc, List.map_map]
    rfl
  rw [State.agcRead_awake hawake hmode, ← hentries]
  exact State.agcReadAll_gainsRead miso _ s.readStarted

theorem State.agcRead_single (hawake : s.gns.asleep = false) (hmode : s.md.mode ≠ .boot) (hone : s.gns.scrAgc = [i]) : s.agcRead miso =
    (s.readStarted.spiSend i).setGain (s.scrOp i == 4) i (s.agcBits i (miso.headD 0)) := by
  rw [State.agcRead_awake hawake hmode, hone]
  cases miso <;> rfl

theorem State.agcCfg_of_entry (s : State) (i : Nat) :
    s.reg (if s.scrOp i = 4 then 0x90010 else 0x90014) = s.agcCfg (s.scrOp i == 4) := by simp [State.agcCfg]

theorem State.agcReport_awake (hawake : s.gns.asleep = false) (hmode : s.md.mode ≠ .boot) (a b : List (BitVec 8 × BitVec 8)) :
    s.agcReport a b = { s with gns := { s.gns with
      rmsA := if s.bandEn true then (s.sampleMonitor (s.gifCapture a)).1 else s.gns.rmsA,
      fsA := if s.bandEn true then (s.sampleMonitor (s.gifCapture a)).2 else s.gns.fsA,
      rmsB := if s.bandEn false then (s.sampleMonitor (s.gifCapture b)).1 else s.gns.rmsB,
      fsB := if s.bandEn false then (s.sampleMonitor (s.gifCapture b)).2 else s.gns.fsB } } := by
  rw [State.agcReport, if_neg (by simp [hawake, hmode])]
  cases s.bandEn true <;> cases s.bandEn false <;> rfl

/-! GNS_CTL (R310, R321, R322). -/

section
variable {tok : Nat} (hw : s.noWrites = false)
include hw

theorem State.resurvey_not_kept (h : s.fld 0x90044 27 26 ≠ 0) : s.resurvey tok = s.gnsCtl tok 0x20 := by
  rw [State.resurvey, if_neg (by simp [hw]), if_pos h]

theorem State.resurvey_stopped (h : s.fld 0x90044 27 26 = 0) (hmode : s.md.mode.running = false) : s.resurvey tok = s.gnsCtl tok 0x24 := by
  rw [State.resurvey, if_neg (by simp [hw]), if_neg (not_not_intro h), if_pos (by simp [hmode])]

theorem State.resurvey_taken (h : s.fld 0x90044 27 26 = 0) (hmode : s.md.mode.running = true) :
    s.resurvey tok = s.surveyStart.gnsCtl tok 0 := by
  rw [State.resurvey, if_neg (by simp [hw]), if_neg (not_not_intro h), if_neg (by simp [hmode])]

theorem State.rerunScript_stopped (hmode : s.md.mode.running = false) : s.rerunScript tok = s.gnsCtl tok 0x24 := by
  rw [State.rerunScript, if_neg (by simp [hw]), if_pos (by simp [hmode])]

theorem State.rerunScript_busy (hmode : s.md.mode.running = true) (hrun : s.gns.scrRun = true) : s.rerunScript tok = s.gnsCtl tok 0x25 := by
  rw [State.rerunScript, if_neg (by simp [hw]), if_neg (by simp [hmode]), if_pos hrun]

theorem State.rerunScript_taken (hmode : s.md.mode.running = true) (hrun : s.gns.scrRun = false) : s.rerunScript tok =
    { s with gns := { s.releaseAll.integReset.gns with
      scrRun := true, scrIdx := 0, scrWait := none, scrToken := some tok, withhold := 2, startDue := true, startKind := 2 } } := by
  rw [State.rerunScript, if_neg (by simp [hw]), if_neg (by simp [hmode]), if_neg (by simp [hrun])]
  rfl

theorem State.coldStart_stopped (hmode : s.md.mode.running = false) : s.coldStart tok = s.gnsCtl tok 0x24 := by
  rw [State.coldStart, if_neg (by simp [hw]), if_pos (by simp [hmode])]

theorem State.coldStart_taken (hmode : s.md.mode.running = true) : s.coldStart tok =
    { s with fe := { s.fe with kept := { s.fe.kept with almanac := [], ephem := [], holdPos := none, fix := none } },
             gns := { s.releaseAll.integReset.gns with
               start := 0, startDue := false, startKind := 0, alm := List.replicate 8 none, solMode := 0, surveyN := 0, surveySum := (0, 0, 0),
               surveySq := 0, fixAvg := [], firstValid := false, ctlToken := tok, ctlCode := 0 } } := by
  rw [State.coldStart, if_neg (by simp [hw]), if_neg (by simp [hmode])]
  rfl

end

end

/-- Settles O33: the script by its first entries and from the end of a wait, the read and the report by what they form, and GNS_CTL by the code
that comes first. -/
theorem frontEndScriptAndGainReadBack : Obligations.FrontEndScriptAndGainReadBack := by
  intro s miso tok
  refine ⟨fun hbegins => ?script, fun at_ hrun hwait hdue hidx hend => ?resumed, fun hawake hmode => ⟨?read, fun a b => ?report⟩,
    fun hw => ⟨?notKept, fun hstop => ?stopped, fun hmode => ?carriedOut⟩⟩
  case script =>
    rw [exec_feScriptRun, State.feScript_begins hbegins]
    refine ⟨fun hend => ?_, fun hxfer hend => ?_, fun hcheck hne => ?_, fun hwait => ?_⟩
    · obtain ⟨hframe, hidle, hfail, hspi, hchans, -, htok⟩ := s.scriptStarted.scriptDone_spec false
      exact ⟨_, congrArg _ (scriptRun_end (by decide) hend), hframe, hidle, hfail, hspi, hchans, fun k => htok k rfl⟩
    · obtain ⟨hframe, hidle, hfail, hspi, hchans, -, -⟩ := (s.scriptStarted.spiSend 0).scriptDone_spec false
      have hrun := (scriptRun_xfer (s := s.scriptStarted) (i := 0) (miso := miso) (n := 63) (by decide) hxfer).trans (scriptRun_end (by decide) hend)
      exact ⟨_, congrArg _ hrun, hframe, hidle, hfail, hspi, hchans⟩
    · obtain ⟨hframe, hidle, hfail, hspi, hchans, hcode, -⟩ := (s.scriptStarted.spiSend 0).scriptDone_spec true
      exact ⟨_, congrArg _ (scriptRun_check_fails (by decide) hcheck hne), hframe, hidle, hfail, hcode rfl, hspi, hchans⟩
    · exact ⟨_, congrArg _ (scriptRun_wait (by decide) hwait), rfl, rfl, rfl, rfl, rfl⟩
  case resumed =>
    rw [exec_scriptWaitExpire, State.scriptResume_due hrun hwait hdue]
    obtain ⟨hframe, hidle, hfail, -, -, -, htok⟩ :=
      State.scriptDone_spec { s with gns := { s.gns with scrWait := none, spi := [], spiAt := s.now } } false
    exact ⟨_, congrArg _ (scriptRun_end hidx hend), hframe, hidle, hfail.trans (Bool.or_false _), fun k => htok k rfl⟩
  case read =>
    refine ⟨_, exec_agcRead s miso, State.agcRead_gainsRead hawake hmode, fun i hone => ?_⟩
    intro cfg got
    have hcfg : cfg = (s.readStarted.spiSend i).agcCfg (s.scrOp i == 4) := s.agcCfg_of_entry i
    rw [State.agcRead_single hawake hmode hone]
    refine ⟨fun hother => ?_, fun hnamed hfits => ?_⟩
    · rw [State.setGain_other (hcfg ▸ hother)]
      exact ⟨rfl, rfl, rfl⟩
    · rw [State.setGain_named (g := got) (hcfg ▸ hnamed) (by rw [← hcfg]) hfits]
      cases hband : s.scrOp i == 4
      · exact ⟨rfl, fun h => absurd h (beq_eq_false_iff_ne.1 hband), fun _ => ⟨rfl, rfl⟩⟩
      · exact ⟨rfl, fun _ => ⟨rfl, rfl⟩, fun h => absurd (beq_iff_eq.1 hband) h⟩
  case report => exact congrArg _ (State.agcReport_awake hawake hmode a b)
  case notKept => exact fun h => congrArg _ (State.resurvey_not_kept hw h)
  case stopped =>
    exact ⟨congrArg _ (State.rerunScript_stopped hw hstop), congrArg _ (State.coldStart_stopped hw hstop),
      fun h => congrArg _ (State.resurvey_stopped hw h hstop)⟩
  case carriedOut =>
    refine ⟨fun h => ⟨_, congrArg Host.Outcome.next (State.resurvey_taken hw h hmode), rfl, rfl, rfl, rfl, rfl, rfl⟩,
      fun hrun => congrArg _ (State.rerunScript_busy hw hmode hrun),
      fun hrun => ⟨_, congrArg Host.Outcome.next (State.rerunScript_taken hw hmode hrun), rfl, rfl, rfl, rfl, rfl, rfl, rfl, rfl, rfl⟩,
      ⟨_, congrArg Host.Outcome.next (State.coldStart_taken hw hmode), rfl, rfl, rfl, rfl, rfl, rfl, rfl⟩⟩

end Sys2Proof.Machine
end

section
/-! SUPPORT. The epoch strobe: the latch of each channel and the record set; and the placement: the signals wanted, the channels released, and
the channels filled. -/

namespace Sys2Proof.Machine

open Sys2Proof

theorem exec_epochStrobe (s : State) (code : Nat) (latch : List ChanLatch) : exec (.epochStrobe code latch) s = .next (s.epoch code latch) := rfl

theorem exec_channelPlacement (s : State) (almanacs : List Nat) (sats : List Visible) :
    exec (.channelPlacement almanacs sats) s = .next (s.placement almanacs sats) := rfl

/-! Changes of channels alone. -/

/-- A later state that differs from the first in the channels alone. -/
def State.ChansOnly (s t : State) : Prop := t = { s with gns := { s.gns with chans := t.gns.chans } }

theorem State.ChansOnly.refl (s : State) : s.ChansOnly s := rfl

theorem State.ChansOnly.trans {r s t : State} (a : r.ChansOnly s) (b : s.ChansOnly t) : r.ChansOnly t := by
  unfold State.ChansOnly at *
  rw [b, a]

theorem State.ChansOnly.foldl {α : Type} {f : State → α → State} (hf : ∀ u x, State.ChansOnly u (f u x)) (l : List α) (s : State) :
    s.ChansOnly (l.foldl f s) := by
  induction l generalizing s with
  | nil => exact .refl s
  | cons x l ih => exact (hf s x).trans (ih _)

theorem State.setChan_chansOnly (s : State) (c : Nat) (f : Chan → Chan) : s.ChansOnly (s.setChan c f) := rfl

section
variable {s : State} {c : Nat}

/-- A channel that is not idle is one that the part has. -/
theorem State.chan_lt (h : (s.chan c).st ≠ .idle) : c < s.gns.chans.length := by
  by_contra hge
  exact h (by rw [State.chan, List.getD_eq_default _ _ (Nat.le_of_not_lt hge)]; rfl)

theorem State.chan_setChan_self (f : Chan → Chan) (h : c < s.gns.chans.length) : (s.setChan c f).chan c = f (s.chan c) := by
  simp [State.chan, State.setChan, updAt, List.getD_eq_getElem?_getD, h]

theorem State.chan_setChan_ne {k : Nat} (f : Chan → Chan) (h : k ≠ c) : (s.setChan c f).chan k = s.chan k := by
  simp [State.chan, State.setChan, updAt, List.getD_eq_getElem?_getD, List.getElem?_modify_ne f _ h.symm]

/-- A channel of a list changed channel by channel. -/
theorem getD_mapIdx_chan (f : Nat → Chan → Chan) (l : List Chan) (h : c < l.length) :
    (l.mapIdx f).getD c Chan.reset = f c (l.getD c Chan.reset) := by
  simp [List.getD_eq_getElem?_getD, h]

/-! The epoch strobe (R292, R295, R296). -/

/-- The strobe of this millisecond. -/
def State.strobe (s : State) : Nat := s.tb.warp / 1000000 * 1000000

/-- The state with the TAC of the strobe converting and the channels latched. -/
def State.latched (s : State) (latch : List ChanLatch) : State :=
  latch.foldl (fun s l => s.setChan l.ch fun c => c.latch l) (s.tacBusy 28)

theorem State.latched_chansOnly (s : State) (latch : List ChanLatch) : (s.tacBusy 28).ChansOnly (s.latched latch) :=
  .foldl (fun u l => u.setChan_chansOnly l.ch _) latch _

theorem State.latched_eq (s : State) (latch : List ChanLatch) : s.latched latch =
    { s with gns := { s.gns with chans := (s.latched latch).gns.chans }, tac := (s.tacBusy 28).tac } := s.latched_chansOnly latch

theorem State.latched_single {l : ChanLatch} (h : (s.chan l.ch).st ≠ .idle) : (s.latched [l]).chan l.ch = (s.chan l.ch).latch l :=
  State.chan_setChan_self (s := s.tacBusy 28) _ (State.chan_lt h)

theorem State.latched_length (s : State) (latch : List ChanLatch) : (s.latched latch).gns.chans.length = s.gns.chans.length :=
  List.foldlRecOn (motive := fun u : State => u.gns.chans.length = s.gns.chans.length) latch _ rfl
    fun _ hu _ _ => (updAt_length ..).trans hu

/-- The channels as a record set holds them (R575). -/
def State.usedChans (s : State) : List Chan := s.gns.chans.mapIdx fun i c => { c with used := c.used && !s.chanOut i }

/-- A channel once its record set is written: released after its handover, and its slip told (R291). -/
def Chan.recorded (c : Chan) : Chan := if c.handed then Chan.reset else { c with slip := false }

section
variable {code : Nat} {latch : List ChanLatch} (hlive : s.gnsLive = true) (hnear : s.tb.warp % 1000000 ≤ 12)
include hlive hnear

theorem State.epoch_open : ¬(!s.gnsLive || decide (12 < s.tb.warp - s.tb.warp / 1000000 * 1000000)) = true := by
  have hofs : s.tb.warp - s.tb.warp / 1000000 * 1000000 ≤ 12 := by omega
  simp [hlive, hofs]

theorem State.epoch_missed (hready : s.tacReady 28 = false) : s.epoch code latch = s.tacMiss 28 := by
  rw [State.epoch, if_neg (State.epoch_open hlive hnear), if_pos (by simp [hready])]

theorem State.epoch_between (hready : s.tacReady 28 = true) (h : s.strobe % nsPerSec % s.measStep ≠ 0) :
    s.epoch code latch = s.latched latch := by
  rw [State.epoch, if_neg (State.epoch_open hlive hnear), if_neg (by simp [hready])]
  exact if_pos h

theorem State.epoch_writes (hready : s.tacReady 28 = true) (h : s.strobe % nsPerSec % s.measStep = 0) : ∃ r : RecSet,
    (r.cnt = ((s.latched latch).gns.setCnt + 1) % 2 ^ 32 ∧ r.agcA = (s.latched latch).gns.gainA ∧ r.agcB = (s.latched latch).gns.gainB ∧
      r.time = (s.latched latch).word (wrapTime (s.captureAt 28 code 0)) ∧ r.chans = (s.latched latch).usedChans) ∧
    s.epoch code latch = { s.latched latch with gns := { (s.latched latch).gns with
      newest := some r, setCnt := r.cnt, scaleSeen := (s.latched latch).tb.changes, chans := (s.latched latch).usedChans.map Chan.recorded,
      setNew := if decide (s.strobe % nsPerSec = 0) then some (r, decide (0 < (s.latched latch).gns.withhold)) else (s.latched latch).gns.setNew,
      withhold := if decide (s.strobe % nsPerSec = 0) then (s.latched latch).gns.withhold - 1 else (s.latched latch).gns.withhold } } := by
  rw [State.epoch, if_neg (State.epoch_open hlive hnear), if_neg (by simp [hready])]
  exact ⟨_, ⟨rfl, rfl, rfl, rfl, rfl⟩, if_neg (not_not_intro h)⟩

end

/-- What a channel holds after a latch: the latch's own figures, its transmit time modulo the code's period before TOW, and its state. -/
theorem Chan.latch_of_busy {x : Chan} (l : ChanLatch) (h : x.st ≠ .idle) : (x.latch l).cn0 = l.cn0 ∧ (x.latch l).carrier = l.carrier ∧
    (x.latch l).doppler = l.doppler ∧ (x.latch l).st = x.st ∧
    (x.latch l).txtime = (if x.st = .tow then l.txtime else l.txtime % (sigPeriod x.sig * 2 ^ 32)) ∧ (x.latch l).handed = x.handed := by
  rw [Chan.latch, if_neg (by simpa using h)]
  refine ⟨rfl, rfl, rfl, rfl, ?_, rfl⟩
  simp only [beq_iff_eq]

/-- A record set's writing leaves of a channel that has not handed over all but USED and SLIP. -/
theorem State.recorded_chan (h : c < s.gns.chans.length) (hkept : (s.chan c).handed = false) : ∃ used,
    (s.usedChans.map Chan.recorded).getD c Chan.reset = { s.chan c with used := used, slip := false } := by
  refine ⟨(s.chan c).used && !s.chanOut c, ?_⟩
  have hmap : (s.usedChans.map Chan.recorded).getD c Chan.reset = (s.usedChans.getD c Chan.reset).recorded :=
    List.getD_map _ Chan.reset Chan.recorded
  rw [hmap, State.usedChans, getD_mapIdx_chan _ _ h]
  exact if_neg (by simpa [State.chan] using hkept)

/-! The signals wanted (R281). -/

section
variable {g : Nat}

/-- How many signals of one kind a list holds. -/
def sigCount (g : Nat) (l : List Visible) : Nat := (l.filter fun v => v.sig == g).length

theorem sigReserved_le_sigMax (g : Nat) : sigReserved g ≤ sigMax g := by
  obtain hg | hg := lt_or_ge g 11
  · decide +revert
  · simp [sigReserved, sigMax, hg]

/-- Of lists that hold one kind of signal each, those put together hold of a kind what its own list holds. -/
theorem filter_flatMap_own (F : Nat → List Visible) (hF : ∀ k, ∀ v ∈ F k, v.sig = k) (ks : List Nat) :
    ((ks.flatMap F).filter fun v => v.sig == g) = (ks.filter (· == g)).flatMap F := by
  induction ks with
  | nil => rfl
  | cons k ks ih =>
    rw [List.flatMap_cons, List.filter_append, ih, List.filter_cons]
    by_cases hk : k = g
    · rw [if_pos (by simp [hk]), List.flatMap_cons, List.filter_eq_self.2 fun v hv => by simp [hF k v hv, hk]]
    · rw [if_neg (by simp [hk]), List.filter_eq_nil_iff.2 fun v hv => by simp [hF k v hv, hk], List.nil_append]

theorem sigCount_flatMap_range (F : Nat → List Visible) (hF : ∀ k, ∀ v ∈ F k, v.sig = k) (n : Nat) (hlen : (F g).length ≤ sigMax g) :
    sigCount g ((List.range n).flatMap F) ≤ sigMax g := by
  rw [sigCount, filter_flatMap_own F hF, List.filter_beq]
  have hone : (List.range n).count g ≤ 1 := List.nodup_iff_count_le_one.1 List.nodup_range g
  interval_cases (List.range n).count g
  · exact Nat.zero_le _
  · simpa using hlen

/-- A signal joins the list only within its maximum. -/
theorem sigCount_add {acc : List Visible} {v : Visible} {c : Prop} [Decidable c] (h : sigCount g acc ≤ sigMax g)
    (hroom : ¬c → ¬sigMax v.sig ≤ sigCount v.sig acc) : sigCount g (if c then acc else acc ++ [v]) ≤ sigMax g := by
  split
  · exact h
  next hc =>
  have hroom := hroom hc
  unfold sigCount at *
  rw [List.filter_append, List.length_append]
  by_cases hv : v.sig = g
  · subst hv
    simp only [List.filter_cons_of_pos, beq_self_eq_true, List.filter_nil, List.length_singleton]
    omega
  · rwa [List.filter_cons_of_neg (by simpa using hv), List.filter_nil, List.length_nil, Nat.add_zero]

/-- The list of the signals wanted holds each within its maximum. -/
theorem State.wantedSigs_sigCount (s : State) (sats : List Visible) (g : Nat) : sigCount g (s.wantedSigs sats) ≤ sigMax g := by
  unfold State.wantedSigs
  extract_lets ok key ord full half res first room add
  have hres : res g ≤ sigMax g := by
    have := sigReserved_le_sigMax g
    unfold res
    split <;> omega
  have hfirst : sigCount g first ≤ sigMax g :=
    sigCount_flatMap_range _ (fun k v hv => by simpa using (List.mem_filter.1 (List.mem_of_mem_take hv)).2) 11
      ((List.length_take_le _ _).trans hres)
  have htake : sigCount g (first.take room) ≤ sigMax g := ((List.take_sublist room first).filter _).length_le.trans hfirst
  refine List.foldlRecOn (motive := fun acc => sigCount g acc ≤ sigMax g) ord add htake fun acc hacc v _ => sigCount_add hacc fun hc => ?_
  simp only [Bool.or_eq_true, not_or, decide_eq_true_eq] at hc
  exact hc.2

end

/-! The placement (R281, R291). -/

section
variable {v : Visible} {l : List Visible} {sats : List Visible} {almanacs : List Nat}

/-- Whether a channel is on a signal of some satellite. -/
def Chan.On (x : Chan) (v : Visible) : Prop := v.sig = x.sig ∧ v.svid = x.svid

theorem State.searchChan_on (s : State) (v : Visible) (old : Option Nat) : (s.searchChan v old).On v := by
  unfold State.searchChan
  extract_lets x
  split
  · exact ⟨rfl, rfl⟩
  · split <;> exact ⟨rfl, rfl⟩

/-- One signal placed goes on an idle channel, and the others stand. -/
theorem State.placeOne_chan (s : State) (v : Visible) (c : Nat) : (s.placeOne v).chan c = s.chan c ∨
    (s.chan c).st = .idle ∧ ((s.placeOne v).chan c).On v := by
  unfold State.placeOne
  extract_lets onIt
  split
  · exact .inl rfl
  · split
    · exact .inl rfl
    next k hfind =>
    by_cases hc : c = k ∧ k < s.gns.chans.length
    · obtain ⟨rfl, hlt⟩ := hc
      rw [State.chan_setChan_self _ hlt]
      exact .inr ⟨by simpa using List.find?_some hfind, s.searchChan_on v _⟩
    · refine .inl ?_
      by_cases hck : c = k
      · have hge : s.gns.chans.length ≤ k := Nat.le_of_not_lt fun hlt => hc ⟨hck, hlt⟩
        rw [State.setChan, updAt, List.modify_eq_self hge]
      · exact State.chan_setChan_ne _ hck

theorem State.placeOne_chansOnly (s : State) (v : Visible) : s.ChansOnly (s.placeOne v) := by
  unfold State.placeOne
  extract_lets onIt
  split
  · exact .refl s
  · split
    · exact .refl s
    · exact s.setChan_chansOnly _ _

/-- The signals of a list placed go on idle channels, and the others stand. -/
theorem State.placeAll_chan (l : List Visible) (s : State) (c : Nat) : (l.foldl (fun u v => u.placeOne v) s).chan c = s.chan c ∨
    (s.chan c).st = .idle ∧ ∃ v ∈ l, ((l.foldl (fun u v => u.placeOne v) s).chan c).On v := by
  induction l generalizing s with
  | nil => exact .inl rfl
  | cons v l ih =>
    rw [List.foldl_cons]
    obtain hrest | ⟨hidle, w, hw, hon⟩ := ih (s.placeOne v) <;> obtain hone | ⟨hfree, hv⟩ := s.placeOne_chan v c
    · exact .inl (hrest.trans hone)
    · exact .inr ⟨hfree, v, List.mem_cons_self, hrest ▸ hv⟩
    · exact .inr ⟨hone ▸ hidle, w, List.mem_cons_of_mem v hw, hon⟩
    · exact .inr ⟨hfree, w, List.mem_cons_of_mem v hw, hon⟩

/-- The state from which the signals wanted are told: the new almanacs taken, and the start settled. -/
def State.placementData (s : State) (almanacs : List Nat) (sats : List Visible) : State :=
  (({ s with gns := { s.gns with seen := sats } } : State).keepAlmanacs almanacs).settleStart sats

theorem State.placementData_eq (s : State) (almanacs : List Nat) (sats : List Visible) : s.placementData almanacs sats =
    { s with gns := { s.gns with start := (s.placementData almanacs sats).gns.start,
                                 startDue := (s.placementData almanacs sats).gns.startDue,
                                 startKind := (s.placementData almanacs sats).gns.startKind,
                                 alm := (s.placementData almanacs sats).gns.alm, seen := sats },
             fe := { s.fe with kept := (s.placementData almanacs sats).fe.kept } } := by
  unfold State.placementData State.settleStart
  extract_lets g
  split <;> rfl

/-- Whether the placement releases a channel: not on a signal wanted, or on an island retired with its carrier not locked. -/
def State.released (s : State) (want : List Visible) (i : Nat) (c : Chan) : Bool :=
  c.st != .idle && (!want.any (fun v => v.sig == c.sig && v.svid == c.svid) || (s.chanRetired i && !c.st.locked))

/-- The state with the channels released that the placement releases. -/
def State.withReleased (s : State) (want : List Visible) : State :=
  { s with gns := { s.gns with chans := s.gns.chans.mapIdx fun i c => if s.released want i c then Chan.reset else c } }

theorem State.placement_forms (hforms : s.gnsForms = true) (hfe : s.gns.feFail = false) (hidle : s.gns.scrRun = false) {r : State}
    (hr : s.placementData almanacs sats = r) : s.placement almanacs sats =
      if (r.withReleased (r.wantedSigs sats)).islandOut 6 then r.withReleased (r.wantedSigs sats)
      else (r.wantedSigs sats).foldl (fun u v => u.placeOne v) (r.withReleased (r.wantedSigs sats)) := by
  subst hr
  exact if_neg (by simp [hforms, hfe, hidle])

theorem State.withReleased_chansOnly (s : State) (want : List Visible) : s.ChansOnly (s.withReleased want) := rfl

theorem State.withReleased_chan (s : State) (want : List Visible) (c : Nat) :
    (s.withReleased want).chan c = if s.released want c (s.chan c) then Chan.reset else s.chan c := by
  by_cases hlt : c < s.gns.chans.length
  · exact getD_mapIdx_chan _ _ hlt
  · have hnone : s.chan c = Chan.reset := List.getD_eq_default _ _ (Nat.le_of_not_lt hlt)
    rw [hnone, ite_self]
    exact List.getD_eq_default _ _ (by rw [State.withReleased, List.length_mapIdx]; exact Nat.le_of_not_lt hlt)

theorem State.released_eq_false_iff {want : List Visible} {x : Chan} (h : x.st ≠ .idle) :
    s.released want c x = false ↔ (∃ v ∈ want, x.On v) ∧ (s.chanRetired c = false ∨ x.st.locked = true) := by
  cases hretired : s.chanRetired c <;> simp [State.released, Chan.On, h, hretired]

/-- The placement fills channels that it has released or that were idle with signals wanted, and touches the others not at all. -/
theorem State.placement_chans (hforms : s.gnsForms = true) (hfe : s.gns.feFail = false) (hidle : s.gns.scrRun = false) {r : State}
    (hr : s.placementData almanacs sats = r) : r.ChansOnly (s.placement almanacs sats) ∧
      ∀ c, (s.placement almanacs sats).chan c = (r.withReleased (r.wantedSigs sats)).chan c ∨
        ((r.withReleased (r.wantedSigs sats)).chan c).st = .idle ∧ ∃ v ∈ r.wantedSigs sats, ((s.placement almanacs sats).chan c).On v := by
  rw [State.placement_forms hforms hfe hidle hr]
  split
  · exact ⟨r.withReleased_chansOnly _, fun c => .inl rfl⟩
  · exact ⟨(r.withReleased_chansOnly _).trans (.foldl State.placeOne_chansOnly _ _), State.placeAll_chan _ _⟩

end

end

/-- Settles O34: the strobe by its TAC and by MEAS_RATE, and the placement by what it releases and then fills. -/
theorem epochsWriteRecordSetsAndPlacementFillsChannels : Obligations.EpochsWriteRecordSetsAndPlacementFillsChannels := by
  intro s
  refine ⟨fun code latch hlive hnear => ⟨fun hready => ?missed, fun hready => ?strobed⟩,
    fun almanacs sats hforms hfe hidle => ⟨?maxima, ?placed⟩⟩
  case missed => exact congrArg _ (State.epoch_missed hlive hnear hready)
  case strobed =>
    rw [exec_epochStrobe]
    have hlatched := s.latched_eq latch
    have hlength := s.latched_length latch
    have hfigures (l : ChanLatch) (hl : latch = [l]) (hbusy : (s.chan l.ch).st ≠ .idle) :
        (s.latched latch).chan l.ch = (s.chan l.ch).latch l := hl ▸ State.latched_single hbusy
    by_cases hms : s.strobe % nsPerSec % s.measStep = 0
    · obtain ⟨r, ⟨hcnt, hagcA, hagcB, htime, hchans⟩, hepoch⟩ := State.epoch_writes (code := code) (latch := latch) hlive hnear hready hms
      generalize s.latched latch = u at *
      have hword : u.word = s.word := by rw [hlatched]; rfl
      refine ⟨_, congrArg Host.Outcome.next hepoch, by rw [hlatched], by rw [hlatched], fun l hl hbusy hkept => ?_, fun _ => ?_,
        fun hne => absurd hms hne⟩
      · obtain ⟨hcn0, hcarrier, hdoppler, hst, htx, hhanded⟩ := Chan.latch_of_busy l hbusy
        rw [← hfigures l hl hbusy] at hcn0 hcarrier hdoppler hst htx hhanded
        obtain ⟨used, hrec⟩ := State.recorded_chan (s := u) (c := l.ch) (hlength ▸ State.chan_lt hbusy) (hhanded.trans hkept)
        rw [State.chan, hrec]
        exact ⟨hcn0, hcarrier, hdoppler, hst, htx⟩
      · have hgns : u.gns = { s.gns with chans := u.gns.chans } := by rw [hlatched]
        rw [hgns] at hcnt hagcA hagcB
        refine ⟨hcnt, r, rfl, hcnt, hagcA, hagcB, htime.trans (congrFun hword _), ?_, fun hwhole => ?_, fun hpart => ?_⟩
        · rw [hchans, State.usedChans, List.length_mapIdx, hlength]
        · exact ⟨(if_pos (decide_eq_true hwhole)).trans (by rw [hgns]), (if_pos (decide_eq_true hwhole)).trans (by rw [hgns])⟩
        · exact ⟨(if_neg (mt of_decide_eq_true hpart)).trans (by rw [hgns]), (if_neg (mt of_decide_eq_true hpart)).trans (by rw [hgns])⟩
    · rw [State.epoch_between hlive hnear hready hms]
      generalize s.latched latch = u at *
      have hgns : u.gns = { s.gns with chans := u.gns.chans } := by rw [hlatched]
      refine ⟨u, rfl, by rw [hlatched], by rw [hgns], fun l hl hbusy _ => ?_, fun h => absurd h hms, fun _ => ?_⟩
      · rw [hfigures l hl hbusy]
        obtain ⟨hcn0, hcarrier, hdoppler, hst, htx, -⟩ := Chan.latch_of_busy l hbusy
        exact ⟨hcn0, hcarrier, hdoppler, hst, htx⟩
      · rw [hgns]
        exact ⟨rfl, rfl, rfl⟩
  case maxima => exact fun g => (s.placementData almanacs sats).wantedSigs_sigCount sats g
  case placed =>
    obtain ⟨r, hr⟩ : ∃ r, s.placementData almanacs sats = r := ⟨_, rfl⟩
    obtain ⟨honly, hplaced⟩ := State.placement_chans hforms hfe hidle hr
    have hdata := s.placementData_eq almanacs sats
    rw [hr] at hdata
    have hchan (c : Nat) : r.chan c = s.chan c := by rw [hdata]; rfl
    have hretired (c : Nat) : r.chanRetired c = s.chanRetired c := by rw [hdata]; rfl
    have hkept (c : Nat) := r.withReleased_chan (r.wantedSigs sats) c
    simp only [hchan] at hkept
    rw [exec_channelPlacement]
    generalize s.placement almanacs sats = t at honly hplaced
    refine ⟨t, rfl, ?_, fun c hbusy => ?_, fun c v hv hbusy hsig hsvid hstay => ?_⟩
    · rw [show t = _ from honly, hdata]
    · change ∃ v ∈ (s.placementData almanacs sats).wantedSigs sats, (t.chan c).On v
      rw [hr]
      obtain hsame | ⟨-, hon⟩ := hplaced c
      · rw [hsame, hkept] at hbusy ⊢
        split at hbusy
        · exact absurd rfl hbusy
        next hrel =>
        rw [if_neg hrel]
        exact ((State.released_eq_false_iff hbusy).1 (Bool.not_eq_true _ ▸ hrel)).1
      · exact hon
    · change v ∈ (s.placementData almanacs sats).wantedSigs sats at hv
      rw [hr] at hv
      have hrel : r.released (r.wantedSigs sats) c (s.chan c) = false :=
        (State.released_eq_false_iff hbusy).2 ⟨⟨v, hv, hsig, hsvid⟩, by rwa [hretired]⟩
      have hsame := hkept c
      rw [if_neg (by simp [hrel])] at hsame
      obtain hstands | ⟨hfree, -⟩ := hplaced c
      · exact hstands.trans hsame
      · exact absurd (hsame ▸ hfree) hbusy

end Sys2Proof.Machine
end

section
/-! SUPPORT. What the selector leaves of the baseband when a monitor of a reference fails: the solution, the record set that waits, and the
integrity state. -/

namespace Sys2Proof.Machine

open Sys2Proof

/-- The solution, the record set that waits for Bodkin and the integrity state stand. -/
structure State.SolutionStands (s t : State) : Prop where
  sol : t.gns.sol = s.gns.sol
  setNew : t.gns.setNew = s.gns.setNew
  integ : t.gns.integ = s.gns.integ

section
variable {r s t : State}

theorem State.SolutionStands.of_gns (h : t.gns = s.gns) : s.SolutionStands t := by constructor <;> rw [h]

theorem State.SolutionStands.refl (s : State) : s.SolutionStands s := .of_gns rfl

theorem State.SolutionStands.trans (a : r.SolutionStands s) (b : s.SolutionStands t) : r.SolutionStands t :=
  ⟨b.sol.trans a.sol, b.setNew.trans a.setNew, b.integ.trans a.integ⟩

theorem State.SolutionStands.ite {a b : State} {c : Prop} [Decidable c] (ha : r.SolutionStands a) (hb : r.SolutionStands b) :
    r.SolutionStands (if c then a else b) := by
  split <;> assumption

end

/-! The step unit, Weft's holdover and the servo. -/

theorem State.stepStat_gns (s : State) (r : StepRec) (st code : Nat) : (s.stepStat r st code).gns = s.gns := by
  rw [s.stepStat_eq]

theorem State.cancelSlew_gns (s : State) : s.cancelSlew.gns = s.gns := by
  unfold State.cancelSlew State.bodkinStep State.stepIssue
  split
  · exact s.stepStat_gns _ 1 0
  · rfl

theorem State.freezeWeft_gns (s : State) (e0 : Rat) : (s.freezeWeft e0).gns = s.gns := by
  unfold State.freezeWeft
  split <;> rfl

theorem State.thawWeft_gns (s : State) : s.thawWeft.gns = s.gns := by
  unfold State.thawWeft
  split <;> rfl

theorem State.beginHold_gns (s : State) (y0 : Rat) : (s.beginHold y0).gns = s.gns := by
  unfold State.beginHold State.newHold
  split <;> exact State.freezeWeft_gns _ _

theorem State.beginSplice_solutionStands (s : State) (new : Option Nat) (elig : List Nat) (oldPasses again : Bool) :
    s.SolutionStands (s.beginSplice new elig oldPasses again) := by
  unfold State.beginSplice
  extract_lets b s1 temp _ v _ s2
  have hbridge : s.SolutionStands s1 :=
    .ite (.refl s) ((State.SolutionStands.of_gns s.cancelSlew_gns).trans ⟨rfl, rfl, rfl⟩)
  have hs2 : s.SolutionStands s2 := hbridge.trans ⟨rfl, rfl, rfl⟩
  split
  · exact hs2.trans (.of_gns (State.thawWeft_gns _))
  · refine .trans (hs2.trans ?_) (.of_gns (State.beginHold_gns _ _))
    exact ⟨rfl, rfl, rfl⟩

/-! The selector. -/

theorem State.markSel_solutionStands (s : State) (new : Option Nat) (reason : Nat) : s.SolutionStands (s.markSel new reason) := by
  unfold State.markSel
  extract_lets old s1 s2 _ sel _ md _ s3
  clear_value old
  have hold : s1.gns = s.gns := by
    unfold s1
    split
    · split <;> rfl
    · rfl
  have hnew : s2.gns = s1.gns := by
    unfold s2
    split <;> rfl
  have hs3 : s2.SolutionStands s3 := ⟨rfl, rfl, rfl⟩
  exact ((State.SolutionStands.of_gns (hnew.trans hold)).trans hs3).trans (.ite (.refl s3) (.of_gns (State.cause_gns _ 4)))

theorem State.switchTo_solutionStands (s : State) (new : Option Nat) (reason : Nat) (again : Bool) :
    s.SolutionStands (s.switchTo new reason again) :=
  (s.markSel_solutionStands new reason).trans (State.beginSplice_solutionStands _ _ _ _ _)

theorem State.dropInMaintain_solutionStands (s : State) (why : Nat) : s.SolutionStands (s.dropInMaintain why) := by
  unfold State.dropInMaintain
  split
  · exact .refl s
  · refine .ite (.refl s) (.trans ?_ (.of_gns (State.cause_gns _ 4)))
    exact ⟨rfl, rfl, rfl⟩

theorem State.offer_solutionStands (s : State) (w : Window) (want : Option Nat) (why : Nat) : s.SolutionStands (s.offer w want why) := by
  unfold State.offer
  refine .ite (.refl s) (.ite ⟨rfl, rfl, rfl⟩ (.trans ?_ (State.switchTo_solutionStands _ _ _ _)))
  exact ⟨rfl, rfl, rfl⟩

theorem State.choose_solutionStands (s : State) (why : Nat) : s.SolutionStands (s.choose why) := by
  unfold State.choose
  refine .ite (s.dropInMaintain_solutionStands why) (.ite (.refl s) ?_)
  split
  · exact s.offer_solutionStands _ _ _
  · exact .ite (.refl s) (s.switchTo_solutionStands _ _ _)

theorem State.monitorFails_solutionStands (s : State) (i : Nat) (mark : RefSt → RefSt) : s.SolutionStands (s.monitorFails i mark) := by
  have hdisq : s.SolutionStands (s.toDisq i mark) := .of_gns (by rw [(s.toDisq_visits i mark).frame.rest])
  unfold State.monitorFails
  exact .ite (.refl s) (.ite (hdisq.trans (State.choose_solutionStands _ 3)) hdisq)

end Sys2Proof.Machine
end

section
/-! SUPPORT. The checks of an epoch before its solution is delivered, and what they leave for the solution to be formed from. -/

namespace Sys2Proof.Machine

open Sys2Proof

/-- A later state in which a formation has the same solution: all from which that is formed beside the channels stands (R300 to R303). -/
structure State.SameData (s t : State) : Prop where
  act : t.act = s.act
  tb : t.tb = s.tb
  kept : t.fe.kept = s.fe.kept
  solMode : t.gns.solMode = s.gns.solMode

/-- What the checks of an epoch leave as it is: the data of its solution, the modes, and the record set that waits. -/
structure State.ChecksFrame (s t : State) : Prop extends s.SameData t where
  md : t.md = s.md
  setNew : t.gns.setNew = s.gns.setNew

section
variable {r s t : State}

theorem State.ChecksFrame.refl (s : State) : s.ChecksFrame s := ⟨⟨rfl, rfl, rfl, rfl⟩, rfl, rfl⟩

theorem State.ChecksFrame.trans (a : r.ChecksFrame s) (b : s.ChecksFrame t) : r.ChecksFrame t :=
  ⟨⟨b.act.trans a.act, b.tb.trans a.tb, b.kept.trans a.kept, b.solMode.trans a.solMode⟩, b.md.trans a.md, b.setNew.trans a.setNew⟩

theorem State.ChecksFrame.ite {a b : State} {c : Prop} [Decidable c] (ha : r.ChecksFrame a) (hb : r.ChecksFrame b) :
    r.ChecksFrame (if c then a else b) := by
  split <;> assumption

theorem State.ChecksFrame.foldlFst {α β : Type} {f : State × β → α → State × β} {l : List α} {p : State × β} (h : r.ChecksFrame p.1)
    (hf : ∀ p x, State.ChecksFrame p.1 (f p x).1) : r.ChecksFrame (l.foldl f p).1 := by
  induction l generalizing p with
  | nil => exact h
  | cons x l ih => exact ih (h.trans (hf p x))

theorem State.ChecksFrame.fst {β : Type} {x : β} {p : State × β} (e : p = (s, x)) (h : r.ChecksFrame p.1) : r.ChecksFrame s := by
  rw [e] at h
  exact h

/-- A change of the baseband alone, but for the mode of its solution and the record set that waits. -/
theorem State.ChecksFrame.ofGns {g : GnsSt} (hmode : g.solMode = s.gns.solMode) (hset : g.setNew = s.gns.setNew) :
    s.ChecksFrame { s with gns := g } := ⟨⟨rfl, rfl, rfl, hmode⟩, rfl, hset⟩

/-! What a solution is formed from. -/

theorem State.SameData.reg (h : s.SameData t) : t.reg = s.reg := by unfold State.reg; rw [h.act]

theorem State.SameData.fld (h : s.SameData t) : t.fld = s.fld := by unfold State.fld; rw [h.reg]

theorem State.SameData.bit (h : s.SameData t) : t.bit = s.bit := by unfold State.bit; rw [h.reg]

theorem State.SameData.pair (h : s.SameData t) : t.pair = s.pair := by unfold State.pair; rw [h.reg]

theorem State.SameData.holdPos (h : s.SameData t) : t.holdPos = s.holdPos := by unfold State.holdPos; rw [h.fld, h.reg, h.kept]

theorem State.SameData.sysToTai (h : s.SameData t) : t.sysToTai = s.sysToTai := by unfold State.sysToTai; rw [h.tb]

theorem State.SameData.resolveWeek (h : s.SameData t) : t.resolveWeek = s.resolveWeek := by
  unfold State.resolveWeek State.weekFloor
  rw [h.sysToTai, h.fld, h.kept]

theorem State.SameData.meas (h : s.SameData t) : t.meas = s.meas := by
  unfold State.meas State.txTai
  rw [h.pair, h.resolveWeek, h.kept]

theorem State.SameData.fit (h : s.SameData t) : t.fit = s.fit := by
  unfold State.fit State.measOf
  rw [h.meas, h.holdPos, h.solMode, h.fld]

theorem State.SameData.zOf (h : s.SameData t) : t.zOf = s.zOf := by
  unfold State.zOf State.utcShift
  rw [h.sysToTai, h.fld, h.bit, h.tb, h.kept]

end

/-! Exclusions (R324, R325). -/

theorem State.count_checksFrame (s : State) (off : Nat) : s.ChecksFrame (s.count off) := ⟨⟨rfl, rfl, rfl, rfl⟩, rfl, rfl⟩

/-- What FeRAM keeps of the baseband, for any log: stated apart, so that nothing compares the log with what it was. -/
theorem FeSt.kept_logged (fe : FeSt) (log : List LogRec) (nextSeq : Nat) : { fe with log := log, nextSeq := nextSeq }.kept = fe.kept := rfl

theorem State.logAs_kept (s : State) (m : Bool) (typ : Nat) (body : List Byte) : (s.logAs m typ body).fe.kept = s.fe.kept := by
  unfold State.logAs
  exact FeSt.kept_logged _ _ _

theorem State.log_checksFrame (s : State) (typ : Nat) (body : List Byte) : s.ChecksFrame (s.log typ body) := by
  unfold State.log
  exact .ite (.refl s) ⟨⟨by simp, by simp, s.logAs_kept _ _ _, by simp⟩, by simp, by simp⟩

theorem State.exclude_checksFrame (s : State) (sat : Bool) (sys svid bit : Nat) : s.ChecksFrame (s.exclude sat sys svid bit).1 := by
  unfold State.exclude
  extract_lets g
  split
  · exact .ofGns rfl rfl
  · split
    · exact .refl s
    · extract_lets s1 w
      have hs1 : s.ChecksFrame s1 := ⟨⟨rfl, rfl, rfl, rfl⟩, rfl, rfl⟩
      exact hs1.trans (s1.log_checksFrame _ _)

theorem State.excludeAll_checksFrame (s : State) (sat : Bool) (bit : Nat) (l : List SatId) : s.ChecksFrame (s.excludeAll sat bit l).1 :=
  .foldlFst (.refl s) fun p x => p.1.exclude_checksFrame sat x.sys x.svid bit

theorem State.exclTests_checksFrame (s : State) (fails : Excl → Bool) : s.ChecksFrame (s.exclTests fails) := .ofGns rfl rfl

/-! The tests (R326, R327). -/

theorem State.prdOne_checksFrame (s : State) (m : PrdMeas) : s.ChecksFrame (s.prdOne m).1 := by
  unfold State.prdOne
  extract_lets c bad h
  split
  · exact .ofGns rfl rfl
  · exact .refl s

theorem State.prdAll_checksFrame (s : State) (ms : List PrdMeas) : s.ChecksFrame (s.prdAll ms).1 := by
  unfold State.prdAll
  split
  · exact .ofGns rfl rfl
  · extract_lets r
    have hall : s.ChecksFrame r.1 := .foldlFst (.refl s) fun p m => p.1.prdOne_checksFrame m
    exact hall.trans (.ofGns rfl rfl)

theorem State.powerTest_checksFrame (s : State) : s.ChecksFrame s.powerTest := .ofGns rfl rfl

theorem State.isbTake_checksFrame (s : State) (t : Fit) (f : Form) (bc : List SysOffset) : s.ChecksFrame (s.isbTake t f bc) := .ofGns rfl rfl

theorem State.isbNone_checksFrame (s : State) (bc : List SysOffset) : s.ChecksFrame (s.isbNone bc) := .ofGns rfl rfl

theorem State.coast_checksFrame (s : State) (z : Int) : s.ChecksFrame (s.coast z) := by
  unfold State.coast
  split
  · exact .ite (.ofGns rfl rfl) (.ofGns rfl rfl)
  · exact .ofGns rfl rfl

/-! The integrity state and the channels' flags (R325, R328). -/

theorem State.integStep_checksFrame (s : State) (fail raimNone : Bool) : s.ChecksFrame (s.integStep fail raimNone) := by
  unfold State.integStep
  extract_lets g quiet g1 s1 _ s2
  have hs1 : s.ChecksFrame s1 := .ofGns rfl rfl
  have hs2 : s.ChecksFrame s2 := hs1.trans (.ofGns rfl rfl)
  exact .ite (.ite hs2 ((hs2.trans (s2.count_checksFrame _)).trans (State.log_checksFrame _ _ _))) (.ite (hs1.trans (.ofGns rfl rfl)) hs1)

theorem State.markChans_checksFrame (s : State) (used : List Nat) (set : RecSet) : s.ChecksFrame (s.markChans used set) := .ofGns rfl rfl

/-! The residuals (R301, R326). -/

/-- The formation that stands after the residual tests is of more measurements than unknowns, and has a solution. -/
theorem State.raim_some {s : State} {i : SolInput} {set : RecSet} {n : Nat} {gone : List SatId} {t : Fit} {f : Form}
    (h : (s.raim i set n gone).1 = some (t, f)) : f.unknowns < f.meas ∧ s.fit i set.time.t f = some t := by
  induction n generalizing gone with
  | zero =>
    unfold State.raim at h
    extract_lets tm g at h
    split at h
    · cases h
    next hmeas =>
    split at h
    · cases h
    next x hfit =>
    split at h
    · obtain ⟨rfl, rfl⟩ := Prod.mk.inj (Option.some.inj h)
      exact ⟨Nat.lt_of_not_le hmeas, hfit⟩
    · cases h
  | succ n ih =>
    unfold State.raim at h
    extract_lets tm g at h
    split at h
    · cases h
    next hmeas =>
    split at h
    · cases h
    next x hfit =>
    split at h
    · obtain ⟨rfl, rfl⟩ := Prod.mk.inj (Option.some.inj h)
      exact ⟨Nat.lt_of_not_le hmeas, hfit⟩
    · exact ih h

end Sys2Proof.Machine
end

section
/-! SUPPORT. A solution delivered, an epoch of Bodkin put together from its checks and its delivery, and the ends of the exclusions, of the
integrity states and of check-in sleep. -/

namespace Sys2Proof.Machine

open Sys2Proof

/-- What an epoch leaves as it is: the registers in force, the mode and Warp, and the record set that waits. -/
structure State.EpochFrame (s t : State) : Prop where
  act : t.act = s.act
  mode : t.md.mode = s.md.mode
  warp : t.tb.warp = s.tb.warp
  setNew : t.gns.setNew = s.gns.setNew

/-- What follows the delivery of a solution leaves that solution and the integrity state as well. -/
structure State.DeliveredFrame (s t : State) : Prop extends s.EpochFrame t where
  sol : t.gns.sol = s.gns.sol
  integ : t.gns.integ = s.gns.integ

section
variable {r s t : State}

theorem State.EpochFrame.trans (a : r.EpochFrame s) (b : s.EpochFrame t) : r.EpochFrame t :=
  ⟨b.act.trans a.act, b.mode.trans a.mode, b.warp.trans a.warp, b.setNew.trans a.setNew⟩

theorem State.EpochFrame.pair (h : s.EpochFrame t) : t.pair = s.pair := by unfold State.pair State.reg; rw [h.act]

theorem State.ChecksFrame.epochFrame (h : s.ChecksFrame t) : s.EpochFrame t := ⟨h.act, by rw [h.md], by rw [h.tb], h.setNew⟩

theorem State.DeliveredFrame.refl (s : State) : s.DeliveredFrame s := ⟨⟨rfl, rfl, rfl, rfl⟩, rfl, rfl⟩

theorem State.DeliveredFrame.trans (a : r.DeliveredFrame s) (b : s.DeliveredFrame t) : r.DeliveredFrame t :=
  ⟨a.toEpochFrame.trans b.toEpochFrame, b.sol.trans a.sol, b.integ.trans a.integ⟩

theorem State.DeliveredFrame.ite {a b : State} {c : Prop} [Decidable c] (ha : r.DeliveredFrame a) (hb : r.DeliveredFrame b) :
    r.DeliveredFrame (if c then a else b) := by
  split <;> assumption

theorem State.DeliveredFrame.foldl {α : Type} {f : State → α → State} (hf : ∀ u x, State.DeliveredFrame u (f u x)) (l : List α) (s : State) :
    s.DeliveredFrame (l.foldl f s) := by
  induction l generalizing s with
  | nil => exact .refl s
  | cons x l ih => exact (hf s x).trans (ih _)

/-- A change of the baseband but for its solution, the integrity state and the record set that waits, and of what FeRAM keeps of it. -/
theorem State.DeliveredFrame.ofGns {g : GnsSt} {fe : FeSt} (hset : g.setNew = s.gns.setNew) (hsol : g.sol = s.gns.sol)
    (hinteg : g.integ = s.gns.integ) : s.DeliveredFrame { s with gns := g, fe := fe } := ⟨⟨rfl, rfl, rfl, hset⟩, hsol, hinteg⟩

end

/-! Survey-in and position hold (R308, R309). -/

theorem State.surveyStart_deliveredFrame (s : State) : s.DeliveredFrame s.surveyStart := .ofGns rfl rfl rfl

theorem State.surveyLimit_deliveredFrame (s : State) : s.DeliveredFrame s.surveyLimit := .ite (.ofGns rfl rfl rfl) (.refl s)

theorem State.surveyStep_deliveredFrame (s : State) (p : Int × Int × Int) : s.DeliveredFrame (s.surveyStep p) := by
  unfold State.surveyStep
  extract_lets n sum sq _ s1 var smin acc
  have hs1 : s.DeliveredFrame s1 := .ofGns rfl rfl rfl
  exact hs1.trans (.ite (.ofGns rfl rfl rfl) s1.surveyLimit_deliveredFrame)

theorem State.holdCheck_deliveredFrame (s : State) (f : Form) (h p : Int × Int × Int) : s.DeliveredFrame (s.holdCheck f h p) := by
  unfold State.holdCheck
  extract_lets beyond l _ m tol far s1
  have hs1 : s.DeliveredFrame s1 := .ofGns rfl rfl rfl
  exact .ite (.ofGns rfl rfl rfl) (hs1.trans (.ite (.ofGns rfl rfl rfl) (.ite s1.surveyStart_deliveredFrame (.refl s1))))

theorem State.positionStep_deliveredFrame (s : State) (t : Fit) (f : Form) : s.DeliveredFrame (s.positionStep t f) := by
  unfold State.positionStep
  split
  · exact .ofGns rfl rfl rfl
  · extract_lets _ s1
    have hs1 : s.DeliveredFrame s1 := .ite (.refl s) (.ofGns rfl rfl rfl)
    exact hs1.trans (s1.surveyStep_deliveredFrame _)
  · exact s.holdCheck_deliveredFrame f _ _
  · refine .trans ?_ (State.holdCheck_deliveredFrame _ f _ _)
    exact .ofGns rfl rfl rfl
  · exact .ofGns rfl rfl rfl
  · exact .refl s

/-! Leap seconds (R135, R340). -/

theorem State.refreshLeap_deliveredFrame (s : State) : s.DeliveredFrame s.refreshLeap := ⟨⟨rfl, rfl, rfl, rfl⟩, rfl, rfl⟩

theorem State.takeLeaps_deliveredFrame (s : State) (sec : Nat) (l : List LeapAnn) : s.DeliveredFrame (s.takeLeaps sec l) := by
  unfold State.takeLeaps
  extract_lets hs clash _ s1 s2
  have hs1 : s.DeliveredFrame s1 := .ofGns rfl rfl rfl
  have hs2 : s1.DeliveredFrame s2 := by
    refine .foldl (fun u a => ?_) _ _
    split
    · exact ⟨⟨rfl, rfl, rfl, rfl⟩, rfl, rfl⟩
    · exact .refl u
  exact (hs1.trans hs2).trans s2.refreshLeap_deliveredFrame

theorem State.seedLeap_deliveredFrame (s : State) (sec : Nat) (l : List LeapAnn) : s.DeliveredFrame (s.seedLeap sec l) := by
  unfold State.seedLeap
  extract_lets ok
  split
  · refine .ite (.trans ?_ (State.refreshLeap_deliveredFrame _)) (.refl s)
    exact ⟨⟨rfl, rfl, rfl, rfl⟩, rfl, rfl⟩
  · exact .refl s

/-! What a valid solution brings and keeps (R191, R305, R309, R327, R332). -/

theorem State.qAnchor_deliveredFrame (s : State) (z : Int) : s.DeliveredFrame (s.qAnchor z) := .ofGns rfl rfl rfl

theorem State.keepSol_deliveredFrame (s : State) (t : Fit) : s.DeliveredFrame (s.keepSol t) := .ofGns rfl rfl rfl

theorem State.chkTake_deliveredFrame (s : State) (z : Int) : s.DeliveredFrame (s.chkTake z) := by
  unfold State.chkTake
  split
  · exact .ite (.ofGns rfl rfl rfl) (.refl s)
  · exact .refl s

theorem State.count_deliveredFrame (s : State) (off : Nat) : s.DeliveredFrame (s.count off) := ⟨⟨rfl, rfl, rfl, rfl⟩, rfl, rfl⟩

theorem State.monitorFails_deliveredFrame (s : State) (i : Nat) (mark : RefSt → RefSt) : s.DeliveredFrame (s.monitorFails i mark) :=
  have ⟨hmode, hact, _, hwarp, _⟩ := s.monitorFails_stands i mark
  have hstands := s.monitorFails_solutionStands i mark
  ⟨⟨hact, hmode, hwarp, hstands.setNew⟩, hstands.sol, hstands.integ⟩

/-- The phase that another source delivers is judged, and at most fails the monitor of its reference. -/
theorem State.refMeasure_phase_deliveredFrame (s : State) (i : Nat) (z : Int) : s.DeliveredFrame (s.refMeasure i (.phase z)) := by
  have hset (f : RefSt → RefSt) : s.DeliveredFrame (s.setRef i f) := ⟨⟨rfl, rfl, rfl, rfl⟩, rfl, rfl⟩
  unfold State.refMeasure State.judge
  exact .ite (.ite ((hset _).trans (State.monitorFails_deliveredFrame _ _ _)) (hset _)) (.refl s)

theorem State.baseline_deliveredFrame (s : State) : s.DeliveredFrame s.baseline := .ite (.refl s) (.ofGns rfl rfl rfl)

theorem State.chkWindow_deliveredFrame (s : State) : s.DeliveredFrame s.chkWindow :=
  .ite (.refl s) (.ite (.ofGns rfl rfl rfl) (.ite (.ofGns rfl rfl rfl) (.refl s)))

theorem State.applyMute_deliveredFrame (s : State) : s.DeliveredFrame s.applyMute := by
  have honly : s.applyMute = { s with out := s.applyMute.out } := s.applyMute_outputsOnly
  rw [honly]
  exact ⟨⟨rfl, rfl, rfl, rfl⟩, rfl, rfl⟩

/-! The delivery (R303, R305). -/

section
variable {s : State} {x : Fit} {f : Form} {i : SolInput} {usable valid : Bool} {e z : Int}

theorem State.solRegs_epochFrame (s : State) (x : Fit) (f : Form) (e z : Int) (valid : Bool) : s.EpochFrame (s.solRegs x f e z valid) :=
  ⟨rfl, rfl, rfl, rfl⟩

theorem State.solRegs_sol (s : State) (x : Fit) (f : Form) (e z : Int) (valid : Bool) : (s.solRegs x f e z valid).gns.sol.nsat = f.sats.length ∧
    (s.solRegs x f e z valid).gns.sol.z = satS 64 z ∧ (s.solRegs x f e z valid).gns.sol.gtePs = s.gteOf x ∧
    (s.solRegs x f e z valid).gns.integ = s.gns.integ := ⟨rfl, rfl, rfl, rfl⟩

theorem State.noSolution_epochFrame (s : State) : s.EpochFrame s.noSolution := ⟨rfl, rfl, rfl, rfl⟩

/-- The state after an epoch with a valid solution: q anchored where it is due, and what the solution brings and keeps. -/
def State.brought (s : State) (x : Fit) (f : Form) (i : SolInput) (sec : Nat) (z : Int) : State :=
  let s1 := if s.gns.qDue && s.gns.integ != .failed then s.qAnchor z else s
  ((((((s1.keepSol x).positionStep x f).takeLeaps sec i.leaps).seedLeap sec i.seed).chkTake z).count (gnsCtr 0)).refMeasure 8 (.phase z)

theorem State.brought_deliveredFrame (s : State) (x : Fit) (f : Form) (i : SolInput) (sec : Nat) (z : Int) :
    s.DeliveredFrame (s.brought x f i sec z) := by
  unfold State.brought
  extract_lets s1
  have hanchor : s.DeliveredFrame s1 := .ite (s.qAnchor_deliveredFrame z) (.refl s)
  have hposition := (s1.keepSol_deliveredFrame x).trans (State.positionStep_deliveredFrame _ x f)
  have hleaps (u : State) : u.DeliveredFrame ((u.takeLeaps sec i.leaps).seedLeap sec i.seed) :=
    (u.takeLeaps_deliveredFrame sec i.leaps).trans (State.seedLeap_deliveredFrame _ sec i.seed)
  have hcounted (u : State) : u.DeliveredFrame ((u.chkTake z).count (gnsCtr 0)) :=
    (u.chkTake_deliveredFrame z).trans (State.count_deliveredFrame _ (gnsCtr 0))
  exact (((hanchor.trans hposition).trans (hleaps _)).trans (hcounted _)).trans (State.refMeasure_phase_deliveredFrame _ 8 z)

/-- Whether a formed solution is delivered as valid (R305). -/
def State.delivers (s : State) (x : Fit) (f : Form) (i : SolInput) (usable : Bool) : Bool :=
  usable && decide (s.gteOf x ≤ (s.reg 0x9005C).toNat * 1000) && s.gns.integ != .failed && s.timeKnown f i

theorem State.deliver_eq (s : State) (x : Fit) (f : Form) (i : SolInput) (usable : Bool) (e z : Int) : s.deliver x f i usable e z =
    if s.delivers x f i usable then (s.solRegs x f e z true).brought x f i ((e + z) / snsPerSec).toNat z
    else (s.solRegs x f e z false).noSolution.seedLeap ((e + z) / snsPerSec).toNat i.seed := by
  unfold State.deliver
  cases h : s.delivers x f i usable <;> unfold State.delivers at h <;> rw [h] <;> rfl

theorem State.deliver_epochFrame (s : State) (x : Fit) (f : Form) (i : SolInput) (usable : Bool) (e z : Int) :
    s.EpochFrame (s.deliver x f i usable e z) := by
  rw [State.deliver_eq]
  split
  · exact (s.solRegs_epochFrame x f e z true).trans (State.brought_deliveredFrame _ x f i _ z).toEpochFrame
  · exact (s.solRegs_epochFrame x f e z false).trans
      ((State.noSolution_epochFrame _).trans (State.seedLeap_deliveredFrame _ _ _).toEpochFrame)

/-- A solution that stands as valid was usable, within GTE_MAX and outside FAILED, and is the one formed. -/
theorem State.deliver_valid (h : (s.deliver x f i usable e z).gns.sol.valid = true) : usable = true ∧
    s.gteOf x ≤ (s.reg 0x9005C).toNat * 1000 ∧ s.gns.integ ≠ .failed ∧
      (s.solRegs x f e z true).DeliveredFrame (s.deliver x f i usable e z) := by
  rw [State.deliver_eq] at h ⊢
  split at h
  next hdel =>
    rw [if_pos hdel]
    simp only [State.delivers, Bool.and_eq_true, decide_eq_true_eq, bne_iff_ne] at hdel
    obtain ⟨⟨⟨husable, hgte⟩, hinteg⟩, -⟩ := hdel
    exact ⟨husable, hgte, hinteg, State.brought_deliveredFrame _ x f i _ z⟩
  · rw [(State.seedLeap_deliveredFrame _ _ _).sol] at h
    cases h

end

/-! An epoch (R323). -/

/-- An epoch brought to its end, with a formation that stands or with none. -/
def State.concluded (s : State) (i : SolInput) (set : RecSet) (held : Bool) : Option (Fit × Form) → State
  | some (x, f) => s.deliver x f i (set.flags % 2 == 0 && !held) (set.time.t / snsPerSec * snsPerSec : Nat) (s.zOf x (set.time.t - s.pair 0x90068))
  | none => s.noSolution

theorem State.integMonitor_epochFrame (s : State) : s.EpochFrame s.integMonitor ∧ s.integMonitor.gns.integ = s.gns.integ := by
  have hframe : s.DeliveredFrame s.integMonitor := .ite (s.monitorFails_deliveredFrame 8 _) (.refl s)
  exact ⟨hframe.toEpochFrame, hframe.integ⟩

theorem State.integMonitor_standing {s : State} (h : s.gns.integ ≠ .failed) : s.integMonitor = s := if_neg (by simpa using h)

/-- The integrity state after the checks, its monitor, and the flags that follow; outside FAILED the monitor does nothing. -/
theorem State.judged_frame (s : State) (fail raimNone : Bool) (bad : Excl → Bool) (used : List Nat) (set : RecSet) :
    s.EpochFrame ((((s.integStep fail raimNone).integMonitor).exclTests bad).markChans used set) ∧
    (((((s.integStep fail raimNone).integMonitor).exclTests bad).markChans used set).gns.integ ≠ .failed →
      s.ChecksFrame ((((s.integStep fail raimNone).integMonitor).exclTests bad).markChans used set)) := by
  have hstep := s.integStep_checksFrame fail raimNone
  generalize s.integStep fail raimNone = u at hstep ⊢
  have hflags := (u.integMonitor.exclTests_checksFrame bad).trans (State.markChans_checksFrame _ used set)
  obtain ⟨hmonitor, hinteg⟩ := u.integMonitor_epochFrame
  refine ⟨(hstep.epochFrame.trans hmonitor).trans hflags.epochFrame, fun hok => ?_⟩
  have hflagsInteg : (((u.integMonitor).exclTests bad).markChans used set).gns.integ = u.integMonitor.gns.integ := rfl
  rw [hflagsInteg, hinteg] at hok
  rw [State.integMonitor_standing hok] at hflags ⊢
  exact hstep.trans hflags

/-- A state to which an epoch leads from one with the new data kept: its checks, of which the residuals leave a formation or none, and its
end. -/
def State.Staged (s : State) (i : SolInput) (set : RecSet) (held : Bool) (t : State) : Prop := ∃ (pre checked : State) (n : Nat),
  s.ChecksFrame pre ∧ s.EpochFrame checked ∧ (checked.gns.integ ≠ .failed → s.ChecksFrame checked) ∧
    t = (checked.concluded i set held (pre.raim i set n []).1).baseline

theorem State.solve_staged (s : State) (i : SolInput) (set : RecSet) (held : Bool) : (s.keepData i).Staged i set held (s.solve i set held) := by
  unfold State.solve
  generalize s.keepData i = b
  extract_lets tm e sec _ weeks
  split
  next s1 f1 hx1 =>
  have h1 : b.ChecksFrame s1 := .fst hx1 (b.excludeAll_checksFrame false 3 weeks)
  split
  next s2 prd hx2 =>
  have h2 : b.ChecksFrame s2 := h1.trans (.fst hx2 (s1.prdAll_checksFrame i.prd))
  split
  next s3 f2 hx3 =>
  have h3 : b.ChecksFrame s3 := h2.trans (.fst hx3 (s2.excludeAll_checksFrame true 0 prd))
  extract_lets s4
  have h4 : b.ChecksFrame s4 := h3.trans s3.powerTest_checksFrame
  clear_value s4
  split
  next sol gone rf hraim =>
  split
  next s5 f3 hx5 =>
  have h5 : b.ChecksFrame s5 := h4.trans (.fst hx5 (s4.excludeAll_checksFrame true 1 gone))
  extract_lets raimNone _ s6 ta s7
  have h6 : b.ChecksFrame s6 := h5.trans (.ofGns rfl rfl)
  have h7 : b.ChecksFrame s7 := by
    unfold s7
    split
    · exact h6.trans (s6.isbTake_checksFrame _ _ _)
    · exact h6.trans (s6.isbNone_checksFrame _)
  clear_value s7
  split
  next isbF isbFail out hisb =>
  split
  next s8 f4 hx8 =>
  have h8 : b.ChecksFrame s8 := h7.trans (.fst hx8 (s7.excludeAll_checksFrame false 2 out))
  extract_lets _ s9 s10 fail s11 s12 s13
  have h9 : b.ChecksFrame s9 := h8.trans (.ofGns rfl rfl)
  have h10 : b.ChecksFrame s10 := by
    unfold s10
    split
    · exact h9.trans (s9.coast_checksFrame _)
    · exact h9
  obtain ⟨hepoch, hstands⟩ : s10.EpochFrame s12 ∧ (s12.gns.integ ≠ .failed → s10.ChecksFrame s12) := s10.judged_frame fail raimNone _ _ set
  have hta : ta = set.time.t - s12.pair 0x90068 := by rw [(h10.epochFrame.trans hepoch).pair, ← h6.pair]
  have hend : s13 = s12.concluded i set held sol := by
    cases sol <;> simp only [s13, State.concluded, hta, e, tm]
  exact ⟨s4, s12, _, h4, h10.epochFrame.trans hepoch, fun hok => h10.trans (hstands hok), by rw [hraim, hend]⟩

/-- What the solution in force after an epoch from `s` is, where it is valid (R301 to R305). -/
structure State.DeliversValid (s : State) (i : SolInput) (set : RecSet) (held : Bool) (t : State) : Prop where
  notHeld : held = false
  scale : set.flags % 2 = 0
  integ : t.gns.integ ≠ .failed
  gteMin : 1000 ≤ t.gns.sol.gtePs
  gteMax : t.gns.sol.gtePs ≤ (s.reg 0x9005C).toNat * 1000
  formed : ∃ (f : Form) (x : Fit), f.unknowns < f.meas ∧ s.fit i set.time.t f = some x ∧ t.gns.sol.nsat = f.sats.length ∧
    t.gns.sol.z = satS 64 (s.zOf x (set.time.t - s.pair 0x90068))

theorem State.DeliversValid.of_sameData {r s t : State} {i : SolInput} {set : RecSet} {held : Bool} (h : s.DeliversValid i set held t)
    (hdata : r.SameData s) : r.DeliversValid i set held t := by
  obtain ⟨hheld, hscale, hinteg, hmin, hmax, hformed⟩ := h
  rw [hdata.reg] at hmax
  rw [hdata.fit, hdata.zOf, hdata.pair] at hformed
  exact ⟨hheld, hscale, hinteg, hmin, hmax, hformed⟩

/-- What follows a delivery leaves it valid. -/
theorem State.DeliversValid.of_deliveredFrame {s t u : State} {i : SolInput} {set : RecSet} {held : Bool} (h : s.DeliversValid i set held t)
    (hframe : t.DeliveredFrame u) : s.DeliversValid i set held u := by
  obtain ⟨hheld, hscale, hinteg, hmin, hmax, hformed⟩ := h
  rw [← hframe.sol] at hmin hmax hformed
  exact ⟨hheld, hscale, hframe.integ ▸ hinteg, hmin, hmax, hformed⟩

/-- What an epoch leaves as it is, and what its solution is where it is valid. -/
theorem State.Staged.spec {s t : State} {i : SolInput} {set : RecSet} {held : Bool} (h : s.Staged i set held t) :
    s.EpochFrame t ∧ (t.gns.sol.valid = true → s.DeliversValid i set held t) := by
  obtain ⟨pre, checked, n, hpre, hepoch, hstands, rfl⟩ := h
  have hbase := (checked.concluded i set held (pre.raim i set n []).1).baseline_deliveredFrame
  cases hsol : (pre.raim i set n []).1 with
  | none =>
    rw [hsol] at hbase
    refine ⟨(hepoch.trans checked.noSolution_epochFrame).trans hbase.toEpochFrame, fun hvalid => ?_⟩
    rw [hbase.sol] at hvalid
    cases hvalid
  | some xf =>
    obtain ⟨x, f⟩ := xf
    obtain ⟨hmeas, hfit⟩ := State.raim_some hsol
    rw [hsol] at hbase
    refine ⟨(hepoch.trans (State.deliver_epochFrame ..)).trans hbase.toEpochFrame, fun hvalid => ?_⟩
    rw [hbase.sol] at hvalid
    obtain ⟨husable, hgte, hinteg, hdel⟩ := State.deliver_valid hvalid
    have hframe := hstands hinteg
    have hall := hdel.trans hbase
    rw [Bool.and_eq_true, beq_iff_eq, Bool.not_eq_true'] at husable
    obtain ⟨hnsat, hz, hgtePs, hstate⟩ := checked.solRegs_sol x f (set.time.t / snsPerSec * snsPerSec : Nat)
      (checked.zOf x (set.time.t - checked.pair 0x90068)) true
    rw [← hall.sol] at hnsat hz hgtePs
    refine ⟨husable.2, husable.1, by rw [hall.integ, hstate]; exact hinteg, ?_, ?_, f, x, hmeas, by rw [← hpre.fit]; exact hfit, hnsat, ?_⟩
    · rw [hgtePs]
      exact le_max_left _ _
    · rw [hgtePs, ← hframe.reg]
      exact hgte
    · rw [hz, hframe.zOf, hframe.pair]

/-! Bodkin's epoch (R296, R305, R325). -/

/-- The state in which an epoch begins: q summed up to now, and, in a mode that serves, a second of the exclusions gone by. -/
def State.epochBegun (s : State) : State := if s.md.mode.serving then s.qAccrue.exclTick else s.qAccrue

theorem State.epochBegun_eq (s : State) : s.epochBegun = { s with gns := { s.gns with
    qFreq := s.epochBegun.gns.qFreq, qAt := s.epochBegun.gns.qAt, excls := s.epochBegun.gns.excls } } := by
  unfold State.epochBegun
  split <;> rfl

/-- The set that waits taken, or the epoch counted as one without a solution. -/
def State.epochTaken (s : State) (i : SolInput) : Option (RecSet × Bool) → State
  | some (set, held) => ({ s with gns := { s.gns with setNew := none } } : State).solve i set held
  | none => (s.exclTests fun _ => true).noSolution

theorem State.gnssSolution_awake {s : State} (i : SolInput) (hrun : s.md.mode.running = true) (hgo : s.fmu.halted = false)
    (hawake : s.gns.asleep = false) : s.gnssSolution i = (s.epochBegun.epochTaken i s.gns.setNew).surveyLimit.chkWindow.applyMute := by
  have hbegun := s.epochBegun_eq
  have hmd : s.epochBegun.md = s.md := by rw [hbegun]
  have hmaint : s.md.mode ≠ .maintain := fun h => by rw [h] at hrun; cases hrun
  have hawake' : s.epochBegun.gns.asleep = false := by rw [hbegun]; exact hawake
  have hgo' : s.epochBegun.fmu.halted = false := by rw [hbegun]; exact hgo
  have hset : s.epochBegun.gns.setNew = s.gns.setNew := by rw [hbegun]
  have hstart : (if s.qAccrue.md.mode.serving then s.qAccrue.exclTick else s.qAccrue) = s.epochBegun := rfl
  rw [← hset]
  simp only [State.gnssSolution, hstart]
  rw [if_neg (by rw [hmd]; exact mt beq_iff_eq.1 hmaint), if_neg (by simp [hmd, hrun, hgo']), if_neg (by simp [hawake'])]
  cases s.epochBegun.gns.setNew <;> rfl

/-- An epoch with a set leaves none waiting, and its solution, where valid, is formed from what the state before it holds. -/
theorem State.epochTaken_some (s : State) (i : SolInput) (set : RecSet) (held : Bool) :
    State.EpochFrame { s with gns := { s.gns with setNew := none } } (s.epochBegun.epochTaken i (some (set, held))) ∧
    ((s.epochBegun.epochTaken i (some (set, held))).gns.sol.valid = true →
      (s.keepData i).DeliversValid i set held (s.epochBegun.epochTaken i (some (set, held)))) := by
  obtain ⟨hframe, hvalid⟩ := (State.solve_staged { s.epochBegun with gns := { s.epochBegun.gns with setNew := none } } i set held).spec
  have hbegun := s.epochBegun_eq
  have htaken : s.epochBegun.epochTaken i (some (set, held)) =
    State.solve { s.epochBegun with gns := { s.epochBegun.gns with setNew := none } } i set held := rfl
  rw [htaken]
  refine ⟨.trans ?_ hframe, fun h => (hvalid h).of_sameData ?_⟩
  · rw [hbegun]
    exact ⟨rfl, rfl, rfl, rfl⟩
  · rw [hbegun]
    exact ⟨rfl, rfl, rfl, rfl⟩

/-- An epoch without a set counts as one without a solution. -/
theorem State.epochTaken_none (s : State) (i : SolInput) : s.EpochFrame (s.epochBegun.epochTaken i none) ∧
    (s.epochBegun.epochTaken i none).gns.sol = { s.gns.sol with valid := false } ∧
    (s.epochBegun.epochTaken i none).gns.noSol = s.gns.noSol + 1 ∧ (s.epochBegun.epochTaken i none).ref = s.ref := by
  rw [s.epochBegun_eq]
  exact ⟨⟨rfl, rfl, rfl, rfl⟩, rfl, rfl, rfl⟩

/-- The end of an epoch leaves the count of epochs without solution and the references. -/
theorem State.epochEnd_spec (s : State) : s.DeliveredFrame s.surveyLimit.chkWindow.applyMute ∧
    s.surveyLimit.chkWindow.applyMute.gns.noSol = s.gns.noSol ∧ s.surveyLimit.chkWindow.applyMute.ref = s.ref := by
  have hlimit : s.surveyLimit.gns.noSol = s.gns.noSol ∧ s.surveyLimit.ref = s.ref := by
    unfold State.surveyLimit
    split <;> exact ⟨rfl, rfl⟩
  have hwindow : s.surveyLimit.chkWindow.gns.noSol = s.surveyLimit.gns.noSol ∧ s.surveyLimit.chkWindow.ref = s.surveyLimit.ref := by
    unfold State.chkWindow
    split
    · exact ⟨rfl, rfl⟩
    · split
      · exact ⟨rfl, rfl⟩
      · split <;> exact ⟨rfl, rfl⟩
  have honly := s.surveyLimit.chkWindow.applyMute_outputsOnly
  refine ⟨(s.surveyLimit_deliveredFrame.trans (State.chkWindow_deliveredFrame _)).trans (State.applyMute_deliveredFrame _), ?_, ?_⟩
  · rw [honly.gns, hwindow.1, hlimit.1]
  · rw [show s.surveyLimit.chkWindow.applyMute = _ from honly, hwindow.2, hlimit.2]

/-! Exclusions and the integrity state in their time (R325, R328). -/

section
variable {s : State}

theorem State.exclExpire_passed {k : Nat} {x : Excl} (hforms : s.gnsForms = true) (hget : Assoc.get k s.gns.excls = some x)
    (hremain : x.remain = 0) (hpass : 60 ≤ x.passS) :
    s.exclExpire k = { s with gns := { s.gns with excls := Assoc.del k s.gns.excls } } := by
  simp [State.exclExpire, hget, hforms, hremain, hpass]

theorem State.integClear_due {at_ : Nat} (hforms : s.gnsForms = true) (hclear : s.gns.clearSince = some at_) (hinteg : s.gns.integ = .failed)
    (hdue : at_ + s.fld 0x90088 11 0 * nsPerSec ≤ s.now) :
    s.integClear = { s with gns := { s.gns with integ := .caution, qDue := true, qAnch := false } } := by
  simp [State.integClear, hclear, hforms, hinteg, hdue]

theorem State.integGood_due {at_ : Nat} (hforms : s.gnsForms = true) (hgood : s.gns.goodSince = some at_) (hinteg : s.gns.integ = .caution)
    (hnone : s.gns.excls = []) (hdue : at_ + 60 * nsPerSec ≤ s.now) : s.integGood = { s with gns := { s.gns with integ := .good } } := by
  simp [State.integGood, hgood, hforms, hinteg, hnone, hdue]

/-! Check-in sleep (R330 to R333). -/

section
variable {at_ : Nat} (hwin : s.gns.winAt = some at_) (hawake : s.gns.asleep = false) (hdue : at_ + s.fld 0x90090 28 17 * nsPerSec ≤ s.now)
include hwin hawake hdue

/-- At the end of its window, which is judged, a baseband that may sleep is put to sleep, with every channel released. -/
theorem State.chkSleep_sleeps (hwants : s.chkWants = true) : ∃ (z : Int) (fail : Bool) (kept : Kept), s.chkSleep = { s with
    gns := { s.gns with chkZ := z, chkFail := fail, chkNosol := s.gns.chkNosol || decide (s.gns.chkN < 30), asleep := true, wakeDue := false,
                        scrRun := false, scrWait := none, chans := List.replicate 192 Chan.reset },
    fe := { s.fe with kept := kept } } := by
  have hcycle : s.chkCycle = true := Bool.and_elim_left (Bool.and_elim_left hwants)
  simp only [State.chkSleep, hwin]
  rw [if_neg (by simp [hawake, hcycle, hdue]), if_neg (by simp [hwants])]
  exact ⟨_, _, _, rfl⟩

/-- The window of one that may not yet sleep is judged and dropped. -/
theorem State.chkSleep_drops (hcycle : s.chkCycle = true) (hstay : s.chkWants = false) : ∃ (z : Int) (fail : Bool), s.chkSleep = { s with
    gns := { s.gns with chkZ := z, chkFail := fail, chkNosol := s.gns.chkNosol || decide (s.gns.chkN < 30), winAt := none } } := by
  simp only [State.chkSleep, hwin]
  rw [if_neg (by simp [hawake, hcycle, hdue]), if_pos (by simp [hstay])]
  exact ⟨_, _, rfl⟩

end

theorem State.chkWake_due {at_ : Nat} (hwin : s.gns.winAt = some at_) (hasleep : s.gns.asleep = true)
    (hdue : at_ + s.fld 0x90090 16 0 * nsPerSec ≤ s.now) (hsec : s.nsNow = 0) : s.chkWake = (s.wake (some s.now)).count (gnsCtr 6) := by
  simp [State.chkWake, hwin, hasleep, hdue, hsec]

theorem State.chkEarly_due (hasleep : s.gns.asleep = true) (hwake : s.gns.wakeDue = true) (hsec : s.nsNow = 0) : s.chkEarly = s.wake none :=
  if_pos (by simp [hasleep, hwake, hsec])

end

theorem exec_gnssSolution (s : State) (i : SolInput) : exec (.gnssSolution i) s = .next (s.gnssSolution i) := rfl

/-- Settles O35: an epoch by whether a set waits, then each end of an exclusion, a state and a sleep by its instant. -/
theorem solutionsAreDeliveredOnlyWhenValid : Obligations.SolutionsAreDeliveredOnlyWhenValid := by
  intro s
  refine ⟨fun i hrun hgo hawake => ?epoch, fun hforms => ⟨fun k x hget hremain hpass => ?expired, fun at_ hclear hinteg hdue => ?cleared,
    fun at_ hgood hinteg hnone hdue => ?good⟩, fun at_ hwin => ⟨fun hawake hwants hdue => ?asleep, fun hawake hcycle hstay hdue => ?dropped,
    fun hasleep hdue hsec => ?woken⟩, fun hasleep hwake hsec => ?early⟩
  case epoch =>
    rw [exec_gnssSolution, State.gnssSolution_awake i hrun hgo hawake]
    cases hset : s.gns.setNew with
    | none =>
      obtain ⟨hepoch, hsol, hcount, href⟩ := s.epochTaken_none i
      obtain ⟨hend, hcount', href'⟩ := (s.epochBegun.epochTaken i none).epochEnd_spec
      obtain ⟨hact, hmode, hwarp, hnone⟩ := hepoch.trans hend.toEpochFrame
      exact ⟨_, rfl, hnone.trans hset, hact, hmode, hwarp,
        fun _ => ⟨hend.sol.trans hsol, hcount'.trans hcount, href'.trans href⟩, fun _ _ h => by cases h⟩
    | some waiting =>
      obtain ⟨set, held⟩ := waiting
      obtain ⟨hepoch, hvalid⟩ := s.epochTaken_some i set held
      obtain ⟨hend, -, -⟩ := (s.epochBegun.epochTaken i (some (set, held))).epochEnd_spec
      obtain ⟨hact, hmode, hwarp, hnone⟩ := hepoch.trans hend.toEpochFrame
      refine ⟨_, rfl, hnone, hact, hmode, hwarp, fun h => (by cases h), fun set' held' hwaits hsol => ?_⟩
      cases hwaits
      obtain ⟨hheld, hscale, hinteg, hmin, hmax, hformed⟩ := (hvalid (hend.sol ▸ hsol)).of_deliveredFrame hend
      exact ⟨hheld, hscale, hinteg, hmin, hmax, hformed⟩
  case expired => exact congrArg Host.Outcome.next (State.exclExpire_passed hforms hget hremain hpass)
  case cleared => exact congrArg Host.Outcome.next (State.integClear_due hforms hclear hinteg hdue)
  case good => exact congrArg Host.Outcome.next (State.integGood_due hforms hgood hinteg hnone hdue)
  case asleep =>
    obtain ⟨z, fail, kept, hsleep⟩ := State.chkSleep_sleeps hwin hawake hdue hwants
    exact ⟨_, congrArg Host.Outcome.next hsleep, rfl, rfl, rfl, fun hfew => by simp [hfew], hwin⟩
  case dropped =>
    obtain ⟨z, fail, hdrop⟩ := State.chkSleep_drops hwin hawake hdue hcycle hstay
    exact ⟨_, congrArg Host.Outcome.next hdrop, rfl, hawake, rfl, fun hfew => by simp [hfew], rfl⟩
  case woken =>
    exact ⟨_, congrArg Host.Outcome.next (State.chkWake_due hwin hasleep hdue hsec), rfl, rfl, rfl, rfl, rfl, rfl, State.ctrAt_count_self _ _⟩
  case early => exact ⟨_, congrArg Host.Outcome.next (State.chkEarly_due hasleep hwake hsec), rfl, rfl, rfl, rfl, rfl, rfl, rfl⟩

end Sys2Proof.Machine
end

section
/-! SUPPORT. What counting a frame on its line leaves of its port and of all else, and a port changed twice. -/

namespace Sys2Proof.Machine

open Sys2Proof

/-! Ports. -/

theorem State.setPort_setPort (s : State) (n : Nat) (f g : PortSt → PortSt) : (s.setPort n f).setPort n g = s.setPort n (g ∘ f) := by
  unfold State.setPort updAt
  dsimp only
  rw [List.modify_modify_eq]

/-- A port read after a change of it: changed, or, of a number that the part does not have, as it was. -/
theorem State.port_setPort_or (s : State) (n : Nat) (f : PortSt → PortSt) :
    (s.setPort n f).port n = f (s.port n) ∨ (s.setPort n f).port n = s.port n := by
  by_cases hn : n < s.ports.length
  · exact .inl (State.port_setPort_self f hn)
  · refine .inr ?_
    unfold State.port
    rw [State.setPort_ports, updAt, List.modify_eq_self (Nat.le_of_not_lt hn)]

theorem State.up_lt {s : State} {n : Nat} (h : (s.port n).link = true) : n < s.ports.length :=
  State.port_lt (·.link) (by simp [h, PortSt.reset])

/-! The line (R380, R384, R628). -/

/-- A port without the record of what has passed on its line. -/
def PortSt.offLine (p : PortSt) : PortSt := { p with rxLog := [], txLog := [], lowSince := none }

/-- Counting on the line moves the counters, the bandwidth windows, and of the ports the record of their line. -/
structure State.LineCounted (s t : State) : Prop where
  rest : t = { s with ports := t.ports, ctr := t.ctr, pmc := t.pmc }
  offLine : t.ports.map PortSt.offLine = s.ports.map PortSt.offLine

section
variable {r s t : State}

theorem State.LineCounted.refl (s : State) : s.LineCounted s := ⟨rfl, rfl⟩

theorem State.LineCounted.trans (a : r.LineCounted s) (b : s.LineCounted t) : r.LineCounted t :=
  ⟨by rw [b.rest, a.rest], b.offLine.trans a.offLine⟩

theorem State.LineCounted.countN (h : r.LineCounted s) (off k : Nat) : r.LineCounted (s.countN off k) := h.trans ⟨rfl, rfl⟩

theorem State.setPort_lineCounted (s : State) (n : Nat) {f : PortSt → PortSt} (hf : ∀ p, (f p).offLine = p.offLine) :
    s.LineCounted (s.setPort n f) := ⟨rfl, updAt_map_of_keeps hf _ _⟩

/-- Octets on a line go into the window of the port and its record of one direction. -/
theorem State.lineLoad_eq (s : State) (n octets : Nat) (rx : Bool) : ∃ window l, ∃ busy : Bool, s.lineLoad n octets rx =
    (s.setBw n window).setPort n fun p => { p with
      rxLog := if rx then l else p.rxLog, txLog := if rx then p.txLog else l, lowSince := if busy then some s.now else p.lowSince } :=
  ⟨_, _, _, rfl⟩

theorem State.lineLoad_lineCounted (s : State) (n octets : Nat) (rx : Bool) : s.LineCounted (s.lineLoad n octets rx) := by
  obtain ⟨window, l, busy, h⟩ := s.lineLoad_eq n octets rx
  have hbw : s.LineCounted (s.setBw n window) := ⟨rfl, rfl⟩
  rw [h]
  exact hbw.trans (State.setPort_lineCounted _ n (by intro p; rfl))

/-- What is not on the line's record reads of a port as before. -/
theorem State.LineCounted.field {α : Type} (h : s.LineCounted t) (f : PortSt → α) (hf : ∀ p : PortSt, f p.offLine = f p) (n : Nat) :
    f (t.port n) = f (s.port n) := by
  have hport : ∀ u : State, (u.port n).offLine = (u.ports.map PortSt.offLine).getD n PortSt.reset :=
    fun u => (List.getD_map u.ports PortSt.reset PortSt.offLine).symm
  rw [← hf, hport, h.offLine, ← hport, hf]

theorem State.LineCounted.length (h : s.LineCounted t) : t.ports.length = s.ports.length := by
  simpa using congrArg List.length h.offLine

theorem State.LineCounted.poolFree (h : s.LineCounted t) : t.poolFree = s.poolFree := by
  have hcells : ∀ u : State, (u.ports.map fun p => p.pool + p.txCells) = (u.ports.map PortSt.offLine).map fun p => p.pool + p.txCells :=
    fun u => by rw [List.map_map]; rfl
  unfold State.poolFree
  rw [hcells, h.offLine, ← hcells]

theorem State.LineCounted.poolAdmits (h : s.LineCounted t) (n cells : Nat) : t.poolAdmits n cells = s.poolAdmits n cells := by
  have hreg : t.reg = s.reg := by rw [h.rest]; rfl
  unfold State.poolAdmits State.fld
  rw [h.poolFree, hreg, h.field (·.pool) (fun _ => rfl)]

theorem State.controlFrame_lineCounted (s : State) (n : Nat) : s.LineCounted (s.controlFrame n) := by
  unfold State.controlFrame
  split
  · exact ((s.lineLoad_lineCounted n 84 true).countN _ 1).countN _ 64
  · exact .refl s

end

end Sys2Proof.Machine
end

section
/-! SUPPORT. Stops, PAUSE and PFC frames received and sent, XOFF and XON, and both watchdogs. -/

namespace Sys2Proof.Machine

open Sys2Proof

theorem exec_pauseReceive (s : State) (n q : Nat) : exec (.pauseReceive n q) s = .next ((s.controlFrame n).pauseIn n q) := rfl

theorem exec_pfcReceive (s : State) (n : Nat) (e : BitVec 8) (quanta : List Nat) :
    exec (.pfcReceive n e quanta) s = .next ((s.controlFrame n).pfcIn n e.toNat quanta) := rfl

theorem exec_pauseExpire (s : State) (n : Nat) (prio : Option Nat) : exec (.pauseExpire n prio) s = .next (s.pauseEnd n prio) := rfl

theorem exec_pauseWatchdog (s : State) (n : Nat) (prio : Option Nat) : exec (.pauseWatchdog n prio) s = .next (s.pauseWatch n prio) := rfl

theorem exec_xoffRepeat (s : State) (n : Nat) : exec (.xoffRepeat n) s = .next (s.xoffAgain n) := rfl

theorem exec_xonSend (s : State) (n : Nat) : exec (.xonSend n) s = .next (s.xonSend n) := rfl

theorem exec_xoffWatchdog (s : State) (n : Nat) : exec (.xoffWatchdog n) s = .next (s.xoffWatch n) := rfl

theorem exec_holdoffExpire (s : State) (n : Nat) (prio : Option Nat) (rx : Bool) :
    exec (.holdoffExpire n prio rx) s = .next (s.holdoffEnd n prio rx) := rfl

section
variable {s : State} {n : Nat} {prio : Option Nat}

/-! Stops (R368, R371). -/

theorem Stop.take_obeyed {x : Stop} {now speed q : Nat} (hhold : x.holdoff = none) (hq : 0 < q) :
    x.take now speed q = { x with on := true, until_ := now + quantaNs speed q, since := if x.live now then x.since else now } := by
  unfold Stop.take
  rw [if_neg (by simp [hhold]), if_neg (by omega)]

theorem PortSt.reset_stops (k : Nat) : PortSt.reset.stops.getD k Stop.reset = Stop.reset := by
  show (List.replicate 8 Stop.reset).getD k Stop.reset = Stop.reset
  rw [List.getD_eq_getElem?_getD, List.getElem?_replicate]
  split <;> rfl

/-- A stop that is on is one of a port that the part has. -/
theorem State.stopAt_lt (hon : (s.stopAt n prio).on = true) : n < s.ports.length := by
  cases prio with
  | none => exact State.port_lt (·.pause.on) fun h => Bool.noConfusion (hon.symm.trans h)
  | some k => exact State.port_lt (fun p => (p.stops.getD k Stop.reset).on) fun h =>
      Bool.noConfusion (hon.symm.trans (h.trans (congrArg Stop.on (PortSt.reset_stops k))))

/-- It is one of the port's own, which changed reads as changed. -/
theorem State.stopAt_setStop (f : Stop → Stop) (hon : (s.stopAt n prio).on = true) : (s.setStop n prio f).stopAt n prio = f (s.stopAt n prio) := by
  have hn : n < s.ports.length := State.stopAt_lt hon
  cases prio with
  | none => exact congrArg PortSt.pause (State.port_setPort_self _ hn)
  | some k =>
    have hk : k < (s.port n).stops.length := by
      by_contra hk
      exact Bool.noConfusion (hon.symm.trans (congrArg Stop.on (List.getD_eq_default _ _ (Nat.le_of_not_lt hk))))
    unfold State.setStop State.stopAt
    dsimp only
    rw [State.port_setPort_self _ hn]
    simp [updAt, List.getD_eq_getElem?_getD, hk]

/-! Received frames (R368, R397). -/

theorem State.pauseIn_ignored {q : Nat} (h : s.pauseRx n = false) : s.pauseIn n q = s.count (macCtr n 12) :=
  if_neg (ne_true_of_eq_false h)

theorem State.pauseIn_obeyed {q : Nat} (h : s.pauseRx n = true) (hhold : (s.port n).pause.holdoff = none) (hq : 0 < q) :
    s.pauseIn n q = (s.count (macCtr n 12)).setPort n fun p => { p with pause := { p.pause with
      on := true, until_ := s.now + quantaNs p.speed q, since := if p.pause.live s.now then p.pause.since else s.now } } :=
  (if_pos h).trans (State.setPort_congr (congrArg (fun x => { s.port n with pause := x }) (Stop.take_obeyed hhold hq)))

/-- Whether a PFC frame stops a priority: it is set in the frame's vector and in PFC_EN. -/
def State.pfcStops (s : State) (n enable k : Nat) : Bool := enable / 2 ^ k % 2 == 1 && s.pfcEn n / 2 ^ k % 2 == 1

theorem State.pfcStops_eq_false {enable k : Nat} (h : enable / 2 ^ k % 2 = 0 ∨ s.pfcEn n / 2 ^ k % 2 = 0) : s.pfcStops n enable k = false := by
  rcases h with h | h <;> simp [State.pfcStops, h]

/-- What a PFC frame makes of the stop of a priority. -/
def State.pfcStop (s : State) (n enable : Nat) (quanta : List Nat) (k : Nat) (x : Stop) : Stop :=
  if s.pfcStops n enable k then x.take s.now (s.port n).speed (quanta.getD k 0) else x

theorem State.pfcIn_eq (s : State) (n enable : Nat) (quanta : List Nat) : s.pfcIn n enable quanta =
    (s.count (macCtr n 12)).setPort n fun p => { p with stops := p.stops.mapIdx (s.pfcStop n enable quanta) } := State.setPort_congr rfl

theorem State.pfcIn_port (s : State) (n enable : Nat) (quanta : List Nat) : (s.pfcIn n enable quanta).port n =
    { s.port n with stops := (s.port n).stops.mapIdx (s.pfcStop n enable quanta) } ∨ (s.pfcIn n enable quanta).port n = s.port n := by
  rw [State.pfcIn_eq]
  exact State.port_setPort_or (s.count (macCtr n 12)) n _

variable {enable k : Nat}

theorem State.pfcIn_pause (enable : Nat) (quanta : List Nat) : ((s.pfcIn n enable quanta).port n).pause = (s.port n).pause := by
  obtain h | h := s.pfcIn_port n enable quanta <;> rw [h]

theorem State.pfcIn_passed (quanta : List Nat) (h : s.pfcStops n enable k = false) :
    (s.pfcIn n enable quanta).stopAt n (some k) = s.stopAt n (some k) := by
  unfold State.stopAt
  dsimp only
  obtain hport | hport := s.pfcIn_port n enable quanta
  · rw [hport, List.getD_eq_getElem?_getD, List.getElem?_mapIdx, List.getD_eq_getElem?_getD]
    cases (s.port n).stops[k]? with
    | none => rfl
    | some x => exact if_neg (ne_true_of_eq_false h)
  · rw [hport]

theorem State.pfcIn_stopped (quanta : List Nat) (h : s.pfcStops n enable k = true) (hn : n < s.ports.length)
    (hk : k < (s.port n).stops.length) :
    (s.pfcIn n enable quanta).stopAt n (some k) = (s.stopAt n (some k)).take s.now (s.port n).speed (quanta.getD k 0) := by
  unfold State.stopAt
  dsimp only
  rw [State.pfcIn_eq, State.port_setPort_self (s := s.count (macCtr n 12)) _ hn,
    List.getD_eq_getElem _ _ (by rw [List.length_mapIdx]; exact hk), List.getElem_mapIdx, List.getD_eq_getElem _ _ hk]
  exact if_pos h

/-! The end of a stop, by its time and by its watchdog (R371, R600). -/

theorem State.pauseEnd_ran (hon : (s.stopAt n prio).on = true) (hran : (s.stopAt n prio).until_ ≤ s.now) :
    s.pauseEnd n prio = s.setStop n prio fun x => { x with on := false } := if_pos (by simp [hon, hran])

theorem State.log_eq (s : State) (typ : Nat) (body : List Byte) :
    s.log typ body = { s with ctr := (s.log typ body).ctr, fe := (s.log typ body).fe } := by
  unfold State.log
  split <;> rfl

theorem State.log_nextSeq (s : State) (typ : Nat) (body : List Byte) :
    (s.log typ body).fe.nextSeq = s.fe.nextSeq + (if s.fmu.halted then 0 else 1) := by
  unfold State.log
  split <;> rfl

/-- A stop that the watchdog ends: off, and in hold-off from now. -/
def Stop.ended (now : Nat) (x : Stop) : Stop := { x with on := false, holdoff := some now }

/-- A port with PAUSE_STORM shown. -/
def PortSt.stormed (p : PortSt) : PortSt := { p with pauseStorm := true }

theorem State.pauseWatch_ends (hon : (s.stopAt n prio).on = true) (hlive : s.now < (s.stopAt n prio).until_)
    (hran : (s.stopAt n prio).since + s.pauseWd n ≤ s.now) : s.pauseWatch n prio =
      ((((s.setStop n prio (Stop.ended s.now)).setPort n PortSt.stormed).count (macCtr n 14)).logPause n 0
        (prio.getD 0xFF)) := if_pos (by simp [Stop.live, hon, hlive, hran])

theorem State.stopAt_setPort {f : PortSt → PortSt} (hpause : ∀ p, (f p).pause = p.pause) (hstops : ∀ p, (f p).stops = p.stops) :
    (s.setPort n f).stopAt n prio = s.stopAt n prio := by
  unfold State.stopAt
  obtain h | h := s.port_setPort_or n f <;> simp only [h, hpause, hstops]

/-- What the watchdog's end of a stop leaves: the stop in hold-off, PAUSE_STORM, and one log record more while Bodkin runs. -/
theorem State.pauseWatch_spec (hon : (s.stopAt n prio).on = true) (hlive : s.now < (s.stopAt n prio).until_)
    (hran : (s.stopAt n prio).since + s.pauseWd n ≤ s.now) :
    let t := s.pauseWatch n prio
    t.stopAt n prio = (s.stopAt n prio).ended s.now ∧ (t.port n).pauseStorm = true ∧
      t = { s with ports := t.ports, ctr := t.ctr, fe := t.fe } ∧ t.fe.nextSeq = s.fe.nextSeq + (if s.fmu.halted then 0 else 1) := by
  intro t
  have hn : n < s.ports.length := State.stopAt_lt hon
  have ht : t = _ := State.pauseWatch_ends hon hlive hran
  have hports : t.ports = ((s.setStop n prio (Stop.ended s.now)).setPort n PortSt.stormed).ports := by
    rw [ht, State.logPause, State.log_ports]
    rfl
  have hport : t.port n = ((s.setStop n prio (Stop.ended s.now)).setPort n PortSt.stormed).port n :=
    congrArg (·.getD n PortSt.reset) hports
  refine ⟨?stop, ?storm, ?rest, ?record⟩
  case stop =>
    have hstop : t.stopAt n prio = ((s.setStop n prio (Stop.ended s.now)).setPort n PortSt.stormed).stopAt n prio := by
      unfold State.stopAt
      rw [hport]
    exact hstop.trans ((State.stopAt_setPort (f := PortSt.stormed) (fun _ => rfl) (fun _ => rfl)).trans (State.stopAt_setStop _ hon))
  case storm =>
    rw [hport, State.port_setPort_self _ (by simpa [State.setStop] using hn)]
    rfl
  case rest => rw [ht, State.logPause, State.log_eq]; rfl
  case record => rw [ht, State.logPause, State.log_nextSeq]; rfl

/-! Frames sent (R370, R378). -/

/-- A frame as the queue of a port takes it: stored where the pool has room and no frame before it waits. -/
def State.placed (s : State) (n : Nat) (e : EgFrame) : EgFrame :=
  { e with stored := decide (cellsOf e.bytes.length ≤ s.poolFree) && (s.port n).eg.all (·.stored) }

/-- A port with a frame more in its queue. -/
def PortSt.queued (e : EgFrame) (p : PortSt) : PortSt := { p with eg := p.eg ++ [e] }

theorem State.queueFrame_up (e : EgFrame) (hup : (s.port n).link = true) : s.queueFrame n e = s.setPort n (PortSt.queued (s.placed n e)) :=
  (if_pos hup).trans (State.setPort_congr rfl)

/-- The vector of the MAC control frames that a port sends: none in a PAUSE frame. -/
def State.xVector (s : State) (n : Nat) : Nat := if s.pauseTx n then 0 else s.pfcEn n

/-- XOFF or XON queued at a port whose link is up, with the change that follows it. -/
theorem State.sendX_setPort (time : Nat) (f : PortSt → PortSt) (hup : (s.port n).link = true) :
    (s.sendX n time).setPort n f = s.setPort n (f ∘ PortSt.queued (s.placed n (s.xFrame n (s.xVector n) time))) := by
  unfold State.sendX
  rw [State.queueFrame_up _ hup, State.setPort_setPort]
  rfl

variable {at_ : Nat}

theorem State.xoffAgain_due (hxoff : (s.port n).xoff = some at_) (hup : (s.port n).link = true)
    (hdue : (s.port n).xoffSent + quantaNs (s.port n).speed 0x8000 ≤ s.now) :
    s.xoffAgain n = s.setPort n ((fun p => { p with xoffSent := s.now }) ∘ PortSt.queued (s.placed n (s.xFrame n (s.xVector n) 0xFFFF))) :=
  (if_pos (by simp [hxoff, hdue])).trans (State.sendX_setPort _ _ hup)

theorem State.xoffAgain_early (hearly : s.now < (s.port n).xoffSent + quantaNs (s.port n).speed 0x8000) : s.xoffAgain n = s :=
  if_neg (by simp [hearly])

theorem State.xonSend_free (hxoff : (s.port n).xoff = some at_) (hup : (s.port n).link = true) (hreserve : (s.port n).reserve = 0)
    (hroom : s.poolAdmits n (cellsOf (s.maxFrm n - 4)) = true) :
    s.xonSend n = s.setPort n ((fun p => { p with xoff := none }) ∘ PortSt.queued (s.placed n (s.xFrame n (s.xVector n) 0))) :=
  (if_pos (by simp [hxoff, hreserve, hroom])).trans (State.sendX_setPort _ _ hup)

/-- A port whose XOFF its watchdog ends. -/
def PortSt.xoffEnded (now : Nat) (p : PortSt) : PortSt := { p with xoff := none, xoffHold := some now, xoffStorm := true }

theorem State.xoffWatch_ends (hxoff : (s.port n).xoff = some at_) (hup : (s.port n).link = true) (hran : at_ + s.pauseWd n ≤ s.now) :
    ∃ prio, s.xoffWatch n =
      ((s.setPort n (PortSt.xoffEnded s.now ∘ PortSt.queued (s.placed n (s.xFrame n (s.xVector n) 0)))).count (macCtr n 14)).logPause n 1 prio := by
  simp only [State.xoffWatch, hxoff, if_pos hran]
  rw [State.sendX_setPort _ _ hup]
  exact ⟨_, rfl⟩

/-! The end of a hold-off (R371). -/

theorem State.holdoffEnd_stop (hhold : (s.stopAt n prio).holdoff = some at_) (hran : at_ + s.holdoff n ≤ s.now) :
    s.holdoffEnd n prio true = s.setStop n prio fun x => { x with holdoff := none } := by
  unfold State.holdoffEnd
  rw [if_pos rfl, hhold]
  exact if_pos (decide_eq_true hran)

theorem State.holdoffEnd_xoff (hhold : (s.port n).xoffHold = some at_) (hran : at_ + s.holdoff n ≤ s.now) :
    s.holdoffEnd n prio false = s.setPort n fun p => { p with xoffHold := none } := by
  unfold State.holdoffEnd
  rw [if_neg Bool.false_ne_true, hhold]
  exact if_pos (decide_eq_true hran)

end

/-! The bytes of a MAC control frame (R370). -/

@[simp] theorem beBytes_length (n v : Nat) : (beBytes n v).length = n := by simp [beBytes]

theorem padFrame_length {bs : List Byte} (h : bs.length ≤ 60) : (padFrame bs).length = 60 := by
  unfold padFrame
  split
  · simp [padTo, zeros]; omega
  · omega

theorem slice_padFrame {bs : List Byte} {i n : Nat} (h : i + n ≤ bs.length) : slice (padFrame bs) i n = slice bs i n := by
  unfold padFrame
  split
  · have hwhole : padTo 60 bs = bs ++ zeros (60 - bs.length) := List.take_of_length_le (by simp [zeros]; omega)
    rw [hwhole, slice_append_left _ h]
  · rfl

theorem ethHdr_length (dst src et : Nat) : (ethHdr dst src [] et).length = 14 := by simp [ethHdr]

/-- A header without tags: its destination first, and its EtherType last. -/
theorem ethHdr_slices (dst src et : Nat) :
    slice (ethHdr dst src [] et) 0 6 = beBytes 6 dst ∧ slice (ethHdr dst src [] et) 12 2 = beBytes 2 et := by
  constructor
  · unfold ethHdr
    rw [List.append_assoc, List.append_assoc, slice_append_left _ (by simp)]
    exact slice_whole _
  · have hlast := slice_append_right (beBytes 6 dst ++ beBytes 6 src ++ ([] : List (Nat × Nat)).flatMap fun t => beBytes 2 t.1 ++ beBytes 2 t.2)
      (beBytes 2 et) 0 2
    simp only [List.length_append, beBytes_length, List.flatMap_nil, List.length_nil] at hlast
    exact hlast.trans (slice_whole _)

/-- What follows the header of a MAC control frame: its code and its times. -/
def controlBody (pfc time : Nat) : List Byte :=
  if pfc = 0 then beBytes 2 1 ++ beBytes 2 time
  else beBytes 2 0x0101 ++ beBytes 2 pfc ++ (List.range 8).flatMap fun k => beBytes 2 (if pfc / 2 ^ k % 2 = 1 then time else 0)

theorem controlBody_length (pfc time : Nat) : 4 ≤ (controlBody pfc time).length ∧ (controlBody pfc time).length ≤ 20 := by
  unfold controlBody
  split <;> simp [List.length_flatMap]

theorem State.xFrame_bytes (s : State) (n pfc time : Nat) :
    (s.xFrame n pfc time).bytes = padFrame (ethHdr 0x0180C2000001 (s.macAddr n) [] 0x8808 ++ controlBody pfc time) := rfl

theorem State.xFrame_slices (s : State) (n pfc time : Nat) :
    slice (s.xFrame n pfc time).bytes 0 6 = [0x01, 0x80, 0xC2, 0, 0, 1] ∧ slice (s.xFrame n pfc time).bytes 12 2 = [0x88, 0x08] ∧
      (s.xFrame n pfc time).bytes.length = 60 ∧ (pfc = 0 → slice (s.xFrame n pfc time).bytes 14 4 = [0, 1] ++ beBytes 2 time) := by
  have hhdr := ethHdr_length 0x0180C2000001 (s.macAddr n) 0x8808
  obtain ⟨hdst, htype⟩ := ethHdr_slices 0x0180C2000001 (s.macAddr n) 0x8808
  obtain ⟨hlo, hhi⟩ := controlBody_length pfc time
  have hcut {i k : Nat} (h : i + k ≤ 18) : slice (s.xFrame n pfc time).bytes i k =
      slice (ethHdr 0x0180C2000001 (s.macAddr n) [] 0x8808 ++ controlBody pfc time) i k := by
    rw [State.xFrame_bytes]
    exact slice_padFrame (by rw [List.length_append, hhdr]; omega)
  refine ⟨?dst, ?type, ?length, fun hpause => ?body⟩
  case dst => rw [hcut (by decide), slice_append_left _ (by omega), hdst]; decide
  case type => rw [hcut (by decide), slice_append_left _ (by omega), htype]; decide
  case length => rw [State.xFrame_bytes, padFrame_length]; rw [List.length_append, hhdr]; omega
  case body =>
    have hbody := slice_append_right (ethHdr 0x0180C2000001 (s.macAddr n) [] 0x8808) (controlBody pfc time) 0 4
    rw [hhdr] at hbody
    rw [hcut (by decide), hbody, controlBody, if_pos hpause]
    exact slice_whole _

/-- Settles O37: a frame received by whether it is obeyed, a stop by its time and its watchdog, XOFF by its instants, and the hold-offs. -/
theorem pausesStopAndTheirWatchdogsRelease : Obligations.PausesStopAndTheirWatchdogsRelease := by
  intro s n c put
  have hline : s.LineCounted (s.controlFrame n) := s.controlFrame_lineCounted n
  have hreg : (s.controlFrame n).reg = s.reg := by rw [hline.rest]; rfl
  have hrx : (s.controlFrame n).pauseRx n = s.pauseRx n := by unfold State.pauseRx State.bit; rw [hreg]
  have hen : (s.controlFrame n).pfcEn n = s.pfcEn n := by unfold State.pfcEn State.fld; rw [hreg]
  have hnow : (s.controlFrame n).now = s.now := by rw [hline.rest]
  have hstops : ((s.controlFrame n).port n).stops = (s.port n).stops := hline.field (·.stops) (fun _ => rfl) n
  have hpause : ((s.controlFrame n).port n).pause = (s.port n).pause := hline.field (·.pause) (fun _ => rfl) n
  refine ⟨fun q hoff => ?ignored, fun q hon hhold hq => ?obeyed, fun e quanta k hk => ?pfc, fun prio hon => ⟨fun hran => ?expired,
    fun hlive hran => ?watched⟩,
    fun at_ hxoff hup => ⟨fun hdue => ?again, fun hearly => ?early, fun hreserve hroom => ?xon, fun hran => ?storm⟩,
    fun pfc time => s.xFrame_slices n pfc time, fun prio at_ hhold hran => ?stopHeld, fun prio at_ hhold hran => ?xoffHeld⟩
  case ignored => rw [exec_pauseReceive, State.pauseIn_ignored (hrx.trans hoff)]; rfl
  case obeyed =>
    rw [exec_pauseReceive, State.pauseIn_obeyed (hrx.trans hon) (by rw [hpause]; exact hhold) hq, hnow]
    rfl
  case pfc =>
    have hstop : (s.controlFrame n).stopAt n (some k) = s.stopAt n (some k) := congrArg (·.getD k Stop.reset) hstops
    have hrest : (s.controlFrame n).pfcIn n e.toNat quanta = { s.controlFrame n with
      ports := ((s.controlFrame n).pfcIn n e.toNat quanta).ports, ctr := ((s.controlFrame n).pfcIn n e.toNat quanta).ctr } := rfl
    refine ⟨_, exec_pfcReceive s n e quanta, by rw [hrest, hline.rest], (State.pfcIn_pause _ _).trans hpause, fun hout => ?_,
      fun hvec hcfg hlen hport hhold hq => ?_⟩
    · rw [State.pfcIn_passed quanta (State.pfcStops_eq_false (by rwa [hen])), hstop]
    · rw [State.pfcIn_stopped quanta (by simp [State.pfcStops, hen, hvec, hcfg]) (by rwa [hline.length]) (by rwa [hstops]),
        Stop.take_obeyed (by rw [hstop]; exact hhold) hq, hnow, hline.field (·.speed) (fun _ => rfl)]
      exact ⟨rfl, rfl⟩
  case expired => rw [exec_pauseExpire, State.pauseEnd_ran hon hran]
  case watched => exact ⟨_, exec_pauseWatchdog s n prio, State.pauseWatch_spec hon hlive hran⟩
  case again => rw [exec_xoffRepeat, State.xoffAgain_due hxoff hup hdue]; rfl
  case early => rw [exec_xoffRepeat, State.xoffAgain_early hearly]
  case xon =>
    exact ⟨_, by rw [exec_xonSend, State.xonSend_free hxoff hup hreserve hroom], rfl, State.port_setPort_self _ (State.up_lt hup)⟩
  case storm =>
    obtain ⟨prio, hends⟩ := State.xoffWatch_ends hxoff hup hran
    refine ⟨_, exec_xoffWatchdog s n, ?_, ?_⟩
    · rw [hends, State.logPause, State.log_eq]; rfl
    · rw [hends, State.logPause, State.port, State.log_ports]
      exact State.port_setPort_self _ (State.up_lt hup)
  case stopHeld => rw [exec_holdoffExpire, State.holdoffEnd_stop hhold hran]
  case xoffHeld => rw [exec_holdoffExpire, State.holdoffEnd_xoff hhold hran]

end Sys2Proof.Machine
end

section
/-! SUPPORT. A frame received: the line, the Stake's time, the checks of the MAC in their order, and a time request taken to its context. -/

namespace Sys2Proof.Machine

open Sys2Proof

theorem exec_frameReceive (s : State) (n : Nat) (f : RxFrame) : exec (.frameReceive n f) s = .next (s.frameIn n f) := rfl

section
variable {s : State} {n : Nat} {f : RxFrame}

/-! The line (R376, R397, R628). -/

/-- The state in which a frame has been counted on the line of its port. -/
def State.frameLine (s : State) (n : Nat) (f : RxFrame) : State :=
  (((s.lineLoad n (f.bytes.length + 20) true).countN (macCtr n 16) f.fragments).countN (macCtr n 23)
    (if (s.port n).fec then f.fecCorr else 0)).countN (macCtr n 24) (if (s.port n).fec then f.fecUncorr else 0)

theorem State.frameLine_lineCounted (s : State) (n : Nat) (f : RxFrame) : s.LineCounted (s.frameLine n f) :=
  (((s.lineLoad_lineCounted n _ true).countN _ _).countN _ _).countN _ _

theorem State.frameIn_broken (hup : (s.port n).link = true) (hasm : f.asmErr = true) :
    s.frameIn n f = (s.frameLine n f).count (macCtr n 17) :=
  (if_neg (by simp [hup])).trans (if_pos hasm)

theorem State.frameIn_whole (hup : (s.port n).link = true) (hasm : f.asmErr = false) : s.frameIn n f = (s.frameLine n f).frameStake n f :=
  (if_neg (by simp [hup])).trans (if_neg (ne_true_of_eq_false hasm))

/-! The Stake (R403, R406, R408). -/

theorem StkSt.noTime_iff (k : StkSt) (word : Nat) :
    k.noTime word = true ↔ k.dropped word = true ∨ (k.locked = false ∧ ∀ d, k.drop = some d → d.1 < word) := by
  unfold StkSt.noTime
  cases k.drop <;> simp

theorem State.frameStake_untimed (hn : n < 4) (htime : (s.port n).stk.noTime f.word = true) : s.frameStake n f = s.count (stkCtr n 3) :=
  (if_neg (by omega)).trans (if_pos htime)

/-- The instant at which a frame's time is taken. -/
def State.frameAt (s : State) (n : Nat) (f : RxFrame) : Nat := wrapTime (s.ingressAt n f.word f.bit)

/-- The time word of a frame. -/
def State.frameTime (s : State) (n : Nat) (f : RxFrame) : TimeWord := ⟨s.frameAt n f, s.vBit && !s.fmu.gate, s.tb.l⟩

theorem State.frameStake_tripped (hn : n < 4) (htime : (s.port n).stk.noTime f.word = false) (hgate : s.fmu.gate = false)
    (hpass : s.weftPasses (s.weftDiffAt (s.frameAt n f / snsPerNs)) = false) :
    s.frameStake n f = (s.count (stkCtr n 1)).gateTrip (s.weftDiffAt (s.frameAt n f / snsPerNs)) :=
  (if_neg (by omega)).trans ((if_neg (ne_true_of_eq_false htime)).trans
    (if_pos (show (!s.fmu.gate && !s.weftPasses (s.weftDiffAt (s.frameAt n f / snsPerNs))) = true by simp [hgate, hpass])))

theorem State.frameStake_timed (hn : n < 4) (htime : (s.port n).stk.noTime f.word = false)
    (hpass : s.fmu.gate = true ∨ s.weftPasses (s.weftDiffAt (s.frameAt n f / snsPerNs)) = true) :
    s.frameStake n f = s.frameMac n f (s.frameTime n f) :=
  (if_neg (by omega)).trans ((if_neg (ne_true_of_eq_false htime)).trans
    (if_neg (show ¬(!s.fmu.gate && !s.weftPasses (s.weftDiffAt (s.frameAt n f / snsPerNs))) = true by
      rcases hpass with h | h <;> simp [h])))

/-! MGT (R378). -/

theorem State.frameStake_mgtWaits (h : (s.port 4).rxWait ≠ [] ∨ s.poolFree < cellsOf (f.bytes.length - 4)) :
    s.frameStake 4 f = s.setPort 4 fun p => { p with rxWait := p.rxWait ++ [f] } :=
  (if_pos (by decide)).trans (if_pos (by simpa using h))

theorem State.frameStake_mgtTaken (hnone : (s.port 4).rxWait = []) (hroom : cellsOf (f.bytes.length - 4) ≤ s.poolFree) :
    s.frameStake 4 f = s.frameMac 4 f TimeWord.zero :=
  (if_pos (by decide)).trans (if_neg (by simp [hnone, hroom]))

/-! The MAC, where the pool has room (R356 to R358, R360, R378). -/

/-- The longest frame that a port takes: MAXFRM, and four bytes for each tag. -/
def State.frameLimit (s : State) (n : Nat) (f : RxFrame) : Nat := s.maxFrm n + 4 * (frameTags f.bytes).length

/-- Whether a frame goes into the shared pool: that of MGT always, that of another port within its share. -/
def State.framePools (s : State) (n : Nat) (f : RxFrame) : Bool :=
  decide (4 ≤ n) || s.poolAdmits n (cellsOf (min f.bytes.length (s.frameLimit n f) - 4))

variable {w : TimeWord}

/-- The order of the checks. -/
theorem State.frameMac_pooled (hroom : s.framePools n f = true) : s.frameMac n f w =
    if s.frameLimit n f < f.bytes.length then s.count (macCtr n 5)
    else if f.bytes.length < 64 then s.count (macCtr n 4)
    else if !f.fcsOk || f.pcsErr || f.cut then s.count (macCtr n 6)
    else if !s.accepts n (ofBe (slice f.bytes 0 6)) then s.count (macCtr n 7)
    else s.frameGood n f w true := by
  unfold State.frameMac
  extract_lets len limit cells fromPool s1
  have hpool : fromPool = true := hroom
  have hs1 : s1 = s := if_pos hpool
  rw [if_neg (by simp [hpool]), hs1, hpool]
  rfl

theorem State.frameMac_giant (hroom : s.framePools n f = true) (hlen : s.frameLimit n f < f.bytes.length) :
    s.frameMac n f w = s.count (macCtr n 5) := by
  rw [State.frameMac_pooled hroom, if_pos hlen]

theorem State.frameMac_runt (hroom : s.framePools n f = true) (hlimit : f.bytes.length ≤ s.frameLimit n f) (hlen : f.bytes.length < 64) :
    s.frameMac n f w = s.count (macCtr n 4) := by
  rw [State.frameMac_pooled hroom, if_neg (by omega), if_pos hlen]

theorem State.frameMac_corrupt (hroom : s.framePools n f = true) (hlimit : f.bytes.length ≤ s.frameLimit n f) (hlen : 64 ≤ f.bytes.length)
    (hbad : f.fcsOk = false ∨ f.pcsErr = true ∨ f.cut = true) : s.frameMac n f w = s.count (macCtr n 6) := by
  rw [State.frameMac_pooled hroom, if_neg (by omega), if_neg (by omega), if_pos (by rcases hbad with h | h | h <;> simp [h])]

section
variable (hroom : s.framePools n f = true) (hlimit : f.bytes.length ≤ s.frameLimit n f) (hlen : 64 ≤ f.bytes.length)
  (hfcs : f.fcsOk = true) (hpcs : f.pcsErr = false) (hcut : f.cut = false)
include hroom hlimit hlen hfcs hpcs hcut

theorem State.frameMac_foreign (hdst : s.accepts n (ofBe (slice f.bytes 0 6)) = false) : s.frameMac n f w = s.count (macCtr n 7) := by
  rw [State.frameMac_pooled hroom, if_neg (by omega), if_neg (by omega), if_neg (by simp [hfcs, hpcs, hcut]), if_pos (by simp [hdst])]

theorem State.frameMac_good (hdst : s.accepts n (ofBe (slice f.bytes 0 6)) = true) : s.frameMac n f w = s.frameGood n f w true := by
  rw [State.frameMac_pooled hroom, if_neg (by omega), if_neg (by omega), if_neg (by simp [hfcs, hpcs, hcut]), if_neg (by simp [hdst])]

end

/-! What counting on the line leaves of all this. -/

section
variable {t : State} (h : s.LineCounted t)
include h

theorem State.LineCounted.frameAt : t.frameAt n f = s.frameAt n f := by
  have hpair : t.pair = s.pair := by rw [h.rest]; rfl
  unfold State.frameAt State.ingressAt
  rw [hpair]
  dsimp only
  rw [h.field (·.stk) (fun _ => rfl), h.field (·.speed) (fun _ => rfl)]

theorem State.LineCounted.frameDiff : t.weftDiffAt (t.frameAt n f / snsPerNs) = s.weftDiffAt (s.frameAt n f / snsPerNs) := by
  have hdiff : t.weftDiffAt = s.weftDiffAt := by rw [h.rest]; rfl
  rw [h.frameAt, hdiff]

theorem State.LineCounted.frameTime : t.frameTime n f = s.frameTime n f := by
  have hbits : t.vBit = s.vBit ∧ t.fmu = s.fmu ∧ t.tb = s.tb := by rw [h.rest]; exact ⟨rfl, rfl, rfl⟩
  obtain ⟨hv, hfmu, htb⟩ := hbits
  unfold State.frameTime
  rw [h.frameAt, hv, hfmu, htb]

theorem State.LineCounted.frameLimit : t.frameLimit n f = s.frameLimit n f := by rw [h.rest]; rfl

theorem State.LineCounted.framePools : t.framePools n f = s.framePools n f := by
  unfold State.framePools
  rw [h.frameLimit, h.poolAdmits]

theorem State.LineCounted.accepts : t.accepts = s.accepts := by rw [h.rest]; rfl

theorem State.LineCounted.bit : t.bit = s.bit := by rw [h.rest]; rfl

theorem State.LineCounted.ruleHits : t.ruleHits = s.ruleHits := by rw [h.rest]; rfl

theorem State.LineCounted.wv : t.wv = s.wv := by rw [h.rest]

theorem State.LineCounted.md : t.md = s.md := by rw [h.rest]

theorem State.LineCounted.now : t.now = s.now := by rw [h.rest]

theorem State.LineCounted.freeCtxId : t.freeCtxId = s.freeCtxId := by
  unfold State.freeCtxId State.ctxAt
  rw [h.wv]

end

/-! A good frame (R361 to R366, R397). -/

/-- The frame without its FCS, and what it parses to. -/
def frameBody (f : RxFrame) : List Byte := f.bytes.take (f.bytes.length - 4)
def framePkt (f : RxFrame) : Pkt := parseFrame (frameBody f)

/-- The state in which a frame that has passed its checks is counted. -/
def State.goodCounted (s : State) (n : Nat) (f : RxFrame) : State := (s.count (macCtr n 0)).countN (macCtr n 1) f.bytes.length

theorem State.goodCounted_lineCounted (s : State) (n : Nat) (f : RxFrame) : s.LineCounted (s.goodCounted n f) :=
  ((State.LineCounted.refl s).countN _ 1).countN _ _

theorem State.frameGood_steered {fromPool : Bool} (hn : n < 4) (hecc : f.eccErr = false) (hctl : (framePkt f).etype ≠ 0x8808)
    (hslow : (framePkt f).etype ≠ 0x8809) (hsums : sumsOk (frameBody f) (framePkt f) = true)
    (hptp : s.bit (mBase n + 4) 30 = true → (framePkt f).ptp? = none) :
    s.frameGood n f w fromPool =
      (s.goodCounted n f).steerTo n (frameBody f) (framePkt f) w fromPool ((s.goodCounted n f).steer n (framePkt f)) := by
  have hpass : ¬((s.goodCounted n f).bit (mBase n + 4) 30 && (framePkt f).ptp?.isSome) = true := by
    rw [(s.goodCounted_lineCounted n f).bit]
    intro h
    obtain ⟨hbit, hsome⟩ := Bool.and_eq_true_iff.1 h
    rw [hptp hbit] at hsome
    exact Bool.noConfusion hsome
  have hsums' : ¬(!sumsOk (frameBody f) (framePkt f)) = true := by simp [hsums]
  have hmgt : ¬4 ≤ n := by omega
  exact (if_neg (ne_true_of_eq_false hecc)).trans ((if_neg hctl).trans ((if_neg fun h => hslow h.1).trans ((if_neg fun h => hmgt h.1).trans
    ((if_neg hsums').trans ((if_pos hn).trans (if_neg hpass))))))

/-- What no rule matches goes where the defaults send it (R363). -/
theorem State.steer_default {p : Pkt} (hrules : ∀ k, k < 256 → s.ruleHits n k p = false) :
    s.steer n p = { rule := none, drop := false, cls := defaultClass p, ring := 0, mirror := none } := by
  have hnone : ((List.range 256).find? fun k => s.ruleHits n k p) = none := List.find?_eq_none.2 fun k hk => by
    simp [hrules k (List.mem_range.1 hk)]
  unfold State.steer
  rw [hnone]

/-! A time request (R54, R427, R428, R431, R450). -/

theorem State.steerTo_ntp {bs : List Byte} {p : Pkt} {fromPool : Bool} (hcls : defaultClass p = 2 ∨ defaultClass p = 3) :
    s.steerTo n bs p w fromPool { rule := none, drop := false, cls := defaultClass p, ring := 0, mirror := none } =
      s.admitNtp n (defaultClass p) p w := by
  unfold State.steerTo
  dsimp only
  rw [if_neg Bool.false_ne_true, if_neg (by omega), if_pos (by omega)]

/-- The state in which a request has been admitted with its context. -/
def State.admitted (s : State) (c : Ctx) : State :=
  { s.demandLane c.cls (laneCycles c) with
    wv := { (s.demandLane c.cls (laneCycles c)).wv with
      ctxs := s.wv.ctxs ++ [c], queues := updAt s.wv.queues c.cls (· ++ [{ ctx := c.id, tag := c.tag }]) } }

theorem State.admitted_eq (s : State) (c : Ctx) : s.admitted c = { s with wv := (s.admitted c).wv } := rfl

theorem State.admitReq_queued {cls id : Nat} {p : Pkt} {kiss : Bool} (hfree : s.freeCtxId = some id) :
    ∃ c, s.admitReq n cls p w kiss = s.admitted c ∧ c.id = id ∧ c.st = .queued ∧ c.born = s.now ∧ c.port = n ∧ c.pkt = p ∧
      c.cls = cls ∧ c.kiss = kiss ∧ c.ingress = w := by
  unfold State.admitReq
  rw [hfree]
  exact ⟨_, rfl, rfl, rfl, rfl, rfl, rfl, rfl, rfl, rfl⟩

theorem State.admitNtp_admits {cls : Nat} {p : Pkt} (hmode : s.md.mode ≠ .safe) (haddr : addrOk p = true) (hlen : p.payload.length ≤ 1536)
    (hlimiter : s.bit 0x40008 31 = false) : s.admitNtp n cls p w = s.admitReq n cls p w false := by
  have hrate : s.rateLimit p = (some false, s) := if_pos (by simp [hlimiter])
  unfold State.admitNtp
  rw [if_neg (by simp [hmode]), if_neg (by simp [haddr]), if_neg (by omega), hrate]

/-- A good time request that no rule matches gets its context. -/
theorem State.frameGood_queued {fromPool : Bool} {id : Nat} (hn : n < 4) (hecc : f.eccErr = false) (hctl : (framePkt f).etype ≠ 0x8808)
    (hslow : (framePkt f).etype ≠ 0x8809) (hsums : sumsOk (frameBody f) (framePkt f) = true)
    (hptp : s.bit (mBase n + 4) 30 = true → (framePkt f).ptp? = none) (hrules : ∀ k, k < 256 → s.ruleHits n k (framePkt f) = false)
    (hcls : defaultClass (framePkt f) = 2 ∨ defaultClass (framePkt f) = 3) (hmode : s.md.mode ≠ .safe) (haddr : addrOk (framePkt f) = true)
    (hlen : (framePkt f).payload.length ≤ 1536) (hlimiter : s.bit 0x40008 31 = false) (hfree : s.freeCtxId = some id) :
    ∃ c, s.frameGood n f w fromPool = (s.goodCounted n f).admitted c ∧ c.id = id ∧ c.st = .queued ∧ c.born = s.now ∧ c.port = n ∧
      c.pkt = framePkt f ∧ c.cls = defaultClass (framePkt f) ∧ c.kiss = false ∧ c.ingress = w := by
  have hline : s.LineCounted (s.goodCounted n f) := s.goodCounted_lineCounted n f
  rw [State.frameGood_steered hn hecc hctl hslow hsums hptp]
  generalize s.goodCounted n f = g at hline ⊢
  obtain ⟨c, hadm, hid, hst, hborn, hc⟩ := State.admitReq_queued (s := g) (n := n) (w := w) (cls := defaultClass (framePkt f))
    (p := framePkt f) (kiss := false) (hline.freeCtxId.trans hfree)
  refine ⟨c, ?_, hid, hst, hborn.trans hline.now, hc⟩
  rw [State.steer_default (by rw [hline.ruleHits]; exact hrules), State.steerTo_ntp hcls,
    State.admitNtp_admits (by rw [hline.md]; exact hmode) haddr hlen (by rw [hline.bit]; exact hlimiter), hadm]

end

/-- Settles O36: the line first, then the assembly, the Stake or the pool of MGT, the checks of the MAC in their order, and the context. -/
theorem framesAreDroppedOnceInOrderOrReachTheirClass : Obligations.FramesAreDroppedOnceInOrderOrReachTheirClass := by
  intro s n f hn hup fec u late len limit at_ d
  have hline : s.LineCounted u := s.frameLine_lineCounted n f
  have hbroken : f.asmErr = true → s.frameIn n f = u.count (macCtr n 17) := State.frameIn_broken hup
  have hwhole : f.asmErr = false → s.frameIn n f = u.frameStake n f := State.frameIn_whole hup
  clear_value u
  have hstk : (u.port n).stk = (s.port n).stk := hline.field (·.stk) (fun _ => rfl) n
  have hfmu : u.fmu = s.fmu := by rw [hline.rest]
  have hpasses : u.weftPasses = s.weftPasses := by rw [hline.rest]; rfl
  have hdiff : u.weftDiffAt (u.frameAt n f / snsPerNs) = d := hline.frameDiff
  have huntimed : (u.port n).stk.noTime f.word = true ↔ (s.port n).stk.dropped f.word = true ∨ late := by rw [hstk]; exact StkSt.noTime_iff _ _
  have htimed (hdrop : (s.port n).stk.dropped f.word = false) (hlate : ¬late) : (u.port n).stk.noTime f.word = false :=
    eq_false_of_ne_true fun h => (huntimed.1 h).elim (ne_true_of_eq_false hdrop) hlate
  refine ⟨fun hasm => ?broken, fun hasm hnp hno => ?untimed, fun hasm hnp hdrop hlate hgate hpass => ?tripped, fun hasm hmgt hwait => ?waits,
    fun hasm hway => ?_⟩
  case broken => rw [exec_frameReceive, hbroken hasm]
  case untimed => rw [exec_frameReceive, hwhole hasm, State.frameStake_untimed hnp (huntimed.2 hno)]
  case tripped =>
    have hpass' : u.weftPasses (u.weftDiffAt (u.frameAt n f / snsPerNs)) = false := by rw [hpasses, hdiff]; exact hpass
    rw [exec_frameReceive, hwhole hasm, State.frameStake_tripped hnp (htimed hdrop hlate) (by rw [hfmu]; exact hgate) hpass', hdiff]
  case waits =>
    subst hmgt
    rw [exec_frameReceive, hwhole hasm, State.frameStake_mgtWaits (by rwa [hline.field (·.rxWait) (fun _ => rfl), hline.poolFree])]
  have hmac : ∃ w, s.frameIn n f = u.frameMac n f w ∧ u.framePools n f = true ∧ (n < 4 → w = s.frameTime n f) := by
    rw [hwhole hasm, hline.framePools]
    obtain ⟨rfl, hnone, hroom⟩ | ⟨hnp, hdrop, hlate, hpass, hroom⟩ := hway
    · exact ⟨_, State.frameStake_mgtTaken ((hline.field (·.rxWait) (fun _ => rfl) 4).trans hnone) (by rwa [hline.poolFree]), rfl,
        fun h => absurd h (by decide)⟩
    · exact ⟨_, State.frameStake_timed hnp (htimed hdrop hlate) (by rw [hfmu, hpasses, hdiff]; exact hpass), Bool.or_eq_true_iff.2 (.inr hroom),
        fun _ => hline.frameTime⟩
  obtain ⟨w, hin, hroom, hw⟩ := hmac
  have hlimit : u.frameLimit n f = limit := hline.frameLimit
  refine ⟨fun hlong => ?giant, fun hfit hshort => ?runt, fun hfit hlong => ⟨fun hbad => ?corrupt, fun hfcs hpcs hcut =>
    ⟨fun hdst => ?foreign, ?_⟩⟩⟩
  case giant => rw [exec_frameReceive, hin, State.frameMac_giant hroom (by rwa [hlimit])]
  case runt => rw [exec_frameReceive, hin, State.frameMac_runt hroom (by rwa [hlimit]) hshort]
  case corrupt => rw [exec_frameReceive, hin, State.frameMac_corrupt hroom (by rwa [hlimit]) hlong hbad]
  case foreign => rw [exec_frameReceive, hin, State.frameMac_foreign hroom (by rwa [hlimit]) hlong hfcs hpcs hcut (by rwa [hline.accepts])]
  intro p hnp hdst hecc hctl hslow hsums hptp hrules hcls hmode haddr hlen hlimiter id hfree
  have hrules' : ∀ k, k < 256 → u.ruleHits n k (framePkt f) = false := fun k hk => by rw [hline.ruleHits]; exact hrules k hk
  obtain ⟨c, hqueued, hid, hst, hborn, hport, hpkt, hc, hkiss, hingress⟩ :=
    State.frameGood_queued (w := w) (fromPool := true) hnp hecc hctl hslow hsums (by rw [hline.bit]; exact hptp) hrules' hcls
      (by rw [hline.md]; exact hmode) haddr hlen (by rw [hline.bit]; exact hlimiter) (hline.freeCtxId.trans hfree)
  have hgood : u.frameMac n f w = u.frameGood n f w true :=
    State.frameMac_good hroom (hfit.trans_eq hlimit.symm) hlong hfcs hpcs hcut (by rw [hline.accepts]; exact hdst)
  refine ⟨(u.goodCounted n f).admitted c, c, ?admitted, State.admitted_eq _ c, ?ctxs, hid, hst, hborn.trans hline.now, hport, hpkt, hc, hkiss,
    hingress.trans (hw hnp), ?queues⟩
  case admitted => rw [exec_frameReceive, hin, hgood, hqueued]
  case ctxs => exact congrArg (fun v : WvSt => v.ctxs ++ [c]) hline.wv
  case queues => rw [← hid]; exact congrArg (fun v : WvSt => updAt v.queues _ _) hline.wv

end Sys2Proof.Machine
end

section
/-! SUPPORT. A counter of a port read after others have counted, and through all that the selector does when a monitor fails. -/

namespace Sys2Proof.Machine

open Sys2Proof

/-- A counter reads as before. -/
def State.CountStands (k : Nat) (s t : State) : Prop := t.ctrAt k = s.ctrAt k

section
variable {k : Nat} {r s t : State}

theorem State.CountStands.refl (s : State) : s.CountStands k s := rfl

theorem State.CountStands.trans (a : r.CountStands k s) (b : s.CountStands k t) : r.CountStands k t := Eq.trans b a

theorem State.CountStands.ite {a b : State} {c : Prop} [Decidable c] (ha : r.CountStands k a) (hb : r.CountStands k b) :
    r.CountStands k (if c then a else b) := by
  split <;> assumption

theorem State.CountStands.of_ctr (h : t.ctr = s.ctr) : s.CountStands k t := by
  unfold State.CountStands State.ctrAt
  rw [h]

/-- Whatever the map of counters is, a count leaves every other counter. -/
theorem State.countN_countStands (s : State) {off j : Nat} (hpos : 0 < j) (hk : k ≠ off) : s.CountStands k (s.countN off j) := by
  unfold State.CountStands State.ctrAt
  rw [State.countN_ctr, Assoc.putD, if_neg (ctrAdd_ne_zero _ hpos), Assoc.get_put, if_neg hk]

theorem State.count_countStands (s : State) {off : Nat} (hk : k ≠ off) : s.CountStands k (s.count off) := s.countN_countStands Nat.one_pos hk

theorem State.cause_countStands (s : State) (b : Nat) : s.CountStands k (s.cause b) := .of_ctr (by rw [State.cause_eq])

/-! The servo and the selector (R200, R203 to R205, R223): each counter of theirs, of which none stands at 0x10 beyond a multiple of 0x40. -/

theorem State.freezeWeft_ctr (s : State) (e0 : Rat) : (s.freezeWeft e0).ctr = s.ctr := by
  unfold State.freezeWeft
  split <;> rfl

theorem State.thawWeft_ctr (s : State) : s.thawWeft.ctr = s.ctr := by
  unfold State.thawWeft
  split <;> rfl

theorem State.beginHold_ctr (s : State) (y0 : Rat) : (s.beginHold y0).ctr = s.ctr := by
  unfold State.beginHold State.newHold
  split <;> exact State.freezeWeft_ctr _ _

theorem State.cancelSlew_ctr (s : State) : s.cancelSlew.ctr = s.ctr := by
  unfold State.cancelSlew
  split <;> rfl

variable (hk : k % 0x40 = 0x10)
include hk

theorem State.beginSplice_countStands (s : State) (new : Option Nat) (elig : List Nat) (oldPasses again : Bool) :
    s.CountStands k (s.beginSplice new elig oldPasses again) := by
  unfold State.beginSplice
  extract_lets b s1 temp _ v _ s2
  have hcancel : s.CountStands k s.cancelSlew := .of_ctr s.cancelSlew_ctr
  have hbridge : s.CountStands k s1 := .ite (.refl s) (hcancel.trans (State.count_countStands (off := 0x700A0) _ (by omega)))
  have hs2 : s.CountStands k s2 := hbridge
  split
  · exact hs2.trans (.of_ctr (State.thawWeft_ctr _))
  · exact hs2.trans (.of_ctr (State.beginHold_ctr _ _))

theorem State.markSel_countStands (s : State) (new : Option Nat) (reason : Nat) : s.CountStands k (s.markSel new reason) := by
  unfold State.markSel
  extract_lets old s1 s2 _ sel _ md _ s3
  clear_value old
  have hold : s1.ctr = s.ctr := by
    unfold s1
    split
    · split <;> rfl
    · rfl
  have hnew : s2.ctr = s1.ctr := by
    unfold s2
    split <;> rfl
  have hs3 : s.CountStands k s3 := .of_ctr (hnew.trans hold)
  exact .ite hs3 (hs3.trans ((State.count_countStands _ (by omega)).trans (State.cause_countStands _ 4)))

theorem State.switchTo_countStands (s : State) (new : Option Nat) (reason : Nat) (again : Bool) :
    s.CountStands k (s.switchTo new reason again) :=
  (s.markSel_countStands hk new reason).trans (State.beginSplice_countStands hk _ _ _ _ _)

theorem State.dropInMaintain_countStands (s : State) (why : Nat) : s.CountStands k (s.dropInMaintain why) := by
  unfold State.dropInMaintain
  split
  · exact .refl s
  · refine .ite (.refl s) (.trans ?_ (State.cause_countStands _ 4))
    exact State.count_countStands (off := 0x60018) _ (by omega)

theorem State.offer_countStands (s : State) (w : Window) (want : Option Nat) (why : Nat) : s.CountStands k (s.offer w want why) := by
  unfold State.offer
  refine .ite (.refl s) (.ite (.of_ctr rfl) (.trans ?_ (State.switchTo_countStands hk _ _ _ _)))
  exact s.count_countStands (off := 0x700A8) (by omega)

theorem State.choose_countStands (s : State) (why : Nat) : s.CountStands k (s.choose why) := by
  unfold State.choose
  refine .ite (s.dropInMaintain_countStands hk why) (.ite (.refl s) ?_)
  split
  · exact s.offer_countStands hk _ _ _
  · exact .ite (.refl s) (s.switchTo_countStands hk _ _ _)

theorem State.toDisq_countStands (s : State) (i : Nat) (mark : RefSt → RefSt) : s.CountStands k (s.toDisq i mark) := by
  have hcount : k ≠ bBase i + 0x38 := by unfold bBase; omega
  have hleaves : s.CountStands k (s.leaves i) := by
    unfold State.leaves
    exact .ite (s.count_countStands hcount) (.refl s)
  unfold State.toDisq State.refreshSel
  exact .ite (.of_ctr rfl) (hleaves.trans (.ite (.of_ctr rfl) (.of_ctr rfl)))

theorem State.monitorFails_countStands (s : State) (i : Nat) (mark : RefSt → RefSt) : s.CountStands k (s.monitorFails i mark) := by
  have hdisq := s.toDisq_countStands hk i mark
  unfold State.monitorFails
  exact .ite (.refl s) (.ite (hdisq.trans (State.choose_countStands hk _ 3)) hdisq)

end

end Sys2Proof.Machine
end

section
/-! SUPPORT. ESMC PDUs received and sent, and the verification of preemption. -/

namespace Sys2Proof.Machine

open Sys2Proof

theorem exec_esmcReceive (s : State) (n ssm : Nat) (tlv : Option (Nat × List (BitVec 8))) :
    exec (.esmcReceive n ssm tlv) s = .next ((s.controlFrame n).esmcIn n ssm tlv) := rfl

theorem exec_esmcInfoSend (s : State) (n : Nat) : exec (.esmcInfoSend n) s = .next (s.esmcSend n) := rfl

theorem exec_preemptVerifySend (s : State) (n : Nat) : exec (.preemptVerifySend n) s = .next (s.verifySend n) := rfl

theorem exec_preemptRespondReceive (s : State) (n : Nat) : exec (.preemptRespondReceive n) s = .next (s.respondIn n) := rfl

section
variable {s : State} {n : Nat}

/-! A PDU received (R202, R386). -/

theorem State.rxQuality_spec (s : State) (i q : Nat) : (s.rxQuality i q).act = s.act ∧ (s.rxQuality i q).md.mode = s.md.mode ∧
    (s.rxQuality i q).ports = s.ports ∧ ∀ k, k % 0x40 = 0x10 → (s.rxQuality i q).ctrAt k = s.ctrAt k := by
  unfold State.rxQuality
  extract_lets s1
  split
  · exact ⟨rfl, rfl, rfl, fun _ _ => rfl⟩
  · split
    · obtain ⟨hmode, hact, -, -, hports⟩ := s1.monitorFails_stands i fun r => { r with qlf := true }
      exact ⟨hact, hmode, hports, fun k hk => State.monitorFails_countStands hk s1 i _⟩
    · exact ⟨rfl, rfl, rfl, fun _ _ => rfl⟩

/-- The level that a PDU gives: DNU where the part itself originated it. -/
def State.esmcLevel (s : State) (ssm : Nat) (tlv : Option (Nat × List Byte)) : Nat :=
  match tlv with
  | some (e, id) => if id == s.clockId then 8 else essmCode ssm e
  | none => ssmCode ssm

/-- A port with the level received. -/
def PortSt.levelled (q now : Nat) (enh : Bool) (p : PortSt) : PortSt := { p with rxQl := q, rxQlAt := some now, enh := enh }

theorem State.esmcIn_on {ssm : Nat} {tlv : Option (Nat × List Byte)} (hon : s.synceOn n = true) (hup : (s.port n).link = true) :
    s.esmcIn n ssm tlv = ((s.count (macCtr n 18)).setPort n (PortSt.levelled (s.esmcLevel ssm tlv) s.now tlv.isSome)).rxQuality (13 + n)
      (codeQl (s.esmcLevel ssm tlv)) :=
  if_neg (by simp [hon, hup])

theorem macCtr_mod (n : Nat) : macCtr n 18 % 0x40 = 0x10 := by
  unfold macCtr mBase
  omega

/-- The control frame that carries a PDU is counted in other counters. -/
theorem State.controlFrame_ctrAt (s : State) (n : Nat) : (s.controlFrame n).ctrAt (macCtr n 18) = s.ctrAt (macCtr n 18) := by
  obtain ⟨window, l, busy, hload⟩ := s.lineLoad_eq n 84 true
  have hline : s.CountStands (macCtr n 18) (s.lineLoad n 84 true) := .of_ctr (by rw [hload]; rfl)
  have hframe : macCtr n 18 ≠ macCtr n 0 ∧ macCtr n 18 ≠ macCtr n 1 := by unfold macCtr; omega
  unfold State.controlFrame
  split
  · exact hline.trans ((State.count_countStands _ hframe.1).trans (State.countN_countStands _ (by decide) hframe.2))
  · rfl

theorem State.esmcIn_spec {ssm : Nat} {tlv : Option (Nat × List Byte)} (hon : s.synceOn n = true) (hup : (s.port n).link = true) :
    let t := s.esmcIn n ssm tlv
    t.act = s.act ∧ t.md.mode = s.md.mode ∧ t.port n = (s.port n).levelled (s.esmcLevel ssm tlv) s.now tlv.isSome ∧
      t.ctrAt (macCtr n 18) = ctrAdd (s.ctrAt (macCtr n 18)) 1 := by
  intro t
  obtain ⟨hact, hmode, hports, hctr⟩ := State.rxQuality_spec
    ((s.count (macCtr n 18)).setPort n (PortSt.levelled (s.esmcLevel ssm tlv) s.now tlv.isSome)) (13 + n) (codeQl (s.esmcLevel ssm tlv))
  rw [← State.esmcIn_on hon hup] at hact hmode hports hctr
  exact ⟨hact, hmode, (congrArg (·.getD n PortSt.reset) hports).trans (State.port_setPort_self (s := s.count (macCtr n 18)) _ (State.up_lt hup)),
    (hctr _ (macCtr_mod n)).trans (s.ctrAt_count_self _)⟩

/-! A PDU sent (R387). -/

/-- Whether the second since the last information PDU has passed. -/
def PortSt.esmcDue (p : PortSt) (now : Nat) : Prop := ∀ at_, p.esmcAt = some at_ → at_ + nsPerSec ≤ now

/-- A port that sends a level. -/
def PortSt.levelSent (q now : Nat) (locked event : Bool) (p : PortSt) : PortSt :=
  { p with txQl := q, txQlSent := q, txQlLocked := if locked then q else p.txQlLocked, esmcAt := if event then p.esmcAt else some now }

/-- The state in which a port has noted the level that it is about to send. -/
def State.levelNoted (s : State) (n : Nat) : State :=
  s.setPort n (PortSt.levelSent (s.txLevel n) s.now (s.md.mode == .locked) (s.txLevel n != (s.port n).txQlSent))

section
variable (hon : s.synceOn n = true) (hesmc : s.bit (mBase n + 0x20) 30 = true) (hup : (s.port n).link = true)
include hon hesmc hup

theorem State.esmcSend_on : ∃ due : Bool, (due = true ↔ (s.port n).esmcDue s.now) ∧ s.esmcSend n =
    if !(s.txLevel n != (s.port n).txQlSent) && !due then s
    else (s.levelNoted n).queueFrame n ((s.levelNoted n).esmcFrame n (s.txLevel n) (s.txLevel n != (s.port n).txQlSent)) := by
  unfold State.esmcSend
  extract_lets q ev due s1
  refine ⟨due, ?_, if_neg (by simp [hon, hesmc, hup])⟩
  unfold PortSt.esmcDue due
  cases (s.port n).esmcAt <;> simp

theorem State.esmcSend_due (hdue : s.txLevel n ≠ (s.port n).txQlSent ∨ (s.port n).esmcDue s.now) : ∃ locked event e,
    s.esmcSend n = s.setPort n (PortSt.queued e ∘ PortSt.levelSent (s.txLevel n) s.now locked event) := by
  obtain ⟨due, hiff, hsend⟩ := State.esmcSend_on hon hesmc hup
  have hup' : ((s.levelNoted n).port n).link = true := (congrArg PortSt.link (State.port_setPort_self _ (State.up_lt hup))).trans hup
  have hgo : ¬(!(s.txLevel n != (s.port n).txQlSent) && !due) = true := by
    rcases hdue with h | h
    · simp [h]
    · simp [hiff.2 h]
  rw [hsend, if_neg hgo, State.queueFrame_up _ hup', State.levelNoted, State.setPort_setPort]
  exact ⟨_, _, _, rfl⟩

theorem State.esmcSend_none (hsame : s.txLevel n = (s.port n).txQlSent) (hwait : ¬(s.port n).esmcDue s.now) : s.esmcSend n = s := by
  obtain ⟨due, hiff, hsend⟩ := State.esmcSend_on hon hesmc hup
  have hearly : due = false := eq_false_of_ne_true fun h => hwait (hiff.1 h)
  rw [hsend, if_pos (by simp [hsame, hearly])]

end

/-- In SAFE and ACQUIRE the level is DNU. -/
theorem State.txLevel_unfit (h : s.md.mode = .safe ∨ s.md.mode = .acquire) : s.txLevel n = 8 := by
  unfold State.txLevel
  rcases h with h | h <;> simp [h]

/-! Preemption (R374). -/

/-- Whether the next try of verification is due. -/
def State.verifyDue (s : State) (n : Nat) : Prop :=
  (s.port n).verifyTries = 0 ∨ (s.port n).verifyAt + s.fld (mBase n + 0x18) 7 0 * 1000000 ≤ s.now

section
variable (hup : (s.port n).link = true) (hpre : (s.port n).pre = 1)
include hup hpre

theorem State.verifySend_due (hdue : s.verifyDue n) : s.verifySend n =
    if (s.port n).verifyTries < 3 then s.setPort n fun p => { p with verifyTries := p.verifyTries + 1, verifyAt := s.now }
    else s.setPort n fun p => { p with pre := 3 } :=
  if_pos (by simpa [hup, hpre, State.verifyDue] using hdue)

theorem State.verifySend_early (hearly : ¬s.verifyDue n) : s.verifySend n = s :=
  if_neg (by simpa [hup, hpre, State.verifyDue] using hearly)

theorem State.respondIn_active (htry : 0 < (s.port n).verifyTries) : s.respondIn n = s.setPort n fun p => { p with pre := 2 } :=
  if_pos (by simp [hup, hpre, htry])

end

end

end Sys2Proof.Machine
end

section
/-! SUPPORT. The choice of lanes and clock step, and what PARK_APPLY makes of it. -/

namespace Sys2Proof.Machine

open Sys2Proof

theorem exec_parkEvaluation (s : State) : exec .parkEvaluation s = .next s.parkEval := rfl

theorem exec_parkApply (s : State) : exec .parkApply s = .next s.parkApply := rfl

/-! The choice (R380). -/

/-- The fewest lanes that suffice for the arrivals at a step whose clock suffices for the line bits. -/
def lanesAtStep (lanes arrivals bits st : Nat) : Option Nat :=
  if bits * 800 ≤ 5000000 * (800 / 2 ^ st) then
    ((List.range lanes).map (· + 1)).find? fun k => decide (128 * arrivals ≤ k * (800 / 2 ^ st) * 100)
  else none

/-- Lanes and a step below 800 MHz that suffice. -/
structure Suffice (lanes arrivals bits k st : Nat) : Prop where
  one : 1 ≤ k
  inService : k ≤ lanes
  bits : bits * 800 ≤ 5000000 * (800 / 2 ^ st)
  arrivals : 128 * arrivals ≤ k * (800 / 2 ^ st) * 100

theorem lanesAtStep_suffice {lanes arrivals bits k st : Nat} (h : lanesAtStep lanes arrivals bits st = some k) :
    Suffice lanes arrivals bits k st := by
  unfold lanesAtStep at h
  split at h
  case isTrue hbits =>
    obtain ⟨j, hj, rfl⟩ := List.mem_map.1 (List.mem_of_find?_eq_some h)
    have harrivals := List.find?_some h
    exact ⟨by omega, List.mem_range.1 hj, hbits, of_decide_eq_true harrivals⟩
  case isFalse => cases h

/-- A step below 800 MHz is chosen only with lanes that suffice at it. -/
theorem parkChoice_suffice {lanes arrivals bits k st : Nat} (h : parkChoice lanes arrivals bits = (k, st)) (hst : st ≠ 0) :
    Suffice lanes arrivals bits k st := by
  unfold parkChoice at h
  extract_lets at_ at h
  have hat : at_ = lanesAtStep lanes arrivals bits := rfl
  rw [hat] at h
  split at h
  case h_1 hquarter => cases h; exact lanesAtStep_suffice hquarter
  case h_2 hhalf => cases h; exact lanesAtStep_suffice hhalf
  case h_3 => cases h; exact absurd rfl hst

section
variable {s : State}

/-- Parking off, a PKE operation held, or too many items in the Packer. -/
def State.parksFull (s : State) : Prop := s.bit 0x40800 31 = false ∨ s.pke.ops ≠ [] ∨ s.fld 0x40800 25 16 < s.packerItems

theorem State.parkNow_full (arrivals bits : Nat) (h : s.parksFull) : s.parkNow arrivals bits = (s.lanesIn, 0) :=
  if_pos (by simpa [State.parksFull, or_assoc] using h)

theorem State.parkNow_suffice {arrivals bits k st : Nat} (h : s.parkNow arrivals bits = (k, st)) (hst : st ≠ 0) :
    Suffice s.lanesIn arrivals bits k st := by
  unfold State.parkNow at h
  split at h
  · cases h; exact absurd rfl hst
  · exact parkChoice_suffice h hst

/-- The choice is noted, from now or, where it stood already, from when it did. -/
theorem State.parkEval_notes (hmode : s.md.mode.serving = true ∨ s.md.mode = .safe) : ∃ since,
    s.parkEval = { s with wv := { s.wv with
      parkWant := some ((s.parkNow s.parkArrivals s.parkBits).1, (s.parkNow s.parkArrivals s.parkBits).2, since) } } ∧
    (since = s.now ∨ s.wv.parkWant = some ((s.parkNow s.parkArrivals s.parkBits).1, (s.parkNow s.parkArrivals s.parkBits).2, since)) := by
  have hgo : ¬(!s.md.mode.serving && s.md.mode != .safe) = true := by rcases hmode with h | h <;> simp [h]
  generalize hchoice : s.parkNow s.parkArrivals s.parkBits = choice
  obtain ⟨k, st⟩ := choice
  unfold State.parkEval
  rw [if_neg hgo, hchoice]
  refine ⟨_, rfl, ?_⟩
  split
  case h_1 k' st' t hwant =>
    split
    case isTrue hsame =>
      obtain ⟨rfl, rfl⟩ := hsame
      exact .inr hwant
    case isFalse => exact .inl rfl
  case h_2 => exact .inl rfl

/-! PARK_APPLY (R22, R381). -/

/-- Whether a choice that stands from an instant has stood for PARK_HOLD. -/
def State.parkHeld (s : State) (t : Nat) : Bool := decide (t + s.fld 0x40800 15 0 * 1000 ≤ s.now)

/-- The lanes and the step that a choice gives now. -/
def State.parkLanes (s : State) (k t : Nat) : Nat := if s.wv.lanesOn ≤ k ∨ s.parkHeld t then k else s.wv.lanesOn
def State.parkStep (s : State) (st t : Nat) : Nat :=
  if st ≤ s.wv.step then (if s.fmu.stretch then s.wv.step else st) else if s.parkHeld t then st else s.wv.step

/-- The cycles are tallied before the step changes. -/
def State.stepTallied (s : State) (step : Nat) : State := if step = s.wv.step then s else s.tally

/-- The state in which a step is in force. -/
def State.atStep (s : State) (step : Nat) : State :=
  { s.stepTallied step with wv := { (s.stepTallied step).wv with step := step } }

/-- The state in which a choice has been applied. -/
def State.parkTo (s : State) (k st t : Nat) : State := (s.atStep (s.parkStep st t)).setLanes (s.parkLanes k t)

theorem State.parkApply_held (h : s.pke.ops ≠ []) : s.parkApply = s.parkTo s.lanesIn 0 s.now := by
  unfold State.parkApply
  rw [if_neg (by simpa using h)]
  rfl

theorem State.parkApply_noted {k st t : Nat} (h : s.pke.ops = []) (hwant : s.wv.parkWant = some (k, st, t)) : s.parkApply = s.parkTo k st t := by
  unfold State.parkApply
  rw [if_pos (by simp [h]), hwant]
  rfl

/-- A lane as PARK_APPLY looks at it: whether it is parked, and its item. -/
def Lane.parking (l : Lane) : Bool × Option Nat := (l.parked, l.ctx)

theorem State.stepTallied_eq (s : State) (step : Nat) : ∃ pke lanes fmu,
    s.stepTallied step = { s with pke := pke, fmu := fmu, wv := { s.wv with lanes := lanes } } ∧
      lanes.map Lane.parking = s.wv.lanes.map Lane.parking := by
  unfold State.stepTallied
  split
  · exact ⟨s.pke, s.wv.lanes, s.fmu, rfl, rfl⟩
  · exact ⟨_, _, _, rfl, by rw [List.map_map]; rfl⟩

theorem State.setLanes_eq (s : State) (k : Nat) :
    s.setLanes k = { s with wv := { s.wv with lanesOn := k, lanes := (s.setLanes k).wv.lanes } } := rfl

/-- A lane is parked that was parked, or that has no item. -/
theorem State.setLanes_parked {k i : Nat} (h : ((s.setLanes k).wv.lanes.getD i Lane.reset).parked = true) :
    (s.wv.lanes.getD i Lane.reset).parked = true ∨ (s.wv.lanes.getD i Lane.reset).ctx = none := by
  unfold State.setLanes at h
  extract_lets _ s1 go at h
  rw [List.getD_eq_getElem?_getD, List.getElem?_mapIdx] at h
  rw [List.getD_eq_getElem?_getD]
  have hlane : s1.wv.lanes[i]? = s.wv.lanes[i]? := rfl
  rw [hlane] at h
  cases hl : s.wv.lanes[i]? with
  | none => rw [hl] at h; cases h
  | some l =>
    rw [hl] at h
    change (go i l).parked = true at h
    show l.parked = true ∨ l.ctx = none
    unfold go at h
    split at h
    · cases h
    · split at h
      case isTrue hidle => exact .inr (Option.isNone_iff_eq_none.1 (Bool.and_eq_true_iff.1 hidle).2)
      case isFalse => exact .inl h

/-- A choice applied: its lanes and its step, and what it leaves. -/
theorem State.parkTo_spec (s : State) (k st t : Nat) :
    let u := s.parkTo k st t
    u.act = s.act ∧ u.md = s.md ∧ u.ports = s.ports ∧ u.wv.ctxs = s.wv.ctxs ∧ u.wv.lanesOn = s.parkLanes k t ∧
      u.wv.step = s.parkStep st t ∧ ∀ i, (u.wv.lanes.getD i Lane.reset).parked = true →
        (s.wv.lanes.getD i Lane.reset).parked = true ∨ (s.wv.lanes.getD i Lane.reset).ctx = none := by
  intro u
  obtain ⟨pke, lanes, fmu, hstep, hlanes⟩ := s.stepTallied_eq (s.parkStep st t)
  have hat : s.atStep (s.parkStep st t) =
      { s with pke := pke, fmu := fmu, wv := { s.wv with lanes := lanes, step := s.parkStep st t } } := by
    unfold State.atStep
    rw [hstep]
  have hu : u = { s.atStep (s.parkStep st t) with
      wv := { (s.atStep (s.parkStep st t)).wv with lanesOn := s.parkLanes k t, lanes := u.wv.lanes } } := State.setLanes_eq _ _
  have hlane (i : Nat) : ((s.atStep (s.parkStep st t)).wv.lanes.getD i Lane.reset).parking = (s.wv.lanes.getD i Lane.reset).parking := by
    rw [hat, ← List.getD_map _ _ Lane.parking, hlanes, List.getD_map]
  rw [hat] at hu
  refine ⟨by rw [hu], by rw [hu], by rw [hu], by rw [hu], by rw [hu], by rw [hu], fun i hparked => ?_⟩
  obtain ⟨hpark, hctx⟩ := Prod.mk.inj (hlane i)
  rw [← hpark, ← hctx]
  exact State.setLanes_parked hparked

end

end Sys2Proof.Machine
end

section
/-! SUPPORT. Speed steps, and the chapter's remaining commands put together. -/

namespace Sys2Proof.Machine

open Sys2Proof

theorem exec_speedStepDown (s : State) (n : Nat) : exec (.speedStepDown n) s = .next (s.stepDown n) := rfl

theorem exec_speedStepUp (s : State) (n : Nat) : exec (.speedStepUp n) s = .next (s.stepUpPort n) := rfl

theorem exec_speedStepFail (s : State) (n : Nat) : exec (.speedStepFail n) s = .next (s.stepFailed n) := rfl

section
variable {s : State} {n at_ : Nat}

/-- A step begun takes the link down, to be negotiated again (R384, R385). -/
theorem State.beginStep_spec (down : Bool) (hup : (s.port n).link = true) :
    let t := s.beginStep n down
    (t.port n).stepped = down ∧ (t.port n).stepping = some s.now ∧ (t.port n).link = false ∧ t.md = s.md ∧ t.act = s.act := by
  intro t
  obtain ⟨hact, -, -, hmd⟩ := s.linkDrop_configFrame n
  obtain ⟨kept, ctr, hif, hdrop⟩ := State.linkDrop_up hup
  have hgone : n < (s.portCtxsGone n).ports.length := by rw [State.portCtxsGone_ports_length]; exact State.up_lt hup
  have hports : (s.linkDrop n).ports = (((s.portCtxsGone n).setPort n PortSt.uncommitted).setPort n PortSt.unlinked).ports := by rw [hdrop]
  have hlen : n < (s.linkDrop n).ports.length := by simpa [hports] using hgone
  have hlink : ((s.linkDrop n).port n).link = false := by
    have hport : (s.linkDrop n).port n = (((s.portCtxsGone n).setPort n PortSt.uncommitted).setPort n PortSt.unlinked).port n :=
      congrArg (·.getD n PortSt.reset) hports
    rw [hport, State.port_setPort_self _ (by simpa using hgone)]
    rfl
  have hport : t.port n = { (s.linkDrop n).port n with stepped := down, stepping := some s.now } :=
    State.port_setPort_self (s := s.linkDrop n) _ hlen
  exact ⟨by rw [hport], by rw [hport], by rw [hport]; exact hlink, hmd, hact⟩

/-- At 25G, idle for STEP_HOLD and below STEP_DN in both directions (R384). -/
theorem State.stepDown_idle (hsteps : s.steps n = true) (hup : (s.port n).link = true) (hspeed : (s.port n).speed = 2)
    (hfull : (s.port n).stepped = false) (hlow : (s.port n).lowSince = some at_)
    (hidle : at_ + s.fld (mBase n + 0x24) 29 24 * 60 * nsPerSec ≤ s.now) (hrx : loadOf s.now loadSpan (s.port n).rxLog < s.stepDn n)
    (htx : loadOf s.now loadSpan (s.port n).txLog < s.stepDn n) :
    s.stepDown n = if !(s.port n).stk.calAlt then s.setPort n fun p => { p with stepFail := true } else s.beginStep n true := by
  unfold State.stepDown
  extract_lets p idle low
  have hready : idle = true := by
    unfold idle
    rw [show p.lowSince = some at_ from hlow]
    exact decide_eq_true hidle
  have hrx' : low (s.port n).rxLog = true := decide_eq_true hrx
  have htx' : low (s.port n).txLog = true := decide_eq_true htx
  clear_value idle low
  exact if_neg (by simp [p, hsteps, hup, hspeed, hfull, hready, hrx', htx'])

/-- At 10G a rate above STEP_UP in either direction (R384). -/
theorem State.stepUpPort_busy (hsteps : s.steps n = true) (hup : (s.port n).link = true) (hstepped : (s.port n).stepped = true)
    (hhigh : s.stepUpAt n < loadOf s.now loadSpan (s.port n).rxLog ∨ s.stepUpAt n < loadOf s.now loadSpan (s.port n).txLog) :
    s.stepUpPort n = s.beginStep n false := by
  have hany : (decide (s.stepUpAt n < loadOf s.now loadSpan (s.port n).rxLog) ||
      decide (s.stepUpAt n < loadOf s.now loadSpan (s.port n).txLog)) = true := by simpa using hhigh
  unfold State.stepUpPort
  extract_lets p high
  exact if_pos (Bool.and_eq_true_iff.2 ⟨by simp [p, hsteps, hup, hstepped], hany⟩)

/-- Three seconds without link (R385). -/
theorem State.stepFailed_due (hstep : (s.port n).stepping = some at_) (hdue : at_ + 3 * nsPerSec ≤ s.now) (hdown : (s.port n).link = false) :
    s.stepFailed n = s.setPort n fun p =>
      { p with stepped := false, stepFail := true, stepOff := true, stepping := none, linkWait := false } := by
  unfold State.stepFailed
  rw [hstep]
  exact if_pos (by simp [hdue, hdown])

end

/-- Settles O38: the PDU received and the PDU sent, verification by its tries, the choice and what is made of it, and the speed steps. -/
theorem esmcPreemptionParkingAndSpeedSteps : Obligations.EsmcPreemptionParkingAndSpeedSteps := by
  intro s n
  refine ⟨fun ssm tlv hon hup => ?received, fun hon hesmc hup => ⟨fun hdue => ?sent, fun hsame hwait => ?unsent, State.txLevel_unfit⟩,
    fun hup hpre => ⟨fun hdue hfew => ?tries, fun hdue hall => ?failed, fun hearly => ?waits, fun htry => ?active⟩,
    fun hmode => ?choice, fun hheld => ?held, fun k st at_ hfree hwant => ?applied,
    fun hsteps hup => ⟨fun at_ hspeed hfull hlow hidle hrx htx => ⟨fun hcal => ?refused, fun hcal => ?down⟩, fun hstepped hhigh => ?up⟩,
    fun at_ hstep hdue hdown => ?stepFailed⟩
  case received =>
    have hline : s.LineCounted (s.controlFrame n) := s.controlFrame_lineCounted n
    have hsynce : (s.controlFrame n).synceOn n = true := by rw [hline.rest]; exact hon
    have hlink : ((s.controlFrame n).port n).link = true := (hline.field (·.link) (fun _ => rfl) n).trans hup
    have hclock : (s.controlFrame n).clockId = s.clockId := by rw [hline.rest]; rfl
    obtain ⟨hact, hmode, hport, hctr⟩ := State.esmcIn_spec (ssm := ssm) (tlv := tlv) hsynce hlink
    refine ⟨_, exec_esmcReceive s n ssm tlv, hact.trans (by rw [hline.rest]), hmode.trans (by rw [hline.rest]),
      by rw [hport, hline.now]; rfl, by rw [hport]; rfl, ?_, by rw [hctr, s.controlFrame_ctrAt], fun e id htlv => ?_, fun htlv => ?_⟩
    · rw [hport]
      exact hline.field (·.txQl) (fun _ => rfl) n
    · subst htlv
      rw [hport]
      simp [PortSt.levelled, State.esmcLevel, hclock]
    · subst htlv
      rw [hport]
      rfl
  case sent =>
    obtain ⟨locked, event, e, hsend⟩ := State.esmcSend_due hon hesmc hup hdue
    have hself := State.port_setPort_self (PortSt.queued e ∘ PortSt.levelSent (s.txLevel n) s.now locked event) (State.up_lt hup)
    refine ⟨_, by rw [exec_esmcInfoSend, hsend], rfl, by rw [hself]; rfl, ?_⟩
    rw [hself]
    exact List.length_append
  case unsent => rw [exec_esmcInfoSend, State.esmcSend_none hon hesmc hup hsame hwait]
  case tries => rw [exec_preemptVerifySend, State.verifySend_due hup hpre hdue, if_pos hfew]
  case failed => rw [exec_preemptVerifySend, State.verifySend_due hup hpre hdue, if_neg (by omega)]
  case waits => rw [exec_preemptVerifySend, State.verifySend_early hup hpre hearly]
  case active => rw [exec_preemptRespondReceive, State.respondIn_active hup hpre htry]
  case choice =>
    obtain ⟨since, heval, hsince⟩ := State.parkEval_notes hmode
    refine ⟨_, _, since, by rw [exec_parkEvaluation, heval], hsince, fun hfull => ?_, fun hst => ?_⟩
    · rw [State.parkNow_full _ _ hfull]
      exact ⟨rfl, rfl⟩
    · obtain ⟨hone, hlanes, hbits, harrivals⟩ := State.parkNow_suffice (Prod.mk.eta).symm hst
      exact ⟨hone, hlanes, hbits, harrivals⟩
  case held =>
    obtain ⟨-, -, -, -, hlanes, hstep, -⟩ := s.parkTo_spec s.lanesIn 0 s.now
    refine ⟨_, by rw [exec_parkApply, State.parkApply_held hheld], fun hstretch => ?_, fun hmore => ?_⟩
    · rw [hstep, State.parkStep, if_pos (Nat.zero_le _), if_neg (ne_true_of_eq_false hstretch)]
    · rw [hlanes, State.parkLanes, if_pos (.inl hmore)]
  case applied =>
    obtain ⟨hact, hmd, hports, hctxs, hlanes, hstep, hparked⟩ := s.parkTo_spec k st at_
    refine ⟨_, by rw [exec_parkApply, State.parkApply_noted hfree hwant], hact, hmd, hports, hctxs, fun hmore => ?_, fun hup hstretch => ?_,
      fun hlong => ?_, fun hshort => ?_, fun i _ => hparked i⟩
    · rw [hlanes, State.parkLanes, if_pos (.inl hmore)]
    · rw [hstep, State.parkStep, if_pos hup, if_neg (ne_true_of_eq_false hstretch)]
    · have hheld : s.parkHeld at_ = true := decide_eq_true hlong
      exact ⟨by rw [hlanes, State.parkLanes, if_pos (.inr hheld)], fun hdown => by rw [hstep, State.parkStep, if_neg (by omega), if_pos hheld]⟩
    · have hheld : s.parkHeld at_ = false := decide_eq_false (by omega)
      exact ⟨fun hless => by rw [hlanes, State.parkLanes, if_neg (by simp [hheld]; omega)],
        fun hdown => by rw [hstep, State.parkStep, if_neg (by omega), if_neg (by simp [hheld])]⟩
  case refused => rw [exec_speedStepDown, State.stepDown_idle hsteps hup hspeed hfull hlow hidle hrx htx, if_pos (by simp [hcal])]
  case down =>
    exact ⟨_, by rw [exec_speedStepDown, State.stepDown_idle hsteps hup hspeed hfull hlow hidle hrx htx, if_neg (by simp [hcal])],
      State.beginStep_spec true hup⟩
  case up => exact ⟨_, by rw [exec_speedStepUp, State.stepUpPort_busy hsteps hup hstepped hhigh], State.beginStep_spec false hup⟩
  case stepFailed => rw [exec_speedStepFail, State.stepFailed_due hstep hdue hdown]

end Sys2Proof.Machine
end

section
/-! SUPPORT. A counter of the fault manager through the whole of the SAFE reaction, and each cause of SAFE as that reaction of the state which has noted the cause. -/

namespace Sys2Proof.Machine

open Sys2Proof

theorem exec_weftPeriodicCompare (s : State) : exec .weftPeriodicCompare s = .next s.periodicCompare := rfl

theorem exec_clockMonitorTrip (s : State) (d : ClkDom) : exec (.clockMonitorTrip d) s = .next (s.clockTrip d) := rfl

theorem exec_railFault (s : State) (r : Rail) (mv : Nat) : exec (.railFault r mv) s = .next (s.railFault r mv) := rfl

theorem exec_tempFault (s : State) : exec .tempFault s = .next s.tempFault := rfl

theorem exec_lockstepMismatch (s : State) (sram : Bool) : exec (.lockstepMismatch sram) s = .next (s.lockstep sram) := rfl

theorem exec_heartbeatTimeout (s : State) : exec .heartbeatTimeout s = .next s.heartbeat := rfl

/-! Counts (R397, R425, R455, R553, R587, R600). -/

/-- An entry taken away leaves every entry of a greater key, whatever the order of the map. -/
theorem Assoc.get_del_above {α : Type} {j k : Nat} (h : j < k) (m : Assoc α) : Assoc.get k (Assoc.del j m) = Assoc.get k m := by
  induction m with
  | nil => rfl
  | cons e m ih =>
    obtain ⟨i, v⟩ := e
    by_cases hij : j = i
    · subst hij
      rw [Assoc.del, if_pos rfl, Assoc.get, if_neg (by omega), if_neg (by omega)]
    · rw [Assoc.del, if_neg hij]
      split
      · rfl
      · rw [Assoc.get, Assoc.get, ih]

section
variable {k : Nat} {r s t : State}

/-- A count, even of nothing, leaves every counter above. -/
theorem State.countN_countStands_above (s : State) {off : Nat} (j : Nat) (hk : off < k) : s.CountStands k (s.countN off j) := by
  unfold State.CountStands State.ctrAt
  rw [State.countN_ctr, Assoc.putD]
  split
  · rw [Assoc.get_del_above hk]
  · rw [Assoc.get_put, if_neg (by omega)]

theorem State.CountStands.foldl {α : Type} {f : State → α → State} {l : List α} (hf : ∀ x ∈ l, ∀ u, State.CountStands k u (f u x)) (s : State) :
    s.CountStands k (l.foldl f s) := by
  induction l generalizing s with
  | nil => exact .refl s
  | cons x l ih =>
    exact (hf x (List.mem_cons_self ..) s).trans (ih (fun y hy => hf y (List.mem_cons_of_mem _ hy)) _)

/-- Another counter counted after a change that counts in none. -/
theorem State.CountStands.count (h : t.ctr = s.ctr) {off : Nat} (hk : k ≠ off) : s.CountStands k (t.count off) :=
  (State.CountStands.of_ctr h).trans (t.count_countStands hk)

/-- Another counter counted after FeRAM has changed. -/
theorem State.withFe_count_countStands (s : State) (fe : FeSt) {off : Nat} (hk : k ≠ off) :
    s.CountStands k (({ s with fe := fe } : State).count off) := .count rfl hk

theorem State.log_countStands (s : State) (typ : Nat) (body : List Byte) (hk : k ≠ 0x100218) : s.CountStands k (s.log typ body) :=
  .ite (.refl s) (s.withFe_count_countStands _ hk)

theorem State.faultReport_countStands (s : State) (tag safe : Nat) (hk : k ≠ fmuCtr 1) : s.CountStands k (s.faultReport tag safe) := by
  unfold State.faultReport
  exact .count rfl hk

theorem State.stepStat_countStands (s : State) (x : StepRec) (st code : Nat) : s.CountStands k (s.stepStat x st code) := by
  unfold State.stepStat
  extract_lets _ _ _ s1
  have h1 : s.CountStands k s1 := .of_ctr rfl
  exact .ite (.refl s) (.ite (h1.trans (s1.cause_countStands 3)) h1)

theorem State.abandonSteps_countStands (s : State) : s.CountStands k s.abandonSteps := by
  unfold State.abandonSteps
  extract_lets s1 _ tb
  have h1 : s.CountStands k s1 := by
    unfold s1
    split
    · exact s.stepStat_countStands _ _ _
    · exact .refl s
  exact h1.trans (.of_ctr rfl)

theorem State.abortUpdate_countStands (s : State) : s.CountStands k s.abortUpdate := .ite (.of_ctr rfl) (.refl s)

/-- A counter above those of the Weave and the event inputs, in which no abort, completion, report or record counts. -/
def safeSpares (k : Nat) : Prop :=
  wvCtr 14 < k ∧ 0x50378 < k ∧ k ≠ pkeCtr 3 ∧ k ≠ 0xB0108 ∧ k ≠ fmuCtr 1 ∧ k ≠ 0x100218 ∧ k ≠ hifCtr 7 ∧ k ≠ hifCtr 11

variable (hk : safeSpares k)
include hk

theorem State.cqFinish_countStands (s : State) (c : CompWait) : s.CountStands k (s.cqFinish c) := by
  obtain ⟨-, -, -, -, -, -, h7, h11⟩ := hk
  unfold State.cqFinish State.cqWrite
  extract_lets _ s1 s2 s3
  have hdma : s.CountStands k s1 := .of_ctr ((State.dma_ctr _ _ _).trans (State.dma_ctr _ _ _))
  have h3 : s.CountStands k s3 := (hdma.trans (.of_ctr rfl)).trans (s2.count_countStands h7)
  exact .ite (.ite (h3.trans ((s3.count_countStands h11).trans (State.cause_countStands _ 11))) h3) (.of_ctr rfl)

theorem State.pkeAbort_countStands (s : State) (o : PkeOp) : s.CountStands k (s.pkeAbort o) := by
  obtain ⟨-, -, h3, -⟩ := id hk
  unfold State.pkeAbort State.cqComplete
  extract_lets _ s1 s2
  have hzero : s1.CountStands k (s1.zeroCore o.core) := .of_ctr (by unfold State.zeroCore; split <;> rfl)
  have h2 : s.CountStands k s2 := (State.CountStands.of_ctr rfl).trans (hzero.trans (State.count_countStands _ h3))
  exact .ite (h2.trans (.of_ctr rfl)) (h2.trans (State.cqFinish_countStands hk _ _))

theorem State.mintAbort_countStands (s : State) (m : Mint) (code : Nat) : s.CountStands k (s.mintAbort m code) := by
  obtain ⟨-, -, -, h8, -⟩ := id hk
  unfold State.mintAbort State.cqComplete
  extract_lets _ s1
  have h1 : s.CountStands k s1 := .count rfl h8
  exact .ite (h1.trans (State.cqFinish_countStands hk _ _)) (h1.trans (State.cqFinish_countStands hk _ _))

theorem State.abortHeld_countStands (s : State) (all : Bool) : s.CountStands k (s.abortHeld all) := by
  unfold State.abortHeld
  extract_lets _ _ s0 s1
  have h0 : s.CountStands k s0 := .ite (.of_ctr rfl) (.refl s)
  have h1 : s0.CountStands k s1 := .foldl (fun o _ u => State.pkeAbort_countStands hk u o) s0
  exact (h0.trans h1).trans (.foldl (fun m _ u => State.mintAbort_countStands hk u m 0x31) s1)

theorem State.closeAllMeas_countStands (s : State) : s.CountStands k s.closeAllMeas := by
  obtain ⟨-, htin, -⟩ := hk
  refine .foldl (fun n hn u => ?_) s
  have hn : n < 8 := List.mem_range.1 hn
  unfold State.closeMeas State.fifoPut State.loseRecord
  split
  · exact .refl u
  · refine State.CountStands.trans ?_ (.of_ctr rfl)
    exact .ite (.of_ctr rfl) (.count rfl (by omega))

theorem State.workEnded_countStands (s : State) : s.CountStands k s.workEnded := by
  have hfree : s.CountStands k s.freeContexts := (s.countN_countStands_above _ hk.1).trans (.of_ctr rfl)
  have hcommits (u : State) : u.CountStands k u.abandonCommits := .of_ctr rfl
  unfold State.workEnded
  exact ((((hfree.trans (State.abortHeld_countStands hk _ true)).trans (hcommits _)).trans (State.abandonSteps_countStands _)).trans
    (State.closeAllMeas_countStands hk _)).trans (State.abortUpdate_countStands _)

theorem State.setMode_safe_countStands (s : State) (cause : Nat) : s.CountStands k (s.setMode .safe cause) := by
  obtain ⟨-, -, -, -, -, hlog, -⟩ := hk
  unfold State.setMode
  extract_lets old s1 _ s1b s2 _ md _ gns _ s3 s4 s5
  have h1 : s.CountStands k s1 := .ite (.of_ctr rfl) (.refl s)
  have h2 : s1b.CountStands k s2 := .ite (.trans (.ite (.of_ctr (State.thawWeft_ctr _)) (.refl _)) (.of_ctr rfl)) (.refl _)
  have h3 : s2.CountStands k s3 := .of_ctr (State.cause_ctr _ 0)
  have h4 : s2.CountStands k s4 := h3.trans (s3.log_countStands _ _ hlog)
  have h5 : s4.CountStands k s5.outputsFollow := .of_ctr (by rw [show s5.outputsFollow = _ from s5.outputsFollow_outputsOnly])
  exact ((h1.trans (.of_ctr rfl)).trans h2).trans (h4.trans h5)

omit hk in
theorem State.safeReady_ctr (s : State) : s.safeReady.ctr = s.workEnded.ctr := by
  unfold State.safeReady
  generalize s.workEnded = u
  rfl

omit hk in
theorem State.safeModed_ctr (s : State) (cause : Nat) : (s.safeModed cause).ctr = (s.safeReady.setMode .safe cause).ctr := by
  unfold State.safeModed
  generalize s.safeReady.setMode .safe cause = u
  rfl

theorem State.safeActions_countStands (s : State) (cause : Nat) : s.CountStands k (s.safeActions cause) := by
  have hready : s.CountStands k s.safeReady := (State.workEnded_countStands hk s).trans (.of_ctr s.safeReady_ctr)
  have hmoded : s.CountStands k (s.safeModed cause) :=
    (hready.trans (State.setMode_safe_countStands hk _ cause)).trans (.of_ctr (s.safeModed_ctr cause))
  rw [State.safeActions_eq]
  refine .ite (hmoded.trans ?_) hmoded
  generalize s.safeModed cause = u
  exact .of_ctr rfl

omit hk in
theorem State.causeKept_countStands (s : State) (tag cause : Nat) : s.CountStands k (s.causeKept tag cause) := .of_ctr rfl

/-- Nothing of the SAFE reaction counts in such a counter. -/
theorem State.safeReaction_countStands {tag cause : Nat} {pathB : Bool} (h : s.md.mode ≠ .safe) :
    s.CountStands k (s.safeReaction tag cause pathB) := by
  have hrep : s.CountStands k (s.safeReported tag cause) := .ite (.refl s) (s.faultReport_countStands _ _ hk.2.2.2.2.1)
  have hshut : s.CountStands k (s.gateShut tag cause pathB) := hrep.trans (.of_ctr (by unfold State.gateShut; dsimp only; rw [State.noteFault_eq]))
  rw [State.safeReaction_outside h]
  exact (hshut.trans (State.causeKept_countStands _ tag cause)).trans (State.safeActions_countStands hk _ cause)

end

/-! The causes (R556, R561 to R563, R593). -/

section
variable {s : State}

/-- A report joins the open window or opens one, and touches nothing else of the fault manager (R569). -/
theorem State.faultReport_fmu (s : State) (tag safe : Nat) : (s.faultReport tag safe).fmu =
    { s.fmu with window := some (s.fmu.window.getD s.now),
                 reports := (if s.fmu.window.isSome then s.fmu.reports else []) ++ [{ tag := tag, time := s.nowWord, safe := safe }] } := by
  unfold State.faultReport
  cases hwin : s.fmu.window <;> simp [hwin]

/-- What the SAFE reaction leaves in the fault manager beside its own fields: the first failed difference, and whether Bodkin is halted. -/
theorem State.safeReaction_fmu_stands {tag cause : Nat} {pathB : Bool} (h : s.md.mode ≠ .safe) :
    (s.safeReaction tag cause pathB).fmu.gateDiff = s.fmu.gateDiff ∧ (s.safeReaction tag cause pathB).fmu.halted = s.fmu.halted := by
  have hrep : (s.safeReported tag cause).fmu.gateDiff = s.fmu.gateDiff ∧ (s.safeReported tag cause).fmu.halted = s.fmu.halted := by
    unfold State.safeReported
    split
    · exact ⟨rfl, rfl⟩
    · rw [s.faultReport_fmu]
      exact ⟨rfl, rfl⟩
  have hshut : (s.gateShut tag cause pathB).fmu.gateDiff = s.fmu.gateDiff ∧ (s.gateShut tag cause pathB).fmu.halted = s.fmu.halted := by
    unfold State.gateShut
    dsimp only
    rw [State.noteFault_eq]
    exact hrep
  rw [(State.safeReaction_entryFrame (tag := tag) (cause := cause) (pathB := pathB) h).fmu]
  exact hshut

/-- The SAFE reaction of a state that differs in nothing that it is judged by. -/
theorem State.safeReaction_entered_of {u : State} {tag cause : Nat} {pathB : Bool} (h : s.md.mode ≠ .safe)
    (hu : u = { s with fmu := u.fmu, ctr := u.ctr, fresh := u.fresh }) : SafeEntered cause s (u.safeReaction tag cause pathB) := by
  have hmode : u.md.mode ≠ .safe := by rw [hu]; exact h
  have hentered : SafeEntered cause u (u.safeReaction tag cause pathB) := State.safeReaction_entered hmode
  generalize u.safeReaction tag cause pathB = t at *
  unfold SafeEntered at *
  rw [hu] at hentered
  exact hentered

/-- The state in which a failed comparison has been counted, the first with its difference kept (R557, R586, R587). -/
def State.gateTripped (s : State) (d : Int) : State :=
  let s1 := s.count (fmuCtr 3)
  { s1 with fmu := { s1.fmu with gateDiff := some (s1.fmu.gateDiff.getD (satSym 32 d)) }, fresh := s.fresh + 1 }

theorem State.gateTrip_eq (s : State) (d : Int) : ∃ tag, s.gateTrip d = (s.gateTripped d).safeReaction tag 0x35 true := ⟨_, rfl⟩

/-- A failed comparison ends in SAFE, counted, and the first keeps its difference (R556, R557). -/
theorem State.gateTrip_spec (d : Int) (h : s.md.mode ≠ .safe) : SafeEntered 0x35 s (s.gateTrip d) ∧
    (s.gateTrip d).fmu.gateDiff = some (s.fmu.gateDiff.getD (satSym 32 d)) ∧
    (s.gateTrip d).ctrAt (fmuCtr 3) = ctrAdd (s.ctrAt (fmuCtr 3)) 1 := by
  obtain ⟨tag, heq⟩ := s.gateTrip_eq d
  have hspared : safeSpares (fmuCtr 3) := by unfold safeSpares; decide
  have hcount : (s.gateTripped d).ctrAt (fmuCtr 3) = ctrAdd (s.ctrAt (fmuCtr 3)) 1 := s.ctrAt_count_self (fmuCtr 3)
  rw [heq]
  exact ⟨State.safeReaction_entered_of h rfl, (State.safeReaction_fmu_stands (s := s.gateTripped d) h).1,
    Eq.trans (State.safeReaction_countStands (s := s.gateTripped d) hspared h) hcount⟩

/-- Bodkin halted ends in SAFE (R567, R593). -/
theorem State.bodkinFault_spec {u : State} (tag : Nat) (h : s.md.mode ≠ .safe)
    (hu : u = { s with fmu := u.fmu, ctr := u.ctr, fresh := u.fresh }) :
    SafeEntered 0x39 s (u.bodkinFault tag) ∧ (u.bodkinFault tag).fmu.halted = true := by
  have hhalt : ({ u with fmu := { u.fmu with halted := true } } : State).md.mode ≠ .safe := by rw [hu]; exact h
  exact ⟨State.safeReaction_entered_of h (by rw [hu]), (State.safeReaction_fmu_stands hhalt).2⟩

theorem State.periodicCompare_fails (hload : s.tb.weftLoaded = true) (hgate : s.fmu.gate = false) (hms : s.tb.warp % 1000000 = 0)
    (hfail : s.weftPasses (weftDiff s.tb.warp s.weftCmp) = false) :
    s.periodicCompare = s.gateTrip (weftDiff s.tb.warp s.weftCmp) := by
  unfold State.periodicCompare
  rw [if_neg (by simp [hload, hgate, hms])]
  exact if_neg (ne_true_of_eq_false hfail)

theorem State.clockTrip_safe {d : ClkDom} (hreset : s.inReset = false) (hlock : s.glb.pllLocked = true)
    (hd : d ∈ [ClkDom.time, ClkDom.weft, ClkDom.core, ClkDom.mgt]) : s.clockTrip d = s.safeReaction (0x1000 + domIx d) 0x36 true := by
  unfold State.clockTrip
  rw [if_neg (by simp [hreset, hlock])]
  simp only [List.mem_cons, List.not_mem_nil, or_false] at hd
  rcases hd with rfl | rfl | rfl | rfl <;> rfl

/-- The state in which the droop record has seen VDD_CORE. -/
def State.railSeen (s : State) (mv : Nat) : Rail → State
  | .core => s.seeCore mv
  | _ => s

theorem State.railFault_out {r : Rail} {mv : Nat} (hreset : s.inReset = false) (hout : railFaulty (railIx r) mv = true) :
    s.railFault r mv = (s.railSeen mv r).safeReaction (railIx r) 0x37 true := by
  unfold State.railFault
  rw [if_neg (by simp [hreset, hout])]
  cases r <;> rfl

theorem State.tempFault_eq (hreset : s.inReset = false) :
    ∃ tag, s.tempFault = ({ s with fresh := s.fresh + 1 } : State).safeReaction tag 0x38 false :=
  ⟨_, if_neg (ne_true_of_eq_false hreset)⟩

theorem State.lockstep_eq (sram : Bool) (hreset : s.inReset = false) :
    s.lockstep sram = if sram then (s.count (fmuCtr 5)).bodkinFault 0x2002 else s.bodkinFault 0x3001 :=
  if_neg (ne_true_of_eq_false hreset)

theorem State.heartbeat_late (hrun : s.md.mode.running = true) (hlive : s.fmu.halted = false) (hheart : s.fmu.lastHeart + 10000000 ≤ s.now)
    (hsince : s.md.since + 10000000 ≤ s.now) : s.heartbeat = s.bodkinFault 0x3001 :=
  if_pos (by
    have hboth : max s.fmu.lastHeart s.md.since + 10000000 ≤ s.now := by omega
    simp [hrun, hlive, hboth])

end

/-- Settles O49: each cause is the SAFE reaction of a state in which nothing but the cause has been noted. -/
theorem eachSafeCauseLeadsToSafe : Obligations.EachSafeCauseLeadsToSafe := by
  intro s hreset hmode
  refine ⟨fun hload hgate hms hfail => ?gate, fun hlock d hd => ?clock, fun r mv hout => ?rail, ?temperature, fun sram => ?lockstep,
    fun hrun hlive hheart hsince => ?heartbeat⟩
  case gate => exact ⟨_, by rw [exec_weftPeriodicCompare, State.periodicCompare_fails hload hgate hms hfail], State.gateTrip_spec _ hmode⟩
  case clock => exact ⟨_, by rw [exec_clockMonitorTrip, State.clockTrip_safe hreset hlock hd], State.safeReaction_entered hmode⟩
  case rail =>
    exact ⟨_, by rw [exec_railFault, State.railFault_out hreset hout], State.safeReaction_entered_of hmode (by cases r <;> rfl)⟩
  case temperature =>
    obtain ⟨tag, htemp⟩ := State.tempFault_eq hreset
    exact ⟨_, by rw [exec_tempFault, htemp], State.safeReaction_entered_of hmode rfl⟩
  case lockstep =>
    refine ⟨_, by rw [exec_lockstepMismatch, State.lockstep_eq sram hreset], ?_⟩
    cases sram
    · exact State.bodkinFault_spec 0x3001 hmode rfl
    · exact State.bodkinFault_spec 0x2002 hmode rfl
  case heartbeat =>
    exact ⟨_, by rw [exec_heartbeatTimeout, State.heartbeat_late hrun hlive hheart hsince], State.bodkinFault_spec 0x3001 hmode rfl⟩

end Sys2Proof.Machine
end

section
/-! SUPPORT. The paths of FAULT_N, a report that is no cause of SAFE, a storm window of one report, and a scrub that ends. -/

namespace Sys2Proof.Machine

open Sys2Proof

theorem exec_faultPathFail (s : State) (a : Bool) : exec (.faultPathFail a) s = .next (s.pathFails a) := rfl

theorem exec_pathAHeartbeatLoss (s : State) : exec .pathAHeartbeatLoss s = .next s.pathALost := rfl

theorem exec_faultReport (s : State) (tag : BitVec 16) : exec (.faultReport tag) s = .next (s.reportTag tag.toNat) := rfl

theorem exec_stormWindowClose (s : State) : exec .stormWindowClose s = .next s.closeStorm := rfl

theorem exec_memoryScrubDone (s : State) (m : Nat) (ok : Bool) : exec (.memoryScrubDone m ok) s = .next (s.scrubDone m ok) := rfl

section
variable {s : State}

/-! FAULT_N (R561, R565). -/

/-- A state whose causes are noted as those of another: nothing but the host interface is touched. -/
theorem State.noteFault_noteDegraded (old u : State) : ∃ hif, old.noteFault (old.noteDegraded u) = { u with hif := hif } := by
  rw [State.noteFault_eq, State.noteDegraded_eq]
  exact ⟨_, rfl⟩

/-- The state in which a path has failed and the other asserts FAULT_N. -/
def State.pathDead (s : State) (a : Bool) : State :=
  { s with fmu := { s.fmu with pathFail := true, pathA := s.fmu.pathA || !a, pathB := s.fmu.pathB || a } }

theorem State.pathFails_spec (a : Bool) (hlow : (if a then s.fmu.pathA else s.fmu.pathB) = true) : ∃ t, s.pathFails a = t ∧
    t.fmu = (s.pathDead a).fmu ∧ t.degraded = true ∧ t = { s with fmu := t.fmu, hif := t.hif } := by
  obtain ⟨hif, hnote⟩ := s.noteFault_noteDegraded (s.pathDead a)
  have hfails : s.pathFails a = s.noteFault (s.noteDegraded (s.pathDead a)) := by
    unfold State.pathFails State.pathDead
    cases a
    · simp_all
    · simp_all
  exact ⟨_, hfails.trans hnote, rfl, rfl, rfl⟩

theorem State.pathALost_spec : s.pathALost.fmu = { s.fmu with pathB := true } ∧
    s.pathALost = { s with fmu := s.pathALost.fmu, hif := s.pathALost.hif } := by
  unfold State.pathALost
  rw [State.noteFault_eq]
  exact ⟨rfl, rfl⟩

/-! Reports (R568, R569). -/

/-- A clock other than those whose trips are SAFE causes is reported, and no more. -/
theorem State.reportTag_clock {i : Nat} (hi : i ∈ [3, 4, 5, 6, 7, 8, 10, 11]) (hreset : s.inReset = false) :
    s.reportTag (BitVec.ofNat 16 (0x1000 + i)).toNat = s.faultReport (0x1000 + i) 0 := by
  have htag : ∀ j ∈ [3, 4, 5, 6, 7, 8, 10, 11], (BitVec.ofNat 16 (0x1000 + j)).toNat = 0x1000 + j ∧ tagOk (0x1000 + j) = true ∧
      (0x1000 + j) / 4096 = 1 ∧ clockSafe ((0x1000 + j) % 256) = false := by decide
  obtain ⟨hnat, hok, hclock, hsafe⟩ := htag i hi
  unfold State.reportTag
  rw [hnat, hok, hclock, hsafe, hreset]
  rfl

/-! A storm of one report (R569, R570). -/

/-- A root's record keeps its ACTION when that is filled in again. -/
theorem withAction_rootBytes (root : Nat) (g : List Report) (action cause : Nat) :
    withAction (rootBytes root g action cause) action = rootBytes root g action cause := by
  simp [withAction, rootBytes, leBytes]

theorem rootBytes_action (root : Nat) (g : List Report) (action cause : Nat) : (rootBytes root g action cause).getD 6 0 = BitVec.ofNat 8 action := rfl

/-- The record written last stands last in the log. -/
theorem getLast?_logged {α : Type} (l : List α) (r : α) (n : Nat) (hn : n ≤ l.length) : ((l ++ [r]).drop n).getLast? = some r := by
  rw [List.getLast?_drop, if_neg (by simp only [List.length_append, List.length_singleton]; omega), List.getLast?_concat]

/-- A record written to the log stands last there. -/
theorem State.logAs_last (s : State) (fmu : Bool) (typ : Nat) (body : List Byte) :
    (s.logAs fmu typ body).fe.log.getLast? = some ⟨typ, fmu, s.fe.nextSeq, s.nowWord, padTo 40 body⟩ := by
  simp only [State.logAs, State.count_fe]
  exact getLast?_logged _ _ _ (by simp)

theorem State.writeRoot_eq (s : State) (body : List Byte) : ∃ fe ctr,
    s.writeRoot body = { s with fmu := { s.fmu with root := body }, fe := fe, ctr := ctr } ∧
      fe = (s.logAs (decide (body.getD 6 0 = 3) || s.fmu.halted) 0x0005 body).fe := ⟨_, _, rfl, rfl⟩

theorem FeSt.retired_logged (fe : FeSt) (l : List LogRec) (n : Nat) : ({ fe with log := l, nextSeq := n } : FeSt).retired = fe.retired := rfl

/-- What writing a root-cause record leaves: the record in the log and in FMU_ROOT (R570). -/
theorem State.writeRoot_spec (s : State) (body : List Byte) : let t := s.writeRoot body
    t.fmu = { s.fmu with root := body } ∧ t = { s with fmu := t.fmu, fe := t.fe, ctr := t.ctr } ∧ t.fe.nextSeq = s.fe.nextSeq + 1 ∧
    t.fe.retired = s.fe.retired ∧
    t.fe.log.getLast? = some ⟨0x0005, decide (body.getD 6 0 = 3) || s.fmu.halted, s.fe.nextSeq, s.nowWord, padTo 40 body⟩ := by
  obtain ⟨fe, ctr, ht, hfe⟩ := s.writeRoot_eq body
  have hlast := s.logAs_last (decide (body.getD 6 0 = 3) || s.fmu.halted) 0x0005 body
  have hkept : fe.nextSeq = s.fe.nextSeq + 1 ∧ fe.retired = s.fe.retired := by
    rw [hfe, State.logAs, State.count_fe]
    exact ⟨rfl, FeSt.retired_logged _ _ _⟩
  rw [← hfe] at hlast
  intro t
  have ht : t = { s with fmu := { s.fmu with root := body }, fe := fe, ctr := ctr } := ht
  clear_value t
  subst ht
  exact ⟨rfl, rfl, hkept.1, hkept.2, hlast⟩

/-- One report, of a rail or a clock and no cause of SAFE, is its own root, and no test stands behind it. -/
theorem stormRoots_single {r : Report} (htag : r.tag < 0x2000) (hsafe : r.safe = 0) :
    stormRoots 1 [r] s = s.writeRoot (rootBytes r.tag [r] 1 0) := by
  have hkind : r.tag / 4096 = 0 ∨ r.tag / 4096 = 1 := by omega
  have hgroup : [r].filter (fun x => x.tag == r.tag || (depsOf x.tag).contains r.tag) = [r] := by simp
  have hfirst : [r].find? (fun x => x.tag / 4096 == [r].foldl (fun m x => min m (x.tag / 4096)) 16) = some r := by
    simp only [List.foldl_cons, List.foldl_nil, List.find?_cons]
    rw [show min 16 (r.tag / 4096) = r.tag / 4096 by omega, beq_self_eq_true]
  have htest (u : State) (body : List Byte) : u.testRoot r.tag body false = u.writeRoot (withAction body 1) := by
    unfold State.testRoot
    rcases hkind with h | h <;> rw [h] <;> rfl
  have hcause : (([r].find? (fun x => x.safe != 0)).map (·.safe)).getD 0 = 0 := by simp [hsafe]
  unfold stormRoots
  dsimp only
  rw [hfirst]
  dsimp only
  rw [hgroup, hcause]
  show stormRoots 0 _ (s.testRoot r.tag (rootBytes r.tag [r] 1 0) false) = _
  rw [htest, withAction_rootBytes]
  rfl

theorem State.closeStorm_single {at_ : Nat} {r : Report} (hwin : s.fmu.window = some at_) (hdue : at_ + 10000 ≤ s.now)
    (hone : s.fmu.reports = [r]) (htag : r.tag < 0x2000) (hsafe : r.safe = 0) :
    s.closeStorm = ({ s with fmu := { s.fmu with window := none, reports := [] } } : State).writeRoot (rootBytes r.tag [r] 1 0) := by
  unfold State.closeStorm
  rw [hwin, hone]
  dsimp only
  rw [if_neg (by omega)]
  exact stormRoots_single htag hsafe

/-! Scrubs (R580, R587). -/

theorem State.addRetired_spec (s : State) (u : Nat) : s.addRetired u = { s with fe := (s.addRetired u).fe } ∧
    (s.addRetired u).fe.retired = if u ∈ s.fe.retired then s.fe.retired else s.fe.retired ++ [u] := by
  unfold State.addRetired
  by_cases hin : u ∈ s.fe.retired
  · simp [hin]
  · simp [hin]

/-- The error is lasting where the test failed or the third of 24 h has come, and only counting tells that. -/
theorem State.classify_spec (s : State) (u : Nat) (ok : Bool) : ∃ i, s.classify u ok = (!(ok && decide (s.errsOf u < 3)), s.count (fmuCtr i)) := by
  unfold State.classify
  by_cases hpass : (ok && decide (s.errsOf u < 3)) = true
  · exact ⟨6, by rw [if_pos hpass, hpass]; rfl⟩
  · exact ⟨7, by rw [if_neg hpass, eq_false_of_ne_true hpass]; rfl⟩

/-- The state of a scrub that has ended, its error classed and its record written. -/
theorem State.scrubDone_spec {m : Nat} {ok : Bool} {body : List Byte} (hscrub : s.fmu.scrubs.find? (fun e => e.1 == m) = some (m, body)) :
    let t := s.scrubDone m ok
    t.fmu.scrubs = s.fmu.scrubs.erase (m, body) ∧ t.md = s.md ∧ t.fe.retired =
      if (ok = true ∧ s.errsOf (32 + m) < 3) ∨ 32 + m ∈ s.fe.retired then s.fe.retired else s.fe.retired ++ [32 + m] := by
  intro t
  let s1 : State := { s with fmu := { s.fmu with scrubs := s.fmu.scrubs.erase (m, body) } }
  obtain ⟨i, hclass⟩ := s1.classify_spec (32 + m) ok
  have hrec : ∃ u, u.fmu.scrubs = s1.fmu.scrubs ∧ u.md = s1.md ∧ u.fe.retired = s1.fe.retired ∧
      t = if ok = true ∧ s.errsOf (32 + m) < 3 then u else u.noteDegraded (u.addRetired (32 + m)) := by
    let s2 := s1.count (fmuCtr i)
    let lasting := !(ok && decide (s.errsOf (32 + m) < 3))
    let u := if body.isEmpty then s2 else s2.writeRoot (withAction body (if lasting then 2 else 1))
    have ht : t = if lasting then u.noteDegraded (u.addRetired (32 + m)) else u := by
      unfold t State.scrubDone
      rw [hscrub]
      dsimp only
      rw [hclass]
      rfl
    have hu : u.fmu.scrubs = s1.fmu.scrubs ∧ u.md = s1.md ∧ u.fe.retired = s1.fe.retired := by
      unfold u
      split
      · exact ⟨rfl, rfl, rfl⟩
      · obtain ⟨hfmu, hrest, -, hret, -⟩ := s2.writeRoot_spec (withAction body (if lasting then 2 else 1))
        exact ⟨by rw [hfmu]; rfl, by rw [hrest]; rfl, hret⟩
    refine ⟨u, hu.1, hu.2.1, hu.2.2, ht.trans ?_⟩
    by_cases hpass : ok = true ∧ s.errsOf (32 + m) < 3
    · rw [if_pos hpass, if_neg (by simp [lasting, hpass])]
    · have hfail : (ok && decide (s.errsOf (32 + m) < 3)) = false := by simpa using hpass
      rw [if_neg hpass, if_pos (by unfold lasting; rw [hfail]; rfl)]
  obtain ⟨u, hscrubs, hmd, hret, ht⟩ := hrec
  obtain ⟨hadd, hretired⟩ := u.addRetired_spec (32 + m)
  rw [ht]
  by_cases hpass : ok = true ∧ s.errsOf (32 + m) < 3
  · rw [if_pos hpass, if_pos (.inl hpass)]
    exact ⟨hscrubs, hmd, hret⟩
  · rw [if_neg hpass, State.noteDegraded_eq]
    refine ⟨?_, ?_, ?_⟩
    · rw [hadd]; exact hscrubs
    · rw [hadd]; exact hmd
    · rw [hret] at hretired
      simp only [hpass, false_or]
      exact hretired

end

/-- Settles O50: a path by whether it drives low, a report by its domain, the window by the root of its one report, and a scrub by its class. -/
theorem faultPathsReportsAndStormsAreRecorded : Obligations.FaultPathsReportsAndStormsAreRecorded := by
  intro s
  refine ⟨fun hlow => ?pathA, fun hlow => ?pathB, ?heartbeat, fun i hi hreset => ?report, fun at_ r hwin hdue hone htag hsafe => ?storm,
    fun m ok body hscrub => ?scrub⟩
  case pathA =>
    obtain ⟨t, hfails, hfmu, hdeg, hrest⟩ := State.pathFails_spec (s := s) true hlow
    exact ⟨t, by rw [exec_faultPathFail, hfails], by rw [hfmu]; simp [State.pathDead], hdeg, hrest⟩
  case pathB =>
    obtain ⟨t, hfails, hfmu, hdeg, hrest⟩ := State.pathFails_spec (s := s) false hlow
    exact ⟨t, by rw [exec_faultPathFail, hfails], by rw [hfmu]; simp [State.pathDead], hdeg, hrest⟩
  case heartbeat => exact ⟨_, exec_pathAHeartbeatLoss s, State.pathALost_spec⟩
  case report =>
    refine ⟨_, by rw [exec_faultReport, State.reportTag_clock hi hreset], rfl, ?_, s.faultReport_fmu (0x1000 + i) 0⟩
    exact State.ctrAt_count_self { s with fmu := (s.faultReport (0x1000 + i) 0).fmu } (fmuCtr 1)
  case storm =>
    obtain ⟨hfmu, hrest, hseq, -, hlog⟩ :=
      State.writeRoot_spec { s with fmu := { s.fmu with window := none, reports := [] } } (rootBytes r.tag [r] 1 0)
    rw [rootBytes_action] at hlog
    exact ⟨_, by rw [exec_stormWindowClose, State.closeStorm_single hwin hdue hone htag hsafe], hfmu, hrest, hseq, hlog⟩
  case scrub => exact ⟨_, exec_memoryScrubDone s m ok, State.scrubDone_spec hscrub⟩

end Sys2Proof.Machine
end

section
/-! SUPPORT. The master keys moved down at a rotation, and a mint command from its start to its end. -/

namespace Sys2Proof.Machine

open Sys2Proof Sys2Proof.Machine.Crypto

theorem exec_keyRotation (s : State) : exec .keyRotation s = .next s.keyRotation := rfl

theorem exec_rotate (s : State) (token : BitVec 16) : exec (.rotate token) s = .next (s.rotateOp token.toNat) := rfl

theorem exec_cookieMint (s : State) : exec .cookieMint s = .next s.mintStart := rfl

theorem exec_mintComplete (s : State) : exec .mintComplete s = .next s.mintComplete := rfl

/-! The key store (R445). -/

/-- The key store with what one slot holds moved to another: the other is empty where the one is. -/
def keyMoved (m : Assoc KeySlot) (a b : Nat) : Assoc KeySlot :=
  match Assoc.get a m with
  | some k => Assoc.put b k m
  | none => Assoc.del b m

theorem keyMoved_rising {m : Assoc KeySlot} (a b : Nat) (h : Assoc.rising m) : Assoc.rising (keyMoved m a b) := by
  unfold keyMoved
  split
  · exact Assoc.rising_put _ _ _ h
  · exact Assoc.rising_del _ _ h

theorem get_keyMoved {m : Assoc KeySlot} (a b j : Nat) (h : Assoc.rising m) :
    Assoc.get j (keyMoved m a b) = if j = b then Assoc.get a m else Assoc.get j m := by
  unfold keyMoved
  cases hget : Assoc.get a m with
  | some k => rw [Assoc.get_put]
  | none => rw [Assoc.get_del _ _ _ h]

/-- The key store after a rotation: a new key in slot 1, the old current one in slot 2, the previous one in slot 3. -/
def keysRotated (m : Assoc KeySlot) (new : KeySlot) : Assoc KeySlot := Assoc.put 1 new (keyMoved (keyMoved m 2 3) 1 2)

theorem get_keysRotated {m : Assoc KeySlot} (new : KeySlot) (h : Assoc.rising m) :
    Assoc.get 1 (keysRotated m new) = some new ∧ Assoc.get 2 (keysRotated m new) = Assoc.get 1 m ∧
    Assoc.get 3 (keysRotated m new) = Assoc.get 2 m ∧ ∀ j, j ≠ 1 → j ≠ 2 → j ≠ 3 → Assoc.get j (keysRotated m new) = Assoc.get j m := by
  have hmoved := keyMoved_rising 2 3 h
  refine ⟨?_, ?_, ?_, fun j h1 h2 h3 => ?_⟩ <;>
    simp [keysRotated, Assoc.get_put, get_keyMoved _ _ _ hmoved, get_keyMoved _ _ _ h, *]

/-! The rotation. -/

/-- The KEYID after the current one: 0 is skipped. -/
def nextKeyId : Option KeySlot → Nat
  | some k => if k.keyId = 0xFFFFFFFF then 1 else k.keyId + 1
  | none => 1

/-- The key that a rotation draws. -/
def State.newMaster (s : State) : KeySlot :=
  { typ := 7, curve := 0xFF, policy := 16, secret := beBytes 32 (s.draw.1 % 2 ^ 256), pub := [], keyId := nextKeyId (Assoc.get 1 s.fe.slots) }

/-- The state in which the keys have moved and the count of service begins anew. -/
def State.keysTurned (s : State) : State :=
  { s with fresh := s.fresh + 1, wv := { s.wv with rotDue := false },
           fe := { s.fe with slots := keysRotated s.fe.slots s.newMaster,
                             rotCount := -(((if s.md.mode.running then s.now - s.md.since else 0) : Nat) : Int) } }

/-- A waiting ROTATE answered with code 0x00. -/
def WvSt.rotAnswered (w : WvSt) : WvSt :=
  match w.rotToken with
  | some t => { w with rotToken := none, symToken := t, symCode := 0 }
  | none => w

theorem WvSt.rotAnswered_spec (w : WvSt) : w.rotAnswered.rotDue = w.rotDue ∧ w.rotAnswered.rotToken = none ∧
    ∀ k, w.rotToken = some k → w.rotAnswered.symToken = k ∧ w.rotAnswered.symCode = 0 := by
  unfold WvSt.rotAnswered
  split
  case h_1 t ht => exact ⟨rfl, rfl, fun k hk => ⟨Option.some.inj (ht.symm.trans hk), rfl⟩⟩
  case h_2 ht => exact ⟨rfl, ht, fun k hk => absurd hk (by simp [ht])⟩

theorem FeSt.slots_logged (fe : FeSt) (l : List LogRec) (n : Nat) :
    ({ fe with log := l, nextSeq := n } : FeSt).slots = fe.slots ∧ ({ fe with log := l, nextSeq := n } : FeSt).rotCount = fe.rotCount := ⟨rfl, rfl⟩

/-- A record in the log leaves the key store and the count of service. -/
theorem State.log_slots (s : State) (typ : Nat) (body : List Byte) :
    (s.log typ body).fe.slots = s.fe.slots ∧ (s.log typ body).fe.rotCount = s.fe.rotCount := by
  unfold State.log
  split
  · exact ⟨rfl, rfl⟩
  · rw [State.logAs, State.count_fe]
    exact FeSt.slots_logged _ _ _

theorem State.rotateKeys_eq (s : State) : ∃ fe ctr,
    s.rotateKeys = { s.keysTurned with fe := fe, ctr := ctr, wv := s.keysTurned.wv.rotAnswered } ∧
      fe.slots = s.keysTurned.fe.slots ∧ fe.rotCount = s.keysTurned.fe.rotCount := by
  let s2 := (s.keysTurned.count 0xB0110).count 0xC0100
  let s3 := s2.log 0x000D (leBytes 4 (nextKeyId (Assoc.get 1 s.fe.slots)))
  have hs3 : s3 = { s.keysTurned with ctr := s3.ctr, fe := s3.fe } := s2.log_eq _ _
  have hrot : s.rotateKeys = match s3.wv.rotToken with
      | some t => ({ s3 with wv := { s3.wv with rotToken := none } }).symCtl t 0
      | none => s3 := rfl
  refine ⟨s3.fe, s3.ctr, ?_, s2.log_slots _ _⟩
  generalize s3 = u at *
  rw [hrot, hs3]
  unfold WvSt.rotAnswered
  dsimp only
  cases s.keysTurned.wv.rotToken <;> rfl

/-- What a rotation leaves (R445). -/
theorem State.rotateKeys_spec (s : State) (hrun : s.md.mode.running = true) (hrise : Assoc.rising s.fe.slots) : let t := s.rotateKeys
    (∃ k, Assoc.get 1 t.fe.slots = some k ∧ k.typ = 7 ∧ k.keyId = nextKeyId (Assoc.get 1 s.fe.slots) ∧ k.secret.length = 32) ∧
    Assoc.get 2 t.fe.slots = Assoc.get 1 s.fe.slots ∧ Assoc.get 3 t.fe.slots = Assoc.get 2 s.fe.slots ∧
    (∀ j, j ≠ 1 → j ≠ 2 → j ≠ 3 → Assoc.get j t.fe.slots = Assoc.get j s.fe.slots) ∧ t.rotNs = 0 ∧ t.wv.rotDue = false ∧
    t.wv.rotToken = none ∧ t = { s with fe := t.fe, wv := t.wv, ctr := t.ctr, fresh := s.fresh + 1 } ∧
    ∀ k, s.wv.rotToken = some k → t.wv.symToken = k ∧ t.wv.symCode = 0 := by
  obtain ⟨fe, ctr, ht, hslots, hcount⟩ := s.rotateKeys_eq
  obtain ⟨h1, h2, h3, hrest⟩ := get_keysRotated s.newMaster hrise
  obtain ⟨hdue, htoken, hanswer⟩ := s.keysTurned.wv.rotAnswered_spec
  have hslots : fe.slots = keysRotated s.fe.slots s.newMaster := hslots
  have hcount : fe.rotCount = -((s.now - s.md.since : Nat) : Int) := by rw [hcount, State.keysTurned, hrun]; rfl
  intro t
  change t = _ at ht
  clear_value t
  subst ht
  rw [← hslots] at h1 h2 h3 hrest
  refine ⟨⟨s.newMaster, h1, rfl, rfl, beBytes_length 32 _⟩, h2, h3, hrest, ?_, hdue, htoken, rfl, hanswer⟩
  unfold State.rotNs
  rw [hcount, State.keysTurned, hrun]
  exact Int.add_left_neg _

section
variable {s : State} {tok : Nat}

theorem State.keyRotation_due (hrun : s.md.mode.running = true) (hdue : s.rotationDue = true) : s.keyRotation = s.rotateKeys :=
  if_pos (by simp [hrun, hdue])

theorem State.keyRotation_idle (hrun : s.md.mode.running = false) : s.keyRotation = s := if_neg (by simp [hrun])

theorem State.rotateOp_safe (hmode : s.md.mode = .safe) : s.rotateOp tok = s.symCtl tok 0x24 := by
  unfold State.rotateOp State.noWrites
  rw [hmode]
  rfl

theorem State.rotateOp_maintain (hmode : s.md.mode = .maintain) : s.rotateOp tok = { s with wv := { s.wv with rotToken := some tok } } := by
  unfold State.rotateOp State.noWrites
  dsimp only
  rw [hmode]
  rfl

theorem State.rotateOp_running (hrun : s.md.mode.running = true) :
    s.rotateOp tok = ({ s with wv := { s.wv with rotToken := some tok } } : State).rotateKeys := by
  unfold State.rotateOp State.noWrites
  dsimp only
  rw [if_neg (by cases h : s.md.mode <;> simp_all [Mode.running]), if_neg (by cases h : s.md.mode <;> simp_all [Mode.running]), if_pos hrun]

/-! The mint engine (R446 to R448). -/

/-- Cookies are as many as asked for, each headed by its KEYID, and draw from the random source alone (R444). -/
theorem State.sealCookies_spec (k : KeySlot) (q : CookieKeys) (n : Nat) (s : State) : ∃ cs fresh,
    s.sealCookies k q n = (cs, { s with fresh := fresh }) ∧ cs.length = n ∧ ∀ x ∈ cs, x.take 4 = beBytes 4 k.keyId := by
  induction n generalizing s with
  | zero => exact ⟨[], s.fresh, rfl, rfl, fun _ h => absurd h List.not_mem_nil⟩
  | succ n ih =>
    obtain ⟨cs, fresh, hseal, hlen, hid⟩ := ih (s.sealCookie k q).2
    refine ⟨(s.sealCookie k q).1 :: cs, fresh, ?_, by rw [List.length_cons, hlen], fun x hx => ?_⟩
    · show ((s.sealCookie k q).1 :: ((s.sealCookie k q).2.sealCookies k q n).1, ((s.sealCookie k q).2.sealCookies k q n).2) = _
      rw [hseal]
      rfl
    · rcases List.mem_cons.1 hx with rfl | hx
      · show (beBytes 4 k.keyId ++ _ ++ _).take 4 = _
        rw [List.append_assoc, List.take_append_of_le_length (by simp), List.take_of_length_le (by simp)]
      · exact hid x hx

theorem State.mintStart_first {m : Mint} {rest : List Mint} (hqueue : s.wv.mints = m :: rest) (hidle : ∀ x ∈ s.wv.mints, x.running = false) :
    s.mintStart = { s with wv := { s.wv with mints := { m with running := true, keys := s.masterKeys } :: rest } } := by
  have hany : s.wv.mints.any (·.running) = false := by simpa using hidle
  unfold State.mintStart
  rw [if_neg (by simp [hany]), hqueue]

/-- The state that holds a mint command no longer. -/
def State.mintTaken (s : State) (m : Mint) : State := { s with wv := { s.wv with mints := s.wv.mints.filter (· != m) } }

theorem State.cqWrite_fresh (s : State) (q i qstat code : Nat) : (s.cqWrite q i qstat code).fresh = s.fresh := by
  rw [(s.cqWrite_entryFrame q i qstat code).rest]

/-- With bus mastering on a result is written and its entry completed at once (R499). -/
theorem State.cqFinish_on (hbme : s.hif.bme = true) (c : CompWait) : s.cqFinish c = (s.dma c.addr c.res).cqWrite c.q c.i c.qstat c.code := if_pos hbme

section
variable {m : Mint} (hbme : s.hif.bme = true) (hrun : s.wv.mints.find? (·.running) = some m)
include hbme hrun

theorem State.mintComplete_refused (hcode : s.mintCode m.keys m.bytes ≠ 0) : s.mintComplete =
    ((((s.mintTaken m).count 0xB0108).dma m.resAddr (mintResult m.bytes (s.mintCode m.keys m.bytes) 0 [])).cqWrite 1 m.index 0
      (s.mintCode m.keys m.bytes)) := by
  have hon : ((s.mintTaken m).count 0xB0108).hif.bme = true := hbme
  unfold State.mintComplete
  rw [if_neg (by simp [hbme]), hrun]
  dsimp only
  generalize s.mintCode m.keys m.bytes = code at *
  obtain ⟨c, rfl⟩ := Nat.exists_eq_succ_of_ne_zero hcode
  exact State.cqFinish_on hon _

omit hbme hrun in
/-- A command with code 0x00 has a master key. -/
theorem State.mintCode_key (hcode : s.mintCode m.keys m.bytes = 0) : ∃ k, Assoc.get 1 m.keys = some k := by
  refine Option.isSome_iff_exists.1 (Option.isSome_iff_ne_none.2 fun hnone => ?_)
  unfold State.mintCode at hcode
  rw [hnone] at hcode
  dsimp only at hcode
  split_ifs at hcode
  simp at *

theorem State.mintComplete_minted (hcode : s.mintCode m.keys m.bytes = 0) : ∃ fresh k, ∃ cs : List (List Byte), Assoc.get 1 m.keys = some k ∧
    cs.length = (m.bytes.getD 2 0).toNat ∧ (∀ x ∈ cs, x.take 4 = beBytes 4 k.keyId) ∧ s.mintComplete =
      ((({ s.mintTaken m with fresh := fresh } : State).countN 0xB0100 cs.length).dma m.resAddr (mintResult m.bytes 0 k.keyId cs)).cqWrite 1 m.index 0 0 := by
  obtain ⟨k, hkey⟩ := State.mintCode_key hcode
  obtain ⟨cs, fresh, hseal, hlen, hid⟩ := State.sealCookies_spec k
    { aead := (m.bytes.getD 1 0).toNat, c2s := slice m.bytes 8 (aeadK (m.bytes.getD 1 0).toNat),
      s2c := slice m.bytes (8 + aeadK (m.bytes.getD 1 0).toNat) (aeadK (m.bytes.getD 1 0).toNat) } (m.bytes.getD 2 0).toNat (s.mintTaken m)
  refine ⟨fresh, k, cs, hkey, hlen, hid, ?_⟩
  have hon : (({ s.mintTaken m with fresh := fresh } : State).countN 0xB0100 cs.length).hif.bme = true := hbme
  rw [← State.cqFinish_on hon ⟨1, m.index, 0, 0, m.resAddr, mintResult m.bytes 0 k.keyId cs⟩]
  unfold State.mintComplete
  rw [if_neg (by simp [hbme]), hrun]
  dsimp only
  rw [hcode, hkey]
  show ((((s.mintTaken m).sealCookies k _ _).2.countN 0xB0100 _).cqFinish
    ⟨1, m.index, 0, 0, m.resAddr, mintResult m.bytes 0 k.keyId ((s.mintTaken m).sealCookies k _ _).1⟩) = _
  rw [hseal, hlen]

end

end

/-- Settles O42: a rotation by whether it runs, ROTATE by the mode, and the mint engine by the code of its command. -/
theorem masterKeysRotateAndMintsComplete : Obligations.MasterKeysRotateAndMintsComplete := by
  intro s tok
  refine ⟨fun hrun hrise => ⟨fun hdue => ?due, fun _ => ?rotate⟩, fun hidle => ?idle, fun hmode => ?safe, fun hmode => ?maintain,
    fun m rest hqueue hidle => ?start, fun m hbme hrun => ⟨fun hcode => ?refused, fun hcode => ?minted⟩⟩
  case due =>
    obtain ⟨h1, h2, h3, hrest, hcount, hrot, htoken, ht, hanswer⟩ := s.rotateKeys_spec hrun hrise
    exact ⟨_, by rw [exec_keyRotation, State.keyRotation_due hrun hdue], ⟨h1, h2, h3, hrest, hcount, hrot, htoken, ht⟩, hanswer⟩
  case rotate =>
    obtain ⟨h1, h2, h3, hrest, hcount, hrot, htoken, ht, hanswer⟩ :=
      State.rotateKeys_spec { s with wv := { s.wv with rotToken := some tok.toNat } } hrun hrise
    exact ⟨_, by rw [exec_rotate, State.rotateOp_running hrun], ⟨h1, h2, h3, hrest, hcount, hrot, htoken, ht⟩, hanswer tok.toNat rfl⟩
  case idle => rw [exec_keyRotation, State.keyRotation_idle hidle]
  case safe => rw [exec_rotate, State.rotateOp_safe hmode]
  case maintain => rw [exec_rotate, State.rotateOp_maintain hmode]
  case start => rw [exec_cookieMint, State.mintStart_first hqueue hidle]
  case refused =>
    rw [exec_mintComplete, State.mintComplete_refused hbme hrun hcode]
    rfl
  case minted =>
    obtain ⟨fresh, k, cs, hkey, hlen, hid, hdone⟩ := State.mintComplete_minted hbme hrun hcode
    have hfresh : s.mintComplete.fresh = fresh := by
      rw [hdone, State.cqWrite_fresh, State.dma_fresh]
      rfl
    refine ⟨_, k, cs, exec_mintComplete s, hkey, hlen, hid, ?_⟩
    rw [hfresh, hdone]
    rfl

end Sys2Proof.Machine
end

section
/-! SUPPORT. A plain request answered where the map of the registers in force lists the port's address out of order. -/

namespace Sys2Proof.Machine

open Sys2Proof

theorem exec_answerBuilt (s : State) (lane : Nat) : exec (.answerBuilt lane) s = .next (s.answerBuilt lane) := rfl

/-- An answer over UDP has its port's address as its source (R438). -/
theorem Pkt.respondUdp_source (p : Pkt) (mac ttl : Nat) (body : List Byte) : slice (p.respondUdp mac ttl body) 6 6 = beBytes 6 mac := by
  have hwhole (rest : List Byte) : slice (padFrame (beBytes 6 p.src ++ (beBytes 6 mac ++ rest))) 6 6 = beBytes 6 mac := by
    have hright := slice_append_right (beBytes 6 p.src) (beBytes 6 mac ++ rest) 0 6
    rw [beBytes_length] at hright
    rw [slice_padFrame (by simp; omega), hright, slice_append_left _ (by simp)]
    exact List.take_of_length_le (by simp)
  unfold Pkt.respondUdp ethHdr
  simp only [List.append_assoc]
  exact hwhole _

/-- A plain request of version 4 and mode 3 at lane 0, from port 0. -/
def plainRequest : Ctx :=
  { id := 7, st := .building, born := 0, ingress := TimeWord.zero, port := 0, cls := 3, kiss := false, tag := 0, lane := some 0, checked := false,
    pkt := { dst := 0, src := 0, tags := [], etype := 0x0800, l3 := 14, v6 := false, ipOk := true, srcIp := [10, 0, 0, 2], dstIp := [10, 0, 0, 1],
             finalDst := [10, 0, 0, 1], proto := 17, dscp := 0, hop := 64, frag := false, deep := false, udp := some (5000, 123, 56), l4 := [],
             payload := 0x23 :: zeros 47 } }

/-- MAC_ADDR of NP0 is listed behind WV_CFG, whose offset is greater, and lane 0 has begun under the reset value of WV_CFG. -/
def strayListed : State :=
  { State.reset with
      act := [(0x40000, 0), (0x10008, 1)]
      ports := { PortSt.reset with link := true } :: List.replicate 4 PortSt.reset
      wv := { State.reset.wv with
                ctxs := [plainRequest]
                lanes := { Lane.reset with ctx := some 7, set := some ⟨regReset 0x40000, 0, []⟩ } :: List.replicate 7 Lane.reset } }

theorem strayListed_asked : (strayListed.wv.lanes.getD 0 Lane.reset).ctx.bind strayListed.ctxAt = some plainRequest ∧
    strayListed.laneDone 0 = true ∧ (strayListed.underSet 0).bit 0x40000 31 = true ∧ (strayListed.port 0).link = true ∧
    strayListed.md.mode ≠ .safe := by decide +kernel

theorem plainRequest_plain : plainRequest.pkt.payload.length = 48 ∧ vnOf plainRequest.pkt.payload = 4 ∧ modeOf plainRequest.pkt.payload = 3 := by
  decide

/-- The register behind the greater offset is not read. -/
theorem strayListed_address : strayListed.macAddr 0 = 0 := by decide +kernel

/-- Under the lane's set WV_CFG has its reset value and is no longer listed, so that the address behind it is read, and the answer bears it. -/
theorem strayListed_answers : ((strayListed.answerBuilt 0).port 0).eg.map (fun e => slice e.bytes 6 6) = [beBytes 6 1] := by decide +kernel

/-- Refutes O40: its clause on an answer asks nothing of the map of the registers in force; in one that lists the port's address behind WV_CFG
the set of the lane, which takes WV_CFG out of the map, brings up that address, where the clause has the one read without the set. -/
theorem not_lanesTakeTheHeadOfTheHighestClassAndAnswer : ¬ Obligations.LanesTakeTheHeadOfTheHighestClassAndAnswer := by
  intro h
  obtain ⟨_, _, hbuilt⟩ := h strayListed 0
  obtain ⟨hctx, hdone, hon, hlink, hmode⟩ := strayListed_asked
  obtain ⟨hlen, hversion, hclient⟩ := plainRequest_plain
  obtain ⟨_, _, _, hanswer⟩ := hbuilt plainRequest hdone hctx rfl
  obtain ⟨t, e, body, hexec, _, hport, _, _, hbytes, _⟩ := hanswer hlen hversion hclient hon rfl hlink hmode
  obtain rfl : strayListed.answerBuilt 0 = t := Host.Outcome.next.inj ((exec_answerBuilt strayListed 0).symm.trans hexec)
  have hsent : ((strayListed.answerBuilt 0).port 0).eg = [e] := congrArg PortSt.eg hport
  have hsource : slice e.bytes 6 6 = beBytes 6 0 := by
    rw [hbytes, Pkt.respondUdp_source]
    exact congrArg (beBytes 6) strayListed_address
  have hborne := strayListed_answers
  rw [hsent, List.map_singleton, hsource] at hborne
  exact absurd hborne (by decide)

end Sys2Proof.Machine
end

section
/-! SUPPORT. A frame at its commit and at its last byte: what takes its context, what the Stake writes of it, and what of its port it leaves. -/

namespace Sys2Proof.Machine

open Sys2Proof Sys2Proof.Machine.Crypto

theorem exec_frameCommit (s : State) (n word bit : Nat) (itemOk readBackOk eccOk : Bool) :
    exec (.frameCommit n word bit itemOk readBackOk eccOk) s = .next (s.frameCommit n word bit itemOk readBackOk eccOk) := rfl

theorem exec_frameSent (s : State) (n : Nat) : exec (.frameSent n) s = .next (s.sentFrame n) := rfl

/-! Frames stored (R378). -/

/-- Frames that differ at most in whether they are stored. -/
def asStored (l : List EgFrame) : List EgFrame := l.map fun x => { x with stored := true }

theorem storeIn_asStored (l : List EgFrame) (free : Nat) : asStored (storeIn l free).1 = asStored l := by
  induction l generalizing free with
  | nil => rfl
  | cons e l ih =>
    rw [storeIn]
    split
    · exact congrArg (List.cons _) (ih free)
    · split
      · exact congrArg (List.cons _) (ih _)
      · rfl

/-- Frames that waited for space stored: the ports alone are touched, and of each at most which frames of its queue are stored. -/
structure State.Stored (s t : State) : Prop where
  rest : t = { s with ports := t.ports }
  port : ∀ n, ∃ l, t.port n = { s.port n with eg := l } ∧ asStored l = asStored (s.port n).eg

theorem State.Stored.refl (s : State) : s.Stored s := ⟨rfl, fun _ => ⟨_, rfl, rfl⟩⟩

theorem State.Stored.trans {r s t : State} (a : r.Stored s) (b : s.Stored t) : r.Stored t := by
  refine ⟨by rw [b.rest, a.rest], fun n => ?_⟩
  obtain ⟨k, hk, hsame⟩ := a.port n
  obtain ⟨l, hl, hlast⟩ := b.port n
  exact ⟨l, by rw [hl, hk], by rw [hlast, hk]; exact hsame⟩

theorem State.storeWaiting_stored (s : State) : s.Stored s.storeWaiting := by
  unfold State.storeWaiting
  generalize List.range 5 = l
  induction l generalizing s with
  | nil => exact .refl s
  | cons n l ih =>
    refine .trans ⟨rfl, fun m => ?_⟩ (ih _)
    by_cases hm : m = n
    · subst hm
      rcases s.port_setPort_or m (fun p => { p with eg := (storeIn p.eg s.poolFree).1 }) with h | h
      · exact ⟨_, h, storeIn_asStored _ _⟩
      · exact ⟨_, h, rfl⟩
    · exact ⟨_, State.port_setPort_ne _ hm, rfl⟩

/-- Nothing but the ports is touched. -/
def State.PortsOnly (s t : State) : Prop := t = { s with ports := t.ports }

section
variable {s t : State} (h : s.PortsOnly t)
include h

theorem State.PortsOnly.setPort (n : Nat) (f : PortSt → PortSt) : s.PortsOnly (t.setPort n f) := by
  unfold State.PortsOnly State.setPort at *
  rw [h]

theorem State.PortsOnly.elapsed (d : Int) : t.elapsed d = s.elapsed d := by rw [h]; rfl

theorem State.PortsOnly.weftDiffAt (x : Nat) : t.weftDiffAt x = s.weftDiffAt x := by rw [h]; rfl

theorem State.PortsOnly.weftPasses (x : Int) : t.weftPasses x = s.weftPasses x := by rw [h]; rfl

theorem State.PortsOnly.egressWord (n : Nat) (d : Int) : t.egressWord n d = s.egressWord n d := by rw [h]; rfl

theorem State.PortsOnly.fmu : t.fmu = s.fmu := by rw [h]

theorem State.PortsOnly.stale (c : Ctx) : t.stale c = s.stale c := by rw [h]; rfl

theorem State.PortsOnly.ctxAt (k : Nat) : t.ctxAt k = s.ctxAt k := by rw [h]; rfl

theorem State.PortsOnly.fld (off hi lo : Nat) : t.fld off hi lo = s.fld off hi lo := by rw [h]; rfl

end

/-- A change that changes nothing of its port. -/
theorem State.setPort_idle {s : State} {n : Nat} {f : PortSt → PortSt} (h : f (s.port n) = s.port n) : s.setPort n f = s := by
  have hports : updAt s.ports n f = s.ports := by
    refine List.ext_getElem? fun k => ?_
    rw [updAt, List.getElem?_modify]
    split
    · next hn =>
      subst hn
      unfold State.port at h
      rw [List.getD_eq_getElem?_getD] at h
      cases hk : s.ports[n]? with
      | none => rfl
      | some p =>
        rw [hk] at h
        exact congrArg some h
    · simp
  unfold State.setPort
  rw [hports]

/-- Where no frame of MGT waits nothing of MGT is served. -/
theorem State.mgtWaiting_none {s : State} (h : (s.port 4).rxWait = []) : s.mgtWaiting = s := by
  have hidle : s.setPort 4 (fun p => { p with rxWait := [] }) = s := State.setPort_idle (by rw [← h])
  unfold State.mgtWaiting
  rw [h, hidle]
  rfl

/-! A frame's context (R432, R433). -/

section
variable {s : State} {e : EgFrame} {itemOk : Bool} {k : Nat} {c : Ctx}

theorem State.ctxRefused_eq (hsrc : e.src.ctx? = some k) (hctx : s.ctxAt k = some c) : s.ctxRefused e itemOk =
    if s.stale c then some ((s.freeCtx k).count (wvCtr 5))
    else if itemOk && e.tag == some c.checkTag then none
    else some (match c.lane with
      | some j => ((s.freeCtx k).count (wvCtr 6)).islandError (14 + j)
      | none => (s.freeCtx k).count (wvCtr 6)) := by
  unfold State.ctxRefused
  rw [hsrc]
  dsimp only
  rw [hctx] <;> rfl

theorem State.ctxRefused_stale (hsrc : e.src.ctx? = some k) (hctx : s.ctxAt k = some c) (hstale : s.stale c = true) :
    s.ctxRefused e itemOk = some ((s.freeCtx k).count (wvCtr 5)) := by
  rw [State.ctxRefused_eq hsrc hctx, if_pos hstale]

theorem State.ctxRefused_wrong (hsrc : e.src.ctx? = some k) (hctx : s.ctxAt k = some c) (hfresh : s.stale c = false) (hlane : c.lane = none)
    (hwrong : itemOk = false ∨ e.tag ≠ some c.checkTag) : s.ctxRefused e itemOk = some ((s.freeCtx k).count (wvCtr 6)) := by
  have hbad : ¬(itemOk && e.tag == some c.checkTag) = true := by rcases hwrong with h | h <;> simp [h]
  rw [State.ctxRefused_eq hsrc hctx, if_neg (ne_true_of_eq_false hfresh), if_neg hbad, hlane]

theorem State.ctxRefused_none (hgood : ∀ k, e.src.ctx? = some k →
    ∃ c, s.ctxAt k = some c ∧ s.stale c = false ∧ itemOk = true ∧ e.tag = some c.checkTag) : s.ctxRefused e itemOk = none := by
  cases hsrc : e.src.ctx? with
  | none =>
    unfold State.ctxRefused
    rw [hsrc]
  | some k =>
    obtain ⟨c, hctx, hfresh, hitem, htag⟩ := hgood k hsrc
    rw [State.ctxRefused_eq hsrc hctx, if_neg (ne_true_of_eq_false hfresh), if_pos (by simp [hitem, htag])]

end

/-! The commit (R409 to R412, R557). -/

theorem State.frameCommit_other {s : State} {n word bit : Nat} {itemOk readBackOk eccOk : Bool} (h : s.atCommit n (s.departure n word bit) = false) :
    s.frameCommit n word bit itemOk readBackOk eccOk = s := if_pos (by simp [h])

/-- The state in which a frame has been taken from its port's queue, once those that waited have been stored. -/
def State.frameTaken (s : State) (n : Nat) (e : EgFrame) : State := s.storeWaiting.setPort n fun p => { p with eg := p.eg.erase e }

section
variable {s : State} {n word bit : Nat} {itemOk readBackOk eccOk : Bool} {e : EgFrame}

/-- The frame taken, with its departure, where the line is open to it. -/
theorem State.frameCommit_eq (hup : (s.port n).link = true) (hat : s.atCommit n (s.departure n word bit) = true)
    (hnext : s.storeWaiting.nextFrame n = some e) : s.frameCommit n word bit itemOk readBackOk eccOk =
    let u := s.frameTaken n e
    let d := s.departure n word bit
    let diff := s.weftDiffAt (d / 65536).toNat
    if !s.storeWaiting.lineOpen n e (s.elapsed d) then s.storeWaiting
    else if !eccOk then (u.dropFrame e 0x32).memoryError 0
    else if u.neverSent n e then u.dropFrame e 0x20
    else match u.ctxRefused e itemOk with
      | some t => t
      | none =>
        if e.timed && s.fmu.gate then (u.dropFrame e 0x30).count (stkCtr n 0)
        else if e.timed && !s.weftPasses diff then ((u.dropFrame e 0x30).count (stkCtr n 0)).gateTrip diff
        else if e.ins != .none && !readBackOk then (u.dropFrame e 0x32).islandError (9 + n)
        else u.commitFrame n { e with bytes := u.finish e (s.egressWord n d), out := s.egressWord n d } (s.elapsed d) := by
  have hv : s.PortsOnly s.storeWaiting := s.storeWaiting_stored.rest
  have hu : s.PortsOnly (s.frameTaken n e) := hv.setPort n _
  unfold State.frameCommit
  dsimp only
  rw [if_neg (by simp [hup, hat]), hnext]
  dsimp only
  rw [← State.frameTaken, hu.elapsed, hu.weftDiffAt, hu.weftPasses, hu.egressWord, hu.fmu, hv.elapsed] <;> rfl

theorem State.frameTaken_portsOnly (s : State) (n : Nat) (e : EgFrame) : s.PortsOnly (s.frameTaken n e) :=
  State.PortsOnly.setPort (s.storeWaiting_stored.rest : s.PortsOnly s.storeWaiting) n _

section
variable (hup : (s.port n).link = true) (hat : s.atCommit n (s.departure n word bit) = true) (hnext : s.storeWaiting.nextFrame n = some e)
include hup hat hnext

theorem State.frameCommit_shut (hshut : s.storeWaiting.lineOpen n e (s.elapsed (s.departure n word bit)) = false) :
    s.frameCommit n word bit itemOk readBackOk eccOk = s.storeWaiting := by
  rw [State.frameCommit_eq hup hat hnext]
  exact if_pos (by rw [hshut]; rfl)

variable (hopen : s.storeWaiting.lineOpen n e (s.elapsed (s.departure n word bit)) = true)
include hopen

theorem State.frameCommit_ecc : s.frameCommit n word bit itemOk readBackOk false = ((s.frameTaken n e).dropFrame e 0x32).memoryError 0 := by
  rw [State.frameCommit_eq hup hat hnext]
  dsimp only
  rw [if_neg (by rw [hopen]; decide)]
  exact if_pos rfl

theorem State.frameCommit_never (hnever : (s.frameTaken n e).neverSent n e = true) :
    s.frameCommit n word bit itemOk readBackOk true = (s.frameTaken n e).dropFrame e 0x20 := by
  rw [State.frameCommit_eq hup hat hnext]
  dsimp only
  rw [if_neg (by rw [hopen]; decide), if_neg (by decide)]
  exact if_pos hnever

variable (hsent : (s.frameTaken n e).neverSent n e = false)
include hsent

theorem State.frameCommit_refused {t : State} (hrefused : (s.frameTaken n e).ctxRefused e itemOk = some t) :
    s.frameCommit n word bit itemOk readBackOk true = t := by
  rw [State.frameCommit_eq hup hat hnext]
  dsimp only
  rw [if_neg (by rw [hopen]; decide), if_neg (by decide), if_neg (ne_true_of_eq_false hsent), hrefused]

variable (hgood : (s.frameTaken n e).ctxRefused e itemOk = none)
include hgood

/-- A frame whose context is in order, by the gate and its comparison. -/
theorem State.frameCommit_judged : s.frameCommit n word bit itemOk readBackOk true =
    let u := s.frameTaken n e
    let d := s.departure n word bit
    let diff := s.weftDiffAt (d / 65536).toNat
    if e.timed && s.fmu.gate then (u.dropFrame e 0x30).count (stkCtr n 0)
    else if e.timed && !s.weftPasses diff then ((u.dropFrame e 0x30).count (stkCtr n 0)).gateTrip diff
    else if e.ins != .none && !readBackOk then (u.dropFrame e 0x32).islandError (9 + n)
    else u.commitFrame n { e with bytes := u.finish e (s.egressWord n d), out := s.egressWord n d } (s.elapsed d) := by
  rw [State.frameCommit_eq hup hat hnext]
  dsimp only
  rw [if_neg (by rw [hopen]; decide), if_neg (by decide), if_neg (ne_true_of_eq_false hsent), hgood]

end

/-- The port from which a frame has been taken: nothing but its queue is another. -/
theorem State.frameTaken_port (hup : (s.port n).link = true) : n < (s.frameTaken n e).ports.length ∧
    (s.frameTaken n e).port n = { s.port n with eg := (s.storeWaiting.port n).eg.erase e } := by
  obtain ⟨l, hl, -⟩ := s.storeWaiting_stored.port n
  have hn : n < s.storeWaiting.ports.length := State.up_lt (by rw [hl]; exact hup)
  refine ⟨by simpa [State.frameTaken] using hn, ?_⟩
  rw [State.frameTaken, State.port_setPort_self _ hn, hl]

/-- A frame committed that neither cuts nor overtakes another joins the committed ones as the last (R410, R411). -/
theorem State.commitFrame_joins {t : Int} (hn : n < s.ports.length) (hfree : ∀ x ∈ (s.port n).committed, e.express = true →
      (s.port n).cuts (s.fld (mBase n + 0x18) 9 8) t x = false ∧ (s.port n).waits t x = false) :
    let u := s.commitFrame n e t
    u = { s with ports := u.ports, wv := u.wv, ctr := u.ctr } ∧ (u.port n).committed = (s.port n).committed ++ [{ e with resume := t }] ∧
      (u.port n).eg = (s.port n).eg := by
  have hbehind : ∀ x ∈ (s.port n).committed, ((e.express && (s.port n).cuts (s.fld (mBase n + 0x18) 9 8) t x) ||
      (e.express && (s.port n).waits t x)) = false := by
    intro x hx
    cases hexp : e.express with
    | false => rfl
    | true => rw [(hfree x hx hexp).1, (hfree x hx hexp).2]; rfl
  unfold State.commitFrame
  extract_lets p cut end_ e1 behind later s1 s2 s3 s4 u
  have hkeep : p.committed.filter (fun x => !behind x) = p.committed := List.filter_eq_self.2 fun x hx => congrArg not (hbehind x hx)
  have hnone : p.committed.filter behind = [] := List.filter_eq_nil_iff.2 fun x hx => ne_true_of_eq_false (hbehind x hx)
  have hport : s1.port n = _ := State.port_setPort_self _ hn
  have hcommitted : (s1.port n).committed = p.committed ++ [{ e with resume := t }] := by
    rw [hport]
    show p.committed.filter (fun x => !behind x) ++ [e1] ++ (p.committed.filter behind).map later = _
    rw [hkeep, hnone, List.map_nil, List.append_nil]
  have heg : (s1.port n).eg = p.eg := by rw [hport]
  have hcounts : u = { s1 with wv := u.wv, ctr := u.ctr } := by
    have h2 : s2 = { s1 with ctr := s2.ctr } := by unfold s2; split <;> rfl
    have h3 : s3 = { s1 with ctr := s3.ctr } := by unfold s3; split <;> (rw [h2] <;> rfl)
    have h4 : s4 = { s1 with ctr := s4.ctr } := by unfold s4; split <;> (rw [h3] <;> rfl)
    have hu : u = { s4 with wv := u.wv } := by unfold u; split <;> rfl
    rw [hu, h4]
  have hports : u.ports = s1.ports := by rw [hcounts]
  have hself : u.port n = s1.port n := congrArg (·.getD n PortSt.reset) hports
  exact ⟨by rw [hports]; exact hcounts, by rw [hself, hcommitted], by rw [hself, heg]⟩

/-- A frame without an insertion, a seal or an ICV leaves as it is (R411). -/
theorem State.finish_plain {w : TimeWord} (hins : e.ins = .none) (hseal : e.sealReq = none) (hauth : e.auth = none) : s.finish e w = e.bytes := by
  have hwritten : s.signFrame e (sealFrame (insertTime s.tb.leap w e.bytes e.ins) e.sealReq) = e.bytes := by
    rw [hins, hseal]
    unfold State.signFrame
    rw [hauth]
    rfl
  unfold State.finish
  dsimp only
  rw [hwritten, if_pos rfl]

/-- A frame that nothing refuses joins the committed frames with its departure (R410, R411). -/
theorem State.frameCommit_joins (hup : (s.port n).link = true) (hat : s.atCommit n (s.departure n word bit) = true)
    (hnext : s.storeWaiting.nextFrame n = some e) (hopen : s.storeWaiting.lineOpen n e (s.elapsed (s.departure n word bit)) = true)
    (hsent : (s.frameTaken n e).neverSent n e = false) (hgood : (s.frameTaken n e).ctxRefused e itemOk = none)
    (hpass : e.timed = true → s.fmu.gate = false ∧ s.weftPasses (s.weftDiffAt (s.departure n word bit / 65536).toNat) = true)
    (hfree : ∀ x ∈ (s.port n).committed, e.express = true →
      (s.port n).cuts (s.fld (mBase n + 0x18) 9 8) (s.elapsed (s.departure n word bit)) x = false ∧
        (s.port n).waits (s.elapsed (s.departure n word bit)) x = false) :
    ∃ t e', s.frameCommit n word bit itemOk true true = t ∧ t = { s with ports := t.ports, wv := t.wv, ctr := t.ctr } ∧
      (t.port n).committed = (s.port n).committed ++ [e'] ∧ (t.port n).eg = (s.storeWaiting.port n).eg.erase e ∧
      e'.out = s.egressWord n (s.departure n word bit) ∧
      e' = { e with bytes := e'.bytes, out := e'.out, resume := s.elapsed (s.departure n word bit) } ∧
      (e.ins = .none → e.sealReq = none → e.auth = none → e'.bytes = e.bytes) := by
  have hjudged := State.frameCommit_judged (readBackOk := true) hup hat hnext hopen hsent hgood
  have hu := s.frameTaken_portsOnly n e
  obtain ⟨hn, hport⟩ := State.frameTaken_port (e := e) hup
  dsimp only at hjudged
  generalize s.departure n word bit = d at *
  rw [if_neg (by intro h; simp_all), if_neg (by intro h; simp_all), if_neg (by simp)] at hjudged
  generalize s.frameTaken n e = u at *
  let e1 : EgFrame := { e with bytes := u.finish e (s.egressWord n d), out := s.egressWord n d }
  obtain ⟨ht, hcommitted, heg⟩ := State.commitFrame_joins (s := u) (e := e1) (t := s.elapsed d) hn (by
    rw [hport, hu.fld]
    exact hfree)
  rw [hport] at hcommitted heg
  refine ⟨_, { e1 with resume := s.elapsed d }, hjudged, ?_, hcommitted, heg, rfl, rfl, fun hins hseal hauth => State.finish_plain hins hseal hauth⟩
  rw [ht]
  generalize u.commitFrame n e1 (s.elapsed d) = t
  unfold State.PortsOnly at hu
  rw [hu]

/-! The last byte (R397, R433, R455). -/

/-- What is counted and reported of a frame that has been sent leaves its port, the contexts, the mode and the registers. -/
theorem State.sentBy_frame (s : State) (n : Nat) (e : EgFrame) : (s.sentBy n e).ports = s.ports ∧ (s.sentBy n e).wv = s.wv ∧
    (s.sentBy n e).md = s.md ∧ (s.sentBy n e).act = s.act := by
  unfold State.sentBy
  split
  case h_6 =>
    dsimp only
    split <;> exact ⟨rfl, rfl, rfl, rfl⟩
  all_goals exact ⟨rfl, rfl, rfl, rfl⟩

/-- The state in which a frame has left, counted on its line. -/
def State.frameLeft (s : State) (n : Nat) (e : EgFrame) (rest : List EgFrame) : State :=
  (((s.setPort n fun p => { p with committed := rest, lastTx := e.bytes, lastOut := e.out }).count (macCtr n 2)).countN (macCtr n 3)
    (e.bytes.length + 4)).lineLoad n (e.bytes.length + 4 + 20 + 24 * e.cuts) false

/-- The state in which a frame sent has been reported, and its context freed. -/
def State.frameClosed (s : State) (n : Nat) (e : EgFrame) : State :=
  match e.src.ctx? with
  | some c => (s.sentBy n e).freeCtx c
  | none => s.sentBy n e

theorem State.frameClosed_frame (s : State) (n : Nat) (e : EgFrame) : (s.frameClosed n e).ports = s.ports ∧ (s.frameClosed n e).md = s.md ∧
    (s.frameClosed n e).act = s.act ∧ (s.frameClosed n e).ctr = (s.sentBy n e).ctr ∧
    ∀ k, e.src.ctx? = some k → ∀ c ∈ (s.frameClosed n e).wv.ctxs, c.id ≠ k := by
  obtain ⟨hports, -, hmd, hact⟩ := s.sentBy_frame n e
  unfold State.frameClosed
  split
  case h_1 c hc =>
    refine ⟨hports, hmd, hact, rfl, fun k hk x hx => ?_⟩
    obtain rfl : c = k := Option.some.inj (hc.symm.trans hk)
    simpa using (List.mem_filter.1 hx).2
  case h_2 hc => exact ⟨hports, hmd, hact, rfl, fun k hk => absurd hk (by simp [hc])⟩

theorem State.frameSent_eq {rest : List EgFrame} (hcommitted : (s.port n).committed = e :: rest) :
    s.frameSent n = ((s.frameLeft n e rest).frameClosed n e).storeWaiting := by
  unfold State.frameSent
  rw [hcommitted]
  rfl

/-- What of its port a frame sent leaves. -/
theorem State.frameSent_spec {rest : List EgFrame} (hcommitted : (s.port n).committed = e :: rest) : let t := s.frameSent n
    (t.port n).committed = rest ∧ (t.port n).lastTx = e.bytes ∧ (t.port n).lastOut = e.out ∧
      asStored (t.port n).eg = asStored (s.port n).eg ∧ (t.port 4).rxWait = (s.port 4).rxWait ∧ t.md = s.md ∧ t.act = s.act ∧
      ∀ k, e.src.ctx? = some k → ∀ c ∈ t.wv.ctxs, c.id ≠ k := by
  have hn : n < s.ports.length := State.port_lt (·.committed) (by simp [hcommitted, PortSt.reset])
  let s1 := s.setPort n fun p => { p with committed := rest, lastTx := e.bytes, lastOut := e.out }
  have hs1 : s1.port n = { s.port n with committed := rest, lastTx := e.bytes, lastOut := e.out } := State.port_setPort_self _ hn
  have hwait : (s1.port 4).rxWait = (s.port 4).rxWait := by
    by_cases h4 : 4 = n
    · subst h4
      rw [hs1]
    · rw [show s1.port 4 = _ from State.port_setPort_ne _ h4]
  have hline : s1.LineCounted (s.frameLeft n e rest) := (((State.LineCounted.refl s1).countN _ _).countN _ _).trans (State.lineLoad_lineCounted _ _ _ _)
  obtain ⟨hports, hmd, hact, -, hctxs⟩ := (s.frameLeft n e rest).frameClosed_frame n e
  have hport (m : Nat) : ((s.frameLeft n e rest).frameClosed n e).port m = (s.frameLeft n e rest).port m := congrArg (·.getD m PortSt.reset) hports
  have hstored := ((s.frameLeft n e rest).frameClosed n e).storeWaiting_stored
  obtain ⟨l, hl, hsame⟩ := hstored.port n
  obtain ⟨l4, hl4, -⟩ := hstored.port 4
  rw [hport] at hl hsame hl4
  intro t
  have ht : t = _ := State.frameSent_eq hcommitted
  rw [ht]
  refine ⟨?_, ?_, ?_, ?_, ?_, ?_, ?_, ?_⟩
  · rw [hl]; exact (hline.field (·.committed) (fun _ => rfl) n).trans (by rw [hs1])
  · rw [hl]; exact (hline.field (·.lastTx) (fun _ => rfl) n).trans (by rw [hs1])
  · rw [hl]; exact (hline.field (·.lastOut) (fun _ => rfl) n).trans (by rw [hs1])
  · rw [hl]
    exact hsame.trans (congrArg asStored ((hline.field (·.eg) (fun _ => rfl) n).trans (by rw [hs1])))
  · rw [hl4]; exact (hline.field (·.rxWait) (fun _ => rfl) 4).trans hwait
  · rw [hstored.rest]; exact hmd.trans (by rw [hline.rest]; rfl)
  · rw [hstored.rest]; exact hact.trans (by rw [hline.rest]; rfl)
  · rw [hstored.rest]; exact hctxs

/-- A plain answer sent is counted in WV_ANSWERED. -/
theorem State.frameSent_plain {rest : List EgFrame} {k : Nat} (hn : n ≤ 4) (hcommitted : (s.port n).committed = e :: rest) (hsrc : e.src = .plain k) :
    (s.frameSent n).ctrAt (wvCtr 0) = ctrAdd (s.ctrAt (wvCtr 0)) 1 := by
  have hmac : wvCtr 0 ≠ macCtr n 2 ∧ wvCtr 0 ≠ macCtr n 3 := by
    unfold wvCtr macCtr mBase
    omega
  have hleft : s.CountStands (wvCtr 0) (s.frameLeft n e rest) := by
    obtain ⟨window, l, busy, hload⟩ := State.lineLoad_eq (((s.setPort n fun p =>
      { p with committed := rest, lastTx := e.bytes, lastOut := e.out }).count (macCtr n 2)).countN (macCtr n 3) (e.bytes.length + 4)) n
      (e.bytes.length + 4 + 20 + 24 * e.cuts) false
    unfold State.frameLeft
    rw [hload]
    exact ((State.CountStands.count rfl hmac.1).trans (State.countN_countStands _ (by omega) hmac.2)).trans (.of_ctr rfl)
  obtain ⟨-, -, -, hctr, -⟩ := (s.frameLeft n e rest).frameClosed_frame n e
  have hsent : (s.frameSent n).ctr = ((s.frameLeft n e rest).count (wvCtr 0)).ctr := by
    rw [State.frameSent_eq hcommitted, State.storeWaiting_stored _ |>.rest]
    exact hctr.trans (by unfold State.sentBy; rw [hsrc])
  calc (s.frameSent n).ctrAt (wvCtr 0) = ((s.frameLeft n e rest).count (wvCtr 0)).ctrAt (wvCtr 0) := by unfold State.ctrAt; rw [hsent]
    _ = ctrAdd ((s.frameLeft n e rest).ctrAt (wvCtr 0)) 1 := State.ctrAt_count_self _ _
    _ = ctrAdd (s.ctrAt (wvCtr 0)) 1 := congrArg (ctrAdd · 1) hleft

end

/-- Settles O41: the commit by what of the frame, its context and the gate comes first, and the last byte by what each part of it leaves. -/
theorem framesCommitUnderTheBoundAndCloseTheirContexts : Obligations.FramesCommitUnderTheBoundAndCloseTheirContexts := by
  intro s n
  refine ⟨fun word bit itemOk readBackOk eccOk hat => by rw [exec_frameCommit, State.frameCommit_other hat],
    fun word bit itemOk readBackOk eccOk e hup hat hnext => ?commit, fun e rest hn hcommitted => ?sent⟩
  case commit =>
    intro v u d diff go
    have hu : s.PortsOnly u := s.frameTaken_portsOnly n e
    have hgo {t : State} (h : s.frameCommit n word bit itemOk readBackOk eccOk = t) : go = .next t := congrArg _ h
    refine ⟨fun hshut => hgo (State.frameCommit_shut hup hat hnext hshut), fun hopen hecc => ?ecc, fun hopen hecc hnever => ?never,
      fun hopen hecc hsent => ?judged⟩
    case ecc => exact hgo (by rw [hecc]; exact State.frameCommit_ecc hup hat hnext hopen)
    case never => exact hgo (by rw [hecc]; exact State.frameCommit_never hup hat hnext hopen hnever)
    subst hecc
    refine ⟨fun k c hsrc hctx hstale => hgo (State.frameCommit_refused hup hat hnext hopen hsent (State.ctxRefused_stale hsrc
        ((hu.ctxAt k).trans hctx) ((hu.stale c).trans hstale))),
      fun k c hsrc hctx hfresh hlane hwrong => hgo (State.frameCommit_refused hup hat hnext hopen hsent (State.ctxRefused_wrong hsrc
        ((hu.ctxAt k).trans hctx) ((hu.stale c).trans hfresh) hlane hwrong)), fun hgood => ?good⟩
    have hnone : u.ctxRefused e itemOk = none := State.ctxRefused_none fun k hsrc => by
      obtain ⟨c, hctx, hfresh, hitem, htag⟩ := hgood k hsrc
      exact ⟨c, (hu.ctxAt k).trans hctx, (hu.stale c).trans hfresh, hitem, htag⟩
    have hjudged := State.frameCommit_judged (readBackOk := readBackOk) hup hat hnext hopen hsent hnone
    refine ⟨fun htimed hgate => hgo (hjudged.trans (if_pos (by rw [htimed, hgate]; rfl))), fun htimed hgate hfail => hgo (hjudged.trans ?tripped),
      fun hpass hread hfree => ?committed⟩
    case tripped =>
      have hfails : s.weftPasses (s.weftDiffAt (s.departure n word bit / 65536).toNat) = false := hfail
      dsimp only
      rw [if_neg (by rw [hgate]; simp)]
      exact if_pos (by rw [htimed, hfails]; rfl)
    case committed =>
      obtain ⟨t, e', hcommit, hrest⟩ := State.frameCommit_joins hup hat hnext hopen hsent hnone hpass hfree
      rw [hread] at hgo
      exact ⟨t, e', hgo hcommit, hrest⟩
  case sent =>
    obtain ⟨hrest, htx, hout, heg, hwait, hmd, hact, hctxs⟩ := State.frameSent_spec hcommitted
    exact ⟨exec_frameSent s n, fun hnone => by rw [exec_frameSent, State.sentFrame, State.mgtWaiting_none (hwait.trans hnone)],
      hrest, htx, hout, heg, hmd, hact, hctxs, fun k hsrc => State.frameSent_plain hn hcommitted hsrc⟩

end Sys2Proof.Machine
end

section
/-! SUPPORT. The messages of the PTP engine: what sending one changes, the fields of the fixed header, and the grants of a port. -/

namespace Sys2Proof.Machine

open Sys2Proof Sys2Proof.Machine.Crypto

theorem exec_syncSend (s : State) (n slot : Nat) : exec (.syncSend n slot) s = .next (s.syncSend n slot) := rfl

theorem exec_announceSend (s : State) (n m : Nat) : exec (.announceSend n m) s = .next (s.announceSend n m) := rfl

theorem exec_ptpMessageReceive (s : State) (lane : Nat) : exec (.ptpMessageReceive lane) s = .next (s.ptpReceive lane) := rfl

theorem exec_delayReq (s : State) (lane : Nat) : exec (.delayReq lane) s = .next (s.delayReq lane) := rfl

theorem exec_unicastNegotiation (s : State) (lane : Nat) : exec (.unicastNegotiation lane) s = .next (s.negotiate lane) := rfl

theorem exec_grantExpire (s : State) (n g : Nat) : exec (.grantExpire n g) s = .next (s.grantExpire n g) := rfl

theorem exec_cancelGrants (s : State) (tok : BitVec 16) (n : Nat) : exec (.cancelGrants tok n) s = .next (s.ptpCancelAll tok.toNat n) := rfl

/-! A port of the engine. -/

theorem State.ptpPort_setPtp_self {s : State} {n : Nat} (f : PtpPort → PtpPort) (h : n < s.ptp.ports.length) :
    (s.setPtp n f).ptpPort n = f (s.ptpPort n) := by
  unfold State.setPtp State.ptpPort
  dsimp only
  rw [updAt, List.getD_eq_getElem?_getD, List.getD_eq_getElem?_getD, List.getElem?_modify_eq, List.getElem?_eq_getElem h]
  rfl

theorem State.setPtp_ports_length (s : State) (n : Nat) (f : PtpPort → PtpPort) : (s.setPtp n f).ptp.ports.length = s.ptp.ports.length :=
  updAt_length _ _ _

/-! A message sent (R460, R472). -/

section
variable {s : State} {n m : Nat}

theorem State.authWrap_plain (hauth : s.bit (iBase n m) 25 = false) (msg : List Byte) : s.authWrap n m msg = some (msg, none) := by
  unfold State.authWrap
  rw [hauth]
  rfl

/-- The frame of a message that asks for no seal. -/
def State.ptpEg (s : State) (n m : Nat) (src : EgSrc) (peer : Bool) (ins : Nat → Insertion) (tsReq : Bool) (msg : List Byte) (d : PtpDst) :
    EgFrame :=
  let (bs, cs, l4) := s.ptpFrame n m peer msg d
  { s.plainFrame src bs (s.ptpPrio n m) with ins := ins (if cs = 0 then l4 else l4 + 8), csum := cs, l4 := l4, tsReq := tsReq }

/-- A message without AUTHENTICATION on a port with link: its frame, sent to its address or to the next hop that is asked for. -/
theorem State.ptpSend_up (hauth : s.bit (iBase n m) 25 = false) (hup : (s.port n).link = true) (src : EgSrc) (peer : Bool)
    (ins : Nat → Insertion) (tsReq : Bool) (msg : List Byte) (d : PtpDst) :
    s.ptpSend n m src peer ins tsReq msg d =
      if d.ask then s.sendVia n (s.ptpTags n m) (s.ptpSrcIp n (d.ip.length == 16)) d.ip (s.ptpEg n m src peer ins tsReq msg d)
      else s.queueFrame n (s.ptpEg n m src peer ins tsReq msg d) := by
  unfold State.ptpSend
  rw [s.authWrap_plain hauth, hup]
  rfl

/-- To a known address the frame stands at the end of the port's queue. -/
theorem State.ptpSend_known (hauth : s.bit (iBase n m) 25 = false) (hup : (s.port n).link = true) (src : EgSrc) (peer : Bool)
    (ins : Nat → Insertion) (tsReq : Bool) (msg : List Byte) {d : PtpDst} (hknown : d.ask = false) :
    ∃ e, s.ptpSend n m src peer ins tsReq msg d = s.setPort n (PortSt.queued e) ∧ e.src = src ∧ e.ins = ins e.ptpAt ∧ e.tsReq = tsReq ∧
      e.bytes = (s.ptpFrame n m peer msg d).1 := by
  refine ⟨s.placed n (s.ptpEg n m src peer ins tsReq msg d), ?_, rfl, rfl, rfl, rfl⟩
  rw [s.ptpSend_up hauth hup, hknown]
  exact State.queueFrame_up _ hup

theorem State.groupDst_known (s : State) (n m : Nat) (peer : Bool) : (s.groupDst n m peer).ask = false := by
  unfold State.groupDst
  split
  · split <;> rfl
  · split <;> rfl
  · split <;> rfl

/-- A lane free of its item, the context waiting for the answer's last byte. -/
def State.laneWaits (s : State) (lane : Nat) (c : Ctx) : State := (s.laneEnd lane).setCtx c.id fun x => { x with st := .waiting }

/-- A lane's answer without AUTHENTICATION. -/
theorem State.ptpAnswer_up {lane : Nat} {c : Ctx} (hauth : s.bit (iBase c.port m) 25 = false) (hup : (s.port c.port).link = true) (src : EgSrc)
    (ins : Nat → Insertion) (tsReq : Bool) (msg : List Byte) :
    ∃ e, s.ptpAnswer lane c m src ins tsReq msg =
        (s.laneWaits lane c).setPort c.port (PortSt.queued e) ∧
      e.src = src ∧ e.ins = ins e.ptpAt ∧ e.tsReq = tsReq ∧ e.bytes = ((s.underSet lane).ptpReply c.port c.pkt msg).1 := by
  have hwrap : s.authWrap c.port m msg = some (msg, none) := s.authWrap_plain hauth msg
  let r := (s.underSet lane).ptpReply c.port c.pkt msg
  let e : EgFrame := { s.plainFrame src r.1 (c.pkt.prio (s.untagPrio c.port)) with
    ins := ins (if r.2.1 = 0 then r.2.2 else r.2.2 + 8), csum := r.2.1, l4 := r.2.2, tsReq := tsReq, born := c.born,
    tag := some (s.wv.lanes.getD lane Lane.reset).tag }
  refine ⟨(s.laneWaits lane c).placed c.port e, ?_, rfl, rfl, rfl, rfl⟩
  unfold State.ptpAnswer
  rw [hwrap]
  exact State.queueFrame_up _ hup

theorem State.laneEnd_free (s : State) (lane : Nat) : ((s.laneEnd lane).wv.lanes.getD lane Lane.reset).ctx = none := by
  unfold State.laneEnd
  dsimp only
  rw [updAt, List.getD_eq_getElem?_getD, List.getElem?_modify_eq]
  cases s.wv.lanes[lane]? <;> rfl

end

/-! The fields of a message (R459, R461). -/

theorem State.clockId_length (s : State) : s.clockId.length = 8 := by
  unfold State.clockId
  dsimp only
  split
  · simp
  · simp

theorem slice_between {as bs : List Byte} (cs : List Byte) {i n : Nat} (hi : as.length = i) (hn : bs.length = n) : slice (as ++ bs ++ cs) i n = bs := by
  subst hi hn
  rw [slice_append_left _ (by rw [List.length_append]), ← Nat.add_zero as.length, slice_append_right, slice_whole]

section
variable (s : State) (n m typ flags : Nat) (corr : Int) (seq : Nat) (logI : Int) (body : List Byte)

/-- The fixed header of a message: its 34 bytes before the body. -/
def State.ptpHdr (len : Nat) : List Byte :=
  [BitVec.ofNat 8 ((if s.ptpProfile n = 4 then 0x10 else 0) + typ), 0x12] ++ beBytes 2 (34 + len) ++ [BitVec.ofNat 8 (s.instDomain n m), 0] ++
    beBytes 2 flags ++ beBytes 8 (unsigned 64 corr) ++ zeros 4 ++ s.portId n ++ beBytes 2 (seq % 65536) ++
    [BitVec.ofNat 8 (ptpControl typ), BitVec.ofNat 8 (unsigned 8 logI)]

theorem State.ptpMsg_eq : s.ptpMsg n m typ flags corr seq logI body = s.ptpHdr n m typ flags corr seq logI body.length ++ body := rfl

theorem State.ptpHdr_length (len : Nat) : (s.ptpHdr n m typ flags corr seq logI len).length = 34 := by
  simp [State.ptpHdr, State.portId, State.clockId_length, zeros]

theorem State.ptpMsg_length : (s.ptpMsg n m typ flags corr seq logI body).length = 34 + body.length := by
  rw [State.ptpMsg_eq, List.length_append, State.ptpHdr_length]

theorem State.slice_ptpMsg_body (i k : Nat) : slice (s.ptpMsg n m typ flags corr seq logI body) (34 + i) k = slice body i k := by
  rw [State.ptpMsg_eq, ← s.ptpHdr_length n m typ flags corr seq logI body.length, slice_append_right]

theorem State.getD_ptpMsg_body (i : Nat) : (s.ptpMsg n m typ flags corr seq logI body).getD (34 + i) 0 = body.getD i 0 := by
  rw [State.ptpMsg_eq, List.getD_append_right _ _ _ _ (by rw [State.ptpHdr_length]; omega), State.ptpHdr_length, Nat.add_sub_cancel_left]

theorem State.ptpType_ptpMsg (h : typ < 16) : ptpType (s.ptpMsg n m typ flags corr seq logI body) = typ := by
  show (BitVec.ofNat 8 ((if s.ptpProfile n = 4 then 0x10 else 0) + typ)).toNat % 16 = typ
  rw [BitVec.toNat_ofNat]
  split <;> omega

theorem State.slice_ptpMsg_corr : slice (s.ptpMsg n m typ flags corr seq logI body) 8 8 = beBytes 8 (unsigned 64 corr) := by
  have hsplit : ∃ as cs, as.length = 8 ∧ s.ptpMsg n m typ flags corr seq logI body = as ++ beBytes 8 (unsigned 64 corr) ++ cs :=
    ⟨(s.ptpHdr n m typ flags corr seq logI body.length).take 8,
      zeros 4 ++ (s.portId n ++ (beBytes 2 (seq % 65536) ++ ([BitVec.ofNat 8 (ptpControl typ), BitVec.ofNat 8 (unsigned 8 logI)] ++ body))),
      by simp [State.ptpHdr_length], by simp [State.ptpMsg_eq, State.ptpHdr, List.take_append]⟩
  obtain ⟨as, cs, hlen, heq⟩ := hsplit
  rw [heq]
  exact slice_between _ hlen (beBytes_length _ _)

theorem State.slice_ptpMsg_seq : slice (s.ptpMsg n m typ flags corr seq logI body) 30 2 = beBytes 2 (seq % 65536) := by
  rw [State.ptpMsg_eq, State.ptpHdr, List.append_assoc]
  exact slice_between _ (by simp [State.portId, State.clockId_length, zeros]) (beBytes_length _ _)

end

/-- The body of an Announce (R461). -/
theorem State.announceMsg_fields (s : State) (n m seq : Nat) (uni : Bool) (l : Int) :
    (s.announceMsg n m seq uni l).length = 64 ∧ (s.announceMsg n m seq uni l).getD 48 0 = BitVec.ofNat 8 s.clockClass ∧
      ptpType (s.announceMsg n m seq uni l) = 11 ∧ slice (s.announceMsg n m seq uni l) 53 8 = s.clockId := by
  refine ⟨?length, ?class_, State.ptpType_ptpMsg _ _ _ _ _ _ _ _ _ (by decide), ?identity⟩
  case length =>
    rw [State.announceMsg, State.ptpMsg_length]
    simp [State.clockId_length, zeros]
  case class_ =>
    rw [State.announceMsg, State.getD_ptpMsg_body _ _ _ _ _ _ _ _ _ 14]
    simp [List.getD_eq_getElem?_getD, List.getElem?_append, zeros]
  case identity =>
    rw [State.announceMsg, State.slice_ptpMsg_body _ _ _ _ _ _ _ _ _ 19]
    exact slice_between _ (by simp [zeros]) s.clockId_length

/-! Sync and Announce in their slot (R462, R467). -/

theorem foldl_idle {α : Type} {l : List Nat} {c : α → Nat → Bool} (f : α → Nat → α) {a : α} (h : ∀ k ∈ l, c a k = false) :
    l.foldl (fun a k => if c a k = true then f a k else a) a = a := by
  induction l with
  | nil => rfl
  | cons k l ih =>
    rw [List.foldl_cons, h k List.mem_cons_self]
    exact ih fun j hj => h j (List.mem_cons_of_mem _ hj)

/-- A walk of which one index alone is due, before it and after it was served. -/
theorem foldl_one {α : Type} {l : List Nat} {c : α → Nat → Bool} {f : α → Nat → α} {a : α} {m : Nat} (hl : l.Nodup) (hm : m ∈ l)
    (hdue : ∀ k ∈ l, c a k = decide (k = m)) (hserved : ∀ k ∈ l, k ≠ m → c (f a m) k = false) :
    l.foldl (fun a k => if c a k = true then f a k else a) a = f a m := by
  induction l with
  | nil => cases hm
  | cons k l ih =>
    obtain ⟨hk, hl⟩ := List.nodup_cons.1 hl
    rw [List.foldl_cons, hdue k List.mem_cons_self]
    by_cases hkm : k = m
    · rw [decide_eq_true hkm, if_pos rfl, hkm]
      exact foldl_idle f fun j hj => hserved j (List.mem_cons_of_mem _ hj) fun e => hk (by rw [hkm, ← e]; exact hj)
    · rw [decide_eq_false hkm, if_neg Bool.false_ne_true]
      exact ih hl (List.mem_of_ne_of_mem (Ne.symm hkm) hm) (fun j hj => hdue j (List.mem_cons_of_mem _ hj))
        fun j hj => hserved j (List.mem_cons_of_mem _ hj)

/-- Nothing but the ports and the PTP engine is touched. -/
def State.PtpOnly (s t : State) : Prop := t = { s with ports := t.ports, ptp := t.ptp }

section
variable {s t : State} (h : s.PtpOnly t)
include h

theorem State.PtpOnly.instOn (n m : Nat) : t.instOn n m = s.instOn n m := by rw [h]; rfl

theorem State.PtpOnly.bit (off i : Nat) : t.bit off i = s.bit off i := by rw [h]; rfl

theorem State.PtpOnly.logSync (n m : Nat) : t.logSync n m = s.logSync n m := by rw [h]; rfl

theorem State.PtpOnly.logAnn (n m : Nat) : t.logAnn n m = s.logAnn n m := by rw [h]; rfl

end

/-- A change of every grant where there is none. -/
theorem State.grants_map_none {s : State} (f : Grant → Grant) (h : s.ptp.grants = []) :
    { s with ptp := { s.ptp with grants := s.ptp.grants.map f } } = s := by
  have hsame : s.ptp.grants.map f = s.ptp.grants := by rw [h]; rfl
  rw [hsame]

section
variable {s : State} {n m kind slot : Nat}

/-- The interval at which a part of a port sends Sync, of kind 0, or Announce. -/
def State.logOf (s : State) (n m kind : Nat) : Int := if kind = 0 then s.logSync n m else s.logAnn n m

/-- A slot of a port that has one multicast part and no grant, due in it: one message. -/
theorem State.sendSlot_one {inst : Nat → Bool} (hm : m < 4) (hinst : inst m = true)
    (hone : ∀ k, k < 4 → (s.instOn n k && s.bit (iBase n k) 30) = decide (k = m)) (hslot : inSlot (s.logOf n m kind) 0 slot = true)
    (hsent : s.PtpOnly (s.sendGroup n m kind)) (hgrants : (s.sendGroup n m kind).ptp.grants = []) :
    s.sendSlot n kind slot inst = s.sendGroup n m kind := by
  have hfold : (List.range 4).foldl (fun s k =>
      if inst k && s.instOn n k && s.bit (iBase n k) 30 && inSlot (s.logOf n k kind) 0 slot then s.sendGroup n k kind else s) s =
      s.sendGroup n m kind := by
    refine foldl_one (c := fun (s : State) k => inst k && s.instOn n k && s.bit (iBase n k) 30 && inSlot (s.logOf n k kind) 0 slot)
      (f := fun (s : State) k => s.sendGroup n k kind) List.nodup_range (List.mem_range.2 hm) (fun k hk => ?_) fun k hk hkm => ?_
    · have hk := hone k (List.mem_range.1 hk)
      by_cases hkm : k = m
      · subst hkm
        simp only [decide_true] at hk ⊢
        rw [Bool.and_assoc (inst k), hk, hinst, hslot]
        rfl
      · simp only [hkm, decide_false] at hk ⊢
        rw [Bool.and_assoc (inst k), hk]
        simp
    · have hk := hone k (List.mem_range.1 hk)
      simp only [hkm, decide_false] at hk
      rw [hsent.instOn, hsent.bit, Bool.and_assoc (inst k), hk]
      simp
  unfold State.sendSlot
  extract_lets s1 due s2
  have hs1 : s1 = s.sendGroup n m kind := hfold
  have hs2 : s2 = s.sendGroup n m kind := by
    show (s1.ptp.grants.filter due).foldl _ s1 = _
    rw [hs1, hgrants]
    rfl
  exact (State.grants_map_none _ (by rw [hs2]; exact hgrants)).trans hs2

theorem State.sendGroup_sync (hauth : s.bit (iBase n m) 25 = false) (hup : (s.port n).link = true) :
    ∃ e, s.sendGroup n m 0 = (s.setPort n (PortSt.queued e)).setPtp n (fun p => { p with syncSeq := p.syncSeq + 1 }) ∧ e.src = .sync ∧
      e.ins = syncIns e.ptpAt ∧
      e.bytes = (s.ptpFrame n m false (s.syncMsg n m (s.ptpPort n).syncSeq false (s.logSync n m)) (s.groupDst n m false)).1 := by
  obtain ⟨e, he, hsrc, hins, -, hbytes⟩ := s.ptpSend_known hauth hup .sync false syncIns false
    (s.syncMsg n m (s.ptpPort n).syncSeq false (s.logSync n m)) (s.groupDst_known n m false)
  exact ⟨e, congrArg (fun t : State => t.setPtp n fun p => { p with syncSeq := p.syncSeq + 1 }) he, hsrc, hins, hbytes⟩

theorem State.sendGroup_announce (hauth : s.bit (iBase n m) 25 = false) (hup : (s.port n).link = true) :
    ∃ e, s.sendGroup n m 1 = (s.setPort n (PortSt.queued e)).setPtp n (fun p => { p with annSeq := p.annSeq + 1 }) ∧ e.src = .announce ∧
      e.ins = .none ∧
      e.bytes = (s.ptpFrame n m false (s.announceMsg n m (s.ptpPort n).annSeq false (s.logAnn n m)) (s.groupDst n m false)).1 := by
  obtain ⟨e, he, hsrc, hins, -, hbytes⟩ := s.ptpSend_known hauth hup .announce false (fun _ => .none) false
    (s.announceMsg n m (s.ptpPort n).annSeq false (s.logAnn n m)) (s.groupDst_known n m false)
  exact ⟨e, congrArg (fun t : State => t.setPtp n fun p => { p with annSeq := p.annSeq + 1 }) he, hsrc, hins, hbytes⟩

/-- What a port of the engine gets by one frame queued and two changes of its PTP state. -/
theorem State.queuedPtp_spec (hn : n < s.ptp.ports.length) (hup : (s.port n).link = true) (e : EgFrame) (f g : PtpPort → PtpPort) :
    let t := ((s.setPort n (PortSt.queued e)).setPtp n f).setPtp n g
    t = { s with ports := t.ports, ptp := t.ptp } ∧ t.port n = { s.port n with eg := (s.port n).eg ++ [e] } ∧
      t.ptpPort n = g (f (s.ptpPort n)) := by
  refine ⟨rfl, State.port_setPort_self (PortSt.queued e) (s.up_lt hup), ?_⟩
  have hn1 : n < ((s.setPort n (PortSt.queued e)).setPtp n f).ptp.ports.length := by rw [State.setPtp_ports_length]; exact hn
  rw [State.ptpPort_setPtp_self g hn1, (s.setPort n (PortSt.queued e)).ptpPort_setPtp_self f hn]
  rfl

theorem State.syncSend_again (hslot : (s.ptpPort n).syncSlot = some s.slotCount) : s.syncSend n slot = s := by
  unfold State.syncSend
  rw [hslot]
  simp

theorem State.announceSend_again (hslot : (s.ptpPort n).annSlot.getD m none = some s.slotCount) : s.announceSend n m = s := by
  unfold State.announceSend
  rw [hslot]
  simp

theorem State.syncSend_due (hruns : s.ptpRuns n = true) (hmaster : s.ptpClient n = false) (hmay : s.maySync n = true) (hnow : slot = s.slotNow)
    (hslot : (s.ptpPort n).syncSlot ≠ some s.slotCount) :
    s.syncSend n slot = (s.sendSlot n 0 slot fun _ => true).setPtp n fun p => { p with syncSlot := some s.slotCount } := by
  unfold State.syncSend
  rw [hruns, hmaster, hmay, ← hnow]
  simp [hslot]

theorem State.announceSend_due (hruns : s.ptpRuns n = true) (hmaster : s.ptpClient n = false) (hmay : s.mayAnnounce n = true)
    (hslot : (s.ptpPort n).annSlot.getD m none ≠ some s.slotCount) :
    s.announceSend n m =
      (s.sendSlot n 1 s.slotNow fun k => k == m).setPtp n fun p => { p with annSlot := putAt p.annSlot m (some s.slotCount) } := by
  unfold State.announceSend
  rw [hruns, hmaster, hmay]
  exact if_pos (bne_iff_ne.2 hslot)

end

/-! Received messages (R473). -/

section
variable {s : State} {lane : Nat} {c : Ctx} {m : List Byte}

theorem State.ptpReceive_dropped {i : Nat} (hptp : s.lanePtp lane = some (c, m)) (hnew : c.checked = false)
    (hdrop : s.ptpDrop c.port c.pkt m = some i) : s.ptpReceive lane = (s.laneDrop lane c).count (ptpCtr c.port i) := by
  unfold State.ptpReceive
  simp only [hptp, hnew, hdrop, Bool.false_eq_true, if_false]

theorem State.ptpReceive_good (hptp : s.lanePtp lane = some (c, m)) (hnew : c.checked = false) (hgood : s.ptpDrop c.port c.pkt m = none) :
    s.ptpReceive lane =
      if !s.ptpClient c.port && (ptpType m == 0 || ptpType m == 11) then (s.laneDrop lane c).count (ptpCtr c.port 17)
      else s.setCtx c.id fun x => { x with checked := true } := by
  unfold State.ptpReceive
  simp only [hptp, hnew, hgood, Bool.false_eq_true, if_false]

end

/-! Delay requests (R469). -/

section
variable {s : State} {lane : Nat} {c : Ctx} {m : List Byte} {i : Nat}

/-- A Delay_Req of a part with multicast alone. -/
theorem State.delayReq_multicast (htaken : s.taken lane [1] = some (c, m, i)) (hprofile : peerDelay (s.ptpProfile c.port) = false)
    (huni : s.bit (iBase c.port i) 29 = false) (hmulti : s.bit (iBase c.port i) 30 = true) : s.delayReq lane =
    if s.fld (gBase c.port) 19 0 ≤ (s.lastSec (s.ptpPort c.port).dreqTimes).length then (s.laneDrop lane c).count (ptpCtr c.port 13)
    else ((s.setPtp c.port fun p => { p with dreqTimes := s.now :: s.lastSec (s.ptpPort c.port).dreqTimes }).count (ptpCtr c.port 4)).ptpAnswer
      lane c i (.delayResp c.id) (fun _ => .none) false (s.delayResp c m i false (s.logDreq c.port i)) := by
  unfold State.delayReq
  rw [htaken]
  dsimp only
  rw [hprofile, huni, hmulti, Bool.and_false]
  rfl

theorem State.delayResp_fields (s : State) (c : Ctx) (m : List Byte) (i : Nat) (uni : Bool) (l : Int) :
    slice (s.delayResp c m i uni l) 34 10 = stampOf c.ingress ∧ slice (s.delayResp c m i uni l) 44 10 = ptpSrc m := by
  have hstamp : (stampOf c.ingress).length = 10 := by simp [stampOf]
  have hsrc : (ptpSrc m).length ≤ 10 := List.length_take_le _ _
  constructor
  · rw [State.delayResp, State.slice_ptpMsg_body _ _ _ _ _ _ _ _ _ 0]
    exact slice_between (as := []) _ rfl hstamp
  · rw [State.delayResp, State.slice_ptpMsg_body _ _ _ _ _ _ _ _ _ 10, ← hstamp, ← Nat.add_zero (stampOf c.ingress).length, slice_append_right]
    rw [Nat.add_zero, hstamp]
    exact List.take_of_length_le hsrc

theorem State.ptpReply_underSet {s u : State} (h : u = { s with ptp := u.ptp, ctr := u.ctr }) (lane n : Nat) (p : Pkt) (msg : List Byte) :
    (u.underSet lane).ptpReply n p msg = (s.underSet lane).ptpReply n p msg := by
  have hsame : u.underSet lane = { s.underSet lane with ptp := u.ptp, ctr := u.ctr } := by
    rw [h]
    unfold State.underSet
    dsimp only
    split <;> rfl
  rw [hsame]
  rfl

/-- The answer to a Delay_Req that is within the port's rate. -/
theorem State.delayReq_answered {n : Nat} (hn : n < s.ptp.ports.length) (htaken : s.taken lane [1] = some (c, m, i)) (hport : c.port = n)
    (hprofile : peerDelay (s.ptpProfile n) = false) (huni : s.bit (iBase n i) 29 = false) (hmulti : s.bit (iBase n i) 30 = true)
    (hrate : (s.lastSec (s.ptpPort n).dreqTimes).length < s.fld (gBase n) 19 0) (hup : (s.port n).link = true)
    (hauth : s.bit (iBase n i) 25 = false) :
    ∃ t e, s.delayReq lane = t ∧ t = { s with ports := t.ports, ptp := t.ptp, wv := t.wv, ctr := t.ctr } ∧
      (t.port n) = { s.port n with eg := (s.port n).eg ++ [e] } ∧ e.src = .delayResp c.id ∧ e.ins = .none ∧
      (∃ msg, e.bytes = ((s.underSet lane).ptpReply n c.pkt msg).1 ∧ slice msg 34 10 = stampOf c.ingress ∧ slice msg 44 10 = ptpSrc m ∧
        msg = s.delayResp c m i false (s.logDreq n i)) ∧
      (t.ptpPort n).dreqTimes = s.now :: s.lastSec (s.ptpPort n).dreqTimes ∧ (t.wv.lanes.getD lane Lane.reset).ctx = none := by
  subst hport
  have hplain := State.delayReq_multicast htaken hprofile huni hmulti
  rw [if_neg (Nat.not_le_of_lt hrate)] at hplain
  generalize hu : (s.setPtp c.port fun p => { p with dreqTimes := s.now :: s.lastSec (s.ptpPort c.port).dreqTimes }).count (ptpCtr c.port 4) = u at hplain
  have htimes : (u.ptpPort c.port).dreqTimes = s.now :: s.lastSec (s.ptpPort c.port).dreqTimes := by
    rw [← hu]
    exact congrArg PtpPort.dreqTimes (s.ptpPort_setPtp_self _ hn)
  have honly : u = { s with ptp := u.ptp, ctr := u.ctr } := by rw [← hu]; rfl
  have hbit : u.bit (iBase c.port i) 25 = false := by rw [honly]; exact hauth
  have hports : u.port c.port = s.port c.port := by rw [honly]; rfl
  obtain ⟨e, he, hsrc, hins, -, hbytes⟩ := u.ptpAnswer_up (lane := lane) hbit (by rw [hports]; exact hup) (.delayResp c.id) (fun _ => .none) false
    (s.delayResp c m i false (s.logDreq c.port i))
  obtain ⟨hstamp, hfrom⟩ := s.delayResp_fields c m i false (s.logDreq c.port i)
  have hqueued : ((u.laneWaits lane c).setPort c.port (PortSt.queued e)).port c.port = PortSt.queued e (u.port c.port) :=
    State.port_setPort_self (PortSt.queued e) (u.up_lt (by rw [hports]; exact hup))
  refine ⟨_, e, hplain.trans he, ?_, hqueued.trans (by rw [hports]; rfl), hsrc, hins, ⟨_, ?_, hstamp, hfrom, rfl⟩, htimes, u.laneEnd_free lane⟩
  · unfold State.setPort State.laneWaits State.setCtx State.laneEnd
    rw [honly]
  · rw [hbytes, State.ptpReply_underSet honly]

end

/-! Negotiation (R464, R465, R467). -/

section
variable {s : State} {n i : Nat} {p : Pkt} {cid : List Byte} {typ k : Nat} {l : Int}

/-- The grant that a request asks for, its place not yet found (R464). -/
def State.asked (s : State) (n i : Nat) (p : Pkt) (cid : List Byte) (k : Nat) (l : Int) (dur : Nat) : Grant :=
  { port := n, inst := i, cid := cid, addr := beBytes 6 p.src, kind := k, logI := l, phase := 0, movePhase := none,
    until_ := s.now + max (if s.ptpProfile n = 3 then 60 else 10) (min 1000 dur) * nsPerSec, times := [], reply := p }

/-- A request on Ethernet for a new Sync or Announce grant that is within ranges, clients and rate and finds its place. -/
theorem State.grantOne_new {dur ph : Nat} (hkind : grantKind typ = some k) (hsend : k ≠ 2) (heth : p.etype = 0x88F7)
    (hlow : (logRange (s.ptpProfile n) k).1 ≤ l) (hhigh : l ≤ (logRange (s.ptpProfile n) k).2) (hclients : s.clients.length < 16384)
    (hnew : ∀ g ∈ s.ptp.grants, g.client = (n, cid, beBytes 6 p.src) → g.kind ≠ k ∨ g.inst ≠ i)
    (hrate : ({ s with ptp := { s.ptp with grants := s.ptp.grants ++ [s.asked n i p cid k l dur] } } : State).committedRate ≤ 8000000)
    (hplace : s.place s.ptp.grants n k l = some ph) :
    (s.grantOne n i p cid typ l dur).2 =
      ({ s with ptp := { s.ptp with grants := s.ptp.grants ++ [{ s.asked n i p cid k l dur with phase := ph }] } } : State).count (ptpCtr n 5) := by
  have hnot : ∀ g ∈ s.ptp.grants, (g.client == (n, cid, beBytes 6 p.src) && g.kind == k && g.inst == i) = false := by
    intro g hg
    by_cases hme : g.client = (n, cid, beBytes 6 p.src)
    · rcases hnew g hg hme with h | h <;> simp [h]
    · rw [beq_eq_false_iff_ne.2 hme]
      rfl
  have hothers : s.ptp.grants.filter (fun g => !(g.client == (n, cid, beBytes 6 p.src) && g.kind == k && g.inst == i)) = s.ptp.grants :=
    List.filter_eq_self.2 fun g hg => by rw [hnot g hg]; rfl
  have hold : s.ptp.grants.find? (fun g => g.client == (n, cid, beBytes 6 p.src) && g.kind == k && g.inst == i) = none :=
    List.find?_eq_none.2 fun g hg => ne_true_of_eq_false (hnot g hg)
  have hrange : ¬(l < (logRange (s.ptpProfile n) k).1 ∨ (logRange (s.ptpProfile n) k).2 < l) := by omega
  have hroom : ¬(!s.clients.contains (n, cid, beBytes 6 p.src) && decide (16384 ≤ s.clients.length)) = true := by
    rw [decide_eq_false (Nat.not_le_of_lt hclients), Bool.and_false]
    exact Bool.false_ne_true
  unfold State.grantOne
  dsimp only
  rw [hkind, if_pos heth]
  dsimp only
  rw [if_neg hrange, if_neg hroom, hothers, hold]
  dsimp only
  rw [if_neg hsend, hplace]
  exact congrArg Prod.snd (if_neg (not_lt_of_ge hrate))

theorem State.ptpReplySend_up {m : Nat} (hauth : s.bit (iBase n m) 25 = false) (hup : (s.port n).link = true) (src : EgSrc) (msg : List Byte) :
    ∃ e, s.ptpReplySend n m src p msg = s.setPort n (PortSt.queued e) ∧ e.src = src := by
  let r := s.ptpReply n p msg
  refine ⟨s.placed n { s.plainFrame src r.1 (p.prio (s.untagPrio n)) with csum := r.2.1, l4 := r.2.2 }, ?_, rfl⟩
  unfold State.ptpReplySend
  rw [s.authWrap_plain hauth, hup]
  exact State.queueFrame_up _ hup

end

section
variable {s : State} {lane n i k : Nat} {c : Ctx} {m : List Byte} {x : TlvAt}

theorem State.gmTlv_request (s : State) (n i : Nat) (p : Pkt) (m : List Byte) (htyp : x.typ = 4) :
    (s.gmTlv n i p m x).1.isEmpty = false ∧
      (s.gmTlv n i p m x).2 = (s.grantOne n i p (ptpSrc m) ((m.getD (x.at_ + 4) 0).toNat / 16) (signed 8 (m.getD (x.at_ + 5) 0).toNat)
        (ofBe (slice m (x.at_ + 6) 4))).2 := by
  unfold State.gmTlv
  rw [htyp]
  exact ⟨by simp [tlv], rfl⟩

/-- A Signaling message of one request TLV: its answer is one message. -/
theorem State.negotiate_request (htaken : s.taken lane [12] = some (c, m, i)) (hmaster : s.ptpClient c.port = false)
    (huni : s.bit (iBase c.port i) 29 = true) (htarget : slice m 34 8 = s.clockId) (htlv : ptpTlvs m = some [x]) (htyp : x.typ = 4) :
    ∃ out u, u = ((s.laneDrop lane c).grantOne c.port i c.pkt (ptpSrc m) ((m.getD (x.at_ + 4) 0).toNat / 16)
        (signed 8 (m.getD (x.at_ + 5) 0).toNat) (ofBe (slice m (x.at_ + 6) 4))).2 ∧
      s.negotiate lane = u.ptpReplySend c.port i .signaling c.pkt (u.signaling c.port i (ptpSrc m) out (ptpSeq m)) := by
  have hmine : (slice m 34 10).take 8 = (s.laneDrop lane c).clockId := by
    rw [slice, List.take_take]
    exact htarget
  obtain ⟨hanswer, hgrant⟩ := (s.laneDrop lane c).gmTlv_request c.port i c.pkt m htyp
  refine ⟨[] ++ ((s.laneDrop lane c).gmTlv c.port i c.pkt m x).1, _, rfl, ?_⟩
  unfold State.negotiate
  rw [htaken]
  dsimp only
  rw [htlv, if_neg fun h => h.1 hmine, show (s.laneDrop lane c).ptpClient c.port = false from hmaster,
    show (s.laneDrop lane c).bit (iBase c.port i) 29 = true from huni, if_neg (by simp)]
  rw [← hgrant]
  exact if_neg (ne_true_of_eq_false hanswer)

theorem State.laneDrop_only (s : State) (lane : Nat) (c : Ctx) : s.laneDrop lane c = { s with wv := (s.laneDrop lane c).wv } := rfl

/-- A request for a new Sync or Announce grant that is placed: granted, answered and counted. -/
theorem State.negotiate_granted {ph : Nat} (htaken : s.taken lane [12] = some (c, m, i)) (hmaster : s.ptpClient c.port = false)
    (huni : s.bit (iBase c.port i) 29 = true) (hauth : s.bit (iBase c.port i) 25 = false) (hup : (s.port c.port).link = true)
    (htarget : slice m 34 8 = s.clockId) (htlv : ptpTlvs m = some [x]) (htyp : x.typ = 4)
    (hkind : grantKind ((m.getD (x.at_ + 4) 0).toNat / 16) = some k) (hsend : k ≠ 2) (heth : c.pkt.etype = 0x88F7)
    {l : Int} (hl : l = signed 8 (m.getD (x.at_ + 5) 0).toNat) {dur : Nat} (hdur : dur = ofBe (slice m (x.at_ + 6) 4))
    (hlow : (logRange (s.ptpProfile c.port) k).1 ≤ l) (hhigh : l ≤ (logRange (s.ptpProfile c.port) k).2) (hclients : s.clients.length < 16384)
    (hnew : ∀ g ∈ s.ptp.grants, g.client = (c.port, ptpSrc m, beBytes 6 c.pkt.src) → g.kind ≠ k ∨ g.inst ≠ i)
    (hrate : ({ s with ptp := { s.ptp with grants := s.ptp.grants ++ [s.asked c.port i c.pkt (ptpSrc m) k l dur] } } : State).committedRate ≤ 8000000)
    (hplace : s.place s.ptp.grants c.port k l = some ph) :
    ∃ t e, s.negotiate lane = t ∧ t.ptp.grants = s.ptp.grants ++ [{ s.asked c.port i c.pkt (ptpSrc m) k l dur with phase := ph }] ∧
      (t.port c.port).eg = (s.port c.port).eg ++ [e] ∧ e.src = .signaling ∧
      t = { s with ports := t.ports, ptp := t.ptp, wv := t.wv, ctr := t.ctr } ∧
      t.ctrAt (ptpCtr c.port 5) = ctrAdd (s.ctrAt (ptpCtr c.port 5)) 1 := by
  subst hl hdur
  obtain ⟨out, u, hu, hsent⟩ := State.negotiate_request htaken hmaster huni htarget htlv htyp
  have honly := s.laneDrop_only lane c
  generalize s.laneDrop lane c = v at hu honly
  rw [State.grantOne_new (s := v) (ph := ph) hkind hsend heth (by rw [honly]; exact hlow) (by rw [honly]; exact hhigh) (by rw [honly]; exact hclients)
    (by rw [honly]; exact hnew) (by rw [honly]; exact hrate) (by rw [honly]; exact hplace)] at hu
  have hgrants : u.ptp.grants = s.ptp.grants ++ [{ s.asked c.port i c.pkt (ptpSrc m) k (signed 8 (m.getD (x.at_ + 5) 0).toNat)
      (ofBe (slice m (x.at_ + 6) 4)) with phase := ph }] := by rw [hu, honly]; rfl
  have hcount : u.ctrAt (ptpCtr c.port 5) = ctrAdd (s.ctrAt (ptpCtr c.port 5)) 1 := by
    rw [hu, State.ctrAt_count_self, honly]
    rfl
  have hrest : u = { s with ptp := u.ptp, wv := u.wv, ctr := u.ctr } := by rw [hu, honly]; rfl
  have hport : u.port c.port = s.port c.port := by rw [hrest]; rfl
  have hup' : (u.port c.port).link = true := by rw [hport]; exact hup
  obtain ⟨e, he, hsrc⟩ := State.ptpReplySend_up (p := c.pkt) (show u.bit (iBase c.port i) 25 = false by rw [hrest]; exact hauth) hup' .signaling
    (u.signaling c.port i (ptpSrc m) out (ptpSeq m))
  refine ⟨_, e, hsent.trans he, hgrants, ?_, hsrc, ?_, hcount⟩
  · rw [State.port_setPort_self (PortSt.queued e) (u.up_lt hup'), hport]
    rfl
  · unfold State.setPort
    rw [hrest]

end

/-! Grants that end (R468, R487). -/

section
variable {s : State}

theorem State.grantExpire_due {g n : Nat} {x : Grant} (hg : s.ptp.grants[g]? = some x) (hport : x.port = n) (hran : x.until_ ≤ s.now) :
    s.grantExpire n g = { s with ptp := { s.ptp with grants := s.ptp.grants.eraseIdx g } } := by
  unfold State.grantExpire
  rw [hg]
  exact if_pos ⟨hport, hran⟩

theorem State.dropFrame_ptp (s : State) (e : EgFrame) (st : Nat) : (s.dropFrame e st).ptp = s.ptp := by
  unfold State.dropFrame
  extract_lets s1
  have h1 : s1.ptp = s.ptp := by
    unfold s1
    split <;> rfl
  split
  · exact h1
  · exact h1

theorem State.queueFrame_ptp (s : State) (n : Nat) (e : EgFrame) : (s.queueFrame n e).ptp = s.ptp := by
  unfold State.queueFrame
  dsimp only
  split
  · rfl
  · exact s.dropFrame_ptp e 0x20

theorem State.sendVia_ptp (s : State) (n : Nat) (tags : List (Nat × Nat)) (src ip : List Byte) (f : EgFrame) :
    (s.sendVia n tags src ip f).ptp = s.ptp := by
  unfold State.sendVia
  split
  · exact s.queueFrame_ptp _ _
  · exact State.queueFrame_ptp _ _ _

theorem State.ptpSend_ptp (s : State) (n m : Nat) (src : EgSrc) (peer : Bool) (ins : Nat → Insertion) (tsReq : Bool) (msg : List Byte) (d : PtpDst) :
    (s.ptpSend n m src peer ins tsReq msg d).ptp = s.ptp := by
  unfold State.ptpSend
  split
  · rfl
  · split
    · rfl
    · dsimp only
      split
      · exact s.sendVia_ptp _ _ _ _ _
      · exact s.queueFrame_ptp _ _

theorem State.sendCancel_grants (s : State) (g : Grant) : (s.sendCancel g).ptp.grants = s.ptp.grants := by
  unfold State.sendCancel State.setPtp
  dsimp only
  rw [State.ptpSend_ptp]

theorem State.cancelGrants_grants (s : State) (p : Grant → Bool) : (s.cancelGrants p).ptp.grants = s.ptp.grants.filter fun g => !p g := by
  have hfold : ∀ (gs : List Grant) (t : State), t.ptp.grants = s.ptp.grants →
      (gs.foldl (fun s g => (s.sendCancel g).count (ptpCtr g.port 7)) t).ptp.grants = s.ptp.grants := by
    intro gs
    induction gs with
    | nil => exact fun t h => h
    | cons g gs ih => exact fun t h => ih _ ((t.sendCancel_grants g).trans h)
  exact congrArg (List.filter fun g => !p g) (hfold _ s rfl)

section
variable {n : Nat} (token : Nat) (hopen : s.noWrites = false)
include hopen

theorem State.ptpCancelAll_client (hclient : s.ptpClient n = true) : s.ptpCancelAll token n = s.ptpCtl token 0x20 := by
  unfold State.ptpCancelAll
  rw [hopen, hclient]
  rfl

theorem State.ptpCancelAll_refused (hmaster : s.ptpClient n = false) (hmode : s.md.mode.serving = false) :
    s.ptpCancelAll token n = s.ptpCtl token 0x24 := by
  unfold State.ptpCancelAll
  rw [hopen, hmaster, hmode]
  rfl

theorem State.ptpCancelAll_taken (hmaster : s.ptpClient n = false) (hmode : s.md.mode.serving = true) :
    s.ptpCancelAll token n = (s.cancelGrants fun g => g.port == n).ptpCtl token 0 := by
  unfold State.ptpCancelAll
  rw [hopen, hmaster, hmode]
  rfl

end

end

/-- Settles O43: every send comes down to one frame queued on a port with link and every message of a lane to the row of its type. -/
theorem grandmasterPortsSendAndAnswer : Obligations.GrandmasterPortsSendAndAnswer := by
  intro s n hn
  refine ⟨fun m slot hruns hmaster hsync hann hup hgrants hnow hm hone hauth => ⟨fun hslot => ?again, fun hslot => ?annAgain, fun hslot hdue => ?sync,
      fun hslot hdue => ?announce⟩,
    fun m seq uni l => s.announceMsg_fields n m seq uni l, fun lane c m hptp hnew => ⟨fun i hdrop => ?dropped, fun hgood => ⟨?ends, ?checked⟩⟩,
    fun lane c m i htaken hport hprofile huni hmulti => ⟨fun hrate => ?refused, fun hrate hup hauth => ?answered⟩,
    fun lane c m i x k htaken hport hmaster huni hauth hup htarget htlv htyp hkind hsend heth => ?granted,
    fun g x hg hport hran => ?expired, fun tok hopen => ⟨fun hclient => ?client, fun hmaster hmode => ?mode, fun hmaster hmode => ?cancelled⟩⟩
  case again => rw [exec_syncSend, s.syncSend_again hslot]
  case annAgain => rw [exec_announceSend, s.announceSend_again hslot]
  case sync =>
    obtain ⟨e, he, hsrc, hins, hbytes⟩ := s.sendGroup_sync hauth hup
    have hsent : s.sendSlot n 0 slot (fun _ => true) = s.sendGroup n m 0 :=
      State.sendSlot_one hm rfl hone hdue (by rw [he]; rfl) (by rw [he]; exact hgrants)
    obtain ⟨hrest, hport, hptp⟩ := s.queuedPtp_spec hn hup e (fun p => { p with syncSeq := p.syncSeq + 1 }) fun p => { p with syncSlot := some s.slotCount }
    exact ⟨_, e, by rw [exec_syncSend, s.syncSend_due hruns hmaster hsync hnow hslot, hsent, he], hrest, hport, hsrc, hins, hbytes, hptp⟩
  case announce =>
    obtain ⟨e, he, hsrc, hins, hbytes⟩ := s.sendGroup_announce hauth hup
    have hsent : s.sendSlot n 1 s.slotNow (fun k => k == m) = s.sendGroup n m 1 :=
      State.sendSlot_one hm (beq_self_eq_true m) hone (by rw [← hnow]; exact hdue) (by rw [he]; rfl) (by rw [he]; exact hgrants)
    obtain ⟨hrest, hport, hptp⟩ := s.queuedPtp_spec hn hup e (fun p => { p with annSeq := p.annSeq + 1 })
      fun p => { p with annSlot := putAt p.annSlot m (some s.slotCount) }
    exact ⟨_, e, by rw [exec_announceSend, s.announceSend_due hruns hmaster hann hslot, hsent, he], hrest, hport, hsrc, hins, hbytes, hptp⟩
  case dropped => rw [exec_ptpMessageReceive, State.ptpReceive_dropped hptp hnew hdrop]
  case ends =>
    intro hmaster htyp
    rw [exec_ptpMessageReceive, State.ptpReceive_good hptp hnew hgood]
    exact congrArg _ (if_pos (by simpa [hmaster] using htyp))
  case checked =>
    intro hother
    rw [exec_ptpMessageReceive, State.ptpReceive_good hptp hnew hgood]
    refine congrArg _ (if_neg ?_)
    rcases hother with h | h <;> simp [h]
  case refused =>
    subst hport
    rw [exec_delayReq, State.delayReq_multicast htaken hprofile huni hmulti, if_pos hrate]
  case answered =>
    obtain ⟨t, e, ht, hanswer⟩ := State.delayReq_answered hn htaken hport hprofile huni hmulti hrate hup hauth
    exact ⟨t, e, by rw [exec_delayReq, ht], hanswer⟩
  case granted =>
    intro l d me new hlow hhigh hclients hnew hrate ph hplace
    subst hport
    obtain ⟨t, e, ht, hanswer⟩ := State.negotiate_granted htaken hmaster huni hauth hup htarget htlv htyp hkind hsend heth (l := l) rfl rfl hlow hhigh
      hclients hnew hrate hplace
    exact ⟨t, e, by rw [exec_unicastNegotiation, ht], hanswer⟩
  case expired => rw [exec_grantExpire, State.grantExpire_due hg hport hran]
  case client => rw [exec_cancelGrants, State.ptpCancelAll_client _ hopen hclient]
  case mode => rw [exec_cancelGrants, State.ptpCancelAll_refused _ hopen hmaster hmode]
  case cancelled =>
    obtain ⟨hact, -, -, hmd⟩ := s.cancelGrants_configFrame fun g => g.port == n
    exact ⟨(s.cancelGrants fun g => g.port == n).ptpCtl tok.toNat 0, by rw [exec_cancelGrants, State.ptpCancelAll_taken _ hopen hmaster hmode], s.cancelGrants_grants _, rfl, rfl, hmd, hact⟩

end Sys2Proof.Machine
end

section
/-! SUPPORT. The peer delay exchange: its request, its answers and the delay that a completed one gives. -/

namespace Sys2Proof.Machine

open Sys2Proof

theorem exec_pdelayReqSend (s : State) (n m : Nat) : exec (.pdelayReqSend n m) s = .next (s.pdelaySend n m) := rfl

theorem exec_pdelayReqReceive (s : State) (lane : Nat) : exec (.pdelayReqReceive lane) s = .next (s.pdelayReqIn lane) := rfl

theorem exec_pdelayRespFollowUp (s : State) (n : Nat) : exec (.pdelayRespFollowUp n) s = .next (s.pdelayFollow n) := rfl

theorem exec_peerDelayComplete (s : State) (lane : Nat) : exec (.peerDelayComplete lane) s = .next (s.peerComplete lane) := rfl

/-- Of the PTP engine one port alone is changed. -/
structure State.PtpPortSet (s t : State) (n : Nat) (p : PtpPort) : Prop where
  rest : t = { s with ptp := t.ptp }
  len : t.ptp.ports.length = s.ptp.ports.length
  port : t.ptpPort n = p

theorem State.setPtp_set (s : State) {n : Nat} (hn : n < s.ptp.ports.length) (f : PtpPort → PtpPort) :
    s.PtpPortSet (s.setPtp n f) n (f (s.ptpPort n)) :=
  ⟨rfl, s.setPtp_ports_length n f, s.ptpPort_setPtp_self f hn⟩

theorem State.PtpPortSet.setPtp {s t : State} {n : Nat} {p : PtpPort} (h : s.PtpPortSet t n p) (hn : n < s.ptp.ports.length) (f : PtpPort → PtpPort) :
    s.PtpPortSet (t.setPtp n f) n (f p) := by
  obtain ⟨hrest, hlen, hport⟩ := h
  refine ⟨?_, ?_, ?_⟩
  · unfold State.setPtp
    rw [hrest]
  · rw [State.setPtp_ports_length, hlen]
  · rw [State.ptpPort_setPtp_self f (by rw [hlen]; exact hn), hport]

/-- What asCapable is judged to be (R463). -/
def State.asJudged (s : State) (n : Nat) (p : PtpPort) : Bool :=
  s.ptpProfile n == 4 && (match p.mpd with
    | some d => decide (d ≤ ((s.reg (gBase n + 0x18)).toNat * snsPerNs : Nat))
    | none => false) && decide (3 ≤ (p.pdHist.filter id).length)

theorem State.PtpPortSet.judgeAs {s t : State} {n : Nat} {p : PtpPort} (h : s.PtpPortSet t n p) (hn : n < s.ptp.ports.length) :
    s.PtpPortSet (t.judgeAs n) n { p with asCapable := t.asJudged n p } :=
  h.setPtp hn fun p => { p with asCapable := t.asJudged n p }

section
variable {s t : State} {n : Nat} {p : PtpPort} (h : s.PtpPortSet t n p)
include h

theorem State.PtpPortSet.bit (off i : Nat) : t.bit off i = s.bit off i := by rw [h.rest]; rfl

theorem State.PtpPortSet.line (k : Nat) : t.port k = s.port k := by rw [h.rest]; rfl

theorem State.PtpPortSet.instFor (k d x : Nat) : t.instFor k d x = s.instFor k d x := by rw [h.rest]; rfl

theorem State.PtpPortSet.ptpRuns (k : Nat) : t.ptpRuns k = s.ptpRuns k := by rw [h.rest]; rfl

/-- A message to a known address sent after such a change. -/
theorem State.PtpPortSet.send {m : Nat} (hauth : s.bit (iBase n m) 25 = false) (hup : (s.port n).link = true) (src : EgSrc) (peer : Bool)
    (ins : Nat → Insertion) (tsReq : Bool) (msg : List Byte) {d : PtpDst} (hknown : d.ask = false) :
    ∃ u e, t.ptpSend n m src peer ins tsReq msg d = u ∧ u = { s with ports := u.ports, ptp := u.ptp } ∧
      u.port n = { s.port n with eg := (s.port n).eg ++ [e] } ∧ e.src = src ∧ e.ins = ins e.ptpAt ∧ e.tsReq = tsReq ∧ u.ptpPort n = p := by
  have hlink : (t.port n).link = true := by rw [h.line]; exact hup
  obtain ⟨e, he, hsrc, hins, hts, -⟩ := t.ptpSend_known (by rw [h.bit]; exact hauth) hlink src peer ins tsReq msg hknown
  refine ⟨_, e, he, ?_, ?_, hsrc, hins, hts, h.port⟩
  · unfold State.setPort
    rw [h.rest]
  · rw [State.port_setPort_self (PortSt.queued e) (t.up_lt hlink), h.line]
    rfl

end

/-! The request (R463, R479). -/

section
variable {s : State} {n m : Nat}

theorem State.pdelaySend_early (hdue : s.pdelayDue n = false) : s.pdelaySend n m = s := by
  unfold State.pdelaySend
  rw [hdue, Bool.and_false]
  rfl

/-- A port that begins an exchange. -/
def PtpPort.begun (p : PtpPort) : PtpPort :=
  { p with reqSeq := p.reqSeq + 1, exch := some { seq := (p.reqSeq + 1) % 65536, t1 := none, t2 := none, t4 := none, corr := 0 } }

/-- A port that asks its neighbour: an answer to this request is not yet in. -/
def PtpPort.asking (now : Nat) (p : PtpPort) : PtpPort :=
  { p with pdAt := some now, pdHist := (p.pdHist ++ [false]).drop (p.pdHist.length + 1 - 5) }

theorem State.pdelaySend_due (hruns : s.ptpRuns n = true) (hon : s.instOn n m = true) (hmulti : s.bit (iBase n m) 30 = true)
    (hprofile : peerDelay (s.ptpProfile n) = true) (hdue : s.pdelayDue n = true) (hn : n < s.ptp.ports.length) :
    ∃ t msg as, s.PtpPortSet t n { (s.ptpPort n).begun.asking s.now with asCapable := as } ∧
      s.pdelaySend n m = t.ptpSend n m (.pdelayReq (((s.ptpPort n).reqSeq + 1) % 65536)) true (fun _ => .none) true msg (t.groupDst n m true) := by
  have hall : (s.ptpRuns n && s.instOn n m && s.bit (iBase n m) 30 && peerDelay (s.ptpProfile n) && s.pdelayDue n) = true := by
    rw [hruns, hon, hmulti, hprofile, hdue]
    rfl
  have hsend : s.pdelaySend n m = _ := if_pos hall
  exact ⟨_, _, _, ((s.setPtp_set hn PtpPort.begun).setPtp hn (PtpPort.asking s.now)).judgeAs hn, hsend⟩

end

/-! Its answers (R462). -/

section
variable {s : State} {n i lane : Nat} {c : Ctx} {m : List Byte}

theorem State.pdelayReqIn_oneStep (htaken : s.taken lane [2] = some (c, m, i)) (hprofile : s.ptpProfile c.port = 1) :
    s.pdelayReqIn lane = s.ptpAnswer lane c i (.pdelayResp c.id false) (fun o => .ptpRes (o + 8) c.ingress) false
      (s.ptpMsg c.port i 3 0 (ptpCorr m) (ptpSeq m) 0x7F (zeros 10 ++ ptpSrc m)) := by
  unfold State.pdelayReqIn
  rw [htaken]
  dsimp only
  rw [hprofile]
  rfl

theorem State.pdelayReqIn_answered (htaken : s.taken lane [2] = some (c, m, i)) (hport : c.port = n) (hprofile : s.ptpProfile n = 1)
    (hauth : s.bit (iBase n i) 25 = false) (hup : (s.port n).link = true) :
    ∃ t e msg, s.pdelayReqIn lane = t ∧ t = { s with ports := t.ports, ptp := t.ptp, wv := t.wv } ∧
      (t.port n) = { s.port n with eg := (s.port n).eg ++ [e] } ∧ e.src = .pdelayResp c.id false ∧
      e.ins = .ptpRes (e.ptpAt + 8) c.ingress ∧ e.bytes = ((s.underSet lane).ptpReply n c.pkt msg).1 ∧ ptpType msg = 3 ∧
      slice msg 44 10 = ptpSrc m ∧ slice msg 30 2 = beBytes 2 (ptpSeq m % 65536) ∧ slice msg 8 8 = beBytes 8 (unsigned 64 (ptpCorr m)) := by
  subst hport
  obtain ⟨e, he, hsrc, hins, -, hbytes⟩ := s.ptpAnswer_up (lane := lane) hauth hup (.pdelayResp c.id false) (fun o => .ptpRes (o + 8) c.ingress) false
    (s.ptpMsg c.port i 3 0 (ptpCorr m) (ptpSeq m) 0x7F (zeros 10 ++ ptpSrc m))
  have hfrom : slice (zeros 10 ++ ptpSrc m) 10 10 = ptpSrc m :=
    (slice_append_right (zeros 10) (ptpSrc m) 0 10).trans (List.take_of_length_le (List.length_take_le _ _))
  exact ⟨_, e, _, (State.pdelayReqIn_oneStep htaken hprofile).trans he, rfl, State.port_setPort_self (PortSt.queued e) (s.up_lt hup), hsrc, hins, hbytes,
    State.ptpType_ptpMsg _ _ _ _ _ _ _ _ _ (by decide), (State.slice_ptpMsg_body _ _ _ _ _ _ _ _ _ 10 10).trans hfrom,
    State.slice_ptpMsg_seq _ _ _ _ _ _ _ _ _, State.slice_ptpMsg_corr _ _ _ _ _ _ _ _ _⟩

theorem State.pdelayFollow_first {pid : List Byte} {seq : Nat} {w : TimeWord} {p : Pkt} {rest : List (List Byte × Nat × TimeWord × Pkt)}
    (hfirst : (s.ptpPort n).pdFup = (pid, seq, w, p) :: rest) (hptp : p.ptp? = some m) (hinst : s.instFor n (ptpDomain m) p.transport = some i)
    (hruns : s.ptpRuns n = true) :
    ∃ t msg, t = s.setPtp n (fun q => { q with pdFup := rest }) ∧
      s.pdelayFollow n = t.ptpSend n i .pdelayFup true (fun _ => .none) false msg (t.groupDst n i true) := by
  have hinst' : (s.setPtp n fun q => { q with pdFup := rest }).instFor n (ptpDomain m) p.transport = some i := hinst
  unfold State.pdelayFollow
  rw [hfirst]
  dsimp only
  rw [hptp, Option.bind_some, hinst']
  exact ⟨_, _, rfl, if_pos hruns⟩

end

/-! The delay (R463). -/

section
variable {s : State} {lane i : Nat} {c : Ctx} {m : List Byte} {x : Exchange} {t1 : Int}

/-- A port with the delay that an exchange gave. -/
def PtpPort.measured (d : Int) (p : PtpPort) : PtpPort :=
  { p with mpd := some d, delays := (p.delays ++ [d]).drop (p.delays.length + 1 - 16), exch := none,
           pdHist := if p.pdHist.isEmpty then [true] else p.pdHist.dropLast ++ [true] }

theorem State.neighbour_set (s : State) {n : Nat} (hn : n < s.ptp.ports.length) (d : Int) :
    ∃ as, s.PtpPortSet (s.neighbour n d) n { (s.ptpPort n).measured d with asCapable := as } :=
  ⟨_, (s.setPtp_set hn (PtpPort.measured d)).judgeAs hn⟩

/-- The exchange in hand, its request's departure known, met by an answer to it. -/
theorem State.peerComplete_taken (htaken : s.taken lane [3, 10] = some (c, m, i)) (hexch : (s.ptpPort c.port).exch = some x) (hleft : x.t1 = some t1)
    (hseq : ptpSeq m = x.seq) (hmine : slice m 44 10 = s.portId c.port) (hprofile : peerDelay (s.ptpProfile c.port) = true) :
    (ptpType m = 3 → (m.getD 6 0).toNat / 2 % 2 = 0 →
      s.peerComplete lane = (s.laneDrop lane c).neighbour c.port (Config.round ((((c.ingress.t : Int) - t1 - ptpCorr m : Int) : Rat) / 2))) ∧
    (∀ t2 t4, ptpType m = 10 → s.ptpProfile c.port = 1 → x.t2 = some t2 → x.t4 = some t4 →
      s.peerComplete lane = (s.laneDrop lane c).neighbour c.port
        (Config.round (((t4 - t1 - (ptpStamp m - t2) - (x.corr + ptpCorr m) : Int) : Rat) / 2))) := by
  have hgood : ¬(ptpSeq m ≠ x.seq ∨ slice m 44 10 ≠ (s.laneDrop lane c).portId c.port ∨
      (!peerDelay ((s.laneDrop lane c).ptpProfile c.port)) = true) := by
    rintro (h | h | h)
    · exact h hseq
    · exact h hmine
    · rw [show peerDelay ((s.laneDrop lane c).ptpProfile c.port) = true from hprofile] at h
      cases h
  have hexch' : ((s.laneDrop lane c).ptpPort c.port).exch = some x := hexch
  unfold State.peerComplete
  rw [htaken]
  dsimp only
  rw [hexch']
  dsimp only
  rw [if_neg hgood, hleft]
  dsimp only
  refine ⟨fun htype honeStep => ?_, fun t2 t4 htype hone ht2 ht4 => ?_⟩
  · rw [if_pos htype, if_pos honeStep]
  · have has : ((s.laneDrop lane c).ptpProfile c.port == 4) = false := by
      rw [show (s.laneDrop lane c).ptpProfile c.port = 1 from hone]
      rfl
    rw [if_neg (by rw [htype]; decide), ht2, ht4, has]
    rfl

end

/-- Settles O44: each row changes its port's PTP state, then sends at most one message. -/
theorem peerDelayPortsMeasureTheirNeighbour : Obligations.PeerDelayPortsMeasureTheirNeighbour := by
  intro s n hn hup
  refine ⟨fun m hruns hon hmulti hprofile hauth => ⟨fun hdue => ?early, fun hdue => ?request⟩, fun lane c m i htaken hport hprofile hauth => ?answer,
    fun pid seq w p rest m i hfirst hptp hinst hruns hauth => ?followUp,
    fun lane c m i x t1 htaken hport hexch hleft hseq hmine hprofile => ⟨fun htype honeStep => ?oneStep, fun t2 t4 htype hone ht2 ht4 => ?twoStep⟩⟩
  case early => rw [exec_pdelayReqSend, State.pdelaySend_early hdue]
  case request =>
    obtain ⟨t, msg, as, hset, hsend⟩ := State.pdelaySend_due hruns hon hmulti hprofile hdue hn
    obtain ⟨u, e, hu, hrest, hport, hsrc, hins, hts, hptp⟩ := hset.send hauth hup (.pdelayReq (((s.ptpPort n).reqSeq + 1) % 65536)) true
      (fun _ => .none) true msg (t.groupDst_known n m true)
    exact ⟨u, e, by rw [exec_pdelayReqSend, hsend, hu], hrest, hport, hsrc, hts, hins, by rw [hptp]; rfl, by rw [hptp]; rfl, by rw [hptp]; rfl,
      by rw [hptp]; rfl⟩
  case answer =>
    obtain ⟨t, e, msg, ht, hanswer⟩ := State.pdelayReqIn_answered htaken hport hprofile hauth hup
    exact ⟨t, e, msg, by rw [exec_pdelayReqReceive, ht], hanswer⟩
  case followUp =>
    obtain ⟨t, msg, ht, hsend⟩ := State.pdelayFollow_first hfirst hptp hinst hruns
    have hset := s.setPtp_set hn fun q => { q with pdFup := rest }
    rw [← ht] at hset
    obtain ⟨u, e, hu, hrest, hport, hsrc, hins, -, hptp⟩ := hset.send hauth hup .pdelayFup true (fun _ => .none) false msg (t.groupDst_known n i true)
    exact ⟨u, e, by rw [exec_pdelayRespFollowUp, hsend, hu], hrest, by rw [hptp], hport, hsrc, hins⟩
  case oneStep =>
    subst hport
    obtain ⟨as, hset⟩ := (s.laneDrop lane c).neighbour_set hn (Config.round ((((c.ingress.t : Int) - t1 - ptpCorr m : Int) : Rat) / 2))
    obtain ⟨hrest, -, hport⟩ := hset
    refine ⟨_, by rw [exec_peerDelayComplete, (State.peerComplete_taken htaken hexch hleft hseq hmine hprofile).1 htype honeStep], ?_, ?_, ?_, ?_, ?_⟩
    · rw [hrest]
      rfl
    · rw [hport]
      rfl
    · rw [hport]
      rfl
    · rw [hport]
      rfl
    · rw [hrest]
      exact s.laneEnd_free lane
  case twoStep =>
    subst hport
    obtain ⟨as, hset⟩ := (s.laneDrop lane c).neighbour_set hn (Config.round (((t4 - t1 - (ptpStamp m - t2) - (x.corr + ptpCorr m) : Int) : Rat) / 2))
    obtain ⟨hrest, -, hport⟩ := hset
    refine ⟨_, by rw [exec_peerDelayComplete, (State.peerComplete_taken htaken hexch hleft hseq hmine hprofile).2 t2 t4 htype hone ht2 ht4], ?_, ?_⟩
    · rw [hrest]
      rfl
    · rw [hport]
      rfl

end Sys2Proof.Machine
end

section
/-! SUPPORT. What the selector leaves of the PTP engine, and a client port through the loss and the choice of its grandmaster. -/

namespace Sys2Proof.Machine

open Sys2Proof

/-! A reference that fails leaves the engine alone. -/

section
variable (s : State)

theorem State.freezeWeft_ptp (e0 : Rat) : (s.freezeWeft e0).ptp = s.ptp := by
  unfold State.freezeWeft
  split <;> rfl

theorem State.thawWeft_ptp : s.thawWeft.ptp = s.ptp := by
  unfold State.thawWeft
  split <;> rfl

theorem State.beginHold_ptp (y0 : Rat) : (s.beginHold y0).ptp = s.ptp := by
  unfold State.beginHold State.newHold
  split
  · exact s.freezeWeft_ptp _
  · exact State.freezeWeft_ptp _ _

theorem State.cancelSlew_ptp : s.cancelSlew.ptp = s.ptp := by rw [s.cancelSlew_entryFrame.rest]

theorem State.beginSplice_ptp (new : Option Nat) (elig : List Nat) (oldPasses again : Bool) : (s.beginSplice new elig oldPasses again).ptp = s.ptp := by
  unfold State.beginSplice
  extract_lets b s1 temp _ v _ s2
  have hs2 : s2.ptp = s.ptp := by
    show s1.ptp = s.ptp
    unfold s1
    split
    · rfl
    · exact s.cancelSlew_ptp
  split
  · exact (State.thawWeft_ptp _).trans hs2
  · exact (State.beginHold_ptp _ _).trans hs2

theorem State.markSel_ptp (new : Option Nat) (reason : Nat) : (s.markSel new reason).ptp = s.ptp := by
  unfold State.markSel
  extract_lets old s1 s2 _ sel _ md _ s3
  clear_value old
  have hs1 : s1.ptp = s.ptp := by
    unfold s1
    split
    · split <;> rfl
    · rfl
  have hs3 : s3.ptp = s.ptp := by
    show s2.ptp = s.ptp
    unfold s2
    split <;> exact hs1
  split
  · exact hs3
  · exact (State.cause_ptp _ _).trans hs3

theorem State.switchTo_ptp (new : Option Nat) (reason : Nat) (again : Bool) : (s.switchTo new reason again).ptp = s.ptp :=
  (State.beginSplice_ptp _ _ _ _ _).trans (s.markSel_ptp new reason)

theorem State.dropInMaintain_ptp (why : Nat) : (s.dropInMaintain why).ptp = s.ptp := by
  unfold State.dropInMaintain
  split
  · rfl
  · split
    · rfl
    · exact State.cause_ptp _ _

theorem State.offer_ptp (w : Window) (want : Option Nat) (why : Nat) : (s.offer w want why).ptp = s.ptp := by
  unfold State.offer
  extract_lets left outranks s1
  split
  · rfl
  · split
    · rfl
    · exact State.switchTo_ptp _ _ _ _

theorem State.choose_ptp (why : Nat) : (s.choose why).ptp = s.ptp := by
  unfold State.choose
  split
  · exact s.dropInMaintain_ptp why
  · split
    · rfl
    · extract_lets want
      split
      · exact s.offer_ptp _ _ _
      · split
        · rfl
        · exact s.switchTo_ptp _ _ _

theorem State.toDisq_ptp (i : Nat) (mark : RefSt → RefSt) : (s.toDisq i mark).ptp = s.ptp := by
  have hleaves : (s.leaves i).ptp = s.ptp := by
    unfold State.leaves
    split <;> rfl
  unfold State.toDisq State.refreshSel
  split
  · rfl
  · split <;> exact hleaves

theorem State.monitorFails_ptp (i : Nat) (mark : RefSt → RefSt) : (s.monitorFails i mark).ptp = s.ptp := by
  have hdisq := s.toDisq_ptp i mark
  unfold State.monitorFails
  extract_lets was s1
  split
  · rfl
  · split
    · exact (State.choose_ptp _ 3).trans hdisq
    · exact hdisq

end

/-- The registers, the mode, the network ports, the Weave, the PTP engine and the instant are as they were. -/
structure State.NetStands (s t : State) : Prop where
  act : t.act = s.act
  mode : t.md.mode = s.md.mode
  ports : t.ports = s.ports
  wv : t.wv = s.wv
  ptp : t.ptp = s.ptp
  now : t.now = s.now

section
variable {r s t : State}

theorem State.NetStands.refl (s : State) : s.NetStands s := ⟨rfl, rfl, rfl, rfl, rfl, rfl⟩

theorem State.NetStands.trans (a : r.NetStands s) (b : s.NetStands t) : r.NetStands t :=
  ⟨b.act.trans a.act, b.mode.trans a.mode, b.ports.trans a.ports, b.wv.trans a.wv, b.ptp.trans a.ptp, b.now.trans a.now⟩

theorem State.NetStands.ite {a b : State} {c : Prop} [Decidable c] (ha : r.NetStands a) (hb : r.NetStands b) : r.NetStands (if c then a else b) := by
  split <;> assumption

theorem State.NetStands.ptpPort (h : s.NetStands t) (n : Nat) : t.ptpPort n = s.ptpPort n := by
  unfold State.ptpPort
  rw [h.ptp]

end

theorem State.monitorFails_netStands (s : State) (i : Nat) (mark : RefSt → RefSt) : s.NetStands (s.monitorFails i mark) := by
  have hkeeps : s.Keeps (s.monitorFails i mark) := State.monitorFails_keeps (.refl s)
  obtain ⟨hact, hports, hwv, -⟩ := s.monitorFails_selectorFrame i mark
  exact ⟨hact, hkeeps.mode, hports, hwv, s.monitorFails_ptp i mark, hkeeps.now⟩

theorem State.setRef_netStands (s : State) (i : Nat) (f : RefSt → RefSt) : s.NetStands (s.setRef i f) := ⟨rfl, rfl, rfl, rfl, rfl, rfl⟩

theorem State.rxQuality_netStands (s : State) (i q : Nat) : s.NetStands (s.rxQuality i q) := by
  unfold State.rxQuality
  exact .ite (.refl s) (.ite ((s.setRef_netStands i _).trans (State.monitorFails_netStands _ _ _)) (s.setRef_netStands i _))

theorem State.refMeasure_phase_netStands (s : State) (i : Nat) (z : Int) : s.NetStands (s.refMeasure i (.phase z)) := by
  unfold State.refMeasure State.judge
  exact .ite (.ite ((s.setRef_netStands i _).trans (State.monitorFails_netStands _ _ _)) (s.setRef_netStands i _)) (.refl s)

/-! The grandmaster of a client port lost and chosen (R477). -/

theorem exec_clientGmTimeout (s : State) (n : Nat) : exec (.clientGmTimeout n) s = .next (s.gmTimeout n) := rfl

theorem exec_restartClient (s : State) (tok : BitVec 16) (n : Nat) : exec (.restartClient tok n) s = .next (s.ptpRestart tok.toNat n) := rfl

section
variable {s : State} {n : Nat}

theorem State.clientQl_netStands (s : State) (n : Nat) : s.NetStands (s.clientQl n) := by
  unfold State.clientQl
  split
  · exact s.rxQuality_netStands _ _
  · exact s.setRef_netStands _ _

/-- The better of the best so far and another. -/
def pickForeign (p : Foreign → Foreign → Bool) (b : Option Foreign) (f : Foreign) : Option Foreign :=
  match b with
  | none => some f
  | some g => if p f g then some f else some g

theorem pickForeign_mem {p : Foreign → Foreign → Bool} {f : Foreign} (l : List Foreign) (b : Option Foreign) (h : l.foldl (pickForeign p) b = some f) :
    f ∈ l ∨ b = some f := by
  induction l generalizing b with
  | nil => exact .inr h
  | cons x l ih =>
    rcases ih _ h with hl | hb
    · exact .inl (List.mem_cons_of_mem _ hl)
    · cases b with
      | none => exact .inl (by rw [Option.some.inj hb]; exact List.mem_cons_self)
      | some g =>
        unfold pickForeign at hb
        dsimp only at hb
        split at hb
        · exact .inl (by rw [Option.some.inj hb]; exact List.mem_cons_self)
        · exact .inr hb

theorem State.bestForeign_mem {f : Foreign} (h : s.bestForeign n = some f) : f ∈ (s.ptpPort n).foreign := by
  rcases pickForeign_mem (p := Foreign.better (s.ptpProfile n == 2 || s.ptpProfile n == 3)) _ none h with hmem | hnone
  · exact (List.mem_filter.1 hmem).1
  · cases hnone

/-- A port that follows a grandmaster; `keep` where its profile measures peer delay. -/
def PtpPort.follows (f : Foreign) (now : Nat) (keep : Bool) (p : PtpPort) : PtpPort :=
  { p with following := some f.cid, syncAt := now, annAt := now, renewAt := 0, delays := if keep then p.delays else [], mpd := if keep then p.mpd else none }

/-- A port that has lost its grandmaster. -/
def PtpPort.lost (keep : Bool) (p : PtpPort) : PtpPort :=
  { p with following := none, twoStep := none, syncMs := none, exch := if keep then p.exch else none }

/-- What the choice of a grandmaster makes of a port: it stands, or follows one that is known. -/
def PtpPort.Chosen (p q : PtpPort) : Prop := q = p ∨ ∃ f now keep, f ∈ p.foreign ∧ q = p.follows f now keep

theorem PtpPort.Chosen.foreign {p q : PtpPort} (h : p.Chosen q) : q.foreign = p.foreign := by
  rcases h with rfl | ⟨f, now, keep, -, rfl⟩ <;> rfl

theorem PtpPort.Chosen.syncMs {p q : PtpPort} (h : p.Chosen q) : q.syncMs = p.syncMs := by
  rcases h with rfl | ⟨f, now, keep, -, rfl⟩ <;> rfl

/-- The state of a client port changed, and with it the references. -/
structure State.ClientSet (s t : State) (n : Nat) (p : PtpPort) : Prop where
  act : t.act = s.act
  mode : t.md.mode = s.md.mode
  wv : t.wv = s.wv
  port : t.ptpPort n = p

theorem State.NetStands.clientSet {s t : State} (h : s.NetStands t) : s.ClientSet t n (s.ptpPort n) := ⟨h.act, h.mode, h.wv, h.ptpPort n⟩

theorem State.ClientSet.after {r s t : State} {p : PtpPort} (h : s.ClientSet t n p) (hact : s.act = r.act) (hmode : s.md.mode = r.md.mode)
    (hwv : s.wv = r.wv) : r.ClientSet t n p := ⟨h.act.trans hact, h.mode.trans hmode, h.wv.trans hwv, h.port⟩

theorem State.followBest_chosen (hn : n < s.ptp.ports.length) : ∃ q, (s.ptpPort n).Chosen q ∧ s.ClientSet (s.followBest n) n q := by
  unfold State.followBest
  split
  · exact ⟨_, .inl rfl, (s.clientQl_netStands n).clientSet⟩
  · split
    · next f hbest =>
      refine ⟨_, .inr ⟨f, s.now, peerDelay (s.ptpProfile n), s.bestForeign_mem hbest, rfl⟩, ?_⟩
      rw [← State.ptpPort_setPtp_self (PtpPort.follows f s.now (peerDelay (s.ptpProfile n))) hn]
      exact (State.clientQl_netStands _ n).clientSet.after rfl rfl rfl
    · exact ⟨_, .inl rfl, (s.clientQl_netStands n).clientSet⟩

/-- The reference of a client port whose grandmaster is lost, its activity monitor failed. -/
theorem State.gmLoss_chosen (hn : n < s.ptp.ports.length) :
    ∃ q keep, ((s.ptpPort n).lost keep).Chosen q ∧ s.ClientSet (s.gmLoss n) n q := by
  unfold State.gmLoss
  extract_lets s1 s2
  have hfails := s2.monitorFails_netStands (9 + n) fun r => { r with los := true }
  generalize s2.monitorFails (9 + n) _ = s3 at hfails ⊢
  have hlost : s1.ptpPort n = (s.ptpPort n).lost (peerDelay (s.ptpProfile n)) := s.ptpPort_setPtp_self _ hn
  have hport : s3.ptpPort n = (s.ptpPort n).lost (peerDelay (s.ptpProfile n)) := (hfails.ptpPort n).trans hlost
  have hlen : n < s3.ptp.ports.length := by
    rw [hfails.ptp]
    exact (s.setPtp_ports_length n _).symm ▸ hn
  obtain ⟨q, hchosen, hset⟩ := State.followBest_chosen hlen
  rw [hport] at hchosen
  exact ⟨q, _, hchosen, hset.after hfails.act hfails.mode hfails.wv⟩

theorem ptpCtr_mod (n : Nat) : ptpCtr n 18 % 0x40 = 0x10 := by
  unfold ptpCtr gBase
  omega

theorem State.clientQl_countStands (s : State) (n : Nat) {k : Nat} (hk : k % 0x40 = 0x10) : s.CountStands k (s.clientQl n) := by
  unfold State.clientQl
  split
  · exact (s.rxQuality_spec _ _).2.2.2 k hk
  · exact .of_ctr rfl

theorem State.followBest_countStands (s : State) (n : Nat) {k : Nat} (hk : k % 0x40 = 0x10) : s.CountStands k (s.followBest n) := by
  unfold State.followBest
  refine .ite (s.clientQl_countStands n hk) ?_
  split
  · exact State.CountStands.trans (.of_ctr rfl) (State.clientQl_countStands _ n hk)
  · exact s.clientQl_countStands n hk

/-- The loss is counted (R486). -/
theorem State.gmLoss_counted (s : State) (n : Nat) : (s.gmLoss n).ctrAt (ptpCtr n 18) = ctrAdd (s.ctrAt (ptpCtr n 18)) 1 := by
  unfold State.gmLoss
  extract_lets s1 s2
  have hcount : s2.ctrAt (ptpCtr n 18) = ctrAdd (s.ctrAt (ptpCtr n 18)) 1 := s1.ctrAt_count_self _
  exact Eq.trans ((State.monitorFails_countStands (ptpCtr_mod n) s2 _ _).trans (State.followBest_countStands _ n (ptpCtr_mod n))) hcount

/-! A grandmaster that falls silent (R477). -/

section
variable {id : List Byte} (hfollows : (s.ptpPort n).following = some id) (hmode : s.md.mode.serving = true)
include hfollows hmode

theorem State.gmTimeout_announce (hran : (s.ptpPort n).annAt + s.fld (gBase n) 26 24 * logNs (s.logAnn n 0) ≤ s.now) :
    s.gmTimeout n = (s.setPtp n fun q => { q with foreign := q.foreign.filter fun f => f.cid != id }).gmLoss n := by
  unfold State.gmTimeout
  dsimp only
  rw [hfollows]
  dsimp only
  rw [hmode]
  exact if_pos (decide_eq_true hran)

theorem State.gmTimeout_sync (hheard : s.now < (s.ptpPort n).annAt + s.fld (gBase n) 26 24 * logNs (s.logAnn n 0))
    (hran : (s.ptpPort n).syncAt + 3 * logNs ((s.ptpPort n).syncLog.getD (s.logSync n 0)) ≤ s.now) : s.gmTimeout n = s.gmLoss n := by
  unfold State.gmTimeout
  dsimp only
  rw [hfollows]
  dsimp only
  rw [hmode, decide_eq_false (Nat.not_le_of_lt hheard)]
  exact if_pos (decide_eq_true hran)

end

/-- A grandmaster forgotten is not followed again. -/
theorem PtpPort.Chosen.not_forgotten {p q : PtpPort} {id : List Byte} (hfollows : p.following = none) (hforgot : ∀ f ∈ p.foreign, f.cid ≠ id)
    (h : p.Chosen q) : q.following ≠ some id := by
  rcases h with rfl | ⟨f, now, keep, hmem, rfl⟩
  · rw [hfollows]
    exact nofun
  · exact fun he => hforgot f hmem (Option.some.inj he)

/-! RESTART_CLIENT (R488). -/

section
variable (token : Nat) (hopen : s.noWrites = false)
include hopen

theorem State.ptpRestart_master (hmaster : s.ptpClient n = false) : s.ptpRestart token n = s.ptpCtl token 0x20 := by
  unfold State.ptpRestart
  rw [hopen, hmaster]
  rfl

theorem State.ptpRestart_refused (hclient : s.ptpClient n = true) (hmode : s.md.mode.serving = false) : s.ptpRestart token n = s.ptpCtl token 0x24 := by
  unfold State.ptpRestart
  rw [hopen, hclient, hmode]
  rfl

theorem State.ptpRestart_taken (hclient : s.ptpClient n = true) (hmode : s.md.mode.serving = true) :
    s.ptpRestart token n = ((s.setPtp n fun p => { p with foreign := [], delays := [], mpd := none }).gmLoss n).ptpCtl token 0 := by
  unfold State.ptpRestart
  rw [hopen, hclient, hmode]
  rfl

end

/-- A port that knows no grandmaster follows none. -/
theorem PtpPort.Chosen.of_nil {p q : PtpPort} (h : p.Chosen q) (hnone : p.foreign = []) : q = p := by
  rcases h with rfl | ⟨f, now, keep, hmem, rfl⟩
  · rfl
  · rw [hnone] at hmem
    cases hmem

end

/-! What a client receives (R474, R476). -/

theorem exec_clientAnnounce (s : State) (lane : Nat) : exec (.clientAnnounce lane) s = .next (s.clientAnnounce lane) := rfl

theorem exec_clientSync (s : State) (lane : Nat) : exec (.clientSync lane) s = .next (s.clientSync lane) := rfl

theorem exec_clientDelayResp (s : State) (lane : Nat) : exec (.clientDelayResp lane) s = .next (s.clientDelayResp lane) := rfl

section
variable {s : State} {lane i : Nat} {c : Ctx} {m : List Byte}

/-- A port that has heard a new grandmaster. -/
def PtpPort.heard (id : List Byte) (f : Foreign) (p : PtpPort) : PtpPort := { p with foreign := p.foreign.filter (fun g => g.cid != id) ++ [f] }

/-- The Announce of a grandmaster not yet heard, taken by a lane that is free of it: recorded, and the choice made anew. -/
theorem State.clientAnnounce_new {u : State} (hu : s.laneDrop lane c = u) (htaken : s.taken lane [11] = some (c, m, i))
    (hclient : u.ptpClient c.port = true) (hroom : (u.ptpPort c.port).foreign.length < 8)
    (hnew : ∀ f ∈ (u.ptpPort c.port).foreign, f.cid ≠ ptpSrc m) (hother : (u.ptpPort c.port).following ≠ some (ptpSrc m)) :
    ∃ v, v = u.setPtp c.port (PtpPort.heard (ptpSrc m) (u.foreignOf c.port m c.pkt [u.now])) ∧
      (s.clientAnnounce lane = v.clientQl c.port ∨ s.clientAnnounce lane = v.gmLoss c.port ∨ s.clientAnnounce lane = v.followBest c.port) := by
  refine ⟨_, rfl, ?_⟩
  have hold : (u.ptpPort c.port).foreign.find? (fun f => f.cid == ptpSrc m) = none := List.find?_eq_none.2 fun f hf => by simpa using hnew f hf
  have hfull : ¬((none : Option Foreign).isNone && decide (8 ≤ (u.ptpPort c.port).foreign.length)) = true := by simpa using hroom
  unfold State.clientAnnounce
  rw [htaken]
  dsimp only
  rw [hu, hclient, hold, if_neg hfull, beq_eq_false_iff_ne.2 hother]
  simp only [Bool.not_true, Bool.false_and, Bool.false_eq_true, if_false]
  split
  · split
    · exact .inl rfl
    · exact .inr (.inl rfl)
  · exact .inr (.inr rfl)

theorem State.clientAnnounce_recorded (htaken : s.taken lane [11] = some (c, m, i)) (hn : c.port < s.ptp.ports.length)
    (hclient : s.ptpClient c.port = true) (hroom : (s.ptpPort c.port).foreign.length < 8)
    (hnew : ∀ f ∈ (s.ptpPort c.port).foreign, f.cid ≠ ptpSrc m) (hother : (s.ptpPort c.port).following ≠ some (ptpSrc m)) :
    ∃ q, (s.laneDrop lane c).ClientSet (s.clientAnnounce lane) c.port q ∧ s.foreignOf c.port m c.pkt [s.now] ∈ q.foreign := by
  obtain ⟨v, hv, hnext⟩ := State.clientAnnounce_new (u := s.laneDrop lane c) rfl htaken hclient hroom hnew hother
  have hport : v.ptpPort c.port = (s.ptpPort c.port).heard (ptpSrc m) (s.foreignOf c.port m c.pkt [s.now]) := by
    rw [hv]
    exact (s.laneDrop lane c).ptpPort_setPtp_self _ hn
  have hmem : s.foreignOf c.port m c.pkt [s.now] ∈ (v.ptpPort c.port).foreign := by
    rw [hport]
    exact List.mem_append_right _ List.mem_cons_self
  have hlen : c.port < v.ptp.ports.length := by
    rw [hv, State.setPtp_ports_length]
    exact hn
  have hact : v.act = (s.laneDrop lane c).act := by rw [hv]; rfl
  have hmode : v.md.mode = (s.laneDrop lane c).md.mode := by rw [hv]; rfl
  have hwv : v.wv = (s.laneDrop lane c).wv := by rw [hv]; rfl
  rcases hnext with h | h | h
  · exact ⟨_, h ▸ (v.clientQl_netStands c.port).clientSet.after hact hmode hwv, hmem⟩
  · obtain ⟨q, keep, hchosen, hset⟩ := State.gmLoss_chosen hlen
    exact ⟨q, h ▸ hset.after hact hmode hwv, hchosen.foreign.symm ▸ hmem⟩
  · obtain ⟨q, hchosen, hset⟩ := State.followBest_chosen hlen
    exact ⟨q, h ▸ hset.after hact hmode hwv, hchosen.foreign.symm ▸ hmem⟩

/-- A Sync of the grandmaster followed. -/
def PtpPort.synced (now : Nat) (ms : Int) (p : PtpPort) : PtpPort := { p with syncAt := now, syncMs := some ms, twoStep := none }

theorem State.clientSync_oneStep {u : State} (hu : s.laneDrop lane c = u) (htaken : s.taken lane [0, 8] = some (c, m, i))
    (hclient : u.ptpClient c.port = true) (hfollows : (u.ptpPort c.port).following = some (ptpSrc m)) (htype : ptpType m = 0)
    (honeStep : (m.getD 6 0).toNat / 2 % 2 = 0) : s.clientSync lane = u.clientZ c.port (ptpStamp m) (ptpCorr m) c.ingress.t := by
  unfold State.clientSync
  rw [htaken]
  dsimp only
  rw [hu, hclient, hfollows, if_neg (by simp), if_pos htype, if_pos honeStep]

/-- z of a Sync: kept, and, with a delay known, measured. -/
theorem State.clientZ_spec {u : State} {n : Nat} (hn : n < u.ptp.ports.length) (t1 cs t2 : Int) :
    ((u.ptpPort n).delays = [] → u.clientZ n t1 cs t2 = u.setPtp n (PtpPort.synced u.now (t2 - t1 - cs))) ∧
      ((u.ptpPort n).delays ≠ [] → ∃ z, z = medianI (u.ptpPort n).delays + u.pair (gBase n + 0x1C) - (t2 - t1 - cs) ∧
        u.ClientSet (u.clientZ n t1 cs t2) n { (u.ptpPort n).synced u.now (t2 - t1 - cs) with ofs := z }) := by
  have hport : (u.setPtp n (PtpPort.synced u.now (t2 - t1 - cs))).ptpPort n = (u.ptpPort n).synced u.now (t2 - t1 - cs) := u.ptpPort_setPtp_self _ hn
  have hdef : u.clientZ n t1 cs t2 = if (u.ptpPort n).delays.isEmpty then u.setPtp n (PtpPort.synced u.now (t2 - t1 - cs)) else
      ((u.setPtp n (PtpPort.synced u.now (t2 - t1 - cs))).setPtp n fun p =>
        { p with ofs := t1 + cs + medianI (u.ptpPort n).delays + u.pair (gBase n + 0x1C) - t2 }).refMeasure (9 + n)
        (.phase (t1 + cs + medianI (u.ptpPort n).delays + u.pair (gBase n + 0x1C) - t2)) := by
    unfold State.clientZ
    dsimp only
    rw [show (u.setPtp n fun p => { p with syncAt := u.now, syncMs := some (t2 - t1 - cs), twoStep := none }) =
      u.setPtp n (PtpPort.synced u.now (t2 - t1 - cs)) from rfl, hport]
    rfl
  refine ⟨fun hnone => ?_, fun hsome => ?_⟩
  · rw [hdef, hnone]
    rfl
  · refine ⟨_, rfl, ?_⟩
    rw [hdef, if_neg (by simpa using hsome), show t1 + cs + medianI (u.ptpPort n).delays + u.pair (gBase n + 0x1C) - t2 =
      medianI (u.ptpPort n).delays + u.pair (gBase n + 0x1C) - (t2 - t1 - cs) by omega]
    have hset := ((u.setPtp_set hn (PtpPort.synced u.now (t2 - t1 - cs))).setPtp hn fun p =>
      { p with ofs := medianI (u.ptpPort n).delays + u.pair (gBase n + 0x1C) - (t2 - t1 - cs) }).port
    rw [← hset]
    exact (State.refMeasure_phase_netStands _ _ _).clientSet.after rfl rfl rfl

theorem State.clientDelayResp_taken {u : State} {x : Exchange} {ms t3 : Int} (hu : s.laneDrop lane c = u) (htaken : s.taken lane [9] = some (c, m, i))
    (hclient : u.ptpClient c.port = true) (hprofile : peerDelay (u.ptpProfile c.port) = false)
    (hfollows : (u.ptpPort c.port).following = some (ptpSrc m)) (hexch : (u.ptpPort c.port).exch = some x)
    (hsync : (u.ptpPort c.port).syncMs = some ms) (hleft : x.t1 = some t3) (hseq : ptpSeq m = x.seq) (hmine : slice m 44 10 = u.portId c.port) :
    ∃ ds, ds = ((u.ptpPort c.port).delays ++ [Config.round (((ms + (ptpStamp m - t3 - ptpCorr m) : Int) : Rat) / 2)]).drop
        ((u.ptpPort c.port).delays.length + 1 - 16) ∧
      s.clientDelayResp lane = u.setPtp c.port fun q => { q with delays := ds, mpd := some (medianI ds), exch := none } := by
  refine ⟨_, rfl, ?_⟩
  unfold State.clientDelayResp
  rw [htaken]
  dsimp only
  rw [hu, hexch, hsync]
  dsimp only
  rw [hleft]
  dsimp only
  rw [hclient, hprofile, hfollows, hseq, hmine]
  simp

end

/-! What a client sends (R475, R476). -/

theorem exec_clientDelayReqSend (s : State) (n : Nat) : exec (.clientDelayReqSend n) s = .next (s.clientDreq n) := rfl

theorem exec_clientGrantRenew (s : State) (n : Nat) : exec (.clientGrantRenew n) s = .next (s.clientRenew n) := rfl

section
variable {s : State} {n m : Nat}

/-- One frame more in the queue of a port, and beside it at most what waits for an address. -/
structure State.FrameSent (s t : State) (n : Nat) (q : EgFrame) : Prop where
  rest : t = { s with ports := t.ports, mgt := t.mgt }
  port : t.port n = { s.port n with eg := (s.port n).eg ++ [q] }

theorem State.queueFrame_sent (e : EgFrame) (hup : (s.port n).link = true) : s.FrameSent (s.queueFrame n e) n (s.placed n e) := by
  rw [State.queueFrame_up _ hup]
  exact ⟨rfl, State.port_setPort_self _ (s.up_lt hup)⟩

theorem State.queueFrame_mgt (e : EgFrame) (hup : (s.port n).link = true) : (s.queueFrame n e).mgt = s.mgt := by
  rw [State.queueFrame_up _ hup]
  rfl

/-- A message to any address: its own frame is queued, or waits while another asks for the address. -/
theorem State.ptpSend_sent (hauth : s.bit (iBase n m) 25 = false) (hup : (s.port n).link = true) (src : EgSrc) (peer : Bool) (ins : Nat → Insertion)
    (tsReq : Bool) (msg : List Byte) (d : PtpDst) :
    ∃ e q, s.FrameSent (s.ptpSend n m src peer ins tsReq msg d) n q ∧ e.src = src ∧ e.tsReq = tsReq ∧
      ((d.ask = false ∨ (s.neighMac n d.ip).isSome = true) → q = e ∧ (s.ptpSend n m src peer ins tsReq msg d).mgt = s.mgt) ∧
      (d.ask = true → s.neighMac n d.ip = none →
        { port := n, ip := d.ip, frame := e } ∈ (s.ptpSend n m src peer ins tsReq msg d).mgt.held ∧ q.src = .bodkin) := by
  rw [s.ptpSend_up hauth hup]
  generalize hf : s.ptpEg n m src peer ins tsReq msg d = f
  have hsrc : f.src = src := by rw [← hf]; rfl
  have hts : f.tsReq = tsReq := by rw [← hf]; rfl
  cases hask : d.ask with
  | false =>
    rw [if_neg Bool.false_ne_true]
    exact ⟨s.placed n f, _, State.queueFrame_sent f hup, hsrc, hts, fun _ => ⟨rfl, State.queueFrame_mgt _ hup⟩, nofun⟩
  | true =>
    rw [if_pos rfl]
    unfold State.sendVia
    cases hmac : s.neighMac n d.ip with
    | some mac =>
      exact ⟨s.placed n { f with bytes := splice f.bytes 0 (beBytes 6 mac) }, _, State.queueFrame_sent _ hup, hsrc, hts,
        fun _ => ⟨rfl, State.queueFrame_mgt _ hup⟩, nofun⟩
    | none =>
      dsimp only
      generalize hasked : ({ s with mgt := { s.mgt with
        held := s.mgt.held.filter (fun (h : HeldFrame) => !(h.port == n && h.ip == d.ip)) ++ [{ port := n, ip := d.ip, frame := f }] } } : State) = u
      have honly : u = { s with mgt := u.mgt } := by rw [← hasked]
      have hport : u.port n = s.port n := by rw [honly]; rfl
      have hup' : (u.port n).link = true := by rw [hport]; exact hup
      have hmem : { port := n, ip := d.ip, frame := f } ∈ u.mgt.held := by
        rw [← hasked]
        exact List.mem_append_right _ List.mem_cons_self
      obtain ⟨hrest, hsent⟩ := State.queueFrame_sent
        (u.plainFrame .bodkin (askFrame (s.macAddr n) (s.ptpTags n m) (s.ptpSrcIp n (d.ip.length == 16)) d.ip) f.prio) hup'
      rw [hport] at hsent
      refine ⟨f, _, ⟨?_, hsent⟩, hsrc, hts, by simp, fun _ _ => ⟨?_, rfl⟩⟩
      · rw [hrest, honly]
      · rw [State.queueFrame_mgt _ hup']
        exact hmem

/-- The Delay_Req of a client that follows a grandmaster. -/
theorem State.clientDreq_sent {f : Foreign} (hfollows : s.followed n = some f) (hruns : s.ptpRuns n = true) (hclient : s.ptpClient n = true)
    (hon : s.instOn n 0 = true) (hprofile : peerDelay (s.ptpProfile n) = false) (hsync : (s.ptpPort n).syncMs ≠ none)
    (hgrant : s.bit (iBase n 0) 29 = false ∨ ∃ g ∈ (s.ptpPort n).granted, g.1 = 2 ∧ s.now < g.2) :
    ∃ t msg, t = s.setPtp n PtpPort.begun ∧ s.clientDreq n = t.ptpSend n 0 (.delayReq (((s.ptpPort n).reqSeq + 1) % 65536)) false (fun _ => .none) true msg
      (if s.bit (iBase n 0) 29 then t.nextHop n f.src.srcIp else t.groupDst n 0 false) := by
  have hall : (s.ptpRuns n && s.ptpClient n && s.instOn n 0 && !peerDelay (s.ptpProfile n) && (s.ptpPort n).syncMs.isSome &&
      (!s.bit (iBase n 0) 29 || (s.ptpPort n).granted.any fun g => g.1 == 2 && decide (s.now < g.2))) = true := by
    rw [hruns, hclient, hon, hprofile, Option.isSome_iff_ne_none.2 hsync]
    rcases hgrant with h | ⟨g, hmem, hkind, hheld⟩
    · rw [h]
      rfl
    · rw [List.any_eq_true.2 ⟨g, hmem, by simp [hkind, hheld]⟩, Bool.or_true]
      rfl
  unfold State.clientDreq
  rw [hfollows]
  dsimp only
  rw [hall]
  exact ⟨_, _, rfl, rfl⟩

/-- `k` frames more in the queue of a port with link, its engine having numbered them. -/
structure State.Requested (s t : State) (n k : Nat) : Prop where
  rest : t = { s with ports := t.ports, ptp := t.ptp, mgt := t.mgt }
  known : s.macReg (gBase n + 0x24) ≠ 0 → t.mgt = s.mgt
  renewAt : (t.ptpPort n).renewAt = (s.ptpPort n).renewAt
  len : t.ptp.ports.length = s.ptp.ports.length
  link : (t.port n).link = (s.port n).link
  queue : (t.port n).eg.length = (s.port n).eg.length + k

theorem State.Requested.refl (s : State) (n : Nat) : s.Requested s n 0 := ⟨rfl, fun _ => rfl, rfl, rfl, rfl, rfl⟩

theorem State.Requested.trans {r s t : State} {n j k : Nat} (a : r.Requested s n j) (b : s.Requested t n k) : r.Requested t n (j + k) := by
  have hmac : s.macReg (gBase n + 0x24) = r.macReg (gBase n + 0x24) := by rw [a.rest]; rfl
  refine ⟨by rw [b.rest, a.rest], fun h => ?_, b.renewAt.trans a.renewAt, b.len.trans a.len, b.link.trans a.link, ?_⟩
  · exact (b.known (by rw [hmac]; exact h)).trans (a.known h)
  · rw [b.queue, a.queue, Nat.add_assoc]

/-- The requests sent to one of a client's grandmasters (R475): for Sync and Delay_Resp too where it is the one followed. -/
def State.requestTo (gm : Option (List Byte)) (n : Nat) (s : State) (k : Nat) : State :=
  if !s.bit (gBase n + 0x100 + 0x20 * k) 31 then s else
  let ip := s.gmEntry n k
  let tl := reqTlv 11 (s.logAnn n 0) ++ (if gm = some ip then reqTlv 0 (s.logSync n 0) ++ reqTlv 9 (s.logDreq n 0) else [])
  let seq := (s.ptpPort n).reqSeq + 1
  let s2 := s.setPtp n fun p => { p with reqSeq := p.reqSeq + 1 }
  s2.ptpSend n 0 .signaling false (fun _ => .none) false (s2.signaling n 0 (List.replicate 10 0xFF) tl seq) (s2.nextHop n ip)

/-- A port of which unicast requests go out. -/
def PtpPort.renewed (now : Nat) (p : PtpPort) : PtpPort := { p with renewAt := now + 150 * nsPerSec }

theorem State.clientRenew_due (hruns : s.ptpRuns n = true) (hclient : s.ptpClient n = true) (hon : s.instOn n 0 = true)
    (huni : s.bit (iBase n 0) 29 = true) (hdue : (s.ptpPort n).renewAt ≤ s.now) :
    s.clientRenew n = (List.range 4).foldl (State.requestTo ((s.followed n).map (·.src.srcIp)) n) (s.setPtp n (PtpPort.renewed s.now)) := by
  unfold State.clientRenew
  rw [hruns, hclient, hon, huni]
  exact if_neg (by simpa using hdue)

theorem State.requestTo_requested (gm : Option (List Byte)) (k : Nat) (hn : n < s.ptp.ports.length) (hauth : s.bit (iBase n 0) 25 = false)
    (hup : (s.port n).link = true) :
    s.Requested (s.requestTo gm n k) n (if s.bit (gBase n + 0x100 + 0x20 * k) 31 then 1 else 0) := by
  unfold State.requestTo
  cases hon : s.bit (gBase n + 0x100 + 0x20 * k) 31 with
  | false => exact .refl s n
  | true =>
    rw [if_neg (by decide), if_pos rfl]
    dsimp only
    have hset := s.setPtp_set hn fun p => { p with reqSeq := p.reqSeq + 1 }
    generalize s.setPtp n (fun p => { p with reqSeq := p.reqSeq + 1 }) = u at hset ⊢
    obtain ⟨hrest, hlen, hptp⟩ := hset
    have hport : u.port n = s.port n := by rw [hrest]; rfl
    have hmac : u.macReg (gBase n + 0x24) = s.macReg (gBase n + 0x24) := by rw [hrest]; rfl
    obtain ⟨e, q, hsent, -, -, hknown, -⟩ := State.ptpSend_sent (s := u) (n := n) (m := 0) (by rw [hrest]; exact hauth) (by rw [hport]; exact hup) .signaling
      false (fun _ => .none) false (u.signaling n 0 (List.replicate 10 0xFF)
        (reqTlv 11 (s.logAnn n 0) ++ (if gm = some (s.gmEntry n k) then reqTlv 0 (s.logSync n 0) ++ reqTlv 9 (s.logDreq n 0) else []))
        ((s.ptpPort n).reqSeq + 1)) (u.nextHop n (s.gmEntry n k))
    generalize u.ptpSend n 0 .signaling false _ false _ _ = v at hsent hknown ⊢
    obtain ⟨hv, hvport⟩ := hsent
    rw [hport] at hvport
    have hvptp : v.ptp = u.ptp := by rw [hv]
    refine ⟨by rw [hv, hrest], fun h => ?_, ?_, by rw [hvptp, hlen], by rw [hvport], by rw [hvport]; exact List.length_append⟩
    · rw [(hknown (.inl ?_)).2, hrest]
      show (u.macReg (gBase n + 0x24) == 0) = false
      rw [hmac]
      exact beq_eq_false_iff_ne.2 h
    · rw [show v.ptpPort n = u.ptpPort n by rw [State.ptpPort, hvptp]; rfl, hptp]

theorem State.requests_requested (gm : Option (List Byte)) (l : List Nat) (hn : n < s.ptp.ports.length) (hauth : s.bit (iBase n 0) 25 = false)
    (hup : (s.port n).link = true) :
    s.Requested (l.foldl (State.requestTo gm n) s) n (l.filter fun k => s.bit (gBase n + 0x100 + 0x20 * k) 31).length := by
  induction l generalizing s with
  | nil => exact .refl s n
  | cons k l ih =>
    have hfirst := s.requestTo_requested gm k hn hauth hup
    have hbit : ∀ off i, (s.requestTo gm n k).bit off i = s.bit off i := fun off i => by rw [hfirst.rest]; rfl
    have hrest := ih (s := s.requestTo gm n k) (by rw [hfirst.len]; exact hn) (by rw [hbit]; exact hauth) (by rw [hfirst.link]; exact hup)
    simp only [hbit] at hrest
    have hall := hfirst.trans hrest
    rw [List.foldl_cons, List.filter_cons]
    cases hon : s.bit (gBase n + 0x100 + 0x20 * k) 31 with
    | false =>
      rw [hon, if_neg Bool.false_ne_true, Nat.zero_add] at hall
      exact hall
    | true =>
      rw [hon, if_pos rfl, Nat.add_comm] at hall
      exact hall

end

/-- Settles O45: each row makes one change of its port's PTP state; a loss is reported to the selector, which leaves the engine alone. -/
theorem clientPortsFollowTheirGrandmaster : Obligations.ClientPortsFollowTheirGrandmaster := by
  intro s n _ hn
  refine ⟨fun lane c m i htaken hport hclient hroom hnew hother => ?announce, fun lane c m i htaken hport hclient hfollows htype honeStep => ?sync,
    fun lane c m i x ms t3 htaken hport hclient hprofile hfollows hexch hsync hleft hseq hmine => ?delay,
    fun f hfollows hruns hclient hon hprofile hsync hgrant hauth hup => ?request, fun hruns hclient hon huni hauth hdue hup => ?renew,
    fun id hfollows hmode hran => ?silent, fun id hfollows hmode hheard hran => ?noSync,
    fun tok hopen => ⟨fun hmaster => ?master, fun hclient hmode => ?mode, fun hclient hmode => ?restart⟩⟩
  case announce =>
    subst hport
    obtain ⟨q, ⟨hact, hmode, hwv, hport⟩, hmem⟩ := State.clientAnnounce_recorded htaken hn hclient hroom hnew hother
    refine ⟨_, s.foreignOf c.port m c.pkt [s.now], exec_clientAnnounce s lane, hmode, hact, by rw [hport]; exact hmem, rfl, rfl, rfl, rfl, rfl, ?_⟩
    rw [hwv]
    exact s.laneEnd_free lane
  case sync =>
    subst hport
    obtain ⟨hfirst, hz⟩ := State.clientZ_spec (u := s.laneDrop lane c) hn (ptpStamp m) (ptpCorr m) c.ingress.t
    have hsync := State.clientSync_oneStep (u := s.laneDrop lane c) rfl htaken hclient hfollows htype honeStep
    refine ⟨_, exec_clientSync s lane, ?_⟩
    rw [hsync]
    by_cases hdelays : (s.ptpPort c.port).delays = []
    · have hport := (s.laneDrop lane c).ptpPort_setPtp_self (PtpPort.synced s.now ((c.ingress.t : Int) - ptpStamp m - ptpCorr m)) hn
      rw [hfirst hdelays]
      exact ⟨rfl, rfl, by rw [show (s.laneDrop lane c).now = s.now from rfl, hport]; rfl, by rw [show (s.laneDrop lane c).now = s.now from rfl, hport]; rfl,
        s.laneEnd_free lane, fun _ => ⟨by rw [show (s.laneDrop lane c).now = s.now from rfl, hport]; rfl, rfl⟩, fun h => absurd hdelays h⟩
    · obtain ⟨z, hz, hact, hmode, hwv, hport⟩ := hz hdelays
      refine ⟨hmode, hact, by rw [hport]; rfl, by rw [hport]; rfl, ?_, fun h => absurd h hdelays, fun _ => by rw [hport]; exact hz⟩
      rw [hwv]
      exact s.laneEnd_free lane
  case delay =>
    subst hport
    obtain ⟨ds, hds, hsample⟩ := State.clientDelayResp_taken (u := s.laneDrop lane c) rfl htaken hclient hprofile hfollows hexch hsync hleft hseq hmine
    have hport := (s.laneDrop lane c).ptpPort_setPtp_self (fun q => { q with delays := ds, mpd := some (medianI ds), exch := none }) hn
    refine ⟨_, exec_clientDelayResp s lane, ?_⟩
    rw [hsample]
    exact ⟨rfl, by rw [hport], by rw [hport]; exact hds⟩
  case request =>
    obtain ⟨t, msg, ht, hsend⟩ := State.clientDreq_sent hfollows hruns hclient hon hprofile hsync hgrant
    have hset := s.setPtp_set hn PtpPort.begun
    rw [← ht] at hset
    obtain ⟨hrest, -, hptp⟩ := hset
    have hline : t.port n = s.port n := by rw [hrest]; rfl
    obtain ⟨e, q, ⟨hu, hq⟩, hsrc, hts, hknown, hasked⟩ := State.ptpSend_sent (s := t) (n := n) (m := 0) (by rw [hrest]; exact hauth) (by rw [hline]; exact hup)
      (.delayReq (((s.ptpPort n).reqSeq + 1) % 65536)) false (fun _ => .none) true msg
      (if s.bit (iBase n 0) 29 then t.nextHop n f.src.srcIp else t.groupDst n 0 false)
    rw [hline] at hq
    rw [exec_clientDelayReqSend, hsend]
    generalize t.ptpSend n 0 _ false _ true msg _ = u at hu hq hknown hasked
    have hmgt : t.mgt = s.mgt := by rw [hrest]
    have hmac : t.macReg (gBase n + 0x24) = s.macReg (gBase n + 0x24) := by rw [hrest]; rfl
    have hneigh : ∀ ip, t.neighMac n ip = s.neighMac n ip := fun ip => by rw [hrest]; rfl
    refine ⟨u, e, rfl, by rw [hu, hrest], hsrc, hts, ?_, fun h => ?_, fun huni hnone hunknown => ?_⟩
    · rw [show u.ptpPort n = t.ptpPort n by rw [hu]; rfl, hptp]
      rfl
    · have hdst : (if s.bit (iBase n 0) 29 then t.nextHop n f.src.srcIp else t.groupDst n 0 false).ask = false ∨
          (t.neighMac n (if s.bit (iBase n 0) 29 then t.nextHop n f.src.srcIp else t.groupDst n 0 false).ip).isSome = true := by
        cases huni : s.bit (iBase n 0) 29 with
        | false => exact .inl (t.groupDst_known n 0 false)
        | true =>
          rw [huni] at h
          rcases h with h | h | h
          · cases h
          · exact .inl (by rw [← hmac] at h; exact beq_eq_false_iff_ne.2 h)
          · exact .inr (by rw [hneigh]; exact h)
      obtain ⟨hsame, hkept⟩ := hknown hdst
      exact ⟨by rw [hq, hsame], hkept.trans hmgt⟩
    · rw [huni, if_pos rfl] at hasked
      obtain ⟨hmem, hsrc⟩ := hasked (by show (t.macReg (gBase n + 0x24) == 0) = true; rw [hmac, hnone]; rfl) (by rw [hneigh]; exact hunknown)
      exact ⟨hmem, q, hq, hsrc⟩
  case renew =>
    obtain ⟨hrest, hlen, hport⟩ := s.setPtp_set hn (PtpPort.renewed s.now)
    rw [exec_clientGrantRenew, State.clientRenew_due hruns hclient hon huni hdue]
    generalize s.setPtp n (PtpPort.renewed s.now) = u at hrest hlen hport
    have hbit : ∀ off i, u.bit off i = s.bit off i := fun off i => by rw [hrest]; rfl
    have hline : u.port n = s.port n := by rw [hrest]; rfl
    have hmac : u.macReg (gBase n + 0x24) = s.macReg (gBase n + 0x24) := by rw [hrest]; rfl
    have hsent := State.requests_requested ((s.followed n).map (·.src.srcIp)) (List.range 4) (s := u) (n := n) (by rw [hlen]; exact hn)
      (by rw [hbit]; exact hauth) (by rw [hline]; exact hup)
    simp only [hbit] at hsent
    refine ⟨_, rfl, by rw [hsent.rest, hrest], fun h => ?_, by rw [hsent.renewAt, hport]; rfl, by rw [hsent.queue, hline]⟩
    rw [hsent.known (by rw [hmac]; exact h), hrest]
  case silent =>
    have hset := s.setPtp_set hn fun q => { q with foreign := q.foreign.filter fun f => f.cid != id }
    have hcount := State.gmLoss_counted (s.setPtp n fun q => { q with foreign := q.foreign.filter fun f => f.cid != id }) n
    obtain ⟨q, keep, hchosen, hact, hmode', -, hport⟩ := State.gmLoss_chosen (n := n) (s := s.setPtp n fun q =>
      { q with foreign := q.foreign.filter fun f => f.cid != id }) (by rw [hset.len]; exact hn)
    rw [hset.port] at hchosen
    have hforgot : ∀ f ∈ (s.ptpPort n).foreign.filter (fun f => f.cid != id), f.cid ≠ id := fun f hf => by simpa using (List.mem_filter.1 hf).2
    refine ⟨_, exec_clientGmTimeout s n, ?_⟩
    rw [State.gmTimeout_announce hfollows hmode hran]
    refine ⟨hmode', hact, ?_, ?_, ?_, hcount⟩
    · rw [hport]
      exact hchosen.not_forgotten rfl hforgot
    · rw [hport, hchosen.foreign]
      exact hforgot
    · rw [hport, hchosen.syncMs]
      rfl
  case noSync =>
    obtain ⟨q, keep, hchosen, hact, hmode', -, hport⟩ := State.gmLoss_chosen hn
    refine ⟨_, exec_clientGmTimeout s n, ?_⟩
    rw [State.gmTimeout_sync hfollows hmode hheard hran]
    exact ⟨hmode', hact, by rw [hport, hchosen.foreign]; rfl, by rw [hport, hchosen.syncMs]; rfl, s.gmLoss_counted n⟩
  case master => rw [exec_restartClient, State.ptpRestart_master _ hopen hmaster]
  case mode => rw [exec_restartClient, State.ptpRestart_refused _ hopen hclient hmode]
  case restart =>
    have hset := s.setPtp_set hn fun p => { p with foreign := [], delays := [], mpd := none }
    obtain ⟨q, keep, hchosen, hact, hmode', -, hport⟩ := State.gmLoss_chosen (n := n) (s := s.setPtp n fun p =>
      { p with foreign := [], delays := [], mpd := none }) (by rw [hset.len]; exact hn)
    rw [hset.port] at hchosen
    have hnone := hchosen.of_nil rfl
    refine ⟨_, exec_restartClient s tok n, ?_⟩
    rw [State.ptpRestart_taken _ hopen hclient hmode]
    have hport' : ∀ v : State, (v.ptpCtl tok.toNat 0).ptpPort n = v.ptpPort n := fun _ => rfl
    rw [hport', hport, hnone]
    exact ⟨rfl, rfl, rfl, rfl, rfl, rfl, hmode', hact⟩

end Sys2Proof.Machine
end

section
/-! SUPPORT. The rings of the host interface: its reset, the doorbells, the entry at HEAD of a ring and what its completion leaves. -/

namespace Sys2Proof.Machine

open Sys2Proof

theorem exec_hifReset (s : State) (lost : Bool) : exec (.hifReset lost) s = .next (s.hifResetBlock lost false) := rfl

theorem exec_pcieLinkUp (s : State) (speed width : Nat) : exec (.pcieLinkUp speed width) s = .next (s.pcieUp speed width) := rfl

theorem exec_pcieConfigWrite (s : State) (w : PcieWrite) : exec (.pcieConfigWrite w) s = .next (s.pcieConfig w) := rfl

theorem exec_rxTailWrite (s : State) (r : Nat) (v : W32) : exec (.rxTailWrite r v) s = .next (s.rxTail r v) := rfl

theorem exec_txTailWrite (s : State) (r : Nat) (v : W32) : exec (.txTailWrite r v) s = .next (s.txTail r v) := rfl

theorem exec_cqTailWrite (s : State) (q : Nat) (v : W32) : exec (.cqTailWrite q v) s = .next (s.cqTail q v) := rfl

theorem exec_hostFrameDeliver (s : State) (r : Nat) (es : List RxEntry) (eccOk : Bool) :
    exec (.hostFrameDeliver r es eccOk) s = .next (s.hostDeliver r es eccOk) := rfl

theorem exec_ringWaitExpire (s : State) (r : Nat) : exec (.ringWaitExpire r) s = .next (s.ringWait r) := rfl

theorem exec_hostFrameTransmit (s : State) (r : Nat) (es : List TxEntry) : exec (.hostFrameTransmit r es) s = .next (s.hostTransmit r es) := rfl

theorem exec_txComplete (s : State) (r : Nat) : exec (.txComplete r) s = .next (s.txComplete r) := rfl

/-! A register whose block is emptied, and one of another block. -/

theorem Assoc.get_filter_out {α : Type} {k : Nat} (p : Nat × α → Bool) (m : Assoc α) (h : ∀ v, p (k, v) = false) : Assoc.get k (m.filter p) = none := by
  induction m with
  | nil => rfl
  | cons a m ih =>
    rw [List.filter_cons]
    split
    · next ha =>
      have hka : k ≠ a.1 := fun e => by
        rw [e] at h
        rw [h] at ha
        cases ha
      rw [Assoc.get, if_neg hka]
      split
      · rfl
      · exact ih
    · exact ih

theorem Assoc.get_filter_in {α : Type} {k : Nat} (p : Nat × α → Bool) (m : Assoc α) (hm : Assoc.rising m) (h : ∀ v, p (k, v) = true) :
    Assoc.get k (m.filter p) = Assoc.get k m := by
  induction m with
  | nil => rfl
  | cons a m ih =>
    obtain ⟨habove, hrise⟩ := (Assoc.rising_cons a m).1 hm
    rw [List.filter_cons, Assoc.get]
    split
    · next ha => rw [Assoc.get, ih hrise]
    · next ha =>
      have hka : k ≠ a.1 := fun e => by
        rw [e] at h
        exact ha (h a.2)
      rw [if_neg hka, ih hrise]
      split
      · next hlt => exact Assoc.get_above fun e he => hlt.trans (habove e he)
      · rfl

/-! What an answer to the host changes. -/

/-- The host interface and the counters alone have changed, the link and Bus Master Enable are as they were, and without the latter
the memory of the host is. -/
structure State.Answered (s t : State) : Prop where
  rest : t = { s with hif := t.hif, ctr := t.ctr }
  link : t.hif.link = s.hif.link
  bme : t.hif.bme = s.hif.bme
  mem : s.hif.bme = false → t.hif.mem = s.hif.mem

theorem State.Answered.refl (s : State) : s.Answered s := ⟨rfl, rfl, rfl, fun _ => rfl⟩

theorem State.Answered.trans {r s t : State} (a : r.Answered s) (b : s.Answered t) : r.Answered t :=
  ⟨by rw [b.rest, a.rest], b.link.trans a.link, b.bme.trans a.bme, fun h => (b.mem (a.bme.trans h)).trans (a.mem h)⟩

theorem State.Answered.foldl {α : Type} {f : State → α → State} (hf : ∀ u x, State.Answered u (f u x)) (l : List α) (s : State) :
    s.Answered (l.foldl f s) := by
  induction l generalizing s with
  | nil => exact .refl s
  | cons x l ih => exact (hf s x).trans (ih _)

theorem State.dma_answered (s : State) (addr : Nat) (bs : List Byte) : s.Answered (s.dma addr bs) := by
  unfold State.dma
  split
  · next h => exact ⟨rfl, rfl, rfl, fun hoff => absurd (h.symm.trans hoff) (by decide)⟩
  · exact .refl s

theorem State.cause_answered (s : State) (b : Nat) : s.Answered (s.cause b) := by
  unfold State.cause
  dsimp only
  split
  · exact ⟨rfl, rfl, rfl, fun _ => rfl⟩
  · exact ⟨rfl, rfl, rfl, fun _ => rfl⟩

theorem State.count_answered (s : State) (off : Nat) : s.Answered (s.count off) := ⟨rfl, rfl, rfl, fun _ => rfl⟩

theorem State.cqWrite_answered (s : State) (q i qstat code : Nat) : s.Answered (s.cqWrite q i qstat code) := by
  unfold State.cqWrite
  extract_lets b s1 s2 s3
  have hs3 : s.Answered s3 := (s.dma_answered _ _).trans (⟨rfl, rfl, rfl, fun _ => rfl⟩ : s1.Answered s3)
  split
  · exact hs3.trans ((s3.count_answered _).trans (State.cause_answered _ 11))
  · exact hs3

theorem State.cqFinish_answered (s : State) (c : CompWait) : s.Answered (s.cqFinish c) := by
  unfold State.cqFinish
  split
  · exact (s.dma_answered _ _).trans (State.cqWrite_answered _ _ _ _ _)
  · exact ⟨rfl, rfl, rfl, fun _ => rfl⟩

/-! The host's commands aborted (R493, R510). -/

/-- What the host interface answered while operations and mint commands ended. -/
structure State.Aborted (s t : State) : Prop where
  rest : t = { s with pke := t.pke, wv := t.wv, hif := t.hif, ctr := t.ctr }
  link : t.hif.link = s.hif.link
  mem : s.hif.bme = false → t.hif.mem = s.hif.mem
  bme : t.hif.bme = s.hif.bme

theorem State.Aborted.refl (s : State) : s.Aborted s := ⟨rfl, rfl, fun _ => rfl, rfl⟩

theorem State.Aborted.trans {r s t : State} (a : r.Aborted s) (b : s.Aborted t) : r.Aborted t :=
  ⟨by rw [b.rest, a.rest], b.link.trans a.link, fun h => (b.mem (a.bme.trans h)).trans (a.mem h), b.bme.trans a.bme⟩

theorem State.Answered.aborted {s t : State} (h : s.Answered t) : s.Aborted t :=
  ⟨by rw [h.rest], h.link, h.mem, h.bme⟩

theorem State.pkeAbort_host (s : State) {o : PkeOp} (h : o.bod = false) :
    s.Aborted (s.pkeAbort o) ∧ (s.pkeAbort o).pke.ops = s.pke.ops.filter (· != o) ∧ (s.pkeAbort o).wv = s.wv := by
  unfold State.pkeAbort State.cqComplete
  extract_lets _ s1 s2
  have h2 : s.Aborted s2 ∧ s2.pke.ops = s.pke.ops.filter (· != o) ∧ s2.wv = s.wv := by
    unfold s2 State.zeroCore
    split <;> exact ⟨⟨rfl, rfl, fun _ => rfl, rfl⟩, rfl, rfl⟩
  obtain ⟨haborted, hops, hwv⟩ := h2
  rw [h, if_neg Bool.false_ne_true]
  have hanswer := s2.cqFinish_answered { q := 0, i := o.index, qstat := 0x31, code := 0x31, addr := 0, res := [] }
  exact ⟨haborted.trans hanswer.aborted, by rw [hanswer.rest]; exact hops, by rw [hanswer.rest]; exact hwv⟩

theorem State.mintAbort_host (s : State) (m : Mint) :
    s.Aborted (s.mintAbort m 0x31) ∧ (s.mintAbort m 0x31).pke = s.pke ∧
      (s.mintAbort m 0x31).wv = { s.wv with mints := s.wv.mints.filter (· != m) } := by
  unfold State.mintAbort State.cqComplete
  extract_lets _ s1
  have h1 : s.Aborted s1 := ⟨rfl, rfl, fun _ => rfl, rfl⟩
  rw [if_pos rfl]
  have hanswer := s1.cqFinish_answered { q := 1, i := m.index, qstat := 0x31, code := 0x31, addr := 0, res := [] }
  exact ⟨h1.trans hanswer.aborted, by rw [hanswer.rest]; rfl, by rw [hanswer.rest]; rfl⟩

theorem foldl_filter_ne {α : Type} [DecidableEq α] (l m : List α) :
    l.foldl (fun m x => m.filter (· != x)) m = m.filter fun y => !l.contains y := by
  induction l generalizing m with
  | nil => simp
  | cons x l ih =>
    rw [List.foldl_cons, ih, List.filter_filter]
    refine List.filter_congr fun y _ => ?_
    rw [List.contains_cons, Bool.not_or, Bool.and_comm]
    rfl

/-- The host's operations aborted, one after the other. -/
theorem State.pkeAborts_host (l : List PkeOp) (s : State) (h : ∀ o ∈ l, o.bod = false) :
    let t := l.foldl (fun s o => s.pkeAbort o) s
    s.Aborted t ∧ t.pke.ops = s.pke.ops.filter (fun o => !l.contains o) ∧ t.wv = s.wv := by
  rw [← foldl_filter_ne]
  induction l generalizing s with
  | nil => exact ⟨.refl s, rfl, rfl⟩
  | cons o l ih =>
    obtain ⟨hfirst, hops, hwv⟩ := s.pkeAbort_host (h o List.mem_cons_self)
    obtain ⟨hrest, hops', hwv'⟩ := ih (s.pkeAbort o) fun x hx => h x (List.mem_cons_of_mem _ hx)
    exact ⟨hfirst.trans hrest, by rw [List.foldl_cons, hops', hops]; rfl, hwv'.trans hwv⟩

theorem State.mintAborts_host (l : List Mint) (s : State) :
    let t := l.foldl (fun s m => s.mintAbort m 0x31) s
    s.Aborted t ∧ t.pke = s.pke ∧ t.wv = { s.wv with mints := s.wv.mints.filter fun m => !l.contains m } := by
  rw [← foldl_filter_ne]
  induction l generalizing s with
  | nil => exact ⟨.refl s, rfl, rfl⟩
  | cons m l ih =>
    obtain ⟨hfirst, hpke, hwv⟩ := s.mintAbort_host m
    obtain ⟨hrest, hpke', hwv'⟩ := ih (s.mintAbort m 0x31)
    exact ⟨hfirst.trans hrest, hpke'.trans hpke, by rw [List.foldl_cons, hwv', hwv]; rfl⟩

theorem State.abortHeld_host (s : State) :
    s.Aborted (s.abortHeld false) ∧ (s.abortHeld false).pke.ops = s.pke.ops.filter (·.bod) ∧
      (s.abortHeld false).wv = { s.wv with mints := [] } := by
  obtain ⟨hops, hlist, hwv⟩ := State.pkeAborts_host (s.pke.ops.filter fun o => !o.bod) s fun o ho => by simpa using (List.mem_filter.1 ho).2
  generalize hu : (s.pke.ops.filter fun o => !o.bod).foldl (fun s o => s.pkeAbort o) s = u at hops hlist hwv
  obtain ⟨hmints, hpke, hwv'⟩ := State.mintAborts_host u.wv.mints u
  have hdef : s.abortHeld false = u.wv.mints.foldl (fun s m => s.mintAbort m 0x31) u := by rw [← hu]; rfl
  have hnone : u.wv.mints.filter (fun m => !u.wv.mints.contains m) = [] := List.filter_eq_nil_iff.2 fun m hm => by simpa using hm
  rw [hdef]
  refine ⟨hops.trans hmints, ?_, ?_⟩
  · rw [hpke, hlist]
    refine List.filter_congr fun o ho => ?_
    cases hbod : o.bod <;> simp [ho, hbod]
  · rw [hwv', hnone, hwv]

/-! The reset (R493). -/

/-- The frames that wait for the host dropped: their ports and the counters alone are touched. -/
theorem State.hostDrops_rest (l : List HostItem) (s : State) :
    let t := l.foldl (fun s i =>
      let s := s.freeCells i.port i.cells i.fromPool
      if i.since.isSome then s.count (hifCtr 2) else s.count (macCtr i.port 10)) s
    t = { s with ports := t.ports, ctr := t.ctr } := by
  induction l generalizing s with
  | nil => rfl
  | cons i l ih =>
    dsimp only at ih ⊢
    rw [List.foldl_cons, ih]
    unfold State.freeCells
    split <;> split <;> rfl

/-- The registers of the host interface at their reset values, every other as it stood. -/
def hifOut (e : Nat × W32) : Bool := !decide (0x110000 ≤ e.1 ∧ e.1 < 0x120000)

/-- The host interface after its reset, from what it was after the commands were aborted. -/
def HifSt.cleared (h : HifSt) (lost : Bool) : HifSt :=
  { HifSt.reset with
    link := h.link && !lost, speed := if lost then 0 else h.speed, width := if lost then 0 else h.width, mem := h.mem, nextTx := h.nextTx }

theorem State.hifResetBlock_spec (s : State) (lost : Bool) : let u := s.abortHeld false
    let t := s.hifResetBlock lost false
    t = { u with ports := t.ports, ctr := t.ctr, hif := u.hif.cleared lost, wv := { u.wv with hostQ := [] }, act := u.act.filter hifOut, stg := t.stg, cmts := t.cmts } := by
  intro u t
  unfold t State.hifResetBlock
  rw [if_neg Bool.false_ne_true]
  have hdrop := State.hostDrops_rest u.wv.hostQ u
  dsimp only at hdrop ⊢
  generalize u.wv.hostQ.foldl _ u = v at hdrop ⊢
  rw [hdrop]
  rfl

/-! Link, configuration and doorbells (R494, R496, R499). -/

section
variable {s : State}

theorem State.pcieUp_taken {speed width : Nat} (hlow : 1 ≤ speed) (hhigh : speed ≤ 4) (hwidth : width = 1 ∨ width = 2 ∨ width = 4) :
    s.pcieUp speed width = { s with hif := { s.hif with link := true, speed := speed, width := width } } := if_pos ⟨hlow, hhigh, hwidth⟩

theorem State.pcieConfig_refused (w : PcieWrite) (h : s.hif.link = false ∨ s.shadow = true) : s.pcieConfig w = s := by
  refine if_pos ?_
  rcases h with h | h <;> simp [h]

/-- The configuration fields that a write gives, put in force. -/
def State.configured (s : State) (w : PcieWrite) : State :=
  { s with hif := { s.hif with bme := w.bme.getD s.hif.bme, ptmEn := w.ptmEn.getD s.hif.ptmEn, pci := s.hif.pci.written w } }

theorem State.pcieConfig_taken (w : PcieWrite) (hlink : s.hif.link = true) (hopen : s.shadow = false) :
    s.pcieConfig w = (List.range 36).foldl (fun s v => s.vecUnmask v) (s.configured w).cqFlush := if_neg (by simp [hlink, hopen])

theorem State.cqFlush_none (h : s.hif.compq = []) : s.cqFlush = s := by
  unfold State.cqFlush
  rw [h]
  split
  · rfl
  · show { s with hif := { s.hif with compq := [] } } = s
    rw [← h]

theorem State.vecUnmask_none (v : Nat) (h : ∀ x ∈ s.hif.vecs, x.pend = false) : s.vecUnmask v = s := by
  have hvecs : updAt s.hif.vecs v (fun x => if x.pend && s.hif.pci.msixEn && !s.vecMasked v then { x with pend := false, sent := x.sent + 1 } else x) =
      s.hif.vecs := by
    refine List.ext_getElem? fun k => ?_
    rw [updAt, List.getElem?_modify]
    cases hk : s.hif.vecs[k]? with
    | none => split <;> rfl
    | some x =>
      have hx := h x (List.mem_of_getElem? hk)
      split <;> simp [hx]
  unfold State.vecUnmask
  dsimp only
  rw [hvecs]

theorem State.vecUnmasks_none (l : List Nat) (h : ∀ x ∈ s.hif.vecs, x.pend = false) : l.foldl (fun s v => s.vecUnmask v) s = s := by
  induction l with
  | nil => rfl
  | cons v l ih => rw [List.foldl_cons, State.vecUnmask_none v h, ih]

section
variable {b : Nat} {v : W32} {put : Nat → State} (hopen : s.noWrites = false)
include hopen

theorem State.tailWrite_taken (h : bitsOf v 15 0 < s.ringSize b) : s.tailWrite b v put = put (bitsOf v 15 0) := by
  unfold State.tailWrite
  rw [hopen, if_neg Bool.false_ne_true, if_pos h]

theorem State.tailWrite_refused (h : s.ringSize b ≤ bitsOf v 15 0) : s.tailWrite b v put = s.cause 10 := by
  unfold State.tailWrite
  rw [hopen, if_neg Bool.false_ne_true, if_neg (Nat.not_lt_of_le h)]

end

end

/-! A ring. -/

theorem getD_putAt {α : Type} (l : List α) {n : Nat} (h : n < l.length) (a d : α) : (putAt l n a).getD n d = a := by
  rw [putAt, List.getD_eq_getElem?_getD, List.getElem?_set_self h]
  rfl

theorem State.rxRing_setRx {s : State} {n : Nat} (h : n < s.hif.rx.length) (r : Ring) : (s.setRx n r).rxRing n = r := getD_putAt _ h _ _

theorem State.txRing_setTx {s : State} {n : Nat} (h : n < s.hif.tx.length) (r : Ring) : (s.setTx n r).txRing n = r := getD_putAt _ h _ _

/-! A frame taken off its ring (R502). -/

section
variable {s : State} {n : Nat} {i : HostItem}

theorem State.markHeads_length (s : State) : s.markHeads.wv.hostQ.length = s.wv.hostQ.length := by
  have hfold : ∀ (l : List HostItem) (acc : List HostItem × List Nat), (l.foldl (fun (acc : List HostItem × List Nat) (i : HostItem) =>
      if acc.2.contains i.ring then (acc.1 ++ [i], acc.2)
      else (acc.1 ++ [{ i with since := some (i.since.getD s.now) }], i.ring :: acc.2)) acc).1.length = acc.1.length + l.length := by
    intro l
    induction l with
    | nil => exact fun acc => rfl
    | cons i l ih =>
      intro acc
      rw [List.foldl_cons, ih]
      split <;> simp <;> omega
  exact (hfold s.wv.hostQ ([], [])).trans (by simp)

theorem State.freeCells_rest (s : State) (port cells : Nat) (fromPool : Bool) :
    s.freeCells port cells fromPool = { s with ports := (s.freeCells port cells fromPool).ports } := by
  unfold State.freeCells
  split <;> rfl

theorem State.popHost_spec (hhead : s.hostHead n = some i) :
    s.popHost i = { s with ports := (s.popHost i).ports, wv := (s.popHost i).wv } ∧ (s.popHost i).wv.hostQ.length + 1 = s.wv.hostQ.length := by
  have hmem : i ∈ s.wv.hostQ := List.mem_of_find?_eq_some hhead
  constructor
  · unfold State.popHost State.markHeads
    rw [State.freeCells_rest]
  · unfold State.popHost
    rw [State.markHeads_length, State.freeCells_rest]
    show (s.wv.hostQ.erase i).length + 1 = s.wv.hostQ.length
    rw [List.length_erase_of_mem hmem]
    have := List.length_pos_of_mem hmem
    omega

/-! A frame delivered (R500, R501). -/

theorem State.hostDeliver_first {e : RxEntry} {es : List RxEntry} (hruns : s.hifRuns = true) (hon : s.ringEn (rxBase n) = true)
    (hhead : s.hostHead n = some i) (hposted : 0 < ringCount (s.ringSize (rxBase n)) (s.rxRing n).head (s.rxRing n).tail) (hgood : rxBad e = none)
    (hfits : i.bytes.length ≤ e.bufLen) : s.hostDeliver n (e :: es) true = ((s.popHost i).rxFilled n e i i.bytes true true).count (hifCtr 0) := by
  obtain ⟨k, hk⟩ := Nat.exists_eq_succ_of_ne_zero (Nat.ne_of_gt hposted)
  have hreserve : reserveRx ((e :: es).take (ringCount (s.ringSize (rxBase n)) (s.rxRing n).head (s.rxRing n).tail)) i.bytes.length = some [e] := by
    rw [hk, List.take_succ_cons, reserveRx, hgood]
    exact if_pos hfits
  have hfill : State.rxFill n i [e] i.bytes true (s.popHost i) = (s.popHost i).rxFilled n e i i.bytes true true := by
    simp only [State.rxFill, hgood, List.take_of_length_le hfits, decide_eq_true hfits]
  unfold State.hostDeliver
  dsimp only
  rw [hruns, hon, hhead]
  dsimp only
  rw [hreserve]
  exact congrArg (State.count · (hifCtr 0)) hfill

theorem State.hostDeliver_short {es : List RxEntry} (hhead : s.hostHead n = some i)
    (hshort : reserveRx (es.take (ringCount (s.ringSize (rxBase n)) (s.rxRing n).head (s.rxRing n).tail)) i.bytes.length = none)
    (hgood : ∀ e ∈ es.head?, rxBad e = none) : s.hostDeliver n es true = s := by
  have hskip : (es.take (ringCount (s.ringSize (rxBase n)) (s.rxRing n).head (s.rxRing n).tail)).takeWhile (fun e => (rxBad e).isSome) = [] := by
    cases es with
    | nil => simp
    | cons e es =>
      cases ringCount (s.ringSize (rxBase n)) (s.rxRing n).head (s.rxRing n).tail with
      | zero => rfl
      | succ k => rw [List.take_succ_cons, List.takeWhile_cons, hgood e rfl]; rfl
  unfold State.hostDeliver
  dsimp only
  rw [hhead]
  dsimp only
  rw [hshort, hskip]
  simp

theorem State.hostDeliver_ecc {es : List RxEntry} (hruns : s.hifRuns = true) (hon : s.ringEn (rxBase n) = true) (hhead : s.hostHead n = some i) :
    s.hostDeliver n es false = (s.popHost i).memoryError 0 := by
  unfold State.hostDeliver
  dsimp only
  rw [hruns, hon, hhead]
  rfl

theorem State.hifRuns_bme (hruns : s.hifRuns = true) : s.hif.bme = true := (Bool.and_eq_true_iff.1 hruns).1

theorem State.dma_on {u : State} (hbme : u.hif.bme = true) (addr : Nat) (bs : List Byte) :
    u.dma addr bs = { u with hif := { u.hif with mem := memPut u.hif.mem addr bs } } := if_pos hbme

/-- The entry at HEAD completed: its bytes written, HEAD moved on by one. -/
theorem State.rxDone_spec {u : State} (hbme : u.hif.bme = true) (hn : n < u.hif.rx.length) (ofs : Nat) (bs : List Byte) :
    (u.rxDone n ofs bs).hif.mem = memPut u.hif.mem (u.ringAddr (rxBase n) + 32 * (u.rxRing n).head + ofs) bs ∧
      (u.rxDone n ofs bs).rxRing n =
        { u.rxRing n with head := ((u.rxRing n).head + 1) % u.ringSize (rxBase n), next := ((u.rxRing n).head + 1) % u.ringSize (rxBase n) } ∧
      u.rxDone n ofs bs = { u with hif := (u.rxDone n ofs bs).hif } := by
  unfold State.rxDone
  dsimp only
  rw [State.dma_on hbme]
  exact ⟨rfl, getD_putAt _ hn _ _, rfl⟩

/-- An entry filled with a whole frame: its buffer and its fields written, HEAD moved on by one. -/
theorem State.rxFilled_spec {u : State} (hbme : u.hif.bme = true) (hn : n < u.hif.rx.length) (e : RxEntry) (i : HostItem) :
    let t := u.rxFilled n e i i.bytes true true
    t.hif.mem = memPut (memPut u.hif.mem e.addr i.bytes) (u.ringAddr (rxBase n) + 32 * (u.rxRing n).head)
      (leBytes 12 i.time.toBits.toNat ++ leBytes 2 i.bytes.length ++ leBytes 2 i.bytes.length ++ leBytes 8 e.user ++
        [0, BitVec.ofNat 8 (131 + 4 * b01 i.mirror + 8 * b01 i.csumOk), BitVec.ofNat 8 i.port, BitVec.ofNat 8 i.cls] ++
        leBytes 2 i.rule ++ leBytes 2 i.tci) ∧
      t.rxRing n = { u.rxRing n with head := ((u.rxRing n).head + 1) % u.ringSize (rxBase n), next := ((u.rxRing n).head + 1) % u.ringSize (rxBase n) } ∧
      t = { u with hif := t.hif } := by
  have hflags : b01 true + 2 * b01 true + 4 * b01 i.mirror + 8 * b01 i.csumOk + 128 = 131 + 4 * b01 i.mirror + 8 * b01 i.csumOk := by
    show 1 + 2 * 1 + 4 * b01 i.mirror + 8 * b01 i.csumOk + 128 = _
    omega
  have hdata := State.dma_on hbme e.addr i.bytes
  unfold State.rxFilled
  dsimp only
  generalize u.dma e.addr i.bytes = v at hdata ⊢
  have hbme' : v.hif.bme = true := by rw [hdata]; exact hbme
  obtain ⟨hmem, hring, hrest⟩ := State.rxDone_spec (u := v) (n := n) hbme' (by rw [hdata]; exact hn) 0 (leBytes 12 i.time.toBits.toNat ++
    leBytes 2 i.bytes.length ++ leBytes 2 i.bytes.length ++ leBytes 8 e.user ++
    [0, BitVec.ofNat 8 (131 + 4 * b01 i.mirror + 8 * b01 i.csumOk), BitVec.ofNat 8 i.port, BitVec.ofNat 8 i.cls] ++
    leBytes 2 i.rule ++ leBytes 2 i.tci)
  rw [hflags]
  refine ⟨?_, ?_, ?_⟩
  · rw [hmem, hdata]
    rfl
  · rw [hring, hdata]
    rfl
  · rw [hrest, hdata]

/-! RING_WAIT (R502). -/

section
variable {at_ : Nat} (hhead : s.hostHead n = some i) (hsince : i.since = some at_)
include hhead hsince

theorem State.ringWait_over (hin : s.islandOut 5 = false) (hran : at_ + s.fld 0x110000 15 0 * 1000 ≤ s.now) :
    s.ringWait n = (s.popHost i).count (hifCtr 2) := by
  unfold State.ringWait
  rw [hhead]
  dsimp only
  rw [hsince]
  exact if_pos (by simp [hin, hran])

theorem State.ringWait_runs (hruns : s.now < at_ + s.fld 0x110000 15 0 * 1000) : s.ringWait n = s := by
  unfold State.ringWait
  rw [hhead]
  dsimp only
  rw [hsince]
  exact if_neg (by simp [hruns])

end

end

/-! A frame sent (R504 to R506). -/

section
variable {s : State} {n : Nat} {e : TxEntry} {es : List TxEntry}

theorem hostSums_plain (bs : List Byte) : hostSums 3 bs = (bs, false) := rfl

theorem frameEntries_last (hend : txEop e = true) (l : List TxEntry) : frameEntries (e :: l) = [e] := by
  unfold frameEntries
  exact if_pos hend

/-- A frame of one entry, sound and of a good length. -/
theorem State.hostTransmit_one (hruns : s.hifRuns = true) (hon : s.ringEn (txBase n) = true) (hflags : e.flags = 3) (hread : e.fault = false)
    (hposted : 0 < ringCount (s.ringSize (txBase n)) (s.txRing n).next (s.txRing n).tail) (hdesc : badDesc [e] = false)
    (hlen : s.badLen [e] e.data = false) : s.hostTransmit n (e :: es) =
    if !(s.port e.port).link || !s.bit (mBase e.port + 4) 31 then s.txRead n [e] (some 0x20)
    else if s.poolFree < cellsOf e.data.length then s
    else (s.txRead n [e] none).queueFrame e.port { s.plainFrame (.host s.hif.nextTx) e.data (e.prio % 8) with
      tsReq := false, express := s.hostExpress e.port (e.prio % 8) e.data } := by
  have hend : txEop e = true := by rw [txEop, hflags]; rfl
  have hentries : frameEntries ((e :: es).take (ringCount (s.ringSize (txBase n)) (s.txRing n).next (s.txRing n).tail)) = [e] := by
    obtain ⟨k, hk⟩ := Nat.exists_eq_succ_of_ne_zero (Nat.ne_of_gt hposted)
    rw [hk, List.take_succ_cons, frameEntries_last hend]
  have hdata : [e].flatMap (·.data) = e.data := List.append_nil _
  unfold State.hostTransmit
  dsimp only
  simp only [hentries, hruns, hon, hdata, hend, hflags, hostSums_plain, hdesc, hlen, hread, List.getLast?_singleton, List.any_cons, List.any_nil,
    List.isEmpty_cons, List.head?_cons, Option.map_some, Option.getD_some, Bool.not_true, Bool.or_self, Bool.false_and, Bool.false_eq_true, if_false]
  rfl

/-- A frame read: `next` stands behind its entries, and its status is awaited. -/
theorem State.txRead_spec (hn : n < s.hif.tx.length) (es : List TxEntry) (st : Option Nat) :
    (s.txRead n es st).txRing n = { s.txRing n with next := ((s.txRing n).next + es.length) % s.ringSize (txBase n) } ∧
      (s.txRead n es st).hif.txq = s.hif.txq ++ [⟨n, s.hif.nextTx, es.map (·.flags), st, []⟩] ∧
      s.txRead n es st = { s with hif := (s.txRead n es st).hif } := ⟨getD_putAt _ hn _ _, rfl, rfl⟩

/-! A frame's status written (R506, R521). -/

/-- The entry at HEAD completed as the last of its frame. -/
theorem State.txDone_last {st : Nat} {tout : List Byte} (hbme : s.hif.bme = true) (hn : n < s.hif.tx.length) (htout : tout.length = 12) :
    (s.txDone n 3 st tout).hif.mem = memPut (memPut s.hif.mem (s.ringAddr (txBase n) + 32 * (s.txRing n).head) (tout.take 11 ++ [tout.getD 11 0 ||| 0x80]))
        (s.ringAddr (txBase n) + 32 * (s.txRing n).head + 24) [BitVec.ofNat 8 st] ∧
      ((s.txDone n 3 st tout).txRing n).head = ((s.txRing n).head + 1) % s.ringSize (txBase n) ∧
      (s.txDone n 3 st tout).hif.txq = s.hif.txq ∧ s.txDone n 3 st tout = { s with hif := (s.txDone n 3 st tout).hif } := by
  have hsome : tout.isEmpty = false := by
    cases tout with
    | nil => cases htout
    | cons b bs => rfl
  have hlast : (3 / 2 % 2 == 1) = true := rfl
  have hring : ∀ r : Ring, (putAt s.hif.tx n r).getD n Ring.reset = r := fun r => getD_putAt _ hn _ _
  unfold State.txDone
  dsimp only
  rw [hlast, hsome, if_pos rfl, if_neg Bool.false_ne_true, State.dma_on hbme, State.dma_on (by exact hbme)]
  exact ⟨rfl, congrArg Ring.head (hring _), rfl, rfl⟩

theorem State.txComplete_waits {x : TxFrame} (hfirst : s.hif.txq.find? (fun x => x.ring == n) = some x) (hopen : x.status = none) : s.txComplete n = s := by
  unfold State.txComplete
  rw [hfirst]
  dsimp only
  rw [hopen]
  split <;> rfl

theorem State.txComplete_known {x : TxFrame} {st : Nat} (hruns : s.hifRuns = true) (hfirst : s.hif.txq.find? (fun x => x.ring == n) = some x)
    (hst : x.status = some st) (hflags : x.flags = [3]) :
    s.txComplete n = (({ s with hif := { s.hif with txq := s.hif.txq.erase x } } : State).txDone n 3 st x.tout).txCount st := by
  unfold State.txComplete
  rw [hruns, hfirst]
  dsimp only
  rw [hst, hflags]
  rfl

theorem State.txCount_good {u : State} {st : Nat} (hst : st ≠ 0x32) :
    u.txCount st = u.count (if st = 0 then hifCtr 1 else if st = 0x11 then hifCtr 4 else hifCtr 5) := by
  unfold State.txCount
  rw [if_neg hst]
  split
  · rfl
  · split <;> rfl

end

/-- Settles O46: every row is a few writes through the entry at HEAD, and what each of them leaves is said above. -/
theorem hostRingsMoveFramesThroughTheirEntries : Obligations.HostRingsMoveFramesThroughTheirEntries := by
  intro s
  refine ⟨fun lost => ?reset, fun sp w hlow hhigh hwidth => ?link, fun w => ⟨fun h => ?refused, fun hlink hopen => ⟨?written, fun hcompq hpend => ?quiet⟩⟩,
    fun n v hopen => ⟨fun h => ?rx, fun h => ?tx, fun h => ?cq, fun h => ?rxBell, fun h => ?txBell, fun h => ?cqBell⟩,
    fun n i es hn hruns hon hhead => ⟨fun e es' hes hposted hgood hfits => ?filled, fun hshort hgood => ?short, ?ecc⟩,
    fun n i at_ hhead hsince hin => ⟨fun hran => ?expired, fun hwaits => ?waits⟩,
    fun n e es hn hruns hon hflags hread hposted hdesc hlen => ⟨fun hdown => ?down, fun hup hen hport hroom => ?queued⟩,
    fun n x st hn hruns hfirst => ⟨fun hopen => ?pending, fun hst hflags htout hgood => ?complete⟩⟩
  case reset =>
    obtain ⟨⟨hrest, hlink, hmem, hbme⟩, hops, hwv⟩ := s.abortHeld_host
    have hspec := s.hifResetBlock_spec lost
    dsimp only at hspec
    rw [exec_hifReset]
    generalize s.hifResetBlock lost false = t at hspec ⊢
    generalize s.abortHeld false = u at *
    have hact : t.act = s.act.filter hifOut := by rw [hspec, hrest]
    have hhif : t.hif = u.hif.cleared lost := by rw [hspec]
    have hwv' : t.wv = { s.wv with mints := [], hostQ := [] } := by rw [hspec]; exact congrArg (fun w : WvSt => { w with hostQ := [] }) hwv
    refine ⟨t, rfl, fun n _ => ⟨?_, ?_⟩, fun q _ => ?_, by rw [hhif]; rfl, by rw [hhif]; rfl, by rw [hspec]; exact hops, by rw [hwv'], by rw [hwv'],
      by rw [hhif]; rfl, by rw [hhif, ← hlink]; rfl, by rw [hhif]; rfl, by rw [hhif]; rfl, fun hoff => by rw [hhif]; exact hmem hoff,
      fun a hlow hhigh => ?_, fun hrise a ha => ?_, ?_⟩
    · rw [State.rxRing, hhif]
      exact List.getElem?_getD_replicate_default_eq _ _ _
    · rw [State.txRing, hhif]
      exact List.getElem?_getD_replicate_default_eq _ _ _
    · rw [State.cqRing, hhif]
      exact List.getElem?_getD_replicate_default_eq _ _ _
    · rw [State.reg, hact, RegMap.rd, Assoc.get_filter_out _ _ fun v => by simp [hifOut, hlow, hhigh]]
      rfl
    · rw [State.reg, hact, RegMap.rd, Assoc.get_filter_in _ _ hrise fun v => by simp [hifOut]; omega]
      rfl
    · rw [hspec, hrest]
  case link => rw [exec_pcieLinkUp, State.pcieUp_taken hlow hhigh hwidth]
  case refused => rw [exec_pcieConfigWrite, State.pcieConfig_refused w h]
  case written => rw [exec_pcieConfigWrite, State.pcieConfig_taken w hlink hopen]; rfl
  case quiet =>
    rw [exec_pcieConfigWrite, State.pcieConfig_taken w hlink hopen, (s.configured w).cqFlush_none hcompq,
      (s.configured w).vecUnmasks_none _ hpend]
    rfl
  case rx => rw [exec_rxTailWrite, State.rxTail, State.tailWrite_taken hopen h]
  case tx => rw [exec_txTailWrite, State.txTail, State.tailWrite_taken hopen h]
  case cq => rw [exec_cqTailWrite, State.cqTail, State.tailWrite_taken hopen h]
  case rxBell => rw [exec_rxTailWrite, State.rxTail, State.tailWrite_refused hopen h]
  case txBell => rw [exec_txTailWrite, State.txTail, State.tailWrite_refused hopen h]
  case cqBell => rw [exec_cqTailWrite, State.cqTail, State.tailWrite_refused hopen h]
  case filled =>
    subst hes
    obtain ⟨hrest, hlen⟩ := State.popHost_spec hhead
    have hhif : (s.popHost i).hif = s.hif := by rw [hrest]
    have hring : (s.popHost i).rxRing n = s.rxRing n := by rw [State.rxRing, hhif]; rfl
    have haddr : (s.popHost i).ringAddr (rxBase n) = s.ringAddr (rxBase n) := by rw [hrest]; rfl
    have hsize : (s.popHost i).ringSize (rxBase n) = s.ringSize (rxBase n) := by rw [hrest]; rfl
    obtain ⟨hmem, hnext, hfill⟩ := State.rxFilled_spec (u := s.popHost i) (n := n) (by rw [hhif]; exact State.hifRuns_bme hruns) (by rw [hhif]; exact hn) e i
    rw [hring, hsize] at hnext
    rw [hhif, haddr, hring] at hmem
    rw [exec_hostFrameDeliver, State.hostDeliver_first hruns hon hhead hposted hgood hfits]
    generalize (s.popHost i).rxFilled n e i i.bytes true true = t at hmem hnext hfill
    have hcount : t.ctrAt (hifCtr 0) = s.ctrAt (hifCtr 0) := by rw [hfill, hrest]; rfl
    have hnext' : (t.count (hifCtr 0)).rxRing n = t.rxRing n := rfl
    refine ⟨_, rfl, hmem, by rw [hnext', hnext], by rw [hnext', hnext], ?_, by rw [State.ctrAt_count_self, hcount], ?_⟩
    · show t.wv.hostQ.length + 1 = _
      rw [hfill]
      exact hlen
    · unfold State.count State.countN
      rw [hfill, hrest]
  case short => rw [exec_hostFrameDeliver, State.hostDeliver_short hhead hshort hgood]
  case ecc => rw [exec_hostFrameDeliver, State.hostDeliver_ecc hruns hon hhead]
  case expired => rw [exec_ringWaitExpire, State.ringWait_over hhead hsince hin hran]
  case waits => rw [exec_ringWaitExpire, State.ringWait_runs hhead hsince hwaits]
  case down => rw [exec_hostFrameTransmit, State.hostTransmit_one hruns hon hflags hread hposted hdesc hlen, hdown]; rfl
  case queued =>
    obtain ⟨hring, htxq, hrest⟩ := s.txRead_spec hn [e] none
    have hsent := State.hostTransmit_one (es := es) hruns hon hflags hread hposted hdesc hlen
    rw [hup, hen, if_neg (by decide), if_neg (Nat.not_lt_of_le hroom)] at hsent
    have hline : (s.txRead n [e] none).port e.port = s.port e.port := by rw [hrest]; rfl
    rw [exec_hostFrameTransmit, hsent]
    generalize s.txRead n [e] none = u at hring htxq hrest hline
    rw [State.queueFrame_up _ (by rw [hline]; exact hup)]
    refine ⟨_, u.placed e.port { s.plainFrame (.host s.hif.nextTx) e.data (e.prio % 8) with
      tsReq := false, express := s.hostExpress e.port (e.prio % 8) e.data }, rfl, ?_, rfl, rfl, rfl, rfl, ?_, ?_, ?_⟩
    · rw [State.port_setPort_self (PortSt.queued _) (u.up_lt (by rw [hline]; exact hup)), hline]
      rfl
    · exact htxq.trans (by rw [List.map_singleton, hflags])
    · exact congrArg Ring.next hring
    · unfold State.setPort
      rw [hrest]
  case pending => rw [exec_txComplete, State.txComplete_waits hfirst hopen]
  case complete =>
    obtain ⟨hmem, hhead, htxq, hrest⟩ := State.txDone_last (s := { s with hif := { s.hif with txq := s.hif.txq.erase x } }) (n := n) (st := st)
      (State.hifRuns_bme hruns) hn htout
    rw [exec_txComplete, State.txComplete_known hruns hfirst hst hflags, State.txCount_good hgood]
    generalize State.txDone _ n 3 st x.tout = t at hmem hhead htxq hrest
    have hctr : ∀ k, t.ctrAt k = s.ctrAt k := fun k => by rw [hrest]; rfl
    refine ⟨_, rfl, hmem, hhead, htxq, ?_, ?_⟩
    · exact (State.ctrAt_count_self t _).trans (by rw [hctr])
    · unfold State.count State.countN
      rw [hrest]

end Sys2Proof.Machine
end

section
/-! SUPPORT. The command queues from the fetch to the completion, the event-capture stream, the vectors and Precision Time Measurement. -/

namespace Sys2Proof.Machine

open Sys2Proof

theorem exec_commandFetch (s : State) (q : Nat) (e : CmdEntry) : exec (.commandFetch q e) s = .next (s.cmdFetch q e) := rfl

theorem exec_abort (s : State) (q i : Nat) : exec (.abort q i) s = .next (if s.noWrites then s else s.cqAbort q i) := rfl

theorem exec_abortAll (s : State) (q : Nat) : exec (.abortAll q) s = .next (if s.noWrites then s else s.cqAbortAll q) := rfl

theorem exec_evsRecordDeliver (s : State) : exec .evsRecordDeliver s = .next s.evsDeliver := rfl

theorem exec_evsHostRdWrite (s : State) (v : W32) : exec (.evsHostRdWrite v) s = .next (s.evsRdWrite v) := rfl

theorem exec_evsMark (s : State) : exec .evsMark s = .next (s.evsOp s.hif.evs.doMark) := rfl

theorem exec_evsRewind (s : State) : exec .evsRewind s = .next (s.evsOp (s.rewound s.hif.evs)) := rfl

theorem exec_evsClear (s : State) : exec .evsClear s = .next (s.evsOp s.hif.evs.doClear) := rfl

theorem exec_msixMessage (s : State) (v : Nat) : exec (.msixMessage v) s = .next (s.msix v) := rfl

theorem exec_ptmReq (s : State) (tok : BitVec 16) : exec (.ptmReq tok) s = .next (s.ptmReq tok.toNat) := rfl

theorem exec_ptmAuto (s : State) : exec .ptmAuto s = .next s.ptmAuto := rfl

theorem exec_ptmResponse (s : State) (master turn : Nat) : exec (.ptmResponse master turn) s = .next (s.ptmResponse master turn) := rfl

theorem exec_ptmTimeout (s : State) : exec .ptmTimeout s = .next s.ptmTimeout := rfl

/-! A command fetched (R508, R509). -/

section
variable {s : State} {q i : Nat} {e : CmdEntry}

/-- A queue whose next fetch follows an index. -/
def State.fetched (s : State) (q i : Nat) : State := s.setCq q { s.cqRing q with next := (i + 1) % s.ringSize (cqBase q) }

section
variable (hruns : s.hifRuns = true) (hon : s.ringEn (cqBase q) = true) (hroom : s.cqRoom q e.bytes = true)
  (hnext : (s.cqRing q).toFetch (s.ringSize (cqBase q)) = some i)
include hruns hon hroom hnext

theorem State.cmdFetch_eq : s.cmdFetch q e =
    if (s.fetched q i).cqCheck q e = 0x32 then
      ((s.fetched q i).cqComplete q i 0x32 0).draw.2.faultReport (((s.fetched q i).cqComplete q i 0x32 0).draw.1 % 65536) 0
    else if (s.fetched q i).cqCheck q e ≠ 0 then (s.fetched q i).cqComplete q i ((s.fetched q i).cqCheck q e) 0
    else if q = 0 then
      ({ s.fetched q i with pke := { s.pke with ops := s.pke.ops ++ [⟨false, i, e.bytes, e.resAddr, none, 0, 0, 0, []⟩] } } : State).coreFull
    else { s.fetched q i with wv := { s.wv with mints := s.wv.mints ++ [⟨i, e.bytes, e.resAddr, false, []⟩] } } := by
  unfold State.cmdFetch
  dsimp only
  rw [hruns, hon, hroom, if_neg (by decide), hnext]
  dsimp only
  rw [← State.fetched]
  split
  · next hfault => rw [hfault]
  · rfl

end

/-! ABORT (R510). -/

theorem State.cqAbort_idle (h : (s.cqRing q).open_ (s.ringSize (cqBase q)) i = false ∨ s.cqWaits q i = true) : s.cqAbort q i = s := by
  refine if_pos ?_
  rcases h with h | h <;> simp [h]

/-- An entry inside HEAD to TAIL − 1 that neither an operation nor a mint command holds. -/
theorem State.cqAbort_unheld (hq : q < 2) (hwaits : s.cqWaits q i = false) (hopen : (s.cqRing q).open_ (s.ringSize (cqBase q)) i = true)
    (hops : ∀ o ∈ s.pke.ops, o.bod = true ∨ o.index ≠ i) (hmints : ∀ m ∈ s.wv.mints, m.index ≠ i) :
    s.cqAbort q i = (if q = 0 then s else s.count 0xB0108).cqComplete q i 0x31 0x31 := by
  have hop : s.pke.ops.find? (fun o => o.index == i && !o.bod) = none := List.find?_eq_none.2 fun o ho => by
    rcases hops o ho with h | h <;> simp [h]
  have hmint : s.wv.mints.find? (fun m => m.index == i) = none := List.find?_eq_none.2 fun m hm => by simpa using hmints m hm
  have hgo : ¬(!(s.cqRing q).open_ (s.ringSize (cqBase q)) i || s.cqWaits q i) = true := by simp [hopen, hwaits]
  unfold State.cqAbort
  dsimp only
  rw [if_neg hgo, hop, hmint]
  match q, hq with
  | 0, _ => rfl
  | 1, _ => rfl

theorem State.cqAbort_op {o : PkeOp} (hwaits : s.cqWaits 0 i = false) (hopen : (s.cqRing 0).open_ (s.ringSize (cqBase 0)) i = true)
    (hops : s.pke.ops = [o]) (hindex : o.index = i) (hhost : o.bod = false) : s.cqAbort 0 i = s.pkeAbort o := by
  have hop : s.pke.ops.find? (fun o => o.index == i && !o.bod) = some o := by rw [hops]; simp [hindex, hhost]
  have hgo : ¬(!(s.cqRing 0).open_ (s.ringSize (cqBase 0)) i || s.cqWaits 0 i) = true := by simp [hopen, hwaits]
  unfold State.cqAbort
  dsimp only
  rw [if_neg hgo, hop]
  rfl

theorem State.cqAbort_mint {m : Mint} (hwaits : s.cqWaits 1 i = false) (hopen : (s.cqRing 1).open_ (s.ringSize (cqBase 1)) i = true)
    (hmints : s.wv.mints = [m]) (hindex : m.index = i) : s.cqAbort 1 i = s.mintAbort m 0x31 := by
  have hmint : s.wv.mints.find? (fun m => m.index == i) = some m := by rw [hmints]; simp [hindex]
  have hgo : ¬(!(s.cqRing 1).open_ (s.ringSize (cqBase 1)) i || s.cqWaits 1 i) = true := by simp [hopen, hwaits]
  unfold State.cqAbort
  dsimp only
  rw [if_neg hgo, hmint]
  rfl

/-- The only operation held, aborted: its core is zeroised and it is counted before its entry is completed. -/
theorem State.pkeAbort_only {o : PkeOp} (hops : s.pke.ops = [o]) (hhost : o.bod = false) : ∃ t : State,
    s.pkeAbort o = t.cqComplete 0 o.index 0x31 0x31 ∧ t = { s with pke := t.pke, ctr := t.ctr } ∧ t.pke.ops = [] ∧
      (∀ c, o.core = some c → t.pke.zeroUntil = putAt s.pke.zeroUntil c (s.now + 2000)) ∧ t.ctrAt (pkeCtr 3) = ctrAdd (s.ctrAt (pkeCtr 3)) 1 := by
  have hnone : s.pke.ops.filter (· != o) = [] := by rw [hops]; simp
  unfold State.pkeAbort
  rw [hhost, hnone]
  refine ⟨_, rfl, ?_⟩
  unfold State.zeroCore
  cases o.core with
  | none => exact ⟨rfl, rfl, nofun, State.ctrAt_count_self _ _⟩
  | some k => exact ⟨rfl, rfl, fun c hc => by cases hc; rfl, State.ctrAt_count_self _ _⟩

theorem State.mintAbort_only {m : Mint} (hmints : s.wv.mints = [m]) :
    s.mintAbort m 0x31 = (({ s with wv := { s.wv with mints := [] } } : State).count 0xB0108).cqComplete 1 m.index 0x31 0x31 := by
  have hnone : s.wv.mints.filter (· != m) = [] := by rw [hmints]; simp
  unfold State.mintAbort
  rw [hnone]
  exact if_pos rfl

/-! A completion (R499, R508). -/

theorem State.cqComplete_waits (hoff : s.hif.bme = false) (st c : Nat) : s.cqComplete q i st c =
    { s with hif := { s.hif with compq := s.hif.compq ++ [{ q := q, i := i, qstat := st, code := c, addr := 0, res := [] }] } } :=
  if_neg (by simp [hoff])

theorem Ring.advance_tail (size k : Nat) (r : Ring) : (r.advance size k).tail = r.tail := by
  induction k generalizing r with
  | zero => rfl
  | succ k ih =>
    rw [Ring.advance]
    split
    · exact ih _
    · rfl

/-- An entry completed where none is: HEAD moves over it when it stands there. -/
theorem Ring.complete_head {r : Ring} (size i : Nat) (hnone : r.done = []) :
    (r.complete size i).head = if i = r.head then (i + 1) % size else r.head := by
  unfold Ring.complete
  rw [hnone]
  by_cases h : i = r.head
  · subst h
    simp [Ring.advance]
  · have hne : ¬r.head = i := fun e => h e.symm
    simp [Ring.advance, h, hne]

theorem State.cause_cq (s : State) (b : Nat) : (s.cause b).hif.cq = s.hif.cq := by
  unfold State.cause
  dsimp only
  split <;> rfl

theorem State.cqWrite_written (hq : q < s.hif.cq.length) (hbme : s.hif.bme = true) (st c : Nat) :
    (s.cqWrite q i st c).hif.mem = memPut s.hif.mem (s.ringAddr (cqBase q) + 32 * i + 24) [BitVec.ofNat 8 st, 0x80, BitVec.ofNat 8 c] ∧
      (s.cqWrite q i st c).cqRing q = (s.cqRing q).complete (s.ringSize (cqBase q)) i := by
  have hring : ∀ u : State, u.hif.cq = putAt s.hif.cq q ((s.cqRing q).complete (s.ringSize (cqBase q)) i) →
      u.cqRing q = (s.cqRing q).complete (s.ringSize (cqBase q)) i := fun u hu => by
    rw [State.cqRing, hu]
    exact getD_putAt _ hq _ _
  unfold State.cqWrite
  dsimp only
  rw [State.dma_on hbme]
  split
  · exact ⟨State.cause_mem _ _, hring _ (State.cause_cq _ _)⟩
  · exact ⟨rfl, hring _ rfl⟩

theorem State.cqComplete_on (hbme : s.hif.bme = true) (st c : Nat) : s.cqComplete q i st c = s.cqWrite q i st c := by
  unfold State.cqComplete
  rw [State.cqFinish_on hbme, State.dma_on hbme]
  rfl

end

/-! The event-capture stream (R511, R512). -/

section
variable {s : State}

/-- The stream with the record at its reader in the next slot of the host's ring, and both moved on. -/
def State.evsMoved (s : State) : State :=
  { s with hif := { s.hif with
    mem := memPut s.hif.mem ((s.reg 0x110600).toNat + (s.reg 0x110604).toNat * 2 ^ 32 + 16 * (s.hif.evsWr % 2 ^ s.fld 0x110608 4 0))
      (leBytes 16 (s.recAt s.hif.evs.rd).toNat),
    evs := { s.hif.evs with rd := (s.hif.evs.rd + 1) % 2 ^ 32 }, evsWr := (s.hif.evsWr + 1) % 2 ^ 32 } }

/-- A record delivered while none of the lost ones is owed. -/
theorem State.evsDeliver_moved (hon : s.evsEn = true) (hruns : s.hifRuns = true) (hunread : s.unread s.hif.evs ≠ 0) (hroom : s.evsHeld = false)
    (howed : s.tin.ovfDue = false) : s.evsDeliver = (s.evsMoved.count (hifCtr 8)).vecEvent 34 := by
  have hgo : ¬(!s.evsEn || !s.hifRuns || s.unread s.hif.evs == 0 || s.evsHeld) = true := by simp [hon, hruns, hunread, hroom]
  have hdef : s.evsDeliver = ((s.evsMoved.count (hifCtr 8)).vecEvent 34).flushOverflow := by
    unfold State.evsDeliver
    dsimp only
    rw [if_neg hgo, State.dma_on (State.hifRuns_bme hruns)]
    rfl
  rw [hdef]
  exact State.flushOverflow_none howed

theorem State.evsDeliver_spec (hon : s.evsEn = true) (hruns : s.hifRuns = true) (hunread : s.unread s.hif.evs ≠ 0) (hroom : s.evsHeld = false)
    (howed : s.tin.ovfDue = false) : let t := s.evsDeliver
    t.hif.mem = memPut s.hif.mem ((s.reg 0x110600).toNat + (s.reg 0x110604).toNat * 2 ^ 32 + 16 * (s.hif.evsWr % 2 ^ s.fld 0x110608 4 0))
        (leBytes 16 (s.recAt s.hif.evs.rd).toNat) ∧
      t.hif.evs = { s.hif.evs with rd := (s.hif.evs.rd + 1) % 2 ^ 32 } ∧ t.hif.evsWr = (s.hif.evsWr + 1) % 2 ^ 32 ∧
      t.ctrAt (hifCtr 8) = ctrAdd (s.ctrAt (hifCtr 8)) 1 ∧ t = { s with hif := t.hif, ctr := t.ctr } := by
  rw [State.evsDeliver_moved hon hruns hunread hroom howed]
  have hrest : s.evsMoved = { s with hif := s.evsMoved.hif } := rfl
  generalize hu : s.evsMoved = u at hrest
  have hhif : ((u.count (hifCtr 8)).vecEvent 34).hif.mem = u.hif.mem ∧ ((u.count (hifCtr 8)).vecEvent 34).hif.evs = u.hif.evs ∧
      ((u.count (hifCtr 8)).vecEvent 34).hif.evsWr = u.hif.evsWr := ⟨rfl, rfl, rfl⟩
  obtain ⟨hmem, hevs, hwr⟩ := hhif
  refine ⟨by rw [hmem, ← hu]; rfl, by rw [hevs, ← hu]; rfl, by rw [hwr, ← hu]; rfl, (u.ctrAt_count_self (hifCtr 8)).trans (by rw [hrest]; rfl), ?_⟩
  unfold State.vecEvent State.count State.countN
  rw [hrest]

theorem State.evsOp_open (hopen : s.noWrites = false) (r : Reader) : s.evsOp r = { s with hif := { s.hif with evs := r } } := if_neg (by simp [hopen])

theorem State.rewound_marked {r : Reader} {m : Nat} (hmark : r.mark = some m) (hvalid : s.markValid r = true) : s.rewound r = { r with rd := m, code := 0 } := by
  unfold State.rewound
  rw [hmark]
  exact if_pos hvalid

theorem State.rewound_invalid {r : Reader} (hvalid : s.markValid r = false) : s.rewound r = { r with rd := s.heldFrom, code := 0x20 } := by
  unfold State.rewound
  split
  · exact if_neg (by simp [hvalid])
  · rfl

/-! MSI-X (R513, R514). -/

theorem updAt_eq_set {α : Type} {l : List α} {n : Nat} {a : α} (h : l[n]? = some a) (f : α → α) : updAt l n f = l.set n (f a) := by
  refine List.ext_getElem? fun k => ?_
  rw [updAt, List.getElem?_modify, List.getElem?_set]
  by_cases hk : n = k
  · subst hk
    rw [h]
    simp [(List.getElem?_eq_some_iff.1 h).1]
  · simp [hk]

/-- A vector whose message is due: sent, or pending while it is masked. -/
def Vec.messaged (masked : Bool) (x : Vec) : Vec := if masked then { x with events := 0, pend := true } else { x with events := 0, sent := x.sent + 1 }

theorem State.msix_due {v : Nat} {x : Vec} (hx : s.hif.vecs[v]? = some x) (hruns : s.hifRuns = true) (hon : s.hif.pci.msixEn = true)
    (hdue : s.vecDue v = true) : s.msix v = { s with hif := { s.hif with vecs := s.hif.vecs.set v (x.messaged (s.vecMasked v)) } } := by
  have hgo : ¬(!s.hifRuns || !s.hif.pci.msixEn || !s.vecDue v) = true := by simp [hruns, hon, hdue]
  rw [← updAt_eq_set hx (Vec.messaged (s.vecMasked v))]
  exact if_neg hgo

theorem State.msix_idle {v : Nat} (hdue : s.vecDue v = false) : s.msix v = s := if_pos (by simp [hdue])

/-! Precision Time Measurement (R516 to R518). -/

theorem State.ptmBegin_ready (hon : s.hif.ptmEn = true) (hlink : s.hif.link = true) (token : Option Nat) :
    s.ptmBegin token = { s with hif := { s.hif with ptmRun := some ⟨token, s.now, s.tb.warp, none⟩ } } := by
  unfold State.ptmBegin
  rw [hon, hlink]
  rfl

theorem State.ptmBegin_fails {code : Nat} (h : (s.hif.ptmEn = false ∧ code = 0x21) ∨ (s.hif.ptmEn = true ∧ s.hif.link = false ∧ code = 0x22))
    (token : Option Nat) : s.ptmBegin token = s.ptmFail token code := by
  unfold State.ptmBegin
  rcases h with ⟨hon, rfl⟩ | ⟨hon, hlink, rfl⟩
  · rw [hon]
    rfl
  · rw [hon, hlink]
    rfl

theorem State.cause_ptm (s : State) (b : Nat) :
    (s.cause b).hif.ptm = s.hif.ptm ∧ (s.cause b).hif.ptmRun = s.hif.ptmRun ∧ (s.cause b).hif.cause = s.hif.cause ||| BitVec.ofNat 32 (2 ^ b) ∧
      (s.cause b).ctr = s.ctr := by
  unfold State.cause
  dsimp only
  split <;> exact ⟨rfl, rfl, rfl, rfl⟩

/-- A correlation that fails. -/
theorem State.ptmFail_spec (s : State) (token : Option Nat) (code : Nat) :
    (s.ptmFail token code).hif.ptm = { s.hif.ptm with token := token.getD s.hif.ptm.token, code := code } ∧ (s.ptmFail token code).hif.ptmRun = none ∧
      (s.ptmFail token code).hif.cause = s.hif.cause ||| 0x200 ∧ (s.ptmFail token code).ctrAt (hifCtr 10) = ctrAdd (s.ctrAt (hifCtr 10)) 1 := by
  unfold State.ptmFail
  extract_lets _ _ r
  generalize hu : State.count _ (hifCtr 10) = u
  obtain ⟨hptm, hrun, hcause, hctr⟩ := u.cause_ptm 9
  refine ⟨by rw [hptm, ← hu]; rfl, by rw [hrun, ← hu]; rfl, by rw [hcause, ← hu]; rfl, ?_⟩
  have hcount : (u.cause 9).ctrAt (hifCtr 10) = u.ctrAt (hifCtr 10) := congrArg (fun m => (Assoc.get (hifCtr 10) m).getD 0) hctr
  rw [hcount, ← hu]
  exact State.ctrAt_count_self _ _

theorem State.ptmAuto_due (hauto : s.bit 0x110900 31 = true) (hidle : s.hif.ptmRun = none) (hfree : s.inReset = false)
    (hdue : s.tb.warp % (s.fld 0x110900 9 0 * 1000000) = 0) : s.ptmAuto = s.ptmBegin none := if_pos (by simp [hauto, hidle, hfree, hdue])

theorem State.ptmAuto_early (hearly : s.tb.warp % (s.fld 0x110900 9 0 * 1000000) ≠ 0) : s.ptmAuto = s := if_neg (by simp [hearly])

section
variable {r : PtmRun} (hrun : s.hif.ptmRun = some r)
include hrun

theorem State.ptmResponse_first (m d : Nat) (hfirst : r.firstDlg = none) : s.ptmResponse m d = { s with hif := { s.hif with
    ptmRun := some { r with began := s.now, t1 := s.tb.warp, firstDlg := some (r.t1, s.tb.warp, m) } } } := by
  unfold State.ptmResponse
  rw [hrun]
  dsimp only
  rw [hfirst]

/-- The result of a correlation, of the times that its first dialog kept. -/
def State.ptmResult (s : State) (r : PtmRun) (a b m turn : Nat) : PtmRes :=
  { token := r.token.getD s.hif.ptm.token, code := 0, seq := (s.hif.ptm.seq + 1) % 2 ^ 32, t1 := a, rtt := b - a, master := m, turn := turn,
    prop := Config.round ((((b - a : Nat) : Rat) - turn) / 2) }

theorem State.ptmResponse_second (m d : Nat) {a b m1 : Nat} (hfirst : r.firstDlg = some (a, b, m1)) :
    (s.ptmResponse m d).hif.ptm = s.ptmResult r a b m1 d ∧ (s.ptmResponse m d).hif.ptmRun = none ∧
      (s.ptmResponse m d).ctrAt (hifCtr 9) = ctrAdd (s.ctrAt (hifCtr 9)) 1 := by
  unfold State.ptmResponse
  rw [hrun]
  dsimp only
  rw [hfirst]
  dsimp only
  generalize hu : State.count _ (hifCtr 9) = u
  obtain ⟨hptm, hrun', -, hctr⟩ := u.cause_ptm 9
  refine ⟨by rw [hptm, ← hu]; rfl, by rw [hrun', ← hu]; rfl, ?_⟩
  have hcount : (u.cause 9).ctrAt (hifCtr 9) = u.ctrAt (hifCtr 9) := congrArg (fun m => (Assoc.get (hifCtr 9) m).getD 0) hctr
  rw [hcount, ← hu]
  exact State.ctrAt_count_self _ _

theorem State.ptmTimeout_over (hran : r.began + 10000000 ≤ s.now) : s.ptmTimeout = s.ptmFail r.token 0x33 := by
  unfold State.ptmTimeout
  rw [hrun]
  exact if_pos hran

theorem State.ptmTimeout_runs (hwaits : s.now < r.began + 10000000) : s.ptmTimeout = s := by
  unfold State.ptmTimeout
  rw [hrun]
  exact if_neg (Nat.not_le_of_lt hwaits)

end

end

/-- Settles O47: each row is one lemma above, and what an entry's completion leaves of its ring is said once. -/
theorem commandsStreamInterruptsAndPtmRun : Obligations.CommandsStreamInterruptsAndPtmRun := by
  intro s
  refine ⟨fun q e i hq hruns hon hroom hnext => ?fetch, fun q i hopen => ⟨fun hout => ?outside, fun hwaits => ?held,
      fun hwaits => ⟨fun hq hin hops hmints => ?unheld, fun hin hq o hops hindex hhost => ?op, fun hin hq m hmints hindex => ?mint⟩, ?abort, ?all⟩,
    fun q i st c hoff => State.cqComplete_waits hoff st c, fun q i st c hq hbme => ?complete, fun hon hruns hunread hroom howed => ?record,
    fun hopen => ⟨fun v => ?rd, ?mark, ?clear, fun m hmark hvalid => ?rewind, fun hvalid => ?lost⟩,
    fun v x hx hruns hon _ => ⟨fun hdue hmask => ?sent, fun hdue hmask => ?pending, fun hdue => ?idle⟩,
    fun tok hopen => ⟨fun hon hlink => ?begins, fun c hwhy => ?fails⟩, fun hauto hidle hfree hon hlink => ⟨fun hdue => ?auto, fun hearly => ?early⟩,
    fun r m d hrun => ⟨fun hfirst => ?first, fun a b m1 hfirst => ?second, fun hran => ?timeout, fun hwaits => ?runs⟩⟩
  case fetch =>
    have hfetch := State.cmdFetch_eq hruns hon hroom hnext
    intro s1
    have hs1 : s.fetched q i = s1 := rfl
    rw [hs1] at hfetch
    refine ⟨fun hgood hq => ?_, fun hgood hq => ?_, fun hfault => ?_, fun st hst hbad => ?_⟩
    · rw [exec_commandFetch, hfetch, hgood, if_neg (by decide), if_neg (by decide), if_pos hq]
    · rw [exec_commandFetch, hfetch, hgood, if_neg (by decide), if_neg (by decide), if_neg (by rw [hq]; decide)]
    · rw [exec_commandFetch, hfetch, if_pos hfault]
    · rw [exec_commandFetch, hfetch, hbad]
      have hne : st ≠ 0x32 ∧ st ≠ 0 := by
        rcases List.mem_cons.1 hst with rfl | hst
        · decide
        · rw [List.mem_singleton.1 hst]
          decide
      rw [if_neg hne.1, if_pos hne.2]
  case outside => rw [exec_abort, hopen, State.cqAbort_idle (.inl hout)]; rfl
  case held => rw [exec_abort, hopen, State.cqAbort_idle (.inr hwaits)]; rfl
  case unheld => rw [exec_abort, hopen, State.cqAbort_unheld hq hwaits hin hops hmints]; rfl
  case op =>
    subst hq
    obtain ⟨t, ht, hspec⟩ := State.pkeAbort_only hops hhost
    refine ⟨t, ?_, hspec⟩
    rw [exec_abort, hopen, State.cqAbort_op hwaits hin hops hindex hhost, ht, hindex]
    rfl
  case mint =>
    subst hq
    rw [exec_abort, hopen, State.cqAbort_mint hwaits hin hmints hindex, State.mintAbort_only hmints, hindex]
    rfl
  case abort => rw [exec_abort, hopen]; rfl
  case all => rw [exec_abortAll, hopen]; rfl
  case complete =>
    obtain ⟨hmem, hring⟩ := State.cqWrite_written (i := i) hq hbme st c
    rw [State.cqComplete_on hbme]
    exact ⟨_, hmem, hring, Ring.advance_tail _ _ _, Ring.complete_head _ _⟩
  case record => exact ⟨_, exec_evsRecordDeliver s, State.evsDeliver_spec hon hruns hunread hroom howed⟩
  case rd => exact congrArg Host.Outcome.next (if_neg (by simp [hopen]))
  case mark => rw [exec_evsMark, State.evsOp_open hopen]; rfl
  case clear => rw [exec_evsClear, State.evsOp_open hopen]; rfl
  case rewind => rw [exec_evsRewind, State.evsOp_open hopen, State.rewound_marked hmark hvalid]
  case lost => rw [exec_evsRewind, State.evsOp_open hopen, State.rewound_invalid hvalid]
  case sent => rw [exec_msixMessage, State.msix_due hx hruns hon hdue, hmask]; rfl
  case pending => rw [exec_msixMessage, State.msix_due hx hruns hon hdue, hmask]; rfl
  case idle => rw [exec_msixMessage, State.msix_idle hdue]
  case begins => rw [exec_ptmReq, State.ptmReq, hopen, State.ptmBegin_ready hon hlink]; rfl
  case fails =>
    obtain ⟨hptm, hrun, hcause, hcount⟩ := s.ptmFail_spec (some tok.toNat) c
    refine ⟨_, ?_, hptm, hrun, hcount, hcause⟩
    rw [exec_ptmReq, State.ptmReq, hopen, State.ptmBegin_fails hwhy]
    rfl
  case auto => rw [exec_ptmAuto, State.ptmAuto_due hauto hidle hfree hdue, State.ptmBegin_ready hon hlink]
  case early => rw [exec_ptmAuto, State.ptmAuto_early hearly]
  case first => rw [exec_ptmResponse, State.ptmResponse_first hrun m d hfirst]
  case second =>
    obtain ⟨hptm, hrun', hcount⟩ := State.ptmResponse_second hrun m d hfirst
    exact ⟨_, exec_ptmResponse s m d, hrun', by rw [hptm]; rfl, by rw [hptm]; rfl, by rw [hptm]; rfl, by rw [hptm]; rfl, by rw [hptm]; rfl,
      by rw [hptm]; rfl, by rw [hptm]; rfl, by rw [hptm]; rfl, hcount⟩
  case timeout =>
    obtain ⟨hptm, hrun', hcause, -⟩ := s.ptmFail_spec r.token 0x33
    refine ⟨_, exec_ptmTimeout s, ?_⟩
    rw [State.ptmTimeout_over hrun hran]
    exact ⟨by rw [hptm], hrun', by rw [hptm], hcause⟩
  case runs => rw [exec_ptmTimeout, State.ptmTimeout_runs hrun hwaits]

end Sys2Proof.Machine
end

section
/-! SUPPORT. An operation of the host listed among those of Bodkin that wait, and what the failure of its redundant check then brings back. -/

namespace Sys2Proof.Machine

open Sys2Proof

theorem exec_pkeResultRelease (s : State) (core : Nat) (ok : Bool) : exec (.pkeResultRelease core ok) s = .next (s.resultRelease core ok) := rfl

/-- A PUBKEY of the host on core 0, its release due. -/
def dueOp : PkeOp := { bod := false, index := 0, bytes := [0x22], resAddr := 0, core := some 0, start := 0, release := 0, code := 0, data := [] }

/-- The PUBKEY is held beside an operation of Bodkin on core 1 of the same island, and is listed once more among those of Bodkin that wait. -/
def strayWaiting : State :=
  { State.reset with
      hif := { State.reset.hif with bme := true }
      pke := { State.reset.pke with ops := [dueOp, { dueOp with bod := true, index := 1, core := some 1 }], bodWait := [dueOp] } }

theorem strayWaiting_due : strayWaiting.tally.pke.ops.find? (fun o => o.core == some 0) = some dueOp ∧ dueOp.release ≤ strayWaiting.now ∧
    strayWaiting.hif.bme = true ∧ (pkeCmd dueOp.bytes).op ∈ [0x02, 0x10, 0x11, 0x12, 0x14, 0x20, 0x22] := by decide +kernel

/-- Bodkin's operation is lost with the island's work, and what waits takes its place. -/
theorem strayWaiting_refilled : dueOp ∈ (strayWaiting.resultRelease 0 false).pke.ops := by decide +kernel

/-- Refutes O48: a failed redundant check drops the work of its island, and with an operation of Bodkin in that work the first of those that wait
for Bodkin's queue moves in; nothing in the clause keeps the operation that has just ended from being listed there, so that it is held again. -/
theorem not_operationsStartAndReleaseAtFixedTimes : ¬ Obligations.OperationsStartAndReleaseAtFixedTimes := by
  intro h
  obtain ⟨_, _, hrelease⟩ := h strayWaiting 0
  obtain ⟨hfound, hdue, hbme, hchecked⟩ := strayWaiting_due
  obtain ⟨_, _, _, hended⟩ := hrelease dueOp false hfound
  obtain ⟨_, _, hfailed⟩ := hended hdue rfl hbme
  obtain ⟨t, hexec, hgone, _⟩ := hfailed rfl hchecked (.inl rfl)
  obtain rfl : strayWaiting.resultRelease 0 false = t := Host.Outcome.next.inj ((exec_pkeResultRelease strayWaiting 0 false).symm.trans hexec)
  exact hgone strayWaiting_refilled

end Sys2Proof.Machine
end

section
/-! SUPPORT. What ends the work of an island, passes that wait for none, and the end of a pass in service. -/

namespace Sys2Proof.Machine

open Sys2Proof

theorem exec_passEnd (s : State) (k : Nat) (signatureOk restoreOk : Bool) :
    exec (.passEnd k signatureOk restoreOk) s = .next (s.passEnd k signatureOk restoreOk) := rfl

theorem exec_test (s : State) (tok : BitVec 16) (k : Nat) : exec (.test tok k) s = .next (s.bstTest tok.toNat k) := rfl

theorem exec_clearRetired (s : State) (tok : BitVec 16) (k : Nat) : exec (.clearRetired tok k) s = .next (s.bstClear tok.toNat k) := rfl

/-! Work that ends (R23, R566). -/

/-- Only the parts that hold work in hand have changed: FeRAM, the fault manager, the mode and the register sets stand. -/
def State.WorkOnly (s t : State) : Prop :=
  t = { s with ctr := t.ctr, cmts := t.cmts, tb := t.tb, tin := t.tin, gns := t.gns, ports := t.ports, wv := t.wv, hif := t.hif,
               pke := t.pke, mgt := t.mgt }

section
variable {r s t : State}

theorem State.WorkOnly.refl (s : State) : s.WorkOnly s := rfl

theorem State.WorkOnly.trans (a : r.WorkOnly s) (b : s.WorkOnly t) : r.WorkOnly t := by
  unfold State.WorkOnly at *
  rw [b, a]

theorem State.WorkOnly.ite {a b : State} {c : Prop} [Decidable c] (ha : r.WorkOnly a) (hb : r.WorkOnly b) : r.WorkOnly (if c then a else b) := by
  split <;> assumption

theorem State.WorkOnly.foldl {α : Type} {f : State → α → State} (hf : ∀ u x, State.WorkOnly u (f u x)) (l : List α) (s : State) :
    s.WorkOnly (l.foldl f s) := by
  induction l generalizing s with
  | nil => exact .refl s
  | cons x l ih => exact (hf s x).trans (ih _)

theorem State.WorkOnly.fe (h : s.WorkOnly t) : t.fe = s.fe := by rw [h]

theorem State.WorkOnly.md (h : s.WorkOnly t) : t.md = s.md := by rw [h]

theorem State.WorkOnly.act (h : s.WorkOnly t) : t.act = s.act := by rw [h]

theorem State.WorkOnly.fmu (h : s.WorkOnly t) : t.fmu = s.fmu := by rw [h]

end

section
variable (s : State)

theorem State.Answered.workOnly {t : State} (h : s.Answered t) : s.WorkOnly t := by
  unfold State.WorkOnly
  rw [h.rest]

theorem State.cause_workOnly (b : Nat) : s.WorkOnly (s.cause b) := (s.cause_answered b).workOnly

theorem State.cqFinish_workOnly (c : CompWait) : s.WorkOnly (s.cqFinish c) := (s.cqFinish_answered c).workOnly

theorem State.pkeAbort_workOnly (o : PkeOp) : s.WorkOnly (s.pkeAbort o) := by
  unfold State.pkeAbort State.cqComplete
  extract_lets _ s1 s2
  have h2 : s.WorkOnly s2 := by
    unfold s2 State.zeroCore
    split <;> rfl
  exact .ite (h2.trans rfl) (h2.trans (s2.cqFinish_workOnly _))

theorem State.mintAbort_workOnly (m : Mint) (code : Nat) : s.WorkOnly (s.mintAbort m code) := by
  unfold State.mintAbort State.cqComplete
  extract_lets _ s1
  have h1 : s.WorkOnly s1 := rfl
  exact .ite (h1.trans (s1.cqFinish_workOnly _)) (h1.trans (s1.cqFinish_workOnly _))

theorem State.abortHeld_workOnly (all : Bool) : s.WorkOnly (s.abortHeld all) := by
  unfold State.abortHeld
  extract_lets _ _ s0 s1
  have h0 : s.WorkOnly s0 := .ite rfl (.refl s)
  have h1 : s0.WorkOnly s1 := .foldl (fun u o => u.pkeAbort_workOnly o) _ _
  exact (h0.trans h1).trans (.foldl (fun u m => u.mintAbort_workOnly m 0x31) _ _)

theorem State.stepStat_workOnly (x : StepRec) (st code : Nat) : s.WorkOnly (s.stepStat x st code) := by
  unfold State.stepStat
  extract_lets _ _ _ s1
  have h1 : s.WorkOnly s1 := rfl
  exact .ite (.refl s) (.ite (h1.trans (s1.cause_workOnly 3)) h1)

theorem State.abandonSteps_workOnly : s.WorkOnly s.abandonSteps := by
  unfold State.abandonSteps
  extract_lets s1 _ tb
  have h1 : s.WorkOnly s1 := by
    unfold s1
    split
    · exact s.stepStat_workOnly _ _ _
    · exact .refl s
  exact h1.trans rfl

theorem State.closeAllMeas_workOnly : s.WorkOnly s.closeAllMeas := by
  refine .foldl (fun u n => ?_) _ s
  unfold State.closeMeas State.fifoPut State.loseRecord
  split
  · exact .refl u
  · refine State.WorkOnly.trans ?_ (rfl : State.WorkOnly _ (State.setTin _ _ _))
    refine .ite rfl (.ite (.trans ?_ (State.cause_workOnly _ 8)) rfl)
    rfl

theorem State.abortUpdate_workOnly : s.WorkOnly s.abortUpdate := .ite rfl (.refl s)

theorem State.workEnded_workOnly : s.WorkOnly s.workEnded :=
  have hfree : s.WorkOnly s.freeContexts := rfl
  have hcommits (u : State) : u.WorkOnly u.abandonCommits := rfl
  ((((hfree.trans (State.abortHeld_workOnly _ true)).trans (hcommits _)).trans (State.abandonSteps_workOnly _)).trans
    (State.closeAllMeas_workOnly _)).trans (State.abortUpdate_workOnly _)

theorem State.dropCommitted_workOnly (n st : Nat) : s.WorkOnly (s.dropCommitted n st) := by
  obtain ⟨kept, hif, heq⟩ := s.dropCommitted_eq n st
  rw [heq]
  rfl

/-- The work of an island discarded leaves the islands as they were (R23). -/
theorem State.discardWork_workOnly (k : Nat) : s.WorkOnly (s.discardWork k) := by
  unfold State.discardWork
  extract_lets hand s1
  have h1 : s.WorkOnly s1 := .foldl (fun u o => u.pkeAbort_workOnly o) _ _
  exact .ite rfl (.ite (.ite (h1.trans (State.abortUpdate_workOnly _)) h1) (.ite (.foldl (fun u m => u.mintAbort_workOnly m 0x32) _ _)
    (.ite rfl (.ite rfl (.ite (s.dropCommitted_workOnly _ _) (.refl s))))))

end

/-! FeRAM through the SAFE reaction (R582). -/

section
variable {s : State}

theorem State.setMode_safe_retired (s : State) (cause : Nat) : (s.setMode .safe cause).fe.retired = s.fe.retired := by
  unfold State.setMode
  extract_lets old s1 _ s1b s2 _ md _ gns _ s3 s4 s5
  have hs1 : s1.fe.retired = s.fe.retired := by
    unfold s1 State.writeModel
    split
    · dsimp only
      split <;> rfl
    · rfl
  have hs2 : s2.fe.retired = s.fe.retired := by
    refine .trans ?_ hs1
    unfold s2 State.leaveMaintain State.thawWeft
    split
    · dsimp only
      split
      · split <;> rfl
      · rfl
    · rfl
  have hs4 : s4.fe.retired = s3.fe.retired := by
    unfold s4 State.log
    split
    · rfl
    · rw [State.logAs, State.count_fe, FeSt.retired_logged]
  calc s5.outputsFollow.fe.retired
      = s4.fe.retired := by rw [show s5.outputsFollow = _ from s5.outputsFollow_outputsOnly]
    _ = s3.fe.retired := hs4
    _ = s2.fe.retired := by unfold s3; rw [State.cause_fe]
    _ = s.fe.retired := hs2

theorem State.safeReady_fe (s : State) : s.safeReady.fe = s.fe := by
  have hended := s.workEnded_workOnly.fe
  unfold State.safeReady
  generalize s.workEnded = u at *
  exact hended

/-- The SAFE reaction retires nothing and reinstates nothing. -/
theorem State.safeReaction_retired {tag cause : Nat} {pathB : Bool} (h : s.md.mode ≠ .safe) :
    (s.safeReaction tag cause pathB).fe.retired = s.fe.retired := by
  have hshut : ((s.gateShut tag cause pathB).causeKept tag cause).fe = s.fe := by
    show (s.gateShut tag cause pathB).fe = s.fe
    rw [s.gateShut_eq]
  rw [State.safeReaction_outside h]
  generalize (s.gateShut tag cause pathB).causeKept tag cause = u at *
  have hmoded : (u.safeModed cause).fe.retired = s.fe.retired := by
    rw [State.safeModed, State.setPort_fe, State.setMode_safe_retired, State.safeReady_fe, hshut]
  rw [u.safeActions_eq]
  split
  · exact hmoded
  · exact hmoded

theorem State.safeReaction_islands {tag cause : Nat} {pathB : Bool} (h : s.md.mode ≠ .safe) :
    (s.safeReaction tag cause pathB).fmu.islands = s.fmu.islands := by
  have hrep : (s.safeReported tag cause).fmu.islands = s.fmu.islands := by
    unfold State.safeReported
    split
    · rfl
    · rw [s.faultReport_fmu]
  rw [(State.safeReaction_entryFrame (tag := tag) (cause := cause) (pathB := pathB) h).fmu]
  show (s.gateShut tag cause pathB).fmu.islands = s.fmu.islands
  unfold State.gateShut
  dsimp only
  rw [State.noteFault_eq]
  exact hrep

end

/-! Islands (R571). -/

section
variable {s : State} {k : Nat}

theorem State.isl_setIsl (s : State) (k j : Nat) (f : Island → Island) :
    (s.setIsl k f).isl j = if k = j ∧ j < s.fmu.islands.length then f (s.isl j) else s.isl j := by
  unfold State.isl State.setIsl updAt
  simp only [List.getD_eq_getElem?_getD, List.getElem?_modify]
  by_cases hj : j < s.fmu.islands.length
  · rw [List.getElem?_eq_getElem hj]
    split <;> simp_all
  · rw [List.getElem?_eq_none (by omega)]
    simp [hj]

theorem State.isl_setIsl_self (f : Island → Island) (h : k < s.fmu.islands.length) : (s.setIsl k f).isl k = f (s.isl k) := by
  rw [State.isl_setIsl, if_pos ⟨rfl, h⟩]

theorem State.isl_setIsl_ne {j : Nat} (f : Island → Island) (h : j ≠ k) : (s.setIsl k f).isl j = s.isl j := by
  rw [State.isl_setIsl, if_neg fun hj => h hj.1.symm]

theorem State.isl_congr {t : State} (h : t.fmu.islands = s.fmu.islands) (j : Nat) : t.isl j = s.isl j := by
  unfold State.isl
  rw [h]

theorem State.discardWork_isl (s : State) (k j : Nat) : (s.discardWork k).isl j = s.isl j :=
  State.isl_congr (by rw [(s.discardWork_workOnly k).fmu]) j

theorem State.untargeted (h : ∀ i ∈ s.fmu.islands, i.targeted = false) (j : Nat) : (s.isl j).targeted = false := by
  unfold State.isl
  rw [List.getD_eq_getElem?_getD]
  cases hj : s.fmu.islands[j]? with
  | none => rfl
  | some i => exact h i (List.mem_of_getElem? hj)

/-- An island that is scanned is one of the list. -/
theorem State.lt_of_scanAt {at_ : Nat} (h : (s.isl k).scanAt = some at_) : k < s.fmu.islands.length := by
  refine Nat.lt_of_not_le fun hle => ?_
  rw [State.isl, List.getD_eq_default _ _ hle] at h
  cases h

/-! Passes that wait (R576, R579). -/

/-- A targeted pass may start: it waits, its island is free and fewer than two are under test. -/
def State.passStarts (s : State) (k : Nat) : Bool := (s.isl k).targeted && !(s.isl k).busy && decide (s.underTest.length < 2)

/-- No pass waits: none is started. -/
theorem State.startWaiting_idle (h : ∀ j, (s.isl j).targeted = false) : s.startWaiting = s := by
  unfold State.startWaiting
  exact foldl_idle (c := State.passStarts) (fun s k => s.beginPass k true) fun j _ => by simp [State.passStarts, h j]

theorem State.offlineNext_idle (h : s.md.mode ≠ .maintain) : s.offlineNext = s := by
  unfold State.offlineNext
  split
  · next hmode _ => exact absurd hmode h
  · rfl

/-- The one pass that waits starts where its island is free and fewer than two are under test. -/
theorem State.startWaiting_one (hk : k < 24) (htarget : ∀ j, (s.isl j).targeted = decide (j = k)) (hbusy : (s.isl k).busy = false)
    (hroom : s.underTest.length < 2) : s.startWaiting = s.beginPass k true := by
  have hother {j : Nat} (hj : j ≠ k) : ((s.beginPass k true).isl j).targeted = false := by
    unfold State.beginPass
    rw [if_pos rfl, State.isl_setIsl_ne _ hj, State.discardWork_isl, htarget]
    simpa using hj
  unfold State.startWaiting
  refine foldl_one (c := State.passStarts) (f := fun s k => s.beginPass k true) List.nodup_range (List.mem_range.2 hk) (fun j _ => ?_) fun j _ hj => ?_
  · by_cases hj : j = k
    · subst hj
      simp [State.passStarts, htarget, hbusy, hroom]
    · simp [State.passStarts, htarget, hj]
  · simp [State.passStarts, hother hj]

/-- The state in which a pass of an island has been asked for by an operation of BST_CTL. -/
def State.passAsked (s : State) (token k : Nat) : State :=
  (s.setIsl k fun i => { i with ctl := some token }).setIsl k fun i => { i with targeted := true }

theorem State.passAsked_isl (token j : Nat) (hlt : k < s.fmu.islands.length) :
    (s.passAsked token k).isl j = if j = k then { s.isl k with ctl := some token, targeted := true } else s.isl j := by
  unfold State.passAsked
  by_cases hj : j = k
  · subst hj
    rw [State.isl_setIsl_self _ (by simpa using hlt), State.isl_setIsl_self _ hlt, if_pos rfl]
  · rw [State.isl_setIsl_ne _ hj, State.isl_setIsl_ne _ hj, if_neg hj]

theorem State.passAsked_underTest (token : Nat) (hlt : k < s.fmu.islands.length) : (s.passAsked token k).underTest = s.underTest := by
  refine List.filter_congr fun j _ => ?_
  rw [State.passAsked_isl token j hlt]
  split
  · next hj =>
    rw [hj]
    rfl
  · rfl

/-- A pass asked for of a free island begins, its work in hand discarded, and leaves FeRAM, the mode and the register sets (R574, R576). -/
theorem State.target_begins (token : Nat) (hk : k < 24) (hlt : k < s.fmu.islands.length) (hnone : ∀ i ∈ s.fmu.islands, i.targeted = false)
    (hbusy : (s.isl k).busy = false) (hroom : s.underTest.length < 2) :
    let t := (s.setIsl k fun i => { i with ctl := some token }).target k
    t.fe = s.fe ∧ t.md = s.md ∧ t.act = s.act ∧ t.isl k = { s.isl k with st := .underTest, draining := true, ctl := some token } := by
  have hself := State.passAsked_isl (s := s) token k hlt
  rw [if_pos rfl] at hself
  have hstart : (s.passAsked token k).startWaiting = (s.passAsked token k).beginPass k true := by
    refine State.startWaiting_one hk (fun j => ?_) (by rw [hself]; exact hbusy) (by rw [State.passAsked_underTest token hlt]; exact hroom)
    rw [State.passAsked_isl token j hlt]
    by_cases hj : j = k
    · simp [hj]
    · simp [hj, State.untargeted hnone j]
  have hwork := (s.passAsked token k).discardWork_workOnly k
  have hlen : k < ((s.passAsked token k).discardWork k).fmu.islands.length := by
    rw [hwork.fmu]
    simpa [State.passAsked] using hlt
  intro t
  have ht : t = (s.passAsked token k).beginPass k true := hstart
  rw [ht]
  refine ⟨hwork.fe, hwork.md, hwork.act, ?_⟩
  unfold State.beginPass
  rw [if_pos rfl, State.isl_setIsl_self _ hlen, State.discardWork_isl, hself]
  show ({ s.isl k with st := .underTest, draining := true, targeted := false, ctl := some token } : Island) = _
  rw [← State.untargeted hnone k]

end

/-! BST_CTL (R589, R590). -/

section
variable {s : State} {k : Nat}

/-- A refused operation answers its code at once. -/
theorem State.bstTest_refused {token code : Nat} (hw : s.noWrites = false) (hcode : s.bstRefused k true = code) (h : code ≠ 0) :
    s.bstTest token k = s.bstCtl token code := by
  unfold State.bstTest
  rw [if_neg (ne_true_of_eq_false hw), hcode]
  exact if_pos h

theorem State.bstClear_refused {token code : Nat} (hw : s.noWrites = false) (hcode : s.bstRefused k false = code) (h : code ≠ 0) :
    s.bstClear token k = s.bstCtl token code := by
  unfold State.bstClear
  rw [if_neg (ne_true_of_eq_false hw), hcode]
  exact if_pos h

theorem State.bstRefused_outside (isTest : Bool) (h : 24 ≤ k) : s.bstRefused k isTest = 0x10 := if_pos h

theorem State.bstRefused_boot (hk : k < 24) (h : islMethod k = 0) : s.bstRefused k true = 0x20 := by
  unfold State.bstRefused
  rw [if_neg (by omega), if_pos ⟨rfl, h⟩]

/-- In a running mode and in MAINTAIN a pass can be asked for. -/
theorem Mode.allowsPass {m : Mode} (h : m.running = true ∨ m = .maintain) : (m == .boot || m == .calibrate || m == .safe) = false := by
  cases m <;> simp_all [Mode.running]

/-- Of an island that may be asked for, only one under test or waiting is refused. -/
theorem State.bstRefused_eq (isTest : Bool) (hk : k < 24) (hmethod : isTest = true → islMethod k ≠ 0)
    (hmode : s.md.mode.running = true ∨ s.md.mode = .maintain) :
    s.bstRefused k isTest = if (s.isl k).targeted || (s.isl k).busy then 0x25 else 0 := by
  unfold State.bstRefused
  rw [if_neg (by omega), if_neg fun h => hmethod h.1 h.2, if_neg (ne_true_of_eq_false (Mode.allowsPass hmode))]

/-- The state whose FeRAM knows neither a retirement nor an error of the island (R582). -/
def State.retirementCleared (s : State) (k : Nat) : State :=
  { s with fe := { s.fe with retired := s.fe.retired.filter (· ≠ k), errs := s.fe.errs.filter (fun e => e.1 ≠ k) } }

theorem State.bstClear_free {token : Nat} (hw : s.noWrites = false) (hcode : s.bstRefused k false = 0) : s.bstClear token k =
    if islMethod k = 0 then (s.retirementCleared k).bstCtl token 0
    else ((s.retirementCleared k).setIsl k fun i => { i with ctl := some token }).target k := by
  have hfe : ({ s.fe with retired := s.fe.retired.filter (· != k), errs := s.fe.errs.filter (fun e => e.1 != k) } : FeSt) =
      (s.retirementCleared k).fe := by
    unfold State.retirementCleared
    dsimp only
    rw [show (fun j => j != k) = fun j => decide (j ≠ k) from funext fun j => Bool.eq_iff_iff.2 (by simp),
      show (fun e : Nat × Nat => e.1 != k) = fun e => decide (e.1 ≠ k) from funext fun e => Bool.eq_iff_iff.2 (by simp)]
  unfold State.bstClear
  rw [if_neg (ne_true_of_eq_false hw), hcode, if_neg (not_not.2 rfl), hfe]
  rfl

theorem State.bstTest_free {token : Nat} (hw : s.noWrites = false) (hcode : s.bstRefused k true = 0) :
    s.bstTest token k = (s.setIsl k fun i => { i with ctl := some token }).target k := by
  unfold State.bstTest
  rw [if_neg (ne_true_of_eq_false hw), hcode]
  exact if_neg (not_not.2 rfl)

end

/-! The end of a pass in service (R574, R580, R582). -/

section
variable {s : State} {k : Nat}

/-- Of an island that is not a port's: none of METHOD P. -/
theorem islMethod_not_port (h : islMethod k = 1 ∨ islMethod k = 2) : islMethod k ≠ 3 ∧ ¬(9 ≤ k ∧ k < 13) := by
  have h3 : islMethod k ≠ 3 := by omega
  refine ⟨h3, fun hport => h3 ?_⟩
  unfold islMethod
  rw [if_neg (by omega), if_neg (by omega), if_pos hport.1, if_neg (by omega)]

/-- The state in which the result of a pass is noted and counted. -/
def State.passNoted (s : State) (k : Nat) (ok : Bool) : State :=
  (s.setIsl k fun i => { i with scanAt := none, last := if ok then 0 else 0x30 }).count (if ok then 0xD0200 else 0xD0208)

/-- The operation of BST_CTL that waited for the pass answered. -/
def State.passAnswered (s : State) (k : Nat) (ok : Bool) : State := (s.setIsl k fun i => { i with offline := false }).bstAnswer k ok

theorem State.passEnd_service {at_ : Nat} {signatureOk restoreOk : Bool} (hscan : (s.isl k).scanAt = some at_) (hdue : at_ + 2000000 ≤ s.now)
    (hmode : s.md.mode ≠ .boot) (h : (signatureOk && (decide (islMethod k ≠ 2) || restoreOk)) = ok) :
    s.passEnd k signatureOk restoreOk = (s.passNoted k ok).servicePassEnd k ok := by
  have hboot : (s.md.mode == .boot) = false := by simpa using hmode
  have hok : (signatureOk && ((s.md.mode == .boot) || decide (islMethod k ≠ 2) || restoreOk)) = ok := by rw [hboot, Bool.false_or, h]
  unfold State.passEnd
  rw [hscan]
  dsimp only
  rw [if_neg (by omega), hok, if_neg (ne_true_of_eq_false hboot)]
  rfl

theorem State.writeRoots_none (h : (s.isl k).rootRec = []) (action : Nat) : s.writeRoots k action = s.setIsl k fun i => { i with rootRec := [] } := by
  unfold State.writeRoots
  rw [h]
  rfl

/-- An island of which only its own record is other than it was. -/
theorem State.passAnswered_spec (ok : Bool) (hlt : k < s.fmu.islands.length) : let t := s.passAnswered k ok
    t = { s with fmu := t.fmu } ∧ t.fmu.islands.length = s.fmu.islands.length ∧ (∀ j, j ≠ k → t.isl j = s.isl j) ∧
    t.isl k = { s.isl k with offline := false, ctl := none } ∧
    ∀ tok, (s.isl k).ctl = some tok → t.fmu.ctlToken = tok ∧ t.fmu.ctlCode = if ok then 0 else 0x30 := by
  let u := s.setIsl k fun i => { i with offline := false }
  have hu : u.isl k = { s.isl k with offline := false } := State.isl_setIsl_self _ hlt
  have hlen : k < u.fmu.islands.length := by simpa [u] using hlt
  intro t
  have ht : t = u.bstAnswer k ok := rfl
  unfold State.bstAnswer at ht
  clear_value t
  split at ht
  · next tok htok =>
    have htok' : (s.isl k).ctl = some tok := by rw [hu] at htok; exact htok
    have hislands : t.fmu.islands = (u.setIsl k fun i => { i with ctl := none }).fmu.islands := by rw [ht]
    refine ⟨by rw [ht]; rfl, by rw [hislands]; simp [u], fun j hj => ?_, ?_, fun tok2 h2 => ?_⟩
    · rw [State.isl_congr hislands, State.isl_setIsl_ne _ hj, State.isl_setIsl_ne _ hj]
    · rw [State.isl_congr hislands, State.isl_setIsl_self _ hlen, hu]
    · rw [ht, ← Option.some.inj (htok'.symm.trans h2)]
      exact ⟨rfl, rfl⟩
  · next hnone =>
    have hnone' : (s.isl k).ctl = none := by rw [hu] at hnone; exact hnone
    rw [ht]
    refine ⟨rfl, by simp [u], fun j hj => State.isl_setIsl_ne _ hj, by rw [hu, ← hnone'], fun tok htok => ?_⟩
    rw [hnone'] at htok
    cases htok

/-- The state after a pass that succeeded: the island returns, unless it is retired. -/
def State.passBack (s : State) (k : Nat) : State :=
  let t := (s.passAnswered k true).setIsl k fun i => { i with rootRec := [] }
  t.setIsl k fun i => { i with st := if t.fe.retired.contains k then .retired else .inService }

/-- The state after a pass that failed: a lasting error, for which the island is retired. -/
def State.passLost (s : State) (k : Nat) : State :=
  ((((s.passAnswered k false).addErr k).count (fmuCtr 7)).setIsl k fun i => { i with rootRec := [] }).retire k

/-- Without an offline test and with no other pass waiting, nothing follows the decision about the island. -/
theorem State.offline_follows {t : State} (hnone : ∀ j, (t.isl j).targeted = false) (hmode : t.md.mode ≠ .maintain) :
    t.startWaiting.offlineNext = t := by
  rw [State.startWaiting_idle hnone, State.offlineNext_idle hmode]

theorem State.passAnswered_rootRec {ok : Bool} (hlt : k < s.fmu.islands.length) (hroot : (s.isl k).rootRec = []) :
    ((s.passAnswered k ok).isl k).rootRec = [] := by
  obtain ⟨-, -, -, hself, -⟩ := State.passAnswered_spec (s := s) ok hlt
  rw [hself]
  exact hroot

theorem State.servicePassEnd_passed (hlt : k < s.fmu.islands.length) (hroot : (s.isl k).rootRec = []) (hoff : (s.isl k).offline = false)
    (hmode : s.md.mode ≠ .safe) (hport : islMethod k ≠ 3) : s.servicePassEnd k true = (s.passBack k).startWaiting.offlineNext := by
  have hmd : (s.passAnswered k true).md.mode ≠ .safe := by rw [(State.passAnswered_spec (s := s) true hlt).1]; exact hmode
  have hrec := State.passAnswered_rootRec (ok := true) hlt hroot
  unfold State.servicePassEnd
  extract_lets root off s1 s2 s3
  have hs3 : s3 = s.passAnswered k true := rfl
  have hclass : (if (true && !root) = true then (false, s3) else s3.classify k true) = (false, s3) := if_pos (by simp [root, hroot])
  rw [hclass]
  dsimp -zeta only
  extract_lets s5 back s6 _ s7
  have hs5 : s5 = (s.passAnswered k true).setIsl k fun i => { i with rootRec := [] } := State.writeRoots_none hrec 1
  have hs6 : s6 = s.passBack k := by
    have hsafe : ¬(s5.md.mode == .safe) = true := by rw [hs5]; simpa using hmd
    unfold s6 back
    rw [if_neg Bool.false_ne_true, if_neg hsafe, if_neg (by simp [hport]), hs5]
    rfl
  have hs7 : s7 = s6 := by
    unfold s7
    split
    · exact if_neg (by simp [off, hoff])
    · rfl
  rw [hs7, hs6]

theorem State.servicePassEnd_failed (hlt : k < s.fmu.islands.length) (hroot : (s.isl k).rootRec = []) (hoff : (s.isl k).offline = false) :
    s.servicePassEnd k false = (s.passLost k).startWaiting.offlineNext := by
  let u := (s.passAnswered k false).addErr k
  have hrec : ((u.count (fmuCtr 7)).isl k).rootRec = [] := State.passAnswered_rootRec (ok := false) hlt hroot
  unfold State.servicePassEnd
  extract_lets root off s1 s2 s3
  have hs3 : s3 = u := if_neg (by simp [root, hroot])
  have hclass : (if (false && !root) = true then (false, s3) else s3.classify k false) = (true, u.count (fmuCtr 7)) := by rw [hs3]; rfl
  rw [hclass]
  dsimp -zeta only
  extract_lets s5 back s6 _ s7
  have hs5 : s5 = (u.count (fmuCtr 7)).setIsl k fun i => { i with rootRec := [] } := State.writeRoots_none hrec 2
  have hs6 : s6 = s.passLost k := by
    unfold s6
    rw [if_pos rfl, hs5]
    rfl
  have hs7 : s7 = s6 := by
    unfold s7
    split
    · exact if_neg (by simp [off, hoff])
    · rfl
  rw [hs7, hs6]

/-- The pass that succeeded: nothing but the island's own record has changed, and the operation that waited has its code. -/
theorem State.passBack_spec (hlt : k < s.fmu.islands.length) (hin : k ∉ s.fe.retired) : let t := s.passBack k
    t = { s with fmu := t.fmu } ∧ (∀ j, j ≠ k → t.isl j = s.isl j) ∧
    t.isl k = { s.isl k with offline := false, ctl := none, rootRec := [], st := .inService } ∧
    ∀ tok, (s.isl k).ctl = some tok → t.fmu.ctlToken = tok ∧ t.fmu.ctlCode = 0 := by
  obtain ⟨hrest, hlen, hother, hself, hcode⟩ := State.passAnswered_spec (s := s) true hlt
  have hback : s.passBack k = ((s.passAnswered k true).setIsl k fun i => { i with rootRec := [] }).setIsl k fun i =>
      { i with st := if (s.passAnswered k true).fe.retired.contains k then .retired else .inService } := rfl
  generalize s.passAnswered k true = u at *
  have hin : u.fe.retired.contains k = false := by rw [hrest]; simpa using hin
  have hlt1 : k < u.fmu.islands.length := by rwa [hlen]
  rw [hin] at hback
  intro t
  have ht : t = _ := hback
  clear_value t
  refine ⟨?_, fun j hj => ?_, ?_, fun tok htok => ?_⟩
  · rw [ht, hrest]; rfl
  · rw [ht, State.isl_setIsl_ne _ hj, State.isl_setIsl_ne _ hj, hother j hj]
  · rw [ht, State.isl_setIsl_self _ (by simpa using hlt1), State.isl_setIsl_self _ hlt1, hself]
    rfl
  · rw [ht]
    exact hcode tok htok

/-- The state in which an island has been retired, before it is asked whether the part can do without it. -/
def State.islandLost (s : State) (k : Nat) : State := s.noteDegraded ((s.addRetired k).setIsl k fun i => { i with st := .retired })

theorem State.retire_eq (hport : ¬(9 ≤ k ∧ k < 13)) : s.retire k =
    if (s.vital k && s.md.mode != .boot) = true then (s.islandLost k).safeReaction (0x3000 + k) 0x3A false else s.islandLost k := by
  have hmd : (s.islandLost k).md = s.md := by
    rw [State.islandLost, State.noteDegraded_eq]
    show (s.addRetired k).md = s.md
    rw [(s.addRetired_spec k).1]
  unfold State.retire
  extract_lets vital s1 s2 s3
  have hs3 : s3 = s.islandLost k := if_neg hport
  rw [hs3, hmd]

theorem State.islandLost_spec (hlt : k < s.fmu.islands.length) : let t := s.islandLost k
    t = { s with fe := t.fe, fmu := t.fmu, hif := t.hif } ∧ k ∈ t.fe.retired ∧ t.isl k = { s.isl k with st := .retired } ∧
    ∀ j, j ≠ k → t.isl j = s.isl j := by
  obtain ⟨hadd, hret⟩ := s.addRetired_spec k
  have hnote := State.noteDegraded_eq s ((s.addRetired k).setIsl k fun i => { i with st := .retired })
  have hmem : k ∈ (s.addRetired k).fe.retired := by
    rw [hret]
    split
    · assumption
    · simp
  intro t
  have ht : t = _ := hnote
  have hislands : t.fmu.islands = (s.setIsl k fun i => { i with st := .retired }).fmu.islands := by rw [ht, hadd]; rfl
  clear_value t
  refine ⟨?_, ?_, ?_, fun j hj => ?_⟩
  · rw [ht, hadd]; rfl
  · rw [ht]; exact hmem
  · rw [State.isl_congr hislands, State.isl_setIsl_self _ hlt]
  · rw [State.isl_congr hislands, State.isl_setIsl_ne _ hj]

/-- The state in which the error that a failed pass found is counted and remembered. -/
def State.passErred (s : State) (k : Nat) : State :=
  (((s.passAnswered k false).addErr k).count (fmuCtr 7)).setIsl k fun i => { i with rootRec := [] }

theorem State.passErred_spec (hlt : k < s.fmu.islands.length) : let t := s.passErred k
    t = { s with fe := t.fe, fmu := t.fmu, ctr := t.ctr } ∧ t.fmu.islands.length = s.fmu.islands.length ∧
    (∀ j, j ≠ k → t.isl j = s.isl j) ∧ t.isl k = { s.isl k with offline := false, ctl := none, rootRec := [] } := by
  obtain ⟨hrest, hlen, hother, hself, -⟩ := State.passAnswered_spec (s := s) false hlt
  have hlt1 : k < (((s.passAnswered k false).addErr k).count (fmuCtr 7)).fmu.islands.length := by
    show k < (s.passAnswered k false).fmu.islands.length
    rwa [hlen]
  refine ⟨?_, ?_, fun j hj => ?_, ?_⟩
  · unfold State.passErred
    rw [hrest]
    rfl
  · unfold State.passErred
    rw [State.setIsl_fmu, updAt_length]
    exact hlen
  · unfold State.passErred
    rw [State.isl_setIsl_ne _ hj]
    exact hother j hj
  · unfold State.passErred
    rw [State.isl_setIsl_self _ hlt1]
    show ({ (s.passAnswered k false).isl k with rootRec := [] } : Island) = _
    rw [hself]

/-- Which islands are essential depends on nothing but which are retired (R581). -/
theorem State.vital_congr {t : State} (h : ∀ j, (t.isl j).st = (s.isl j).st) : t.vital k = s.vital k := by
  unfold State.vital
  rw [h, h]

/-- What holds of each island as it did, but for what a pass notes. -/
structure State.SameIslands (s t : State) : Prop where
  length : t.fmu.islands.length = s.fmu.islands.length
  st : ∀ j, (t.isl j).st = (s.isl j).st
  targeted : ∀ j, (t.isl j).targeted = (s.isl j).targeted

theorem State.SameIslands.of {t : State} {i : Island} (hlen : t.fmu.islands.length = s.fmu.islands.length)
    (hother : ∀ j, j ≠ k → t.isl j = s.isl j) (hself : t.isl k = i) (hst : i.st = (s.isl k).st) (htarget : i.targeted = (s.isl k).targeted) :
    s.SameIslands t := by
  refine ⟨hlen, fun j => ?_, fun j => ?_⟩
  · by_cases hj : j = k
    · rw [hj, hself, hst]
    · rw [hother j hj]
  · by_cases hj : j = k
    · rw [hj, hself, htarget]
    · rw [hother j hj]

/-- The state in which a failed pass has been noted and its error remembered. -/
def State.passFailed (s : State) (k : Nat) : State := (s.passNoted k false).passErred k

theorem State.passNoted_spec (ok : Bool) (hlt : k < s.fmu.islands.length) : let t := s.passNoted k ok
    t = { s with fmu := t.fmu, ctr := t.ctr } ∧ t.fmu.islands.length = s.fmu.islands.length ∧ (∀ j, j ≠ k → t.isl j = s.isl j) ∧
    t.isl k = { s.isl k with scanAt := none, last := if ok then 0 else 0x30 } :=
  ⟨rfl, updAt_length _ _ _, fun _ hj => State.isl_setIsl_ne _ hj, State.isl_setIsl_self _ hlt⟩

theorem State.passFailed_spec (hlt : k < s.fmu.islands.length) : let t := s.passFailed k
    t = { s with fe := t.fe, fmu := t.fmu, ctr := t.ctr } ∧ s.SameIslands t ∧ (t.isl k).last = 0x30 := by
  obtain ⟨hrest1, hlen1, hother1, hself1⟩ := State.passNoted_spec (s := s) false hlt
  obtain ⟨hrest2, hlen2, hother2, hself2⟩ := State.passErred_spec (s := s.passNoted k false) (by rwa [hlen1])
  refine ⟨?_, .of (hlen2.trans hlen1) (fun j hj => (hother2 j hj).trans (hother1 j hj)) hself2 ?_ ?_, ?_⟩
  · unfold State.passFailed
    rw [hrest2, hrest1]
  · rw [hself1]
  · rw [hself1]
  · unfold State.passFailed
    rw [hself2, hself1]
    rfl

/-- A failed pass retires the island, and the part goes on where it can do without it or enters SAFE (R581, R582). -/
theorem State.passFailed_retired (hlt : k < s.fmu.islands.length) (hmode : s.md.mode ≠ .boot) (hmethod : islMethod k = 1 ∨ islMethod k = 2) :
    (s.passFailed k).retire k = if s.vital k = true then ((s.passFailed k).islandLost k).safeReaction (0x3000 + k) 0x3A false
      else (s.passFailed k).islandLost k := by
  obtain ⟨hrest, hsame, -⟩ := State.passFailed_spec hlt
  have hmd : ((s.passFailed k).md.mode != .boot) = true := by rw [hrest]; simpa using hmode
  rw [State.retire_eq (islMethod_not_port hmethod).2, State.vital_congr hsame.st, hmd, Bool.and_true]

theorem State.passEnd_failed {at_ : Nat} (restoreOk : Bool) (hscan : (s.isl k).scanAt = some at_) (hdue : at_ + 2000000 ≤ s.now)
    (hmode : s.md.mode ≠ .boot) (hroot : (s.isl k).rootRec = []) (hoff : (s.isl k).offline = false) :
    s.passEnd k false restoreOk = ((s.passFailed k).retire k).startWaiting.offlineNext := by
  have hlt := State.lt_of_scanAt hscan
  obtain ⟨-, hlen, -, hself⟩ := State.passNoted_spec (s := s) false hlt
  rw [State.passEnd_service (ok := false) hscan hdue hmode rfl, State.servicePassEnd_failed (by rwa [hlen]) (by rwa [hself]) (by rwa [hself])]
  rfl

theorem State.passEnd_passed {at_ : Nat} (hscan : (s.isl k).scanAt = some at_) (hdue : at_ + 2000000 ≤ s.now)
    (hboot : s.md.mode ≠ .boot) (hsafe : s.md.mode ≠ .safe) (hmaint : s.md.mode ≠ .maintain) (hnone : ∀ i ∈ s.fmu.islands, i.targeted = false)
    (hroot : (s.isl k).rootRec = []) (hoff : (s.isl k).offline = false) (hmethod : islMethod k = 1 ∨ islMethod k = 2)
    (hin : k ∉ s.fe.retired) : s.passEnd k true true = (s.passNoted k true).passBack k := by
  have hlt := State.lt_of_scanAt hscan
  obtain ⟨hrest, hlen, hother, hself⟩ := State.passNoted_spec (s := s) true hlt
  obtain ⟨hrest2, hother2, hself2, -⟩ := State.passBack_spec (s := s.passNoted k true) (k := k) (by rwa [hlen]) hin
  rw [State.passEnd_service (ok := true) hscan hdue hboot (by simp),
    State.servicePassEnd_passed (s := s.passNoted k true) (by rwa [hlen]) (by rwa [hself]) (by rwa [hself])
    hsafe (islMethod_not_port hmethod).1]
  refine State.offline_follows (fun j => ?_) (by rw [hrest2]; exact hmaint)
  by_cases hj : j = k
  · rw [hj, hself2, hself]
    exact State.untargeted hnone k
  · rw [hother2 j hj, hother j hj]
    exact State.untargeted hnone j

theorem State.islandLost_untargeted (hlt : k < s.fmu.islands.length) (hnone : ∀ j, (s.isl j).targeted = false) (j : Nat) :
    ((s.islandLost k).isl j).targeted = false := by
  obtain ⟨-, -, hself, hother⟩ := State.islandLost_spec hlt
  by_cases hj : j = k
  · rw [hj, hself]
    exact hnone k
  · rw [hother j hj]
    exact hnone j

end

/-- Settles O52: a pass in service by its result, BST_CTL by the code that refuses it, and a pass asked for by what it begins. -/
theorem passesDecideServiceAndRetirement : Obligations.PassesDecideServiceAndRetirement := by
  intro s k
  refine ⟨fun at_ hscan hdue hboot hsafe hmaint hnone hroot hoff hmethod => ?ends, fun tok hw hmode => ?control⟩
  case ends =>
    have hlt := State.lt_of_scanAt hscan
    obtain ⟨hrest, hsame, hlast⟩ := State.passFailed_spec hlt
    have hlt2 : k < (s.passFailed k).fmu.islands.length := by rwa [hsame.length]
    obtain ⟨hrest2, hret, hself, -⟩ := State.islandLost_spec hlt2
    have huntarget := State.islandLost_untargeted hlt2 fun j => (hsame.targeted j).trans (State.untargeted hnone j)
    have hretired := State.passFailed_retired hlt hboot hmethod
    have hfails (restoreOk : Bool) := State.passEnd_failed restoreOk hscan hdue hboot hroot hoff
    refine ⟨fun hin => ?passed, fun restoreOk hspare => ?retired, fun restoreOk hvital => ?fatal⟩
    case passed =>
      obtain ⟨hnoted, hlen, hother, hnself⟩ := State.passNoted_spec (s := s) true hlt
      obtain ⟨hback, hbother, hbself, hcode⟩ := State.passBack_spec (s := s.passNoted k true) (k := k) (by rwa [hlen]) hin
      refine ⟨_, by rw [exec_passEnd, State.passEnd_passed hscan hdue hboot hsafe hmaint hnone hroot hoff hmethod hin], by rw [hbself],
        by rw [hbself, hnself]; rfl, by rw [hbself, hnself], fun j hj => (hbother j hj).trans (hother j hj), by rw [hback]; rfl, ?_,
        fun tok htok => hcode tok (by rw [hnself]; exact htok)⟩
      rw [hback]
      exact (s.setIsl k fun i => { i with scanAt := none, last := 0 }).ctrAt_count_self 0xD0200
    case retired =>
      rw [hspare, if_neg Bool.false_ne_true] at hretired
      refine ⟨(s.passFailed k).islandLost k, ?_, by rw [hself], by rw [hself]; exact hlast, hret, by rw [hrest2, hrest], by rw [hrest2, hrest]⟩
      rw [exec_passEnd, hfails, hretired, State.offline_follows huntarget (by rw [hrest2, hrest]; exact hmaint)]
    case fatal =>
      rw [hvital, if_pos rfl] at hretired
      have hmd : ((s.passFailed k).islandLost k).md.mode ≠ .safe := by rw [hrest2, hrest]; exact hsafe
      have hentered := State.safeReaction_entered (tag := 0x3000 + k) (cause := 0x3A) (pathB := false) hmd
      have hkept := State.safeReaction_retired (tag := 0x3000 + k) (cause := 0x3A) (pathB := false) hmd
      have hislands := State.safeReaction_islands (tag := 0x3000 + k) (cause := 0x3A) (pathB := false) hmd
      generalize ((s.passFailed k).islandLost k).safeReaction (0x3000 + k) 0x3A false = t at *
      refine ⟨t, ?_, by rw [hkept]; exact hret, ?_⟩
      · rw [exec_passEnd, hfails, hretired, State.offline_follows (fun j => by rw [State.isl_congr hislands]; exact huntarget j) (by rw [hentered.1]; decide)]
      · unfold SafeEntered at *
        rw [hrest2, hrest] at hentered
        exact hentered
  case control =>
    refine ⟨fun hk => ?none, fun hk hmethod => ?methodB, fun hk hbusy => ?busy, fun hlt hk hnone hfree => ?free⟩
    case none =>
      rw [exec_test, exec_clearRetired, State.bstTest_refused hw (State.bstRefused_outside true hk) (by decide),
        State.bstClear_refused hw (State.bstRefused_outside false hk) (by decide)]
      exact ⟨rfl, rfl⟩
    case methodB => rw [exec_test, State.bstTest_refused hw (State.bstRefused_boot hk hmethod) (by decide)]
    case busy =>
      have hor : ((s.isl k).targeted || (s.isl k).busy) = true := by simpa using hbusy
      refine ⟨fun hmethod => ?_, ?_⟩
      · rw [exec_test, State.bstTest_refused hw (by rw [State.bstRefused_eq true hk (fun _ => hmethod) hmode, if_pos hor]) (by decide)]
      · rw [exec_clearRetired, State.bstClear_refused hw (by rw [State.bstRefused_eq false hk nofun hmode, if_pos hor]) (by decide)]
    case free =>
      have hidle : ¬((s.isl k).targeted || (s.isl k).busy) = true := by simp [State.untargeted hnone k, hfree]
      have hclear : s.bstRefused k false = 0 := by rw [State.bstRefused_eq false hk nofun hmode, if_neg hidle]
      intro kept
      refine ⟨fun hmethod => ?_, fun hmethod hroom => ?_⟩
      · rw [exec_clearRetired, State.bstClear_free hw hclear, if_pos hmethod]
        rfl
      · have htest : s.bstRefused k true = 0 := by rw [State.bstRefused_eq true hk (fun _ => hmethod) hmode, if_neg hidle]
        refine ⟨⟨_, by rw [exec_test, State.bstTest_free hw htest], State.target_begins tok.toNat hk hlt hnone hfree hroom⟩,
          ⟨_, by rw [exec_clearRetired, State.bstClear_free hw hclear, if_neg hmethod], ?_⟩⟩
        exact State.target_begins (s := s.retirementCleared k) tok.toNat hk hlt hnone hfree hroom

end Sys2Proof.Machine
end

section
/-! SUPPORT. How a message comes to its action, by datagram or by mailbox, and what each action of a mailbox command answers. -/

namespace Sys2Proof.Machine

open Sys2Proof Sys2Proof.Machine.Crypto

theorem exec_otarnDropRecord (s : State) : exec .otarnDropRecord s = .next s.dropRecord := rfl

theorem exec_otarnUndefinedCode (s : State) (c : Carrier) : exec (.otarnUndefinedCode c) s =
    .next (s.message (fun k => !messageCodes.contains k) notInSubset c fun s via _ => s.respond via 0x11 []) := rfl

theorem exec_status (s : State) (c : Carrier) : exec (.status c) s = .next (s.message (· == 0x001) inSubset c State.msgStatus) := rfl

theorem exec_regRead (s : State) (c : Carrier) : exec (.regRead c) s = .next (s.message (· == 0x002) notInSubset c State.msgRegRead) := rfl

theorem exec_regWrite (s : State) (c : Carrier) : exec (.regWrite c) s = .next (s.message (· == 0x003) notInSubset c State.regWriteThen) := rfl

theorem exec_logRead (s : State) (c : Carrier) : exec (.logRead c) s = .next (s.message (· == 0x004) inSubset c State.msgLogRead) := rfl

theorem exec_slotErase (s : State) (c : Carrier) : exec (.slotErase c) s = .next (s.message (· == 0x010) inSubset c State.msgErase) := rfl

theorem exec_slotWrite (s : State) (c : Carrier) : exec (.slotWrite c) s = .next (s.message (· == 0x011) inSubset c State.msgWrite) := rfl

theorem exec_slotVerify (s : State) (c : Carrier) : exec (.slotVerify c) s = .next (s.message (· == 0x012) inSubset c State.msgVerify) := rfl

theorem exec_fwSwap (s : State) (c : Carrier) : exec (.fwSwap c) s = .next (s.message (· == 0x013) notInSubset c State.msgSwap) := rfl

theorem exec_restart (s : State) (c : Carrier) :
    exec (.restart c) s = .next (s.message (· == 0x020) (fun b => b.getD 0 0 == 2) c State.msgRestart) := rfl

theorem exec_offlineTest (s : State) (c : Carrier) :
    exec (.offlineTest c) s = .next (s.message (· == 0x021) notInSubset c State.msgOffline) := rfl

/-- Each command of R613 is a message whose CODE is its own. -/
theorem messageActs_exec {p : Nat × (Carrier → Instr) × (State → ReplyTo → List Byte → State)} (hp : p ∈ messageActs) :
    ∃ known sub, known p.1 = true ∧ ∀ c s, exec (p.2.1 c) s = .next (s.message known sub c p.2.2) := by
  simp only [messageActs, List.mem_cons, List.not_mem_nil, or_false] at hp
  rcases hp with rfl | rfl | rfl | rfl | rfl | rfl | rfl | rfl | rfl | rfl <;> exact ⟨_, _, rfl, fun _ _ => rfl⟩

/-- A verified datagram does what the command of its CODE does. -/
theorem messageActs_run {p : Nat × (Carrier → Instr) × (State → ReplyTo → List Byte → State)} (hp : p ∈ messageActs) (s : State)
    (via : ReplyTo) (body : List Byte) :
    (if p.1 = 0x003 then s.regWriteThen via body else s.messageAct p.1 via body) = p.2.2 s via body := by
  simp only [messageActs, List.mem_cons, List.not_mem_nil, or_false] at hp
  rcases hp with rfl | rfl | rfl | rfl | rfl | rfl | rfl | rfl | rfl | rfl <;> rfl

section
variable {s : State}

/-! Datagrams (R609). -/

section
variable {known : Nat → Bool} {sub : List Byte → Bool} {bytes src : List Byte} {act : State → ReplyTo → List Byte → State}

/-- A datagram that is not answered for its length, its rate or its key is dropped and counted. -/
theorem State.datagram_dropped (port hop : Nat) (hlive : s.fmu.halted = false) (hears : s.otarnHears src = true) (hrec : s.mgt.recovery = false)
    (hknown : known (ofLe (bytes.take 2) % 4096) = true)
    (hbad : bytes.length ≠ 76 + ofLe (slice bytes 4 2) ∨ 2 ^ 15 ≤ ofLe (bytes.take 2) ∨ s.fld 0x100010 9 0 < s.otarnArrive.mgt.otCount ∨
      s.mgt.otarnKeys[ofLe (bytes.take 2) / 4096 % 8]? = none) :
    s.datagram known sub bytes src port hop act = s.otarnArrive.otarnDrop src := by
  unfold State.datagram
  extract_lets typ len s1 replay via body
  rw [if_neg (by simp [typ, hlive, hears, hknown])]
  split
  · rfl
  · next hgood =>
    have hnone : s1.mgt.otarnKeys[typ / 4096 % 8]? = none :=
      ((hbad.resolve_left fun h => hgood (.inl h)).resolve_left fun h => hgood (.inr (.inl h))).resolve_left fun h => hgood (.inr (.inr h))
    have hrec1 : s1.mgt.recovery = false := hrec
    rw [if_neg (ne_true_of_eq_false hrec1), hnone]

theorem State.datagram_checked (port hop : Nat) {key : List Byte} (hlive : s.fmu.halted = false) (hears : s.otarnHears src = true)
    (hrec : s.mgt.recovery = false) (hknown : known (ofLe (bytes.take 2) % 4096) = true)
    (hlen : bytes.length = 76 + ofLe (slice bytes 4 2)) (htyp : ofLe (bytes.take 2) < 2 ^ 15)
    (hrate : s.otarnArrive.mgt.otCount ≤ s.fld 0x100010 9 0) (hkey : s.mgt.otarnKeys[ofLe (bytes.take 2) / 4096 % 8]? = some key) :
    let v := s.otarnArrive.bodkinPut (otarnCheck key (bytes.take (12 + ofLe (slice bytes 4 2))) (bytes.drop (12 + ofLe (slice bytes 4 2))))
    s.datagram known sub bytes src port hop act =
      { v with mgt := { v.mgt with otWait := v.mgt.otWait ++ [{ index := s.bodkinNext, bytes := bytes, src := src, port := port }] } } := by
  intro v
  unfold State.datagram
  extract_lets typ len s1 replay via body
  have hkey1 : s1.mgt.otarnKeys[typ / 4096 % 8]? = some key := hkey
  have hrec1 : s1.mgt.recovery = false := hrec
  have hgood : ¬(bytes.length ≠ 76 + len ∨ 2 ^ 15 ≤ typ ∨ s1.fld 0x100010 9 0 < s1.mgt.otCount) :=
    not_or.2 ⟨not_not.2 hlen, not_or.2 ⟨Nat.not_le_of_lt htyp, Nat.not_lt_of_le hrate⟩⟩
  rw [if_neg (by simp [typ, hlive, hears, hknown]), if_neg hgood, if_neg (ne_true_of_eq_false hrec1), hkey1]
  rfl

end

/-! Signature checks that end (R522, R609). -/

theorem State.pkeCount_mgt (s : State) (code : Nat) : (s.pkeCount code).mgt = s.mgt := by
  unfold State.pkeCount
  split_ifs <;> rfl

/-- An operation that ends on its core is Bodkin's before the tally of the cycles as after. -/
theorem State.tally_find (core : Nat) : ∃ late : PkeOp → PkeOp, (∀ o, (late o).bod = o.bod) ∧
    s.tally.pke.ops.find? (fun o => o.core == some core) = (s.pke.ops.find? (fun o => o.core == some core)).map late := by
  let late := fun (o : PkeOp) =>
    if o.core.isSome && s.fmu.stretch then { o with release := o.release + (s.now - max o.start s.fmu.cycAt) / 2 } else o
  have hlate (o : PkeOp) : (late o).bod = o.bod ∧ (late o).core = o.core := by
    unfold late
    split <;> exact ⟨rfl, rfl⟩
  refine ⟨late, fun o => (hlate o).1, ?_⟩
  show (s.pke.ops.map late).find? _ = _
  rw [List.find?_map]
  congr 2
  funext o
  show ((late o).core == some core) = _
  rw [(hlate o).2]

/-- The end of a check of Bodkin's leaves Management as it was. -/
theorem State.pkeRelease_check {core : Nat} {o : PkeOp} (ok : Bool) (hfound : s.pke.ops.find? (fun o => o.core == some core) = some o)
    (hbod : o.bod = true) : (s.pkeRelease core ok).mgt = s.mgt := by
  obtain ⟨late, hlate, htally⟩ := s.tally_find core
  rw [hfound] at htally
  unfold State.pkeRelease
  dsimp only
  rw [htally]
  dsimp only [Option.map_some]
  split
  · rfl
  · rw [if_pos (by rw [hlate]; exact hbod), State.bodFill_mgt, State.pkeCount_mgt]
    rfl

/-- The command whose check has ended is dropped where the signature is wrong, and else carried out. -/
theorem State.resultRelease_check {core : Nat} {o : PkeOp} {w : OtWait} (ok : Bool) (hfound : s.pke.ops.find? (fun o => o.core == some core) = some o)
    (hbod : o.bod = true) (hwait : s.mgt.otWait.find? (fun w => w.index == o.index) = some w)
    (hgone : (s.pkeRelease core ok).pke.ops.any (fun x => x.core == some core) = false) (hlive : (s.pkeRelease core ok).fmu.halted = false) :
    s.resultRelease core ok =
      if o.code ≠ 0 ∨ o.data.headD 0 ≠ 1 then ((s.pkeRelease core ok).otarnLose o.index).otarnDrop w.src
      else ((s.pkeRelease core ok).otarnLose o.index).otarnRun w ((pkeCmd o.bytes).arg 0) := by
  have hmgt := State.pkeRelease_check ok hfound hbod
  unfold State.resultRelease
  dsimp only
  rw [hfound]
  dsimp only
  rw [if_pos (by rw [hbod, hgone]; rfl)]
  unfold State.otarnChecked
  rw [hmgt, hwait]
  exact if_neg (ne_true_of_eq_false hlive)

/-- A REPLAY not above the last accepted under its key is answered and no more (R610). -/
theorem State.otarnRun_old {w : OtWait} {key : List Byte} (h : ofLe (slice w.bytes 6 6) ≤ s.lastReplay key) : s.otarnRun w key =
    (s.count 0x100210).respond (.otarn w.src w.port (ofLe (w.bytes.take 2)) (ofLe (slice w.bytes 2 2)) (ofLe (slice w.bytes 6 6))) 0x21
      (leBytes 6 (s.lastReplay key)) := if_pos h

theorem State.otarnRun_new {w : OtWait} {key : List Byte} {p : Nat × (Carrier → Instr) × (State → ReplyTo → List Byte → State)}
    (hp : p ∈ messageActs) (hcode : ofLe (w.bytes.take 2) % 4096 = p.1) (h : s.lastReplay key < ofLe (slice w.bytes 6 6)) : s.otarnRun w key =
    p.2.2 ((s.putReplay key (ofLe (slice w.bytes 6 6))).count 0x100200)
      (.otarn w.src w.port (ofLe (w.bytes.take 2)) (ofLe (slice w.bytes 2 2)) (ofLe (slice w.bytes 6 6)))
      (slice w.bytes 12 (ofLe (slice w.bytes 4 2))) := by
  unfold State.otarnRun
  dsimp only
  rw [if_neg (Nat.not_le_of_lt h), hcode]
  exact messageActs_run hp _ _ _

/-- The entry of a key replaced in place. -/
theorem find?_replaced {h : List Byte} {v : Nat} {l : List (List Byte × Nat)} (hany : l.any (fun e => e.1 == h) = true) :
    (l.map fun e => if e.1 == h then (h, v) else e).find? (fun e => e.1 == h) = some (h, v) := by
  have hkey : ((fun e : List Byte × Nat => e.1 == h) ∘ fun e => if e.1 == h then (h, v) else e) = fun e => e.1 == h := by
    funext e
    show ((if e.1 == h then (h, v) else e).1 == h) = (e.1 == h)
    by_cases he : (e.1 == h) = true
    · rw [if_pos he, he, beq_self_eq_true]
    · rw [if_neg he]
  rw [List.find?_map, hkey]
  obtain ⟨e, he⟩ := Option.isSome_iff_exists.1 (List.find?_isSome.2 (List.any_eq_true.1 hany))
  have hmatch := List.find?_some he
  rw [he, Option.map_some, if_pos hmatch]

/-- The entry of a key that had none, put last where the oldest may go. -/
theorem find?_appended {h : List Byte} {v : Nat} {l : List (List Byte × Nat)} (hany : ¬l.any (fun e => e.1 == h) = true) {n : Nat}
    (hn : n ≤ l.length) : ((l ++ [(h, v)]).drop n).find? (fun e => e.1 == h) = some (h, v) := by
  have hnone : (l.drop n).find? (fun e => e.1 == h) = none :=
    List.find?_eq_none.2 fun e he hmatch => hany (List.any_eq_true.2 ⟨e, List.mem_of_mem_drop he, hmatch⟩)
  rw [List.drop_append_of_le_length hn, List.find?_append, hnone, Option.none_or, List.find?_singleton, if_pos (beq_self_eq_true h)]

/-- The REPLAY accepted last under a key is the one that the key shows (R610). -/
theorem State.lastReplay_putReplay (hlen : s.fe.replay.length ≤ 64) (key : List Byte) (v : Nat) : (s.putReplay key v).lastReplay key = v := by
  unfold State.putReplay State.lastReplay
  dsimp only
  by_cases hany : s.fe.replay.any (fun e => e.1 == sha256 key) = true
  · rw [if_pos hany, List.length_map, Nat.sub_eq_zero_of_le hlen, List.drop_zero, find?_replaced hany]
    rfl
  · rw [if_neg hany, find?_appended hany (by rw [List.length_append, List.length_singleton]; omega)]
    rfl

/-! The mailbox (R615). -/

section
variable {known : Nat → Bool} {sub : List Byte → Bool} {act : State → ReplyTo → List Byte → State} (tok : BitVec 16)

/-- A mailbox command that can be taken is served on the body in the window, or refused as one outside the recovery subset. -/
theorem State.message_mailbox (h : s.mboxFree) : s.message known sub (.mailbox tok) act =
    if (s.mgt.recovery && !sub s.mboxBody) = true then (s.mboxTake tok.toNat).respond .mailbox 0x11 []
    else act (s.mboxTake tok.toNat) .mailbox s.mboxBody := by
  obtain ⟨hw, hbusy, hlive, hlen⟩ := h
  have hbusy1 : (s.mgt.mbState == 1) = false := by simpa using hbusy
  have hserve : (s.mboxTake tok.toNat).mboxServe sub act =
      if (s.mgt.recovery && !sub s.mboxBody) = true then (s.mboxTake tok.toNat).respond .mailbox 0x11 []
      else if 1400 < s.fld 0x101008 10 0 then (s.mboxTake tok.toNat).respond .mailbox 0x10 []
      else act (s.mboxTake tok.toNat) .mailbox s.mboxBody := if_neg (ne_true_of_eq_false hlive)
  show (if (s.noWrites || s.mgt.mbState == 1) = true then s else (s.mboxTake tok.toNat).mboxServe sub act) = _
  rw [if_neg (by simp [hw, hbusy1]), hserve, if_neg (Nat.not_lt_of_le hlen)]

theorem State.message_served (h : s.mboxFree) (hsub : s.mgt.recovery = false ∨ sub s.mboxBody = true) :
    s.message known sub (.mailbox tok) act = act (s.mboxTake tok.toNat) .mailbox s.mboxBody := by
  rw [State.message_mailbox tok h, if_neg]
  rcases hsub with hrec | hin
  · simp [hrec]
  · simp [hin]

/-- In recovery a command outside the subset is refused, whatever it asks for (R613). -/
theorem State.message_refused (h : s.mboxFree) (hrec : s.mgt.recovery = true) (hsub : sub s.mboxBody = false) :
    s.message known sub (.mailbox tok) act = (s.mboxTake tok.toNat).respond .mailbox 0x11 [] := by
  rw [State.message_mailbox tok h, if_pos (by simp [hrec, hsub])]

theorem State.message_recovery (h : s.mboxFree) (hrec : s.mgt.recovery = true) {c : Carrier → Instr}
    (hc : c ∈ [Instr.regRead, .regWrite, .fwSwap, .offlineTest, .otarnUndefinedCode]) :
    exec (c (.mailbox tok)) s = .next ((s.mboxTake tok.toNat).respond .mailbox 0x11 []) := by
  have hrefused {known : Nat → Bool} {act : State → ReplyTo → List Byte → State} :
      Host.Outcome.next (s.message known notInSubset (.mailbox tok) act) =
        Host.Outcome.next (φ := Fault) (ρ := Refusal) ((s.mboxTake tok.toNat).respond .mailbox 0x11 []) :=
    congrArg _ (State.message_refused tok h hrec rfl)
  simp only [List.mem_cons, List.not_mem_nil, or_false] at hc
  rcases hc with rfl | rfl | rfl | rfl | rfl <;> exact hrefused

end

/-- The state of the mailbox's answer: the window, its length and its state. -/
theorem State.respond_mailbox (s : State) (status : Nat) (data : List Byte) : s.respond .mailbox status data =
    { s with mgt := { s.mgt with mbox := splice s.mgt.mbox 0 ([BitVec.ofNat 8 status, 0, 0, 0] ++ data), mbLen := data.length + 4, mbState := 2 } } := rfl

/-- Bytes put at the front of a list are its front. -/
theorem take_splice_zero (bs new : List Byte) : (splice bs 0 new).take new.length = new := by
  rw [splice, List.take_zero, List.nil_append, List.take_left]

theorem State.respond_answered (s : State) (status : Nat) (data : List Byte) :
    (s.respond .mailbox status data).answered (BitVec.ofNat 8 status) data := by
  have htake := take_splice_zero s.mgt.mbox ([BitVec.ofNat 8 status, 0, 0, 0] ++ data)
  rw [List.length_append, List.length_cons, List.length_cons, List.length_cons, List.length_singleton] at htake
  exact ⟨htake, Nat.add_comm data.length 4, rfl⟩

/-- What answers stands in Management alone. -/
theorem State.answered_congr {t u : State} {status : Byte} {data : List Byte} (hmgt : u.mgt = t.mgt) (h : t.answered status data) :
    u.answered status data := by
  unfold State.answered at *
  rwa [hmgt]

/-! Messages that read and write (R613). -/

theorem State.msgStatus_mailbox {body : List Byte} (hbody : body = []) : s.msgStatus .mailbox body = s.draw.2.respond .mailbox 0
    (([0x0448ED01#32, s.tbMode, s.tbStatus, s.degradedWord, s.cfgStatus, s.mgtStat, s.mgt.fwVer, s.updStat].flatMap fun w => leBytes 4 w.toNat) ++
      leBytes 6 s.draw.1) := by
  subst hbody
  rfl

section
variable {via : ReplyTo} {body : List Byte}

theorem State.msgRegRead_bar (hlen : body.length = 6) (hlow : 1 ≤ ofLe (slice body 4 2)) (hhigh : ofLe (slice body 4 2) ≤ 256) :
    s.msgRegRead via body = if barOk (ofLe (body.take 4)) (ofLe (slice body 4 2)) = true then
      (s.readMany (ofLe (body.take 4)) (ofLe (slice body 4 2))).2.respond via 0 (s.readMany (ofLe (body.take 4)) (ofLe (slice body 4 2))).1
    else s.respond via 0x12 [] := by
  unfold State.msgRegRead
  dsimp only
  rw [if_neg (by omega)]
  cases barOk (ofLe (body.take 4)) (ofLe (slice body 4 2)) <;> rfl

theorem State.pairsWrite_one {off : Nat} (v : W32) (hbox : off ≠ 0x101000) (hbar : barOk off 1 = true) :
    s.pairsWrite none 0 [(off, v)] = (s.writeReg off 15 v, none, 1, true) := by
  rw [State.pairsWrite, if_neg (by simp [hbar]), State.pairWrite, if_pos hbox]
  dsimp only
  rw [State.pairsWrite]

/-- One register written, not that of the mailbox (R616). -/
theorem State.regWriteThen_one (hlen : body.length = 8) (hbox : ofLe (body.take 4) ≠ 0x101000) (hbar : barOk (ofLe (body.take 4)) 1 = true) :
    s.regWriteThen via body =
      (s.writeReg (ofLe (body.take 4)) 15 (BitVec.ofNat 32 (ofLe (slice body 4 4)))).respond via 0 [1, 0] := by
  have hpairs : (List.range (body.length / 8)).map (fun i => (ofLe (slice body (8 * i) 4), BitVec.ofNat 32 (ofLe (slice body (8 * i + 4) 4)))) =
      [(ofLe (body.take 4), BitVec.ofNat 32 (ofLe (slice body 4 4)))] := by
    rw [hlen]
    rfl
  have hwrite : s.msgRegWrite via body =
      ((s.writeReg (ofLe (body.take 4)) 15 (BitVec.ofNat 32 (ofLe (slice body 4 4)))).respond via 0 [1, 0], none) := by
    unfold State.msgRegWrite
    dsimp only
    rw [if_neg (by omega), hpairs, State.pairsWrite_one _ hbox hbar]
    dsimp only
    rw [if_pos rfl, show leBytes 2 1 = [1, 0] by decide]
  unfold State.regWriteThen
  rw [hwrite]

theorem State.msgLogRead_eq (hlen : body.length = 5) (hlow : 1 ≤ (body.getD 4 0).toNat) (hhigh : (body.getD 4 0).toNat ≤ 20) :
    s.msgLogRead via body = s.respond via 0
      (((s.fe.log.filter fun r => decide (ofLe (body.take 4) ≤ r.seq)).take (body.getD 4 0).toNat).flatMap fun r => r.bytes (recLen r.typ)) :=
  if_neg (by omega)

end

/-! FW_SWAP, RESTART and OFFLINE_TEST (R38, R43, R579). -/

/-- Without a running mode no firmware swap: the request is refused, unless an update operation runs already. -/
theorem State.msgSwap_notRunning (hw : s.noWrites = false) (hrun : s.md.mode.running = false) (via : ReplyTo) :
    s.msgSwap via [] = ({ s with md := { s.md with reqRefused := s.md.reqRefused || !s.mgt.upd.busy } } : State).respond via
      (if s.mgt.upd.busy then 0x25 else 0x24) [] := by
  have hcode : s.swapRefused = if s.mgt.upd.busy then 0x25 else 0x24 := by
    unfold State.swapRefused State.updRefused
    cases s.mgt.upd.busy <;> simp [hw, hrun]
  unfold State.msgSwap
  rw [hcode, if_neg (not_not.2 rfl), if_pos (by split <;> decide)]
  cases hbusy : s.mgt.upd.busy
  · simp [State.refuseReq]
  · simp

theorem State.msgRestart_safe (hw : s.noWrites = false) (hmode : s.md.mode = .safe) :
    s.msgRestart .mailbox [2] = (s.respond .mailbox 0 []).bootReset 5 := by
  have hsafe : ((s.respond .mailbox 0 []).md.mode == .safe) = true := by
    rw [State.respond_mailbox, hmode]
    rfl
  unfold State.msgRestart
  dsimp only
  rw [if_neg (by decide), if_neg (by simp), if_pos ⟨rfl, hmode⟩]
  exact (if_neg (ne_true_of_eq_false hw)).trans (if_pos hsafe)

theorem State.beginDrain_running (hrun : s.md.mode.running = true) (hdrain : s.md.drain = false) : s.beginDrain =
    { s with md := { s.md with drain := true, drainArmed := false, drainUntil := s.now + s.fld 0x78108 29 24 * nsPerSec } } :=
  if_pos (by simp [hrun, hdrain])

/-- RESTART in a running mode: answered, and the drain begins (R56). -/
theorem State.msgRestart_drains (hrun : s.md.mode.running = true) (hdrain : s.md.drain = false) {body : List Byte} (hbody : body = [1]) :
    s.msgRestart .mailbox body = { s.respond .mailbox 0 [] with
      md := { s.md with drain := true, drainArmed := false, drainUntil := s.now + s.fld 0x78108 29 24 * nsPerSec } } := by
  subst hbody
  unfold State.msgRestart
  dsimp only
  rw [if_neg (by decide), if_pos ⟨rfl, hrun, by rw [hdrain]; rfl⟩, State.beginDrain_running (s := s.respond .mailbox 0 []) hrun hdrain]
  rfl

theorem State.msgRestart_refused (h : s.md.mode.running = false ∨ s.md.drain = true) :
    s.msgRestart .mailbox [1] = s.refuseReq.respond .mailbox 0x24 [] := by
  unfold State.msgRestart
  dsimp only
  rw [if_neg (by decide), if_neg (by rcases h with h | h <;> simp [h]), if_neg (fun h => absurd h.1 (by decide))]

theorem State.msgOffline_refused {body : List Byte} (hlen : body.length = 2) (hlow : 1 ≤ ofLe (body.take 2)) (hhigh : ofLe (body.take 2) ≤ 60)
    (hrun : s.md.mode.running = false) : s.msgOffline .mailbox body = s.refuseReq.respond .mailbox 0x24 [] := by
  unfold State.msgOffline
  dsimp only
  rw [if_neg (by omega), if_pos (by rw [hrun]; rfl)]

theorem State.offlineNext_mgt (s : State) : s.offlineNext.mgt = s.mgt := by
  unfold State.offlineNext
  split
  · split_ifs
    · rfl
    · split
      · split_ifs <;> rfl
      · rfl
  · rfl

/-- An offline test that takes its next island, or ends, keeps its mode, its beginning and its bound. -/
theorem State.offlineNext_md (s : State) : s.offlineNext.md.mode = s.md.mode ∧ s.offlineNext.md.prev = s.md.prev ∧
    s.offlineNext.md.maint.map (fun (m : Maint) => (m.swap, m.began, m.bound)) = s.md.maint.map fun (m : Maint) => (m.swap, m.began, m.bound) := by
  unfold State.offlineNext
  split
  · next m _ hmaint =>
    split_ifs
    · exact ⟨rfl, rfl, rfl⟩
    · split
      · split_ifs <;> exact ⟨rfl, rfl, rfl⟩
      · exact ⟨rfl, rfl, by rw [hmaint]; rfl⟩
  · exact ⟨rfl, rfl, rfl⟩

/-- MAINTAIN granted (R35, R38). -/
theorem State.grantMaintain_md (s : State) (swap : Bool) : (s.grantMaintain swap).md.mode = .maintain ∧
    (s.grantMaintain swap).md.prev = s.md.mode ∧ (s.grantMaintain swap).now = s.now ∧ (s.grantMaintain swap).md.maint = some
      { swap := swap, began := s.now, bound := (if swap then 2 else 60) * nsPerSec, ended := false, boundHit := false, tested := [] } := by
  have hframe := s.setMode_entryFrame .maintain (if swap then 0x20 else 0x21)
  have hmd := hframe.md
  have hnow := hframe.now
  unfold State.grantMaintain
  generalize s.setMode .maintain (if swap then 0x20 else 0x21) = u at *
  refine ⟨?_, ?_, hnow, ?_⟩
  · show u.md.mode = _
    rw [hmd]
    rfl
  · show u.md.prev = _
    rw [hmd]
    rfl
  · show some _ = some _
    rw [hnow]
    rfl

/-- The state in which an offline test of so many seconds has been granted and answered. -/
def State.testGranted (s : State) (n : Nat) : State :=
  let s1 := (s.grantMaintain false).respond .mailbox 0 []
  { s1 with md := { s1.md with maint := s1.md.maint.map fun (m : Maint) => { m with bound := n * nsPerSec } } }

theorem State.testGranted_spec (s : State) (n : Nat) : (s.testGranted n).answered 0 [] ∧ (s.testGranted n).md.mode = .maintain ∧
    (s.testGranted n).md.prev = s.md.mode ∧
    (s.testGranted n).md.maint.map (fun (m : Maint) => (m.swap, m.began, m.bound)) = some (false, s.now, n * nsPerSec) := by
  obtain ⟨hmode, hprev, -, hmaint⟩ := s.grantMaintain_md false
  have hanswer := (s.grantMaintain false).respond_answered 0 []
  have hmd : ((s.grantMaintain false).respond .mailbox 0 []).md = (s.grantMaintain false).md := rfl
  unfold State.testGranted
  dsimp only
  rw [hmd]
  generalize (s.grantMaintain false).respond .mailbox 0 [] = u at *
  refine ⟨hanswer, hmode, hprev, ?_⟩
  show ((s.grantMaintain false).md.maint.map fun (m : Maint) => { m with bound := n * nsPerSec }).map
    (fun (m : Maint) => (m.swap, m.began, m.bound)) = _
  rw [hmaint]
  rfl

/-- OFFLINE_TEST enters MAINTAIN with the bound it names (R38, R579). -/
theorem State.msgOffline_granted {body : List Byte} (hlen : body.length = 2) (hlow : 1 ≤ ofLe (body.take 2)) (hhigh : ofLe (body.take 2) ≤ 60)
    (hrun : s.md.mode.running = true) : s.msgOffline .mailbox body = (s.testGranted (ofLe (body.take 2))).offlineNext := by
  unfold State.msgOffline
  dsimp only
  rw [if_neg (by omega), if_neg (by rw [hrun]; decide)]
  rfl

/-! Drops recorded (R600). -/

/-- A record of Bodkin's, not halted, stands last in the log and takes the next number. -/
theorem State.log_live (hlive : s.fmu.halted = false) (typ : Nat) (body : List Byte) : ∃ (fe : FeSt) (ctr : Assoc (BitVec 64)),
    s.log typ body = { s with fe := fe, ctr := ctr } ∧ fe.nextSeq = s.fe.nextSeq + 1 ∧
    fe.log.getLast? = some ⟨typ, false, s.fe.nextSeq, s.nowWord, padTo 40 body⟩ := by
  have hlog : s.log typ body = s.logAs false typ body := if_neg (ne_true_of_eq_false hlive)
  have hseq : (s.logAs false typ body).fe.nextSeq = s.fe.nextSeq + 1 := by rw [State.logAs, State.count_fe]
  rw [hlog]
  exact ⟨_, _, rfl, hseq, s.logAs_last false typ body⟩

/-- Drops that wait are recorded, the last such record being a second old. -/
theorem State.dropRecord_due (hdrops : s.mgt.otDrops ≠ 0) (hlive : s.fmu.halted = false)
    (hdue : ∀ x, s.fe.dropRecAt = some x → x + nsPerSec ≤ s.now) : ∃ (fe : FeSt) (ctr : Assoc (BitVec 64)),
      s.dropRecord = { s with fe := { fe with dropRecAt := some s.now }, ctr := ctr, mgt := { s.mgt with otDrops := 0 } } ∧
      fe.log.getLast? = some ⟨0x000B, false, s.fe.nextSeq, s.nowWord, padTo 40 (leBytes 4 s.mgt.otDrops ++ s.mgt.otSrc)⟩ := by
  obtain ⟨fe, ctr, hlog, -, hlast⟩ := State.log_live hlive 0x000B (leBytes 4 s.mgt.otDrops ++ s.mgt.otSrc)
  refine ⟨fe, ctr, ?_, hlast⟩
  unfold State.dropRecord
  dsimp only
  rw [hlog, if_neg]
  cases hat : s.fe.dropRecAt with
  | none => simp [hdrops, hlive]
  | some x => simp [hdrops, hlive, hdue x hat]

theorem State.dropRecord_early {x : Nat} (hat : s.fe.dropRecAt = some x) (hearly : s.now < x + nsPerSec) : s.dropRecord = s := by
  unfold State.dropRecord
  dsimp only
  rw [hat]
  exact if_pos (.inr (.inl (by simpa using hearly)))

end

/-- Settles O53: a datagram by its checks, a checked one by its signature, REPLAY and CODE, and a mailbox command by its body. -/
theorem messagesAreCheckedThenServedByTheirCode : Obligations.MessagesAreCheckedThenServedByTheirCode := by
  intro s
  refine ⟨fun p hp bytes src port hop hcode hlive hears hrec => ?arrives, fun core ok o w hfound hbod hwait => ?checked,
    fun hlen key rp => State.lastReplay_putReplay hlen key rp, fun tok hfree => ?mailbox, fun hdrops hlive => ⟨fun hdue => ?record, fun x hat hearly => ?early⟩⟩
  case arrives =>
    obtain ⟨known, sub, hknown, hexec⟩ := messageActs_exec hp
    rw [← hcode] at hknown
    intro typ len a run
    have hrun : run = .next (s.datagram known sub bytes src port hop p.2.2) := hexec _ s
    refine ⟨fun hbad => ?_, fun key hlen htyp hrate hkey => ?_⟩
    · rw [hrun, State.datagram_dropped port hop hlive hears hrec hknown hbad]
    · rw [hrun, State.datagram_checked port hop hlive hears hrec hknown hlen htyp hrate hkey]
  case checked =>
    intro r hgone hlive q run key typ rp via
    have hrun : run = .next (s.resultRelease core ok) := rfl
    rw [hrun, State.resultRelease_check ok hfound hbod hwait hgone hlive]
    refine ⟨fun hbad => by rw [if_pos hbad], fun hzero hgood => ?_⟩
    rw [if_neg (not_or.2 ⟨not_not.2 hzero, not_not.2 hgood⟩)]
    refine ⟨fun hold => congrArg _ (State.otarnRun_old hold), fun p hp hcode hnew => congrArg _ (State.otarnRun_new hp hcode hnew)⟩
  case mailbox =>
    intro s1 b
    refine ⟨fun hrec c hc => State.message_recovery tok hfree hrec hc, fun hb => ?status, fun hrec => ⟨fun hlen hlow hhigh => ?read, fun hlen hbox hbar => ?write,
      fun hb hrun => ?swap⟩, fun hlen hlow hhigh => ?log, fun hb hmode => ?leave, fun hrec hb => ⟨fun hrun hdrain => ?drain, fun h => ?stay⟩,
      fun hrec hlen hlow hhigh => ⟨fun hrun => ?test, fun hrun => ?refused⟩, fun hrec => ?undefined⟩
    all_goals
      have hin {known : Nat → Bool} {sub : List Byte → Bool} {act : State → ReplyTo → List Byte → State}
          (hsub : s.mgt.recovery = false ∨ sub b = true) : s.message known sub (.mailbox tok) act = act s1 .mailbox b :=
        State.message_served tok hfree hsub
    case status =>
      exact ⟨_, s1.draw.1, (exec_status s _).trans (congrArg Host.Outcome.next ((hin (.inr rfl)).trans (State.msgStatus_mailbox (s := s1) hb))), rfl, State.respond_answered _ 0 _⟩
    case read =>
      rw [exec_regRead, hin (.inl hrec), State.msgRegRead_bar hlen hlow hhigh]
      exact ⟨fun hbar => by rw [if_pos hbar], fun hbar => by rw [if_neg (ne_true_of_eq_false hbar)]⟩
    case write => rw [exec_regWrite, hin (.inl hrec), State.regWriteThen_one hlen hbox hbar]
    case swap =>
      refine ⟨_, by rw [exec_fwSwap, hin (.inl hrec), hb, State.msgSwap_notRunning (s := s1) hfree.1 hrun], ?_, rfl⟩
      have hanswer := State.respond_answered ({ s1 with md := { s1.md with reqRefused := s1.md.reqRefused || !s1.mgt.upd.busy } } : State)
        (if s1.mgt.upd.busy then 0x25 else 0x24) []
      rw [apply_ite (BitVec.ofNat 8)] at hanswer
      exact hanswer
    case log => rw [exec_logRead, hin (.inr rfl), State.msgLogRead_eq hlen hlow hhigh]; rfl
    case leave => rw [exec_restart, hin (.inr (by rw [hb]; rfl)), hb, State.msgRestart_safe (s := s1) hfree.1 hmode]
    case drain =>
      exact ⟨_, (exec_restart s _).trans (congrArg Host.Outcome.next ((hin (.inl hrec)).trans (State.msgRestart_drains (s := s1) hrun hdrain hb))), s1.respond_answered 0 [], rfl⟩
    case stay =>
      exact ⟨_, by rw [exec_restart, hin (.inl hrec), hb, State.msgRestart_refused (s := s1) h], State.respond_answered _ 0x24 [], rfl⟩
    case test =>
      obtain ⟨hanswer, hmode, hprev, hmaint⟩ := s1.testGranted_spec (ofLe (b.take 2))
      obtain ⟨hmode2, hprev2, hmaint2⟩ := (s1.testGranted (ofLe (b.take 2))).offlineNext_md
      exact ⟨_, by rw [exec_offlineTest, hin (.inl hrec), State.msgOffline_granted (s := s1) hlen hlow hhigh hrun],
        State.answered_congr (State.offlineNext_mgt _) hanswer, hmode2.trans hmode, hprev2.trans hprev, hmaint2.trans hmaint⟩
    case refused =>
      exact ⟨_, by rw [exec_offlineTest, hin (.inl hrec), State.msgOffline_refused (s := s1) hlen hlow hhigh hrun],
        State.respond_answered _ 0x24 [], rfl⟩
    case undefined => rw [exec_otarnUndefinedCode, hin (.inl hrec)]
  case record =>
    obtain ⟨fe, ctr, hrecord, hlast⟩ := State.dropRecord_due hdrops hlive hdue
    exact ⟨_, (exec_otarnDropRecord s).trans (congrArg Host.Outcome.next hrecord), rfl, rfl, hlast, rfl⟩
  case early => rw [exec_otarnDropRecord, State.dropRecord_early hat hearly]

end Sys2Proof.Machine
end

section
/-! SUPPORT. The update path, the firmware swap, the sensors, the status page of I2C, and the registers of Management that a read clears. -/

namespace Sys2Proof.Machine

open Sys2Proof

theorem exec_slotEraseDone (s : State) (ok : Bool) : exec (.slotEraseDone ok) s = .next (s.eraseDone ok) := rfl

theorem exec_slotVerifyDone (s : State) (ok : Bool) : exec (.slotVerifyDone ok) s = .next (s.verifyDone ok) := rfl

theorem exec_fwReady (s : State) : exec .fwReady s = .next s.fwReady := rfl

theorem exec_fwSwapRevert (s : State) : exec .fwSwapRevert s = .next s.swapRevert := rfl

theorem exec_sensorScan (s : State) (ts : List Int) (rs : List Nat) : exec (.sensorScan ts rs) s = .next (s.sensorScan ts rs) := rfl

theorem exec_i2cPointerWrite (s : State) (b : Byte) : exec (.i2cPointerWrite b) s = .next (s.i2cPoint b) := rfl

theorem exec_i2cRead (s : State) (n : Nat) : exec (.i2cRead n) s = .next (s.i2cRead n) := rfl

theorem exec_railMinRead (s : State) (p : Path) {k : Nat} (h : k < 5) : exec (.railMinRead p k) s = .next (s.readOn p (0x100060 + 4 * k)) :=
  congrArg Host.Outcome.next (if_pos h)

theorem exec_mgtStatRead (s : State) (p : Path) : exec (.mgtStatRead p) s = .next (s.readOn p 0x100000) := rfl

/-! Registers that a read clears (R596, R621). -/

section
variable {s : State} {p : Path} {off : Nat}

/-- MGT_STAT and the rails. -/
def clearedRegs : List Nat := [0x100000, 0x100060, 0x100064, 0x100068, 0x10006C, 0x100070]

theorem clearedRegs_plain : ∀ off ∈ clearedRegs, off % 4 = 0 ∧ 0x10000 ≤ off ∧ off < 0x130000 ∧ cmtAt off = none ∧ isCounter off = false ∧
    isCounter (off - 4) = false ∧ (regDef off).isSome = false ∧ off / 0x10000 = 16 := by decide +kernel

theorem State.readLive_cleared (h : off ∈ clearedRegs) : s.readLive p off = s.readMgt off := by
  obtain ⟨_, hlo, _, hcmt, hctr, hctr', hreg, hblk⟩ := clearedRegs_plain off h
  unfold State.readLive
  rw [if_neg (by omega), hcmt]
  simp only [hctr, hctr', hreg, hblk, Bool.false_eq_true, if_false]

theorem State.readLatch_cleared (h : off ∈ clearedRegs) : s.readLatch p off = s := by
  obtain ⟨_, _, _, _, hctr, _⟩ := clearedRegs_plain off h
  have hlow : ∀ off ∈ clearedRegs, 0x100000 ≤ off ∧ off < 0x110000 := by decide
  obtain ⟨hlo, hhi⟩ := hlow off h
  unfold State.readLatch State.ctrLatch
  rw [if_neg (by omega), if_neg (by omega), if_neg (by omega), if_neg (by omega), if_neg (by omega), if_neg (by omega), if_neg (by omega), hctr]
  simp

/-- Out of BOOT such a read returns the register and then clears it. -/
theorem State.readOn_cleared (hmode : s.md.mode ≠ .boot) (h : off ∈ clearedRegs) :
    s.readOn p off = (s.readClear off).setLat p fun l => { l with lastRead := s.readMgt off } := by
  obtain ⟨hal, _, hhi, _⟩ := clearedRegs_plain off h
  have hshadow : s.shadow = false := by simp [State.shadow, hmode]
  unfold State.readOn
  rw [if_neg (by omega), if_neg (by omega), State.readLatch_cleared h]
  dsimp only
  rw [State.readReg, if_neg (by omega), hshadow, Bool.false_and, if_neg Bool.false_ne_true, State.readLive_cleared h]

theorem State.readOn_mgtStat (hmode : s.md.mode ≠ .boot) : s.readOn p 0x100000 =
    ({ s with mgt := { s.mgt with droopHeavy := false } } : State).setLat p fun l => { l with lastRead := s.mgtStat } := by
  have hclear : s.readClear 0x100000 = { s with mgt := { s.mgt with droopHeavy := false } } := by
    unfold State.readClear
    rw [if_pos rfl, if_neg (by simp [State.shadow, hmode])]
  rw [State.readOn_cleared hmode (by decide), hclear]
  rfl

theorem State.readOn_rail {k : Nat} (hmode : s.md.mode ≠ .boot) (hk : k < 5) : s.readOn p (0x100060 + 4 * k) =
    ({ s with mgt := { s.mgt with railMin := putAt s.mgt.railMin k (s.mgt.railNow.getD k 0) } } : State).setLat p fun l =>
      { l with lastRead := pk [(s.mgt.railMin.getD k 0 % 65536, 16), (s.mgt.railNow.getD k 0 % 65536, 0)] } := by
  have hmem : ∀ k < 5, 0x100060 + 4 * k ∈ clearedRegs := by decide
  have hk4 : (0x100060 + 4 * k - 0x100060) / 4 = k := by omega
  have hclear : s.readClear (0x100060 + 4 * k) =
      { s with mgt := { s.mgt with railMin := putAt s.mgt.railMin k (s.mgt.railNow.getD k 0) } } := by
    unfold State.readClear State.railReload
    rw [if_neg (by omega), if_pos (by omega), if_neg (by simp [State.shadow, hmode]), hk4]
  have hword : s.readMgt (0x100060 + 4 * k) = pk [(s.mgt.railMin.getD k 0 % 65536, 16), (s.mgt.railNow.getD k 0 % 65536, 0)] := by
    unfold State.readMgt
    dsimp only
    rw [if_neg (by omega), if_neg (by omega), if_neg (by omega), if_pos (by omega), hk4]
  rw [State.readOn_cleared hmode (hmem k hk), hclear, hword]

end

/-! The status page (R617, R618). -/

theorem splice_length {bs new : List Byte} {i : Nat} (h : i + new.length ≤ bs.length) : (splice bs i new).length = bs.length := by
  rw [splice, List.length_append, List.length_append, List.length_take, List.length_drop]
  omega

/-- What stands before the bytes put over a list, and those bytes. -/
theorem take_splice {bs new : List Byte} {i : Nat} (h : i ≤ bs.length) : (splice bs i new).take i = bs.take i := by
  rw [splice, List.append_assoc, List.take_append_of_le_length (by rw [List.length_take]; omega), List.take_take, Nat.min_self]

theorem slice_splice {bs new : List Byte} {i : Nat} (h : i ≤ bs.length) : slice (splice bs i new) i new.length = new := by
  have hi : (bs.take i).length = i := by rw [List.length_take]; omega
  rw [slice, splice, List.append_assoc, List.drop_left' hi, List.take_left]

section
variable {s : State}

theorem State.i2cPoint_up (h : s.i2cUp = true) (b : Byte) : s.i2cPoint b = { s with mgt := { s.mgt with i2cPtr := b.toNat % 64 } } := if_pos h

theorem State.i2cRead_up (h : s.i2cUp = true) (n : Nat) : s.i2cRead n =
    { s with mgt := { s.mgt with i2cOut := (List.range n).map fun i => s.i2cSnapshot.getD ((s.mgt.i2cPtr + i) % 64) 0 } } :=
  if_neg (by simp [h])

/-- The last four bytes of a snapshot are the CRC of those before (R618). -/
theorem State.i2cSnapshot_crc (hlen : s.mgt.i2cPage.length = 64) :
    slice s.i2cSnapshot 0x3C 4 = leBytes 4 (crc32 (s.i2cSnapshot.take 0x3C)) := by
  unfold State.i2cSnapshot
  extract_lets age p1 p2 p3
  have h1 : p1.length = 64 := (splice_length (by simp [hlen])).trans hlen
  have h2a : (splice p1 7 [BitVec.ofNat 8 age]).length = 64 := (splice_length (by simp [h1])).trans h1
  have h2 : p2.length = 64 := (splice_length (by simp [h2a])).trans h2a
  have h3 : p3.length = 64 := (splice_length (by rw [h2, leBytes_length]; decide)).trans h2
  have hcrc := slice_splice (new := leBytes 4 (crc32 (p3.take 0x3C))) (show 0x3C ≤ p3.length by omega)
  rw [leBytes_length] at hcrc
  rw [take_splice (by omega), hcrc]

/-! Sensors (R594, R595). -/

/-- A scan that reads every sensor gives what it read. -/
theorem readings_full {α : Type} {l : List α} (old : List α) (d : α) (h : l.length = 5) : readings l old d = l := by
  refine List.ext_getElem (by simp [readings, h]) fun i hi hl => ?_
  simp [readings, hl]

/-- The highest of some readings is above a bound just where one of them is. -/
theorem lt_foldl_max {b : Int} {l : List Int} {a : Int} : b < l.foldl max a ↔ b < a ∨ ∃ x ∈ l, b < x := by
  induction l generalizing a with
  | nil => simp
  | cons y l ih =>
    rw [List.foldl_cons, ih]
    simp only [List.mem_cons, exists_eq_or_imp, lt_max_iff, or_assoc]

theorem lt_top {b : Int} {l : List Int} (h : l ≠ []) : b < l.foldl max (l.headD 0) ↔ ∃ x ∈ l, b < x := by
  obtain ⟨y, l, rfl⟩ := List.exists_cons_of_ne_nil h
  rw [lt_foldl_max]
  exact or_iff_right_of_imp fun hy => ⟨y, List.mem_cons_self .., hy⟩

/-- The check of a scan: TEMP_HOT as the sensors now read, and a record of a rise (R595). -/
theorem State.tempCheck_eq (s : State) : ∃ (fe : FeSt) (ctr : Assoc (BitVec 64)), s.tempCheck =
    { s with fe := fe, ctr := ctr, mgt := { s.mgt with
      tempHot := decide (((s.fld 0x100030 7 0 * 16 : Nat) : Int) < s.mgt.tempNow.foldl max (s.mgt.tempNow.headD 0)) } } := by
  unfold State.tempCheck
  extract_lets ts top hot s1
  have hs1 : ∃ (fe : FeSt) (ctr : Assoc (BitVec 64)), s1 = { s with fe := fe, ctr := ctr } := by
    unfold s1
    split
    · exact ⟨_, _, s.log_eq _ _⟩
    · exact ⟨s.fe, s.ctr, rfl⟩
  obtain ⟨fe, ctr, hs1⟩ := hs1
  refine ⟨fe, ctr, ?_⟩
  clear_value s1
  subst hs1
  have : hot = decide (((s.fld 0x100030 7 0 * 16 : Nat) : Int) < s.mgt.tempNow.foldl max (s.mgt.tempNow.headD 0)) := rfl
  rw [← this]

/-- The state whose sensors have been read, their extremes and the history of the first kept. -/
def State.scanned (s : State) (ts : List Int) (rs : List Nat) : State :=
  { s with mgt := { s.mgt with tempNow := ts, railNow := rs, refreshed := some s.now,
                               tempMax := if s.mgt.refreshed.isNone then ts else List.zipWith max s.mgt.tempMax ts,
                               railMin := List.zipWith (fun a b => if a = 0 then b else min a b) s.mgt.railMin rs },
           srv := { s.srv with tHist := (s.srv.tHist ++ [(s.now, ts.getD 0 0)]).filter fun x => decide (s.now ≤ x.1 + 64 * nsPerSec) } }

/-- A scan of all sensors, then the check and the page (R594, R595, R618). -/
theorem State.sensorScan_full {ts : List Int} {rs : List Nat} (hlive : s.fmu.halted = false) (hreset : s.inReset = false) (hts : ts.length = 5)
    (hrs : rs.length = 5) : s.sensorScan ts rs = { (s.scanned ts rs).tempCheck with
      mgt := { (s.scanned ts rs).tempCheck.mgt with i2cPage := (s.scanned ts rs).tempCheck.pageFields } } := by
  have h : ¬(s.fmu.halted || s.inReset) = true := by simp [hlive, hreset]
  unfold State.sensorScan
  simp only [if_neg h, readings_full _ _ hts, readings_full _ _ hrs]
  rfl

theorem State.sensorScan_spec {ts : List Int} {rs : List Nat} (hlive : s.fmu.halted = false) (hreset : s.inReset = false) (hts : ts.length = 5)
    (hrs : rs.length = 5) : let t := s.sensorScan ts rs
    t.mgt.tempNow = ts ∧ t.mgt.railNow = rs ∧ t.mgt.tempMax = (if s.mgt.refreshed.isNone then ts else List.zipWith max s.mgt.tempMax ts) ∧
    t.mgt.railMin = List.zipWith (fun a b => if a = 0 then b else min a b) s.mgt.railMin rs ∧ t.mgt.refreshed = some s.now ∧
    (t.mgt.tempHot = true ↔ ∃ x ∈ ts, ((s.fld 0x100030 7 0 * 16 : Nat) : Int) < x) ∧
    t = { s with mgt := t.mgt, srv := t.srv, fe := t.fe, ctr := t.ctr } := by
  obtain ⟨fe, ctr, hcheck⟩ := (s.scanned ts rs).tempCheck_eq
  have hfull := State.sensorScan_full hlive hreset hts hrs
  have hts0 : ts ≠ [] := by
    rintro rfl
    cases hts
  intro t
  have ht : t = _ := hfull
  clear_value t
  rw [hcheck] at ht
  subst ht
  exact ⟨rfl, rfl, rfl, rfl, rfl, decide_eq_true_iff.trans (lt_top hts0), rfl⟩

/-! MAINTAIN and Management. -/

theorem State.thawWeft_mgt (s : State) : s.thawWeft.mgt = s.mgt := by
  unfold State.thawWeft
  split <;> rfl

theorem State.freezeWeft_mgt (s : State) (e0 : Rat) : (s.freezeWeft e0).mgt = s.mgt := by
  unfold State.freezeWeft
  split <;> rfl

theorem State.servoFreeze_mgt (s : State) : s.servoFreeze.mgt = s.mgt := by
  have hslew : s.cancelSlew.mgt = s.mgt := by
    unfold State.cancelSlew
    split <;> rfl
  unfold State.servoFreeze State.newHold
  dsimp only
  split
  · rw [State.freezeWeft_mgt]
    exact hslew
  · rw [State.freezeWeft_mgt]
    exact hslew

theorem State.setMode_maintain_mgt (s : State) (cause : Nat) : (s.setMode .maintain cause).mgt = s.mgt := by
  unfold State.setMode
  extract_lets old s1 _ s1b s2 _ md _ gns _ s3 s4 s5
  have hs1 : s1.mgt = s.mgt := by
    unfold s1
    split <;> rfl
  have hs2 : s2.mgt = s.mgt := by
    refine .trans ?_ hs1
    unfold s2 State.leaveMaintain
    split
    · dsimp only
      split
      · exact State.thawWeft_mgt _
      · rfl
    · rfl
  calc s5.outputsFollow.mgt
      = s5.mgt := by rw [show s5.outputsFollow = _ from s5.outputsFollow_outputsOnly]
    _ = s4.mgt := s4.servoFreeze_mgt
    _ = s3.mgt := s3.log_mgt _ _
    _ = s2.mgt := by unfold s3; rw [State.cause_mgt]
    _ = s.mgt := hs2

theorem State.grantMaintain_mgt (s : State) (swap : Bool) : (s.grantMaintain swap).mgt = s.mgt :=
  s.setMode_maintain_mgt (if swap then 0x20 else 0x21)

/-- A check put into Bodkin's queue leaves the mode and Management (R21, R522). -/
theorem State.bodkinPut_stands (s : State) (bytes : List Byte) : (s.bodkinPut bytes).md = s.md ∧ (s.bodkinPut bytes).mgt = s.mgt := by
  unfold State.bodkinPut State.coreFull
  dsimp only
  split
  · exact ⟨rfl, rfl⟩
  · exact ⟨rfl, rfl⟩

/-! The update path (R601 to R604). -/

/-- No answer is owed to a SLOT_VERIFY. -/
theorem State.settle_none (h : s.mgt.upd.via = none) : s.settle = s := by
  unfold State.settle
  rw [h]

theorem State.updRefused_none (hw : s.noWrites = false) (hbusy : s.mgt.upd.busy = false) : s.updRefused = 0 := by
  unfold State.updRefused
  rw [hbusy, hw]
  rfl

/-- Of the two slots the one in use is refused, and only it. -/
theorem State.slotRefused_eq {k : Nat} (hw : s.noWrites = false) (hbusy : s.mgt.upd.busy = false) (hk : k = 1 ∨ k = 2) :
    s.slotRefused k = if s.cfg.slot = k then 0x22 else 0 := by
  unfold State.slotRefused
  rw [State.updRefused_none hw hbusy, if_neg (not_not.2 rfl), if_neg (by omega)]

section
variable {via : ReplyTo} {body : List Byte} (hlen : body.length = 1)
include hlen

theorem State.msgErase_refused (h : s.slotRefused (body.getD 0 0).toNat = 0x22) : s.msgErase via body = s.respond via 0x22 [] := by
  unfold State.msgErase
  dsimp only
  rw [if_neg (not_not.2 hlen), h]
  rfl

theorem State.msgVerify_refused (h : s.slotRefused (body.getD 0 0).toNat = 0x22) : s.msgVerify via body = s.respond via 0x22 [] := by
  unfold State.msgVerify
  dsimp only
  rw [if_neg (not_not.2 hlen), h]
  rfl

/-- SLOT_ERASE of the idle slot: the header's sector goes at once (R602). -/
theorem State.msgErase_begins (h : s.slotRefused (body.getD 0 0).toNat = 0) (hvia : s.mgt.upd.via = none) : s.msgErase via body =
    ((s.eraseFlash (s.slotBase (body.getD 0 0).toNat) sectorBytes).setUpd fun u =>
      { u with st := 1, slot := (body.getD 0 0).toNat, code := 0, progress := 0, busy := true, verified := 0, hdr := List.replicate 32 0xFF }).respond
        via 0 [] := by
  unfold State.msgErase
  dsimp only
  rw [if_neg (not_not.2 hlen), h, if_neg (not_not.2 rfl), State.settle_none hvia]

/-- SLOT_VERIFY of the idle slot: its read begins with the checks of its image (R604). -/
theorem State.msgVerify_begins (h : s.slotRefused (body.getD 0 0).toNat = 0) (hvia : s.mgt.upd.via = none) : s.msgVerify via body =
    (s.setUpd fun u => { u with st := 3, slot := (body.getD 0 0).toNat, code := 0, progress := 0, busy := true, verified := 0,
                                via := some via }).bodkinQueue (s.verifyChecks (body.getD 0 0).toNat) := by
  unfold State.msgVerify
  dsimp only
  rw [if_neg (not_not.2 hlen), h, if_neg (not_not.2 rfl), State.settle_none hvia]

end

/-- An answer in the mailbox touches nothing else (R615). -/
theorem State.respond_stands (s : State) (status : Nat) (data : List Byte) : let t := s.respond .mailbox status data
    t.answered (BitVec.ofNat 8 status) data ∧ t.mgt.upd = s.mgt.upd ∧ t = { s with mgt := t.mgt } :=
  ⟨s.respond_answered status data, rfl, rfl⟩

/-- What a SLOT_ERASE answers, and what it begins (R602). -/
theorem State.msgErase_spec {body : List Byte} (hlen : body.length = 1) (h : s.slotRefused (body.getD 0 0).toNat = 0) (hvia : s.mgt.upd.via = none) :
    let k := (body.getD 0 0).toNat
    let t := s.msgErase .mailbox body
    t.answered 0 [] ∧ t.cfg.flash = s.cfg.flash.filter (fun c => decide (c.1 < s.slotBase k ∨ s.slotBase k + 4096 ≤ c.1)) ∧
    t.mgt.upd = { s.mgt.upd with st := 1, slot := k, code := 0, progress := 0, busy := true, verified := 0, hdr := List.replicate 32 0xFF } ∧
    t = { s with mgt := t.mgt, cfg := { s.cfg with flash := t.cfg.flash } } := by
  intro k t
  have ht : t = _ := State.msgErase_begins hlen h hvia
  clear_value t
  have hflash : (s.eraseFlash (s.slotBase k) sectorBytes).cfg.flash =
      s.cfg.flash.filter (fun c => decide (c.1 < s.slotBase k ∨ s.slotBase k + 4096 ≤ c.1)) := rfl
  have herase : s.eraseFlash (s.slotBase k) sectorBytes =
      { s with cfg := { s.cfg with flash := (s.eraseFlash (s.slotBase k) sectorBytes).cfg.flash } } := rfl
  generalize s.eraseFlash (s.slotBase k) sectorBytes = e at *
  have hmgt : e.mgt = s.mgt := by rw [herase]
  generalize hu : e.setUpd _ = u at ht
  obtain ⟨hanswer, hupd, hrest⟩ := u.respond_stands 0 []
  rw [← ht] at hanswer hupd hrest
  have hcfg : t.cfg = e.cfg := by rw [hrest, ← hu]; rfl
  refine ⟨hanswer, by rw [hcfg, hflash], by rw [hupd, ← hu, ← hmgt]; rfl, ?_⟩
  rw [hcfg]
  exact hrest.trans (by rw [← hu, herase]; rfl)

/-- The state in which a SLOT_WRITE of a code has been noted (R603). -/
def State.writeNoted (s : State) (k code : Nat) : State :=
  s.setUpd fun u => { u with slot := k, code := code, st := if code = 0 then 0 else 6, verified := 0 }

/-- SLOT_WRITE to the idle slot: refused by what it would write, or its header's bytes to their buffer and the rest to the flash. -/
theorem State.msgWrite_idle {body : List Byte} (hlow : 9 ≤ body.length) (hhigh : body.length ≤ 1032)
    (h : s.slotRefused (body.getD 0 0).toNat = 0) (hvia : s.mgt.upd.via = none) :
    let k := (body.getD 0 0).toNat
    let off := ofLe (slice body 4 4)
    let c := s.writeCode k off (body.drop 8)
    s.msgWrite .mailbox body = (if c ≠ 0 then (s.writeNoted k c).logUpdate 0x011 k c else
      ((s.writeNoted k c).setUpd fun u => { u with hdr := splice u.hdr off ((body.drop 8).take (32 - off)) }).program
        (s.slotBase k + max 32 off) ((body.drop 8).drop (32 - off))).respond .mailbox c [] := by
  intro k off c
  unfold State.msgWrite
  dsimp only
  rw [if_neg (by omega), h, if_neg (not_not.2 rfl), State.settle_none hvia]
  rfl

theorem State.logUpdate_eq (s : State) (op k code : Nat) :
    s.logUpdate op k code = { s with ctr := (s.logUpdate op k code).ctr, fe := (s.logUpdate op k code).fe } := s.log_eq _ _

/-- What a SLOT_WRITE answers, and what it leaves (R603). -/
theorem State.msgWrite_spec {body : List Byte} (hlow : 9 ≤ body.length) (hhigh : body.length ≤ 1032)
    (h : s.slotRefused (body.getD 0 0).toNat = 0) (hvia : s.mgt.upd.via = none) :
    let k := (body.getD 0 0).toNat
    let off := ofLe (slice body 4 4)
    let c := s.writeCode k off (body.drop 8)
    let t := s.msgWrite .mailbox body
    t.answered (BitVec.ofNat 8 c) [] ∧ t.mgt.upd.code = c ∧ t.mgt.upd.verified = 0 ∧
      (c = 0 → t.mgt.upd.hdr = splice s.mgt.upd.hdr off ((body.drop 8).take (32 - off)) ∧
        t.cfg.flash = flashPut s.cfg.flash (s.slotBase k + max 32 off) ((body.drop 8).drop (32 - off)) ∧
        t = { s with mgt := t.mgt, cfg := { s.cfg with flash := t.cfg.flash } }) ∧
      (c ≠ 0 → t.cfg = s.cfg ∧ t.mgt.upd.hdr = s.mgt.upd.hdr) := by
  intro k off c t
  have ht : t = _ := State.msgWrite_idle hlow hhigh h hvia
  clear_value t
  by_cases hc : c = 0
  · rw [if_neg (not_not.2 hc)] at ht
    generalize hu : State.program _ _ _ = u at ht
    obtain ⟨hanswer, hupd, hrest⟩ := u.respond_stands c []
    rw [← ht] at hanswer hupd hrest
    have hcfg : t.cfg = u.cfg := by rw [hrest]
    have hu2 : u = { s with mgt := u.mgt, cfg := { s.cfg with flash := u.cfg.flash } } := by rw [← hu]; rfl
    refine ⟨hanswer, by rw [hupd, ← hu]; rfl, by rw [hupd, ← hu]; rfl, fun _ => ⟨by rw [hupd, ← hu]; rfl, by rw [hcfg, ← hu]; rfl, ?_⟩,
      fun hne => absurd hc hne⟩
    rw [hcfg]
    exact hrest.trans (by rw [hu2])
  · rw [if_pos hc] at ht
    have hlog := (s.writeNoted k c).logUpdate_eq 0x011 k c
    generalize (s.writeNoted k c).logUpdate 0x011 k c = u at *
    obtain ⟨hanswer, hupd, hrest⟩ := u.respond_stands c []
    rw [← ht] at hanswer hupd hrest
    have hcfg : t.cfg = s.cfg := by rw [hrest, hlog]; rfl
    refine ⟨hanswer, by rw [hupd, hlog]; rfl, by rw [hupd, hlog]; rfl, fun hz => absurd hz hc, fun _ => ⟨hcfg, by rw [hupd, hlog]; rfl⟩⟩

/-- The erase of a slot that has ended (R602). -/
theorem State.eraseDone_spec (ok : Bool) (hbusy : s.mgt.upd.busy = true) (hst : s.mgt.upd.st = 1) (hlive : s.fmu.halted = false) :
    let t := s.eraseDone ok
    t.mgt.upd = { s.mgt.upd with st := (if ok then 0 else 6), code := (if ok then 0 else 0x30),
                                 progress := (if ok then 100 else s.mgt.upd.progress), busy := false } ∧
    t.cfg.flash = (if ok then s.cfg.flash.filter (fun c =>
      decide (c.1 < s.slotBase s.mgt.upd.slot ∨ s.slotBase s.mgt.upd.slot + s.slotSize ≤ c.1)) else s.cfg.flash) ∧
    t.fe.nextSeq = s.fe.nextSeq + 1 ∧ t = { s with mgt := t.mgt, cfg := { s.cfg with flash := t.cfg.flash }, fe := t.fe, ctr := t.ctr } := by
  let erased := if ok then s.eraseFlash (s.slotBase s.mgt.upd.slot) s.slotSize else s
  let ended := erased.setUpd fun u =>
    { u with st := if ok then 0 else 6, code := if ok then 0 else 0x30, progress := if ok then 100 else u.progress, busy := false }
  have hlive2 : ended.fmu.halted = false := by
    unfold ended erased
    cases ok <;> exact hlive
  obtain ⟨fe, ctr, hlog, hseq, -⟩ := State.log_live hlive2 0x000A
    (leBytes 2 0x010 ++ [BitVec.ofNat 8 s.mgt.upd.slot, BitVec.ofNat 8 (if ok then 0 else 0x30)] ++ leBytes 4 (ended.slotSeq s.mgt.upd.slot))
  have hdone : s.eraseDone ok = { ended with fe := fe, ctr := ctr } := by
    rw [← hlog]
    exact if_neg (by simp [hbusy, hst, hlive])
  intro t
  have ht : t = _ := hdone
  clear_value t
  subst ht
  cases ok <;> exact ⟨rfl, rfl, hseq, rfl⟩

/-- The state in which the verification of a slot has ended with a code: only with 0 has the slot its header, and VERIFIED (R604). -/
def State.slotVerified (s : State) (c : Nat) : State :=
  (if c = 0 then s.program (s.slotBase s.mgt.upd.slot) s.mgt.upd.hdr else s).setUpd fun u =>
    { u with st := if c = 0 then 4 else 6, code := c, progress := 100, busy := false, via := none,
             verified := if c = 0 then u.slot else 0, fw := if c = 0 then (s.slotFw s.mgt.upd.slot s.mgt.upd.hdr).1 else 0 }

theorem State.verifyDone_ends {f : Bool} {c : Nat} (hbusy : s.mgt.upd.busy = true) (hst : s.mgt.upd.st = 3) (hlive : s.fmu.halted = false)
    (hvia : s.mgt.upd.via = some .mailbox) (hheld : s.bodkinHeld = false)
    (hc : (if f && s.cfg.flashOk then s.verifyCode s.mgt.upd.slot s.mgt.upd.hdr else 0x30) = c) :
    s.verifyDone f = ((s.slotVerified c).logUpdate 0x012 s.mgt.upd.slot c).respond .mailbox (if c = 0x30 then 0x30 else 0)
      ([BitVec.ofNat 8 c, 0, 0, 0] ++ leBytes 4 (hdrSeq s.mgt.upd.hdr) ++
        leBytes 4 (if c = 0 then (s.slotFw s.mgt.upd.slot s.mgt.upd.hdr).1 else 0).toNat) := by
  unfold State.verifyDone
  extract_lets u c2 good ver s1 s2 s3
  have hc2 : c2 = c := hc
  clear_value c2
  subst hc2
  rw [if_neg (ne_true_of_eq_false hlive), if_neg (by simp [u, hbusy, hst]), if_neg (by simp [hheld]), show u.via = some .mailbox from hvia]
  rfl

theorem State.slotVerified_spec (c : Nat) : let t := s.slotVerified c
    t.mgt.upd.code = c ∧ t.mgt.upd.busy = false ∧ t.mgt.upd.via = none ∧ t.mgt.upd.st = (if c = 0 then 4 else 6) ∧
    t.mgt.upd.verified = (if c = 0 then s.mgt.upd.slot else 0) ∧
    t.mgt.upd.fw = (if c = 0 then (s.slotFw s.mgt.upd.slot s.mgt.upd.hdr).1 else 0) ∧
    t.cfg.flash = if c = 0 then flashPut s.cfg.flash (s.slotBase s.mgt.upd.slot) s.mgt.upd.hdr else s.cfg.flash := by
  unfold State.slotVerified
  split <;> exact ⟨rfl, rfl, rfl, rfl, rfl, rfl, rfl⟩

/-- What the end of a SLOT_VERIFY leaves and answers (R604). -/
theorem State.verifyDone_spec {f : Bool} (hbusy : s.mgt.upd.busy = true) (hst : s.mgt.upd.st = 3) (hlive : s.fmu.halted = false)
    (hvia : s.mgt.upd.via = some .mailbox) (hheld : s.bodkinHeld = false) :
    let c := if f && s.cfg.flashOk then s.verifyCode s.mgt.upd.slot s.mgt.upd.hdr else 0x30
    let t := s.verifyDone f
    t.mgt.upd.code = c ∧ t.mgt.upd.busy = false ∧ t.mgt.upd.via = none ∧ t.mgt.upd.st = (if c = 0 then 4 else 6) ∧
    t.mgt.upd.verified = (if c = 0 then s.mgt.upd.slot else 0) ∧
    t.cfg.flash = (if c = 0 then flashPut s.cfg.flash (s.slotBase s.mgt.upd.slot) s.mgt.upd.hdr else s.cfg.flash) ∧
    t.answered (if c = 0x30 then 0x30 else 0) ([BitVec.ofNat 8 c, 0, 0, 0] ++ leBytes 4 (hdrSeq s.mgt.upd.hdr) ++ leBytes 4 t.mgt.upd.fw.toNat) := by
  intro c t
  have ht : t = _ := State.verifyDone_ends (f := f) (c := c) hbusy hst hlive hvia hheld rfl
  obtain ⟨hcode, hidle, howed, hstate, hver, hfw, hflash⟩ := s.slotVerified_spec c
  have hlog := (s.slotVerified c).logUpdate_eq 0x012 s.mgt.upd.slot c
  clear_value t c
  generalize (s.slotVerified c).logUpdate 0x012 s.mgt.upd.slot c = u at *
  generalize s.slotVerified c = v at *
  obtain ⟨hanswer, hupd, hrest⟩ := u.respond_stands (if c = 0x30 then 0x30 else 0) ([BitVec.ofNat 8 c, 0, 0, 0] ++
    leBytes 4 (hdrSeq s.mgt.upd.hdr) ++ leBytes 4 (if c = 0 then (s.slotFw s.mgt.upd.slot s.mgt.upd.hdr).1 else 0).toNat)
  rw [← ht] at hanswer hupd hrest
  have hupd2 : t.mgt.upd = v.mgt.upd := by rw [hupd, hlog]
  have hcfg : t.cfg = v.cfg := by rw [hrest, hlog]
  rw [apply_ite (BitVec.ofNat 8)] at hanswer
  rw [hupd2, hcfg, hfw]
  exact ⟨hcode, hidle, howed, hstate, hver, hflash, hanswer⟩

/-! The firmware swap (R39, R605, R606). -/

theorem State.swapRefused_unverified (hw : s.noWrites = false) (hbusy : s.mgt.upd.busy = false) (hrun : s.md.mode.running = true)
    (hver : s.mgt.upd.verified = 0) : s.swapRefused = 0x23 := by
  unfold State.swapRefused
  rw [State.updRefused_none hw hbusy]
  simp [hrun, hver]

/-- With a verified slot the swap turns on whether the new firmware reads this one's handover. -/
theorem State.swapRefused_verified (hw : s.noWrites = false) (hbusy : s.mgt.upd.busy = false) (hrun : s.md.mode.running = true)
    (hver : s.mgt.upd.verified ≠ 0) : s.swapRefused =
      if Config.fwHandover s.mgt.fwVer (s.slotFw s.mgt.upd.verified s.mgt.upd.hdr).2 then 0 else 0x26 := by
  unfold State.swapRefused
  rw [State.updRefused_none hw hbusy]
  cases hread : Config.fwHandover s.mgt.fwVer (s.slotFw s.mgt.upd.verified s.mgt.upd.hdr).2 <;> simp [hrun, hver, hread]

theorem State.msgSwap_refused {c : Nat} (via : ReplyTo) (h : s.swapRefused = c) (hc : c ≠ 0) (hmode : c ≠ 0x24) :
    s.msgSwap via [] = s.respond via c [] := by
  unfold State.msgSwap
  rw [if_neg (not_not.2 rfl), h, if_pos hc, if_neg hmode]

/-- The state in which a firmware swap has been granted and answered (R38, R605). -/
def State.swapGranted (s : State) : State :=
  ((s.grantMaintain true).setUpd fun u => { u with st := 5, slot := u.verified, code := 0, progress := 0, busy := true }).respond .mailbox 0 []

theorem State.msgSwap_granted (h : s.swapRefused = 0) (hvia : s.mgt.upd.via = none) : s.msgSwap .mailbox [] = s.swapGranted.bodkinPut imageCheck := by
  unfold State.msgSwap
  rw [if_neg (not_not.2 rfl), h, if_neg (not_not.2 rfl), State.settle_none hvia]
  rfl

theorem State.swapGranted_spec (s : State) : s.swapGranted.answered 0 [] ∧ s.swapGranted.md.mode = .maintain ∧
    s.swapGranted.md.prev = s.md.mode ∧ s.swapGranted.md.maint = some ⟨true, s.now, 2 * nsPerSec, false, false, []⟩ ∧
    s.swapGranted.mgt.upd = { s.mgt.upd with st := 5, slot := s.mgt.upd.verified, code := 0, progress := 0, busy := true } := by
  obtain ⟨hmode, hprev, -, hmaint⟩ := s.grantMaintain_md true
  have hmgt := s.grantMaintain_mgt true
  unfold State.swapGranted
  generalize s.grantMaintain true = u at *
  refine ⟨State.respond_answered _ 0 [], hmode, hprev, hmaint, ?_⟩
  rw [← hmgt]
  rfl

/-- The state in which the new firmware has taken over (R605). -/
def State.swapDone (s : State) (m : Maint) : State :=
  { s with md := { s.md with maint := some { m with ended := true } },
           mgt := { s.mgt with fwSlot := s.mgt.upd.slot, fwVer := s.mgt.upd.fw,
                               upd := { s.mgt.upd with st := 4, code := 0, progress := 100, busy := false } } }

/-- The state in which the old firmware goes on, the header of the new spoilt (R606). -/
def State.swapLost (s : State) (m : Maint) : State :=
  { s with fresh := s.fresh + 1, cfg := { s.cfg with flash := flashPut s.cfg.flash (s.slotBase s.mgt.upd.slot) (zeros 4) },
           md := { s.md with maint := some { m with boundHit := true } },
           mgt := { s.mgt with upd := { s.mgt.upd with st := 6, code := 0x30 + s.draw.1 % 2, busy := false, verified := 0 } } }

section
variable {m : Maint} (hmode : s.md.mode = .maintain) (hmaint : s.md.maint = some m) (hswap : m.swap = true) (hbusy : s.mgt.upd.busy = true)
  (hst : s.mgt.upd.st = 5) (hlive : s.fmu.halted = false)

section
include hmode hmaint

/-- A signal of the new firmware after its bound changes nothing. -/
theorem State.fwReady_late (hlate : m.boundHit = true ∨ m.began + 2 * nsPerSec ≤ s.now) : s.fwReady = s := by
  have h : (m.boundHit || decide (m.began + 2 * nsPerSec ≤ s.now)) = true := by simpa using hlate
  unfold State.fwReady
  rw [hmode, hmaint]
  dsimp only
  rw [h]
  exact if_pos (by simp)

include hswap hbusy hst hlive in
theorem State.fwReady_taken (hend : m.ended = false) (hbound : m.boundHit = false) (hnow : s.now < m.began + 2 * nsPerSec)
    (hheld : s.bodkinHeld = false) : s.fwReady = (s.swapDone m).logSwap 0 s.mgt.fwVer s.mgt.upd.fw := by
  have h : (m.boundHit || decide (m.began + 2 * nsPerSec ≤ s.now)) = false := by simpa [hbound] using hnow
  unfold State.fwReady
  rw [hmode, hmaint]
  dsimp only
  rw [h, if_neg (by simp [hswap, hend, hheld, hbusy, hst, hlive])]
  rfl

end

include hmaint hswap

theorem State.swapRevert_early (hnow : s.now < m.began + 2 * nsPerSec) : s.swapRevert = s := by
  have hdue : (m.swap && decide (m.began + 2 * nsPerSec ≤ s.now)) = false := by simpa [hswap] using hnow
  unfold State.swapRevert
  rw [hmaint]
  dsimp only
  rw [hdue]
  exact if_pos (by simp)

include hbusy hst hlive in
/-- Without the signal the swap ends after its bound (R606). -/
theorem State.swapRevert_due (hdue : m.began + 2 * nsPerSec ≤ s.now) : s.swapRevert = (s.swapLost m).logSwap 1 s.mgt.fwVer s.mgt.upd.fw := by
  have hdue2 : (m.swap && decide (m.began + 2 * nsPerSec ≤ s.now)) = true := by simp [hswap, hdue]
  unfold State.swapRevert
  rw [hmaint]
  dsimp only
  rw [hdue2, if_neg (by simp [hbusy, hst, hlive])]
  rfl

end

theorem State.logSwap_eq (s : State) (result : Nat) (old new : W32) :
    s.logSwap result old new = { s with ctr := (s.logSwap result old new).ctr, fe := (s.logSwap result old new).fe } := s.log_eq _ _

end

/-- Settles O54: an update operation by the slot it names and what it ends with, a firmware swap by its time, and the sensors, the page and the
registers by what they keep. -/
theorem slotsFirmwareSensorsAndTheStatusPage : Obligations.SlotsFirmwareSensorsAndTheStatusPage := by
  intro s
  refine ⟨fun tok hfree hbusy hvia => ?mailbox, fun ok hbusy hst hlive => ⟨_, exec_slotEraseDone s ok, State.eraseDone_spec ok hbusy hst hlive⟩,
    fun f hbusy hst hlive hvia hheld => ?verified, fun m hmode hmaint hswap hbusy hst hlive => ?swap,
    fun ts rs hlive hreset hts hrs => ⟨_, exec_sensorScan s ts rs, State.sensorScan_spec hlive hreset hts hrs⟩, fun hup => ?page, fun hmode hlat p => ?registers⟩
  case mailbox =>
    intro b k
    let s1 := s.mboxTake tok.toNat
    have hw : s1.noWrites = false := hfree.1
    have hin {known : Nat → Bool} {sub : List Byte → Bool} {act : State → ReplyTo → List Byte → State}
        (hsub : s.mgt.recovery = false ∨ sub b = true) : s.message known sub (.mailbox tok) act = act s1 .mailbox b :=
      State.message_served tok hfree hsub
    refine ⟨fun c hc hlen hk hslot => ?inUse, fun hk hslot => ?idle, fun hb hrec hrun hver => ?unverified, fun hb hrec hrun hver => ?granted⟩
    case inUse =>
      have hrefused : s1.slotRefused k = 0x22 := (State.slotRefused_eq hw hbusy hk).trans (if_pos hslot)
      simp only [List.mem_cons, List.not_mem_nil, or_false] at hc
      rcases hc with rfl | rfl
      · rw [exec_slotErase, hin (.inr rfl), State.msgErase_refused hlen hrefused]
      · rw [exec_slotVerify, hin (.inr rfl), State.msgVerify_refused hlen hrefused]
    case idle =>
      have hfits : s1.slotRefused k = 0 := (State.slotRefused_eq hw hbusy hk).trans (if_neg hslot)
      refine ⟨fun hlen => ?_, fun hlen => ?_, fun hlow hhigh => ?_⟩
      · exact ⟨s1.msgErase .mailbox b, by rw [exec_slotErase, hin (.inr rfl)], State.msgErase_spec hlen hfits hvia⟩
      · rw [exec_slotVerify, hin (.inr rfl), State.msgVerify_begins hlen hfits hvia]
      · exact ⟨s1.msgWrite .mailbox b, by rw [exec_slotWrite, hin (.inr rfl)], State.msgWrite_spec (s := s1) hlow hhigh hfits hvia⟩
    case unverified =>
      have hrefused := State.msgSwap_refused .mailbox (State.swapRefused_unverified (s := s1) hw hbusy hrun hver) (by decide) (by decide)
      exact ⟨_, by rw [exec_fwSwap, hin (.inl hrec), hb, hrefused], s1.respond_answered 0x23 [], rfl⟩
    case granted =>
      have hcode := State.swapRefused_verified (s := s1) hw hbusy hrun hver
      by_cases hread : Config.fwHandover s.mgt.fwVer (s.slotFw s.mgt.upd.verified s.mgt.upd.hdr).2 = true
      · have hgranted := State.msgSwap_granted (hcode.trans (if_pos hread)) hvia
        obtain ⟨hanswer, hmode, hprev, hmaint, hupd⟩ := s1.swapGranted_spec
        obtain ⟨hmd, hmgt⟩ := s1.swapGranted.bodkinPut_stands imageCheck
        refine ⟨s1.swapGranted.bodkinPut imageCheck, by rw [exec_fwSwap, hin (.inl hrec), hb, hgranted], ?_⟩
        rw [if_pos hread, hmd, hmgt]
        exact ⟨State.answered_congr hmgt hanswer, hmode, hprev, hmaint, hupd⟩
      · have hrefused := State.msgSwap_refused .mailbox (hcode.trans (if_neg hread)) (by decide) (by decide)
        refine ⟨s1.respond .mailbox 0x26 [], by rw [exec_fwSwap, hin (.inl hrec), hb, hrefused], ?_⟩
        rw [if_neg hread]
        exact ⟨s1.respond_answered 0x26 [], rfl⟩
  case verified => exact ⟨_, exec_slotVerifyDone s f, State.verifyDone_spec hbusy hst hlive hvia hheld⟩
  case swap =>
    refine ⟨fun hlate => by rw [exec_fwReady, State.fwReady_late hmode hmaint hlate], fun hend hbound hnow hheld => ?_, fun hdue => ?_,
      fun hnow => by rw [exec_fwSwapRevert, State.swapRevert_early hmaint hswap hnow]⟩
    · have htaken := State.fwReady_taken hmode hmaint hswap hbusy hst hlive hend hbound hnow hheld
      rw [State.logSwap_eq] at htaken
      exact ⟨_, (exec_fwReady s).trans (congrArg Host.Outcome.next htaken), rfl, rfl, rfl⟩
    · have hlost := State.swapRevert_due hmaint hswap hbusy hst hlive hdue
      rw [State.logSwap_eq] at hlost
      have hfree : 0x30 + s.draw.1 % 2 = 0x30 ∨ 0x30 + s.draw.1 % 2 = 0x31 := by omega
      exact ⟨_, (exec_fwSwapRevert s).trans (congrArg Host.Outcome.next hlost), rfl, rfl, rfl, rfl, rfl, rfl, hfree, rfl, rfl⟩
  case page => exact ⟨fun b => by rw [exec_i2cPointerWrite, State.i2cPoint_up hup], fun n => by rw [exec_i2cRead, State.i2cRead_up hup], State.i2cSnapshot_crc⟩
  case registers =>
    refine ⟨fun k hk => ⟨_, (exec_railMinRead s p hk).trans (congrArg Host.Outcome.next (State.readOn_rail hmode hk)), rfl, ?_, rfl⟩,
      ⟨_, (exec_mgtStatRead s p).trans (congrArg Host.Outcome.next (State.readOn_mgtStat hmode)), rfl, ?_, rfl⟩⟩
    · rw [State.latOf_setLat_self _ (by exact hlat)]
    · rw [State.latOf_setLat_self _ (by exact hlat)]

end Sys2Proof.Machine
end
